-- ==== Sys2Proof/Word.lean ====
section
/-! DEFINITION. The word types of the module (R1, R2) and their plainest conversions. -/

namespace Sys2Proof

abbrev Byte := BitVec 8
abbrev Half := BitVec 16
abbrev Word := BitVec 32
abbrev Dword := BitVec 64
/-- The value of a transport bus, of a vector register and of every operand latch (R120). -/
abbrev Bus := BitVec 512

/-- A scalar on a bus: bits [63:0], zeros above (R120). -/
def Dword.toBus (x : Dword) : Bus := x.setWidth 512

/-- Bits [63:0] of a bus (R120). -/
def Bus.low (v : Bus) : Dword := v.setWidth 64

end Sys2Proof
end

