-- ==== Sys2Proof/Syntax.lean ====
section
/-! DEFINITION. The instructions of the module: one constructor for each row of the table of operations and events. A move of the bundle (R101) has a head (guard and source) and the modifier of its trigger's class (Table 5.4); an event of another agent has no encoding: what it acts on, and the choice its rule leaves to that agent, stands in the event register of the state (EvArg). -/

namespace Sys2Proof

/-- The functional sockets of Table 5.3. -/
inductive Sock where
  | ctl | a0 | a1 | sh | mu | fp | sf | vu | vx | ls | ag | mx | dm | nt | kn | sy | tk | cf | sv | rp
deriving DecidableEq, Repr

/-- The three operand latches of a functional socket (R103, R123). -/
inductive Opnd where
  | opA | opB | opC
deriving DecidableEq, Repr

/-- Guard of a move: register b0 to b7 and the inversion bit (R101, R102). -/
structure Guard where
  inv : Bool
  sel : BitVec 3
deriving DecidableEq, Repr

/-- Source of a move (R101, R103). -/
inductive Src where
  | imm (v : BitVec 11)
  | grf (n : BitVec 5)
  | vrf (n : BitVec 5)
  | brf (n : BitVec 3)
  /-- result port .x -/
  | resX (s : Sock)
  /-- result port .y -/
  | resY (s : Sock)
  /-- status port .s -/
  | resS (s : Sock)
  /-- long immediate j, 0 to 2 -/
  | li (j : BitVec 2)
deriving DecidableEq, Repr

/-- Destination of a plain move: a register or an operand port (R103). -/
inductive Dst where
  | grf (n : BitVec 5)
  | vrf (n : BitVec 5)
  | brf (n : BitVec 3)
  | opnd (s : Sock) (o : Opnd)
deriving DecidableEq, Repr

/-- What every decoded move carries: its guard and its source. -/
structure Head where
  guard : Guard
  src : Src
deriving DecidableEq, Repr

/-- A move without a trigger: a null move, whose bits [27:0] are not decoded (R102), or a transport to a register or an operand port. -/
inductive Transport where
  | null (rest : BitVec 28)
  | live (h : Head) (d : Dst)
deriving DecidableEq, Repr

/-- The two identical integer units, `a0` and `a1` (R107, R159). -/
inductive Alu where
  | a0 | a1
deriving DecidableEq, Repr

/-- Class W: 32-bit or 64-bit (Table 5.4). -/
inductive Width where
  | w32 | w64
deriving DecidableEq, Repr

/-- The floating formats (Table 8.1), in the order of class T kinds 0 to 5. -/
inductive Fmt where
  | f64 | f32 | bf16 | f16 | e4m3 | e5m2
deriving DecidableEq, Repr

/-- Rounding modes (Table 5.4). -/
inductive Rnd where
  | rne | rz | ru | rd
deriving DecidableEq, Repr

/-- Integer widths as log2 of bytes: 8, 16, 32, 64 bits. -/
inductive ISize where
  | i8 | i16 | i32 | i64
deriving DecidableEq, Repr

/-- Classes T and TX: a float type with its rounding, or an integer type (Table 5.4). -/
inductive TMod where
  | flt (f : Fmt) (r : Rnd)
  | int (natural : Bool) (z : ISize)
deriving DecidableEq, Repr

/-- Target types of class C (Table 5.5). -/
inductive CType where
  | int (natural : Bool) (z : ISize)
  | flt (f : Fmt)
  /-- signed INT4 weight codes -/
  | code4
  /-- signed INT8 weight codes -/
  | code8
deriving DecidableEq, Repr

/-- Class C: target type and saturation. -/
structure CMod where
  ty : CType
  sat : Bool
deriving DecidableEq, Repr

/-- Layouts of a local access (Table 10.1). -/
inductive Layout where
  | lin | sw64 | sw128 | trn
deriving DecidableEq, Repr

/-- Class L: layout, natural bit, size. -/
structure LMod where
  layout : Layout
  natural : Bool
  size : ISize
deriving DecidableEq, Repr

/-- Order field of class M. -/
inductive Order where
  | plain | acq | rel | ar
deriving DecidableEq, Repr

/-- Scopes of class M (Table 16.3). -/
inductive Scope where
  | tile | quad | cluster | die | module | system
deriving DecidableEq, Repr

/-- Class M: order and scope. -/
structure MMod where
  order : Order
  scope : Scope
deriving DecidableEq, Repr

/-- The two host ports (R13). -/
inductive HostPort where
  | p0 | p1
deriving DecidableEq, Repr

/-- The paths on which an SPDM request arrives (R22). -/
inductive SpdmPath where
  | doe (p : HostPort)
  | mctp
deriving DecidableEq, Repr

/-- The operations of an atomic unit on a word beside compare and swap (R286). -/
inductive AtomFn where
  | add | swp | min | max | and | or | xor
deriving DecidableEq, Repr

/-- A request on host-visible memory: a read of n bytes, a write, or a PCIe AtomicOp of 4, 8 or 16 bytes (R385). -/
inductive MemReq where
  | read (n : Nat)
  | write (data : List Byte)
  | fetchAdd (size : Nat) (v : Nat)
  | swap (size : Nat) (v : Nat)
  | cas (size : Nat) (expect v : Nat)
  /-- any other atomic, sent to a peer's unit (R287) -/
  | alu (f : AtomFn) (natural : Bool) (size v : Nat)
  /-- a semaphore or barrier operation sent to a peer's unit (R352): 0 `sig`, 1 relative `sig`, 2 `swait`, 3 `sdec`, 4 `binit`, 5 `arrive`, 6 `drop`, 7 `bwait` -/
  | sync (op v : Nat)
deriving DecidableEq, Repr

/-- The paths on which a notify arrives: BAR4 or the device aperture (R55). -/
inductive NotifyPath where
  | bar4 (p : HostPort)
  | aperture
deriving DecidableEq, Repr

/-- Who asks for a migration: the host, or the tile of a cluster through its slot (R294). -/
inductive Requester where
  | host
  | slot (tile : Nat)
deriving DecidableEq, Repr

/-- What a Eutas packet carries (R304, R306, R313, R320): an acknowledgement, a piece of a push, a task message (or, with no task, a context), a request on the receiver's HBM, the answer to the packet of a sequence number, or a refusal of it with its hint. -/
inductive EutasBody where
  | ack
  | push (asid : Half) (rank zone off level sender : Nat) (data : List Byte)
  | message (asid : Half) (rank : Nat) (task : Option Nat) (sender : Nat) (data : List Byte)
  | request (pa : Nat) (req : MemReq)
  | answer (seq : Nat) (old : Nat) (fault : Nat) (detail : Nat) (phase : Bool)
  | refused (seq : Nat) (hint : Nat)
deriving DecidableEq, Repr


/-- What an event acts on and carries: the arguments of the rows without an encoding. Each event reads the fields its rule needs; the others are ignored. -/
structure EvArg where
  port : HostPort := .p0
  via : SpdmPath := .mctp
  path : NotifyPath := .aperture
  who : Requester := .host
  req : MemReq := .read 0
  body : EutasBody := .ack
  die : Nat := 0
  cluster : Nat := 0
  quad : Nat := 0
  tile : Nat := 0
  op : Nat := 0
  src : Nat := 0
  dst : Nat := 0
  seq : Nat := 0
  peer : Nat := 0
  packet : Nat := 0
  child : Nat := 0
  entry : Nat := 0
  channel : Nat := 0
  off : Nat := 0
  size : Nat := 0
  words : Nat := 0
  queue : Half := 0
  launch : Dword := 0
  val : Dword := 0
  id : Word := 0
  ring : BitVec 3 := 0
  dies : BitVec 24 := 0
  quads : List Nat := []
  clusters : List Nat := []
  nonce : BitVec 256 := 0
  yes : Bool := false
deriving DecidableEq, Repr

inductive Instr where
  /-- R121. A plain move transports a value from a source to a register or operand port. -/
  | move (m : Transport)
  /-- R144. Jumps to the code offset in ctl.a and discards the loop levels. -/
  | jmp (h : Head)
  /-- R144. Jumps to a register-held target. -/
  | jmpr (h : Head)
  /-- R144. Jumps to a constant target and writes the return address to ctl.x. -/
  | call (h : Head)
  /-- R144. Calls a register-held target and writes the return address to ctl.x. -/
  | callr (h : Head)
  /-- R144. Jumps to the offset held in ctl.a. -/
  | ret (h : Head)
  /-- R148. Opens a level of the repetition buffer with body, stagger, bound and step, or skips the body when the bound is 0. -/
  | loop (h : Head)
  /-- R151. Marks the innermost level to close at the end of its current pass. -/
  | loopx (h : Head)
  /-- R153. Idles n issue cycles that advance the free-running pipelines. -/
  | idle (h : Head)
  /-- R154. Halts the strand after the bundle's other moves have taken effect. -/
  | halt (h : Head)
  /-- R155. Raises TRAP_INSTRUCTION with a 16-bit code after the bundle's other moves. -/
  | trap (h : Head)
  /-- R156. Fuses the quad's four tiles into a gang led by tile 0 and jumps to the leader's target. -/
  | gang (h : Head)
  /-- R157. Dissolves a gang; each tile then fetches from its own target. -/
  | split (h : Head)
  /-- R155. Raises DEBUG when the tile's debug enable is set, and otherwise has no effect. -/
  | brk (h : Head)
  /-- R161. Integer add with carry and overflow status. -/
  | add (h : Head) (u : Alu) (w : Width)
  /-- R161. Integer subtract with borrow and overflow status. -/
  | sub (h : Head) (u : Alu) (w : Width)
  /-- R161. Bitwise AND. -/
  | and (h : Head) (u : Alu) (w : Width)
  /-- R161. Bitwise OR. -/
  | or (h : Head) (u : Alu) (w : Width)
  /-- R161. Bitwise XOR. -/
  | xor (h : Head) (u : Alu) (w : Width)
  /-- R161. A AND NOT B. -/
  | andn (h : Head) (u : Alu) (w : Width)
  /-- R161. A OR NOT B. -/
  | orn (h : Head) (u : Alu) (w : Width)
  /-- R161. Signed minimum. -/
  | min (h : Head) (u : Alu) (w : Width)
  /-- R161. Signed maximum. -/
  | max (h : Head) (u : Alu) (w : Width)
  /-- R161. Natural minimum. -/
  | minn (h : Head) (u : Alu) (w : Width)
  /-- R161. Natural maximum. -/
  | maxn (h : Head) (u : Alu) (w : Width)
  /-- R161. Signed absolute value. -/
  | abs (h : Head) (u : Alu) (w : Width)
  /-- R161. Two's-complement negation. -/
  | neg (h : Head) (u : Alu) (w : Width)
  /-- R161. Compare equal, giving 1 or 0. -/
  | ceq (h : Head) (u : Alu) (w : Width)
  /-- R161. Compare not equal. -/
  | cne (h : Head) (u : Alu) (w : Width)
  /-- R161. Signed less than. -/
  | clt (h : Head) (u : Alu) (w : Width)
  /-- R161. Signed less or equal. -/
  | cle (h : Head) (u : Alu) (w : Width)
  /-- R161. Natural less than. -/
  | cltn (h : Head) (u : Alu) (w : Width)
  /-- R161. Natural less or equal. -/
  | clen (h : Head) (u : Alu) (w : Width)
  /-- R161. Selects A when C is non-zero, else B. -/
  | sel (h : Head) (u : Alu) (w : Width)
  /-- R161. A + B × 2^c. -/
  | lea (h : Head) (u : Alu) (w : Width)
  /-- R161. Signed saturating add. -/
  | addsat (h : Head) (u : Alu) (w : Width)
  /-- R161. Signed saturating subtract. -/
  | subsat (h : Head) (u : Alu) (w : Width)
  /-- R161. Tests (A AND B) ≠ 0. -/
  | tst (h : Head) (u : Alu) (w : Width)
  /-- R162. Shift left. -/
  | shl (h : Head) (w : Width)
  /-- R162. Logical shift right. -/
  | shr (h : Head) (w : Width)
  /-- R162. Arithmetic shift right. -/
  | sar (h : Head) (w : Width)
  /-- R162. Rotate left. -/
  | rol (h : Head) (w : Width)
  /-- R162. Rotate right. -/
  | ror (h : Head) (w : Width)
  /-- R162. Count leading zeros. -/
  | clz (h : Head) (w : Width)
  /-- R162. Count trailing zeros. -/
  | ctz (h : Head) (w : Width)
  /-- R162. Population count. -/
  | popc (h : Head) (w : Width)
  /-- R162. Bit reverse. -/
  | brev (h : Head) (w : Width)
  /-- R162. Byte swap. -/
  | bswap (h : Head) (w : Width)
  /-- R163. Extracts a bit field, zero-extended. -/
  | extz (h : Head) (w : Width)
  /-- R163. Extracts a bit field, sign-extended. -/
  | exts (h : Head) (w : Width)
  /-- R163. Inserts a field of B into A. -/
  | ins (h : Head) (w : Width)
  /-- R164. One CRC-32C step over 4 or 8 data bytes. -/
  | crc (h : Head) (w : Width)
  /-- R165. Multiply, low part. -/
  | mul (h : Head) (w : Width)
  /-- R165. Signed multiply, high part. -/
  | mulh (h : Head) (w : Width)
  /-- R165. Natural multiply, high part. -/
  | mulhn (h : Head) (w : Width)
  /-- R165. Multiply-accumulate A × B + C. -/
  | mac (h : Head) (w : Width)
  /-- R165. Signed division onto mu.y, data-locked, landing after 34 or 66 ticks. -/
  | div (h : Head) (w : Width)
  /-- R165. Natural division onto mu.y. -/
  | divn (h : Head) (w : Width)
  /-- R165. Signed remainder onto mu.y. -/
  | rem (h : Head) (w : Width)
  /-- R165. Natural remainder onto mu.y. -/
  | remn (h : Head) (w : Width)
  /-- R196. Float add, rounded once. -/
  | fadd (h : Head) (m : TMod)
  /-- R196. Float subtract. -/
  | fsub (h : Head) (m : TMod)
  /-- R196. Float multiply. -/
  | fmul (h : Head) (m : TMod)
  /-- R196. Fused multiply-add A × B + C. -/
  | fma (h : Head) (m : TMod)
  /-- R196. Fused C − A × B. -/
  | fnma (h : Head) (m : TMod)
  /-- R197. Float minimum, treating NaN as missing. -/
  | fmin (h : Head) (m : TMod)
  /-- R197. Float maximum, treating NaN as missing. -/
  | fmax (h : Head) (m : TMod)
  /-- R198. Clears the sign bit. -/
  | fabs (h : Head) (m : TMod)
  /-- R198. Inverts the sign bit. -/
  | fneg (h : Head) (m : TMod)
  /-- R198. Copies the sign of B onto A. -/
  | fcpsgn (h : Head) (m : TMod)
  /-- R199. Quiet float compare equal. -/
  | fceq (h : Head) (m : TMod)
  /-- R199. Quiet float compare less. -/
  | fclt (h : Head) (m : TMod)
  /-- R199. Quiet float compare less or equal. -/
  | fcle (h : Head) (m : TMod)
  /-- R200. Writes a one-hot class mask. -/
  | fclass (h : Head) (m : TMod)
  /-- R201. Float-to-float conversion, with the source kind taken from fp.b. -/
  | fcvt (h : Head) (m : TMod)
  /-- R201. Float-to-integer conversion. -/
  | fcvtsi (h : Head) (m : TMod)
  /-- R201. Integer-to-float conversion. -/
  | fcvtis (h : Head) (m : TMod)
  /-- R202. Correctly rounded 2^X, scalar. -/
  | ex2 (h : Head) (m : TMod)
  /-- R202. Correctly rounded log2 X, scalar. -/
  | lg2 (h : Head) (m : TMod)
  /-- R202. Correctly rounded reciprocal, scalar. -/
  | rcp (h : Head) (m : TMod)
  /-- R202. Correctly rounded reciprocal square root, scalar. -/
  | rsq (h : Head) (m : TMod)
  /-- R202. Correctly rounded square root, scalar. -/
  | sqrt (h : Head) (m : TMod)
  /-- R202. Correctly rounded division, scalar. -/
  | fdiv (h : Head) (m : TMod)
  /-- R202. 2^X on every lane. -/
  | ex2Vec (h : Head) (m : TMod)
  /-- R202. log2 X on every lane. -/
  | lg2Vec (h : Head) (m : TMod)
  /-- R202. Reciprocal on every lane. -/
  | rcpVec (h : Head) (m : TMod)
  /-- R202. Reciprocal square root on every lane. -/
  | rsqVec (h : Head) (m : TMod)
  /-- R202. Square root on every lane. -/
  | sqrtVec (h : Head) (m : TMod)
  /-- R202. Division on every lane. -/
  | fdivVec (h : Head) (m : TMod)
  /-- R204. Lane-wise add. -/
  | vadd (h : Head) (m : TMod)
  /-- R204. Lane-wise subtract. -/
  | vsub (h : Head) (m : TMod)
  /-- R204. Lane-wise multiply. -/
  | vmul (h : Head) (m : TMod)
  /-- R204. Lane-wise fused A × B + C. -/
  | vfma (h : Head) (m : TMod)
  /-- R204. Lane-wise fused C − A × B. -/
  | vfnma (h : Head) (m : TMod)
  /-- R204. Lane-wise minimum. -/
  | vmin (h : Head) (m : TMod)
  /-- R204. Lane-wise maximum. -/
  | vmax (h : Head) (m : TMod)
  /-- R204. Lane-wise absolute value. -/
  | vabs (h : Head) (m : TMod)
  /-- R204. Lane-wise negation. -/
  | vneg (h : Head) (m : TMod)
  /-- R205. Lane-wise compare equal, all ones or zero. -/
  | vceq (h : Head) (m : TMod)
  /-- R205. Lane-wise compare less. -/
  | vclt (h : Head) (m : TMod)
  /-- R205. Lane-wise compare less or equal. -/
  | vcle (h : Head) (m : TMod)
  /-- R205. Lane-wise select by C. -/
  | vsel (h : Head) (m : TMod)
  /-- R206. 512-bit AND. -/
  | vand (h : Head)
  /-- R206. 512-bit OR. -/
  | vor (h : Head)
  /-- R206. 512-bit XOR. -/
  | vxor (h : Head)
  /-- R206. Lane-wise shift left. -/
  | vshl (h : Head) (m : TMod)
  /-- R206. Lane-wise logical shift right. -/
  | vshr (h : Head) (m : TMod)
  /-- R206. Lane-wise arithmetic shift right. -/
  | vsar (h : Head) (m : TMod)
  /-- R207. Reduces by the fixed pairwise tree into lane 0. -/
  | vsum (h : Head) (m : TMod)
  /-- R207. Tree maximum into lane 0, with its lowest index in vu.y. -/
  | vhmax (h : Head) (m : TMod)
  /-- R204. Lane-wise A × 2^k, rounded. -/
  | vscale (h : Head) (m : TMod)
  /-- R208. Permutes lanes by indices. -/
  | vperm (h : Head) (m : TMod)
  /-- R208. Two-source lane shuffle. -/
  | vshuf (h : Head) (m : TMod)
  /-- R208. Broadcasts a scalar to every lane. -/
  | vbcast (h : Head) (m : TMod)
  /-- R209. Extracts one lane to a scalar. -/
  | vext (h : Head) (m : TMod)
  /-- R209. Inserts a scalar into one lane. -/
  | vins (h : Head) (m : TMod)
  /-- R210. Converts lanes between element types. -/
  | vcvt (h : Head) (m : CMod)
  /-- R211. Converts and packs into a slot of vx.a. -/
  | vpack (h : Head) (m : CMod)
  /-- R211. Unpacks and converts a slot of vx.a. -/
  | vunpk (h : Head) (m : CMod)
  /-- R212. Compresses masked lanes, with the count in vx.y. -/
  | vcmprs (h : Head) (m : TMod)
  /-- R208. Writes an arithmetic lane sequence. -/
  | vlane (h : Head) (m : TMod)
  /-- R208. Rotates lanes. -/
  | vrot (h : Head) (m : TMod)
  /-- R212. Merges lanes of A and B by a mask. -/
  | vmerge (h : Head) (m : TMod)
  /-- R212. Collects lane sign bits into a scalar mask and counts them. -/
  | vmask (h : Head) (m : TMod)
  /-- R222. Local load of 1 to 8 bytes, extended. -/
  | ld (h : Head) (m : LMod)
  /-- R222. Local store of 1 to 8 bytes. -/
  | st (h : Head) (m : LMod)
  /-- R222. Local 64-byte vector load. -/
  | vld (h : Head) (l : Layout)
  /-- R222. Local 64-byte vector store. -/
  | vst (h : Head) (l : Layout)
  /-- R223. Byte-masked vector load. -/
  | vldl (h : Head) (l : Layout)
  /-- R223. Byte-masked vector store. -/
  | vstl (h : Head) (l : Layout)
  /-- R224. Local gather of elements by offsets. -/
  | vgat (h : Head) (m : LMod)
  /-- R224. Local scatter of elements by offsets. -/
  | vsct (h : Head) (m : LMod)
  /-- R225. Local atomic add, returning the old value. -/
  | aadd (h : Head) (m : LMod)
  /-- R225. Local atomic swap. -/
  | aswp (h : Head) (m : LMod)
  /-- R225. Local compare-and-swap. -/
  | acas (h : Head) (m : LMod)
  /-- R225. Local atomic minimum. -/
  | amin (h : Head) (m : LMod)
  /-- R225. Local atomic maximum. -/
  | amax (h : Head) (m : LMod)
  /-- R225. Local atomic OR. -/
  | aor (h : Head) (m : LMod)
  /-- R225. Local atomic AND. -/
  | aand (h : Head) (m : LMod)
  /-- R231. Opens a stream cursor on a pattern. -/
  | sopen (h : Head) (p : BitVec 5)
  /-- R231. Returns a cursor's next element address. -/
  | sstep (h : Head)
  /-- R232. Configures a ring at run time. -/
  | rinit (h : Head) (ring : BitVec 3)
  /-- R233. Pushes one line onto a ring. -/
  | rpush (h : Head) (ring : BitVec 3)
  /-- R233. Pops one line from a ring. -/
  | rpop (h : Head) (ring : BitVec 3)
  /-- R234. Starts a ring filler from a local stream pattern. -/
  | rfill (h : Head) (ring : BitVec 3)
  /-- R235. Returns a ring's state word. -/
  | rstat (h : Head) (ring : BitVec 3)
  /-- R233. Pops k lines without reading them. -/
  | rdrop (h : Head) (ring : BitVec 3)
  /-- R256. Accumulates nb dense k-blocks from rings into an accumulator. -/
  | mma (h : Head) (acc : BitVec 2)
  /-- R256. Accumulates 2:4 sparse blocks using a routing ring. -/
  | mmas (h : Head) (acc : BitVec 2)
  /-- R257. Zeroes the admitted entries of an accumulator. -/
  | mzero (h : Head) (acc : BitVec 2)
  /-- R258. Reads one accumulator row into mx.x. -/
  | mrd (h : Head) (acc : BitVec 2)
  /-- R259. Stores an accumulator to 1 KiB of local SRAM. -/
  | mst (h : Head) (acc : BitVec 2)
  /-- R259. Loads an accumulator from 1 KiB of local SRAM. -/
  | mld (h : Head) (acc : BitVec 2)
  /-- R260. Sets an accumulator's row and column masks. -/
  | mmask (h : Head) (acc : BitVec 2)
  /-- R282. Copies global bytes into local SRAM. -/
  | get (h : Head) (m : MMod)
  /-- R282. Copies local bytes to global memory. -/
  | put (h : Head) (m : MMod)
  /-- R283. Gathers global elements by a stream pattern into local SRAM. -/
  | getp (h : Head) (m : MMod)
  /-- R283. Scatters local bytes to global elements of a stream pattern. -/
  | putp (h : Head) (m : MMod)
  /-- R284. Starts a ring filler from global memory. -/
  | fill (h : Head) (m : MMod)
  /-- R285. Global scalar load. -/
  | gld (h : Head) (m : MMod)
  /-- R285. Global scalar store. -/
  | gst (h : Head) (m : MMod)
  /-- R286. Global atomic add at the home unit. -/
  | gadd (h : Head) (m : MMod)
  /-- R286. Global atomic swap. -/
  | gswp (h : Head) (m : MMod)
  /-- R286. Global compare-and-swap of 4, 8 or 16 bytes. -/
  | gcas (h : Head) (m : MMod)
  /-- R286. Global atomic minimum. -/
  | gmin (h : Head) (m : MMod)
  /-- R286. Global atomic maximum. -/
  | gmax (h : Head) (m : MMod)
  /-- R286. Global atomic AND. -/
  | gand (h : Head) (m : MMod)
  /-- R286. Global atomic OR. -/
  | gor (h : Head) (m : MMod)
  /-- R286. Global atomic XOR. -/
  | gxor (h : Head) (m : MMod)
  /-- R288. Orders the strand's dm operations at a scope. -/
  | mfence (h : Head) (m : MMod)
  /-- R316. Arms timetable k for later bells. -/
  | ttarm (h : Head) (k : BitVec 4)
  /-- R317. Pushes local bytes to a rank's landing zone as routed packets. -/
  | push (h : Head)
  /-- R317. Pushes the elements of a stream pattern. -/
  | pushp (h : Head)
  /-- R318. Declares and opens a landing zone. -/
  | land (h : Head)
  /-- R319. Closes a zone and returns the bytes counted. -/
  | lclose (h : Head)
  /-- R320. Sends a 16-byte task message. -/
  | msg (h : Head)
  /-- R320. Sends a 272-byte saved task context. -/
  | mig (h : Head)
  /-- R335. Declares a kiln collective and takes a slot. -/
  | kopen (h : Head)
  /-- R336. Contributes plain values to a collective. -/
  | kpart (h : Head)
  /-- R336. Contributes attention triples to a collective. -/
  | kattn (h : Head)
  /-- R337. Finishes unfinished attention rows locally. -/
  | kfin (h : Head)
  /-- R338. Reports on and possibly releases a collective slot. -/
  | kres (h : Head)
  /-- R349. Rings a bell at a domain level and runs the armed timetable. -/
  | bell (h : Head) (lev : BitVec 3)
  /-- R349. Rings a bell without running a timetable. -/
  | bellx (h : Head) (lev : BitVec 3)
  /-- R350. Waits for any tag of a mask. -/
  | wany (h : Head) (m : MMod)
  /-- R350. Waits for all tags of a mask. -/
  | wall (h : Head) (m : MMod)
  /-- R350. Waits for a tag and clears the lowest one set. -/
  | wffr (h : Head) (m : MMod)
  /-- R351. Clears tags. -/
  | tclr (h : Head)
  /-- R353. Raises a timeline semaphore or counting signal. -/
  | sig (h : Head) (m : MMod)
  /-- R354. Waits until a semaphore reaches a value. -/
  | swait (h : Head) (m : MMod)
  /-- R355. Decrements a counting signal. -/
  | sdec (h : Head) (m : MMod)
  /-- R357. Initialises a barrier object. -/
  | binit (h : Head)
  /-- R358. Arrives at a barrier and returns the phase. -/
  | arrive (h : Head) (m : MMod)
  /-- R358. Drops a participant from a barrier. -/
  | drop (h : Head) (m : MMod)
  /-- R359. Waits until a barrier's phase differs. -/
  | bwait (h : Head) (m : MMod)
  /-- R360. Marks the strand triggered for early dependants. -/
  | trig (h : Head)
  /-- R361. Orders all of the strand's accesses at a scope. -/
  | fence (h : Head) (m : MMod)
  /-- R405. Creates, reserves as inbound, or releases a task block. -/
  | spawn (h : Head)
  /-- R406. Ends the running task's turn. -/
  | yield (h : Head)
  /-- R406. Puts the task to sleep, or returns at once when a wake is pending. -/
  | sleep (h : Head)
  /-- R407. Wakes a task. -/
  | wake (h : Head)
  /-- R407. Sets or reads a task's priority. -/
  | prio (h : Head)
  /-- R407. Sets the quantum Q. -/
  | timer (h : Head)
  /-- R408. Dequeues and selects the highest-priority READY task. -/
  | next (h : Head)
  /-- R409. Switches to a selected task, loading and evicting as needed. -/
  | resume (h : Head)
  /-- R410. Removes the oldest mailbox message. -/
  | msgrd (h : Head)
  /-- R410. Returns the cluster load word. -/
  | cload (h : Head)
  /-- R410. Waits for an upcall, a READY task or a kernel message. -/
  | tidle (h : Head)
  /-- R168. Reads the module tick counter. -/
  | rdcyc (h : Head)
  /-- R169. Writes a pending matrix format value, or reads the format. -/
  | fmt (h : Head)
  /-- R170. Sets a socket's pipeline mode, subject to its lock. -/
  | mode (h : Head)
  /-- R171. Reads a domain register. -/
  | dom (h : Head) (lev : BitVec 3)
  /-- R171. Reads a placement register. -/
  | tid (h : Head) (k : BitVec 4)
  /-- R172. Reads and clears the sticky flags. -/
  | flags (h : Head)
  /-- R173. Sets or reads the tile's sleep depth. -/
  | sleepd (h : Head)
  /-- R422. Returns from, halts, or ends the launch of the trapped bank. -/
  | eret (h : Head)
  /-- R423. Reads a supervisor state dword or sets the trap offset. -/
  | cause (h : Head)
  /-- R424. Drops the TLB entries covering one page. -/
  | tlbinv (h : Head) (m : MMod)
  /-- R424. Drops every TLB entry of an ASID. -/
  | tlbinvas (h : Head) (m : MMod)
  /-- R425. Map fence over a range: drops entries and waits for unmap completion. -/
  | mapfence (h : Head) (m : MMod)
  /-- R426. Sets or reads the tile's bound ASID. -/
  | asid (h : Head)
  /-- R427. Reads or writes a register of another bank. -/
  | bank (h : Head)
  /-- R428. Copies a bank's capture block to local SRAM. -/
  | shcap (h : Head)
  /-- R428. Loads a bank's capture block from local SRAM. -/
  | shset (h : Head)
  /-- R429. Returns and optionally clears the tile error word. -/
  | errst (h : Head)
  /-- R430. Sets or reads the supervisor timer. -/
  | stmr (h : Head)
  /-- R455. Reads the store digest D or the record count N once earlier records are folded. -/
  | dgrd (h : Head)
  /-- R455. Returns D and resets the digest. -/
  | dgclr (h : Head)
  /-- R457. Starts arbitration logging for the launch at every unit. -/
  | logon (h : Head)
  /-- R458. Stops logging and writes the log headers. -/
  | logoff (h : Head)
  /-- R459. Starts the replay order gate from the log. -/
  | gateon (h : Head)
  /-- R459. Stops the gate and admits waiting operations. -/
  | gateoff (h : Head)
  /-- R460. Returns a die unit's log and gate word. -/
  | logst (h : Head)
  /-- R13. Deassertion of PERST# at either host port takes the module out of reset, and every management controller runs its boot ROM and self-test (stage ROM). -/
  | perstDeassert
  /-- R13. The first host port to train makes its management controller the boot leader, and the module enters AWAIT with BAR0 and BAR2 responding. -/
  | portTrained
  /-- R17. FWCMD = 1 in AWAIT commits the staged image, which is then verified under Table 1.5; the writing port becomes owner of the firmware load region. -/
  | fwcmdActivate
  /-- R14. Completion of HBM and die- and module-link training in stage MEMORY; spare maps are applied, or the module goes FATAL when fewer than 23 dies are usable. -/
  | memoryTraining
  /-- R13. Completion of loading the scheduler pair, leaf controllers and translation service cores in stage CONTROL. -/
  | controlLoad
  /-- R14. Completion of tile and SRAM self-test; failing quads are retired onto spare rows and failing clusters are held out of placement. -/
  | tileSelfTest
  /-- R14. The module reaches READY: launch queues are served and BAR2 maps HBM. -/
  | bootReady
  /-- R23. FWCMD = 2 in READY commits a live reload, which proceeds after verification through the schedulers, clusters and management controllers in order. -/
  | fwcmdReload
  /-- R23. After a cluster's placements have drained, its leaf controller loads the new image into that cluster and readmits it, or the cluster is held and the reload stops. -/
  | clusterReload
  /-- R24. FWCMD = 3 ends a reload; clusters already reloaded keep the new image and the rest keep the old one. -/
  | fwcmdEndReload
  /-- R28. The write of the XFERCMD dword at 0x78 submits an ownership transfer command; when accepted it empties the owner slot, and in every case it replaces TNONCE and updates XFERST. -/
  | transferCommand
  /-- R22. SPDM GET_VERSION request, answered over PCIe DOE or MCTP. -/
  | getVersion
  /-- R22. SPDM GET_CAPABILITIES request. -/
  | getCapabilities
  /-- R22. SPDM NEGOTIATE_ALGORITHMS request; only ECDSA P-256 and SHA-256 are offered. -/
  | negotiateAlgorithms
  /-- R22. SPDM GET_DIGESTS request. -/
  | getDigests
  /-- R22. SPDM GET_CERTIFICATE request. -/
  | getCertificate
  /-- R22. SPDM CHALLENGE request. -/
  | challenge
  /-- R22. SPDM GET_MEASUREMENTS returns slots 0 to 15 as indices 1 to 16, signed by the fused device key. -/
  | getMeasurements
  /-- R26. A host BAR0 write to a register without behaviour of its own; size rules apply, and illegal sizes complete as Unsupported Request. -/
  | registerWrite
  /-- R27. An access to a reserved BAR0 range or unnamed offset reads zero, discards writes and increments RSVCNT. -/
  | reservedAccess
  /-- R29. A host access through BAR2 reaches the staging SRAM or the HBM window set by WINCTL; it is untranslated, and PCIe AtomicOps are performed by the home die's atomic unit. -/
  | bar2Access
  /-- R31. A write of PWRCAP sets the power cap, clamped to 3,000 to 8,000 W in 50 W steps. -/
  | pwrcapWrite
  /-- R32. When the cap is still not met 10 ms after a write, launches on the affected dies are pre-empted, lowest priority first, until it is met. -/
  | capDeadline
  /-- R32. A die junction temperature reaching 105 °C makes the management controllers fence that die. -/
  | junctionOvertemp
  /-- R54. QCMD op 1 checks the queue descriptor, zeroes the header and makes the queue created, or gives result 2. -/
  | queueCreate
  /-- R54. QCMD op 2 stops the queue from taking records at once and sets QCMDST.busy. -/
  | queueDestroy
  /-- R54. Once every kernel launched from a destroyed queue has completed, the queue ceases to exist and dependants on its unlaunched indices are cancelled. -/
  | queueDestroyComplete
  /-- R59. QCMD op 3 clears a faulted queue's fault cause and restarts it at the faulted index with a fresh count. -/
  | queueResume
  /-- R72. QCMD op 4 ends, without a save, every uncompleted kernel launched from the queue, with status 6. -/
  | queueAbort
  /-- R55. An 8-byte notify write through BAR4 or the device aperture sets the queue's notified index to max(N, w), or is discarded and counted. -/
  | notifyWrite
  /-- R56. Woken by the snoop filter, the scheduler maps an unmapped queue, evicting the longest-idle mapped queue that has no unread records. -/
  | queueMap
  /-- R58. The scheduler reads record i as mark, body, mark, and accepts it only when both marks equal i + 1 and the CRC matches; it re-reads after 3,400 ticks otherwise. -/
  | recordRead
  /-- R77. For a ready head record, the scheduler chooses dies and lowest origins whose rectangles are wholly available, and sends PLACE. -/
  | launchPlacement
  /-- R77. A leaf receives PLACE, reserves its rectangle and loads the image, answering PLACED or NOFIT. -/
  | place
  /-- R70. The scheduler receives PLACED; once every involved leaf has answered, it sends START. -/
  | placed
  /-- R77. The scheduler receives NOFIT, releases the leaves that answered PLACED, marks the refusing cluster unavailable and chooses again. -/
  | nofit
  /-- R70. A leaf receives START and starts its tiles' strands at the named module tick. -/
  | start
  /-- R64. The scheduler receives TRIGGERED; when every cluster has sent it, an early dependence on the launch is met. -/
  | triggered
  /-- R448. The scheduler receives HALTED; once every involved leaf has sent it, the kernel retires. -/
  | halted
  /-- R68. When a launch ends, the scheduler writes its status slot and then, if done is set, the completion value with release at system scope. -/
  | completionWrite
  /-- R434. A leaf receives PREEMPT for a launch and sends halt requests to its tiles. -/
  | preempt
  /-- R450. A leaf receives RELEASE, frees the launch's quads, clears gang state, removes it from the rank map and closes its zones and kiln slots. -/
  | release
  /-- R432. The scheduler receives FAULT with a cause and role, and the launch ends under R438. -/
  | fault
  /-- R69. When the active scheduler misses its heartbeat for 170,000 ticks, or at a reload handover, the standby becomes active and resumes from the journal. -/
  | schedulerTakeover
  /-- R114. A dependant whose conditions hold has its code loaded into the shadow halves of its producer's quads. -/
  | stageLaunch
  /-- R116. At tick-mode tick T, every quad of the placement swaps its halves and starts D's strands. -/
  | switchTick
  /-- R117. A switch token arrives; a die switches once D's dependence is met, P's strands on it have halted and tokens have come from every other die. -/
  | switchToken
  /-- R87. An error counter reaching its threshold makes the leaf condemn the quad: it stops placement there, or marks the quad lost when the column's spare is used. -/
  | quadCondemn
  /-- R87. After the launches in the column have been pre-empted or have completed, the column is shifted onto its spare row and the quads return to availability. -/
  | columnShift
  /-- R91. DIEFENCE with go set fences a die: it leaves the healthy set, its launches end, its links close and its HBM becomes unreachable. -/
  | dieFence
  /-- R89. 64 replays on one die-link lane within 2^24 ticks start lane repair and retraining, with traffic held. -/
  | laneRepair
  /-- R89. Retraining ends within 34,000 ticks; held traffic is replayed, at half width once the redundant lanes are exhausted. -/
  | linkRetrainEnd
  /-- R90. 16 corrected errors within 2^34 ticks start sparing an HBM pseudo-channel, whose accesses are refused during the copy. -/
  | pseudoChannelSpare
  /-- R90. The pseudo-channel copy completes and its addresses are redirected to the spare. -/
  | spareCopyEnd
  /-- R121. A fetched bundle is decoded and issued as one step in phases read, write and trigger, or it stalls. -/
  | bundleIssue
  /-- R97. A parity error in a bundle about to issue is corrected by reloading the line from the HBM copy; a second failure faults with DATA_UNCORRECTABLE. -/
  | parityRefetch
  /-- R125. A free-running operation lands at the end of issue cycle n + L − 1 and writes its result, status and flags. -/
  | freeRunningLanding
  /-- R129. A completed data-locked operation lands in trigger order, writing its ports and setting their full bits. -/
  | dataLockedLanding
  /-- R148. At the end of a pass, the level's count is advanced and the level closes or starts its next pass. -/
  | loopPassEnd
  /-- R153. The n idle cycles of ctl.idle are used up, and the next bundle issues. -/
  | idleEnd
  /-- R169. A pending cf.fmt value takes effect for mx triggers three bundles after its write. -/
  | fmtTakesEffect
  /-- R234. A ring filler commits a full staging element when n lines are free; its last commit sets its tag and clears it as producer. -/
  | fillerCommit
  /-- R217. The scrubber reads one SRAM word at most every 256 ticks, corrects single-bit errors and reports uncorrectable words. -/
  | scrubRead
  /-- R245. An mx operation starts once its predecessor has ended and, if data-locked, once all its lines are present. -/
  | mxOpStart
  /-- R249. At the end of cycle E − 1 an mma or mmas commits its admitted entries and pops its claimed lines. -/
  | mxOpEnd
  /-- R278. A dm operation completes when it has been performed at its scope, landing its result and status and setting its tag. -/
  | dmCompletion
  /-- R268. On a TLB miss, the translation service core walks the page tables, checks them and fills the TLBs. -/
  | translationWalk
  /-- R272. The first write through an entry with D clear goes back to the core, which sets D by an atomic OR and refills the entry. -/
  | dUpdate
  /-- R276. RESOLVE with result 0 re-walks the pending page for the named fault record. -/
  | resolveRewalk
  /-- R276. RESOLVE with result 1 turns every access of the fault record into a final TRANSLATION_FAULT. -/
  | resolveFail
  /-- R276. Advancing FQTAIL frees fault-queue room, so held fault records are written. -/
  | fqtailWrite
  /-- R274. An access refused with a retry-after hint is sent again, and translated again, when the hint has elapsed. -/
  | accessRetry
  /-- R294. A migrate request (op 1), through a slot of the request aperture or through MIGCMD, is checked and started by the page's home translation service core. -/
  | migrate
  /-- R388. A replicate request (op 2) copies the page to every healthy die and then sets REP with release. -/
  | replicate
  /-- R388. A collapse request (op 3) clears REP through the migration steps, keeping one replica as the frame. -/
  | collapse
  /-- R386. The core performs the next step of Table 16.7 once the previous one (CAS, map fence or copy) has completed. -/
  | migrationStep
  /-- R289. The home atomic unit performs an arriving atomic, semaphore or barrier operation, ordering arrivals on one tick by L4 rank. -/
  | atomicArrival
  /-- R291. The oldest operation waiting at the gate exceeds the gate timeout, so the gate diverges with ORDER_DIVERGENCE. -/
  | gateTimeout
  /-- R354. A watch-list entry is rechecked at least every 1,700 ticks and at each unit write, and a satisfied swait or bwait completes. -/
  | watchRecheck
  /-- R313. A Eutas packet arrives; the receiver acknowledges it, discards duplicates and delivers it once. -/
  | eutasPacketReceive
  /-- R313. When no acknowledgement arrives within EUTASTO.timeout, the sender retransmits from its retry store. -/
  | eutasRetransmit
  /-- R389. A peer becomes unreachable: its TLB entries are dropped and in-flight accesses complete with PEER_UNREACHABLE. -/
  | peerLoss
  /-- R299. At tick W each member runs its armed timetable, sending and receiving beats at fixed offsets. -/
  | windowStart
  /-- R302. At W + Λ the window ends, arrivals are released at die scope and exchange faults are delivered. -/
  | windowEnd
  /-- R306. A routed packet reaches its zone and is written, accumulated, held or refused with a hint. -/
  | packetArrival
  /-- R306. The sending engine sends a refused packet, kiln child or message again once its hint has elapsed. -/
  | packetRetry
  /-- R326. A contribution or partial reaches its kiln node; it is combined with a held sibling under R325 or held, or refused when the kiln is full. -/
  | kilnChildArrival
  /-- R343. A bell rings when it reaches the head of the sy queue and its release conditions of R344 have been met. -/
  | bellRing
  /-- R345. Once every member has rung or halted, the bell releases and fixes a common tick W for its domain. -/
  | bellRelease
  /-- R350. A tag wait completes on the first tick its mask condition holds. -/
  | tagWaitComplete
  /-- R396. The running task leaves at a bundle boundary and bank0's tk.resume lands the upcall word. -/
  | taskSwitchOut
  /-- R398. At each 64-tick timer unit, READY tasks age and are promoted, the quantum is counted and expired sleep deadlines wake tasks. -/
  | timerUnit
  /-- R399. A task message is accepted into a mailbox or refused, and may wake the task or raise KMSG. -/
  | messageAccept
  /-- R402. An arriving nt.mig context enters the lowest INBOUND block and becomes READY, or is refused with a 1,024-tick hint. -/
  | contextArrival
  /-- R403. Every 1,700 module ticks, and at START, the leaf writes the cluster load register of each tasked launch. -/
  | clusterLoadWrite
  /-- R405. After 8 ticks a create spawn's block becomes READY and the spawn's slot is freed. -/
  | spawnCreateEnd
  /-- R409. An evicted task's 8-tick save completes; the task keeps its state and its recorded wakes are applied. -/
  | taskSaveEnd
  /-- R409. A task's 8-tick load completes, its recorded wakes are applied and the tile switches to it. -/
  | taskLoadEnd
  /-- R400. The completion notice of a parked task's access makes the task READY at the tail of its level. -/
  | completionNotice
  /-- R401. A tile sleeps at its cf.sleepd depth after 32 consecutive stalled ticks, or when tk.tidle has nothing to return. -/
  | tileSleep
  /-- R401. An event that ends the stall wakes the tile, and the bundle issues after the wake delay d. -/
  | tileWake
  /-- R417. A pending cause captures the user bank, writes the supervisor state and starts bank3 at offset 0. -/
  | supervisorEntry
  /-- R430. The supervisor timer reaches 0 and makes PREEMPT with detail 1 pending for the running user strand. -/
  | supervisorTimerExpiry
  /-- R442. Writing 1 to bit 1 of a tile's debug control raises DEBUG with detail 2. -/
  | debugHaltRequest
  /-- R442. Writing 1 to bit 2 of a tile's debug control releases a tile held by the DEBUG handler. -/
  | debugRelease
  /-- R435. A tile with a class 2 request halts at its first eligible bundle boundary and captures every bank. -/
  | preemptHalt
  /-- R436. After the halt, engines drain or freeze, every Saved item is copied to the save area and the leaf answers HALTED. -/
  | preemptSave
  /-- R437. A restored launch is placed, its state is written back and rewritten, and its strands resume on one tick. -/
  | restore
  /-- R441. Every 2^40 ticks each quad error counter is halved. -/
  | errorCounterHalving
  /-- R445. A halted tile becomes drained when every operation of Table 19.1 has been performed, and its leaf may then send HALTED. -/
  | tileDrained
  /-- R13. Assertion of PERST# puts the module back into reset, the only way out of stages 0xF0 and 0xF1 and the moment at which TNONCE is regenerated and the strap is sampled. -/
  | moduleReset
  /-- R389. A peer that was unreachable becomes reachable again, after which every access to it is translated by a new walk. -/
  | peerReachableAgain
  /-- R274. A CXL port starts or ends retraining, and accesses homed on it are refused with the remaining hold time as hint while it lasts. -/
  | cxlPortRetraining
deriving DecidableEq, Repr

end Sys2Proof
end

