-- ==== Sys2Proof/Machine/Accept.lean ====
section
/-! DEFINITION. The form of every instruction: its socket, its trigger port (Table 5.6), its modifier, and which modifier codes it accepts (R105 and the table of each socket's chapter). -/

namespace Sys2Proof

/-- The sets of class T and TX types that the tables of `fp`, `sf`, `vu` and `vx` name. A name ending in x takes no rounding (class TX). -/
inductive TypeSet where
  | flt4 | flt4x | flt6x | flt6 | ints | f32only | f32f64 | flt4int | flt4intx | flt6signedx | anyx
deriving DecidableEq, Repr

/-- F of Tables 9.2 and 9.7. -/
def Fmt.isF : Fmt → Bool
  | .f64 | .f32 | .bf16 | .f16 => true
  | .e4m3 | .e5m2 => false

/-- The modifier names a type of the set; class TX admits no rounding suffix (Table 5.4). -/
def TMod.within : TMod → TypeSet → Bool
  | .flt f _, .flt4 => f.isF
  | .flt f r, .flt4x => f.isF && r == .rne
  | .flt _ r, .flt6x => r == .rne
  | .flt _ _, .flt6 => true
  | .flt _ _, .ints => false
  | .flt f _, .f32only => f == .f32
  | .flt f _, .f32f64 => f == .f32 || f == .f64
  | .flt f _, .flt4int => f.isF
  | .flt f r, .flt4intx => f.isF && r == .rne
  | .flt _ r, .flt6signedx => r == .rne
  | .flt _ r, .anyx => r == .rne
  | .int _ _, .ints | .int _ _, .flt4int | .int _ _, .flt4intx | .int _ _, .anyx => true
  | .int n _, .flt6signedx => !n
  | .int _ _, .flt4 | .int _ _, .flt4x | .int _ _, .flt6x | .int _ _, .flt6 | .int _ _, .f32only
  | .int _ _, .f32f64 => false

/-- The orders a class M instruction accepts (Tables 12.5, 15.2, and 18.4 for `sv`). -/
inductive OrderSet where
  | none | acq | rel | relAr | all
deriving DecidableEq, Repr

def Order.within : Order → OrderSet → Bool
  | .plain, _ => true
  | .acq, .acq | .acq, .all => true
  | .rel, .rel | .rel, .relAr | .rel, .all => true
  | .ar, .relAr | .ar, .all => true
  | .acq, .none | .acq, .rel | .acq, .relAr | .rel, .none | .rel, .acq | .ar, .none | .ar, .acq
  | .ar, .rel => false

/-- A decoded modifier with what its instruction accepts of its class (Tables 5.4 and 5.6). -/
inductive Mod where
  | z
  | w (w : Width)
  | t (set : TypeSet) (m : TMod)
  | c (m : CMod)
  /-- `atomic`: sizes 4 and 8 only (Table 10.2) -/
  | l (atomic : Bool) (m : LMod)
  | lv (l : Layout)
  | m (set : OrderSet) (q : MMod)
  /-- levels 0 to 4 -/
  | d (v : BitVec 3)
  /-- indices below `lim` -/
  | k (lim : Nat) (k : BitVec 4)
  | p (p : BitVec 5)
  | r (r : BitVec 3)
  | a (a : BitVec 2)
deriving DecidableEq, Repr

/-- The modifier is one the instruction accepts (R105). -/
def Mod.accepted : Mod → Bool
  | .t set x => x.within set
  | .l atomic x => !atomic || x.size == .i32 || x.size == .i64
  | .m set x => x.order.within set
  | .d x => decide (x.toNat ≤ 4)
  | .k lim x => decide (x.toNat < lim)
  | .z | .w _ | .c _ | .lv _ | .p _ | .r _ | .a _ => true

/-- What an instruction is: an event of another agent, a move without a trigger, or a trigger move with its socket and port. -/
inductive Form where
  | event
  | move (m : Transport)
  | trig (h : Head) (s : Sock) (port : BitVec 5) (md : Mod)
deriving DecidableEq, Repr

def Alu.sock : Alu → Sock
  | .a0 => .a0
  | .a1 => .a1

/-- Table 5.6, with the accepted modifiers of each entry. -/
def Instr.form : Instr → Form
  | .move m => .move m
  | .jmp h => .trig h .ctl 8 (.z)
  | .jmpr h => .trig h .ctl 9 (.z)
  | .call h => .trig h .ctl 10 (.z)
  | .callr h => .trig h .ctl 11 (.z)
  | .ret h => .trig h .ctl 12 (.z)
  | .loop h => .trig h .ctl 13 (.z)
  | .loopx h => .trig h .ctl 14 (.z)
  | .idle h => .trig h .ctl 15 (.z)
  | .halt h => .trig h .ctl 16 (.z)
  | .trap h => .trig h .ctl 17 (.z)
  | .gang h => .trig h .ctl 18 (.z)
  | .split h => .trig h .ctl 19 (.z)
  | .brk h => .trig h .ctl 20 (.z)
  | .add h u w => .trig h (u.sock) 8 (.w w)
  | .sub h u w => .trig h (u.sock) 9 (.w w)
  | .and h u w => .trig h (u.sock) 10 (.w w)
  | .or h u w => .trig h (u.sock) 11 (.w w)
  | .xor h u w => .trig h (u.sock) 12 (.w w)
  | .andn h u w => .trig h (u.sock) 13 (.w w)
  | .orn h u w => .trig h (u.sock) 14 (.w w)
  | .min h u w => .trig h (u.sock) 15 (.w w)
  | .max h u w => .trig h (u.sock) 16 (.w w)
  | .minn h u w => .trig h (u.sock) 17 (.w w)
  | .maxn h u w => .trig h (u.sock) 18 (.w w)
  | .abs h u w => .trig h (u.sock) 19 (.w w)
  | .neg h u w => .trig h (u.sock) 20 (.w w)
  | .ceq h u w => .trig h (u.sock) 21 (.w w)
  | .cne h u w => .trig h (u.sock) 22 (.w w)
  | .clt h u w => .trig h (u.sock) 23 (.w w)
  | .cle h u w => .trig h (u.sock) 24 (.w w)
  | .cltn h u w => .trig h (u.sock) 25 (.w w)
  | .clen h u w => .trig h (u.sock) 26 (.w w)
  | .sel h u w => .trig h (u.sock) 27 (.w w)
  | .lea h u w => .trig h (u.sock) 28 (.w w)
  | .addsat h u w => .trig h (u.sock) 29 (.w w)
  | .subsat h u w => .trig h (u.sock) 30 (.w w)
  | .tst h u w => .trig h (u.sock) 31 (.w w)
  | .shl h w => .trig h .sh 8 (.w w)
  | .shr h w => .trig h .sh 9 (.w w)
  | .sar h w => .trig h .sh 10 (.w w)
  | .rol h w => .trig h .sh 11 (.w w)
  | .ror h w => .trig h .sh 12 (.w w)
  | .clz h w => .trig h .sh 13 (.w w)
  | .ctz h w => .trig h .sh 14 (.w w)
  | .popc h w => .trig h .sh 15 (.w w)
  | .brev h w => .trig h .sh 16 (.w w)
  | .bswap h w => .trig h .sh 17 (.w w)
  | .extz h w => .trig h .sh 18 (.w w)
  | .exts h w => .trig h .sh 19 (.w w)
  | .ins h w => .trig h .sh 20 (.w w)
  | .crc h w => .trig h .sh 21 (.w w)
  | .mul h w => .trig h .mu 8 (.w w)
  | .mulh h w => .trig h .mu 9 (.w w)
  | .mulhn h w => .trig h .mu 10 (.w w)
  | .mac h w => .trig h .mu 11 (.w w)
  | .div h w => .trig h .mu 12 (.w w)
  | .divn h w => .trig h .mu 13 (.w w)
  | .rem h w => .trig h .mu 14 (.w w)
  | .remn h w => .trig h .mu 15 (.w w)
  | .fadd h m => .trig h .fp 8 (.t .flt4 m)
  | .fsub h m => .trig h .fp 9 (.t .flt4 m)
  | .fmul h m => .trig h .fp 10 (.t .flt4 m)
  | .fma h m => .trig h .fp 11 (.t .flt4 m)
  | .fnma h m => .trig h .fp 12 (.t .flt4 m)
  | .fmin h m => .trig h .fp 13 (.t .flt4x m)
  | .fmax h m => .trig h .fp 14 (.t .flt4x m)
  | .fabs h m => .trig h .fp 15 (.t .flt6x m)
  | .fneg h m => .trig h .fp 16 (.t .flt6x m)
  | .fcpsgn h m => .trig h .fp 17 (.t .flt6x m)
  | .fceq h m => .trig h .fp 18 (.t .flt6x m)
  | .fclt h m => .trig h .fp 19 (.t .flt6x m)
  | .fcle h m => .trig h .fp 20 (.t .flt6x m)
  | .fclass h m => .trig h .fp 21 (.t .flt6x m)
  | .fcvt h m => .trig h .fp 22 (.t .flt6 m)
  | .fcvtsi h m => .trig h .fp 23 (.t .ints m)
  | .fcvtis h m => .trig h .fp 24 (.t .flt6 m)
  | .ex2 h m => .trig h .sf 8 (.t .f32only m)
  | .lg2 h m => .trig h .sf 9 (.t .f32only m)
  | .rcp h m => .trig h .sf 10 (.t .f32f64 m)
  | .rsq h m => .trig h .sf 11 (.t .f32only m)
  | .sqrt h m => .trig h .sf 12 (.t .f32f64 m)
  | .fdiv h m => .trig h .sf 13 (.t .f32f64 m)
  | .ex2Vec h m => .trig h .sf 16 (.t .f32only m)
  | .lg2Vec h m => .trig h .sf 17 (.t .f32only m)
  | .rcpVec h m => .trig h .sf 18 (.t .f32f64 m)
  | .rsqVec h m => .trig h .sf 19 (.t .f32only m)
  | .sqrtVec h m => .trig h .sf 20 (.t .f32f64 m)
  | .fdivVec h m => .trig h .sf 21 (.t .f32f64 m)
  | .vadd h m => .trig h .vu 8 (.t .flt4int m)
  | .vsub h m => .trig h .vu 9 (.t .flt4int m)
  | .vmul h m => .trig h .vu 10 (.t .flt4int m)
  | .vfma h m => .trig h .vu 11 (.t .flt4int m)
  | .vfnma h m => .trig h .vu 12 (.t .flt4int m)
  | .vmin h m => .trig h .vu 13 (.t .flt4intx m)
  | .vmax h m => .trig h .vu 14 (.t .flt4intx m)
  | .vabs h m => .trig h .vu 15 (.t .flt6signedx m)
  | .vneg h m => .trig h .vu 16 (.t .flt6signedx m)
  | .vceq h m => .trig h .vu 17 (.t .anyx m)
  | .vclt h m => .trig h .vu 18 (.t .anyx m)
  | .vcle h m => .trig h .vu 19 (.t .anyx m)
  | .vsel h m => .trig h .vu 20 (.t .anyx m)
  | .vand h => .trig h .vu 21 (.z)
  | .vor h => .trig h .vu 22 (.z)
  | .vxor h => .trig h .vu 23 (.z)
  | .vshl h m => .trig h .vu 24 (.t .ints m)
  | .vshr h m => .trig h .vu 25 (.t .ints m)
  | .vsar h m => .trig h .vu 26 (.t .ints m)
  | .vsum h m => .trig h .vu 27 (.t .flt4int m)
  | .vhmax h m => .trig h .vu 28 (.t .flt4intx m)
  | .vscale h m => .trig h .vu 29 (.t .flt4 m)
  | .vperm h m => .trig h .vx 8 (.t .anyx m)
  | .vshuf h m => .trig h .vx 9 (.t .anyx m)
  | .vbcast h m => .trig h .vx 10 (.t .anyx m)
  | .vext h m => .trig h .vx 11 (.t .anyx m)
  | .vins h m => .trig h .vx 12 (.t .anyx m)
  | .vcvt h m => .trig h .vx 13 (.c m)
  | .vpack h m => .trig h .vx 14 (.c m)
  | .vunpk h m => .trig h .vx 15 (.c m)
  | .vcmprs h m => .trig h .vx 16 (.t .anyx m)
  | .vlane h m => .trig h .vx 17 (.t .ints m)
  | .vrot h m => .trig h .vx 18 (.t .anyx m)
  | .vmerge h m => .trig h .vx 19 (.t .anyx m)
  | .vmask h m => .trig h .vx 20 (.t .anyx m)
  | .ld h m => .trig h .ls 8 (.l false m)
  | .st h m => .trig h .ls 9 (.l false m)
  | .vld h l => .trig h .ls 10 (.lv l)
  | .vst h l => .trig h .ls 11 (.lv l)
  | .vldl h l => .trig h .ls 12 (.lv l)
  | .vstl h l => .trig h .ls 13 (.lv l)
  | .vgat h m => .trig h .ls 14 (.l false m)
  | .vsct h m => .trig h .ls 15 (.l false m)
  | .aadd h m => .trig h .ls 16 (.l true m)
  | .aswp h m => .trig h .ls 17 (.l true m)
  | .acas h m => .trig h .ls 18 (.l true m)
  | .amin h m => .trig h .ls 19 (.l true m)
  | .amax h m => .trig h .ls 20 (.l true m)
  | .aor h m => .trig h .ls 21 (.l true m)
  | .aand h m => .trig h .ls 22 (.l true m)
  | .sopen h p => .trig h .ag 8 (.p p)
  | .sstep h => .trig h .ag 9 (.z)
  | .rinit h r => .trig h .ag 10 (.r r)
  | .rpush h r => .trig h .ag 11 (.r r)
  | .rpop h r => .trig h .ag 12 (.r r)
  | .rfill h r => .trig h .ag 13 (.r r)
  | .rstat h r => .trig h .ag 14 (.r r)
  | .rdrop h r => .trig h .ag 15 (.r r)
  | .mma h a => .trig h .mx 8 (.a a)
  | .mmas h a => .trig h .mx 9 (.a a)
  | .mzero h a => .trig h .mx 10 (.a a)
  | .mrd h a => .trig h .mx 11 (.a a)
  | .mst h a => .trig h .mx 12 (.a a)
  | .mld h a => .trig h .mx 13 (.a a)
  | .mmask h a => .trig h .mx 14 (.a a)
  | .get h m => .trig h .dm 8 (.m .acq m)
  | .put h m => .trig h .dm 9 (.m .rel m)
  | .getp h m => .trig h .dm 10 (.m .acq m)
  | .putp h m => .trig h .dm 11 (.m .rel m)
  | .fill h m => .trig h .dm 12 (.m .acq m)
  | .gld h m => .trig h .dm 13 (.m .acq m)
  | .gst h m => .trig h .dm 14 (.m .rel m)
  | .gadd h m => .trig h .dm 15 (.m .all m)
  | .gswp h m => .trig h .dm 16 (.m .all m)
  | .gcas h m => .trig h .dm 17 (.m .all m)
  | .gmin h m => .trig h .dm 18 (.m .all m)
  | .gmax h m => .trig h .dm 19 (.m .all m)
  | .gand h m => .trig h .dm 20 (.m .all m)
  | .gor h m => .trig h .dm 21 (.m .all m)
  | .gxor h m => .trig h .dm 22 (.m .all m)
  | .mfence h m => .trig h .dm 23 (.m .none m)
  | .ttarm h k => .trig h .nt 8 (.k 16 k)
  | .push h => .trig h .nt 9 (.z)
  | .pushp h => .trig h .nt 10 (.z)
  | .land h => .trig h .nt 11 (.z)
  | .lclose h => .trig h .nt 12 (.z)
  | .msg h => .trig h .nt 13 (.z)
  | .mig h => .trig h .nt 14 (.z)
  | .kopen h => .trig h .kn 8 (.z)
  | .kpart h => .trig h .kn 9 (.z)
  | .kattn h => .trig h .kn 10 (.z)
  | .kfin h => .trig h .kn 11 (.z)
  | .kres h => .trig h .kn 12 (.z)
  | .bell h v => .trig h .sy 8 (.d v)
  | .bellx h v => .trig h .sy 9 (.d v)
  | .wany h m => .trig h .sy 10 (.m .acq m)
  | .wall h m => .trig h .sy 11 (.m .acq m)
  | .wffr h m => .trig h .sy 12 (.m .acq m)
  | .tclr h => .trig h .sy 13 (.z)
  | .sig h m => .trig h .sy 14 (.m .rel m)
  | .swait h m => .trig h .sy 15 (.m .acq m)
  | .sdec h m => .trig h .sy 16 (.m .all m)
  | .binit h => .trig h .sy 17 (.z)
  | .arrive h m => .trig h .sy 18 (.m .relAr m)
  | .drop h m => .trig h .sy 19 (.m .relAr m)
  | .bwait h m => .trig h .sy 20 (.m .acq m)
  | .trig h => .trig h .sy 21 (.z)
  | .fence h m => .trig h .sy 22 (.m .all m)
  | .spawn h => .trig h .tk 8 (.z)
  | .yield h => .trig h .tk 9 (.z)
  | .sleep h => .trig h .tk 10 (.z)
  | .wake h => .trig h .tk 11 (.z)
  | .prio h => .trig h .tk 12 (.z)
  | .timer h => .trig h .tk 13 (.z)
  | .next h => .trig h .tk 14 (.z)
  | .resume h => .trig h .tk 15 (.z)
  | .msgrd h => .trig h .tk 16 (.z)
  | .cload h => .trig h .tk 17 (.z)
  | .tidle h => .trig h .tk 18 (.z)
  | .rdcyc h => .trig h .cf 8 (.z)
  | .fmt h => .trig h .cf 9 (.z)
  | .mode h => .trig h .cf 10 (.z)
  | .dom h v => .trig h .cf 11 (.d v)
  | .tid h k => .trig h .cf 12 (.k 4 k)
  | .flags h => .trig h .cf 13 (.z)
  | .sleepd h => .trig h .cf 14 (.z)
  | .eret h => .trig h .sv 8 (.z)
  | .cause h => .trig h .sv 9 (.z)
  | .tlbinv h m => .trig h .sv 10 (.m .none m)
  | .tlbinvas h m => .trig h .sv 11 (.m .none m)
  | .mapfence h m => .trig h .sv 12 (.m .none m)
  | .asid h => .trig h .sv 13 (.z)
  | .bank h => .trig h .sv 14 (.z)
  | .shcap h => .trig h .sv 15 (.z)
  | .shset h => .trig h .sv 16 (.z)
  | .errst h => .trig h .sv 17 (.z)
  | .stmr h => .trig h .sv 18 (.z)
  | .dgrd h => .trig h .rp 8 (.z)
  | .dgclr h => .trig h .rp 9 (.z)
  | .logon h => .trig h .rp 10 (.z)
  | .logoff h => .trig h .rp 11 (.z)
  | .gateon h => .trig h .rp 12 (.z)
  | .gateoff h => .trig h .rp 13 (.z)
  | .logst h => .trig h .rp 14 (.z)
  | .perstDeassert => .event
  | .portTrained => .event
  | .fwcmdActivate => .event
  | .memoryTraining => .event
  | .controlLoad => .event
  | .tileSelfTest => .event
  | .bootReady => .event
  | .fwcmdReload => .event
  | .clusterReload => .event
  | .fwcmdEndReload => .event
  | .transferCommand => .event
  | .getVersion => .event
  | .getCapabilities => .event
  | .negotiateAlgorithms => .event
  | .getDigests => .event
  | .getCertificate => .event
  | .challenge => .event
  | .getMeasurements => .event
  | .registerWrite => .event
  | .reservedAccess => .event
  | .bar2Access => .event
  | .pwrcapWrite => .event
  | .capDeadline => .event
  | .junctionOvertemp => .event
  | .queueCreate => .event
  | .queueDestroy => .event
  | .queueDestroyComplete => .event
  | .queueResume => .event
  | .queueAbort => .event
  | .notifyWrite => .event
  | .queueMap => .event
  | .recordRead => .event
  | .launchPlacement => .event
  | .place => .event
  | .placed => .event
  | .nofit => .event
  | .start => .event
  | .triggered => .event
  | .halted => .event
  | .completionWrite => .event
  | .preempt => .event
  | .release => .event
  | .fault => .event
  | .schedulerTakeover => .event
  | .stageLaunch => .event
  | .switchTick => .event
  | .switchToken => .event
  | .quadCondemn => .event
  | .columnShift => .event
  | .dieFence => .event
  | .laneRepair => .event
  | .linkRetrainEnd => .event
  | .pseudoChannelSpare => .event
  | .spareCopyEnd => .event
  | .bundleIssue => .event
  | .parityRefetch => .event
  | .freeRunningLanding => .event
  | .dataLockedLanding => .event
  | .loopPassEnd => .event
  | .idleEnd => .event
  | .fmtTakesEffect => .event
  | .fillerCommit => .event
  | .scrubRead => .event
  | .mxOpStart => .event
  | .mxOpEnd => .event
  | .dmCompletion => .event
  | .translationWalk => .event
  | .dUpdate => .event
  | .resolveRewalk => .event
  | .resolveFail => .event
  | .fqtailWrite => .event
  | .accessRetry => .event
  | .migrate => .event
  | .replicate => .event
  | .collapse => .event
  | .migrationStep => .event
  | .atomicArrival => .event
  | .gateTimeout => .event
  | .watchRecheck => .event
  | .eutasPacketReceive => .event
  | .eutasRetransmit => .event
  | .peerLoss => .event
  | .windowStart => .event
  | .windowEnd => .event
  | .packetArrival => .event
  | .packetRetry => .event
  | .kilnChildArrival => .event
  | .bellRing => .event
  | .bellRelease => .event
  | .tagWaitComplete => .event
  | .taskSwitchOut => .event
  | .timerUnit => .event
  | .messageAccept => .event
  | .contextArrival => .event
  | .clusterLoadWrite => .event
  | .spawnCreateEnd => .event
  | .taskSaveEnd => .event
  | .taskLoadEnd => .event
  | .completionNotice => .event
  | .tileSleep => .event
  | .tileWake => .event
  | .supervisorEntry => .event
  | .supervisorTimerExpiry => .event
  | .debugHaltRequest => .event
  | .debugRelease => .event
  | .preemptHalt => .event
  | .preemptSave => .event
  | .restore => .event
  | .errorCounterHalving => .event
  | .tileDrained => .event
  | .moduleReset => .event
  | .peerReachableAgain => .event
  | .cxlPortRetraining => .event

/-- The trigger operand of the operation at a trigger port (R124 and the entries that depart from it); none where the entry ignores its trigger value. -/
def trigOpnd (s : Sock) (port : Nat) : Option Opnd :=
  match s with
  | .ctl => if port = 14 ∨ port = 16 then none else if port = 13 then some .opC else some .opA
  | .a0 | .a1 =>
    if port = 19 ∨ port = 20 then some .opA else if port = 27 ∨ port = 28 then some .opC else some .opB
  | .sh => if 13 ≤ port ∧ port ≤ 17 then some .opA else if port = 20 then some .opC else some .opB
  | .mu => if port = 11 then some .opC else some .opB
  | .fp =>
    if port = 11 ∨ port = 12 then some .opC
    else if port = 15 ∨ port = 16 ∨ 21 ≤ port then some .opA else some .opB
  | .sf => if port = 13 ∨ port = 21 then some .opB else some .opA
  | .vu =>
    if port = 11 ∨ port = 12 ∨ port = 20 then some .opC
    else if port = 15 ∨ port = 16 ∨ port = 27 ∨ port = 28 then some .opA else some .opB
  | .vx =>
    if port = 9 ∨ port = 12 ∨ port = 19 then some .opC
    else if port = 10 ∨ port = 13 ∨ port = 15 ∨ port = 20 then some .opA else some .opB
  | .ls =>
    if port = 8 ∨ port = 10 then some .opA
    else if port = 13 ∨ port = 15 ∨ port = 18 then some .opC else some .opB
  | .ag =>
    if port = 12 ∨ port = 14 then none
    else if port = 9 ∨ port = 11 ∨ port = 15 then some .opA else some .opB
  | .mx =>
    if port = 10 then none else if 11 ≤ port ∧ port ≤ 13 then some .opA else some .opB
  | .dm =>
    if port = 23 then none else if port = 13 then some .opA
    else if (8 ≤ port ∧ port ≤ 11) ∨ port = 17 then some .opC else some .opB
  | .nt => if port = 8 then none else if port = 12 then some .opA else some .opC
  | .kn => if port = 8 ∨ port = 11 then some .opC else if port = 12 then some .opA else some .opB
  | .sy =>
    if port = 8 ∨ port = 9 ∨ port = 21 ∨ port = 22 then none
    else if 10 ≤ port ∧ port ≤ 13 then some .opA else some .opB
  | .tk =>
    if port = 8 then some .opC
    else if port = 10 ∨ port = 11 ∨ port = 13 then some .opA
    else if port = 12 ∨ port = 15 then some .opB else none
  | .cf => if port = 8 ∨ port = 11 ∨ port = 12 then none else some .opA
  | .sv =>
    if port = 12 then some .opC
    else if port = 10 ∨ port = 14 ∨ port = 15 ∨ port = 16 then some .opB else some .opA
  | .rp =>
    if port = 8 ∨ port = 14 then some .opA
    else if port = 10 ∨ port = 12 then some .opB else none

end Sys2Proof
end

