-- ==== Sys2Proof/WellFormed.lean ====
section
/-! DEFINITION. Well-formed instructions: the terms of Instr that some word of the spec's encoding stands for. Events have no word and are all well-formed. -/

namespace Sys2Proof

/-- The guard *not b0* marks a null move and no other (R102). -/
def Guard.live (g : Guard) : Bool := !(g.inv && g.sel == 0)

/-- Long immediates are `li0` to `li2` (R103). -/
def Src.wf : Src → Bool
  | .li j => decide (j.toNat < 3)
  | .imm _ | .grf _ | .vrf _ | .brf _ | .resX _ | .resY _ | .resS _ => true

def Head.wf (h : Head) : Bool := h.guard.live && h.src.wf

def Transport.wf : Transport → Bool
  | .null _ => true
  | .live h _ => h.wf

/-- A move is well-formed when its guard is not the null guard, its long immediate exists, and its modifier is one the instruction accepts (R102, R103, R105). -/
def Instr.wf (i : Instr) : Bool :=
  match i.form with
  | .event => true
  | .move m => m.wf
  | .trig h _ _ md => h.wf && md.accepted

end Sys2Proof
end

