-- ==== Sys2Proof/Decode.lean ====
section
/-! DEFINITION. Decoding: one move word (Tables 5.2 to 5.6), a bundle (Table 5.1), the checks of Table 5.7 in their order, and the encoder written from the same tables. -/

namespace Sys2Proof

/-- The causes decoding can raise (Table 5.7). -/
inductive DecodeError where
  | illegalBundle | reservedSocket | privilegedPort | portConflict
deriving DecidableEq, Repr

/-- The fields of a move word (Table 5.2). -/
structure Fields where
  guard : BitVec 4
  isImm : Bool
  sval : BitVec 11
  dsock : BitVec 6
  dport : BitVec 5
  md : BitVec 5
deriving DecidableEq, Repr

def Fields.split (w : Word) : Fields :=
  { guard := w.extractLsb' 28 4, isImm := w.getLsbD 27, sval := w.extractLsb' 16 11,
    dsock := w.extractLsb' 10 6, dport := w.extractLsb' 5 5, md := w.extractLsb' 0 5 }

def Fields.join (f : Fields) : Word :=
  f.guard ++ BitVec.ofBool f.isImm ++ f.sval ++ f.dsock ++ f.dport ++ f.md

/-- Functional sockets by number (Table 5.3). -/
def sockOf (n : Nat) : Option Sock :=
  match n with
  | 0x00 => some .ctl | 0x04 => some .a0 | 0x05 => some .a1 | 0x06 => some .sh | 0x07 => some .mu
  | 0x08 => some .fp | 0x09 => some .sf | 0x0A => some .vu | 0x0B => some .vx | 0x0C => some .ls
  | 0x0D => some .ag | 0x0E => some .mx | 0x0F => some .dm | 0x10 => some .nt | 0x11 => some .kn
  | 0x12 => some .sy | 0x13 => some .tk | 0x14 => some .cf | 0x15 => some .sv | 0x16 => some .rp
  | _ => none

def Sock.num : Sock → Nat
  | .ctl => 0x00 | .a0 => 0x04 | .a1 => 0x05 | .sh => 0x06 | .mu => 0x07 | .fp => 0x08 | .sf => 0x09
  | .vu => 0x0A | .vx => 0x0B | .ls => 0x0C | .ag => 0x0D | .mx => 0x0E | .dm => 0x0F | .nt => 0x10
  | .kn => 0x11 | .sy => 0x12 | .tk => 0x13 | .cf => 0x14 | .sv => 0x15 | .rp => 0x16

/-- Sockets 0x17 to 0x3E are reserved (Table 5.3). -/
def reservedSock (n : BitVec 6) : Bool := decide (0x17 ≤ n.toNat ∧ n.toNat ≤ 0x3E)

/-- Source ports (R103); none when the port is reserved. -/
def sourceOf (sock : BitVec 6) (port : BitVec 5) : Option Src :=
  match sock.toNat with
  | 0x01 => some (.grf port)
  | 0x02 => some (.vrf port)
  | 0x03 => if port.toNat < 8 then some (.brf (port.setWidth 3)) else none
  | 0x3F => if port.toNat < 3 then some (.li (port.setWidth 2)) else none
  | n =>
    match sockOf n with
    | none => none
    | some s =>
      match port.toNat with
      | 0 => some (.resX s)
      | 1 => some (.resY s)
      | 2 => some (.resS s)
      | _ => none

/-- Class T and TX codes (Table 5.4). -/
def decodeT (v : BitVec 5) : TMod :=
  let low := v.extractLsb' 0 2
  let rnd : Rnd := if low = 0 then .rne else if low = 1 then .rz else if low = 2 then .ru else .rd
  let sz : ISize := if low = 0 then .i8 else if low = 1 then .i16 else if low = 2 then .i32 else .i64
  match (v.extractLsb' 2 3).toNat with
  | 0 => .flt .f64 rnd
  | 1 => .flt .f32 rnd
  | 2 => .flt .bf16 rnd
  | 3 => .flt .f16 rnd
  | 4 => .flt .e4m3 rnd
  | 5 => .flt .e5m2 rnd
  | 6 => .int false sz
  | _ => .int true sz

/-- Target codes of class C (Table 5.5). -/
def decodeCType (n : Nat) : CType :=
  match n with
  | 0 => .int false .i8 | 1 => .int false .i16 | 2 => .int false .i32 | 3 => .int false .i64
  | 4 => .int true .i8 | 5 => .int true .i16 | 6 => .int true .i32 | 7 => .int true .i64
  | 8 => .flt .f64 | 9 => .flt .f32 | 10 => .flt .bf16 | 11 => .flt .f16
  | 12 => .flt .e4m3 | 13 => .flt .e5m2 | 14 => .code4 | _ => .code8

def decodeLayout (n : BitVec 2) : Layout :=
  if n = 0 then .lin else if n = 1 then .sw64 else if n = 2 then .sw128 else .trn

def decodeSize (n : BitVec 2) : ISize :=
  if n = 0 then .i8 else if n = 1 then .i16 else if n = 2 then .i32 else .i64

def decodeOrder (n : BitVec 2) : Order :=
  if n = 0 then .plain else if n = 1 then .acq else if n = 2 then .rel else .ar

/-- Scope codes; 6 and 7 are reserved (Table 5.4). -/
def decodeScope (n : Nat) : Option Scope :=
  match n with
  | 0 => some .tile | 1 => some .quad | 2 => some .cluster | 3 => some .die | 4 => some .module
  | 5 => some .system | _ => none

/-- A trigger port: the instruction it builds from a head and a decoded modifier of its class. -/
inductive TrigPort where
  | z (mk : Head → Instr)
  | w (mk : Head → Width → Instr)
  | t (mk : Head → TMod → Instr)
  | c (mk : Head → CMod → Instr)
  | l (mk : Head → LMod → Instr)
  | lv (mk : Head → Layout → Instr)
  | m (mk : Head → MMod → Instr)
  | d (mk : Head → BitVec 3 → Instr)
  | k (mk : Head → BitVec 4 → Instr)
  | p (mk : Head → BitVec 5 → Instr)
  | r (mk : Head → BitVec 3 → Instr)
  | a (mk : Head → BitVec 2 → Instr)

/-- The modifier field decoded under the port's class (Table 5.4); none for a code the class reserves. -/
def TrigPort.build (q : TrigPort) (h : Head) (v : BitVec 5) : Option Instr :=
  match q with
  | .z mk => if v = 0 then some (mk h) else none
  | .w mk => if v = 0 then some (mk h .w32) else if v = 1 then some (mk h .w64) else none
  | .t mk => some (mk h (decodeT v))
  | .c mk => some (mk h { ty := decodeCType (v.extractLsb' 1 4).toNat, sat := v.getLsbD 0 })
  | .l mk =>
    some (mk h { layout := decodeLayout (v.extractLsb' 3 2), natural := v.getLsbD 2,
                 size := decodeSize (v.extractLsb' 0 2) })
  | .lv mk => if v.extractLsb' 0 3 = 0 then some (mk h (decodeLayout (v.extractLsb' 3 2))) else none
  | .m mk =>
    match decodeScope (v.extractLsb' 0 3).toNat with
    | some sc => some (mk h { order := decodeOrder (v.extractLsb' 3 2), scope := sc })
    | none => none
  | .d mk => if v.extractLsb' 3 2 = 0 then some (mk h (v.extractLsb' 0 3)) else none
  | .k mk => if v.extractLsb' 4 1 = 0 then some (mk h (v.extractLsb' 0 4)) else none
  | .p mk => some (mk h v)
  | .r mk => if v.extractLsb' 3 2 = 0 then some (mk h (v.extractLsb' 0 3)) else none
  | .a mk => if v.extractLsb' 2 3 = 0 then some (mk h (v.extractLsb' 0 2)) else none

/-- Trigger ports of `ctl` (Table 5.6). -/
def trigCtl : Nat → Option TrigPort
  | 8 => some (.z .jmp)
  | 9 => some (.z .jmpr)
  | 10 => some (.z .call)
  | 11 => some (.z .callr)
  | 12 => some (.z .ret)
  | 13 => some (.z .loop)
  | 14 => some (.z .loopx)
  | 15 => some (.z .idle)
  | 16 => some (.z .halt)
  | 17 => some (.z .trap)
  | 18 => some (.z .gang)
  | 19 => some (.z .split)
  | 20 => some (.z .brk)
  | _ => none

/-- Trigger ports of `a0` and `a1` (Table 5.6). -/
def trigAlu (u : Alu) : Nat → Option TrigPort
  | 8 => some (.w fun h w => .add h u w)
  | 9 => some (.w fun h w => .sub h u w)
  | 10 => some (.w fun h w => .and h u w)
  | 11 => some (.w fun h w => .or h u w)
  | 12 => some (.w fun h w => .xor h u w)
  | 13 => some (.w fun h w => .andn h u w)
  | 14 => some (.w fun h w => .orn h u w)
  | 15 => some (.w fun h w => .min h u w)
  | 16 => some (.w fun h w => .max h u w)
  | 17 => some (.w fun h w => .minn h u w)
  | 18 => some (.w fun h w => .maxn h u w)
  | 19 => some (.w fun h w => .abs h u w)
  | 20 => some (.w fun h w => .neg h u w)
  | 21 => some (.w fun h w => .ceq h u w)
  | 22 => some (.w fun h w => .cne h u w)
  | 23 => some (.w fun h w => .clt h u w)
  | 24 => some (.w fun h w => .cle h u w)
  | 25 => some (.w fun h w => .cltn h u w)
  | 26 => some (.w fun h w => .clen h u w)
  | 27 => some (.w fun h w => .sel h u w)
  | 28 => some (.w fun h w => .lea h u w)
  | 29 => some (.w fun h w => .addsat h u w)
  | 30 => some (.w fun h w => .subsat h u w)
  | 31 => some (.w fun h w => .tst h u w)
  | _ => none

/-- Trigger ports of `sh` (Table 5.6). -/
def trigSh : Nat → Option TrigPort
  | 8 => some (.w .shl)
  | 9 => some (.w .shr)
  | 10 => some (.w .sar)
  | 11 => some (.w .rol)
  | 12 => some (.w .ror)
  | 13 => some (.w .clz)
  | 14 => some (.w .ctz)
  | 15 => some (.w .popc)
  | 16 => some (.w .brev)
  | 17 => some (.w .bswap)
  | 18 => some (.w .extz)
  | 19 => some (.w .exts)
  | 20 => some (.w .ins)
  | 21 => some (.w .crc)
  | _ => none

/-- Trigger ports of `mu` (Table 5.6). -/
def trigMu : Nat → Option TrigPort
  | 8 => some (.w .mul)
  | 9 => some (.w .mulh)
  | 10 => some (.w .mulhn)
  | 11 => some (.w .mac)
  | 12 => some (.w .div)
  | 13 => some (.w .divn)
  | 14 => some (.w .rem)
  | 15 => some (.w .remn)
  | _ => none

/-- Trigger ports of `fp` (Table 5.6). -/
def trigFp : Nat → Option TrigPort
  | 8 => some (.t .fadd)
  | 9 => some (.t .fsub)
  | 10 => some (.t .fmul)
  | 11 => some (.t .fma)
  | 12 => some (.t .fnma)
  | 13 => some (.t .fmin)
  | 14 => some (.t .fmax)
  | 15 => some (.t .fabs)
  | 16 => some (.t .fneg)
  | 17 => some (.t .fcpsgn)
  | 18 => some (.t .fceq)
  | 19 => some (.t .fclt)
  | 20 => some (.t .fcle)
  | 21 => some (.t .fclass)
  | 22 => some (.t .fcvt)
  | 23 => some (.t .fcvtsi)
  | 24 => some (.t .fcvtis)
  | _ => none

/-- Trigger ports of `sf` (Table 5.6). -/
def trigSf : Nat → Option TrigPort
  | 8 => some (.t .ex2)
  | 9 => some (.t .lg2)
  | 10 => some (.t .rcp)
  | 11 => some (.t .rsq)
  | 12 => some (.t .sqrt)
  | 13 => some (.t .fdiv)
  | 16 => some (.t .ex2Vec)
  | 17 => some (.t .lg2Vec)
  | 18 => some (.t .rcpVec)
  | 19 => some (.t .rsqVec)
  | 20 => some (.t .sqrtVec)
  | 21 => some (.t .fdivVec)
  | _ => none

/-- Trigger ports of `vu` (Table 5.6). -/
def trigVu : Nat → Option TrigPort
  | 8 => some (.t .vadd)
  | 9 => some (.t .vsub)
  | 10 => some (.t .vmul)
  | 11 => some (.t .vfma)
  | 12 => some (.t .vfnma)
  | 13 => some (.t .vmin)
  | 14 => some (.t .vmax)
  | 15 => some (.t .vabs)
  | 16 => some (.t .vneg)
  | 17 => some (.t .vceq)
  | 18 => some (.t .vclt)
  | 19 => some (.t .vcle)
  | 20 => some (.t .vsel)
  | 21 => some (.z .vand)
  | 22 => some (.z .vor)
  | 23 => some (.z .vxor)
  | 24 => some (.t .vshl)
  | 25 => some (.t .vshr)
  | 26 => some (.t .vsar)
  | 27 => some (.t .vsum)
  | 28 => some (.t .vhmax)
  | 29 => some (.t .vscale)
  | _ => none

/-- Trigger ports of `vx` (Table 5.6). -/
def trigVx : Nat → Option TrigPort
  | 8 => some (.t .vperm)
  | 9 => some (.t .vshuf)
  | 10 => some (.t .vbcast)
  | 11 => some (.t .vext)
  | 12 => some (.t .vins)
  | 13 => some (.c .vcvt)
  | 14 => some (.c .vpack)
  | 15 => some (.c .vunpk)
  | 16 => some (.t .vcmprs)
  | 17 => some (.t .vlane)
  | 18 => some (.t .vrot)
  | 19 => some (.t .vmerge)
  | 20 => some (.t .vmask)
  | _ => none

/-- Trigger ports of `ls` (Table 5.6). -/
def trigLs : Nat → Option TrigPort
  | 8 => some (.l .ld)
  | 9 => some (.l .st)
  | 10 => some (.lv .vld)
  | 11 => some (.lv .vst)
  | 12 => some (.lv .vldl)
  | 13 => some (.lv .vstl)
  | 14 => some (.l .vgat)
  | 15 => some (.l .vsct)
  | 16 => some (.l .aadd)
  | 17 => some (.l .aswp)
  | 18 => some (.l .acas)
  | 19 => some (.l .amin)
  | 20 => some (.l .amax)
  | 21 => some (.l .aor)
  | 22 => some (.l .aand)
  | _ => none

/-- Trigger ports of `ag` (Table 5.6). -/
def trigAg : Nat → Option TrigPort
  | 8 => some (.p .sopen)
  | 9 => some (.z .sstep)
  | 10 => some (.r .rinit)
  | 11 => some (.r .rpush)
  | 12 => some (.r .rpop)
  | 13 => some (.r .rfill)
  | 14 => some (.r .rstat)
  | 15 => some (.r .rdrop)
  | _ => none

/-- Trigger ports of `mx` (Table 5.6). -/
def trigMx : Nat → Option TrigPort
  | 8 => some (.a .mma)
  | 9 => some (.a .mmas)
  | 10 => some (.a .mzero)
  | 11 => some (.a .mrd)
  | 12 => some (.a .mst)
  | 13 => some (.a .mld)
  | 14 => some (.a .mmask)
  | _ => none

/-- Trigger ports of `dm` (Table 5.6). -/
def trigDm : Nat → Option TrigPort
  | 8 => some (.m .get)
  | 9 => some (.m .put)
  | 10 => some (.m .getp)
  | 11 => some (.m .putp)
  | 12 => some (.m .fill)
  | 13 => some (.m .gld)
  | 14 => some (.m .gst)
  | 15 => some (.m .gadd)
  | 16 => some (.m .gswp)
  | 17 => some (.m .gcas)
  | 18 => some (.m .gmin)
  | 19 => some (.m .gmax)
  | 20 => some (.m .gand)
  | 21 => some (.m .gor)
  | 22 => some (.m .gxor)
  | 23 => some (.m .mfence)
  | _ => none

/-- Trigger ports of `nt` (Table 5.6). -/
def trigNt : Nat → Option TrigPort
  | 8 => some (.k .ttarm)
  | 9 => some (.z .push)
  | 10 => some (.z .pushp)
  | 11 => some (.z .land)
  | 12 => some (.z .lclose)
  | 13 => some (.z .msg)
  | 14 => some (.z .mig)
  | _ => none

/-- Trigger ports of `kn` (Table 5.6). -/
def trigKn : Nat → Option TrigPort
  | 8 => some (.z .kopen)
  | 9 => some (.z .kpart)
  | 10 => some (.z .kattn)
  | 11 => some (.z .kfin)
  | 12 => some (.z .kres)
  | _ => none

/-- Trigger ports of `sy` (Table 5.6). -/
def trigSy : Nat → Option TrigPort
  | 8 => some (.d .bell)
  | 9 => some (.d .bellx)
  | 10 => some (.m .wany)
  | 11 => some (.m .wall)
  | 12 => some (.m .wffr)
  | 13 => some (.z .tclr)
  | 14 => some (.m .sig)
  | 15 => some (.m .swait)
  | 16 => some (.m .sdec)
  | 17 => some (.z .binit)
  | 18 => some (.m .arrive)
  | 19 => some (.m .drop)
  | 20 => some (.m .bwait)
  | 21 => some (.z .trig)
  | 22 => some (.m .fence)
  | _ => none

/-- Trigger ports of `tk` (Table 5.6). -/
def trigTk : Nat → Option TrigPort
  | 8 => some (.z .spawn)
  | 9 => some (.z .yield)
  | 10 => some (.z .sleep)
  | 11 => some (.z .wake)
  | 12 => some (.z .prio)
  | 13 => some (.z .timer)
  | 14 => some (.z .next)
  | 15 => some (.z .resume)
  | 16 => some (.z .msgrd)
  | 17 => some (.z .cload)
  | 18 => some (.z .tidle)
  | _ => none

/-- Trigger ports of `cf` (Table 5.6). -/
def trigCf : Nat → Option TrigPort
  | 8 => some (.z .rdcyc)
  | 9 => some (.z .fmt)
  | 10 => some (.z .mode)
  | 11 => some (.d .dom)
  | 12 => some (.k .tid)
  | 13 => some (.z .flags)
  | 14 => some (.z .sleepd)
  | _ => none

/-- Trigger ports of `sv` (Table 5.6). -/
def trigSv : Nat → Option TrigPort
  | 8 => some (.z .eret)
  | 9 => some (.z .cause)
  | 10 => some (.m .tlbinv)
  | 11 => some (.m .tlbinvas)
  | 12 => some (.m .mapfence)
  | 13 => some (.z .asid)
  | 14 => some (.z .bank)
  | 15 => some (.z .shcap)
  | 16 => some (.z .shset)
  | 17 => some (.z .errst)
  | 18 => some (.z .stmr)
  | _ => none

/-- Trigger ports of `rp` (Table 5.6). -/
def trigRp : Nat → Option TrigPort
  | 8 => some (.z .dgrd)
  | 9 => some (.z .dgclr)
  | 10 => some (.z .logon)
  | 11 => some (.z .logoff)
  | 12 => some (.z .gateon)
  | 13 => some (.z .gateoff)
  | 14 => some (.z .logst)
  | _ => none

/-- Trigger ports of a socket (Table 5.6). -/
def trigPort (s : Sock) (port : Nat) : Option TrigPort :=
  match s with
  | .a0 => trigAlu .a0 port
  | .a1 => trigAlu .a1 port
  | .ctl => trigCtl port
  | .sh => trigSh port
  | .mu => trigMu port
  | .fp => trigFp port
  | .sf => trigSf port
  | .vu => trigVu port
  | .vx => trigVx port
  | .ls => trigLs port
  | .ag => trigAg port
  | .mx => trigMx port
  | .dm => trigDm port
  | .nt => trigNt port
  | .kn => trigKn port
  | .sy => trigSy port
  | .tk => trigTk port
  | .cf => trigCf port
  | .sv => trigSv port
  | .rp => trigRp port

/-- A destination port: a register or an operand port, or a trigger. -/
inductive DestPort where
  | plain (d : Dst)
  | trig (q : TrigPort)

/-- Destination ports (R103, R107); none when the port is reserved. -/
def destOf (sock : BitVec 6) (port : BitVec 5) : Option DestPort :=
  match sock.toNat with
  | 0x01 => some (.plain (.grf port))
  | 0x02 => some (.plain (.vrf port))
  | 0x03 => if port.toNat < 8 then some (.plain (.brf (port.setWidth 3))) else none
  | n =>
    match sockOf n with
    | none => none
    | some s =>
      match port.toNat with
      | 0 => some (.plain (.opnd s .opA))
      | 1 => some (.plain (.opnd s .opB))
      | 2 => some (.plain (.opnd s .opC))
      | p => (trigPort s p).map .trig

/-- Destination, head and modifier give an instruction, unless the modifier is illegal (check 3e). -/
def buildMove (q : DestPort) (h : Head) (v : BitVec 5) : Option Instr :=
  match q with
  | .plain d => if v = 0 then some (.move (.live h d)) else none
  | .trig t =>
    match t.build h v with
    | some i => if i.wf then some i else none
    | none => none

/-- A supervisor port is touched (R104, Table 5.3). -/
def touchesSupervisor (f : Fields) : Bool :=
  (!f.isImm && f.sval.extractLsb' 5 6 == 0x15) || f.dsock == 0x15
    || (f.dsock == 0x16 && decide (10 ≤ f.dport.toNat ∧ f.dport.toNat ≤ 13))

/-- Is check 3d broken: a long immediate at or above `nli`. -/
def liBeyond (s : Src) (nli : Nat) : Bool :=
  match s with
  | .li j => decide (nli ≤ j.toNat)
  | .imm _ | .grf _ | .vrf _ | .brf _ | .resX _ | .resY _ | .resS _ => false

/-- One move word of a bundle with `nli` long immediates: checks 3a to 3f of Table 5.7 in order. `sup` says that the strand is a supervisor strand. -/
def decodeMove (sup : Bool) (nli : Nat) (w : Word) : Except DecodeError Instr :=
  let f := Fields.split w
  if f.guard = 8 then .ok (.move (.null (w.extractLsb' 0 28)))
  else if (!f.isImm && reservedSock (f.sval.extractLsb' 5 6)) || reservedSock f.dsock then
    .error .reservedSocket
  else if f.dsock = 0x3F then .error .illegalBundle
  else
    let src := if f.isImm then some (Src.imm f.sval)
      else sourceOf (f.sval.extractLsb' 5 6) (f.sval.extractLsb' 0 5)
    match src, destOf f.dsock f.dport with
    | some s, some q =>
      if liBeyond s nli then .error .illegalBundle
      else
        match buildMove q { guard := { inv := f.guard.getLsbD 3, sel := f.guard.extractLsb' 0 3 },
                            src := s } f.md with
        | none => .error .illegalBundle
        | some i => if !sup && touchesSupervisor f then .error .privilegedPort else .ok i
    | _, _ => .error .reservedSocket

/-- A decoded bundle: its moves with their buses in ascending bus order, its long immediates, its length in bytes. -/
structure Bundle where
  moves : List (BitVec 3 × Instr)
  lis : List Word
  len : Nat
deriving DecidableEq, Repr

/-- The buses of a header's mask, ascending (R99). -/
def busesOf (hd : Word) : List (BitVec 3) :=
  [0, 1, 2, 3, 4, 5, 6, 7].filter fun i => hd.getLsbD (24 + i.toNat)

/-- Long-immediate count of a header (Table 5.1). -/
def nliOf (hd : Word) : Nat := (hd.extractLsb' 22 2).toNat

/-- Step 3: the moves in bus order; the first that fails decides. -/
def decodeMoves (sup : Bool) (nli : Nat) :
    List (BitVec 3) → List Word → Except (DecodeError × Option (BitVec 3)) (List (BitVec 3 × Instr))
  | b :: bs, w :: ws =>
    match decodeMove sup nli w with
    | .error e => .error (e, some b)
    | .ok i =>
      match decodeMoves sup nli bs ws with
      | .error e => .error e
      | .ok r => .ok ((b, i) :: r)
  | _, _ => .ok []

/-- What a move counts in Table 6.2. -/
structure Caps where
  grfW : Nat := 0
  vrfW : Nat := 0
  vrfR : Nat := 0
  brfW : Nat := 0
  /-- destination ports named so far, a trigger operand being one of them -/
  dsts : List Dst := []
  /-- sockets triggered so far -/
  socks : List Sock := []
deriving DecidableEq, Repr

/-- One more move is counted against every limit of Table 6.2; none when a limit is exceeded or a port is named twice (R137). -/
def Caps.add (c : Caps) (i : Instr) : Option Caps :=
  let readV (s : Src) (c : Caps) : Caps :=
    match s with
    | .vrf _ => { c with vrfR := c.vrfR + 1 }
    | .imm _ | .grf _ | .brf _ | .resX _ | .resY _ | .resS _ | .li _ => c
  let within (c : Caps) : Option Caps :=
    if c.grfW ≤ 4 ∧ c.vrfW ≤ 2 ∧ c.vrfR ≤ 4 ∧ c.brfW ≤ 2 then some c else none
  match i.form with
  | .event | .move (.null _) => some c
  | .move (.live h d) =>
    if d ∈ c.dsts then none
    else
      let c := { readV h.src c with dsts := d :: c.dsts }
      within (match d with
        | .grf _ => { c with grfW := c.grfW + 1 }
        | .vrf _ => { c with vrfW := c.vrfW + 1 }
        | .brf _ => { c with brfW := c.brfW + 1 }
        | .opnd _ _ => c)
  | .trig h s p _ =>
    if s ∈ c.socks then none
    else
      let c := { readV h.src c with socks := s :: c.socks }
      match trigOpnd s p.toNat with
      | none => within c
      | some o =>
        if Dst.opnd s o ∈ c.dsts then none
        else within { c with dsts := .opnd s o :: c.dsts }

/-- Step 4: the first move over a limit, by its bus. -/
def checkCaps (c : Caps) : List (BitVec 3 × Instr) → Option (BitVec 3)
  | [] => none
  | (b, i) :: r =>
    match c.add i with
    | none => some b
    | some c' => checkCaps c' r

/-- A bundle from the words of the role's code that start at its offset, header first; fewer words than its length means that it crosses the end of the code (R98). Steps 1 to 4 of Table 5.7 but for parity and alignment. -/
def decodeBundle (sup : Bool) (ws : List Word) : Except (DecodeError × Option (BitVec 3)) Bundle :=
  match ws with
  | [] => .error (.illegalBundle, none)
  | hd :: rest =>
    let bs := busesOf hd
    let nli := nliOf hd
    if rest.length < bs.length + nli then .error (.illegalBundle, none)
    else if hd.extractLsb' 0 22 ≠ 0 then .error (.illegalBundle, none)
    else
      match decodeMoves sup nli bs rest with
      | .error e => .error e
      | .ok ms =>
        match checkCaps {} ms with
        | some b => .error (.portConflict, some b)
        | none =>
          .ok { moves := ms, lis := (rest.drop bs.length).take nli, len := 4 * (1 + bs.length + nli) }

/-! ## The encoder -/

/-- Source field [27:16]: the immediate bit and sval. -/
def encodeSrc : Src → Bool × BitVec 11
  | .imm v => (true, v)
  | .grf n => (false, 0x01#6 ++ n)
  | .vrf n => (false, 0x02#6 ++ n)
  | .brf n => (false, 0x03#6 ++ n.setWidth 5)
  | .resX s => (false, BitVec.ofNat 6 s.num ++ 0#5)
  | .resY s => (false, BitVec.ofNat 6 s.num ++ 1#5)
  | .resS s => (false, BitVec.ofNat 6 s.num ++ 2#5)
  | .li j => (false, 0x3F#6 ++ j.setWidth 5)

/-- Destination field [15:5] of a plain move. -/
def encodeDst : Dst → BitVec 6 × BitVec 5
  | .grf n => (0x01, n)
  | .vrf n => (0x02, n)
  | .brf n => (0x03, n.setWidth 5)
  | .opnd s .opA => (BitVec.ofNat 6 s.num, 0)
  | .opnd s .opB => (BitVec.ofNat 6 s.num, 1)
  | .opnd s .opC => (BitVec.ofNat 6 s.num, 2)

def encodeFmt : Fmt → BitVec 3
  | .f64 => 0 | .f32 => 1 | .bf16 => 2 | .f16 => 3 | .e4m3 => 4 | .e5m2 => 5

def encodeRnd : Rnd → BitVec 2
  | .rne => 0 | .rz => 1 | .ru => 2 | .rd => 3

def encodeSize : ISize → BitVec 2
  | .i8 => 0 | .i16 => 1 | .i32 => 2 | .i64 => 3

def encodeLayout : Layout → BitVec 2
  | .lin => 0 | .sw64 => 1 | .sw128 => 2 | .trn => 3

def encodeOrder : Order → BitVec 2
  | .plain => 0 | .acq => 1 | .rel => 2 | .ar => 3

def encodeScope : Scope → BitVec 3
  | .tile => 0 | .quad => 1 | .cluster => 2 | .die => 3 | .module => 4 | .system => 5

def encodeCType : CType → BitVec 4
  | .int false z => 0#2 ++ encodeSize z
  | .int true z => 1#2 ++ encodeSize z
  | .flt f => 8 + (encodeFmt f).setWidth 4
  | .code4 => 14
  | .code8 => 15

/-- The modifier field (Table 5.4). -/
def encodeMod : Mod → BitVec 5
  | .z => 0
  | .w .w32 => 0
  | .w .w64 => 1
  | .t _ (.flt f r) => encodeFmt f ++ encodeRnd r
  | .t _ (.int nat z) => 3#2 ++ BitVec.ofBool nat ++ encodeSize z
  | .c x => encodeCType x.ty ++ BitVec.ofBool x.sat
  | .l _ x => encodeLayout x.layout ++ BitVec.ofBool x.natural ++ encodeSize x.size
  | .lv x => encodeLayout x ++ 0#3
  | .m _ x => encodeOrder x.order ++ encodeScope x.scope
  | .d x => x.setWidth 5
  | .k _ x => x.setWidth 5
  | .p x => x
  | .r x => x.setWidth 5
  | .a x => x.setWidth 5

/-- A head with the destination field and the modifier (Table 5.2). -/
def encodeFields (h : Head) (dsock : BitVec 6) (dport md : BitVec 5) : Fields :=
  { guard := BitVec.ofBool h.guard.inv ++ h.guard.sel, isImm := (encodeSrc h.src).1,
    sval := (encodeSrc h.src).2, dsock := dsock, dport := dport, md := md }

/-- The word of an instruction that has one: every move. Events have none. -/
def encode (i : Instr) : Option Word :=
  match i.form with
  | .event => none
  | .move (.null rest) => some (8#4 ++ rest)
  | .move (.live h d) => some (encodeFields h (encodeDst d).1 (encodeDst d).2 0).join
  | .trig h s p md => some (encodeFields h (BitVec.ofNat 6 s.num) p (encodeMod md)).join

/-- The instruction that a word of the opcode table stands for: a move of 32 bits, decoded as a supervisor strand decodes it in a bundle with three long immediates. -/
def decodeTableWord (nbits w : Nat) : Option Instr :=
  if nbits = 32 then
    match decodeMove true 3 (BitVec.ofNat 32 w) with
    | .ok i => some i
    | .error _ => none
  else none

end Sys2Proof
end

