-- ==== Sys2Proof/Config.lean ====
section
/-! DEFINITION. The free values: constants without a body for what the spec leaves open. Nothing can be proved about a value of them. Each takes the counter of free values of the state, so that every use is a fresh value. -/

namespace Sys2Proof.Config

/-- A byte whose value the spec leaves unspecified (R236, R311; DESIGN CHOICE, log 3). -/
opaque freeByte : Nat → Byte

/-- A duration, or a part of one, that the spec does not fix, in ticks (R488; DESIGN CHOICE, log 2). -/
opaque delay : Nat → Nat

/-- A choice of an agent that the spec does not fix (DESIGN CHOICE, log 2). -/
opaque choice : Nat → Bool

/-- Pseudo-channel of an HBM address within its stack (R90; DESIGN CHOICE, log 14). -/
opaque channelOf : Nat → Nat

/-- Does traffic from one die to another use a die link (R89; DESIGN CHOICE, log 14)? -/
opaque usesLink : Nat → Nat → Nat × Nat → Bool

/-- The module that holds a rank of an L4 group on other modules (R303; DESIGN CHOICE, log 15). -/
opaque moduleOf : Dword → Nat → Nat

/-- A new nonce after a reset or a transfer command (R20; DESIGN CHOICE, log 5). -/
opaque freeNonce : Nat → BitVec 128

/-- The serial number of the module (R28; DESIGN CHOICE, log 5). -/
opaque serial : Dword

/-- The maker's public key x and y, whose SHA-256 is in fuses (R16, R28; DESIGN CHOICE, log 5). -/
opaque makerKey : Nat × Nat

/-- SHA-256 of the boot ROM (R21; DESIGN CHOICE, log 5). -/
opaque romDigest : BitVec 256

/-- Capacity in GiB of the memory behind a CXL port, 0 for none (R264; DESIGN CHOICE, log 6). -/
opaque cxlCapacity : Nat → Nat

/-- The module at the other end of a module link, if one is fitted (R304; DESIGN CHOICE, log 6). -/
opaque linkPeer : Nat → Option Nat

/-- Numbers that fix the I/O dies of the two host ports, which are not the same die (Table 0.1, R13; DESIGN CHOICE, log 6). -/
opaque portDies : Nat × Nat

/-- Bytes of an SPDM response that the spec leaves to SPDM 1.3 and to the device key: certificates, signatures, digests (R22; PRESUMED, log 9). -/
opaque spdmBytes : Nat → List Byte

/-- A signature of the fused device key over the bytes of a response; the number of a free value stands for what else goes into it (R22). -/
opaque deviceSign : List Byte → Nat → BitVec 512

end Sys2Proof.Config
end

