-- ==== Sys2Proof/Machine/TileState.lean ====
section
/-! DEFINITION. The state of one tile as plain data: the items of Table 6.3, and the state of its engines, rings, landing zones, kiln slots and tasks. -/

namespace Sys2Proof.Machine

/-- The causes of Table 18.1, in code order. -/
inductive Cause where
  | none | illegalBundle | reservedSocket | portConflict | privilegedPort | misaligned | localRange | ringFault
  | translationFault | protectionFault | collapse | peerUnreachable | semUnderflow | semRange | barrierOverarrival
  | exchangeFault | landingOverflow | orderDivergence | trapInstruction | loopNest | dataUncorrectable | datapathCheck
  | preempt | debug | taskOverflow | tornRecord
deriving DecidableEq, Repr

/-- Kinds of a cause (R413), as coded in the cause word. -/
inductive Kind where
  | decode | trigger | late | async
deriving DecidableEq, Repr

/-- A cause raised for a bank and not yet taken (R413, R414, R420). -/
structure Pending where
  bank : BitVec 2
  cause : Cause
  kind : Kind
  /-- `ctl.trap` or `ctl.brk` code -/
  code : Half := 0
  bus : Option (BitVec 3) := Option.none
  /-- offset of the triggering bundle -/
  origin : Word := 0
  /-- selector 2 -/
  addr : Dword := 0
  /-- selector 3 -/
  detail : Dword := 0
  /-- issue number of the triggering bundle, for the order of R414 -/
  seq : Nat := 0
  /-- tick on which the cause became pending (R417) -/
  since : Nat := 0
  /-- first tick on which it is taken: that after the detecting one, where the rule says so (R252) -/
  notBefore : Nat := 0
  /-- the task whose strand takes it, in tasked mode (R277) -/
  task : Option Nat := Option.none
  /-- local or physical address for the error record, or 0 (R440) -/
  where_ : Nat := 0
deriving DecidableEq, Repr

/-- What one functional socket holds for one strand (R142): latches, result ports, status, full bits. -/
structure SockCtx where
  a : Bus := 0
  b : Bus := 0
  c : Bus := 0
  x : Bus := 0
  y : Bus := 0
  s : Dword := 0
  fullX : Bool := false
  fullY : Bool := false
deriving DecidableEq, Repr

/-- What an operation delivers when it lands: the ports it writes, its status and its sticky flags. -/
structure Res where
  x : Option Bus := Option.none
  y : Option Bus := Option.none
  s : Dword := 0
  flags : BitVec 6 := 0
deriving DecidableEq, Repr

/-- A free-running operation in flight: `r` issue cycles remain before it lands (R125, R418). -/
structure Flight where
  sock : Sock
  res : Res
  r : Nat
  origin : Word
  seq : Nat
  /-- a cause found after the start, taken in place of the landing (R135, R221) -/
  late : Option Pending := Option.none
deriving DecidableEq, Repr

/-- A level of the repetition buffer (R148, Table 18.5). -/
structure Level where
  start : Word
  len : Nat
  count : Nat
  bound : Nat
  step : Int
  stagger : Nat
  mask : BitVec 16
  pass : Nat
  loopx : Bool
deriving DecidableEq, Repr

inductive Life where
  | unstarted | live | halted
deriving DecidableEq, Repr

/-- A strand bank with its strand context (R139, R142). -/
structure Strand where
  g : Vector Dword 32 := Vector.replicate 32 0
  v : Vector Bus 32 := Vector.replicate 32 0
  /-- b1 to b7 in bits [7:1]; bit 0 is not stored (R139) -/
  b : BitVec 8 := 0
  pc : Word := 0
  flags : BitVec 6 := 0
  /-- active levels, outermost first -/
  levels : List Level := []
  socks : Vector SockCtx 23 := Vector.replicate 23 {}
  flight : List Flight := []
  idle : Nat := 0
  fmt : BitVec 13 := 0
  fmtPend : BitVec 13 := 0
  /-- bundles until the pending format takes effect, 0 to 3; 0 means none is pending (R169) -/
  fmtLeft : Nat := 0
  /-- the count of the pending format has run out; it takes effect before the next bundle -/
  fmtDue : Bool := false
  life : Life := .unstarted
  /-- the last issued bundle was a last body bundle whose level has not been evaluated yet (R148) -/
  passEnd : Bool := false
  /-- bundles issued by the strand, for the order of R414 -/
  seq : Nat := 0
  /-- tick on which the bank issued its last bundle (R417) -/
  lastIssue : Nat := 0
  /-- `sy.trig` performed (R360) -/
  triggered : Bool := false
deriving DecidableEq, Repr

/-- How far a data-locked operation has come. -/
inductive OpState where
  /-- in its queue, not begun -/
  | queued
  /-- begun; translated, reading or at its unit -/
  | active
  /-- waiting on a missing page, with its fault record (R276) -/
  | pending (record : Word)
  /-- refused with a hint; sent again at the tick (R274, R306) -/
  | refused (until_ : Nat)
  /-- waiting in a unit: watch list or gate (R354, R291) -/
  | waiting
  /-- performed; the result, if any, has not landed -/
  | performed
  /-- stopped by a final fault -/
  | stopped
deriving DecidableEq, Repr

/-- A stream pattern of the role (Table 2.5). -/
structure Pattern where
  num : Nat
  layout : Layout
  /-- log2 of the element size -/
  esize : Nat
  base : Nat
  /-- (length, stride), dimension 0 first -/
  dims : List (Nat × Int)
deriving DecidableEq, Repr

/-- What an operation of a data-locked socket is. -/
inductive OpKind where
  /-- an operation that only computes; a division -/
  | calc | divide
  | get (m : MMod) | put (m : MMod) | getp (m : MMod) | putp (m : MMod) | fill (m : MMod)
  | gld (m : MMod) | gst (m : MMod) | gatom (f : AtomFn) (m : MMod) | gcas (m : MMod) | mfence (m : MMod)
  | bell (lev : BitVec 3) | bellx (lev : BitVec 3)
  | wany (m : MMod) | wall (m : MMod) | wffr (m : MMod) | tclr
  | sig (m : MMod) | swait (m : MMod) | sdec (m : MMod) | binit | arrive (m : MMod) | drop (m : MMod) | bwait (m : MMod)
  | trig | fence (m : MMod)
  | ttarm | push (pat : Bool) | land | lclose | msg | mig
  | kopen | kpart | kattn | kfin | kres
  | spawn | yield | sleep | wake | prio | timer | next | resume | msgrd | cload | tidle
deriving DecidableEq, Repr

/-- The operations of `sv` that may take more than a cycle (R421). -/
inductive SupKind where
  | tlbinv (m : MMod) | tlbinvas (m : MMod) | mapfence (m : MMod) | shcap | shset
deriving DecidableEq, Repr

/-- A translation held by a TLB (R271). -/
structure TlbEntry where
  asid : Half
  /-- va / 2^16, of the first page covered -/
  page : Nat
  /-- 512 MiB leaf -/
  big : Bool
  frame : Nat
  kind : Nat
  home : Nat
  g : Bool
  u : Bool
  r : Bool
  w : Bool
  d : Bool
  rep : Bool
  /-- the MIG bit of the leaf -/
  mig : Bool
deriving DecidableEq, Repr

/-- One entry of a data-locked command queue (R129, Table 6.3). -/
structure DlOp where
  id : Nat
  bank : BitVec 2
  sock : Sock
  kind : OpKind := .calc
  /-- the operation writes `.x` (`.y` for a division), and lands in trigger order (R129) -/
  wx : Bool := true
  /-- the operation holds a slot of the queue -/
  slot : Bool := true
  a : Bus
  b : Bus
  c : Bus
  origin : Word
  seq : Nat
  /-- ASID bound at the trigger (R426) -/
  asid : Half
  /-- the task in the bank, in tasked mode -/
  task : Option Nat := none
  /-- tick of the trigger -/
  born : Nat
  /-- earliest tick of the landing or of the next action -/
  due : Nat
  st : OpState := .queued
  /-- bytes or messages performed so far, or the step an operation of many ticks has reached -/
  prog : Nat := 0
  /-- pattern of a pattern copy or push -/
  pat : Option Pattern := none
  /-- words, elements or packets not yet performed, the next one first -/
  rest : List Nat := []
  /-- what its access waits for at the translation service: 0 nothing, 1 the cluster TLB, 2 the core (R271) -/
  walk : Nat := 0
  /-- the strand's next bundle waits for its completion (R348) -/
  hold : Bool := false
  /-- tag that the operation names -/
  tag : Option (BitVec 6) := Option.none
  /-- physical address of an access that has been translated -/
  pa : Nat := 0
  /-- the die whose controller or unit it is at (R287, R390) -/
  home : Option Nat := Option.none
  /-- the translations it holds: one for each page that it still has bytes to access on (R273, R381) -/
  tr : List TlbEntry := []
  /-- bytes that a copy has read and not yet written: those of a word of local SRAM whose other bytes are still to come, or those a peer is to write (R366) -/
  stage : List Byte := []
  /-- its page was missing, and its task is still to be given the completion notice (R277) -/
  notice : Bool := false
  /-- refusals met (saturating at 0xFFFF when shown) -/
  refusals : Nat := 0
  res : Option Res := Option.none
  /-- the result is in the port and has not been read -/
  landed : Bool := false
  /-- value seen or returned by a unit; tick W of a bell -/
  val : Nat := 0
  /-- the bell has rung (R343) -/
  rung : Bool := false
  /-- a cause found after the start, taken in place of the landing (R221) -/
  late : Option Pending := Option.none
  /-- the launch it belongs to, when another has been switched in since (R118) -/
  old : Option Dword := Option.none
deriving DecidableEq, Repr

/-- An open stream cursor (R231): pattern, base address, index of the next element. -/
structure Cursor where
  pat : Pattern
  base : Nat
  idx : Nat
deriving DecidableEq, Repr

/-- A ring filler (R234, R284). -/
structure Filler where
  pat : Pattern
  base : Nat
  /-- next element to read -/
  idx : Nat
  /-- bytes of the staging element read so far -/
  stage : List Byte
  tag : BitVec 6
  /-- true: elements are virtual addresses read by the copy engine (R284) -/
  isGlobal : Bool
  scope : Scope
  asid : Half
  bank : BitVec 2
  origin : Word
  seq : Nat
  /-- the task that started it -/
  task : Option Nat := Option.none
  /-- earliest tick of its next action, and of its next commit -/
  due : Nat
  commitAt : Nat := 0
  /-- the `dm` operation it came from -/
  opId : Nat
deriving DecidableEq, Repr

/-- One ring (Table 10.4). Offsets count lines. -/
structure Ring where
  base : Nat := 0
  size : Nat := 0
  n : Nat := 0
  layout : Layout := .lin
  valid : Bool := false
  head : Nat := 0
  tail : Nat := 0
  count : Nat := 0
  filler : Option Filler := Option.none
deriving DecidableEq, Repr

/-- An accumulator: 16 × 16 entries in row order, their residues mod 3, the two masks (R250, R251). -/
structure Acc where
  e : Vector Word 256 := Vector.replicate 256 0
  res : Vector (BitVec 2) 256 := Vector.replicate 256 0
  rows : Half := 0xFFFF
  cols : Half := 0xFFFF
deriving DecidableEq, Repr

/-- What an outstanding `mx` operation does, from its instruction and its operands (R256 to R260). -/
inductive MxKind where
  | mma (sparse : Bool)
  | mzero
  | mrd
  | mst
  | mld
  | mmask
deriving DecidableEq, Repr

/-- An outstanding operation of the `mx` sequence (R244 to R253). -/
structure MxOp where
  bank : BitVec 2
  /-- triggered in data-locked mode: its cycles are ticks (R245) -/
  locked : Bool
  /-- slot of the command queue of a data-locked `mrd` -/
  opId : Nat := 0
  kind : MxKind
  acc : BitVec 2
  a : Bus
  b : Bus
  fmt : BitVec 13
  origin : Word
  seq : Nat
  /-- the task whose strand triggered it (R252) -/
  task : Option Nat := Option.none
  started : Bool := false
  /-- cycles of its occupancy already spent -/
  cyc : Nat := 0
  occ : Nat
  /-- tick S of a data-locked operation -/
  start : Nat := 0
  /-- its effects have taken place; the tick E on which it ends -/
  done : Option Nat := Option.none
  /-- order of its claim among the claims of the tile; 0 before it claims -/
  claimNo : Nat := 0
  /-- lines claimed: ring and number (R247) -/
  claims : List (BitVec 3 × Nat) := []
  /-- lines read so far: A (or the rows of `mst` and `mld`), B, headers or routing, in order (R248) -/
  linesA : List Bus := []
  linesB : List Bus := []
  linesH : List Bus := []
deriving DecidableEq, Repr

/-- One chunk of a landing zone (R307 to R310). -/
structure Chunk where
  /-- bytes counted -/
  count : Nat := 0
  /-- accumulate: next rank to apply, counted from the rank base -/
  next : Nat := 0
  /-- accumulate: bytes of that rank applied -/
  nextCount : Nat := 0
  /-- accumulate: bytes counted of each later rank -/
  later : List (Nat × Nat) := []
  /-- held packets: rank, offset in the zone, data -/
  held : List (Nat × Nat × List Byte) := []
deriving DecidableEq, Repr

/-- A landing zone (Table 13.3). -/
structure Zone where
  isOpen : Bool := false
  base : Nat := 0
  size : Nat := 0
  mode : BitVec 2 := 0
  c : Nat := 1
  level : Nat := 0
  rankBase : Nat := 0
  keep : Bool := false
  tag : BitVec 6 := 0
  scope : Scope := .tile
  bank : BitVec 2 := 0
  origin : Word := 0
  seq : Nat := 0
  /-- the task that declared it -/
  task : Option Nat := Option.none
  chunks : List Chunk := []
  /-- bytes of the open zone that the strand stored to (R236) -/
  touched : List Nat := []
deriving DecidableEq, Repr

/-- A send entry of a timetable (R39). -/
structure Send where
  off : Nat
  dc : Int
  dr : Int
  t : Nat
  len : Nat
  addr : Nat
deriving DecidableEq, Repr

/-- An arrive entry of a timetable (R39). -/
structure Arrive where
  off : Nat
  addr : Nat
deriving DecidableEq, Repr

structure Timetable where
  num : Nat
  window : Nat
  sends : List Send
  arrives : List Arrive
deriving DecidableEq, Repr

/-- A running exchange window (R299 to R302). -/
structure Window where
  /-- tick W -/
  w : Nat
  /-- length Λ; 0 when no timetable is armed -/
  len : Nat
  tt : Nat
  /-- beats have been exchanged -/
  ran : Bool := false
  /-- offset of the first exchange fault -/
  fault : Option Nat := Option.none
  /-- an uncorrectable beat word was met -/
  bad : Bool := false
deriving DecidableEq, Repr

/-- Parameters of a collective (R324, R335). -/
structure KParams where
  level : Nat
  op : BitVec 2
  ty : BitVec 2
  n : Nat
  r : Nat
  fin : Bool
  rankBase : Nat
  c : Nat
  dstRank : Nat
  zone : Nat
  off : Nat
deriving DecidableEq, Repr

/-- A kiln slot of a tile (R335 to R339). -/
structure KSlot where
  id : Nat
  gen : Half
  par : KParams
  contributed : Bool := false
  tag : BitVec 6 := 0
  tagSet : Bool := false
  abort : Option Cause := Option.none
  /-- released; kept for the offset of its `kopen` until the id is declared again and the collective is performed (R339) -/
  released : Bool := false
  bank : BitVec 2
  origin : Word
  seq : Nat
  /-- the task that declared it -/
  task : Option Nat := Option.none
deriving DecidableEq, Repr

/-- Task states (Table 17.1). -/
inductive TaskState where
  | free | ready | running | sleep | parked | saving | loading | inbound | selected
deriving DecidableEq, Repr

/-- A recorded wake (R399, R400). -/
inductive Wake where
  | message | wakeOp | deadline | notice
deriving DecidableEq, Repr

/-- A control block with its mailbox (Table 17.1). -/
structure Block where
  state : TaskState := .free
  loc : BitVec 2 := 0
  bprio : BitVec 2 := 0
  eprio : BitVec 2 := 0
  wk : Bool := false
  mail : List (Dword × Dword) := []
  age : Nat := 0
  area : Nat := 0
  /-- timer units that remain before a sleep ends (R398, R406) -/
  deadline : Option Nat := Option.none
  /-- wakes recorded during a save or a load, or while a sleep waits for its boundary, in order -/
  recorded : List Wake := []
  /-- state to keep after a save -/
  kept : TaskState := .free
deriving DecidableEq, Repr

/-- Causes of an upcall (Table 17.3). -/
inductive Upcall where
  | none | yield | sleep | halt | timer | preempt | fault | ready | kmsg
deriving DecidableEq, Repr

/-- A timed action of the task socket: a create, a save or a load of 8 ticks. -/
inductive TkWork where
  | create (op : Nat) (endTick : Nat)
  | save (op : Nat) (task bank : Nat) (endTick : Nat)
  | load (op : Nat) (task bank : Nat) (endTick : Nat)
deriving DecidableEq, Repr

/-- The task state of a tile (R392 to R411). -/
structure Tasks where
  blocks : Vector Block 32 := Vector.replicate 32 {}
  /-- the ready queue: levels 0 to 3, head first -/
  rq : Vector (List Nat) 4 := Vector.replicate 4 []
  quantum : Nat := 0
  runCount : Nat := 0
  /-- the running task, if a task runs -/
  current : Option Nat := Option.none
  /-- own causes of the running task, raised and not yet delivered, in the order of their delivery (R486) -/
  own : List Upcall := []
  raisedPreempt : Bool := false
  raisedTimer : Bool := false
  raisedKmsg : Bool := false
  /-- issue cycles of the task since TIMER or PREEMPT was raised (R396) -/
  since : Nat := 0
  /-- ticks of the first raise of an own cause or KMSG, and of PREEMPT or TIMER; the last timer unit counted -/
  raisedTick : Nat := 0
  boundTick : Nat := 0
  unitTick : Nat := 0
  /-- pending upcalls, oldest first (R486) -/
  pend : List (Upcall × Nat) := []
  work : Option TkWork := Option.none
  /-- late causes of tasks that are in no bank (R277) -/
  causes : List (Nat × Pending) := []
deriving DecidableEq, Repr

/-- A record of the store digest that waits to be folded, with its place in trigger order (R453). -/
structure DigestRec where
  /-- tick of the trigger, and the socket's number -/
  born : Nat
  sock : Nat
  opId : Nat
  /-- place within the operation (Table 19.3) -/
  idx : Nat
  pa : Nat
  data : List Byte
deriving DecidableEq, Repr

/-- An operation of `sv` that stalls the next bundle until it completes (R421). -/
structure SupOp where
  kind : SupKind
  a : Bus
  b : Bus
  c : Bus
  bank : BitVec 2
  /-- tick of the trigger, and the earliest tick of its completion -/
  born : Nat
  due : Nat
  /-- a map fence has dropped its entries, and waits for these accesses: tile and operation (R381) -/
  dropped : Bool := false
  waits : List (Nat × Nat) := []
deriving DecidableEq, Repr

/-- What an earlier launch left in flight when another was switched in (R118): its id, its domain registers, its landing zones, its kiln slots, its tags, its rings with their fillers, its data-locked `mx` operations. -/
structure PrevLaunch where
  launch : Dword
  kgens : List (Nat × Half)
  knotices : List (Nat × Half × Nat × Cause × Nat)
  dom : Vector Dword 5
  zones : Vector Zone 16
  kslots : List KSlot
  tags : Dword
  rings : Vector Ring 8
  mxq : List MxOp
deriving DecidableEq, Repr

/-- What ran when a tile was saved, held back while the supervisor makes its entry at restoration (R431, R437): the running bank; bank3 and the selectors, for a tile that was captured mid-handler. -/
structure HeldRun where
  run : BitVec 2
  bank3 : Strand
  sel : Vector Dword 4
  natAt : Option Nat
  /-- the debugger holds the tile in its handler (R442) -/
  debugHeld : Bool := false
  /-- tick of the save -/
  at_ : Nat
deriving DecidableEq, Repr

/-- One tile. The defaults are the cleared tile of R84. -/
structure Tile where
  addr : Nat
  /-- the launch it serves -/
  launch : Option Dword := Option.none
  /-- role number, none when the role map gives none -/
  role : Option Nat := Option.none
  tasked : Bool := false
  asid : Half := 0
  /-- ASID served last; none after a reset or a sparing (R84) -/
  lastAsid : Option Half := Option.none
  /-- start and length of the role's code in the quad's active half, in bytes (R95) -/
  codeStart : Nat := 0
  codeLen : Nat := 0
  tid : Vector Dword 4 := Vector.replicate 4 0
  dom : Vector Dword 5 := Vector.replicate 5 0
  banks : Vector Strand 4 := Vector.replicate 4 {}
  /-- the bank that issues -/
  run : BitVec 2 := 0
  /-- socket mode and lock bits, MODEMAP form: 1 data-locked (R35) -/
  mode : BitVec 23 := 0
  lock : BitVec 23 := 0
  sleepd : BitVec 2 := 0
  asleep : Bool := false
  /-- consecutive stalled ticks of the running strand (R401) -/
  stalled : Nat := 0
  /-- the tick on which the bundle at hand first stalled, through sleep and wakes; none while it has not (R401, R457) -/
  stallFrom : Option Nat := Option.none
  /-- earliest tick of the next issue -/
  ready : Nat := 0
  queue : List DlOp := []
  nextOp : Nat := 0
  tags : Dword := 0
  /-- tags named by a copy or filler that was stopped by a fault (R281) -/
  tagStop : Dword := 0
  rings : Vector Ring 8 := Vector.replicate 8 {}
  patterns : List Pattern := []
  cursors : Vector (Option Cursor) 4 := Vector.replicate 4 Option.none
  acc : Vector Acc 4 := Vector.replicate 4 {}
  mxq : List MxOp := []
  zones : Vector Zone 16 := Vector.replicate 16 {}
  timetables : List Timetable := []
  armed : Option Nat := Option.none
  window : Option Window := Option.none
  kslots : List KSlot := []
  kgens : List (Nat × Half) := []
  /-- kept abort notices: id, generation, level, cause, unit of its detail (R339, R412) -/
  knotices : List (Nat × Half × Nat × Cause × Nat) := []
  /-- for each bank, the operation whose word `kn.s` holds: a refusal that its contribution meets later is counted there (R326) -/
  knBy : Vector (Option Nat) 4 := Vector.replicate 4 Option.none
  tasks : Tasks := {}
  sram : List Host.Cell := []
  /-- uncorrectable words, by address / 8 (R216) -/
  bad : List Nat := []
  /-- words with a single-bit error -/
  soft : List Nat := []
  /-- bytes whose value the spec leaves unspecified (R236, R311) -/
  unspec : List Nat := []
  /-- next word of the scrubber, and the earliest tick of its next read (R217) -/
  scrub : Nat := 0
  scrubDue : Nat := 0
  utlb : List TlbEntry := []
  digest : Dword := 0xFFFFFFFFFFFFFFFF
  records : Dword := 0
  dgbuf : List DigestRec := []
  /-- supervisor selectors 0 to 3 (R420) -/
  sel : Vector Dword 4 := Vector.replicate 4 0
  /-- supervisor timer: the tick on which it expires, 0 while disarmed; the ticks that remain while the tile is saved (R430) -/
  stmr : Nat := 0
  supOp : Option SupOp := Option.none
  /-- the tick on which the built-in supervisor ends its handler (R433, DESIGN CHOICE, log 8) -/
  natAt : Option Nat := Option.none
  /-- the placement or restoration entry has ended (R431) -/
  supReady : Bool := false
  pend : List Pending := []
  /-- tile error word counts: SRAM corrected, register corrected, parity, uncorrectable, residue (R429) -/
  errs : Vector Nat 5 := Vector.replicate 5 0
  /-- uncorrectable register words: bank, file, register, 64-bit word (R140) -/
  badRegs : List (Nat × Nat × Nat × Nat) := []
  /-- register words with a single-bit error (R140) -/
  softRegs : List (Nat × Nat × Nat × Nat) := []
  /-- an upset of the value path of the matrix unit: the next write or partial result disagrees with its predicted residue (R251) -/
  mxUpset : Bool := false
  /-- upsets of the beats that reach the ingress in the next window: offset after W, 8-byte word of the beat, beyond correction (R296, R439) -/
  beatUpset : List (Nat × Nat × Bool) := []
  /-- a parity refetch is under way (R97) -/
  refetch : Bool := false
  /-- pre-emption request of class 2 pending; one of class 1, for the next period boundary (R434; PR of Table 18.2) -/
  preReq : Bool := false
  prePeriod : Bool := false
  /-- halted for pre-emption with every bank captured (R435) -/
  preHalted : Bool := false
  /-- halted for pre-emption, or stopped by a supervisor fault or by the end of the launch -/
  frozen : Bool := false
  /-- the tile was held by the DEBUG handler (R442) -/
  debugHeld : Bool := false
  drained : Bool := false
  /-- the cause that ends the launch from this tile, and whether it is a supervisor fault (R422, R432) -/
  ended : Option (Cause × Bool) := Option.none
  /-- the leaf has taken the ending up -/
  endSeen : Bool := false
  prevs : List PrevLaunch := []
  heldRun : Option HeldRun := Option.none
  /-- the tick on which the gang bundle was found ready but for the other tiles (R156) -/
  gangWait : Option Nat := Option.none
  /-- the gang bundle issues on this tick -/
  gangGo : Bool := false
  /-- the fault that the tile's gang bundle would raise, were it to issue on the tick of `gangWait` (R128, R156) -/
  gangTrap : Option Pending := Option.none
  /-- the tile has completed its part of a ganged bundle in which another member faulted (R113) -/
  gangHold : Bool := false
  /-- the leader has issued `ctl.split`, and the gang is dissolved once the other members have completed that bundle (R113, R157) -/
  gangSplit : Bool := false
  /-- the long immediates and the byte length of the bundle under issue, and the bus of its move (R100) -/
  lis : List Word := []
  blen : Nat := 8
  bus : BitVec 3 := 0
deriving DecidableEq, Repr

/-- A contribution or a partial value of a collective (R323 to R326). -/
structure KPart where
  child : Nat
  launch : Dword
  /-- the domain: its first tile address at the level -/
  dom : Nat
  id : Nat
  gen : Half
  par : KParams
  /-- place in the tree of R325 -/
  depth : Nat
  idx : Nat
  /-- element encodings; for ATTN the rows (m, l, v) one after another -/
  val : List Nat
  /-- an uncorrectable word (R339) -/
  bad : Bool := false
  /-- a word with a single-bit error (R439) -/
  soft : Bool := false
  /-- sending tile and operation, for its refusals -/
  src : Option (Nat × Nat) := none
  /-- tick by which the result is counted: every contributor has sent its value, and nothing has hindered the collective since (R327) -/
  until_ : Option Nat := none
deriving DecidableEq, Repr

end Sys2Proof.Machine
end

