-- ==== Sys2Proof/Machine/SysState.lean ====
section
/-! DEFINITION. The state of the control processors as plain data: boot, trust and power; queues, launch records, images and launches; the scheduler's links to the leaf controllers. -/

namespace Sys2Proof.Machine

/-- What a verified Jaith image states of itself (Table 1.4). -/
structure Jaith where
  /-- header bytes 0x020 to 0x03F, as one number, first byte highest -/
  digest : BitVec 256
  iface : Nat
  sec : Nat
  /-- flag bit 0: raises the security floor -/
  raise : Bool
  /-- SHA-256 of the owner public key -/
  owner : BitVec 256
deriving DecidableEq, Repr

/-- Boot, trust, firmware load (R12 to R28). -/
structure Boot where
  /-- PERST# has been deasserted (R13) -/
  out : Bool := false
  stage : Nat := 0x01
  reason : Nat := 0
  leader : Nat := 0xFF
  /-- I/O die of the active global scheduler core -/
  sched : Nat := 0xFF
  /-- clusters held out of placement (R14, R25) -/
  held : List Nat := []
  /-- fused security floor (R16) -/
  floor : Nat := 0
  /-- owner slot; none when empty (R16) -/
  owner : Option (BitVec 256) := none
  strap : Bool := false
  xferAccepted : Bool := false
  xferResult : Nat := 0
  nonce : BitVec 128 := Config.freeNonce 0
  xfer : Vector Dword 16 := Vector.replicate 16 0
  slots : Vector (BitVec 256) 16 := Vector.replicate 16 0
  /-- owner of the firmware load region (R26) -/
  port : Option HostPort := none
  fwlen : Dword := 0
  foreign : Nat := 0
  /-- clusters that run the image of the reload, and the one in progress -/
  reloaded : List Nat := []
  inProgress : Nat := 0xFF
  reloading : Bool := false
  busy : Bool := false
  /-- words of the supervisor store in the running Jaith image, whose place in the image the spec does not give; none for the supervisor built into the model (R416; DESIGN CHOICE, log 8) -/
  sup : List Word := []
  /-- last tick for READY, 20 s after the commit (R14) -/
  deadline : Nat := 0
  /-- the running image, and the one of a reload -/
  image : Option Jaith := none
  next : Option Jaith := none
  rsvcnt : Nat := 0
  winctl : Dword := 0
  /-- BAR2 spans 256 MiB × 2^k (R29) -/
  bar2k : Nat := 0
  /-- writes of notify pages before READY (R15): queue and value -/
  pages : List (Nat × Nat) := []
deriving DecidableEq, Repr

/-- A launch record (Tables 3.2 and 3.3). -/
structure LRec where
  image : Nat
  tasked : Bool
  prio : Nat
  pclass : Nat
  done : Bool
  dep : Bool
  early : Bool
  asid : Half
  mask : Nat
  producer : Dword
  sem : Nat
  semVal : Dword
  shape : Nat
  limit : Nat
  args : List Dword
deriving DecidableEq, Repr

/-- One role of an image, as the loader writes it (R34 to R39). -/
structure RoleImg where
  num : Nat
  code : List Word := []
  entry : Nat := 0
  rings : List Ring := []
  patterns : List Pattern := []
  /-- socket mode and lock bits of the MODEMAP -/
  mode : BitVec 23 := 0
  lock : BitVec 23 := 0
  timetables : List Timetable := []
  data : List (Nat × List Byte) := []
deriving DecidableEq, Repr

/-- A program image: its shape, its role map, its roles (R33 to R39). -/
structure Image where
  modes : Nat := 0
  cols : Nat := 0
  rows : Nat := 0
  dies : Nat := 0
  map : List Nat := []
  roles : List RoleImg := []
deriving DecidableEq, Repr

/-- A load code with the role and the section index that R40 reports. -/
structure LoadErr where
  code : Nat
  role : Nat := 0xFF
  index : Nat := 0xFFFF
deriving DecidableEq, Repr

/-- A record that has been accepted and checked, at the head of its queue. -/
structure QHead where
  rcd : LRec
  img : Image
  /-- what the loader's checks will answer -/
  load : Option LoadErr
  /-- tick from which it waits for placement; none before it is ready -/
  since : Option Nat := none
deriving DecidableEq, Repr

/-- A created launch queue (R52 to R61). -/
structure LQueue where
  num : Nat
  base : Nat
  /-- depth as log2 -/
  depth : Nat
  maxPrio : Nat
  weight : Nat
  device : Bool
  asid : Half
  /-- notified index N, read index, notify-discard count, semaphore fault word -/
  notified : Nat := 0
  head : Nat := 0
  discards : Nat := 0
  semFault : Dword := 0
  faulted : Bool := false
  /-- consecutive failed checksums -/
  fails : Nat := 0
  /-- earliest tick of the next read of the head record -/
  reread : Nat := 0
  /-- a read of the head record between its two mark reads: the tick of the first, and the body once it is read (R58) -/
  rd : Option (Nat × Option (List Byte)) := none
  /-- bytes of the head record, accepted, while the read of its image is refused (R60) -/
  accepted : Option (List Byte) := none
  /-- the snoop filter keeps a wake pending: no queue could be evicted (R56) -/
  wake : Bool := false
  mapped : Bool := false
  everMapped : Bool := false
  lastNotify : Nat := 0
  destroying : Bool := false
  item : Option QHead := none
deriving DecidableEq, Repr

/-- Where a launch stands. -/
inductive Phase where
  /-- PLACE has been sent -/
  | placing
  /-- every leaf has answered PLACED; START has been sent -/
  | started
  /-- staged onto the placement of another launch (R114) -/
  | staged
  /-- PREEMPT has been sent -/
  | preempting
  | saved
  /-- every leaf has sent HALTED (R448) -/
  | retired
  /-- ended without a save (R438) -/
  | ending
  /-- its completion has been written, its RELEASE is on the way -/
  | complete
deriving DecidableEq, Repr

/-- A staged launch (R114 to R117). -/
structure Stage where
  on : Dword
  /-- tick named in tick mode -/
  tickAt : Option Nat := none
  /-- tokens that have left and that have arrived: from die, to die -/
  sent : List Nat := []
  tokens : List (Nat × Nat) := []
  /-- dies that have switched -/
  done : List Nat := []
deriving DecidableEq, Repr

/-- A launch with an entry in the journal (R69). -/
structure Launch where
  id : Dword
  queue : Nat
  index : Nat
  rcd : LRec
  img : Image
  load : Option LoadErr := none
  phase : Phase := .placing
  /-- priority after R60's cap -/
  prio : Nat
  /-- for each shape die: physical die, origin row, origin column (R76) -/
  place : List (Nat × Nat × Nat) := []
  /-- clusters that answered NOFIT in this attempt -/
  nofit : List Nat := []
  /-- sent by leaves, received by the scheduler -/
  sPlaced : List Nat := []
  placed : List Nat := []
  sTrig : List Nat := []
  trig : List Nat := []
  sHalt : List Nat := []
  halted : List Nat := []
  /-- clusters whose save is in hand, and those that answered HALTED after it (R436) -/
  sSaved : List Nat := []
  savedBy : List Nat := []
  released : List Nat := []
  startTick : Option Nat := none
  /-- tick on which a tile of it last rang a bell, or on which it started (R32) -/
  lastRing : Nat := 0
  /-- order of launching -/
  order : Nat := 0
  /-- base rank and total member count of its L4 group, as the group table stood at its placement (R82) -/
  group : Option (Nat × Nat) := none
  since : Nat := 0
  /-- status, detail, role, section index (Table 3.7) -/
  result : Option (Nat × Nat × Nat × Nat) := none
  /-- the status slot and the semaphore have been written -/
  slotDone : Bool := false
  /-- earliest tick of the next try of the completion -/
  due : Nat := 0
  /-- save area (R436): tiles at their old addresses, gangs, kiln partials -/
  saved : List Tile := []
  gangs : List Nat := []
  kiln : List KPart := []
  stage : Option Stage := none
  /-- its placement is a restoration (R437) -/
  restoring : Bool := false
  /-- a condemned quad asked for its pre-emption: it returns to the same logical rectangles (R87) -/
  samePlace : Bool := false
deriving DecidableEq, Repr

/-- Messages of Table 3.8. -/
inductive LMsg where
  | place | start (t : Nat) | preempt | release
  | placed (e : Option LoadErr) | nofit | triggered | halted (saved : Bool) | fault (cause role : Nat)
deriving DecidableEq, Repr

/-- A message on the link of a leaf, with the tick at which its receiver consumes it; or one that waits at its sender for a permit (R70). -/
structure LinkMsg where
  cluster : Nat
  msg : LMsg
  launch : Dword
  due : Nat
  waits : Bool := false
deriving DecidableEq, Repr

/-- The global scheduler (R52 to R72). -/
structure Sched where
  qtbase : Dword := 0
  cmdQueue : Nat := 0
  cmdResult : Nat := 0
  cmdBusy : Bool := false
  takeovers : Nat := 0
  standby : Bool := false
  queues : List LQueue := []
  /-- by priority: the queue that holds the turn, records taken in it (R61) -/
  turns : List (Nat × Nat × Nat) := []
  launches : List Launch := []
  /-- completion entries of the journal (R69) -/
  journal : List (Dword × Nat) := []
  orders : Nat := 0
  msgs : List LinkMsg := []
  /-- tick since which the active core has missed its heartbeat, and the notifies held since then: queue, value, by a device, well formed (R69) -/
  silent : Option Nat := none
  heldNotes : List (Nat × Nat × Bool × Bool) := []
  /-- earliest tick of its next action -/
  next : Nat := 0
  /-- group table (R82), by dword -/
  groups : List (Nat × Dword) := []
deriving DecidableEq, Repr

/-- Fault records of a die (R442). -/
structure DieRecs where
  die : Nat
  idx : Nat := 0
  recs : List (Nat × List Byte) := []
deriving DecidableEq, Repr

end Sys2Proof.Machine
end

