-- ==== Sys2Proof/Machine/State.lean ====
section
/-! DEFINITION. The state of the module as plain data, the reasons a step can stop, and the state at reset. -/

namespace Sys2Proof.Machine

/-- Instruction memory of a quad, its supervisor store and its gang state, by the tile address of the quad's tile 0 (R86, R95, R416). -/
structure Quad where
  addr : Nat
  active : List Word := []
  shadow : List Word := []
  /-- words of the supervisor store; the shipped supervisor of R433 where the list is empty (DESIGN CHOICE, log 8) -/
  store : List Word := []
  /-- launch that holds the quad (R76) -/
  owner : Option Dword := none
  ganged : Bool := false
  /-- words of the active half, and of the supervisor store, with a parity error, by address / 4 (R97, R416) -/
  badCode : List Nat := []
  /-- words of the shadow half with a parity error (R97, R119) -/
  badShadow : List Nat := []
  badStore : List Nat := []
deriving DecidableEq, Repr

/-- The counters of Table 19.7, each modulo 2^64. -/
structure Counters where
  ret : Dword := 0
  ended : Dword := 0
  issue : Dword := 0
  stall : Dword := 0
  gbytes : Dword := 0
  xbytes : Dword := 0
  atom : Dword := 0
  ref : Dword := 0
  disc : Dword := 0
  logovf : Dword := 0
  divs : Dword := 0
deriving DecidableEq, Repr

/-- The error counters of a physical quad (R441). -/
structure QuadErr where
  die : Nat
  quad : Nat
  corr : Nat := 0
  unc : Nat := 0
  resid : Nat := 0
  exch : Nat := 0
  /-- a counter has reached its threshold: the quad is condemned (R87) -/
  condemned : Bool := false
deriving DecidableEq, Repr

/-- The error registers (Table 18.8). -/
structure ErrRegs where
  base : Dword := 0
  head : Nat := 0
  tail : Nat := 0
  cfg : Dword := 0x0000000202021000
  drop : Nat := 0
deriving DecidableEq, Repr

/-- A message that leaves the module: an interrupt, a completion of a host access or of an SPDM request, or an acknowledgement to a peer. -/
inductive HostMsg where
  | msix (vector : Nat)
  /-- data of a completed read -/
  | data (bytes : List Byte)
  /-- completion without data -/
  | done
  /-- Unsupported Request (R26) -/
  | unsupported
  /-- an SPDM response: request name, bytes fixed by the spec, number of the free value for the rest -/
  | spdm (name : String) (bytes : List Byte) (free : Nat)
  /-- acknowledgement of a Eutas packet: its module and sequence number (R313) -/
  | eutasAck (src seq : Nat)
deriving DecidableEq, Repr

/-- A fault record of the translation service (R276). -/
structure FaultRec where
  id : Word
  asid : Half
  /-- va / 2^16 -/
  page : Nat
  va : Nat
  access : Nat
  tile : Nat
  /-- written to the fault queue -/
  written : Bool
deriving DecidableEq, Repr

/-- Registers of the translation service (Table 12.8). -/
structure TransRegs where
  asidBase : Dword := 0
  fqBase : Dword := 0
  fqHead : Nat := 0
  fqTail : Nat := 0
  walks : Nat := 0
  records : Nat := 0
  /-- next fault id -/
  nextId : Word := 1
deriving DecidableEq, Repr

/-- A CXL port (R264): link up, capacity in GiB, end of a retraining hold. -/
structure CxlPort where
  up : Bool := false
  cap : Nat := 0
  holdUntil : Nat := 0
deriving DecidableEq, Repr

/-- Progress of a page migration, replication or collapse (R294, Table 16.7). -/
structure MigReq where
  who : Requester
  op : Nat
  /-- destination frame -/
  dst : Nat
  /-- step of Table 16.7 that comes next -/
  step : Nat
  /-- the leaf maps 512 MiB -/
  big : Bool
  oldFrame : Nat
  newFrame : Nat
  /-- addresses of the PTEs that take part, with the value of each before step 1 -/
  ptes : List (Nat × Dword) := []
  /-- where they map the page: ASID and first virtual page -/
  maps : List (Half × Nat) := []
  /-- accesses that its map fence waits for: tile and operation (R381) -/
  waits : List (Nat × Nat) := []
  /-- the map fence of the step has dropped its entries -/
  dropped : Bool := false
  /-- the peer of the old frame has been asked for its bytes (R386) -/
  asked : Bool := false
deriving DecidableEq, Repr

/-- A slot of the request aperture, or the host's request registers (R294). -/
structure MigSlot where
  who : Requester
  pageWord : Dword := 0
  /-- page word and command word of the request in progress -/
  page : Dword := 0
  cmd : Dword := 0
  status : Nat := 0
  accepted : Nat := 0
deriving DecidableEq, Repr

/-- Who sent a request to an atomic unit. -/
inductive UnitSrc where
  /-- operation `op` of a tile, with the L4 rank of the tile -/
  | tile (a op rank : Nat)
  | host (port : HostPort)
  /-- a request of a peer module, by its sequence number -/
  | peer (m seq : Nat)
deriving DecidableEq, Repr

/-- A request at the input, the gate or the watch list of an atomic unit (R289). -/
structure UnitReq where
  src : UnitSrc
  launch : Option Dword
  bank : BitVec 2
  /-- tick of arrival at the input -/
  arrive : Nat
  pa : Nat
  /-- request of the host or of a peer -/
  req : MemReq := .read 0
deriving DecidableEq, Repr

/-- Log or gate of one launch at one unit (R290, R291, R456 to R460). -/
structure UnitLog where
  launch : Dword
  /-- false: logging; true: the gate -/
  gate : Bool
  base : Nat
  z : Nat
  /-- chunks appended, or index of the current chunk -/
  c : Nat := 0
  /-- open chunk while logging, or current chunk: remaining count and source -/
  count : Nat := 0
  source : Nat := 0
  /-- chunks in the header of a gated log -/
  total : Nat := 0
  ovf : Bool := false
  div : Bool := false
  timeout : Nat := 0
  /-- tick on which the unit started to log (R457) -/
  begun : Nat := 0
  /-- the current chunk is still to be read: its pseudo-channel is being spared (R90) -/
  stale : Bool := false
  /-- the last chunk c of a divergence or of a log that was turned off -/
  active : Bool := true
deriving DecidableEq, Repr

/-- An atomic unit (R289). -/
structure AUnit where
  die : Nat
  inq : List UnitReq := []
  /-- first tick on which it is free again -/
  free : Nat := 0
  logs : List UnitLog := []
  /-- watch list: requests, each with its entry number and the tick of its last check (R354) -/
  watch : List (Nat × Nat × UnitReq) := []
  nextEntry : Nat := 0
deriving DecidableEq, Repr

/-- A Eutas packet in the retry store of this module: destination, sequence number, body, tries made, tick of the last (R313). -/
structure EutasOut where
  dst : Nat
  seq : Nat
  body : EutasBody
  tries : Nat := 1
  sent : Nat
deriving DecidableEq, Repr

/-- What waits for the answer of a peer: an operation of a tile, a packet that its receiver has not accepted yet, or the copy of a page for a migration. -/
inductive AskFor where
  | op (tile id : Nat)
  | packet (id : Nat)
  | copy (who : Requester)
deriving DecidableEq, Repr

/-- A packet to a peer that the peer has not answered yet. -/
structure EutasAsk where
  dst : Nat
  seq : Nat
  what : AskFor
deriving DecidableEq, Repr

/-- Registers and state of the module links (Table 13.5, R313). -/
structure EutasRegs where
  modnum : Nat := 0
  tries : Nat := 16
  timeout : Nat := 170000
  xfaults : Nat := 0
  overflows : Nat := 0
  /-- links 0 to 11: peer, replays, training, up -/
  links : List (Nat × Nat × Bool × Bool) := List.replicate 12 (0, 0, false, false)
  /-- route masks by module; a module that is not listed has mask 0 -/
  route : List (Nat × Nat) := []
  /-- modules found unreachable by exhausted retries (R313) -/
  lost : List Nat := []
  out : List EutasOut := []
  asked : List EutasAsk := []
  /-- next sequence number by destination -/
  nextSeq : List (Nat × Nat) := []
  /-- packets received, by source and sequence number -/
  seen : List (Nat × Nat) := []
deriving DecidableEq, Repr

/-- A routed packet, or a task message, that its receiver has not accepted yet (R304 to R306, R320). -/
structure Packet where
  id : Nat
  launch : Dword
  /-- tile of the engine that sent it, and the operation; none for a kiln's delivery or a packet of a peer -/
  src : Option (Nat × Nat)
  dst : Nat
  zone : Nat
  off : Nat
  level : Nat
  rank : Nat
  data : List Byte
  /-- the strand whose push it is a packet of -/
  strand : Option (BitVec 2 × Option Nat) := none
  /-- a task message, with the task -/
  task : Option Nat := none
  /-- the context of `nt.mig` -/
  ctx : Bool := false
  /-- the module it goes to, where that is another one, and the L4 rank there -/
  away : Option Nat := none
  toRank : Nat := 0
  /-- the module it came from, and the sequence number that its answer names -/
  peer : Option (Nat × Nat) := none
  /-- a kiln's delivery: id, generation, level and domain of its collective -/
  coll : Option (Nat × Half × Nat × Nat) := none
  /-- what its strand takes when that module is lost -/
  report : Option Pending := none
deriving DecidableEq, Repr

/-- The state of the module. -/
structure State where
  /-- module tick counter (R5) -/
  tick : Nat := 0
  /-- tiles by rising address; a tile that is not listed is the cleared tile of R84 -/
  tiles : List Tile := []
  quads : List Quad := []
  /-- global memory: HBM, CXL and host memory, by physical address (R262; DESIGN CHOICE, log 1) -/
  mem : List Host.Cell := []
  cnt : Counters := {}
  qerr : List QuadErr := []
  err : ErrRegs := {}
  /-- messages to the host, oldest first -/
  outbox : List HostMsg := []
  /-- debug enable bits DE that are set: die and physical tile (R442) -/
  debugOn : List (Nat × Nat) := []
  /-- column shifts: cluster 0 to 95, quad column, logical row shifted out (R87, R94) -/
  shifts : List (Nat × Nat × Nat) := []
  /-- uncorrectable words of global memory, by address / 8 (R264, R439) -/
  badMem : List Nat := []
  tr : TransRegs := {}
  /-- fault records that no `RESOLVE` has answered (R276) -/
  faults : List FaultRec := []
  /-- TLBs of the clusters, by cluster number (R271) -/
  ctlb : List (Nat × List TlbEntry) := []
  cxl : Vector CxlPort 8 := Vector.replicate 8 {}
  /-- entries of `PEERWIN` that are not zero -/
  peerWin : List (Nat × Dword) := []
  migSlots : List MigSlot := []
  migs : List MigReq := []
  /-- frames whose last migration ended on a tick (R387) -/
  migDone : List (Nat × Nat) := []
  units : List AUnit := []
  eutas : EutasRegs := {}
  /-- cluster load registers: launch, cluster, word, tick of the write (R403) -/
  cloads : List (Dword × Nat × Dword × Nat) := []
  packets : List Packet := []
  nextPacket : Nat := 0
  /-- partial values held in kilns, and children on their way to a kiln -/
  kiln : List KPart := []
  kilnAir : List KPart := []
  nextChild : Nat := 0
  /-- dies that have left the healthy set, and dies whose range is unreachable (R91) -/
  sick : BitVec 24 := 0
  fenced : BitVec 24 := 0
  /-- pseudo-channels under sparing: die, channel, end of the copy (R90) -/
  sparing : List (Nat × Nat × Nat) := []
  /-- pseudo-channels that failed with no spare left (R90) -/
  failed : List (Nat × Nat) := []
  /-- accesses to HBM corrected in the last 2^34 ticks: die, channel, tick (R439) -/
  hbmCorr : List (Nat × Nat × Nat) := []
  /-- replays of the last 2^24 ticks: source and destination die, lane, tick (R439) -/
  laneReplays : List (Nat × Nat × Nat × Nat) := []
  /-- spares used of each stack -/
  spared : List (Nat × Nat) := []
  /-- die links in retraining: source, destination, end of the hold (R89) -/
  retrain : List (Nat × Nat × Nat) := []
  /-- `PWRCAP` in watts, bit 0 of `PWRST`, its draw in units of 10 W (R31; DESIGN CHOICE, log 7) -/
  pwrcap : Nat := 8000
  overCap : Bool := false
  /-- tick of the last write of `PWRCAP` (R32) -/
  capAt : Nat := 0
  draw : Nat := 0
  /-- dies on which capping inserts idle ticks (R32) -/
  capped : List Nat := []
  boot : Boot := {}
  sch : Sched := {}
  /-- staging SRAM (R13) -/
  staging : List Host.Cell := []
  /-- logical quads that are condemned and not yet shifted, and lost ones (R87) -/
  condemned : List Nat := []
  lostQuads : List Nat := []
  /-- clusters that drain for a reload (R23) -/
  draining : List Nat := []
  dieRecs : List DieRecs := []
  /-- die links retrained since reset, and those at half width (R89, R117) -/
  retrained : List (Nat × Nat) := []
  halfWidth : List (Nat × Nat) := []
  /-- tick on which the error counters were halved (R441) -/
  halved : Nat := 0
  /-- writes of the host behind one that its home has refused, in the order of their arrival (R372) -/
  hostQ : List (Instr × EvArg) := []
  /-- dies on which the management controllers hold new placements (R32) -/
  capHeld : List Nat := []
  /-- arguments of the event under execution -/
  ev : EvArg := {}
  /-- the tile whose strand the step serves (DESIGN CHOICE, log 2) -/
  cur : Nat := 0
  /-- tiles still to be served in this tick (DESIGN CHOICE, log 2) -/
  turn : List Nat := []
  /-- deadline of a power cap (R32) -/
  capUntil : Option Nat := none
  /-- timed events from outside and free choices (DESIGN CHOICE, log 2) -/
  agenda : List (Nat × Instr × EvArg) := []
  /-- counter of free values (DESIGN CHOICE, log 3) -/
  free : Nat := 0
deriving DecidableEq, Repr

/-- Reasons for a fault of the model. -/
inductive Fault where
  /-- raised by `step` when the agenda names a move as an event: no agent can do that; safe -/
  | agendaMove
deriving DecidableEq, Repr

/-- Reasons for a refusal of the model. -/
inductive Refusal where
  /-- raised by an arm of `exec` whose instruction has no meaning yet; safe -/
  | notModelled (mnemonic : String)
deriving DecidableEq, Repr

/-- The module right after reset. -/
def State.reset : State := {}

end Sys2Proof.Machine
end

