-- ==== Sys2Proof/Machine/Ops.lean ====
section
/-! DEFINITION. The named operations over memory, tiles, registers, latches and ports; code fetch; landings; taking an exception and returning from one. -/

namespace Sys2Proof

/-- Sockets without a pipeline mode (R35, R136). -/
def Sock.noMode : Sock → Bool
  | .ctl | .cf | .sv | .rp => true
  | .a0 | .a1 | .sh | .mu | .fp | .sf | .vu | .vx | .ls | .ag | .mx | .dm | .nt | .kn | .sy | .tk => false

/-- Sockets that are always data-locked (R35). -/
def Sock.always : Sock → Bool
  | .dm | .nt | .kn | .sy | .tk => true
  | .ctl | .a0 | .a1 | .sh | .mu | .fp | .sf | .vu | .vx | .ls | .ag | .mx | .cf | .sv | .rp => false

end Sys2Proof

namespace Sys2Proof.Machine

/-! ## Memory cells -/

/-- One byte; an address that is not listed reads 0 (R84 for local SRAM; DESIGN CHOICE, log 1 for global memory). -/
def cellsRead : List Host.Cell → Nat → Byte
  | [], _ => 0
  | (b, v) :: r, a => if a = b then v else cellsRead r a

/-- Writes one byte and keeps the canonical form: rising addresses, no byte 0 listed. -/
def cellsWrite : List Host.Cell → Nat → Byte → List Host.Cell
  | [], a, v => if v = 0 then [] else [(a, v)]
  | (b, w) :: r, a, v =>
    if a < b then (if v = 0 then (b, w) :: r else (a, v) :: (b, w) :: r)
    else if a = b then (if v = 0 then r else (a, v) :: r)
    else (b, w) :: cellsWrite r a v

/-- Every listed address lies above `lo`, addresses rise, and no byte 0 is listed. -/
def cellsFrom (lo : Nat) : List Host.Cell → Bool
  | [] => true
  | (a, v) :: r => decide (lo ≤ a) && decide (v ≠ 0) && cellsFrom (a + 1) r

/-- The canonical form of a memory. -/
def cellsWf (m : List Host.Cell) : Bool := cellsFrom 0 m

/-- Writes bytes at consecutive addresses. -/
def cellsWriteAll (m : List Host.Cell) (a : Nat) : List Byte → List Host.Cell
  | [] => m
  | v :: vs => cellsWriteAll (cellsWrite m a v) (a + 1) vs

/-- `n` bytes from consecutive addresses. -/
def cellsReadAll (m : List Host.Cell) (a : Nat) : Nat → List Byte
  | 0 => []
  | n + 1 => cellsRead m a :: cellsReadAll m (a + 1) n

/-- Little-endian value of bytes (R2). -/
def leNat : List Byte → Nat
  | [] => 0
  | b :: bs => b.toNat + 256 * leNat bs

/-- The low `n` bytes of a value, byte 0 first (R2). -/
def natLe (v : Nat) : Nat → List Byte
  | 0 => []
  | n + 1 => BitVec.ofNat 8 v :: natLe (v / 256) n

/-- Does the memory list a byte at the address (a byte other than 0)? -/
def cellsHas (m : List Host.Cell) (a : Nat) : Bool := cellsRead m a != 0

/-! ## Numbers in fields -/

/-- Bits [hi:lo] of a number (R9). -/
def bits (x hi lo : Nat) : Nat := x / 2 ^ lo % 2 ^ (hi + 1 - lo)

/-- SignExt(x, n) (R9). -/
def signExt (x n : Nat) : Int :=
  if n = 0 then 0
  else if x % 2 ^ n < 2 ^ (n - 1) then (x % 2 ^ n : Nat) else (x % 2 ^ n : Nat) - (2 ^ n : Nat)

/-- Bits [hi:lo] of a bus. -/
def busBits (v : Bus) (hi lo : Nat) : Nat := bits v.toNat hi lo

/-! ## Tiles and quads -/

/-- Tiles from an address on: first match of a sorted list. -/
def findTile (a : Nat) : List Tile → Tile
  | [] => { addr := a }
  | t :: r => if t.addr = a then t else findTile a r

def putTile (t : Tile) : List Tile → List Tile
  | [] => [t]
  | u :: r => if t.addr < u.addr then t :: u :: r else if t.addr = u.addr then t :: r else u :: putTile t r

def State.tileAt (s : State) (a : Nat) : Tile := findTile a s.tiles

def State.setTile (s : State) (t : Tile) : State := { s with tiles := putTile t s.tiles }

/-- The tile the step serves. -/
def State.self (s : State) : Tile := s.tileAt s.cur

/-- Changes the tile at an address; the change keeps its address. -/
def State.onTile (s : State) (a : Nat) (f : Tile → Tile) : State :=
  s.setTile { f (s.tileAt a) with addr := a }

/-- Changes the served tile. -/
def State.onSelf (s : State) (f : Tile → Tile) : State := s.onTile s.cur f

/-- Does a tile exist at the address (R74)? -/
def tileExists (a : Nat) : Bool :=
  decide (a / 4096 < 24) && decide (bits a 9 6 ≤ 8) && decide (bits a 5 2 ≤ 11)

def dieOf (a : Nat) : Nat := a / 4096
/-- Cluster number 0 to 95 of a tile address. -/
def clusterOf (a : Nat) : Nat := a / 1024
/-- Tile address of tile 0 of the quad. -/
def quadOf (a : Nat) : Nat := a / 4 * 4

/-- Logical row shifted out of a column, if its spare is in use (R94). -/
def State.shiftOf (s : State) (cluster col : Nat) : Option Nat :=
  (s.shifts.find? fun e => e.1 = cluster ∧ e.2.1 = col).map fun e => e.2.2

/-- Physical tile t = 4q + tile-in-quad of the die, with q = 120 × cluster + 12 × row + column (R87, R442). -/
def State.physTile (s : State) (a : Nat) : Nat :=
  let row := bits a 9 6
  let col := bits a 5 2
  let row := match s.shiftOf (clusterOf a) col with
    | some r => if r ≤ row then row + 1 else row
    | none => row
  4 * (120 * bits a 11 10 + 12 * row + col) + a % 4

def findQuad (a : Nat) : List Quad → Quad
  | [] => { addr := a }
  | q :: r => if q.addr = a then q else findQuad a r

def putQuad (q : Quad) : List Quad → List Quad
  | [] => [q]
  | u :: r => if q.addr < u.addr then q :: u :: r else if q.addr = u.addr then q :: r else u :: putQuad q r

/-- The quad of a tile address. -/
def State.quadAt (s : State) (a : Nat) : Quad := findQuad (quadOf a) s.quads

def State.setQuad (s : State) (q : Quad) : State := { s with quads := putQuad q s.quads }

def State.onQuad (s : State) (a : Nat) (f : Quad → Quad) : State :=
  s.setQuad { f (s.quadAt a) with addr := quadOf a }

/-- The tiles that issue with a tile: the four of its quad in a gang (R110), else itself. -/
def State.members (s : State) (a : Nat) : List Nat :=
  if (s.quadAt a).ganged then [quadOf a, quadOf a + 1, quadOf a + 2, quadOf a + 3] else [a]

/-- The tile whose program counter a gang fetches at: the leader, or the first member that has still to complete a bundle which the leader has completed (R110, R113). -/
def State.gangHead (s : State) (a : Nat) : Nat :=
  if (s.tileAt (quadOf a)).gangHold then ((s.members a).find? fun m => !(s.tileAt m).gangHold).getD (quadOf a) else quadOf a

/-- The tile whose code a tile fetches: the leader's in a gang, for a user strand (R110). -/
def State.codeTile (s : State) (a : Nat) : Tile :=
  if (s.quadAt a).ganged ∧ (s.tileAt a).run ≠ 3 then s.tileAt (quadOf a) else s.tileAt a

/-! ## Strand banks, registers, latches, ports -/

def Tile.bank (t : Tile) (k : BitVec 2) : Strand := t.banks[k.toNat]'k.isLt

def Tile.setBank (t : Tile) (k : BitVec 2) (b : Strand) : Tile :=
  { t with banks := t.banks.set k.toNat b k.isLt }

def Tile.onBank (t : Tile) (k : BitVec 2) (f : Strand → Strand) : Tile := t.setBank k (f (t.bank k))

theorem sock_num_lt (s : Sock) : s.num < 23 := by cases s <;> decide

def Strand.sock (b : Strand) (s : Sock) : SockCtx := b.socks[s.num]'(sock_num_lt s)

def Strand.setSock (b : Strand) (s : Sock) (c : SockCtx) : Strand :=
  { b with socks := b.socks.set s.num c (sock_num_lt s) }

def Strand.onSock (b : Strand) (s : Sock) (f : SockCtx → SockCtx) : Strand := b.setSock s (f (b.sock s))

def Strand.getG (b : Strand) (n : BitVec 5) : Dword := b.g[n.toNat]'n.isLt
def Strand.setG (b : Strand) (n : BitVec 5) (v : Dword) : Strand := { b with g := b.g.set n.toNat v n.isLt }
def Strand.getV (b : Strand) (n : BitVec 5) : Bus := b.v[n.toNat]'n.isLt
def Strand.setV (b : Strand) (n : BitVec 5) (v : Bus) : Strand := { b with v := b.v.set n.toNat v n.isLt }

/-- `b0` is not stored and reads 1 (R139). -/
def Strand.getB (b : Strand) (n : BitVec 3) : Bool := n == 0 || b.b.getLsbD n.toNat

/-- A write to `b0` is discarded (R139). -/
def Strand.setB (b : Strand) (n : BitVec 3) (v : Bool) : Strand :=
  if n = 0 then b
  else if v then { b with b := b.b ||| (1#8 <<< n.toNat) } else { b with b := b.b &&& ~~~(1#8 <<< n.toNat) }

def SockCtx.latch (c : SockCtx) : Opnd → Bus
  | .opA => c.a
  | .opB => c.b
  | .opC => c.c

def SockCtx.setLatch (c : SockCtx) (o : Opnd) (v : Bus) : SockCtx :=
  match o with
  | .opA => { c with a := v }
  | .opB => { c with b := v }
  | .opC => { c with c := v }

/-- The socket's mode: true for data-locked (R35, R128). For `mu` it is the mode of multiplication. -/
def Tile.locked (t : Tile) (s : Sock) : Bool :=
  s.always || (!s.noMode && t.mode.getLsbD s.num)

/-- Is the result port `.x` (or `.y`) read under the rules of data-locked sockets (R128, R131)? -/
def Tile.portLocked (t : Tile) (s : Sock) (isY : Bool) : Bool :=
  if s = .mu ∧ isY then true else t.locked s

/-! ## Code -/

/-- Word `i` of a list of words; words that are not listed are zero. -/
def wordAt (ws : List Word) (i : Nat) : Word := ws.getD i 0

/-- The words of the role's code (or of the supervisor store for bank3) from an offset, at most 12: what a fetch can hold of one bundle (R98, R416). -/
def codeWords (q : Quad) (t : Tile) (k : BitVec 2) (off : Nat) : List Word :=
  if k = 3 then
    (List.range (min 12 ((16384 - off) / 4))).map fun i => wordAt q.store (off / 4 + i)
  else
    (List.range (min 12 ((t.codeLen - off) / 4))).map fun i => wordAt q.active ((t.codeStart + off) / 4 + i)

/-- Length in bytes of the bundle whose header is the first word; 4 past the end of the code. -/
def headLen : List Word → Nat
  | [] => 4
  | hd :: _ => 4 * (1 + (busesOf hd).length + nliOf hd)

/-- Offset after `n` bundles in code from an offset on (R148). -/
def afterBundles (q : Quad) (t : Tile) (k : BitVec 2) : Nat → Nat → Nat
  | 0, off => off
  | n + 1, off => afterBundles q t k n (off + headLen (codeWords q t k off))

/-- Ticks from a transfer to its target: 3, or 4 when the target crosses an aligned 64-byte line of the quad memory, or of the store for bank3 (R96, R146). -/
def transferTicks (q : Quad) (t : Tile) (k : BitVec 2) (off : Nat) : Nat :=
  if ((if k = 3 then 0 else t.codeStart) + off) % 64 + headLen (codeWords q t k off) > 64 then 4 else 3

/-! ## Free-running landings -/

/-- What a landing writes: the ports the operation produces, the status, the sticky flags; in a data-locked socket the full bits too (R125 to R128, R188). -/
def landRes (b : Strand) (s : Sock) (full : Bool) (r : Res) : Strand :=
  let c := b.sock s
  let c := match r.x with | some v => { c with x := v, fullX := c.fullX || full } | none => c
  let c := match r.y with | some v => { c with y := v, fullY := c.fullY || full } | none => c
  { b.setSock s { c with s := r.s } with flags := b.flags ||| r.flags }

/-- Lands the flights with no issue cycle left, in trigger order, so that the one triggered later wins (R126). A flight with a late cause raises it in place of the landing (R135). -/
def landFlights (locked : Sock → Bool) : List Flight → Strand → List Pending → Strand × List Pending
  | [], b, ps => (b, ps)
  | f :: fs, b, ps =>
    if f.r = 0 then
      match f.late with
      | some p => landFlights locked fs b (ps ++ [p])
      | none => landFlights locked fs (landRes b f.sock (locked f.sock) f.res) ps
    else landFlights locked fs b ps

/-- Adds an operation in flight at its place in trigger order, which decides between two landings of one cycle (R126). -/
def addFlight (f : Flight) : List Flight → List Flight
  | [] => [f]
  | g :: r => if f.seq < g.seq then f :: g :: r else g :: addFlight f r

def Strand.fly (b : Strand) (f : Flight) : Strand := { b with flight := addFlight f b.flight }

/-- FREE_RUNNING_LANDING of one bank. -/
def Tile.landBank (t : Tile) (k : BitVec 2) : Tile :=
  let b := t.bank k
  if b.flight.any (fun f => f.r = 0) then
    let (b', ps) := landFlights t.locked b.flight b []
    { t.setBank k { b' with flight := b.flight.filter (fun f => f.r ≠ 0) } with pend := t.pend ++ ps }
  else t

/-! ## The repetition buffer -/

/-- Evaluates levels, innermost first in this list, at the end of a pass whose next bundle in code is at `next` (R148, R150). -/
def evalLevels (endOf : Level → Nat) : List Level → Nat → List Level × Nat
  | [], next => ([], next)
  | l :: outer, next =>
    if endOf l ≠ next then (l :: outer, next)
    else
      let close : List Level × Nat := evalLevels endOf outer next
      if l.loopx then close
      else if l.step > 0 then
        if l.count + l.step.toNat ≥ l.bound then close
        else ({ l with count := l.count + l.step.toNat, pass := l.pass + 1 } :: outer, l.start.toNat)
      else ({ l with pass := l.pass + 1 } :: outer, l.start.toNat)

/-- LOOP_PASS_END of one bank: the levels are evaluated if the last bundle issued ended a pass. `c` is the tile whose code is fetched. -/
def Tile.passBank (t : Tile) (q : Quad) (c : Tile) (k : BitVec 2) : Tile :=
  let b := t.bank k
  if b.passEnd then
    let (ls, next) := evalLevels (fun l => afterBundles q c k l.len l.start.toNat) b.levels.reverse b.pc.toNat
    t.setBank k { b with levels := ls.reverse, pc := BitVec.ofNat 32 next, passEnd := false }
  else t

/-- FMT_TAKES_EFFECT of one bank: a pending format whose count has run out becomes the current one (R169). -/
def Strand.fmtNow (b : Strand) : Strand :=
  if b.fmtDue then { b with fmt := b.fmtPend, fmtDue := false } else b

/-! ## Causes -/

/-- Codes of Table 18.1. -/
def Cause.code : Cause → Nat
  | .none => 0x00 | .illegalBundle => 0x01 | .reservedSocket => 0x02 | .portConflict => 0x03
  | .privilegedPort => 0x04 | .misaligned => 0x05 | .localRange => 0x06 | .ringFault => 0x07
  | .translationFault => 0x08 | .protectionFault => 0x09 | .collapse => 0x0A | .peerUnreachable => 0x0B
  | .semUnderflow => 0x0C | .semRange => 0x0D | .barrierOverarrival => 0x0E | .exchangeFault => 0x0F
  | .landingOverflow => 0x10 | .orderDivergence => 0x11 | .trapInstruction => 0x12 | .loopNest => 0x13
  | .dataUncorrectable => 0x14 | .datapathCheck => 0x15 | .preempt => 0x16 | .debug => 0x17
  | .taskOverflow => 0x18 | .tornRecord => 0x19

/-- The cause of a code (Table 18.1). -/
def causeOfCode (n : Nat) : Cause :=
  [Cause.none, .illegalBundle, .reservedSocket, .portConflict, .privilegedPort, .misaligned, .localRange,
   .ringFault, .translationFault, .protectionFault, .collapse, .peerUnreachable, .semUnderflow, .semRange,
   .barrierOverarrival, .exchangeFault, .landingOverflow, .orderDivergence, .trapInstruction, .loopNest,
   .dataUncorrectable, .datapathCheck, .preempt, .debug, .taskOverflow, .tornRecord].getD n .none

/-- Priorities of Table 18.1; a cause without one comes after those with one (DESIGN CHOICE, log 10). -/
def Cause.prio : Cause → Nat
  | .dataUncorrectable | .datapathCheck => 1
  | .exchangeFault | .landingOverflow => 2
  | .misaligned | .localRange | .translationFault | .protectionFault | .collapse | .peerUnreachable
  | .semUnderflow | .semRange | .barrierOverarrival | .orderDivergence => 3
  | .preempt => 4
  | .debug => 5
  | .none | .illegalBundle | .reservedSocket | .portConflict | .privilegedPort | .ringFault
  | .trapInstruction | .loopNest | .taskOverflow | .tornRecord => 6

def Kind.code : Kind → Nat
  | .decode => 0 | .trigger => 1 | .late => 2 | .async => 3

def decodeCause : DecodeError → Cause
  | .illegalBundle => .illegalBundle
  | .reservedSocket => .reservedSocket
  | .privilegedPort => .privilegedPort
  | .portConflict => .portConflict

/-- Is the first cause taken before the second (R414)? -/
def Pending.before (p q : Pending) : Bool :=
  if p.cause.prio ≠ q.cause.prio then decide (p.cause.prio < q.cause.prio)
  else if p.seq ≠ q.seq then decide (p.seq < q.seq)
  else decide (p.cause.code ≤ q.cause.code)

/-- The pending cause of a bank that is taken first (R414). -/
def firstCause (k : BitVec 2) : List Pending → Option Pending
  | [] => none
  | p :: ps =>
    if p.bank = k then
      match firstCause k ps with
      | some q => if p.before q then some p else some q
      | none => some p
    else firstCause k ps

/-- Removes one entry. -/
def dropCause (p : Pending) : List Pending → List Pending
  | [] => []
  | q :: qs => if q = p then qs else q :: dropCause p qs

/-- The cause word (Table 18.2). -/
def causeWord (p : Pending) (more gang pr : Bool) : Dword :=
  BitVec.ofNat 64 (p.code.toNat * 2 ^ 48 + pr.toNat * 2 ^ 16 + more.toNat * 2 ^ 15 + gang.toNat * 2 ^ 14
    + p.kind.code * 2 ^ 12 + p.bank.toNat * 2 ^ 10
    + (match p.bus with | some b => 2 ^ 9 + b.toNat * 2 ^ 6 | none => 0) + p.cause.code)

/-- An ASID is bound to the tile: it has served it last, and selector 3 of its placement registers shows it (R83, R84). -/
def Tile.bindAsid (t : Tile) (n : Half) : Tile :=
  { t with asid := n, lastAsid := some n, tid := t.tid.set 3 ((t.tid[3] >>> 16 <<< 16) ||| n.setWidth 64) }

/-- Selector 2 shows an address for causes 0x05, 0x06, 0x08 to 0x0B and 0x11 (R420). -/
def Pending.shown (p : Pending) : Dword := if [0x05, 0x06, 0x08, 0x09, 0x0A, 0x0B, 0x11].contains p.cause.code then p.addr else 0

/-- TAKING AN EXCEPTION (R415 to R418, R420). Bank `p.bank` of the tile is captured where it stands with the trap offset as its program counter; the supervisor state is written; bank3 runs from offset 0, ten ticks after the bank's last bundle or after the cause became pending. -/
def Tile.enter (t : Tile) (now : Nat) (gang : Bool) (p : Pending) (trapOff : Word) : Tile :=
  let b := t.bank p.bank
  let since := max b.lastIssue p.since
  let t := t.setBank p.bank { b with pc := trapOff }
  let t := t.onBank 3 fun b3 => { b3 with pc := 0, levels := [], life := .live, passEnd := false, idle := 0 }
  { t with
    run := 3
    ready := max (since + 10) (now + 1)
    asleep := false
    stalled := 0
    stallFrom := Option.none
    refetch := false
    sel := #v[causeWord p (firstCause p.bank t.pend).isSome gang (t.preReq || t.prePeriod),
              p.origin ++ trapOff, p.shown, p.detail] }

/-- The supervisor fault of a cause raised in bank3 (R432): the tile captures nothing and stops; its leaf will send FAULT with the cause. -/
def Tile.supFault (t : Tile) (c : Cause) : Tile := { t with frozen := true, ended := some (c, true) }

/-- A cause of kind D or T at the bundle about to issue: the exception is taken with the bundle's own offset as origin and trap offset (R413), or the launch ends for bank3 (R432). -/
def Tile.raiseNow (t : Tile) (now : Nat) (gang : Bool) (p : Pending) : Tile :=
  if t.run = 3 then t.supFault p.cause else t.enter now gang p (t.bank t.run).pc

/-- A pending cause as it is taken at an offset: one of kind A is raised there (R413). -/
def Pending.takenAt (p : Pending) (pc : Word) : Pending := if p.kind = .async then { p with origin := pc } else p

/-- The first pending cause of the running bank is taken before its next bundle (R414), on its first tick or later (R252). -/
def Tile.takePending (t : Tile) (now : Nat) (gang : Bool) : Option Tile :=
  if t.frozen ∨ (t.bank t.run).life ≠ .live then Option.none
  else
  match firstCause t.run (t.pend.filter fun p => decide (p.notBefore ≤ now)) with
  | Option.none => Option.none
  | some p =>
    let t : Tile := { t with pend := dropCause p t.pend }
    if t.run = 3 then some (t.supFault p.cause)
    else
      let pc := (t.bank t.run).pc
      some (t.enter now gang (p.takenAt pc) pc)

/-- Adds a late or asynchronous cause of a bank. -/
def Tile.addCause (t : Tile) (p : Pending) : Tile := { t with pend := t.pend ++ [p] }

/-! ## Halting -/

/-- A strand halts: it discards its free-running operations in flight and its levels (R134, R152). -/
def Strand.halt (b : Strand) : Strand :=
  { b with life := .halted, flight := [], levels := [],
           passEnd := false, idle := 0 }

/-! ## Free values -/

/-- The next free value of the counter, and the state after it. -/
def State.fresh (s : State) : Nat × State := (s.free, { s with free := s.free + 1 })

/-- Schedules an event: `lo` ticks from now at the earliest, at most `span` ticks later where the spec states a bound, at a finite time in any case (R488; DESIGN CHOICE, log 2). -/
def State.sched (s : State) (lo : Nat) (span : Option Nat) (i : Instr) (e : EvArg) : State :=
  let d := match span with | none => Config.delay s.free | some n => Config.delay s.free % (n + 1)
  { s with agenda := s.agenda ++ [(s.tick + lo + d, i, e)], free := s.free + 1 }

/-! ## Status words -/

/-- Refusals as a status word shows them. -/
def DlOp.refBits (o : DlOp) : Nat := min o.refusals 0xFFFF * 2 ^ 16

/-- The status word of `dm` (Table 12.7). -/
def dmStatus (o : DlOp) : Dword := BitVec.ofNat 64 (o.refBits + 1)

end Sys2Proof.Machine
end

