-- ==== Sys2Proof/Machine/Local.lean ====
section
/-! DEFINITION. Local SRAM: layouts, ECC, accesses of the strand and of engines; rings, patterns and tags (R214 to R230); the error counters and the error queue (R440, R441). -/

namespace Sys2Proof.Machine

/-! ## Errors -/

def findErr (die quad : Nat) : List QuadErr → QuadErr
  | [] => { die := die, quad := quad }
  | e :: r => if e.die = die ∧ e.quad = quad then e else findErr die quad r

def putErr (x : QuadErr) : List QuadErr → List QuadErr
  | [] => [x]
  | e :: r => if e.die = x.die ∧ e.quad = x.quad then x :: r else e :: putErr x r

/-- Counts an event against the physical quad of a tile (R441). -/
def State.countErr (s : State) (a : Nat) (f : QuadErr → QuadErr) : State :=
  { s with qerr := putErr (f (findErr (dieOf a) (s.physTile a / 4) s.qerr)) s.qerr }

/-- Writes an error record (R440); a full queue drops it. -/
def State.record (s : State) (cls : Nat) (c : Cause) (unit who addr : Nat) (launch : Dword) : State :=
  if s.err.head - s.err.tail ≥ 4096 then
    { s with err := { s.err with drop := min (s.err.drop + 1) (2 ^ 32 - 1) } }
  else
    let bytes := natLe s.tick 8 ++ [BitVec.ofNat 8 cls, BitVec.ofNat 8 c.code, BitVec.ofNat 8 unit, 0]
      ++ natLe who 4 ++ natLe addr 8 ++ natLe launch.toNat 8
    { s with
      mem := cellsWriteAll s.mem (s.err.base.toNat + 32 * (s.err.head % 4096)) bytes
      err := { s.err with head := s.err.head + 1 }
      outbox := if s.err.cfg.getLsbD 63 then s.outbox ++ [.msix 1] else s.outbox }

/-- Module tile address (R74). -/
def State.mtile (s : State) (a : Nat) : Nat := s.eutas.modnum * 2 ^ 17 + a

/-- Unit of Table 18.7 that a cause comes from, 0 where it is none. -/
def causeUnit (c : Cause) (detail : Nat) : Nat :=
  match c with
  | .dataUncorrectable => detail
  | .datapathCheck => 5
  | .peerUnreachable => 8
  | _ => 0

/-- An error record of a tile, under its module tile address (R440). -/
def State.tileRecord (s : State) (cls a : Nat) (c : Cause) (detail addr : Nat) (launch : Dword) : State :=
  s.record cls c (causeUnit c detail) (s.mtile a) addr launch

/-- Errors corrected outside the tiles' own stores, each recorded as of class 1 (R439, R440). -/
def State.corrected (s : State) (n unit who : Nat) : State :=
  (List.range n).foldl (fun s _ => s.record 1 .none unit who 0 0xFFFFFFFFFFFFFFFF) s

/-- Saturating count of a tile error word (R429). -/
def Tile.errAdd (t : Tile) (i : Fin 5) (n cap : Nat) : Tile := { t with errs := t.errs.set i (min (t.errs[i] + n) cap) }

/-- Launch id of a tile, or all ones (R440). -/
def Tile.launchId (t : Tile) : Dword := t.launch.getD 0xFFFFFFFFFFFFFFFF

/-- Counts and records the error behind a cause (R439 to R441): consumed uncorrectable data of a unit, or a residue error. Units 3 and 4, HBM and CXL, lie in no quad. -/
def State.noteCause (s : State) (a : Nat) (p : Pending) : State :=
  match p.cause with
  | .dataUncorrectable =>
    let s := s.onTile a fun t => t.errAdd 3 1 0xFF
    let unit := p.detail.toNat
    let s := if unit = 3 ∨ unit = 4 then s else s.countErr a fun e => { e with unc := e.unc + 1 }
    s.tileRecord 2 a p.cause unit p.where_ (s.tileAt a).launchId
  | .datapathCheck =>
    let s := s.onTile a fun t => t.errAdd 4 1 0xFF
    let s := s.countErr a fun e => { e with resid := e.resid + 1 }
    s.tileRecord 4 a p.cause 0 0 (s.tileAt a).launchId
  | .none | .illegalBundle | .reservedSocket | .portConflict | .privilegedPort | .misaligned | .localRange
  | .ringFault | .translationFault | .protectionFault | .collapse | .peerUnreachable | .semUnderflow | .semRange
  | .barrierOverarrival | .exchangeFault | .landingOverflow | .orderDivergence | .trapInstruction | .loopNest
  | .preempt | .debug | .taskOverflow | .tornRecord => s

def Tasks.block (k : Tasks) (i : Nat) : Block := k.blocks[i % 32]'(Nat.mod_lt i (by decide))

/-- Is the id that of a task: its control block is neither FREE nor INBOUND (Table 17.1)? -/
def Tasks.exists_ (k : Tasks) (i : Nat) : Bool :=
  i != 0 && (match (k.block i).state with | .free | .inbound => false | _ => true)

/-- The task that a bank holds. -/
def Tile.resident (t : Tile) (k : BitVec 2) : Option Nat :=
  (List.range 32).find? fun i => t.tasks.exists_ i && (t.tasks.block i).loc == k && k != 0

/-- The task whose strand issues in a bank. -/
def Tile.taskIn (t : Tile) (k : BitVec 2) : Option Nat :=
  if t.tasked then (if k = 1 ∨ k = 2 then t.tasks.current else none) else none

/-- Can the strand of a late cause take it: it is live, or its task still exists (R277, R445)? -/
def Tile.canTake (t : Tile) (k : BitVec 2) (task : Option Nat) : Bool :=
  match task with
  | some u => t.tasks.exists_ u
  | none => (t.bank k).life != .halted

/-- A cause becomes pending for its strand; that of a task in no bank is kept until the task is loaded (R277). -/
def Tile.giveCause (t : Tile) (p : Pending) : Tile :=
  match p.task with
  | some u =>
    if t.resident p.bank = some u then t.addCause p else { t with tasks := { t.tasks with causes := t.tasks.causes ++ [(u, p)] } }
  | none => t.addCause p

/-- A late cause comes to its strand; for one that has halted it is only recorded (R445). -/
def State.bringCause (s : State) (a : Nat) (p : Pending) : State :=
  if (s.tileAt a).canTake p.bank p.task then s.onTile a fun t => t.giveCause p
  else s.tileRecord 10 a p.cause p.detail.toNat p.where_ (s.tileAt a).launchId

/-- A late cause found at a tile, with its error counted. -/
def State.lateCause (s : State) (a : Nat) (p : Pending) : State := (s.noteCause a p).bringCause a p

/-! ## Layouts (Table 10.1) -/

def layoutMap (l : Layout) (a : Nat) : Nat :=
  match l with
  | .lin => a
  | .sw64 => a ^^^ (bits a 11 9 * 2 ^ 6)
  | .sw128 => a ^^^ (bits a 12 10 * 2 ^ 7)
  | .trn => a / 1024 * 1024 + bits a 5 2 * 64 + bits a 9 6 * 4 + a % 4

/-- Physical addresses of `n` logical bytes from `a` on. -/
def layoutSpan (l : Layout) (a n : Nat) : List Nat := (List.range n).map fun k => layoutMap l (a + k)

/-! ## Bytes of a tile -/

/-- Is the byte unspecified: marked so, or in an open accumulate zone (R236)? -/
def Tile.isUnspec (t : Tile) (p : Nat) : Bool :=
  t.unspec.contains p
    || t.zones.toList.any fun z => z.isOpen && (z.mode == 1 || z.mode == 2 || z.mode == 3)
        && decide (z.base ≤ p) && decide (p < z.base + z.size)

/-- The words (address / 8) that byte addresses lie in. -/
def wordsOf (ps : List Nat) : List Nat := (ps.map (· / 8)).eraseDups

/-- Does a read of the bytes meet an uncorrectable word (R216)? -/
def Tile.badWords (t : Tile) (ps : List Nat) : Bool := ps.any fun p => t.bad.contains (p / 8)

/-- The first uncorrectable word among physical addresses. -/
def Tile.firstBad (t : Tile) (ps : List Nat) : Nat := 8 * (((wordsOf ps).find? t.bad.contains).getD 0)

/-- A read corrects the single-bit errors it meets and counts them (R216, R429). -/
def State.correct (s : State) (a : Nat) (ps : List Nat) : State :=
  let t := s.tileAt a
  let hit := (wordsOf ps).filter t.soft.contains
  if hit.isEmpty then s
  else
    let s := s.onTile a fun t =>
      { t with soft := t.soft.filter fun w => !hit.contains w,
               errs := t.errs.set 0 (min (t.errs[0] + hit.length) 0xFFFF) }
    s.countErr a fun e => { e with corr := e.corr + hit.length }

/-- The bytes at physical addresses of a tile's SRAM; unspecified bytes are free values. -/
def State.sramRead (s : State) (a : Nat) (ps : List Nat) : List Byte × State :=
  let t := s.tileAt a
  let s := s.correct a ps
  if ps.any t.isUnspec then
    (ps.map fun p => if t.isUnspec p then Config.freeByte (s.free + p) else cellsRead t.sram p,
     { s with free := s.free + 0x60000 })
  else (ps.map (cellsRead t.sram), s)

/-- Is every word that the write touches either sound or wholly covered (R216)? -/
def Tile.writable (t : Tile) (ps : List Nat) : Bool :=
  (wordsOf ps).all fun w =>
    !t.bad.contains w || (List.range 8).all fun k => ps.contains (8 * w + k)

/-- Writes bytes; words wholly covered lose their error (R216), written bytes are specified again. -/
def Tile.sramWrite (t : Tile) (ws : List (Nat × Byte)) : Tile :=
  let ps := ws.map (·.1)
  let covered := (wordsOf ps).filter fun w => (List.range 8).all fun k => ps.contains (8 * w + k)
  { t with
    sram := ws.foldl (fun m w => cellsWrite m w.1 w.2) t.sram
    bad := t.bad.filter fun w => !covered.contains w
    soft := t.soft.filter fun w => !covered.contains w
    unspec := if t.unspec.isEmpty then t.unspec else t.unspec.filter fun p => !ps.contains p }

/-- A write of an engine: bytes that cover only a part of an uncorrectable word are not written (R216). -/
def Tile.engineWrite (t : Tile) (ws : List (Nat × Byte)) : Tile :=
  if t.bad.isEmpty then t.sramWrite ws
  else
    let ps := ws.map (·.1)
    t.sramWrite (ws.filter fun w =>
      !t.bad.contains (w.1 / 8) || (List.range 8).all fun k => ps.contains (w.1 / 8 * 8 + k))

/-- A strand store into an open landing zone leaves its bytes unspecified once the tag is set (R236). -/
def Tile.touchZones (t : Tile) (ps : List Nat) : Tile :=
  if t.zones.toList.any (·.isOpen) then
    { t with zones := t.zones.map fun z =>
        if z.isOpen then
          { z with touched := z.touched ++ ps.filter fun p => decide (z.base ≤ p) && decide (p < z.base + z.size) }
        else z }
  else t

/-! ## Tags -/

def tagBit (n : Nat) : Dword := 1#64 <<< (n % 64)
def Tile.setTag (t : Tile) (n : Nat) : Tile := { t with tags := t.tags ||| tagBit n }
def Tile.clearTag (t : Tile) (n : Nat) : Tile := { t with tags := t.tags &&& ~~~(tagBit n) }

/-! ## Rings (R226, R227) -/

def Tile.ring (t : Tile) (r : BitVec 3) : Ring := t.rings[r.toNat]'r.isLt
def Tile.setRing (t : Tile) (r : BitVec 3) (x : Ring) : Tile := { t with rings := t.rings.set r.toNat x r.isLt }

/-- L = size / 64 lines. -/
def Ring.lines (r : Ring) : Nat := r.size / 64

/-- Physical addresses of the line at an offset. -/
def Ring.lineSpan (r : Ring) (off : Nat) : List Nat := layoutSpan r.layout (r.base + 64 * off) 64

/-- Advances the tail over one pushed line (R227). -/
def Ring.pushed (r : Ring) : Ring := { r with tail := (r.tail + 1) % max r.lines 1, count := r.count + 1 }

/-- Advances the head over k popped lines (R227). -/
def Ring.popped (r : Ring) (k : Nat) : Ring :=
  { r with head := (r.head + k) % max r.lines 1, count := r.count - k }

/-- Pushes one line of bytes (R227); a word that is uncorrectable and covered in part is not written (R216). -/
def Tile.pushLine (t : Tile) (r : BitVec 3) (bytes : List Byte) : Tile :=
  let x := t.ring r
  (t.engineWrite ((x.lineSpan x.tail).zip bytes)).setRing r x.pushed

/-- Pushes lines of 64 bytes, oldest first. -/
def Tile.pushLines (t : Tile) (r : BitVec 3) (bytes : List Byte) : Nat → Tile
  | 0 => t
  | n + 1 => (t.pushLine r (bytes.take 64)).pushLines r (bytes.drop 64) n

/-- Is a ring bound: named by an `mx` operation that holds claims (R226, R247)? -/
def Tile.ringBound (t : Tile) (r : BitVec 3) : Bool := t.mxq.any fun o => o.claimNo != 0 && o.claims.any fun c => c.1 == r

/-- Vector value of 64 bytes, byte k in bits [8k+7:8k] (R222). -/
def busOf (bytes : List Byte) : Bus := BitVec.ofNat 512 (leNat bytes)

/-- The 64 bytes of a vector. -/
def bytesOf (v : Bus) : List Byte := natLe v.toNat 64

/-! ## Stream patterns (R230) -/

def Tile.pattern (t : Tile) (p : Nat) : Option Pattern := t.patterns.find? fun x => x.num = p

/-- E: the product of the used lengths. -/
def Pattern.count (p : Pattern) : Nat := (p.dims.map (·.1)).foldl (· * ·) 1

/-- The offset of element i: its index in each dimension, dimension 0 innermost, times the stride. -/
def elemOffset : List (Nat × Int) → Nat → Int
  | [], _ => 0
  | (len, stride) :: r, i => if len = 0 then 0 else (i % len : Nat) * stride + elemOffset r (i / len)

/-- Address of element i with base B0 (R230). -/
def Pattern.addr (p : Pattern) (b0 i : Nat) : Nat :=
  (((b0 + p.base : Nat) : Int) + elemOffset p.dims i).emod (2 ^ 64 : Nat) |>.toNat

/-- Smallest and largest offset of an element. -/
def dimExtremes : List (Nat × Int) → Int × Int
  | [] => (0, 0)
  | (len, stride) :: r =>
    let e := dimExtremes r
    let d := ((len - 1 : Nat) : Int) * stride
    (e.1 + min 0 d, e.2 + max 0 d)

/-- Is every element address a multiple of the element size (R234)? -/
def Pattern.aligned (p : Pattern) (b0 : Nat) : Bool :=
  let es := 2 ^ p.esize
  (b0 + p.base) % es == 0 && p.dims.all fun d => decide (d.1 ≤ 1) || d.2 % (es : Int) == 0

/-- Does every element lie within local SRAM (R234)? -/
def Pattern.inLocal (p : Pattern) (b0 : Nat) : Bool :=
  let b : Int := ((b0 + p.base) % 2 ^ 64 : Nat)
  let e := dimExtremes p.dims
  decide (0 ≤ b + e.1) && decide (b + e.2 + (2 ^ p.esize : Nat) ≤ 0x60000)

/-- min(x, 2^64 − 1). -/
def cap64 (x : Nat) : Nat := min x (2 ^ 64 - 1)

end Sys2Proof.Machine
end

