-- ==== Sys2Proof/Machine/Fillers.lean ====
section
/-! DEFINITION. Ring fillers: what one gathers in a tick, when it commits, how it ends (R228, R234, R237). -/

namespace Sys2Proof.Machine

/-- May elements i and i + 1 be gathered in one tick: they follow each other in a run of the innermost dimension, within one line of 64 bytes (R234)? -/
def Pattern.joins (p : Pattern) (b0 i : Nat) : Bool :=
  match p.dims with
  | [] => false
  | (len, stride) :: _ =>
    decide (stride = (2 ^ p.esize : Nat)) && (i + 1) % max len 1 != 0 && p.addr b0 (i + 1) / 64 == p.addr b0 i / 64

/-- Elements from i on, at most `m`, that one tick gathers (R234). -/
def Pattern.runFrom (p : Pattern) (b0 : Nat) : Nat → Nat → Nat
  | _, 0 => 0
  | _, 1 => 1
  | i, m + 1 => if p.joins b0 i then 1 + p.runFrom b0 (i + 1) m else 1

/-- Elements that the next staging element still takes. -/
def Filler.nextElems (f : Filler) (r : Ring) : Nat :=
  min ((64 * r.n - f.stage.length) / 2 ^ f.pat.esize) (f.pat.count - f.idx)

/-- Elements that the filler reads in its next tick. -/
def Filler.nextRun (f : Filler) (r : Ring) : Nat := f.pat.runFrom f.base f.idx (f.nextElems r)

/-- Has the filler elements to gather, and room for them in its staging element? -/
def Filler.gathers (f : Filler) (r : Ring) : Bool := decide (f.stage.length < 64 * r.n ∧ f.idx < f.pat.count)

/-- May a filler act now: it has elements to gather and its time has come, or its staging element may be committed and finds room, or it ends (R234)? -/
def Ring.fillerReady (r : Ring) (now : Nat) : Bool :=
  match r.filler with
  | none => false
  | some f =>
    if f.gathers r then !f.isGlobal && decide (f.due ≤ now)
    else if f.stage.isEmpty then decide (f.due ≤ now)
    else decide (f.commitAt ≤ now) && decide (r.count + r.n ≤ r.lines)

/-- The filler ends: the ring has no producer, and the tag is set (R234); that of a `dm.fill` under R281, with its status word (R278). -/
def Tile.fillerEnd (t : Tile) (n : BitVec 3) (f : Filler) : Tile :=
  let t := t.setRing n { t.ring n with filler := none }
  if f.isGlobal then
    let t := match t.queue.find? fun o => o.id = f.opId with
      | some o => if o.old.isNone then t.onBank o.bank fun b => b.onSock .dm fun c => { c with s := dmStatus o } else t
      | none => t
    let t : Tile := { t with queue := t.queue.filter fun o => o.id ≠ f.opId }
    let named := t.queue.any fun o => o.sock == .dm && (match o.tag with | some g => g == f.tag | none => false)
    if named || t.tagStop.getLsbD f.tag.toNat then t else t.setTag f.tag.toNat
  else t.setTag f.tag.toNat

/-- A local filler reads what one tick gathers, and goes on a tick later or, for want of bank ticks, after that (R215, R234); an uncorrectable source word stops it (R237). -/
def State.fillerGather (s : State) (a : Nat) (n : BitVec 3) (f : Filler) : State × Option Filler :=
  let t := s.tileAt a
  let m := f.nextRun (t.ring n)
  let es := 2 ^ f.pat.esize
  let ps := (List.range m).flatMap fun j => layoutSpan f.pat.layout (f.pat.addr f.base (f.idx + j)) es
  if t.badWords ps then
    let s := (s.correct a ps).onTile a fun t => t.setRing n { t.ring n with filler := none }
    (s.lateCause a { bank := f.bank, cause := .dataUncorrectable, kind := .late, origin := f.origin, seq := f.seq,
                     since := s.tick, task := f.task }, none)
  else
    let r := s.sramRead a ps
    ({ r.2 with free := r.2.free + 1 },
     some { f with idx := f.idx + m, stage := f.stage ++ r.1, due := s.tick + 1 + Config.delay r.2.free })

/-- A filler with a staging element that is full, or the last: it commits once n lines are free, a free number `d` of ticks after the first tick that the spec admits for its next commit (R234, R488; DESIGN CHOICE, log 17). -/
def Tile.fillerPush (t : Tile) (now d : Nat) (n : BitVec 3) (f : Filler) : Tile :=
  let r := t.ring n
  let keep (f : Filler) (t : Tile) : Tile := t.setRing n { t.ring n with filler := some f }
  if f.stage = [] ∧ f.pat.count ≤ f.idx then t.fillerEnd n f
  else if f.gathers r then keep f t
  else if f.commitAt ≤ now ∧ r.count + r.n ≤ r.lines then
    let t := t.pushLines n (f.stage ++ List.replicate (64 * r.n - f.stage.length) 0) r.n
    if f.pat.count ≤ f.idx then t.fillerEnd n f else keep { f with stage := [], commitAt := now + r.n + d } t
  else keep f t

def State.fillerPush (s : State) (a : Nat) (n : BitVec 3) (f : Filler) : State :=
  { s.onTile a fun t => t.fillerPush s.tick (Config.delay s.free) n f with free := s.free + 1 }

/-- FILLER_COMMIT of a filler that is due: it gathers, commits or ends (R234, R237); the elements of a `dm.fill` are read by the copy engine. -/
def State.fillerStep (s : State) (a : Nat) (n : BitVec 3) : State :=
  match ((s.tileAt a).ring n).filler with
  | none => s
  | some f =>
    if !((s.tileAt a).ring n).fillerReady s.tick then s
    else if f.gathers ((s.tileAt a).ring n) then
      match s.fillerGather a n f with
      | (s, none) => s
      | (s, some f) => s.fillerPush a n f
    else s.fillerPush a n f

/-- Rings 0 to 7. -/
def ringNumbers : List (BitVec 3) := [0, 1, 2, 3, 4, 5, 6, 7]

/-- The fillers that find room after a pop of the `mx` sequence commit before the `ag` operation of the bundle (R228). -/
def State.fillersAfter (s : State) (a : Nat) : State := ringNumbers.foldl (fun s n => s.fillerStep a n) s

end Sys2Proof.Machine
end

