-- ==== Sys2Proof/Machine/Start.lean ====
section
/-! DEFINITION. The parts of an issue: what an operation finds when it starts, why it may not start, what it leaves. -/

namespace Sys2Proof.Machine

/-- What an operation finds when it starts (R121, R123): its operands after phase 2 and its trigger operand, the bundle, and the mode and format sampled at the start of the issue cycle. -/
structure Start where
  sock : Sock
  bank : BitVec 2
  a : Bus
  b : Bus
  c : Bus
  /-- the value the trigger move carried -/
  v : Bus
  /-- offset of the bundle -/
  origin : Word
  /-- offset of the bundle that follows it in code -/
  next : Word
  seq : Nat
  bus : BitVec 3
  locked : Bool
  fmt : BitVec 13

/-- Why an operation does not start. -/
inductive Stop where
  /-- the bundle stalls (R128) -/
  | stall
  /-- the bundle waits for the other tiles of the quad (R156) -/
  | gangWait
  /-- a cause of kind T (R413): cause, address, detail -/
  | trap (c : Cause) (addr detail : Dword)

/-- What a `ctl` trigger asks of the end of the issue cycle (chapter 7). -/
inductive CtlAct where
  | none
  /-- transfer; `call` has the return address to be written to `ctl.x` -/
  | jump (target : Word) (call : Bool)
  /-- a loop of bound 0: the first bundle after the body -/
  | skip (target : Word)
  | openLevel (l : Level)
  | loopx
  | idle (n : Nat)
  | halt
  | raise (p : Pending)
  | gang
  | split

/-- The state while a bundle issues. -/
structure Issue where
  st : State
  ctl : CtlAct := .none
  /-- form of an `sv.eret` of the bundle (R422) -/
  eret : Option Nat := none
  /-- the ASID that an `sv.asid` of the bundle binds; operations of the bundle itself keep the one bound before (R426) -/
  asid : Option Half := none
  /-- the socket whose mode a `cf.mode` of the bundle changes, with the new mode; triggers of the bundle itself run under the old one (R132, R170) -/
  mode : Option (Sock × Bool) := none

/-- The meaning of a trigger: its socket, its trigger operand, what it does when it starts. -/
structure Spec where
  sock : Sock
  opnd : Option Opnd
  run : Start → Issue → Except Stop Issue

/-- First tick on which the status of an operation without `.x` may land: not before that of an earlier one of its strand and socket. -/
def Tile.afterEarlier (t : Tile) (k : BitVec 2) (s : Sock) (due : Nat) : Nat :=
  ((t.queue.filter fun o => o.bank == k && o.sock == s && !o.wx).map (·.due)).foldl max due

/-- Puts into the queue the result of an operation without `.x`, which has been performed and holds no slot (R129). -/
def Tile.queueResult (t : Tile) (st : Start) (r : Res) (now due : Nat) : Tile :=
  { t with
    nextOp := t.nextOp + 1
    queue := t.queue ++ [{ id := t.nextOp, bank := st.bank, sock := st.sock, wx := false, slot := false, a := st.a, b := st.b, c := st.c,
                           origin := st.origin, seq := st.seq, asid := t.asid, born := now, due := due, st := .performed, res := some r }] }

end Sys2Proof.Machine
end

