-- ==== Sys2Proof/Machine/Operands.lean ====
section
/-! DEFINITION. Operand forms: how an operation reads the bits of its latches (R159, R193, R195). -/

namespace Sys2Proof.Machine

/-- w of class W (R159). -/
def widthOf : Width → Nat
  | .w32 => 32
  | .w64 => 64

/-- Bits(a, w−1, 0) and likewise for b and c (R159). -/
def Start.natA (st : Start) (w : Nat) : Nat := st.a.toNat % 2 ^ w
def Start.natB (st : Start) (w : Nat) : Nat := st.b.toNat % 2 ^ w
def Start.natC (st : Start) (w : Nat) : Nat := st.c.toNat % 2 ^ w
def Start.intA (st : Start) (w : Nat) : Int := signExt st.a.toNat w
def Start.intB (st : Start) (w : Nat) : Int := signExt st.b.toNat w

/-- Width in bits of an integer type. -/
def isizeBits : ISize → Nat
  | .i8 => 8 | .i16 => 16 | .i32 => 32 | .i64 => 64

/-- Bytes of an integer type. -/
def isizeBytes : ISize → Nat
  | .i8 => 1 | .i16 => 2 | .i32 => 4 | .i64 => 8

/-- Width in bits of a floating format (Table 8.1). -/
def fmtBits : Fmt → Nat
  | .f64 => 64 | .f32 => 32 | .bf16 => 16 | .f16 => 16 | .e4m3 => 8 | .e5m2 => 8

/-- Lane width of a class T type (R195). -/
def tmodBits : TMod → Nat
  | .flt f _ => fmtBits f
  | .int _ z => isizeBits z

/-- Lane i of width w (R195). -/
def lane (w : Nat) (v : Bus) (i : Nat) : Nat := v.toNat / 2 ^ (w * i) % 2 ^ w

/-- A vector from its lanes, lane 0 first; a lane keeps its low w bits. -/
def ofLanes (w : Nat) : List Nat → Nat
  | [] => 0
  | x :: xs => x % 2 ^ w + 2 ^ w * ofLanes w xs

/-- The vector of n = 512 / w lanes with lane i = f i. -/
def mapLanes (w : Nat) (f : Nat → Nat) : Bus := BitVec.ofNat 512 (ofLanes w ((List.range (512 / w)).map f))

end Sys2Proof.Machine
end

