-- ==== Sys2Proof/Machine/Numbers.lean ====
section
/-! DEFINITION. Number formats, RoundTo, conversions, sticky flags (R174 to R189) and the exact functions that the special-function unit rounds (R183, R202). -/

namespace Sys2Proof.Machine

/-! ## Formats -/

/-- Precision p of a format (Table 8.1). -/
def fmtP : Fmt → Nat
  | .f64 => 53 | .f32 => 24 | .bf16 => 8 | .f16 => 11 | .e4m3 => 4 | .e5m2 => 3

/-- Width x of the exponent field (Table 8.1). -/
def fmtX : Fmt → Nat
  | .f64 => 11 | .f32 => 8 | .bf16 => 8 | .f16 => 5 | .e4m3 => 4 | .e5m2 => 5

/-- bias = 2^(x−1) − 1 (R174). -/
def fmtBias (f : Fmt) : Nat := 2 ^ (fmtX f - 1) - 1

/-- emin = 1 − bias (R174). -/
def fmtEmin (f : Fmt) : Int := 1 - (fmtBias f : Int)

/-- Code of the largest finite value, sign bit clear (Table 8.1). -/
def fmtMax (f : Fmt) : Nat :=
  match f with
  | .e4m3 => 0x7E
  | .f64 | .f32 | .bf16 | .f16 | .e5m2 => (2 ^ fmtX f - 1) * 2 ^ (fmtP f - 1) - 1

/-- Canonical quiet NaNs (Table 8.2). -/
def fmtNan : Fmt → Nat
  | .f64 => 0x7FF8000000000000 | .f32 => 0x7FC00000 | .f16 => 0x7E00 | .bf16 => 0x7FC0
  | .e4m3 => 0x7F | .e5m2 => 0x7E

/-- Code of +∞; E4M3 has none, and its canonical NaN stands in its place (R181). -/
def fmtInf (f : Fmt) : Nat :=
  match f with
  | .e4m3 => 0x7F
  | .f64 | .f32 | .bf16 | .f16 | .e5m2 => (2 ^ fmtX f - 1) * 2 ^ (fmtP f - 1)

def fmtSign (f : Fmt) : Nat := 2 ^ (fmtBits f - 1)

/-! ## Values -/

/-- A value of a format: a NaN, an infinity, or (−1)^neg × m × 2^e exactly (R175). -/
inductive Num where
  | nan
  | inf (neg : Bool)
  | fin (neg : Bool) (m : Nat) (e : Int)
deriving DecidableEq, Repr

/-- The value of an encoding (R175). -/
def decodeNum (f : Fmt) (code : Nat) : Num :=
  let m := fmtP f - 1
  let frac := code % 2 ^ m
  let ex := code / 2 ^ m % 2 ^ fmtX f
  let neg := code / fmtSign f % 2 = 1
  if ex = 0 then .fin neg frac (fmtEmin f - m)
  else if ex = 2 ^ fmtX f - 1 then
    match f with
    | .e4m3 => if frac = 7 then .nan else .fin neg (8 + frac) 5
    | .f64 | .f32 | .bf16 | .f16 | .e5m2 => if frac = 0 then .inf neg else .nan
  else .fin neg (2 ^ m + frac) ((ex : Int) - fmtBias f - m)

/-- Is the encoding a signalling NaN (R176)? -/
def isSnan (f : Fmt) (code : Nat) : Bool :=
  match f with
  | .e4m3 => false
  | .f64 | .f32 | .bf16 | .f16 | .e5m2 =>
    decodeNum f code == .nan && code / 2 ^ (fmtP f - 2) % 2 == 0

def isNan (f : Fmt) (code : Nat) : Bool := decodeNum f code == .nan

/-! ## Status bits (Tables 7.12 and 9.1) -/

def fNX : BitVec 8 := 1
def fUF : BitVec 8 := 2
def fOF : BitVec 8 := 4
def fDZ : BitVec 8 := 8
def fNV : BitVec 8 := 16
def fSAT : BitVec 8 := 32
def fUN : BitVec 8 := 64
def fCTL : BitVec 8 := 128

/-- A result: its encoding and its status bits. -/
structure FRes where
  code : Nat
  st : BitVec 8 := 0
deriving DecidableEq, Repr

/-! ## Rounding -/

/-- A magnitude in [m, m + 1) × 2^e with a sign; equal to m × 2^e when `sticky` is false. -/
structure Approx where
  neg : Bool
  m : Nat
  e : Int
  sticky : Bool := false
deriving DecidableEq, Repr

/-- Is the result an overflow to infinity (Table 8.4)? -/
def overflowsToInf (r : Rnd) (neg : Bool) : Bool :=
  match r with
  | .rne => true
  | .rz => false
  | .ru => !neg
  | .rd => neg

/-- Overflow(F, mode, sign) (R181); with `sat` the largest finite value instead (R184). -/
def overflow (f : Fmt) (r : Rnd) (sat neg : Bool) : FRes :=
  let s := if neg then fmtSign f else 0
  if sat then { code := s + fmtMax f, st := fSAT ||| fNX }
  else if overflowsToInf r neg then
    { code := (match f with | .e4m3 => fmtNan .e4m3 | .f64 | .f32 | .bf16 | .f16 | .e5m2 => s + fmtInf f),
      st := fOF ||| fNX }
  else { code := s + fmtMax f, st := fOF ||| fNX }

/-- Is the quotient rounded up in magnitude? `rem` of `2^shift`, with the sticky bit below it (R180). -/
def roundsUp (r : Rnd) (neg : Bool) (q rem half : Nat) (sticky : Bool) : Bool :=
  match r with
  | .rne => decide (rem > half) || (rem == half && (sticky || q % 2 == 1))
  | .rz => false
  | .ru => !neg && (rem != 0 || sticky)
  | .rd => neg && (rem != 0 || sticky)

/-- RoundTo(F, mode, x) for a non-zero finite x (R180, R187). -/
def roundApprox (f : Fmt) (r : Rnd) (sat : Bool) (x : Approx) : FRes :=
  let p := fmtP f
  let ex : Int := max ((Nat.log2 x.m : Int) + x.e) (fmtEmin f)
  let shift : Int := ex - (p : Int) + 1 - x.e
  let q := if shift ≤ 0 then x.m * 2 ^ (-shift).toNat else x.m / 2 ^ shift.toNat
  let rem := if shift ≤ 0 then 0 else x.m % 2 ^ shift.toNat
  -- with no bit shifted out the sticky bit alone is below one half
  let half := if shift ≤ 0 then 1 else 2 ^ (shift.toNat - 1)
  let inexact := rem != 0 || x.sticky
  let y := q + (roundsUp r x.neg q rem half x.sticky).toNat
  let code := (ex - fmtEmin f).toNat * 2 ^ (p - 1) + y
  if code > fmtMax f then overflow f r sat x.neg
  else
    { code := (if x.neg then fmtSign f else 0) + code,
      st := (if inexact then fNX else 0) ||| (if inexact && decide (code < 2 ^ (p - 1)) then fUF else 0) }

/-- RoundTo(F, mode, x) of an exact value (R180); a zero keeps its sign, an infinity becomes that of F. -/
def roundNum (f : Fmt) (r : Rnd) (x : Num) : FRes :=
  match x with
  | .nan => { code := fmtNan f }
  | .inf neg =>
    match f with
    | .e4m3 => { code := fmtNan .e4m3 }
    | .f64 | .f32 | .bf16 | .f16 | .e5m2 => { code := (if neg then fmtSign f else 0) + fmtInf f }
  | .fin neg m e =>
    if m = 0 then { code := if neg then fmtSign f else 0 }
    else roundApprox f r false { neg := neg, m := m, e := e }

/-! ## Exact sums and products -/

/-- The exact product; none for 0 × ∞ (R183). -/
def mulNum (x y : Num) : Option Num :=
  match x, y with
  | .nan, _ | _, .nan => some .nan
  | .inf s, .inf t => some (.inf (s != t))
  | .inf s, .fin t m _ => if m = 0 then none else some (.inf (s != t))
  | .fin s m _, .inf t => if m = 0 then none else some (.inf (s != t))
  | .fin s m e, .fin t n g => some (.fin (s != t) (m * n) (e + g))

def negNum : Num → Num
  | .nan => .nan
  | .inf s => .inf !s
  | .fin s m e => .fin (!s) m e

/-- v × 2^e + w × 2^g with the smaller exponent. -/
def addScaled (x y : Int × Int) : Int × Int :=
  let e := min x.2 y.2
  (x.1 * 2 ^ (x.2 - e).toNat + y.1 * 2 ^ (y.2 - e).toNat, e)

/-- The exact sum of the finite terms of a list. -/
def sumScaled : List Num → Int × Int
  | [] => (0, 0)
  | .fin s m e :: r => if m = 0 then sumScaled r else addScaled ((if s then -(m : Int) else m), e) (sumScaled r)
  | .nan :: r => sumScaled r
  | .inf _ :: r => sumScaled r

def hasNan (l : List Num) : Bool := l.any (· == .nan)
def hasInf (l : List Num) (neg : Bool) : Bool := l.any (· == .inf neg)
def allZero (l : List Num) (neg : Bool) : Bool :=
  l.all fun x => match x with | .fin s m _ => m == 0 && s == neg | .nan | .inf _ => false

/-- The exact sum of addends with the zero sign of R182; none for infinities of both signs. -/
def sumNum (r : Rnd) (l : List Num) : Option Num :=
  if hasNan l then some .nan
  else if hasInf l true && hasInf l false then none
  else if hasInf l true then some (.inf true)
  else if hasInf l false then some (.inf false)
  else
    let v := sumScaled l
    if v.1 = 0 then
      if allZero l true then some (.fin true 0 0)
      else if allZero l false then some (.fin false 0 0)
      else some (.fin (r == .rd) 0 0)
    else some (.fin (decide (v.1 < 0)) v.1.natAbs v.2)

/-- The rounded value of an exact expression over operands; none marks an invalid operation (R196). -/
def finishArith (f : Fmt) (r : Rnd) (codes : List Nat) (e : Option Num) : FRes :=
  let sn := if codes.any (isSnan f) then fNV else 0
  if codes.any (isNan f) then { code := fmtNan f, st := sn }
  else
    match e with
    | none => { code := fmtNan f, st := fNV }
    | some x => roundNum f r x

def fAdd (f : Fmt) (r : Rnd) (a b : Nat) : FRes :=
  finishArith f r [a, b] (sumNum r [decodeNum f a, decodeNum f b])

def fSub (f : Fmt) (r : Rnd) (a b : Nat) : FRes :=
  finishArith f r [a, b] (sumNum r [decodeNum f a, negNum (decodeNum f b)])

def fMul (f : Fmt) (r : Rnd) (a b : Nat) : FRes :=
  finishArith f r [a, b] (mulNum (decodeNum f a) (decodeNum f b))

/-- `fma` and, with `negated`, `fnma`: one rounding of A × B + C or C − A × B (R196). -/
def fFma (f : Fmt) (r : Rnd) (negated : Bool) (a b c : Nat) : FRes :=
  finishArith f r [a, b, c]
    (match mulNum (decodeNum f a) (decodeNum f b) with
     | none => none
     | some p => sumNum r [if negated then negNum p else p, decodeNum f c])

/-! ## Comparisons -/

/-- Is the first exact value less than the second? NaN is less than nothing (R7). -/
def ltNum (x y : Num) : Bool :=
  match x, y with
  | .nan, _ | _, .nan => false
  | .inf s, .inf t => s && !t
  | .inf s, .fin _ _ _ => s
  | .fin _ _ _, .inf t => !t
  | .fin s m e, .fin t n g =>
    let d := addScaled ((if s then -(m : Int) else m), e) ((if t then (n : Int) else -(n : Int)), g)
    decide (d.1 < 0)

def eqNum (x y : Num) : Bool :=
  match x, y with
  | .nan, _ | _, .nan => false
  | .inf s, .inf t => s == t
  | .inf _, .fin _ _ _ | .fin _ _ _, .inf _ => false
  | .fin s m e, .fin t n g =>
    let d := addScaled ((if s then -(m : Int) else m), e) ((if t then (n : Int) else -(n : Int)), g)
    decide (d.1 = 0)

/-- −0 ordered below +0 (R197). -/
def belowNum (x y : Num) : Bool :=
  ltNum x y || (eqNum x y && (match x, y with | .fin s _ _, .fin t _ _ => s && !t | _, _ => false))

/-- `fmin` and `fmax` (R197). -/
def fMinMax (f : Fmt) (isMax : Bool) (a b : Nat) : FRes :=
  let st := if isSnan f a || isSnan f b then fNV else 0
  let x := decodeNum f a
  let y := decodeNum f b
  if isNan f a && isNan f b then { code := fmtNan f, st := st }
  else if isNan f a then { code := b, st := st }
  else if isNan f b then { code := a, st := st }
  else if isMax then { code := if belowNum x y then b else a, st := st }
  else { code := if belowNum y x then b else a, st := st }

inductive Rel where
  | eq | lt | le
deriving DecidableEq, Repr

/-- A quiet compare (R199): the truth value and the status. -/
def fCompare (f : Fmt) (rel : Rel) (a b : Nat) : Bool × BitVec 8 :=
  let x := decodeNum f a
  let y := decodeNum f b
  let st := (if isNan f a || isNan f b then fUN else 0) ||| (if isSnan f a || isSnan f b then fNV else 0)
  (match rel with
   | .eq => eqNum x y
   | .lt => ltNum x y
   | .le => ltNum x y || eqNum x y, st)

/-- `fclass` (Table 9.3). -/
def fClass (f : Fmt) (a : Nat) : Nat :=
  match decodeNum f a with
  | .nan => if isSnan f a then 2 ^ 8 else 2 ^ 9
  | .inf true => 2 ^ 0
  | .inf false => 2 ^ 7
  | .fin s m _ =>
    if m = 0 then (if s then 2 ^ 3 else 2 ^ 4)
    else if m < 2 ^ (fmtP f - 1) then (if s then 2 ^ 2 else 2 ^ 5)
    else if s then 2 ^ 1 else 2 ^ 6

/-! ## Conversions -/

/-- Float to float (R184). -/
def cvtFF (src dst : Fmt) (r : Rnd) (sat : Bool) (a : Nat) : FRes :=
  match decodeNum src a with
  | .nan => { code := fmtNan dst, st := if isSnan src a then fNV else 0 }
  | .inf neg =>
    match dst with
    | .e4m3 =>
      if sat then { code := (if neg then fmtSign dst else 0) + fmtMax dst, st := fSAT }
      else { code := fmtNan dst, st := fNV }
    | .f64 | .f32 | .bf16 | .f16 | .e5m2 => { code := (if neg then fmtSign dst else 0) + fmtInf dst }
  | .fin neg m e =>
    if m = 0 then { code := if neg then fmtSign dst else 0 }
    else roundApprox dst r sat { neg := neg, m := m, e := e }

/-- The integer to which a finite value rounds, and whether it differs (R185). -/
def roundInt (r : Rnd) (neg : Bool) (m : Nat) (e : Int) : Int × Bool :=
  if 0 ≤ e then ((if neg then -1 else 1) * ((m * 2 ^ e.toNat : Nat) : Int), false)
  else
    let sh := (-e).toNat
    let q := m / 2 ^ sh
    let rem := m % 2 ^ sh
    let y := q + (roundsUp r neg q rem (2 ^ (sh - 1)) false).toNat
    ((if neg then -1 else 1) * (y : Int), rem != 0)

def intLo (nat : Bool) (n : Nat) : Int := if nat then 0 else -(2 ^ (n - 1) : Int)
def intHi (nat : Bool) (n : Nat) : Int := if nat then (2 ^ n : Int) - 1 else (2 ^ (n - 1) : Int) - 1

/-- The exact value clamped to the range of an n-bit type. -/
def clampTo (nat : Bool) (n : Nat) (x : Int) : Int := max (intLo nat n) (min (intHi nat n) x)

/-- Float to integer of n bits; the code is the low n bits (R185). -/
def cvtFI (src : Fmt) (r : Rnd) (nat : Bool) (n : Nat) (a : Nat) : FRes :=
  match decodeNum src a with
  | .nan => { code := 0, st := fNV }
  | .inf neg =>
    { code := ((if neg then intLo nat n else intHi nat n) % (2 ^ n : Nat)).toNat, st := fNV ||| fSAT }
  | .fin neg m e =>
    let t := roundInt r neg m e
    let c := clampTo nat n t.1
    { code := (c % (2 ^ n : Nat)).toNat,
      st := if c ≠ t.1 then fNV ||| fSAT else if t.2 then fNX else 0 }

/-- The value of an n-bit integer field (R178). -/
def intValue (nat : Bool) (n a : Nat) : Int := if nat then ((a % 2 ^ n : Nat) : Int) else signExt a n

/-- Integer to float (R186). -/
def cvtIF (dst : Fmt) (r : Rnd) (sat : Bool) (v : Int) : FRes :=
  if v = 0 then { code := 0 }
  else roundApprox dst r sat { neg := decide (v < 0), m := v.natAbs, e := 0 }

/-- Integer to integer of n bits (R186). -/
def cvtII (nat : Bool) (n : Nat) (sat : Bool) (v : Int) : FRes :=
  let c := clampTo nat n v
  if c = v then { code := (v % (2 ^ n : Nat)).toNat }
  else if sat then { code := (c % (2 ^ n : Nat)).toNat, st := fSAT }
  else { code := (v % (2 ^ n : Nat)).toNat }

/-! ## Special functions: exact values as bounded magnitudes -/

/-- floor(√n), deciding bits from bit i − 1 down (structural). -/
def isqrtFrom (n : Nat) : Nat → Nat → Nat
  | 0, r => r
  | i + 1, r => if (r + 2 ^ i) * (r + 2 ^ i) ≤ n then isqrtFrom n i (r + 2 ^ i) else isqrtFrom n i r

def isqrt (n : Nat) : Nat := isqrtFrom n (Nat.log2 n / 2 + 1) 0

/-- Bits kept below the leading bit of a quotient or root: more than 2p + 2 of every format. -/
def extraBits : Nat := 128

/-- m1 × 2^e1 / (m2 × 2^e2). -/
def divApprox (neg : Bool) (m1 : Nat) (e1 : Int) (m2 : Nat) (e2 : Int) : Approx :=
  let k := extraBits + Nat.log2 m2
  let n := m1 * 2 ^ k
  { neg := neg, m := n / m2, e := e1 - e2 - k, sticky := n % m2 != 0 }

/-- √(m × 2^e). -/
def sqrtApprox (m : Nat) (e : Int) : Approx :=
  let odd := e % 2 = 1
  let n := (if odd then 2 * m else m) * 2 ^ (2 * extraBits)
  let r := isqrt n
  { neg := false, m := r, e := (if odd then e - 1 else e) / 2 - extraBits, sticky := r * r != n }

/-- 1 / √(m × 2^e). -/
def rsqrtApprox (m : Nat) (e : Int) : Approx :=
  let odd := e % 2 = 1
  let mm := if odd then 2 * m else m
  let k := extraBits + Nat.log2 mm
  let n := 2 ^ (2 * k)
  let r := isqrt (n / mm)
  { neg := false, m := r, e := -((if odd then e - 1 else e) / 2) - k, sticky := r * r * mm != n }

/-- Fixed-point precision of the series for 2^x and log2 x (DESIGN CHOICE, log 11). -/
def seriesBits : Nat := 360

/-- ln 2 in units of 2^−seriesBits, from the sum of 1 / (k 2^k). -/
def ln2Sum : Nat → Nat
  | 0 => 0
  | k + 1 => 2 ^ seriesBits / ((k + 1) * 2 ^ (k + 1)) + ln2Sum k

def ln2Fix : Nat := ln2Sum seriesBits

/-- The sum of y^k / k! from term k on: `left` more terms, `term` the current one. -/
def expSum (y : Nat) : Nat → Nat → Nat → Nat
  | 0, _, _ => 0
  | left + 1, k, term => term + expSum y left (k + 1) (term * y / 2 ^ seriesBits / k)

/-- 2^x for a finite x that is no integer, or exactly for an integer (R183). -/
def exp2Approx (neg : Bool) (m : Nat) (e : Int) : Approx :=
  -- x in units of 2^−seriesBits; an FP32 value needs at most 149 fraction bits
  let x : Int := (if neg then -1 else 1) * ((m * 2 ^ (e + seriesBits).toNat : Nat) : Int)
  let n := x / (2 ^ seriesBits : Nat)
  let f := (x % (2 ^ seriesBits : Nat)).toNat
  if f = 0 then { neg := false, m := 1, e := n }
  else
    let y := f * ln2Fix / 2 ^ seriesBits
    { neg := false, m := expSum y 100 1 (2 ^ seriesBits), e := n - seriesBits, sticky := true }

/-- The sum of t^(2j+1) / (2j+1) from term j on. -/
def atanhSum (t2 : Nat) : Nat → Nat → Nat → Nat
  | 0, _, _ => 0
  | left + 1, j, term => term / (2 * j + 1) + atanhSum t2 left (j + 1) (term * t2 / 2 ^ seriesBits)

/-- log2(m × 2^e) for m > 0: exact where it is an integer; none where it is zero. -/
def log2Approx (m : Nat) (e : Int) : Option Approx :=
  let l := Nat.log2 m
  let n : Int := l + e
  if m = 2 ^ l then
    if n = 0 then none else some { neg := decide (n < 0), m := n.natAbs, e := 0 }
  else
    -- z = m / 2^l in (1, 2); ln z = 2 atanh((z − 1) / (z + 1))
    let t := (m - 2 ^ l) * 2 ^ seriesBits / (m + 2 ^ l)
    let ln := 2 * atanhSum (t * t / 2 ^ seriesBits) 120 0 t
    let v : Int := n * (2 ^ seriesBits : Nat) + ((ln * 2 ^ seriesBits / ln2Fix : Nat) : Int)
    some { neg := decide (v < 0),
           m := if v < 0 then (-v).toNat - 1 else v.toNat, e := -(seriesBits : Int), sticky := true }

/-- Special operands of a unary function, or its rounded value on a finite non-zero operand (R202, R203). -/
def sfUnary (f : Fmt) (a : Nat) (onInf : Bool → FRes) (onZero : Bool → FRes)
    (onFin : Bool → Nat → Int → FRes) : FRes :=
  match decodeNum f a with
  | .nan => { code := fmtNan f, st := if isSnan f a then fNV else 0 }
  | .inf s => onInf s
  | .fin s m e => if m = 0 then onZero s else onFin s m e

def signed (f : Fmt) (neg : Bool) (code : Nat) : Nat := (if neg then fmtSign f else 0) + code

/-- The code of 1.0. -/
def fmtOne (f : Fmt) : Nat := fmtBias f * 2 ^ (fmtP f - 1)

def invalid (f : Fmt) : FRes := { code := fmtNan f, st := fNV }

/-- `ex2` (Table 9.6). -/
def fEx2 (f : Fmt) (r : Rnd) (a : Nat) : FRes :=
  sfUnary f a (fun s => { code := if s then 0 else fmtInf f }) (fun _ => { code := fmtOne f })
    (fun s m e =>
      -- beyond ±2^12 the power lies outside every format: a value of the same rounding stands for it
      if (Nat.log2 m : Int) + e ≥ 12 then
        roundApprox f r false { neg := false, m := 1, e := if s then -4096 else 4096, sticky := true }
      else roundApprox f r false (exp2Approx s m e))

/-- `lg2` (Table 9.6). -/
def fLg2 (f : Fmt) (r : Rnd) (a : Nat) : FRes :=
  sfUnary f a (fun s => if s then invalid f else { code := fmtInf f })
    (fun _ => { code := signed f true (fmtInf f), st := fDZ })
    (fun s m e =>
      if s then invalid f
      else match log2Approx m e with
        | none => { code := 0 }
        | some x => roundApprox f r false x)

/-- `rcp` (Table 9.6). -/
def fRcp (f : Fmt) (r : Rnd) (a : Nat) : FRes :=
  sfUnary f a (fun s => { code := signed f s 0 }) (fun s => { code := signed f s (fmtInf f), st := fDZ })
    (fun s m e => roundApprox f r false (divApprox s 1 0 m e))

/-- `rsq` (Table 9.6). -/
def fRsq (f : Fmt) (r : Rnd) (a : Nat) : FRes :=
  sfUnary f a (fun s => if s then invalid f else { code := 0 })
    (fun s => { code := signed f s (fmtInf f), st := fDZ })
    (fun s m e => if s then invalid f else roundApprox f r false (rsqrtApprox m e))

/-- `sqrt` (Table 9.6). -/
def fSqrt (f : Fmt) (r : Rnd) (a : Nat) : FRes :=
  sfUnary f a (fun s => if s then invalid f else { code := fmtInf f }) (fun s => { code := signed f s 0 })
    (fun s m e => if s then invalid f else roundApprox f r false (sqrtApprox m e))

/-- `fdiv` (R203). -/
def fDiv (f : Fmt) (r : Rnd) (a b : Nat) : FRes :=
  if isNan f a || isNan f b then
    { code := fmtNan f, st := if isSnan f a || isSnan f b then fNV else 0 }
  else
    match decodeNum f a, decodeNum f b with
    | .inf _, .inf _ => invalid f
    | .inf s, .fin t _ _ => { code := signed f (s != t) (fmtInf f) }
    | .fin s _ _, .inf t => { code := signed f (s != t) 0 }
    | .fin s m e, .fin t n g =>
      if n = 0 then
        if m = 0 then invalid f else { code := signed f (s != t) (fmtInf f), st := fDZ }
      else if m = 0 then { code := signed f (s != t) 0 }
      else roundApprox f r false (divApprox (s != t) m e n g)
    | .nan, _ | _, .nan => { code := fmtNan f }

/-- `vscale`: A × 2^k (R204). -/
def fScale (f : Fmt) (r : Rnd) (a : Nat) (k : Int) : FRes :=
  match decodeNum f a with
  | .nan => { code := fmtNan f, st := if isSnan f a then fNV else 0 }
  | .inf s => { code := signed f s (fmtInf f) }
  | .fin s m e =>
    if m = 0 then { code := signed f s 0 }
    else
      -- a shift by more than 2^13 rounds as one by 2^13 does
      let k := max (-8192) (min 8192 k)
      roundApprox f r false { neg := s, m := m, e := e + k }

end Sys2Proof.Machine
end

