-- ==== Sys2Proof/Machine/MxEngine.lean ====
section
/-! DEFINITION. The sequence of `mx` operations of a tile: operand formats, line reads, accumulation, commit, faults (R239 to R254). -/

namespace Sys2Proof.Machine

/-! ## Formats -/

/-- What a format register value means for an `mma` or `mmas` (Table 11.1). -/
structure MxForm where
  af : Nat
  bf : Nat
  rsub : Nat
  k : Nat
  tb : Nat
  /-- blocks of a group; 0 without groups -/
  gb : Nat
  zpen : Bool
  /-- INT32 accumulation -/
  int : Bool
deriving DecidableEq, Repr

/-- Width in bits of an operand format code (Table 7.11). -/
def mxWidth (f : Nat) : Nat := if f ≤ 1 then 16 else if f ≤ 5 then 8 else 4

/-- The row of Table 11.1, or none where the operation is refused (R239, R242, R243). -/
def mxForm (sparse : Bool) (nb : Nat) (fmt : BitVec 13) : Option MxForm :=
  let v := fmt.toNat
  let af := bits v 3 0
  let bf := bits v 7 4
  let rsub := bits v 9 8
  let group := bits v 11 10
  let zpen := bits v 12 12 = 1
  let pair : Bool := decide (af ≤ 1 ∧ bf ≤ 7) || decide (af ≤ 3 ∧ 2 ≤ af ∧ 2 ≤ bf ∧ bf ≤ 7)
    || decide (4 ≤ af ∧ af ≤ 7 ∧ 4 ≤ bf ∧ bf ≤ 7)
  let k := if af ≤ 1 then 16 else if 6 ≤ bf then 32 else 16
  let gb := if group = 0 then 0 else 2 ^ (group + 4) / k
  if !pair ∨ rsub = 3 ∨ (group ≠ 0 ∧ bf < 4) ∨ (zpen ∧ group = 0) then none
  else if group ≠ 0 ∧ nb % gb ≠ 0 then none
  else if sparse ∧ (6 ≤ bf ∨ group ≠ 0) then none
  else some { af := af, bf := bf, rsub := rsub, k := k, tb := if af ≤ 1 then 32 else 16, gb := gb, zpen := zpen,
              int := decide (4 ≤ af ∧ group = 0) }

/-- Lines of a block of A: la (R241). -/
def MxForm.la (f : MxForm) : Nat := f.k * mxWidth f.af / 32

/-- Lines of a block of B: lb, halved for `mmas` (R241, R243). -/
def MxForm.lb (f : MxForm) (sparse : Bool) : Nat :=
  f.k * mxWidth f.bf / 32 / (if sparse then 2 else 1)

/-- Cycles of a block (R245). -/
def MxForm.cycles (f : MxForm) (sparse : Bool) : Nat := if sparse then f.tb / 2 else f.tb

/-- Lines claimed on each ring (R247): A, B with the group headers, routing for `mmas`. -/
def MxForm.claims (f : MxForm) (sparse : Bool) (nb : Nat) (a : Bus) : List (BitVec 3 × Nat) :=
  let ring (hi lo : Nat) : BitVec 3 := BitVec.ofNat 3 (busBits a hi lo)
  if nb = 0 then []
  else
    [(ring 2 0, nb * f.la), (ring 10 8, nb * f.lb sparse + (if f.gb = 0 then 0 else nb / f.gb))]
      ++ (if sparse then [(ring 18 16, nb)] else [])

/-! ## Elements -/

/-- An integer code as a number (R178), with the substitution of Table 8.3 where it applies. -/
def mxInt (f rsub : Nat) (subst : Bool) (code : Nat) : Int :=
  if f = 5 ∨ f = 7 then (code : Int)
  else
    let n := mxWidth f
    let v := signExt code n
    if subst ∧ v = -(2 ^ (n - 1) : Nat) then (if rsub = 0 then v else if rsub = 1 then v + 1 else 0) else v

/-- An exact integer as a value. -/
def intNum (v : Int) : Num := .fin (decide (v < 0)) v.natAbs 0

/-- The value of an operand element (R175, R178). -/
def mxNum (f rsub code : Nat) : Num :=
  match f with
  | 0 => decodeNum .bf16 code
  | 1 => decodeNum .f16 code
  | 2 => decodeNum .e4m3 code
  | 3 => decodeNum .e5m2 code
  | _ => intNum (mxInt f rsub true code)

/-- Element n of a block whose lines are given, at a width (R241, R178). -/
def blockElem (w : Nat) (lines : List Bus) (n : Nat) : Nat :=
  let per := 512 / w
  lane w (lines.getD (n / per) 0) (n % per)

/-- The pairs (A code, B code) that meet in entry (i, j) of a block: dense (R241), or routed (R243). -/
def blockPairs (f : MxForm) (sparse : Bool) (la lb : List Bus) (route : Bus) (i j : Nat) : List (Nat × Nat) :=
  let ea (κ : Nat) := blockElem (mxWidth f.af) la (i * f.k + κ)
  let eb (n : Nat) := blockElem (mxWidth f.bf) lb n
  if sparse then
    ((List.range (f.k / 4)).map fun g =>
      let r := lane 4 route (j * (f.k / 4) + g)
      [(ea (4 * g + r % 4), eb (j * (f.k / 2) + 2 * g)),
       (ea (4 * g + r / 4 % 4), eb (j * (f.k / 2) + 2 * g + 1))]).flatten
  else (List.range f.k).map fun κ => (ea κ, eb (j * f.k + κ))

/-! ## Accumulation -/

/-- Products of a list; none where one is 0 × ∞. -/
def allProducts : List (Num × Num) → Option (List Num)
  | [] => some []
  | (x, y) :: r =>
    match mulNum x y, allProducts r with
    | some p, some ps => some (p :: ps)
    | none, _ | _, none => none

/-- acc ← RN32(acc + Σ products), with the NaN and infinity rules of R190. -/
def accFloat (acc : Nat) (terms : List (Num × Num)) : Nat :=
  match allProducts terms with
  | none => fmtNan .f32
  | some ps =>
    match sumNum .rne (decodeNum .f32 acc :: ps) with
    | none => fmtNan .f32
    | some x => (roundNum .f32 .rne x).code

/-- acc ← RN32(acc + scale × S) of one group (R192). -/
def accGroup (acc : Nat) (scale : Num) (terms : List (Num × Num)) : Nat :=
  match allProducts terms with
  | none => fmtNan .f32
  | some ps =>
    match sumNum .rne ps with
    | none => fmtNan .f32
    | some s => accFloat acc [(scale, s)]

/-- acc ← Bits(acc + Σ a × b, 31, 0) (R191). -/
def accInt (f : MxForm) (acc : Nat) (ps : List (Nat × Nat)) : Nat :=
  wrapTo32 ((acc : Int) + (ps.map fun p => mxInt f.af f.rsub true p.1 * mxInt f.bf f.rsub true p.2).sum)
where
  wrapTo32 (x : Int) : Nat := (x % 2 ^ 32).toNat

/-- Zero point of column j in a group header line (Table 11.2). -/
def headerZero (f : MxForm) (h : Bus) (j : Nat) : Int :=
  if f.zpen then
    if mxWidth f.bf = 4 then mxInt f.bf 0 false (lane 4 h (64 + j)) else mxInt f.bf 0 false (lane 8 h (32 + j))
  else 0

/-- `n` lines from index `i` on. -/
def linesAt (l : List Bus) (i n : Nat) : List Bus := (l.drop i).take n

/-- The value of one entry after nb blocks (R240, R256). -/
def mxEntry (f : MxForm) (sparse : Bool) (nb : Nat) (o : MxOp) (acc i j : Nat) : Nat :=
  let la := f.la
  let lb := f.lb sparse
  let pairs (b : Nat) := blockPairs f sparse (linesAt o.linesA (b * la) la) (linesAt o.linesB (b * lb) lb)
    (o.linesH.getD b 0) i j
  if f.gb = 0 then
    (List.range nb).foldl (fun w b =>
      if f.int then accInt f w (pairs b)
      else accFloat w ((pairs b).map fun p => (mxNum f.af f.rsub p.1, mxNum f.bf f.rsub p.2))) acc
  else
    (List.range (nb / f.gb)).foldl (fun w g =>
      let h := o.linesH.getD g 0
      let z := headerZero f h j
      let ps := ((List.range f.gb).map fun b => pairs (g * f.gb + b)).flatten
      accGroup w (decodeNum .f16 (lane 16 h j))
        (ps.map fun p => (mxNum f.af f.rsub p.1, intNum (mxInt f.bf f.rsub true p.2 - z)))) acc

/-! ## Accumulators -/

def Tile.getAcc (t : Tile) (n : BitVec 2) : Acc := t.acc[n.toNat]'n.isLt
def Tile.setAcc (t : Tile) (n : BitVec 2) (a : Acc) : Tile := { t with acc := t.acc.set n.toNat a n.isLt }

/-- Is entry (i, j) admitted by the masks (R250)? -/
def Acc.admits (a : Acc) (i j : Nat) : Bool := a.rows.getLsbD i && a.cols.getLsbD j

/-- Residue of a pattern (R251). -/
def residue (v : Word) : BitVec 2 := BitVec.ofNat 2 (v.toNat % 3)

/-- Writes the admitted entries with their residues. -/
def Acc.write (a : Acc) (f : Nat → Nat → Word) : Acc :=
  { a with
    e := Vector.ofFn fun n => if a.admits (n.val / 16) (n.val % 16) then f (n.val / 16) (n.val % 16) else a.e[n]
    res := Vector.ofFn fun n =>
      if a.admits (n.val / 16) (n.val % 16) then residue (f (n.val / 16) (n.val % 16)) else a.res[n] }

def Acc.entry (a : Acc) (i j : Nat) : Word := a.e.toList.getD (16 * i + j) 0

/-- Does a read of rows from i0 meet a residue that disagrees (R251)? -/
def Acc.resBad (a : Acc) (rows : List Nat) : Bool :=
  rows.any fun i => (List.range 16).any fun j => a.res.toList.getD (16 * i + j) 0 != residue (a.entry i j)

/-- Row i as a vector: entry j in bits [32j+31:32j]. -/
def Acc.row (a : Acc) (i : Nat) : Bus := mapLanes 32 fun j => (a.entry i j).toNat

/-- The admitted entries. -/
def Acc.admitted (a : Acc) : List Word :=
  ((List.range 256).filter fun n => a.admits (n / 16) (n % 16)).map fun n => a.entry (n / 16) (n % 16)

/-! ## Status (Table 11.4) -/

def mxStatus (acc : BitVec 2) (fmt qf nan inf int sp done : Bool) : Dword :=
  BitVec.ofNat 64 (acc.toNat * 256 + fmt.toNat * 128 + qf.toNat * 64 + nan.toNat * 32 + inf.toNat * 16
    + int.toNat * 8 + sp.toNat * 4 + done.toNat)

def isNan32 (v : Word) : Bool := decodeNum .f32 v.toNat == .nan
def isInf32 (v : Word) : Bool := decodeNum .f32 v.toNat == .inf false || decodeNum .f32 v.toNat == .inf true

/-- DONE with NAN and INF of some patterns. -/
def doneStatus (acc : BitVec 2) (int sp : Bool) (vs : List Word) : Dword :=
  mxStatus acc false false (!int && vs.any isNan32) (!int && vs.any isInf32) int sp true

def MxOp.sparse (o : MxOp) : Bool := match o.kind with | .mma sp => sp | .mzero | .mrd | .mst | .mld | .mmask => false

/-- nb of an `mma` or `mmas` (R256). -/
def MxOp.nb (o : MxOp) : Nat := busBits o.b 15 0

/-! ## The sequence -/

/-- Ended operations leave the sequence at their tick E (R244). -/
def Tile.mxPrune (t : Tile) (now : Nat) : Tile :=
  { t with mxq := t.mxq.filter fun o => match o.done with | some e => decide (now < e) | none => true }

/-- Lines of a ring claimed before a claim number. -/
def Tile.claimedBefore (t : Tile) (r : BitVec 3) (n : Nat) : Nat :=
  (t.mxq.map fun o =>
    if o.claimNo ≠ 0 ∧ o.claimNo < n then (o.claims.map fun c => if c.1 = r then c.2 else 0).sum else 0).sum

/-- A claim number above all others. -/
def Tile.nextClaim (t : Tile) : Nat := (t.mxq.map (·.claimNo)).foldl max 0 + 1

/-- Are the lines of some claims present and unclaimed (R247)? -/
def Tile.linesPresent (t : Tile) (cs : List (BitVec 3 × Nat)) : Bool :=
  cs.all fun c => decide (t.claimedBefore c.1 t.nextClaim + c.2 ≤ (t.ring c.1).count)

/-- Replaces the head of the sequence. -/
def Tile.setHead (t : Tile) (o : MxOp) : Tile := { t with mxq := o :: t.mxq.drop 1 }

/-- Physical addresses of line i of an operation's claim on a ring (R227, R247). -/
def Tile.claimLine (t : Tile) (o : MxOp) (r : BitVec 3) (i : Nat) : List Nat :=
  let x := t.ring r
  x.lineSpan ((x.head + t.claimedBefore r o.claimNo + i) % max x.lines 1)

/-- Logical address and layout of row i of `mst` and `mld` (R259). -/
def MxOp.rowSpan (o : MxOp) (i : Nat) : List Nat :=
  let lay := match busBits o.a 33 32 with | 0 => Layout.lin | 1 => .sw64 | 2 => .sw128 | _ => .trn
  layoutSpan lay (busBits o.a 31 0 + 64 * i) 64

inductive MxRead where
  | a | b | h

/-- The line that cycle c of an `mma` reads, if it reads one (R248). -/
def mxLine (f : MxForm) (sparse : Bool) (o : MxOp) (c : Nat) : Option (MxRead × BitVec 3 × Nat) :=
  let ring (hi lo : Nat) : BitVec 3 := BitVec.ofNat 3 (busBits o.a hi lo)
  let per := f.cycles sparse
  let b := c / per
  let cc := c % per
  let lb := f.lb sparse
  let headers := if f.gb = 0 then 0 else b / f.gb + 1
  if cc % 2 = 0 ∧ cc / 2 < f.la then some (.a, ring 2 0, b * f.la + cc / 2)
  else if cc % 2 = 1 ∧ cc / 2 < lb then some (.b, ring 10 8, b * lb + headers + cc / 2)
  else if cc = 2 * lb + 1 ∧ sparse then some (.h, ring 18 16, b)
  else if cc = 2 * lb + 1 ∧ f.gb ≠ 0 ∧ b % f.gb = 0 then some (.h, ring 10 8, b * lb + headers - 1)
  else none

/-- An execution fault abandons the head and discards every later outstanding operation; its cause is taken before the first bundle after this tick (R252). -/
def State.mxAbandon (s : State) (a : Nat) (o : MxOp) (c : Cause) (detail : Dword) : State :=
  let s := s.lateCause a { bank := o.bank, cause := c, kind := .late, origin := o.origin, detail := detail,
                           seq := o.seq, since := s.tick, notBefore := s.tick + 1, task := o.task }
  s.onTile a fun t =>
    let ids := (t.mxq.filter fun o => o.locked && (o.kind == .mrd)).map (·.opId)
    { t with mxq := [], queue := t.queue.filter fun d => !(d.sock == .mx && d.res.isNone && ids.contains d.id) }

/-- Reads a line for the head; an uncorrectable word abandons the operation. -/
def State.mxReadLine (s : State) (a : Nat) (o : MxOp) (ps : List Nat) (keep : MxOp → Bus → MxOp) : State :=
  if (s.tileAt a).badWords ps then (s.correct a ps).mxAbandon a o .dataUncorrectable 0
  else
    let r := s.sramRead a ps
    r.2.onTile a fun t => t.setHead (keep o (busOf r.1))

/-- A word for `mx.s` of a strand, of a completed operation or of a refusal (R254): it lands at the end of the issue cycle, or of the tick for a data-locked one, so that a bundle of that tick still reads the word before (R121), and the one triggered later wins (R126). -/
def Tile.mxWord (t : Tile) (now : Nat) (st : Start) (v : Dword) : Tile :=
  if st.locked then t.queueResult st { s := v } now (now + 1)
  else t.onBank st.bank fun b => b.fly { sock := .mx, res := { s := v }, r := 1, origin := st.origin, seq := st.seq }

/-- The trigger of an outstanding operation. -/
def MxOp.trigger (o : MxOp) : Start :=
  { sock := .mx, bank := o.bank, a := o.a, b := o.b, c := 0, v := 0, origin := o.origin, next := o.origin, seq := o.seq, bus := 0,
    locked := o.locked, fmt := o.fmt }

/-- The effects of the head at the end of cycle E − 1 (R249, R257, R259, R260); it leaves the sequence at E, and the rings it named stay bound until then (R247). -/
def Tile.mxCommit (t : Tile) (now : Nat) (o : MxOp) : Tile :=
  let a := t.getAcc o.acc
  let fin (t : Tile) (s : Dword) : Tile := (t.setHead { o with done := some (now + 1), claims := o.claims.map fun c => (c.1, 0) }).mxWord now o.trigger s
  match o.kind with
  | .mma sp =>
    match mxForm sp o.nb o.fmt with
    | none => fin t (mxStatus o.acc true false false false false sp false)
    | some f =>
      let a' := a.write fun i j => BitVec.ofNat 32 (mxEntry f sp o.nb o (a.entry i j).toNat i j)
      let t := o.claims.foldl (fun (t : Tile) c => t.setRing c.1 ((t.ring c.1).popped c.2)) (t.setAcc o.acc a')
      fin t (doneStatus o.acc f.int sp a'.admitted)
  | .mzero => fin (t.setAcc o.acc (a.write fun _ _ => 0)) (doneStatus o.acc false false [])
  | .mmask =>
    fin (t.setAcc o.acc { a with rows := o.a.setWidth 16, cols := o.b.setWidth 16 }) (doneStatus o.acc false false [])
  | .mld =>
    let a' := a.write fun i j => BitVec.ofNat 32 (lane 32 (o.linesA.getD i 0) j)
    fin (t.setAcc o.acc a') (doneStatus o.acc false false a'.admitted)
  | .mst =>
    fin t (doneStatus o.acc false false
      (o.linesA.flatMap fun r => (List.range 16).map fun j => BitVec.ofNat 32 (lane 32 r j)))
  | .mrd => t.setHead { o with done := some (now + 1) }

/-- `mrd` at S: the row lands at the end of issue cycle S + 5, or of tick S + 5, or later in queue order (R129, R258). -/
def Tile.mxRow (t : Tile) (now : Nat) (o : MxOp) : Tile :=
  let r := (t.getAcc o.acc).row (busBits o.a 3 0)
  let res : Res :=
    { x := some r, s := doneStatus o.acc false false ((List.range 16).map fun j => BitVec.ofNat 32 (lane 32 r j)) }
  if o.locked then
    { t with queue := t.queue.map fun q =>
        if q.id = o.opId then { q with res := some res, st := .performed, due := now + 6 } else q }
  else
    t.onBank o.bank fun b =>
      b.fly { sock := .mx, res := res, r := 6, origin := o.origin, seq := o.seq }

/-- What the head does in cycle `o.cyc` before its effects: its line accesses (R248, R258, R259). -/
def State.mxAccess (s : State) (a : Nat) (o : MxOp) : State :=
  match o.kind with
  | .mma sp =>
    match mxForm sp o.nb o.fmt with
    | none => s
    | some f =>
      if o.nb = 0 then s
      else
        match mxLine f sp o o.cyc with
        | none => s
        | some (.a, r, i) =>
          s.mxReadLine a o ((s.tileAt a).claimLine o r i) fun o v => { o with linesA := o.linesA ++ [v] }
        | some (.b, r, i) =>
          s.mxReadLine a o ((s.tileAt a).claimLine o r i) fun o v => { o with linesB := o.linesB ++ [v] }
        | some (.h, r, i) =>
          s.mxReadLine a o ((s.tileAt a).claimLine o r i) fun o v => { o with linesH := o.linesH ++ [v] }
  | .mzero | .mmask => s
  | .mrd =>
    if ((s.tileAt a).getAcc o.acc).resBad [busBits o.a 3 0] then s.mxAbandon a o .datapathCheck o.acc.toNat
    else s.onTile a fun t => t.mxRow s.tick o
  | .mst =>
    let acc := (s.tileAt a).getAcc o.acc
    if o.cyc = 0 ∧ acc.resBad (List.range 16) then s.mxAbandon a o .datapathCheck o.acc.toNat
    else
      let o : MxOp := if o.cyc = 0 then { o with linesA := (List.range 16).map acc.row } else o
      if (s.tileAt a).writable (o.rowSpan o.cyc) then
        s.onTile a fun t =>
          (t.sramWrite ((o.rowSpan o.cyc).zip (bytesOf (o.linesA.getD o.cyc 0)))).setHead o
      else s.mxAbandon a o .dataUncorrectable 0
  | .mld => s.mxReadLine a o (o.rowSpan o.cyc) fun o v => { o with linesA := o.linesA ++ [v] }

/-- Has the operation written entries, or a partial result of a block, when `o.cyc` cycles have passed (R251)? -/
def MxOp.hasWritten (o : MxOp) : Bool :=
  match o.kind with
  | .mma sp =>
    (match mxForm sp o.nb o.fmt with
     | none => false
     | some f => o.nb != 0 && o.cyc % max (f.cycles sp) 1 == 0)
  | .mzero | .mld => o.cyc == o.occ
  | .mrd | .mst | .mmask => false

/-- One cycle of a started head: its accesses; a written result that disagrees with its predicted residue abandons it (R251, R252); in its last cycle its effects (R245). -/
def State.mxCycle (s : State) (a : Nat) (o : MxOp) : State :=
  let s := s.mxAccess a o
  match (s.tileAt a).mxq with
  | [] => s
  | o :: _ =>
    let o : MxOp := { o with cyc := o.cyc + 1 }
    if (s.tileAt a).mxUpset ∧ o.hasWritten then (s.onTile a fun t => { t with mxUpset := false }).mxAbandon a o .datapathCheck o.acc.toNat
    else if o.cyc = o.occ then s.onTile a fun t => t.mxCommit s.tick o
    else s.onTile a fun t => t.setHead o

/-- The sequence goes on behind what earlier launches left in it (R118, R245). -/
def Tile.mxMay (t : Tile) : Bool := t.prevs.all fun v => v.mxq.isEmpty

/-- MX_OP_START: a data-locked head starts on the first tick on which its lines are present, and claims them (R245, R247). -/
def State.mxStart (s : State) (a : Nat) : State :=
  match (s.tileAt a).mxq with
  | [] => s
  | o :: _ =>
    if o.locked ∧ !o.started ∧ o.done.isNone ∧ (s.tileAt a).mxMay ∧ (s.tileAt a).linesPresent o.claims then
      let o : MxOp := { o with started := true, start := s.tick, claimNo := (s.tileAt a).nextClaim }
      (s.onTile a fun t => t.setHead o).mxCycle a o
    else s

/-- Has a started data-locked head a cycle to perform on this tick, its last one or not (R245)? -/
def Tile.mxDue (t : Tile) (now : Nat) (last : Bool) : Bool :=
  match t.mxq with
  | [] => false
  | o :: _ =>
    o.locked && o.started && o.done.isNone && decide (o.start + o.cyc ≤ now) && ((o.cyc + 1 == o.occ) == last)

/-- A tick of a started data-locked head; its last cycle is MX_OP_END. -/
def State.mxTick (s : State) (a : Nat) (last : Bool) : State :=
  match (s.tileAt a).mxq with
  | [] => s
  | o :: _ => if (s.tileAt a).mxDue s.tick last then s.mxCycle a o else s

/-- Has the head popped its lines by its last cycle (R249)? -/
def Tile.mxPopped (t : Tile) : Bool :=
  match t.mxq with
  | [] => false
  | o :: _ => o.done.isSome && !o.claims.isEmpty

/-- An issue cycle of bank k: a free-running head of that bank advances (R246); fillers that find room after its pops commit (R228). -/
def State.mxIssueCycle (s : State) (a : Nat) (k : BitVec 2) : State :=
  let s := s.onTile a fun t => t.mxPrune s.tick
  match (s.tileAt a).mxq with
  | [] => s
  | o :: _ =>
    if !o.locked ∧ o.bank = k ∧ o.done.isNone ∧ (s.tileAt a).mxMay then
      let o : MxOp := { o with started := true }
      let s := (s.onTile a fun t => t.setHead o).mxCycle a o
      if (s.tileAt a).mxPopped then s.fillersAfter a else s
    else s

/-- The free-running operations of a halting strand are discarded with their claims (R134). -/
def Tile.mxHalt (t : Tile) (k : BitVec 2) : Tile :=
  { t with mxq := t.mxq.filter fun o => o.locked || o.bank != k || o.done.isSome }

end Sys2Proof.Machine
end

