-- ==== Sys2Proof/Machine/TaskOps.lean ====
section
/-! DEFINITION. The task state of a tile: control blocks, ready queue, wakes, upcalls; what follows a halt (R392 to R400). -/

namespace Sys2Proof.Machine

def Tasks.setBlock (k : Tasks) (i : Nat) (b : Block) : Tasks := { k with blocks := k.blocks.set (i % 32) b (Nat.mod_lt i (by decide)) }
def Tasks.onBlock (k : Tasks) (i : Nat) (f : Block → Block) : Tasks := k.setBlock i (f (k.block i))
def Tile.onTasks (t : Tile) (f : Tasks → Tasks) : Tile := { t with tasks := f t.tasks }

/-- Removes a task from the ready queue. -/
def Tasks.unready (k : Tasks) (i : Nat) : Tasks := { k with rq := k.rq.map fun l => l.filter (· ≠ i) }

/-- Puts a task into its level of the ready queue, at the head or the tail (R397). -/
def Tasks.enter (k : Tasks) (i : Nat) (head : Bool) : Tasks :=
  let k := k.unready i
  let e := (k.block i).eprio
  let l := k.rq[e.toNat]'e.isLt
  { k with rq := k.rq.set e.toNat (if head then i :: l else l ++ [i]) e.isLt }

/-- The head of the highest level that is not empty (R397). -/
def Tasks.headId (k : Tasks) : Option Nat :=
  (k.rq[3] ++ k.rq[2] ++ k.rq[1] ++ k.rq[0]).head?

/-- Codes of Table 17.3. -/
def Upcall.code : Upcall → Nat
  | .none => 0 | .yield => 1 | .sleep => 2 | .halt => 3 | .timer => 4 | .preempt => 5 | .fault => 6 | .ready => 7 | .kmsg => 8

/-- The upcall word (Table 17.3). -/
def upcallWord (c : Upcall) (id : Nat) (more : Bool) : Nat := c.code + id * 256 + more.toNat * 2 ^ 16

/-- The status word of `tk` (Table 17.6). -/
def tkStatus (pend empty ref_ : Bool) : Dword := BitVec.ofNat 64 (pend.toNat * 8 + empty.toNat * 4 + ref_.toNat * 2 + (!ref_).toNat)

/-- An operation of `tk` is performed; its result can be read from the next tick on. -/
def Tile.tkDone (t : Tile) (o : DlOp) (due : Nat) (x : Option Bus) (st : Dword) : Tile :=
  { t with queue := t.queue.map fun p => if p.id = o.id then { o with st := .performed, due := due, res := some { x := x, s := st } } else p }

/-- Wake delay d of a depth (R173). -/
def wakeDelay (depth : BitVec 2) : Nat := if depth = 0 then 2 else if depth = 1 then 64 else 400

/-- A sleeping tile wakes: its bundle, which could issue on tick `now`, or on the tile's next issue tick if that is later, issues d ticks after that (R401). -/
def Tile.wake (t : Tile) (now : Nat) : Tile :=
  if t.asleep then { t with asleep := false, stalled := 0, ready := max t.ready now + wakeDelay t.sleepd } else t

/-- A waiting `tk.tidle` completes with a cause and an id (R410), and its tile wakes (R401). -/
def Tile.tidleEnd (t : Tile) (now : Nat) (c : Upcall) (id : Nat) : Tile :=
  match t.queue.find? fun o => o.kind == .tidle && o.st == .waiting with
  | some o => (t.tkDone o (now + 1) (some (BitVec.ofNat 512 (upcallWord c id false))) (tkStatus false false false)).wake (now + 1)
  | none => t

/-- Does the tile begin to sleep for a `tidle` that waits, once for each (R401)? The operation then has `prog` 1. -/
def Tile.tidleSleeps (t : Tile) (now : Nat) : Bool :=
  t.run == 0 && t.queue.any fun o => o.kind == .tidle && o.st == .waiting && o.prog == 0 && decide (o.due ≤ now)

/-- Does the tile sleep for a `tidle` while its bundle has not stalled? -/
def Tile.tidleRests (t : Tile) : Bool :=
  t.run == 0 && t.stallFrom.isNone && t.queue.any fun o => o.kind == .tidle && o.st == .waiting

/-- Causes are raised for the running task; the tick of the first of a kind decides which boundary comes after it (R396, R486). The halt of a task comes before another cause of its own; every cause gives one upcall (DEDUCED, log 45). -/
def Tasks.raiseOwn (k : Tasks) (now : Nat) (c : Upcall) : Tasks :=
  if k.own.contains c then k
  else { k with own := if c = .halt then c :: k.own else k.own ++ [c],
                raisedTick := if !k.own.isEmpty || k.raisedKmsg then k.raisedTick else now }

/-- One raised while another is pending is merged with it (R486). -/
def Tasks.raiseKmsg (k : Tasks) (now : Nat) : Tasks :=
  if k.raisedKmsg || k.pend.any (fun u => u.1 == .kmsg) then k
  else { k with raisedKmsg := true, raisedTick := if !k.own.isEmpty then k.raisedTick else now }

def Tasks.raisePreempt (k : Tasks) (now : Nat) : Tasks :=
  if k.raisedPreempt then k else { k with raisedPreempt := true, boundTick := if k.raisedTimer then k.boundTick else now }

def Tasks.raiseTimer (k : Tasks) (now : Nat) : Tasks :=
  if k.raisedTimer then k else { k with raisedTimer := true, boundTick := if k.raisedPreempt then k.boundTick else now }

/-- What a task leaves in the tile when its id becomes free: operations, zones and slots that no later task of the id takes a cause for (R396, R445); id 32 names no task. -/
def Tile.orphan (t : Tile) (u : Nat) : Tile :=
  let off (x : Option Nat) : Option Nat := if x = some u then some 32 else x
  { t with
    queue := t.queue.map fun o => { o with task := off o.task }
    mxq := t.mxq.map fun o => { o with task := off o.task }
    rings := t.rings.map fun r => { r with filler := r.filler.map fun f => { f with task := off f.task } }
    zones := t.zones.map fun z => { z with task := off z.task }
    kslots := t.kslots.map fun x => { x with task := off x.task }
    tasks := { t.tasks with causes := t.tasks.causes.filter fun c => c.1 ≠ u } }

/-- A bank is cleared; no register of it holds an error any more (R394, R396). -/
def Tile.clearBank (t : Tile) (k : BitVec 2) (b : Strand) : Tile :=
  { t.setBank k b with
    badRegs := t.badRegs.filter (fun e => e.1 ≠ k.toNat), softRegs := t.softRegs.filter fun e => e.1 ≠ k.toNat }

/-- A task becomes READY; a running task of lower priority is pre-empted; a waiting `tidle` returns (R397, R410). -/
def Tile.makeReady (t : Tile) (now i : Nat) (head : Bool) : Tile :=
  let t := t.onTasks fun k => (k.onBlock i fun b => { b with state := .ready, deadline := none }).enter i head
  let t := match t.tasks.current with
    | some u =>
      if (t.tasks.block u).eprio.toNat < (t.tasks.block i).eprio.toNat then t.onTasks fun k => k.raisePreempt now else t
    | none => t
  t.tidleEnd now .ready (t.tasks.headId.getD 0)

/-- A wake of a task (R399, R400); the flag says that WK was set. One that comes between a `sleep` and the boundary at which its task leaves is recorded, and applied there (DEDUCED, log 45). -/
def Tile.wakeTask (t : Tile) (now i : Nat) (w : Wake) : Tile × Bool :=
  let b := t.tasks.block i
  match b.state with
  | .sleep => if w = .notice then (t, false) else (t.makeReady now i false, false)
  | .selected => if w = .notice then (t, false) else (t.makeReady now i false, false)
  | .saving | .loading =>
    (t.onTasks fun k => k.onBlock i fun b => { b with recorded := b.recorded ++ [w] }, false)
  | .parked =>
    if w = .notice then (t.makeReady now i false, false)
    else if w = .wakeOp then (t.onTasks fun k => k.onBlock i fun b => { b with wk := true }, true)
    else (t, false)
  | .running =>
    if t.tasks.current = some i ∧ t.tasks.own.contains .sleep then
      (t.onTasks fun k => k.onBlock i fun b => { b with recorded := b.recorded ++ [w] }, false)
    else if w = .wakeOp then (t.onTasks fun k => k.onBlock i fun b => { b with wk := true }, true)
    else (t, false)
  | .ready =>
    if w = .wakeOp then (t.onTasks fun k => k.onBlock i fun b => { b with wk := true }, true) else (t, false)
  | .free | .inbound => (t, false)

/-- The wakes recorded during a save or a load are applied in order (R399). -/
def Tile.applyWakes (t : Tile) (now i : Nat) : Tile :=
  let ws := (t.tasks.block i).recorded
  let t := t.onTasks fun k => k.onBlock i fun b => { b with recorded := [] }
  ws.foldl (fun t w => (t.wakeTask now i w).1) t

/-- A cause of the running task's own is raised (R396, R486). -/
def Tile.raiseOwn (t : Tile) (now : Nat) (c : Upcall) : Tile := t.onTasks fun k => k.raiseOwn now c

/-- One issue cycle of the running task after TIMER or PREEMPT was raised (R396). -/
def Tile.taskCycle (t : Tile) : Tile :=
  if t.tasks.raisedPreempt || t.tasks.raisedTimer then t.onTasks fun k => { k with since := k.since + 1 } else t

/-- The halt of bank0 ends a `resume` and a `tidle` of it that wait: neither an upcall nor a message can end them any more; they land with cause 0, a refusal (DESIGN CHOICE, log 95). -/
def Tile.endWaiting (t : Tile) (now : Nat) : Tile :=
  { t with queue := t.queue.map fun o =>
      if (o.kind == .resume || o.kind == .tidle) && o.st == .waiting then
        { o with st := .performed, due := now + 1, res := some { x := some 0, s := tkStatus false false true } }
      else o }

/-- What follows the halt of the strand in bank `k`: a task raises HALT; the halt of bank0 discards the tile's tasks, whose control blocks stay as they are (R396, Table 23.4), and the supervisor timer is disarmed (R430). -/
def Tile.afterHalt (t : Tile) (now : Nat) (k : BitVec 2) : Tile :=
  if k = 0 then
    { (t.endWaiting now).onTasks (fun q => { q with rq := Vector.replicate 4 [], current := none, pend := [], work := none, causes := [] }) with stmr := 0 }
  else if t.tasked ∧ t.tasks.current.isSome then t.raiseOwn now .halt
  else t

/-- A pending access of a task raises an upcall to the task kernel, which parks the task; one of a task that does not run parks it without an upcall (R277, R400). -/
def State.pendUpcall (s : State) (a : Nat) (o : DlOp) : State :=
  match o.task with
  | none => s
  | some u =>
    s.onTile a fun t =>
      if t.tasks.current = some u then t.raiseOwn s.tick .fault
      else
        match (t.tasks.block u).state with
        | .ready | .sleep | .selected => t.onTasks fun k => (k.onBlock u fun b => { b with state := .parked }).unready u
        | .free | .running | .parked | .saving | .loading | .inbound => t

/-- The access of a task has been resolved: a completion notice follows (R277, R400). -/
def State.pendNotice (s : State) (a : Nat) (o : DlOp) : State :=
  match o.task with
  | none => s
  | some u => s.sched 1 none .completionNotice { tile := a, op := u }

end Sys2Proof.Machine
end

