-- ==== Sys2Proof/Machine/Issue.lean ====
section
/-! DEFINITION. The issue of a bundle: its three phases, stalls, faults, the end of an issue cycle, and gangs (R110 to R113, R120 to R135). -/

namespace Sys2Proof.Machine

/-! ## Checks of decoding on one instruction -/

/-- Does a move of a user strand touch a supervisor port (R104)? -/
def touches (i : Instr) : Bool :=
  let srcSv (s : Src) : Bool :=
    match s with
    | .resX .sv | .resY .sv | .resS .sv => true
    | _ => false
  match i.form with
  | .event | .move (.null _) => false
  | .move (.live h d) => srcSv h.src || (match d with | .opnd .sv _ => true | _ => false)
  | .trig h s p _ =>
    srcSv h.src || s == .sv || (s == .rp && decide (10 ≤ p.toNat ∧ p.toNat ≤ 13))

/-- Checks 3d to 3f of Table 5.7 on a decoded move. -/
def moveCause (sup : Bool) (nli : Nat) (i : Instr) : Option Cause :=
  let li (s : Src) : Bool := liBeyond s nli
  let bad : Bool :=
    match i.form with
    | .event | .move (.null _) => false
    | .move (.live h _) => li h.src || !i.wf
    | .trig h _ _ _ => li h.src || !i.wf
  if bad then some .illegalBundle
  else if !sup && touches i then some .privilegedPort
  else none

/-! ## Phase 1: read -/

/-- Offset of the register stagger for a bus (R149). -/
def staggerBy (b : Strand) (bus : BitVec 3) (dst : Bool) : Nat :=
  (b.levels.map fun l => if l.mask.getLsbD (2 * bus.toNat + dst.toNat) then l.pass * l.stagger else 0).sum

/-- Register (n + k) mod 32. -/
def addReg (n : BitVec 5) (k : Nat) : BitVec 5 := BitVec.ofNat 5 (n.toNat + k)

def staggerSrc (b : Strand) (bus : BitVec 3) : Src → Src
  | .grf n => .grf (addReg n (staggerBy b bus false))
  | .vrf n => .vrf (addReg n (staggerBy b bus false))
  | s => s

def staggerDst (b : Strand) (bus : BitVec 3) : Dst → Dst
  | .grf n => .grf (addReg n (staggerBy b bus true))
  | .vrf n => .vrf (addReg n (staggerBy b bus true))
  | d => d

/-- The value a source drives (R120); none where it is an empty port (R128). -/
def readSrc (t : Tile) (b : Strand) : Src → Option Bus
  | .imm v => some ((v.signExtend 64).setWidth 512)
  | .grf n => some ((b.getG n).setWidth 512)
  | .vrf n => some (b.getV n)
  | .brf n => some (if b.getB n then 1 else 0)
  | .resX s => if t.portLocked s false && !(b.sock s).fullX then none else some (b.sock s).x
  | .resY s => if t.portLocked s true && !(b.sock s).fullY then none else some (b.sock s).y
  | .resS s => some ((b.sock s).s.setWidth 512)
  | .li j => some (((t.lis.getD j.toNat 0).signExtend 64).setWidth 512)

/-- Is a word of a register of bank `k` listed (R140)? Files: 0 `grf`, 1 `vrf`, 2 `brf`. -/
def regListed (l : List (Nat × Nat × Nat × Nat)) (k : BitVec 2) (file reg : Nat) : Bool :=
  l.any fun e => e.1 = k.toNat ∧ e.2.1 = file ∧ e.2.2.1 = reg

/-- The file and the number of the register that a source reads; `b0` is not stored (R139). -/
def regPlace : Src → Option (Nat × Nat)
  | .grf n => some (0, n.toNat)
  | .vrf n => some (1, n.toNat)
  | .brf n => if n = 0 then none else some (2, n.toNat)
  | .imm _ | .resX _ | .resY _ | .resS _ | .li _ => none

/-- Does the read meet an uncorrectable register word (R140)? -/
def badRead (t : Tile) (k : BitVec 2) (src : Src) : Bool :=
  match regPlace src with
  | some (f, n) => regListed t.badRegs k f n
  | none => false

/-- Does the guard of a move lie in an uncorrectable register word (R140)? -/
def badGuard (t : Tile) (k : BitVec 2) (g : Guard) : Bool := badRead t k (.brf g.sel)

/-- A move whose guard holds, with the value it read. -/
structure Got where
  bus : BitVec 3
  src : Src
  val : Bus
  /-- destination of a plain move -/
  dst : Option Dst
  spec : Option Spec

/-- Outcome of a phase over all moves: whether a stall was met, the first fault in bus order, the rest. -/
structure Reads where
  gots : List Got := []
  stall : Bool := false
  bad : Option (BitVec 3) := none

/-- A move of a bundle: its bus, the instruction, its meaning if it is a trigger. -/
abbrev Act := BitVec 3 × Instr × Option Spec

def headOf (i : Instr) : Option (Head × Option Dst) :=
  match i.form with
  | .event | .move (.null _) => none
  | .move (.live h d) => some (h, some d)
  | .trig h _ _ _ => some (h, none)

def guardHolds (b : Strand) (g : Guard) : Bool := b.getB g.sel != g.inv

/-- Phase 1 of R121. -/
def readPhase (t : Tile) : List Act → Reads
  | [] => {}
  | (bus, i, sp) :: r =>
    let rest := readPhase t r
    let b := t.bank t.run
    match headOf i with
    | none => rest
    | some (h, d) =>
      let rest : Reads := { rest with bad := if badGuard t t.run h.guard then some bus else rest.bad }
      if guardHolds b h.guard then
        let src := staggerSrc b bus h.src
        match readSrc t b src with
        | none => { rest with stall := true }
        | some v =>
          { rest with
            gots := { bus := bus, src := src, val := v, dst := d.map (staggerDst b bus), spec := sp } :: rest.gots
            bad := if badRead t t.run src then some bus else rest.bad }
      else rest

/-- The registers that the moves read: every guard, and the sources of moves whose guard holds (R121). -/
def regsRead (t : Tile) : List Act → List (Nat × Nat)
  | [] => []
  | (bus, i, _) :: r =>
    let b := t.bank t.run
    (match headOf i with
     | none => []
     | some (h, _) =>
       (regPlace (.brf h.guard.sel)).toList
         ++ (if guardHolds b h.guard then (regPlace (staggerSrc b bus h.src)).toList else []))
      ++ regsRead t r

/-- A read corrects the single-bit errors of the registers it meets, writes the words back and counts them (R140, R429, R441). -/
def State.regCorrect (s : State) (k : BitVec 2) (ps : List (Nat × Nat)) : State :=
  let t := s.self
  let hit (e : Nat × Nat × Nat × Nat) : Bool := e.1 == k.toNat && ps.contains (e.2.1, e.2.2.1)
  if t.softRegs.any hit then
    let n := (t.softRegs.filter hit).length
    (s.onSelf fun t => ({ t with softRegs := t.softRegs.filter fun e => !hit e } : Tile).errAdd 1 n 0xFFFF).countErr s.cur
      fun e => { e with corr := e.corr + n }
  else s

/-! ## Phase 2: write -/

/-- The class of a queue: divisions of `mu` have a queue of their own (R131). -/
def isDiv (o : DlOp) : Bool := o.kind == .divide

/-- Frees the slot of the landed operation whose port is read (R129). -/
def freeSlot (k : BitVec 2) (s : Sock) (dv : Bool) : List DlOp → List DlOp
  | [] => []
  | o :: r => if o.bank = k ∧ o.sock = s ∧ isDiv o = dv ∧ o.landed then r else o :: freeSlot k s dv r

/-- Does an operation of the socket write its status when it frees its slot (R348, R404)? -/
def statusAtFree (s : Sock) : Bool := s == .sy || s == .tk

/-- The status that the read of `.x` brings to `.s`: that of the operation which frees its slot. -/
def Tile.freedStatus (t : Tile) (s : Sock) (v : Dword) : Dword :=
  if statusAtFree s then
    match t.queue.find? fun o => o.bank = t.run ∧ o.sock = s ∧ o.landed with
    | some o => (o.res.map (·.s)).getD v
    | none => v
  else v

/-- A read of a full data-locked port empties it, and frees the slot of its operation (R128, R129). -/
def emptyPort (t : Tile) (src : Src) : Tile :=
  match src with
  | .resX s =>
    if t.portLocked s false then
      { t.onBank t.run (fun b => b.onSock s fun c => { c with fullX := false, s := t.freedStatus s c.s })
          with queue := freeSlot t.run s false t.queue }
    else t
  | .resY s =>
    if t.portLocked s true then
      let t := t.onBank t.run (fun b => b.onSock s fun c => { c with fullY := false })
      if s = .mu then { t with queue := freeSlot t.run s true t.queue } else t
    else t
  | .imm _ | .grf _ | .vrf _ | .brf _ | .resS _ | .li _ => t

def clearBad (t : Tile) (file reg : Nat) : Tile :=
  let other (e : Nat × Nat × Nat × Nat) : Bool := !decide (e.1 = t.run.toNat ∧ e.2.1 = file ∧ e.2.2.1 = reg)
  { t with badRegs := t.badRegs.filter other, softRegs := t.softRegs.filter other }

/-- A plain write of phase 2 (R120, R123). -/
def writeDst (t : Tile) (v : Bus) : Dst → Tile
  | .grf n => clearBad (t.onBank t.run fun b => b.setG n (Bus.low v)) 0 n.toNat
  | .vrf n => clearBad (t.onBank t.run fun b => b.setV n v) 1 n.toNat
  | .brf n => clearBad (t.onBank t.run fun b => b.setB n (v.getLsbD 0)) 2 n.toNat
  | .opnd s o => t.onBank t.run fun b => b.onSock s fun c => c.setLatch o v

/-- Phase 2 of R121: ports read are emptied, then plain writes in bus order (R138). -/
def writePhase (gots : List Got) (t : Tile) : Tile :=
  let t := gots.foldl (fun t g => emptyPort t g.src) t
  gots.foldl (fun t g => match g.dst with | some d => writeDst t g.val d | none => t) t

/-! ## Phase 3: trigger -/

/-- Queue depths (Table 6.1). -/
def queueDepth (s : Sock) : Nat :=
  match s with
  | .mx | .kn => 2
  | .dm => 8
  | .ctl | .a0 | .a1 | .sh | .mu | .fp | .sf | .vu | .vx | .ls | .ag | .nt | .sy | .tk | .cf | .sv | .rp => 4

/-- Has the socket's queue a free slot? The queue of `mu` division holds one (R131); `tk` has one queue for each bank (R404). -/
def Tile.slotFree (t : Tile) (s : Sock) (dv : Bool) : Bool :=
  decide ((t.queue.filter fun o => o.sock = s ∧ o.slot ∧ isDiv o = dv ∧ (s ≠ .tk ∨ o.bank = t.run)).length < (if dv then 1 else queueDepth s))

/-- Outcome of phase 3: the state so far, the marks of stalls, the first fault in bus order. -/
structure Trigs where
  out : Issue
  stall : Bool := false
  wait : Bool := false
  trap : Option (BitVec 3 × Cause × Dword × Dword) := none

/-- One trigger: the latch write, the capture, the start. `t0` is the tile at the start of the cycle. -/
def startOne (t0 : Tile) (origin next : Word) (g : Got) (sp : Spec) (i : Issue) : Except Stop Issue :=
  let s := i.st
  let s := match sp.opnd with
    | some o => s.onSelf fun t => t.onBank t0.run fun b => b.onSock sp.sock fun c => c.setLatch o g.val
    | none => s
  let b0 := t0.bank t0.run
  let c := ((s.self).bank t0.run).sock sp.sock
  if t0.locked sp.sock && sp.sock != .mx && sp.sock != .mu && !(s.self).slotFree sp.sock false then .error .stall
  else
  sp.run { sock := sp.sock, bank := t0.run, a := c.a, b := c.b, c := c.c, v := g.val, origin := origin,
           next := next, seq := b0.seq, bus := g.bus, locked := t0.locked sp.sock, fmt := b0.fmt }
    { i with st := s }

/-- Phase 3 of R121 over the triggers in the order of the list. -/
def trigPhase (t0 : Tile) (origin next : Word) : List Got → Trigs → Trigs
  | [], r => r
  | g :: gs, r =>
    match g.spec with
    | none => trigPhase t0 origin next gs r
    | some sp =>
      match startOne t0 origin next g sp r.out with
      | .ok i => trigPhase t0 origin next gs { r with out := i }
      | .error .stall => trigPhase t0 origin next gs { r with stall := true }
      | .error .gangWait => trigPhase t0 origin next gs { r with wait := true }
      | .error (.trap c a d) =>
        trigPhase t0 origin next gs
          { r with trap := match r.trap with
                    | some x => if g.bus.toNat < x.1.toNat then some (g.bus, c, a, d) else some x
                    | none => some (g.bus, c, a, d) }

/-- Is the move a trigger of `mx`? -/
def Got.isMx (g : Got) : Bool := match g.spec with | some sp => sp.sock == .mx | none => false

/-- Place of a trigger among those of its bundle: by socket number, `ls` and `ag` in either order. -/
def Got.place (swap : Bool) (g : Got) : Nat :=
  match g.spec with
  | some sp => if swap && (sp.sock == .ls || sp.sock == .ag) then Sock.ls.num + Sock.ag.num - sp.sock.num else sp.sock.num
  | none => 0

def insertGot (key : Got → Nat) (g : Got) : List Got → List Got
  | [] => [g]
  | h :: r => if key g ≤ key h then g :: h :: r else h :: insertGot key g r

/-- The triggers in the order in which they start: that of their socket numbers, since bus order plays no part (R121). Where an `ls` and an `ag` trigger of one bundle touch the same bytes the spec orders neither before the other (R220, R365): a free choice does (DESIGN CHOICE, log 93). -/
def bySocket (swap : Bool) (gs : List Got) : List Got := gs.foldr (insertGot (Got.place swap)) []

/-- Is the move a trigger of the socket? -/
def Got.starts (g : Got) (s : Sock) : Bool := match g.spec with | some sp => sp.sock == s | none => false

/-- The choice that orders `ls` and `ag`, and the state after it. -/
def orderChoice (gs : List Got) (s : State) : Bool × State :=
  if gs.any (·.starts .ls) && gs.any (·.starts .ag) then (Config.choice s.free, { s with free := s.free + 1 }) else (false, s)

/-- Phase 3: the `mx` trigger and the cycle of the `mx` sequence come first (R228, R248), then the other triggers. -/
def startAll (t0 : Tile) (origin next : Word) (gots : List Got) (s : State) : Trigs :=
  let r := trigPhase t0 origin next (gots.filter Got.isMx) { out := { st := s } }
  let r := { r with out := { r.out with st := r.out.st.mxIssueCycle s.cur t0.run } }
  let c := orderChoice gots r.out.st
  trigPhase t0 origin next (bySocket c.1 (gots.filter fun g => !g.isMx)) { r with out := { r.out with st := c.2 } }

/-! ## The outcome of a bundle on one tile -/

inductive Prep where
  | ok (i : Issue)
  | stall
  /-- it waits at `ctl.gang`, with the fault it would raise if it issued now (R128, R156) -/
  | wait (p : Option Pending)
  | fault (p : Pending)

/-- Does an operation hold the strand's next bundle (R348): one with `.acq`, a fence or a bell that has not completed? -/
def Tile.held (t : Tile) (now : Nat) : Bool :=
  t.queue.any fun o => o.hold && o.bank == t.run && !(o.st == .performed && decide (o.due ≤ now))

/-- Does the tile's bundle stall whatever it holds: an operation holds the strand (R348), or one of `sv` has not completed (R421)? -/
def Tile.waits (t : Tile) (now : Nat) : Bool := t.held now || (t.run == 3 && t.supOp.isSome)

/-- The bundle of the served tile up to the end of phase 3: it stalls, it faults, or its moves have taken effect (R121, R128, R135). A decode fault never waits; a stall, or the wait at `ctl.gang`, comes before a fault of kind T. -/
def prepare (acts : List Act) (len : Nat) (s : State) : Prep :=
  let t0 := s.self
  let b0 := t0.bank t0.run
  let pend (c : Cause) (k : Kind) (bus : Option (BitVec 3)) (a d : Dword) : Pending :=
    { bank := t0.run, cause := c, kind := k, bus := bus, origin := b0.pc, addr := a, detail := d,
      seq := b0.seq, since := s.tick }
  match acts.findSome? fun a => (moveCause (t0.run = 3) t0.lis.length a.2.1).map fun c => (a.1, c) with
  | some (bus, c) => .fault (pend c .decode (some bus) 0 0)
  | none =>
    if t0.waits s.tick then .stall
    else
    let rd := readPhase t0 acts
    if rd.stall then .stall
    else
      let s1 := (s.regCorrect t0.run (regsRead t0 acts)).onSelf (writePhase rd.gots)
      let r := startAll t0 b0.pc (b0.pc + BitVec.ofNat 32 len) rd.gots s1
      if r.stall then .stall
      else
        let trap : Option Pending :=
          match rd.bad, r.trap with
          | some bus, none => some (pend .dataUncorrectable .trigger (some bus) 0 1)
          | none, some (bus, c, a, d) => some (pend c .trigger (some bus) a d)
          | some bus, some (bus', c, a, d) =>
            if bus'.toNat < bus.toNat then some (pend c .trigger (some bus') a d)
            else some (pend .dataUncorrectable .trigger (some bus) 0 1)
          | none, none => none
        if r.wait then .wait trap
        else
          match trap with
          | some p => .fault p
          | none => .ok r.out

/-! ## The end of an issue cycle -/

/-- One issue cycle passes for the in-flight operations of a bank (R125, R133). -/
def Strand.advance (b : Strand) : Strand :=
  { b with flight := b.flight.map fun f => { f with r := f.r - 1 } }

/-- A bundle has issued: the countdown of a pending format (R169), the issue number, the issue tick. -/
def Strand.counted (b : Strand) (now : Nat) : Strand :=
  { b with
    seq := b.seq + 1
    lastIssue := now
    fmtLeft := b.fmtLeft - 1
    fmtDue := b.fmtDue || b.fmtLeft == 1 }

/-- Does the bundle at `next` follow the last body bundle of the innermost level? -/
def endsPass (q : Quad) (t : Tile) (k : BitVec 2) (b : Strand) (next : Word) : Bool :=
  match b.levels.getLast? with
  | none => false
  | some l => afterBundles q t k l.len l.start.toNat == next.toNat

/-- Marks the innermost level (R151). -/
def markLoopx : List Level → List Level
  | [] => []
  | [l] => [{ l with loopx := true }]
  | l :: m :: r => l :: markLoopx (m :: r)

/-- What the `ctl` trigger of the bundle does to the strand, with the ticks until its next issue (R144 to R158). `t` is the tile whose code is fetched. -/
def control (q : Quad) (t : Tile) (k : BitVec 2) (next : Word) (act : CtlAct) (b : Strand) : Strand × Nat :=
  let seqn (b : Strand) : Strand := { b with pc := next, passEnd := endsPass q t k b next }
  match act with
  | .none | .raise _ | .gang | .split => (seqn b, 1)
  | .idle n => ({ seqn b with idle := n }, 1)
  | .halt => (seqn b, 1)
  | .loopx => (seqn { b with levels := markLoopx b.levels }, 1)
  | .openLevel l => ({ b with pc := next, levels := b.levels ++ [l] }, 1)
  | .skip target =>
    ({ b with pc := target, passEnd := endsPass q t k b target }, transferTicks q t k target.toNat)
  | .jump target _ =>
    ({ b with pc := target, levels := [], passEnd := false }, transferTicks q t k target.toNat)

/-- RETURNING FROM AN EXCEPTION (R422, R431): `sv.eret` acts on the bank recorded in the cause word, after the other moves of its bundle. -/
def Tile.leave (t : Tile) (now : Nat) (gang : Bool) (form : Nat) : Tile :=
  let k : BitVec 2 := (t.sel[0]).extractLsb' 10 2
  let cause := (t.sel[0]).extractLsb' 0 6
  if form = 0 then
    if cause = 0 then
      match t.heldRun with
      | some h =>
        if h.run = 3 then
          { (t.setBank 3 h.bank3) with
            run := 3, sel := h.sel, natAt := h.natAt, debugHeld := h.debugHeld, heldRun := none, supReady := true, frozen := true }
        else { t with run := h.run, heldRun := none, supReady := true, frozen := true }
      | none => { t with run := 0, supReady := true, ready := now + 4 }
    else
      match firstCause k t.pend with
      | some p =>
        let t : Tile := { t with pend := dropCause p t.pend }
        let t := t.enter now gang (p.takenAt (t.bank k).pc) (t.bank k).pc
        { t with ready := now + 10 }
      | none => { t with run := k, ready := now + 4 }
  else if form = 1 then
    let t : Tile := { t with run := k, ready := now + 4 }
    ((t.onBank k Strand.halt).mxHalt k).afterHalt now k
  else if form = 2 then
    { t with frozen := true,
             ended := some (causeOfCode cause.toNat, false) }
  else t

/-- The strand of a bank halts (R134, R152, R154). -/
def Tile.haltBank (t : Tile) (now : Nat) (k : BitVec 2) : Tile := (((t.landBank k).onBank k Strand.halt).mxHalt k).afterHalt now k

/-- On a change to data-locked the ports are marked empty; on a change to free-running the full bits are discarded and landed results leave their slots (R132). `mu.y` keeps its own rules (R131). -/
def changeMode (t : Tile) (s : Sock) (locked : Bool) : Tile :=
  let clear (b : Strand) : Strand :=
    b.onSock s fun c => { c with fullX := false, fullY := if s = .mu then c.fullY else false }
  let t : Tile := { t with
    mode := if locked then t.mode ||| (1#23 <<< s.num) else t.mode &&& ~~~(1#23 <<< s.num)
    queue := if locked then t.queue else t.queue.filter fun o => ¬(o.sock = s ∧ isDiv o = false ∧ o.landed) }
  (((t.onBank 0 clear).onBank 1 clear).onBank 2 clear).onBank 3 clear

/-- The end of an issue cycle on one tile: in-flight operations advance, a mode that the bundle wrote changes before they land (R132), a cause of `ctl.trap` or `ctl.brk` becomes pending, control moves on, counters count. -/
def finish (len : Nat) (i : Issue) : State :=
  let s := i.st
  let t := s.self
  let k := t.run
  let q := s.quadAt s.cur
  let b := t.bank k
  let next := b.pc + BitVec.ofNat 32 len
  let (b1, ticks) := control q (s.codeTile s.cur) k next i.ctl ((b.advance).counted s.tick)
  let t : Tile := { t.setBank k b1 with ready := s.tick + ticks, stalled := 0, stallFrom := none, gangWait := none, gangGo := false }
  let t := match i.mode with
    | some (x, m) => changeMode t x m
    | none => t
  let t := match i.ctl with
    | .raise p => t.addCause p
    | .halt => t.haltBank s.tick k
    | .none | .jump _ _ | .skip _ | .openLevel _ | .loopx | .idle _ | .gang | .split => t
  let t := match i.eret with
    | some f => t.leave s.tick q.ganged f
    | none => t
  let t := match i.asid with
    | some n => t.bindAsid n
    | none => t
  let t := if k = 3 then t else t.taskCycle
  { s.setTile t with cnt := { s.cnt with issue := s.cnt.issue + 1 } }

/-- Stalled ticks after one more; a strand behind a waiting `tidle` sleeps from the next tick (R401). -/
def Tile.stalls (t : Tile) : Nat :=
  if t.run = 0 ∧ t.queue.any (fun o => o.kind == .tidle && o.st == .waiting) then max 33 (t.stalled + 1) else t.stalled + 1

/-- A stalled tick (R128, R401). -/
def stallTick (s : State) : State :=
  { s.onSelf fun t => { t with stalled := t.stalls, stallFrom := some (t.stallFrom.getD s.tick), ready := s.tick + 1 } with
    cnt := { s.cnt with stall := s.cnt.stall + 1 } }

/-- Results still queued after a change to free-running land in trigger order, each on an issue cycle at or after its completion and not before one triggered earlier in its pipeline (R132). -/
def Tile.landQueued (t : Tile) (now : Nat) (k : BitVec 2) : Tile :=
  let ready (o : DlOp) : Bool := o.res.isSome && decide (o.due ≤ now)
  let out (o : DlOp) : Bool :=
    o.bank == k && !t.portLocked o.sock (isDiv o) && ready o && !o.landed
      && t.queue.all fun p => !(p.bank == k && p.sock == o.sock && isDiv p == isDiv o && decide (p.id < o.id)) || p.landed || ready p
  if t.queue.any out then
    let ops := t.queue.filter out
    let t : Tile := { t with queue := t.queue.filter fun o => !out o }
    ops.foldl (fun (t : Tile) o =>
      match o.late, o.res with
      | some p, _ => t.addCause { p with since := now }
      | none, some r => t.onBank k fun b => landRes b o.sock false r
      | none, none => t) t
  else t

/-- What becomes due before the next bundle of a tile: landings, the end of a pass, a pending format. -/
def State.settle (s : State) (a : Nat) : State :=
  let q := s.quadAt a
  let c := s.codeTile a
  let now := s.tick
  s.onTile a fun t =>
    (((t.landBank t.run).landQueued now t.run).passBank q c t.run).onBank t.run Strand.fmtNow

/-- May the running strand of the tile issue: it is live and nothing holds the tile? -/
def Tile.canIssue (t : Tile) (now : Nat) : Bool :=
  decide (t.ready ≤ now) && !t.refetch && !t.frozen && !t.asleep && (t.bank t.run).life == .live && (t.bank t.run).idle == 0

/-! ## Gangs -/

/-- Forms the gang once all four tiles have issued their gang bundle on this tick (R156). -/
def formGang (s : State) : State :=
  let lead := quadOf s.cur
  let ms := [lead, lead + 1, lead + 2, lead + 3]
  if ms.any fun m => (s.tileAt m).gangGo then s
  else
    let tl := s.tileAt lead
    let q := s.quadAt lead
    let target : Word := (((tl.bank 0).sock .ctl).a).setWidth 32
    let ticks := transferTicks q tl 0 target.toNat
    let s := ms.foldl (fun s m => s.onTile m fun t =>
      { t.onBank 0 (fun b => { b with pc := target, levels := [], passEnd := false })
          with ready := s.tick + ticks, gangHold := false, gangSplit := false }) s
    s.onQuad lead fun q => { q with ganged := true }

/-- ALL FOUR TILES OF THE QUAD ARRIVED AT THEIR GANG BUNDLES ON THIS TICK (R156). Those that sleep wake, and the four wait together for the longest wake delay (R401); else a tile whose bundle would fault takes its fault (R128); else the four issue on this tick, which is a stalled one for none of them. -/
def meetGang (s : State) : State :=
  let ms := [quadOf s.cur, quadOf s.cur + 1, quadOf s.cur + 2, quadOf s.cur + 3]
  if ms.all fun m => (s.tileAt m).gangWait == some s.tick then
    if ms.any fun m => (s.tileAt m).asleep then
      let d := (ms.map fun m => if (s.tileAt m).asleep then wakeDelay (s.tileAt m).sleepd else 0).foldl max 0
      ms.foldl (fun s m => s.onTile m fun t => { t with asleep := false, stalled := 0, ready := s.tick + d, gangWait := none }) s
    else if ms.any fun m => (s.tileAt m).gangTrap.isSome then
      ms.foldl (fun s m =>
        match (s.tileAt m).gangTrap with
        | some p => (s.noteCause m p).onTile m fun t => t.raiseNow s.tick false p
        | none => s) s
    else
      let s := ms.foldl (fun s m => s.onTile m fun t => { t with gangGo := true, ready := s.tick, stalled := t.stalled - 1 }) s
      { s with turn := ms ++ s.turn, cnt := { s.cnt with stall := s.cnt.stall - 4 } }
  else s

/-- The served tile stalls at its gang bundle (R156). -/
def gangStall (p : Option Pending) (s : State) : State :=
  meetGang (stallTick (s.onSelf fun t => { t with gangWait := some s.tick, gangTrap := p }))

/-- One bundle on the served tile, outside a gang. -/
def issueSingle (acts : List Act) (len : Nat) (s : State) : State :=
  match prepare acts len s with
  | .ok i =>
    let s' := finish len i
    match i.ctl with
    | .gang => formGang s'
    | .none | .jump _ _ | .skip _ | .openLevel _ | .loopx | .idle _ | .halt | .raise _ | .split => s'
  | .stall => stallTick s
  | .wait p => gangStall p s
  | .fault p => (s.noteCause s.cur p).onSelf fun t => t.raiseNow s.tick false p

/-- The moves a member other than the leader performs: none to a `ctl` trigger but `split` (R112). -/
def memberActs (acts : List Act) : List Act :=
  acts.filter fun a =>
    match a.2.1.form with
    | .trig _ .ctl p _ => p.toNat == 19
    | .trig _ _ _ _ | .event | .move _ => true

/-- Fetch state follows the leader's (R110). -/
def followLeader (l m : Strand) : Strand :=
  { m with pc := l.pc, levels := l.levels, passEnd := l.passEnd, idle := l.idle }

/-- Does the served tile issue as a member of a gang? A member in its supervisor entry issues alone (R113, R415). -/
def State.inGang (s : State) : Bool := (s.quadAt s.cur).ganged && !((s.self).run == 3)

/-- The tile at whose program counter the served tile, or its gang, fetches. -/
def State.issuer (s : State) : Nat := if s.inGang then s.gangHead s.cur else s.cur

/-- The members of the served tile's gang that have not completed the bundle at hand. -/
def State.pendingMembers (s : State) : List Nat := (s.members s.cur).filter fun m => !(s.tileAt m).gangHold

/-- The return address of a `ctl.call` lands on `ctl.x` of a member of the gang after `r` issue cycles (R112, R144). -/
def Tile.gangCall (t : Tile) (r : Nat) (ret : Word) : Tile :=
  t.onBank 0 fun b => { b with flight := b.flight ++
    [{ sock := .ctl, res := { x := some (ret.setWidth 512) }, r := r, origin := b.pc, seq := b.seq }] }

/-- The part of a ganged bundle of one member, after the leader's: it completes and holds, or takes its cause (R112, R113). -/
def gangPart (acts : List Act) (len : Nat) (call : Bool) (ret : Word) (s : State) (m : Nat) : State :=
  let lead := quadOf m
  let pushed (s : State) : State := if call ∧ m ≠ lead then s.onTile m fun t => t.gangCall 1 ret else s
  match prepare (if m = lead then acts else memberActs acts) len { s with cur := m } with
  | .ok i =>
    let i : Issue := if m = lead then i else
      { i with st := pushed i.st, ctl := if ((s.tileAt lead).bank 0).life == .halted then .halt else .none }
    { (finish len i).onTile m fun t => { t with gangHold := true } with cur := s.cur }
  | .fault p => pushed ((s.noteCause m p).onTile m fun t => t.raiseNow s.tick true p)
  | .stall | .wait _ => s

/-- A ganged bundle that all members have completed: they follow the leader, or a `ctl.split` dissolves the gang (R110, R157). -/
def gangDone (lead : Nat) (all : List Nat) (split : Bool) (s : State) : State :=
  if split then
    let s := all.foldl (fun s m => s.onTile m fun t =>
      let target : Word := (((t.bank 0).sock .ctl).a).setWidth 32
      let ticks := transferTicks (s.quadAt m) t 0 target.toNat
      ({ t.onBank 0 (fun b => { b with pc := target, levels := [], passEnd := false })
          with ready := s.tick + ticks, gangHold := false, gangSplit := false } : Tile)) s
    s.onQuad lead fun q => { q with ganged := false }
  else
    let b0 := (s.tileAt lead).bank 0
    let r0 := (s.tileAt lead).ready
    all.foldl (fun s m => s.onTile m fun t =>
      ({ t.onBank 0 (fun b => if m = lead then b else followLeader b0 b) with ready := r0, gangHold := false } : Tile)) s

/-- One bundle on the tiles of a gang that have not completed it yet: all stall together; a faulting member takes its cause, and the others complete and hold until it has returned and completed its part too (R111 to R113). -/
def issueGang (acts : List Act) (len : Nat) (s : State) : State :=
  let lead := quadOf s.cur
  let all := s.members s.cur
  let ms := s.pendingMembers
  let preps := ms.map fun m => (m, prepare (if m = lead then acts else memberActs acts) len { s with cur := m })
  let stalled := preps.any fun p => match p.2 with | .stall | .wait _ => true | .ok _ | .fault _ => false
  if stalled then ms.foldl (fun s' m => { stallTick { s' with cur := m } with cur := s.cur }) s
  else
    let leadAct : CtlAct :=
      match preps.find? fun p => p.1 = lead with
      | some (_, .ok i) => i.ctl
      | some (_, .stall) | some (_, .wait _) | some (_, .fault _) | none => .none
    let call : Bool := match leadAct with
      | .jump _ true => true
      | .jump _ false | .none | .skip _ | .openLevel _ | .loopx | .idle _ | .halt | .raise _ | .gang | .split => false
    let ret : Word := ((s.tileAt lead).bank 0).pc + BitVec.ofNat 32 len
    let s' := ms.foldl (gangPart acts len call ret) s
    let s' := (all.filter fun m => !ms.contains m).foldl (fun s' m => s'.onTile m fun t =>
      let t := if call then t.gangCall 0 ret else t
      match leadAct with
      | .halt => t.haltBank s.tick 0
      | .none | .jump _ _ | .skip _ | .openLevel _ | .loopx | .idle _ | .raise _ | .gang | .split => t) s'
    let split : Bool := (s.tileAt lead).gangSplit ||
      (match leadAct with
        | .split => true
        | .none | .jump _ _ | .skip _ | .openLevel _ | .loopx | .idle _ | .halt | .raise _ | .gang => false)
    if all.all fun m => (s'.tileAt m).gangHold then gangDone lead all split s'
    else
      let s' := s'.onTile lead fun t => { t with gangSplit := split }
      if (s'.tileAt lead).gangHold then
        let b0 := (s'.tileAt lead).bank 0
        all.foldl (fun s' m => if (s'.tileAt m).gangHold ∧ m ≠ lead then s'.onTile m fun t => t.onBank 0 (followLeader b0) else s') s'
      else ms.foldl (fun s' m => if (s'.tileAt m).gangHold then s'.onTile m fun t => t.onBank 0 fun b => { b with pc := ((s.tileAt m).bank 0).pc } else s') s'

/-- Does what `act` says once the served tile, or its gang, may go on: what is due is settled, a pending cause is taken first (R414); a tile that may not issue is left alone. -/
def whenReady (act : State → State) (s : State) : State :=
  if s.inGang then
    let lead := quadOf s.cur
    let all := [lead, lead + 1, lead + 2, lead + 3]
    let s := all.foldl State.settle s
    match all.findSome? fun m => (s.tileAt m).takePending s.tick true with
    | some t => s.setTile t
    | none =>
      if all.all fun m => !((s.tileAt m).run == 3) && !(s.tileAt m).frozen && ((s.tileAt m).gangHold || (s.tileAt m).canIssue s.tick) then act s else s
  else
    let s := s.settle s.cur
    match (s.self).takePending s.tick false with
    | some t => s.setTile t
    | none => if (s.self).canIssue s.tick then act s else s

/-- THE ISSUE of a bundle of the served tile: it issues, stalls or faults. -/
def issue (acts : List Act) (len : Nat) (s : State) : State :=
  whenReady (fun s => if s.inGang then issueGang acts len s else issueSingle acts len s) s

/-- A bundle of one move that is a trigger. -/
def issueOne (i : Instr) (sp : Spec) (s : State) : Host.Outcome State Fault Refusal :=
  .next (issue [((s.self).bus, i, some sp)] (s.self).blen s)

/-! ## Operations that only compute -/

/-- A result after `lat` issue cycles in a free-running socket, or through the command queue in a data-locked one: `lat` ticks after the trigger for a division, `lat` ticks or a free number of ticks more for any other, which R130 bounds from below only (R125, R129 to R131; DESIGN CHOICE, log 86). -/
def deliver (st : Start) (dv : Bool) (lat : Nat) (r : Res) (late : Option Pending)
    (i : Issue) : Except Stop Issue :=
  let s := i.st
  if st.locked || dv then
    if (s.self).slotFree st.sock dv then
      .ok { i with st := { s.onSelf fun t =>
        { t with
          nextOp := t.nextOp + 1
          queue := t.queue ++ [{ id := t.nextOp, bank := st.bank, sock := st.sock, kind := if dv then .divide else .calc, a := st.a,
                                 b := st.b, c := st.c, origin := st.origin, seq := st.seq, asid := t.asid,
                                 born := s.tick, due := s.tick + lat + if dv then 0 else Config.delay s.free, st := .performed,
                                 res := some r, late := late }] } with free := if dv then s.free else s.free + 1 } }
    else .error .stall
  else
    .ok { i with st := s.onSelf fun t => t.onBank st.bank fun b =>
      { b with flight := b.flight ++ [{ sock := st.sock, res := r, r := lat, origin := st.origin, seq := st.seq,
                                        late := late }] } }

/-- An operation without a result on `.x`: it is performed at its trigger and holds no slot after it (R129). Its `.y` and its status land after an issue cycle, or in a data-locked socket a tick or more later, since R130 bounds the landing from below only (DESIGN CHOICE, log 86). -/
def performNow (st : Start) (r : Res) (i : Issue) : Except Stop Issue :=
  let s := i.st
  if st.locked then
    if (s.self).slotFree st.sock false then
      .ok { i with st := { s.onSelf fun t => t.queueResult st r s.tick (t.afterEarlier st.bank st.sock (s.tick + 1 + Config.delay s.free))
                           with free := s.free + 1 } }
    else .error .stall
  else
    .ok { i with st := s.onSelf fun t => t.onBank st.bank fun b =>
      { b with flight := b.flight ++ [{ sock := st.sock, res := r, r := 1, origin := st.origin, seq := st.seq }] } }

/-- The meaning of an operation of a computing socket: a result after a latency. -/
def compute (sock : Sock) (opnd : Option Opnd) (lat : Nat) (f : Start → Res) : Spec :=
  { sock := sock, opnd := opnd, run := fun st i => deliver st false lat (f st) none i }

/-- A result on `.x` of a socket without a pipeline mode, one issue cycle later (R136). -/
def landNext (st : Start) (r : Res) (i : Issue) : Issue :=
  { i with st := i.st.onSelf fun t => t.onBank st.bank fun b =>
    { b with flight := b.flight ++ [{ sock := st.sock, res := r, r := 1, origin := st.origin, seq := st.seq }] } }

/-- A scalar result: bits [63:0], zeros above (R120). -/
def scalar (v : Dword) (status : Dword := 0) (flags : BitVec 6 := 0) : Res :=
  { x := some (v.setWidth 512), s := status, flags := flags }

/-- A move without a trigger. -/
def issueMove (i : Instr) (s : State) : Host.Outcome State Fault Refusal :=
  .next (issue [((s.self).bus, i, none)] (s.self).blen s)

end Sys2Proof.Machine
end

