-- ==== Sys2Proof/Machine/Flags.lean ====
section
/-! DEFINITION. The status word of the integer sockets (Table 7.6). -/

namespace Sys2Proof.Machine

/-- The bits of Table 7.6 beyond Z and N. -/
structure IntFlags where
  cy : Bool := false
  ov : Bool := false
  sat : Bool := false
  dz : Bool := false
  ovfDiv : Bool := false
deriving DecidableEq, Repr

/-- The status word of a result r of width w (R160). -/
def intStatus (w r : Nat) (f : IntFlags) : Dword :=
  BitVec.ofNat 64 ((r == 0).toNat + 2 * (r / 2 ^ (w - 1) % 2) + 4 * f.cy.toNat + 8 * f.ov.toNat
    + 16 * f.sat.toNat + 32 * f.dz.toNat + 64 * f.ovfDiv.toNat)

/-- Is the exact value outside the signed w-bit range? -/
def outOfRange (w : Nat) (x : Int) : Bool :=
  decide (x < -(2 ^ (w - 1) : Int)) || decide (x > (2 ^ (w - 1) : Int) - 1)

/-- The exact value clamped to the signed w-bit range (R161). -/
def clampSigned (w : Nat) (x : Int) : Int :=
  if x < -(2 ^ (w - 1) : Int) then -(2 ^ (w - 1) : Int)
  else if x > (2 ^ (w - 1) : Int) - 1 then (2 ^ (w - 1) : Int) - 1 else x

/-- r ← the exact value mod 2^w (R159). -/
def wrap (w : Nat) (x : Int) : Nat := (x % (2 ^ w : Nat)).toNat

/-- The result of an integer operation: SignExt(r, w) on the port and the status word (R159, R160). -/
def intRes (w r : Nat) (f : IntFlags := {}) : Res :=
  scalar (BitVec.ofInt 64 (signExt r w)) (intStatus w r f)

/-- The same on `.y`, for the divider (R131). -/
def intResY (w r : Nat) (f : IntFlags) : Res :=
  { y := some ((BitVec.ofInt 64 (signExt r w)).setWidth 512), s := intStatus w r f }

end Sys2Proof.Machine
end

