-- ==== Sys2Proof/Machine/LocalOps.lean ====
section
/-! DEFINITION. The sockets `ls` and `ag`: local loads, stores and atomics, streams, rings and fillers (R220 to R237). -/

namespace Sys2Proof.Machine

/-! ## Checks of local accesses -/

/-- The checks of R220 over the elements of an access, in element order. -/
def lsCheck (sz : Nat) : List Nat → Except Stop Unit
  | [] => .ok ()
  | a :: r =>
    if a % sz ≠ 0 then .error (.trap .misaligned (BitVec.ofNat 64 a) 0)
    else if a + sz > 0x60000 then .error (.trap .localRange (BitVec.ofNat 64 a) 0)
    else lsCheck sz r

/-- Consumed uncorrectable local data, delivered at the landing (R221); the detail is unit 0 of Table 18.7. -/
def lateBad (st : Start) (now : Nat) : Pending :=
  { bank := st.bank, cause := .dataUncorrectable, kind := .late, origin := st.origin, seq := st.seq, since := now }

/-- A = ZeroExt(Bits(ls.a, 31, 0), 32) (R220). -/
def lsAddr (st : Start) : Nat := st.natA 32

/-- A load of the bytes at `ps` after the checks of its elements (R220, R221). -/
def lsRead (st : Start) (i : Issue) (sz : Nat) (elems ps : List Nat) (f : List Byte → Res) : Except Stop Issue :=
  match lsCheck sz elems with
  | .error e => .error e
  | .ok _ =>
    let s := i.st
    if (s.self).badWords ps then
      let p := lateBad st s.tick
      deliver st false 3 { x := some 0 } (some p) { i with st := (s.correct s.cur ps).noteCause s.cur p }
    else
      let r := s.sramRead s.cur ps
      deliver st false 3 (f r.1) none { i with st := r.2 }

/-- A store after the checks of its elements; `ws` gives each element's physical bytes in order (R216, R220, R221). -/
def lsWrite (st : Start) (i : Issue) (sz : Nat) (elems : List Nat) (ws : List (List (Nat × Byte))) : Except Stop Issue :=
  match lsCheck sz elems with
  | .error e => .error e
  | .ok _ =>
    let s := i.st
    if ws.all fun w => (s.self).writable (w.map (·.1)) then
      let s := s.onSelf fun t => (t.sramWrite ws.flatten).touchZones (ws.flatten.map (·.1))
      performNow st {} { i with st := s }
    else .error (.trap .dataUncorrectable 0 0)

/-! ## Loads and stores -/

/-- A value of 8s bits extended as R222 says. -/
def lsExtend (m : LMod) (v : Nat) : Dword :=
  if m.natural then BitVec.ofNat 64 v else BitVec.ofInt 64 (signExt v (isizeBits m.size))

/-- `ls.ld` (R222). -/
def specLd (m : LMod) : Spec :=
  { sock := .ls, opnd := some .opA, run := fun st i =>
      let n := isizeBytes m.size
      lsRead st i n [lsAddr st] (layoutSpan m.layout (lsAddr st) n) fun bs => scalar (lsExtend m (leNat bs)) }

/-- `ls.st` (R222). -/
def specSt (m : LMod) : Spec :=
  { sock := .ls, opnd := some .opB, run := fun st i =>
      let n := isizeBytes m.size
      lsWrite st i n [lsAddr st] [(layoutSpan m.layout (lsAddr st) n).zip (natLe st.b.toNat n)] }

/-- `ls.vld` (R222). -/
def specVld (l : Layout) : Spec :=
  { sock := .ls, opnd := some .opA, run := fun st i =>
      lsRead st i 64 [lsAddr st] (layoutSpan l (lsAddr st) 64) fun bs => { x := some (busOf bs) } }

/-- `ls.vst` (R222). -/
def specVst (l : Layout) : Spec :=
  { sock := .ls, opnd := some .opB, run := fun st i =>
      lsWrite st i 64 [lsAddr st] [(layoutSpan l (lsAddr st) 64).zip (bytesOf st.b)] }

/-- The bytes k of 0 to 63 that a mask names (R223). -/
def maskBytes (v : Bus) : List Nat := (List.range 64).filter fun k => v.getLsbD k

/-- A vector with the given bytes at the named places and zero elsewhere. -/
def scatterBytes (ks : List Nat) (bs : List Byte) : Bus :=
  BitVec.ofNat 512 ((ks.zip bs).map fun p => p.2.toNat * 2 ^ (8 * p.1)).sum

/-- `ls.vldl` (R223). -/
def specVldl (l : Layout) : Spec :=
  { sock := .ls, opnd := some .opB, run := fun st i =>
      let ks := maskBytes st.b
      lsRead st i 64 [lsAddr st] (ks.map fun k => layoutMap l (lsAddr st + k)) fun bs =>
        { x := some (scatterBytes ks bs) } }

/-- `ls.vstl` (R223). -/
def specVstl (l : Layout) : Spec :=
  { sock := .ls, opnd := some .opC, run := fun st i =>
      let bs := bytesOf st.c
      lsWrite st i 64 [lsAddr st] [(maskBytes st.b).map fun k => (layoutMap l (lsAddr st + k), bs.getD k 0)] }

/-- Lanes of a gather or scatter (R224): their number and width. -/
def gatherLanes (m : LMod) : Nat × Nat := if isizeBytes m.size ≤ 4 then (16, 32) else (8, 64)

/-- Element addresses of a gather or scatter (R224). -/
def gatherAddrs (m : LMod) (st : Start) : List Nat :=
  (List.range (gatherLanes m).1).map fun i => lsAddr st + lane 32 st.b i

/-- Cuts a list into pieces of n. -/
def chunksOf (n : Nat) : Nat → List Byte → List (List Byte)
  | 0, _ => []
  | k + 1, l => l.take n :: chunksOf n k (l.drop n)

/-- `ls.vgat` (R224). -/
def specVgat (m : LMod) : Spec :=
  { sock := .ls, opnd := some .opB, run := fun st i =>
      let n := isizeBytes m.size
      let as := gatherAddrs m st
      lsRead st i n as (as.flatMap fun a => layoutSpan m.layout a n) fun bs =>
        let vs := (chunksOf n as.length bs).map fun e => (lsExtend m (leNat e)).toNat
        { x := some (BitVec.ofNat 512 (ofLanes (gatherLanes m).2 vs)) } }

/-- `ls.vsct` (R224). -/
def specVsct (m : LMod) : Spec :=
  { sock := .ls, opnd := some .opC, run := fun st i =>
      let n := isizeBytes m.size
      let as := gatherAddrs m st
      let w := (gatherLanes m).2
      lsWrite st i n as ((List.range as.length).map fun k =>
        (layoutSpan m.layout (as.getD k 0) n).zip (natLe (lane w st.c k) n)) }

def execLd (h : Head) (m : LMod) (s : State) : Host.Outcome State Fault Refusal := issueOne (.ld h m) (specLd m) s
def execSt (h : Head) (m : LMod) (s : State) : Host.Outcome State Fault Refusal := issueOne (.st h m) (specSt m) s
def execVld (h : Head) (l : Layout) (s : State) : Host.Outcome State Fault Refusal := issueOne (.vld h l) (specVld l) s
def execVst (h : Head) (l : Layout) (s : State) : Host.Outcome State Fault Refusal := issueOne (.vst h l) (specVst l) s
def execVldl (h : Head) (l : Layout) (s : State) : Host.Outcome State Fault Refusal := issueOne (.vldl h l) (specVldl l) s
def execVstl (h : Head) (l : Layout) (s : State) : Host.Outcome State Fault Refusal := issueOne (.vstl h l) (specVstl l) s
def execVgat (h : Head) (m : LMod) (s : State) : Host.Outcome State Fault Refusal := issueOne (.vgat h m) (specVgat m) s
def execVsct (h : Head) (m : LMod) (s : State) : Host.Outcome State Fault Refusal := issueOne (.vsct h m) (specVsct m) s

/-! ## Local atomics (R225) -/

/-- What an atomic makes of old, B and C: the new value if one is written, and the ok bit. -/
abbrev AtomicFn := Nat → Nat → Nat → Option Nat × Bool

/-- A local atomic: s bytes read and written as one performed operation; `signedOld` extends the old value by sign. -/
def lsAtomic (o : Opnd) (m : LMod) (signedOld : Bool) (f : AtomicFn) : Spec :=
  { sock := .ls, opnd := some o, run := fun st i =>
      let n := isizeBytes m.size
      let w := isizeBits m.size
      let a := lsAddr st
      let ps := layoutSpan m.layout a n
      match lsCheck n [a] with
      | .error e => .error e
      | .ok _ =>
        if (i.st.self).badWords ps then .error (.trap .dataUncorrectable 0 0)
        else
          let r := i.st.sramRead i.st.cur ps
          let old := leNat r.1
          let out := f old (st.natB w) (st.natC w)
          let s := match out.1 with
            | some v => r.2.onSelf fun t => (t.sramWrite (ps.zip (natLe v n))).touchZones ps
            | none => r.2
          let x : Dword := if signedOld then BitVec.ofInt 64 (signExt old w) else BitVec.ofNat 64 old
          deliver st false 3 (scalar x (if out.2 then 1 else 0)) none { i with st := s } }

def specAadd (m : LMod) : Spec :=
  lsAtomic .opB m false fun old b _ => (some ((old + b) % 2 ^ isizeBits m.size), false)
def specAswp (m : LMod) : Spec := lsAtomic .opB m false fun _ b _ => (some b, false)
def specAor (m : LMod) : Spec := lsAtomic .opB m false fun old b _ => (some (old ||| b), false)
def specAand (m : LMod) : Spec := lsAtomic .opB m false fun old b _ => (some (old &&& b), false)

/-- Is old less than b, signed or natural? -/
def lsLess (m : LMod) (x y : Nat) : Bool :=
  if m.natural then decide (x < y) else decide (signExt x (isizeBits m.size) < signExt y (isizeBits m.size))

def specAmin (m : LMod) : Spec :=
  lsAtomic .opB m (!m.natural) fun old b _ => (some (if lsLess m b old then b else old), false)
def specAmax (m : LMod) : Spec :=
  lsAtomic .opB m (!m.natural) fun old b _ => (some (if lsLess m old b then b else old), false)
def specAcas (m : LMod) : Spec :=
  lsAtomic .opC m (!m.natural) fun old b c => if old = b then (some c, true) else (none, false)

def execAadd (h : Head) (m : LMod) (s : State) : Host.Outcome State Fault Refusal := issueOne (.aadd h m) (specAadd m) s
def execAswp (h : Head) (m : LMod) (s : State) : Host.Outcome State Fault Refusal := issueOne (.aswp h m) (specAswp m) s
def execAcas (h : Head) (m : LMod) (s : State) : Host.Outcome State Fault Refusal := issueOne (.acas h m) (specAcas m) s
def execAmin (h : Head) (m : LMod) (s : State) : Host.Outcome State Fault Refusal := issueOne (.amin h m) (specAmin m) s
def execAmax (h : Head) (m : LMod) (s : State) : Host.Outcome State Fault Refusal := issueOne (.amax h m) (specAmax m) s
def execAor (h : Head) (m : LMod) (s : State) : Host.Outcome State Fault Refusal := issueOne (.aor h m) (specAor m) s
def execAand (h : Head) (m : LMod) (s : State) : Host.Outcome State Fault Refusal := issueOne (.aand h m) (specAand m) s

/-! ## Streams (R231) -/

/-- RING_FAULT with a ring as detail. -/
def ringFault (r : BitVec 3) : Stop := .trap .ringFault 0 (BitVec.ofNat 64 r.toNat)

/-- RING_FAULT with a pattern as detail (Table 18.1). -/
def patternFault (p : Nat) : Stop := .trap .ringFault 0 (BitVec.ofNat 64 (0x8000 + p * 256))

def agEnd : Dword := 8
def agLast : Dword := 4

/-- `ag.sopen` (R231). -/
def specSopen (p : BitVec 5) : Spec :=
  { sock := .ag, opnd := some .opB, run := fun st i =>
      match (i.st.self).pattern p.toNat with
      | none => .error (patternFault p.toNat)
      | some x =>
        let c : BitVec 2 := st.b.setWidth 2
        let s := i.st.onSelf fun t =>
          { t with cursors := t.cursors.set c.toNat (some { pat := x, base := st.natA 64, idx := 0 }) c.isLt }
        performNow st { y := some (BitVec.ofNat 512 (cap64 x.count)), s := if x.count = 0 then agEnd else 0 }
          { i with st := s } }

/-- `ag.sstep` (R231). -/
def specSstep : Spec :=
  { sock := .ag, opnd := some .opA, run := fun st i =>
      let c : BitVec 2 := st.a.setWidth 2
      match (i.st.self).cursors[c.toNat]'c.isLt with
      | none => .error (.trap .ringFault 0 0)
      | some u =>
        if u.idx ≥ u.pat.count then deliver st false 1 (scalar 0 agEnd) none i
        else
          let s := i.st.onSelf fun t =>
            { t with cursors := t.cursors.set c.toNat (some { u with idx := u.idx + 1 }) c.isLt }
          deliver st false 1
            (scalar (BitVec.ofNat 64 (u.pat.addr u.base u.idx)) (if u.idx + 1 = u.pat.count then agLast else 0))
            none { i with st := s } }

/-! ## Rings (R232 to R235) -/

/-- FULL and EMPTY of Table 10.7. -/
def ringStatus (r : Ring) : Dword :=
  (if r.count = r.lines then 2 else 0) + (if r.count = 0 then 1 else 0)

/-- The `rstat` word (Table 10.6). -/
def ringWord (t : Tile) (n : BitVec 3) : Dword :=
  let r := t.ring n
  BitVec.ofNat 64 (r.valid.toNat * 2 ^ 63 + r.filler.isSome.toNat * 2 ^ 62 + (t.ringBound n).toNat * 2 ^ 61
    + r.count % 2 ^ 13 * 2 ^ 32 + r.head % 2 ^ 13 * 2 ^ 16 + r.tail % 2 ^ 13)

/-- A condition of R229 that is not met: a stall in data-locked mode, RING_FAULT in free-running mode. -/
def ringWait (st : Start) (n : BitVec 3) : Stop := if st.locked then .stall else ringFault n

/-- Does a valid ring descriptor break R37? -/
def ringBad (base size n : Nat) : Bool :=
  base % 64 != 0 || n == 0 || decide (16 < n) || size == 0 || size % (64 * n) != 0 || decide (base + size > 0x60000)

def layoutOf (v : Nat) : Layout :=
  match v with
  | 0 => .lin
  | 1 => .sw64
  | 2 => .sw128
  | _ => .trn

/-- `ag.rinit` (R232). -/
def specRinit (n : BitVec 3) : Spec :=
  { sock := .ag, opnd := some .opB, run := fun st i =>
      let t := i.st.self
      let r := t.ring n
      let valid := st.b.getLsbD 16
      let base := busBits st.a 18 0
      let size := busBits st.a 50 32
      let units := busBits st.b 4 0
      if r.filler.isSome || t.ringBound n then .error (ringWait st n)
      else if valid && ringBad base size units then .error (ringFault n)
      else
        let r' : Ring := { base := base, size := size, n := units, layout := layoutOf (busBits st.b 9 8), valid := valid }
        performNow st { y := some ((ringWord t n).setWidth 512), s := ringStatus r' }
          { i with st := i.st.onSelf fun t => t.setRing n r' } }

/-- `ag.rpush` (R233). -/
def specRpush (n : BitVec 3) : Spec :=
  { sock := .ag, opnd := some .opA, run := fun st i =>
      let r := (i.st.self).ring n
      if !r.valid then .error (ringFault n)
      else if r.filler.isSome || decide (r.count + 1 > r.lines) then .error (ringWait st n)
      else
        let s := i.st.onSelf fun t => t.pushLine n (bytesOf st.a)
        performNow st { s := ringStatus ((s.self).ring n) } { i with st := s } }

/-- `ag.rpop` (R233). -/
def specRpop (n : BitVec 3) : Spec :=
  { sock := .ag, opnd := none, run := fun st i =>
      let r := (i.st.self).ring n
      if !r.valid then .error (ringFault n)
      else if r.count = 0 || (i.st.self).ringBound n then .error (ringWait st n)
      else
        let ps := r.lineSpan r.head
        let pop (s : State) : State := s.onSelf fun t => t.setRing n ((t.ring n).popped 1)
        if (i.st.self).badWords ps then
          let p := lateBad st i.st.tick
          deliver st false 1 { x := some 0 } (some p) { i with st := pop ((i.st.correct i.st.cur ps).noteCause i.st.cur p) }
        else
          let rd := i.st.sramRead i.st.cur ps
          deliver st false 1 { x := some (busOf rd.1), s := ringStatus (r.popped 1) } none
            { i with st := pop rd.2 } }

/-- `ag.rdrop` (R233). -/
def specRdrop (n : BitVec 3) : Spec :=
  { sock := .ag, opnd := some .opA, run := fun st i =>
      let r := (i.st.self).ring n
      let k := st.natA 32
      if !r.valid then .error (ringFault n)
      else if k = 0 then performNow st { s := ringStatus r } i
      else if r.count < k || (i.st.self).ringBound n then .error (ringWait st n)
      else
        performNow st { s := ringStatus (r.popped k) }
          { i with st := i.st.onSelf fun t => t.setRing n ((t.ring n).popped k) } }

/-- `ag.rstat` (R235): it never faults, whatever the valid bit (DEDUCED, log 12). -/
def specRstat (n : BitVec 3) : Spec :=
  { sock := .ag, opnd := none, run := fun st i =>
      deliver st false 1 (scalar (ringWord (i.st.self) n) (ringStatus ((i.st.self).ring n))) none i }

/-! ## Fillers (R234, R237) -/

/-- `ag.rfill` (R234). -/
def specRfill (n : BitVec 3) : Spec :=
  { sock := .ag, opnd := some .opB, run := fun st i =>
      let t := i.st.self
      let r := t.ring n
      let b0 := st.natA 64
      let tag : BitVec 6 := BitVec.ofNat 6 (busBits st.b 13 8)
      if !r.valid then .error (ringFault n)
      else
        match t.pattern (busBits st.b 4 0) with
        | none => .error (patternFault (busBits st.b 4 0))
        | some p =>
          let at0 : Dword := BitVec.ofNat 64 (b0 + p.base)
          if p.count ≠ 0 ∧ !p.aligned b0 then .error (.trap .misaligned at0 0)
          else if p.count ≠ 0 ∧ !p.inLocal b0 then .error (.trap .localRange at0 0)
          else if r.filler.isSome then .error (ringWait st n)
          else
            let f : Filler :=
              { pat := p, base := b0, idx := 0, stage := [], tag := tag, isGlobal := false, scope := .tile,
                asid := t.asid, bank := st.bank, origin := st.origin, seq := st.seq, task := t.taskIn st.bank,
                due := i.st.tick + 1 + if p.count = 0 then 0 else Config.delay i.st.free
                commitAt := i.st.tick + 3 + Config.delay (i.st.free + 1), opId := 0 }
            let s := { i.st.onSelf fun t => (t.clearTag tag.toNat).setRing n { t.ring n with filler := some f } with free := i.st.free + 2 }
            performNow st
              { y := some (BitVec.ofNat 512 (cap64 (p.count * 2 ^ p.esize))), s := ringStatus r } { i with st := s } }

def execSopen (h : Head) (p : BitVec 5) (s : State) : Host.Outcome State Fault Refusal := issueOne (.sopen h p) (specSopen p) s
def execSstep (h : Head) (s : State) : Host.Outcome State Fault Refusal := issueOne (.sstep h) specSstep s
def execRinit (h : Head) (r : BitVec 3) (s : State) : Host.Outcome State Fault Refusal := issueOne (.rinit h r) (specRinit r) s
def execRpush (h : Head) (r : BitVec 3) (s : State) : Host.Outcome State Fault Refusal := issueOne (.rpush h r) (specRpush r) s
def execRpop (h : Head) (r : BitVec 3) (s : State) : Host.Outcome State Fault Refusal := issueOne (.rpop h r) (specRpop r) s
def execRfill (h : Head) (r : BitVec 3) (s : State) : Host.Outcome State Fault Refusal := issueOne (.rfill h r) (specRfill r) s
def execRstat (h : Head) (r : BitVec 3) (s : State) : Host.Outcome State Fault Refusal := issueOne (.rstat h r) (specRstat r) s
def execRdrop (h : Head) (r : BitVec 3) (s : State) : Host.Outcome State Fault Refusal := issueOne (.rdrop h r) (specRdrop r) s

end Sys2Proof.Machine
end

