-- ==== Sys2Proof/Machine/Global.lean ====
section
/-! DEFINITION. Global memory: the physical map, page tables, the walk, the translation lookaside buffers, and the checks of an access (R262 to R276). -/

namespace Sys2Proof.Machine

/-! ## The physical map (R262 to R265) -/

/-- Ranges of Table 12.1 that software can name. -/
inductive Region where
  | hbm (die : Nat)
  | cxl (port : Nat)
  | notify
  | request
  | host
  | peer (w : Nat)
  | reserved
deriving DecidableEq, Repr

/-- The range a physical address lies in (Table 12.1). -/
def regionOf (pa : Nat) : Region :=
  if pa < 24 * 2 ^ 36 then .hbm (pa / 2 ^ 36)
  else if 2 ^ 44 ≤ pa ∧ pa < 2 ^ 44 + 8 * 2 ^ 42 then .cxl ((pa - 2 ^ 44) / 2 ^ 42)
  else if 0x3FF000000000 ≤ pa ∧ pa < 0x3FF010000000 then .notify
  else if 0x3FF200000000 ≤ pa ∧ pa < 0x3FF200600000 then .request
  else if 2 ^ 46 ≤ pa ∧ pa < 2 ^ 47 then .host
  else if 2 ^ 47 ≤ pa ∧ pa < 2 ^ 52 then .peer ((pa - 2 ^ 47) / 2 ^ 41)
  else .reserved

/-- Bytes of an HBM stack (R263). -/
def hbmBytes : Nat := 0xEE6B28000

/-- Is the offset within the HBM of some die (R263)? -/
def inHbm (pa : Nat) : Bool := decide (pa < 24 * 2 ^ 36) && decide (pa % 2 ^ 36 < hbmBytes)

/-- Does an entry of `PEERWIN` name a module (Table 12.8)? -/
def State.peerOf (s : State) (w : Nat) : Option Nat :=
  match s.peerWin.find? fun e => e.1 = w with
  | some e => if e.2.getLsbD 63 then some (e.2.toNat % 4096) else none
  | none => none

/-- Kind of the range of an address (Table 12.2). -/
def kindOf (pa : Nat) : Nat :=
  match regionOf pa with
  | .hbm _ => 0
  | .cxl _ => 1
  | .host => 2
  | .peer _ => 3
  | .notify => 4
  | .request => 5
  | .reserved => 6

/-- Do the bytes [pa, pa + n) lie in one backed range (R262 to R265)? -/
def State.backed (s : State) (pa n : Nat) : Bool :=
  match regionOf pa with
  | .hbm d => decide (pa % 2 ^ 36 + n ≤ hbmBytes) && decide (d < 24)
  | .cxl k =>
    match s.cxl[k]? with
    | some c => c.up && decide ((pa - 2 ^ 44) % 2 ^ 42 + n ≤ c.cap * 2 ^ 30)
    | none => false
  | .notify => decide (pa + n ≤ 0x3FF010000000)
  | .request => decide (pa + n ≤ 0x3FF200600000)
  | .host => decide (pa + n ≤ 2 ^ 47)
  | .peer w => (s.peerOf w).isSome && inHbm (pa % 2 ^ 41) && inHbm (pa % 2 ^ 41 + n - 1)
  | .reserved => false

/-! ## Memory -/

/-- A word of a page table or of the ASID table. -/
def State.dwordAt (s : State) (pa : Nat) : Nat := leNat (cellsReadAll s.mem pa 8)

/-- `n` bytes of global memory. -/
def State.gRead (s : State) (pa n : Nat) : List Byte := cellsReadAll s.mem pa n

/-- Writes bytes of global memory; words wholly covered lose their error (R90). -/
def State.gWrite (s : State) (pa : Nat) (bs : List Byte) : State :=
  { s with
    mem := cellsWriteAll s.mem pa bs
    badMem := if s.badMem.isEmpty then s.badMem
              else s.badMem.filter fun w => !(decide (pa ≤ 8 * w) && decide (8 * w + 8 ≤ pa + bs.length)) }

/-! ## Page tables (R266 to R270) -/

/-- Outcome of a walk (R268). -/
inductive Walked where
  | missing (demand : Bool)
  | final
  /-- a table cannot be read: its die is fenced, its pseudo-channel has failed, or the entry is uncorrectable (R90, R91, R275) -/
  | lost
  /-- the pseudo-channel of a table is being spared until the tick (R90, R274) -/
  | busy (until_ : Nat)
  /-- a leaf: address of its entry, its value, 512 MiB -/
  | leaf (at_ : Nat) (pte : Nat) (big : Bool)
deriving DecidableEq, Repr

/-- The leaf checks of R268 on the frame, its kind and its home. -/
def State.leafOk (s : State) (pte : Nat) (big : Bool) : Bool :=
  let frame := bits pte 51 16
  let kind := bits pte 58 56
  (!big || frame % 8192 == 0)
    && kindOf (frame * 2 ^ 16) == kind && s.backed (frame * 2 ^ 16) (if big then 2 ^ 29 else 2 ^ 16)
    && !((kind == 1 || kind == 2 || kind == 3) && decide (24 ≤ bits pte 63 59))

/-- Addresses of the 8-byte words that hold the bytes [pa, pa + n). -/
def wordsIn (pa n : Nat) : List Nat := (List.range ((pa % 8 + n + 7) / 8)).map fun k => pa / 8 * 8 + 8 * k

/-- Can the word at an address not be read (R90, R91)? -/
def State.lostAt (s : State) (pa : Nat) : Bool :=
  s.badMem.contains (pa / 8)
    || (match regionOf pa with
        | .hbm d => s.fenced.getLsbD d || s.failed.contains (d, Config.channelOf pa)
        | .cxl _ | .notify | .request | .host | .peer _ | .reserved => false)

/-- The end of the copy, while the pseudo-channel of an address is being spared (R90). -/
def State.sparedUntil (s : State) (pa : Nat) : Option Nat :=
  match regionOf pa with
  | .hbm d => (s.sparing.find? fun e => e.1 = d ∧ e.2.1 = Config.channelOf pa ∧ s.tick < e.2.2).map fun e => e.2.2
  | .cxl _ | .notify | .request | .host | .peer _ | .reserved => none

/-- One level of the walk and those below it: 2 top, 1 middle, 0 bottom. -/
def State.walkLevel (s : State) (va : Nat) (demand : Bool) : Nat → Nat → Walked
  | lev, table =>
    let at_ := table + 8 * bits va (28 + 13 * lev) (16 + 13 * lev)
    let pte := s.dwordAt at_
    if !s.backed table 0x10000 then .final
    else if s.lostAt at_ then .lost
    else if (s.sparedUntil at_).isSome then .busy ((s.sparedUntil at_).getD 0)
    else if bits pte 0 0 = 0 then .missing demand
    else if bits pte 55 52 ≠ 0 ∨ bits pte 15 10 ≠ 0 ∨ bits pte 58 56 ≥ 6 then .final
    else
      match lev with
      | 0 => if s.leafOk pte false then .leaf at_ pte false else .final
      | l + 1 =>
        let isLeaf := bits pte 7 7 = 1
        if isLeaf ∧ 1 ≤ l then .final
        else if isLeaf then (if s.leafOk pte true then .leaf at_ pte true else .final)
        else if bits pte 58 56 > 1 then .final
        else s.walkLevel va demand l (bits pte 51 16 * 2 ^ 16)

/-- The walk of R268 from the ASID table (R270). Entry 0 is never valid. -/
def State.walk (s : State) (asid : Half) (va : Nat) : Walked :=
  let at_ := s.tr.asidBase.toNat / 0x10000 * 0x10000 + 8 * asid.toNat
  let e := s.dwordAt at_
  if s.lostAt at_ then .lost
  else if (s.sparedUntil at_).isSome then .busy ((s.sparedUntil at_).getD 0)
  else if asid = 0 ∨ bits e 0 0 = 0 ∨ bits e 15 2 ≠ 0 ∨ bits e 63 52 ≠ 0 then .final
  else s.walkLevel va (bits e 1 1 = 1) 2 (bits e 51 16 * 2 ^ 16)

/-! ## TLBs (R271) -/

/-- The entry that a leaf gives for the page of a virtual address. -/
def entryOf (asid : Half) (va pte : Nat) (big : Bool) : TlbEntry :=
  { asid := asid, page := if big then va / 2 ^ 29 * 8192 else va / 2 ^ 16, big := big, frame := bits pte 51 16,
    kind := bits pte 58 56, home := bits pte 63 59, g := bits pte 6 6 = 1, u := bits pte 5 5 = 1,
    r := bits pte 1 1 = 1, w := bits pte 2 2 = 1, d := bits pte 4 4 = 1, rep := bits pte 8 8 = 1, mig := bits pte 9 9 = 1 }

/-- Does an entry cover a page in an ASID? -/
def TlbEntry.covers (e : TlbEntry) (asid : Half) (page : Nat) : Bool :=
  (e.asid == asid || e.g) && decide (e.page ≤ page) && decide (page < e.page + if e.big then 8192 else 1)

/-- pa of an address under an entry (R268). -/
def TlbEntry.pa (e : TlbEntry) (va : Nat) : Nat := e.frame * 2 ^ 16 + va % (if e.big then 2 ^ 29 else 2 ^ 16)

def findTlb (asid : Half) (page : Nat) (l : List TlbEntry) : Option TlbEntry := l.find? fun e => e.covers asid page

def State.clusterTlb (s : State) (c : Nat) : List TlbEntry :=
  match s.ctlb.find? fun e => e.1 = c with
  | some e => e.2
  | none => []

def putKeyed {α : Type} (k : Nat) (v : α) : List (Nat × α) → List (Nat × α)
  | [] => [(k, v)]
  | e :: r => if k < e.1 then (k, v) :: e :: r else if k = e.1 then (k, v) :: r else e :: putKeyed k v r

def State.setClusterTlb (s : State) (c : Nat) (l : List TlbEntry) : State := { s with ctlb := putKeyed c l s.ctlb }

/-- Adds an entry to a TLB of `cap` entries; in a full one an entry that the spec does not name makes room (R271). -/
def addTlb (cap pick : Nat) (e : TlbEntry) (l : List TlbEntry) : List TlbEntry :=
  let l := l.filter fun x => !(x.asid == e.asid && x.page == e.page && x.big == e.big)
  let l := if cap ≤ l.length then l.eraseIdx (pick % cap) else l
  e :: l

def State.fillUtlb (s : State) (a : Nat) (e : TlbEntry) : State :=
  { s.onTile a fun t => { t with utlb := addTlb 16 (Config.delay s.free) e t.utlb } with free := s.free + 1 }

/-- Fills both TLBs (R271). -/
def State.fillTlbs (s : State) (a : Nat) (e : TlbEntry) : State :=
  let c := clusterOf a
  (s.setClusterTlb c (addTlb 4096 (Config.delay (s.free + 1)) e (s.clusterTlb c))).fillUtlb a e

/-! ## Checks of an access (Table 12.4) -/

/-- What an access does with the bytes. -/
inductive Access where
  | rd | wr | atom
deriving DecidableEq, Repr

/-- Access field of a fault record (R276). -/
def Access.code : Access → Nat
  | .rd => 0 | .wr => 1 | .atom => 2

/-- Who makes an access, and what kinds 4 and 5 accept of it (R268, R294). -/
structure Who where
  tile : Nat
  user : Bool
  asid : Half
  acc : Access
  /-- an 8-byte `dm.gst` -/
  store8 : Bool := false
  /-- an 8-byte `dm.gld` -/
  load8 : Bool := false

/-- The slot of a tile in the request aperture (R294). -/
def slotOf (a : Nat) : Nat := 0x3FF200000000 + clusterOf a * 0x10000 + 16 * (a % 1024)

/-- Steps 3 and 4 of Table 12.4. -/
def permCheck (w : Who) (e : TlbEntry) (pa : Nat) : Option Cause :=
  let need : Bool := match w.acc with
    | .rd => e.r
    | .wr => e.w
    | .atom => e.r && e.w
  let dev : Bool :=
    if e.kind = 4 then w.store8
    else if e.kind = 5 then
      !w.user && (w.store8 || w.load8) && decide (pa = slotOf w.tile ∨ pa = slotOf w.tile + 8)
    else true
  if (w.user && !e.u) || !need || !dev then some .protectionFault
  else if e.rep && w.acc != .rd then some .collapse
  else none

/-- The address a read or write is performed at: the issuing die's replica for a replicated page (R269). -/
def homedPa (w : Who) (e : TlbEntry) (va : Nat) : Nat :=
  let pa := e.pa va
  if e.rep ∧ e.kind = 0 then dieOf w.tile * 2 ^ 36 + pa % 2 ^ 36 else pa

/-- The die whose controller or unit serves an entry's page: that of the frame for kind 0, else the leaf's home (R287). -/
def homeDie (e : TlbEntry) (pa : Nat) : Nat := if e.kind = 0 then pa / 2 ^ 36 else e.home

/-- A retry-after hint (R274). -/
def hintOf (until_ now : Nat) : Nat := max 1 (min (until_ - now) 65535)

/-- The refusals of R274 beyond MIG, for an access to `n` bytes: a pseudo-channel under sparing, a CXL port or a die link in retraining. A page of kind 4 or 5 has no home (Table 12.2). -/
def State.homeRefusal (s : State) (a pa n home : Nat) : Option Nat :=
  let busy : Option Nat :=
    match regionOf pa with
    | .hbm _ => (wordsIn pa n).findSome? s.sparedUntil
    | .cxl k =>
      (match s.cxl[k]? with
       | some c => if s.tick < c.holdUntil then some c.holdUntil else none
       | none => none)
    | .notify | .request | .host | .peer _ | .reserved => none
  match busy with
  | some u => some (hintOf u s.tick)
  | none =>
    match regionOf pa with
    | .notify | .request => none
    | .hbm _ | .cxl _ | .host | .peer _ | .reserved =>
      (s.retrain.find? fun e => Config.usesLink (dieOf a) home (e.1, e.2.1) && decide (s.tick < e.2.2)).map
        fun e => hintOf e.2.2 s.tick

/-- Is a peer module reachable: not lost by exhausted retries, and a link of its route mask up (R313)? -/
def State.peerUp (s : State) (m : Nat) : Bool :=
  let mask := match s.eutas.route.find? fun e => e.1 = m with | some e => e.2 | none => 0
  !s.eutas.lost.contains m
    && (List.range 12).any fun k => bits mask k k == 1 && (s.eutas.links.getD k (0, 0, false, false)).2.2.2

/-- The home of an address reads an uncorrectable word or lies on a fenced die (step 7 of Table 12.4): the unit of Table 18.7. `whole` says that the access writes whole words only. -/
def State.homeBad (s : State) (pa n home : Nat) (reads : Bool) : Option Nat :=
  let bad : Bool := (wordsIn pa n).any fun w =>
    s.badMem.contains (w / 8) && (reads || !(decide (pa ≤ w) && decide (w + 8 ≤ pa + n)))
  match regionOf pa with
  | .hbm d =>
    if s.fenced.getLsbD d || bad || (wordsIn pa n).any (fun w => s.failed.contains (d, Config.channelOf w)) then some 3 else none
  | .cxl _ => if s.fenced.getLsbD home || bad then some 4 else none
  | .host | .peer _ => if s.fenced.getLsbD home then some 3 else none
  | .notify | .request | .reserved => none

/-- Outcome of steps 5 to 7 of Table 12.4 at the home. -/
inductive AtHome where
  | ok
  | refuse (hint : Nat)
  | fault (c : Cause) (detail : Nat)
deriving DecidableEq, Repr

def State.homeCheck (s : State) (w : Who) (e : TlbEntry) (pa n : Nat) (reads : Bool) : AtHome :=
  match s.homeRefusal w.tile pa n (homeDie e pa) with
  | some h => .refuse h
  | none =>
    let lost : Option Nat := match regionOf pa with
      | .peer k => (match s.peerOf k with | some m => if s.peerUp m then none else some m | none => some 0)
      | .hbm _ | .cxl _ | .notify | .request | .host | .reserved => none
    match lost with
    | some m => .fault .peerUnreachable m
    | none =>
      match s.homeBad pa n (homeDie e pa) reads with
      | some u => .fault .dataUncorrectable u
      | none => .ok

/-! ## The translation service core -/

/-- What a translation gives an access. -/
inductive Trans where
  /-- an entry that serves the access -/
  | hit (e : TlbEntry)
  /-- an entry of the cluster TLB: 24 ticks (R271) -/
  | cluster
  /-- a walk -/
  | walk
  /-- an entry with D clear does not serve a write (R272) -/
  | setD
  /-- an entry with MIG set (R274) -/
  | refuse
  | fault (c : Cause)
deriving DecidableEq, Repr

/-- What the micro-TLB gives an access; `ready` says that the cluster TLB's 24 ticks have passed. Every access with ASID 0 faults (R270, R426). -/
def State.translate (s : State) (w : Who) (va : Nat) (ready : Bool) : Trans :=
  let use (e : TlbEntry) : Trans :=
    match permCheck w e (e.pa va) with
    | some c => .fault c
    | none => if e.mig then .refuse else if w.acc != .rd && !e.d then .setD else .hit e
  if w.asid = 0 then .fault .translationFault
  else
  match findTlb w.asid (va / 2 ^ 16) (s.tileAt w.tile).utlb with
  | some e => use e
  | none =>
    match findTlb w.asid (va / 2 ^ 16) (s.clusterTlb (clusterOf w.tile)) with
    | some e => if ready then use e else .cluster
    | none => .walk

/-- Outcome of the core's work for one access. -/
inductive CoreOut where
  | filled (s : State)
  | missing (demand : Bool)
  | fault (c : Cause)
  /-- refused with a hint -/
  | refuse (hint : Nat)
  /-- a table cannot be read -/
  | lost

/-- The core walks, checks the leaf, sets A (and D for a write when `setD`), and fills both TLBs (R268, R272, R379). -/
def State.coreFill (s : State) (w : Who) (va : Nat) (setD : Bool) : CoreOut :=
  match s.walk w.asid va with
  | .missing d => .missing d
  | .final => .fault .translationFault
  | .lost => .lost
  | .busy u => .refuse (hintOf u s.tick)
  | .leaf at_ pte big =>
    let e := entryOf w.asid va pte big
    match permCheck w e (e.pa va) with
    | some c => .fault c
    | none =>
      if bits pte 9 9 = 1 then .refuse 3400
      else
        let pte' := pte ||| (8 + if setD then 16 else 0)
        let s := s.gWrite at_ (natLe pte' 8)
        let s := { s with cnt := { s.cnt with atom := s.cnt.atom + 1 } }
        .filled (s.fillTlbs w.tile (entryOf w.asid va pte' big))

/-- The physical address an access would be performed at now, without an effect: from the translations it holds, from the TLBs, else from the tables. It serves only the order of overlapping operations (R279). -/
def State.peek (s : State) (w : Who) (held : List TlbEntry) (va : Nat) : Option Nat :=
  match findTlb w.asid (va / 2 ^ 16) (held ++ (s.tileAt w.tile).utlb ++ s.clusterTlb (clusterOf w.tile)) with
  | some e => some (homedPa w e va)
  | none =>
    match s.walk w.asid va with
    | .leaf _ pte big => some (homedPa w (entryOf w.asid va pte big) va)
    | .missing _ | .final | .lost | .busy _ => none

/-! ## Scopes (Table 16.3) -/

/-- Is a tile in the scope set of another? -/
def inScope (sc : Scope) (a b : Nat) : Bool :=
  match sc with
  | .tile => a == b
  | .quad => quadOf a == quadOf b
  | .cluster => clusterOf a == clusterOf b
  | .die => dieOf a == dieOf b
  | .module | .system => true

/-- Is a cluster's TLB in the scope of a tile? It belongs to the core, which `.c` is the least scope to hold. -/
def clusterInScope (sc : Scope) (a c : Nat) : Bool :=
  match sc with
  | .tile | .quad => false
  | .cluster => clusterOf a == c
  | .die => dieOf a == c / 4
  | .module | .system => true

/-- Drops TLB entries within a scope (R381, R424). -/
def State.dropTlb (s : State) (sc : Scope) (a : Nat) (p : TlbEntry → Bool) : State :=
  { s with
    tiles := s.tiles.map fun t => if inScope sc a t.addr then { t with utlb := t.utlb.filter fun e => !p e } else t
    ctlb := s.ctlb.map fun c => if clusterInScope sc a c.1 then (c.1, c.2.filter fun e => !p e) else c }

end Sys2Proof.Machine
end

