-- ==== Sys2Proof/Machine/Engine.lean ====
section
/-! DEFINITION. What the engines share: the operations of the command queues, their completion and their faults, the store digest, packets to peer modules (R277, R281, R313, R451 to R453). -/

namespace Sys2Proof.Machine

/-! ## Operations in the command queues -/

def Tile.op? (t : Tile) (id : Nat) : Option DlOp := t.queue.find? fun o => o.id = id

def State.op? (s : State) (a id : Nat) : Option DlOp := (s.tileAt a).op? id

/-- Replaces an operation by its number. -/
def Tile.putOp (t : Tile) (o : DlOp) : Tile := { t with queue := t.queue.map fun p => if p.id = o.id then o else p }

def State.putOp (s : State) (a : Nat) (o : DlOp) : State := s.onTile a fun t => t.putOp o

def Tile.dropOp (t : Tile) (id : Nat) : Tile := { t with queue := t.queue.filter fun p => p.id ≠ id }

def State.dropOp (s : State) (a id : Nat) : State := s.onTile a fun t => t.dropOp id

/-- Has the operation completed (R278)? -/
def DlOp.isDone (o : DlOp) (now : Nat) : Bool := o.st == .performed && decide (o.due ≤ now)

/-- Has it been performed? -/
def DlOp.isPerformed (o : DlOp) : Bool := o.st == .performed

/-- Is it a global atomic of `dm` (R286)? -/
def DlOp.isAtomic (o : DlOp) : Bool := match o.kind with | .gatom _ _ | .gcas _ => true | _ => false

/-- Is it a semaphore or barrier operation of `sy` (R352, R356)? -/
def DlOp.atUnit (o : DlOp) : Bool :=
  match o.kind with
  | .sig _ | .swait _ | .sdec _ | .binit | .arrive _ | .drop _ | .bwait _ => true
  | _ => false

/-- Is the operation a wait, which later `sy` operations do not wait behind (R348)? -/
def OpKind.isWait : OpKind → Bool
  | .wany _ | .wall _ | .wffr _ | .swait _ | .bwait _ => true
  | _ => false

/-- Do two operations belong to one strand? -/
def DlOp.sameStrand (o p : DlOp) : Bool := o.bank == p.bank && o.task == p.task && o.old == p.old

/-- The strand's operations triggered before `o` that are still in the queue. -/
def Tile.earlier (t : Tile) (o : DlOp) : List DlOp := t.queue.filter fun p => p.sameStrand o && decide (p.id < o.id)

/-- A late cause of an operation (R277). Its error record names the local word that could not be read, or the physical address of the access where that is known. -/
def DlOp.pending (o : DlOp) (c : Cause) (addr detail now : Nat) : Pending :=
  let where_ : Nat := match c with
    | .translationFault | .protectionFault | .collapse => 0
    | .dataUncorrectable => if detail = 0 then addr else o.pa
    | _ => o.pa
  { bank := o.bank, cause := c, kind := .late, origin := o.origin, addr := BitVec.ofNat 64 addr,
    detail := BitVec.ofNat 64 detail, seq := o.seq, since := now, task := o.task, where_ := where_ }

/-! ## Tags (R281) -/

/-- Is the operation one of `dm` that names the tag? -/
def DlOp.namesTag (o : DlOp) (n : Nat) : Bool :=
  o.sock == .dm && (match o.tag with | some t => t.toNat == n | none => false)

/-- The tag is set when no `dm` operation that names it remains and none of them was stopped (R281). -/
def Tile.dmTag (t : Tile) (n : Nat) : Tile :=
  if t.queue.any (fun o => o.namesTag n) || t.tagStop.getLsbD n then t else t.setTag n

/-! ## The store digest (R451 to R453) -/

/-- Is the operation one whose writes the digest covers (Table 19.3)? -/
def DlOp.covered (o : DlOp) : Bool :=
  o.bank != 3 && o.old.isNone &&
    match o.kind with
    | .gst _ | .gatom _ _ | .gcas _ | .put _ | .putp _ | .sig _ | .sdec _ => true
    | _ => false

/-- Trigger order, and ascending socket number within a bundle (R453). -/
def keyBefore (b1 s1 i1 b2 s2 i2 : Nat) : Bool :=
  decide (b1 < b2) || (b1 == b2 && (decide (s1 < s2) || (s1 == s2 && decide (i1 < i2))))

/-- One byte of the reflected CRC-64 (R452). -/
def crcByte (c : Dword) (x : Byte) : Dword :=
  (List.range 8).foldl (fun c _ => if c.getLsbD 0 then (c >>> 1) ^^^ 0xC96C5795D7870F42 else c >>> 1) (c ^^^ x.setWidth 64)

/-- A record folded into D (R452). -/
def foldRec (d : Dword) (r : DigestRec) : Dword :=
  (natLe r.pa 8 ++ [BitVec.ofNat 8 r.data.length] ++ r.data).foldl crcByte d

/-- May the record be folded: no covered word before it is still to be performed (R453)? A record's place holds its word number in units of 16. -/
def Tile.foldable (t : Tile) (r : DigestRec) : Bool :=
  t.queue.all fun o =>
    !(o.covered && !o.isPerformed) ||
      (if o.id = r.opId then o.rest.all fun u => decide (r.idx / 16 < u)
       else !(keyBefore o.born o.sock.num o.id r.born r.sock r.opId))

/-- The first record in digest order. -/
def firstRec : List DigestRec → Option DigestRec
  | [] => none
  | r :: rs =>
    match firstRec rs with
    | none => some r
    | some q =>
      if keyBefore q.born q.sock q.opId r.born r.sock r.opId || (q.opId == r.opId && decide (q.idx < r.idx)) then some q
      else some r

/-- Folds every record that may be folded, in order. -/
def Tile.fold : Nat → Tile → Tile
  | 0, t => t
  | n + 1, t =>
    match firstRec t.dgbuf with
    | none => t
    | some r =>
      if t.foldable r then
        Tile.fold n { t with digest := foldRec t.digest r, records := t.records + 1,
                             dgbuf := t.dgbuf.filter fun q => q != r }
      else t

def Tile.foldAll (t : Tile) : Tile := t.fold t.dgbuf.length

/-- Adds the record of a performed write of a covered operation. -/
def Tile.addRec (t : Tile) (o : DlOp) (idx pa : Nat) (data : List Byte) : Tile :=
  if o.covered then
    { t with dgbuf := t.dgbuf ++ [{ born := o.born, sock := o.sock.num, opId := o.id, idx := idx, pa := pa, data := data }] }
  else t

/-- Is the buffer of 4 KiB full for the operation: it holds no more and an older covered operation is still to be performed (R453)? -/
def Tile.digestFull (t : Tile) (o : DlOp) : Bool :=
  o.covered && decide (4096 ≤ (t.dgbuf.map fun r => 9 + r.data.length).sum)
    && t.queue.any fun p => p.covered && !p.isPerformed && keyBefore p.born p.sock.num p.id o.born o.sock.num o.id

/-- The operation is performed; it completes a free time later. Records that waited for it are folded (R453). -/
def State.perform (s : State) (a : Nat) (o : DlOp) (r : Res) : State :=
  let o : DlOp := { o with st := .performed, due := s.tick + Config.delay s.free, res := some r, tr := [], stage := [] }
  { s.onTile a fun t => (t.putOp o).foldAll with free := s.free + 1 }

/-! ## Faults of engine operations (R277, R281) -/

/-- Ring of a `fill` (R284). -/
def DlOp.fillRing (o : DlOp) : BitVec 3 := BitVec.ofNat 3 (busBits o.b 18 16)

def DlOp.isFill (o : DlOp) : Bool := match o.kind with | .fill _ => true | _ => false

/-- What an earlier launch left in the tile (R118). -/
def Tile.prevOf (t : Tile) (l : Dword) : Option PrevLaunch := t.prevs.find? fun v => v.launch = l

/-- The ring of a `fill`: its launch's own (R118, R284). -/
def Tile.ringOf (t : Tile) (o : DlOp) : Ring :=
  match o.old with
  | none => t.ring o.fillRing
  | some l => match t.prevOf l with | some v => v.rings[o.fillRing.toNat]'o.fillRing.isLt | none => {}

def Tile.setRingOf (t : Tile) (o : DlOp) (x : Ring) : Tile :=
  match o.old with
  | none => t.setRing o.fillRing x
  | some l => { t with prevs := t.prevs.map fun v => if v.launch = l then { v with rings := v.rings.set o.fillRing.toNat x o.fillRing.isLt } else v }

/-- A `fill` that stops leaves its ring without a producer (R237). -/
def Tile.stopFill (t : Tile) (o : DlOp) : Tile :=
  match (t.ringOf o).filler with
  | some f => if o.isFill ∧ f.isGlobal ∧ f.opId = o.id then t.setRingOf o { t.ringOf o with filler := none } else t
  | none => t

/-- A queue operation that ends unperformed writes the status word of its socket with OK 0 (R315, R334, R348); `dm.s` is written on completion only (R278). -/
def Tile.failStatus (t : Tile) (o : DlOp) : Tile :=
  if o.old.isNone && (o.sock == .nt || o.sock == .kn || o.sock == .sy) then
    t.onBank o.bank fun b => b.setSock o.sock { b.sock o.sock with s := BitVec.ofNat 64 o.refBits }
  else t

/-- A final fault: the operation is stopped, its tag stays clear, its cause is delivered to its strand. -/
def State.engineFault (s : State) (a : Nat) (o : DlOp) (c : Cause) (addr detail : Nat) : State :=
  let s := s.onTile a fun t =>
    (match o.tag with
     | some n => { (t.dropOp o.id) with tagStop := if o.sock = Sock.dm then t.tagStop ||| tagBit n.toNat else t.tagStop }
     | none => t.dropOp o.id).foldAll.stopFill o |>.failStatus o
  let p := o.pending c addr detail s.tick
  match o.old with
  | some l => (s.noteCause a p).tileRecord 10 a c detail p.where_ l
  | none => s.lateCause a p

/-- A retry-after refusal is counted (R461). -/
def State.countRef (s : State) : State := { s with cnt := { s.cnt with ref := s.cnt.ref + 1 } }

/-- A refusal with a hint: the operation is sent again `h` ticks later, and is translated again then (R273, R274, R306). -/
def State.refuse (s : State) (a : Nat) (o : DlOp) (h : Nat) (i : Instr) : State :=
  let s := (s.putOp a { o with st := .refused (s.tick + h), refusals := o.refusals + 1, walk := 0, tr := [], stage := [] }).countRef
  { s with agenda := s.agenda ++ [(s.tick + h, i, { tile := a, op := o.id })] }

/-! ## Missing pages (R276) -/

/-- Writes a fault record to the fault queue if it has room. -/
def State.writeFault (s : State) (r : FaultRec) : State :=
  if s.tr.fqHead - s.tr.fqTail < 4096 then
    let bytes := natLe r.va 8 ++ natLe r.asid.toNat 2 ++ [BitVec.ofNat 8 r.access, 0] ++ natLe r.tile 4
      ++ natLe r.id.toNat 4 ++ List.replicate 12 0
    let s := s.gWrite (s.tr.fqBase.toNat / 4096 * 4096 + 32 * (s.tr.fqHead % 4096)) bytes
    { s with
      tr := { s.tr with fqHead := s.tr.fqHead + 1, records := s.tr.records + 1 }
      faults := s.faults.map fun q => if q.id = r.id then { q with written := true } else q }
  else s

/-- The access of an operation is pending: it joins the record of its page, or makes one (R276); a task's access raises an upcall, the first time that it is pending (R277). It holds no translation (R381). -/
def State.pend (s : State) (a : Nat) (o : DlOp) (va : Nat) (acc : Access) : State :=
  let (id, s) : Word × State :=
    match s.faults.find? fun r => r.asid = o.asid ∧ r.page = va / 2 ^ 16 with
    | some r => (r.id, s)
    | none =>
      let r : FaultRec := { id := s.tr.nextId, asid := o.asid, page := va / 2 ^ 16, va := va, access := acc.code,
                            tile := s.mtile a, written := false }
      (r.id, State.writeFault { s with faults := s.faults ++ [r], tr := { s.tr with nextId := s.tr.nextId + 1 } } r)
  let s := s.putOp a { o with st := .pending id, walk := 0, tr := [], stage := [], notice := true }
  if o.notice then s else s.pendUpcall a o

/-! ## Packets to peer modules (R304, R313) -/

def State.nextSeqTo (s : State) (m : Nat) : Nat :=
  match s.eutas.nextSeq.find? fun e => e.1 = m with | some e => e.2 | none => 0

/-- The address of no tile, for a packet that goes to another module. -/
def noTile : Nat := 2 ^ 17

/-- Sends a packet over Eutas; it stays in the retry store until it is acknowledged, and what waits for its answer is kept beside it. -/
def State.eutasSend (s : State) (m : Nat) (body : EutasBody) (what : Option AskFor) : State :=
  let n := s.nextSeqTo m
  let out : EutasOut := { dst := m, seq := n, body := body, sent := s.tick }
  { s with
    eutas := { s.eutas with out := s.eutas.out ++ [out], nextSeq := putKeyed m (n + 1) s.eutas.nextSeq
                            asked := s.eutas.asked ++ what.toList.map fun w => { dst := m, seq := n, what := w } }
    agenda := s.agenda ++ [(s.tick + s.eutas.timeout, .eutasRetransmit, { dst := m, seq := n })] }

/-- L4 rank of a tile (R80). -/
def Tile.rank4 (t : Tile) : Nat := (t.dom[4]).toNat % 2 ^ 32

/-- Launch and L4 rank under which an operation of the tile is logged: those of an earlier launch for what that launch left in flight (R118). -/
def Tile.opLaunch (t : Tile) (o : DlOp) : Option Dword := match o.old with | some l => some l | none => t.launch
def Tile.opRank (t : Tile) (o : DlOp) : Nat :=
  match o.old.bind t.prevOf with
  | some v => (v.dom[4]).toNat % 2 ^ 32
  | none => t.rank4

end Sys2Proof.Machine
end

