-- ==== Sys2Proof/Machine/Units.lean ====
section
/-! DEFINITION. The atomic units: arrival order, the operations they perform, the arbitration log, the order gate, the watch list (R286 to R291, R352 to R359). -/

namespace Sys2Proof.Machine

/-! ## What an operation does to memory -/

/-- The new value of an atomic (R286). -/
def atomNew (f : AtomFn) (natural : Bool) (n old v : Nat) : Nat :=
  let w := 8 * n
  let less (x y : Nat) : Bool := if natural then decide (x < y) else decide (signExt x w < signExt y w)
  match f with
  | .add => (old + v) % 2 ^ w
  | .swp => v
  | .and => old &&& v
  | .or => old ||| v
  | .xor => old ^^^ v
  | .min => if less v old then v else old
  | .max => if less old v then v else old

/-- Outcome of a semaphore or barrier operation at its unit. -/
inductive SyncOut where
  /-- performed: memory after it, the value for `.x`, whether a phase completed, the value written -/
  | done (s : State) (x : Nat) (ph : Bool) (new : Option Nat)
  /-- its condition does not hold yet -/
  | wait
  | fault (c : Cause) (detail : Nat)

/-- Bit i of a set of dwords. -/
def State.setBit? (s : State) (base i : Nat) : Bool := bits (s.dwordAt (base + 8 * (i / 64))) (i % 64) (i % 64) == 1

def State.putBit (s : State) (base i : Nat) : State :=
  let at_ := base + 8 * (i / 64)
  s.gWrite at_ (natLe (s.dwordAt at_ ||| 2 ^ (i % 64)) 8)

/-- A phase completes when A ≥ E (R358). -/
def State.phaseEnd (s : State) (pa n : Nat) : State × Bool :=
  let e := leNat (s.gRead (pa + 4) 4)
  let arrived := leNat (s.gRead (pa + 8) 4)
  if e ≤ arrived then
    let w := (n + 63) / 64
    let s := s.gWrite (pa + 16) (natLe ((s.dwordAt (pa + 16) + 1) % 2 ^ 64) 8)
    let s := s.gWrite (pa + 8) (natLe 0 4)
    (s.gWrite (pa + 0x20 + 8 * w) (List.replicate (8 * w) 0), true)
  else (s, false)

/-- `sig` 0 and 1, `swait` 2, `sdec` 3, `binit` 4, `arrive` 5, `drop` 6, `bwait` 7, on the object at `pa` (R353 to R359). -/
def State.syncOp (s : State) (pa op v : Nat) : SyncOut :=
  let cur := s.dwordAt pa
  let n := leNat (s.gRead pa 4)
  let w := (n + 63) / 64
  let i := v % 2 ^ 32
  let badN : Bool := n == 0 || decide (4096 < n)
  if op = 0 ∨ op = 1 then
    let new := if op = 1 then cur + v else v
    if new ≤ cur ∨ 2 ^ 64 ≤ new then .fault .semRange 0
    else .done (s.gWrite pa (natLe new 8)) 0 false (some new)
  else if op = 2 then (if v ≤ cur then .done s cur false none else .wait)
  else if op = 3 then
    if cur < v then .fault .semUnderflow 0
    else .done (if v = 0 then s else s.gWrite pa (natLe (cur - v) 8)) cur false (some (cur - v))
  else if op = 4 then
    let k := (i + 63) / 64
    .done (s.gWrite pa (natLe i 4 ++ natLe i 4 ++ List.replicate (24 + 16 * k) 0)) 0 false none
  else if badN then .fault .semRange 0
  else if op = 7 then
    let phase := s.dwordAt (pa + 16)
    if phase ≠ v then .done s phase false none else .wait
  else if n ≤ i ∨ s.setBit? (pa + 0x20) i ∨ s.setBit? (pa + 0x20 + 8 * w) i then .fault .barrierOverarrival i
  else if op = 5 then
    let phase := s.dwordAt (pa + 16)
    let s := s.putBit (pa + 0x20 + 8 * w) i
    let s := s.gWrite (pa + 8) (natLe ((leNat (s.gRead (pa + 8) 4) + 1) % 2 ^ 32) 4)
    let r := s.phaseEnd pa n
    .done r.1 phase r.2 none
  else
    let s := s.putBit (pa + 0x20) i
    let s := s.gWrite (pa + 4) (natLe ((leNat (s.gRead (pa + 4) 4) + 2 ^ 32 - 1) % 2 ^ 32) 4)
    let r := s.phaseEnd pa n
    .done r.1 0 r.2 none

/-- Bytes that the operation of a code touches on the object at `pa` (R352, R356): a semaphore's 8, or a barrier's 32 + 16w by the N of `binit` or the N that it reads. -/
def State.syncBytes (s : State) (pa op v : Nat) : Nat :=
  let n := if op = 4 then v % 2 ^ 32 else leNat (s.gRead pa 4)
  if op ≤ 3 ∨ n = 0 ∨ 4096 < n then 8 else 32 + 16 * ((n + 63) / 64)

/-- The operation code of a kind of `sy` operation; `rel` is bit 59 of its address word. -/
def syncCode (rel : Bool) : OpKind → Nat
  | .sig _ => if rel then 1 else 0
  | .swait _ => 2
  | .sdec _ => 3
  | .binit => 4
  | .arrive _ => 5
  | .drop _ => 6
  | _ => 7

/-! ## Units -/

def findUnit (d : Nat) : List AUnit → AUnit
  | [] => { die := d }
  | u :: r => if u.die = d then u else findUnit d r

def putUnit (u : AUnit) : List AUnit → List AUnit
  | [] => [u]
  | v :: r => if u.die < v.die then u :: v :: r else if u.die = v.die then u :: r else v :: putUnit u r

def State.unit (s : State) (d : Nat) : AUnit := findUnit d s.units
def State.onUnit (s : State) (d : Nat) (f : AUnit → AUnit) : State :=
  { s with units := putUnit { f (s.unit d) with die := d } s.units }

/-- Order of arrival: tick, then L4 rank, then trigger order; the host's come last (R289, R385). -/
def UnitReq.before (p q : UnitReq) : Bool :=
  let k (r : UnitReq) : Nat × Nat :=
    match r.src with
    | .tile _ op rank => (rank, op)
    | .peer _ n => (2 ^ 33, n)
    | .host _ => (2 ^ 33 + 1, 0)
  if p.arrive ≠ q.arrive then decide (p.arrive < q.arrive)
  else if (k p).1 ≠ (k q).1 then decide ((k p).1 < (k q).1)
  else decide ((k p).2 ≤ (k q).2)

/-- Are two requests of one tile and on the same 16 bytes? -/
def UnitReq.follows (r q : UnitReq) : Bool :=
  (match r.src, q.src with
   | .tile a _ _, .tile b _ _ => a == b
   | .tile _ _ _, .host _ | .tile _ _ _, .peer _ _ | .host _, _ | .peer _ _, _ => false) && r.pa / 16 == q.pa / 16

/-- L4 rank of the source, for the log (R290). -/
def UnitReq.rank (r : UnitReq) : Nat :=
  match r.src with
  | .tile _ _ rank => rank
  | .host _ | .peer _ _ => 0

/-- The log or gate of a request's launch that is on at the unit. -/
def AUnit.logOf (u : AUnit) (r : UnitReq) : Option UnitLog :=
  match r.launch, r.src with
  | some l, .tile _ _ _ => u.logs.find? fun g => g.launch = l ∧ g.active
  | _, _ => none

def AUnit.putLog (u : AUnit) (g : UnitLog) : AUnit :=
  { u with logs := u.logs.map fun x => if x.launch = g.launch then g else x }

/-- What the gate says to a request (R291). -/
inductive Gated where
  | allow | hold | diverge
deriving DecidableEq, Repr

def AUnit.gated (u : AUnit) (r : UnitReq) : Gated :=
  match u.logOf r with
  | none => .allow
  | some g =>
    if !g.gate then .allow
    else if g.div || decide (g.total ≤ g.c) then .diverge
    else if !g.stale && g.source == r.rank then .allow
    else .hold

/-- The first request, in order of arrival, that the gate does not hold. -/
def AUnit.nextReq (u : AUnit) (now : Nat) : Option UnitReq :=
  let rec go : List UnitReq → Option UnitReq
    | [] => none
    | r :: rs =>
      if decide (r.arrive ≤ now) && u.gated r != .hold then
        match go rs with
        | some q => if r.before q then some r else some q
        | none => some r
      else go rs
  go u.inq

/-- Area of a unit's log, and its number of chunks (R456). -/
def UnitLog.area (g : UnitLog) (d : Nat) : Nat := g.base + d * g.z * 0x10000
def UnitLog.capacity (g : UnitLog) : Nat := (g.z * 65536 - 64) / 8

/-- The chunk a gate has reached is read from its log (R291). While its pseudo-channel is being spared the read waits; one that cannot be read ends the log (R90, R91; DESIGN CHOICE, log 92). -/
def State.loadChunk (s : State) (d : Nat) (g : UnitLog) : UnitLog :=
  let at_ := g.area d + 64 + 8 * g.c
  if g.total ≤ g.c then g
  else if s.lostAt at_ then { g with total := g.c, stale := false }
  else if (s.sparedUntil at_).isSome then { g with stale := true }
  else
    let w := s.dwordAt at_
    { g with count := w / 2 ^ 32, source := w % 2 ^ 32, stale := false }

/-- A gate that waits for its chunk reads it as soon as it can. -/
def State.gateTick (s : State) : State :=
  if s.units.any fun u => u.logs.any fun g => g.stale then
    { s with units := s.units.map fun u => { u with logs := u.logs.map fun g => if g.stale then s.loadChunk u.die g else g } }
  else s

/-- An operation is taken by the unit: it is logged, if it arrived after the unit had started (R457), or it uses up the gate's chunk (R290, R291). -/
def State.takeLog (s : State) (d : Nat) (r : UnitReq) : State :=
  match (s.unit d).logOf r with
  | none => s
  | some g =>
    if g.gate then
      let g' := if g.count ≤ 1 then s.loadChunk d { g with c := g.c + 1, count := 0 } else { g with count := g.count - 1 }
      s.onUnit d fun u => u.putLog g'
    else if g.ovf || decide (r.arrive ≤ g.begun) then s
    else
      let extend := g.c ≠ 0 ∧ g.source = r.rank ∧ g.count < 2 ^ 32 - 1
      if !extend ∧ g.capacity ≤ g.c then
        { s.onUnit d fun u => u.putLog { g with ovf := true } with cnt := { s.cnt with logovf := s.cnt.logovf + 1 } }
      else
        let g' : UnitLog := if extend then { g with count := g.count + 1 } else { g with c := g.c + 1, count := 1, source := r.rank }
        (s.gWrite (g'.area d + 64 + 8 * (g'.c - 1)) (natLe (g'.count * 2 ^ 32 + g'.source) 8)).onUnit d fun u => u.putLog g'

/-- The gate diverges for a request (R291). -/
def State.diverge (s : State) (d : Nat) (r : UnitReq) : State :=
  let c := match (s.unit d).logOf r with | some g => g.c | none => 0
  let s := s.onUnit d fun u =>
    match u.logOf r with
    | some g => u.putLog { g with div := true }
    | none => u
  let s := { s with cnt := { s.cnt with divs := s.cnt.divs + 1 } }
  match r.src with
  | .tile a id _ =>
    (match s.op? a id with
     | some o => s.engineFault a o .orderDivergence (busBits o.a 54 0) c
     | none => s)
  | .host _ | .peer _ _ => s

/-! ## Performing a request -/

/-- Ticks of the unit are used up. -/
def State.unitBusy (s : State) (d extra : Nat) : State := s.onUnit d fun u => { u with free := s.tick + 1 + extra }

/-- A unit has performed one more operation (R461). -/
def State.countAtom (s : State) : State := { s with cnt := { s.cnt with atom := s.cnt.atom + 1 } }

/-- An operation has been performed in a tick of the unit, and some more. -/
def State.unitDone (s : State) (d extra : Nat) : State := (s.unitBusy d extra).countAtom

/-- Bytes of an atomic's operand. -/
def DlOp.size (o : DlOp) : Nat := 2 ^ busBits o.a 58 56

/-- Bits(a, 59, 59): natural, or relative (R280, R352). -/
def DlOp.bit59 (o : DlOp) : Bool := o.a.getLsbD 59

def kindIsHost (pa : Nat) : Bool := kindOf pa == 2

/-- A `dm` atomic at its unit (R286, R287). -/
def State.unitAtom (s : State) (d a : Nat) (o : DlOp) (pa : Nat) (isCas : Bool) (f : AtomFn) : State :=
  let n := o.size
  let old := leNat (s.gRead pa n)
  let b := busBits o.b (8 * n - 1) 0
  let c := busBits o.c (8 * n - 1) 0
  let ok := !isCas || old == b
  let new := if isCas then c else atomNew f o.bit59 n old b
  let s := if ok then s.gWrite pa (natLe new n) else s
  let s := if ok then s.onTile a fun t => t.addRec o 0 pa (natLe new n) else s
  let nh : Bool := kindIsHost pa && !(isCas || f == .add || f == .swp)
  let x : Bus :=
    if !isCas && !o.bit59 && (f == .min || f == .max) then (BitVec.ofInt 64 (signExt old (8 * n))).setWidth 512
    else BitVec.ofNat 512 old
  let st : Dword := BitVec.ofNat 64 (o.refBits + nh.toNat * 2 + ok.toNat)
  let s := { s with cnt := { s.cnt with gbytes := s.cnt.gbytes + BitVec.ofNat 64 n } }
  (s.perform a o { x := some x, s := st }).unitDone d 0

/-- The status word of `sy` (Table 15.3). -/
def syStatus (o : DlOp) (ph none_ nh ok : Bool) : Dword :=
  BitVec.ofNat 64 (o.refBits + ph.toNat * 8 + none_.toNat * 4 + nh.toNat * 2 + ok.toNat)

/-- A watching request whose condition holds is answered (R354). -/
def State.answerSync (s : State) (a : Nat) (o : DlOp) (pa x : Nat) (ph : Bool) (new : Option Nat) : State :=
  let s := match new with
    | some v => s.onTile a fun t => t.addRec o 0 pa (natLe v 8)
    | none => s
  let r : Res := { x := if o.wx then some (BitVec.ofNat 512 x) else none, s := syStatus o ph false (kindIsHost pa) true }
  s.perform a o r

/-- Bytes in a request on memory. -/
def reqSize : MemReq → Nat
  | .read n => n
  | .write bs => bs.length
  | .fetchAdd n _ | .swap n _ | .cas n _ _ | .alu _ _ n _ => n
  | .sync _ _ => 8

/-- Does a request read its bytes? -/
def reqReads : MemReq → Bool
  | .write _ => false
  | .sync op _ => op != 4
  | .read _ | .fetchAdd _ _ | .swap _ _ | .cas _ _ _ | .alu _ _ _ _ => true

/-- Steps 5 and 7 of Table 12.4 for a request at its home that no translation comes with, of the host, of a peer or on a watch list (R90, R91, R390): a refusal with a hint, or the unit of a DATA_UNCORRECTABLE. -/
def State.reqCheck (s : State) (home pa : Nat) (req : MemReq) : AtHome :=
  let n := match req with
    | .sync op v => s.syncBytes pa op v
    | .read _ | .write _ | .fetchAdd _ _ | .swap _ _ | .cas _ _ _ | .alu _ _ _ _ => reqSize req
  match (wordsIn pa n).findSome? s.sparedUntil with
  | some u => .refuse (hintOf u s.tick)
  | none =>
    match s.homeBad pa n home (reqReads req) with
    | some u => .fault .dataUncorrectable u
    | none => .ok

/-- A watching request looks at its object: what it finds at its home (R90, R91), else the outcome of its operation (R354). -/
def State.watchLook (s : State) (d pa op v : Nat) : SyncOut :=
  match s.reqCheck d pa (.sync op v) with
  | .refuse _ => .wait
  | .fault c det => .fault c det
  | .ok => s.syncOp pa op v

/-- One look at a watch entry: answered and removed when its condition holds (R354). -/
def State.watchCheck (s : State) (d : Nat) (e : Nat × Nat × UnitReq) : State :=
  let drop (s : State) : State := s.onUnit d fun u => { u with watch := u.watch.filter fun x => x.1 ≠ e.1 }
  let r := e.2.2
  match r.src with
  | .tile a id _ =>
    (match s.op? a id with
     | none => drop s
     | some o =>
       match s.watchLook d r.pa (syncCode o.bit59 o.kind) (busBits o.b 63 0) with
       | .done s' x _ _ => ((drop s').answerSync a o r.pa x false none).countAtom
       | .wait => s.onUnit d fun u =>
           { u with watch := u.watch.map fun x => if x.1 = e.1 then (x.1, s.tick, r) else x }
       | .fault c det => (drop s).engineFault a o c (busBits o.a 54 0) det)
  | .peer m n =>
    (match r.req with
     | .sync op v =>
       (match s.watchLook d r.pa op v with
        | .done s' x ph _ => ((drop s').eutasSend m (.answer n x 0 0 ph) none).countAtom
        | .wait => s
        | .fault c det => (drop s).eutasSend m (.answer n 0 c.code det false) none)
     | .read _ | .write _ | .fetchAdd _ _ | .swap _ _ | .cas _ _ _ | .alu _ _ _ _ => drop s)
  | .host _ => drop s

/-- Every watch entry of the unit on a word is checked when the unit writes in its 16 bytes (R354). -/
def State.watchAll (s : State) (d pa : Nat) : State :=
  ((s.unit d).watch.filter fun e => e.2.2.pa / 16 = pa / 16).foldl (fun s e => s.watchCheck d e) s

/-- A request whose condition does not hold takes an entry of the watch list; it is looked at again within 1,700 ticks (R354). -/
def State.watchAdd (s : State) (d : Nat) (r : UnitReq) : State :=
  let n := (s.unit d).nextEntry
  let s := s.onUnit d fun u => { u with watch := u.watch ++ [(n, s.tick, r)], nextEntry := n + 1 }
  s.sched 1 (some 1699) .watchRecheck { die := d, entry := n }

/-- A `sy` operation at its unit (R352 to R359). -/
def State.unitSync (s : State) (d a : Nat) (o : DlOp) (r : UnitReq) : State :=
  match s.syncOp r.pa (syncCode o.bit59 o.kind) (busBits o.b 63 0) with
  | .done s' x ph new =>
    let n := leNat (s.gRead r.pa 4)
    ((s'.answerSync a o r.pa x ph new).unitDone d (if ph then (n + 63) / 64 else 0)).watchAll d r.pa
  | .wait => (s.watchAdd d r).unitBusy d 0
  | .fault c det => (s.engineFault a o c (busBits o.a 54 0) det).unitBusy d 0

/-- Does the watch list of a unit have no room for a wait whose condition does not hold (R354)? -/
def State.watchFull (s : State) (d pa op v : Nat) : Bool :=
  decide (4096 ≤ (s.unit d).watch.length) &&
    (match s.syncOp pa op v with
     | .wait => true
     | .done _ _ _ _ | .fault _ _ => false)

/-- The request that an operation becomes on a peer page (R287, R352). -/
def DlOp.peerReq (o : DlOp) : MemReq :=
  let n := o.size
  let v := busBits o.b (8 * n - 1) 0
  match o.kind with
  | .gatom .add _ => .fetchAdd n v
  | .gatom .swp _ => .swap n v
  | .gatom f _ => .alu f o.bit59 n v
  | .gcas _ => .cas n v (busBits o.c (8 * n - 1) 0)
  | k => .sync (syncCode o.bit59 k) (busBits o.b 63 0)

/-- The request of a tile is performed by the unit, or sent to the peer's unit. -/
def State.unitTile (s : State) (d a : Nat) (o : DlOp) (r : UnitReq) : State :=
  match regionOf r.pa with
  | .peer w =>
    let m := (s.peerOf w).getD 0
    (s.eutasSend m (.request (r.pa % 2 ^ 41) o.peerReq) (some (.op a o.id))).unitBusy d 0
  | .hbm _ | .cxl _ | .notify | .request | .host | .reserved =>
    match o.kind with
    | .gatom f _ => (s.unitAtom d a o r.pa false f).watchAll d r.pa
    | .gcas _ => (s.unitAtom d a o r.pa true .swp).watchAll d r.pa
    | _ => s.unitSync d a o r

/-- Outcome of a host's or a peer's request on memory: the bytes it returns, and memory after it. -/
def State.memReq (s : State) (pa : Nat) (req : MemReq) : List Byte × State :=
  let rmw (n new old : Nat) : List Byte × State := (natLe old n, s.gWrite pa (natLe new n))
  match req with
  | .read n => (s.gRead pa n, s)
  | .write bs => ([], s.gWrite pa bs)
  | .fetchAdd n v => let old := leNat (s.gRead pa n); rmw n (atomNew .add true n old v) old
  | .swap n v => rmw n v (leNat (s.gRead pa n))
  | .cas n e v => let old := leNat (s.gRead pa n); if old = e then rmw n v old else (natLe old n, s)
  | .alu f nat n v => let old := leNat (s.gRead pa n); rmw n (atomNew f nat n old v) old
  | .sync _ _ => ([], s)

/-- The die whose unit has an operation of a tile at its input. -/
def State.unitOf (s : State) (a id : Nat) : Option Nat :=
  (s.units.find? fun u => u.inq.any fun r =>
    match r.src with | .tile b n _ => b == a && n == id | .host _ | .peer _ _ => false).map (·.die)

/-- Has the strand an earlier atomic or `sy` operation on the same bytes that has left the unit without being performed? Then the operation waits behind it (R279, R373); a `sy` operation does not wait behind a wait (R348). -/
def State.overtakes (s : State) (a : Nat) (o : DlOp) (pa : Nat) : Bool :=
  ((s.tileAt a).earlier o).any fun p =>
    (p.isAtomic || (p.atUnit && !(o.sock == .sy && p.kind.isWait))) && !p.isPerformed && !p.isDone s.tick
      && p.pa / 16 == pa / 16 && (s.unitOf a p.id).isNone

/-- A peer's request is performed by the unit, refused with a hint, or answered with a fault (R265, R274, R287, R354, R390); the answer of a `sig` carries the new value, for the digest of its sender (R451). -/
def State.unitPeer (s : State) (d m n : Nat) (r : UnitReq) : State :=
  match s.reqCheck d r.pa r.req with
  | .refuse h => s.countRef.eutasSend m (.refused n h) none
  | .fault c det => s.eutasSend m (.answer n 0 c.code det false) none
  | .ok =>
    match r.req with
    | .sync op v =>
      if s.watchFull d r.pa op v then s.countRef.eutasSend m (.refused n 256) none
      else
        (match s.syncOp r.pa op v with
         | .done s' x ph new =>
           let k := leNat (s.gRead r.pa 4)
           let x := if op ≤ 1 then new.getD x else x
           ((s'.eutasSend m (.answer n x 0 0 ph) none).unitDone d (if ph then (k + 63) / 64 else 0)).watchAll d r.pa
         | .wait => (s.watchAdd d r).unitBusy d 0
         | .fault c det => (s.eutasSend m (.answer n 0 c.code det false) none).unitBusy d 0)
    | .read _ | .write _ | .fetchAdd _ _ | .swap _ _ | .cas _ _ _ | .alu _ _ _ _ =>
      let x := s.memReq r.pa r.req
      ((x.2.eutasSend m (.answer n (leNat x.1) 0 0 false) none).unitDone d 0).watchAll d r.pa

/-- The first request of a unit's input is taken (R289 to R291). An operation that is refused is neither logged nor let through the gate; one that finds the digest buffer of its tile full waits with its tile (R453). -/
def State.unitTake (s : State) (d : Nat) : State :=
  let u := s.unit d
  if s.tick < u.free then s
  else
    match u.nextReq s.tick with
    | none => s
    | some r =>
      let s := s.onUnit d fun u => { u with inq := u.inq.filter fun q => !(q == r) }
      match r.src with
      | .tile a id _ =>
        (match s.op? a id with
         | none => s
         | some o =>
           if s.overtakes a o r.pa || (s.tileAt a).digestFull o then
             (s.putOp a { o with st := .active, walk := 0 }).sched 1 none
               (if o.sock = .dm then .dmCompletion else .atomicArrival) { tile := a, op := o.id, yes := true }
           else
           let e : TlbEntry := { asid := o.asid, page := 0, big := false, frame := r.pa / 2 ^ 16, kind := kindOf r.pa,
                                 home := d, g := false, u := true, r := true, w := true, d := true, rep := false, mig := false }
           let w : Who := { tile := a, user := false, asid := o.asid, acc := .atom }
           let op := syncCode o.bit59 o.kind
           let v := busBits o.b 63 0
           let local_ : Bool := match regionOf r.pa with | .peer _ => false | _ => true
           let n := if o.sock = .dm then o.size else if local_ then s.syncBytes r.pa op v else 8
           match s.homeCheck w e r.pa n (o.sock = .dm || op != 4) with
           | .refuse h => s.refuse a o h .accessRetry
           | .fault c det => s.engineFault a o c (busBits o.a 54 0) det
           | .ok =>
             if o.sock = .sy ∧ local_ ∧ s.watchFull d r.pa op v then s.refuse a o 256 .accessRetry
             else if u.gated r = .diverge then s.diverge d r
             else (s.takeLog d r).unitTile d a o r)
      | .host _ =>
        (match s.reqCheck d r.pa r.req with
         | .refuse h => s.countRef.onUnit d fun u => { u with inq := u.inq ++ [{ r with arrive := s.tick + h }] }
         | .fault _ _ => { s with outbox := s.outbox ++ [.unsupported] }
         | .ok =>
           let x := s.memReq r.pa r.req
           let s := { x.2 with outbox := x.2.outbox ++ [HostMsg.data x.1] }
           (s.unitDone d 0).watchAll d r.pa)
      | .peer m n => s.unitPeer d m n r

/-- A request leaves for its unit. It arrives after a free time, and not before an earlier request of its tile on the same 16 bytes (R279). -/
def State.unitSend (s : State) (d : Nat) (r : UnitReq) : State :=
  let from_ := ((s.unit d).inq.filter r.follows).foldl (fun n q => max n q.arrive) 0
  { s.onUnit d fun u => { u with inq := u.inq ++ [{ r with arrive := max from_ (s.tick + 1 + Config.delay s.free) }] } with
    free := s.free + 1 }

/-- The operation of a tile leaves for its unit. -/
def State.opToUnit (s : State) (a : Nat) (o : DlOp) (d pa : Nat) : State :=
  let t := s.tileAt a
  let s := s.putOp a { o with st := .waiting, pa := pa, home := some d }
  s.unitSend d { src := .tile a o.id (t.opRank o), launch := t.opLaunch o, bank := o.bank, arrive := 0, pa := pa }

/-! ## Events of the units -/

/-- GATE_TIMEOUT: the oldest operation that the gate of a launch holds has waited longer than the timeout; every waiting one diverges (R291). -/
def execGateTimeout (s : State) : Host.Outcome State Fault Refusal :=
  let d := s.ev.die
  let u := s.unit d
  match u.logs.find? fun g => g.launch = s.ev.launch ∧ g.active ∧ g.gate ∧ !g.div with
  | none => .next s
  | some g =>
    let held := u.inq.filter fun r => r.launch = some g.launch ∧ r.arrive ≤ s.tick ∧ u.gated r = .hold
    if held.any fun r => decide (r.arrive + g.timeout < s.tick) then
      let s := s.onUnit d fun u => { u with inq := u.inq.filter fun r => !held.contains r }
      .next (held.foldl (fun s r => s.diverge d r) s)
    else .next s

/-- WATCH_RECHECK of an entry (R354). -/
def execWatchRecheck (s : State) : Host.Outcome State Fault Refusal :=
  let d := s.ev.die
  match (s.unit d).watch.find? fun e => e.1 = s.ev.entry with
  | none => .next s
  | some e =>
    let s := s.watchCheck d e
    if (s.unit d).watch.any fun x => x.1 = e.1 then .next (s.sched 1 (some 1699) .watchRecheck { die := d, entry := e.1 })
    else .next s

end Sys2Proof.Machine
end

