-- ==== Sys2Proof/Machine/Copy.lean ====
section
/-! DEFINITION. The copy engine `dm`: copies, fills, scalar accesses, atomics, fences, and the translation of every global access (R271 to R288). -/

namespace Sys2Proof.Machine

/-! ## Triggers -/

/-- Enqueues an operation of an engine (R129). -/
def enqueue (st : Start) (s : State) (o : DlOp) : State :=
  s.onSelf fun t =>
    { t with
      nextOp := t.nextOp + 1
      queue := t.queue ++ [{ o with id := t.nextOp, bank := st.bank, sock := st.sock, a := st.a, b := st.b, c := st.c,
                                    origin := st.origin, seq := st.seq, asid := t.asid, born := s.tick,
                                    task := t.taskIn st.bank }] }

/-- An operation before its trigger's operands are filled in. -/
def newOp (st : Start) (k : OpKind) (wx : Bool) (due : Nat) : DlOp :=
  { id := 0, bank := st.bank, sock := st.sock, kind := k, wx := wx, a := 0, b := 0, c := 0, origin := 0, seq := 0,
    asid := 0, born := 0, due := due }

/-- Names a tag at a trigger: it is cleared, and a stop of an earlier operation is forgotten (R281). -/
def Tile.nameTag (t : Tile) (n : Nat) : Tile := { (t.clearTag n) with tagStop := t.tagStop &&& ~~~(tagBit n) }

/-- A `dm` operation is queued, and the engine will start it. -/
def dmQueue (st : Start) (i : Issue) (o : DlOp) : Except Stop Issue :=
  let s := match o.tag with
    | some n => i.st.onSelf fun t => t.nameTag n.toNat
    | none => i.st
  let id := (s.self).nextOp
  let s := enqueue st s o
  let s := if o.st == .performed then s
    else s.sched 1 none .dmCompletion { tile := s.cur, op := id }
  .ok { i with st := s }

/-- Descriptor of a copy (R282): global address, local address, length, tag. -/
def dmG (st : Start) : Nat := busBits st.a 54 0
def dmL (st : Start) : Nat := busBits st.b 31 0
def dmN (st : Start) : Nat := busBits st.c 23 0
def dmTagOf (v : Bus) : BitVec 6 := BitVec.ofNat 6 (busBits v 37 32)

def faultAt (c : Cause) (addr : Nat) : Stop := .trap c (BitVec.ofNat 64 addr) 0

/-- A copy of nothing completes on the next tick (R282, R283). -/
def emptyCopy (now : Nat) (o : DlOp) : DlOp :=
  if o.rest.isEmpty then { o with st := .performed, due := now + 1, res := some { s := 1 } } else o

/-- `get` and `put` (R282). Whichever operand is misaligned, the report holds the local address (R420). -/
def copySpec (k : OpKind) : Spec :=
  { sock := .dm, opnd := some .opC, run := fun st i =>
      let g := dmG st
      let l := dmL st
      let n := dmN st
      if g % 4 ≠ 0 ∨ l % 4 ≠ 0 ∨ n % 4 ≠ 0 then .error (faultAt .misaligned l)
      else if 0x60000 < l + n then .error (faultAt .localRange l)
      else
        dmQueue st i (emptyCopy i.st.tick
          { newOp st k false 0 with tag := some (dmTagOf st.c), rest := List.range (n / 4) }) }

/-- `getp` and `putp` (R283). -/
def patCopySpec (k : OpKind) : Spec :=
  { sock := .dm, opnd := some .opC, run := fun st i =>
      let g := dmG st
      let l := dmL st
      let pn := busBits st.c 44 40
      match (i.st.self).pattern pn with
      | none => .error (patternFault pn)
      | some p =>
        let es := 2 ^ p.esize
        if (p.count ≠ 0 ∧ !p.aligned g) ∨ l % min es 4 ≠ 0 then .error (faultAt .misaligned l)
        else if 0x60000 < l + p.count * es then .error (faultAt .localRange l)
        else
          dmQueue st i (emptyCopy i.st.tick
            { newOp st k false 0 with tag := some (dmTagOf st.c), pat := some p, rest := List.range p.count }) }

/-- `fill` (R284). It has no local address, and MISALIGNED reports the virtual one (DESIGN CHOICE, log 96). -/
def specFill (m : MMod) : Spec :=
  { sock := .dm, opnd := some .opB, run := fun st i =>
      let n : BitVec 3 := BitVec.ofNat 3 (busBits st.b 18 16)
      let g := dmG st
      let pn := busBits st.b 4 0
      if !((i.st.self).ring n).valid then .error (ringFault n)
      else
        match (i.st.self).pattern pn with
        | none => .error (patternFault pn)
        | some p =>
          let o : DlOp := { newOp st (.fill m) false 0 with tag := some (BitVec.ofNat 6 (busBits st.b 13 8)), pat := some p }
          if p.count ≠ 0 ∧ !p.aligned g then .error (faultAt .misaligned g)
          else if p.count = 0 ∧ ((i.st.self).ring n).filler.isNone then dmQueue st i (emptyCopy i.st.tick o)
          else dmQueue st i o }

/-- Sizes and alignment of scalar accesses (R280). They have no local address, and MISALIGNED reports the virtual one (DESIGN CHOICE, log 96). -/
def scalarSpec (k : OpKind) (opnd : Opnd) (wx : Bool) (sizes : List Nat) : Spec :=
  { sock := .dm, opnd := some opnd, run := fun st i =>
      let n := 2 ^ busBits st.a 58 56
      if !sizes.contains n ∨ dmG st % n ≠ 0 then .error (faultAt .misaligned (dmG st))
      else dmQueue st i (newOp st k wx 0) }

def specGet (m : MMod) : Spec := copySpec (.get m)
def specPut (m : MMod) : Spec := copySpec (.put m)
def specGetp (m : MMod) : Spec := patCopySpec (.getp m)
def specPutp (m : MMod) : Spec := patCopySpec (.putp m)
def specGld (m : MMod) : Spec := scalarSpec (.gld m) .opA true [1, 2, 4, 8]
def specGst (m : MMod) : Spec := scalarSpec (.gst m) .opB false [1, 2, 4, 8]
def specGadd (m : MMod) : Spec := scalarSpec (.gatom .add m) .opB true [4, 8]
def specGswp (m : MMod) : Spec := scalarSpec (.gatom .swp m) .opB true [4, 8]
def specGcas (m : MMod) : Spec := scalarSpec (.gcas m) .opC true [4, 8, 16]
def specGmin (m : MMod) : Spec := scalarSpec (.gatom .min m) .opB true [4, 8]
def specGmax (m : MMod) : Spec := scalarSpec (.gatom .max m) .opB true [4, 8]
def specGand (m : MMod) : Spec := scalarSpec (.gatom .and m) .opB true [4, 8]
def specGor (m : MMod) : Spec := scalarSpec (.gatom .or m) .opB true [4, 8]
def specGxor (m : MMod) : Spec := scalarSpec (.gatom .xor m) .opB true [4, 8]
/-- `mfence` (R288). -/
def specMfence (m : MMod) : Spec :=
  { sock := .dm, opnd := none, run := fun st i => dmQueue st i (newOp st (.mfence m) false 0) }

def execGet (h : Head) (m : MMod) (s : State) : Host.Outcome State Fault Refusal := issueOne (.get h m) (specGet m) s
def execPut (h : Head) (m : MMod) (s : State) : Host.Outcome State Fault Refusal := issueOne (.put h m) (specPut m) s
def execGetp (h : Head) (m : MMod) (s : State) : Host.Outcome State Fault Refusal := issueOne (.getp h m) (specGetp m) s
def execPutp (h : Head) (m : MMod) (s : State) : Host.Outcome State Fault Refusal := issueOne (.putp h m) (specPutp m) s
def execFill (h : Head) (m : MMod) (s : State) : Host.Outcome State Fault Refusal := issueOne (.fill h m) (specFill m) s
def execGld (h : Head) (m : MMod) (s : State) : Host.Outcome State Fault Refusal := issueOne (.gld h m) (specGld m) s
def execGst (h : Head) (m : MMod) (s : State) : Host.Outcome State Fault Refusal := issueOne (.gst h m) (specGst m) s
def execGadd (h : Head) (m : MMod) (s : State) : Host.Outcome State Fault Refusal := issueOne (.gadd h m) (specGadd m) s
def execGswp (h : Head) (m : MMod) (s : State) : Host.Outcome State Fault Refusal := issueOne (.gswp h m) (specGswp m) s
def execGcas (h : Head) (m : MMod) (s : State) : Host.Outcome State Fault Refusal := issueOne (.gcas h m) (specGcas m) s
def execGmin (h : Head) (m : MMod) (s : State) : Host.Outcome State Fault Refusal := issueOne (.gmin h m) (specGmin m) s
def execGmax (h : Head) (m : MMod) (s : State) : Host.Outcome State Fault Refusal := issueOne (.gmax h m) (specGmax m) s
def execGand (h : Head) (m : MMod) (s : State) : Host.Outcome State Fault Refusal := issueOne (.gand h m) (specGand m) s
def execGor (h : Head) (m : MMod) (s : State) : Host.Outcome State Fault Refusal := issueOne (.gor h m) (specGor m) s
def execGxor (h : Head) (m : MMod) (s : State) : Host.Outcome State Fault Refusal := issueOne (.gxor h m) (specGxor m) s
def execMfence (h : Head) (m : MMod) (s : State) : Host.Outcome State Fault Refusal := issueOne (.mfence h m) (specMfence m) s

/-! ## What an operation touches -/

/-- Order and scope of an operation. -/
def OpKind.mmod : OpKind → Option MMod
  | .get m | .put m | .getp m | .putp m | .fill m | .gld m | .gst m | .gatom _ m | .gcas m | .mfence m
  | .wany m | .wall m | .wffr m | .sig m | .swait m | .sdec m | .arrive m | .drop m | .bwait m | .fence m => some m
  | _ => none

def OpKind.isRel (k : OpKind) : Bool :=
  match k.mmod with | some m => m.order == .rel || m.order == .ar | none => false
def OpKind.isAcq (k : OpKind) : Bool :=
  match k.mmod with | some m => m.order == .acq || m.order == .ar | none => false

def DlOp.isMfence (o : DlOp) : Bool := match o.kind with | .mfence _ => true | _ => false

/-- Element size of a copy: 4-byte words, or the pattern's elements. -/
def DlOp.unitSize (o : DlOp) : Nat := match o.pat with | some p => 2 ^ p.esize | none => 4

/-- Virtual address of unit `u` of a copy or fill. -/
def DlOp.unitVa (o : DlOp) (u : Nat) : Nat :=
  match o.pat with
  | some p => p.addr (busBits o.a 54 0) u % 2 ^ 55
  | none => (busBits o.a 54 0 + 4 * u) % 2 ^ 55

/-- Physical local bytes of unit `u` of a copy (R282). -/
def DlOp.unitSpan (o : DlOp) (u : Nat) : List Nat :=
  layoutSpan (layoutOf (busBits o.c 49 48)) (busBits o.b 31 0 + o.unitSize * u) o.unitSize

/-- What a `dm` or `sy` operation does to memory (Table 12.4; R352, R356). -/
def DlOp.access (o : DlOp) : Access :=
  match o.kind with
  | .get _ | .getp _ | .fill _ | .gld _ | .swait _ | .bwait _ => .rd
  | .put _ | .putp _ | .gst _ => .wr
  | _ => .atom

def DlOp.who (o : DlOp) (a : Nat) : Who :=
  { tile := a, user := o.bank ≠ 3, asid := o.asid, acc := o.access,
    store8 := (match o.kind with | .gst _ => o.size == 8 | _ => false),
    load8 := (match o.kind with | .gld _ => o.size == 8 | _ => false) }

/-- Virtual ranges that remain to be accessed; a barrier operation's are those of the largest object, within its page (R356). -/
def DlOp.ranges (o : DlOp) : List (Nat × Nat) :=
  match o.kind with
  | .get _ | .put _ => if o.rest.isEmpty then [] else [(busBits o.a 54 0, busBits o.c 23 0)]
  | .getp _ | .putp _ => o.rest.map fun u => (o.unitVa u, o.unitSize)
  | .fill _ => (match o.pat with | some p => (List.range p.count).map fun u => (o.unitVa u, o.unitSize) | none => [])
  | .mfence _ => []
  | .sig _ | .swait _ | .sdec _ => [(busBits o.a 54 0, 8)]
  | .binit | .arrive _ | .drop _ | .bwait _ => [(busBits o.a 54 0, min 1056 (2 ^ 16 - busBits o.a 15 0))]
  | .gld _ | .gst _ | .gatom _ _ | .gcas _ => [(busBits o.a 54 0, o.size)]
  | _ => []

/-- Cuts a range at page boundaries, `n` pages at most. -/
def cutPages : Nat → Nat → Nat → List (Nat × Nat)
  | 0, _, _ => []
  | n + 1, va, len =>
    let k := min len (2 ^ 16 - va % 2 ^ 16)
    if len = 0 then [] else (va, k) :: cutPages n (va + k) (len - k)

/-- The ranges by physical address where the page can be translated, else by virtual address (R279, R384). -/
def State.footprint (s : State) (a : Nat) (o : DlOp) : List (Bool × Nat × Nat) :=
  (o.ranges.flatMap fun r => cutPages (r.2 / 2 ^ 16 + 2) r.1 r.2).map fun r =>
    match s.peek (o.who a) o.tr r.1 with
    | some pa => (true, pa, r.2)
    | none => (false, r.1, r.2)

/-- Do two pieces of pages overlap? Where the frame of one is not known, they may, if their places within a page overlap (R384; DESIGN CHOICE, log 87). -/
def rangesMeet (x y : Bool × Nat × Nat) : Bool :=
  let u := if x.1 && y.1 then x.2.1 else x.2.1 % 2 ^ 16
  let v := if x.1 && y.1 then y.2.1 else y.2.1 % 2 ^ 16
  decide (u < v + y.2.2) && decide (v < u + x.2.2)

/-- Bytes of an element. -/
def kilnElem (ty : BitVec 2) : Nat := if ty = 1 then 2 else 4

/-- D of R332, and S of R336 for ATTN. -/
def KParams.resultBytes (p : KParams) : Nat := if p.op = 3 then p.r * (8 + 4 * p.n) else p.n * kilnElem p.ty

/-- Source elements of a push: local addresses with their size (R317). -/
def DlOp.pushSpan (o : DlOp) : List Nat :=
  let l := busBits o.b 31 0
  match o.pat with
  | some p => (List.range p.count).flatMap fun i => layoutSpan p.layout (p.addr l i) (2 ^ p.esize)
  | none => (List.range (busBits o.c 19 0)).map (l + ·)

/-- Bytes of a push. -/
def DlOp.pushLen (o : DlOp) : Nat :=
  match o.pat with
  | some p => p.count * 2 ^ p.esize
  | none => busBits o.c 19 0

/-- A range of local bytes, widened to whole blocks of 8 KiB for a layout that permutes. -/
def localBlocks (y : Layout) (l n : Nat) : List (Nat × Nat) :=
  if n = 0 then [] else if y = .lin then [(l, l + n)] else [(l / 8192 * 8192, (l + n + 8191) / 8192 * 8192)]

/-- Local bytes that an operation touches: a copy's, the ring's of a fill, the source of a push, of a context or of a contribution, both operands of `kfin`. A contribution whose slot is still to be declared counts with the largest source. -/
def Tile.localRanges (t : Tile) (o : DlOp) : List (Nat × Nat) :=
  match o.kind with
  | .get _ | .put _ => localBlocks (layoutOf (busBits o.c 49 48)) (busBits o.b 31 0) (busBits o.c 23 0)
  | .getp _ | .putp _ =>
    localBlocks (layoutOf (busBits o.c 49 48)) (busBits o.b 31 0) (match o.pat with | some p => p.count * 2 ^ p.esize | none => 0)
  | .fill _ => localBlocks (t.ringOf o).layout (t.ringOf o).base (t.ringOf o).size
  | .push _ =>
    (match o.pushSpan with
     | [] => []
     | x :: xs => [(xs.foldl min x, xs.foldl max x + 1)])
  | .mig => [(busBits o.b 31 0, busBits o.b 31 0 + 272)]
  | .kpart | .kattn =>
    let n := match t.kslots.find? fun x => x.id = busBits o.b 7 0 ∧ !x.released with | some x => x.par.resultBytes | none => 1088
    [(busBits o.a 31 0, busBits o.a 31 0 + n)]
  | .kfin =>
    let n := (busBits o.c 14 12 + 1) * (8 + 4 * busBits o.c 8 0)
    [(busBits o.a 31 0, busBits o.a 31 0 + n), (busBits o.b 31 0, busBits o.b 31 0 + n)]
  | _ => []

/-- Do two operations overlap in local bytes (R373)? -/
def Tile.localMeet (t : Tile) (o p : DlOp) : Bool :=
  (t.localRanges o).any fun x => (t.localRanges p).any fun y => decide (x.1 < y.2) && decide (y.1 < x.2)

/-- Have the earlier operations of `dm`, `nt` and `kn` on the same local bytes been performed, as far as those bytes go (R373)? -/
def Tile.localReady (t : Tile) (o : DlOp) : Bool :=
  (t.earlier o).all fun p => p.isPerformed || p.st == .waiting && p.sock == .nt || !t.localMeet o p

/-- Do two operations of one strand overlap in physical or in local bytes (R279, R373)? -/
def State.overlap (s : State) (a : Nat) (o p : DlOp) : Bool :=
  (s.tileAt a).localMeet o p || (let q := s.footprint a p; (s.footprint a o).any fun x => q.any fun y => rangesMeet x y)

/-- Must an operation wait until an earlier one of its strand has been performed, if they overlap (R279, R367, R373)? A `sy` operation does not wait behind a wait (R348); a message that has been read waits for its receiver only. -/
def DlOp.follows (o p : DlOp) : Bool :=
  (p.sock == .dm && !p.isMfence) || (p.atUnit && !(o.sock == .sy && p.kind.isWait))
    || ((p.sock == .nt || p.sock == .kn) && p.st != .waiting)

/-- May a `dm` operation be performed now, by the order of R279, R288, R373 and R453? An atomic may follow to its unit those that wait there (R289, R484). -/
def State.dmReady (s : State) (a : Nat) (o : DlOp) : Bool :=
  let t := s.tileAt a
  let ps := (t.earlier o).filter fun p => p.sock == .dm && !p.isDone s.tick
  if o.isMfence then ps.isEmpty
  else
    !(o.kind.isRel && !ps.isEmpty) && !t.digestFull o
      && ps.all (fun p => !(p.kind.isAcq || p.isMfence))
      && (t.earlier o).all fun p => !o.follows p || p.isPerformed
        || (o.isAtomic && !p.kind.isWait && (s.unitOf a p.id).isSome) || !s.overlap a o p

/-- May an atomic or a `sy` operation leave for the unit of die `d`: is every earlier operation of its strand that overlaps with it performed, or at the same unit before it (R279, R373)? -/
def State.unitNext (s : State) (a : Nat) (o : DlOp) (d : Nat) : Bool :=
  ((s.tileAt a).earlier o).all fun p =>
    !o.follows p || p.isPerformed || (!p.kind.isWait && s.unitOf a p.id == some d) || !s.overlap a o p

/-! ## Performing -/

def State.countG (s : State) (n : Nat) : State :=
  { s with cnt := { s.cnt with gbytes := s.cnt.gbytes + BitVec.ofNat 64 n } }

/-- The engine comes back to the operation after a free time. -/
def State.again (s : State) (a : Nat) (o : DlOp) : State :=
  if o.sock = .sy then s.sched 1 none .atomicArrival { tile := a, op := o.id, yes := true }
  else s.sched 1 none .dmCompletion { tile := a, op := o.id }

/-- The value that a `gld` of `n` bytes lands (R285). -/
def gldValue (o : DlOp) (v : Nat) : Bus :=
  let x : Dword := if o.bit59 then BitVec.ofNat 64 v else BitVec.ofInt 64 (signExt v (8 * o.size))
  x.setWidth 512

def findSlot (w : Requester) (l : List MigSlot) : MigSlot := (l.find? fun m => m.who = w).getD { who := w }

def putSlot (m : MigSlot) (l : List MigSlot) : List MigSlot := m :: l.filter fun x => x.who ≠ m.who

/-- A command word starts a request, or is discarded while the slot is busy (R294). -/
def State.migCommand (s : State) (w : Requester) (cmd : Dword) : State :=
  let m := findSlot w s.migSlots
  if m.status = 1 then s
  else
    let op := cmd.toNat % 8
    if op = 0 ∨ 4 ≤ op ∨ bits cmd.toNat 63 52 ≠ 0 ∨ bits cmd.toNat 15 3 ≠ 0 then
      { s with migSlots := putSlot { m with status := 5 } s.migSlots }
    else
      let s := { s with migSlots := putSlot { m with status := 1, accepted := m.accepted + 1, page := m.pageWord, cmd := cmd } s.migSlots }
      s.sched 1 none (if op = 1 then .migrate else if op = 2 then .replicate else .collapse) { who := w }

/-- The status word of a slot (R294). -/
def MigSlot.word (m : MigSlot) : Dword := BitVec.ofNat 64 (m.accepted % 2 ^ 32 * 2 ^ 32 + m.status)

/-- A `gst` is performed (R285, R268, R294); one to a notify page once the scheduler has taken it (R53, R381). -/
def State.doGst (s : State) (a : Nat) (o : DlOp) (pa home : Nat) : State :=
  let n := o.size
  let bs := natLe (busBits o.b (8 * n - 1) 0) n
  let v : Dword := BitVec.ofNat 64 (busBits o.b 63 0)
  let fin (s : State) : State := (s.countG n).perform a o { s := dmStatus o }
  match regionOf pa with
  | .notify =>
    (s.putOp a { o with st := .waiting, pa := pa }).sched 1 none .notifyWrite
      { path := .aperture, off := pa - 0x3FF000000000, val := v, tile := a, op := o.id, yes := true }
  | .request =>
    let m := findSlot (.slot a) s.migSlots
    if pa % 16 = 0 then fin { s with migSlots := putSlot { m with pageWord := v } s.migSlots }
    else fin (s.migCommand (.slot a) v)
  | .peer w =>
    (s.putOp a { o with st := .waiting, pa := pa, home := some home }).eutasSend ((s.peerOf w).getD 0)
      (.request (pa % 2 ^ 41) (.write bs)) (some (.op a o.id))
  | .hbm _ | .cxl _ | .host | .reserved =>
    fin ((s.gWrite pa bs).onTile a fun t => t.addRec o 0 pa bs)

/-- A `gld` is performed (R285, R294). -/
def State.doGld (s : State) (a : Nat) (o : DlOp) (pa home : Nat) : State :=
  let fin (s : State) (x : Bus) : State := (s.countG o.size).perform a o { x := some x, s := dmStatus o }
  match regionOf pa with
  | .request => fin s (if pa % 16 = 0 then ((findSlot (.slot a) s.migSlots).word).setWidth 512 else 0)
  | .peer w =>
    (s.putOp a { o with st := .waiting, pa := pa, home := some home }).eutasSend ((s.peerOf w).getD 0)
      (.request (pa % 2 ^ 41) (.read o.size)) (some (.op a o.id))
  | .hbm _ | .cxl _ | .host | .notify | .reserved => fin s (gldValue o (leNat (s.gRead pa o.size)))

/-- Local address of unit `u` of a copy, before its layout. -/
def DlOp.unitAt (o : DlOp) (u : Nat) : Nat := busBits o.b 31 0 + o.unitSize * u

/-- The unit that a copy reads next: that after those it has read and not yet written; `prog` bytes of the first have been written. -/
def DlOp.nextUnit (o : DlOp) : Nat := o.rest.headD 0 + (o.prog + o.stage.length) / o.unitSize

/-- Would a run that ends with unit `u` cut an aligned 4-byte word of global memory that the next unit shares (R366)? -/
def DlOp.cutsWord (o : DlOp) (u : Nat) : Bool := o.rest.contains (u + 1) && o.unitVa (u + 1) / 4 == o.unitVa u / 4

/-- The run of units that the engine takes next: at most 64 bytes of units that follow one another, on one page, not cut within an aligned 4-byte word (R282, R283, R366). -/
def DlOp.nextRun (o : DlOp) : List Nat :=
  let u := o.nextUnit
  let run := ((List.range (max 1 (min 16 (64 / o.unitSize)))).map (u + ·)).takeWhile fun v =>
    o.rest.contains v && o.unitVa v / 2 ^ 16 == o.unitVa u / 2 ^ 16
  match (run.reverse.dropWhile o.cutsWord).reverse with
  | [] => run
  | cut => cut

/-- The units of a run that one request of a peer takes: those whose addresses follow one another. -/
def DlOp.askRun (o : DlOp) (run : List Nat) : List Nat :=
  run.takeWhile fun v => o.unitVa v == o.unitVa (run.headD 0) + o.unitSize * (v - run.headD 0)

/-- May a copy go on with word `u`: is it not the second half of a word of local SRAM (R366)? -/
def DlOp.mayBegin (o : DlOp) (u : Nat) : Bool := u == 0 || o.unitAt u % 8 == 0

/-- The first refusal or fault at the home among the units of a run, and its unit. -/
def State.runCheck (s : State) (w : Who) (e : TlbEntry) (o : DlOp) (reads : Bool) : List Nat → AtHome × Nat
  | [] => (.ok, 0)
  | u :: us =>
    match s.homeCheck w e (homedPa w e (o.unitVa u)) o.unitSize reads with
    | .ok => s.runCheck w e o reads us
    | x => (x, u)

/-- What is left of a copy, in the order in which it goes on: elements in their order; the words of the page it is at from a free one on, then those of the other pages (R273, R282, R295; DESIGN CHOICE, log 87). -/
def DlOp.goOn (o : DlOp) (rest : List Nat) (n : Nat) : List Nat :=
  if o.pat.isSome then rest
  else
    let here (u : Nat) : Bool := o.unitVa u / 2 ^ 16 == o.unitVa (rest.headD 0) / 2 ^ 16
    let page := rest.filter here
    let starts := (page.zipIdx.filter fun x => o.mayBegin x.1).map (·.2)
    let k := starts.getD (n % max 1 starts.length) 0
    page.drop k ++ page.take k ++ rest.filter fun u => !here u

/-- A copy goes on with what is left of it, with the translations of the pages it still has bytes on, or is performed. -/
def State.copyOn (s : State) (a : Nat) (o : DlOp) (rest : List Nat) : State :=
  let rest := if o.stage.isEmpty then o.goOn rest (Config.delay s.free) else rest
  let s : State := { s with free := s.free + 1 }
  let o : DlOp := { o with rest := rest, walk := 0, st := .active,
                           tr := o.tr.filter fun e => rest.any fun u => e.covers o.asid (o.unitVa u / 2 ^ 16) }
  if rest.isEmpty then s.perform a o { s := dmStatus o } else (s.putOp a o).again a o

/-- Units of a run have been written to global memory. -/
def State.runDone (s : State) (a : Nat) (o : DlOp) (run : List Nat) : State :=
  (s.countG (run.length * o.unitSize)).copyOn a { o with stage := [] } (o.rest.filter fun u => !run.contains u)

/-- Bytes from global memory arrive for the next units (R282, R283). They are written to local SRAM up to the last whole word; those of a word whose other bytes are still to come are kept (R236, R366). -/
def State.landBytes (s : State) (a : Nat) (o : DlOp) (bs : List Byte) : State :=
  let all := o.stage ++ bs.drop (if o.stage.isEmpty then o.prog else 0)
  let u := o.rest.headD 0
  let at_ := o.unitAt u + o.prog
  let more : Bool := o.rest.contains (u + (o.prog + all.length) / o.unitSize)
  let n := if more then all.length - (at_ + all.length) % 8 else all.length
  let k := (o.prog + n) / o.unitSize
  let left := o.rest.filter fun v => !(decide (u ≤ v) && decide (v < u + k))
  let rest := if left.contains (u + k) then (u + k) :: left.filter (· ≠ u + k) else left
  let s := s.onTile a fun t => t.engineWrite ((layoutSpan (layoutOf (busBits o.c 49 48)) at_ n).zip all)
  (s.countG bs.length).copyOn a { o with stage := all.drop n, prog := (o.prog + n) % o.unitSize } rest

/-- Records of one unit written by a `put` or a `putp` (Table 19.3). -/
def Tile.unitRecs (t : Tile) (o : DlOp) (u pa : Nat) (bs : List Byte) : Tile :=
  (List.range ((bs.length + 3) / 4)).foldl (fun t k => t.addRec o (16 * u + k) (pa + 4 * k) ((bs.drop (4 * k)).take 4)) t

/-- The units of a run are written to global memory. -/
def State.writeRun (s : State) (a : Nat) (o : DlOp) (e : TlbEntry) (run : List Nat) (bs : List Byte) : State :=
  run.zipIdx.foldl (fun s x =>
    let d := (bs.drop (o.unitSize * x.2)).take o.unitSize
    let pa := homedPa (o.who a) e (o.unitVa x.1)
    (s.gWrite pa d).onTile a fun t => t.unitRecs o x.1 pa d) s

/-- A copy or a fill asks a peer for bytes of its page from unit `u` on (R265, R304). -/
def State.peerRead (s : State) (a : Nat) (o : DlOp) (e : TlbEntry) (m u n : Nat) : State :=
  let pa := e.pa (o.unitVa u)
  (s.putOp a { o with st := .waiting, pa := pa, home := some (homeDie e pa) }).eutasSend m (.request (pa % 2 ^ 41) (.read n))
    (some (.op a o.id))

/-- The peer that a page of an entry belongs to. -/
def State.peerPage (s : State) (e : TlbEntry) (va : Nat) : Option Nat :=
  match regionOf (e.pa va) with
  | .peer w => s.peerOf w
  | .hbm _ | .cxl _ | .notify | .request | .host | .reserved => none

/-- A run of a copy under an entry that serves it. -/
def State.doRun (s : State) (a : Nat) (o : DlOp) (e : TlbEntry) (run : List Nat) (toLocal : Bool) : State :=
  let va0 := o.unitVa (run.headD 0)
  match s.runCheck (o.who a) e o toLocal run with
  | (.refuse h, _) => s.refuse a o h .accessRetry
  | (.fault c det, u) => s.engineFault a { o with pa := homedPa (o.who a) e (o.unitVa u) } c (o.unitVa u) det
  | (.ok, _) =>
    match toLocal, s.peerPage e va0 with
    | true, none => s.landBytes a o (run.flatMap fun u => s.gRead (homedPa (o.who a) e (o.unitVa u)) o.unitSize)
    | true, some m =>
      let run := o.askRun run
      s.peerRead a { o with val := run.length } e m (run.headD 0) (run.length * o.unitSize)
    | false, p =>
      let run := match p with | some _ => o.askRun run | none => run
      let ps := run.flatMap o.unitSpan
      if (s.tileAt a).badWords ps then s.engineFault a o .dataUncorrectable ((s.tileAt a).firstBad ps) 0
      else
        let r := s.sramRead a ps
        match p with
        | none => (r.2.writeRun a o e run r.1).runDone a o run
        | some m =>
          let pa := e.pa va0
          (r.2.putOp a { o with st := .waiting, val := run.length, stage := r.1, pa := pa,
                                home := some (homeDie e pa) }).eutasSend m (.request (pa % 2 ^ 41) (.write r.1)) (some (.op a o.id))

/-! ## Fills (R284) -/

/-- The filler starts once its ring has no producer; its slot is freed. Its first commit is no earlier than the third tick after the trigger (R234). -/
def State.startFill (s : State) (a : Nat) (o : DlOp) : State :=
  match ((s.tileAt a).ringOf o).filler, o.pat with
  | none, some p =>
    let m : MMod := o.kind.mmod.getD { order := .plain, scope := .tile }
    let f : Filler :=
      { pat := p, base := busBits o.a 54 0, idx := 0, stage := [], tag := o.tag.getD 0, isGlobal := true,
        scope := m.scope, asid := o.asid, bank := o.bank, origin := o.origin, seq := o.seq, task := o.task, due := s.tick,
        commitAt := o.born + 3, opId := o.id }
    let s := s.onTile a fun t => t.setRingOf o { t.ringOf o with filler := some f }
    let o : DlOp := { o with slot := false, st := .active }
    (s.putOp a o).again a o
  | _, _ => s.again a o

/-- Bytes for the filler of a `fill` arrive. It keeps the translations of the pages it still has elements on (R273, R381). -/
def State.fillLand (s : State) (a : Nat) (o : DlOp) (f : Filler) (n : Nat) (bs : List Byte) : State :=
  let f : Filler := { f with idx := f.idx + n, stage := f.stage ++ bs }
  let s := s.onTile a fun t => t.setRingOf o { t.ringOf o with filler := some f }
  let left := (List.range (f.pat.count - f.idx)).map (f.idx + ·)
  let o : DlOp := { o with walk := 0, st := .active, tr := o.tr.filter fun e => left.any fun u => e.covers o.asid (o.unitVa u / 2 ^ 16) }
  ((s.countG bs.length).putOp a o).again a o

/-- The filler reads what one tick gathers, elements on one line, under an entry (R234, R284); those on a peer's page it asks the peer for (R265). -/
def State.fillRun (s : State) (a : Nat) (o : DlOp) (f : Filler) (e : TlbEntry) (run : List Nat) : State :=
  let va0 := o.unitVa f.idx
  match s.runCheck (o.who a) e o true run with
  | (.refuse h, _) => s.refuse a o h .accessRetry
  | (.fault c det, u) => s.engineFault a { o with pa := homedPa (o.who a) e (o.unitVa u) } c (o.unitVa u) det
  | (.ok, _) =>
    match s.peerPage e va0 with
    | some m => s.peerRead a { o with prog := f.idx, val := run.length } e m f.idx (run.length * o.unitSize)
    | none => s.fillLand a o f run.length (run.flatMap fun u => s.gRead (homedPa (o.who a) e (o.unitVa u)) o.unitSize)

/-- Elements that the filler reads next. -/
def fillNext (f : Filler) (r : Ring) : List Nat := (List.range (f.nextRun r)).map (f.idx + ·)

/-! ## One attempt of the engine -/

/-- What the operation needs next: its virtual address, or nothing left. -/
def State.nextVa (s : State) (a : Nat) (o : DlOp) : Nat :=
  match o.kind with
  | .get _ | .put _ | .getp _ | .putp _ => o.unitVa o.nextUnit
  | .fill _ => (match ((s.tileAt a).ringOf o).filler with | some f => o.unitVa f.idx | none => 0)
  | _ => busBits o.a 54 0

/-- The access has an entry: it is performed, or goes to its unit, once the digest buffer takes its records (R453). -/
def State.served (s : State) (a : Nat) (o : DlOp) (va : Nat) (e : TlbEntry) : State :=
  let w := o.who a
  let pa := homedPa w e va
  let o : DlOp := { o with pa := pa }
  let at_ (f : State → State) (n : Nat) (reads : Bool) : State :=
    match s.homeCheck w e pa n reads with
    | .refuse h => s.refuse a o h .accessRetry
    | .fault c det => s.engineFault a o c va det
    | .ok => f s
  if (s.tileAt a).digestFull o then (s.putOp a o).again a o
  else
  match o.kind with
  | .get _ | .getp _ => s.doRun a o e o.nextRun true
  | .put _ | .putp _ => s.doRun a o e o.nextRun false
  | .fill _ =>
    (match ((s.tileAt a).ringOf o).filler with
     | some f => s.fillRun a o f e (fillNext f ((s.tileAt a).ringOf o))
     | none => s)
  | .gld _ => at_ (fun s => s.doGld a o pa (homeDie e pa)) o.size true
  | .gst _ => at_ (fun s => s.doGst a o pa (homeDie e pa)) o.size false
  | _ => if s.unitNext a o (homeDie e pa) then s.opToUnit a o (homeDie e pa) pa else (s.putOp a o).again a o

/-- The engine tries to translate and perform the next part of an operation (R271, R272, R275). A page that it has translated already is not translated again (R273). -/
def State.tryAccess (s : State) (a : Nat) (o : DlOp) (again : Instr) : State :=
  let va := s.nextVa a o
  match findTlb o.asid (va / 2 ^ 16) o.tr with
  | some e => s.served a { o with st := .active, walk := 0 } va e
  | none =>
  match s.translate (o.who a) va (o.walk = 1) with
  | .hit e =>
    let s := match findTlb o.asid (va / 2 ^ 16) (s.tileAt a).utlb with
      | some _ => s
      | none => s.fillUtlb a e
    s.served a { o with st := .active, walk := 0, tr := e :: o.tr } va e
  | .cluster =>
    let s := s.putOp a { o with st := .active, walk := 1 }
    { s with agenda := s.agenda ++ [(s.tick + 24, again, { tile := a, op := o.id, yes := true })] }
  | .walk => (s.putOp a { o with st := .active, walk := 2 }).sched 300 none .translationWalk { tile := a, op := o.id }
  | .setD => (s.putOp a { o with st := .active, walk := 2 }).sched 1 none .dUpdate { tile := a, op := o.id }
  | .refuse => s.refuse a o 3400 .accessRetry
  | .fault c => s.engineFault a o c va 0

/-- The filler has a staging element to fill, or it waits for its commit. -/
def fillWants (t : Tile) (o : DlOp) : Bool :=
  match (t.ringOf o).filler with
  | some f => f.opId == o.id && f.gathers (t.ringOf o)
  | none => false

/-- A `dm` operation that is not in another's hands, at a moment the engine looks at it. -/
def State.dmStep (s : State) (a : Nat) (o : DlOp) : State :=
  if !s.dmReady a o then s.again a o
  else if o.isMfence then s.perform a o { s := dmStatus o }
  else if o.isFill && o.slot then s.startFill a o
  else if o.isFill && !fillWants (s.tileAt a) o then s.again a o
  else s.tryAccess a o .dmCompletion

/-- A `dm` operation without a result completes: its slot is freed, its status written, its tag set (R278, R281). -/
def Tile.dmFinish (t : Tile) (o : DlOp) : Tile :=
  let t := t.dropOp o.id
  if o.old.isSome then t
  else
  let t := match o.res with
    | some r => t.onBank o.bank fun b => b.onSock .dm fun c => { c with s := r.s }
    | none => t
  match o.tag with
  | some n => t.dmTag n.toNat
  | none => t

/-- DM_COMPLETION: the engine performs the next part of an operation, or completes it (R278, R282). -/
def execDmCompletion (s : State) : Host.Outcome State Fault Refusal :=
  let a := s.ev.tile
  match s.op? a s.ev.op with
  | none => .next s
  | some o =>
    match o.st with
    | .queued | .active => .next (s.dmStep a o)
    | .performed =>
      if !o.wx && o.sock == .dm && decide (o.due ≤ s.tick) then .next (s.onTile a fun t => t.dmFinish o) else .next s
    | .pending _ | .refused _ | .waiting | .stopped => .next s

/-! ## The translation service core -/

/-- The core's answer to an access of an operation (R268, R272, R276). Every walk is counted (Table 12.8). An access that was pending is resolved by any answer but a missing page, and its task's kernel is told (R277). -/
def State.coreAnswer (s : State) (a : Nat) (o : DlOp) (setD : Bool) : State :=
  let va := s.nextVa a o
  let s : State := { s with tr := { s.tr with walks := s.tr.walks + 1 } }
  let p : DlOp := { o with walk := 0, notice := false }
  let told (s : State) : State := if o.notice then s.pendNotice a p else s
  match s.coreFill (o.who a) va setD with
  | .filled s => told ((s.putOp a p).tryAccess a p (if o.sock = .dm then .dmCompletion else .atomicArrival))
  | .missing true => s.pend a { o with walk := 0 } va o.access
  | .missing false => told (s.engineFault a p .translationFault va 0)
  | .fault c => told (s.engineFault a p c va 0)
  | .refuse h => told (s.refuse a p h .accessRetry)
  | .lost => told (s.engineFault a { p with pa := 0 } .dataUncorrectable va 3)

/-- TRANSLATION_WALK for an operation that missed the TLBs (R268). -/
def execTranslationWalk (s : State) : Host.Outcome State Fault Refusal :=
  match s.op? s.ev.tile s.ev.op with
  | none => .next s
  | some o => if o.walk = 2 ∧ o.st = .active then .next (s.coreAnswer s.ev.tile o (o.access ≠ .rd)) else .next s

/-- D_UPDATE for a write through an entry with D clear (R272). -/
def execDUpdate (s : State) : Host.Outcome State Fault Refusal :=
  match s.op? s.ev.tile s.ev.op with
  | none => .next s
  | some o => if o.walk = 2 ∧ o.st = .active then .next (s.coreAnswer s.ev.tile o true) else .next s

/-- Every operation that waits on a record, with its tile. -/
def State.waitingOn (s : State) (id : Word) : List (Nat × DlOp) :=
  s.tiles.flatMap fun t => (t.queue.filter fun o => o.st == .pending id).map fun o => (t.addr, o)

/-- The accesses of a record are walked again (R276). -/
def State.resolveRewalk (s : State) (id : Word) : State :=
  if s.faults.any fun r => r.id = id then
    let ops := s.waitingOn id
    let s := { s with faults := s.faults.filter fun r => r.id ≠ id }
    ops.foldl (fun s x =>
      (s.putOp x.1 { x.2 with st := .active, walk := 2 }).sched 1 none .translationWalk { tile := x.1, op := x.2.id }) s
  else s

/-- Every access of a record takes a final TRANSLATION_FAULT (R276). -/
def State.resolveFail (s : State) (id : Word) : State :=
  if s.faults.any fun r => r.id = id then
    let ops := s.waitingOn id
    let s := { s with faults := s.faults.filter fun r => r.id ≠ id }
    ops.foldl (fun s x =>
      (s.engineFault x.1 x.2 .translationFault (s.nextVa x.1 x.2) 0).pendNotice x.1 x.2) s
  else s

/-- A write of `FQTAIL`: room in the fault queue; records that are held are written (R276, Table 12.8). -/
def State.fqTailWrite (s : State) (v : Nat) : State :=
  if v < s.tr.fqTail ∨ s.tr.fqHead < v then s
  else
    let s := { s with tr := { s.tr with fqTail := v } }
    (s.faults.filter fun r => !r.written).foldl State.writeFault s

/-- ACCESS_RETRY: a refused access is sent again and translated again (R273, R274). -/
def execAccessRetry (s : State) : Host.Outcome State Fault Refusal :=
  match s.op? s.ev.tile s.ev.op with
  | none => .next s
  | some o =>
    match o.st with
    | .refused u =>
      if s.tick < u then .next s
      else
        let o : DlOp := { o with st := .active, walk := 0 }
        .next ((s.putOp s.ev.tile o).tryAccess s.ev.tile o (if o.sock = .dm then .dmCompletion else .atomicArrival))
    | .queued | .active | .pending _ | .waiting | .performed | .stopped => .next s

/-! ## Answers of peers (R287, R304, R389) -/

/-- The code of a cause that a peer's unit found. -/
def peerFault (n : Nat) : Cause := causeOfCode n

/-- Records of what a peer has written for an operation (R451, Table 19.3): of a store, of an atomic by the old value, of the units of a copy. -/
def Tile.peerRecs (t : Tile) (o : DlOp) (old : Nat) : Tile :=
  let n := o.size
  let b := busBits o.b (8 * n - 1) 0
  match o.kind with
  | .gst _ => t.addRec o 0 o.pa (natLe b n)
  | .gatom f _ => t.addRec o 0 o.pa (natLe (atomNew f o.bit59 n old b) n)
  | .gcas _ => if old = b then t.addRec o 0 o.pa (natLe (busBits o.c (8 * n - 1) 0) n) else t
  | .put _ | .putp _ =>
    (List.range o.val).foldl (fun t k =>
      t.unitRecs o (o.rest.headD 0 + k) (o.pa + o.unitSize * k) ((o.stage.drop (o.unitSize * k)).take o.unitSize)) t
  | .sig _ => t.addRec o 0 o.pa (natLe old 8)
  | .sdec _ => t.addRec o 0 o.pa (natLe (old - busBits o.b 63 0) 8)
  | _ => t

/-- A peer answers a request of an operation: the old value (the new one of a `sig`), a fault with its detail, and whether a barrier's phase has completed (R358). -/
def State.peerAnswer (s : State) (a id old fault detail : Nat) (ph : Bool) : State :=
  match s.op? a id with
  | none => s
  | some o =>
    if o.st ≠ .waiting then s
    else if fault ≠ 0 then s.engineFault a o (peerFault fault) (s.nextVa a o) detail
    else
      let s := s.onTile a fun t => t.peerRecs o old
      match o.kind with
      | .get _ | .getp _ => s.landBytes a o (natLe old (o.val * o.unitSize))
      | .fill _ =>
        (match ((s.tileAt a).ringOf o).filler with
         | some f => s.fillLand a o f o.val (natLe old (o.val * o.unitSize))
         | none => s)
      | .put _ | .putp _ => s.runDone a o ((List.range o.val).map (o.rest.headD 0 + ·))
      | .gld _ => (s.countG o.size).perform a o { x := some (gldValue o old), s := dmStatus o }
      | .gst _ => (s.countG o.size).perform a o { s := dmStatus o }
      | .gatom f _ =>
        let x : Bus := if !o.bit59 && (f == .min || f == .max) then (BitVec.ofInt 64 (signExt old (8 * o.size))).setWidth 512
          else BitVec.ofNat 512 old
        (s.countG o.size).perform a o { x := some x, s := dmStatus o }
      | .gcas _ =>
        let ok := old == busBits o.b (8 * o.size - 1) 0
        (s.countG o.size).perform a o { x := some (BitVec.ofNat 512 old), s := BitVec.ofNat 64 (o.refBits + ok.toNat) }
      | _ => s.answerSync a o o.pa old ph none

end Sys2Proof.Machine
end

