-- ==== Sys2Proof/Machine/Replay.lean ====
section
/-! DEFINITION. The socket `rp`: the store digest, the arbitration log and the order gate (R454 to R460). -/

namespace Sys2Proof.Machine

/-- `rp.s`: OK or REF (R454). -/
def rpStatus (ok : Bool) : Dword := if ok then 1 else 2

/-- A `rp` operation: it stalls its own bundle while `wait` says so, then its result lands one issue cycle later (R454). -/
def rpSpec (opnd : Option Opnd) (wait : Start → State → Bool) (f : Start → State → Option Bus × Bool × State) : Spec :=
  { sock := .rp, opnd := opnd, run := fun st i =>
      if wait st i.st then .error .stall
      else
        let r := f st i.st
        .ok (landNext st { x := r.1, s := rpStatus r.2.1 } { i with st := r.2.2 }) }

/-! ## The digest -/

/-- Is a covered operation of an earlier bundle still to be folded (R455)? -/
def Tile.unfolded (t : Tile) (now : Nat) : Bool :=
  t.queue.any (fun o => o.covered && !o.isPerformed && decide (o.born < now)) || t.dgbuf.any fun r => decide (r.born < now)

/-- `rp.dgrd` (R455). -/
def specDgrd : Spec :=
  rpSpec (some .opA) (fun _ s => (s.self).unfolded s.tick) fun st s =>
    (some (if st.a.getLsbD 0 then (s.self).records.setWidth 512 else (s.self).digest.setWidth 512), true, s)

/-- `rp.dgclr` (R455). -/
def specDgclr : Spec :=
  rpSpec none (fun _ s => (s.self).unfolded s.tick) fun _ s =>
    (some ((s.self).digest.setWidth 512), true, s.onSelf fun t => { t with digest := 0xFFFFFFFFFFFFFFFF, records := 0 })

/-! ## Log and gate -/

/-- The ticks that an operation across the units takes, at most `span` (or any finite number): it is performed when its bundle has stalled for a free number of ticks from its first stalled tick on, asleep or not. -/
def unitsWait (span : Option Nat) (s : State) : Bool :=
  let t := s.self
  let from_ := t.stallFrom.getD s.tick
  let d := Config.delay (from_ * 2 ^ 20 + t.addr)
  decide (s.tick < from_ + match span with | some n => d % (n + 1) | none => d)

/-- Dies whose units take part: those that are healthy. -/
def State.unitDies (s : State) : List Nat := (List.range 24).filter fun d => !s.sick.getLsbD d && !s.fenced.getLsbD d

/-- The active log or gate of a launch at a die's unit. -/
def State.logAt (s : State) (l : Dword) (d : Nat) : Option UnitLog := (s.unit d).logs.find? fun g => g.launch = l ∧ g.active

/-- Has some unit logging (or, with `gate`, the gate) on for the launch? -/
def State.logsOn (s : State) (l : Dword) (gate : Bool) : Bool :=
  s.unitDies.any fun d => match s.logAt l d with | some g => g.gate == gate | none => false

/-- The conditions of R457 on base and Z: alignment, a size, and areas within the backed HBM of one die. -/
def areasOk (base z : Nat) : Bool :=
  base % 0x10000 == 0 && z != 0 && inHbm base && decide (base % 2 ^ 36 + 24 * z * 0x10000 ≤ hbmBytes)

/-- Installs a log or gate of a launch at a unit in place of an earlier one. -/
def State.setLog (s : State) (d : Nat) (g : UnitLog) : State :=
  s.onUnit d fun u => { u with logs := g :: u.logs.filter fun x => x.launch ≠ g.launch }

/-- Is logging on with this base and Z at every unit? -/
def State.sameLog (s : State) (l : Dword) (base z : Nat) : Bool :=
  s.unitDies.all fun d => match s.logAt l d with | some g => !g.gate && g.base == base && g.z == z | none => false

/-- Every unit writes a zero header and starts logging (R457). -/
def State.startLogs (s : State) (l : Dword) (base z : Nat) : State :=
  s.unitDies.foldl (fun s d =>
    let g : UnitLog := { launch := l, gate := false, base := base, z := z, begun := s.tick }
    (s.gWrite (g.area d) (List.replicate 64 0)).setLog d g) s

/-- `logon` for a launch: whether it is accepted, and what it does (R457). -/
def State.logOn (s : State) (l : Dword) (base z : Nat) : Bool × State :=
  if !areasOk base z ∨ s.logsOn l true then (false, s)
  else if s.sameLog l base z then (true, s)
  else if s.logsOn l false then (false, s)
  else (true, s.startLogs l base z)

/-- `rp.logon` (R457). -/
def specLogon : Spec :=
  rpSpec (some .opB) (fun _ s => unitsWait (some 600) s) fun st s =>
    let r := s.logOn (s.self).launchId (busBits st.a 51 0) (busBits st.b 15 0)
    (none, r.1, r.2)

/-- Every unit writes its header and stops logging the launch (R458). -/
def State.logOff (s : State) (l : Dword) : State :=
  s.unitDies.foldl (fun s d =>
    match s.logAt l d with
    | some g =>
      if g.gate then s
      else
        (s.gWrite (g.area d) (natLe g.c 8 ++ natLe g.ovf.toNat 8 ++ List.replicate 48 0)).onUnit d fun u =>
          u.putLog { g with active := false }
    | none => s) s

/-- `rp.logoff` (R458). -/
def specLogoff : Spec :=
  rpSpec none (fun _ s => s.logsOn (s.self).launchId false && unitsWait none s) fun _ s => (none, true, s.logOff (s.self).launchId)

/-- The headers of the areas cannot be read yet: their pseudo-channel is being spared (R90). -/
def State.headersBusy (s : State) (base z : Nat) : Bool :=
  areasOk base z && s.unitDies.any fun d => (s.sparedUntil (({ launch := 0, gate := true, base := base, z := z } : UnitLog).area d)).isSome

/-- Each unit reads its header and starts the gate at chunk 0 (R459). A header that cannot be read counts as one with no chunk (R90, R91; DESIGN CHOICE, log 92). -/
def State.gateOn (s : State) (l : Dword) (base z timeout : Nat) : Bool × State :=
  if !areasOk base z ∨ s.logsOn l false ∨ s.logsOn l true then (false, s)
  else
    (true, s.unitDies.foldl (fun s d =>
      let g : UnitLog := { launch := l, gate := true, base := base, z := z, timeout := max 1700 timeout }
      s.setLog d (s.loadChunk d { g with total := if s.lostAt (g.area d) then 0 else s.dwordAt (g.area d) })) s)

/-- `rp.gateon` (R459). -/
def specGateon : Spec :=
  rpSpec (some .opB) (fun st s => unitsWait none s || s.headersBusy (busBits st.a 51 0) (busBits st.b 15 0)) fun st s =>
    let r := s.gateOn (s.self).launchId (busBits st.a 51 0) (busBits st.b 15 0) (busBits st.b 47 16)
    (none, r.1, r.2)

/-- The gate of a launch stops at every unit: what waits there is admitted in order of arrival (R459). -/
def State.gateOff (s : State) (l : Dword) : State :=
  s.unitDies.foldl (fun s d =>
    match s.logAt l d with
    | some g => if g.gate then s.onUnit d fun u => u.putLog { g with active := false } else s
    | none => s) s

/-- `rp.gateoff` (R459). -/
def specGateoff : Spec := rpSpec none (fun _ _ => false) fun _ s => (none, true, s.gateOff (s.self).launchId)

/-- The unit word of Table 19.5. -/
def State.unitWord (s : State) (l : Dword) (d : Nat) : Nat :=
  match (s.unit d).logs.find? fun g => g.launch = l with
  | none => 0
  | some g =>
    (g.active && !g.gate).toNat * 2 ^ 63 + (g.active && g.gate).toNat * 2 ^ 62 + g.ovf.toNat * 2 ^ 61 + g.div.toNat * 2 ^ 60
      + g.c % 2 ^ 32

/-- `rp.logst` (R460). -/
def specLogst : Spec :=
  rpSpec (some .opA) (fun _ s => unitsWait (some 600) s) fun st s =>
    let d := busBits st.a 4 0
    if 24 ≤ d ∨ s.fenced.getLsbD d then (some 0, false, s)
    else (some (BitVec.ofNat 512 (s.unitWord (s.self).launchId d)), true, s)

def execDgrd (h : Head) (s : State) : Host.Outcome State Fault Refusal := issueOne (.dgrd h) specDgrd s
def execDgclr (h : Head) (s : State) : Host.Outcome State Fault Refusal := issueOne (.dgclr h) specDgclr s
def execLogon (h : Head) (s : State) : Host.Outcome State Fault Refusal := issueOne (.logon h) specLogon s
def execLogoff (h : Head) (s : State) : Host.Outcome State Fault Refusal := issueOne (.logoff h) specLogoff s
def execGateon (h : Head) (s : State) : Host.Outcome State Fault Refusal := issueOne (.gateon h) specGateon s
def execGateoff (h : Head) (s : State) : Host.Outcome State Fault Refusal := issueOne (.gateoff h) specGateoff s
def execLogst (h : Head) (s : State) : Host.Outcome State Fault Refusal := issueOne (.logst h) specLogst s

end Sys2Proof.Machine
end

