-- ==== Sys2Proof/Machine/Supervisor.lean ====
section
/-! DEFINITION. The socket `sv`: returning, the supervisor state, TLB invalidation and map fences, the bound ASID, banks and captures, the error word, the timer (R420 to R430, R381). -/

namespace Sys2Proof.Machine

/-! ## Results -/

/-- `sv.s`: OK or REF (R421). -/
def svStatus (ok : Bool) : Dword := if ok then 1 else 2

/-- A `sv` operation that completes in its issue cycle: its value, whether it was accepted, the state it leaves (R136, R421). -/
def svSpec (opnd : Opnd) (f : Start → State → Option Bus × Bool × State) : Spec :=
  { sock := .sv, opnd := some opnd, run := fun st i =>
      let r := f st i.st
      .ok (landNext st { x := r.1, s := svStatus r.2.1 } { i with st := r.2.2 }) }

/-- A `sv` operation that stalls the next bundle of bank3 until it completes, `lo` ticks later at the earliest and `span` more at the most. -/
def State.supStart (s : State) (st : Start) (k : SupKind) (lo : Nat) (span : Option Nat) : State :=
  let d := match span with | none => Config.delay s.free | some n => Config.delay s.free % (n + 1)
  { s.onSelf fun t => { t with supOp := some { kind := k, a := st.a, b := st.b, c := st.c, bank := st.bank, born := s.tick,
                                               due := s.tick + lo + d } } with free := s.free + 1 }

/-! ## Returning and the supervisor state -/

/-- `sv.eret` (R422). -/
def specEret : Spec :=
  { sock := .sv, opnd := some .opA, run := fun st i =>
      let form := busBits st.a 1 0
      let i := landNext st { s := svStatus (form ≠ 3) } i
      .ok (if form = 3 then i else { i with eret := some form }) }

/-- Sets the trap offset of the bank in the cause word (R423). -/
def Tile.setTrapOff (t : Tile) (v : Word) : Tile :=
  let k : BitVec 2 := (t.sel[0]).extractLsb' 10 2
  let t : Tile := { t with sel := t.sel.set 1 ((t.sel[1]).extractLsb' 32 32 ++ v) }
  if k = 3 then t else t.onBank k fun b => { b with pc := v }

/-- `sv.cause` (R423). -/
def specCause : Spec :=
  svSpec .opA fun st s =>
    let t := s.self
    if st.a.getLsbD 62 then (some ((t.sel[1]).setWidth 512), true, s.onSelf fun t => t.setTrapOff (st.a.setWidth 32))
    else (some (((t.sel.toList.getD (busBits st.a 1 0) 0)).setWidth 512), true, s)

/-! ## Translation -/

/-- Does an entry fall under `sv.tlbinv` (R424)? -/
def invCovers (asid : Half) (page : Nat) (e : TlbEntry) : Bool :=
  decide (e.page ≤ page) && decide (page < e.page + if e.big then 8192 else 1)
    && (if asid = 0 then e.g else e.g || e.asid == asid)

/-- Does an entry fall under `sv.tlbinvas` (R424)? -/
def invAsCovers (asid : Half) (e : TlbEntry) : Bool := asid == 0 || (!e.g && e.asid == asid)

/-- Bounds of the completion of an invalidation by scope (R424). -/
def invBound : Scope → Nat
  | .tile | .quad | .cluster => 64
  | .die => 600
  | .module | .system => 2000

/-- `sv.tlbinv` (R424). -/
def specTlbinv (m : MMod) : Spec :=
  svSpec .opB fun st s => (none, true, s.supStart st (.tlbinv m) 1 (some (invBound m.scope - 1)))

/-- `sv.tlbinvas` (R424). -/
def specTlbinvas (m : MMod) : Spec :=
  svSpec .opA fun st s => (none, true, s.supStart st (.tlbinvas m) 1 (some (invBound m.scope - 1)))

/-- `sv.mapfence` (R425). -/
def specMapfence (m : MMod) : Spec :=
  svSpec .opC fun st s =>
    if busBits st.c 15 0 = 0 then (none, false, s) else (none, true, s.supStart st (.mapfence m) 1 none)

/-- Does an entry overlap the pages [lo, lo + n), or any page where n is 0, in the ASID or as a G entry (R381)? -/
def fenceCovers (asid : Half) (lo n : Nat) (e : TlbEntry) : Bool :=
  (e.g || e.asid == asid)
    && (n == 0 || (decide (e.page < lo + n) && decide (lo < e.page + if e.big then 8192 else 1)))

/-- Does an operation hold a translation that a fence drops (R381)? -/
def DlOp.heldUnder (o : DlOp) (asid : Half) (lo n : Nat) : Bool := o.tr.any (fenceCovers asid lo n)

/-- Accesses of a tile that hold a translation a fence drops: copies with bytes left on the page, accesses on their way to a unit or a peer, at a gate or on a watch list (R381). -/
def Tile.heldBy (t : Tile) (asid : Half) (lo n : Nat) : List (Nat × Nat) :=
  (t.queue.filter fun o => o.heldUnder asid lo n).map fun o => (t.addr, o.id)

/-- The accesses that a map fence waits for, before it drops its entries. -/
def State.fenceWaits (s : State) (sc : Scope) (a : Nat) (asid : Half) (lo n : Nat) : List (Nat × Nat) :=
  (s.tiles.filter fun t => inScope sc a t.addr && !s.fenced.getLsbD (dieOf t.addr)).flatMap fun t => t.heldBy asid lo n

/-- Is an access still held under a translation of the range? -/
def State.stillHeld (s : State) (asid : Half) (lo n : Nat) (w : Nat × Nat) : Bool :=
  match s.op? w.1 w.2 with
  | some o => o.heldUnder asid lo n
  | none => false

/-- Step 1 of R381 for the issuing tile: its earlier stores have been performed. -/
def Tile.storesDone (t : Tile) (born : Nat) : Bool :=
  t.queue.all fun o => !(o.sock == .dm && decide (o.born ≤ born)
    && (match o.kind with | .gst _ | .gatom _ _ | .gcas _ | .put _ | .putp _ => true | _ => false)) || o.isPerformed

/-- One tick of the operation that stalls the supervisor: it completes once its time has come and nothing is left to wait for (R424, R425, R428). -/
def State.supTick (s : State) (a : Nat) : State :=
  let t := s.tileAt a
  match t.supOp with
  | none => s
  | some o =>
    let fin (s : State) : State := s.onTile a fun t => { t with supOp := none }
    if s.tick < o.due then s
    else
      match o.kind with
      | .tlbinv m =>
        fin (s.dropTlb m.scope a (invCovers (BitVec.ofNat 16 (busBits o.b 15 0)) (busBits o.a 54 16)))
      | .tlbinvas m => fin (s.dropTlb m.scope a (invAsCovers (BitVec.ofNat 16 (busBits o.a 15 0))))
      | .mapfence m =>
        let asid : Half := BitVec.ofNat 16 (busBits o.c 15 0)
        let lo := busBits o.a 54 16
        let n := busBits o.b 31 0
        if !o.dropped then
          if t.storesDone o.born then
            let ws := s.fenceWaits m.scope a asid lo n
            let s := s.dropTlb m.scope a (fenceCovers asid lo n)
            if ws.isEmpty then fin s
            else s.onTile a fun t => { t with supOp := some { o with dropped := true, waits := ws } }
          else s
        else if o.waits.any (s.stillHeld asid lo n) then s
        else fin s
      | .shcap | .shset => fin s

/-- `sv.asid` (R426). -/
def specAsid : Spec :=
  { sock := .sv, opnd := some .opA, run := fun st i =>
      let i := landNext st { x := some ((i.st.self).asid.setWidth 512), s := svStatus true } i
      .ok (if st.a.getLsbD 63 then i else { i with asid := some (st.a.setWidth 16) }) }

/-! ## Banks and captures -/

/-- Reads a register of another bank; a guard register from 8 on has no value in the spec (DESIGN CHOICE, log 37). -/
def bankRead (b : Strand) (f n free : Nat) : Bus :=
  if f = 0 then (b.getG (BitVec.ofNat 5 n)).setWidth 512
  else if f = 1 then b.getV (BitVec.ofNat 5 n)
  else if 8 ≤ n then (if Config.choice free then 1 else 0)
  else if b.getB (BitVec.ofNat 3 n) then 1 else 0

/-- Writes a register of another bank; its words are sound again (R140). -/
def Tile.bankWrite (t : Tile) (k : BitVec 2) (f n : Nat) (v : Bus) : Tile :=
  let t := t.onBank k fun b =>
    if f = 0 then b.setG (BitVec.ofNat 5 n) (Bus.low v)
    else if f = 1 then b.setV (BitVec.ofNat 5 n) v
    else if 8 ≤ n then b
    else b.setB (BitVec.ofNat 3 n) (v.getLsbD 0)
  let other (e : Nat × Nat × Nat × Nat) : Bool := !decide (e.1 = k.toNat ∧ e.2.1 = f ∧ e.2.2.1 = n)
  { t with badRegs := t.badRegs.filter other, softRegs := t.softRegs.filter other }

/-- `sv.bank` (R427). -/
def specBank : Spec :=
  { sock := .sv, opnd := some .opB, run := fun st i =>
      let s := i.st
      let k : BitVec 2 := st.a.setWidth 2
      let f := busBits st.a 4 3
      let n := busBits st.a 9 5
      if k = 3 ∨ f = 3 then .ok (landNext st { s := svStatus false } i)
      else if st.a.getLsbD 2 then
        .ok (landNext st { s := svStatus true } { i with st := s.onSelf fun t => t.bankWrite k f n st.b })
      else if regListed (s.self).badRegs k f n then .error (.trap .dataUncorrectable 0 1)
      else
        .ok (landNext st { x := some (bankRead ((s.self).bank k) f n s.free), s := svStatus true }
          { i with st := { s.regCorrect k [(f, n)] with free := s.free + 1 } }) }

def zeros (n : Nat) : List Byte := List.replicate n 0
def boolByte (b : Bool) : Byte := if b then 1 else 0

/-- 32 bytes of a repetition level (Table 18.5). -/
def levelBytes (l : Level) : List Byte :=
  natLe l.start.toNat 4 ++ [BitVec.ofNat 8 l.len, BitVec.ofNat 8 l.stagger] ++ natLe l.mask.toNat 2 ++ natLe l.count 8
    ++ natLe l.bound 4 ++ natLe (BitVec.ofInt 32 l.step).toNat 4 ++ natLe l.pass 4 ++ [BitVec.ofNat 8 (1 + 2 * l.loopx.toNat)] ++ zeros 3

/-- 0x180 bytes of a socket slot. -/
def slotBytes (c : SockCtx) : List Byte :=
  bytesOf c.a ++ bytesOf c.b ++ bytesOf c.c ++ bytesOf c.x ++ bytesOf c.y ++ natLe c.s.toNat 8
    ++ [BitVec.ofNat 8 (c.fullX.toNat + 2 * c.fullY.toNat)] ++ zeros 55

/-- 0x90 bytes of a shadow entry. -/
def shadowBytes (f : Flight) : List Byte :=
  bytesOf (f.res.x.getD 0) ++ bytesOf (f.res.y.getD 0) ++ natLe f.res.s.toNat 8
    ++ [BitVec.ofNat 8 f.sock.num, BitVec.ofNat 8 (f.res.x.isSome.toNat + 2 * f.res.y.isSome.toNat), BitVec.ofNat 8 f.r, 1,
        f.res.flags.setWidth 8] ++ zeros 3

/-- Flights in ascending r, then trigger order (R428). -/
def byLanding (fs : List Flight) : List Flight := (List.range 8).flatMap fun r => fs.filter fun f => f.r = r

/-- The capture block of a bank (Table 18.5): 16 KiB. -/
def captureBytes (origin : Word) (b : Strand) : List Byte :=
  let fs := (byLanding b.flight).take 32
  natLe b.pc.toNat 4 ++ natLe origin.toNat 4 ++ natLe b.flags.toNat 8
    ++ natLe (b.fmt.toNat + b.fmtPend.toNat * 2 ^ 32 + b.fmtLeft * 2 ^ 48) 8 ++ natLe b.idle 8
    ++ ((b.levels.map levelBytes) ++ List.replicate (2 - b.levels.length) (zeros 32)).flatten ++ zeros 32
    ++ (b.socks.toList.zipIdx.map fun c => if c.2 = 1 ∨ c.2 = 2 ∨ c.2 = 3 then zeros 384 else slotBytes c.1).flatten
    ++ (fs.map shadowBytes).flatten ++ zeros (144 * (32 - fs.length)) ++ zeros 0xB00

/-- A field of a block, little-endian. -/
def svField (bs : List Byte) (off n : Nat) : Nat := leNat ((bs.drop off).take n)
def busField (bs : List Byte) (off : Nat) : Bus := BitVec.ofNat 512 (svField bs off 64)

/-- A level from its 32 bytes; none when its active flag is clear. -/
def levelFrom (bs : List Byte) : Option Level :=
  if bits (svField bs 28 1) 0 0 = 0 then none
  else some { start := BitVec.ofNat 32 (svField bs 0 4), len := svField bs 4 1, count := svField bs 8 8, bound := svField bs 16 4,
              step := signExt (svField bs 20 4) 32, stagger := svField bs 5 1, mask := BitVec.ofNat 16 (svField bs 6 2),
              pass := svField bs 24 4, loopx := bits (svField bs 28 1) 1 1 = 1 }

/-- A socket slot from its bytes. -/
def slotFrom (bs : List Byte) : SockCtx :=
  { a := busField bs 0, b := busField bs 0x40, c := busField bs 0x80, x := busField bs 0xC0, y := busField bs 0x100,
    s := BitVec.ofNat 64 (svField bs 0x140 8), fullX := bits (svField bs 0x148 1) 0 0 = 1, fullY := bits (svField bs 0x148 1) 1 1 = 1 }

/-- A shadow entry: none when it is not valid, an error when R428 refuses it. -/
def shadowFrom (bs : List Byte) (origin : Word) (seq : Nat) : Except Unit (Option Flight) :=
  if bits (svField bs 0x8B 1) 0 0 = 0 then .ok none
  else
    let r := bits (svField bs 0x8A 1) 3 0
    let sock : Option Sock := [Sock.mu, .fp, .sf, .vu, .vx, .ls].find? fun k => k.num == bits (svField bs 0x88 1) 5 0
    match sock with
    | none => .error ()
    | some k =>
      if r = 0 ∨ 7 < r then .error ()
      else .ok (some { sock := k, r := r, origin := origin, seq := seq,
                       res := { x := if bits (svField bs 0x89 1) 0 0 = 1 then some (busField bs 0) else none,
                                y := if bits (svField bs 0x89 1) 1 1 = 1 then some (busField bs 0x40) else none,
                                s := BitVec.ofNat 64 (svField bs 0x80 8), flags := BitVec.ofNat 6 (svField bs 0x8C 1) } })

/-- Offsets of the reserved bytes of a block. -/
def captureReserved (o : Nat) : Bool :=
  if o < 0x20 then decide (o ∈ [9, 10, 11, 12, 13, 14, 15, 0x12, 0x13, 0x17, 0x1C, 0x1D, 0x1E, 0x1F])
  else if o < 0x60 then decide (29 ≤ (o - 0x20) % 32)
  else if o < 0x80 then true
  else if o < 0x2300 then
    let k := (o - 0x80) / 0x180
    decide (1 ≤ k ∧ k ≤ 3) || decide (0x149 ≤ (o - 0x80) % 0x180)
  else if o < 0x3500 then decide (0x8D ≤ (o - 0x2300) % 0x90)
  else true

/-- A bank with the capture of a block (R428); none when the block is refused. -/
def captureFrom (bs : List Byte) (b : Strand) : Option Strand :=
  if (bs.zipIdx.any fun x => x.1 != 0 && captureReserved x.2) then none
  else
    let origin : Word := BitVec.ofNat 32 (svField bs 4 4)
    let entries := (List.range 32).map fun i => shadowFrom ((bs.drop (0x2300 + 0x90 * i)).take 0x90) origin i
    if entries.any (fun e => match e with | .error _ => true | .ok _ => false) then none
    else
      let fs := entries.filterMap fun e => match e with | .ok f => f | .error _ => none
      let slot (k : Nat) : SockCtx := slotFrom ((bs.drop (0x80 + 0x180 * k)).take 0x180)
      some { b with
        pc := BitVec.ofNat 32 (svField bs 0 4), flags := BitVec.ofNat 6 (svField bs 8 1)
        fmt := BitVec.ofNat 13 (svField bs 0x10 2), fmtPend := BitVec.ofNat 13 (svField bs 0x14 2)
        fmtLeft := bits (svField bs 0x16 1) 1 0, fmtDue := false, idle := svField bs 0x18 4
        levels := (levelFrom ((bs.drop 0x20).take 32)).toList ++ (levelFrom ((bs.drop 0x40).take 32)).toList
        passEnd := false
        socks := Vector.ofFn fun k => if k.val = 1 ∨ k.val = 2 ∨ k.val = 3 then {} else slot k.val
        flight := byLanding fs }

/-- Local address of a capture block; none where R428 refuses it. -/
def captureAddr (st : Start) : Option Nat :=
  let a := busBits st.a 31 0
  if a % 64 ≠ 0 ∨ 0x60000 < a + 0x4000 ∨ busBits st.b 1 0 = 3 then none else some a

/-- `sv.shcap` (R428). -/
def specShcap : Spec :=
  svSpec .opB fun st s =>
    match captureAddr st with
    | none => (none, false, s)
    | some a =>
      let t := s.self
      let k : BitVec 2 := st.b.setWidth 2
      let trapped : Bool := (t.sel[0]).extractLsb' 10 2 == k && (t.sel[0]).extractLsb' 0 6 != 0
      let origin : Word := if trapped then (t.sel[1]).extractLsb' 32 32 else (t.bank k).pc
      let ws := ((List.range 0x4000).map (a + ·)).zip (captureBytes origin (t.bank k))
      (none, true, (s.onSelf fun t => (t.engineWrite ws).touchZones (ws.map (·.1))).supStart st .shcap 256 (some 0))

/-- `sv.shset` (R428). -/
def specShset : Spec :=
  svSpec .opB fun st s =>
    match captureAddr st with
    | none => (none, false, s)
    | some a =>
      let t := s.self
      let k : BitVec 2 := st.b.setWidth 2
      let ps := (List.range 0x4000).map (a + ·)
      if t.badWords ps then
        (none, false, s.lateCause s.cur { bank := st.bank, cause := .dataUncorrectable, kind := .late, origin := st.origin,
                                          seq := st.seq, since := s.tick, addr := BitVec.ofNat 64 a })
      else
        let r := s.sramRead s.cur ps
        match captureFrom r.1 (t.bank k) with
        | none => (none, false, r.2)
        | some b =>
          (none, true, (r.2.onSelf fun t => t.setBank k b).supStart st .shset 256 (some 0))

/-! ## Errors and the timer -/

/-- The tile error word (Table 18.6). -/
def Tile.errWord (t : Tile) : Dword :=
  BitVec.ofNat 64 (t.errs[0] * 2 ^ 48 + t.errs[1] * 2 ^ 32 + t.errs[2] * 2 ^ 16 + t.errs[3] * 2 ^ 8 + t.errs[4])

/-- `sv.errst` (R429). -/
def specErrst : Spec :=
  svSpec .opA fun st s =>
    (some ((s.self).errWord.setWidth 512), true,
     if st.a.getLsbD 0 then s.onSelf fun t => { t with errs := Vector.replicate 5 0 } else s)

/-- Ticks that remain of the supervisor timer; 0 when it is disarmed. -/
def Tile.timerLeft (t : Tile) (now : Nat) : Nat := if t.stmr = 0 then 0 else max 1 (t.stmr - now)

/-- `sv.stmr` (R430). -/
def specStmr : Spec :=
  svSpec .opA fun st s =>
    let x : Bus := BitVec.ofNat 512 ((s.self).timerLeft s.tick)
    let n := busBits st.a 47 0
    (some x, true,
     if st.a.getLsbD 63 then s else s.onSelf fun t => { t with stmr := if n = 0 then 0 else s.tick + n })

/-- SUPERVISOR_TIMER_EXPIRY: PREEMPT with detail 1 becomes pending for the user strand; a sleeping tile wakes (R430). -/
def Tile.timerExpiry (t : Tile) (now : Nat) : Tile :=
  let k : BitVec 2 := if t.run = 3 then (t.sel[0]).extractLsb' 10 2 else t.run
  let t : Tile := { t with stmr := 0 }
  if (t.bank 0).life = .halted then t
  else
    ({ t.addCause { bank := k, cause := .preempt, kind := .async, detail := 1, seq := (t.bank k).seq, since := now } with
        asleep := false, stalled := 0, stallFrom := none } : Tile)

def execSupervisorTimerExpiry (s : State) : Host.Outcome State Fault Refusal :=
  let t := s.tileAt s.ev.tile
  if t.stmr = 0 ∨ s.tick < t.stmr ∨ t.frozen then .next s else .next (s.onTile s.ev.tile fun t => t.timerExpiry s.tick)

/-! ## The instructions -/

def execEret (h : Head) (s : State) : Host.Outcome State Fault Refusal := issueOne (.eret h) specEret s
def execCause (h : Head) (s : State) : Host.Outcome State Fault Refusal := issueOne (.cause h) specCause s
def execTlbinv (h : Head) (m : MMod) (s : State) : Host.Outcome State Fault Refusal := issueOne (.tlbinv h m) (specTlbinv m) s
def execTlbinvas (h : Head) (m : MMod) (s : State) : Host.Outcome State Fault Refusal := issueOne (.tlbinvas h m) (specTlbinvas m) s
def execMapfence (h : Head) (m : MMod) (s : State) : Host.Outcome State Fault Refusal := issueOne (.mapfence h m) (specMapfence m) s
def execAsid (h : Head) (s : State) : Host.Outcome State Fault Refusal := issueOne (.asid h) specAsid s
def execBank (h : Head) (s : State) : Host.Outcome State Fault Refusal := issueOne (.bank h) specBank s
def execShcap (h : Head) (s : State) : Host.Outcome State Fault Refusal := issueOne (.shcap h) specShcap s
def execShset (h : Head) (s : State) : Host.Outcome State Fault Refusal := issueOne (.shset h) specShset s
def execErrst (h : Head) (s : State) : Host.Outcome State Fault Refusal := issueOne (.errst h) specErrst s
def execStmr (h : Head) (s : State) : Host.Outcome State Fault Refusal := issueOne (.stmr h) specStmr s

end Sys2Proof.Machine
end

