-- ==== Sys2Proof/Machine/Shipped.lean ====
section
/-! DEFINITION. The shipped supervisor of the Jaith image, built in where the supervisor store of a quad lists no words (R433, R481; DESIGN CHOICE, log 8); the fault records of a die (R442). -/

namespace Sys2Proof.Machine

/-! ## Fault records (R442) -/

def findDie (d : Nat) : List DieRecs → DieRecs
  | [] => { die := d }
  | x :: r => if x.die = d then x else findDie d r

/-- Writes a fault record of a tile. -/
def State.dieRecord (s : State) (a : Nat) : State :=
  let t := s.tileAt a
  let d := findDie (dieOf a) s.dieRecs
  let bs := natLe t.launchId.toNat 8 ++ natLe (s.mtile a) 4 ++ [BitVec.ofNat 8 (t.role.getD 0xFF), 0, 0, 0]
    ++ (t.sel.toList.flatMap fun v => natLe v.toNat 8) ++ natLe s.tick 8 ++ List.replicate 8 0
  let d : DieRecs := { d with idx := d.idx + 1, recs := (d.idx % 256, bs) :: d.recs.filter fun r => r.1 ≠ d.idx % 256 }
  { s with dieRecs := d :: s.dieRecs.filter fun x => x.die ≠ d.die }

/-! ## Handlers -/

/-- Code of the cause in the supervisor state. -/
def Tile.causeNow (t : Tile) : Nat := ((t.sel[0]).extractLsb' 0 6).toNat

/-- The record or replay request of argument 3 (R481). -/
def State.replayRequest (s : State) (a : Nat) : State :=
  let b := (s.tileAt a).bank 0
  let base := (b.getG 2).toNat % 2 ^ 52
  let g3 := (b.getG 3).toNat
  let l := (s.tileAt a).launchId
  if bits g3 63 62 = 1 then (s.logOn l base (bits g3 15 0)).2
  else if bits g3 63 62 = 2 then (s.gateOn l base (bits g3 15 0) (bits g3 47 16)).2
  else s

/-- Time limit of the launch of a tile (Table 3.2). -/
def State.limitOf (s : State) (t : Tile) : Nat :=
  match s.sch.launches.find? fun l => some l.id = t.launch with
  | some l => l.rcd.limit
  | none => 0

/-- What the handler does first: it holds the tile for the debugger, or asks for the collapse of the page; it ends within 1,200 ticks (R433). -/
def State.supBegin (s : State) (a : Nat) : State :=
  let t := s.tileAt a
  let s := s.onTile a fun t => { t with natAt := some (s.tick + Config.delay s.free % 1190), debugHeld := t.causeNow = 0x17 }
  let s := { s with free := s.free + 1 }
  if t.causeNow = 0x0A then
    let m := findSlot (.slot a) s.migSlots
    let page : Dword := BitVec.ofNat 64 (t.asid.toNat * 2 ^ 48 + (t.sel[2]).toNat / 2 ^ 16)
    State.migCommand { s with migSlots := putSlot { m with pageWord := page } s.migSlots } (.slot a) 3
  else s

/-- May the handler return now: the debugger has released the tile, the request has ended? -/
def State.supMay (s : State) (a : Nat) : Bool :=
  let t := s.tileAt a
  if t.causeNow = 0x17 then !t.debugHeld
  else if t.causeNow = 0x0A then (findSlot (.slot a) s.migSlots).status != 1
  else true

/-- The end of the handler: its effect, and the form of its `sv.eret`. From COLLAPSE it returns to the bundle that made the access, which issues again (R388; DESIGN CHOICE, log 87). -/
def State.supEnd (s : State) (a : Nat) : State × Nat :=
  let t := s.tileAt a
  let c := t.causeNow
  if c = 0 then
    if (t.sel[3]).toNat % 256 = 0 then
      let limit := (t.sel[3]).toNat / 2 ^ 32
      let s := if limit = 0 then s else s.onTile a fun t => { t with stmr := s.tick + limit * 65536 }
      (s.replayRequest a, 0)
    else (s, 0)
  else if c = 0x0A then (s.onTile a fun t => t.setTrapOff ((t.sel[1]).extractLsb' 32 32), 0)
  else if c = 0x17 then (s, 0)
  else if c = 0x16 then (s, if s.limitOf t = 0 then 0 else 2)
  else (s.dieRecord a, 2)

/-- One turn of the built-in supervisor (R433). -/
def State.shippedSupervisor (s : State) (a : Nat) : State :=
  let t := s.tileAt a
  if !t.canIssue s.tick then s
  else
    match t.natAt with
    | none => s.supBegin a
    | some n =>
      if s.tick < n ∨ !s.supMay a then s
      else
        let r := s.supEnd a
        let gang := (s.quadAt a).ganged
        r.1.onTile a fun t => ({ t with natAt := none } : Tile).leave s.tick gang r.2

end Sys2Proof.Machine
end

