-- ==== Sys2Proof/Machine/Control.lean ====
section
/-! DEFINITION. `ctl` and `cf`: transfers, the repetition buffer, idling, halting, trapping, gangs, configuration (R144 to R158, R167 to R173). -/

namespace Sys2Proof.Machine

/-! ## Transfers (Table 7.1) -/

/-- A transfer to Bits(ctl.a, 31, 0); `call` writes `ctl.x` with the offset of the bundle that follows (R144). -/
def transfer (call : Bool) : Spec :=
  { sock := .ctl, opnd := some .opA, run := fun st i =>
      let i := if call then landNext st { x := some (st.next.setWidth 512) } i else i
      .ok { i with ctl := .jump (st.a.setWidth 32) call } }

def specJmp : Spec := transfer false
def specJmpr : Spec := transfer false
def specCall : Spec := transfer true
def specCallr : Spec := transfer true
def specRet : Spec := transfer false

def execJmp (h : Head) (s : State) : Host.Outcome State Fault Refusal := issueOne (.jmp h) specJmp s
def execJmpr (h : Head) (s : State) : Host.Outcome State Fault Refusal := issueOne (.jmpr h) specJmpr s
def execCall (h : Head) (s : State) : Host.Outcome State Fault Refusal := issueOne (.call h) specCall s
def execCallr (h : Head) (s : State) : Host.Outcome State Fault Refusal := issueOne (.callr h) specCallr s
def execRet (h : Head) (s : State) : Host.Outcome State Fault Refusal := issueOne (.ret h) specRet s

/-! ## The repetition buffer -/

/-- The level that a `ctl.loop` opens, from Table 7.2. -/
def levelOf (st : Start) : Level :=
  { start := st.next, len := bits st.a.toNat 4 0, count := 0, bound := bits st.b.toNat 31 0,
    step := signExt st.c.toNat 32, stagger := bits st.a.toNat 7 5,
    mask := BitVec.ofNat 16 (bits st.a.toNat 23 8), pass := 0, loopx := false }

/-- `ctl.loop` (R148). -/
def specLoop : Spec :=
  { sock := .ctl, opnd := some .opC, run := fun st i =>
      let l := levelOf st
      let t := i.st.self
      let q := i.st.quadAt i.st.cur
      let c := i.st.codeTile i.st.cur
      let after := afterBundles q c st.bank l.len l.start.toNat
      let levels := (t.bank st.bank).levels
      let beyond : Bool := match levels.getLast? with
        | some o => decide (afterBundles q c st.bank o.len o.start.toNat < after)
        | none => false
      if l.len = 0 ∨ 16 < l.len then .error (.trap .loopNest 0 0)
      else if 2 ≤ levels.length ∨ beyond then .error (.trap .loopNest 0 0)
      else if l.bound = 0 then .ok { i with ctl := .skip (BitVec.ofNat 32 after) }
      else .ok { i with ctl := .openLevel l } }

/-- `ctl.loopx` (R151). -/
def specLoopx : Spec := { sock := .ctl, opnd := none, run := fun _ i => .ok { i with ctl := .loopx } }

def execLoop (h : Head) (s : State) : Host.Outcome State Fault Refusal := issueOne (.loop h) specLoop s
def execLoopx (h : Head) (s : State) : Host.Outcome State Fault Refusal := issueOne (.loopx h) specLoopx s

/-! ## Idling, halting and trapping -/

/-- `ctl.idle` (R153). -/
def specIdle : Spec :=
  { sock := .ctl, opnd := some .opA, run := fun st i => .ok { i with ctl := .idle (bits st.a.toNat 31 0) } }

/-- `ctl.halt` (R154). -/
def specHalt : Spec := { sock := .ctl, opnd := none, run := fun _ i => .ok { i with ctl := .halt } }

/-- A cause of `ctl.trap` or `ctl.brk`, raised after every other move of the bundle (R155, R413). -/
def trapCause (st : Start) (c : Cause) (now : Nat) : Pending :=
  { bank := st.bank, cause := c, kind := .trigger, code := st.a.setWidth 16, bus := some st.bus,
    origin := st.origin, seq := st.seq, since := now }

/-- `ctl.trap` (R155). -/
def specTrap : Spec :=
  { sock := .ctl, opnd := some .opA, run := fun st i =>
      .ok { i with ctl := .raise (trapCause st .trapInstruction i.st.tick) } }

/-- Is the debug enable of a tile set in its die's debug window (R442)? -/
def State.debugEnabled (s : State) (a : Nat) : Bool := s.debugOn.contains (dieOf a, s.physTile a)

/-- `ctl.brk` (R155). -/
def specBrk : Spec :=
  { sock := .ctl, opnd := some .opA, run := fun st i =>
      if i.st.debugEnabled i.st.cur then .ok { i with ctl := .raise (trapCause st .debug i.st.tick) } else .ok i }

def execIdle (h : Head) (s : State) : Host.Outcome State Fault Refusal := issueOne (.idle h) specIdle s
def execHalt (h : Head) (s : State) : Host.Outcome State Fault Refusal := issueOne (.halt h) specHalt s
def execTrap (h : Head) (s : State) : Host.Outcome State Fault Refusal := issueOne (.trap h) specTrap s
def execBrk (h : Head) (s : State) : Host.Outcome State Fault Refusal := issueOne (.brk h) specBrk s

/-! ## Gangs -/

/-- The other three tiles of the served tile's quad. -/
def quadMates (s : State) : List Nat :=
  [quadOf s.cur, quadOf s.cur + 1, quadOf s.cur + 2, quadOf s.cur + 3].filter fun m => m ≠ s.cur

/-- `ctl.gang` (R156, R158): illegal outside timetabled bank0 or with a tile of role none; the bundle waits until it is ready on all four tiles, which then issue it on one tick (`meetGang`). -/
def specGang : Spec :=
  { sock := .ctl, opnd := some .opA, run := fun st i =>
      let s := i.st
      let t := s.self
      let mates := quadMates s
      if t.tasked ∨ st.bank ≠ 0 ∨ t.role.isNone ∨ mates.any (fun m => (s.tileAt m).role.isNone) then
        .error (.trap .illegalBundle 0 0)
      else if (s.quadAt s.cur).ganged then .ok i
      else if mates.any (fun m => ((s.tileAt m).bank 0).life == .halted) then .error (.trap .illegalBundle 0 0)
      else if t.gangGo then .ok { i with ctl := .gang }
      else .error .gangWait }

/-- `ctl.split` (R157). -/
def specSplit : Spec :=
  { sock := .ctl, opnd := some .opA, run := fun _ i =>
      if (i.st.quadAt i.st.cur).ganged then .ok { i with ctl := .split } else .ok i }

def execGang (h : Head) (s : State) : Host.Outcome State Fault Refusal := issueOne (.gang h) specGang s
def execSplit (h : Head) (s : State) : Host.Outcome State Fault Refusal := issueOne (.split h) specSplit s

/-! ## Configuration -/

/-- A `cf` operation that returns a value; it refused no write (R167). -/
def cfRead (f : Start → State → Bus) : Spec :=
  { sock := .cf, opnd := none, run := fun st i => .ok (landNext st { x := some (f st i.st) } i) }

/-- `cf.rdcyc` (R168). -/
def specRdcyc : Spec := cfRead fun _ s => BitVec.ofNat 512 (s.tick % 2 ^ 64)

/-- `cf.fmt` (R169, Table 7.11). -/
def specFmt : Spec :=
  { sock := .cf, opnd := some .opA, run := fun st i =>
      let i := landNext st { x := some (st.fmt.setWidth 512) } i
      if st.a.getLsbD 63 then .ok i
      else .ok { i with st := i.st.onSelf fun t => t.onBank st.bank fun b =>
        { b with fmtPend := st.a.setWidth 13, fmtLeft := 3, fmtDue := false } } }

/-- The functional socket of a number that has a pipeline mode which `cf.mode` may write (R170). -/
def modeSock (n : Nat) : Option Sock :=
  match sockOf n with
  | some s => if s.noMode || s.always then none else some s
  | none => none

/-- A socket's mode byte in MODEMAP form (R35); zero for one without a mode. -/
def modeByte (t : Tile) (n : Nat) : Nat :=
  match sockOf n with
  | some s => if s.noMode then 0 else (t.locked s).toNat + 4 * (t.lock.getLsbD s.num).toNat
  | none => 0

/-- `cf.mode` (R170): the mode of the socket changes at the end of the bundle (R132). -/
def specMode : Spec :=
  { sock := .cf, opnd := some .opA, run := fun st i =>
      let t := i.st.self
      let n := bits st.a.toNat 13 8
      let x : Bus := BitVec.ofNat 512 (modeByte t n)
      if st.a.getLsbD 63 then .ok (landNext st { x := some x } i)
      else if st.bank ≠ 3 ∧ n < 23 ∧ t.lock.getLsbD n then .error (.trap .privilegedPort 0 (BitVec.ofNat 64 n))
      else
        match modeSock n with
        | none => .ok (landNext st { x := some x, s := 1 } i)
        | some s =>
          let i := landNext st { x := some x } i
          if t.locked s = st.a.getLsbD 0 then .ok i
          else .ok { i with mode := some (s, st.a.getLsbD 0) } }

/-- `cf.dom` (R171). -/
def specDom (lev : BitVec 3) : Spec :=
  cfRead fun _ s => match s.self.dom.toList[lev.toNat]? with | some v => v.setWidth 512 | none => 0

/-- `cf.tid` (R171). -/
def specTid (k : BitVec 4) : Spec :=
  cfRead fun _ s => match s.self.tid.toList[k.toNat]? with | some v => v.setWidth 512 | none => 0

/-- `cf.flags` (R172). -/
def specFlags : Spec :=
  { sock := .cf, opnd := some .opA, run := fun st i =>
      let i := landNext st { x := some (((i.st.self).bank st.bank).flags.setWidth 512) } i
      .ok { i with st := i.st.onSelf fun t => t.onBank st.bank fun b =>
        { b with flags := b.flags &&& ~~~(st.a.setWidth 6) } } }

/-- `cf.sleepd` (R173). -/
def specSleepd : Spec :=
  { sock := .cf, opnd := some .opA, run := fun st i =>
      let x : Bus := (i.st.self).sleepd.setWidth 512
      if st.a.getLsbD 63 then .ok (landNext st { x := some x } i)
      else if bits st.a.toNat 1 0 = 3 then .ok (landNext st { x := some x, s := 1 } i)
      else
        let i := landNext st { x := some x } i
        .ok { i with st := i.st.onSelf fun t => { t with sleepd := st.a.setWidth 2 } } }

def execRdcyc (h : Head) (s : State) : Host.Outcome State Fault Refusal := issueOne (.rdcyc h) specRdcyc s
def execFmt (h : Head) (s : State) : Host.Outcome State Fault Refusal := issueOne (.fmt h) specFmt s
def execMode (h : Head) (s : State) : Host.Outcome State Fault Refusal := issueOne (.mode h) specMode s
def execDom (h : Head) (lev : BitVec 3) (s : State) : Host.Outcome State Fault Refusal :=
  issueOne (.dom h lev) (specDom lev) s
def execTid (h : Head) (k : BitVec 4) (s : State) : Host.Outcome State Fault Refusal :=
  issueOne (.tid h k) (specTid k) s
def execFlags (h : Head) (s : State) : Host.Outcome State Fault Refusal := issueOne (.flags h) specFlags s
def execSleepd (h : Head) (s : State) : Host.Outcome State Fault Refusal := issueOne (.sleepd h) specSleepd s

/-- A move without a trigger (R121): a null move, or a transport to a register or an operand port. -/
def execMove (m : Transport) (s : State) : Host.Outcome State Fault Refusal := issueMove (.move m) s

end Sys2Proof.Machine
end

