-- ==== Sys2Proof/Machine/Sync.lean ====
section
/-! DEFINITION. The socket `sy`: bells, tag waits, semaphores, barrier objects, triggering, fencing (R343 to R361). -/

namespace Sys2Proof.Machine

/-! ## Triggers -/

/-- A `sy` operation is queued; `hold` stops the strand's next bundle (R348). -/
def syQueue (st : Start) (i : Issue) (o : DlOp) (hold : Bool) : Except Stop Issue :=
  .ok { i with st := enqueue st i.st { o with hold := hold } }

/-- A semaphore or barrier operation: it will leave for its unit. -/
def unitQueue (st : Start) (i : Issue) (o : DlOp) : Except Stop Issue :=
  let id := (i.st.self).nextOp
  let s := enqueue st i.st { o with hold := o.kind.isAcq }
  .ok { i with st := s.sched 1 none .atomicArrival { tile := s.cur, op := id, yes := true } }

/-- Does a timetable send to a tile outside the tile's quad or cluster (R346)? -/
def Tile.sendsBeyond (t : Tile) (lev : BitVec 3) : Bool :=
  match t.armed with
  | none => false
  | some n =>
    match t.timetables.find? fun x => x.num = n with
    | none => false
    | some tt => tt.sends.any fun e =>
        let col := bits t.addr 10 10 * 12 + bits t.addr 5 2
        let row := bits t.addr 11 11 * 9 + bits t.addr 9 6
        let col' := (col : Int) + e.dc
        let row' := (row : Int) + e.dr
        if lev = 0 then e.dc ≠ 0 || e.dr ≠ 0
        else col' / 12 ≠ ((col / 12 : Nat) : Int) || row' / 9 ≠ ((row / 9 : Nat) : Int)

/-- `bell` and `bellx` (R343, R346, R349). -/
def bellSpec (k : OpKind) (lev : BitVec 3) (run : Bool) : Spec :=
  { sock := .sy, opnd := none, run := fun st i =>
      if st.bank ≠ 0 then .error (.trap .illegalBundle 0 0)
      else if run ∧ lev.toNat ≤ 1 ∧ (i.st.self).sendsBeyond lev then .error (.trap .exchangeFault 0 0)
      else syQueue st i (newOp st k false 0) true }

def specBell (lev : BitVec 3) : Spec := bellSpec (.bell lev) lev true
def specBellx (lev : BitVec 3) : Spec := bellSpec (.bellx lev) lev false

/-- `wany`, `wall`, `wffr` (R350). -/
def waitSpec (k : OpKind) : Spec :=
  { sock := .sy, opnd := some .opA, run := fun st i => syQueue st i (newOp st k true 0) k.isAcq }

def specWany (m : MMod) : Spec := waitSpec (.wany m)
def specWall (m : MMod) : Spec := waitSpec (.wall m)
def specWffr (m : MMod) : Spec := waitSpec (.wffr m)

/-- `tclr` (R351). -/
def specTclr : Spec :=
  { sock := .sy, opnd := some .opA, run := fun st i => syQueue st i (newOp st .tclr false 0) false }

/-- `sig`, `swait`, `sdec` (R352). -/
def semSpec (k : OpKind) (wx : Bool) : Spec :=
  { sock := .sy, opnd := some .opB, run := fun st i =>
      if busBits st.a 54 0 % 8 ≠ 0 then .error (faultAt .misaligned (busBits st.a 54 0))
      else unitQueue st i (newOp st k wx 0) }

def specSig (m : MMod) : Spec := semSpec (.sig m) false
def specSwait (m : MMod) : Spec := semSpec (.swait m) true
def specSdec (m : MMod) : Spec := semSpec (.sdec m) true

/-- Barrier operations (R356). -/
def barSpec (k : OpKind) (wx : Bool) : Spec :=
  { sock := .sy, opnd := some .opB, run := fun st i =>
      let n := busBits st.b 31 0
      if busBits st.a 54 0 % 32 ≠ 0 then .error (faultAt .misaligned (busBits st.a 54 0))
      else if k = .binit ∧ (n = 0 ∨ 4096 < n) then .error (faultAt .semRange (busBits st.a 54 0))
      else unitQueue st i (newOp st k wx 0) }

def specBinit : Spec := barSpec .binit false
def specArrive (m : MMod) : Spec := barSpec (.arrive m) true
def specDrop (m : MMod) : Spec := barSpec (.drop m) false
def specBwait (m : MMod) : Spec := barSpec (.bwait m) true

/-- `sy.trig` (R360). -/
def specTrig : Spec :=
  { sock := .sy, opnd := none, run := fun st i => syQueue st i (newOp st .trig false 0) false }

/-- `sy.fence` (R361). -/
def specFence (m : MMod) : Spec :=
  { sock := .sy, opnd := none, run := fun st i => syQueue st i (newOp st (.fence m) false 0) true }

def execBell (h : Head) (l : BitVec 3) (s : State) : Host.Outcome State Fault Refusal := issueOne (.bell h l) (specBell l) s
def execBellx (h : Head) (l : BitVec 3) (s : State) : Host.Outcome State Fault Refusal := issueOne (.bellx h l) (specBellx l) s
def execWany (h : Head) (m : MMod) (s : State) : Host.Outcome State Fault Refusal := issueOne (.wany h m) (specWany m) s
def execWall (h : Head) (m : MMod) (s : State) : Host.Outcome State Fault Refusal := issueOne (.wall h m) (specWall m) s
def execWffr (h : Head) (m : MMod) (s : State) : Host.Outcome State Fault Refusal := issueOne (.wffr h m) (specWffr m) s
def execTclr (h : Head) (s : State) : Host.Outcome State Fault Refusal := issueOne (.tclr h) specTclr s
def execSig (h : Head) (m : MMod) (s : State) : Host.Outcome State Fault Refusal := issueOne (.sig h m) (specSig m) s
def execSwait (h : Head) (m : MMod) (s : State) : Host.Outcome State Fault Refusal := issueOne (.swait h m) (specSwait m) s
def execSdec (h : Head) (m : MMod) (s : State) : Host.Outcome State Fault Refusal := issueOne (.sdec h m) (specSdec m) s
def execBinit (h : Head) (s : State) : Host.Outcome State Fault Refusal := issueOne (.binit h) specBinit s
def execArrive (h : Head) (m : MMod) (s : State) : Host.Outcome State Fault Refusal := issueOne (.arrive h m) (specArrive m) s
def execDrop (h : Head) (m : MMod) (s : State) : Host.Outcome State Fault Refusal := issueOne (.drop h m) (specDrop m) s
def execBwait (h : Head) (m : MMod) (s : State) : Host.Outcome State Fault Refusal := issueOne (.bwait h m) (specBwait m) s
def execTrig (h : Head) (s : State) : Host.Outcome State Fault Refusal := issueOne (.trig h) specTrig s
def execFence (h : Head) (m : MMod) (s : State) : Host.Outcome State Fault Refusal := issueOne (.fence h m) (specFence m) s

/-! ## Order -/

/-- Is the operation one of the accesses of R361: `dm`, `sy` semaphores and barriers, the source reads of `nt` and `kn`? A `msg` reads no source. -/
def DlOp.isAccess (o : DlOp) : Bool :=
  match o.kind with
  | .get _ | .put _ | .getp _ | .putp _ | .fill _ | .gld _ | .gst _ | .gatom _ _ | .gcas _
  | .sig _ | .swait _ | .sdec _ | .binit | .arrive _ | .drop _ | .bwait _
  | .push _ | .mig | .kpart | .kattn | .kfin => true
  | _ => false

/-- Is it a read or a wait (R361, order `.acq`)? A `put` reads its local source. -/
def DlOp.isRead (o : DlOp) : Bool :=
  match o.kind with
  | .gst _ | .binit => false
  | .wany _ | .wall _ | .wffr _ => true
  | _ => o.isAccess

/-- Has an access been performed for a fence or a release: completed, or, where it is a source read, its whole source read (R361)? -/
def DlOp.accessDone (o : DlOp) (now : Nat) : Bool :=
  match o.kind with
  | .push _ | .kpart | .kattn | .kfin => o.isPerformed
  | .mig => o.st != .queued
  | _ => o.isDone now

/-- May the operation be performed by the order of `sy`: it is a wait, or earlier ones that are no waits have been performed (R348)? -/
def Tile.syOrder (t : Tile) (o : DlOp) : Bool :=
  o.kind.isWait || (t.earlier o).all fun p => p.sock != .sy || p.kind.isWait || p.isPerformed

/-- May the operation leave for its unit: it is its turn, and a release has every earlier access behind it (R348, R353)? -/
def Tile.syReady (t : Tile) (now : Nat) (o : DlOp) : Bool :=
  t.syOrder o && !t.digestFull o && (t.earlier o).all fun p => !o.kind.isRel || !p.isAccess || p.accessDone now

/-- ATOMIC_ARRIVAL: a `sy` operation leaves for its unit (`yes`), or the unit of a die takes the first request at its input (R289, R352). -/
def execAtomicArrival (s : State) : Host.Outcome State Fault Refusal :=
  if s.ev.yes then
    let a := s.ev.tile
    match s.op? a s.ev.op with
    | none => .next s
    | some o =>
      (match o.st with
       | .queued | .active =>
         if (s.tileAt a).syReady s.tick o then .next (s.tryAccess a o .atomicArrival)
         else .next (s.sched 1 none .atomicArrival { tile := a, op := o.id, yes := true })
       | .pending _ | .refused _ | .waiting | .performed | .stopped => .next s)
  else .next (s.unitTake s.ev.die)

/-! ## Tag waits -/

/-- Does the condition of a tag wait hold (R350)? -/
def Tile.waitHolds (t : Tile) (o : DlOp) : Bool :=
  let m : Dword := Bus.low o.a
  o.st == .queued &&
    match o.kind with
    | .wany _ | .wffr _ => m == 0 || m &&& t.tags != 0
    | .wall _ => m &&& t.tags == m
    | _ => false

/-- The lowest index set. -/
def lowestBit (v : Dword) : Nat := ((List.range 64).find? fun k => v.getLsbD k).getD 64

/-- A tag wait completes; its result lands on the next tick at the earliest (R350). -/
def Tile.waitDone (t : Tile) (now : Nat) (o : DlOp) : Tile :=
  let m : Dword := Bus.low o.a
  let hit := m &&& t.tags
  let (x, t) : Dword × Tile := match o.kind with
    | .wany _ => (hit, t)
    | .wffr _ => if m = 0 then (64, t) else (BitVec.ofNat 64 (lowestBit hit), t.clearTag (lowestBit hit))
    | _ => (m, t)
  t.putOp { o with st := .performed, due := now + 1, res := some { x := some (x.setWidth 512), s := syStatus o false (m == 0) false true } }

/-- TAG_WAIT_COMPLETE (R350). -/
def execTagWaitComplete (s : State) : Host.Outcome State Fault Refusal :=
  match s.op? s.ev.tile s.ev.op with
  | none => .next s
  | some o => if (s.tileAt s.ev.tile).waitHolds o then .next (s.onTile s.ev.tile fun t => t.waitDone s.tick o) else .next s

/-- The first tag wait that completes now. -/
def Tile.dueWait (t : Tile) : Option DlOp := t.queue.find? fun o => t.waitHolds o

/-- `tclr` at the head of the queue clears its tags at the start of a tick, so that an engine's set in the tick stands (R351). -/
def Tile.tclrTick (t : Tile) (now : Nat) : Tile :=
  match t.queue.find? fun o => o.kind == .tclr && o.st == .queued && t.syReady now o with
  | none => t
  | some o =>
    let t : Tile := { t with tags := t.tags &&& ~~~(Bus.low o.a) }
    t.putOp { o with st := .performed, due := now, res := some { s := syStatus o false false false true } }

/-! ## Triggering and fencing -/

/-- May a `sy.trig` or `sy.fence` be performed now (R360, R361)? -/
def Tile.syncReady (t : Tile) (now : Nat) (o : DlOp) : Bool :=
  let ps := t.earlier o
  o.st == .queued &&
    match o.kind with
    | .trig => t.syReady now o && ps.all fun p => (match p.kind with | .gst _ => p.isPerformed | _ => true)
    | .fence m =>
      t.syOrder o &&
        if m.order = .acq then ps.all fun p => !p.isRead || p.accessDone now
        else ps.all fun p => !p.isAccess || p.accessDone now
    | _ => false

/-- The first `sy.trig` or `sy.fence` that can be performed. -/
def Tile.dueSync (t : Tile) (now : Nat) : Option DlOp := t.queue.find? fun o => t.syncReady now o

/-- It is performed; a fence's next bundle issues on the next tick (R360, R361). -/
def Tile.syncDone (t : Tile) (now : Nat) (o : DlOp) : Tile :=
  let t := match o.kind with
    | .trig => if o.bank = 0 then t.onBank 0 fun b => { b with triggered := true } else t
    | _ => t
  t.putOp { o with st := .performed, due := if o.kind = .trig then now else now + 1,
                   res := some { s := syStatus o false false false true } }

/-! ## Bells (R343 to R345) -/

/-- Is the tile halted under R444? -/
def Tile.haltedAll (t : Tile) : Bool :=
  t.role.isNone || ((t.bank 0).life == .halted && t.run != 3)

/-- Level of a bell. -/
def DlOp.bellLevel (o : DlOp) : Option (BitVec 3) :=
  match o.kind with
  | .bell l | .bellx l => some l
  | _ => none

/-- May the tile ring (R343, R344)? A pre-emption request stops it (R435). -/
def Tile.ringable (t : Tile) (now : Nat) (o : DlOp) : Bool :=
  o.bellLevel.isSome && o.st == .queued && !o.rung && !t.preReq && !t.frozen
    && (t.earlier o).all fun p =>
      match p.kind with
      | .put _ | .putp _ | .gst _ | .gatom _ _ | .gcas _ => p.isPerformed
      | _ => p.sock != .sy || p.isDone now

def Tile.dueRing (t : Tile) (now : Nat) : Option DlOp := t.queue.find? fun o => t.ringable now o

/-- The launch of a tile has rung a bell on this tick (R32). -/
def State.noteRing (s : State) (t : Tile) : State :=
  { s with sch := { s.sch with launches := s.sch.launches.map fun l => if some l.id = t.launch then { l with lastRing := s.tick } else l } }

/-- BELL_RING (R343). -/
def execBellRing (s : State) : Host.Outcome State Fault Refusal :=
  let a := s.ev.tile
  match s.op? a s.ev.op with
  | none => .next s
  | some o =>
    if (s.tileAt a).ringable s.tick o then .next ((s.putOp a { o with rung := true }).noteRing (s.tileAt a)) else .next s

/-- Do two addresses lie in one part of the module at a level (R80)? -/
def sameDomainAt (lev : BitVec 3) (a b : Nat) : Bool :=
  if lev = 0 then quadOf a == quadOf b
  else if lev = 1 then clusterOf a == clusterOf b
  else if lev = 2 then dieOf a == dieOf b
  else true

/-- The tiles of a domain that stand in the module (R80): those of a cluster that has been saved, or not been restored yet, are not among them. -/
def State.domain (s : State) (t : Tile) (lev : BitVec 3) : List Tile :=
  s.tiles.filter fun u => u.launch == t.launch && u.launch.isSome && u.role.isSome && sameDomainAt lev u.addr t.addr

/-- Members of a domain whose tile serves another launch by now; their strands have halted (R118). -/
def State.leftMembers (s : State) (t : Tile) (lev : BitVec 3) : Nat :=
  (s.tiles.filter fun u => u.launch != t.launch && sameDomainAt lev u.addr t.addr &&
    (match t.launch.bind u.prevOf with
     | some v => (v.dom[3]).toNat / 2 ^ 32 != 0
     | none => false)).length

/-- Members of the tile's domain in this module (R80): at L4 those of the L3 domain. -/
def Tile.memberCount (t : Tile) (lev : BitVec 3) : Nat := (t.dom.toList.getD (min lev.toNat 3) 0).toNat / 2 ^ 32

/-- A period boundary: a bell at L3 or L4 completes on the tile. A launch of pre-emption class 1 whose request has reached every tile halts there, before its next bundle, and with it the tiles that ring no bell: those of role none and those that have halted (R347). -/
def State.periodEnd (s : State) (a : Nat) (o : DlOp) : State :=
  let t := s.tileAt a
  let shared : Bool := match o.bellLevel with | some lev => decide (3 ≤ lev.toNat) | none => false
  if shared && t.prePeriod && s.tiles.all (fun u => u.launch != t.launch || u.prePeriod || u.preReq) then
    let go (u : Tile) : Tile := { u with preReq := true, prePeriod := false }
    let s := s.onTile a go
    { s with tiles := s.tiles.map fun u => if u.launch = t.launch && u.prePeriod && u.haltedAll then go u else u }
  else s

/-- The bell of a tile that has rung at a level and has not been released. -/
def Tile.rungAt (t : Tile) (lev : BitVec 3) : Option DlOp :=
  t.queue.find? fun o => o.bellLevel == some lev && o.rung && o.st == .queued

/-- Has every member of the tile's domain in this module rung at the level, or halted (R343)? A member that is saved still has to ring (R349, R362). -/
def State.allRung (s : State) (t : Tile) (lev : BitVec 3) : Bool :=
  decide (t.memberCount lev ≤ (s.domain t lev).length + s.leftMembers t lev)
    && (s.domain t lev).all fun u => (u.rungAt lev).isSome || u.haltedAll

/-- Does the domain reach other modules: an L4 group (R82)? -/
def Tile.spansModules (t : Tile) (lev : BitVec 3) : Bool :=
  lev == 4 && t.dom[4].toNat / 2 ^ 32 != t.dom[3].toNat / 2 ^ 32

/-- Idle ticks that power capping inserts at a bell of a domain on some dies (R32): a free number while the cap is not met there. -/
def State.capIdle (s : State) (dies : List Nat) : Nat :=
  if dies.any s.capped.contains then Config.delay (s.free + 1) else 0

/-- The first bell of the tile that can be released by what this module knows. -/
def State.dueRelease (s : State) (t : Tile) : Option DlOp :=
  t.queue.find? fun o =>
    match o.bellLevel with
    | some lev => o.rung && o.st == .queued && !t.spansModules lev && s.allRung t lev
    | none => false

/-- BELL_RELEASE: W is fixed for every member, at most 64 ticks later on one die and 600 across dies, at L4 a free number of ticks later; capping adds idle ticks, but none to a launch with a request pending (R345, R32, R435). At L4 across modules the agenda tells that the members elsewhere have rung. -/
def execBellRelease (s : State) : Host.Outcome State Fault Refusal :=
  let t := s.tileAt s.ev.tile
  match t.op? s.ev.op with
  | none => .next s
  | some o =>
    match o.bellLevel with
    | none => .next s
    | some lev =>
      if !(o.rung && o.st == .queued && s.allRung t lev) then .next s
      else
        let ms := s.domain t lev
        let die1 := ms.all fun u => dieOf u.addr == dieOf t.addr
        let d := if lev = 4 then Config.delay s.free else Config.delay s.free % (if die1 then 64 else 600)
        let asked := ms.any fun u => u.preReq || u.prePeriod
        let w := s.tick + 1 + d + (if asked then 0 else s.capIdle (ms.map fun u => dieOf u.addr))
        let s := ms.foldl (fun s u =>
          match u.rungAt lev with
          | some p => s.putOp u.addr { p with st := .waiting, val := w }
          | none => s) s
        .next { s with free := s.free + 2 }

end Sys2Proof.Machine
end

