-- ==== Sys2Proof/Machine/Exchange.lean ====
section
/-! DEFINITION. The socket `nt`: timetabled windows, routed packets, landing zones; Eutas packets (R296 to R322). -/

namespace Sys2Proof.Machine

/-- Tile address from die, die column, die row and tile-in-quad (R74, R75). -/
def tileAddr (die col row t : Nat) : Nat :=
  die * 4096 + (2 * (row / 9) + col / 12) * 1024 + row % 9 * 64 + col % 12 * 4 + t

/-! ## Seats: the tiles of a shape (R36, R80) -/

/-- A tile of the shape on its placement: address, shape die, quad row, quad column, tile-in-quad, role. -/
structure Seat where
  addr : Nat
  sdie : Nat
  sqr : Nat
  sqc : Nat
  stq : Nat
  role : Option Nat
deriving DecidableEq, Repr

/-- The seats of a launch in shape position order (R80). -/
def Launch.seats (l : Launch) : List Seat :=
  (l.place.zipIdx.map fun p =>
    (List.range l.img.rows).flatMap fun r => (List.range l.img.cols).flatMap fun c => (List.range 4).map fun t =>
      let n := l.img.map.getD (((p.2 * l.img.rows + r) * l.img.cols + c) * 4 + t) 0xFF
      ({ addr := tileAddr p.1.1 (p.1.2.2 + c) (p.1.2.1 + r) t, sdie := p.2, sqr := r, sqc := c, stq := t,
         role := if n = 0xFF then none else some n } : Seat)).flatten

/-! ## Landing zones (R307 to R312) -/

/-- len_k (R307). -/
def Zone.chunkLen (z : Zone) (k : Nat) : Nat := min 512 (z.size - 512 * k)

def Zone.numChunks (z : Zone) : Nat := (z.size + 511) / 512

def Tile.zone (t : Tile) (n : Nat) : Zone := t.zones[n % 16]'(Nat.mod_lt n (by decide))
def Tile.setZone (t : Tile) (n : Nat) (z : Zone) : Tile := { t with zones := t.zones.set (n % 16) z (Nat.mod_lt n (by decide)) }

/-- Is every chunk at its expected count (R308, R309)? -/
def Zone.complete (z : Zone) : Bool :=
  z.chunks.zipIdx.all fun x =>
    if z.mode = 0 then x.1.count == z.chunkLen x.2 else x.1.next == z.c

/-- Physical bytes of a zone from an offset on (LIN). -/
def Zone.span (z : Zone) (off n : Nat) : List Nat := (List.range n).map fun k => z.base + off + k

/-- On completion the zone sets its tag and closes (R312); bytes the strand stored to meanwhile are unspecified (R236). -/
def Tile.zoneDone (t : Tile) (n : Nat) : Tile :=
  let z := t.zone n
  if z.isOpen && z.complete then
    { (t.setZone n { z with isOpen := false, touched := [] }).setTag z.tag.toNat with unspec := t.unspec ++ z.touched }
  else t

/-- One element summed by the rules of R309. -/
def zoneAdd (mode : BitVec 2) (x y : Nat) : Nat :=
  if mode = 1 then (fAdd .f32 .rne x y).code
  else if mode = 2 then (fAdd .bf16 .rne x y).code
  else (x + y) % 2 ^ 32

/-- Width of an element in bytes. -/
def zoneElem (mode : BitVec 2) : Nat := if mode = 2 then 2 else 4

/-- Sums new bytes onto old ones, element by element. -/
def zoneSum (mode : BitVec 2) : Nat → List Byte → List Byte → List Byte
  | 0, _, _ => []
  | n + 1, old, new =>
    let w := zoneElem mode
    if new.isEmpty then []
    else natLe (zoneAdd mode (leNat (old.take w)) (leNat (new.take w))) w ++ zoneSum mode n (old.drop w) (new.drop w)

/-- Applies bytes of a chunk's next rank (R309): the first rank's are stored bit for bit unless keep is 1. A sum reads the bytes it replaces, which it gives with the tile; nothing is summed onto an uncorrectable word, which stays as it is (R216). -/
def Tile.zoneApply (t : Tile) (z : Zone) (first : Bool) (off : Nat) (bs : List Byte) : Tile × List Nat :=
  let ps := z.span off bs.length
  if first && !z.keep then (t.engineWrite (ps.zip bs), [])
  else
    let bs := zoneSum z.mode bs.length (ps.map (cellsRead t.sram)) bs
    (t.engineWrite ((ps.zip bs).filter fun x => !t.bad.contains (x.1 / 8)), ps)

def countOf (q : Nat) (l : List (Nat × Nat)) : Nat := match l.find? fun e => e.1 = q with | some e => e.2 | none => 0
def addCount (q n : Nat) (l : List (Nat × Nat)) : List (Nat × Nat) := putKeyed q (countOf q l + n) l

/-- The chunk moves on past every rank whose bytes are complete, applying what is held (R310); `read` are the bytes read by sums. -/
def Tile.zoneAdvance (t : Tile) (z : Zone) (len : Nat) (read : List Nat) : Nat → Chunk → Tile × List Nat × Chunk
  | 0, c => (t, read, c)
  | fuel + 1, c =>
    if c.next < z.c ∧ c.nextCount = len then
      let c : Chunk := { c with next := c.next + 1, nextCount := countOf (c.next + 1) c.later,
                                later := c.later.filter fun e => e.1 ≠ c.next + 1 }
      let mine := c.held.filter fun h => h.1 = c.next
      let x := mine.foldl (fun (x : Tile × List Nat) h => let y := x.1.zoneApply z false h.2.1 h.2.2; (y.1, x.2 ++ y.2)) (t, read)
      Tile.zoneAdvance x.1 z len x.2 fuel { c with held := c.held.filter fun h => h.1 ≠ c.next }
    else (t, read, c)

/-- Bank of the first destination line of a packet (R214, R310). -/
def zoneBank (z : Zone) (off : Nat) : Nat := bits (z.base + off) 8 6

/-- Bytes held in the reorder buffer of a bank. -/
def Tile.heldBytes (t : Tile) (bank : Nat) : Nat :=
  (t.zones.toList.map fun z => (z.chunks.map fun c =>
    ((c.held.filter fun h => zoneBank z h.2.1 = bank).map fun h => h.2.2.length).sum).sum).sum

/-- What a zone does with a packet. -/
inductive Landing where
  /-- counted; the bytes of the zone that its sums have read -/
  | accepted (t : Tile) (read : List Nat)
  /-- refused with a hint -/
  | refused (hint : Nat)
  | overflow

/-- A packet of `n` bytes for an open zone (R308 to R311). -/
def Tile.landPacket (t : Tile) (n : Nat) (level rank off : Nat) (bs : List Byte) : Landing :=
  let z := t.zone n
  let k := off / 512
  let c := z.chunks.getD k {}
  let len := z.chunkLen k
  if z.size < off + bs.length then .overflow
  else if z.mode = 0 then
    if len < c.count + bs.length then .overflow
    else
      let t := t.engineWrite ((z.span off bs.length).zip bs)
      .accepted ((t.setZone n { z with chunks := z.chunks.set k { c with count := c.count + bs.length } }).zoneDone n) []
  else
    let q := rank - z.rankBase
    if level ≠ z.level ∨ rank < z.rankBase ∨ z.c ≤ q ∨ off % 4 ≠ 0 then .overflow
    else
      let had := if q < c.next then len else if q = c.next then c.nextCount else countOf q c.later
      if len < had + bs.length then .overflow
      else if q = c.next then
        let x := t.zoneApply z (q = 0) off bs
        let c : Chunk := { c with count := c.count + bs.length, nextCount := c.nextCount + bs.length }
        let r := x.1.zoneAdvance z len x.2 (z.c + 1) c
        .accepted ((r.1.setZone n { z with chunks := z.chunks.set k r.2.2 }).zoneDone n) r.2.1
      else if 8192 < t.heldBytes (zoneBank z off) + bs.length then .refused 64
      else
        let c : Chunk := { c with count := c.count + bs.length, later := addCount q bs.length c.later,
                                  held := c.held ++ [(q, off, bs)] }
        .accepted (t.setZone n { z with chunks := z.chunks.set k c }) []

/-- A zone closed with its held packets discarded (R311, R319). -/
def Zone.shut (z : Zone) : Zone := { z with isOpen := false, chunks := z.chunks.map fun c => { c with held := [] } }

/-- A packet overflows its zone: it is discarded, the zone closes, its strand takes LANDING_OVERFLOW (R311). -/
def State.zoneOverflow (s : State) (a n : Nat) : State :=
  let z := (s.tileAt a).zone n
  let s := s.onTile a fun t =>
    { ((t.clearTag z.tag.toNat).setZone n z.shut) with
        unspec := if z.mode = 0 then t.unspec ++ z.touched else t.unspec ++ z.span 0 z.size }
  let s := { s with eutas := { s.eutas with overflows := min (s.eutas.overflows + 1) (2 ^ 32 - 1) } }
  s.lateCause a { bank := z.bank, cause := .landingOverflow, kind := .late, origin := z.origin, seq := z.seq,
                  detail := BitVec.ofNat 64 n, since := s.tick, task := z.task }

/-! ## Packets (R303 to R306) -/

def Tile.domReg (t : Tile) (l : Nat) : Dword := t.dom.toList.getD l 0

/-- The tiles of a launch. -/
def State.launchTiles (s : State) (l : Dword) : List Tile := s.tiles.filter fun t => t.launch == some l

/-- Has every strand of the launch halted (R447)? -/
def State.launchHalted (s : State) (l : Dword) : Bool := (s.launchTiles l).all Tile.haltedAll

def State.dropPacket (s : State) (id : Nat) : State := { s with packets := s.packets.filter fun p => p.id ≠ id }

/-- The receiver is done with a packet: one of a peer is answered. -/
def State.packetDone (s : State) (p : Packet) : State :=
  let s := s.dropPacket p.id
  match p.peer with
  | some (m, n) => s.eutasSend m (.answer n 0 0 0 false) none
  | none => s

/-- A receiver refuses a packet with a hint (R306, Table 13.7): its sender counts the refusal and sends it again after the hint. -/
def State.packetRefused (s : State) (p : Packet) (h : Nat) : State :=
  let s := s.countRef
  match p.peer with
  | some (m, n) => (s.dropPacket p.id).eutasSend m (.refused n h) none
  | none =>
    let s := match p.src with
      | some (a, id) =>
        (match s.op? a id with
         | some o => s.putOp a { o with refusals := o.refusals + 1 }
         | none => s)
      | none => s
    { s with agenda := s.agenda ++ [(s.tick + h, .packetRetry, { packet := p.id })] }

def State.discardPacket (s : State) (p : Packet) : State :=
  { s.packetDone p with cnt := { s.cnt with disc := s.cnt.disc + 1 } }

/-- Puts a packet into the fabric; it arrives after a free time, within a bound where one is given. -/
def State.sendWithin (s : State) (by_ : Option Nat) (p : Packet) : State :=
  let p : Packet := { p with id := s.nextPacket }
  let i : Instr := if p.ctx then .contextArrival else if p.task.isSome then .messageAccept else .packetArrival
  State.sched { s with packets := s.packets ++ [p], nextPacket := s.nextPacket + 1 } 1 by_ i
    { packet := p.id, tile := p.dst }

def State.sendPacket (s : State) (p : Packet) : State := s.sendWithin none p

/-- What the launch of a tile leaves in it when another is switched in (R118). -/
def Tile.leftAs (t : Tile) (l : Dword) : PrevLaunch :=
  { launch := l, dom := t.dom, zones := t.zones, kslots := t.kslots, tags := t.tags, rings := t.rings, mxq := t.mxq
    kgens := t.kgens, knotices := t.knotices }

/-- Operations of the launch `l`, and those of the launch that holds the tile, as `l` sees them. -/
def DlOp.seenBy (l : Dword) (cur : Option Dword) (o : DlOp) : DlOp :=
  if o.old = some l then { o with old := none } else if o.old.isNone then { o with old := cur } else o

/-- The same back again. -/
def DlOp.seenFrom (l : Dword) (cur : Option Dword) (o : DlOp) : DlOp :=
  if o.old.isNone then { o with old := some l } else if o.old = cur then { o with old := none } else o

/-- The tile as an earlier launch left it: its strands have halted. `older` are the launches before it. -/
def Tile.asLeft (t : Tile) (v : PrevLaunch) (older : List PrevLaunch) : Tile :=
  let halted : Strand := { life := .halted }
  { t with
    launch := some v.launch, dom := v.dom, zones := v.zones, kslots := v.kslots, tags := v.tags, rings := v.rings, mxq := v.mxq
    kgens := v.kgens, knotices := v.knotices, queue := t.queue.map (DlOp.seenBy v.launch t.launch)
    banks := #v[halted, halted, halted, t.bank 3], run := 0, frozen := false, prevs := older }

/-- Does something to a tile as the launch `l` left it there, where another launch has been switched in since (R118). -/
def State.asPrev (s : State) (a : Nat) (l : Dword) (f : State → State) : State :=
  let t0 := s.tileAt a
  let other (v : PrevLaunch) : Bool := v.launch != l
  match (if t0.launch = some l then [] else t0.prevs.dropWhile other) with
  | [] => f s
  | v :: older =>
    let s := f (s.setTile (t0.asLeft v older))
    let t := s.tileAt a
    s.setTile { t with
      launch := t0.launch, dom := t0.dom, zones := t0.zones, kslots := t0.kslots, tags := t0.tags, rings := t0.rings, mxq := t0.mxq
      kgens := t0.kgens, knotices := t0.knotices, queue := t.queue.map (DlOp.seenFrom l t0.launch)
      banks := t0.banks, run := t0.run, frozen := t0.frozen, prevs := t0.prevs.takeWhile other ++ t.leftAs l :: t.prevs }

/-- The tiles of a launch, those it was switched out of as it left them (R118). -/
def State.viewTiles (s : State) (l : Dword) : List Tile :=
  s.tiles.filterMap fun t => if t.launch = some l then some t else (t.prevOf l).map fun v => t.asLeft v []

/-- Does the tile run in its launch: it has members of its L3 domain (R80, R81)? -/
def Tile.runs (t : Tile) : Bool := (t.domReg 3).toNat / 2 ^ 32 != 0

/-- The tile of an L4 rank in the launch of a tile: on this module the launch's seats in their order, those of dies onto which it is still to be switched among them (R80, R81, R117). -/
def State.rankAddr (s : State) (t : Tile) (rank : Nat) : Option Nat :=
  match (s.viewTiles t.launchId).find? fun u => u.runs && u.rank4 == rank with
  | some u => some u.addr
  | none =>
    let base := t.rank4 - (t.domReg 3).toNat % 2 ^ 32
    if rank < base then none
    else (s.sch.launches.find? fun l => l.id = t.launchId).bind fun l => ((l.seats.filter fun x => x.role.isSome)[rank - base]?).map fun x => x.addr

/-- Is the launch saved, or being restored (R321, R436)? -/
def State.launchHeld (s : State) (l : Dword) : Bool :=
  s.sch.launches.any fun x => x.id == l && (x.phase == .saved || (x.phase == .placing && x.restoring))

/-- Hint of a receiver that is not there now: its launch is saved or being restored, or its cluster is saved and others are still to be (R306, R436); or the launch is still to be switched onto it, so that its zones are not open (R117, R306). -/
def State.absentHint (s : State) (l : Dword) (t : Tile) : Option Nat :=
  let away (f : Phase) : Bool :=
    t.launch != some l && (t.prevOf l).isNone && s.sch.launches.any fun x => x.id == l && x.phase == f
  if s.launchHeld l || away .preempting then some 4096 else if away .staged then some 256 else none

/-- A sum has read bytes of a zone: single-bit errors are corrected; the strand of the zone takes DATA_UNCORRECTABLE for a word that cannot be (R216; DESIGN CHOICE, log 97). -/
def State.zoneRead (s : State) (a n : Nat) (read : List Nat) : State :=
  let z := (s.tileAt a).zone n
  let s := s.correct a read
  if (s.tileAt a).badWords read then
    s.lateCause a { bank := z.bank, cause := .dataUncorrectable, kind := .late, origin := z.origin, seq := z.seq, since := s.tick,
                    task := z.task, where_ := (s.tileAt a).firstBad read }
  else s

/-- A packet reaches its tile (R306 to R311, R321, R447, R450). -/
def State.packetLands (p : Packet) (s : State) : State :=
  let t := s.tileAt p.dst
  match s.absentHint p.launch t with
  | some h => s.packetRefused p h
  | none =>
  if t.launch ≠ some p.launch then s.discardPacket p
  else if t.frozen then s.packetRefused p 4096
  else if !(t.zone p.zone).isOpen then
    if s.launchHalted p.launch then s.discardPacket p else s.packetRefused p 256
  else
    match t.landPacket p.zone p.level p.rank p.off p.data with
    | .accepted _ read =>
      let s := s.zoneRead p.dst p.zone read
      let t := match (s.tileAt p.dst).landPacket p.zone p.level p.rank p.off p.data with
        | .accepted t _ => t
        | .refused _ | .overflow => s.tileAt p.dst
      State.packetDone { s.setTile t with cnt := { s.cnt with xbytes := s.cnt.xbytes + BitVec.ofNat 64 p.data.length } } p
    | .refused h => s.packetRefused p h
    | .overflow => (s.zoneOverflow p.dst p.zone).packetDone p

/-- PACKET_ARRIVAL at the tile of the packet's zone. -/
def execPacketArrival (s : State) : Host.Outcome State Fault Refusal :=
  match s.packets.find? fun p => p.id = s.ev.packet with
  | none => .next s
  | some p => .next (s.asPrev p.dst p.launch (State.packetLands p))

/-! ## Triggers -/

/-- An operation of `nt` is queued; the engine takes it in its order. -/
def ntQueue (st : Start) (i : Issue) (o : DlOp) : Except Stop Issue :=
  let s := match o.tag with
    | some n => i.st.onSelf fun t => t.clearTag n.toNat
    | none => i.st
  let id := (s.self).nextOp
  let s := enqueue st s o
  let s : State := match o.kind with
    | .push _ => s.sched 1 (if o.rest.isEmpty then some 0 else none) .packetRetry { tile := s.cur, op := id, yes := true }
    | .msg | .mig => s.sched 1 none .packetRetry { tile := s.cur, op := id, yes := true }
    | _ => s
  .ok { i with st := s }

/-- `ttarm` (R316). -/
def specTtarm (k : BitVec 4) : Spec :=
  { sock := .nt, opnd := none, run := fun st i =>
      let t := i.st.self
      if t.tasked ∨ !(t.timetables.any fun x => x.num = k.toNat) then .error (.trap .exchangeFault 0 0)
      else ntQueue st i { newOp st .ttarm false 0 with val := k.toNat } }

/-- Is an L4 rank on a module that cannot be reached, or no member at all (R317, R320)? -/
def rankCheck (s : State) (t : Tile) (rank : Nat) : Except Stop Unit :=
  if t.dom[4].toNat / 2 ^ 32 ≤ rank then .error (.trap .protectionFault 0 0)
  else if (s.rankAddr t rank).isSome then .ok ()
  else
    let m := Config.moduleOf t.launchId rank
    if t.spansModules 4 ∧ !s.peerUp m then .error (.trap .peerUnreachable 0 (BitVec.ofNat 64 m)) else .ok ()

/-- Packet boundaries of a push: starts within it (R304). -/
def packetStarts (off n : Nat) : List Nat :=
  if n = 0 then []
  else (List.range ((off + n + 511) / 512 - off / 512)).map fun k => if k = 0 then 0 else (off / 512 + k) * 512 - off

/-- `push` and `pushp` (R317). -/
def pushSpec (pat : Bool) : Spec :=
  { sock := .nt, opnd := some .opC, run := fun st i =>
      let l := busBits st.b 31 0
      let off := busBits st.a 58 40
      let pn := busBits st.c 28 24
      let p := if pat then (i.st.self).pattern pn else none
      let n := match p with | some p => p.count * 2 ^ p.esize | none => busBits st.c 19 0
      let misP : Bool := match p with | some p => p.count != 0 && !p.aligned l | none => false
      let out : Bool := match p with | some p => p.count != 0 && !p.inLocal l | none => n != 0 && decide (0x60000 < l + n)
      let t := i.st.self
      if pat ∧ p.isNone then .error (patternFault pn)
      else if misP then .error (faultAt .misaligned l)
      else if (!pat && l % 4 != 0) ∨ n % 4 ≠ 0 ∨ off % 4 ≠ 0 then .error (faultAt .misaligned l)
      else if out ∨ 0x60000 < off + n then .error (faultAt .localRange l)
      else if 4 < busBits st.c 42 40 then .error (.trap .exchangeFault 0 0)
      else
        match rankCheck i.st t (busBits st.a 31 0) with
        | .error e => .error e
        | .ok _ => ntQueue st i { newOp st (.push pat) false 0 with
            tag := some (dmTagOf st.c), pat := p, rest := packetStarts off n } }

def specPush : Spec := pushSpec false
def specPushp : Spec := pushSpec true

/-- `land` (R318). -/
def specLand : Spec :=
  { sock := .nt, opnd := some .opC, run := fun st i =>
      let base := busBits st.a 31 0
      let size := busBits st.a 63 32
      let c := busBits st.b 15 0
      let mode := busBits st.b 17 16
      let level := if mode = 0 then 0 else busBits st.b 22 20
      let rb := if mode = 0 then 0 else busBits st.b 63 32
      let count := ((i.st.self).domReg level).toNat / 2 ^ 32
      if base % 64 ≠ 0 ∨ size = 0 ∨ size % 4 ≠ 0 then .error (faultAt .misaligned base)
      else if 0x60000 < base + size then .error (faultAt .localRange base)
      else if c = 0 ∨ (mode = 0 ∧ c ≠ 1) ∨ 4 < level ∨ 5 < busBits st.c 18 16 ∨ count < rb + c then
        .error (.trap .exchangeFault 0 0)
      else ntQueue st i (newOp st .land false 0) }

/-- `lclose` (R319). -/
def specLclose : Spec :=
  { sock := .nt, opnd := some .opA, run := fun st i => ntQueue st i (newOp st .lclose true 0) }

/-- `msg` (R320). -/
def specMsg : Spec :=
  { sock := .nt, opnd := some .opC, run := fun st i =>
      let t := i.st.self
      if !t.tasked then .error (.trap .exchangeFault 0 0)
      else
        match rankCheck i.st t (busBits st.a 31 0) with
        | .error e => .error e
        | .ok _ => ntQueue st i (newOp st .msg false 0) }

/-- `mig` (R320). -/
def specMig : Spec :=
  { sock := .nt, opnd := some .opC, run := fun st i =>
      let t := i.st.self
      let l := busBits st.b 31 0
      if !t.tasked then .error (.trap .exchangeFault 0 0)
      else if l % 16 ≠ 0 then .error (faultAt .misaligned l)
      else if 0x60000 < l + 272 then .error (faultAt .localRange l)
      else
        match rankCheck i.st t (busBits st.a 31 0) with
        | .error e => .error e
        | .ok _ => ntQueue st i { newOp st .mig false 0 with tag := some (dmTagOf st.c) } }

def execTtarm (h : Head) (k : BitVec 4) (s : State) : Host.Outcome State Fault Refusal := issueOne (.ttarm h k) (specTtarm k) s
def execPush (h : Head) (s : State) : Host.Outcome State Fault Refusal := issueOne (.push h) specPush s
def execPushp (h : Head) (s : State) : Host.Outcome State Fault Refusal := issueOne (.pushp h) specPushp s
def execLand (h : Head) (s : State) : Host.Outcome State Fault Refusal := issueOne (.land h) specLand s
def execLclose (h : Head) (s : State) : Host.Outcome State Fault Refusal := issueOne (.lclose h) specLclose s
def execMsg (h : Head) (s : State) : Host.Outcome State Fault Refusal := issueOne (.msg h) specMsg s
def execMig (h : Head) (s : State) : Host.Outcome State Fault Refusal := issueOne (.mig h) specMig s

/-! ## The engine -/

/-- Is the operation at the head of its socket's queue: those of its launch before it have been taken and done with (R118, R315, R334)? -/
def Tile.atHead (t : Tile) (o : DlOp) : Bool :=
  t.queue.all fun p => !(p.sock == o.sock && p.old == o.old && decide (p.id < o.id)) || p.isPerformed || p.st == .waiting

/-- Packets of a tile that the engine holds, in bytes (R305). -/
def State.heldFor (s : State) (a : Nat) : Nat :=
  ((s.packets.filter fun p => match p.src with | some (b, _) => b == a | none => false).map fun p => p.data.length).sum

/-- The status word of `nt` (Table 13.7). -/
def ntStatus (o : DlOp) (part noz : Bool) : Dword :=
  BitVec.ofNat 64 (o.refBits + part.toNat * 4 + noz.toNat * 2 + 1)

/-- The source has been read: the tag is set, the slot freed (R305). -/
def State.pushDone (s : State) (a : Nat) (o : DlOp) : State :=
  (s.onTile a fun t => match o.tag with | some n => t.setTag n.toNat | none => t).putOp a
    { o with st := .performed, due := s.tick, res := some { s := ntStatus o false false } }

/-- The body that carries a packet to another module, in the address space of its sender. -/
def Packet.body (p : Packet) (asid : Half) : EutasBody :=
  if p.ctx ∨ p.task.isSome then .message asid p.toRank p.task p.rank p.data
  else .push asid p.toRank p.zone p.off p.level p.rank p.data

/-- A packet leaves for another module; it stays with its engine until the receiver has accepted it (R305). -/
def State.awaySend (s : State) (p : Packet) (m : Nat) : State :=
  let asid : Half := match p.src with | some (a, _) => (s.tileAt a).asid | none => 0
  s.eutasSend m (p.body asid) (some (.packet p.id))

/-- Sends a packet to the tile of an L4 rank, here or on another module (R303, R304, R320). -/
def State.rankSend (s : State) (a : Nat) (o : DlOp) (rank : Nat) (p : Packet) : State :=
  let t := s.tileAt a
  match s.rankAddr t rank with
  | some u => s.sendPacket { p with dst := u }
  | none =>
    let m := Config.moduleOf t.launchId rank
    let p : Packet := { p with id := s.nextPacket, toRank := rank, away := some m, report := some (o.pending .peerUnreachable 0 m s.tick) }
    State.awaySend { s with packets := s.packets ++ [p], nextPacket := s.nextPacket + 1 } p m

/-- Is an L4 rank on another module that cannot be reached (R313, R317)? -/
def State.rankLost (s : State) (t : Tile) (rank : Nat) : Option Nat :=
  if (s.rankAddr t rank).isSome then none
  else
    let m := Config.moduleOf t.launchId rank
    if t.spansModules 4 ∧ !s.peerUp m then some m else none

/-- Sends a piece of a push (R303, R304). -/
def State.pushSend (s : State) (a : Nat) (o : DlOp) (start : Nat) (bs : List Byte) : State :=
  let t := s.tileAt a
  let level := busBits o.c 42 40
  s.rankSend a o (busBits o.a 31 0)
    { id := 0, launch := t.launchId, src := some (a, o.id), dst := noTile, zone := busBits o.a 35 32,
      off := busBits o.a 58 40 + start, level := level, rank := (t.domReg level).toNat % 2 ^ 32, data := bs
      strand := some (o.bank, o.task) }

/-- Has every packet of the earlier pushes of the strand been counted at its zone, or ended (R306, R317, R333)? -/
def State.pushesDone (s : State) (a : Nat) (o : DlOp) : Bool :=
  s.packets.all fun p => !(p.strand == some (o.bank, o.task) && (match p.src with | some (b, id) => b == a && decide (id < o.id) | none => false))

/-- May the push's source be read: at the head, behind the earlier operations on the same local bytes (R373), and with rel = 1 behind every earlier `dm`, `nt` and `kn` operation (R317, R374)? -/
def State.pushReady (s : State) (a : Nat) (o : DlOp) : Bool :=
  let t := s.tileAt a
  t.atHead o && t.localReady o
    && (!o.c.getLsbD 44
        || (s.pushesDone a o && (t.earlier o).all fun p => !(p.sock == .dm || p.sock == .nt || p.sock == .kn) || p.isDone s.tick))

/-- The engine reads the next packet of a push, or waits for room (R304, R305). A push of no bytes sends nothing and sets its tag at once (R317). -/
def State.pushStep (s : State) (a : Nat) (o : DlOp) : State :=
  let look (s : State) : State := s.sched 1 none .packetRetry { tile := a, op := o.id, yes := true }
  if o.pushLen = 0 then s.pushDone a o
  else if !s.pushReady a o then look s
  else
    match o.rest with
    | [] => s.pushDone a o
    | start :: rest =>
      let n := (rest.headD o.pushLen) - start
      if 65536 < s.heldFor a + n then look s
      else
        let ps := (o.pushSpan.drop start).take n
        match s.rankLost (s.tileAt a) (busBits o.a 31 0) with
        | some m => s.engineFault a o .peerUnreachable 0 m
        | none =>
        if (s.tileAt a).badWords ps then s.engineFault a o .dataUncorrectable ((s.tileAt a).firstBad ps) 0
        else
          let r := s.sramRead a ps
          let s := r.2.pushSend a o start r.1
          let o : DlOp := { o with rest := rest, st := .active }
          if rest.isEmpty then s.pushDone a o else look (s.putOp a o)

/-- An earlier message of the strand to the same tile has not been accepted yet (R320). -/
def Tile.msgBehind (t : Tile) (o : DlOp) : Bool :=
  (t.earlier o).any fun p => (p.kind == .msg || p.kind == .mig) && busBits p.a 31 0 == busBits o.a 31 0 && !p.isPerformed

/-- The engine sends a task message or a context (R320). -/
def State.msgStep (s : State) (a : Nat) (o : DlOp) : State :=
  let t := s.tileAt a
  if !t.atHead o || t.msgBehind o then s.sched 1 none .packetRetry { tile := a, op := o.id, yes := true }
  else
    let rank := busBits o.a 31 0
    let p : Packet := { id := 0, launch := t.launchId, src := some (a, o.id), dst := noTile, zone := 0, off := 0, level := 4,
                        rank := t.rank4, data := [] }
    match s.rankLost t rank with
    | some m => s.engineFault a o .peerUnreachable 0 m
    | none =>
      if o.kind = .msg then
        (s.putOp a { o with st := .waiting }).rankSend a o rank
          { p with data := natLe (busBits o.b 63 0) 8 ++ natLe (busBits o.c 63 0) 8, task := some (busBits o.a 47 32) }
      else
        let ps := (List.range 272).map (busBits o.b 31 0 + ·)
        if t.badWords ps then s.engineFault a o .dataUncorrectable (t.firstBad ps) 0
        else
          let r := s.sramRead a ps
          let s := r.2.onTile a fun t => match o.tag with | some n => t.setTag n.toNat | none => t
          (s.putOp a { o with st := .waiting }).rankSend a o rank { p with data := r.1, ctx := true }

/-- The operation of an accepted message frees its slot (Table 13.6). -/
def State.msgAccepted (s : State) (p : Packet) : State :=
  let s := s.packetDone p
  match p.src with
  | some (a, id) =>
    (match s.op? a id with
     | some o => s.putOp a { o with st := .performed, due := s.tick, res := some { s := ntStatus o false false } }
     | none => s)
  | none => s

/-- `ttarm`, `land` and `lclose` are performed on the tick after they reach the head (R315). -/
def State.ntTick (s : State) (a : Nat) : State :=
  let t := s.tileAt a
  match t.queue.find? fun o => o.old.isNone && (o.kind == .ttarm || o.kind == .land || o.kind == .lclose) && o.st == .queued && t.atHead o with
  | none => s
  | some o =>
    let done (t : Tile) (r : Res) : Tile := t.putOp { o with st := .performed, due := s.tick + 1, res := some r }
    match o.kind with
    | .ttarm => s.onTile a fun t => done { t with armed := some o.val } { s := ntStatus o false false }
    | .land =>
      let n := busBits o.c 3 0
      if (t.zone n).isOpen then s.engineFault a { o with tag := none } .exchangeFault 0 0
      else
        let mode : BitVec 2 := BitVec.ofNat 2 (busBits o.b 17 16)
        let z : Zone :=
          { isOpen := true, base := busBits o.a 31 0, size := busBits o.a 63 32, mode := mode, c := busBits o.b 15 0,
            level := busBits o.b 22 20, rankBase := busBits o.b 63 32, keep := o.b.getLsbD 18,
            tag := BitVec.ofNat 6 (busBits o.c 13 8),
            scope := [Scope.tile, .quad, .cluster, .die, .module, .system].getD (busBits o.c 18 16) .system,
            bank := o.bank, origin := o.origin, seq := o.seq, task := o.task }
        let z : Zone := { z with chunks := List.replicate z.numChunks {} }
        s.onTile a fun t => done ((t.clearTag z.tag.toNat).setZone n z) { s := ntStatus o false false }
    | _ =>
      let n := busBits o.a 3 0
      let z := t.zone n
      if z.isOpen then
        let x := (z.chunks.map fun c => c.count).sum
        s.onTile a fun t => done
          { ((t.clearTag z.tag.toNat).setZone n z.shut) with
              unspec := if z.mode = 0 then t.unspec ++ z.touched else t.unspec ++ z.span 0 z.size }
          { x := some (BitVec.ofNat 512 x), s := ntStatus o true false }
      else s.onTile a fun t => done t { x := some 0, s := ntStatus o false true }

/-! ## Windows (R299 to R302) -/

/-- First tile address of a tile's domain (R80, R323). -/
def domOf (a level : Nat) : Nat :=
  if level = 0 then quadOf a else if level = 1 then a / 1024 * 1024 else if level = 2 then a / 4096 * 4096 else 0

/-- Tiles of the domain of a value whose rank lies in a range. -/
def State.ranked (s : State) (k : KPart) (lo hi : Nat) : List Tile :=
  (s.viewTiles k.launch).filter fun t =>
    t.runs && domOf t.addr k.par.level == k.dom &&
      (let r := (t.domReg k.par.level).toNat % 2 ^ 32
       decide (k.par.rankBase + lo ≤ r) && decide (r < k.par.rankBase + hi))

/-- The tiles between which a value's collective sends: its contributors and its destination. -/
def State.kilnEnds (s : State) (k : KPart) : List Nat :=
  ((s.ranked k 0 k.par.c).map (·.addr))
    ++ ((s.viewTiles k.launch).filter fun t => t.runs && (t.domReg 3).toNat % 2 ^ 32 == k.par.dstRank).map (·.addr)

/-- Is a link between two dies on the paths of a value's collective (R327)? -/
def State.dieLinkOf (s : State) (link : Nat × Nat) (k : KPart) : Bool :=
  let ds := ((s.kilnEnds k).map dieOf).eraseDups
  ds.any fun a => ds.any fun b => a != b && Config.usesLink a b link

/-- Does an exchange window of a tile run on links of a value's collective: on a mesh between its quads (R327)? -/
def State.windowOn (s : State) (a : Nat) (k : KPart) : Bool :=
  let es := s.kilnEnds k
  (es.any fun b => dieOf b == dieOf a) && decide (1 < (es.map quadOf).eraseDups.length)

/-- Something hinders the kiln traffic of some collectives: the bound of R327 holds for them no more. -/
def State.kilnHinder (s : State) (f : KPart → Bool) : State :=
  let off (k : KPart) : KPart := if f k then { k with until_ := none } else k
  { s with kiln := s.kiln.map off, kilnAir := s.kilnAir.map off }

/-- WINDOW_START at W: the member runs its armed timetable, or its bell completes (R299, R345, R347). -/
def execWindowStart (s : State) : Host.Outcome State Fault Refusal :=
  let a := s.ev.tile
  let t := s.tileAt a
  match t.queue.find? fun o => o.bellLevel.isSome && o.st == .waiting && decide (o.val ≤ s.tick) with
  | none => .next s
  | some o =>
    let tt : Option Timetable := match o.kind, t.armed with
      | .bell _, some n => t.timetables.find? fun (x : Timetable) => x.num = n
      | _, _ => none
    match tt with
    | some tt =>
      .next ((s.onTile a fun t => { t.putOp { o with st := .active } with
        window := some { w := s.tick, len := tt.window, tt := tt.num } }).kilnHinder (s.windowOn a))
    | none => .next ((s.putOp a { o with st := .performed, due := s.tick, res := some { s := syStatus o false false false true } }).periodEnd a o)

/-- Position of a tile on the die grid (R75). -/
def dieCol (a : Nat) : Nat := 12 * bits a 10 10 + bits a 5 2
def dieRow (a : Nat) : Nat := 9 * bits a 11 11 + bits a 9 6

/-- The tile a send reaches (R297). -/
def sendDst (a : Nat) (e : Send) : Nat :=
  tileAddr (dieOf a) ((dieCol a : Int) + e.dc).toNat ((dieRow a : Int) + e.dr).toNat e.t

/-- Length of a route in mesh links (R297). -/
def sendHops (e : Send) : Nat := e.dc.natAbs + e.dr.natAbs

/-- A beat on its way: tick at which it is written, receiver, first, last, bytes, and which of its bytes are good. -/
structure Beat where
  at_ : Nat
  dst : Nat
  first : Bool
  last : Bool
  data : List (Byte × Bool)
deriving DecidableEq, Repr

/-- What an ingress keeps while a window runs: the address of the next beat of the open transfer. -/
structure Ingress where
  tile : Nat
  next : Option Nat := none
  fault : Option Nat := none
  bad : Bool := false
  /-- beat words corrected -/
  corr : Nat := 0
deriving DecidableEq, Repr

/-- Which bytes of a beat are good: those of a beat word of 8 bytes none of which comes from an uncorrectable source word (R301). -/
def beatGood (bad : List Nat) (ps : List Nat) : List Bool :=
  (List.range ps.length).map fun k => ((ps.drop (k / 8 * 8)).take 8).all fun p => !bad.contains (p / 8)

/-- The beat that a tile's send entries put on its egress at a tick of the window (R300). -/
def Tile.egressAt (t : Tile) (tt : Timetable) (τ : Nat) : List Beat :=
  tt.sends.filterMap fun e =>
    let b := (e.len + 63) / 64
    if e.off ≤ τ ∧ τ < e.off + b then
      let j := τ - e.off
      let ps := (List.range (min 64 (e.len - 64 * j))).map (e.addr + 64 * j + ·)
      some { at_ := τ + 6 + 2 * sendHops e, dst := sendDst t.addr e, first := j == 0, last := j + 1 == b,
             data := (ps.map (cellsRead t.sram)).zip (beatGood t.bad ps) }
    else none

def Ingress.faultAt (g : Ingress) (τ : Nat) : Ingress := { g with fault := some (match g.fault with | some x => min x τ | none => τ) }

/-- Upsets of a beat on its way are met at the ingress: words corrected are counted, others are not good (R296, R439). -/
def meetUpsets (us : List (Nat × Nat × Bool)) (b : Beat) (g : Ingress) : Beat × Ingress :=
  let lost (k : Nat) : Bool := us.any fun u => u.2.1 == k / 8 && u.2.2
  ({ b with data := b.data.zipIdx.map fun x => (x.1.1, x.1.2 && !lost x.2) },
   { g with corr := g.corr + (us.filter fun u => !u.2.2 && decide (8 * u.2.1 < b.data.length)).length })

/-- A beat reaches the ingress at offset τ and is written two ticks later (R300, R301). -/
def ingressBeat (tt : Timetable) (τ : Nat) (b : Beat) (g : Ingress) (t : Tile) : Ingress × Tile :=
  let m := meetUpsets (t.beatUpset.filter fun u => u.1 == τ) b g
  let b := m.1
  let g := m.2
  let write (d : Nat) (t : Tile) : Tile :=
    t.engineWrite ((b.data.zipIdx.filter fun x => x.1.2).map fun x => (d + x.2, x.1.1))
  let spoiled : Bool := b.data.any fun x => !x.2
  let go (d : Nat) (g : Ingress) : Ingress × Tile :=
    ({ g with next := if b.last then none else some (d + 64), bad := g.bad || spoiled }, write d t)
  if b.first then
    match tt.arrives.find? fun e => e.off = τ + 2 with
    | some e => go e.addr g
    | none => ({ g with next := none }.faultAt τ, t)
  else
    match g.next with
    | some d => go d g
    | none => (g.faultAt τ, t)

/-- The exchange of a die under way: beats in the air, ingresses, and the tiles that a beat has reached while no window of theirs runs. -/
structure Exch where
  st : State
  air : List Beat := []
  gs : List Ingress := []
  strays : List Nat := []

/-- One tick of the running windows of a die: beats leave, and beats are written (R297, R300). -/
def Exch.tick (x : Exch) (ms : List (Nat × Timetable)) (τ : Nat) : Exch :=
  let air := x.air ++ ms.flatMap fun m => (x.st.tileAt m.1).egressAt m.2 τ
  let now := air.filter fun b => b.at_ = τ
  let open_ := ms.filter fun m => decide (τ < m.2.window + 2)
  let strays := (now.filter fun b => !(open_.any fun m => m.1 == b.dst)).map (·.dst)
  open_.foldl (fun (x : Exch) m =>
    let beats := now.filter fun b => b.dst = m.1
    let g := (x.gs.find? fun g => g.tile = m.1).getD { tile := m.1 }
    let y := beats.foldl (fun (y : Ingress × Tile) b => ingressBeat m.2 (τ - 2) b y.1 y.2) (g, x.st.tileAt m.1)
    let g := if m.2.arrives.any (fun e => e.off == τ) && !(beats.any fun b => b.first) then y.1.faultAt (τ - 2) else y.1
    { x with st := x.st.setTile y.2, gs := g :: x.gs.filter fun g => g.tile ≠ m.1 })
    { x with air := air.filter fun b => b.at_ ≠ τ, strays := x.strays ++ strays }

/-- The whole exchange of the windows that share a tick W on a die, tick by tick. -/
def Exch.run (ms : List (Nat × Timetable)) : Nat → Nat → Exch → Exch
  | 0, _, x => x
  | n + 1, τ, x => Exch.run ms n (τ + 1) (x.tick ms τ)

/-- An exchange fault at a tile is counted, and recorded (R301, R440, R441). -/
def State.countExch (s : State) (a : Nat) : State :=
  let s := { s with eutas := { s.eutas with xfaults := min (s.eutas.xfaults + 1) (2 ^ 32 - 1) } }
  (s.countErr a fun e => { e with exch := e.exch + 1 }).record 6 .exchangeFault 6 (s.mtile a) 0 (s.tileAt a).launchId

/-- The first end among windows of one W on a die performs their exchange (R302). A beat at a tile of which no window runs, or none any more, is a fault that is counted and that no strand takes (R301; DESIGN CHOICE, log 98). -/
def State.exchange (s : State) (w die : Nat) : State :=
  let ms := s.tiles.filterMap fun t =>
    match t.window with
    | some x => if x.w = w ∧ !x.ran ∧ dieOf t.addr = die then
        ((t.timetables.find? fun tt => tt.num = x.tt).map fun tt => (t.addr, tt)) else none
    | none => none
  let len := (ms.map fun m => m.2.window).foldl max 0
  let r := Exch.run ms (len + 2) 0 { st := s }
  let s := ms.foldl (fun s m =>
    let g := (r.gs.find? fun g => g.tile = m.1).getD { tile := m.1 }
    let g := if g.next.isSome then g.faultAt m.2.window else g
    let s := if g.corr = 0 then s else (s.countErr m.1 fun e => { e with corr := e.corr + g.corr }).corrected g.corr 6 (s.mtile m.1)
    s.onTile m.1 fun t =>
      { t with window := t.window.map fun x => { x with ran := true, fault := g.fault, bad := g.bad }, beatUpset := [] }) r.st
  r.strays.eraseDups.foldl State.countExch s

/-- WINDOW_END at W + Λ: the bell completes; an exchange fault or an uncorrectable beat is delivered (R299, R301, R302, R347). -/
def execWindowEnd (s : State) : Host.Outcome State Fault Refusal :=
  let a := s.ev.tile
  match (s.tileAt a).window with
  | none => .next s
  | some x =>
    if s.tick < x.w + x.len then .next s
    else
      let s := if x.ran then s else s.exchange x.w (dieOf a)
      let x := (s.tileAt a).window.getD x
      let t := s.tileAt a
      match t.queue.find? fun o => o.bellLevel.isSome && o.st == .active with
      | none => .next (s.onTile a fun t => { t with window := none })
      | some o =>
        let s := s.onTile a fun t => { t.putOp { o with st := .performed, due := s.tick,
                                                        res := some { s := syStatus o false false false true } } with window := none }
        let s := s.periodEnd a o
        let s := match x.fault with
          | none => s
          | some τ =>
            let s := s.countExch a
            if x.bad then s
            else s.lateCause a (o.pending .exchangeFault 0 (τ % 65536 + x.tt * 65536) s.tick)
        .next (if x.bad then s.lateCause a (o.pending .dataUncorrectable 0 6 s.tick) else s)

/-! ## Requests on pages (R294, R386) -/

def pageBytes (big : Bool) : Nat := if big then 2 ^ 29 else 2 ^ 16

/-- A request ends with a status (R294). -/
def State.migEnd (s : State) (w : Requester) (status : Nat) : State :=
  { s with migSlots := putSlot { findSlot w s.migSlots with status := status } s.migSlots, migs := s.migs.filter fun m => m.who ≠ w }

def State.putMig (s : State) (m : MigReq) : State := { s with migs := m :: s.migs.filter fun x => x.who ≠ m.who }

def State.migNext (s : State) (m : MigReq) (step : Nat) : State :=
  (s.putMig { m with step := step, dropped := false, asked := false, waits := [] }).sched 1 none .migrationStep { who := m.who }

/-- A peer has sent the bytes of the old frame of a migration: they are written to the new one (R386, step 3). -/
def State.copyBytes (s : State) (w : Requester) (x : Nat) : State :=
  match s.migs.find? fun m => m.who = w with
  | none => s
  | some m => (s.gWrite (m.newFrame * 2 ^ 16) (natLe x (pageBytes m.big))).migNext m 4

/-- The bytes of the old frame cannot be had: the words of the copy are uncorrectable (DEDUCED, log 16). -/
def State.copyLost (s : State) (w : Requester) : State :=
  match s.migs.find? fun m => m.who = w with
  | none => s
  | some m =>
    let n := pageBytes m.big / 8
    let at_ := m.newFrame * 8192
    State.migNext { s with
      badMem := (List.range n).map (at_ + ·) ++ s.badMem.filter fun x => !(decide (at_ ≤ x) && decide (x < at_ + n)) } m 4

/-! ## Loss of a peer (R313, R389) -/

/-- The strand of a packet to a lost module takes PEER_UNREACHABLE: its operation ends, or, when that has freed its slot, the cause alone is delivered (R313, R277). -/
def State.lostPacket (s : State) (p : Packet) : State :=
  match p.src, p.report with
  | some (a, id), some r =>
    if (s.tileAt a).launch = some p.launch then
      match (s.op? a id).filter fun o => !o.isPerformed with
      | some o => s.engineFault a o .peerUnreachable 0 r.detail.toNat
      | none => s.lateCause a { r with since := s.tick }
    else if ((s.tileAt a).prevOf p.launch).isSome then (s.noteCause a r).tileRecord 10 a r.cause r.detail.toNat 0 p.launch
    else s
  | _, _ => s

/-- One of several packets of an operation stands for all. -/
def onePerOp : List (Option (Nat × Nat)) → List Packet → List Packet
  | _, [] => []
  | seen, p :: ps => if seen.contains p.src then onePerOp seen ps else p :: onePerOp (p.src :: seen) ps

/-- An operation in flight to a module that is lost ends with PEER_UNREACHABLE (R313, R389). -/
def State.lostOp (m : Nat) (s : State) (e : EutasAsk) : State :=
  match e.what with
  | .op a id =>
    (match s.op? a id with
     | some o => if o.st = .waiting ∨ o.st = .active ∨ o.st = .queued then
         s.engineFault a o .peerUnreachable (busBits o.a 54 0) m else s
     | none => s)
  | .packet _ => s
  | .copy w => s.copyLost w

/-- Is an address on a module, by its peer window? -/
def State.onPeer (s : State) (m pa : Nat) : Bool := match regionOf pa with | .peer w => s.peerOf w == some m | _ => false

/-- The entries of kind 3 whose peer window names a module are dropped, in every ASID, and so are the translations that operations hold (R389). -/
def State.dropPeer (s : State) (m : Nat) : State :=
  let of_ (e : TlbEntry) : Bool := e.kind == 3 && s.onPeer m (e.frame * 2 ^ 16)
  let s := s.dropTlb .module 0 of_
  { s with tiles := s.tiles.map fun t => { t with queue := t.queue.map fun o => { o with tr := o.tr.filter fun e => !of_ e } } }

/-- The requests that still wait at a unit to go to a module (R389). -/
def State.toPeer (s : State) (m : Nat) : List (Nat × DlOp) :=
  s.units.flatMap fun u => u.inq.filterMap fun r =>
    match r.src with
    | .tile a id _ => if s.onPeer m r.pa then (s.op? a id).map fun o => (a, o) else none
    | .host _ | .peer _ _ => none

/-- A module cannot be reached any more: its entries are dropped, and what is in flight to it ends (R389). -/
def State.peerGone (s : State) (m : Nat) : State :=
  let s := s.dropPeer m
  let asks := s.eutas.asked.filter fun e => e.dst = m
  let ps := s.packets.filter fun p => p.away = some m
  let s : State := { s with
    packets := s.packets.filter fun p => p.away ≠ some m
    eutas := { s.eutas with out := s.eutas.out.filter fun e => e.dst ≠ m, asked := s.eutas.asked.filter fun e => e.dst ≠ m } }
  let s := (s.toPeer m).foldl (fun s x => s.engineFault x.1 x.2 .peerUnreachable (busBits x.2.a 54 0) m) s
  (onePerOp [] ps).foldl State.lostPacket (asks.foldl (State.lostOp m) s)

/-- PEER_LOSS (R389). -/
def State.peerLoss (s : State) (m : Nat) : State :=
  State.peerGone { s with eutas := { s.eutas with lost := m :: s.eutas.lost.filter (· ≠ m) } } m

/-- Modules that the routes name. -/
def State.routed (s : State) : List Nat := s.eutas.route.map (·.1)

/-- The links or the routes have changed: a module that can no longer be reached is lost; one that can be reached again starts without an entry made while it was lost (R313, R389). -/
def State.linksChanged (before s : State) : State :=
  (before.routed ++ s.routed).eraseDups.foldl (fun s m =>
    if before.peerUp m && !s.peerUp m then s.peerGone m
    else if !before.peerUp m && s.peerUp m then s.dropPeer m
    else s) s

/-- Links of a mask go down and train, or come up; a link with nothing at its other end stays down (R314; DESIGN CHOICE, log 88). -/
def State.setLinks (s : State) (mask : Nat) (up : Bool) : State :=
  let set (x : (Nat × Nat × Bool × Bool) × Nat) :=
    if bits mask x.2 x.2 = 1 ∧ (Config.linkPeer x.2).isSome then (x.1.1, x.1.2.1, !up, up) else x.1
  { s with eutas := { s.eutas with links := s.eutas.links.zipIdx.map set } }

/-- PEER_LOSS (R389): the links of a mask go down (`off`); with no mask, a module is lost as by exhausted retries. -/
def execPeerLoss (s : State) : Host.Outcome State Fault Refusal :=
  .next (if s.ev.off = 0 then s.peerLoss s.ev.peer else s.linksChanged (s.setLinks s.ev.off false))

/-- Nothing waits any more for an answer whose operation or packet is gone. -/
def State.dropAsks (s : State) : State :=
  let waits (e : EutasAsk) : Bool :=
    match e.what with
    | .op a id => (s.op? a id).isSome
    | .packet id => s.packets.any fun p => p.id == id
    | .copy w => s.migs.any fun x => x.who == w
  { s with eutas := { s.eutas with asked := s.eutas.asked.filter waits } }

/-! ## Sending again -/

/-- Does something for an operation of a tile, in the tile as the operation's launch sees it (R118). -/
def State.asOwner (s : State) (a : Nat) (o : DlOp) (f : State → DlOp → State) : State :=
  match o.old with
  | none => f s o
  | some l => s.asPrev a l fun s => match s.op? a o.id with | some o => f s o | none => s

/-- Does a pre-emption hold back what a tile would send again: the launch is saved, or its tile has halted for the save (R321, R341)? -/
def State.heldBack (s : State) (l : Dword) (src : Option (Nat × Nat)) : Bool :=
  s.launchHeld l || (match src with | some (a, _) => (s.tileAt a).preHalted | none => false)

/-- PACKET_RETRY: a refused packet is sent again, or a refused child of a kiln (`off` 1), or the engine looks at an operation of its queue (R304 to R306, R320). -/
def execPacketRetry (s : State) : Host.Outcome State Fault Refusal :=
  if s.ev.yes then
    let a := s.ev.tile
    match s.op? a s.ev.op with
    | none => .next s
    | some o =>
      if (s.tileAt a).preHalted then .next (s.sched 1 none .packetRetry s.ev)
      else
      .next (s.asOwner a o fun s o =>
       match o.kind, o.st with
       | .push _, .queued | .push _, .active => s.pushStep a o
       | .msg, .queued | .mig, .queued => s.msgStep a o
       | _, _ => s)
  else if s.ev.off = 1 then
    match s.kilnAir.find? fun k => k.child = s.ev.child with
    | none => .next s
    | some k =>
      if s.heldBack k.launch k.src then .next (s.sched 64 (some 0) .packetRetry { child := k.child, off := 1 })
      else .next (s.sched 1 (k.until_.map fun d => d - s.tick - 64) .kilnChildArrival { child := s.ev.child })
  else
    match s.packets.find? fun p => p.id = s.ev.packet with
    | none => .next s
    | some p =>
      if s.heldBack p.launch p.src then .next (s.sched 64 (some 0) .packetRetry { packet := p.id })
      else
      match p.away with
      | some m => .next (if s.peerUp m then s.awaySend p m else (s.dropPacket p.id).lostPacket p)
      | none =>
        let i : Instr := if p.ctx then .contextArrival else if p.task.isSome then .messageAccept else .packetArrival
        .next (s.sched 1 none i { packet := p.id, tile := p.dst })

/-! ## Eutas (R304, R313, R389) -/

/-- A packet of a peer goes to the tile of its L4 rank in its address space (R303). Where no launch of the group stands here, it is refused as for a zone not open, or discarded, by a free choice (DESIGN CHOICE, log 85). -/
def State.peerPacket (s : State) (asid : Half) (rank : Nat) (p : Packet) : State :=
  match (s.tiles ++ s.sch.launches.flatMap fun l => l.saved).find? fun t =>
      t.spansModules 4 ∧ t.asid = asid ∧ t.rank4 = rank ∧ t.role.isSome with
  | some t => s.sendPacket { p with launch := t.launchId, dst := t.addr }
  | none =>
    let s : State := { s with free := s.free + 1 }
    if Config.choice (s.free - 1) then s.packetRefused p 256 else s.discardPacket p

/-- A request of a peer on this module's HBM (R265, R274, R287): an atomic or a synchronisation goes to the home unit. What lies outside the HBM no peer reaches (R265). -/
def State.peerRequest (s : State) (m n pa : Nat) (req : MemReq) : State :=
  if !inHbm pa then s.eutasSend m (.answer n 0 Cause.peerUnreachable.code s.eutas.modnum false) none
  else
  match req with
  | .read _ | .write _ =>
    (match s.reqCheck (pa / 2 ^ 36) pa req with
     | .refuse h => s.countRef.eutasSend m (.refused n h) none
     | .fault c det => s.eutasSend m (.answer n 0 c.code det false) none
     | .ok =>
       let x := s.memReq pa req
       x.2.eutasSend m (.answer n (leNat x.1) 0 0 false) none)
  | .fetchAdd _ _ | .swap _ _ | .cas _ _ _ | .alu _ _ _ _ | .sync _ _ =>
    s.unitSend (pa / 2 ^ 36) { src := .peer m n, launch := none, bank := 0, arrive := 0, pa := pa, req := req }

/-- The retry store drops an acknowledged packet. -/
def State.acked (s : State) (m n : Nat) : State :=
  { s with eutas := { s.eutas with out := s.eutas.out.filter fun e => !(e.dst == m && e.seq == n) } }

/-- The entry that waits for the answer of a peer to a packet. -/
def State.ask? (s : State) (m seq : Nat) : Option EutasAsk := s.eutas.asked.find? fun e => e.dst = m ∧ e.seq = seq

/-- A peer answers the packet of a sequence number: a request's operation goes on, or a packet has been accepted. -/
def State.answered (s : State) (m seq old fault detail : Nat) (ph : Bool) : State :=
  match s.ask? m seq with
  | none => s
  | some e =>
    let s : State := { s with eutas := { s.eutas with asked := s.eutas.asked.filter fun x => x ≠ e } }
    match e.what with
    | .op a id => s.peerAnswer a id old fault detail ph
    | .copy w => if fault = 0 then s.copyBytes w old else s.copyLost w
    | .packet id =>
      match s.packets.find? fun p => p.id = id with
      | none => s
      | some p => if p.ctx ∨ p.task.isSome then s.msgAccepted p else s.dropPacket id

/-- A peer refuses a packet or an access with a hint; it is sent again after that (R274, R306). -/
def State.refusedBy (s : State) (m seq hint : Nat) : State :=
  match s.ask? m seq with
  | none => s
  | some e =>
    let s : State := { s with eutas := { s.eutas with asked := s.eutas.asked.filter fun x => x ≠ e } }
    match e.what with
    | .op a id =>
      (match s.op? a id with
       | some o => s.refuse a o hint .accessRetry
       | none => s)
    | .copy w =>
      { s.countRef with
        migs := s.migs.map fun x => if x.who = w then { x with asked := false } else x
        agenda := s.agenda ++ [(s.tick + hint, .migrationStep, { who := w })] }
    | .packet id =>
      match s.packets.find? fun p => p.id = id with
      | none => s
      | some p => s.packetRefused p hint

/-- What a packet of a peer does when it is delivered. -/
def State.deliver (s : State) (m n : Nat) (b : EutasBody) : State :=
  let p : Packet := { id := s.nextPacket, launch := 0, src := none, dst := noTile, zone := 0, off := 0, level := 4, rank := 0, data := [],
                      peer := some (m, n) }
  match b with
  | .ack => s
  | .push asid rank zone off level sender data =>
    s.peerPacket asid rank { p with zone := zone, off := off, level := level, rank := sender, data := data }
  | .message asid rank task sender data => s.peerPacket asid rank { p with rank := sender, data := data, task := task, ctx := task.isNone }
  | .request pa req => s.peerRequest m n pa req
  | .answer seq old fault detail ph => s.answered m seq old fault detail ph
  | .refused seq hint => s.refusedBy m seq hint

/-- Frames of a link that were replayed at the link layer are counted (R314, R439). -/
def State.replayed (s : State) (k n : Nat) : State :=
  { s.corrected n 8 k with eutas := { s.eutas with links := s.eutas.links.zipIdx.map fun x =>
      if x.2 = k then (x.1.1, min 0xFFFF (x.1.2.1 + n), x.1.2.2.1, x.1.2.2.2) else x.1 } }

/-- EUTAS_PACKET_RECEIVE on a link, after a number of replays: an acknowledgement empties the retry store; any other packet is acknowledged and delivered once (R313). -/
def execEutasPacketReceive (s : State) : Host.Outcome State Fault Refusal :=
  let m := s.ev.src
  let n := s.ev.seq
  let s := s.replayed s.ev.channel s.ev.words
  if s.ev.body = .ack then .next (s.acked m n)
  else
    let s : State := { s with outbox := s.outbox ++ [.eutasAck m n] }
    if s.eutas.seen.contains (m, n) then .next s
    else .next (State.deliver { s with eutas := { s.eutas with seen := s.eutas.seen ++ [(m, n)] } } m n s.ev.body)

/-- EUTAS_RETRANSMIT: no acknowledgement within the timeout; after the last try the peer is unreachable (R313). -/
def execEutasRetransmit (s : State) : Host.Outcome State Fault Refusal :=
  match s.eutas.out.find? fun e => e.dst = s.ev.dst ∧ e.seq = s.ev.seq with
  | none => .next s
  | some e =>
    if s.tick < e.sent + s.eutas.timeout then .next s
    else if s.eutas.tries ≤ e.tries then .next (s.peerLoss e.dst)
    else
      let e' : EutasOut := { e with tries := e.tries + 1, sent := s.tick }
      .next { s with
        eutas := { s.eutas with out := s.eutas.out.map fun x => if x.dst = e.dst ∧ x.seq = e.seq then e' else x }
        agenda := s.agenda ++ [(s.tick + s.eutas.timeout, .eutasRetransmit, { dst := e.dst, seq := e.seq })] }

/-- PEER_REACHABLE_AGAIN (R389): a module answers again, or the links of a mask come up (`off`); no entry made before is left. -/
def execPeerReachableAgain (s : State) : Host.Outcome State Fault Refusal :=
  if s.ev.off = 0 then
    .next (State.dropPeer { s with eutas := { s.eutas with lost := s.eutas.lost.filter (· ≠ s.ev.peer) } } s.ev.peer)
  else .next (s.linksChanged (s.setLinks s.ev.off true))

end Sys2Proof.Machine
end

