-- ==== Sys2Proof/Machine/Float.lean ====
section
/-! DEFINITION. The scalar sockets `fp` and `sf`, the vector forms of `sf` among them (R193 to R203). -/

namespace Sys2Proof.Machine

/-- A scalar float or integer result: status and sticky flags from its status bits (R188, R194). -/
def fpRes (r : FRes) : Res := scalar (BitVec.ofNat 64 r.code) (r.st.setWidth 64) (r.st.setWidth 6)

/-- The format a class T modifier names; the decoder admits no integer type where a float type is read (R105). -/
def fmtOf : TMod → Fmt
  | .flt f _ => f
  | .int _ _ => .f32

def rndOf : TMod → Rnd
  | .flt _ r => r
  | .int _ _ => .rne

/-- Latency of `fp` (R193). -/
def fpLat (m : TMod) : Nat := if fmtOf m = .f64 then 6 else 4

/-- Float kinds 0 to 5 of class T (Table 5.4); none for 6 and 7. -/
def kindFmt (n : Nat) : Option Fmt :=
  match n with
  | 0 => some .f64 | 1 => some .f32 | 2 => some .bf16 | 3 => some .f16 | 4 => some .e4m3 | 5 => some .e5m2
  | _ => none

def rndCode (n : Nat) : Rnd := if n = 0 then .rne else if n = 1 then .rz else if n = 2 then .ru else .rd

/-- The operands of a scalar operation of format F (R193). -/
def fpA (st : Start) (m : TMod) : Nat := st.natA (fmtBits (fmtOf m))
def fpB (st : Start) (m : TMod) : Nat := st.natB (fmtBits (fmtOf m))
def fpC (st : Start) (m : TMod) : Nat := st.natC (fmtBits (fmtOf m))

/-- A compare writes 1 or 0 (R199). -/
def cmpRes (r : Bool × BitVec 8) : FRes := { code := r.1.toNat, st := r.2 }

/-- `fcvt` (R201, Table 9.4). -/
def fcvtRes (st : Start) (m : TMod) : FRes :=
  let b := st.b.toNat
  match kindFmt (bits b 2 0) with
  | none => { code := fmtNan (fmtOf m), st := fCTL ||| fNV }
  | some src => cvtFF src (fmtOf m) (rndOf m) (bits b 7 7 = 1) (st.natA (fmtBits src))

/-- `fcvtsi`: a signed result as SignExt, a natural one as ZeroExt (R201). -/
def fcvtsiRes (st : Start) (m : TMod) : FRes :=
  let b := st.b.toNat
  match m, kindFmt (bits b 2 0) with
  | .int nat z, some src =>
    let n := isizeBits z
    let r := cvtFI src (rndCode (bits b 5 4)) nat n (st.natA (fmtBits src))
    { r with code := (intValue nat n r.code % (2 ^ 64 : Nat)).toNat }
  | _, _ => { code := 0, st := fCTL ||| fNV }

/-- `fcvtis` (R201). -/
def fcvtisRes (st : Start) (m : TMod) : FRes :=
  let b := st.b.toNat
  let n := 8 * 2 ^ bits b 1 0
  cvtIF (fmtOf m) (rndOf m) (bits b 7 7 = 1) (intValue (bits b 2 2 = 1) n (st.natA n))

/-- The lanes of the vector form of `sf`, with the OR of their flags (R194, R202). -/
def sfVec (m : TMod) (st : Start) (g : Nat → Nat → FRes) : Res :=
  let w := fmtBits (fmtOf m)
  let rs := (List.range (512 / w)).map fun i => g (lane w st.a i) (lane w st.b i)
  let flags := rs.foldl (fun acc r => acc ||| r.st) 0
  { x := some (BitVec.ofNat 512 (ofLanes w (rs.map (·.code)))), s := flags.setWidth 64, flags := flags.setWidth 6 }

/-- A + B, rounded (Table 9.2, R196). -/
def specFadd (m : TMod) : Spec :=
  compute .fp (some .opB) (fpLat m) fun st => fpRes (fAdd (fmtOf m) (rndOf m) (fpA st m) (fpB st m))

def execFadd (h : Head) (m : TMod) (s : State) : Host.Outcome State Fault Refusal :=
  issueOne (.fadd h m) (specFadd m) s

/-- A − B, rounded (Table 9.2, R196). -/
def specFsub (m : TMod) : Spec :=
  compute .fp (some .opB) (fpLat m) fun st => fpRes (fSub (fmtOf m) (rndOf m) (fpA st m) (fpB st m))

def execFsub (h : Head) (m : TMod) (s : State) : Host.Outcome State Fault Refusal :=
  issueOne (.fsub h m) (specFsub m) s

/-- A × B, rounded (Table 9.2, R196). -/
def specFmul (m : TMod) : Spec :=
  compute .fp (some .opB) (fpLat m) fun st => fpRes (fMul (fmtOf m) (rndOf m) (fpA st m) (fpB st m))

def execFmul (h : Head) (m : TMod) (s : State) : Host.Outcome State Fault Refusal :=
  issueOne (.fmul h m) (specFmul m) s

/-- A × B + C, rounded once (R196). -/
def specFma (m : TMod) : Spec :=
  compute .fp (some .opC) (fpLat m) fun st => fpRes (fFma (fmtOf m) (rndOf m) false (fpA st m) (fpB st m) (fpC st m))

def execFma (h : Head) (m : TMod) (s : State) : Host.Outcome State Fault Refusal :=
  issueOne (.fma h m) (specFma m) s

/-- C − A × B, rounded once (R196). -/
def specFnma (m : TMod) : Spec :=
  compute .fp (some .opC) (fpLat m) fun st => fpRes (fFma (fmtOf m) (rndOf m) true (fpA st m) (fpB st m) (fpC st m))

def execFnma (h : Head) (m : TMod) (s : State) : Host.Outcome State Fault Refusal :=
  issueOne (.fnma h m) (specFnma m) s

/-- A NaN is a missing value (R197). -/
def specFmin (m : TMod) : Spec :=
  compute .fp (some .opB) (fpLat m) fun st => fpRes (fMinMax (fmtOf m) false (fpA st m) (fpB st m))

def execFmin (h : Head) (m : TMod) (s : State) : Host.Outcome State Fault Refusal :=
  issueOne (.fmin h m) (specFmin m) s

/-- A NaN is a missing value (R197). -/
def specFmax (m : TMod) : Spec :=
  compute .fp (some .opB) (fpLat m) fun st => fpRes (fMinMax (fmtOf m) true (fpA st m) (fpB st m))

def execFmax (h : Head) (m : TMod) (s : State) : Host.Outcome State Fault Refusal :=
  issueOne (.fmax h m) (specFmax m) s

/-- Clears the sign bit (R198). -/
def specFabs (m : TMod) : Spec :=
  compute .fp (some .opA) (fpLat m) fun st => fpRes { code := fpA st m % fmtSign (fmtOf m) }

def execFabs (h : Head) (m : TMod) (s : State) : Host.Outcome State Fault Refusal :=
  issueOne (.fabs h m) (specFabs m) s

/-- Inverts the sign bit (R198). -/
def specFneg (m : TMod) : Spec :=
  compute .fp (some .opA) (fpLat m) fun st => fpRes { code := fpA st m ^^^ fmtSign (fmtOf m) }

def execFneg (h : Head) (m : TMod) (s : State) : Host.Outcome State Fault Refusal :=
  issueOne (.fneg h m) (specFneg m) s

/-- A with the sign of B (R198). -/
def specFcpsgn (m : TMod) : Spec :=
  compute .fp (some .opB) (fpLat m) fun st => fpRes { code := fpA st m % fmtSign (fmtOf m) + fpB st m / fmtSign (fmtOf m) * fmtSign (fmtOf m) }

def execFcpsgn (h : Head) (m : TMod) (s : State) : Host.Outcome State Fault Refusal :=
  issueOne (.fcpsgn h m) (specFcpsgn m) s

/-- A quiet compare (R199). -/
def specFceq (m : TMod) : Spec :=
  compute .fp (some .opB) (fpLat m) fun st => fpRes (cmpRes (fCompare (fmtOf m) .eq (fpA st m) (fpB st m)))

def execFceq (h : Head) (m : TMod) (s : State) : Host.Outcome State Fault Refusal :=
  issueOne (.fceq h m) (specFceq m) s

/-- A quiet compare (R199). -/
def specFclt (m : TMod) : Spec :=
  compute .fp (some .opB) (fpLat m) fun st => fpRes (cmpRes (fCompare (fmtOf m) .lt (fpA st m) (fpB st m)))

def execFclt (h : Head) (m : TMod) (s : State) : Host.Outcome State Fault Refusal :=
  issueOne (.fclt h m) (specFclt m) s

/-- A quiet compare (R199). -/
def specFcle (m : TMod) : Spec :=
  compute .fp (some .opB) (fpLat m) fun st => fpRes (cmpRes (fCompare (fmtOf m) .le (fpA st m) (fpB st m)))

def execFcle (h : Head) (m : TMod) (s : State) : Host.Outcome State Fault Refusal :=
  issueOne (.fcle h m) (specFcle m) s

/-- Class mask (R200). -/
def specFclass (m : TMod) : Spec :=
  compute .fp (some .opA) (fpLat m) fun st => fpRes { code := fClass (fmtOf m) (fpA st m) }

def execFclass (h : Head) (m : TMod) (s : State) : Host.Outcome State Fault Refusal :=
  issueOne (.fclass h m) (specFclass m) s

/-- Float to float; the trigger operand is `.a` (R201). -/
def specFcvt (m : TMod) : Spec :=
  compute .fp (some .opA) (fpLat m) fun st => fpRes (fcvtRes st m)

def execFcvt (h : Head) (m : TMod) (s : State) : Host.Outcome State Fault Refusal :=
  issueOne (.fcvt h m) (specFcvt m) s

/-- Float to integer (R201). -/
def specFcvtsi (m : TMod) : Spec :=
  compute .fp (some .opA) 4 fun st => fpRes (fcvtsiRes st m)

def execFcvtsi (h : Head) (m : TMod) (s : State) : Host.Outcome State Fault Refusal :=
  issueOne (.fcvtsi h m) (specFcvtsi m) s

/-- Integer to float (R201). -/
def specFcvtis (m : TMod) : Spec :=
  compute .fp (some .opA) (fpLat m) fun st => fpRes (fcvtisRes st m)

def execFcvtis (h : Head) (m : TMod) (s : State) : Host.Outcome State Fault Refusal :=
  issueOne (.fcvtis h m) (specFcvtis m) s

/-- Rounded once from the exact function (R202, R203). -/
def specEx2 (m : TMod) : Spec :=
  compute .sf (some .opA) 8 fun st => fpRes (fEx2 (fmtOf m) (rndOf m) (fpA st m))

def execEx2 (h : Head) (m : TMod) (s : State) : Host.Outcome State Fault Refusal :=
  issueOne (.ex2 h m) (specEx2 m) s

/-- Rounded once from the exact function (R202, R203). -/
def specLg2 (m : TMod) : Spec :=
  compute .sf (some .opA) 8 fun st => fpRes (fLg2 (fmtOf m) (rndOf m) (fpA st m))

def execLg2 (h : Head) (m : TMod) (s : State) : Host.Outcome State Fault Refusal :=
  issueOne (.lg2 h m) (specLg2 m) s

/-- Rounded once from the exact function (R202, R203). -/
def specRcp (m : TMod) : Spec :=
  compute .sf (some .opA) 8 fun st => fpRes (fRcp (fmtOf m) (rndOf m) (fpA st m))

def execRcp (h : Head) (m : TMod) (s : State) : Host.Outcome State Fault Refusal :=
  issueOne (.rcp h m) (specRcp m) s

/-- Rounded once from the exact function (R202, R203). -/
def specRsq (m : TMod) : Spec :=
  compute .sf (some .opA) 8 fun st => fpRes (fRsq (fmtOf m) (rndOf m) (fpA st m))

def execRsq (h : Head) (m : TMod) (s : State) : Host.Outcome State Fault Refusal :=
  issueOne (.rsq h m) (specRsq m) s

/-- Rounded once from the exact function (R202, R203). -/
def specSqrt (m : TMod) : Spec :=
  compute .sf (some .opA) 8 fun st => fpRes (fSqrt (fmtOf m) (rndOf m) (fpA st m))

def execSqrt (h : Head) (m : TMod) (s : State) : Host.Outcome State Fault Refusal :=
  issueOne (.sqrt h m) (specSqrt m) s

/-- A / B, rounded once (R202, R203). -/
def specFdiv (m : TMod) : Spec :=
  compute .sf (some .opB) 8 fun st => fpRes (fDiv (fmtOf m) (rndOf m) (fpA st m) (fpB st m))

def execFdiv (h : Head) (m : TMod) (s : State) : Host.Outcome State Fault Refusal :=
  issueOne (.fdiv h m) (specFdiv m) s

/-- The scalar rule on every lane (R202). -/
def specEx2Vec (m : TMod) : Spec :=
  compute .sf (some .opA) 8 fun st => sfVec m st fun a _ => fEx2 (fmtOf m) (rndOf m) a

def execEx2Vec (h : Head) (m : TMod) (s : State) : Host.Outcome State Fault Refusal :=
  issueOne (.ex2Vec h m) (specEx2Vec m) s

/-- The scalar rule on every lane (R202). -/
def specLg2Vec (m : TMod) : Spec :=
  compute .sf (some .opA) 8 fun st => sfVec m st fun a _ => fLg2 (fmtOf m) (rndOf m) a

def execLg2Vec (h : Head) (m : TMod) (s : State) : Host.Outcome State Fault Refusal :=
  issueOne (.lg2Vec h m) (specLg2Vec m) s

/-- The scalar rule on every lane (R202). -/
def specRcpVec (m : TMod) : Spec :=
  compute .sf (some .opA) 8 fun st => sfVec m st fun a _ => fRcp (fmtOf m) (rndOf m) a

def execRcpVec (h : Head) (m : TMod) (s : State) : Host.Outcome State Fault Refusal :=
  issueOne (.rcpVec h m) (specRcpVec m) s

/-- The scalar rule on every lane (R202). -/
def specRsqVec (m : TMod) : Spec :=
  compute .sf (some .opA) 8 fun st => sfVec m st fun a _ => fRsq (fmtOf m) (rndOf m) a

def execRsqVec (h : Head) (m : TMod) (s : State) : Host.Outcome State Fault Refusal :=
  issueOne (.rsqVec h m) (specRsqVec m) s

/-- The scalar rule on every lane (R202). -/
def specSqrtVec (m : TMod) : Spec :=
  compute .sf (some .opA) 8 fun st => sfVec m st fun a _ => fSqrt (fmtOf m) (rndOf m) a

def execSqrtVec (h : Head) (m : TMod) (s : State) : Host.Outcome State Fault Refusal :=
  issueOne (.sqrtVec h m) (specSqrtVec m) s

/-- The scalar rule on every lane (R202). -/
def specFdivVec (m : TMod) : Spec :=
  compute .sf (some .opB) 8 fun st => sfVec m st fun a b => fDiv (fmtOf m) (rndOf m) a b

def execFdivVec (h : Head) (m : TMod) (s : State) : Host.Outcome State Fault Refusal :=
  issueOne (.fdivVec h m) (specFdivVec m) s

end Sys2Proof.Machine
end

