-- ==== Sys2Proof/Machine/Int.lean ====
section
/-! DEFINITION. The integer sockets `a0`, `a1`, `sh` and `mu` (R159 to R166). -/

namespace Sys2Proof.Machine

/-! ## Shared computations -/

/-- `addsat` and `subsat`: the exact value clamped; OV and SAT when clamped (R161). -/
def satRes (w : Nat) (x : Int) (cy : Bool) : Res :=
  intRes w (wrap w (clampSigned w x)) { cy := cy, ov := outOfRange w x, sat := outOfRange w x }

/-- A rotated left by n within w bits (R162). -/
def rotl (w a n : Nat) : Nat := (a * 2 ^ (n % w) + a / 2 ^ (w - n % w)) % 2 ^ w

/-- Leading zeros of a within w bits; w when a is 0. -/
def clzN : Nat → Nat → Nat
  | 0, _ => 0
  | w + 1, a => if a / 2 ^ w % 2 = 1 then 0 else 1 + clzN w a

/-- Trailing zeros of a within w bits; w when a is 0. -/
def ctzN : Nat → Nat → Nat
  | 0, _ => 0
  | w + 1, a => if a % 2 = 1 then 0 else 1 + ctzN w (a / 2)

/-- One bits of a within w bits. -/
def popN : Nat → Nat → Nat
  | 0, _ => 0
  | w + 1, a => a % 2 + popN w (a / 2)

/-- Bit j of a moved to bit w − 1 − j. -/
def brevN : Nat → Nat → Nat
  | 0, _ => 0
  | w + 1, a => a % 2 * 2 ^ w + brevN w (a / 2)

/-- The field a selector names, and its length n (R163); (0, 0) where there is none. -/
def fieldOf (w a p : Nat) : Nat × Nat :=
  let pos := bits p 5 0
  let len := bits p 14 8
  if pos ≥ w ∨ len = 0 then (0, 0)
  else let n := min len (w - pos); (a / 2 ^ pos % 2 ^ n, n)

/-- A with the selected field replaced by the low bits of B (R163). -/
def insField (w a b p : Nat) : Nat :=
  let pos := bits p 5 0
  let len := bits p 14 8
  if pos ≥ w ∨ len = 0 then a
  else
    let n := min len (w - pos)
    a % 2 ^ pos + 2 ^ pos * (b % 2 ^ n) + 2 ^ (pos + n) * (a / 2 ^ (pos + n))

/-- Eight steps of the reflected Castagnoli polynomial (R164). -/
def crcBits : Nat → Nat → Nat
  | 0, c => c
  | j + 1, c => crcBits j (if c % 2 = 1 then (c / 2) ^^^ 0x82F63B78 else c / 2)

/-- CRC-32C over bytes, without initial or final inversion (R164). -/
def crcBytes : List Byte → Nat → Nat
  | [], c => c
  | x :: xs, c => crcBytes xs (crcBits 8 (c ^^^ x.toNat))

/-- `crc` writes ZeroExt(r, 32); its status describes r (R159, R160). -/
def crcRes (w r : Nat) : Res := scalar (BitVec.ofNat 64 r) (intStatus w r {})

/-- Quotient, remainder and flags of a division (R165). -/
def divide (signed : Bool) (w : Nat) (st : Start) : Nat × Nat × IntFlags :=
  let a := st.natA w
  let b := st.natB w
  if b = 0 then (2 ^ w - 1, a, { dz := true })
  else if signed && st.intA w == -(2 ^ (w - 1) : Int) && st.intB w == -1 then (a, 0, { ovfDiv := true })
  else if signed then
    let q := (st.intA w).tdiv (st.intB w)
    (wrap w q, wrap w (st.intA w - st.intB w * q), {})
  else (a / b, a % b, {})

/-- A division or remainder lands on `mu.y` 34 or 66 ticks after its trigger, through a queue of depth 1 (R131, R166). -/
def divSpec (_i : Instr) (signed isRem : Bool) (w : Width) : Spec :=
  { sock := .mu, opnd := some .opB, run := fun st x =>
      let (q, r, f) := divide signed (widthOf w) st
      deliver st true (match w with | .w32 => 34 | .w64 => 66)
        (intResY (widthOf w) (if isRem then r else q) f) none x }

/-! ## `a0` and `a1` (Table 7.7) -/

/-- A + B, with carry and overflow (Table 7.7). -/
def specAdd (u : Alu) (w : Width) : Spec :=
  compute u.sock (some .opB) 1 fun st => let w := widthOf w; intRes w ((st.natA w + st.natB w) % 2 ^ w) { cy := decide (st.natA w + st.natB w ≥ 2 ^ w), ov := outOfRange w (st.intA w + st.intB w) }

def execAdd (h : Head) (u : Alu) (w : Width) (s : State) : Host.Outcome State Fault Refusal :=
  issueOne (.add h u w) (specAdd u w) s

/-- A − B, with borrow and overflow (Table 7.7). -/
def specSub (u : Alu) (w : Width) : Spec :=
  compute u.sock (some .opB) 1 fun st => let w := widthOf w; intRes w (wrap w (st.natA w - st.natB w : Int)) { cy := decide (st.natA w < st.natB w), ov := outOfRange w (st.intA w - st.intB w) }

def execSub (h : Head) (u : Alu) (w : Width) (s : State) : Host.Outcome State Fault Refusal :=
  issueOne (.sub h u w) (specSub u w) s

/-- A AND B (Table 7.7). -/
def specAnd (u : Alu) (w : Width) : Spec :=
  compute u.sock (some .opB) 1 fun st => let w := widthOf w; intRes w (st.natA w &&& st.natB w)

def execAnd (h : Head) (u : Alu) (w : Width) (s : State) : Host.Outcome State Fault Refusal :=
  issueOne (.and h u w) (specAnd u w) s

/-- A OR B (Table 7.7). -/
def specOr (u : Alu) (w : Width) : Spec :=
  compute u.sock (some .opB) 1 fun st => let w := widthOf w; intRes w (st.natA w ||| st.natB w)

def execOr (h : Head) (u : Alu) (w : Width) (s : State) : Host.Outcome State Fault Refusal :=
  issueOne (.or h u w) (specOr u w) s

/-- A XOR B (Table 7.7). -/
def specXor (u : Alu) (w : Width) : Spec :=
  compute u.sock (some .opB) 1 fun st => let w := widthOf w; intRes w (st.natA w ^^^ st.natB w)

def execXor (h : Head) (u : Alu) (w : Width) (s : State) : Host.Outcome State Fault Refusal :=
  issueOne (.xor h u w) (specXor u w) s

/-- A AND NOT B (Table 7.7). -/
def specAndn (u : Alu) (w : Width) : Spec :=
  compute u.sock (some .opB) 1 fun st => let w := widthOf w; intRes w (st.natA w &&& (2 ^ w - 1 - st.natB w))

def execAndn (h : Head) (u : Alu) (w : Width) (s : State) : Host.Outcome State Fault Refusal :=
  issueOne (.andn h u w) (specAndn u w) s

/-- A OR NOT B (Table 7.7). -/
def specOrn (u : Alu) (w : Width) : Spec :=
  compute u.sock (some .opB) 1 fun st => let w := widthOf w; intRes w (st.natA w ||| (2 ^ w - 1 - st.natB w))

def execOrn (h : Head) (u : Alu) (w : Width) (s : State) : Host.Outcome State Fault Refusal :=
  issueOne (.orn h u w) (specOrn u w) s

/-- min(sA, sB) (Table 7.7). -/
def specMin (u : Alu) (w : Width) : Spec :=
  compute u.sock (some .opB) 1 fun st => let w := widthOf w; intRes w (wrap w (min (st.intA w) (st.intB w)))

def execMin (h : Head) (u : Alu) (w : Width) (s : State) : Host.Outcome State Fault Refusal :=
  issueOne (.min h u w) (specMin u w) s

/-- max(sA, sB) (Table 7.7). -/
def specMax (u : Alu) (w : Width) : Spec :=
  compute u.sock (some .opB) 1 fun st => let w := widthOf w; intRes w (wrap w (max (st.intA w) (st.intB w)))

def execMax (h : Head) (u : Alu) (w : Width) (s : State) : Host.Outcome State Fault Refusal :=
  issueOne (.max h u w) (specMax u w) s

/-- min(A, B) (Table 7.7). -/
def specMinn (u : Alu) (w : Width) : Spec :=
  compute u.sock (some .opB) 1 fun st => let w := widthOf w; intRes w (min (st.natA w) (st.natB w))

def execMinn (h : Head) (u : Alu) (w : Width) (s : State) : Host.Outcome State Fault Refusal :=
  issueOne (.minn h u w) (specMinn u w) s

/-- max(A, B) (Table 7.7). -/
def specMaxn (u : Alu) (w : Width) : Spec :=
  compute u.sock (some .opB) 1 fun st => let w := widthOf w; intRes w (max (st.natA w) (st.natB w))

def execMaxn (h : Head) (u : Alu) (w : Width) (s : State) : Host.Outcome State Fault Refusal :=
  issueOne (.maxn h u w) (specMaxn u w) s

/-- |sA| (Table 7.7). -/
def specAbs (u : Alu) (w : Width) : Spec :=
  compute u.sock (some .opA) 1 fun st => let w := widthOf w; intRes w (wrap w ((st.intA w).natAbs : Int)) { ov := st.intA w == -(2 ^ (w - 1) : Int) }

def execAbs (h : Head) (u : Alu) (w : Width) (s : State) : Host.Outcome State Fault Refusal :=
  issueOne (.abs h u w) (specAbs u w) s

/-- −sA (Table 7.7). -/
def specNeg (u : Alu) (w : Width) : Spec :=
  compute u.sock (some .opA) 1 fun st => let w := widthOf w; intRes w (wrap w (-st.intA w)) { ov := st.intA w == -(2 ^ (w - 1) : Int), cy := st.natA w != 0 }

def execNeg (h : Head) (u : Alu) (w : Width) (s : State) : Host.Outcome State Fault Refusal :=
  issueOne (.neg h u w) (specNeg u w) s

/-- A = B (Table 7.7). -/
def specCeq (u : Alu) (w : Width) : Spec :=
  compute u.sock (some .opB) 1 fun st => let w := widthOf w; intRes w (st.natA w == st.natB w).toNat

def execCeq (h : Head) (u : Alu) (w : Width) (s : State) : Host.Outcome State Fault Refusal :=
  issueOne (.ceq h u w) (specCeq u w) s

/-- A ≠ B (Table 7.7). -/
def specCne (u : Alu) (w : Width) : Spec :=
  compute u.sock (some .opB) 1 fun st => let w := widthOf w; intRes w (st.natA w != st.natB w).toNat

def execCne (h : Head) (u : Alu) (w : Width) (s : State) : Host.Outcome State Fault Refusal :=
  issueOne (.cne h u w) (specCne u w) s

/-- sA < sB (Table 7.7). -/
def specClt (u : Alu) (w : Width) : Spec :=
  compute u.sock (some .opB) 1 fun st => let w := widthOf w; intRes w (decide (st.intA w < st.intB w)).toNat

def execClt (h : Head) (u : Alu) (w : Width) (s : State) : Host.Outcome State Fault Refusal :=
  issueOne (.clt h u w) (specClt u w) s

/-- sA ≤ sB (Table 7.7). -/
def specCle (u : Alu) (w : Width) : Spec :=
  compute u.sock (some .opB) 1 fun st => let w := widthOf w; intRes w (decide (st.intA w ≤ st.intB w)).toNat

def execCle (h : Head) (u : Alu) (w : Width) (s : State) : Host.Outcome State Fault Refusal :=
  issueOne (.cle h u w) (specCle u w) s

/-- A < B (Table 7.7). -/
def specCltn (u : Alu) (w : Width) : Spec :=
  compute u.sock (some .opB) 1 fun st => let w := widthOf w; intRes w (decide (st.natA w < st.natB w)).toNat

def execCltn (h : Head) (u : Alu) (w : Width) (s : State) : Host.Outcome State Fault Refusal :=
  issueOne (.cltn h u w) (specCltn u w) s

/-- A ≤ B (Table 7.7). -/
def specClen (u : Alu) (w : Width) : Spec :=
  compute u.sock (some .opB) 1 fun st => let w := widthOf w; intRes w (decide (st.natA w ≤ st.natB w)).toNat

def execClen (h : Head) (u : Alu) (w : Width) (s : State) : Host.Outcome State Fault Refusal :=
  issueOne (.clen h u w) (specClen u w) s

/-- A if C ≠ 0, else B (Table 7.7). -/
def specSel (u : Alu) (w : Width) : Spec :=
  compute u.sock (some .opC) 1 fun st => let w := widthOf w; intRes w (if st.natC w ≠ 0 then st.natA w else st.natB w)

def execSel (h : Head) (u : Alu) (w : Width) (s : State) : Host.Outcome State Fault Refusal :=
  issueOne (.sel h u w) (specSel u w) s

/-- A + B × 2^Bits(c, 2, 0) (Table 7.7). -/
def specLea (u : Alu) (w : Width) : Spec :=
  compute u.sock (some .opC) 1 fun st => let w := widthOf w; intRes w ((st.natA w + st.natB w * 2 ^ (st.c.toNat % 8)) % 2 ^ w)

def execLea (h : Head) (u : Alu) (w : Width) (s : State) : Host.Outcome State Fault Refusal :=
  issueOne (.lea h u w) (specLea u w) s

/-- sA + sB clamped; CY as add (Table 7.7). -/
def specAddsat (u : Alu) (w : Width) : Spec :=
  compute u.sock (some .opB) 1 fun st => let w := widthOf w; satRes w (st.intA w + st.intB w) (decide (st.natA w + st.natB w ≥ 2 ^ w))

def execAddsat (h : Head) (u : Alu) (w : Width) (s : State) : Host.Outcome State Fault Refusal :=
  issueOne (.addsat h u w) (specAddsat u w) s

/-- sA − sB clamped; CY as sub (Table 7.7). -/
def specSubsat (u : Alu) (w : Width) : Spec :=
  compute u.sock (some .opB) 1 fun st => let w := widthOf w; satRes w (st.intA w - st.intB w) (decide (st.natA w < st.natB w))

def execSubsat (h : Head) (u : Alu) (w : Width) (s : State) : Host.Outcome State Fault Refusal :=
  issueOne (.subsat h u w) (specSubsat u w) s

/-- (A AND B) ≠ 0 (Table 7.7). -/
def specTst (u : Alu) (w : Width) : Spec :=
  compute u.sock (some .opB) 1 fun st => let w := widthOf w; intRes w (st.natA w &&& st.natB w != 0).toNat

def execTst (h : Head) (u : Alu) (w : Width) (s : State) : Host.Outcome State Fault Refusal :=
  issueOne (.tst h u w) (specTst u w) s

/-! ## `sh` (Table 7.8) -/

/-- A × 2^n (Table 7.8). -/
def specShl (w : Width) : Spec :=
  compute .sh (some .opB) 1 fun st => let w := widthOf w; intRes w (st.natA w * 2 ^ (st.b.toNat % w) % 2 ^ w)

def execShl (h : Head) (w : Width) (s : State) : Host.Outcome State Fault Refusal :=
  issueOne (.shl h w) (specShl w) s

/-- floor(A / 2^n) (Table 7.8). -/
def specShr (w : Width) : Spec :=
  compute .sh (some .opB) 1 fun st => let w := widthOf w; intRes w (st.natA w / 2 ^ (st.b.toNat % w))

def execShr (h : Head) (w : Width) (s : State) : Host.Outcome State Fault Refusal :=
  issueOne (.shr h w) (specShr w) s

/-- floor(sA / 2^n) (Table 7.8). -/
def specSar (w : Width) : Spec :=
  compute .sh (some .opB) 1 fun st => let w := widthOf w; intRes w (wrap w (st.intA w / (2 ^ (st.b.toNat % w) : Nat)))

def execSar (h : Head) (w : Width) (s : State) : Host.Outcome State Fault Refusal :=
  issueOne (.sar h w) (specSar w) s

/-- A rotated left by n (Table 7.8). -/
def specRol (w : Width) : Spec :=
  compute .sh (some .opB) 1 fun st => let w := widthOf w; intRes w (rotl w (st.natA w) (st.b.toNat % w))

def execRol (h : Head) (w : Width) (s : State) : Host.Outcome State Fault Refusal :=
  issueOne (.rol h w) (specRol w) s

/-- A rotated right by n (Table 7.8). -/
def specRor (w : Width) : Spec :=
  compute .sh (some .opB) 1 fun st => let w := widthOf w; intRes w (rotl w (st.natA w) (w - st.b.toNat % w))

def execRor (h : Head) (w : Width) (s : State) : Host.Outcome State Fault Refusal :=
  issueOne (.ror h w) (specRor w) s

/-- leading zeros (Table 7.8). -/
def specClz (w : Width) : Spec :=
  compute .sh (some .opA) 1 fun st => let w := widthOf w; intRes w (clzN w (st.natA w))

def execClz (h : Head) (w : Width) (s : State) : Host.Outcome State Fault Refusal :=
  issueOne (.clz h w) (specClz w) s

/-- trailing zeros (Table 7.8). -/
def specCtz (w : Width) : Spec :=
  compute .sh (some .opA) 1 fun st => let w := widthOf w; intRes w (ctzN w (st.natA w))

def execCtz (h : Head) (w : Width) (s : State) : Host.Outcome State Fault Refusal :=
  issueOne (.ctz h w) (specCtz w) s

/-- number of one bits (Table 7.8). -/
def specPopc (w : Width) : Spec :=
  compute .sh (some .opA) 1 fun st => let w := widthOf w; intRes w (popN w (st.natA w))

def execPopc (h : Head) (w : Width) (s : State) : Host.Outcome State Fault Refusal :=
  issueOne (.popc h w) (specPopc w) s

/-- bits reversed (Table 7.8). -/
def specBrev (w : Width) : Spec :=
  compute .sh (some .opA) 1 fun st => let w := widthOf w; intRes w (brevN w (st.natA w))

def execBrev (h : Head) (w : Width) (s : State) : Host.Outcome State Fault Refusal :=
  issueOne (.brev h w) (specBrev w) s

/-- bytes reversed (Table 7.8). -/
def specBswap (w : Width) : Spec :=
  compute .sh (some .opA) 1 fun st => let w := widthOf w; intRes w (leNat (natLe (st.natA w) (w / 8)).reverse)

def execBswap (h : Head) (w : Width) (s : State) : Host.Outcome State Fault Refusal :=
  issueOne (.bswap h w) (specBswap w) s

/-- field, zero-extended (Table 7.8). -/
def specExtz (w : Width) : Spec :=
  compute .sh (some .opB) 1 fun st => let w := widthOf w; intRes w (fieldOf w (st.natA w) st.b.toNat).1

def execExtz (h : Head) (w : Width) (s : State) : Host.Outcome State Fault Refusal :=
  issueOne (.extz h w) (specExtz w) s

/-- field, sign-extended (Table 7.8). -/
def specExts (w : Width) : Spec :=
  compute .sh (some .opB) 1 fun st => let w := widthOf w; intRes w (wrap w (signExt (fieldOf w (st.natA w) st.b.toNat).1 (fieldOf w (st.natA w) st.b.toNat).2))

def execExts (h : Head) (w : Width) (s : State) : Host.Outcome State Fault Refusal :=
  issueOne (.exts h w) (specExts w) s

/-- A with a field replaced from B (Table 7.8). -/
def specIns (w : Width) : Spec :=
  compute .sh (some .opC) 1 fun st => let w := widthOf w; intRes w (insField w (st.natA w) (st.natB w) st.c.toNat)

def execIns (h : Head) (w : Width) (s : State) : Host.Outcome State Fault Refusal :=
  issueOne (.ins h w) (specIns w) s

/-- CRC-32C step; alone writes ZeroExt(r, 32) (Table 7.8). -/
def specCrc (w : Width) : Spec :=
  compute .sh (some .opB) 1 fun st => let w := widthOf w; crcRes w (crcBytes (natLe (st.b.toNat % 2 ^ w) (w / 8)) (st.a.toNat % 2 ^ 32))

def execCrc (h : Head) (w : Width) (s : State) : Host.Outcome State Fault Refusal :=
  issueOne (.crc h w) (specCrc w) s

/-! ## `mu` (Table 7.9) -/

/-- A × B (Table 7.9). -/
def specMul (w : Width) : Spec :=
  compute .mu (some .opB) 3 fun st => let w := widthOf w; intRes w (st.natA w * st.natB w % 2 ^ w)

def execMul (h : Head) (w : Width) (s : State) : Host.Outcome State Fault Refusal :=
  issueOne (.mul h w) (specMul w) s

/-- floor(sA × sB / 2^w) (Table 7.9). -/
def specMulh (w : Width) : Spec :=
  compute .mu (some .opB) 3 fun st => let w := widthOf w; intRes w (wrap w (st.intA w * st.intB w / (2 ^ w : Nat)))

def execMulh (h : Head) (w : Width) (s : State) : Host.Outcome State Fault Refusal :=
  issueOne (.mulh h w) (specMulh w) s

/-- floor(A × B / 2^w) (Table 7.9). -/
def specMulhn (w : Width) : Spec :=
  compute .mu (some .opB) 3 fun st => let w := widthOf w; intRes w (st.natA w * st.natB w / 2 ^ w)

def execMulhn (h : Head) (w : Width) (s : State) : Host.Outcome State Fault Refusal :=
  issueOne (.mulhn h w) (specMulhn w) s

/-- A × B + C (Table 7.9). -/
def specMac (w : Width) : Spec :=
  compute .mu (some .opC) 3 fun st => let w := widthOf w; intRes w ((st.natA w * st.natB w + st.natC w) % 2 ^ w)

def execMac (h : Head) (w : Width) (s : State) : Host.Outcome State Fault Refusal :=
  issueOne (.mac h w) (specMac w) s

/-- The signed quotient (Table 7.9). -/
def specDiv (h : Head) (w : Width) : Spec := divSpec (.div h w) true false w

def execDiv (h : Head) (w : Width) (s : State) : Host.Outcome State Fault Refusal :=
  issueOne (.div h w) (specDiv h w) s

/-- The natural quotient (Table 7.9). -/
def specDivn (h : Head) (w : Width) : Spec := divSpec (.divn h w) false false w

def execDivn (h : Head) (w : Width) (s : State) : Host.Outcome State Fault Refusal :=
  issueOne (.divn h w) (specDivn h w) s

/-- The signed remainder (Table 7.9). -/
def specRem (h : Head) (w : Width) : Spec := divSpec (.rem h w) true true w

def execRem (h : Head) (w : Width) (s : State) : Host.Outcome State Fault Refusal :=
  issueOne (.rem h w) (specRem h w) s

/-- The natural remainder (Table 7.9). -/
def specRemn (h : Head) (w : Width) : Spec := divSpec (.remn h w) false true w

def execRemn (h : Head) (w : Width) (s : State) : Host.Outcome State Fault Refusal :=
  issueOne (.remn h w) (specRemn h w) s

end Sys2Proof.Machine
end

