-- ==== Sys2Proof/Machine/Kiln.lean ====
section
/-! DEFINITION. The socket `kn` and the kilns: collectives, the tree over rank, attention triples, delivery, aborts (R323 to R342). -/

namespace Sys2Proof.Machine

/-! ## Values -/

/-- Element type of a collective. -/
def kilnFmt (ty : BitVec 2) : Fmt := if ty = 1 then .bf16 else .f32

/-- Combine of a plain operation (Table 14.1). -/
def plainCombine (op ty : BitVec 2) (a b : Nat) : Nat :=
  if ty = 2 then
    if op = 0 then (a + b) % 2 ^ 32
    else
      let less := decide (signExt a 32 < signExt b 32)
      if (op = 1) = less then b else a
  else if op = 0 then (fAdd (kilnFmt ty) .rne a b).code
  else (fMinMax (kilnFmt ty) (op = 1) a b).code

/-- Scale of a side of a combined row (R330). -/
def attnScale (x m : Nat) : Option Nat :=
  if x = m then none else some (fEx2 .f32 .rne (fSub .f32 .rne x m).code).code

/-- Combine of two attention rows (m, l, v) (R330). -/
def attnRow (a b : List Nat) : List Nat :=
  let ma := a.headD 0
  let mb := b.headD 0
  let nan := fmtNan .f32
  if isNan .f32 ma || isNan .f32 mb then List.replicate a.length nan
  else
    let m := (fMinMax .f32 true ma mb).code
    let rest : List Nat :=
      match attnScale ma m, attnScale mb m with
      | none, none => List.zipWith (fun x y => (fAdd .f32 .rne x y).code) a.tail b.tail
      | some k, _ => List.zipWith (fun x y => (fFma .f32 .rne false x k y).code) a.tail b.tail
      | none, some k => List.zipWith (fun x y => (fFma .f32 .rne false y k x).code) a.tail b.tail
    m :: rest

/-- Cuts a list into r rows of w entries. -/
def rowsOf (w : Nat) : Nat → List Nat → List (List Nat)
  | 0, _ => []
  | r + 1, l => l.take w :: rowsOf w r (l.drop w)

/-- Combine(a, b) (R325). -/
def combine (p : KParams) (a b : List Nat) : List Nat :=
  if p.op = 3 then (List.zipWith attnRow (rowsOf (p.n + 2) p.r a) (rowsOf (p.n + 2) p.r b)).flatten
  else List.zipWith (plainCombine p.op p.ty) a b

/-- Finishing of a row: the status dword and the outputs (R331, Table 14.2). -/
def finishRow (count : Nat) (row : List Nat) : List Byte :=
  let m := row.headD 0
  let l := row.tail.headD 0
  let v := row.drop 2
  let ninf := fmtInf .f32 + fmtSign .f32
  let (st, o) : Nat × List Nat :=
    if isNan .f32 m then (2, v.map fun _ => fmtNan .f32)
    else if m = ninf then (1, v.map fun _ => 0)
    else
      ((if l % fmtSign .f32 = 0 then 8 else 0) + (if m = fmtInf .f32 then 4 else 0),
       v.map fun x => (fDiv .f32 .rne x l).code)
  natLe (count * 2 ^ 32 + st) 8 ++ o.flatMap fun x => natLe x 4

/-- The bytes the root delivers (R332). -/
def KParams.deliver (p : KParams) (val : List Nat) : List Byte :=
  if p.op = 3 then
    if p.fin then (rowsOf (p.n + 2) p.r val).flatMap (finishRow p.c) else val.flatMap fun x => natLe x 4
  else val.flatMap fun x => natLe x (kilnElem p.ty)

/-- Encodings of a source (R328, R329). -/
def KParams.read (p : KParams) (bs : List Byte) : List Nat :=
  let w := if p.op = 3 then 4 else kilnElem p.ty
  (chunksOf w (bs.length / w) bs).map leNat

/-! ## The tree (R325, R326) -/

/-- Values that remain after `d` rounds. -/
def treeCount (c : Nat) : Nat → Nat
  | 0 => c
  | d + 1 => (treeCount c d + 1) / 2

/-- An odd last element passes up unchanged. -/
def liftNode (c : Nat) : Nat → Nat → Nat → Nat × Nat
  | 0, d, i => (d, i)
  | fuel + 1, d, i =>
    let k := treeCount c d
    if 1 < k ∧ k % 2 = 1 ∧ i + 1 = k then liftNode c fuel (d + 1) (i / 2) else (d, i)

def KPart.lift (k : KPart) : KPart :=
  let r := liftNode k.par.c 17 k.depth k.idx
  { k with depth := r.1, idx := r.2 }

/-- Rounds of the tree over c values. -/
def treeRounds (c : Nat) : Nat := ((List.range 17).find? fun d => treeCount c d ≤ 1).getD 17

/-- The bound from the last contribution's tag to the last byte of the result (R327). -/
def KParams.bound (p : KParams) : Nat :=
  let b := (p.resultBytes + 63) / 64
  if p.level = 0 then 400 + 2 * b else if p.level ≤ 2 then 1200 + 4 * b else 5000 + 4 * b

/-- The last tick on which a value reaches the kiln above it, so that what follows keeps the bound (R327). -/
def KPart.latest (k : KPart) : Option Nat := k.until_.map fun d => d - (treeRounds k.par.c - k.depth)

/-- Do two values belong to one generation of one collective (R323)? -/
def KPart.sameKey (x y : KPart) : Bool :=
  x.launch == y.launch && x.par.level == y.par.level && x.dom == y.dom && x.id == y.id && x.gen == y.gen

/-- Is the collective of a slot of a tile not yet performed: a kiln holds a value of it, or one is on its way, or a part of its result is (R332)? -/
def State.kilnHolds (s : State) (a : Nat) (l : Dword) (x : KSlot) : Bool :=
  let dom := domOf a x.par.level
  ((s.kiln ++ s.kilnAir).any fun k => k.launch == l && k.id == x.id && k.gen == x.gen && k.par.level == x.par.level && k.dom == dom)
    || s.packets.any fun p => p.launch == l && p.coll == some (x.id, x.gen, x.par.level, dom)

/-- The kiln in which the node above a value is combined (R326): a quad's, by its address, or a die's. -/
def State.kilnOf (s : State) (k : KPart) : Bool × Nat :=
  let lo := k.idx / 2 * 2 ^ (k.depth + 1)
  let ts := s.ranked k lo (min (lo + 2 ^ (k.depth + 1)) k.par.c)
  let low := match ts.find? fun t => (t.domReg k.par.level).toNat % 2 ^ 32 = k.par.rankBase + lo with
    | some t => t.addr
    | none => k.dom
  if ts.all fun t => dieOf t.addr == dieOf low then (false, quadOf low) else (true, dieOf low)

/-- Bytes of partial values held in a kiln. -/
def State.kilnBytes (s : State) (w : Bool × Nat) : Nat :=
  ((s.kiln.filter fun k => s.kilnOf k == w).map fun k => k.par.resultBytes).sum

/-! ## Delivery and aborts -/

/-- Cuts the result into packets for its zone (R332), which are counted there within the bound of R327. -/
def State.kilnSend (s : State) (k : KPart) : State :=
  let by_ : Option Nat := k.until_.map fun d => d - s.tick - 1
  let p := k.par
  let bs := p.deliver k.val
  match (s.viewTiles k.launch).find? fun t => t.runs ∧ (t.domReg 3).toNat % 2 ^ 32 = p.dstRank with
  | none => s
  | some t =>
    let starts := packetStarts p.off bs.length
    starts.zipIdx.foldl (fun s x =>
      let n := (starts.getD (x.2 + 1) bs.length) - x.1
      s.sendWithin by_ { id := 0, launch := k.launch, src := none, dst := t.addr, zone := p.zone, off := p.off + x.1,
                         level := p.level, rank := p.rankBase, data := (bs.drop x.1).take n,
                         coll := some (k.id, k.gen, p.level, k.dom) }) s

/-- Detail of an abort (Table 18.1). -/
def abortDetail (c : Cause) (unit id : Nat) (gen : Half) : Nat :=
  if c = .exchangeFault then 2 ^ 63 + gen.toNat * 2 ^ 16 + id else unit

/-- Is the slot that of a value's collective, as its tile counts it (R323)? -/
def KSlot.isOf (x : KSlot) (k : KPart) : Bool := x.id == k.id && x.gen == k.gen && x.par.level == k.par.level

def genOf (id : Nat) (l : List (Nat × Half)) : Half := match l.find? fun e => e.1 = id with | some e => e.2 | none => 0

/-- Is the generation of a value still to be declared by the tile? Generations count modulo 2^16 (R323). -/
def Tile.genAhead (t : Tile) (k : KPart) : Bool :=
  let d := k.gen - genOf k.id t.kgens
  d != 0 && decide (d.toNat < 2 ^ 15)

/-- An abort reaches the tile of a contributor rank (R339). `skip` already takes its own cause; a halted tile keeps no notice, nor one that is past the generation. -/
def State.abortAt (s : State) (a : Nat) (k : KPart) (c : Cause) (unit : Nat) (skip : Bool) : State :=
  let t := s.tileAt a
  match t.kslots.find? fun x => x.isOf k with
  | some x =>
    let s := s.onTile a fun t => { t with kslots := t.kslots.map fun y => if y.isOf k then { y with abort := some c } else y }
    if skip || !t.canTake x.bank x.task then s
    else s.onTile a fun t => t.giveCause
      { bank := x.bank, cause := c, kind := .late, origin := x.origin, seq := x.seq, since := s.tick, task := x.task,
        detail := BitVec.ofNat 64 (abortDetail c unit k.id k.gen) }
  | none =>
    if (t.bank 0).life == .halted || !t.genAhead k then s
    else s.onTile a fun t => { t with knotices := (k.id, k.gen, k.par.level, c, unit) :: t.knotices.filter fun n => n.1 ≠ k.id }

/-- The values of a value's generation, held or on their way. -/
def State.mates (s : State) (k : KPart) : List KPart := (s.kiln ++ s.kilnAir).filter fun x => x.sameKey k

/-- The tiles of the contributors of a generation: those of the ranks that its values name, and those that have declared it (R323, R339). -/
def State.contributors (s : State) (k : KPart) : List Tile :=
  let ts := s.ranked k 0 k.par.c ++ (s.mates k).flatMap fun x => s.ranked x 0 x.par.c
  (s.viewTiles k.launch).filter fun t =>
    (ts.any fun u => u.addr == t.addr)
      || (t.runs && domOf t.addr k.par.level == k.dom && t.kslots.any fun x => x.isOf k)

/-- An uncorrectable partial is counted against the quad of its kiln, where that is a quad's, and recorded (R439 to R441). -/
def State.kilnBad (s : State) (k : KPart) : State :=
  let w := s.kilnOf k
  let s := if w.1 then s else s.countErr w.2 fun e => { e with unc := e.unc + 1 }
  s.tileRecord 2 (if w.1 then k.dom else w.2) .dataUncorrectable 9 0 k.launch

/-- A partial with a single-bit error is corrected in place, counted and recorded. -/
def State.kilnSoft (s : State) (k : KPart) : State :=
  if !k.soft then s
  else
    let w := s.kilnOf k
    let s := if w.1 then s else s.countErr w.2 fun e => { e with corr := e.corr + 1 }
    s.corrected 1 9 (s.mtile (if w.1 then k.dom else w.2))

/-- A generation aborts: its values are discarded and every contributor is told (R339). -/
def State.abort (s : State) (k : KPart) (c : Cause) (unit : Nat) (skip : Option Nat) : State :=
  let ts := s.contributors k
  let s := { s with kiln := s.kiln.filter fun x => !x.sameKey k, kilnAir := s.kilnAir.filter fun x => !x.sameKey k }
  ts.foldl (fun s t => s.asPrev t.addr k.launch fun s => s.abortAt t.addr k c unit (skip == some t.addr)) s

/-! ## Kilns -/

/-- A value is on its way to the kiln above it for a free time, within the bound of R327 where that holds. -/
def State.kilnHop (s : State) (k : KPart) : State :=
  s.sched 1 (k.latest.map fun d => d - s.tick - 1) .kilnChildArrival { child := k.child }

/-- Does a link on the paths of a value's collective retrain, or run an exchange window (R327)? -/
def State.linksBusy (s : State) (k : KPart) : Bool :=
  (s.retrain.any fun e => decide (s.tick < e.2.2) && s.dieLinkOf (e.1, e.2.1) k) || s.tiles.any fun t => t.window.isSome && s.windowOn t.addr k

/-- Have all contributors that a value's parameters name sent their values? -/
def State.allSent (s : State) (k : KPart) : Bool :=
  let ts := s.ranked k 0 k.par.c
  decide (k.par.c ≤ ts.length) && ts.all fun t => t.kslots.any fun x => x.isOf k && x.tagSet

/-- The last contribution's tag is set: from now on the bound of R327 runs, and what is on its way arrives within it. -/
def State.kilnClock (s : State) (k : KPart) : State :=
  if s.allSent k && !s.linksBusy k then
    let set (x : KPart) : KPart := if x.sameKey k then { x with until_ := some (s.tick + k.par.bound) } else x
    let s : State := { s with kiln := s.kiln.map set, kilnAir := s.kilnAir.map set }
    { s with agenda := s.agenda.map fun e =>
        match e.2.1, (s.kilnAir.find? fun x => x.child = e.2.2.child).bind KPart.latest with
        | .kilnChildArrival, some d => (min e.1 d, e.2)
        | _, _ => e }
  else s

/-- A generation whose contributors have all sent, of which nothing is on its way and a value is held, was declared with different parameters: it aborts (R324; DESIGN CHOICE, log 88). -/
def State.kilnStuck (s : State) (k : KPart) : Bool :=
  !(s.kilnAir.any fun x => x.sameKey k) && s.kiln.any fun x => x.sameKey k && s.allSent x

/-- A value goes on its way to the kiln above it, or the result is delivered. -/
def State.kilnGo (s : State) (k : KPart) : State :=
  let k := k.lift
  if treeCount k.par.c k.depth ≤ 1 then
    if k.bad then (s.kilnBad k).abort k .dataUncorrectable 9 none else s.kilnSend k
  else
    let k : KPart := { k with child := s.nextChild }
    State.kilnHop { s with kilnAir := s.kilnAir ++ [k], nextChild := s.nextChild + 1 } k

/-- A status word of `kn` with one more refusal (Table 14.4). -/
def knRefused (v : Dword) : Dword := if bits v.toNat 31 16 = 0xFFFF then v else v + 0x10000

/-- A refusal of a contribution whose slot is free: it is counted in the `kn.s` that holds its word (R326). -/
def Tile.knLate (t : Tile) (id : Nat) : Tile :=
  match ([0, 1, 2, 3] : List (BitVec 2)).find? fun k => t.knBy[k.toNat]'k.isLt == some id with
  | some k => t.onBank k fun b => b.setSock .kn { b.sock .kn with s := knRefused (b.sock .kn).s }
  | none => t

/-- A child that its kiln has no room for is sent again 64 ticks later (R326). -/
def State.childRefused (s : State) (k : KPart) : State :=
  let s : State := match k.src with
    | some (a, id) =>
      (match s.op? a id with
       | some o => s.putOp a { o with refusals := o.refusals + 1, res := o.res.map fun r => { r with s := knRefused r.s : Res } }
       | none => s.onTile a fun t => t.knLate id)
    | none => s
  let s := s.kilnHinder k.sameKey
  { s.countRef with agenda := s.agenda ++ [(s.tick + 64, .packetRetry, { child := k.child, off := 1 })] }

/-- KILN_CHILD_ARRIVAL: the value is combined with its held sibling, held, or refused (R324 to R326). -/
def execKilnChildArrival (s : State) : Host.Outcome State Fault Refusal :=
  match s.kilnAir.find? fun k => k.child = s.ev.child with
  | none => .next s
  | some k =>
    let s := s.kilnSoft k
    let k : KPart := { k with soft := false }
    let gone (s : State) : State := { s with kilnAir := s.kilnAir.filter fun x => x.child ≠ k.child }
    match s.kiln.find? fun x => x.sameKey k && x.depth == k.depth && x.idx / 2 == k.idx / 2 with
    | some x =>
      if x.par ≠ k.par then .next (s.abort k .exchangeFault 0 none)
      else if x.bad || k.bad then .next ((s.kilnBad k).abort k .dataUncorrectable 9 none)
      else
        let v := if x.idx < k.idx then combine k.par x.val k.val else combine k.par k.val x.val
        let s := gone { s with kiln := s.kiln.filter fun y => y.child ≠ x.child }
        .next (s.kilnGo { k with depth := k.depth + 1, idx := k.idx / 2, val := v, src := none })
    | none =>
      let w := s.kilnOf k
      if (if w.1 then 0x40000 else 0x8000) < s.kilnBytes w + k.par.resultBytes then .next (s.childRefused k)
      else
        let s : State := { gone s with kiln := s.kiln ++ [k] }
        .next (if s.kilnStuck k then s.abort k .exchangeFault 0 none else s)

/-! ## Triggers -/

/-- Parameters of a `kopen` (R335). -/
def kopenPar (st : Start) : KParams :=
  { level := busBits st.c 10 8, op := BitVec.ofNat 2 (busBits st.c 13 12), ty := BitVec.ofNat 2 (busBits st.c 15 14),
    n := busBits st.c 24 16, r := busBits st.c 27 25 + 1, fin := st.c.getLsbD 28, rankBase := busBits st.a 15 0,
    c := busBits st.a 31 16, dstRank := busBits st.b 63 32, zone := busBits st.b 23 20, off := busBits st.b 18 0 }

/-- `kopen` (R335). -/
def specKopen : Spec :=
  { sock := .kn, opnd := some .opC, run := fun st i =>
      let p := kopenPar st
      let t := i.st.self
      let d := t.domReg p.level
      let rank := d.toNat % 2 ^ 32
      let bad : Bool := decide (3 < p.level) || p.ty == 3 || (p.op == 3 && p.ty != 0) || p.n == 0 || decide (256 < p.n)
        || (p.op != 3 && (decide (1 < p.r) || p.fin)) || decide (256 < p.r * p.n) || p.c == 0
        || decide (d.toNat / 2 ^ 32 < p.rankBase + p.c) || decide (rank < p.rankBase) || decide (p.rankBase + p.c ≤ rank)
      if bad then .error (.trap .exchangeFault 0 0)
      else if (t.domReg 3).toNat / 2 ^ 32 ≤ p.dstRank then .error (.trap .protectionFault 0 0)
      else if p.off % 4 ≠ 0 then .error (faultAt .misaligned p.off)
      else if 0x60000 < p.off + p.resultBytes then .error (faultAt .localRange p.off)
      else .ok { i with st := enqueue st i.st (newOp st .kopen false 0) } }

/-- `kpart` and `kattn` (R336). -/
def contribSpec (attn : Bool) : Spec :=
  { sock := .kn, opnd := some .opB, run := fun st i =>
      let l := busBits st.a 31 0
      if l % 4 ≠ 0 then .error (faultAt .misaligned l)
      else .ok { i with st := enqueue st i.st { newOp st (if attn then .kattn else .kpart) false 0 with
                                                 tag := some (BitVec.ofNat 6 (busBits st.b 13 8)) } } }

def specKpart : Spec := contribSpec false
def specKattn : Spec := contribSpec true

/-- `kfin` (R337). -/
def specKfin : Spec :=
  { sock := .kn, opnd := some .opC, run := fun st i =>
      let src := busBits st.a 31 0
      let dst := busBits st.b 31 0
      let n := busBits st.c 8 0
      let r := busBits st.c 14 12 + 1
      let size := r * (8 + 4 * n)
      if n = 0 ∨ 256 < n ∨ 256 < r * n then .error (.trap .exchangeFault 0 0)
      else if src % 4 ≠ 0 ∨ dst % 4 ≠ 0 then .error (faultAt .misaligned (if src % 4 ≠ 0 then src else dst))
      else if 0x60000 < src + size ∨ 0x60000 < dst + size then
        .error (faultAt .localRange (if 0x60000 < src + size then src else dst))
      else .ok { i with st := enqueue st i.st { newOp st .kfin false 0 with tag := some (BitVec.ofNat 6 (busBits st.c 21 16)) } } }

/-- `kres` (R338). -/
def specKres : Spec :=
  { sock := .kn, opnd := some .opA, run := fun st i => .ok { i with st := enqueue st i.st (newOp st .kres true 0) } }

def execKopen (h : Head) (s : State) : Host.Outcome State Fault Refusal := issueOne (.kopen h) specKopen s
def execKpart (h : Head) (s : State) : Host.Outcome State Fault Refusal := issueOne (.kpart h) specKpart s
def execKattn (h : Head) (s : State) : Host.Outcome State Fault Refusal := issueOne (.kattn h) specKattn s
def execKfin (h : Head) (s : State) : Host.Outcome State Fault Refusal := issueOne (.kfin h) specKfin s
def execKres (h : Head) (s : State) : Host.Outcome State Fault Refusal := issueOne (.kres h) specKres s

/-! ## The engine -/

/-- The status word of `kn` (Table 14.4). -/
def knStatus (o : DlOp) (abort nos : Bool) : Dword :=
  BitVec.ofNat 64 (o.refBits + abort.toNat * 4 + nos.toNat * 2 + 1)

/-- The slot of an id that is held. -/
def Tile.kslot (t : Tile) (id : Nat) : Option KSlot := t.kslots.find? fun x => x.id = id ∧ !x.released

/-- An operation of `kn` is performed: its slot is freed. -/
def Tile.knDone (t : Tile) (o : DlOp) (now : Nat) (x : Option Bus) (st : Dword) : Tile :=
  t.putOp { o with st := .performed, due := now + 1, res := some { x := x, s := st } }

/-- `kopen` at the head of the queue (R323, R335, R339). -/
def State.kopenAt (s : State) (a : Nat) (o : DlOp) : State :=
  let t := s.tileAt a
  let id := busBits o.c 7 0
  if (t.kslot id).isSome ∨ 4 ≤ (t.kslots.filter fun x => !x.released).length then s.engineFault a o .exchangeFault 0 0
  else
    let gen := genOf id t.kgens + 1
    let par := kopenPar { sock := .kn, bank := o.bank, a := o.a, b := o.b, c := o.c, v := 0, origin := o.origin, next := 0,
                          seq := o.seq, bus := 0, locked := true, fmt := 0 }
    let note := t.knotices.find? fun n => n.1 = id ∧ n.2.1 = gen ∧ n.2.2.1 = par.level
    let slot : KSlot := { id := id, gen := gen, par := par, abort := note.map fun n => n.2.2.2.1, bank := o.bank,
                          origin := o.origin, seq := o.seq, task := o.task }
    let s := s.onTile a fun t =>
      { (t.knDone o s.tick none (knStatus o false false)) with
        kslots := slot :: t.kslots.filter fun x => x.id ≠ id || s.kilnHolds a t.launchId x
        kgens := putKeyed id gen t.kgens
        knotices := t.knotices.filter fun n => n.1 ≠ id }
    match note with
    | some n => s.onTile a fun t => t.giveCause (o.pending n.2.2.2.1 0 (abortDetail n.2.2.2.1 n.2.2.2.2 id gen) s.tick)
    | none => s

/-- The contribution that a slot makes (R336). -/
def Tile.leafOf (t : Tile) (x : KSlot) (val : List Nat) (o : DlOp) : KPart :=
  let rank := (t.domReg x.par.level).toNat % 2 ^ 32
  { child := 0, launch := t.launchId, dom := domOf t.addr x.par.level, id := x.id, gen := x.gen, par := x.par, depth := 0,
    idx := rank - x.par.rankBase, val := val, src := some (t.addr, o.id) }

def Tile.putSlot (t : Tile) (x : KSlot) : Tile :=
  { t with kslots := t.kslots.map fun y => if y.id = x.id ∧ y.gen = x.gen then x else y }

/-- May a contribution read its source: behind the earlier operations on the same local bytes (R373), and with rel = 1 behind every earlier `dm`, `nt` and `kn` operation (R333)? -/
def State.contribReady (s : State) (a : Nat) (o : DlOp) : Bool :=
  let t := s.tileAt a
  t.localReady o
    && (!o.b.getLsbD 16
        || (s.pushesDone a o && (t.earlier o).all fun p => !(p.sock == .dm || p.sock == .nt || p.sock == .kn) || p.isDone s.tick))

/-- A contribution begins to read its source, 64 bytes a tick, as soon as it may (R333, R336); `prog` says that it has begun. -/
def State.contribBegin (s : State) (a : Nat) (o : DlOp) (size : Nat) : State :=
  if s.contribReady a o then s.putOp a { o with prog := 1, due := s.tick + (size + 63) / 64 } else s

/-- A contribution at the head of the queue: its checks, its tag, its slot's mark (R336). -/
def State.contribAt (s : State) (a : Nat) (o : DlOp) : State :=
  let t := s.tileAt a
  match t.kslot (busBits o.b 7 0) with
  | none => s.engineFault a { o with tag := none } .exchangeFault 0 0
  | some x =>
    let size := x.par.resultBytes
    if x.contributed ∨ (x.par.op = 3) ≠ (o.kind = .kattn) then s.engineFault a { o with tag := none } .exchangeFault 0 0
    else if 0x60000 < busBits o.a 31 0 + size then s.engineFault a { o with tag := none } .localRange (busBits o.a 31 0) 0
    else
      (s.onTile a fun t =>
        ((match o.tag with | some n => t.clearTag n.toNat | none => t).putSlot
          { x with contributed := true, tag := o.tag.getD 0 }).putOp { o with st := .active }) |>.contribBegin a { o with st := .active } size

/-- Every source byte has been read: the tag is set, and the value is sent (R333, R336). -/
def State.contribRead (s : State) (a : Nat) (o : DlOp) : State :=
  let t := s.tileAt a
  match t.kslots.find? fun x => x.id = busBits o.b 7 0 ∧ x.contributed ∧ !x.tagSet with
  | none => s.onTile a fun t => t.dropOp o.id
  | some x =>
    let ps := (List.range x.par.resultBytes).map (busBits o.a 31 0 + ·)
    let leaf := t.leafOf x [] o
    if t.badWords ps then
      (s.engineFault a o .dataUncorrectable (t.firstBad ps) 0).abort leaf .dataUncorrectable 0 (some a)
    else
      let r := s.sramRead a ps
      let s := r.2.onTile a fun t =>
        ((t.setTag x.tag.toNat).putSlot { x with tagSet := true }).knDone o s.tick none (knStatus o false false)
      if x.abort.isSome then s
      else
        let s := State.kilnGo (s.kilnClock leaf)
          { leaf with val := x.par.read r.1, until_ := if s.allSent leaf && !s.linksBusy leaf then some (s.tick + x.par.bound) else none }
        if s.kilnStuck leaf then s.abort leaf .exchangeFault 0 none else s

/-- `kfin` reads every row, then writes every row (R337). -/
def State.kfinEnd (s : State) (a : Nat) (o : DlOp) : State :=
  let n := busBits o.c 8 0
  let r := busBits o.c 14 12 + 1
  let w := 8 + 4 * n
  let ps := (List.range (r * w)).map (busBits o.a 31 0 + ·)
  if (s.tileAt a).badWords ps then s.engineFault a o .dataUncorrectable ((s.tileAt a).firstBad ps) 0
  else
    let rd := s.sramRead a ps
    let rows := rowsOf (n + 2) r ((chunksOf 4 (r * (n + 2)) rd.1).map leNat)
    let bs := rows.flatMap (finishRow 1)
    rd.2.onTile a fun t =>
      let t := t.engineWrite (((List.range (r * w)).map (busBits o.b 31 0 + ·)).zip bs)
      (match o.tag with | some g => t.setTag g.toNat | none => t).knDone o s.tick none (knStatus o false false)

/-- The state word of `kres` (Table 14.5). -/
def kresWord (x : KSlot) (rel : Bool) : Nat :=
  (match x.abort with | some c => c.code * 2 ^ 56 + 8 | none => 0)
    + x.gen.toNat * 2 ^ 32 + x.id * 2 ^ 16 + rel.toNat * 4 + x.tagSet.toNat * 2 + x.contributed.toNat

/-- `kres` at the head of the queue (R338). -/
def State.kresAt (s : State) (a : Nat) (o : DlOp) : State :=
  let t := s.tileAt a
  match t.kslot (busBits o.a 7 0) with
  | none => s.onTile a fun t => t.knDone o s.tick (some 0) (knStatus o false true)
  | some x =>
    let fin (rel : Bool) : State := s.onTile a fun t =>
      (t.putSlot { x with released := rel }).knDone o s.tick (some (BitVec.ofNat 512 (kresWord x rel))) (knStatus o x.abort.isSome false)
    if x.abort.isSome then fin true
    else if x.contributed then (if x.tagSet then fin true else s)
    else fin false

/-- One tick of the `kn` engine of a tile: the operation at the head goes on (R334). -/
def State.knTick (s : State) (a : Nat) : State :=
  let t := s.tileAt a
  match t.queue.find? fun o => o.old.isNone && o.sock == .kn && (o.st == .queued || o.st == .active) && t.atHead o with
  | none => s
  | some o =>
    match o.kind, o.st with
    | .kopen, .queued => s.kopenAt a o
    | .kpart, .queued | .kattn, .queued => if t.preHalted then s else s.contribAt a o
    | .kpart, .active | .kattn, .active =>
      if t.preHalted then s
      else if o.prog = 0 then
        (match t.kslots.find? fun x => x.id = busBits o.b 7 0 ∧ x.contributed ∧ !x.tagSet with
         | some x => s.contribBegin a o x.par.resultBytes
         | none => s.onTile a fun t => t.dropOp o.id)
      else if o.due ≤ s.tick then s.contribRead a o else s
    | .kfin, .queued =>
      let rows := busBits o.c 14 12 + 1
      let per := 4 + (busBits o.c 8 0 + 15) / 16
      s.onTile a fun t => (match o.tag with | some n => t.clearTag n.toNat | none => t).putOp
        { o with st := .active, due := s.tick + rows * per }
    | .kfin, .active => if o.due ≤ s.tick then s.kfinEnd a o else s
    | .kres, .queued => s.kresAt a o
    | _, _ => s

/-- The halt of a tile releases its slots; one that had not contributed aborts its generation (R340). -/
def State.kilnHalt (s : State) (a : Nat) : State :=
  let t := s.tileAt a
  let xs := t.kslots.filter fun x => !x.released
  let s := s.onTile a fun t => { t with kslots := t.kslots.map fun x => { x with released := true } }
  (xs.filter fun x => !x.contributed && x.abort.isNone).foldl (fun s x =>
    s.abort (t.leafOf x [] { newOp { sock := .kn, bank := 0, a := 0, b := 0, c := 0, v := 0, origin := 0, next := 0, seq := 0,
                                     bus := 0, locked := true, fmt := 0 } .kpart false 0 with id := 0 }) .exchangeFault 0 none) s

end Sys2Proof.Machine
end

