-- ==== Sys2Proof/Machine/Matrix.lean ====
section
/-! DEFINITION. The triggers of `mx` (R244, R255 to R260). -/

namespace Sys2Proof.Machine

/-- Slots of the command queue of `mx` in use: outstanding data-locked operations, and each `mrd` until its `mx.x` is read (R244). -/
def Tile.mxSlots (t : Tile) : Nat :=
  (t.mxq.filter fun o => o.locked && o.kind != .mrd).length + (t.queue.filter fun d => d.sock == .mx && d.slot).length

/-- A refusal: `mx.s` at the end of the trigger cycle, nothing else (R239, R244, R254). -/
def mxRefuse (st : Start) (v : Dword) (i : Issue) : Issue :=
  { i with st := i.st.onSelf fun t => t.mxWord i.st.tick st v }

/-- The check of R244, before every other check of an `mx` instruction. -/
def mxAdmit (st : Start) (acc : BitVec 2) (sp : Bool) (i : Issue) (k : Issue → Except Stop Issue) : Except Stop Issue :=
  let s := i.st.onSelf fun t => t.mxPrune i.st.tick
  let t := s.self
  if st.locked then
    if 2 ≤ t.mxq.length ∨ 2 ≤ t.mxSlots then .error .stall else k { i with st := s }
  else if 2 ≤ t.mxq.length then .ok (mxRefuse st (mxStatus acc false true false false false sp false) i)
  else k { i with st := s }

/-- Puts an operation at the end of the sequence; a data-locked one that is alone may start in the tick of its trigger (R245). -/
def mxEnqueue (st : Start) (kind : MxKind) (acc : BitVec 2) (occ : Nat) (claims : List (BitVec 3 × Nat)) (i : Issue) : Issue :=
  let s := i.st
  let t := s.self
  let o : MxOp :=
    { bank := st.bank, locked := st.locked, opId := t.nextOp, kind := kind, acc := acc, a := st.a, b := st.b,
      fmt := st.fmt, origin := st.origin, seq := st.seq, task := t.taskIn st.bank, occ := occ,
      claimNo := if st.locked then 0 else t.nextClaim, claims := claims }
  let s := s.onSelf fun t => { t with mxq := t.mxq ++ [o] }
  let s := if st.locked ∧ kind = .mrd then
      s.onSelf fun t =>
        { t with
          nextOp := t.nextOp + 1
          queue := t.queue ++ [{ id := o.opId, bank := st.bank, sock := .mx, a := st.a, b := st.b,
                                 c := st.c, origin := st.origin, seq := st.seq, asid := t.asid, born := s.tick,
                                 due := s.tick }] }
    else s
  { i with st := s.mxStart s.cur }

/-- The ring faults of R247, in its order; in free-running mode the lines must be present. -/
def mxRings (st : Start) (t : Tile) (cs : List (BitVec 3 × Nat)) : Except Stop Unit :=
  let names := cs.map (·.1)
  match cs.find? fun c => !(t.ring c.1).valid with
  | some c => .error (ringFault c.1)
  | none =>
    match names.find? fun r => decide (2 ≤ names.count r) with
    | some r => .error (ringFault r)
    | none =>
      match cs.find? fun c => decide ((t.ring c.1).lines < c.2) with
      | some c => .error (ringFault c.1)
      | none =>
        if st.locked then .ok ()
        else
          match cs.find? fun c => !t.linesPresent [c] with
          | some c => .error (ringFault c.1)
          | none => .ok ()

/-- `mx.mma` and `mx.mmas` (R256). -/
def mxMma (sp : Bool) (acc : BitVec 2) : Spec :=
  { sock := .mx, opnd := some .opB, run := fun st i =>
      mxAdmit st acc sp i fun i =>
        let nb := busBits st.b 15 0
        match mxForm sp nb st.fmt with
        | none => .ok (mxRefuse st (mxStatus acc true false false false false sp false) i)
        | some f =>
          let cs := f.claims sp nb st.a
          match mxRings st (i.st.self) cs with
          | .error e => .error e
          | .ok _ => .ok (mxEnqueue st (.mma sp) acc (if nb = 0 then 1 else nb * f.cycles sp) cs i) }

def specMma (acc : BitVec 2) : Spec := mxMma false acc
def specMmas (acc : BitVec 2) : Spec := mxMma true acc

/-- `mx.mzero` (R257). -/
def specMzero (acc : BitVec 2) : Spec :=
  { sock := .mx, opnd := none, run := fun st i =>
      mxAdmit st acc false i fun i => .ok (mxEnqueue st .mzero acc 1 [] i) }

/-- `mx.mrd` (R258). -/
def specMrd (acc : BitVec 2) : Spec :=
  { sock := .mx, opnd := some .opA, run := fun st i =>
      mxAdmit st acc false i fun i => .ok (mxEnqueue st .mrd acc 1 [] i) }

/-- The address checks of `mst` and `mld` (R259). -/
def mxBlockOp (kind : MxKind) (acc : BitVec 2) : Spec :=
  { sock := .mx, opnd := some .opA, run := fun st i =>
      mxAdmit st acc false i fun i =>
        let a := st.natA 32
        if a % 64 ≠ 0 then .error (.trap .misaligned (BitVec.ofNat 64 a) 0)
        else if a + 1024 > 0x60000 then .error (.trap .localRange (BitVec.ofNat 64 a) 0)
        else .ok (mxEnqueue st kind acc 16 [] i) }

def specMst (acc : BitVec 2) : Spec := mxBlockOp .mst acc
def specMld (acc : BitVec 2) : Spec := mxBlockOp .mld acc

/-- `mx.mmask` (R260). -/
def specMmask (acc : BitVec 2) : Spec :=
  { sock := .mx, opnd := some .opB, run := fun st i =>
      mxAdmit st acc false i fun i => .ok (mxEnqueue st .mmask acc 1 [] i) }

def execMma (h : Head) (a : BitVec 2) (s : State) : Host.Outcome State Fault Refusal := issueOne (.mma h a) (specMma a) s
def execMmas (h : Head) (a : BitVec 2) (s : State) : Host.Outcome State Fault Refusal := issueOne (.mmas h a) (specMmas a) s
def execMzero (h : Head) (a : BitVec 2) (s : State) : Host.Outcome State Fault Refusal := issueOne (.mzero h a) (specMzero a) s
def execMrd (h : Head) (a : BitVec 2) (s : State) : Host.Outcome State Fault Refusal := issueOne (.mrd h a) (specMrd a) s
def execMst (h : Head) (a : BitVec 2) (s : State) : Host.Outcome State Fault Refusal := issueOne (.mst h a) (specMst a) s
def execMld (h : Head) (a : BitVec 2) (s : State) : Host.Outcome State Fault Refusal := issueOne (.mld h a) (specMld a) s
def execMmask (h : Head) (a : BitVec 2) (s : State) : Host.Outcome State Fault Refusal := issueOne (.mmask h a) (specMmask a) s

end Sys2Proof.Machine
end

