-- ==== Sys2Proof/Machine/TaskFamily.lean ====
section
/-! DEFINITION. The socket `tk`: tasks, switching, mailboxes, timer, saves and loads (R392 to R411, R486). -/

namespace Sys2Proof.Machine

/-! ## Triggers (R404) -/

/-- A `tk` operation is queued; its mode, bank and id are checked (R404). -/
def tkSpec (k : OpKind) (opnd : Option Opnd) (wx : Bool) (banks : List (BitVec 2)) (check : Start → Option Stop) : Spec :=
  { sock := .tk, opnd := opnd, run := fun st i =>
      if !(i.st.self).tasked ∨ !banks.contains st.bank then .error (.trap .illegalBundle 0 0)
      else
        match check st with
        | some e => .error e
        | none => .ok { i with st := enqueue st i.st (newOp st k wx 0) } }

/-- An id that names no task (R404). -/
def idCheck (id : Nat) : Option Stop := if id = 0 ∨ 32 ≤ id then some (.trap .taskOverflow 0 0) else none

/-- `spawn` (R405). -/
def specSpawn : Spec :=
  tkSpec .spawn (some .opC) false [0] fun st =>
    let kind := busBits st.c 13 12
    let area := busBits st.c 50 32
    match idCheck (busBits st.c 4 0) with
    | some e => some e
    | none =>
      if kind = 3 then some (.trap .taskOverflow 0 0)
      else if kind ≤ 1 ∧ area % 16 ≠ 0 then some (faultAt .misaligned area)
      else if kind ≤ 1 ∧ 0x60000 < area + 272 then some (faultAt .localRange area)
      else none

def noCheck (_ : Start) : Option Stop := none
def aCheck (st : Start) : Option Stop := idCheck (busBits st.a 31 0)

def specYield : Spec := tkSpec .yield none false [1, 2] noCheck
def specSleep : Spec := tkSpec .sleep (some .opA) false [1, 2] noCheck
def specWake : Spec := tkSpec .wake (some .opA) false [0, 1, 2] aCheck
def specPrio : Spec := tkSpec .prio (some .opB) true [0] aCheck
def specTimer : Spec := tkSpec .timer (some .opA) true [0] noCheck
/-- `next` keeps its trigger value, whose bit 63 asks for the read form (R408). -/
def specNext : Spec :=
  { sock := .tk, opnd := none, run := fun st i =>
      if !(i.st.self).tasked ∨ st.bank ≠ 0 then .error (.trap .illegalBundle 0 0)
      else .ok { i with st := enqueue st i.st { newOp st .next true 0 with val := (st.v.getLsbD 63).toNat } } }
/-- `resume` (R409). -/
def specResume : Spec :=
  tkSpec .resume (some .opB) true [0] fun st =>
    match aCheck st with
    | some e => some e
    | none => if busBits st.b 1 0 = 3 then some (.trap .taskOverflow 0 0) else none
def specMsgrd : Spec := tkSpec .msgrd none true [0, 1, 2] noCheck
def specCload : Spec := tkSpec .cload none true [0, 1, 2] noCheck
def specTidle : Spec := tkSpec .tidle none true [0] noCheck

def execSpawn (h : Head) (s : State) : Host.Outcome State Fault Refusal := issueOne (.spawn h) specSpawn s
def execYield (h : Head) (s : State) : Host.Outcome State Fault Refusal := issueOne (.yield h) specYield s
def execSleep (h : Head) (s : State) : Host.Outcome State Fault Refusal := issueOne (.sleep h) specSleep s
def execWake (h : Head) (s : State) : Host.Outcome State Fault Refusal := issueOne (.wake h) specWake s
def execPrio (h : Head) (s : State) : Host.Outcome State Fault Refusal := issueOne (.prio h) specPrio s
def execTimer (h : Head) (s : State) : Host.Outcome State Fault Refusal := issueOne (.timer h) specTimer s
def execNext (h : Head) (s : State) : Host.Outcome State Fault Refusal := issueOne (.next h) specNext s
def execResume (h : Head) (s : State) : Host.Outcome State Fault Refusal := issueOne (.resume h) specResume s
def execMsgrd (h : Head) (s : State) : Host.Outcome State Fault Refusal := issueOne (.msgrd h) specMsgrd s
def execCload (h : Head) (s : State) : Host.Outcome State Fault Refusal := issueOne (.cload h) specCload s
def execTidle (h : Head) (s : State) : Host.Outcome State Fault Refusal := issueOne (.tidle h) specTidle s

/-! ## Control blocks and saved contexts -/

def TaskState.code : TaskState → Nat
  | .free => 0 | .ready => 1 | .running => 2 | .sleep => 3 | .parked => 4 | .saving => 5 | .loading => 6 | .inbound => 7
  | .selected => 8

/-- The control block word (Table 17.1). -/
def Block.word (b : Block) : Nat :=
  b.area * 2 ^ 44 + b.age * 2 ^ 32 + b.mail.length * 2 ^ 17 + b.wk.toNat * 2 ^ 16 + b.eprio.toNat * 2 ^ 10
    + b.bprio.toNat * 2 ^ 8 + b.loc.toNat * 2 ^ 6 + b.state.code

/-- The saved context of a strand (Table 17.2). -/
def contextBytes (b : Strand) (bprio : BitVec 2) (id : Nat) : List Byte :=
  (b.g.toList.flatMap fun g => natLe g.toNat 8) ++ natLe b.pc.toNat 4 ++ [BitVec.ofNat 8 bprio.toNat, b.b &&& 0xFE] ++ natLe id 2
    ++ natLe b.fmt.toNat 2 ++ [BitVec.ofNat 8 b.flags.toNat] ++ List.replicate 5 0

/-- The strand that a saved context describes (R394). -/
def contextStrand (bs : List Byte) : Strand :=
  let at_ (off n : Nat) : Nat := leNat ((bs.drop off).take n)
  { g := Vector.ofFn fun i => BitVec.ofNat 64 (at_ (8 * i.val) 8)
    pc := BitVec.ofNat 32 (at_ 0x100 4)
    b := BitVec.ofNat 8 (at_ 0x105 1) &&& 0xFE
    fmt := BitVec.ofNat 13 (at_ 0x108 2)
    flags := BitVec.ofNat 6 (at_ 0x10A 1)
    life := .live }

def areaSpan (area : Nat) : List Nat := (List.range 272).map (area + ·)

/-- Is the task in bank `k` compact (R394)? -/
def Tile.compact (t : Tile) (k : BitVec 2) : Bool :=
  let b := t.bank k
  b.flight.isEmpty && b.levels.isEmpty && !b.passEnd && b.idle == 0 && b.fmtLeft == 0 && !b.fmtDue
    && !(t.queue.any fun o => o.bank == k) && !(t.mxq.any fun o => o.bank == k)
    && b.socks.toList.all fun c => !c.fullX && !c.fullY

/-! ## Switching -/

/-- The tile switches to a resident task: its first bundle 4 ticks later (R409). -/
def Tile.switchTo (t : Tile) (now i : Nat) : Tile :=
  let k := (t.tasks.block i).loc
  let t := t.onTasks fun q =>
    { q.onBlock i (fun b => { b with state := .running }) with
        current := some i, runCount := 0, own := [], raisedPreempt := false, raisedTimer := false, raisedKmsg := false,
        since := 0 }
  { t with run := k, ready := max t.ready (now + 4), stalled := 0, stallFrom := none }

/-- Bank0's outstanding `resume` returns with the upcall word (R396). -/
def Tile.resumeEnd (t : Tile) (now w : Nat) : Tile :=
  match t.queue.find? fun o => o.kind == .resume && o.st == .waiting with
  | some o => t.tkDone o now (some (BitVec.ofNat 512 w)) (tkStatus false false false)
  | none => t

/-- The causes raised for the running task, in the order of R486. -/
def Tasks.raisedCauses (k : Tasks) : List Upcall :=
  k.own ++ (if k.raisedPreempt then [.preempt] else [])
    ++ (if k.raisedTimer then [.timer] else []) ++ (if k.raisedKmsg then [.kmsg] else [])

/-- Has the strand of a bank a free-running operation in flight, of `mx` or of another socket? -/
def Tile.inFlight (t : Tile) (k : BitVec 2) : Bool :=
  !(t.bank k).flight.isEmpty || t.mxq.any fun o => o.bank == k && !o.locked && o.done.isNone

/-- Does the running task leave at this boundary (R396)? -/
def Tile.mustLeave (t : Tile) (now : Nat) : Bool :=
  t.tasked && !t.frozen && t.tasks.current.isSome && (t.run == 1 || t.run == 2)
    && (((!t.tasks.own.isEmpty || t.tasks.raisedKmsg) && decide (t.tasks.raisedTick < now))
        || ((t.tasks.raisedPreempt || t.tasks.raisedTimer) && decide (t.tasks.boundTick < now)
            && (!t.inFlight t.run || decide (64 ≤ t.tasks.since))))

/-- Is an access of a task pending (R277)? -/
def Tile.accessPending (t : Tile) (u : Nat) : Bool :=
  t.queue.any fun o => o.task == some u && (match o.st with | .pending _ => true | _ => false)

/-- State of the task after its cause (Table 17.3). A task parked for an access that has been resolved meanwhile is READY. -/
def Tile.afterLeave (t : Tile) (now u : Nat) (c : Upcall) : Tile :=
  let ready (head : Bool) : Tile :=
    t.onTasks fun k => (k.onBlock u fun b => { b with state := .ready }).enter u head
  match c with
  | .yield | .timer => ready false
  | .preempt | .kmsg => ready true
  | .sleep => t.onTasks fun k => k.onBlock u fun b => { b with state := .sleep }
  | .halt =>
    let k := (t.tasks.block u).loc
    ((t.clearBank k {}).orphan u).onTasks fun q => q.setBlock u {}
  | .fault =>
    if t.accessPending u then
      t.onTasks fun k => k.onBlock u fun b => { b with state := .parked }
    else ready false
  | .none | .ready => let _ := now; t

/-- A task that leaves for another cause of its own while an access of it is pending is parked as well (R400). -/
def Tile.parkLeft (t : Tile) (u : Nat) : Tile :=
  match (t.tasks.block u).state with
  | .ready | .sleep => if t.accessPending u then t.onTasks fun k => (k.onBlock u fun b => { b with state := .parked }).unready u else t
  | .free | .running | .parked | .saving | .loading | .inbound | .selected => t

/-- TASK_SWITCH_OUT: the running task leaves, bank0 runs again 4 ticks after the task's last bundle (R396, R486), or, on a tile that slept, d ticks after the tick on which it could (R401). A pending format of the task takes effect at the boundary (R169, R394); the wakes of its sleep are applied to the state that it has now. -/
def Tile.leaveTask (t : Tile) (now : Nat) : Tile :=
  match t.tasks.current, t.tasks.raisedCauses with
  | some u, c :: cs =>
    let last := (t.bank t.run).lastIssue
    let t := ((t.onBank t.run Strand.fmtNow).afterLeave now u c).parkLeft u
    let t := t.onTasks fun k =>
      { k.onBlock u (fun b => if c = .sleep then b else { b with deadline := none }) with
               current := none, own := [], raisedPreempt := false, raisedTimer := false, raisedKmsg := false, since := 0,
               pend := k.pend ++ cs.map fun c => (c, u) }
    let t := (t.applyWakes now u).resumeEnd now (upcallWord c u !t.tasks.pend.isEmpty)
    let d := if t.asleep then wakeDelay t.sleepd else 0
    { t with run := 0, ready := max t.ready (max (last + 4) (now + 1) + d), asleep := false, stalled := 0, stallFrom := none }
  | _, _ => t

def execTaskSwitchOut (s : State) : Host.Outcome State Fault Refusal :=
  .next (s.onTile s.ev.tile fun t => if t.mustLeave s.tick then t.leaveTask s.tick else t)

/-- The oldest pending upcall is delivered (R486). -/
def Tile.takePend (t : Tile) : Option (Nat × Tile) :=
  match t.tasks.pend with
  | [] => none
  | (c, i) :: r => some (upcallWord c i !r.isEmpty, t.onTasks fun k => { k with pend := r })

/-! ## Performing the operations -/

/-- `spawn` at the head of the queue (R405). -/
def Tile.doSpawn (t : Tile) (now : Nat) (o : DlOp) : Tile :=
  let id := busBits o.c 4 0
  let kind := busBits o.c 13 12
  let b := t.tasks.block id
  let fin (t : Tile) (ref_ : Bool) : Tile := t.tkDone o (now + 1) none (tkStatus false false ref_)
  if kind = 0 then
    if b.state = .free then (t.onTasks fun k => { k with work := some (.create o.id (now + 8)) }).putOp { o with st := .active }
    else fin t true
  else if kind = 1 then
    if b.state = .free then
      fin (t.onTasks fun k => k.setBlock id { state := .inbound, area := busBits o.c 50 32 }) false
    else fin t true
  else
    let free : Bool := match b.state with
      | .inbound => true
      | .ready | .sleep | .parked => b.loc == 0
      | .free | .running | .saving | .loading | .selected => false
    if free then fin ((t.orphan id).onTasks fun k => (k.setBlock id {}).unready id) false else fin t true

/-- The context that a create spawn writes (R405). -/
def spawnBytes (o : DlOp) : List Byte :=
  contextBytes { g := (Vector.replicate 32 0).set 0 (BitVec.ofNat 64 (busBits o.b 63 0)), pc := BitVec.ofNat 32 (busBits o.a 31 0) }
    (BitVec.ofNat 2 (busBits o.c 9 8)) (busBits o.c 4 0)

/-- SPAWN_CREATE_END (R405). -/
def execSpawnCreateEnd (s : State) : Host.Outcome State Fault Refusal :=
  let t := s.tileAt s.ev.tile
  match t.tasks.work with
  | some (.create id e) =>
    if s.tick < e then .next s
    else
      (match t.op? id with
       | none => .next (s.onTile s.ev.tile fun t => t.onTasks fun k => { k with work := none })
       | some o =>
         let n := busBits o.c 4 0
         let area := busBits o.c 50 32
         let p : BitVec 2 := BitVec.ofNat 2 (busBits o.c 9 8)
         .next (s.onTile s.ev.tile fun t =>
           let t := t.engineWrite ((areaSpan area).zip (spawnBytes o))
           let t := t.onTasks fun k =>
             { k.setBlock n { bprio := p, eprio := p, area := area, mail := (k.block n).mail } with work := none }
           (t.makeReady s.tick n false).tkDone o (s.tick + 1) none (tkStatus false false false)))
  | some (.save _ _ _ _) | some (.load _ _ _ _) | none => .next s

/-- `sleep` performed (R406): with a wake or a message pending it returns at once. -/
def Tile.doSleep (t : Tile) (now : Nat) (o : DlOp) : Tile :=
  match o.task with
  | none => t.tkDone o (now + 1) none (tkStatus false false false)
  | some u =>
    let b := t.tasks.block u
    if b.wk ∨ b.mail ≠ [] then
      (t.onTasks fun k => k.onBlock u fun b => { b with wk := false }).tkDone o (now + 1) none (tkStatus true false false)
    else
      let units := busBits o.a 31 0
      let dl : Option Nat := if units = 0 then none else some units
      let t := t.onTasks fun k => k.onBlock u fun b => { b with deadline := dl }
      let t := if t.tasks.current = some u then t.raiseOwn now .sleep
        else
          match b.state with
          | .ready | .selected => t.onTasks fun k => (k.onBlock u fun b => { b with state := .sleep }).unready u
          | .free | .running | .sleep | .parked | .saving | .loading | .inbound => t
      t.tkDone o (now + 1) none (tkStatus false false false)

/-- `prio` performed (R407). -/
def Tile.doPrio (t : Tile) (now : Nat) (o : DlOp) : Tile :=
  let id := busBits o.a 31 0
  let b := t.tasks.block id
  let x : Option Bus := some (BitVec.ofNat 512 b.word)
  if o.b.getLsbD 63 then t.tkDone o (now + 1) x (tkStatus false false false)
  else if b.state = .free then t.tkDone o (now + 1) x (tkStatus false false true)
  else
    let p : BitVec 2 := BitVec.ofNat 2 (busBits o.b 1 0)
    let t := t.onTasks fun k => k.onBlock id fun b => { b with bprio := p, eprio := p, age := 0 }
    let t := if b.state = .ready then t.onTasks fun k => k.enter id false else t
    t.tkDone o (now + 1) x (tkStatus false false false)

/-- `next` performed (R408). -/
def Tile.doNext (t : Tile) (now : Nat) (o : DlOp) : Tile :=
  match t.tasks.headId with
  | none => t.tkDone o (now + 1) (some 0) (tkStatus false true false)
  | some i =>
    let t := if o.val = 1 then t
      else t.onTasks fun k => (k.onBlock i fun b => { b with state := .selected, eprio := b.bprio, age := 0 }).unready i
    t.tkDone o (now + 1) (some (BitVec.ofNat 512 i)) (tkStatus false false false)

/-- Begins the load of a task into a bank: 8 ticks (R409). -/
def Tile.startLoad (t : Tile) (op id : Nat) (k : BitVec 2) (endTick : Nat) : Tile :=
  t.onTasks fun q => { q.onBlock id (fun b => { b with state := .loading }) with work := some (.load op id k.toNat endTick) }

/-- Is bank `k` free of the operations of a halted task: each has completed, and none of `mx` is outstanding (R396, R409)? -/
def Tile.bankFree (t : Tile) (now : Nat) (k : BitVec 2) : Bool :=
  t.queue.all (fun o => o.bank != k || (o.isDone now && !(o.sock == .dm && !o.wx))) && t.mxq.all fun o => o.bank != k

/-- `resume` at the head of the queue (R409). A tile in its handler switches, or begins to load, after its return (DEDUCED, log 45); after the halt of bank0 it is refused, for its tasks are discarded (R396). -/
def Tile.doResume (t : Tile) (now : Nat) (o : DlOp) : Tile :=
  let id := busBits o.a 31 0
  let k : BitVec 2 := BitVec.ofNat 2 (busBits o.b 1 0)
  let refuse : Tile := t.tkDone o (now + 1) (some 0) (tkStatus false false true)
  match t.takePend with
  | some (w, t) => t.tkDone o (now + 1) (some (BitVec.ofNat 512 w)) (tkStatus true false false)
  | none =>
    let b := t.tasks.block id
    if (t.bank 0).life = .halted then refuse
    else if t.run = 3 then t
    else if b.state ≠ .selected then refuse
    else if b.loc ≠ 0 then (t.putOp { o with st := .waiting }).switchTo now id
    else if k = 0 then refuse
    else
      match t.resident k with
      | none =>
        if !t.bankFree now k then t
        else
          let t : Tile := { t with queue := t.queue.filter fun p => p.bank ≠ k }
          (t.putOp { o with st := .waiting }).startLoad o.id id k (now + 8)
      | some u =>
        if !o.b.getLsbD 2 ∨ !t.compact k then refuse
        else
          let t := t.onTasks fun q =>
            { (q.onBlock u fun b => { b with kept := b.state, state := .saving }).unready u with
                work := some (.save o.id u k.toNat (now + 8)) }
          t.putOp { o with st := .waiting }

/-- The late causes of a bank go with the task that leaves it, and those of a task come to the bank that it is loaded into (R277). -/
def Tile.storeCauses (t : Tile) (k : BitVec 2) (u : Nat) : Tile :=
  { t with
    pend := t.pend.filter fun p => p.bank ≠ k
    tasks := { t.tasks with causes := t.tasks.causes ++ (t.pend.filter fun p => p.bank = k).map fun p => (u, p) } }

def Tile.loadCauses (t : Tile) (k : BitVec 2) (u : Nat) : Tile :=
  { t with
    pend := t.pend ++ (t.tasks.causes.filter fun c => c.1 = u).map fun c => { c.2 with bank := k }
    tasks := { t.tasks with causes := t.tasks.causes.filter fun c => c.1 ≠ u }
    knBy := t.knBy.set k.toNat none k.isLt }

/-- TASK_SAVE_END: the context is written, the task keeps its state, its recorded wakes are applied; the load follows (R409). -/
def execTaskSaveEnd (s : State) : Host.Outcome State Fault Refusal :=
  let t := s.tileAt s.ev.tile
  match t.tasks.work with
  | some (.save op u kn e) =>
    if s.tick < e then .next s
    else
      let k : BitVec 2 := BitVec.ofNat 2 kn
      .next (s.onTile s.ev.tile fun t =>
        let b := t.tasks.block u
        let t := t.engineWrite ((areaSpan b.area).zip (contextBytes (t.bank k) b.bprio u))
        let t := ((t.storeCauses k u).clearBank k {}).onTasks fun q => { q.onBlock u (fun b => { b with loc := 0, state := b.kept }) with work := none }
        let t := if b.kept = .ready then t.onTasks fun q => q.enter u false else t
        let t := t.applyWakes s.tick u
        match t.op? op with
        | some o => t.startLoad op (busBits o.a 31 0) k (s.tick + 8)
        | none => t)
  | some (.create _ _) | some (.load _ _ _ _) | none => .next s

/-- TASK_LOAD_END: the bank holds the context; recorded wakes are applied; the tile switches to the task (R409), after the return from a handler that runs meanwhile (DEDUCED, log 45). -/
def execTaskLoadEnd (s : State) : Host.Outcome State Fault Refusal :=
  let t := s.tileAt s.ev.tile
  match t.tasks.work with
  | some (.load _ i kn e) =>
    if s.tick < e ∨ t.run = 3 then .next s
    else
      let k : BitVec 2 := BitVec.ofNat 2 kn
      let r := s.sramRead s.ev.tile (areaSpan (t.tasks.block i).area)
      .next (r.2.onTile s.ev.tile fun t =>
        let t := (t.clearBank k (contextStrand r.1)).onTasks fun q =>
          { q.onBlock i (fun b => { b with loc := k, state := .running }) with work := none }
        ((t.loadCauses k i).applyWakes s.tick i).switchTo s.tick i)
  | some (.create _ _) | some (.save _ _ _ _) | none => .next s

/-- `msgrd` performed (R410). -/
def Tile.doMsgrd (t : Tile) (now : Nat) (o : DlOp) : Tile :=
  let i := o.task.getD 0
  match (t.tasks.block i).mail with
  | [] => t.putOp { o with st := .performed, due := now + 1, res := some { x := some 0, y := some 0, s := tkStatus false true false } }
  | m :: r =>
    (t.onTasks fun k => k.onBlock i fun b => { b with mail := r }).putOp
      { o with st := .performed, due := now + 1,
               res := some { x := some (m.1.setWidth 512), y := some (m.2.setWidth 512), s := tkStatus false false false } }

/-- `tidle` at the head of the queue (R410); where it waits, the tile sleeps from the next tick on, whether bank0 stalls or not (R401). After the halt of bank0 it does not wait (log 95). -/
def Tile.doTidle (t : Tile) (now : Nat) (o : DlOp) : Tile :=
  match t.takePend with
  | some (w, t) => t.tkDone o (now + 1) (some (BitVec.ofNat 512 w)) (tkStatus false false false)
  | none =>
    match t.tasks.headId with
    | some i => t.tkDone o (now + 1) (some (BitVec.ofNat 512 (upcallWord .ready i false))) (tkStatus false false false)
    | none =>
      if (t.bank 0).life = .halted then t.tkDone o (now + 1) (some 0) (tkStatus false false true)
      else t.putOp { o with st := .waiting, due := now + 1 }

/-- The cluster load register of a tile's launch (R403). -/
def State.cloadOf (s : State) (t : Tile) : Dword :=
  match s.cloads.find? fun e => e.1 = t.launchId ∧ e.2.1 = clusterOf t.addr with
  | some e => e.2.2.1
  | none => 0

/-- One `tk` operation of the tile is performed per tick, at the head of its bank's queue, as the tick closes; one that was triggered into an empty queue is performed in its own tick, and its result can be read on the next (as in the run of R479). A `resume` or `tidle` that waits stays at the head (R404). -/
def State.tkTick (s : State) (a : Nat) : State :=
  let t := s.tileAt a
  let now := s.tick
  if t.tasks.work.isSome || t.frozen then s
  else
    match t.queue.find? fun o => o.sock == .tk && o.st == .queued
        && t.queue.all fun p => !(p.sock == .tk && p.bank == o.bank && decide (p.id < o.id)) || p.isPerformed with
    | none => s
    | some o =>
      match o.kind with
      | .spawn => s.onTile a fun t => t.doSpawn now o
      | .yield =>
        s.onTile a fun t =>
          let t := if o.task.isSome ∧ t.tasks.current = o.task then t.raiseOwn now .yield else t
          t.tkDone o (now + 1) none (tkStatus false false false)
      | .sleep => s.onTile a fun t => t.doSleep now o
      | .wake =>
        s.onTile a fun t =>
          let i := busBits o.a 31 0
          let gone : Bool := match (t.tasks.block i).state with | .free | .inbound => true | _ => false
          let r := t.wakeTask now i .wakeOp
          r.1.tkDone o (now + 1) none (tkStatus r.2 false gone)
      | .prio => s.onTile a fun t => t.doPrio now o
      | .timer =>
        s.onTile a fun t =>
          let q := t.tasks.quantum
          (t.onTasks fun k => { k with quantum := busBits o.a 15 0 }).tkDone o (now + 1) (some (BitVec.ofNat 512 q))
            (tkStatus false false false)
      | .next => s.onTile a fun t => t.doNext now o
      | .resume => s.onTile a fun t => t.doResume now o
      | .msgrd => s.onTile a fun t => t.doMsgrd now o
      | .cload => s.onTile a fun t => t.tkDone o (now + 1) (some ((s.cloadOf t).setWidth 512)) (tkStatus false false false)
      | .tidle => s.onTile a fun t => t.doTidle now o
      | _ => s

/-! ## Timer units, messages, contexts, loads -/

/-- A READY task ages; at 4,096 units it is promoted (R398). -/
def Tile.ageTask (t : Tile) (now i : Nat) : Tile :=
  let b := t.tasks.block i
  if b.state ≠ .ready ∨ b.eprio = 3 then t
  else if b.age + 1 < 4096 then t.onTasks fun k => k.onBlock i fun b => { b with age := b.age + 1 }
  else (t.onTasks fun k => k.onBlock i fun b => { b with age := 0, eprio := b.eprio + 1 }).makeReady now i false

/-- A timer unit of a sleep passes; the end of its deadline is a wake, which is recorded where the task cannot take it yet (R398, R399). -/
def Tile.endDeadline (t : Tile) (now i : Nat) : Tile :=
  match (t.tasks.block i).deadline with
  | none => t
  | some n =>
    if 1 < n then t.onTasks fun k => k.onBlock i fun b => { b with deadline := some (n - 1) }
    else ((t.onTasks fun k => k.onBlock i fun b => { b with deadline := none }).wakeTask now i .deadline).1

/-- An accepted message, or a timer unit that makes a task READY, wakes a sleeping tile, whether it ends the stall or not (R401). -/
def Tile.rouse (t : Tile) (now : Nat) : Tile := t.wake (now + 1)

/-- TIMER_UNIT: ages, the quantum, the sleep deadlines (R398). The run count stands still while the supervisor runs (R417). Units count until the launch is saved. -/
def execTimerUnit (s : State) : Host.Outcome State Fault Refusal :=
  let a := s.ev.tile
  let now := s.tick
  let t := s.tileAt a
  if now % 64 ≠ 0 ∨ now ≤ t.tasks.unitTick ∨ !t.tasked ∨ (t.bank 0).life = .halted then .next s
  else
    .next (s.onTile a fun t =>
      let t := t.onTasks fun k => { k with unitTick := now }
      let t := (List.range 32).foldl (fun t i => t.ageTask now i) t
      let t := if t.tasks.current.isSome ∧ t.run ≠ 3 then
          t.onTasks fun k =>
            let n := k.runCount + 1
            if k.quantum ≠ 0 ∧ n = k.quantum then { k.raiseTimer now with runCount := n } else { k with runCount := n }
        else t
      let t' := (List.range 32).foldl (fun t i => t.endDeadline now i) t
      let woken (i : Nat) : Bool := (t.tasks.block i).state != .ready && (t'.tasks.block i).state == .ready
      if (List.range 32).any woken then t'.rouse now else t')

/-- MESSAGE_ACCEPT: a task message is accepted, discarded or refused (R399). -/
def execMessageAccept (s : State) : Host.Outcome State Fault Refusal :=
  match s.packets.find? fun p => p.id = s.ev.packet with
  | none => .next s
  | some p =>
    let t := s.tileAt p.dst
    let i := p.task.getD 0
    let gone : Bool := match (t.tasks.block i).state with | .free | .inbound => i != 0 | _ => false
    match s.absentHint p.launch t with
    | some h => .next (s.packetRefused p h)
    | none =>
    if t.launch ≠ some p.launch then .next { s.msgAccepted p with cnt := { s.cnt with disc := s.cnt.disc + 1 } }
    else if t.frozen then .next (s.packetRefused p 4096)
    else if 32 ≤ i ∨ gone ∨ t.haltedAll then .next (s.msgAccepted p)
    else if 4 ≤ (t.tasks.block i).mail.length then .next (s.packetRefused p 256)
    else
      let m : Dword × Dword := (BitVec.ofNat 64 (leNat (p.data.take 8)), BitVec.ofNat 64 (leNat (p.data.drop 8)))
      .next (((s.onTile p.dst fun t =>
        let t := t.onTasks fun k => k.onBlock i fun b => { b with mail := b.mail ++ [m] }
        if i = 0 then
          if t.tasks.current.isSome then
            t.onTasks fun k => k.raiseKmsg s.tick
          else t.tidleEnd s.tick .kmsg 0
        else (t.wakeTask s.tick i .message).1).onTile p.dst fun t => t.rouse s.tick).msgAccepted p)

/-- CONTEXT_ARRIVAL: a migrated context enters the INBOUND block of lowest id, or is refused (R402). -/
def execContextArrival (s : State) : Host.Outcome State Fault Refusal :=
  match s.packets.find? fun p => p.id = s.ev.packet with
  | none => .next s
  | some p =>
    let t := s.tileAt p.dst
    match s.absentHint p.launch t with
    | some h => .next (s.packetRefused p h)
    | none =>
    if t.launch ≠ some p.launch then .next { s.msgAccepted p with cnt := { s.cnt with disc := s.cnt.disc + 1 } }
    else if t.frozen then .next (s.packetRefused p 4096)
    else
      match (List.range 32).find? fun i => (t.tasks.block i).state == .inbound with
      | none => if t.haltedAll then .next (s.msgAccepted p) else .next (s.packetRefused p 1024)
      | some i =>
        let pr : BitVec 2 := BitVec.ofNat 2 (leNat ((p.data.drop 0x104).take 1))
        .next ((s.onTile p.dst fun t =>
          let t := t.engineWrite ((areaSpan (t.tasks.block i).area).zip p.data)
          (t.onTasks fun k => k.onBlock i fun b => { b with bprio := pr, eprio := pr, age := 0, loc := 0 }).makeReady s.tick i
            false |>.rouse s.tick).msgAccepted p)

/-- COMPLETION_NOTICE: the access of a parked task has been resolved (R400). -/
def execCompletionNotice (s : State) : Host.Outcome State Fault Refusal :=
  .next (s.onTile s.ev.tile fun t => (t.wakeTask s.tick s.ev.op .notice).1)

/-- Load of a tile (R403). -/
def Tile.load (t : Tile) : Nat :=
  (t.tasks.blocks.toList.filter fun b =>
    match b.state with
    | .ready | .selected | .running | .loading => true
    | .free | .sleep | .parked | .saving | .inbound => false).length

/-- The least loaded tile, the lowest rank among equals. -/
def leastLoaded : List Tile → Option (Nat × Nat)
  | [] => none
  | t :: r =>
    match leastLoaded r with
    | none => some (t.load, t.rank4)
    | some x => if t.load < x.1 ∨ (t.load = x.1 ∧ t.rank4 < x.2) then some (t.load, t.rank4) else some x

/-- The leaf samples the loads of a launch in a cluster and writes its register (R403). -/
def State.writeLoad (s : State) (l : Dword) (cluster : Nat) : State :=
  let ts := (s.launchTiles l).filter fun t => clusterOf t.addr = cluster ∧ t.tasked ∧ t.role.isSome
  match leastLoaded ts with
  | none => s
  | some x =>
    let w : Dword := BitVec.ofNat 64 (x.1 * 2 ^ 32 + x.2)
    { s with cloads := (l, cluster, w, s.tick) :: s.cloads.filter fun e => !(e.1 == l && e.2.1 == cluster) }

/-- CLUSTER_LOAD_WRITE for every tasked launch of a cluster; with `yes` for one, on its START tick (R403). -/
def execClusterLoadWrite (s : State) : Host.Outcome State Fault Refusal :=
  if s.ev.yes then .next (s.writeLoad s.ev.launch s.ev.cluster)
  else if s.tick % 1700 ≠ 0 then .next s
  else
    let ls := ((s.tiles.filter fun t => clusterOf t.addr = s.ev.cluster ∧ t.tasked).filterMap fun t => t.launch).eraseDups
    .next (ls.foldl (fun s l => s.writeLoad l s.ev.cluster) s)

/-- Clusters whose load registers are still to be written on this tick. -/
def State.dueLoad (s : State) : Option Nat :=
  if s.tick % 1700 ≠ 0 ∨ s.tick = 0 then none
  else
    (s.tiles.find? fun t => t.tasked && t.launch.isSome && t.role.isSome &&
      !(s.cloads.any fun e => some e.1 == t.launch && e.2.1 == clusterOf t.addr && e.2.2.2 == s.tick)).map
      fun t => clusterOf t.addr

end Sys2Proof.Machine
end

