-- ==== Sys2Proof/Machine/Vector.lean ====
section
/-! DEFINITION. The vector sockets `vu` and `vx` (R193 to R195, R204 to R212). -/

namespace Sys2Proof.Machine

/-- Latency of `vu`: 6 for 64-bit lanes, else 4 (R193). -/
def vuLat (m : TMod) : Nat := if tmodBits m = 64 then 6 else 4

/-- A vector result with the OR of the flags of its lanes (R194, R195). -/
def vecRes (w : Nat) (rs : List FRes) : Res :=
  let flags := rs.foldl (fun acc r => acc ||| r.st) 0
  { x := some (BitVec.ofNat 512 (ofLanes w (rs.map (·.code)))), s := flags.setWidth 64, flags := flags.setWidth 6 }

/-- An element-wise operation on the lanes of a, b and c (R195). -/
def lanewise (m : TMod) (st : Start) (g : Nat → Nat → Nat → FRes) : Res :=
  let w := tmodBits m
  vecRes w ((List.range (512 / w)).map fun i => g (lane w st.a i) (lane w st.b i) (lane w st.c i))

/-- The value of an integer lane: signed for S, natural for N (R204, R205). -/
def laneInt (nat : Bool) (z : ISize) (x : Nat) : Int := intValue nat (isizeBits z) x

def vAdd (m : TMod) (r : Rnd) (a b : Nat) : FRes :=
  match m with
  | .flt f _ => fAdd f r a b
  | .int _ z => { code := (a + b) % 2 ^ isizeBits z }

def vSub (m : TMod) (r : Rnd) (a b : Nat) : FRes :=
  match m with
  | .flt f _ => fSub f r a b
  | .int _ z => { code := (a + 2 ^ isizeBits z - b) % 2 ^ isizeBits z }

def vMul (m : TMod) (r : Rnd) (a b : Nat) : FRes :=
  match m with
  | .flt f _ => fMul f r a b
  | .int _ z => { code := a * b % 2 ^ isizeBits z }

def vFma (negated : Bool) (m : TMod) (r : Rnd) (a b c : Nat) : FRes :=
  match m with
  | .flt f _ => fFma f r negated a b c
  | .int _ z =>
    let w := isizeBits z
    { code := ((if negated then (c : Int) - a * b else (a : Int) * b + c) % (2 ^ w : Nat)).toNat }

def vMinMax (isMax : Bool) (m : TMod) (a b : Nat) : FRes :=
  match m with
  | .flt f _ => fMinMax f isMax a b
  | .int nat z =>
    let less := decide (laneInt nat z a < laneInt nat z b)
    { code := if less != isMax then a else b }

def vAbs (m : TMod) (a : Nat) : FRes :=
  match m with
  | .flt f _ => { code := a % fmtSign f }
  | .int nat z => { code := ((laneInt nat z a).natAbs) % 2 ^ isizeBits z }

def vNeg (m : TMod) (a : Nat) : FRes :=
  match m with
  | .flt f _ => { code := a ^^^ fmtSign f }
  | .int _ z => { code := (2 ^ isizeBits z - a) % 2 ^ isizeBits z }

/-- A compare writes all ones or zero in its lane (R205). -/
def vCompare (rel : Rel) (m : TMod) (a b : Nat) : FRes :=
  let ones := 2 ^ tmodBits m - 1
  match m with
  | .flt f _ => let r := fCompare f rel a b; { code := if r.1 then ones else 0, st := r.2 }
  | .int nat z =>
    let x := laneInt nat z a
    let y := laneInt nat z b
    let t := match rel with | .eq => decide (x = y) | .lt => decide (x < y) | .le => decide (x ≤ y)
    { code := if t then ones else 0 }

/-- One level of the fixed tree: pairs of neighbours (R189). -/
def pairUp (g : Nat → Nat → FRes) : List Nat → List FRes
  | a :: b :: r => g a b :: pairUp g r
  | _ => []

/-- The tree over 2^k lanes with the OR of the flags (R189, R207). -/
def treeReduce (g : Nat → Nat → FRes) : Nat → List Nat → BitVec 8 → FRes
  | 0, l, st => { code := l.headD 0, st := st }
  | k + 1, l, st =>
    let rs := pairUp g l
    treeReduce g k (rs.map (·.code)) (rs.foldl (fun acc r => acc ||| r.st) st)

def lanesOf (w : Nat) (v : Bus) : List Nat := (List.range (512 / w)).map (lane w v)

/-- `vsum`: the result in lane 0, zeros above (R207). -/
def vsumRes (m : TMod) (st : Start) : Res :=
  let w := tmodBits m
  let r := treeReduce (fun a b => vAdd m (rndOf m) a b) (Nat.log2 (512 / w)) (lanesOf w st.a) 0
  { x := some (BitVec.ofNat 512 r.code), s := r.st.setWidth 64, flags := r.st.setWidth 6 }

/-- The lowest index of an element of a list, counted from `i`; 0 where there is none. -/
def firstIndex (x : Nat) : List Nat → Nat → Nat
  | [], _ => 0
  | y :: r, i => if y = x then i else firstIndex x r (i + 1)

/-- `vhmax`: the maximum in lane 0 and the lowest index that holds it in `.y` (R207). -/
def vhmaxRes (m : TMod) (st : Start) : Res :=
  let w := tmodBits m
  let ls := lanesOf w st.a
  let r := treeReduce (fun a b => { vMinMax true m a b with st := 0 }) (Nat.log2 (512 / w)) ls 0
  let nan := match m with | .flt f _ => r.code == fmtNan f | .int _ _ => false
  let nv := match m with | .flt f _ => ls.any (isSnan f) | .int _ _ => false
  let flags : BitVec 8 := if nv then fNV else 0
  { x := some (BitVec.ofNat 512 r.code),
    y := some (BitVec.ofNat 512 (if nan then 0 else firstIndex r.code ls 0)),
    s := flags.setWidth 64, flags := flags.setWidth 6 }

/-- A result of `vx` that only moves lanes: no flag, status zero. -/
def vxRes (x : Bus) : Res := { x := some x }

/-! ## Conversions of `vx` -/

/-- Element width of a class C type (R210). -/
def ctypeBits : CType → Nat
  | .int _ z => isizeBits z
  | .flt f => fmtBits f
  | .code4 => 4
  | .code8 => 8

/-- One element converted (R210). -/
def convElem (src dst : CType) (r : Rnd) (sat : Bool) (x : Nat) : FRes :=
  let intOf : CType → Option (Bool × Nat)
    | .int nat z => some (nat, isizeBits z)
    | .code4 => some (false, 4)
    | .code8 => some (false, 8)
    | .flt _ => none
  match src, dst with
  | .flt f, .flt g => cvtFF f g r sat x
  | .flt f, d =>
    match intOf d with
    | some (nat, n) => cvtFI f r nat n x
    | none => { code := 0 }
  | s, .flt g =>
    match intOf s with
    | some (nat, n) => cvtIF g r sat (intValue nat n x)
    | none => { code := 0 }
  | s, d =>
    match intOf s, intOf d with
    | some (ns, n), some (nd, k) => cvtII nd k sat (intValue ns n x)
    | _, _ => { code := 0 }

/-- Converted elements `from`, `from + 1`, … of a vector of source elements. -/
def convElems (src : CType) (m : CMod) (r : Rnd) (v : Bus) (start n : Nat) : List FRes :=
  (List.range n).map fun i => convElem src m.ty r m.sat (lane (ctypeBits src) v (start + i))

def flagsOf (rs : List FRes) : BitVec 8 := rs.foldl (fun acc r => acc ||| r.st) 0

/-- `vcvt` (R210). -/
def vcvtRes (m : CMod) (st : Start) : Res :=
  let c := st.b.toNat
  let src := decodeCType (bits c 3 0)
  vecRes (ctypeBits m.ty) (convElems src m (rndCode (bits c 5 4)) st.a 0 (512 / max (ctypeBits src) (ctypeBits m.ty)))

/-- `vpack` (R211). -/
def vpackRes (m : CMod) (st : Start) : Res :=
  let c := st.c.toNat
  let src := decodeCType (bits c 3 0)
  let sw := ctypeBits src
  let tw := ctypeBits m.ty
  let slot := bits c 11 8
  let n := 512 / sw
  if tw > sw ∨ slot ≥ sw / tw then { x := some st.a, s := fCTL.setWidth 64 }
  else
    let rs := convElems src m (rndCode (bits c 5 4)) st.b 0 n
    let lo := n * tw * slot
    let hi := n * tw * (slot + 1)
    let a := st.a.toNat
    let v := a % 2 ^ lo + 2 ^ lo * ofLanes tw (rs.map (·.code)) + 2 ^ hi * (a / 2 ^ hi)
    { x := some (BitVec.ofNat 512 v), s := (flagsOf rs).setWidth 64, flags := (flagsOf rs).setWidth 6 }

/-- `vunpk` (R211). -/
def vunpkRes (m : CMod) (st : Start) : Res :=
  let c := st.b.toNat
  let src := decodeCType (bits c 3 0)
  let sw := ctypeBits src
  let tw := ctypeBits m.ty
  let slot := bits c 11 8
  let n := 512 / tw
  if tw < sw ∨ slot ≥ tw / sw then { x := some 0, s := fCTL.setWidth 64 }
  else vecRes tw (convElems src m (rndCode (bits c 5 4)) st.a (n * slot) n)

/-- `vcmprs` (R212). -/
def vcmprsRes (m : TMod) (st : Start) : Res :=
  let w := tmodBits m
  let kept := (List.range (512 / w)).filter fun i => st.b.getLsbD i
  { x := some (BitVec.ofNat 512 (ofLanes w (kept.map (lane w st.a)))), y := some (BitVec.ofNat 512 kept.length) }

/-- `vmask` (R212). -/
def vmaskRes (m : TMod) (st : Start) : Res :=
  let w := tmodBits m
  let ms := (List.range (512 / w)).map fun i => lane w st.a i / 2 ^ (w - 1)
  { x := some (BitVec.ofNat 512 (ofLanes 1 ms)), y := some (BitVec.ofNat 512 ms.sum) }

/-- `vext`: a lane as SignExt for S types, else ZeroExt (R209). -/
def vextRes (m : TMod) (st : Start) : Res :=
  let w := tmodBits m
  let j := st.b.toNat % 2 ^ 64
  if j < 512 / w then
    match m with
    | .int false _ => scalar (BitVec.ofInt 64 (signExt (lane w st.a j) w))
    | .int true _ | .flt _ _ => scalar (BitVec.ofNat 64 (lane w st.a j))
  else scalar 0

/-- `vins` (R209). -/
def vinsRes (m : TMod) (st : Start) : Res :=
  let w := tmodBits m
  let j := st.c.toNat % 2 ^ 64
  if j < 512 / w then vxRes (mapLanes w fun i => if i = j then st.b.toNat % 2 ^ w else lane w st.a i)
  else vxRes st.a

/-- Element-wise (R204). -/
def specVadd (m : TMod) : Spec :=
  compute .vu (some .opB) (vuLat m) fun st => lanewise m st fun a b _ => vAdd m (rndOf m) a b

def execVadd (h : Head) (m : TMod) (s : State) : Host.Outcome State Fault Refusal :=
  issueOne (.vadd h m) (specVadd m) s

/-- Element-wise (R204). -/
def specVsub (m : TMod) : Spec :=
  compute .vu (some .opB) (vuLat m) fun st => lanewise m st fun a b _ => vSub m (rndOf m) a b

def execVsub (h : Head) (m : TMod) (s : State) : Host.Outcome State Fault Refusal :=
  issueOne (.vsub h m) (specVsub m) s

/-- Element-wise (R204). -/
def specVmul (m : TMod) : Spec :=
  compute .vu (some .opB) (vuLat m) fun st => lanewise m st fun a b _ => vMul m (rndOf m) a b

def execVmul (h : Head) (m : TMod) (s : State) : Host.Outcome State Fault Refusal :=
  issueOne (.vmul h m) (specVmul m) s

/-- Element-wise (R204). -/
def specVfma (m : TMod) : Spec :=
  compute .vu (some .opC) (vuLat m) fun st => lanewise m st fun a b c => vFma false m (rndOf m) a b c

def execVfma (h : Head) (m : TMod) (s : State) : Host.Outcome State Fault Refusal :=
  issueOne (.vfma h m) (specVfma m) s

/-- Element-wise (R204). -/
def specVfnma (m : TMod) : Spec :=
  compute .vu (some .opC) (vuLat m) fun st => lanewise m st fun a b c => vFma true m (rndOf m) a b c

def execVfnma (h : Head) (m : TMod) (s : State) : Host.Outcome State Fault Refusal :=
  issueOne (.vfnma h m) (specVfnma m) s

/-- Element-wise (R204). -/
def specVmin (m : TMod) : Spec :=
  compute .vu (some .opB) (vuLat m) fun st => lanewise m st fun a b _ => vMinMax false m a b

def execVmin (h : Head) (m : TMod) (s : State) : Host.Outcome State Fault Refusal :=
  issueOne (.vmin h m) (specVmin m) s

/-- Element-wise (R204). -/
def specVmax (m : TMod) : Spec :=
  compute .vu (some .opB) (vuLat m) fun st => lanewise m st fun a b _ => vMinMax true m a b

def execVmax (h : Head) (m : TMod) (s : State) : Host.Outcome State Fault Refusal :=
  issueOne (.vmax h m) (specVmax m) s

/-- Element-wise (R204). -/
def specVabs (m : TMod) : Spec :=
  compute .vu (some .opA) (vuLat m) fun st => lanewise m st fun a _ _ => vAbs m a

def execVabs (h : Head) (m : TMod) (s : State) : Host.Outcome State Fault Refusal :=
  issueOne (.vabs h m) (specVabs m) s

/-- Element-wise (R204). -/
def specVneg (m : TMod) : Spec :=
  compute .vu (some .opA) (vuLat m) fun st => lanewise m st fun a _ _ => vNeg m a

def execVneg (h : Head) (m : TMod) (s : State) : Host.Outcome State Fault Refusal :=
  issueOne (.vneg h m) (specVneg m) s

/-- All ones or zero per lane (R205). -/
def specVceq (m : TMod) : Spec :=
  compute .vu (some .opB) (vuLat m) fun st => lanewise m st fun a b _ => vCompare .eq m a b

def execVceq (h : Head) (m : TMod) (s : State) : Host.Outcome State Fault Refusal :=
  issueOne (.vceq h m) (specVceq m) s

/-- All ones or zero per lane (R205). -/
def specVclt (m : TMod) : Spec :=
  compute .vu (some .opB) (vuLat m) fun st => lanewise m st fun a b _ => vCompare .lt m a b

def execVclt (h : Head) (m : TMod) (s : State) : Host.Outcome State Fault Refusal :=
  issueOne (.vclt h m) (specVclt m) s

/-- All ones or zero per lane (R205). -/
def specVcle (m : TMod) : Spec :=
  compute .vu (some .opB) (vuLat m) fun st => lanewise m st fun a b _ => vCompare .le m a b

def execVcle (h : Head) (m : TMod) (s : State) : Host.Outcome State Fault Refusal :=
  issueOne (.vcle h m) (specVcle m) s

/-- Lane i of A where C ≠ 0, else of B (R205). -/
def specVsel (m : TMod) : Spec :=
  compute .vu (some .opC) (vuLat m) fun st => lanewise m st fun a b c => { code := if c ≠ 0 then a else b }

def execVsel (h : Head) (m : TMod) (s : State) : Host.Outcome State Fault Refusal :=
  issueOne (.vsel h m) (specVsel m) s

/-- Shift of each lane by B mod w (R206). -/
def specVshl (m : TMod) : Spec :=
  compute .vu (some .opB) (vuLat m) fun st => lanewise m st fun a b _ => { code := a * 2 ^ (b % tmodBits m) % 2 ^ tmodBits m }

def execVshl (h : Head) (m : TMod) (s : State) : Host.Outcome State Fault Refusal :=
  issueOne (.vshl h m) (specVshl m) s

/-- Shift of each lane by B mod w (R206). -/
def specVshr (m : TMod) : Spec :=
  compute .vu (some .opB) (vuLat m) fun st => lanewise m st fun a b _ => { code := a / 2 ^ (b % tmodBits m) }

def execVshr (h : Head) (m : TMod) (s : State) : Host.Outcome State Fault Refusal :=
  issueOne (.vshr h m) (specVshr m) s

/-- Shift of each lane by B mod w (R206). -/
def specVsar (m : TMod) : Spec :=
  compute .vu (some .opB) (vuLat m) fun st => lanewise m st fun a b _ => { code := (signExt a (tmodBits m) / (2 ^ (b % tmodBits m) : Nat) % (2 ^ tmodBits m : Nat)).toNat }

def execVsar (h : Head) (m : TMod) (s : State) : Host.Outcome State Fault Refusal :=
  issueOne (.vsar h m) (specVsar m) s

/-- Sum over the fixed tree (R207). -/
def specVsum (m : TMod) : Spec :=
  compute .vu (some .opA) (vuLat m) fun st => vsumRes m st

def execVsum (h : Head) (m : TMod) (s : State) : Host.Outcome State Fault Refusal :=
  issueOne (.vsum h m) (specVsum m) s

/-- Maximum over the fixed tree, and its lowest index (R207). -/
def specVhmax (m : TMod) : Spec :=
  compute .vu (some .opA) (vuLat m) fun st => vhmaxRes m st

def execVhmax (h : Head) (m : TMod) (s : State) : Host.Outcome State Fault Refusal :=
  issueOne (.vhmax h m) (specVhmax m) s

/-- A × 2^k (R204). -/
def specVscale (m : TMod) : Spec :=
  compute .vu (some .opB) (vuLat m) fun st => lanewise m st fun a b _ => fScale (fmtOf m) (rndOf m) a (signExt b (tmodBits m))

def execVscale (h : Head) (m : TMod) (s : State) : Host.Outcome State Fault Refusal :=
  issueOne (.vscale h m) (specVscale m) s

/-- All 512 bits; no flag (R206). -/
def specVand : Spec := compute .vu (some .opB) 4 fun st => vxRes (st.a &&& st.b)

def execVand (h : Head) (s : State) : Host.Outcome State Fault Refusal := issueOne (.vand h) specVand s

/-- All 512 bits; no flag (R206). -/
def specVor : Spec := compute .vu (some .opB) 4 fun st => vxRes (st.a ||| st.b)

def execVor (h : Head) (s : State) : Host.Outcome State Fault Refusal := issueOne (.vor h) specVor s

/-- All 512 bits; no flag (R206). -/
def specVxor : Spec := compute .vu (some .opB) 4 fun st => vxRes (st.a ^^^ st.b)

def execVxor (h : Head) (s : State) : Host.Outcome State Fault Refusal := issueOne (.vxor h) specVxor s

/-- Lane j of a by the index in lane i of b (R208). -/
def specVperm (m : TMod) : Spec :=
  compute .vx (some .opB) 2 fun st => let w := tmodBits m; let n := 512 / w; vxRes (mapLanes w fun i => let j := lane w st.b i; if j < n then lane w st.a j else 0)

def execVperm (h : Head) (m : TMod) (s : State) : Host.Outcome State Fault Refusal :=
  issueOne (.vperm h m) (specVperm m) s

/-- Lane j of a and b by the index in lane i of c (R208). -/
def specVshuf (m : TMod) : Spec :=
  compute .vx (some .opC) 2 fun st => let w := tmodBits m; let n := 512 / w; vxRes (mapLanes w fun i => let j := lane w st.c i; if j < n then lane w st.a j else if j < 2 * n then lane w st.b (j - n) else 0)

def execVshuf (h : Head) (m : TMod) (s : State) : Host.Outcome State Fault Refusal :=
  issueOne (.vshuf h m) (specVshuf m) s

/-- The low w bits in every lane (R208). -/
def specVbcast (m : TMod) : Spec :=
  compute .vx (some .opA) 2 fun st => let w := tmodBits m; vxRes (mapLanes w fun _ => st.a.toNat % 2 ^ w)

def execVbcast (h : Head) (m : TMod) (s : State) : Host.Outcome State Fault Refusal :=
  issueOne (.vbcast h m) (specVbcast m) s

/-- One lane, extended (R209). -/
def specVext (m : TMod) : Spec :=
  compute .vx (some .opB) 2 fun st => vextRes m st

def execVext (h : Head) (m : TMod) (s : State) : Host.Outcome State Fault Refusal :=
  issueOne (.vext h m) (specVext m) s

/-- One lane replaced (R209). -/
def specVins (m : TMod) : Spec :=
  compute .vx (some .opC) 2 fun st => vinsRes m st

def execVins (h : Head) (m : TMod) (s : State) : Host.Outcome State Fault Refusal :=
  issueOne (.vins h m) (specVins m) s

/-- Converts N elements (R210). -/
def specVcvt (m : CMod) : Spec :=
  compute .vx (some .opA) 2 fun st => vcvtRes m st

def execVcvt (h : Head) (m : CMod) (s : State) : Host.Outcome State Fault Refusal :=
  issueOne (.vcvt h m) (specVcvt m) s

/-- Converts a vector into a slot of another (R211). -/
def specVpack (m : CMod) : Spec :=
  compute .vx (some .opB) 2 fun st => vpackRes m st

def execVpack (h : Head) (m : CMod) (s : State) : Host.Outcome State Fault Refusal :=
  issueOne (.vpack h m) (specVpack m) s

/-- Converts a slot of a vector (R211). -/
def specVunpk (m : CMod) : Spec :=
  compute .vx (some .opA) 2 fun st => vunpkRes m st

def execVunpk (h : Head) (m : CMod) (s : State) : Host.Outcome State Fault Refusal :=
  issueOne (.vunpk h m) (specVunpk m) s

/-- Selected lanes, packed (R212). -/
def specVcmprs (m : TMod) : Spec :=
  compute .vx (some .opB) 2 fun st => vcmprsRes m st

def execVcmprs (h : Head) (m : TMod) (s : State) : Host.Outcome State Fault Refusal :=
  issueOne (.vcmprs h m) (specVcmprs m) s

/-- Base plus i × step (R208). -/
def specVlane (m : TMod) : Spec :=
  compute .vx (some .opB) 2 fun st => let w := tmodBits m; vxRes (mapLanes w fun i => (st.a.toNat % 2 ^ w + i * (st.b.toNat % 2 ^ w)) % 2 ^ w)

def execVlane (h : Head) (m : TMod) (s : State) : Host.Outcome State Fault Refusal :=
  issueOne (.vlane h m) (specVlane m) s

/-- Lanes rotated (R208). -/
def specVrot (m : TMod) : Spec :=
  compute .vx (some .opB) 2 fun st => let w := tmodBits m; let n := 512 / w; vxRes (mapLanes w fun i => lane w st.a ((i + st.b.toNat % 2 ^ 64) % n))

def execVrot (h : Head) (m : TMod) (s : State) : Host.Outcome State Fault Refusal :=
  issueOne (.vrot h m) (specVrot m) s

/-- Lanes chosen by a mask (R212). -/
def specVmerge (m : TMod) : Spec :=
  compute .vx (some .opC) 2 fun st => let w := tmodBits m; vxRes (mapLanes w fun i => if st.c.getLsbD i then lane w st.b i else lane w st.a i)

def execVmerge (h : Head) (m : TMod) (s : State) : Host.Outcome State Fault Refusal :=
  issueOne (.vmerge h m) (specVmerge m) s

/-- Sign bits as a scalar mask, and their number (R212). -/
def specVmask (m : TMod) : Spec :=
  compute .vx (some .opA) 2 fun st => vmaskRes m st

def execVmask (h : Head) (m : TMod) (s : State) : Host.Outcome State Fault Refusal :=
  issueOne (.vmask h m) (specVmask m) s

end Sys2Proof.Machine
end

