-- ==== Sys2Proof/Machine/Specs.lean ====
section
/-! DEFINITION. The meaning of every trigger as a part of a bundle: what exec gives a trigger that is alone in its bundle, a bundle of several moves gives each of its triggers. -/

namespace Sys2Proof.Machine

def specOf (i : Instr) : Option Spec :=
  match i with
  | .move _ => none
  | .jmp _ => some specJmp
  | .jmpr _ => some specJmpr
  | .call _ => some specCall
  | .callr _ => some specCallr
  | .ret _ => some specRet
  | .loop _ => some specLoop
  | .loopx _ => some specLoopx
  | .idle _ => some specIdle
  | .halt _ => some specHalt
  | .trap _ => some specTrap
  | .gang _ => some specGang
  | .split _ => some specSplit
  | .brk _ => some specBrk
  | .add _ u w => some (specAdd u w)
  | .sub _ u w => some (specSub u w)
  | .and _ u w => some (specAnd u w)
  | .or _ u w => some (specOr u w)
  | .xor _ u w => some (specXor u w)
  | .andn _ u w => some (specAndn u w)
  | .orn _ u w => some (specOrn u w)
  | .min _ u w => some (specMin u w)
  | .max _ u w => some (specMax u w)
  | .minn _ u w => some (specMinn u w)
  | .maxn _ u w => some (specMaxn u w)
  | .abs _ u w => some (specAbs u w)
  | .neg _ u w => some (specNeg u w)
  | .ceq _ u w => some (specCeq u w)
  | .cne _ u w => some (specCne u w)
  | .clt _ u w => some (specClt u w)
  | .cle _ u w => some (specCle u w)
  | .cltn _ u w => some (specCltn u w)
  | .clen _ u w => some (specClen u w)
  | .sel _ u w => some (specSel u w)
  | .lea _ u w => some (specLea u w)
  | .addsat _ u w => some (specAddsat u w)
  | .subsat _ u w => some (specSubsat u w)
  | .tst _ u w => some (specTst u w)
  | .shl _ w => some (specShl w)
  | .shr _ w => some (specShr w)
  | .sar _ w => some (specSar w)
  | .rol _ w => some (specRol w)
  | .ror _ w => some (specRor w)
  | .clz _ w => some (specClz w)
  | .ctz _ w => some (specCtz w)
  | .popc _ w => some (specPopc w)
  | .brev _ w => some (specBrev w)
  | .bswap _ w => some (specBswap w)
  | .extz _ w => some (specExtz w)
  | .exts _ w => some (specExts w)
  | .ins _ w => some (specIns w)
  | .crc _ w => some (specCrc w)
  | .mul _ w => some (specMul w)
  | .mulh _ w => some (specMulh w)
  | .mulhn _ w => some (specMulhn w)
  | .mac _ w => some (specMac w)
  | .div h w => some (specDiv h w)
  | .divn h w => some (specDivn h w)
  | .rem h w => some (specRem h w)
  | .remn h w => some (specRemn h w)
  | .fadd _ m => some (specFadd m)
  | .fsub _ m => some (specFsub m)
  | .fmul _ m => some (specFmul m)
  | .fma _ m => some (specFma m)
  | .fnma _ m => some (specFnma m)
  | .fmin _ m => some (specFmin m)
  | .fmax _ m => some (specFmax m)
  | .fabs _ m => some (specFabs m)
  | .fneg _ m => some (specFneg m)
  | .fcpsgn _ m => some (specFcpsgn m)
  | .fceq _ m => some (specFceq m)
  | .fclt _ m => some (specFclt m)
  | .fcle _ m => some (specFcle m)
  | .fclass _ m => some (specFclass m)
  | .fcvt _ m => some (specFcvt m)
  | .fcvtsi _ m => some (specFcvtsi m)
  | .fcvtis _ m => some (specFcvtis m)
  | .ex2 _ m => some (specEx2 m)
  | .lg2 _ m => some (specLg2 m)
  | .rcp _ m => some (specRcp m)
  | .rsq _ m => some (specRsq m)
  | .sqrt _ m => some (specSqrt m)
  | .fdiv _ m => some (specFdiv m)
  | .ex2Vec _ m => some (specEx2Vec m)
  | .lg2Vec _ m => some (specLg2Vec m)
  | .rcpVec _ m => some (specRcpVec m)
  | .rsqVec _ m => some (specRsqVec m)
  | .sqrtVec _ m => some (specSqrtVec m)
  | .fdivVec _ m => some (specFdivVec m)
  | .vadd _ m => some (specVadd m)
  | .vsub _ m => some (specVsub m)
  | .vmul _ m => some (specVmul m)
  | .vfma _ m => some (specVfma m)
  | .vfnma _ m => some (specVfnma m)
  | .vmin _ m => some (specVmin m)
  | .vmax _ m => some (specVmax m)
  | .vabs _ m => some (specVabs m)
  | .vneg _ m => some (specVneg m)
  | .vceq _ m => some (specVceq m)
  | .vclt _ m => some (specVclt m)
  | .vcle _ m => some (specVcle m)
  | .vsel _ m => some (specVsel m)
  | .vand _ => some specVand
  | .vor _ => some specVor
  | .vxor _ => some specVxor
  | .vshl _ m => some (specVshl m)
  | .vshr _ m => some (specVshr m)
  | .vsar _ m => some (specVsar m)
  | .vsum _ m => some (specVsum m)
  | .vhmax _ m => some (specVhmax m)
  | .vscale _ m => some (specVscale m)
  | .vperm _ m => some (specVperm m)
  | .vshuf _ m => some (specVshuf m)
  | .vbcast _ m => some (specVbcast m)
  | .vext _ m => some (specVext m)
  | .vins _ m => some (specVins m)
  | .vcvt _ m => some (specVcvt m)
  | .vpack _ m => some (specVpack m)
  | .vunpk _ m => some (specVunpk m)
  | .vcmprs _ m => some (specVcmprs m)
  | .vlane _ m => some (specVlane m)
  | .vrot _ m => some (specVrot m)
  | .vmerge _ m => some (specVmerge m)
  | .vmask _ m => some (specVmask m)
  | .ld _ m => some (specLd m)
  | .st _ m => some (specSt m)
  | .vld _ l => some (specVld l)
  | .vst _ l => some (specVst l)
  | .vldl _ l => some (specVldl l)
  | .vstl _ l => some (specVstl l)
  | .vgat _ m => some (specVgat m)
  | .vsct _ m => some (specVsct m)
  | .aadd _ m => some (specAadd m)
  | .aswp _ m => some (specAswp m)
  | .acas _ m => some (specAcas m)
  | .amin _ m => some (specAmin m)
  | .amax _ m => some (specAmax m)
  | .aor _ m => some (specAor m)
  | .aand _ m => some (specAand m)
  | .sopen _ p => some (specSopen p)
  | .sstep _ => some specSstep
  | .rinit _ r => some (specRinit r)
  | .rpush _ r => some (specRpush r)
  | .rpop _ r => some (specRpop r)
  | .rfill _ r => some (specRfill r)
  | .rstat _ r => some (specRstat r)
  | .rdrop _ r => some (specRdrop r)
  | .mma _ a => some (specMma a)
  | .mmas _ a => some (specMmas a)
  | .mzero _ a => some (specMzero a)
  | .mrd _ a => some (specMrd a)
  | .mst _ a => some (specMst a)
  | .mld _ a => some (specMld a)
  | .mmask _ a => some (specMmask a)
  | .get _ m => some (specGet m)
  | .put _ m => some (specPut m)
  | .getp _ m => some (specGetp m)
  | .putp _ m => some (specPutp m)
  | .fill _ m => some (specFill m)
  | .gld _ m => some (specGld m)
  | .gst _ m => some (specGst m)
  | .gadd _ m => some (specGadd m)
  | .gswp _ m => some (specGswp m)
  | .gcas _ m => some (specGcas m)
  | .gmin _ m => some (specGmin m)
  | .gmax _ m => some (specGmax m)
  | .gand _ m => some (specGand m)
  | .gor _ m => some (specGor m)
  | .gxor _ m => some (specGxor m)
  | .mfence _ m => some (specMfence m)
  | .ttarm _ k => some (specTtarm k)
  | .push _ => some specPush
  | .pushp _ => some specPushp
  | .land _ => some specLand
  | .lclose _ => some specLclose
  | .msg _ => some specMsg
  | .mig _ => some specMig
  | .kopen _ => some specKopen
  | .kpart _ => some specKpart
  | .kattn _ => some specKattn
  | .kfin _ => some specKfin
  | .kres _ => some specKres
  | .bell _ d => some (specBell d)
  | .bellx _ d => some (specBellx d)
  | .wany _ m => some (specWany m)
  | .wall _ m => some (specWall m)
  | .wffr _ m => some (specWffr m)
  | .tclr _ => some specTclr
  | .sig _ m => some (specSig m)
  | .swait _ m => some (specSwait m)
  | .sdec _ m => some (specSdec m)
  | .binit _ => some specBinit
  | .arrive _ m => some (specArrive m)
  | .drop _ m => some (specDrop m)
  | .bwait _ m => some (specBwait m)
  | .trig _ => some specTrig
  | .fence _ m => some (specFence m)
  | .spawn _ => some specSpawn
  | .yield _ => some specYield
  | .sleep _ => some specSleep
  | .wake _ => some specWake
  | .prio _ => some specPrio
  | .timer _ => some specTimer
  | .next _ => some specNext
  | .resume _ => some specResume
  | .msgrd _ => some specMsgrd
  | .cload _ => some specCload
  | .tidle _ => some specTidle
  | .rdcyc _ => some specRdcyc
  | .fmt _ => some specFmt
  | .mode _ => some specMode
  | .dom _ d => some (specDom d)
  | .tid _ k => some (specTid k)
  | .flags _ => some specFlags
  | .sleepd _ => some specSleepd
  | .eret _ => some specEret
  | .cause _ => some specCause
  | .tlbinv _ m => some (specTlbinv m)
  | .tlbinvas _ m => some (specTlbinvas m)
  | .mapfence _ m => some (specMapfence m)
  | .asid _ => some specAsid
  | .bank _ => some specBank
  | .shcap _ => some specShcap
  | .shset _ => some specShset
  | .errst _ => some specErrst
  | .stmr _ => some specStmr
  | .dgrd _ => some specDgrd
  | .dgclr _ => some specDgclr
  | .logon _ => some specLogon
  | .logoff _ => some specLogoff
  | .gateon _ => some specGateon
  | .gateoff _ => some specGateoff
  | .logst _ => some specLogst
  | .perstDeassert => none
  | .portTrained => none
  | .fwcmdActivate => none
  | .memoryTraining => none
  | .controlLoad => none
  | .tileSelfTest => none
  | .bootReady => none
  | .fwcmdReload => none
  | .clusterReload => none
  | .fwcmdEndReload => none
  | .transferCommand => none
  | .getVersion => none
  | .getCapabilities => none
  | .negotiateAlgorithms => none
  | .getDigests => none
  | .getCertificate => none
  | .challenge => none
  | .getMeasurements => none
  | .registerWrite => none
  | .reservedAccess => none
  | .bar2Access => none
  | .pwrcapWrite => none
  | .capDeadline => none
  | .junctionOvertemp => none
  | .queueCreate => none
  | .queueDestroy => none
  | .queueDestroyComplete => none
  | .queueResume => none
  | .queueAbort => none
  | .notifyWrite => none
  | .queueMap => none
  | .recordRead => none
  | .launchPlacement => none
  | .place => none
  | .placed => none
  | .nofit => none
  | .start => none
  | .triggered => none
  | .halted => none
  | .completionWrite => none
  | .preempt => none
  | .release => none
  | .fault => none
  | .schedulerTakeover => none
  | .stageLaunch => none
  | .switchTick => none
  | .switchToken => none
  | .quadCondemn => none
  | .columnShift => none
  | .dieFence => none
  | .laneRepair => none
  | .linkRetrainEnd => none
  | .pseudoChannelSpare => none
  | .spareCopyEnd => none
  | .bundleIssue => none
  | .parityRefetch => none
  | .freeRunningLanding => none
  | .dataLockedLanding => none
  | .loopPassEnd => none
  | .idleEnd => none
  | .fmtTakesEffect => none
  | .fillerCommit => none
  | .scrubRead => none
  | .mxOpStart => none
  | .mxOpEnd => none
  | .dmCompletion => none
  | .translationWalk => none
  | .dUpdate => none
  | .resolveRewalk => none
  | .resolveFail => none
  | .fqtailWrite => none
  | .accessRetry => none
  | .migrate => none
  | .replicate => none
  | .collapse => none
  | .migrationStep => none
  | .atomicArrival => none
  | .gateTimeout => none
  | .watchRecheck => none
  | .eutasPacketReceive => none
  | .eutasRetransmit => none
  | .peerLoss => none
  | .windowStart => none
  | .windowEnd => none
  | .packetArrival => none
  | .packetRetry => none
  | .kilnChildArrival => none
  | .bellRing => none
  | .bellRelease => none
  | .tagWaitComplete => none
  | .taskSwitchOut => none
  | .timerUnit => none
  | .messageAccept => none
  | .contextArrival => none
  | .clusterLoadWrite => none
  | .spawnCreateEnd => none
  | .taskSaveEnd => none
  | .taskLoadEnd => none
  | .completionNotice => none
  | .tileSleep => none
  | .tileWake => none
  | .supervisorEntry => none
  | .supervisorTimerExpiry => none
  | .debugHaltRequest => none
  | .debugRelease => none
  | .preemptHalt => none
  | .preemptSave => none
  | .restore => none
  | .errorCounterHalving => none
  | .tileDrained => none
  | .moduleReset => none
  | .peerReachableAgain => none
  | .cxlPortRetraining => none

end Sys2Proof.Machine
end

