-- ==== Sys2Proof/Machine/Bundle.lean ====
section
/-! DEFINITION. Fetching, decoding and issuing a bundle of any number of moves; idle cycles, parity refetch, sleep; the events of landings, rings, the scrubber and the matrix unit. -/

namespace Sys2Proof.Machine

/-! ## Fetch and decode (R95 to R100, R108) -/

/-- What the fetch of the next bundle of a tile finds. -/
inductive Fetched where
  /-- a word of the bundle has a parity error (R97) -/
  | parity
  | bad (c : Cause) (bus : Option (BitVec 3))
  | ok (acts : List Act) (lis : List Word) (len : Nat)

/-- Word addresses of the bundle at the program counter in instruction memory, in the code of tile `c`, or in the store. -/
def bundleWords (t c : Tile) (n : Nat) : List Nat :=
  let pc := (t.bank t.run).pc.toNat
  let base := if t.run = 3 then pc / 4 else (c.codeStart + pc) / 4
  (List.range n).map fun i => base + i

/-- Steps 1 to 4 of Table 5.7 at the program counter of the running bank; a member of a gang fetches the leader's code (R110). -/
def State.fetch (s : State) (a : Nat) : Fetched :=
  let t := s.tileAt a
  let c := s.codeTile a
  let q := s.quadAt a
  let pc := (t.bank t.run).pc.toNat
  if pc % 4 ≠ 0 then .bad .misaligned none
  else
    let ws := codeWords q c t.run pc
    let n := headLen ws / 4
    if ws.length < n then .bad .illegalBundle none
    else if (bundleWords t c n).any (if t.run = 3 then q.badStore else q.badCode).contains then .parity
    else
      match decodeBundle (t.run = 3) ws with
      | .error (e, bus) => .bad (decodeCause e) bus
      | .ok b => .ok (b.moves.map fun m => (m.1, m.2, specOf m.2)) b.lis b.len

/-- Latches the long immediates, the length and the bus of the bundle under issue on the tiles that issue it (R100, R110). -/
def State.latch (s : State) (lis : List Word) (len : Nat) (bus : BitVec 3) : State :=
  (if s.inGang then s.members s.cur else [s.cur]).foldl
    (fun s m => s.onTile m fun t => { t with lis := lis, blen := len, bus := bus }) s

/-- A decode fault of the served tile, or of every member of its gang that has still to complete the bundle; a member in its handler is not at the bundle (R108, R113). -/
def decodeFault (c : Cause) (bus : Option (BitVec 3)) (detail : Dword) (s : State) : State :=
  let gang := s.inGang
  (if gang then s.pendingMembers.filter fun m => (s.tileAt m).run != 3 else [s.cur]).foldl (fun s m =>
    let t := s.tileAt m
    let b := t.bank t.run
    let p : Pending :=
      { bank := t.run, cause := c, kind := .decode, bus := bus, origin := b.pc, detail := detail, seq := b.seq,
        since := s.tick }
    (s.noteCause m p).onTile m fun t => t.raiseNow s.tick gang p) s

/-! ## Idle cycles (R153) -/

/-- One idle cycle: an issue cycle of the `mx` sequence, which advances the free-running pipelines of the strand (R153, R258). -/
def idleOne (s : State) (a : Nat) : State :=
  let s := s.mxIssueCycle a (s.tileAt a).run
  s.onTile a fun t =>
    ({ t.onBank t.run (fun b => { b.advance with idle := b.idle - 1 }) with ready := s.tick + 1, stalled := 0 } : Tile).taskCycle

/-- May the tile idle on this tick? -/
def Tile.canIdle (t : Tile) (now : Nat) : Bool :=
  decide (t.ready ≤ now) && !t.frozen && !t.asleep && t.supOp.isNone && (t.bank t.run).life == .live
    && decide (0 < (t.bank t.run).idle)

/-- An idle cycle of the served tile, or of its gang; a pending cause is taken between idle cycles (R153, R414). -/
def idleCycle (s : State) : State :=
  whenReady id s |> fun s =>
    let ms := if s.inGang then s.members s.cur else [s.cur]
    if ms.all fun m => (s.tileAt m).canIdle s.tick then ms.foldl idleOne s else s

/-! ## Parity (R97) -/

/-- Lines of 64 bytes (16 words) that hold some words. -/
def linesOf (ws : List Nat) : List Nat := ws.map (· / 16)

/-- The refetch begins; it ends within 2,000 ticks, and may meet a parity error again. -/
def startRefetch (s : State) : State :=
  let e : EvArg := { tile := s.cur, yes := Config.choice s.free }
  (s.onSelf fun t => { t with refetch := true }).sched 1 (some 1999) .parityRefetch e

/-- PARITY_REFETCH: the line is reloaded, or the second failure faults (R97). -/
def execParityRefetch (s : State) : Host.Outcome State Fault Refusal :=
  let a := s.ev.tile
  let t := s.tileAt a
  if !t.refetch then .next s
  else
    let q := s.quadAt a
    let c := s.codeTile a
    let ws := bundleWords t c (headLen (codeWords q c t.run (t.bank t.run).pc.toNat) / 4)
    let s := s.onTile a fun t => { (t.errAdd 2 1 0xFFFF) with refetch := false, ready := max t.ready s.tick }
    if s.ev.yes then .next ({ decodeFault .dataUncorrectable none 2 { s with cur := a } with cur := s.cur })
    else
      let s := s.countErr a fun e => { e with corr := e.corr + 1 }
      let clear (l : List Nat) : List Nat := l.filter fun w => !(linesOf ws).contains (w / 16)
      .next (s.onQuad a fun q =>
        if t.run = 3 then { q with badStore := clear q.badStore } else { q with badCode := clear q.badCode })

/-! ## Issue -/

/-- A tick on which a strand, or each of a gang, waits for a refetch is one on which it stalls, in STALLCNT only: the bundle issues within the bound of R97, and no tile sleeps meanwhile (DEDUCED, log 94). -/
def countRefetch (a : Nat) (s : State) : State :=
  if (s.tileAt a).refetch then { s with cnt := { s.cnt with stall := s.cnt.stall + (s.members a).length } } else s

/-- The bundle at the program counter of the served tile, in whatever form: it issues, stalls, faults, or waits for a refetch; or an idle cycle passes. -/
def serve (s : State) : State :=
  let t := s.self
  if 0 < (t.bank t.run).idle then idleCycle s
  else if t.run = 3 ∧ (s.quadAt s.cur).store = [] then s.shippedSupervisor s.cur
  else
    countRefetch s.issuer <| whenReady (fun s =>
      match s.fetch s.issuer with
      | .parity => startRefetch s
      | .bad c bus => decodeFault c bus 0 s
      | .ok acts lis len =>
        let s := s.latch lis len 0
        if s.inGang then issueGang acts len s else issueSingle acts len s) s

/-- BUNDLE_ISSUE (R121). -/
def execBundleIssue (s : State) : Host.Outcome State Fault Refusal :=
  .next { serve { s with cur := s.ev.tile } with cur := s.cur }

/-- IDLE_END: the last idle cycle of a `ctl.idle` (R153). -/
def execIdleEnd (s : State) : Host.Outcome State Fault Refusal :=
  let t := s.tileAt s.ev.tile
  if (t.bank t.run).idle = 1 then .next { idleCycle { s with cur := s.ev.tile } with cur := s.cur } else .next s

/-! ## Landings, passes, formats -/

/-- FREE_RUNNING_LANDING of the running strand of a tile (R125 to R127). -/
def execFreeRunningLanding (s : State) : Host.Outcome State Fault Refusal :=
  .next (s.onTile s.ev.tile fun t => t.landBank t.run)

/-- LOOP_PASS_END of the running strand of a tile (R148). -/
def execLoopPassEnd (s : State) : Host.Outcome State Fault Refusal :=
  let q := s.quadAt s.ev.tile
  let c := s.codeTile s.ev.tile
  .next (s.onTile s.ev.tile fun t => t.passBank q c t.run)

/-- FMT_TAKES_EFFECT of the running strand of a tile (R169). -/
def execFmtTakesEffect (s : State) : Host.Outcome State Fault Refusal :=
  .next (s.onTile s.ev.tile fun t => t.onBank t.run Strand.fmtNow)

/-- May the operation land now: it is complete, and no earlier result of its pipeline is unread (R129, R130)? -/
def Tile.landable (t : Tile) (now : Nat) (o : DlOp) : Bool :=
  (t.portLocked o.sock (isDiv o) || !o.wx) && (o.wx || o.sock != .dm) && o.res.isSome && !o.landed && decide (o.due ≤ now)
    && (!o.wx || (t.queue.find? fun p => p.bank == o.bank && p.sock == o.sock && isDiv p == isDiv o && p.wx)
          == some o)

/-- At the end of an issue cycle, does the operation land with a free-running one of its socket that was triggered later, and before it (R126, R131)? -/
def Tile.landsFirst (t : Tile) (now : Nat) (o : DlOp) : Bool :=
  o.bank == t.run && ((t.bank t.run).flight.any fun f => f.r == 0 && f.sock == o.sock && decide (o.seq < f.seq))
    && t.landable (if now < t.ready then now + 1 else now) o

/-- A data-locked operation lands in the context of its strand; one that an earlier launch left in flight only ends (R118, R128, R129). A result on `sy.x` or `tk.x` brings no status yet: the read of the port does (R348, R404). -/
def Tile.landOp (t : Tile) (o : DlOp) : Tile :=
  let others := t.queue.filter fun p => p.id ≠ o.id
  if o.old.isSome then { t with queue := others }
  else
  match o.late, o.res with
  | some _, _ => { t with queue := others }
  | none, some r =>
    let t : Tile := { t with
      queue := if o.wx then t.queue.map fun p => if p.id = o.id then { p with landed := true } else p else others }
    let t : Tile := if o.sock = .kn then { t with knBy := t.knBy.set o.bank.toNat (some o.id) o.bank.isLt } else t
    t.onBank o.bank fun b => landRes b o.sock true (if o.wx && statusAtFree o.sock then { r with s := (b.sock o.sock).s } else r)
  | none, none => t

/-- DATA_LOCKED_LANDING of an operation (R129); a cause found in place of its result comes to its strand (R221, R445). -/
def execDataLockedLanding (s : State) : Host.Outcome State Fault Refusal :=
  let t := s.tileAt s.ev.tile
  match t.queue.find? fun o => o.id = s.ev.op with
  | none => .next s
  | some o => if t.landable s.tick o || t.landsFirst s.tick o then 
      let s := s.onTile s.ev.tile fun t => t.landOp o
      .next (match o.late, o.old with
        | some p, none => s.bringCause s.ev.tile { p with since := s.tick, task := o.task }
        | _, _ => s)
    else .next s

/-! ## Local agents -/

/-- Does what `f` says to the tile of the event; with `yes`, as the launch of the event left it there (R118). -/
def State.agent (s : State) (f : State → State) : State := if s.ev.yes then s.asPrev s.ev.tile s.ev.launch f else f s

/-- FILLER_COMMIT (R234, R237). -/
def execFillerCommit (s : State) : Host.Outcome State Fault Refusal := .next (s.agent fun s => s.fillerStep s.ev.tile s.ev.ring)

/-- SCRUB_READ: one word, at most every 256 ticks, or later where its bank is busy, in ascending address (R215, R217, R439; log 86). -/
def execScrubRead (s : State) : Host.Outcome State Fault Refusal :=
  let a := s.ev.tile
  let t := s.tileAt a
  if s.tick < t.scrubDue then .next s
  else
    let w := t.scrub
    let s := { s.onTile a fun t => { t with scrub := (w + 1) % 0xC000, scrubDue := s.tick + 256 + Config.delay s.free } with free := s.free + 1 }
    if t.bad.contains w then
      let s := s.onTile a fun t => t.errAdd 3 1 0xFF
      let s := s.countErr a fun e => { e with unc := e.unc + 1 }
      .next (s.tileRecord 3 a .dataUncorrectable 0 (8 * w) t.launchId)
    else .next (s.correct a [8 * w])

/-- MX_OP_START (R245, R247). -/
def execMxOpStart (s : State) : Host.Outcome State Fault Refusal := .next (s.agent fun s => s.mxStart s.ev.tile)

/-- MX_OP_END: the last cycle of a data-locked operation (R249). -/
def execMxOpEnd (s : State) : Host.Outcome State Fault Refusal := .next (s.agent fun s => s.mxTick s.ev.tile true)

/-- SUPERVISOR_ENTRY: the first pending cause of the running strand is taken (R414, R417). -/
def execSupervisorEntry (s : State) : Host.Outcome State Fault Refusal :=
  let a := s.ev.tile
  let s1 := s.settle a
  match (s1.tileAt a).takePending s.tick (s.quadAt a).ganged with
  | some t => .next (s1.setTile t)
  | none => .next s

/-! ## Sleep (R401) -/

/-- TILE_SLEEP: the strand has stalled on the tick after its 32nd stalled tick; a stall that ends within 32 ticks never sleeps. Or bank0's `tidle` waits since the tick before. -/
def execTileSleep (s : State) : Host.Outcome State Fault Refusal :=
  .next (s.onTile s.ev.tile fun t =>
    if 33 ≤ t.stalled then { t with asleep := true }
    else if t.tidleSleeps s.tick then
      { t with asleep := true, queue := t.queue.map fun o => if o.kind == .tidle && o.st == .waiting then { o with prog := 1 } else o }
    else t)

/-- Would the bundle of the served tile issue or fault on this tick, were the tile awake? -/
def wouldIssue (s : State) : Bool :=
  let ms := if s.inGang then s.pendingMembers else [s.cur]
  let s := ms.foldl State.settle s
  match s.fetch s.issuer with
  | .parity | .bad _ _ => true
  | .ok acts lis len =>
    let s := s.latch lis len 0
    ms.all fun m =>
      match prepare (if m = quadOf s.cur then acts else if s.inGang then memberActs acts else acts) len { s with cur := m } with
      | .ok _ | .fault _ => true
      | .stall | .wait _ => false

/-- A stalled tick of a sleeping tile; a strand that waits at `ctl.gang` goes on waiting there (R156). -/
def sleepTick (s : State) : State :=
  match s.fetch s.cur with
  | .ok acts lis len =>
    (match prepare acts len (s.latch lis len 0) with
     | .wait p => gangStall p s
     | .ok _ | .fault _ | .stall => stallTick s)
  | .parity | .bad _ _ => stallTick s

/-- TILE_WAKE: the stalled bundle of a sleeping tile could issue; it issues d ticks later. While it could not, the stall goes on. A bundle that no stall holds, in a tile that sleeps for a `tidle`, waits for the event that ends the wait (R401). -/
def execTileWake (s : State) : Host.Outcome State Fault Refusal :=
  let s' : State := { s with cur := s.ev.tile }
  if !(s'.self).asleep then .next s
  else if (s'.self).tidleRests ∧ wouldIssue s' then .next s
  else if wouldIssue s' then
    .next { ((if s'.inGang then s'.members s'.cur else [s'.cur]).foldl
      (fun s m => s.onTile m fun t => t.wake s.tick) s') with cur := s.cur }
  else .next { sleepTick s' with cur := s.cur }

end Sys2Proof.Machine
end

