-- ==== Sys2Proof/Machine/Crypto.lean ====
section
/-! DEFINITION. SHA-256, ECDSA P-256 verification and CRC-32C: the algorithms that the spec names (R16, R17, R28, R57; PRESUMED, log 38). -/

namespace Sys2Proof.Machine

/-! ## SHA-256 (FIPS 180-4) -/

/-- The prime numbers up to the 64th. -/
def shaPrimes : List Nat := (List.range 312).filter fun n => 2 ≤ n ∧ (List.range n).all fun d => d < 2 ∨ n % d ≠ 0

/-- The greatest `r` with r^k ≤ n whose bits above the lowest `m` are given. -/
def rootFrom (k n : Nat) : Nat → Nat → Nat
  | 0, r => r
  | m + 1, r => rootFrom k n m (if (r + 2 ^ m) ^ k ≤ n then r + 2 ^ m else r)

/-- The first 32 bits of the fraction of the k-th root of a small number. -/
def rootFraction (k p : Nat) : Nat := rootFrom k (p * 2 ^ (32 * k)) 37 0 % 2 ^ 32

/-- The round constants, from the cube roots of the primes. -/
def shaK : List Nat := shaPrimes.map (rootFraction 3)

/-- The initial hash value, from the square roots of the first eight. -/
def shaInit : List Word := (shaPrimes.take 8).map fun p => BitVec.ofNat 32 (rootFraction 2 p)

/-- Big-endian value of bytes. -/
def beNat (bs : List Byte) : Nat := bs.foldl (fun n b => n * 256 + b.toNat) 0

/-- Low `n` bytes of a number, highest first. -/
def natBe (v : Nat) : Nat → List Byte
  | 0 => []
  | n + 1 => natBe (v / 256) n ++ [BitVec.ofNat 8 v]

def rotr (x : Word) (n : Nat) : Word := (x >>> n) ||| (x <<< (32 - n))

/-- The message with its padding. -/
def shaPad (bs : List Byte) : List Byte :=
  bs ++ [0x80] ++ List.replicate ((119 - bs.length % 64) % 64) 0 ++ natBe (8 * bs.length) 8

/-- The words of a block from the first sixteen on; the list holds the latest first. -/
def shaSchedule : Nat → List Word → List Word
  | 0, ws => ws.reverse
  | n + 1, ws =>
    let w (i : Nat) : Word := ws.getD (i - 1) 0
    let s0 := rotr (w 15) 7 ^^^ rotr (w 15) 18 ^^^ (w 15 >>> 3)
    let s1 := rotr (w 2) 17 ^^^ rotr (w 2) 19 ^^^ (w 2 >>> 10)
    shaSchedule n ((w 16 + s0 + w 7 + s1) :: ws)

/-- One round. -/
def shaRound (v : List Word) (k w : Word) : List Word :=
  match v with
  | [a, b, c, d, e, f, g, h] =>
    let t1 := h + (rotr e 6 ^^^ rotr e 11 ^^^ rotr e 25) + ((e &&& f) ^^^ (~~~e &&& g)) + k + w
    let t2 := (rotr a 2 ^^^ rotr a 13 ^^^ rotr a 22) + ((a &&& b) ^^^ (a &&& c) ^^^ (b &&& c))
    [t1 + t2, a, b, c, d + t1, e, f, g]
  | v => v

def wordsBe (bs : List Byte) : Nat → List Word
  | 0 => []
  | n + 1 => BitVec.ofNat 32 (beNat (bs.take 4)) :: wordsBe (bs.drop 4) n

def shaBlock (h : List Word) (block : List Byte) : List Word :=
  let ws := shaSchedule 48 (wordsBe block 16).reverse
  let v := (shaK.zip ws).foldl (fun v x => shaRound v (BitVec.ofNat 32 x.1) x.2) h
  List.zipWith (· + ·) h v

def shaBlocks : Nat → List Byte → List Word → List Word
  | 0, _, h => h
  | n + 1, bs, h => shaBlocks n (bs.drop 64) (shaBlock h (bs.take 64))

/-- SHA-256, as 32 bytes. -/
def sha256 (bs : List Byte) : List Byte :=
  let p := shaPad bs
  (shaBlocks (p.length / 64) p shaInit).flatMap fun w => natBe w.toNat 4

def sha256Val (bs : List Byte) : BitVec 256 := BitVec.ofNat 256 (beNat (sha256 bs))

/-! ## ECDSA over P-256 (FIPS 186-5, SEC 1) -/

def p256 : Nat := 0xFFFFFFFF00000001000000000000000000000000FFFFFFFFFFFFFFFFFFFFFFFF
def n256 : Nat := 0xFFFFFFFF00000000FFFFFFFFFFFFFFFFBCE6FAADA7179E84F3B9CAC2FC632551
def b256 : Nat := 0x5AC635D8AA3A93E7B3EBBD55769886BC651D06B0CC53B0F63BCE3C3E27D2604B
def g256 : Nat × Nat :=
  (0x6B17D1F2E12C4247F8BCE6E563A440F277037D812DEB33A0F4A13945D898C296,
   0x4FE342E2FE1A7F9B8EE7EB4A7C0F9E162BCE33576B315ECECBB6406837BF51F5)

/-- x to the e modulo m, over the low `k` bits of e. -/
def powMod (m x e : Nat) : Nat → Nat
  | 0 => 1
  | k + 1 =>
    let h := powMod m x (e / 2) k
    if e % 2 = 0 then h * h % m else h * h % m * x % m

/-- The inverse modulo a prime. -/
def invMod (m x : Nat) : Nat := powMod m (x % m) (m - 2) 256

/-- Sum of two points; none is the point at infinity. -/
def ecAdd (a b : Option (Nat × Nat)) : Option (Nat × Nat) :=
  match a, b with
  | none, q => q
  | p, none => p
  | some (x1, y1), some (x2, y2) =>
    if x1 = x2 ∧ (y1 + y2) % p256 = 0 then none
    else
      let l :=
        if x1 = x2 then (3 * x1 * x1 + (p256 - 3)) % p256 * invMod p256 (2 * y1) % p256
        else (y2 + p256 - y1) % p256 * invMod p256 (x2 + p256 - x1) % p256
      let x3 := (l * l + 2 * p256 - x1 - x2) % p256
      some (x3, (l * ((x1 + p256 - x3) % p256) + p256 - y1) % p256)

/-- k times a point, over the low `n` bits of k. -/
def ecMul (k : Nat) (q : Option (Nat × Nat)) : Nat → Option (Nat × Nat)
  | 0 => none
  | n + 1 =>
    let h := ecMul (k / 2) q n
    let d := ecAdd h h
    if k % 2 = 0 then d else ecAdd d q

/-- Is the point on the curve? -/
def onCurve (q : Nat × Nat) : Bool :=
  decide (q.1 < p256) && decide (q.2 < p256)
    && decide (q.2 * q.2 % p256 = (q.1 * q.1 * q.1 + (p256 - 3) * q.1 + b256) % p256)

/-- Verification of a signature, 64 bytes r and s, over a message by a public key, 64 bytes x and y (R16, R17). -/
def ecdsaVerify (key msg sig : List Byte) : Bool :=
  let q := (beNat (key.take 32), beNat ((key.drop 32).take 32))
  let r := beNat (sig.take 32)
  let s := beNat ((sig.drop 32).take 32)
  if r = 0 ∨ n256 ≤ r ∨ s = 0 ∨ n256 ≤ s ∨ !onCurve q then false
  else
    let e := beNat (sha256 msg)
    let w := invMod n256 s
    match ecAdd (ecMul (e * w % n256) (some g256) 256) (ecMul (r * w % n256) (some q) 256) with
    | none => false
    | some (x, _) => decide (x % n256 = r)

/-! ## CRC-32C (R57) -/

def crc32cByte (c : Word) (x : Byte) : Word :=
  (List.range 8).foldl (fun c _ => if c.getLsbD 0 then (c >>> 1) ^^^ 0x82F63B78 else c >>> 1) (c ^^^ x.setWidth 32)

/-- CRC-32C of bytes: reflected, initial value and final XOR all ones. -/
def crc32c (bs : List Byte) : Word := (bs.foldl crc32cByte 0xFFFFFFFF) ^^^ 0xFFFFFFFF

end Sys2Proof.Machine
end

