-- ==== Sys2Proof/Machine/ImageFile.lean ====
section
/-! DEFINITION. Program images: the container, the loader's checks, what the loader writes (R33 to R42, R60). -/

namespace Sys2Proof.Machine

/-! ## The container (R33, R34) -/

/-- Field of `n` bytes at an offset. -/
def imgField (bs : List Byte) (off n : Nat) : Nat := leNat ((bs.drop off).take n)

/-- A section: table index, kind, role (0xFFFF image-wide), parameter, payload. -/
structure Sec where
  index : Nat
  kind : Nat
  role : Nat
  param : Nat
  off : Nat
  len : Nat
  data : List Byte
deriving DecidableEq, Repr

def secAt (bs : List Byte) (i : Nat) : Sec :=
  let e := 64 + 32 * i
  let off := imgField bs (e + 8) 8
  let len := imgField bs (e + 16) 8
  { index := i, kind := imgField bs e 2, role := imgField bs (e + 2) 2, param := imgField bs (e + 4) 4, off := off, len := len,
    data := (bs.drop off).take len }

def secCount (bs : List Byte) : Nat := imgField bs 0x10 2
def imgTotal (bs : List Byte) : Nat := imgField bs 0x0C 4
def allSecs (bs : List Byte) : List Sec := (List.range (secCount bs)).map (secAt bs)

/-- Role that a status reports for a section (R40). -/
def Sec.shownRole (x : Sec) : Nat := if x.role ≤ 254 then x.role else 0xFF

/-- Most sections of a kind that a role may have (Table 2.3). -/
def secMost (kind : Nat) : Nat :=
  if kind = 2 then 16 else if kind = 9 then 64 else if 1 ≤ kind ∧ kind ≤ 8 then 1 else 0

/-- The parameter and the length of a payload by its kind, as far as the section table says (Table 2.3). -/
def Sec.sizeOk (x : Sec) : Bool :=
  match x.kind with
  | 2 => decide (x.param ≤ 15 ∧ 8 ≤ x.len)
  | 3 => decide (x.param = 0 ∧ x.len = 128)
  | 4 => decide (1 ≤ x.param ∧ x.param ≤ 32 ∧ x.len = 48 * x.param)
  | 5 => decide (x.param = 0 ∧ x.len = 32)
  | 6 => decide (x.param = 0)
  | 7 => decide (x.param = 0 ∧ x.len = 4)
  | 8 => decide (x.len = 4 * x.param)
  | _ => true

/-- What check 0x01 asks of a payload itself: the counts of a TIMETABLE, the reserved bytes of a BUDGET (Table 2.3). -/
def Sec.payloadOk (x : Sec) : Bool :=
  match x.kind with
  | 2 => decide (x.len = 8 + 12 * imgField x.data 2 2 + 8 * imgField x.data 4 2)
  | 7 => decide (imgField x.data 2 2 = 0)
  | _ => true

/-- Is a section well placed and well formed by itself? Padding between payloads is not looked at (DESIGN CHOICE, log 89). -/
def secOk (bs : List Byte) (x : Sec) : Bool :=
  decide (x.off % 8 = 0 ∧ 64 + 32 * secCount bs ≤ x.off ∧ x.off + x.len ≤ imgTotal bs)
    && imgField bs (64 + 32 * x.index + 24) 8 == 0
    && decide (1 ≤ x.kind ∧ x.kind ≤ 9) && (x.kind == 6) == (x.role == 0xFFFF) && (x.kind == 6 || decide (x.role ≤ 254))
    && x.sizeOk

/-- Does a section clash with an earlier one: too many of its kind, one timetable number twice, or a payload that starts before the end of the earlier one (R33, R34)? -/
def secClash (earlier : List Sec) (x : Sec) : Bool :=
  decide (secMost x.kind ≤ (earlier.filter fun y => y.kind = x.kind ∧ y.role = x.role).length)
    || (x.kind == 2 && earlier.any fun y => y.kind == 2 && y.role == x.role && y.param == x.param)
    || (decide (0 < x.len) && earlier.any fun y => decide (x.off < y.off + y.len))

/-- The sections that check 0x01 rejects, by the section table alone or with their payloads. -/
def badSecs (bs : List Byte) (whole : Bool) : List Sec → List Sec → List Sec
  | _, [] => []
  | es, x :: xs =>
    (if !secOk bs x || secClash es x || (whole && !x.payloadOk) then [x] else []) ++ badSecs bs whole (es ++ [x]) xs

/-- The first of some sections, role by role (R40). -/
def firstByRole : List Sec → Option Sec
  | [] => none
  | x :: xs =>
    match firstByRole xs with
    | some y => if y.role < x.role then some y else some x
    | none => some x

/-- The roles that the section table names. -/
def namedRoles (secs : List Sec) : List Nat := ((secs.filter fun x => x.kind ≠ 6).map (·.role)).eraseDups

/-- The header's own part of check 0x01 (Table 2.1). -/
def headerOk (bs : List Byte) : Bool :=
  let name := (bs.drop 0x20).take 32
  decide (64 ≤ bs.length) && decide (bs.take 8 = [0x50, 0x4F, 0x4D, 0x49, 0x4E, 0x49, 0x4D, 0x47])
    && imgField bs 8 2 == 1 && decide (imgField bs 0x0A 2 < 4)
    && imgTotal bs % 8 == 0 && decide (imgTotal bs ≤ bs.length) && decide (64 + 32 * secCount bs ≤ imgTotal bs)
    && decide (1 ≤ secCount bs ∧ secCount bs ≤ 1024) && decide (1 ≤ imgField bs 0x12 2 ∧ imgField bs 0x12 2 ≤ 255)
    && imgField bs 0x18 8 == 0 && name.contains 0 && name.all (fun c => decide (c.toNat < 128))
    && (name.dropWhile (· != 0)).all (· == 0)

/-- The roles that the role map uses, ascending. -/
def usedRoles (map : List Nat) : List Nat := (List.range 255).filter map.contains

def shapeSec (bs : List Byte) : Option Sec := (allSecs bs).find? fun x => x.kind = 6

/-- The role count of the header is that of the roles present: those that the sections name, which in a legal image are those that the role map uses; where the two differ either will do, so that check 0x03 names the role (DEDUCED, log 90). -/
def roleCountOk (bs : List Byte) : Bool :=
  match shapeSec bs with
  | none => false
  | some x =>
    let n := imgField bs 0x12 2
    n == (namedRoles (allSecs bs)).length || n == (usedRoles ((x.data.drop 8).map BitVec.toNat)).length

/-- Check 0x01 (Table 2.6): the header, then the sections role by role, then the role count; of the payloads only where `whole` says so. -/
def check01 (bs : List Byte) (whole : Bool) : Option LoadErr :=
  if !headerOk bs then some { code := 1 }
  else
    match firstByRole (badSecs bs whole [] (allSecs bs)) with
    | some x => some { code := 1, role := x.shownRole, index := x.index }
    | none => if roleCountOk bs then none else some { code := 1 }

/-! ## The shape (R36) -/

/-- Check 0x03 (Table 2.6). -/
def check03 (bs : List Byte) : Option LoadErr :=
  match shapeSec bs with
  | none => some { code := 1 }
  | some x =>
    let f (k : Nat) : Nat := imgField x.data k 1
    let map := (x.data.drop 8).map BitVec.toNat
    let secs := allSecs bs
    if x.len < 8 ∨ f 0 < 1 ∨ f 1 < 1 ∨ f 2 < 1 ∨ 24 < f 2 ∨ 432 < f 0 * f 1 ∨ imgField x.data 4 4 ≠ 0
        ∨ map.length ≠ 4 * f 0 * f 1 * f 2 then some { code := 3, index := x.index }
    else
      (List.range 255).findSome? fun r =>
        let own := secs.filter fun y => y.role = r
        if map.contains r then
          if own.any (fun y => y.kind == 1) ∧ own.any (fun y => y.kind == 7) then none else some { code := 3, role := r }
        else own.head?.map fun y => { code := 3, role := r, index := y.index }

/-! ## Code -/

/-- A bundle as it stands in code, legal or not: the header gives its extent (R99). -/
structure CodeBundle where
  off : Nat
  /-- its moves, with the fields of Table 5.2 -/
  moves : List (BitVec 3 × Fields)
  lis : List Word
  /-- does it end within the code? -/
  whole : Bool
  /-- what it decodes to; none when it is illegal -/
  legal : Option Bundle

/-- The code of a role, bundle by bundle from offset 0; the flag says that the last one crosses the end of the code. -/
def bundlesOf : Nat → List Word → Nat → List CodeBundle × Bool
  | 0, _, _ => ([], false)
  | _, [], _ => ([], false)
  | n + 1, w :: ws, off =>
    let bs := busesOf w
    let here (ok : Bool) : CodeBundle :=
      { off := off, moves := bs.zip (ws.map Fields.split), lis := (ws.drop bs.length).take (nliOf w), whole := ok,
        legal := if ok then (decodeBundle false (w :: ws)).toOption else none }
    let len := headLen (w :: ws)
    if (w :: ws).length * 4 < len then ([here false], true)
    else
      let r := bundlesOf n ((w :: ws).drop (len / 4)) (off + len)
      (here true :: r.1, r.2)

/-- Words of a payload. -/
def wordsLe (bs : List Byte) : Nat → List Word
  | 0 => []
  | n + 1 => BitVec.ofNat 32 (leNat (bs.take 4)) :: wordsLe (bs.drop 4) n

/-- A role as the checks see it. -/
structure RoleSecs where
  num : Nat
  code : Sec
  words : List Word
  /-- every bundle of the code -/
  stored : List CodeBundle
  /-- does its last bundle cross the end? -/
  crosses : Bool
  secs : List Sec

def roleSecs (secs : List Sec) (r : Nat) : Option RoleSecs :=
  let own := secs.filter fun y => y.role = r
  (own.find? fun y => y.kind = 1).map fun c =>
    let ws := wordsLe c.data (c.len / 4)
    let b := bundlesOf (ws.length + 1) ws 0
    { num := r, code := c, words := ws, stored := b.1, crosses := b.2 || c.len % 4 != 0, secs := own }

/-- The legal bundles with their offsets: after check 0x05 every bundle. -/
def RoleSecs.bundles (r : RoleSecs) : List (Nat × Bundle) := r.stored.filterMap fun c => c.legal.map fun b => (c.off, b)

def RoleSecs.sec (r : RoleSecs) (kind : Nat) : Option Sec := r.secs.find? fun y => y.kind = kind
def RoleSecs.secsOf (r : RoleSecs) (kind : Nat) : List Sec := r.secs.filter fun y => y.kind = kind
def RoleSecs.starts (r : RoleSecs) : List Nat := r.bundles.map (·.1)

def RoleSecs.fail (r : RoleSecs) (code index : Nat) : Option LoadErr := some { code := code, role := r.num, index := index }

/-- A constant source of a move: an immediate or a long immediate (R100, R101). -/
def constSrc (lis : List Word) : Src → Option Nat
  | .imm v => some ((v.signExtend 64).toNat)
  | .li j => some (((lis.getD j.toNat 0).signExtend 64).toNat)
  | .grf _ | .vrf _ | .brf _ | .resX _ | .resY _ | .resS _ => none

/-- The moves of a bundle that are not null, with bus, source, destination. -/
def liveMoves (b : Bundle) : List (BitVec 3 × Head × (Dst ⊕ (Sock × Nat))) :=
  b.moves.filterMap fun m =>
    match m.2.form with
    | .event | .move (.null _) => none
    | .move (.live h d) => some (m.1, h, .inl d)
    | .trig h s p _ => some (m.1, h, .inr (s, p.toNat))

def toOpnd (o : Opnd) (d : Dst ⊕ (Sock × Nat)) : Bool := match d with | .inl x => x == .opnd .ctl o | .inr _ => false
def toTrig (s : Sock) (ps : List Nat) (d : Dst ⊕ (Sock × Nat)) : Bool := match d with | .inl _ => false | .inr x => x.1 == s && ps.contains x.2

/-- A loop that the code opens at bundle k: the bundles of its body, and its stagger amount and mask where the descriptor is a constant (R149). -/
structure LoopInfo where
  first : Nat
  last : Nat
  stagger : Option (Nat × Nat)

/-- The moves of a stored bundle that are not null. -/
def CodeBundle.live (c : CodeBundle) : List (BitVec 3 × Fields) := c.moves.filter fun m => m.2.guard ≠ 8

/-- The constant that a move carries: an immediate or a long immediate. -/
def fieldConst (lis : List Word) (f : Fields) : Option Nat :=
  if f.isImm then constSrc lis (.imm f.sval)
  else if f.sval.extractLsb' 5 6 = 0x3F ∧ (f.sval.extractLsb' 0 5).toNat < 3 then constSrc lis (.li (f.sval.extractLsb' 0 2))
  else none

/-- The loops that a bundle opens: one for each constant that it moves to `ctl.a` (port 0), with the L bundles after it as the body; without one, the 16 bundles that follow and any stagger (R149). -/
def loopInfo (k : Nat) (c : CodeBundle) : List LoopInfo :=
  if c.live.any fun m => m.2.dsock == 0 && m.2.dport == 13 then
    match (c.live.filter fun m => m.2.dsock == 0 && m.2.dport == 0).filterMap fun m => fieldConst c.lis m.2 with
    | [] => [{ first := k + 1, last := k + 16, stagger := none }]
    | ds => ds.map fun d => { first := k + 1, last := k + bits d 4 0, stagger := some (bits d 7 5, bits d 23 8) }
  else []

/-- The offsets that a loop's passes can add to a register field of a move on a bus, whatever the bound. -/
def LoopInfo.offsets (l : LoopInfo) (bus : BitVec 3) (isDst : Bool) : List Nat :=
  match l.stagger with
  | none => List.range 32
  | some (n, mask) => if mask.testBit (2 * bus.toNat + isDst.toNat) then ((List.range 32).map fun p => p * n % 32).eraseDups else [0]

/-- The registers that a field names over all passes of the loops around its bundle. -/
def staggered (ls : List LoopInfo) (k : Nat) (bus : BitVec 3) (isDst : Bool) (n : Nat) : List Nat :=
  (ls.filter fun l => l.first ≤ k ∧ k ≤ l.last).foldl
    (fun ns l => (ns.flatMap fun n => (l.offsets bus isDst).map fun o => (n + o) % 32).eraseDups) [n]

/-- The budget that bounds a register socket number: general registers, vector registers. -/
def budgetOf (g v : Nat) (sock : BitVec 6) : Option Nat := if sock = 1 then some g else if sock = 2 then some v else none

/-- Check 0x04 of a role: every move of its code, of illegal bundles too, which check 0x05 finds only after this one. -/
def check04 (r : RoleSecs) : Option LoadErr :=
  match r.sec 7 with
  | none => none
  | some bsec =>
    let g := imgField bsec.data 0 1
    let v := imgField bsec.data 1 1
    let cs := r.stored.zipIdx
    let ls := cs.flatMap fun c => loopInfo c.2 c.1
    let beyond (k : Nat) (bus : BitVec 3) (isDst : Bool) (sock : BitVec 6) (port : BitVec 5) : Bool :=
      match budgetOf g v sock with
      | some n => (staggered ls k bus isDst port.toNat).any fun x => decide (n ≤ x)
      | none => false
    let bad (k : Nat) (m : BitVec 3 × Fields) : Bool :=
      (!m.2.isImm && beyond k m.1 false (m.2.sval.extractLsb' 5 6) (m.2.sval.extractLsb' 0 5)) || beyond k m.1 true m.2.dsock m.2.dport
    if 32 < g ∨ 32 < v then r.fail 4 bsec.index
    else if cs.any fun c => c.1.live.any (bad c.2) then r.fail 4 r.code.index
    else none

/-- Is a transfer's target as the loader wants it (R145)? -/
def targetOk (r : RoleSecs) (b : Bundle) (m : BitVec 3 × Head × (Dst ⊕ (Sock × Nat))) : Bool :=
  if toTrig .ctl [8, 10, 18, 19] m.2.2 then
    match constSrc b.lis m.2.1.src with
    | some t => r.starts.contains (t % 2 ^ 32)
    | none => toTrig .ctl [18, 19] m.2.2
  else true

/-- Check 0x05 of a role. -/
def check05 (r : RoleSecs) : Option LoadErr :=
  if r.stored.any fun c => c.whole && c.legal.isNone then r.fail 5 r.code.index
  else if r.crosses then r.fail 5 0xFFFF
  else if !r.starts.contains r.code.param ∨ r.bundles.any (fun b => (liveMoves b.2).any fun m => !targetOk r b.2 m) then
    r.fail 5 r.code.index
  else none

/-- Check 0x06: the code of the distinct roles of each quad (R95). Of several quads that exceed the bound the first by shape position is reported (DESIGN CHOICE, log 89). -/
def check06 (rs : List RoleSecs) : List Nat → Nat → Option LoadErr
  | _, 0 => none
  | [], _ => none
  | map, n + 1 =>
    let here := rs.filter fun r => (map.take 4).contains r.num
    let size := (here.map fun r => (r.code.len + 3) / 4 * 4).sum
    if 0x20000 < size then
      match here with
      | r :: _ => r.fail 6 r.code.index
      | [] => none
    else check06 rs (map.drop 4) n

def RoleSecs.targets (r : RoleSecs) : List Nat :=
  match r.sec 8 with
  | some x => (wordsLe x.data x.param).map BitVec.toNat
  | none => []

/-- Check 0x07 of a role. A move to `ctl.jmpr` or `ctl.callr` in a role without TARGETS is reported with the CODE section that holds it (DESIGN CHOICE, log 89). -/
def check07 (r : RoleSecs) : Option LoadErr :=
  match r.sec 8 with
  | some x => if r.targets.all r.starts.contains then none else r.fail 7 x.index
  | none =>
    if r.bundles.any fun b => (liveMoves b.2).any fun m => toTrig .ctl [9, 11] m.2.2 then r.fail 7 r.code.index else none

/-- Calls of a role: offset of the bundle and the targets (R41). -/
def RoleSecs.calls (r : RoleSecs) : List (Nat × List Nat) :=
  r.bundles.flatMap fun b => (liveMoves b.2).filterMap fun m =>
    if toTrig .ctl [10] m.2.2 then (constSrc b.2.lis m.2.1.src).map fun t => (b.1, [t % 2 ^ 32])
    else if toTrig .ctl [11] m.2.2 then some (b.1, r.targets)
    else none

/-- Nodes reached from a set, in at most `n` rounds. -/
def reach (edges : List (Nat × Nat)) : Nat → List Nat → List Nat
  | 0, s => s
  | n + 1, s => reach edges n (s ++ (edges.filter fun e => s.contains e.1).map (·.2)).eraseDups

/-- Check 0x08 of a role: a cycle in the static call graph (R41). -/
def check08 (r : RoleSecs) : Option LoadErr :=
  let nodes := (r.code.param :: r.targets ++ r.calls.flatMap (·.2)).eraseDups
  let callee (off : Nat) : Option Nat := (nodes.filter (· ≤ off)).max?
  let edges := r.calls.flatMap fun c => match callee c.1 with | some n => c.2.map fun t => (n, t) | none => []
  let onCycle (n : Nat) : Bool := (reach edges nodes.length ((edges.filter fun e => e.1 = n).map (·.2))).contains n
  if nodes.any onCycle then r.fail 8 r.code.index else none

/-! ## Descriptors -/

/-- A MODEMAP byte of a socket number (R35). -/
def modeByteOk (k : Nat) (x : Byte) : Bool :=
  match sockOf k with
  | none => x == 0
  | some s => if s.always then x == 1 || x == 5 else if s.noMode then x == 0 else x &&& 0xFA == 0

/-- Check 0x09 of a role. -/
def check09 (r : RoleSecs) : Option LoadErr :=
  match r.sec 5 with
  | none => none
  | some x => if x.data.zipIdx.all fun b => modeByteOk b.2 b.1 then none else r.fail 9 x.index

def imgLayout (n : Nat) : Layout := if n = 0 then .lin else if n = 1 then .sw64 else if n = 2 then .sw128 else .trn

/-- A ring descriptor is legal (R37). -/
def ringOk (bs : List Byte) : Bool :=
  let base := imgField bs 0 4
  let size := imgField bs 4 4
  let n := imgField bs 8 1
  let flags := imgField bs 10 1
  decide (flags < 2) && imgField bs 11 5 == 0 &&
    (flags == 0 || decide (base % 64 = 0 ∧ 1 ≤ n ∧ n ≤ 16 ∧ size ≠ 0 ∧ size % (64 * n) = 0 ∧ base + size ≤ 0x60000 ∧ imgField bs 9 1 ≤ 3))

def ringFrom (bs : List Byte) : Ring :=
  if imgField bs 10 1 = 1 then
    { base := imgField bs 0 4, size := imgField bs 4 4, n := imgField bs 8 1, layout := imgLayout (imgField bs 9 1), valid := true }
  else {}

/-- A stream pattern is legal (R38). -/
def patternOk (bs : List Byte) : Bool :=
  let nd := imgField bs 1 1
  decide (imgField bs 0 1 ≤ 31 ∧ 1 ≤ nd ∧ nd ≤ 4 ∧ imgField bs 2 1 ≤ 3 ∧ imgField bs 3 1 ≤ 6) && imgField bs 0x28 8 == 0
    && (List.range 4).all fun k => decide (k < nd) || imgField bs (8 + 8 * k) 8 == 0

def patternFrom (bs : List Byte) : Pattern :=
  { num := imgField bs 0 1, layout := imgLayout (imgField bs 2 1), esize := imgField bs 3 1, base := imgField bs 4 4,
    dims := (List.range (imgField bs 1 1)).map fun k => (imgField bs (8 + 8 * k) 4, signExt (imgField bs (12 + 8 * k) 4) 32) }

def pieces (n : Nat) (bs : List Byte) (count : Nat) : List (List Byte) :=
  (List.range count).map fun k => (bs.drop (n * k)).take n

/-- Check 0x0A of a role. -/
def check0A (r : RoleSecs) : Option LoadErr :=
  match r.sec 3 with
  | some x => if (pieces 16 x.data 8).all ringOk then pat else r.fail 0x0A x.index
  | none => pat
where
  /-- its stream patterns -/
  pat : Option LoadErr :=
    match r.sec 4 with
    | none => none
    | some x =>
      let ps := pieces 48 x.data x.param
      let nums := ps.map fun p => imgField p 0 1
      if ps.all patternOk && nums.eraseDups.length == nums.length then none else r.fail 0x0A x.index

/-- The first DATA section that check 0x0B rejects. -/
def badData : List Sec → List Sec → Option Sec
  | _, [] => none
  | es, x :: xs =>
    if 0x60000 < x.param + x.len ∨ es.any (fun y => decide (0 < x.len ∧ 0 < y.len ∧ x.param < y.param + y.len ∧ y.param < x.param + x.len)) then
      some x
    else badData (es ++ [x]) xs

/-- Check 0x0B of a role. -/
def check0B (r : RoleSecs) : Option LoadErr := (badData [] (r.secsOf 9)).bind fun x => r.fail 0x0B x.index

/-! ## Timetables (R39, R42, R300) -/

def timetableFrom (x : Sec) : Timetable :=
  let bs := x.data
  let ns := imgField bs 2 2
  let na := imgField bs 4 2
  { num := x.param, window := imgField bs 0 2
    sends := (pieces 12 (bs.drop 8) ns).map fun e =>
      { off := imgField e 0 2, dc := signExt (imgField e 2 1) 8, dr := signExt (imgField e 3 1) 8, t := imgField e 4 1 % 4,
        len := imgField e 6 2, addr := imgField e 8 4 }
    arrives := (pieces 8 (bs.drop (8 + 12 * ns)) na).map fun e => { off := imgField e 0 2, addr := imgField e 4 4 } }

/-- Check 0x0C of a role. -/
def check0C (r : RoleSecs) : Option LoadErr :=
  ((r.secsOf 2).find? fun x => 2048 < (timetableFrom x).window).bind fun x => r.fail 0x0C x.index

def ascending : List Nat → Bool
  | a :: b :: r => decide (a ≤ b) && ascending (b :: r)
  | _ => true

def sendBeats (e : Send) : Nat := (e.len + 63) / 64

/-- Latency of a route (R297). -/
def sendLatency (e : Send) : Nat := 6 + 2 * (e.dc.natAbs + e.dr.natAbs)

/-- What R39 and R300 ask of a timetable by itself. -/
def timetableOk (x : Sec) : Bool :=
  let tt := timetableFrom x
  let ns := imgField x.data 2 2
  decide (1 ≤ tt.window) && imgField x.data 6 2 == 0 && ascending (tt.sends.map (·.off)) && ascending (tt.arrives.map (·.off))
    && (pieces 12 (x.data.drop 8) ns).all (fun e => decide (imgField e 2 4 < 2 ^ 18))
    && (pieces 8 (x.data.drop (8 + 12 * ns)) tt.arrives.length).all (fun e => imgField e 2 2 == 0)
    && tt.sends.all (fun e => decide (e.len % 4 = 0 ∧ 4 ≤ e.len ∧ e.off < tt.window ∧ e.addr % 4 = 0 ∧ e.addr + e.len ≤ 0x60000
        ∧ e.off + sendBeats e ≤ tt.window))
    && tt.arrives.all (fun e => decide (e.off < tt.window ∧ e.addr % 4 = 0 ∧ e.addr < 0x60000))

/-- A tile of the shape with its timetable of a number, where its role has one: column, row, tile-in-quad, role, section, timetable. -/
structure TtTile where
  col : Nat
  row : Nat
  t : Nat
  role : Nat
  index : Nat
  tt : Timetable

/-- The tiles of a shape die that have timetable k. -/
def ttTiles (rs : List RoleSecs) (map : List Nat) (cols rows die k : Nat) : List TtTile :=
  (List.range (4 * cols * rows)).filterMap fun p =>
    (rs.find? fun r => r.num = map.getD (die * 4 * cols * rows + p) 0xFF).bind fun r =>
      ((r.secsOf 2).find? fun x => x.param = k).map fun x =>
        { col := p / 4 % cols, row := p / 4 / cols, t := p % 4, role := r.num, index := x.index, tt := timetableFrom x }

/-- The tile that a send reaches. -/
def TtTile.dst (ts : List TtTile) (x : TtTile) (e : Send) : Option TtTile :=
  ts.find? fun y => (y.col : Int) = x.col + e.dc ∧ (y.row : Int) = x.row + e.dr ∧ y.t = e.t

/-- Does a send meet exactly one arrive entry of its destination (R42)? -/
def sendMeets (ts : List TtTile) (x : TtTile) (e : Send) : Bool :=
  match x.dst ts e with
  | none => false
  | some y =>
    (y.tt.arrives.filter fun a => a.off = e.off + sendLatency e).length == 1

/-- Sends that reach an arrive entry of a tile. -/
def arriveMet (ts : List TtTile) (y : TtTile) (a : Arrive) : List Send :=
  ts.flatMap fun x => x.tt.sends.filter fun e =>
    (x.col : Int) + e.dc = y.col ∧ (x.row : Int) + e.dr = y.row ∧ e.t = y.t ∧ e.off + sendLatency e = a.off

/-- Is an arrive entry met by exactly one send, whose bytes it writes within local SRAM and within the window (R42, R300)? -/
def arriveOk (ts : List TtTile) (y : TtTile) (a : Arrive) : Bool :=
  match arriveMet ts y a with
  | [e] => decide (a.off + sendBeats e ≤ y.tt.window ∧ a.addr + e.len ≤ 0x60000)
  | _ => false

def ttDies (cols rows : Nat) (map : List Nat) : List Nat := List.range (map.length / (4 * cols * rows))

/-- Check 0x0D. -/
def check0D (rs : List RoleSecs) (map : List Nat) (cols rows : Nat) : Option LoadErr :=
  rs.findSome? fun r =>
    ((r.secsOf 2).find? fun x =>
      !timetableOk x ||
        (ttDies cols rows map).any fun d =>
          let ts := ttTiles rs map cols rows d x.param
          (ts.filter fun y => y.role = r.num).any fun y =>
            y.tt.sends.any (fun e => !sendMeets ts y e) || y.tt.arrives.any fun a => !arriveOk ts y a).bind
      fun x => r.fail 0x0D x.index

/-- Link directions that a transfer occupies with the first tick of each: egress, column links, row links, ingress (Table 13.1). A link is named by kind, column, row and tile or direction. -/
def occupies (x : TtTile) (e : Send) : List ((Nat × Int × Int × Nat) × Nat) :=
  let h := e.dc.natAbs + e.dr.natAbs
  let cols : List ((Nat × Int × Int × Nat) × Nat) := (List.range e.dc.natAbs).map fun (k : Nat) =>
    ((1, (x.col : Int) + (if 0 ≤ e.dc then (k : Int) else -(k : Int)), (x.row : Int), if 0 ≤ e.dc then 0 else 1), e.off + 4 + 2 * k)
  let rows : List ((Nat × Int × Int × Nat) × Nat) := (List.range e.dr.natAbs).map fun (k : Nat) =>
    ((2, (x.col : Int) + e.dc, (x.row : Int) + (if 0 ≤ e.dr then (k : Int) else -(k : Int)), if 0 ≤ e.dr then 0 else 1),
      e.off + 4 + 2 * (e.dc.natAbs + k))
  ((0, (x.col : Int), (x.row : Int), x.t), e.off) :: cols ++ rows ++ [((3, (x.col : Int) + e.dc, (x.row : Int) + e.dr, e.t), e.off + 4 + 2 * h)]

/-- Do two transfers occupy a link direction in one tick? -/
def collide (x : TtTile) (e : Send) (y : TtTile) (f : Send) : Bool :=
  (occupies x e).any fun p => (occupies y f).any fun q =>
    p.1 == q.1 && decide (p.2 < q.2 + sendBeats f) && decide (q.2 < p.2 + sendBeats e)

/-- The transfers of timetable k on a shape die. -/
def transfers (ts : List TtTile) : List (TtTile × Send) := ts.flatMap fun x => x.tt.sends.map fun e => (x, e)

/-- The roles whose transfers collide with another of the list. -/
def clashing (xs : List (TtTile × Send)) : List Nat :=
  let ys := xs.zipIdx
  ((ys.filter fun x => ys.any fun y => x.2 != y.2 && collide x.1.1 x.1.2 y.1.1 y.1.2).map fun x => x.1.1.role).eraseDups

/-- Check 0x0E, role by role. -/
def check0E (rs : List RoleSecs) (map : List Nat) (cols rows : Nat) : Option LoadErr :=
  rs.findSome? fun r =>
    ((r.secsOf 2).find? fun x =>
      (ttDies cols rows map).any fun d => (clashing (transfers (ttTiles rs map cols rows d x.param))).contains r.num).bind
      fun x => r.fail 0x0E x.index

/-- Check 0x0F. One role that executes `nt.ttarm` and has no TIMETABLE section is enough; the CODE section that holds the move is reported (DESIGN CHOICE, log 89). -/
def check0F (rs : List RoleSecs) (modes : Nat) (tasked : Bool) : Option LoadErr :=
  if bits modes tasked.toNat tasked.toNat = 0 then some { code := 0x0F }
  else if tasked then none
  else
    (rs.find? fun r => (r.sec 2).isNone && r.bundles.any fun b => (liveMoves b.2).any fun m => toTrig .nt [8] m.2.2).bind
      fun r => r.fail 0x0F r.code.index

/-! ## The whole -/

/-- The part of checks 0x01 and 0x03 that the scheduler makes before any placement: header, section table, SHAPE (R60). -/
def headCheck (bs : List Byte) : Option LoadErr :=
  match check01 bs false with
  | some e => some e
  | none => check03 bs

/-- The checks of Table 2.6 in order (R40). -/
def loadCheck (bs : List Byte) (tasked : Bool) : Option LoadErr :=
  match check01 bs true with
  | some e => some e
  | none =>
    if crc32c ((bs.take (imgTotal bs)).drop 0x40) ≠ BitVec.ofNat 32 (imgField bs 0x14 4) then some { code := 2 }
    else
      match check03 bs with
      | some e => some e
      | none =>
        match shapeSec bs with
        | none => some { code := 1 }
        | some x =>
          let map := (x.data.drop 8).map BitVec.toNat
          let cols := imgField x.data 0 1
          let rows := imgField x.data 1 1
          let rs := (usedRoles map).filterMap (roleSecs (allSecs bs))
          [rs.findSome? check04, rs.findSome? check05, check06 rs map map.length, rs.findSome? check07, rs.findSome? check08,
           rs.findSome? check09, rs.findSome? check0A, rs.findSome? check0B, rs.findSome? check0C, check0D rs map cols rows,
           check0E rs map cols rows, check0F rs (imgField bs 0x0A 2) tasked].findSome? id

/-- Socket bits of a MODEMAP: bit `k` of each byte; the sockets that are always data-locked without one (R35). -/
def modeBits (r : RoleSecs) (k : Nat) : BitVec 23 :=
  match r.sec 5 with
  | some x => BitVec.ofNat 23 ((List.range 23).map fun i => if (x.data.getD i 0).getLsbD k then 2 ^ i else 0).sum
  | none =>
    if k = 0 then BitVec.ofNat 23 ((List.range 23).map fun i =>
      match sockOf i with | some s => if s.always then 2 ^ i else 0 | none => 0).sum
    else 0

/-- A role as the loader writes it. -/
def RoleSecs.img (r : RoleSecs) : RoleImg :=
  { num := r.num, code := r.words, entry := r.code.param
    rings := match r.sec 3 with | some x => (pieces 16 x.data 8).map ringFrom | none => []
    patterns := match r.sec 4 with | some x => (pieces 48 x.data x.param).map patternFrom | none => []
    mode := modeBits r 0, lock := modeBits r 2
    timetables := (r.secsOf 2).map timetableFrom
    data := (r.secsOf 9).map fun x => (x.param, x.data) }

/-- The image of well-formed bytes. -/
def imageOf (bs : List Byte) : Image :=
  match shapeSec bs with
  | none => {}
  | some x =>
    let map := (x.data.drop 8).map BitVec.toNat
    { modes := imgField bs 0x0A 2, cols := imgField x.data 0 1, rows := imgField x.data 1 1, dies := imgField x.data 2 1, map := map
      roles := (usedRoles map).filterMap fun r => (roleSecs (allSecs bs) r).map RoleSecs.img }

end Sys2Proof.Machine
end

