-- ==== Sys2Proof/Machine/Queues.lean ====
section
/-! DEFINITION. Launch queues: commands, notifies, mapping, reading and checking records (R52 to R62, R72). -/

namespace Sys2Proof.Machine

/-! ## Queues -/

def State.queue? (s : State) (n : Nat) : Option LQueue := s.sch.queues.find? fun q => q.num = n

def State.putQueue (s : State) (q : LQueue) : State :=
  { s with sch := { s.sch with queues := s.sch.queues.map fun x => if x.num = q.num then q else x } }

def State.onQueue (s : State) (n : Nat) (f : LQueue → LQueue) : State :=
  match s.queue? n with
  | some q => s.putQueue (f q)
  | none => s

/-- D, and the bytes of queue memory (R52). -/
def LQueue.size (q : LQueue) : Nat := 2 ^ q.depth
def LQueue.bytes (q : LQueue) : Nat := q.size * 144 + 64
def LQueue.header (q : LQueue) : Nat := q.base + 144 * q.size

/-- Launch id at a queue index (R52). -/
def LQueue.launchId (q : LQueue) (i : Nat) : Dword := BitVec.ofNat 64 (q.num % 2 ^ 16 * 2 ^ 48 + i % 2 ^ 48)

/-- The header's fields in memory (R53). -/
def State.writeHeader (s : State) (q : LQueue) (cause : Nat) : State :=
  s.gWrite q.header (natLe q.head 8 ++ natLe cause 8 ++ natLe q.discards 4 ++ natLe 0 4 ++ natLe q.semFault.toNat 8)

/-- Replaces a queue and writes its header. -/
def State.updQueue (s : State) (q : LQueue) : State := (s.putQueue q).writeHeader q (if q.faulted then 0x19 else 0)

/-- Can bytes that the scheduler reads or writes itself, and no table translates, not be reached: uncorrectable, on a failed pseudo-channel, or on a fenced die (R90, R91)? -/
def State.ownLost (s : State) (pa n : Nat) : Bool := (wordsIn pa n).any s.lostAt

/-- The end of the copy, while a pseudo-channel of them is being spared (R90). -/
def State.ownBusy (s : State) (pa n : Nat) : Option Nat := (wordsIn pa n).findSome? s.sparedUntil

/-- Is the scheduler in service? -/
def State.ready (s : State) : Bool := s.boot.stage == 0x09

/-- Does the active core act: it is in service, and its heartbeat is there (R69)? -/
def State.active (s : State) : Bool := s.ready && s.sch.silent.isNone

/-- Result of the last command (Table 3.9). -/
def State.cmdDone (s : State) (n result : Nat) : State :=
  { s with sch := { s.sch with cmdQueue := n, cmdResult := result, cmdBusy := false } }

/-- Address of the descriptor of a queue in the queue table (R52). -/
def State.descAt (s : State) (n : Nat) : Nat := s.sch.qtbase.toNat / 4096 * 4096 + 32 * n

/-- The descriptor of a queue in the queue table; none where it breaks Table 3.1, or cannot be read (R90, R91; DESIGN CHOICE, log 91). -/
def State.descriptor (s : State) (n : Nat) : Option LQueue :=
  let a := s.descAt n
  let f (off k : Nat) : Nat := leNat (s.gRead (a + off) k)
  if s.ownLost a 32 ∨ f 0 8 % 4096 ≠ 0 ∨ 2 ^ 52 ≤ f 0 8 ∨ f 8 1 < 4 ∨ 16 < f 8 1 ∨ 7 < f 9 1 ∨ f 10 1 = 0 ∨ 2 ≤ f 11 1 ∨ f 12 2 = 0 ∨ f 14 18 ≠ 0 then none
  else some { num := n, base := f 0 8, depth := f 8 1, maxPrio := f 9 1, weight := f 10 1, device := f 11 1 = 1,
              asid := BitVec.ofNat 16 (f 12 2) }

def LQueue.overlaps (p q : LQueue) : Bool := decide (p.base < q.base + q.bytes) && decide (q.base < p.base + p.bytes)

/-- Op 1 (R54). While the pseudo-channel of the descriptor is being spared the command stays busy, and the read is tried again (R90). -/
def State.createQueue (s : State) (n : Nat) : State :=
  match s.ownBusy (s.descAt n) 32, s.descriptor n with
  | some u, _ =>
    { s.countRef with
      sch := { s.sch with cmdQueue := n, cmdResult := 0, cmdBusy := true }
      agenda := s.agenda ++ [(s.tick + hintOf u s.tick, .queueCreate, { queue := BitVec.ofNat 16 n, yes := true })] }
  | none, none => s.cmdDone n 2
  | none, some q =>
    if (s.queue? n).isSome ∨ s.sch.queues.any (LQueue.overlaps q) then s.cmdDone n 2
    else
      let s : State := { s with sch := { s.sch with
        queues := s.sch.queues ++ [q]
        journal := s.sch.journal.filter fun e => e.1.toNat / 2 ^ 48 ≠ n } }
      (s.gWrite q.header (List.replicate 64 0)).cmdDone n 0

def State.launch? (s : State) (id : Dword) : Option Launch := s.sch.launches.find? fun l => l.id = id

/-- Op 2 (R54): the queue takes no record from now on; an accepted record that is neither being placed nor staged is dropped. -/
def State.destroyQueue (s : State) (n : Nat) : State :=
  match s.queue? n with
  | none => s.cmdDone n 3
  | some q =>
    let s := s.putQueue { q with destroying := true, accepted := none, rd := none, item := if (s.launch? (q.launchId q.head)).isSome then q.item else none }
    { s with sch := { s.sch with cmdQueue := n, cmdResult := 0, cmdBusy := true } }

/-- Op 3 (R59). -/
def State.resumeQueue (s : State) (n : Nat) : State :=
  match s.queue? n with
  | none => s.cmdDone n 3
  | some q =>
    if q.faulted then (s.updQueue { q with faulted := false, fails := 0, rd := none, reread := s.tick }).cmdDone n 0
    else s.cmdDone n 4

/-- Fixes how a launch ends, if nothing has before (R438); a status that has been written stays (R72). -/
def Launch.endWith (l : Launch) (status detail role index : Nat) : Launch :=
  match l.slotDone, l.result with
  | true, _ | _, some _ => l
  | false, none => { l with result := some (status, detail, role, index) }

def State.putLaunch (s : State) (l : Launch) : State :=
  { s with sch := { s.sch with launches := s.sch.launches.map fun x => if x.id = l.id then l else x } }

/-- Copies and stores on their way: they may go on after their launch has ended (R438). -/
def DlOp.goesOn (o : DlOp) : Bool :=
  match o.kind, o.st with
  | .get _, .active | .put _, .active | .getp _, .active | .putp _, .active | .gst _, .active | .gst _, .queued => true
  | _, _ => false

/-- Does an operation wait at a unit for its turn, and nothing holds it there? A wait for a condition is no such operation. -/
def State.atUnit (s : State) (a : Nat) (o : DlOp) : Bool :=
  (match o.kind with | .swait _ | .bwait _ => false | _ => true)
    && s.units.any fun u => u.inq.any fun r =>
      (match r.src with | .tile b n _ => b == a && n == o.id | .host _ | .peer _ _ => false) && u.gated r == .allow

/-- A tile of a launch that has ended: nothing more issues; which operations go on is chosen freely among those that may (R438). -/
def State.endTile (s : State) (t : Tile) : Tile :=
  { t with
    frozen := true
    queue := t.queue.filter fun o =>
      o.old.isSome || o.isPerformed || ((o.goesOn || s.atUnit t.addr o) && Config.choice ((s.free + o.id) * 2 ^ 20 + t.addr))
    supOp := none, pend := [], preReq := false, prePeriod := false
    tasks := { t.tasks with work := none }
    rings := t.rings.map fun r => { r with filler := none } }

/-- What a launch that ends has left in a tile where another runs: which of its operations go on is chosen in the same way (R118, R438). -/
def State.endLeft (s : State) (id : Dword) (t : Tile) : Tile :=
  { t with
    queue := t.queue.filter fun o =>
      o.old != some id || o.isPerformed || ((o.goesOn || s.atUnit t.addr o) && Config.choice ((s.free + o.id) * 2 ^ 20 + t.addr))
    prevs := t.prevs.map fun v => if v.launch = id then { v with mxq := [], rings := v.rings.map fun r => { r with filler := none } } else v }

/-- The packets of a launch that ends: each that its zone takes now is performed or discarded, by a free choice (R438). -/
def State.endPackets (s : State) (id : Dword) : State :=
  let mine := s.packets.filter fun p => decide (p.launch = id)
  let s := mine.foldl (fun s p =>
    if !p.ctx && p.task.isNone && p.away.isNone && Config.choice ((s.free + p.id) * 2 ^ 20) then s.asPrev p.dst p.launch (State.packetLands p)
    else if p.peer.isSome then s.packetDone p else s) s
  { s with packets := s.packets.filter fun p => p.launch ≠ id, free := s.free + 1 }

/-- The scheduler halts every tile of a launch that has ended (R438). -/
def State.haltLaunch (s : State) (id : Dword) : State :=
  let s := s.endPackets id
  let s : State := { s with
    tiles := s.tiles.map fun t => if t.launch = some id then s.endTile t else s.endLeft id t
    kiln := s.kiln.filter fun k => k.launch ≠ id
    kilnAir := s.kilnAir.filter fun k => k.launch ≠ id
    free := s.free + 0x10000 }
  let s : State := { s with
    units := s.units.map fun u =>
      { u with
        inq := u.inq.filter fun r =>
          r.launch != some id || (match r.src with | .tile a n _ => (s.op? a n).isSome | .host _ | .peer _ _ => true)
        watch := u.watch.filter fun e => e.2.2.launch ≠ some id } }
  let s := s.dropAsks
  match s.launch? id with
  | some l =>
    match l.phase with
    | .complete => s
    | .placing | .started | .staged | .preempting | .saved | .retired | .ending => s.putLaunch { l with phase := .ending, stage := none }
  | none => s

/-- A launch ends without a save (R438). -/
def State.endLaunch (s : State) (id : Dword) (status detail role index : Nat) : State :=
  match s.launch? id with
  | none => s
  | some l => (s.putLaunch (l.endWith status detail role index)).haltLaunch id

/-- Has the launch been launched, and not completed? One that is being placed for the first time, or staged and not switched in, is still at the head of its queue; one that ends with status 2 to 4 never ran (R68, R71). -/
def Launch.wasLaunched (l : Launch) : Bool :=
  match l.phase with
  | .started | .preempting | .saved | .retired => true
  | .ending => l.startTick.isSome || (match l.result with | some r => !(r.1 == 2 || r.1 == 3 || r.1 == 4) | none => true)
  | .placing => l.restoring
  | .staged => match l.stage with | some g => !g.done.isEmpty | none => false
  | .complete => false

/-- Op 4 (R72): every kernel launched from the queue that has not completed ends with status 6. One whose status is written already only waits for its semaphore, and goes on. -/
def State.abortQueue (s : State) (n : Nat) : State :=
  match s.queue? n with
  | none => s.cmdDone n 3
  | some _ =>
    let ids := (s.sch.launches.filter fun l => l.queue = n ∧ l.wasLaunched ∧ !l.slotDone).map (·.id)
    (ids.foldl (fun s id => s.endLaunch id 6 0 0xFF 0xFFFF) s).cmdDone n 0

/-- A `QCMD` write (R71, R72): ignored while busy. -/
def State.qcmd (s : State) (v : Nat) : State :=
  if s.sch.cmdBusy then s
  else
    let n := v % 2 ^ 16
    if bits v 55 16 ≠ 0 then s.cmdDone n 1
    else
      match bits v 63 56 with
      | 1 => s.createQueue n
      | 2 => s.destroyQueue n
      | 3 => s.resumeQueue n
      | 4 => s.abortQueue n
      | _ => s.cmdDone n 1

/-- The host's `QCMD` with an op (R54, R59, R72). -/
def qcmdEvent (op : Nat) (s : State) : State := if s.ready then s.qcmd (op * 2 ^ 56 + s.ev.queue.toNat) else s

/-- A queue whose destruction can end: no kernel launched from it is left, its RELEASE consumed (R54). -/
def State.dueDestroy (s : State) : Option Nat :=
  if s.sch.silent.isSome then none
  else (s.sch.queues.find? fun q => q.destroying && !(s.sch.launches.any fun l => l.queue == q.num)).map (·.num)

/-- QUEUE_DESTROY_COMPLETE (R54). -/
def execQueueDestroyComplete (s : State) : Host.Outcome State Fault Refusal :=
  match s.dueDestroy with
  | none => .next s
  | some n =>
    let s : State := { s with sch := { s.sch with queues := s.sch.queues.filter fun q => q.num ≠ n } }
    .next (s.cmdDone n 0)

/-! ## Notifies (R55, R56) -/

/-- A notify write of `w` to a queue: applied, or discarded and counted. -/
def State.notify (s : State) (n w : Nat) (device good : Bool) : State :=
  match s.queue? n with
  | none => s
  | some q =>
    if q.faulted ∨ q.head + q.size < w ∨ (device && !q.device) ∨ !good then
      s.updQueue { q with discards := min (q.discards + 1) (2 ^ 32 - 1) }
    else
      let idle : Bool := decide (q.notified ≤ q.head)
      let s := s.putQueue { q with
        notified := max q.notified w, lastNotify := s.tick
        reread := if idle then max q.reread (s.tick + Config.delay s.free % 1701) else q.reread }
      let s : State := { s with free := s.free + 1 }
      if q.mapped then s else s.sched 1 (some 33999) .queueMap { queue := BitVec.ofNat 16 n }

/-- The `gst` whose store to a notify page has been taken is performed (R278, R381). -/
def State.notifyStored (s : State) : State :=
  match s.op? s.ev.tile s.ev.op with
  | some o => if o.st = .waiting then (s.countG o.size).perform s.ev.tile o { s := dmStatus o } else s
  | none => s

/-- A write of a notify page through BAR4 or the aperture (R55). While the active core is silent it is held (R69). Before READY a write through BAR4 only leaves its value in the page; of several the last stays (R15; DESIGN CHOICE, log 89). -/
def State.notifyArrives (s : State) : State :=
  let n := s.ev.off / 4096
  let device : Bool := match s.ev.path with | .aperture => true | .bar4 _ => false
  let good : Bool := s.ev.off % 4096 == 0 && (device || s.ev.size == 8)
  let w := s.ev.val.toNat
  if s.active then s.notify n w device good
  else if s.ready then { s with sch := { s.sch with heldNotes := s.sch.heldNotes ++ [(n, w, device, good)] } }
  else if good ∧ !device then { s with boot := { s.boot with pages := putKeyed n w s.boot.pages } }
  else s

/-- The mapped queue that makes room: longest without a notify, with nothing between its read index and N. -/
def oldestIdle : List LQueue → Option LQueue
  | [] => none
  | q :: r =>
    if q.mapped ∧ q.notified ≤ q.head then
      match oldestIdle r with
      | some p => if p.lastNotify < q.lastNotify then some p else some q
      | none => some q
    else oldestIdle r

/-- Maps a queue; at the first mapping the page as it was written before READY is read (R15, R56). -/
def State.mapQueue (s : State) (q : LQueue) : State :=
  let s := s.putQueue { q with mapped := true, wake := false, everMapped := true, reread := max q.reread s.tick }
  match q.everMapped, s.boot.pages.find? fun e => e.1 = q.num with
  | false, some e => s.notify q.num e.2 false true
  | _, _ => s

/-- Can a queue be mapped: fewer than 1,024 are, or one can be evicted (R56)? -/
def State.hasRoom (s : State) : Bool :=
  decide ((s.sch.queues.filter (·.mapped)).length < 1024) || (oldestIdle s.sch.queues).isSome

/-- A pending wake is tried again as soon as a mapped queue empties (R56). -/
def State.dueMap (s : State) : Option Nat :=
  if (s.sch.queues.any (·.wake)) && s.hasRoom then (s.sch.queues.find? (·.wake)).map (·.num) else none

/-- QUEUE_MAP (R56): at most 1,024 queues are mapped; the filter keeps the wake pending while none can be evicted. -/
def execQueueMap (s : State) : Host.Outcome State Fault Refusal :=
  match s.queue? s.ev.queue.toNat with
  | none => .next s
  | some q =>
    if q.mapped then .next s
    else if (s.sch.queues.filter (·.mapped)).length < 1024 then .next (s.mapQueue q)
    else
      match oldestIdle s.sch.queues with
      | some p => .next ((s.putQueue { p with mapped := false }).mapQueue q)
      | none => .next (s.putQueue { q with wake := true })

/-! ## The order of the host's writes (R372) -/

/-- Host port of a write. -/
def portOfWrite (i : Instr) (e : EvArg) : HostPort :=
  match i, e.path with
  | .notifyWrite, .bar4 p => p
  | _, _ => e.port

/-- Is a write of the port still to be performed? -/
def State.portHeld (s : State) (p : HostPort) : Bool := s.hostQ.any fun x => portOfWrite x.1 x.2 == p

/-- The write of the event waits behind those of its port. -/
def State.behind (s : State) (i : Instr) : State := { s with hostQ := s.hostQ ++ [(i, s.ev)] }

/-! ## Access in an ASID (R60) -/

/-- Outcome of an access of the scheduler through an ASID. -/
inductive SchedAcc where
  /-- physical address and kind of the page, with A (and D) set -/
  | ok (s : State) (pa kind home : Nat)
  | refuse (hint : Nat)
  | fault (c : Cause)

/-- Translates an access of the scheduler as a user strand's, a store at its natural alignment (Table 12.4, step 1); a missing entry is final and leaves no record (R60). Its own die, for a replicated page and for the links on the way, is die 0 (DESIGN CHOICE, log 91). -/
def State.schedAccess (s : State) (asid : Half) (va n : Nat) (acc : Access) : SchedAcc :=
  if acc = .wr ∧ va % n ≠ 0 then .fault .misaligned
  else
  match s.walk asid va with
  | .busy u => .refuse (hintOf u s.tick)
  | .missing _ | .final => .fault .translationFault
  | .lost => .fault .dataUncorrectable
  | .leaf at_ pte big =>
    let e := entryOf asid va pte big
    let w : Who := { tile := 0, user := true, asid := asid, acc := acc, store8 := acc == .wr && n == 8 }
    let pa := homedPa w e va
    match permCheck w e pa with
    | some c => .fault c
    | none =>
      if bits pte 9 9 = 1 then .refuse 3400
      else
        match s.homeCheck w e pa n (acc == .rd) with
        | .refuse h => .refuse h
        | .fault c _ => .fault c
        | .ok => .ok (s.gWrite at_ (natLe (pte ||| (8 + if acc == .rd then 0 else 16)) 8)) pa e.kind (homeDie e pa)

/-- Bytes of an image in an ASID, page by page. -/
inductive ImgRead where
  | ok (s : State) (bs : List Byte)
  | refuse (hint : Nat)
  | fault

def State.readIn (asid : Half) : Nat → Nat → Nat → State → ImgRead
  | 0, _, _, s => .ok s []
  | k + 1, va, n, s =>
    if n = 0 then .ok s []
    else
      let m := min n (0x10000 - va % 0x10000)
      match s.schedAccess asid va m .rd with
      | .fault _ => .fault
      | .refuse h => .refuse h
      | .ok s pa _ _ =>
        match State.readIn asid k (va + m) (n - m) s with
        | .ok s' bs => .ok s' (s.gRead pa m ++ bs)
        | .refuse h => .refuse h
        | .fault => .fault

def State.readVirt (s : State) (asid : Half) (va n : Nat) : ImgRead := State.readIn asid (n / 0x10000 + 2) va n s

/-- The image at an address: its header says how long it is; a header without the magic is all that is read. -/
def State.readImage (s : State) (asid : Half) (va : Nat) : ImgRead :=
  match s.readVirt asid va 64 with
  | .ok s hd =>
    if imgField hd 0 8 = 0x474D494E494D4F50 then s.readVirt asid va (max 64 (imgTotal hd)) else .ok s hd
  | .refuse h => .refuse h
  | .fault => .fault

/-! ## The record (R57 to R60) -/

/-- The fields of a record (Tables 3.2 and 3.3). -/
def recordOf (bs : List Byte) : LRec :=
  let f (off n : Nat) : Nat := imgField bs off n
  let c := f 8 2
  { image := f 0 8, tasked := bits c 0 0 = 1, prio := bits c 3 1, pclass := bits c 5 4, done := bits c 6 6 = 1,
    dep := bits c 7 7 = 1, early := bits c 8 8 = 1, asid := BitVec.ofNat 16 (f 0x0A 2), mask := f 0x0C 4,
    producer := BitVec.ofNat 64 (f 0x10 8), sem := f 0x18 8, semVal := BitVec.ofNat 64 (f 0x20 8), shape := f 0x28 4,
    limit := f 0x2C 4, args := (List.range 4).map fun k => BitVec.ofNat 64 (f (0x30 + 8 * k) 8) }

/-- Check 0x20. -/
def recordMalformed (bs : List Byte) : Bool :=
  let r := recordOf bs
  decide (2 ^ 55 ≤ r.image ∨ r.image % 8 ≠ 0 ∨ bits (imgField bs 8 2) 15 9 ≠ 0 ∨ r.pclass = 3 ∨ 2 ^ 24 ≤ r.mask
    ∨ 2 ^ 24 ≤ r.shape ∨ imgField bs 0x50 36 ≠ 0) || (r.done && r.sem % 8 != 0)

/-- Check 0x22. -/
def State.badProducer (s : State) (q : LQueue) (r : LRec) : Bool :=
  let pq := r.producer.toNat / 2 ^ 48
  r.dep && ((s.queue? pq).isNone || (pq == q.num && decide (q.head % 2 ^ 48 ≤ r.producer.toNat % 2 ^ 48)))

/-- Healthy dies (R91, Table 4.5). -/
def State.healthy (s : State) : List Nat := (List.range 24).filter fun d => !s.sick.getLsbD d

/-- Group table: dword k of the table. -/
def State.groupWord (s : State) (k : Nat) : Nat := match s.sch.groups.find? fun e => e.1 = k with | some e => e.2.toNat | none => 0

/-- The L4 group of launches from a queue with an ASID: base rank and total member count (R82). -/
def State.groupOf (s : State) (q : Nat) (asid : Half) : Option (Nat × Nat) :=
  let entry := (List.range 256).find? fun e => bits (s.groupWord (2 * e)) 47 32 ≠ 0 ∧ s.groupWord (2 * e) % 2 ^ 16 = q
  entry.bind fun e =>
    if bits (s.groupWord (2 * e)) 31 16 = asid.toNat then
      some (s.groupWord (2 * e + 1) % 2 ^ 32, s.groupWord (2 * e + 1) / 2 ^ 32)
    else none

/-- Running tiles of an image. -/
def Image.running (i : Image) : Nat := (i.map.filter (· ≠ 0xFF)).length

/-- Code 0x28: the ranks of a launch lie beyond the members of its group (R82). -/
def State.groupBad (s : State) (q : LQueue) (r : LRec) (i : Image) : Bool :=
  (s.groupOf q.num r.asid).any fun g => decide (g.2 < g.1 + i.running)

/-- Checks 0x24 to 0x28. -/
def State.shapeCheck (s : State) (q : LQueue) (r : LRec) (i : Image) : Option Nat :=
  let admitted := (s.healthy.filter fun d => r.mask.testBit d).length
  if r.shape ≠ 0 ∧ r.shape ≠ i.cols + i.rows * 256 + i.dies * 65536 then some 0x24
  else if r.mask ≠ 0 ∧ admitted < i.dies then some 0x25
  else if bits i.modes r.tasked.toNat r.tasked.toNat = 0 then some 0x26
  else if 24 < i.cols ∨ 18 < i.rows ∨ s.healthy.length < i.dies then some 0x27
  else if s.groupBad q r i then some 0x28
  else none

/-- A launch that never runs: refused, rejected or cancelled; its completion is written under R68. -/
def State.refuseHead (s : State) (q : LQueue) (r : LRec) (status detail role index : Nat) : State :=
  let l : Launch := { id := q.launchId q.head, queue := q.num, index := q.head, rcd := r, img := {}, prio := min r.prio q.maxPrio,
                      phase := .ending, result := some (status, detail, role, index), due := s.tick }
  let s : State := { s with sch := { s.sch with launches := s.sch.launches ++ [l] } }
  s.updQueue { q with head := q.head + 1, item := none, fails := 0, accepted := none, rd := none }

/-- Counts a record that a queue has taken while it holds the turn of its priority (R61). -/
def State.countTurn (s : State) (p n : Nat) : State :=
  { s with sch := { s.sch with turns := s.sch.turns.map fun e => if e.1 = p ∧ e.2.1 = n then (p, n, e.2.2 + 1) else e } }

/-- The head record is refused, or its image rejected; it counts in the turn (R61, R68). -/
def State.refuseRecord (s : State) (q : LQueue) (r : LRec) (status code role index : Nat) : State :=
  (s.countTurn (min r.prio q.maxPrio) q.num).refuseHead q r status code role index

/-- The checks of Table 3.5 from 0x23 on: while the read of the image is refused, the accepted record stays at the head of its queue (R60). They are made once: a record for whose shape too few dies are healthy later stays at the head (DESIGN CHOICE, log 91). -/
def State.checkImage (s : State) (q : LQueue) (bs : List Byte) : State :=
  let r := recordOf bs
  match s.readImage r.asid r.image with
  | .fault => s.refuseRecord q r 3 0x23 0xFF 0xFFFF
  | .refuse h => s.countRef.putQueue { q with accepted := some bs, fails := 0, reread := s.tick + h }
  | .ok s bytes =>
    match headCheck bytes with
    | some e => s.refuseRecord q r 2 e.code e.role e.index
    | none =>
      let i := imageOf bytes
      match s.shapeCheck q r i with
      | some c => s.refuseRecord q r 3 c 0xFF 0xFFFF
      | none => s.putQueue { q with item := some { rcd := r, img := i, load := loadCheck bytes r.tasked }, fails := 0, accepted := none }

/-- The checks of Table 3.5 on an accepted record. -/
def State.checkRecord (s : State) (q : LQueue) (bs : List Byte) : State :=
  let r := recordOf bs
  if recordMalformed bs then s.refuseRecord q r 3 0x20 0xFF 0xFFFF
  else if r.asid ≠ q.asid then s.refuseRecord q r 3 0x21 0xFF 0xFFFF
  else if s.badProducer q r then s.refuseRecord q r 3 0x22 0xFF 0xFFFF
  else s.checkImage q bs

/-- The scheduler has acted; its next action comes a free time later. -/
def State.schedBusy (s : State) : State :=
  { s with sch := { s.sch with next := s.tick + 1 + Config.delay s.free }, free := s.free + 1 }

/-- A queue whose head record is to be read now. -/
def State.dueRead (s : State) : Option Nat :=
  if !s.active then none
  else
    (s.sch.queues.find? fun q => q.mapped && !q.faulted && !q.destroying && q.item.isNone && decide (q.head < q.notified)
      && decide (q.reread ≤ s.tick)).map (·.num)

/-- The record has not arrived: it is read again at least every 3,400 ticks, and the count of failed checksums starts at zero (R58, R59). -/
def State.notArrived (s : State) (q : LQueue) (from_ : Nat) : State :=
  { s.putQueue { q with fails := 0, rd := none, reread := s.tick + 1 + Config.delay s.free % max 1 (3400 - (s.tick - from_)) } with
    free := s.free + 1 }

/-- A failed checksum: the 16th in a row faults the queue; otherwise the record is read again 3,400 ticks later (R58, R59). -/
def State.failedSum (s : State) (q : LQueue) : State :=
  if q.fails = 15 then s.updQueue { q with fails := 0, rd := none, faulted := true }
  else s.putQueue { q with fails := q.fails + 1, rd := none, reread := s.tick + 3400 }

/-- One part of a read of the head record: its mark, its body, its mark again, each a free time after the one before (R58). What cannot be read has not arrived (DEDUCED, log 53). -/
def State.recordStep (s : State) (q : LQueue) : State :=
  let at_ := q.base + 128 * (q.head % q.size)
  let mark : Bool := !s.ownLost at_ 128 && leNat (s.gRead (at_ + 0x78) 8) == (q.head + 1) % 2 ^ 64
  let later (q : LQueue) : State := { s.putQueue { q with reread := s.tick + Config.delay s.free % 1700 } with free := s.free + 1 }
  match s.ownBusy at_ 128, q.rd with
  | some u, _ => s.countRef.putQueue { q with rd := none, reread := s.tick + hintOf u s.tick }
  | none, none => if mark then later { q with rd := some (s.tick, none) } else s.notArrived q s.tick
  | none, some (t0, none) => later { q with rd := some (t0, some (s.gRead at_ 0x78)) }
  | none, some (t0, some bs) =>
    if !mark then s.notArrived q t0
    else if crc32c (bs.take 0x74) ≠ BitVec.ofNat 32 (imgField bs 0x74 4) then s.schedBusy.failedSum q
    else s.schedBusy.checkRecord { q with rd := none, fails := 0 } (bs ++ natLe (q.head + 1) 8)

/-- RECORD_READ (R58 to R60): the next part of a read of the head record, or, for an accepted one, the read of its image. -/
def execRecordRead (s : State) : Host.Outcome State Fault Refusal :=
  match s.queue? s.ev.queue.toNat with
  | none => .next s
  | some q =>
    if !q.mapped ∨ q.faulted ∨ q.destroying ∨ q.item.isSome ∨ q.notified ≤ q.head ∨ s.tick < q.reread then .next s
    else
      match q.accepted with
      | some bs => .next (s.schedBusy.checkImage q bs)
      | none => .next (s.recordStep q)

end Sys2Proof.Machine
end

