-- ==== Sys2Proof/Machine/Placing.lean ====
section
/-! DEFINITION. Placement: which quads are available, the choice of rectangles, ranks and domains, and the binding of a tile to a launch (R67, R73 to R86). -/

namespace Sys2Proof.Machine

/-! ## Quads and rectangles (R75 to R79) -/

/-- Does a launch run on a die that has rung no bell for longer than 1,700,000 ticks (R32)? -/
def State.silentOn (s : State) (d : Nat) : Bool :=
  s.sch.launches.any fun l => (l.phase == .started || l.phase == .preempting) && decide (l.lastRing + 1700000 < s.tick)
    && l.place.any fun p => p.1 == d

/-- Do the management controllers hold new placements on a die, as long as a cap is not met (R32)? -/
def State.capHolds (s : State) (d : Nat) : Bool := s.capUntil.isSome && s.overCap && (s.capHeld.contains d || s.silentOn d)

/-- Does a quad lie at or below a condemned one in its column? It is available again after the shift (R87; DEDUCED, log 68). -/
def State.awaitsShift (s : State) (q : Nat) : Bool :=
  s.condemned.any fun x => clusterOf x == clusterOf q && bits x 5 2 == bits q 5 2 && decide (bits x 9 6 ≤ bits q 9 6)

/-- Is a quad available (R76 and the text before it)? Quads of the launches in `own` count as free; the clusters in `skip` answered NOFIT in this attempt (R77). -/
def State.available (s : State) (own : List Dword) (skip : List Nat) (q : Nat) : Bool :=
  !s.sick.getLsbD (dieOf q) && !s.capHolds (dieOf q) && !s.boot.held.contains (clusterOf q)
    && !s.draining.contains (clusterOf q) && !skip.contains (clusterOf q)
    && !s.awaitsShift q && !s.lostQuads.contains q
    && (match (s.quadAt q).owner with | some l => own.contains l | none => true)

/-- The quads of a rectangle, by shape row and then shape column. -/
def rectQuads (die row col cols rows : Nat) : List Nat :=
  (List.range rows).flatMap fun r => (List.range cols).map fun c => tileAddr die (col + c) (row + r) 0

/-- The least origin on a die whose rectangle is wholly available (R77), congruent to an earlier one where the kernel is restored (R79). -/
def State.originOn (s : State) (own : List Dword) (skip : List Nat) (cols rows : Nat) (old : Option (Nat × Nat × Nat)) (same : Bool)
    (d : Nat) : Option (Nat × Nat × Nat) :=
  let fits (p : Nat × Nat) : Bool :=
    (match old with
     | some o => if same then o == (d, p.1, p.2) else p.1 % 9 == o.2.1 % 9 && p.2 % 12 == o.2.2 % 12
     | none => true)
      && (rectQuads d p.1 p.2 cols rows).all (s.available own skip)
  (((List.range (19 - rows)).flatMap fun r => (List.range (25 - cols)).map fun c => (r, c)).find? fits).map fun p => (d, p.1, p.2)

/-- The first dies, in ascending number, that hold a rectangle each: shape die `k` and those after it (R76, R77). -/
def State.chooseDies (s : State) (own : List Dword) (skip : List Nat) (img : Image) (old : List (Nat × Nat × Nat)) (same : Bool) :
    List Nat → Nat → Option (List (Nat × Nat × Nat))
  | [], k => if k = img.dies then some [] else none
  | d :: r, k =>
    if k = img.dies then some []
    else
      match s.originOn own skip img.cols img.rows old[k]? same d with
      | some p => (State.chooseDies s own skip img old same r (k + 1)).map fun ps => p :: ps
      | none => State.chooseDies s own skip img old same r k

/-- Dies that the affinity mask admits (Table 3.2). -/
def State.admitted (s : State) (mask : Nat) : List Nat := s.healthy.filter fun d => mask = 0 ∨ mask.testBit d

/-- A placement of a shape, if there is one now. -/
def State.choose (s : State) (own : List Dword) (skip : List Nat) (img : Image) (mask : Nat) (old : List (Nat × Nat × Nat)) (same : Bool) :
    Option (List (Nat × Nat × Nat)) :=
  State.chooseDies s own skip img old same (s.admitted mask) 0

/-- The quads that a launch is placed on. -/
def Launch.quads (l : Launch) : List Nat := l.place.flatMap fun p => rectQuads p.1 p.2.1 p.2.2 l.img.cols l.img.rows

/-- The clusters that a launch's rectangles touch. -/
def Launch.clusters (l : Launch) : List Nat := (l.quads.map clusterOf).eraseDups

/-- The clusters whose leaf can still be reached: their die is not fenced (R91). -/
def State.leavesOf (s : State) (l : Launch) : List Nat := l.clusters.filter fun c => !s.sick.getLsbD (c / 4)

/-! ## Domains (R80) -/

/-- Do two tiles share the domain of a level (R80)? -/
def sameDomain (level a b : Nat) : Bool :=
  if level = 0 then quadOf a == quadOf b else if level = 1 then clusterOf a == clusterOf b
  else if level = 2 then dieOf a == dieOf b else true

/-- Members of the domain of a level, in rank order. -/
def domainOf (xs : List Seat) (level a : Nat) : List Seat := xs.filter fun y => y.role.isSome && sameDomain level a y.addr

/-- `domL` of a running tile at levels 0 to 3 (R80, R81). -/
def domWord (xs : List Seat) (level : Nat) (x : Seat) : Dword :=
  let ms := domainOf xs level x.addr
  BitVec.ofNat 64 (ms.length * 2 ^ 32 + ms.idxOf x)

/-- The domain registers of a seat; the L4 domain is the group's where a group applies (R81, R82). -/
def Launch.domRegs (l : Launch) (xs : List Seat) (x : Seat) : Vector Dword 5 :=
  if x.role.isNone then Vector.replicate 5 0
  else
    let d3 := domWord xs 3 x
    let d4 := match l.group with
      | some (base, total) => BitVec.ofNat 64 (total * 2 ^ 32 + base + d3.toNat % 2 ^ 32)
      | none => d3
    #v[domWord xs 0 x, domWord xs 1 x, domWord xs 2 x, d3, d4]

/-- The placement registers of a seat (Table 4.3). -/
def State.tidRegs (s : State) (l : Launch) (x : Seat) : Vector Dword 4 :=
  let p := l.place.getD x.sdie (0, 0, 0)
  #v[BitVec.ofNat 64 (s.mtile x.addr),
     BitVec.ofNat 64 (x.role.getD 0xFF * 2 ^ 32 + x.sdie * 2 ^ 24 + x.sqr * 2 ^ 16 + x.sqc * 2 ^ 8 + x.stq),
     BitVec.ofNat 64 (p.1 * 2 ^ 16 + p.2.1 * 2 ^ 8 + p.2.2),
     BitVec.ofNat 64 (l.rcd.tasked.toNat * 2 ^ 16 + l.rcd.asid.toNat)]

/-! ## Code (R95) -/

/-- The distinct roles of a quad, ascending. -/
def quadRoles (xs : List Seat) (q : Nat) : List Nat :=
  let here := (xs.filter fun x => quadOf x.addr == q).filterMap fun x => x.role
  (List.range 256).filter here.contains

def Image.role? (i : Image) (n : Nat) : Option RoleImg := i.roles.find? fun r => r.num = n

def Image.codeOf (i : Image) (n : Nat) : List Word := match i.role? n with | some r => r.code | none => []

/-- The words of a half: the codes of the quad's roles one after another. -/
def quadCode (i : Image) (roles : List Nat) : List Word := roles.flatMap i.codeOf

/-- Start of a role's code in the half, in bytes. -/
def codeStartOf (i : Image) : List Nat → Nat → Nat
  | [], _ => 0
  | r :: rs, n => if r = n then 0 else 4 * (i.codeOf r).length + codeStartOf i rs n

/-! ## Binding a tile (R67, R84) -/

/-- The first state of bank0 of a seat (R67). -/
def Launch.bank0 (l : Launch) (x : Seat) : Strand :=
  match x.role with
  | none => {}
  | some r =>
    let a (k : Nat) : Dword := l.rcd.args.getD k 0
    let g : Vector Dword 32 := Vector.ofFn fun i => if i.val < 4 then a i.val else if i.val = 4 then l.id else 0
    { g := g, pc := BitVec.ofNat 32 (match l.img.role? r with | some ri => ri.entry | none => 0) }

/-- bank3 as its entry finds it at a placement. -/
def entryBank : Strand := { life := .live }

/-- The tile's state is cleared before the loader writes it, when it last served another ASID (R84); error counts and the scrubber go on. -/
def Tile.cleared (t : Tile) : Tile :=
  { addr := t.addr, errs := t.errs, scrub := t.scrub, scrubDue := t.scrubDue }

/-- Must the tile be cleared for the ASID? -/
def Tile.mustClear (t : Tile) (asid : Half) : Bool := t.lastAsid != some asid

/-- Both masks of an accumulator select every entry (R250). -/
def Acc.openMasks (a : Acc) : Acc := { a with rows := 0xFFFF, cols := 0xFFFF }

/-- What the loader and the leaf write into a tile whose state has been cleared or kept (R51, R67, R81, R83, R84, R95, R451). -/
def State.bindTile (s : State) (l : Launch) (xs : List Seat) (x : Seat) (t : Tile) : Tile :=
  let roles := quadRoles xs (quadOf x.addr)
  let ri : RoleImg := match x.role with | some r => (l.img.role? r).getD { num := r } | none => { num := 0xFF }
  let code := match x.role with | some r => l.img.codeOf r | none => []
  let t : Tile := { t with
    launch := some l.id, role := x.role, tasked := l.rcd.tasked, asid := l.rcd.asid, lastAsid := some l.rcd.asid
    codeStart := match x.role with | some r => codeStartOf l.img roles r | none => 0
    codeLen := 4 * code.length
    tid := s.tidRegs l x, dom := l.domRegs xs x
    banks := #v[l.bank0 x, {}, {}, entryBank]
    mode := ri.mode, lock := ri.lock, sleepd := 0, asleep := false, stalled := 0, stallFrom := none
    queue := [], tags := 0, tagStop := 0, cursors := Vector.replicate 4 none, acc := t.acc.map Acc.openMasks
    rings := Vector.ofFn fun k => ri.rings.getD k.val {}
    patterns := ri.patterns, mxq := [], zones := Vector.replicate 16 {}, timetables := ri.timetables
    window := none, kslots := [], kgens := [], knotices := [], knBy := Vector.replicate 4 none, tasks := { unitTick := s.tick, raisedTick := s.tick }
    utlb := [], digest := 0xFFFFFFFFFFFFFFFF, records := 0, dgbuf := []
    stmr := 0, supOp := none, natAt := none, supReady := false, pend := [], badRegs := [], softRegs := [], mxUpset := false, refetch := false
    preReq := false, prePeriod := false, preHalted := false, frozen := false, debugHeld := false, drained := false
    ended := none, endSeen := false, prevs := [], heldRun := none, gangWait := none, gangGo := false, gangHold := false, gangSplit := false, gangTrap := none }
  ri.data.foldl (fun t d => t.engineWrite (((List.range d.2.length).map (d.1 + ·)).zip d.2)) t

/-- The supervisor entry at placement: cause 0x00, detail 0 with the time limit in bits [63:32] (R431, Table 18.1). -/
def Tile.placementEntry (t : Tile) (limit from_ : Nat) : Tile :=
  { t with run := 3, sel := #v[0, 0, 0, BitVec.ofNat 64 (limit * 2 ^ 32)], ready := from_ }

/-- Placement of one tile: cleared where it must be, in 900 ticks, then written; its supervisor entry follows (R84, R431). -/
def State.placeTile (s : State) (l : Launch) (xs : List Seat) (x : Seat) : State :=
  let t0 := s.tileAt x.addr
  let clear := t0.mustClear l.rcd.asid
  let t := s.bindTile l xs x (if clear then t0.cleared else t0)
  let from_ := s.tick + 1 + (if clear then 900 else 0) + Config.delay s.free
  { s.setTile (t.placementEntry l.rcd.limit from_) with free := s.free + 1 }

/-- The leaf reserves a quad for a launch and writes its active half; gang state is cleared, and the supervisor store holds the running image's (R86, R95, R416). -/
def State.reserveQuad (s : State) (l : Launch) (xs : List Seat) (q : Nat) : State :=
  s.onQuad q fun _ => { addr := q, active := quadCode l.img (quadRoles xs q), store := s.boot.sup, owner := some l.id }

end Sys2Proof.Machine
end

