-- ==== Sys2Proof/Machine/Leaf.lean ====
section
/-! DEFINITION. The links between the scheduler and the leaf controllers, and what a leaf does: placing, starting, reporting, releasing (R70, R77, R444 to R450). -/

namespace Sys2Proof.Machine

/-! ## Messages (R70, Table 3.8) -/

/-- Does the message go to the leaf? -/
def LMsg.down : LMsg → Bool
  | .place | .start _ | .preempt | .release => true
  | .placed _ | .nofit | .triggered | .halted _ | .fault _ _ => false

/-- Is it a message of a link direction? -/
def LinkMsg.on (x : LinkMsg) (c : Nat) (down : Bool) : Bool := x.cluster == c && x.msg.down == down

/-- The tick of the last message on a link direction. -/
def State.lastDue (s : State) (c : Nat) (down : Bool) : Nat :=
  (s.sch.msgs.filter fun x => x.on c down).foldl (fun d x => max d x.due) 0

/-- Has the sender of a link direction one of its 8 permits left? A message that is not yet consumed holds one (R70). -/
def State.hasPermit (s : State) (c : Nat) (down : Bool) : Bool :=
  decide ((s.sch.msgs.filter fun x => x.on c down && !x.waits).length < 8)

/-- The tick at which a message that leaves now is consumed: after those before it on its link, a free time later. -/
def State.msgDue (s : State) (c : Nat) (down : Bool) : Nat := max (s.lastDue c down) (s.tick + 1 + Config.delay s.free)

/-- Sends a message. One for which no permit is left waits at its sender (R70). -/
def State.sendMsg (s : State) (c : Nat) (l : Dword) (m : LMsg) : State :=
  let x : LinkMsg :=
    if s.hasPermit c m.down then { cluster := c, msg := m, launch := l, due := s.msgDue c m.down }
    else { cluster := c, msg := m, launch := l, due := 0, waits := true }
  { s with sch := { s.sch with msgs := s.sch.msgs ++ [x] }, free := s.free + 1 }

/-- A permit has come back: the first message of the direction that waits leaves with it (R70). -/
def State.permitBack (s : State) (c : Nat) (down : Bool) : State :=
  match s.sch.msgs.find? fun x => x.on c down && x.waits with
  | none => s
  | some x =>
    { s with
      sch := { s.sch with msgs := s.sch.msgs.replace x { x with waits := false, due := s.msgDue c down } }
      free := s.free + 1 }

def State.sendAll (s : State) (cs : List Nat) (l : Dword) (m : LMsg) : State := cs.foldl (fun s c => s.sendMsg c l m) s

/-- The next message of a link direction. -/
def State.headMsg (s : State) (c : Nat) (down : Bool) : Option LinkMsg := s.sch.msgs.find? fun x => x.on c down

/-- Names of the messages, to tell which event consumes one. -/
inductive LKind where
  | place | start | preempt | release | placed | nofit | triggered | halted | fault
deriving DecidableEq, Repr

def LMsg.kind : LMsg → LKind
  | .place => .place | .start _ => .start | .preempt => .preempt | .release => .release | .placed _ => .placed
  | .nofit => .nofit | .triggered => .triggered | .halted _ => .halted | .fault _ _ => .fault

/-- The event at which a receiver consumes a message. -/
def LKind.event : LKind → Instr
  | .place => .place | .start => .start | .preempt => .preempt | .release => .release | .placed => .placed
  | .nofit => .nofit | .triggered => .triggered | .halted => .halted | .fault => .fault

def LKind.down : LKind → Bool
  | .place | .start | .preempt | .release => true
  | .placed | .nofit | .triggered | .halted | .fault => false

/-- The receiver on the link of the cluster of the event consumes the message at the head, if it is one of the kind and its time has come, and returns its permit. -/
def State.takeMsg (s : State) (k : LKind) : Option (LinkMsg × State) :=
  match s.headMsg s.ev.cluster k.down with
  | some m =>
    if m.msg.kind = k ∧ !m.waits ∧ m.due ≤ s.tick then
      some (m, State.permitBack { s with sch := { s.sch with msgs := s.sch.msgs.erase m } } m.cluster k.down)
    else none
  | none => none

/-- The first message whose receiver can consume it now; a scheduler core that misses its heartbeat consumes none (R69). -/
def State.dueMsg (s : State) : Option (Instr × EvArg) :=
  (s.sch.msgs.find? fun m => !m.waits && (m.msg.down || s.sch.silent.isNone) && decide (m.due ≤ s.tick) && s.headMsg m.cluster m.msg.down == some m).map fun m =>
    (m.msg.kind.event, { cluster := m.cluster })

/-! ## PLACE -/

/-- The seats of a launch in a cluster. -/
def seatsIn (xs : List Seat) (c : Nat) : List Seat := xs.filter fun x => clusterOf x.addr == c

/-- Has a quad become unfit for a placement: condemned or lost, or on a fenced die (R92)? -/
def State.unfit (s : State) (q : Nat) : Bool := s.sick.getLsbD (dieOf q) || s.condemned.contains q || s.lostQuads.contains q

/-- May the leaf reserve the launch's quads in its cluster: it does not drain, it is not held, and the quads are fit and free (R23 to R25, R76, R92)? -/
def State.leafCan (s : State) (l : Launch) (c : Nat) : Bool :=
  !s.draining.contains c && !s.boot.held.contains c && (l.quads.filter fun q => clusterOf q = c).all fun q =>
    !s.unfit q && (match (s.quadAt q).owner with | some o => o == l.id | none => true)

/-- The leaf reserves the quads of its cluster, and loads and binds their tiles. -/
def State.leafPlace (s : State) (l : Launch) (c : Nat) : State :=
  let xs := l.seats
  let s := (l.quads.filter fun q => clusterOf q = c).foldl (fun s q => s.reserveQuad l xs q) s
  (seatsIn xs c).foldl (fun s x => s.placeTile l xs x) s

/-- The leaf reserves the quads of its cluster for a restoration or for an image it will not load. -/
def State.leafReserve (s : State) (l : Launch) (c : Nat) : State :=
  let xs := l.seats
  (l.quads.filter fun q => clusterOf q = c).foldl (fun s q => s.reserveQuad l xs q) s

/-- PLACE at a leaf (R77, R92): it reserves the rectangle and loads the image, or answers NOFIT. A rejected image is not written (R40). A restored launch is written back by RESTORE. -/
def execPlace (s : State) : Host.Outcome State Fault Refusal :=
  match s.takeMsg .place with
  | none => .next s
  | some (m, s) =>
    match s.launch? m.launch with
    | none => .next s
    | some l =>
      if !s.leafCan l m.cluster then .next (s.sendMsg m.cluster l.id .nofit)
      else if l.restoring then .next ((s.leafReserve l m.cluster).sched 1 none .restore { cluster := m.cluster, launch := l.id })
      else
        match l.load with
        | some e => .next ((s.leafReserve l m.cluster).sendMsg m.cluster l.id (.placed (some e)))
        | none => .next (s.leafPlace l m.cluster)

/-! ## START -/

/-- A strand of the launch starts or resumes at the named tick (R67, R70, R437). -/
def Tile.startAt (t : Tile) (tick : Nat) : Tile :=
  let t : Tile := { t with frozen := false, preHalted := false, ready := max t.ready tick }
  if t.role.isSome ∧ (t.bank 0).life = .unstarted then t.onBank 0 fun b => { b with life := .live } else t

/-- The engines take up the operations of a restored tile again, with the rank map rewritten (R321, R362, R437). -/
def State.resumeOps (s : State) (a : Nat) : State :=
  ((s.tileAt a).queue.filter fun o => !o.isPerformed).foldl (fun s o =>
    if o.sock = Sock.dm then s.again a o
    else if o.atUnit then s.sched 1 none .atomicArrival { tile := a, op := o.id, yes := true }
    else
      match o.kind, o.st with
      | .push _, .queued | .push _, .active | .msg, .queued | .mig, .queued => s.sched 1 none .packetRetry { tile := a, op := o.id, yes := true }
      | _, _ => s) s

/-- START at a leaf (R70). -/
def execStart (s : State) : Host.Outcome State Fault Refusal :=
  match s.takeMsg .start with
  | none => .next s
  | some (m, s) =>
    match m.msg with
    | .start t =>
      let here := (s.launchTiles m.launch).filter fun x => clusterOf x.addr = m.cluster
      let s := here.foldl (fun s x => (s.onTile x.addr fun x => x.startAt t).resumeOps x.addr) s
      -- the cluster load register is written on the START tick (R403)
      .next { s with agenda := s.agenda ++ [(t, .clusterLoadWrite, { cluster := m.cluster, launch := m.launch, yes := true })] }
    | _ => .next s

/-! ## Draining (R444 to R447) -/

/-- Does a tile's drain wait for the operation (Table 19.1)? For a `gld` it does while the access is pending or refused (R446). -/
def DlOp.drains (o : DlOp) : Bool :=
  match o.kind with
  | .gld _ => (match o.st with | .pending _ | .refused _ => true | _ => false)
  | .get _ | .put _ | .getp _ | .putp _ | .fill _ | .gst _ | .gatom _ _ | .gcas _
  | .sig _ | .swait _ | .sdec _ | .binit | .arrive _ | .drop _ | .bwait _ | .push _ | .msg | .mig | .kpart | .kattn | .kfin => true
  | _ => false

/-- Packets and kiln values that a tile of a launch has sent and that are not yet counted or discarded. -/
def State.sentBy (s : State) (l : Dword) (a : Nat) : Bool :=
  (s.packets.any fun p => p.launch == l && (match p.src with | some (b, _) => b == a | none => false))
    || (s.kilnAir.any fun k => k.launch == l && (match k.src with | some (b, _) => b == a | none => false))

/-- Does a zone hold packets back in a reorder buffer (Table 19.1)? -/
def Zone.holds (z : Zone) : Bool := z.chunks.any fun c => !c.held.isEmpty

/-- A kiln collective of the launch to which the tile has contributed is not yet performed (R332, Table 19.1). -/
def State.kilnBusy (s : State) (a : Nat) (xs : List KSlot) (l : Dword) : Bool :=
  xs.any fun x => x.contributed && x.abort.isNone && s.kilnHolds a l x

/-- Has every operation of Table 19.1 of the tile been performed? -/
def State.drainedNow (s : State) (t : Tile) : Bool :=
  match t.launch with
  | none => false
  | some l =>
    (t.queue.all fun o => o.old.isSome || !o.drains || o.isPerformed)
      && (t.rings.toList.all fun r => r.filler.isNone) && !s.sentBy l t.addr && !s.kilnBusy t.addr t.kslots l
      && (t.zones.toList.all fun z => !(z.isOpen && z.holds)) && (t.mxq.all fun o => !o.locked || o.done.isSome)

/-- The tile can become drained now: its launch runs, it has halted (R444) and its engines are done. -/
def State.canDrain (s : State) (t : Tile) : Bool :=
  !t.drained && !t.frozen && t.haltedAll && t.run != 3
    && (match t.launch with
        | some l => (match s.launch? l with | some x => x.startTick.isSome && x.phase != .ending && x.phase != .complete | none => false)
        | none => false)
    && s.drainedNow t

def State.dueDrain (s : State) : Option Nat := (s.tiles.find? s.canDrain).map (·.addr)

/-- TILE_DRAINED (R445). -/
def execTileDrained (s : State) : Host.Outcome State Fault Refusal :=
  let a := s.ev.tile
  if s.canDrain (s.tileAt a) then .next (s.onTile a fun t => { t with drained := true }) else .next s

/-- What a launch left in flight in a tile from which it has been switched out is done (R118). -/
def State.prevDone (s : State) (t : Tile) (l : Dword) : Bool :=
  (t.queue.all fun o => o.old != some l || o.isPerformed) && !s.sentBy l t.addr
    && (match t.prevOf l with
        | some v => (v.zones.toList.all fun z => !(z.isOpen && z.holds)) && !s.kilnBusy t.addr v.kslots l
          && (v.rings.toList.all fun r => r.filler.isNone) && v.mxq.all fun o => o.done.isSome
        | none => true)

/-! ## RELEASE (R450) -/

/-- The staged launch that takes over the quads of a launch (R114). -/
def State.stagedOn (s : State) (l : Dword) : Option Launch :=
  s.sch.launches.find? fun x => match x.stage with | some g => g.on == l | none => false

/-- A tile leaves its launch; local SRAM, banks and accumulators are kept, and what an earlier launch has left in flight there. -/
def Tile.released (t : Tile) : Tile :=
  { t with
    launch := none, role := none, tasked := false, asid := 0, frozen := true, queue := t.queue.filter fun o => o.old.isSome, mxq := [], supOp := none, pend := []
    zones := Vector.replicate 16 {}, kslots := [], window := none, stmr := 0, dgbuf := [], drained := false, preHalted := false
    tid := Vector.replicate 4 0, dom := Vector.replicate 5 0
    tasks := { t.tasks with work := none }
    rings := t.rings.map fun r => { r with filler := none } }

/-- A launch that has something in flight in a quad from which it was switched out (R118). -/
def State.leftIn (s : State) (q : Nat) (id : Dword) : Option Dword :=
  s.tiles.findSome? fun t => if quadOf t.addr = q then (t.prevs.find? fun v => v.launch ≠ id).map (·.launch) else none

/-- The leaf frees a cluster's quads of a launch, or hands them to the launch staged on it; a quad in which an earlier launch has something in flight stays that one's. -/
def State.leafRelease (s : State) (id : Dword) (c : Nat) : State :=
  let next := (s.stagedOn id).map (·.id)
  let s : State := { s with
    quads := s.quads.map fun q =>
      if clusterOf q.addr = c ∧ q.owner = some id then { q with owner := (match next with | some n => some n | none => s.leftIn q.addr id), ganged := false } else q
    tiles := s.tiles.map fun t =>
      if clusterOf t.addr ≠ c then t
      else if t.launch = some id then t.released
      else { t with prevs := t.prevs.filter (fun v => v.launch ≠ id), queue := t.queue.filter fun o => o.old ≠ some id }
    cloads := s.cloads.filter fun e => !(e.1 == id && e.2.1 == c) }
  s.dropAsks

/-! ## What a leaf sends on its own -/

/-- The tiles of a cluster on which the launch runs or from which it was switched out. -/
def State.tilesOf (s : State) (l : Dword) (c : Nat) : List Tile :=
  s.tiles.filter fun t => clusterOf t.addr == c
    && (t.launch == some l || (t.prevOf l).isSome)

/-- Has a tile of the launch halted and drained? -/
def State.tileOver (s : State) (l : Dword) (t : Tile) : Bool := if t.launch = some l then t.drained else s.prevDone t l

/-- Has a tile's strand of the launch triggered or halted (R64)? -/
def Tile.trigOver (t : Tile) (l : Dword) : Bool :=
  t.launch != some l || t.haltedAll || (t.bank 0).triggered

/-- Has the placement or restoration entry ended on every tile of the cluster (R431)? -/
def State.entriesOver (s : State) (l : Launch) (c : Nat) : Bool :=
  (seatsIn l.seats c).all fun x => (s.tileAt x.addr).launch == some l.id && (s.tileAt x.addr).supReady

/-- Has the leaf of a cluster reserved the launch's quads there? -/
def State.reserved (s : State) (l : Launch) (c : Nat) : Bool :=
  (l.quads.filter fun q => clusterOf q = c).all fun q => (s.quadAt q).owner == some l.id

/-- The leaf of a cluster sends what has become true of a launch: PLACED, or NOFIT where a quad has become unfit before (R92); TRIGGERED, HALTED. -/
def State.leafReport (s : State) (l : Launch) (c : Nat) : State :=
  match l.phase with
  | .placing =>
    if l.load.isSome ∨ l.sPlaced.contains c ∨ l.nofit.contains c ∨ !s.reserved l c then s
    else if (l.quads.filter fun q => clusterOf q = c).any s.unfit then
      ((s.leafRelease l.id c).putLaunch { l with sPlaced := c :: l.sPlaced }).sendMsg c l.id .nofit
    else if s.entriesOver l c then (s.putLaunch { l with sPlaced := c :: l.sPlaced }).sendMsg c l.id (.placed none)
    else s
  | .started | .preempting =>
    let ts := s.tilesOf l.id c
    if ts.isEmpty ∨ l.startTick.isNone then s
    else
      let trig : Bool := !l.sTrig.contains c && ts.all fun t => t.trigOver l.id
      let l1 : Launch := if trig then { l with sTrig := c :: l.sTrig } else l
      let s := if trig then (s.putLaunch l1).sendMsg c l.id .triggered else s
      let gone : Bool := !l1.sHalt.contains c && ts.all (s.tileOver l.id)
      if gone then (s.putLaunch { l1 with sHalt := c :: l1.sHalt }).sendMsg c l.id (.halted false) else s
  | .staged | .saved | .retired | .ending | .complete => s

/-- The leaves take up the tiles that have ended their launch in the tick that closes: the one of lowest L4 rank fixes the status, if nothing has before; the others are recorded (R432, R438). -/
def State.leafFaults (s : State) (l : Launch) : State :=
  let ts := (s.launchTiles l.id).filter fun t => t.ended.isSome && !t.endSeen
  match ts with
  | [] => s
  | t :: r =>
    let first := r.foldl (fun (m : Tile) u => if u.rank4 < m.rank4 then u else m) t
    let c := (first.ended.getD (.none, false)).1
    let fixed := l.result.isSome
    let s := s.putLaunch (l.endWith 5 c.code (first.role.getD 0xFF) 0xFFFF)
    let s := ts.foldl (fun s t =>
      let s := match t.ended with
        | some (c, true) => s.tileRecord 9 t.addr c 0 0 l.id
        | some (_, false) | none => s
      let s := if t.addr = first.addr ∧ !fixed then s else s.dieRecord t.addr
      s.onTile t.addr fun t => { t with endSeen := true }) s
    s.sendMsg (clusterOf first.addr) l.id (.fault c.code (first.role.getD 0xFF))

/-- A drained tile for which something of Table 19.1 is outstanding again, as a packet held in a reorder buffer, is drained no more (R445). -/
def State.undrain (s : State) : State :=
  { s with tiles := s.tiles.map fun t => if t.drained && !s.drainedNow t then { t with drained := false } else t }

/-- What the leaves do as a tick closes. -/
def State.leafTick (s : State) : State :=
  let s := s.undrain
  let s := s.sch.launches.foldl (fun s x => match s.launch? x.id with | some l => s.leafFaults l | none => s) s
  s.sch.launches.foldl (fun s x =>
    (s.leavesOf x).foldl (fun s c => match s.launch? x.id with | some l => s.leafReport l c | none => s) s) s

/-- RELEASE at a leaf: the quads are free, gang state is cleared, zones and kiln slots are closed (R450). Once every leaf has consumed it, nothing of the launch is left. -/
def execRelease (s : State) : Host.Outcome State Fault Refusal :=
  match s.takeMsg .release with
  | none => .next s
  | some (m, s) =>
    let s := s.leafRelease m.launch m.cluster
    match s.launch? m.launch with
    | none => .next s
    | some l =>
      if l.phase ≠ .complete then .next s
      else
        let l : Launch := { l with released := m.cluster :: l.released }
        if (s.leavesOf l).all l.released.contains then
          .next { s with sch := { s.sch with launches := s.sch.launches.filter fun x => x.id ≠ l.id }
                         kiln := s.kiln.filter fun k => k.launch ≠ l.id, kilnAir := s.kilnAir.filter fun k => k.launch ≠ l.id }
        else .next (s.putLaunch l)

end Sys2Proof.Machine
end

