-- ==== Sys2Proof/Machine/Scheduler.lean ====
section
/-! DEFINITION. The active global scheduler: dependences, turns, the choice of what to place, the answers of the leaves, completion, takeover (R61 to R72, R77, R448). -/

namespace Sys2Proof.Machine

/-! ## Dependences (R63 to R65) -/

inductive Dep where
  | met | wait
  /-- the producer ended with this status, or can never launch -/
  | failed (status : Nat)
deriving DecidableEq, Repr

/-- Has every strand of a launch triggered or halted, as the scheduler knows it (R64)? -/
def State.allTriggered (s : State) (l : Launch) : Bool := !l.trig.isEmpty && (s.leavesOf l).all l.trig.contains

/-- A launch with a new place. What its leaves have said of its triggers counts on only if it was said of every strand (R64). -/
def Launch.moveTo (l : Launch) (at_ : List (Nat × Nat × Nat)) : Launch :=
  let m : Launch := { l with place := at_ }
  if !l.trig.isEmpty && l.clusters.all l.trig.contains then { m with trig := m.clusters, sTrig := m.clusters } else { m with trig := [], sTrig := [] }

/-- How the dependence of a record stands. A producer that has met its end with a status other than 1 meets no early dependence any more: its journal entry decides (R119). A producer whose queue was destroyed before it launched has no status: the detail byte is a free value. -/
def State.depState (s : State) (r : LRec) : Dep :=
  if !r.dep then .met
  else
    match s.sch.journal.find? fun e => e.1 = r.producer with
    | some e => if e.2 = 1 then .met else .failed e.2
    | none =>
      match s.launch? r.producer with
      | some p => if r.early ∧ s.allTriggered p ∧ (p.result.all fun x => x.1 == 1) then .met else .wait
      | none =>
        match s.queue? (r.producer.toNat / 2 ^ 48) with
        | some _ => .wait
        | none => .failed (Config.freeByte s.free).toNat

/-! ## Staging conditions (R114) -/

/-- Does a launch hold its placement: every leaf has answered PLACED, and RELEASE has not been sent (R114)? One that ended while it was saved holds none. -/
def State.holdsPlace (s : State) (l : Launch) : Bool :=
  l.phase == .started || l.phase == .retired
    || (l.phase == .ending && l.startTick.isSome
        && l.quads.all fun q => s.sick.getLsbD (dieOf q) || (s.quadAt q).owner == some l.id)

/-- The launch onto whose placement a head record is staged, if the conditions of R114 hold and its shadow halves are empty. A cluster of it may drain for a reload (DESIGN CHOICE, log 89). -/
def State.stageOn (s : State) (q : LQueue) (h : QHead) : Option Launch :=
  if !h.rcd.dep ∨ q.destroying ∨ (s.launch? (q.launchId q.head)).isSome then none
  else
    match s.launch? h.rcd.producer with
    | none => none
    | some p =>
      if s.holdsPlace p ∧ p.stage.isNone ∧ (s.stagedOn p.id).isNone
          ∧ p.img.cols = h.img.cols ∧ p.img.rows = h.img.rows ∧ p.img.dies = h.img.dies
          ∧ (p.place.all fun x => h.rcd.mask = 0 ∨ h.rcd.mask.testBit x.1) ∧ p.rcd.asid = h.rcd.asid
          ∧ p.rcd.tasked = h.rcd.tasked then some p
      else none

/-! ## Turns (R61) -/

/-- Priority of a queue's head record (R60). -/
def LQueue.headPrio (q : LQueue) (h : QHead) : Nat := min h.rcd.prio q.maxPrio

/-- Is the head record of the queue ready to place at the priority? -/
def State.readyAt (s : State) (p : Nat) (q : LQueue) : Bool :=
  match q.item with
  | none => false
  | some h =>
    q.headPrio h == p && !q.destroying && (s.launch? (q.launchId q.head)).isNone && (s.stageOn q h).isNone && s.depState h.rcd == .met

/-- The lowest queue number above `n` of some queues, or else the lowest. -/
def nextAfter (n : Nat) (ns : List Nat) : Option Nat :=
  let least (l : List Nat) : Option Nat := l.foldl (fun m x => match m with | some y => some (min x y) | none => some x) none
  match least (ns.filter (n < ·)) with
  | some x => some x
  | none => least ns

/-- Does a queue keep the turn of a priority although its head is not ready: its head is being placed, or is being read (DESIGN CHOICE, log 91)? -/
def State.headBusy (s : State) (p : Nat) (q : LQueue) : Bool :=
  match s.launch? (q.launchId q.head) with
  | some l => l.phase == .placing && !l.restoring && l.prio == p
  | none =>
    q.item.isNone && q.mapped && !q.faulted && !q.destroying && decide (q.head < q.notified)
      && (q.rd.isSome || decide (q.reread ≤ s.tick))

/-- The queue that holds the turn of a priority now, and the records it has taken in the turn (R61). -/
def State.turnOf (s : State) (p : Nat) : Option (Nat × Nat) :=
  let ns := (s.sch.queues.filter (s.readyAt p)).map (·.num)
  match s.sch.turns.find? fun e => e.1 = p with
  | some e =>
    let holds : Bool := match s.queue? e.2.1 with
      | some q => (s.readyAt p q || s.headBusy p q) && decide (e.2.2 < q.weight)
      | none => false
    if holds then some (e.2.1, e.2.2) else (nextAfter e.2.1 ns).map fun n => (n, 0)
  | none => (nextAfter (2 ^ 16) ns).map fun n => (n, 0)

/-- The turn is fixed as a record of the queue is served. -/
def State.fixTurn (s : State) (p n c : Nat) : State :=
  { s with sch := { s.sch with turns := (p, n, c) :: s.sch.turns.filter fun e => e.1 ≠ p } }

/-! ## What to do next (R61, R62) -/

inductive SchedAct where
  | cancel (q : Nat) (status : Nat)
  | place (q p count : Nat) (at_ : List (Nat × Nat × Nat))
  | restore (id : Dword) (at_ : List (Nat × Nat × Nat))
  | preempt (id : Dword)
  /-- a staged launch of which some dies have switched loses its producer (R119) -/
  | drop (id : Dword) (status : Nat)

/-- Inserts a launch in the order in which launches are pre-empted: ascending priority, then the most recently launched first (R62). -/
def insertVictim (l : Launch) : List Launch → List Launch
  | [] => [l]
  | x :: r => if l.prio < x.prio ∨ (l.prio = x.prio ∧ x.order < l.order) then l :: x :: r else x :: insertVictim l r

/-- May the launch be pre-empted (R434)? -/
def Launch.preemptible (l : Launch) : Bool :=
  l.phase == .started && l.result.isNone && (l.rcd.pclass == 1 || l.rcd.pclass == 2)

/-- May it be pre-empted now? Not once a launch staged on it has begun to switch (R119; DEDUCED, log 57). -/
def State.preemptible (s : State) (l : Launch) : Bool :=
  l.preemptible && s.sch.launches.all fun x => match x.stage with | some g => g.on != l.id || g.done.isEmpty | none => true

/-- Running kernels that may be pre-empted for a record of a priority, in order. -/
def State.victims (s : State) (p : Nat) : List Launch :=
  (s.sch.launches.filter fun l => s.preemptible l ∧ l.prio < p).foldl (fun ls l => insertVictim l ls) []

/-- The saved kernel of a priority that was requeued first. -/
def firstSaved (p : Nat) : List Launch → Option Launch
  | [] => none
  | l :: r =>
    if l.phase = .saved ∧ l.prio = p then
      match firstSaved p r with
      | some x => if x.since < l.since then some x else some l
      | none => some l
    else firstSaved p r

/-- What the scheduler does at a priority: a saved kernel comes before every record; a record is placed, or a kernel makes room for it where that helps. -/
def State.actAt (s : State) (p : Nat) : Option SchedAct :=
  match firstSaved p s.sch.launches with
  | some l => (s.choose [] [] l.img l.rcd.mask l.place l.samePlace).map fun pl => .restore l.id pl
  | none =>
    (s.turnOf p).bind fun (n, c) => (s.queue? n).bind fun q => q.item.bind fun h =>
      match s.choose [] [] h.img h.rcd.mask [] false with
      | some pl => some (SchedAct.place n p c pl)
      | none =>
        let going := (s.sch.launches.filter fun l => l.phase = .preempting).map (·.id)
        let vs := s.victims p
        if (s.choose going [] h.img h.rcd.mask [] false).isSome then none
        else if (s.choose (going ++ vs.map (·.id)) [] h.img h.rcd.mask [] false).isSome then (vs.head?).map fun v => .preempt v.id
        else none

/-- Has a ready record of the priority waited longer than 17,000,000 ticks (R62)? -/
def State.starved (s : State) (p : Nat) : Bool :=
  s.sch.queues.any fun q => s.readyAt p q &&
    (match q.item with
     | some h => (match h.since with | some t => decide (t + 17000000 < s.tick) | none => false)
     | none => false)

/-- Does a queue whose head is being read hold the turn of the priority, while another's head is ready (DESIGN CHOICE, log 91)? -/
def State.turnHeld (s : State) (p : Nat) : Bool :=
  s.sch.queues.any (s.readyAt p) &&
    (match s.turnOf p with
     | some (n, _) => (match s.queue? n with | some q => !s.readyAt p q | none => false)
     | none => false)

/-- The first action from the highest priority down. While a record has waited too long nothing of lower priority is placed, and no saved kernel of lower priority is restored (DESIGN CHOICE, log 91). -/
def State.actFrom (s : State) : List Nat → Option SchedAct
  | [] => none
  | p :: r =>
    match s.actAt p with
    | some a => some a
    | none => if s.starved p || s.turnHeld p then none else s.actFrom r

/-- A head record whose dependence has failed (R65). -/
def State.dueCancel (s : State) : Option SchedAct :=
  s.sch.queues.findSome? fun q =>
    match q.item with
    | none => none
    | some h =>
      let held : Bool := match s.launch? (q.launchId q.head) with
        | some l => !(l.phase == .staged && (match l.stage with | some g => g.done.isEmpty | none => true))
        | none => false
      if held then none
      else match s.depState h.rcd with | .failed st => some (SchedAct.cancel q.num st) | .met | .wait => none

/-- A staged launch that some of its dies run already, and whose producer has failed (R65, R119). -/
def State.dueDrop (s : State) : Option SchedAct :=
  s.sch.launches.findSome? fun l =>
    match l.phase, l.stage with
    | .staged, some g =>
      if g.done.isEmpty then none
      else match s.depState l.rcd with | .failed st => some (SchedAct.drop l.id st) | .met | .wait => none
    | _, _ => none

/-- The scheduler's next action. While leaves have still to answer it makes no new choice. -/
def State.schedAct (s : State) : Option SchedAct :=
  if !s.active ∨ s.tick < s.sch.next then none
  else
    match s.dueCancel.orElse fun _ => s.dueDrop with
    | some a => some a
    | none => if s.sch.launches.any fun l => l.phase == .placing then none else s.actFrom [7, 6, 5, 4, 3, 2, 1, 0]

/-- A staged launch that has not been switched in is dropped, and its code leaves the shadow halves (R119). -/
def State.dropStaged (s : State) (id : Dword) : State :=
  match s.launch? id with
  | none => s
  | some l =>
    { s with
      sch := { s.sch with launches := s.sch.launches.filter fun x => x.id ≠ id }
      quads := s.quads.map fun x =>
        if l.quads.contains x.addr then { x with shadow := [], owner := if x.owner = some id then none else x.owner } else x }

/-- The head record of a queue is cancelled (R65); it counts in the turn (DESIGN CHOICE, log 91). -/
def State.cancelHead (s : State) (n status : Nat) : State :=
  match s.queue? n with
  | none => s
  | some q =>
    match q.item with
    | none => s
    | some h =>
      let s := (s.dropStaged (q.launchId q.head)).countTurn (q.headPrio h) n
      { s.refuseHead q h.rcd 4 status 0xFF 0xFFFF with free := s.free + 1 }

/-- The launch of a head record, with its entry in the journal (R69). -/
def State.newLaunch (s : State) (q : LQueue) (h : QHead) (at_ : List (Nat × Nat × Nat)) : Launch :=
  { id := q.launchId q.head, queue := q.num, index := q.head, rcd := h.rcd, img := h.img, load := h.load, prio := q.headPrio h,
    place := at_, order := s.sch.orders, since := s.tick, group := s.groupOf q.num h.rcd.asid }

/-- PREEMPT goes to every leaf of the launch; a launch staged on it goes back to the head of its queue (R62, R119, R434). -/
def State.preemptLaunch (s : State) (id : Dword) (samePlace : Bool) : State :=
  match s.launch? id with
  | none => s
  | some l =>
    if !s.preemptible l then s
    else
      let s := match s.stagedOn id with | some d => s.dropStaged d.id | none => s
      (s.putLaunch { l with phase := .preempting, samePlace := samePlace, savedBy := [], sSaved := [] }).sendAll (s.leavesOf l) id .preempt

/-- Carries out an action. -/
def State.doAct (s : State) : SchedAct → State
  | .cancel n st => s.cancelHead n st
  | .place n p c at_ =>
    (match s.queue? n with
     | none => s
     | some q =>
       match q.item with
       | none => s
       | some h =>
         if s.groupBad q h.rcd h.img then (s.fixTurn p n c).refuseRecord q h.rcd 3 0x28 0xFF 0xFFFF
         else
         let l := s.newLaunch q h at_
         let s : State := { s.fixTurn p n c with sch := { (s.fixTurn p n c).sch with
           launches := s.sch.launches ++ [l], orders := s.sch.orders + 1 } }
         s.sendAll l.clusters l.id .place)
  | .restore id at_ =>
    (match s.launch? id with
     | none => s
     | some l =>
       let l : Launch := { l.moveTo at_ with phase := .placing, restoring := true, startTick := none, nofit := [], sPlaced := [], placed := [] }
       (s.putLaunch l).sendAll l.clusters id .place)
  | .preempt id => s.preemptLaunch id false
  | .drop id st => s.endLaunch id 4 st 0xFF 0xFFFF

/-- LAUNCH_PLACEMENT: one action of the scheduler on the records and kernels that wait (R61, R62, R65, R77). -/
def execLaunchPlacement (s : State) : Host.Outcome State Fault Refusal :=
  match s.schedAct with
  | none => .next s
  | some a => .next ((s.doAct a).schedBusy)

/-! ## Answers of the leaves -/

/-- The record of a launch has been read for the last time: its queue goes on to the next index (R53, R61). -/
def State.takeHead (s : State) (l : Launch) : State :=
  match s.queue? l.queue with
  | none => s
  | some q =>
    if q.head = l.index then (s.countTurn l.prio q.num).updQueue { q with head := q.head + 1, item := none, fails := 0 } else s

/-- New addresses of the tiles of a restored launch, by their old ones (R79). -/
def Launch.moved (l : Launch) : List (Nat × Nat) :=
  let xs := l.seats
  l.saved.filterMap fun t =>
    let k := t.tid[1].toNat % 2 ^ 32
    (xs.find? fun x => x.sdie * 2 ^ 24 + x.sqr * 2 ^ 16 + x.sqc * 2 ^ 8 + x.stq = k).map fun x => (t.addr, x.addr)

def movedTo (ms : List (Nat × Nat)) (a : Nat) : Nat := match ms.find? fun m => m.1 = a with | some m => m.2 | none => a

/-- The domain of a level after a restoration, by its first tile address (R79). -/
def movedDom (ms : List (Nat × Nat)) (level dom : Nat) : Nat :=
  match ms.find? fun m => domOf m.1 level = dom with | some m => domOf m.2 level | none => dom

/-- A partial value or contribution follows its domain (R341). -/
def KPart.moved (ms : List (Nat × Nat)) (k : KPart) : KPart :=
  { k with
    dom := movedDom ms k.par.level k.dom
    src := k.src.map fun p => (movedTo ms p.1, p.2) }

/-- The rank map is rewritten: packets and kiln values of the launch follow its tiles; saved partials go back into the kilns (R321, R341, R437). -/
def State.moveAll (s : State) (l : Launch) : State :=
  let ms := l.moved
  { s with
    packets := s.packets.map fun p =>
      if p.launch = l.id then
        { p with
          dst := movedTo ms p.dst, src := p.src.map fun x => (movedTo ms x.1, x.2)
          coll := p.coll.map fun c => (c.1, c.2.1, c.2.2.1, movedDom ms c.2.2.1 c.2.2.2) }
      else p
    kiln := s.kiln ++ l.kiln.map (KPart.moved ms)
    kilnAir := s.kilnAir.map fun k => if k.launch = l.id then k.moved ms else k }

/-- Every leaf has answered PLACED: START names one tick for all (R70). -/
def State.startLaunch (s : State) (l : Launch) : State :=
  let cs := s.leavesOf l
  let dues := cs.zipIdx.map fun x => (x.1, max (s.lastDue x.1 true) (s.tick + 1 + Config.delay (s.free + x.2)))
  let t := 1 + dues.foldl (fun m x => max m x.2) s.tick
  let msgs : List LinkMsg := dues.map fun x => { cluster := x.1, msg := .start t, launch := l.id, due := x.2 }
  let s := if l.restoring then s.moveAll l else s.takeHead l
  let l : Launch := { l with
    phase := .started, startTick := some t, lastRing := t, restoring := false, samePlace := false, saved := [], kiln := [], gangs := []
    sPlaced := [], placed := [], nofit := [], sHalt := [], halted := [], sSaved := [], savedBy := [] }
  let s := s.putLaunch l
  { s with sch := { s.sch with msgs := s.sch.msgs ++ msgs }, free := s.free + cs.length }

/-- A rejected image: the launch ends without running (R40, R60). -/
def State.loadRejected (s : State) (l : Launch) (e : LoadErr) : State :=
  (s.takeHead l).putLaunch { l.endWith 2 e.code e.role e.index with phase := .ending, due := s.tick }

/-- A leaf refused: the leaves that placed are released, and the scheduler chooses again; when no choice remains the record stays at the head of its queue (R77). The launch keeps the group of its first choice (DESIGN CHOICE, log 91). -/
def State.chooseAgain (s : State) (l : Launch) : State :=
  let s := s.sendAll ((s.leavesOf l).filter l.placed.contains) l.id .release
  match s.choose [l.id] l.nofit l.img l.rcd.mask (if l.restoring then l.place else []) l.samePlace with
  | some pl =>
    let l : Launch := { l.moveTo pl with placed := [], sPlaced := [] }
    (s.putLaunch l).sendAll l.clusters l.id .place
  | none =>
    if l.restoring then s.putLaunch { l with phase := .saved, restoring := false, nofit := [], placed := [], sPlaced := [] }
    else
      let s : State := { s with sch := { s.sch with launches := s.sch.launches.filter fun x => x.id ≠ l.id } }
      s.onQueue l.queue fun q => if q.destroying then { q with item := none } else q

/-- What follows the answers to PLACE. START waits until the scheduler has a permit for each of its leaves (R70). -/
def State.placeAnswered (s : State) (l : Launch) : State :=
  let s := s.putLaunch l
  if l.phase ≠ .placing ∨ !((s.leavesOf l).all fun c => l.placed.contains c || l.nofit.contains c) then s
  else if l.clusters.any l.nofit.contains then s.chooseAgain l
  else
    match l.load with
    | some e => s.loadRejected l e
    | none => if (s.leavesOf l).all fun c => s.hasPermit c true then s.startLaunch l else s

/-- PLACED at the scheduler (R70). -/
def execPlaced (s : State) : Host.Outcome State Fault Refusal :=
  match s.takeMsg .placed with
  | none => .next s
  | some (m, s) =>
    match s.launch? m.launch with
    | none => .next s
    | some l => .next (s.placeAnswered { l with placed := m.cluster :: l.placed })

/-- NOFIT at the scheduler (R77). -/
def execNofit (s : State) : Host.Outcome State Fault Refusal :=
  match s.takeMsg .nofit with
  | none => .next s
  | some (m, s) =>
    match s.launch? m.launch with
    | none => .next s
    | some l => .next (s.placeAnswered { l with nofit := m.cluster :: l.nofit })

/-- TRIGGERED at the scheduler (R64). -/
def execTriggered (s : State) : Host.Outcome State Fault Refusal :=
  match s.takeMsg .triggered with
  | none => .next s
  | some (m, s) =>
    match s.launch? m.launch with
    | none => .next s
    | some l => .next (s.putLaunch { l with trig := m.cluster :: l.trig })

/-- The kernel retires, or is saved, once every leaf has answered (R436, R448). -/
def State.haltAnswered (s : State) (l : Launch) : State :=
  let cs := s.leavesOf l
  let going : Bool := l.phase == .started || l.phase == .preempting
  if going ∧ cs.all l.halted.contains then s.putLaunch { l with phase := .retired, due := s.tick }
  else if l.phase = .preempting ∧ cs.all l.savedBy.contains then
    s.putLaunch { l with phase := .saved, since := s.tick, sHalt := [], halted := [] }
  else s.putLaunch l

/-- HALTED at the scheduler: halted and drained (R448), or saved (R436). -/
def execHalted (s : State) : Host.Outcome State Fault Refusal :=
  match s.takeMsg .halted with
  | none => .next s
  | some (m, s) =>
    match s.launch? m.launch, m.msg with
    | some l, .halted true => .next (s.haltAnswered { l with savedBy := m.cluster :: l.savedBy })
    | some l, _ => .next (s.haltAnswered { l with halted := m.cluster :: l.halted })
    | none, _ => .next s

/-- FAULT at the scheduler: the launch ends without a save; its first ending event fixed the status (R432, R438). -/
def execFault (s : State) : Host.Outcome State Fault Refusal :=
  match s.takeMsg .fault with
  | none => .next s
  | some (m, s) =>
    match m.msg with
    | .fault c r => .next (s.endLaunch m.launch 5 c r 0xFFFF)
    | _ => .next s

/-! ## Completion (R68, R438, R448) -/

/-- Is anything of a launch that has ended still in flight (R438)? An access that waits on a page is discarded. -/
def State.inFlight (s : State) (l : Dword) : Bool :=
  (s.tiles.any fun t => t.queue.any fun o =>
    (if o.old.isSome then o.old == some l else t.launch == some l) && o.drains && !o.isPerformed
      && (match o.st with | .pending _ | .stopped => false | _ => true))
    || s.packets.any fun p => p.launch == l

/-- The launch's status can be written now. -/
def State.completable (s : State) (l : Launch) : Bool :=
  decide (l.due ≤ s.tick) && (l.phase == .retired || (l.phase == .ending && !s.inFlight l.id))

def State.dueCompletion (s : State) : Option Dword :=
  if !s.active then none else (s.sch.launches.find? s.completable).map (·.id)

/-- Physical address of a launch's status slot (Table 3.7). -/
def State.slotOf (s : State) (l : Launch) : Option Nat :=
  (s.queue? l.queue).map fun q => q.base + 128 * q.size + 16 * (l.index % q.size)

/-- The write of the status slot waits while its pseudo-channel is being spared (R90). -/
def State.slotBusy (s : State) (l : Launch) : Option Nat := if l.slotDone then none else (s.slotOf l).bind fun a => s.ownBusy a 16

/-- The status slot (Table 3.7); on memory that cannot be reached the write is lost (R91). -/
def State.writeStatus (s : State) (l : Launch) (r : Nat × Nat × Nat × Nat) : State :=
  match s.slotOf l with
  | none => s
  | some a =>
    if s.ownLost a 16 then s
    else s.gWrite a
      (natLe l.index 8 ++ natLe r.1 1 ++ natLe r.2.1 1 ++ natLe r.2.2.1 1 ++ [0] ++ natLe r.2.2.2 2 ++ [0, 0])

/-- A completion semaphore could not be written (R53, R68). -/
def LQueue.semFailed (q : LQueue) (index : Nat) (c : Cause) : LQueue :=
  { q with semFault := BitVec.ofNat 64 (index % 2 ^ 48 * 2 ^ 16 + min (bits q.semFault.toNat 15 8 + 1) 255 * 2 ^ 8 + c.code) }

/-- The 8-byte store of the completion value (R60, R68). -/
def State.semStore (s : State) (pa : Nat) (v : Dword) : State :=
  match regionOf pa with
  | .notify => s.sched 1 none .notifyWrite { path := .aperture, off := pa - 0x3FF000000000, val := v, size := 8 }
  | .peer w => s.eutasSend ((s.peerOf w).getD 0) (.request (pa % 2 ^ 41) (.write (natLe v.toNat 8))) none
  | .hbm _ | .cxl _ | .request | .host | .reserved => s.gWrite pa (natLe v.toNat 8)

/-- The journal's completion entry, the counters, and RELEASE (R69, R448, R461). -/
def State.closeLaunch (s : State) (l : Launch) (status : Nat) : State :=
  let cs := s.leavesOf l
  let s : State := { s with
    sch := { s.sch with journal := (l.id, status) :: s.sch.journal }
    cnt := if status = 1 then { s.cnt with ret := s.cnt.ret + 1 } else { s.cnt with ended := s.cnt.ended + 1 } }
  if cs.isEmpty then { s with sch := { s.sch with launches := s.sch.launches.filter fun x => x.id ≠ l.id } }
  else (s.putLaunch { l with phase := .complete, stage := none, released := [] }).sendAll cs l.id .release

/-- COMPLETION_WRITE: logging and the gate go off, the status slot is written, then the semaphore, then the journal; RELEASE follows (R68, R448). A refused semaphore store is tried again after its hint. -/
def execCompletionWrite (s : State) : Host.Outcome State Fault Refusal :=
  match s.dueCompletion with
  | none => .next s
  | some id =>
    match s.launch? id with
    | none => .next s
    | some l =>
      match s.slotBusy l with
      | some u => .next (s.countRef.putLaunch { l with due := s.tick + hintOf u s.tick })
      | none =>
      let r := l.result.getD (1, 0, 0xFF, 0xFFFF)
      let s := if l.slotDone then s else ((s.logOff id).gateOff id).writeStatus l r
      let l : Launch := { l with slotDone := true, result := some r }
      if !l.rcd.done then .next (s.closeLaunch l r.1).schedBusy
      else
        match s.schedAccess l.rcd.asid l.rcd.sem 8 .wr with
        | .refuse h => .next (s.countRef.putLaunch { l with due := s.tick + h })
        | .ok s pa _ _ => .next ((s.semStore pa l.rcd.semVal).closeLaunch l r.1).schedBusy
        | .fault c =>
          let s := match s.queue? l.queue with | some q => s.updQueue (q.semFailed l.index c) | none => s
          .next (s.closeLaunch l r.1).schedBusy

/-! ## Takeover (R69) -/

/-- A head record without a launch entry is taken again from its queue. -/
def LQueue.takenAgain (q : LQueue) (now : Nat) : LQueue :=
  { q with item := none, fails := 0, rd := none, accepted := none, reread := max q.reread now }

/-- The standby becomes active and resumes from the journal: a record without a launch entry is taken again from its queue, and the notifies that were held are applied. The core that was active is no standby until it is loaded again (DEDUCED, log 69). -/
def State.takeover (s : State) : State :=
  let t : State := { s with
    boot := { s.boot with sched := if s.boot.sched = 0 then 2 else 0 }
    sch := { s.sch with
      takeovers := s.sch.takeovers + 1, standby := false, silent := none, heldNotes := []
      queues := s.sch.queues.map fun q => if (s.launch? (q.launchId q.head)).isSome then q else q.takenAgain s.tick } }
  s.sch.heldNotes.foldl (fun s x => s.notify x.1 x.2.1 x.2.2.1 x.2.2.2) t

/-- SCHEDULER_TAKEOVER: a ready standby takes over once the active core has missed its heartbeat for 170,000 ticks; with `yes` the active core misses it from now on. -/
def execSchedulerTakeover (s : State) : Host.Outcome State Fault Refusal :=
  match s.ev.yes, s.sch.silent with
  | true, none =>
    .next (if s.ready then
        { s with
          sch := { s.sch with silent := some s.tick }
          agenda := s.agenda ++ [(s.tick + 170000, .schedulerTakeover, {})] }
      else s)
  | true, some _ | false, none => .next s
  | false, some t => .next (if s.ready ∧ s.sch.standby ∧ t + 170000 ≤ s.tick then s.takeover else s)

/-- The turn of a priority passes on as soon as its holder has had its share, or has no ready head while another has (R61). -/
def State.passTurn (s : State) (p : Nat) : State :=
  match s.turnOf p with
  | some (n, c) => if (s.sch.turns.find? fun e => e.1 = p) = some (p, n, c) then s else s.fixTurn p n c
  | none => s

/-- As a tick closes: turns pass on (R61); launches whose START waits for permits start (R70); a head record that is ready to place begins to wait (R62). -/
def State.schedTick (s : State) : State :=
  if s.sch.silent.isSome then s
  else
  let s := (List.range 8).foldl State.passTurn s
  let s := s.sch.launches.foldl (fun s x =>
    match s.launch? x.id with
    | some l => if l.phase = .placing ∧ l.load.isNone ∧ (s.leavesOf l).all l.placed.contains then s.placeAnswered l else s
    | none => s) s
  { s with sch := { s.sch with queues := s.sch.queues.map fun q =>
      match q.item with
      | some h =>
        if h.since.isNone ∧ (List.range 8).any fun p => s.readyAt p q then { q with item := some { h with since := some s.tick } } else q
      | none => q } }

end Sys2Proof.Machine
end

