-- ==== Sys2Proof/Machine/Preempt.lean ====
section
/-! DEFINITION. Pre-emption: the request, the halt, the save, the restoration (R434 to R437). -/

namespace Sys2Proof.Machine

/-! ## The request and the halt (R434, R435) -/

/-- PREEMPT at a leaf: the requests reach the tiles of its cluster; one of class 1 waits for a period boundary (R434, R435). In an entry that is under way PR is set (R443). -/
def execPreempt (s : State) : Host.Outcome State Fault Refusal :=
  match s.takeMsg .preempt with
  | none => .next s
  | some (m, s) =>
    match s.launch? m.launch with
    | none => .next s
    | some l =>
      if l.phase ≠ .preempting then .next s
      else
        let ts := (s.launchTiles l.id).filter fun t => clusterOf t.addr = m.cluster
        .next (ts.foldl (fun s t => s.onTile t.addr fun t =>
          let t := if l.rcd.pclass = 1 then { t with prePeriod := true } else { t with preReq := true }
          if t.run = 3 then { t with sel := t.sel.set 0 (t.sel[0] ||| 1#64 <<< 16) } else t) s)

/-- Has the tile a bell that has been released and has not completed? -/
def Tile.inPeriod (t : Tile) : Bool :=
  t.window.isSome || t.queue.any fun o => o.bellLevel.isSome && (o.st == .waiting || o.st == .active)

/-- Is the tile at a bundle boundary at which it halts for its request (R435)? -/
def Tile.atBoundary (t : Tile) (now : Nat) : Bool :=
  t.preReq && !t.preHalted && !t.inPeriod && (t.haltedAll || t.refetch || decide (t.ready ≤ now))

/-- A gang halts on one tick. -/
def State.canPreHalt (s : State) (a : Nat) : Bool := (s.members a).all fun m => (s.tileAt m).atBoundary s.tick

def State.duePreHalt (s : State) : Option Nat :=
  (s.tiles.find? fun t => t.preReq && s.canPreHalt t.addr).map (·.addr)

/-- PREEMPT_HALT (R435): nothing more issues; every bank stands captured. -/
def execPreemptHalt (s : State) : Host.Outcome State Fault Refusal :=
  let a := s.ev.tile
  if s.canPreHalt a then
    .next ((s.members a).foldl (fun s m => s.onTile m fun t => { t with preHalted := true, frozen := true }) s)
  else .next s

/-! ## The save (R292, R321, R341, R362, R436) -/

def DlOp.isPending (o : DlOp) : Bool := match o.st with | .pending _ => true | _ => false

/-- May the operation be saved as it stands: it is performed, it waits on a page, it is a filler, or it has nothing under way and cannot go on before an earlier one that waits on a page (R292)? -/
def State.dmSavable (s : State) (t : Tile) (o : DlOp) : Bool :=
  o.sock != .dm || o.isPerformed || o.isPending || o.isFill
    || ((o.st == .queued || o.st == .active) && o.walk == 0 && !s.dmReady t.addr o
        && t.queue.any fun p => p.isPending && decide (p.id < o.id))

/-- Are the engines of the tile drained or frozen? A create, save or load of a task under way is completed first (R411). -/
def State.savable (s : State) (t : Tile) : Bool :=
  t.preHalted && t.supOp.isNone && !t.inPeriod && t.prevs.isEmpty && t.tasks.work.isNone && t.queue.all (s.dmSavable t)

/-- Is a packet or a kiln value of the launch in the fabric, or does an operation of it wait on a peer (R321, R341, R436)? What was refused is held by its engine. -/
def State.onLinks (s : State) (l : Dword) : Bool :=
  (s.eutas.asked.any fun e =>
    match e.what with
    | .op a _ => (s.tileAt a).launch == some l
    | .packet id => s.packets.any fun p => p.launch == l && p.id == id
    | .copy _ => false)
  || s.agenda.any fun e =>
    match e.2.1 with
    | .packetArrival | .messageAccept | .contextArrival => s.packets.any fun p => p.launch == l && p.id == e.2.2.packet
    | .kilnChildArrival => s.kilnAir.any fun k => k.launch == l && k.child == e.2.2.child
    | _ => false

/-- May the leaf of a cluster save the launch now? -/
def State.canSave (s : State) (l : Launch) (c : Nat) : Bool :=
  let ts := s.launchTiles l.id
  l.phase == .preempting && !l.sSaved.contains c && !ts.isEmpty
    && (ts.all fun t => t.preHalted) && !s.onLinks l.id && (ts.filter fun t => clusterOf t.addr == c).all s.savable
    && ts.any fun t => clusterOf t.addr == c

def State.dueSave (s : State) : Option (Dword × Nat) :=
  s.sch.launches.findSome? fun l =>
    if l.phase = .preempting then ((s.leavesOf l).find? (s.canSave l)).map fun c => (l.id, c) else none

/-- An operation as it is saved: one of `dm`, a semaphore or a barrier that has not been performed will be issued again, under translations made afresh (R292, R362). -/
def DlOp.saved (o : DlOp) : DlOp :=
  if o.isPerformed then o
  else if o.atUnit || (o.sock == .dm && o.st == .queued) then { o with st := .queued, walk := 0, tr := [], stage := [], home := none }
  else if o.sock == .dm then
    { o with st := if o.isFill && o.slot then .queued else .active, walk := 0, tr := [], stage := [], home := none }
  else o

/-- The saved state of a tile (Table 6.3). -/
def Tile.save (t : Tile) (now : Nat) : Tile :=
  { t with
    queue := t.queue.map DlOp.saved, utlb := [], asleep := false, stalled := 0, stallFrom := none, refetch := false
    heldRun := some { run := t.run, bank3 := t.bank 3, sel := t.sel, natAt := t.natAt, debugHeld := t.debugHeld, at_ := now } }

/-- The requests of a tile leave the units: watch-list entries are dropped (R362). -/
def State.withdraw (s : State) (a : Nat) : State :=
  let mine (r : UnitReq) : Bool := match r.src with | .tile b _ _ => b == a | .host _ | .peer _ _ => false
  { s with units := s.units.map fun u =>
      { u with inq := u.inq.filter fun r => !mine r, watch := u.watch.filter fun e => !mine e.2.2 } }

/-- PREEMPT_SAVE: the leaf of a cluster copies every Saved item of its tiles to the save area, frees the quads and answers HALTED (R436). -/
def execPreemptSave (s : State) : Host.Outcome State Fault Refusal :=
  match s.launch? s.ev.launch with
  | none => .next s
  | some l =>
    let c := s.ev.cluster
    if !s.canSave l c then .next s
    else
      let ts := (s.launchTiles l.id).filter fun t => clusterOf t.addr = c
      let gangs := (s.quads.filter fun q => q.ganged ∧ q.owner = some l.id ∧ clusterOf q.addr = c).map (·.addr)
      let s := ts.foldl (fun s t => s.withdraw t.addr) s
      let l : Launch := { l with
        saved := l.saved ++ ts.map fun t => t.save s.tick
        gangs := l.gangs ++ gangs, sSaved := c :: l.sSaved
        kiln := l.kiln ++ (s.kiln.filter fun k => k.launch = l.id).map fun k => { k with until_ := none } }
      let s : State := { s.putLaunch l with kiln := s.kiln.filter fun k => k.launch ≠ l.id }
      .next ((s.leafRelease l.id c).sendMsg c l.id (.halted true))

/-! ## Restoration (R437) -/

/-- Timer units count from restoration on (R398). -/
def Tasks.later (k : Tasks) (now : Nat) : Tasks := { k with unitTick := now }

/-- Ticks that a save holds are moved on by the time the launch was saved. -/
def MxOp.later (o : MxOp) (d : Nat) : MxOp := { o with start := o.start + d, done := o.done.map (· + d) }

/-- Recomputes the residues of an accumulator as `mx.mld` would (R437). -/
def Acc.recheck (a : Acc) : Acc := { a with res := a.e.map residue }

/-- bank3 as the entry at restoration finds it: its registers and its socket context as saved, its shadow results among them; those of a handler that was captured come back with that handler (R142, R431). -/
def Strand.atEntry (b : Strand) (mid : Bool) : Strand :=
  { b with pc := 0, levels := [], life := .live, passEnd := false, idle := 0, flight := if mid then [] else b.flight }

/-- A saved tile is written back at its new place; its engines stay halted until START (R437). The scrubber is the place's own (R217). -/
def State.restoreTile (s : State) (l : Launch) (xs : List Seat) (x : Seat) (t : Tile) : Tile :=
  let roles := quadRoles xs (quadOf x.addr)
  let at_ := match t.heldRun with | some h => h.at_ | none => s.tick
  let d := s.tick - at_
  { t.setBank 3 ((t.bank 3).atEntry (t.heldRun.any fun h => h.run == 3)) with
    addr := x.addr, launch := some l.id, asid := l.rcd.asid, lastAsid := some l.rcd.asid
    codeStart := match x.role with | some r => codeStartOf l.img roles r | none => 0
    tid := s.tidRegs l x, dom := l.domRegs xs x
    acc := t.acc.map Acc.recheck
    stmr := if t.stmr = 0 then 0 else t.stmr + d
    heldRun := t.heldRun.map fun h => { h with natAt := h.natAt.map (· + d) }
    tasks := t.tasks.later s.tick, mxq := t.mxq.map fun o => o.later d
    queue := t.queue.map fun o => if o.isPerformed then o else { o with due := o.due + d }
    run := 3, sel := #v[0, 0, 0, BitVec.ofNat 64 (l.rcd.limit * 2 ^ 32 + 1)], natAt := none, ready := s.tick + 1
    supReady := false, frozen := false, preHalted := true, preReq := false, prePeriod := false, drained := false
    utlb := [], scrub := (s.tileAt x.addr).scrub, scrubDue := (s.tileAt x.addr).scrubDue, errs := (s.tileAt x.addr).errs }

/-- RESTORE: the leaf of a cluster writes the saved state of its tiles back; their entries with detail 1 follow (R431, R437). -/
def execRestore (s : State) : Host.Outcome State Fault Refusal :=
  match s.launch? s.ev.launch with
  | none => .next s
  | some l =>
    let c := s.ev.cluster
    let xs := l.seats
    let here := seatsIn xs c
    if l.phase ≠ .placing ∨ !l.restoring ∨ !(here.all fun x => (s.quadAt x.addr).owner = some l.id ∧ (s.tileAt x.addr).launch = none) then .next s
    else
      .next (here.foldl (fun s x =>
        let k := x.sdie * 2 ^ 24 + x.sqr * 2 ^ 16 + x.sqc * 2 ^ 8 + x.stq
        match l.saved.find? fun t => t.tid[1].toNat % 2 ^ 32 = k with
        | none => s
        | some t =>
          let s := if l.gangs.contains (quadOf t.addr) then s.onQuad x.addr fun q => { q with ganged := true } else s
          s.setTile (s.restoreTile l xs x t)) s)

end Sys2Proof.Machine
end

