-- ==== Sys2Proof/Machine/Health.lean ====
section
/-! DEFINITION. The health of the module: error thresholds, condemned and lost quads, column shifts, fenced dies, link repair, sparing of pseudo-channels, CXL retraining; the debugger (R87 to R92, R439 to R442). -/

namespace Sys2Proof.Machine

/-! ## Condemned quads (R87, R88, R441) -/

/-- Thresholds of `ERRCFG`: corrected, uncorrectable, residue, exchange; 0 is read as 1 (Table 18.8). -/
def ErrRegs.limits (e : ErrRegs) : Nat × Nat × Nat × Nat :=
  let c := e.cfg.toNat
  (max 1 (bits c 15 0), max 1 (bits c 23 16), max 1 (bits c 31 24), max 1 (bits c 39 32))

def QuadErr.over (x : QuadErr) (e : ErrRegs) : Bool :=
  let l := e.limits
  decide (l.1 ≤ x.corr) || decide (l.2.1 ≤ x.unc) || decide (l.2.2.1 ≤ x.resid) || decide (l.2.2.2 ≤ x.exch)

/-- The leaf takes up a counter that has reached its threshold a free time later. -/
def State.healthTick (s : State) : State :=
  (s.qerr.filter fun x => !x.condemned && x.over s.err).foldl (fun s x =>
    { s with qerr := putErr { x with condemned := true } s.qerr }.sched 1 none .quadCondemn { die := x.die, quad := x.quad }) s

/-- Cluster number, physical row, quad column of a physical quad of a die. -/
def quadPlace (die q : Nat) : Nat × Nat × Nat := (4 * die + q / 120, q % 120 / 12, q % 12)

/-- Tile address of tile 0 of the quad at a logical row of a column. -/
def columnQuad (cluster row col : Nat) : Nat := cluster * 1024 + row * 64 + col * 4

/-- Logical row of a physical row, given the logical row that was shifted out of the column. -/
def logicalRow (sh : Option Nat) (row : Nat) : Option Nat :=
  match sh with
  | none => if row < 9 then some row else none
  | some r => if row < r then some row else if row = r then none else some (row - 1)

/-- Logical quads of a column at or below a row. -/
def columnFrom (cluster row col : Nat) : List Nat := (List.range (9 - row)).map fun k => columnQuad cluster (row + k) col

/-- Launches that run on one of the quads: a condemned column waits for them. One that is staged there and not switched in does not run. -/
def State.holders (s : State) (qs : List Nat) : List Launch :=
  s.sch.launches.filter fun l =>
    qs.any (fun q => (s.quadAt q).owner == some l.id)
      && (match l.phase, l.stage with
          | .staged, some g => qs.any fun q => (s.quadAt q).owner == some l.id && g.done.contains (dieOf q)
          | _, _ => true)

/-- Launches that may be pre-empted are pre-empted at once, to return to the same place; one that is being pre-empted already serves (Table 4.4). -/
def State.clearColumn (s : State) (qs : List Nat) : State :=
  (s.holders qs).foldl (fun s l =>
    match l.phase with
    | .preempting => s.putLaunch { l with samePlace := true }
    | _ => if l.rcd.pclass = 0 then s else s.preemptLaunch l.id true) s

/-- QUAD_CONDEMN: a class 7 record; placement stops on the quad, and its column waits for its launches; with the spare in use the quad is lost (R87). -/
def execQuadCondemn (s : State) : Host.Outcome State Fault Refusal :=
  let d := s.ev.die
  let p := quadPlace d s.ev.quad
  let s := { s with qerr := putErr { findErr d s.ev.quad s.qerr with condemned := true } s.qerr }
  match logicalRow (s.shiftOf p.1 p.2.2) p.2.1 with
  | none => .next s
  | some row =>
    let q := columnQuad p.1 row p.2.2
    let s := s.record 7 .none 0 (s.mtile q) 0 0xFFFFFFFFFFFFFFFF
    if s.condemned.contains q ∨ s.lostQuads.contains q then .next s
    else if (s.shiftOf p.1 p.2.2).isSome then .next { s with lostQuads := q :: s.lostQuads }
    else
      let s := { s with condemned := q :: s.condemned }
      .next ((s.clearColumn (columnFrom p.1 row p.2.2)).sched 1 none .columnShift { cluster := p.1, quad := q })

/-- A tile whose physical quad has changed: its state is gone, the words of the new SRAM with an error come with it; it counts as spared (R84). -/
def Tile.spared (new : Tile) (a : Nat) : Tile :=
  { addr := a, errs := new.errs, bad := new.bad, soft := new.soft, scrub := new.scrub, scrubDue := new.scrubDue, frozen := true }

/-- Rows from `row` to 8 of a column move down one physical row (R87). -/
def State.shiftColumn (s : State) (cluster row col : Nat) : State :=
  let qs := columnFrom cluster row col
  let olds := (qs.zip (qs.drop 1 ++ [0])).flatMap fun x =>
    (List.range 4).map fun k => (x.1 + k, if x.2 = 0 then ({ addr := 0 } : Tile) else s.tileAt (x.2 + k))
  let s := olds.foldl (fun s x => s.setTile (x.2.spared x.1)) s
  let s := qs.foldl (fun s q => s.onQuad q fun u => { u with active := [], store := [], ganged := false, badCode := [], badShadow := [], badStore := [] }) s
  { s with shifts := (cluster, col, row) :: s.shifts }

/-- COLUMN_SHIFT: once no launch holds the column at or below the condemned quad, the column is shifted; a second condemned quad of the column is then lost (R87). -/
def execColumnShift (s : State) : Host.Outcome State Fault Refusal :=
  let q := s.ev.quad
  let c := clusterOf q
  let row := bits q 9 6
  let col := bits q 5 2
  if !s.condemned.contains q ∨ (s.shiftOf c col).isSome then .next s
  else
    let qs := columnFrom c row col
    if !(s.holders qs).isEmpty then .next ((s.clearColumn qs).sched 1 none .columnShift s.ev)
    else
      let s := s.shiftColumn c row col
      let others := (s.condemned.filter fun x => x ≠ q ∧ clusterOf x = c ∧ bits x 5 2 = col).map fun x =>
        if row < bits x 9 6 then columnQuad c (bits x 9 6 - 1) col else x
      .next { s with
        condemned := s.condemned.filter fun x => !(clusterOf x == c && bits x 5 2 == col)
        lostQuads := others ++ s.lostQuads }

/-- ERROR_COUNTER_HALVING: every 2^40 ticks (R441). -/
def execErrorCounterHalving (s : State) : Host.Outcome State Fault Refusal :=
  if s.tick % 2 ^ 40 ≠ 0 ∨ s.halved = s.tick then .next s
  else .next { s with
    halved := s.tick
    qerr := s.qerr.map fun x => { x with corr := x.corr / 2, unc := x.unc / 2, resid := x.resid / 2, exch := x.exch / 2 } }

/-! ## Fenced dies (R91, R92, R390) -/

/-- Has a launch a running tile on a die? -/
def Launch.runsOn (l : Launch) (d : Nat) : Bool :=
  let there : Bool := l.seats.any fun x => x.role.isSome && dieOf x.addr == d
  match l.phase with
  | .started | .preempting | .retired => there
  | .staged => there && (match l.stage with | some g => !g.done.isEmpty | none => false)
  | .placing | .saved | .ending | .complete => false

/-- What a fence does to one launch: one with a running tile there ends with status 5 and cause 0x14; one that is being placed there counts as refused by those leaves; one staged there returns to its queue. -/
def State.fenceLaunch (s : State) (d : Nat) (l : Launch) : State :=
  if l.runsOn d then
    { s.endLaunch l.id 5 0x14 (Config.freeByte s.free).toNat 0xFFFF with free := s.free + 1 }
  else
    match l.phase with
    | .placing =>
      let cs := l.clusters.filter fun c => c / 4 = d
      if cs.isEmpty then s else s.placeAnswered { l with nofit := cs ++ l.nofit }
    | .staged => if l.clusters.any fun c => c / 4 = d then s.dropStaged l.id else s
    | .started | .preempting | .saved | .retired | .ending | .complete => s

/-- The requests of a unit whose die is lost: what is on the watch list comes back to the input and takes its fault there, and the unit logs and gates nothing any more (R390). -/
def AUnit.wake (u : AUnit) : AUnit :=
  { u with inq := u.inq ++ u.watch.map (·.2.2), watch := [], logs := u.logs.map fun g => { g with active := false } }

/-- The accesses at the units, at the gates, on the watch lists or at a peer whose home is the lost die end with DATA_UNCORRECTABLE (R390). -/
def State.fenceOps (s : State) (d : Nat) : State :=
  let ops := s.tiles.flatMap fun t => (t.queue.filter fun o => o.st == .waiting && o.home == some d).map fun o => (t.addr, o)
  ops.foldl (fun s x =>
    let unit := match regionOf x.2.pa with | .cxl _ => 4 | .hbm _ | .notify | .request | .host | .peer _ | .reserved => 3
    s.engineFault x.1 x.2 .dataUncorrectable (s.nextVa x.1 x.2) unit) s

/-- The die leaves the healthy set, its launches end, its links close, its HBM range becomes unreachable; a class 8 record (R91, R390, R440). -/
def State.fenceDie (s : State) (d : Nat) : State :=
  if 24 ≤ d ∨ s.sick.getLsbD d then s
  else
    let one : BitVec 24 := BitVec.ofNat 24 (2 ^ d)
    let s : State := { s with
      sick := s.sick ||| one
      sch := { s.sch with msgs := s.sch.msgs.filter fun m => m.cluster / 4 ≠ d } }
    let s := s.sch.launches.foldl (fun s x => match s.launch? x.id with | some l => s.fenceLaunch d l | none => s) s
    let s : State := { s with
      fenced := s.fenced ||| one
      quads := s.quads.map fun q => if dieOf q.addr = d then { q with owner := none, ganged := false } else q
      tiles := s.tiles.map fun t => if dieOf t.addr = d then t.released else t
      turn := s.turn.filter fun a => dieOf a ≠ d
      sch := { s.sch with launches := s.sch.launches.filter fun l => !(l.phase == .complete && (s.leavesOf l).all l.released.contains) }
      units := s.units.map fun u => if u.die = d then u.wake else u }
    let s := s.fenceOps d
    s.record 8 .none 3 d 0 0xFFFFFFFFFFFFFFFF

/-- A fence is requested on this tick. -/
def State.askFence (s : State) (d : Nat) : State := { s with agenda := s.agenda ++ [(s.tick, .dieFence, { die := d, yes := true })] }

/-- Is it a fence of a die that is due on this tick: the module's own, the host's, or one for a die that is too hot? -/
def State.fenceDue (s : State) (e : Nat × Instr × EvArg) : Bool :=
  decide (e.1 ≤ s.tick) && (e.2.1 == .junctionOvertemp || (e.2.1 == .dieFence && (e.2.2.yes || (s.ready && !s.portHeld e.2.2.port))))

/-- The fence of a die, with all others that are requested on this tick, in ascending die number (R92). -/
def State.fenceWith (s : State) (d : Nat) : State :=
  let due := d :: (s.agenda.filter s.fenceDue).map fun e => e.2.2.die
  let s : State := { s with agenda := s.agenda.filter fun e => !s.fenceDue e }
  ((List.range 24).filter due.contains).foldl State.fenceDie s

/-- JUNCTION_OVERTEMP: a die at 105 °C is fenced (R32). -/
def execJunctionOvertemp (s : State) : Host.Outcome State Fault Refusal := .next (s.fenceWith s.ev.die)

/-! ## Links (R89, R264, R274) -/

/-- A link between two dies retrains; its traffic is held for at most 34,000 ticks, and nothing is dropped; a class 5 record. -/
def State.laneRepair (s : State) (e : EvArg) : State :=
  if s.retrain.any fun r => r.1 = e.src ∧ r.2.1 = e.dst then s
  else
    let until_ := s.tick + 1 + Config.delay s.free % 34000
    let s : State := { s with
      free := s.free + 1
      retrain := (e.src, e.dst, until_) :: s.retrain
      retrained := (e.src, e.dst) :: s.retrained
      agenda := s.agenda ++ [(until_, .linkRetrainEnd, { src := e.src, dst := e.dst, yes := e.yes })] }
    (s.record 5 .none 7 (e.src * 32 + e.dst) 0 0xFFFFFFFFFFFFFFFF).kilnHinder (s.dieLinkOf (e.src, e.dst))

/-- LANE_REPAIR, with `yes` the redundant lanes are exhausted. With `words` 1 it is one replay on lane `channel` of the link: 64 on one lane in 2^24 ticks start the repair (R89, R439). -/
def execLaneRepair (s : State) : Host.Outcome State Fault Refusal :=
  let e := s.ev
  if e.words ≠ 1 then .next (s.laneRepair e)
  else
    let mine (r : Nat × Nat × Nat × Nat) : Bool := r.1 == e.src && r.2.1 == e.dst && r.2.2.1 == e.channel
    let late := (e.src, e.dst, e.channel, s.tick) :: s.laneReplays.filter fun r => decide (s.tick < r.2.2.2 + 2 ^ 24)
    let s := s.corrected 1 7 (e.src * 32 + e.dst)
    if (late.filter mine).length < 64 then .next { s with laneReplays := late }
    else .next (State.laneRepair { s with laneReplays := late.filter fun r => !mine r } e)

/-- LINK_RETRAIN_END: the held traffic goes on, at half width once the redundant lanes are exhausted (R89). -/
def execLinkRetrainEnd (s : State) : Host.Outcome State Fault Refusal :=
  let e := s.ev
  .next { s with
    retrain := s.retrain.filter fun r => !(r.1 == e.src && r.2.1 == e.dst)
    halfWidth := if e.yes then (e.src, e.dst) :: s.halfWidth else s.halfWidth }

/-- CXL_PORT_RETRAINING: the port's hold begins, for `words` ticks, or ends (R274). -/
def execCxlPortRetraining (s : State) : Host.Outcome State Fault Refusal :=
  let until_ := if s.ev.yes then s.tick + s.ev.words else s.tick
  .next { s with cxl := s.cxl.mapIdx fun k p => if k = s.ev.channel then { p with holdUntil := until_ } else p }

/-! ## Pseudo-channels (R90) -/

/-- Spares used of a stack. -/
def State.sparesUsed (s : State) (d : Nat) : Nat := match s.spared.find? fun e => e.1 = d with | some e => e.2 | none => 0

/-- One of the two spares of the stack takes the channel over after a copy; with none left the channel has failed. -/
def State.spareChannel (s : State) (d c : Nat) : State :=
  if s.failed.contains (d, c) ∨ s.sparing.any fun e => e.1 = d ∧ e.2.1 = c then s
  else if 2 ≤ s.sparesUsed d then { s with failed := (d, c) :: s.failed }
  else
    let until_ := s.tick + 1 + Config.delay s.free
    { s with
      free := s.free + 1
      spared := putKeyed d (s.sparesUsed d + 1) s.spared
      sparing := (d, c, until_) :: s.sparing
      agenda := s.agenda ++ [(until_, .spareCopyEnd, { die := d, channel := c })] }

/-- PSEUDO_CHANNEL_SPARE. With `words` 1 it is one access that the channel has corrected: 16 in 2^34 ticks start the sparing (R90, R439). -/
def execPseudoChannelSpare (s : State) : Host.Outcome State Fault Refusal :=
  let d := s.ev.die
  let c := s.ev.channel
  if s.ev.words ≠ 1 then .next (s.spareChannel d c)
  else
    let mine (r : Nat × Nat × Nat) : Bool := r.1 == d && r.2.1 == c
    let late := (d, c, s.tick) :: s.hbmCorr.filter fun r => decide (s.tick < r.2.2 + 2 ^ 34)
    let s := s.corrected 1 3 d
    if (late.filter mine).length < 16 then .next { s with hbmCorr := late }
    else .next (State.spareChannel { s with hbmCorr := late.filter fun r => !mine r } d c)

/-- SPARE_COPY_END: the channel's addresses are redirected to the spare, which holds what the channel held, its uncorrectable words among it. -/
def execSpareCopyEnd (s : State) : Host.Outcome State Fault Refusal :=
  .next { s with sparing := s.sparing.filter fun e => !(e.1 == s.ev.die && e.2.1 == s.ev.channel) }

/-! ## The debugger (R442) -/

/-- The tile that lies at a physical tile of a die. -/
def State.tileAtPhys (s : State) (d p : Nat) : Option Tile := s.tiles.find? fun t => dieOf t.addr = d ∧ s.physTile t.addr = p

/-- DEBUG with detail 2 for the user bank that runs, or that bank3 serves. -/
def Tile.debugHalt (t : Tile) (now : Nat) : Tile :=
  let k : BitVec 2 := if t.run = 3 then (t.sel[0]).extractLsb' 10 2 else t.run
  if (t.bank 0).life = .halted then t
  else
    ({ t.addCause { bank := k, cause := .debug, kind := .async, detail := 2, seq := (t.bank k).seq, since := now } with
        asleep := false, stalled := 0, stallFrom := none } : Tile)

/-- Bits 1 and 2 of a tile's debug control, written with 1. A halt of a tile that waits, for START or saved by its leaf, is pending until it goes on (R414, R442). -/
def State.debugHaltAt (s : State) (d p : Nat) : State :=
  match s.tileAtPhys d p with
  | none => s
  | some t => if t.launch.isNone then s else s.onTile t.addr fun t => t.debugHalt s.tick

def State.debugReleaseAt (s : State) (d p : Nat) : State :=
  match s.tileAtPhys d p with
  | none => s
  | some t => s.onTile t.addr fun t => { t with debugHeld := false }

end Sys2Proof.Machine
end

