-- ==== Sys2Proof/Machine/Migration.lean ====
section
/-! DEFINITION. Migration, replication and collapse of pages by the translation service cores (R294, R386 to R388). -/

namespace Sys2Proof.Machine

/-! ## The leaves that name a frame (R386) -/

/-- Leaves of a table and of the tables below it: address of the entry, its value, first virtual page, 512 MiB. The levels are 2 top, 1 middle, 0 bottom. -/
def State.leavesIn (s : State) : Nat → Nat → Nat → List (Nat × Nat × Nat × Bool)
  | 0, table, page =>
    if !s.backed table 0x10000 then []
    else
      (List.range 8192).filterMap fun i =>
        let at_ := table + 8 * i
        let pte := s.dwordAt at_
        if bits pte 0 0 = 0 ∨ s.lostAt at_ then none else some (at_, pte, page + i, false)
  | l + 1, table, page =>
    if !s.backed table 0x10000 then []
    else
      (List.range 8192).flatMap fun i =>
        let at_ := table + 8 * i
        let pte := s.dwordAt at_
        let page := page + i * 8192 ^ (l + 1)
        if bits pte 0 0 = 0 ∨ s.lostAt at_ ∨ bits pte 55 52 ≠ 0 ∨ bits pte 15 10 ≠ 0 then []
        else if bits pte 7 7 = 1 then (if l = 0 then [(at_, pte, page, true)] else [])
        else if bits pte 58 56 > 1 then []
        else s.leavesIn l (bits pte 51 16 * 2 ^ 16) page

/-- The leaves of an ASID. -/
def State.leavesOfAsid (s : State) (n : Nat) : List (Nat × Nat × Nat × Bool) :=
  let at_ := s.tr.asidBase.toNat / 0x10000 * 0x10000 + 8 * n
  let e := s.dwordAt at_
  if bits e 0 0 = 0 ∨ bits e 15 2 ≠ 0 ∨ bits e 63 52 ≠ 0 ∨ s.lostAt at_ then [] else s.leavesIn 2 (bits e 51 16 * 2 ^ 16) 0

/-- Every leaf, of either size, that names a frame, in every ASID (R386; DEDUCED, log 16): ASID, page, address, value. -/
def State.naming (s : State) (frame : Nat) : List (Half × Nat × Nat × Nat) :=
  (List.range 65536).tail.flatMap fun n =>
    ((s.leavesOfAsid n).filter fun x => bits x.2.1 51 16 = frame).map fun x => (BitVec.ofNat 16 n, x.2.2.1, x.1, x.2.1)

/-! ## Frames -/

/-- The bytes of a frame are written with those of another; words that cannot be read, and all of those of a fenced die, are uncorrectable in the copy (DEDUCED, log 16). -/
def State.copyFrame (s : State) (old new n : Nat) : State :=
  let o := old * 2 ^ 16
  let d := new * 2 ^ 16
  let cells := s.mem.filter fun c => decide (o ≤ c.1) && decide (c.1 < o + n)
  let rest := s.mem.filter fun c => !(decide (d ≤ c.1) && decide (c.1 < d + n))
  let lost : Bool := match regionOf o with | .hbm k => s.fenced.getLsbD k | _ => false
  let bad := if lost then (List.range (n / 8)).map fun i => d / 8 + i
    else (s.badMem.filter fun w => decide (o / 8 ≤ w) && decide (w < (o + n) / 8)).map fun w => w - o / 8 + d / 8
  { s with
    mem := cells.foldl (fun m c => cellsWrite m (c.1 - o + d) c.2) rest
    badMem := bad ++ s.badMem.filter fun w => !(decide (d / 8 ≤ w) && decide (w < (d + n) / 8)) }

/-- The frame of the replica of a frame on a die (R269). -/
def replicaOn (frame die : Nat) : Nat := die * 2 ^ 20 + frame % 2 ^ 20

/-! ## Requests (R294) -/

/-- The die whose replica a collapse keeps. -/
def requesterDie : Requester → Nat
  | .host => 0
  | .slot a => dieOf a

/-- Does the destination frame of a migration lie wholly in a backed HBM or CXL range? -/
def State.destOk (s : State) (frame : Nat) (big : Bool) : Bool :=
  (match regionOf (frame * 2 ^ 16) with | .hbm _ | .cxl _ => true | _ => false)
    && s.backed (frame * 2 ^ 16) (pageBytes big) && (!big || frame % 8192 == 0)

/-- Outcome of the checks of a request: its first step, its status, or a table that cannot be read before a tick (R90). -/
inductive MigChecked where
  | go (m : MigReq)
  | ends (status : Nat)
  | busy (until_ : Nat)

/-- A request, checked (R294). -/
def State.migCheck (s : State) (m : MigSlot) (op : Nat) : MigChecked :=
  let p := m.page.toNat
  let page := bits p 38 0
  if bits p 47 39 ≠ 0 then .ends 5
  else
    match s.walk (BitVec.ofNat 16 (p / 2 ^ 48)) (page * 2 ^ 16) with
    | .missing _ | .final | .lost => .ends 5
    | .busy u => .busy u
    | .leaf _ pte big =>
      let frame := bits pte 51 16
      let dst := bits m.cmd.toNat 51 16
      let free : Bool := bits pte 9 9 == 0
      let rep : Bool := bits pte 8 8 == 1
      let recent : Bool := s.migDone.any fun e => e.1 = frame ∧ s.tick < e.2 + 85000
      let req : MigReq := { who := m.who, op := op, dst := dst, step := 1, big := big, oldFrame := frame, newFrame := frame }
      if 4 ≤ bits pte 58 56 then .ends 5
      else if op = 1 then
        if !s.destOk dst big ∨ (free && rep) then .ends 5
        else if recent then .ends 4
        else .go { req with newFrame := dst }
      else if op = 2 then if bits pte 58 56 ≠ 0 ∨ (free && rep) then .ends 5 else if !free then .ends 3 else .go req
      else if free && !rep then .ends 5
      else .go { req with newFrame := replicaOn frame (requesterDie m.who) }

/-- A request comes to the core of the page's home cluster; while a table on its way is being spared, it waits (R90). -/
def State.migBegin (s : State) (op : Nat) (i : Instr) : State :=
  let w := s.ev.who
  let m := findSlot w s.migSlots
  if m.status ≠ 1 ∨ m.cmd.toNat % 8 ≠ op ∨ s.migs.any fun x => x.who = w then s
  else
    match s.migCheck m op with
    | .ends status => s.migEnd w status
    | .busy u => { s with agenda := s.agenda ++ [(max u (s.tick + 1), i, { who := w })] }
    | .go r => (s.putMig r).sched 1 none .migrationStep { who := w }

/-- MIGRATE, REPLICATE, COLLAPSE: ops 1, 2 and 3 of the command word. -/
def execMigrate (s : State) : Host.Outcome State Fault Refusal := .next (s.migBegin 1 .migrate)
def execReplicate (s : State) : Host.Outcome State Fault Refusal := .next (s.migBegin 2 .replicate)
def execCollapse (s : State) : Host.Outcome State Fault Refusal := .next (s.migBegin 3 .collapse)

/-! ## Steps of Table 16.7 -/

/-- An atomic write of a PTE, counted as an operation of its unit. -/
def State.putPte (s : State) (at_ v : Nat) : State :=
  let s := s.gWrite at_ (natLe v 8)
  { s with cnt := { s.cnt with atom := s.cnt.atom + 1 } }

/-- Step 1: MIG is set in every leaf that names the frame. The leaf is looked at again: where it is not what the request was checked against, or a leaf has MIG set, another request has won (R386 to R388). -/
def State.migLock (s : State) (m : MigReq) : State :=
  match s.migCheck (findSlot m.who s.migSlots) m.op with
  | .ends status => s.migEnd m.who (if status = 4 then 4 else 3)
  | .busy u => { s with agenda := s.agenda ++ [(max u (s.tick + 1), .migrationStep, { who := m.who })] }
  | .go r =>
    let ls := s.naming m.oldFrame
    if r ≠ m ∨ ls.isEmpty ∨ ls.any fun x => bits x.2.2.2 9 9 = 1 then s.migEnd m.who 3
    else
      let ptes : List (Nat × Dword) := (ls.map fun x => (x.2.2.1, BitVec.ofNat 64 x.2.2.2)).eraseDups
      let s := ptes.foldl (fun s p => s.putPte p.1 (p.2.toNat ||| 2 ^ 9)) s
      s.migNext { m with ptes := ptes, maps := (ls.map fun x => (x.1, x.2.1)).eraseDups } 2

/-- Steps 2 and 5: a map fence at module scope over the page in each ASID that maps it (R381). -/
def State.migFence (s : State) (m : MigReq) (next : Nat) : State :=
  let n := if m.big then 8192 else 1
  if !m.dropped then
    let ws := m.maps.flatMap fun x => s.fenceWaits .module 0 x.1 x.2 n
    let s := m.maps.foldl (fun s x => s.dropTlb .module 0 (fenceCovers x.1 x.2 n)) s
    (s.putMig { m with dropped := true, waits := ws }).sched 1 none .migrationStep { who := m.who }
  else if m.waits.any (fun w => m.maps.any fun x => s.stillHeld x.1 x.2 n w) then s.sched 1 none .migrationStep { who := m.who }
  else s.migNext m next

/-- The leaf that step 4 writes: the new frame, its kind and its home, REP clear for a collapse, MIG still set. A page that comes to a CXL port from HBM gets a home that the spec does not name (DEDUCED, log 16). -/
def newLeaf (m : MigReq) (home : Nat) (v : Nat) : Nat :=
  let kind := kindOf (m.newFrame * 2 ^ 16)
  let h := if kind = 0 ∨ bits v 58 56 ≠ 0 then bits v 63 59 else home
  let rep := if m.op = 3 then 0 else bits v 8 8
  h * 2 ^ 59 + kind * 2 ^ 56 + m.newFrame * 2 ^ 16 + 2 ^ 9 + rep * 2 ^ 8 + v % 2 ^ 8

/-- Step 4: a compare that fails leaves its entry as it stands. -/
def State.migMove (s : State) (m : MigReq) : State :=
  let home := Config.delay s.free % 24
  let s := { s with free := s.free + 1 }
  let s := m.ptes.foldl (fun s p =>
    if s.dwordAt p.1 = p.2.toNat ||| 2 ^ 9 then s.putPte p.1 (newLeaf m home p.2.toNat) else s) s
  s.migNext m 5

/-- Step 6: MIG is cleared, and the request is done. -/
def State.migUnlock (s : State) (m : MigReq) : State :=
  let s := m.ptes.foldl (fun s p => s.putPte p.1 (s.dwordAt p.1 - bits (s.dwordAt p.1) 9 9 * 2 ^ 9)) s
  let s := if m.op = 1 then { s with migDone := putKeyed m.newFrame s.tick s.migDone } else s
  s.migEnd m.who 2

/-- The copies of a replication, to the replica on every healthy die (R388). Its page is locked and fenced as a migrated one is, so that no store falls between the copies and REP (DEDUCED, log 16). -/
def State.migReplicas (s : State) (m : MigReq) : State :=
  let s := ((s.healthy.map (replicaOn m.oldFrame)).filter (· ≠ m.oldFrame)).foldl
    (fun s f => s.copyFrame m.oldFrame f (pageBytes m.big)) s
  s.migNext m 8

/-- REP is set in every leaf that names the frame, once the copies are performed; a compare that fails leaves its entry as it stands. -/
def State.migRep (s : State) (m : MigReq) : State :=
  (m.ptes.foldl (fun s p =>
    if s.dwordAt p.1 = p.2.toNat ||| 2 ^ 9 then s.putPte p.1 (p.2.toNat ||| 2 ^ 9 ||| 2 ^ 8) else s) s).migNext m 5

/-- Step 3: the copy. A page of a peer is asked of it (R265); one that cannot be reached leaves nothing but uncorrectable words in the copy. -/
def State.migCopy (s : State) (m : MigReq) : State :=
  let pa := m.oldFrame * 2 ^ 16
  match regionOf pa with
  | .peer w =>
    if m.asked then s
    else
      (match s.peerOf w with
       | some p =>
         if s.peerUp p then
           (s.putMig { m with asked := true }).eutasSend p (.request (pa % 2 ^ 41) (.read (pageBytes m.big))) (some (.copy m.who))
         else s.copyLost m.who
       | none => s.copyLost m.who)
  | .hbm _ | .cxl _ | .notify | .request | .host | .reserved => (s.copyFrame m.oldFrame m.newFrame (pageBytes m.big)).migNext m 4

/-- MIGRATION_STEP: the next step of the request (Table 16.7); 7 and 8 are the copies and the entries of a replication. -/
def execMigrationStep (s : State) : Host.Outcome State Fault Refusal :=
  match s.migs.find? fun m => m.who = s.ev.who with
  | none => .next s
  | some m =>
    match m.step with
    | 1 => .next (s.migLock m)
    | 2 => .next (s.migFence m (if m.op = 3 then 4 else if m.op = 2 then 7 else 3))
    | 3 => .next (s.migCopy m)
    | 4 => .next (s.migMove m)
    | 5 => .next (s.migFence m 6)
    | 6 => .next (s.migUnlock m)
    | 7 => .next (s.migReplicas m)
    | _ => .next (s.migRep m)

end Sys2Proof.Machine
end

