-- ==== Sys2Proof/Machine/Boot.lean ====
section
/-! DEFINITION. Bring-up: the boot stages, verification and measurement of the Jaith image, ownership transfer, live reload (R12 to R28). -/

namespace Sys2Proof.Machine

/-! ## Measurement (R21) -/

/-- Extension of slot k by a digest: SHA-256 of slot and digest. -/
def Boot.extend (b : Boot) (k : Fin 16) (d : BitVec 256) : Boot :=
  { b with slots := b.slots.set k (sha256Val (natBe (b.slots[k]).toNat 32 ++ natBe d.toNat 32)) }

/-- The 32-byte security state of Table 1.11. -/
def Boot.security (b : Boot) : List Byte :=
  natLe b.floor 2 ++ natLe b.strap.toNat 1 ++ natLe b.xferAccepted.toNat 1 ++ List.replicate 28 0

/-! ## The image (R16, R17, Tables 1.4 and 1.5) -/

/-- Bytes of the staged copy. -/
def State.staged (s : State) (off n : Nat) : List Byte := cellsReadAll s.staging off n

def keyBytes (k : Nat × Nat) : List Byte := natBe k.1 32 ++ natBe k.2 32

/-- The header of the staged image. -/
def State.stagedJaith (s : State) : Jaith :=
  { digest := BitVec.ofNat 256 (beNat (s.staged 0x20 32)), iface := leNat (s.staged 0x0C 2), sec := leNat (s.staged 0x0E 2)
    raise := bits (leNat (s.staged 0x10 4)) 0 0 = 1, owner := sha256Val (s.staged 0x80 64) }

/-- The bytes `JAITHIMG` and `JAITHXFR`. -/
def magicImage : List Byte := [0x4A, 0x41, 0x49, 0x54, 0x48, 0x49, 0x4D, 0x47]
def magicTransfer : List Byte := [0x4A, 0x41, 0x49, 0x54, 0x48, 0x58, 0x46, 0x52]

def zeroBytes (bs : List Byte) : Bool := bs.all (· == 0)

/-- The checks of Table 1.5 in order: the reason of the first that fails, 0 when the image passes. -/
def State.verify (s : State) (reload : Bool) : Nat :=
  let len := leNat (s.staged 8 4)
  let j := s.stagedJaith
  if s.staged 0 8 ≠ magicImage ∨ leNat (s.staged 0x10 4) / 2 ≠ 0 ∨ !zeroBytes (s.staged 0x14 12) ∨ !zeroBytes (s.staged 0x140 3776)
      ∨ 16773120 < len ∨ s.boot.fwlen.toNat ≠ 4096 + len then 0x01
  else if sha256Val (s.staged 0x1000 len) ≠ j.digest then 0x02
  else if !ecdsaVerify (s.staged 0x100 64) (s.staged 0 0x40) (s.staged 0x40 64)
      ∨ sha256 (s.staged 0x100 64) ≠ sha256 (keyBytes Config.makerKey) then 0x03
  else if s.boot.owner.isNone ∧ !s.boot.strap then 0x04
  else if !ecdsaVerify (s.staged 0x80 64) (s.staged 0 0xC0) (s.staged 0xC0 64)
      ∨ (s.boot.owner.isSome ∧ s.boot.owner ≠ some j.owner) then 0x05
  else if j.sec < s.boot.floor then 0x06
  else if reload ∧ s.boot.image.any (fun i => decide (j.iface + 1 < i.iface) || decide (i.iface + 1 < j.iface)) then 0x07
  else 0

/-- An empty owner slot takes the key of an image that passes check 0x05 (R17, R20). -/
def State.claim (s : State) (reason : Nat) : State :=
  if s.boot.owner.isNone ∧ (reason = 0 ∨ 6 ≤ reason) then { s with boot := { s.boot with owner := some s.stagedJaith.owner } } else s

/-! ## Stages (R13, R14) -/

/-- The boot ends in stage 0xF0 with a reason, or in 0xF1. -/
def State.reject (s : State) (reason : Nat) : State :=
  { s with boot := { s.boot with stage := 0xF0, reason := reason, port := none, busy := false, reloading := false } }

/-- FATAL, in one of three cases: 1, the controllers disagree on the image; 2, too few dies after training; 3, too few dies or no scheduler core after the self-test. A record in the error region names the case (R14; its class and its place in the record are DESIGN CHOICE, log 72). -/
def State.fatal (s : State) (case_ : Nat) : State :=
  ({ s with boot := { s.boot with stage := 0xF1, busy := false, reloading := false }, free := s.free + 1 } : State).record
    (Config.freeByte s.free).toNat .none 0 0 case_ 0xFFFFFFFFFFFFFFFF

/-- The stage that follows a commit, with `left` stages after it: READY comes within 20 s of the commit (R14). -/
def State.bootNext (s : State) (left : Nat) (i : Instr) (e : EvArg) : State := s.sched 1 (some (s.boot.deadline - s.tick - 1 - left)) i e

/-- PERST_DEASSERT: the boot ROM runs; it is measured into slot 0. -/
def execPerstDeassert (s : State) : Host.Outcome State Fault Refusal :=
  if s.boot.out then .next s else .next { s with boot := ({ s.boot with out := true }).extend 0 Config.romDigest }

/-- I/O die of a host port (Table 1.1). -/
def portDie : HostPort → Nat
  | .p0 => Config.portDies.1 % 4
  | .p1 => (Config.portDies.1 + 1 + Config.portDies.2 % 3) % 4

/-- PORT_TRAINED: the first host port to train gives the boot leader; AWAIT. -/
def execPortTrained (s : State) : Host.Outcome State Fault Refusal :=
  if s.boot.out ∧ s.boot.stage = 0x01 then .next { s with boot := { s.boot with stage := 0x02, leader := portDie s.ev.port } }
  else .next s

/-- Counts a firmware command from the port that does not own the region (R25, Table 1.8). The count stays at its greatest value (DESIGN CHOICE, log 89). -/
def State.foreign (s : State) : State := { s with boot := { s.boot with foreign := min (s.boot.foreign + 1) (2 ^ 32 - 1) } }

/-- Ends a reload where it stands (R24, R25). -/
def State.endReload (s : State) : State :=
  { s with
    draining := []
    boot := { s.boot with reloading := false, busy := false, inProgress := 0xFF, port := none }
    agenda := s.agenda.filter fun e => e.2.1 ≠ .fwcmdReload ∧ e.2.1 ≠ .clusterReload }

/-- A write of `FWCMD` (R23 to R26, Table 1.8): the first writer owns the region; other values and ill-timed commands are ignored. -/
def State.fwcmd (s : State) (p : HostPort) (v : Nat) : State :=
  if s.boot.port.isSome ∧ s.boot.port ≠ some p then s.foreign
  else
    let s := { s with boot := { s.boot with port := some p } }
    if v = 1 ∧ s.boot.stage = 0x02 then
      { s with boot := { s.boot with stage := 0x03, busy := true, deadline := s.tick + 34000000000 } }.bootNext 5 .fwcmdActivate { yes := true }
    else if v = 2 ∧ s.ready ∧ !s.boot.busy then
      { s with boot := { s.boot with busy := true } }.sched 1 none .fwcmdReload { yes := true }
    else if v = 3 ∧ s.ready ∧ s.boot.busy then s.endReload
    else s

/-- Free outcome of a training or a self-test: the dies that pass. -/
def freeDies (n : Nat) : BitVec 24 :=
  BitVec.ofNat 24 ((List.range 24).foldl (fun m d => if Config.choice (n + d) then m + 2 ^ d else m) 0)

/-- VERIFY: the leader's checks. MGMT: the other controllers' checks, then the measurement before the image runs (R17, R19, Table 1.6). -/
def State.activate (s : State) : State :=
  let r := s.verify false
  if s.boot.stage = 0x03 then
    let s := s.claim r
    if r ≠ 0 then s.reject r
    else ({ s with boot := { s.boot with stage := 0x04, image := some s.stagedJaith } } : State).bootNext 4 .fwcmdActivate { yes := true }
  else if s.boot.stage = 0x04 then
    if r ≠ 0 then s.fatal 1
    else
      let j := s.stagedJaith
      let b := ((s.boot.extend 1 j.digest).extend 2 j.owner).extend 3 (sha256Val s.boot.security)
      let dies := freeDies s.free
      ({ s with boot := { b with stage := 0x05 }, free := s.free + 24 } : State).bootNext 3 .memoryTraining { dies := dies }
  else s

/-- The host's `FWCMD` with a value (R26). -/
def State.fwcmdEvent (s : State) (v : Nat) : State := if 2 ≤ s.boot.stage then s.fwcmd s.ev.port v else s

/-- Dies that are not fit for use leave the healthy set, and their memory is out of reach. -/
def State.keepDies (s : State) (good : BitVec 24) : State := { s with sick := s.sick ||| ~~~good, fenced := s.fenced ||| ~~~good }

/-- A CXL port after training, and a module link: peer, replays, training, up (R264, Table 13.5). -/
def trainedPort (k : Nat) : CxlPort := { up := decide (Config.cxlCapacity k ≠ 0), cap := min 4096 (Config.cxlCapacity k) }
def trainedLink (k : Nat) : Nat × Nat × Bool × Bool :=
  match Config.linkPeer k with | some m => (m % 4096, 0, false, true) | none => (0, 0, false, false)

/-- MEMORY_TRAINING: HBM, die links, module links and CXL ports are trained; fewer than 23 usable dies are fatal (R14). -/
def execMemoryTraining (s : State) : Host.Outcome State Fault Refusal :=
  if s.boot.stage ≠ 0x05 then .next s
  else
    let s := s.keepDies s.ev.dies
    if s.healthy.length < 23 then .next (s.fatal 2)
    else
      let s : State := { s with
        boot := { s.boot with stage := 0x06 }
        cxl := Vector.ofFn fun k => trainedPort k.val
        eutas := { s.eutas with links := (List.range 12).map trainedLink } }
      .next (s.bootNext 2 .controlLoad { off := if Config.choice s.free then 0 else 2 })

/-- Free outcome of the self-test: dies and clusters that pass, quads that fail, cores that pass (bit 0 on I/O die 0, bit 1 on I/O die 2). -/
def State.freeTest (s : State) : EvArg :=
  { dies := freeDies s.free
    clusters := (List.range 96).filter fun c => Config.choice (s.free + 24 + c)
    quads := (List.range 11520).filter fun q => Config.choice (s.free + 120 + q)
    off := Config.delay (s.free + 11640) % 4 }

/-- CONTROL_LOAD: the scheduler pair, the leaves and the translation cores run; one core is active, the other stands by (Table 1.1). -/
def execControlLoad (s : State) : Host.Outcome State Fault Refusal :=
  if s.boot.stage ≠ 0x06 then .next s
  else
    let s : State := { s with
      boot := { s.boot with stage := 0x07, sched := if s.ev.off = 0 then 0 else 2 }
      sch := { s.sch with standby := true } }
    .next (({ s with free := s.free + 11641 } : State).bootNext 1 .tileSelfTest s.freeTest)

/-- A quad that fails its self-test is retired onto the spare row of its column, or lost (R14, R87). The number is 480 × die + physical quad. -/
def State.retireQuad (s : State) (n : Nat) : State :=
  let p := quadPlace (n / 480) (n % 480)
  let sh := s.shiftOf p.1 p.2.2
  match logicalRow sh p.2.1 with
  | none => s
  | some row =>
    if sh.isSome then { s with lostQuads := columnQuad p.1 row p.2.2 :: s.lostQuads }
    else { s with shifts := (p.1, p.2.2, row) :: s.shifts }

/-- A cluster is held out of placement; more than half of a die's clusters held fence the die (R14, R25, R91). -/
def State.holdCluster (s : State) (c : Nat) : State :=
  let s : State := { s with boot := { s.boot with held := if s.boot.held.contains c then s.boot.held else c :: s.boot.held } }
  if 2 < (s.boot.held.filter fun x => x / 4 = c / 4).length then s.sched 1 none .dieFence { die := c / 4, yes := true } else s

/-- TILE_SELF_TEST: quads are retired, failing clusters held; fewer than 23 dies, or no scheduler core, are fatal (R14). -/
def execTileSelfTest (s : State) : Host.Outcome State Fault Refusal :=
  if s.boot.stage ≠ 0x07 then .next s
  else
    let e := s.ev
    let s := s.keepDies e.dies
    if s.healthy.length < 23 ∨ e.off % 4 = 0 then .next (s.fatal 3)
    else
      let s := e.quads.foldl State.retireQuad s
      let s := (e.clusters.filter (· < 96)).foldl State.holdCluster s
      let s : State := { s with
        boot := { s.boot with sched := if e.off % 4 = 1 then 0 else if e.off % 4 = 2 then 2 else s.boot.sched }
        sch := { s.sch with standby := e.off % 4 == 3 } }
      .next (s.bootNext 0 .bootReady {})

/-- The floor that an image raises (R18); it is never lowered. -/
def Boot.raiseFloor (b : Boot) : Boot :=
  match b.image with
  | some j => if j.raise then { b with floor := max b.floor j.sec } else b
  | none => b

/-- BOOT_READY: queues are served (R14, R18, R26). -/
def execBootReady (s : State) : Host.Outcome State Fault Refusal :=
  if s.boot.stage ≠ 0x07 then .next s
  else .next { s with boot := { s.boot.raiseFloor with stage := 0x09, busy := false, port := none } }

/-! ## Live reload (R23 to R25) -/

/-- The next cluster in ascending number takes no new shapes, and its launches that may be pre-empted are; after the last one come the management controllers. A cluster that is held loads the image too and stays held; one of a fenced die is passed over (DESIGN CHOICE, log 89). -/
def State.reloadFrom (s : State) (c : Nat) : State :=
  match ((List.range 96).filter fun k => decide (c ≤ k) && !s.sick.getLsbD (k / 4)).head? with
  | none => { s with draining := [], boot := { s.boot with inProgress := 0xFF } }.sched 1 none .fwcmdReload { yes := true, off := 4 }
  | some k =>
    let s : State := { s with draining := [k], boot := { s.boot with inProgress := k } }
    let s := (s.sch.launches.filter fun l => l.clusters.contains k ∧ l.rcd.pclass ≠ 0).foldl (fun s l => s.preemptLaunch l.id false) s
    s.sched 1 none .clusterReload { cluster := k }

/-- The units of a reload in order: verification; the other controllers' checks and slot 4; the standby core and a takeover; the former active core; the clusters; the controllers; the leader last. Where no standby is ready the only core takes the image without a takeover (DESIGN CHOICE, log 89). -/
def State.reloadStep (s : State) (k : Nat) : State :=
  let go (s : State) (k : Nat) : State := s.sched 1 none .fwcmdReload { yes := true, off := k }
  match k with
  | 0 =>
    let r := s.verify true
    let s := s.claim r
    if r ≠ 0 then s.reject r else go { s with boot := { s.boot with next := some s.stagedJaith } } 1
  | 1 =>
    if s.verify true ≠ 0 then s.fatal 1
    else go { s with boot := { s.boot.extend 4 s.stagedJaith.digest with reloading := true, reloaded := [] } } 2
  | 2 =>
    if s.sch.standby then
      go s.takeover 3
    else s.reloadFrom 0
  | 3 => { s with sch := { s.sch with standby := true } }.reloadFrom 0
  | 4 => go s 5
  | _ => { s with boot := ({ s.boot with image := s.boot.next, next := none } : Boot).raiseFloor }.endReload

/-- CLUSTER_RELOAD: once the cluster has drained, it loads the new image, its supervisor stores among it (R416), and is readmitted; or it fails, is held, and the reload stops (R23, R25). -/
def execClusterReload (s : State) : Host.Outcome State Fault Refusal :=
  let c := s.ev.cluster
  if !s.boot.reloading ∨ s.boot.inProgress ≠ c then .next s
  else if s.quads.any fun q => clusterOf q.addr = c ∧ q.owner.isSome then
    let s := (s.sch.launches.filter fun l => l.clusters.contains c ∧ l.rcd.pclass ≠ 0).foldl (fun s l => s.preemptLaunch l.id false) s
    .next (s.sched 1 none .clusterReload { cluster := c })
  else
    let ok := Config.choice s.free
    let s : State := { s with free := s.free + 1, draining := [] }
    if ok then
      let quads := s.quads.map fun q => if clusterOf q.addr = c then { q with store := s.boot.sup, badStore := [] } else q
      .next (({ s with quads := quads, boot := { s.boot with reloaded := c :: s.boot.reloaded } } : State).reloadFrom (c + 1))
    else .next (s.endReload.holdCluster c)

/-! ## Ownership transfer (R20, R28) -/

/-- The result code of a submission (Table 1.9). -/
def State.transferResult (s : State) : Nat :=
  let cmd := s.boot.xfer.toList.flatMap fun v => natLe v.toNat 8
  if !s.boot.strap then 2
  else if s.boot.stage ≠ 0x02 then 3
  else if cmd.take 8 ≠ magicTransfer ∨ !zeroBytes ((cmd.drop 0x20).take 32) then 4
  else if leNat ((cmd.drop 8).take 8) ≠ Config.serial.toNat then 5
  else if leNat ((cmd.drop 0x10).take 16) ≠ s.boot.nonce.toNat then 6
  else if !ecdsaVerify (keyBytes Config.makerKey) (cmd.take 0x40) (cmd.drop 0x40) then 7
  else 1

/-- A submission: accepted, it empties the owner slot; in every case a new nonce. -/
def State.submitTransfer (s : State) : State :=
  let r := s.transferResult
  { s with
    boot := { s.boot with
      xferResult := r, nonce := Config.freeNonce s.free
      owner := if r = 1 then none else s.boot.owner
      xferAccepted := s.boot.xferAccepted || r == 1 }
    free := s.free + 1 }

/-- A write of dword k of `XFERCMD`; that of the last one submits the command. -/
def State.xferWrite (s : State) (k : Nat) (v : Dword) : State :=
  let s : State := { s with boot := { s.boot with xfer := s.boot.xfer.mapIdx fun i x => if i = k then v else x } }
  if k = 15 then s.submitTransfer else s

/-- The write of the dword of `XFERCMD` at offset 0x78. -/
def State.transferEvent (s : State) : State := if 2 ≤ s.boot.stage then s.xferWrite 15 s.ev.val else s

/-! ## SPDM (R22) -/

/-- Does the responder hear a request on a path? -/
def State.spdmUp (s : State) : Bool :=
  s.boot.out && (match s.ev.via with | .doe _ => decide (2 ≤ s.boot.stage) | .mctp => true)

/-- A response: the bytes that the spec fixes, and the number of the free value for all the others (PRESUMED, log 9). -/
def State.spdmAnswer (s : State) (name : String) (bytes : List Byte) : State :=
  if s.spdmUp then { s with outbox := s.outbox ++ [.spdm name bytes s.free], free := s.free + 1 } else s

def execGetVersion (s : State) : Host.Outcome State Fault Refusal := .next (s.spdmAnswer "VERSION" [])
def execGetCapabilities (s : State) : Host.Outcome State Fault Refusal := .next (s.spdmAnswer "CAPABILITIES" [])
/-- NEGOTIATE_ALGORITHMS: ECDSA P-256 and SHA-256 are the only algorithms; their bits are those of SPDM 1.3 (PRESUMED, log 9). -/
def execNegotiateAlgorithms (s : State) : Host.Outcome State Fault Refusal := .next (s.spdmAnswer "ALGORITHMS" (natLe 0x10 4 ++ natLe 1 4))
def execGetDigests (s : State) : Host.Outcome State Fault Refusal := .next (s.spdmAnswer "DIGESTS" [])
def execGetCertificate (s : State) : Host.Outcome State Fault Refusal := .next (s.spdmAnswer "CERTIFICATE" [])
def execChallenge (s : State) : Host.Outcome State Fault Refusal := .next (s.spdmAnswer "CHALLENGE_AUTH" [])

/-- Slots 0 to 15 as indices 1 to 16, as raw bit streams. -/
def Boot.measurements (b : Boot) : List Byte := b.slots.toList.zipIdx.flatMap fun x => natLe (x.2 + 1) 1 ++ natBe x.1.toNat 32

/-- GET_MEASUREMENTS: the measurements, signed by the device key. -/
def execGetMeasurements (s : State) : Host.Outcome State Fault Refusal :=
  .next (s.spdmAnswer "MEASUREMENTS" (s.boot.measurements ++ natBe (Config.deviceSign s.boot.measurements s.free).toNat 64))

end Sys2Proof.Machine
end

