-- ==== Sys2Proof/Machine/Host.lean ====
section
/-! DEFINITION. What the host does to the module: the registers of BAR0, the window of BAR2, power capping, reset (R13, R15, R26 to R32, R487). -/

namespace Sys2Proof.Machine

/-! ## Power (R31, R32) -/

/-- Does every launch that runs ring its bells, so that capping can insert ticks (R32)? -/
def State.allRing (s : State) : Bool :=
  s.sch.launches.all fun l => !(l.phase == .started || l.phase == .preempting) || decide (s.tick ≤ l.lastRing + 1700000)

/-- A sample of the draw: what the module draws is not fixed by the spec, but never more than 8.0 kW; a cap is met from 10 ms after its write on, as long as every launch rings its bells (R32; DESIGN CHOICE, log 7). -/
def State.samplePower (s : State) : State :=
  let w := Config.delay s.free % 801
  let w := if s.capAt + 17000000 ≤ s.tick ∧ s.allRing then min w (s.pwrcap / 10) else w
  { s with draw := w, overCap := decide (s.pwrcap < 10 * w), free := s.free + 1 }

/-- A cap in watts as `PWRCAP` takes it: clamped, in steps of 50 W; between two steps either may be taken (DESIGN CHOICE, log 7). -/
def capOf (v n : Nat) : Nat :=
  let c := max 3000 (min v 8000)
  if c % 50 = 0 then c else c / 50 * 50 + if Config.choice n then 50 else 0

/-- Dies on which launches run. -/
def State.busyDies (s : State) : List Nat :=
  (List.range 24).filter fun d => s.sch.launches.any fun l => (l.phase == .started || l.phase == .preempting) && l.place.any fun p => p.1 == d

/-- Capping begins: the controllers hold new placements on dies whose launches ring no bell, and the cap is checked at its deadline (R32). On which dies ticks are inserted is a free choice (DESIGN CHOICE, log 7). -/
def State.capStart (s : State) (due : Nat) : State :=
  { s with
    capped := s.busyDies.filter fun d => Config.choice (s.free + d)
    capHeld := s.busyDies.filter s.silentOn
    capUntil := some due
    free := s.free + 24
    agenda := s.agenda ++ [(due, .capDeadline, {})] }

/-- A new cap: capping begins where it is exceeded; it is to be met 10 ms later (R32). -/
def State.capWrite (s : State) (v : Nat) : State :=
  let s : State := { s with pwrcap := capOf v s.free, capAt := s.tick, free := s.free + 1 }
  let s := s.samplePower
  if s.overCap then s.capStart (s.tick + 17000000) else { s with capped := [], capHeld := [], capUntil := none }

/-- A look at the draw; where it has come to exceed the cap, capping begins again. -/
def State.lookPower (s : State) : State :=
  let s := s.samplePower
  if s.overCap ∧ s.capUntil.isNone then s.capStart (max s.tick (s.capAt + 17000000)) else s

/-- An 8-byte write of `PWRCAP`. -/
def State.capEvent (s : State) : State := if 2 ≤ s.boot.stage then s.capWrite s.ev.val.toNat else s

/-- The launch that is pre-empted first for power: of least priority among those on the held dies; class 0 never is. -/
def State.capVictim (s : State) : Option Launch :=
  (s.sch.launches.filter fun l => s.preemptible l && l.phase == .started && l.place.any fun p => s.capHolds p.1).foldl
    (fun (m : Option Launch) l => match m with | none => some l | some x => if l.prio < x.prio then some l else some x) none

/-- CAP_DEADLINE: while the cap is not met, launches on the dies are pre-empted one after another (R32). -/
def execCapDeadline (s : State) : Host.Outcome State Fault Refusal :=
  match s.capUntil with
  | none => .next s
  | some t =>
    if s.tick < t then .next s
    else
      let s := s.samplePower
      if !s.overCap then .next { s with capped := [], capHeld := [], capUntil := none }
      else
        let s := match s.capVictim with | some l => s.preemptLaunch l.id false | none => s
        .next (s.sched 1 none .capDeadline {})

/-! ## Registers (Tables 1.3, 1.7 to 1.9, 1.12, 3.9, 4.5, 12.8, 13.5, 18.8, 19.7; R82, R94, R442) -/

/-- Half of a dword of fields: value and low bit of each. -/
def packed (fs : List (Nat × Nat)) : Nat := fs.foldl (fun n f => n + f.1 * 2 ^ f.2) 0

/-- A region of Table 1.7. -/
inductive Bar where
  | identity | trust | power | firmware | sched | placement | errors | trans | eutas | counters
  | leaf (cluster : Nat)
  | debug (die : Nat)
  | reserved
deriving DecidableEq, Repr

/-- The region of a BAR0 offset, and the offset in it. -/
def barOf (o : Nat) : Bar × Nat :=
  if o < 0x1000 then (.identity, o)
  else if o < 0x10000 then (.reserved, 0)
  else if o < 0x20000 then (.trust, o - 0x10000)
  else if o < 0x30000 then (.power, o - 0x20000)
  else if o < 0x40000 then (.firmware, o - 0x30000)
  else if o < 0x100000 then (.reserved, 0)
  else if o < 0x200000 then (.sched, o - 0x100000)
  else if o < 0x300000 then (.placement, o - 0x200000)
  else if o < 0x400000 then (.errors, o - 0x300000)
  else if o < 0x500000 then (.trans, o - 0x400000)
  else if o < 0x600000 then (.eutas, o - 0x500000)
  else if o < 0x700000 then (.counters, o - 0x600000)
  else if o < 0x1000000 then (.reserved, 0)
  else if o < 0x1C00000 then (.leaf ((o - 0x1000000) / 0x20000), (o - 0x1000000) % 0x20000)
  else if o < 0x2000000 then (.reserved, 0)
  else if o < 0x3800000 then (.debug ((o - 0x2000000) / 0x100000), (o - 0x2000000) % 0x100000)
  else (.reserved, 0)

/-- Does a table name the 4 bytes at an offset of a region? -/
def Bar.named (b : Bar) (o : Nat) : Bool :=
  let within (lo n : Nat) : Bool := decide (lo ≤ o) && decide (o < lo + n)
  match b with
  | .identity => within 0 8 || within 0x10 0x18
  | .trust => within 0 0x20 || within 0x100 0x80 || within 0x1000 0x200
  | .power => within 0 0x10
  | .firmware => within 0 0x18
  | .sched => within 0 0x20
  | .placement => within 0 0x18 || within 0x1000 0x1000
  | .errors => within 0 0x28
  | .trans => within 0 0x48 || within 0x100 0x40 || within 0x1000 0x3E00
  | .eutas => within 0 0x18 || within 0x100 0x60 || within 0x1000 0x4000
  | .counters => within 0 0x58
  | .leaf _ => within 0 8 || within 0x100 12 || within 0x200 864
  | .debug _ => within 0 3840 || within 0x10000 15360 || within 0x20000 0x4000 || within 0x30000 8
  | .reserved => false

/-- Regions that answer before READY (R15). -/
def Bar.early : Bar → Bool
  | .identity | .trust | .power | .firmware => true
  | .sched | .placement | .errors | .trans | .eutas | .counters | .leaf _ | .debug _ | .reserved => false

/-- Does a region answer now? The error region does so also after a fatal boot, whose case it names (R14, R15; DESIGN CHOICE, log 72). -/
def State.answers (s : State) (b : Bar) : Bool := b.early || s.ready || (s.boot.stage == 0xF1 && b == .errors)

/-- Access of a register. -/
inductive RegAccess where
  | ro | rw | wo
deriving DecidableEq, Repr

/-- Access of the register at an 8-byte offset of a region. -/
def Bar.access (b : Bar) (o : Nat) : RegAccess :=
  match b with
  | .identity => if o = 0x20 then .rw else .ro
  | .trust => if 0x100 ≤ o ∧ o < 0x180 then .wo else .ro
  | .power => if o = 0 then .rw else .ro
  | .firmware => if o = 0 then .wo else if o = 0x10 then .rw else .ro
  | .sched => if o = 0 then .rw else if o = 8 then .wo else .ro
  | .placement => if o = 0 then .wo else if 0x1000 ≤ o then .rw else .ro
  | .errors => if o = 0 ∨ o = 0x10 ∨ o = 0x18 then .rw else .ro
  | .trans =>
    if o = 0x20 ∨ o = 0x38 then .wo
    else if o = 0 ∨ o = 8 ∨ o = 0x18 ∨ o = 0x30 ∨ 0x1000 ≤ o then .rw
    else .ro
  | .eutas => if o = 0 ∨ o = 8 ∨ 0x1000 ≤ o then .rw else .ro
  | .debug _ => if 0x10000 ≤ o ∧ o < 0x20000 then .rw else .ro
  | .counters | .leaf _ | .reserved => .ro

def Bool.at_ (b : Bool) (lo : Nat) : Nat × Nat := (b.toNat, lo)

/-- Entry of the route masks. -/
def State.routeMask (s : State) (m : Nat) : Nat := match s.eutas.route.find? fun e => e.1 = m with | some e => e.2 | none => 0

/-- The spare-map byte of a column (R94). -/
def State.spareByte (s : State) (c col : Nat) : Nat := match s.shiftOf c col with | some r => 0x80 + r | none => 0x0F

/-- Kernels that have been launched and not completed (Table 3.9). -/
def State.inFlightKernels (s : State) : Nat := (s.sch.launches.filter Launch.wasLaunched).length

def State.leafReg (s : State) (c o : Nat) : Nat :=
  let gone (q : Nat) : Bool := s.condemned.contains q || s.lostQuads.contains q
  if o = 0 then
    packed [((s.boot.held.contains c).toNat, 0), ((s.draining.contains c).toNat, 1),
      ((s.condemned.filter fun q => clusterOf q = c).length % 256, 8)]
  else if o = 0x100 ∨ o = 0x108 then
    packed ((List.range 8).map fun i =>
      (if o - 0x100 + i < 12 then s.spareByte c (o - 0x100 + i) else 0, 8 * i))
  else
    let k := (o - 0x200) / 8
    let q := columnQuad c (k / 12) (k % 12)
    match (s.quadAt q).owner with | some l => if gone q then 2 ^ 64 - 1 else l.toNat | none => 2 ^ 64 - 1

def State.debugReg (s : State) (d o : Nat) : Nat :=
  if o < 0x10000 then
    let e := findErr d (o / 8) s.qerr
    packed [(e.corr % 65536, 48), (e.unc % 65536, 32), (e.resid % 65536, 16), (e.exch % 65536, 0)]
  else if o < 0x20000 then
    let p := (o - 0x10000) / 8
    packed [((s.debugOn.contains (d, p)).toNat, 0), ((match s.tileAtPhys d p with | some t => t.debugHeld | none => false).toNat, 2)]
  else if o < 0x30000 then
    let r := (o - 0x20000) / 64
    match (findDie d s.dieRecs).recs.find? fun x => x.1 = r with
    | some x => leNat ((x.2.drop (o % 64)).take 8)
    | none => 0
  else (findDie d s.dieRecs).idx

def State.identityReg (s : State) (o : Nat) : Nat :=
  if o = 0 then 0xC02401
  else if o = 0x10 then
    packed [(s.boot.reason, 40), (s.boot.leader, 32), (s.boot.sched, 24), (s.boot.held.length, 16), (s.boot.stage, 0)]
  else if o = 0x18 then s.boot.rsvcnt
  else s.boot.winctl.toNat

def State.trustReg (s : State) (o : Nat) : Nat :=
  if o < 0x10 then bits s.boot.nonce.toNat (8 * o + 63) (8 * o)
  else if o = 0x10 then Config.serial.toNat
  else if o = 0x18 then packed [(s.boot.xferResult, 8), (s.boot.strap.toNat, 1), (s.boot.xferAccepted.toNat, 0)]
  else if o < 0x1000 then 0
  else
    let k := (o - 0x1000) / 32
    leNat (((natBe (s.boot.slots.toList.getD k 0).toNat 32).drop (o % 32)).take 8)

def State.transReg (s : State) (o : Nat) : Nat :=
  if o = 0 then s.tr.asidBase.toNat
  else if o = 8 then s.tr.fqBase.toNat
  else if o = 0x10 then s.tr.fqHead
  else if o = 0x18 then s.tr.fqTail
  else if o = 0x28 then packed [(s.tr.walks % 2 ^ 32, 32), (s.tr.records % 2 ^ 32, 0)]
  else if o = 0x30 then (findSlot .host s.migSlots).pageWord.toNat - bits (findSlot .host s.migSlots).pageWord.toNat 47 39 * 2 ^ 39
  else if o = 0x40 then (findSlot .host s.migSlots).word.toNat
  else if 0x100 ≤ o ∧ o < 0x140 then
    match s.cxl[(o - 0x100) / 8]? with | some p => packed [(p.cap, 16), (p.up.toNat, 0)] | none => 0
  else if 0x1000 ≤ o then match s.peerWin.find? fun e => e.1 = (o - 0x1000) / 8 with | some e => e.2.toNat | none => 0
  else 0

def State.eutasReg (s : State) (o : Nat) : Nat :=
  if o = 0 then s.eutas.modnum
  else if o = 8 then packed [(s.eutas.tries, 32), (s.eutas.timeout, 0)]
  else if o = 0x10 then packed [(min s.eutas.xfaults (2 ^ 32 - 1), 32), (min s.eutas.overflows (2 ^ 32 - 1), 0)]
  else if o < 0x160 then
    let l := s.eutas.links.getD ((o - 0x100) / 8) (0, 0, false, false)
    packed [(l.1, 32), (min l.2.1 65535, 16), (l.2.2.1.toNat, 1), (l.2.2.2.toNat, 0)]
  else packed [(s.routeMask ((o - 0x1000) / 4), 0), (s.routeMask ((o - 0x1000) / 4 + 1), 32)]

def State.counterReg (s : State) (o : Nat) : Nat :=
  let c := s.cnt
  ([c.ret, c.ended, c.issue, c.stall, c.gbytes, c.xbytes, c.atom, c.ref, c.disc, c.logovf, c.divs].getD (o / 8) 0).toNat

def State.errorReg (s : State) (o : Nat) : Nat :=
  if o = 0 then s.err.base.toNat
  else if o = 8 then s.err.head
  else if o = 0x10 then s.err.tail
  else if o = 0x18 then s.err.cfg.toNat
  else s.err.drop

def State.schedReg (s : State) (o : Nat) : Nat :=
  if o = 0 then s.sch.qtbase.toNat
  else if o = 0x10 then packed [(s.sch.cmdQueue, 32), (s.sch.cmdResult, 8), (s.sch.cmdBusy.toNat, 0)]
  else if o = 0x18 then
    packed [(s.sch.takeovers % 2 ^ 32, 32), (s.inFlightKernels % 65536, 16), (s.sch.standby.toNat, 8), (s.boot.sched, 0)]
  else 0

def State.placementReg (s : State) (o : Nat) : Nat :=
  if o = 8 then packed [(s.healthy.length, 32), ((~~~s.sick).toNat, 0)]
  else if o = 0x10 then packed [(s.lostQuads.length, 32), (s.shifts.length, 0)]
  else if 0x1000 ≤ o then s.groupWord ((o - 0x1000) / 8)
  else 0

/-- `FWSTAT` (Table 1.8). -/
def State.firmwareReg (s : State) (o : Nat) : Nat :=
  if o = 8 then
    packed [(s.boot.foreign, 32), (s.boot.reloaded.length, 16), (s.boot.inProgress, 8), (s.boot.reloading.toNat, 1), (s.boot.busy.toNat, 0)]
  else if o = 0x10 then s.boot.fwlen.toNat
  else 0

/-- What the register at an 8-byte offset reads; a WO register reads 0. -/
def State.reg (s : State) (b : Bar) (o : Nat) : Nat :=
  if b.access o = .wo then 0
  else
    match b with
    | .identity => s.identityReg o
    | .trust => s.trustReg o
    | .power => if o = 0 then s.pwrcap else packed [(s.draw, 16), (s.overCap.toNat, 0)]
    | .firmware => s.firmwareReg o
    | .sched => s.schedReg o
    | .placement => s.placementReg o
    | .errors => s.errorReg o
    | .trans => s.transReg o
    | .eutas => s.eutasReg o
    | .counters => s.counterReg o
    | .leaf c => s.leafReg c o
    | .debug d => s.debugReg d o
    | .reserved => 0

/-- The effect of a whole write on a register (RW or WO). -/
def State.regSet (s : State) (p : HostPort) (b : Bar) (o v : Nat) : State :=
  let w : Dword := BitVec.ofNat 64 v
  match b with
  | .identity => { s with boot := { s.boot with winctl := BitVec.ofNat 64 (bits v 63 63 * 2 ^ 63 + v % 2 ^ 52) } }
  | .trust => s.xferWrite ((o - 0x100) / 8) w
  | .power => s.capWrite v
  | .firmware => if o = 0 then s.fwcmd p v else { s with boot := { s.boot with fwlen := w } }
  | .sched =>
    if o = 8 then s.qcmd v
    else if s.sch.queues.isEmpty then { s with sch := { s.sch with qtbase := BitVec.ofNat 64 (v / 4096 * 4096) } }
    else s
  | .placement =>
    if o = 0 then (if v / 2 ^ 8 ≠ 0 ∨ bits v 6 5 ≠ 0 ∨ bits v 7 7 = 0 then s else s.askFence (v % 32))
    else { s with sch := { s.sch with groups := putKeyed ((o - 0x1000) / 8) (if (o - 0x1000) / 8 % 2 = 0 then w &&& 0xFFFFFFFFFFFF else w) s.sch.groups } }
  | .errors =>
    if o = 0 then (if s.err.head = s.err.tail then { s with err := { s.err with base := BitVec.ofNat 64 (v / 4096 * 4096) } } else s)
    else if o = 0x10 then (if v < s.err.tail ∨ s.err.head < v then s else { s with err := { s.err with tail := v } })
    else { s with err := { s.err with cfg := BitVec.ofNat 64 (bits v 63 63 * 2 ^ 63 + v % 2 ^ 40) } }
  | .trans =>
    if o = 0 then { s with tr := { s.tr with asidBase := BitVec.ofNat 64 (v / 65536 * 65536) } }
    else if o = 8 then (if s.tr.fqHead = s.tr.fqTail then { s with tr := { s.tr with fqBase := BitVec.ofNat 64 (v / 4096 * 4096) } } else s)
    else if o = 0x18 then s.fqTailWrite v
    else if o = 0x20 then (if v % 2 = 0 then s.resolveRewalk (BitVec.ofNat 32 (v / 2 ^ 32)) else s.resolveFail (BitVec.ofNat 32 (v / 2 ^ 32)))
    else if o = 0x30 then { s with migSlots := putSlot { findSlot .host s.migSlots with pageWord := w } s.migSlots }
    else if o = 0x38 then s.migCommand .host w
    else
      { s with peerWin := putKeyed ((o - 0x1000) / 8) (BitVec.ofNat 64 (bits v 63 63 * 2 ^ 63 + v % 4096)) s.peerWin }
  | .eutas =>
    if o = 0 then (if s.inFlightKernels = 0 then { s with eutas := { s.eutas with modnum := v % 4096 } } else s)
    else if o = 8 then { s with eutas := { s.eutas with tries := max 1 (bits v 39 32), timeout := max 1700 (v % 2 ^ 32) } }
    else
      let m := (o - 0x1000) / 4
      let t : State := { s with eutas := { s.eutas with route := putKeyed m (v % 4096) (putKeyed (m + 1) (bits v 43 32) s.eutas.route) } }
      -- a module whose mask names no link that is up any more is unreachable (R313)
      s.linksChanged t
  | .debug d =>
    let p := (o - 0x10000) / 8
    let s : State := { s with debugOn := (s.debugOn.filter (· ≠ (d, p))) ++ if bits v 0 0 = 1 then [(d, p)] else [] }
    let s := if bits v 1 1 = 1 then s.debugHaltAt d p else s
    if bits v 2 2 = 1 then s.debugReleaseAt d p else s
  | .counters | .leaf _ | .reserved => s

/-- An access to a reserved range or offset (R27). -/
def State.countReserved (s : State) : State := { s with boot := { s.boot with rsvcnt := min (s.boot.rsvcnt + 1) (2 ^ 32 - 1) } }

/-- Does BAR0 accept an access of a size at an offset (R26)? -/
def barAccepts (off size : Nat) : Bool := (size == 4 || size == 8) && off % size == 0 && decide (off < 0x4000000)

/-- Is some byte of an access named? An access of 8 bytes of which one half is named counts as named (DESIGN CHOICE, log 89). -/
def barNamed (off size : Nat) : Bool :=
  let b := barOf off
  b.1.named b.2 || (size == 8 && b.1.named (b.2 + 4))

/-- A write of the host to BAR0 (R15, R26, R27). BAR0 responds from AWAIT on. A write of one half of a tile's debug control neither halts nor releases by the other half (R442). -/
def State.hostWrite (s : State) (p : HostPort) (off size v : Nat) : State :=
  if s.boot.stage < 2 then s
  else if !barAccepts off size then { s with outbox := s.outbox ++ [.unsupported] }
  else if !barNamed off size then s.countReserved
  else
    let b := (barOf off).1
    let o := (barOf off).2 / 8 * 8
    if !b.early ∧ !s.ready then s
    else
      match b.access o with
      | .ro => s
      | .wo => if size = 8 then s.regSet p b o v else s
      | .rw =>
        let old := match b with | .debug _ => s.reg b o % 2 | _ => s.reg b o
        let whole := if size = 8 then v
          else if off % 8 = 0 then old / 2 ^ 32 * 2 ^ 32 + v % 2 ^ 32
          else v % 2 ^ 32 * 2 ^ 32 + old % 2 ^ 32
        s.regSet p b o (whole % 2 ^ 64)

/-- A read of the host from BAR0. A read of `PWRST` looks at the draw. -/
def State.hostRead (s : State) (off size : Nat) : State :=
  if s.boot.stage < 2 then s
  else if !barAccepts off size then { s with outbox := s.outbox ++ [.unsupported] }
  else
    let b := (barOf off).1
    let o := (barOf off).2 / 8 * 8
    let s := if !barNamed off size then s.countReserved else if b = .power ∧ o = 8 then s.lookPower else s
    let v := if !barNamed off size ∨ !s.answers b then 0 else s.reg b o
    { s with outbox := s.outbox ++ [.data (natLe (v / 2 ^ (8 * (off % 8))) size)] }

/-! ## BAR2 (R19, R29, R385) -/

def Boot.span (b : Boot) : Nat := 2 ^ 28 * 2 ^ b.bar2k

/-- Physical address behind an offset of BAR2; none where the window reaches no backed HBM. -/
def State.windowPa (s : State) (off : Nat) : Option Nat :=
  let base := s.boot.winctl.toNat % 2 ^ 52 / s.boot.span * s.boot.span
  if inHbm (base + off) then some (base + off) else none

/-- Does BAR2 map the staging SRAM? -/
def State.stagingMapped (s : State) : Bool := s.boot.winctl.getLsbD 63 || !s.ready

/-- Is the request one that PCIe has: a read, a write, or an AtomicOp of its sizes, aligned? -/
def reqLegal (off : Nat) : MemReq → Bool
  | .read _ | .write _ => true
  | .fetchAdd n _ | .swap n _ => (n == 4 || n == 8) && off % n == 0
  | .cas n _ _ => (n == 4 || n == 8 || n == 16) && off % n == 0
  | .alu _ _ _ _ | .sync _ _ => false

/-- An access to the staging SRAM, which the host does not write while the firmware load region is owned (R19). An AtomicOp changes nothing there and returns zeros (DESIGN CHOICE, log 89). -/
def State.stagingAccess (s : State) (off : Nat) (req : MemReq) : State :=
  let inside (i : Nat) : Bool := decide (off + i < 0x1000000)
  match req with
  | .read n =>
    { s with outbox := s.outbox ++ [.data ((List.range n).map fun i => if inside i then cellsRead s.staging (off + i) else 0)] }
  | .write bs =>
    if s.boot.port.isSome then s
    else { s with staging := bs.zipIdx.foldl (fun m x => if inside x.2 then cellsWrite m (off + x.2) x.1 else m) s.staging }
  | .fetchAdd n _ | .swap n _ | .cas n _ _ | .alu _ _ n _ => { s with outbox := s.outbox ++ [.data (List.replicate n 0)] }
  | .sync _ _ => s

/-- An access to the HBM window: reads and writes byte by byte, AtomicOps by the unit of the die. An uncorrectable word or a fenced die gives no data (DEDUCED, log 18). -/
def State.windowAccess (s : State) (off : Nat) (req : MemReq) : State :=
  let n := reqSize req
  let pas := (List.range n).map fun i => s.windowPa (off + i)
  let hit := pas.filterMap id
  match hit.head? with
  | none =>
    (match req with
     | .write _ => s
     | .read _ | .fetchAdd _ _ | .swap _ _ | .cas _ _ _ | .alu _ _ _ _ | .sync _ _ =>
       { s with outbox := s.outbox ++ [.data (List.replicate n 0)] })
  | some pa =>
    match req with
    | .read _ =>
      if (s.homeBad pa hit.length (pa / 2 ^ 36) true).isSome then { s with outbox := s.outbox ++ [.unsupported] }
      else
        { s with outbox := s.outbox ++ [.data (pas.map fun p => match p with | some a => cellsRead s.mem a | none => 0)] }
    | .write bs =>
      if (s.homeBad pa hit.length (pa / 2 ^ 36) false).isSome then s
      else s.gWrite pa ((bs.zip pas).filterMap fun x => x.2.map fun _ => x.1)
    | .fetchAdd _ _ | .swap _ _ | .cas _ _ _ | .alu _ _ _ _ | .sync _ _ =>
      if (s.homeBad pa n (pa / 2 ^ 36) true).isSome then { s with outbox := s.outbox ++ [.unsupported] }
      else s.unitSend (pa / 2 ^ 36) { src := .host s.ev.port, launch := none, bank := 0, arrive := 0, pa := pa, req := req }

/-- Hint of the home of an access to the HBM window, while it refuses (R274). -/
def State.windowHint (s : State) (off : Nat) (req : MemReq) : Option Nat :=
  let hit := (List.range (reqSize req)).filterMap fun i => s.windowPa (off + i)
  (hit.head?).bind fun pa => s.homeRefusal pa pa hit.length (pa / 2 ^ 36)

/-- An access to BAR2 that nothing hinders. -/
def State.bar2Perform (s : State) : State :=
  if s.stagingMapped then s.stagingAccess s.ev.off s.ev.req else s.windowAccess s.ev.off s.ev.req

/-! ## The order of the host's writes (R372) -/

/-- A write of the host is performed: of a notify page, of memory through BAR2, of a register that has an event of its own, or of any other. -/
def State.hostPerform (s : State) (i : Instr) : State :=
  match i with
  | .bar2Access => s.bar2Perform
  | .notifyWrite => s.notifyArrives
  | .queueCreate => qcmdEvent 1 s
  | .queueDestroy => qcmdEvent 2 s
  | .queueResume => qcmdEvent 3 s
  | .queueAbort => qcmdEvent 4 s
  | .fwcmdActivate => s.fwcmdEvent 1
  | .fwcmdReload => s.fwcmdEvent 2
  | .fwcmdEndReload => s.fwcmdEvent 3
  | .transferCommand => s.transferEvent
  | .pwrcapWrite => s.capEvent
  | .resolveRewalk => s.resolveRewalk s.ev.id
  | .resolveFail => s.resolveFail s.ev.id
  | .fqtailWrite => s.fqTailWrite s.ev.val.toNat
  | .dieFence => if s.ready then s.fenceWith s.ev.die else s
  | .debugHaltRequest => s.debugHaltAt s.ev.die s.ev.entry
  | .debugRelease => s.debugReleaseAt s.ev.die s.ev.entry
  | .reservedAccess => (match s.ev.req with | .write bs => s.hostWrite s.ev.port s.ev.off bs.length (leNat bs) | _ => s)
  | _ => s.hostWrite s.ev.port s.ev.off s.ev.size s.ev.val.toNat

/-- Does the home of a write refuse it now? -/
def State.hostHint (s : State) (i : Instr) : Option Nat :=
  match i with
  | .bar2Access => if s.stagingMapped then none else s.windowHint s.ev.off s.ev.req
  | _ => none

/-- The writes of a port that wait are tried again `h` ticks later. -/
def State.portAgain (s : State) (p : HostPort) (h : Nat) : State :=
  { s.countRef with agenda := s.agenda ++ [(s.tick + h, .bar2Access, { port := p, words := 1 })] }

/-- A write of the host: behind those of its port that are still to be performed; where its home refuses it, it waits. -/
def State.inOrder (s : State) (i : Instr) : State :=
  let p := portOfWrite i s.ev
  if s.portHeld p then s.behind i
  else
    match s.hostHint i with
    | some h => (s.behind i).portAgain p h
    | none => s.hostPerform i

/-- The writes of a port that wait are performed in their order, up to one that is refused again. -/
def State.drainPort (p : HostPort) : Nat → State → State
  | 0, s => s
  | n + 1, s =>
    match s.hostQ.find? fun x => portOfWrite x.1 x.2 == p with
    | none => s
    | some x =>
      match State.hostHint { s with ev := x.2 } x.1 with
      | some h => s.portAgain p h
      | none => State.drainPort p n (State.hostPerform { s with ev := x.2, hostQ := s.hostQ.erase x } x.1)

/-- BAR2_ACCESS; with `yes` the host resizes the BAR to 256 MiB × 2^k, k in `size` (R29); with `words` 1 the writes of a port that wait are tried again. -/
def execBar2Access (s : State) : Host.Outcome State Fault Refusal :=
  let e := s.ev
  if e.yes then (if e.size ≤ 8 then .next { s with boot := { s.boot with bar2k := e.size } } else .next s)
  else if e.words = 1 then .next (s.drainPort e.port s.hostQ.length)
  else if s.boot.stage < 2 ∨ s.boot.span < e.off + reqSize e.req then .next s
  else if !reqLegal e.off e.req then .next { s with outbox := s.outbox ++ [.unsupported] }
  else
    match e.req, s.hostHint .bar2Access with
    | .write _, _ => .next (s.inOrder .bar2Access)
    | _, some h => .next { s.countRef with agenda := s.agenda ++ [(s.tick + h, .bar2Access, e)] }
    | _, none => .next s.bar2Perform

/-- QUEUE_CREATE, QUEUE_DESTROY, QUEUE_RESUME, QUEUE_ABORT: a write of `QCMD`. With `yes` a create reads its descriptor again (R90). -/
def execQueueCreate (s : State) : Host.Outcome State Fault Refusal :=
  .next (if s.ev.yes then s.createQueue s.ev.queue.toNat else s.inOrder .queueCreate)
def execQueueDestroy (s : State) : Host.Outcome State Fault Refusal := .next (s.inOrder .queueDestroy)
def execQueueResume (s : State) : Host.Outcome State Fault Refusal := .next (s.inOrder .queueResume)
def execQueueAbort (s : State) : Host.Outcome State Fault Refusal := .next (s.inOrder .queueAbort)

/-- FWCMD_ACTIVATE: `FWCMD` = 1 from a port; with `yes` the stage that follows the commit. -/
def execFwcmdActivate (s : State) : Host.Outcome State Fault Refusal :=
  .next (if s.ev.yes then s.activate else s.inOrder .fwcmdActivate)

/-- FWCMD_RELOAD: `FWCMD` = 2 from a port; with `yes` the next unit of the reload. -/
def execFwcmdReload (s : State) : Host.Outcome State Fault Refusal :=
  .next (if s.ev.yes then (if s.ready ∧ s.boot.busy then s.reloadStep s.ev.off else s) else s.inOrder .fwcmdReload)

/-- FWCMD_END_RELOAD: `FWCMD` = 3 (R24). -/
def execFwcmdEndReload (s : State) : Host.Outcome State Fault Refusal := .next (s.inOrder .fwcmdEndReload)

/-- TRANSFER_COMMAND: the write of the dword of `XFERCMD` at offset 0x78. -/
def execTransferCommand (s : State) : Host.Outcome State Fault Refusal := .next (s.inOrder .transferCommand)

/-- PWRCAP_WRITE: an 8-byte write of `PWRCAP`. -/
def execPwrcapWrite (s : State) : Host.Outcome State Fault Refusal := .next (s.inOrder .pwrcapWrite)

/-- RESOLVE_REWALK, RESOLVE_FAIL: a write of `RESOLVE` with result 0 or 1; FQTAIL_WRITE. -/
def execResolveRewalk (s : State) : Host.Outcome State Fault Refusal := .next (s.inOrder .resolveRewalk)
def execResolveFail (s : State) : Host.Outcome State Fault Refusal := .next (s.inOrder .resolveFail)
def execFqtailWrite (s : State) : Host.Outcome State Fault Refusal := .next (s.inOrder .fqtailWrite)

/-- DIE_FENCE: from READY on a write to `DIEFENCE`; with `yes` the module's own request, as the leaf controllers' when more than half of the die's clusters are held (R15, R91, Table 4.5). -/
def execDieFence (s : State) : Host.Outcome State Fault Refusal :=
  .next (if s.ev.yes then s.fenceWith s.ev.die else s.inOrder .dieFence)

/-- DEBUG_HALT_REQUEST; DEBUG_RELEASE, after which the DEBUG handler returns (R433): writes of a tile's debug control. -/
def execDebugHaltRequest (s : State) : Host.Outcome State Fault Refusal := .next (s.inOrder .debugHaltRequest)
def execDebugRelease (s : State) : Host.Outcome State Fault Refusal := .next (s.inOrder .debugRelease)

/-- REGISTER_WRITE. -/
def execRegisterWrite (s : State) : Host.Outcome State Fault Refusal := .next (s.inOrder .registerWrite)

/-- RESERVED_ACCESS: a read or a write of BAR0; at a reserved address it reads 0 or is discarded, and is counted. -/
def execReservedAccess (s : State) : Host.Outcome State Fault Refusal :=
  match s.ev.req with
  | .read n => .next (s.hostRead s.ev.off n)
  | .write _ => .next (s.inOrder .reservedAccess)
  | .fetchAdd _ _ | .swap _ _ | .cas _ _ _ | .alu _ _ _ _ | .sync _ _ => .next { s with outbox := s.outbox ++ [.unsupported] }

/-- NOTIFY_WRITE: an 8-byte write through BAR4 or the aperture (R55, R372). With `yes` it is a read of the page through BAR4, which returns N, or the store of a strand through the aperture. -/
def execNotifyWrite (s : State) : Host.Outcome State Fault Refusal :=
  match s.ev.path, s.ev.yes with
  | .aperture, yes => .next (if yes then s.notifyStored.notifyArrives else s.notifyArrives)
  | .bar4 _, true =>
    let good : Bool := s.ev.off % 4096 == 0 && s.ev.size == 8
    let x := match s.queue? (s.ev.off / 4096) with | some q => if good ∧ s.ready then q.notified else 0 | none => 0
    .next { s with outbox := s.outbox ++ [.data (natLe x s.ev.size)] }
  | .bar4 _, false => .next (s.inOrder .notifyWrite)

/-! ## Reset (R13, R16, R20) -/

/-- MODULE_RESET: every state returns to that of reset but the fuses, the owner slot, the host's memory and the size of BAR2; the strap is sampled (`yes`), and the nonce is new. -/
def execModuleReset (s : State) : Host.Outcome State Fault Refusal :=
  .next { State.reset with
    mem := s.mem.filter fun c => match regionOf c.1 with | .host => true | _ => false
    outbox := s.outbox
    boot := { floor := s.boot.floor, owner := s.boot.owner, strap := s.ev.yes, nonce := Config.freeNonce s.free, bar2k := s.boot.bar2k }
    free := s.free + 1 }

end Sys2Proof.Machine
end

