-- ==== Sys2Proof/Machine/Staging.lean ====
section
/-! DEFINITION. Staged launches: loading the shadow halves, the switch in tick mode and in token mode (R114 to R119). -/

namespace Sys2Proof.Machine

/-! ## Staging (R114) -/

/-- A queue whose head record can be staged now. -/
def State.dueStage (s : State) : Option Nat :=
  if !s.active ∨ s.tick < s.sch.next then none
  else (s.sch.queues.find? fun q => match q.item with | some h => (s.stageOn q h).isSome | none => false).map (·.num)

/-- STAGE_LAUNCH: the loader applies R40; a rejected image ends the dependant and leaves the producer untouched. -/
def execStageLaunch (s : State) : Host.Outcome State Fault Refusal :=
  match s.queue? s.ev.queue.toNat with
  | none => .next s
  | some q =>
    match q.item with
    | none => .next s
    | some h =>
      match s.stageOn q h with
      | none => .next s
      | some p =>
        if s.groupBad q h.rcd h.img then .next (s.refuseRecord q h.rcd 3 0x28 0xFF 0xFFFF).schedBusy
        else
        match h.load with
        | some e => .next ((s.countTurn (q.headPrio h) q.num).refuseHead q h.rcd 2 e.code e.role e.index).schedBusy
        | none =>
          let l : Launch := { s.newLaunch q h p.place with phase := .staged, stage := some { on := p.id } }
          let xs := l.seats
          let s : State := { s with
            sch := { s.sch with launches := s.sch.launches ++ [l], orders := s.sch.orders + 1 }
            quads := s.quads.map fun x => if l.quads.contains x.addr then { x with shadow := quadCode l.img (quadRoles xs x.addr), badShadow := [] } else x }
          .next s.schedBusy

/-! ## Conditions of the switch (R115 to R117) -/

/-- The dies of a placement. -/
def Launch.dies (l : Launch) : List Nat := l.place.map fun p => p.1

/-- Has every strand of the producer on the tile halted (R115)? A strand at a bell has not: its bundle completes at the end of its window (R154, R299). A handler that still runs for a halted strand goes on first (DEDUCED, log 57). -/
def Tile.leftBy (t : Tile) (p : Dword) : Bool :=
  t.launch != some p || (t.haltedAll && t.run != 3 && t.window.isNone)

/-- Have the producer's pushes from the tile entered their links (R117)? -/
def Tile.pushesOut (t : Tile) (p : Dword) : Bool :=
  t.queue.all fun o => o.isPerformed || o.st == .waiting || t.opLaunch o != some p
    || (match o.kind with | .push _ => false | _ => true)

/-- Have the producer's strands on a die of the placement halted? -/
def State.leftDie (s : State) (l : Launch) (p : Dword) (die : Nat) : Bool :=
  (l.seats.filter fun x => dieOf x.addr = die).all fun x => (s.tileAt x.addr).leftBy p

/-- Token mode is used when a die link between two dies of the placement has retrained since reset (R117). -/
def State.tokenMode (s : State) (l : Launch) : Bool :=
  s.retrained.any fun e => e.1 != e.2 && l.dies.contains e.1 && l.dies.contains e.2

/-- May a die switch: the dependence is met, the producer has halted there, and no quad is condemned (R115, R119)? -/
def State.canSwitch (s : State) (l : Launch) (g : Stage) (die : Nat) : Bool :=
  s.depState l.rcd == .met && s.leftDie l g.on die && l.quads.all fun q => !s.condemned.contains q

/-! ## The switch (R115, R118) -/

/-- Operations that stay in flight at the switch, as the producer's (R118). -/
def DlOp.staysFor (o : DlOp) (p : Dword) : Option DlOp :=
  if o.old.isSome then some o
  else if o.isPerformed then none
  else
    match o.sock, o.kind with
    | .nt, .ttarm => none
    | .dm, _ | .nt, _ | .kn, _ | .sy, .sig _ | .sy, .swait _ | .sy, .sdec _ | .sy, .binit | .sy, .arrive _ | .sy, .drop _ | .sy, .bwait _ =>
      some { o with old := some p, slot := false, wx := false, hold := false, tag := none, task := none }
    | _, _ => none

/-- One tile switches: the same-ASID path of R84, the DATA sections, the state of R67; its strand starts. -/
def State.switchTile (s : State) (l : Launch) (xs : List Seat) (p : Dword) (x : Seat) : State :=
  let t0 := s.tileAt x.addr
  let prevs : List PrevLaunch :=
    if t0.launch = some p then { t0.leftAs p with mxq := t0.mxq.filter fun o => o.locked } :: t0.prevs else t0.prevs
  let t := s.bindTile l xs x t0
  let t : Tile := { t with
    queue := t0.queue.filterMap fun o => o.staysFor p
    prevs := prevs, run := 0, ready := s.tick, supReady := true }
  s.setTile (t.startAt s.tick)

/-- A die switches all its quads (R115). -/
def State.switchDie (s : State) (l : Launch) (g : Stage) (die : Nat) : State :=
  let xs := l.seats
  let s := (l.quads.filter fun q => dieOf q = die).foldl (fun s q =>
    s.onQuad q fun x => { x with active := x.shadow, shadow := [], badCode := x.badShadow, badShadow := [], owner := some l.id, ganged := false }) s
  let s := (xs.filter fun x => dieOf x.addr = die).foldl (fun s x => s.switchTile l xs g.on x) s
  (l.clusters.filter fun c => c / 4 = die).foldl (fun s c => s.writeLoad l.id c) s

/-- Notes that dies have switched: at the first the record is consumed, after the last the launch runs like any other. -/
def State.switched (s : State) (l : Launch) (g : Stage) (dies : List Nat) : State :=
  let s := if g.done.isEmpty then s.takeHead l else s
  let done := g.done ++ dies
  let l : Launch := { l with startTick := some (l.startTick.getD s.tick), lastRing := s.tick }
  if l.dies.all done.contains then s.putLaunch { l with phase := .started, stage := none }
  else s.putLaunch { l with stage := some { g with done := done } }

/-- A staged launch whose tick can be named, or has come. -/
def State.dueSwitchTick (s : State) : Option Dword :=
  (s.sch.launches.find? fun l =>
    match l.phase, l.stage with
    | .staged, some g =>
      !s.tokenMode l &&
        (match g.tickAt with
         | none => s.active && l.dies.all (s.canSwitch l g)
         | some t => decide (t ≤ s.tick))
    | _, _ => false).map (·.id)

/-- SWITCH_TICK (R116): the scheduler names a tick T at least 3,400 ticks after the command, and at T every quad switches. A quad condemned meanwhile makes the switch wait (R119). -/
def execSwitchTick (s : State) : Host.Outcome State Fault Refusal :=
  match s.launch? s.ev.launch with
  | none => .next s
  | some l =>
    match l.phase, l.stage with
    | .staged, some g =>
      if s.tokenMode l then .next s
      else
        (match g.tickAt with
         | none =>
           if l.dies.all (s.canSwitch l g) then
             .next { s.putLaunch { l with stage := some { g with tickAt := some (s.tick + 3400 + Config.delay s.free) } } with free := s.free + 1 }
           else .next s
         | some t =>
           if s.tick < t then .next s
           else if l.dies.all (s.canSwitch l g) then
             .next ((l.dies.foldl (fun s d => s.switchDie l g d) s).switched l g l.dies)
           else .next (s.putLaunch { l with stage := some { g with tickAt := none } }))
    | _, _ => .next s

/-! ## Token mode (R117) -/

/-- A die's tokens leave once the producer's strands there have halted and its pushes have entered their links. -/
def State.sendTokens (s : State) (l : Launch) (g : Stage) : State :=
  let out (d : Nat) : Bool := (l.seats.filter fun x => dieOf x.addr = d).all fun x => (s.tileAt x.addr).pushesOut g.on
  let ready := l.dies.filter fun d => !g.sent.contains d && s.leftDie l g.on d && out d
  if ready.isEmpty then s
  else
    ready.foldl (fun s d =>
      (l.dies.filter (· ≠ d)).foldl (fun s e => s.sched 1 none .switchToken { launch := l.id, src := d, dst := e }) s)
      (s.putLaunch { l with stage := some { g with tickAt := none, sent := g.sent ++ ready } })

/-- As a tick closes: the tokens that can leave. -/
def State.stageTick (s : State) : State :=
  s.sch.launches.foldl (fun s x =>
    match s.launch? x.id with
    | some l =>
      (match l.phase, l.stage with
       | .staged, some g => if s.tokenMode l then s.sendTokens l g else s
       | _, _ => s)
    | none => s) s

/-- Is a datum of the producer from one die to another still on its way? -/
def State.datumBetween (s : State) (p : Dword) (src dst : Nat) : Bool :=
  s.packets.any fun k => k.launch == p && dieOf k.dst == dst
    && (match k.src with | some (a, _) => dieOf a == src | none => false)
    && s.agenda.any fun e => e.2.2.packet == k.id &&
        (match e.2.1 with | .packetArrival | .messageAccept | .contextArrival => true | _ => false)

/-- A die that can switch in token mode. -/
def State.dueToken (s : State) : Option (Dword × Nat) :=
  s.sch.launches.findSome? fun l =>
    match l.phase, l.stage with
    | .staged, some g =>
      if s.tokenMode l then
        (l.dies.find? fun d => !g.done.contains d && s.canSwitch l g d
          && (l.dies.filter (· ≠ d)).all fun e => g.tokens.contains (e, d)).map fun d => (l.id, d)
      else none
    | _, _ => none

/-- SWITCH_TOKEN: a token arrives behind the last datum of the producer; or, with `yes`, the die of the event switches once all tokens are there (R117). -/
def execSwitchToken (s : State) : Host.Outcome State Fault Refusal :=
  match s.launch? s.ev.launch with
  | none => .next s
  | some l =>
    match l.phase, l.stage with
    | .staged, some g =>
      if s.ev.yes then
        let d := s.ev.die
        if s.tokenMode l ∧ l.dies.contains d ∧ !g.done.contains d ∧ s.canSwitch l g d
            ∧ ((l.dies.filter (· ≠ d)).all fun e => g.tokens.contains (e, d)) then
          .next ((s.switchDie l g d).switched l g [d])
        else .next s
      else if s.datumBetween g.on s.ev.src s.ev.dst then .next (s.sched 1 (some 0) .switchToken s.ev)
      else .next (s.putLaunch { l with stage := some { g with tokens := (s.ev.src, s.ev.dst) :: g.tokens } })
    | _, _ => .next s

end Sys2Proof.Machine
end

