-- ==== Sys2Proof/Machine/Clock.lean ====
section
/-! DEFINITION. What is due on the current tick, in a fixed order; the next tick. -/

namespace Sys2Proof.Machine

/-- Events of the engines of a tile that are due: the ends of its copies, waits, bells, windows and task work (R281, R299, R343, R349, R405). -/
def Tile.dueEngine (t : Tile) (now : Nat) : Option (Instr × EvArg) :=
  let e : EvArg := { tile := t.addr }
  match t.queue.find? fun o => o.sock == .dm && !o.wx && o.st == .performed && decide (o.due ≤ now) with
  | some o => some (.dmCompletion, { e with op := o.id })
  | none =>
    match t.dueWait with
    | some o => some (.tagWaitComplete, { e with op := o.id })
    | none =>
      match t.dueRing now with
      | some o => some (.bellRing, { e with op := o.id })
      | none =>
        if t.queue.any fun o => o.bellLevel.isSome && o.st == .waiting && decide (o.val ≤ now) then some (.windowStart, e)
        else if (match t.window with | some x => decide (x.w + x.len ≤ now) | none => false) then some (.windowEnd, e)
        else
          match t.tasks.work with
          | some (.create _ x) => if x ≤ now then some (.spawnCreateEnd, e) else none
          | some (.save _ _ _ x) => if x ≤ now then some (.taskSaveEnd, e) else none
          | some (.load _ _ _ x) => if x ≤ now ∧ t.run ≠ 3 then some (.taskLoadEnd, e) else none
          | none => none

/-- Timed events of a tile: a timer unit (R396), the supervisor timer (R430), the scrubber (R217), a task that must leave (R396). -/
def Tile.dueTimer (t : Tile) (now : Nat) : Option (Instr × EvArg) :=
  let e : EvArg := { tile := t.addr }
  if now % 64 = 0 ∧ t.tasks.unitTick < now ∧ t.tasked ∧ (t.bank 0).life ≠ .halted then some (.timerUnit, e)
  else if t.stmr ≠ 0 ∧ t.stmr ≤ now ∧ !t.frozen then some (.supervisorTimerExpiry, e)
  else if 256 ≤ now ∧ t.scrubDue ≤ now then some (.scrubRead, e)
  else if t.mustLeave now then some (.taskSwitchOut, e)
  else none

/-- Events of the running strand of a tile that are due before its bundle: a format, an entry, sleep; a strand that arrived at its gang bundle on this very tick may still issue it on this tick (R156). -/
def Tile.dueStrand (t : Tile) (now : Nat) : Option (Instr × EvArg) :=
  let e : EvArg := { tile := t.addr }
  let b := t.bank t.run
  if b.fmtDue then some (.fmtTakesEffect, e)
  else if !t.frozen && b.life == .live && t.pend.any (fun p => p.bank = t.run && decide (p.notBefore ≤ now)) then some (.supervisorEntry, e)
  else if 33 ≤ t.stalled && !t.asleep && t.gangWait != some now then some (.tileSleep, e)
  else if !t.asleep && t.tidleSleeps now then some (.tileSleep, e)
  else none

/-- Has a bank of the tile issued its bundle on this tick? What the bundle pushes is there for `mx` from the next tick on (R228, R248). -/
def Tile.hasIssued (t : Tile) (now : Nat) : Bool := t.banks.toList.any fun b => b.lastIssue == now && b.seq != 0

/-- Events of the `mx` sequence and the fillers of a tile: `mx` pops come before filler commits, and these before the start of an operation (R228). -/
def Tile.dueLocal (t : Tile) (now : Nat) : Option (Instr × EvArg) :=
  let e : EvArg := { tile := t.addr }
  if t.mxDue now true then some (.mxOpEnd, e)
  else
    match ringNumbers.find? fun r => (t.ring r).fillerReady now with
    | some r => some (.fillerCommit, { e with ring := r })
    | none =>
      let mxStart : Bool :=
        match t.mxq with
        | [] => false
        | o :: _ => o.locked && !o.started && o.done.isNone && t.mxMay && t.linesPresent o.claims && !t.hasIssued now
      if mxStart then some (.mxOpStart, e) else none

/-- The same of what earlier launches left in the tile, the newest first (R118). -/
def Tile.duePrev (t : Tile) (now : Nat) : List PrevLaunch → Option (Instr × EvArg)
  | [] => none
  | v :: older =>
    match (t.asLeft v older).dueLocal now with
    | some x => some (x.1, { x.2 with launch := v.launch, yes := true })
    | none => t.duePrev now older

/-- The next event of a tile that is due on this tick. Landings and the end of a pass come before the bundle; of two landings at one socket on one tick, that triggered first comes first (R126, R131), and the end of a pass comes before the strand can leave (R148). -/
def Tile.due (t : Tile) (now : Nat) : Option (Instr × EvArg) :=
  let e : EvArg := { tile := t.addr }
  match t.dueLocal now with
  | some x => some x
  | none =>
    match t.duePrev now t.prevs with
    | some x => some x
    | none =>
      let b := t.bank t.run
      match t.queue.find? fun o => t.landsFirst now o with
      | some o => some (.dataLockedLanding, { e with op := o.id })
      | none =>
      if b.flight.any (fun f => f.r = 0) then some (.freeRunningLanding, e)
      else if b.passEnd then some (.loopPassEnd, e)
      else
        match t.dueEngine now with
        | some x => some x
        | none =>
          match t.queue.find? fun o => t.landable now o with
          | some o => some (.dataLockedLanding, { e with op := o.id })
          | none =>
            match t.dueTimer now with
            | some x => some x
            | none => t.dueStrand now

/-- Events of the atomic units: the next request, a gate that has waited too long (R289, R291). -/
def State.dueUnit (s : State) : Option (Instr × EvArg) :=
  s.units.findSome? fun u =>
    if u.free ≤ s.tick ∧ (u.nextReq s.tick).isSome then some (.atomicArrival, { die := u.die })
    else
      (u.logs.find? fun g => g.active ∧ g.gate ∧ !g.div ∧
        u.inq.any fun r => r.launch = some g.launch ∧ r.arrive ≤ s.tick ∧ u.gated r = .hold ∧ r.arrive + g.timeout < s.tick).map
        fun g => (.gateTimeout, { die := u.die, launch := g.launch })

/-- A bell that is released, and the cluster load registers (R345, R403). -/
def State.dueDomain (s : State) : Option (Instr × EvArg) :=
  match s.tiles.findSome? fun t => (s.dueRelease t).map fun o => (t.addr, o.id) with
  | some x => some (.bellRelease, { tile := x.1, op := x.2 })
  | none => s.dueLoad.map fun c => (.clusterLoadWrite, { cluster := c })

/-- Events of the leaves. -/
def State.dueLeaf (s : State) : Option (Instr × EvArg) :=
  match s.dueMsg with
  | some x => some x
  | none =>
    match s.dueDrain with
    | some a => some (.tileDrained, { tile := a })
    | none =>
      match s.duePreHalt with
      | some a => some (.preemptHalt, { tile := a })
      | none => s.dueSave.map fun x => (.preemptSave, { launch := x.1, cluster := x.2 })

/-- Events of the scheduler. -/
def State.dueSched (s : State) : Option (Instr × EvArg) :=
  let q (n : Nat) : EvArg := { queue := BitVec.ofNat 16 n }
  (s.dueCompletion.map fun l => (.completionWrite, { launch := l })).or
  ((s.dueDestroy.map fun n => (.queueDestroyComplete, q n)).or
  ((s.dueMap.map fun n => (.queueMap, q n)).or
  ((s.dueRead.map fun n => (.recordRead, q n)).or
  ((s.dueStage.map fun n => (.stageLaunch, q n)).or
  ((s.dueSwitchTick.map fun l => (.switchTick, { launch := l })).or
  ((s.dueToken.map fun x => (.switchToken, { launch := x.1, die := x.2, yes := true })).or
  (s.schedAct.map fun _ => (.launchPlacement, {}))))))))

/-- The first event that is due. -/
def State.due (s : State) : Option (Instr × EvArg) :=
  if s.tick % 2 ^ 40 = 0 ∧ s.halved ≠ s.tick then some (.errorCounterHalving, {})
  else
    (s.tiles.findSome? fun t => t.due s.tick).or
      (s.dueUnit.or (s.dueDomain.or (s.dueLeaf.or s.dueSched)))

/-- Does the tile get a turn on each tick: its running strand is live and nothing stops it? A gang has the turn of the tile at whose program counter it fetches (R110, R113). -/
def State.hasTurn (s : State) (t : Tile) : Bool :=
  !t.frozen && (t.bank t.run).life == .live
    && !((s.quadAt t.addr).ganged && t.run != 3 && t.addr != s.gangHead t.addr)

/-- `sy.trig` and `sy.fence` that can be performed (R360, R361). -/
def Tile.syncTick (t : Tile) (now : Nat) : Tile := match t.dueSync now with | some o => t.syncDone now o | none => t

/-- A halted tile releases its kiln slots (R340). -/
def State.haltTick (s : State) (a : Nat) : State :=
  let t := s.tileAt a
  if t.haltedAll && t.kslots.any (fun x => !x.released) then s.kilnHalt a else s

/-- What a tick does in a tile by itself, for what earlier launches left there too (R118): operations that have ended leave the `mx` sequence and a data-locked head performs a cycle (R245); the heads of the `sy`, `nt` and `kn` queues and the operation of `sv` go on; a halted tile releases its kiln slots (R340). -/
def State.tileTick (s : State) (a : Nat) : State :=
  let s := (s.tileAt a).prevs.foldl (fun s v => s.asPrev a v.launch fun s =>
    ((((s.onTile a fun t => t.mxPrune s.tick).mxTick a false).ntTick a).knTick a).haltTick a) s
  let s := (s.onTile a fun t => ((t.mxPrune s.tick).tclrTick s.tick).syncTick s.tick).mxTick a false
  (((s.ntTick a).knTick a).supTick a).haltTick a

/-- The next tick: the tiles' `tk` operations, the leaves and the scheduler close the tick; then every live tile will have its turn. -/
def State.nextTick (s : State) : State :=
  let s := (s.tiles.map (·.addr)).foldl State.tkTick s
  let s := (((s.healthTick).leafTick).schedTick).stageTick
  let s : State := State.gateTick { s with tick := s.tick + 1 }
  let s := (s.tiles.map (·.addr)).foldl State.tileTick s
  { s with turn := (s.tiles.filter s.hasTurn).map (·.addr) }

end Sys2Proof.Machine
end

