-- ==== Sys2Proof/Machine/Dispatch.lean ====
section
/-! DEFINITION. The meaning of every instruction: one arm per constructor. -/

namespace Sys2Proof.Machine

def exec (i : Instr) (s : State) : Host.Outcome State Fault Refusal :=
  match i with
  | .move m => Sys2Proof.Machine.execMove m s
  | .jmp h => Sys2Proof.Machine.execJmp h s
  | .jmpr h => Sys2Proof.Machine.execJmpr h s
  | .call h => Sys2Proof.Machine.execCall h s
  | .callr h => Sys2Proof.Machine.execCallr h s
  | .ret h => Sys2Proof.Machine.execRet h s
  | .loop h => Sys2Proof.Machine.execLoop h s
  | .loopx h => Sys2Proof.Machine.execLoopx h s
  | .idle h => Sys2Proof.Machine.execIdle h s
  | .halt h => Sys2Proof.Machine.execHalt h s
  | .trap h => Sys2Proof.Machine.execTrap h s
  | .gang h => Sys2Proof.Machine.execGang h s
  | .split h => Sys2Proof.Machine.execSplit h s
  | .brk h => Sys2Proof.Machine.execBrk h s
  | .add h u w => Sys2Proof.Machine.execAdd h u w s
  | .sub h u w => Sys2Proof.Machine.execSub h u w s
  | .and h u w => Sys2Proof.Machine.execAnd h u w s
  | .or h u w => Sys2Proof.Machine.execOr h u w s
  | .xor h u w => Sys2Proof.Machine.execXor h u w s
  | .andn h u w => Sys2Proof.Machine.execAndn h u w s
  | .orn h u w => Sys2Proof.Machine.execOrn h u w s
  | .min h u w => Sys2Proof.Machine.execMin h u w s
  | .max h u w => Sys2Proof.Machine.execMax h u w s
  | .minn h u w => Sys2Proof.Machine.execMinn h u w s
  | .maxn h u w => Sys2Proof.Machine.execMaxn h u w s
  | .abs h u w => Sys2Proof.Machine.execAbs h u w s
  | .neg h u w => Sys2Proof.Machine.execNeg h u w s
  | .ceq h u w => Sys2Proof.Machine.execCeq h u w s
  | .cne h u w => Sys2Proof.Machine.execCne h u w s
  | .clt h u w => Sys2Proof.Machine.execClt h u w s
  | .cle h u w => Sys2Proof.Machine.execCle h u w s
  | .cltn h u w => Sys2Proof.Machine.execCltn h u w s
  | .clen h u w => Sys2Proof.Machine.execClen h u w s
  | .sel h u w => Sys2Proof.Machine.execSel h u w s
  | .lea h u w => Sys2Proof.Machine.execLea h u w s
  | .addsat h u w => Sys2Proof.Machine.execAddsat h u w s
  | .subsat h u w => Sys2Proof.Machine.execSubsat h u w s
  | .tst h u w => Sys2Proof.Machine.execTst h u w s
  | .shl h w => Sys2Proof.Machine.execShl h w s
  | .shr h w => Sys2Proof.Machine.execShr h w s
  | .sar h w => Sys2Proof.Machine.execSar h w s
  | .rol h w => Sys2Proof.Machine.execRol h w s
  | .ror h w => Sys2Proof.Machine.execRor h w s
  | .clz h w => Sys2Proof.Machine.execClz h w s
  | .ctz h w => Sys2Proof.Machine.execCtz h w s
  | .popc h w => Sys2Proof.Machine.execPopc h w s
  | .brev h w => Sys2Proof.Machine.execBrev h w s
  | .bswap h w => Sys2Proof.Machine.execBswap h w s
  | .extz h w => Sys2Proof.Machine.execExtz h w s
  | .exts h w => Sys2Proof.Machine.execExts h w s
  | .ins h w => Sys2Proof.Machine.execIns h w s
  | .crc h w => Sys2Proof.Machine.execCrc h w s
  | .mul h w => Sys2Proof.Machine.execMul h w s
  | .mulh h w => Sys2Proof.Machine.execMulh h w s
  | .mulhn h w => Sys2Proof.Machine.execMulhn h w s
  | .mac h w => Sys2Proof.Machine.execMac h w s
  | .div h w => Sys2Proof.Machine.execDiv h w s
  | .divn h w => Sys2Proof.Machine.execDivn h w s
  | .rem h w => Sys2Proof.Machine.execRem h w s
  | .remn h w => Sys2Proof.Machine.execRemn h w s
  | .fadd h m => Sys2Proof.Machine.execFadd h m s
  | .fsub h m => Sys2Proof.Machine.execFsub h m s
  | .fmul h m => Sys2Proof.Machine.execFmul h m s
  | .fma h m => Sys2Proof.Machine.execFma h m s
  | .fnma h m => Sys2Proof.Machine.execFnma h m s
  | .fmin h m => Sys2Proof.Machine.execFmin h m s
  | .fmax h m => Sys2Proof.Machine.execFmax h m s
  | .fabs h m => Sys2Proof.Machine.execFabs h m s
  | .fneg h m => Sys2Proof.Machine.execFneg h m s
  | .fcpsgn h m => Sys2Proof.Machine.execFcpsgn h m s
  | .fceq h m => Sys2Proof.Machine.execFceq h m s
  | .fclt h m => Sys2Proof.Machine.execFclt h m s
  | .fcle h m => Sys2Proof.Machine.execFcle h m s
  | .fclass h m => Sys2Proof.Machine.execFclass h m s
  | .fcvt h m => Sys2Proof.Machine.execFcvt h m s
  | .fcvtsi h m => Sys2Proof.Machine.execFcvtsi h m s
  | .fcvtis h m => Sys2Proof.Machine.execFcvtis h m s
  | .ex2 h m => Sys2Proof.Machine.execEx2 h m s
  | .lg2 h m => Sys2Proof.Machine.execLg2 h m s
  | .rcp h m => Sys2Proof.Machine.execRcp h m s
  | .rsq h m => Sys2Proof.Machine.execRsq h m s
  | .sqrt h m => Sys2Proof.Machine.execSqrt h m s
  | .fdiv h m => Sys2Proof.Machine.execFdiv h m s
  | .ex2Vec h m => Sys2Proof.Machine.execEx2Vec h m s
  | .lg2Vec h m => Sys2Proof.Machine.execLg2Vec h m s
  | .rcpVec h m => Sys2Proof.Machine.execRcpVec h m s
  | .rsqVec h m => Sys2Proof.Machine.execRsqVec h m s
  | .sqrtVec h m => Sys2Proof.Machine.execSqrtVec h m s
  | .fdivVec h m => Sys2Proof.Machine.execFdivVec h m s
  | .vadd h m => Sys2Proof.Machine.execVadd h m s
  | .vsub h m => Sys2Proof.Machine.execVsub h m s
  | .vmul h m => Sys2Proof.Machine.execVmul h m s
  | .vfma h m => Sys2Proof.Machine.execVfma h m s
  | .vfnma h m => Sys2Proof.Machine.execVfnma h m s
  | .vmin h m => Sys2Proof.Machine.execVmin h m s
  | .vmax h m => Sys2Proof.Machine.execVmax h m s
  | .vabs h m => Sys2Proof.Machine.execVabs h m s
  | .vneg h m => Sys2Proof.Machine.execVneg h m s
  | .vceq h m => Sys2Proof.Machine.execVceq h m s
  | .vclt h m => Sys2Proof.Machine.execVclt h m s
  | .vcle h m => Sys2Proof.Machine.execVcle h m s
  | .vsel h m => Sys2Proof.Machine.execVsel h m s
  | .vand h => Sys2Proof.Machine.execVand h s
  | .vor h => Sys2Proof.Machine.execVor h s
  | .vxor h => Sys2Proof.Machine.execVxor h s
  | .vshl h m => Sys2Proof.Machine.execVshl h m s
  | .vshr h m => Sys2Proof.Machine.execVshr h m s
  | .vsar h m => Sys2Proof.Machine.execVsar h m s
  | .vsum h m => Sys2Proof.Machine.execVsum h m s
  | .vhmax h m => Sys2Proof.Machine.execVhmax h m s
  | .vscale h m => Sys2Proof.Machine.execVscale h m s
  | .vperm h m => Sys2Proof.Machine.execVperm h m s
  | .vshuf h m => Sys2Proof.Machine.execVshuf h m s
  | .vbcast h m => Sys2Proof.Machine.execVbcast h m s
  | .vext h m => Sys2Proof.Machine.execVext h m s
  | .vins h m => Sys2Proof.Machine.execVins h m s
  | .vcvt h m => Sys2Proof.Machine.execVcvt h m s
  | .vpack h m => Sys2Proof.Machine.execVpack h m s
  | .vunpk h m => Sys2Proof.Machine.execVunpk h m s
  | .vcmprs h m => Sys2Proof.Machine.execVcmprs h m s
  | .vlane h m => Sys2Proof.Machine.execVlane h m s
  | .vrot h m => Sys2Proof.Machine.execVrot h m s
  | .vmerge h m => Sys2Proof.Machine.execVmerge h m s
  | .vmask h m => Sys2Proof.Machine.execVmask h m s
  | .ld h m => Sys2Proof.Machine.execLd h m s
  | .st h m => Sys2Proof.Machine.execSt h m s
  | .vld h l => Sys2Proof.Machine.execVld h l s
  | .vst h l => Sys2Proof.Machine.execVst h l s
  | .vldl h l => Sys2Proof.Machine.execVldl h l s
  | .vstl h l => Sys2Proof.Machine.execVstl h l s
  | .vgat h m => Sys2Proof.Machine.execVgat h m s
  | .vsct h m => Sys2Proof.Machine.execVsct h m s
  | .aadd h m => Sys2Proof.Machine.execAadd h m s
  | .aswp h m => Sys2Proof.Machine.execAswp h m s
  | .acas h m => Sys2Proof.Machine.execAcas h m s
  | .amin h m => Sys2Proof.Machine.execAmin h m s
  | .amax h m => Sys2Proof.Machine.execAmax h m s
  | .aor h m => Sys2Proof.Machine.execAor h m s
  | .aand h m => Sys2Proof.Machine.execAand h m s
  | .sopen h p => Sys2Proof.Machine.execSopen h p s
  | .sstep h => Sys2Proof.Machine.execSstep h s
  | .rinit h r => Sys2Proof.Machine.execRinit h r s
  | .rpush h r => Sys2Proof.Machine.execRpush h r s
  | .rpop h r => Sys2Proof.Machine.execRpop h r s
  | .rfill h r => Sys2Proof.Machine.execRfill h r s
  | .rstat h r => Sys2Proof.Machine.execRstat h r s
  | .rdrop h r => Sys2Proof.Machine.execRdrop h r s
  | .mma h a => Sys2Proof.Machine.execMma h a s
  | .mmas h a => Sys2Proof.Machine.execMmas h a s
  | .mzero h a => Sys2Proof.Machine.execMzero h a s
  | .mrd h a => Sys2Proof.Machine.execMrd h a s
  | .mst h a => Sys2Proof.Machine.execMst h a s
  | .mld h a => Sys2Proof.Machine.execMld h a s
  | .mmask h a => Sys2Proof.Machine.execMmask h a s
  | .get h m => Sys2Proof.Machine.execGet h m s
  | .put h m => Sys2Proof.Machine.execPut h m s
  | .getp h m => Sys2Proof.Machine.execGetp h m s
  | .putp h m => Sys2Proof.Machine.execPutp h m s
  | .fill h m => Sys2Proof.Machine.execFill h m s
  | .gld h m => Sys2Proof.Machine.execGld h m s
  | .gst h m => Sys2Proof.Machine.execGst h m s
  | .gadd h m => Sys2Proof.Machine.execGadd h m s
  | .gswp h m => Sys2Proof.Machine.execGswp h m s
  | .gcas h m => Sys2Proof.Machine.execGcas h m s
  | .gmin h m => Sys2Proof.Machine.execGmin h m s
  | .gmax h m => Sys2Proof.Machine.execGmax h m s
  | .gand h m => Sys2Proof.Machine.execGand h m s
  | .gor h m => Sys2Proof.Machine.execGor h m s
  | .gxor h m => Sys2Proof.Machine.execGxor h m s
  | .mfence h m => Sys2Proof.Machine.execMfence h m s
  | .ttarm h k => Sys2Proof.Machine.execTtarm h k s
  | .push h => Sys2Proof.Machine.execPush h s
  | .pushp h => Sys2Proof.Machine.execPushp h s
  | .land h => Sys2Proof.Machine.execLand h s
  | .lclose h => Sys2Proof.Machine.execLclose h s
  | .msg h => Sys2Proof.Machine.execMsg h s
  | .mig h => Sys2Proof.Machine.execMig h s
  | .kopen h => Sys2Proof.Machine.execKopen h s
  | .kpart h => Sys2Proof.Machine.execKpart h s
  | .kattn h => Sys2Proof.Machine.execKattn h s
  | .kfin h => Sys2Proof.Machine.execKfin h s
  | .kres h => Sys2Proof.Machine.execKres h s
  | .bell h d => Sys2Proof.Machine.execBell h d s
  | .bellx h d => Sys2Proof.Machine.execBellx h d s
  | .wany h m => Sys2Proof.Machine.execWany h m s
  | .wall h m => Sys2Proof.Machine.execWall h m s
  | .wffr h m => Sys2Proof.Machine.execWffr h m s
  | .tclr h => Sys2Proof.Machine.execTclr h s
  | .sig h m => Sys2Proof.Machine.execSig h m s
  | .swait h m => Sys2Proof.Machine.execSwait h m s
  | .sdec h m => Sys2Proof.Machine.execSdec h m s
  | .binit h => Sys2Proof.Machine.execBinit h s
  | .arrive h m => Sys2Proof.Machine.execArrive h m s
  | .drop h m => Sys2Proof.Machine.execDrop h m s
  | .bwait h m => Sys2Proof.Machine.execBwait h m s
  | .trig h => Sys2Proof.Machine.execTrig h s
  | .fence h m => Sys2Proof.Machine.execFence h m s
  | .spawn h => Sys2Proof.Machine.execSpawn h s
  | .yield h => Sys2Proof.Machine.execYield h s
  | .sleep h => Sys2Proof.Machine.execSleep h s
  | .wake h => Sys2Proof.Machine.execWake h s
  | .prio h => Sys2Proof.Machine.execPrio h s
  | .timer h => Sys2Proof.Machine.execTimer h s
  | .next h => Sys2Proof.Machine.execNext h s
  | .resume h => Sys2Proof.Machine.execResume h s
  | .msgrd h => Sys2Proof.Machine.execMsgrd h s
  | .cload h => Sys2Proof.Machine.execCload h s
  | .tidle h => Sys2Proof.Machine.execTidle h s
  | .rdcyc h => Sys2Proof.Machine.execRdcyc h s
  | .fmt h => Sys2Proof.Machine.execFmt h s
  | .mode h => Sys2Proof.Machine.execMode h s
  | .dom h d => Sys2Proof.Machine.execDom h d s
  | .tid h k => Sys2Proof.Machine.execTid h k s
  | .flags h => Sys2Proof.Machine.execFlags h s
  | .sleepd h => Sys2Proof.Machine.execSleepd h s
  | .eret h => Sys2Proof.Machine.execEret h s
  | .cause h => Sys2Proof.Machine.execCause h s
  | .tlbinv h m => Sys2Proof.Machine.execTlbinv h m s
  | .tlbinvas h m => Sys2Proof.Machine.execTlbinvas h m s
  | .mapfence h m => Sys2Proof.Machine.execMapfence h m s
  | .asid h => Sys2Proof.Machine.execAsid h s
  | .bank h => Sys2Proof.Machine.execBank h s
  | .shcap h => Sys2Proof.Machine.execShcap h s
  | .shset h => Sys2Proof.Machine.execShset h s
  | .errst h => Sys2Proof.Machine.execErrst h s
  | .stmr h => Sys2Proof.Machine.execStmr h s
  | .dgrd h => Sys2Proof.Machine.execDgrd h s
  | .dgclr h => Sys2Proof.Machine.execDgclr h s
  | .logon h => Sys2Proof.Machine.execLogon h s
  | .logoff h => Sys2Proof.Machine.execLogoff h s
  | .gateon h => Sys2Proof.Machine.execGateon h s
  | .gateoff h => Sys2Proof.Machine.execGateoff h s
  | .logst h => Sys2Proof.Machine.execLogst h s
  | .perstDeassert => Sys2Proof.Machine.execPerstDeassert s
  | .portTrained => Sys2Proof.Machine.execPortTrained s
  | .fwcmdActivate => Sys2Proof.Machine.execFwcmdActivate s
  | .memoryTraining => Sys2Proof.Machine.execMemoryTraining s
  | .controlLoad => Sys2Proof.Machine.execControlLoad s
  | .tileSelfTest => Sys2Proof.Machine.execTileSelfTest s
  | .bootReady => Sys2Proof.Machine.execBootReady s
  | .fwcmdReload => Sys2Proof.Machine.execFwcmdReload s
  | .clusterReload => Sys2Proof.Machine.execClusterReload s
  | .fwcmdEndReload => Sys2Proof.Machine.execFwcmdEndReload s
  | .transferCommand => Sys2Proof.Machine.execTransferCommand s
  | .getVersion => Sys2Proof.Machine.execGetVersion s
  | .getCapabilities => Sys2Proof.Machine.execGetCapabilities s
  | .negotiateAlgorithms => Sys2Proof.Machine.execNegotiateAlgorithms s
  | .getDigests => Sys2Proof.Machine.execGetDigests s
  | .getCertificate => Sys2Proof.Machine.execGetCertificate s
  | .challenge => Sys2Proof.Machine.execChallenge s
  | .getMeasurements => Sys2Proof.Machine.execGetMeasurements s
  | .registerWrite => Sys2Proof.Machine.execRegisterWrite s
  | .reservedAccess => Sys2Proof.Machine.execReservedAccess s
  | .bar2Access => Sys2Proof.Machine.execBar2Access s
  | .pwrcapWrite => Sys2Proof.Machine.execPwrcapWrite s
  | .capDeadline => Sys2Proof.Machine.execCapDeadline s
  | .junctionOvertemp => Sys2Proof.Machine.execJunctionOvertemp s
  | .queueCreate => Sys2Proof.Machine.execQueueCreate s
  | .queueDestroy => Sys2Proof.Machine.execQueueDestroy s
  | .queueDestroyComplete => Sys2Proof.Machine.execQueueDestroyComplete s
  | .queueResume => Sys2Proof.Machine.execQueueResume s
  | .queueAbort => Sys2Proof.Machine.execQueueAbort s
  | .notifyWrite => Sys2Proof.Machine.execNotifyWrite s
  | .queueMap => Sys2Proof.Machine.execQueueMap s
  | .recordRead => Sys2Proof.Machine.execRecordRead s
  | .launchPlacement => Sys2Proof.Machine.execLaunchPlacement s
  | .place => Sys2Proof.Machine.execPlace s
  | .placed => Sys2Proof.Machine.execPlaced s
  | .nofit => Sys2Proof.Machine.execNofit s
  | .start => Sys2Proof.Machine.execStart s
  | .triggered => Sys2Proof.Machine.execTriggered s
  | .halted => Sys2Proof.Machine.execHalted s
  | .completionWrite => Sys2Proof.Machine.execCompletionWrite s
  | .preempt => Sys2Proof.Machine.execPreempt s
  | .release => Sys2Proof.Machine.execRelease s
  | .fault => Sys2Proof.Machine.execFault s
  | .schedulerTakeover => Sys2Proof.Machine.execSchedulerTakeover s
  | .stageLaunch => Sys2Proof.Machine.execStageLaunch s
  | .switchTick => Sys2Proof.Machine.execSwitchTick s
  | .switchToken => Sys2Proof.Machine.execSwitchToken s
  | .quadCondemn => Sys2Proof.Machine.execQuadCondemn s
  | .columnShift => Sys2Proof.Machine.execColumnShift s
  | .dieFence => Sys2Proof.Machine.execDieFence s
  | .laneRepair => Sys2Proof.Machine.execLaneRepair s
  | .linkRetrainEnd => Sys2Proof.Machine.execLinkRetrainEnd s
  | .pseudoChannelSpare => Sys2Proof.Machine.execPseudoChannelSpare s
  | .spareCopyEnd => Sys2Proof.Machine.execSpareCopyEnd s
  | .bundleIssue => Sys2Proof.Machine.execBundleIssue s
  | .parityRefetch => Sys2Proof.Machine.execParityRefetch s
  | .freeRunningLanding => Sys2Proof.Machine.execFreeRunningLanding s
  | .dataLockedLanding => Sys2Proof.Machine.execDataLockedLanding s
  | .loopPassEnd => Sys2Proof.Machine.execLoopPassEnd s
  | .idleEnd => Sys2Proof.Machine.execIdleEnd s
  | .fmtTakesEffect => Sys2Proof.Machine.execFmtTakesEffect s
  | .fillerCommit => Sys2Proof.Machine.execFillerCommit s
  | .scrubRead => Sys2Proof.Machine.execScrubRead s
  | .mxOpStart => Sys2Proof.Machine.execMxOpStart s
  | .mxOpEnd => Sys2Proof.Machine.execMxOpEnd s
  | .dmCompletion => Sys2Proof.Machine.execDmCompletion s
  | .translationWalk => Sys2Proof.Machine.execTranslationWalk s
  | .dUpdate => Sys2Proof.Machine.execDUpdate s
  | .resolveRewalk => Sys2Proof.Machine.execResolveRewalk s
  | .resolveFail => Sys2Proof.Machine.execResolveFail s
  | .fqtailWrite => Sys2Proof.Machine.execFqtailWrite s
  | .accessRetry => Sys2Proof.Machine.execAccessRetry s
  | .migrate => Sys2Proof.Machine.execMigrate s
  | .replicate => Sys2Proof.Machine.execReplicate s
  | .collapse => Sys2Proof.Machine.execCollapse s
  | .migrationStep => Sys2Proof.Machine.execMigrationStep s
  | .atomicArrival => Sys2Proof.Machine.execAtomicArrival s
  | .gateTimeout => Sys2Proof.Machine.execGateTimeout s
  | .watchRecheck => Sys2Proof.Machine.execWatchRecheck s
  | .eutasPacketReceive => Sys2Proof.Machine.execEutasPacketReceive s
  | .eutasRetransmit => Sys2Proof.Machine.execEutasRetransmit s
  | .peerLoss => Sys2Proof.Machine.execPeerLoss s
  | .windowStart => Sys2Proof.Machine.execWindowStart s
  | .windowEnd => Sys2Proof.Machine.execWindowEnd s
  | .packetArrival => Sys2Proof.Machine.execPacketArrival s
  | .packetRetry => Sys2Proof.Machine.execPacketRetry s
  | .kilnChildArrival => Sys2Proof.Machine.execKilnChildArrival s
  | .bellRing => Sys2Proof.Machine.execBellRing s
  | .bellRelease => Sys2Proof.Machine.execBellRelease s
  | .tagWaitComplete => Sys2Proof.Machine.execTagWaitComplete s
  | .taskSwitchOut => Sys2Proof.Machine.execTaskSwitchOut s
  | .timerUnit => Sys2Proof.Machine.execTimerUnit s
  | .messageAccept => Sys2Proof.Machine.execMessageAccept s
  | .contextArrival => Sys2Proof.Machine.execContextArrival s
  | .clusterLoadWrite => Sys2Proof.Machine.execClusterLoadWrite s
  | .spawnCreateEnd => Sys2Proof.Machine.execSpawnCreateEnd s
  | .taskSaveEnd => Sys2Proof.Machine.execTaskSaveEnd s
  | .taskLoadEnd => Sys2Proof.Machine.execTaskLoadEnd s
  | .completionNotice => Sys2Proof.Machine.execCompletionNotice s
  | .tileSleep => Sys2Proof.Machine.execTileSleep s
  | .tileWake => Sys2Proof.Machine.execTileWake s
  | .supervisorEntry => Sys2Proof.Machine.execSupervisorEntry s
  | .supervisorTimerExpiry => Sys2Proof.Machine.execSupervisorTimerExpiry s
  | .debugHaltRequest => Sys2Proof.Machine.execDebugHaltRequest s
  | .debugRelease => Sys2Proof.Machine.execDebugRelease s
  | .preemptHalt => Sys2Proof.Machine.execPreemptHalt s
  | .preemptSave => Sys2Proof.Machine.execPreemptSave s
  | .restore => Sys2Proof.Machine.execRestore s
  | .errorCounterHalving => Sys2Proof.Machine.execErrorCounterHalving s
  | .tileDrained => Sys2Proof.Machine.execTileDrained s
  | .moduleReset => Sys2Proof.Machine.execModuleReset s
  | .peerReachableAgain => Sys2Proof.Machine.execPeerReachableAgain s
  | .cxlPortRetraining => Sys2Proof.Machine.execCxlPortRetraining s

end Sys2Proof.Machine
end

