-- ==== Sys2Proof/Machine/Step.lean ====
section
/-! DEFINITION. The step of the module: a scheduled event, an event that is due, the bundle of a tile in turn, or the next tick; and the placing of one instruction for the next step. -/

namespace Sys2Proof.Machine

/-- Is the row an event of an agent, not a move? -/
def isEvent (i : Instr) : Bool :=
  match i.form with
  | .event => true
  | .move _ | .trig _ _ _ _ => false

/-- The first scheduled event whose tick has come, and the others. -/
def takeAgenda (now : Nat) : List (Nat × Instr × EvArg) → Option ((Instr × EvArg) × List (Nat × Instr × EvArg))
  | [] => none
  | e :: r =>
    if e.1 ≤ now then some (e.2, r)
    else
      match takeAgenda now r with
      | some (x, r') => some (x, e :: r')
      | none => none

/-- The turn of the tile in `cur`: a bundle of one move is that instruction; every other bundle is BUNDLE_ISSUE. -/
def serveTurn (s : State) : Host.Outcome State Fault Refusal :=
  let t := s.self
  let ev : EvArg := { tile := s.cur }
  if t.asleep then exec .tileWake { s with ev := ev }
  else if (t.bank t.run).idle = 1 then exec .idleEnd { s with ev := ev }
  else if (t.bank t.run).idle ≠ 0 ∨ (t.run = 3 ∧ (s.quadAt s.cur).store = []) then exec .bundleIssue { s with ev := ev }
  else
    match s.fetch s.issuer with
    | .ok [(bus, i, _)] lis len => exec i (s.latch lis len bus)
    | .ok _ _ _ | .bad _ _ | .parity => exec .bundleIssue { s with ev := ev }

/-- ONE STEP of the module. -/
def step (s : State) : Host.Outcome State Fault Refusal :=
  match takeAgenda s.tick s.agenda with
  | some ((i, e), rest) =>
    if isEvent i then exec i { s with agenda := rest, ev := e } else .fault .agendaMove
  | none =>
    match s.due with
    | some (i, e) => exec i { s with ev := e }
    | none =>
      match s.turn with
      | a :: rest =>
        let s := { s with turn := rest, cur := a }
        if s.hasTurn s.self then serveTurn s else .next s
      | [] => .next s.nextTick

/-- Is the move one of a supervisor port, which only bank3 may use (R104)? -/
def needsSupervisor (w : Word) : Bool :=
  match decodeMove true 3 w with
  | .ok i => touches i
  | .error _ => false

/-- The state with one instruction as the next bundle of tile 0: a header for bus 0 and three long immediates of zero, in the code of the strand that the tile runs; bank3 for a supervisor port. -/
def State.withFetchWord (s : State) (_nbits w : Nat) : State :=
  let word : Word := BitVec.ofNat 32 w
  let sup := needsSupervisor word
  let code : List Word := [0x01C00000, word, 0, 0, 0]
  let q := s.quadAt 0
  let q : Quad := if sup then { q with store := code, ganged := false } else { q with active := code, ganged := false }
  let k : BitVec 2 := if sup then 3 else 0
  let t := s.tileAt 0
  let t : Tile := { t with
    role := some 0, codeStart := 0, codeLen := 20, run := k, asleep := false, frozen := false, refetch := false
    ready := 0, supOp := none, pend := [] }
  let t := t.onBank k fun b =>
    { b with pc := 0, life := .live, idle := 0, levels := [], passEnd := false, flight := [], fmtDue := false }
  { (s.setQuad { q with addr := 0, badCode := [], badStore := [] }).setTile { t with addr := 0 } with
    turn := [0], agenda := [], cur := 0 }

end Sys2Proof.Machine
end

