-- ==== Sys2Proof/Laws/Encoding.lean ====
section
/-! SUPPORT. Modifier codes, sources and fields: what the encoder writes, the decoder reads back. -/

namespace Sys2Proof.Laws.Encoding

open Sys2Proof

/-! ## Modifiers (Table 5.4) -/

theorem decodeT_encode (s : TypeSet) (m : TMod) : decodeT (encodeMod (.t s m)) = m := by
  cases m with
  | flt f r =>
    show decodeT (encodeFmt f ++ encodeRnd r) = _
    cases f <;> cases r <;> decide
  | int n z =>
    show decodeT (3#2 ++ BitVec.ofBool n ++ encodeSize z) = _
    cases n <;> cases z <;> decide

theorem build_z (mk : Head → Instr) (h : Head) : (TrigPort.z mk).build h (encodeMod .z) = some (mk h) := by
  show (if (0 : BitVec 5) = 0 then some (mk h) else none) = _
  exact if_pos rfl

theorem build_w (mk : Head → Width → Instr) (h : Head) (w : Width) : (TrigPort.w mk).build h (encodeMod (.w w)) = some (mk h w) := by
  cases w
  · show (if (0 : BitVec 5) = 0 then some (mk h .w32) else if (0 : BitVec 5) = 1 then some (mk h .w64) else none) = _
    exact if_pos rfl
  · show (if (1 : BitVec 5) = 0 then some (mk h .w32) else if (1 : BitVec 5) = 1 then some (mk h .w64) else none) = _
    exact (if_neg (by decide)).trans (if_pos rfl)

theorem build_t (mk : Head → TMod → Instr) (h : Head) (s : TypeSet) (m : TMod) :
    (TrigPort.t mk).build h (encodeMod (.t s m)) = some (mk h m) :=
  congrArg (fun x => some (mk h x)) (decodeT_encode s m)

theorem build_c (mk : Head → CMod → Instr) (h : Head) (m : CMod) : (TrigPort.c mk).build h (encodeMod (.c m)) = some (mk h m) := by
  have e : ({ ty := decodeCType ((encodeCType m.ty ++ BitVec.ofBool m.sat).extractLsb' 1 4).toNat,
              sat := (encodeCType m.ty ++ BitVec.ofBool m.sat).getLsbD 0 } : CMod) = m := by
    obtain ⟨t, s⟩ := m
    cases t with
    | int n z => cases n <;> cases z <;> cases s <;> decide
    | flt f => cases f <;> cases s <;> decide
    | code4 => cases s <;> decide
    | code8 => cases s <;> decide
  exact congrArg (fun x => some (mk h x)) e

theorem build_l (mk : Head → LMod → Instr) (h : Head) (b : Bool) (m : LMod) :
    (TrigPort.l mk).build h (encodeMod (.l b m)) = some (mk h m) := by
  have e : ({ layout := decodeLayout ((encodeLayout m.layout ++ BitVec.ofBool m.natural ++ encodeSize m.size).extractLsb' 3 2),
              natural := (encodeLayout m.layout ++ BitVec.ofBool m.natural ++ encodeSize m.size).getLsbD 2,
              size := decodeSize ((encodeLayout m.layout ++ BitVec.ofBool m.natural ++ encodeSize m.size).extractLsb' 0 2) } : LMod)
      = m := by
    obtain ⟨l, n, z⟩ := m
    cases l <;> cases n <;> cases z <;> decide
  exact congrArg (fun x => some (mk h x)) e

theorem build_lv (mk : Head → Layout → Instr) (h : Head) (l : Layout) :
    (TrigPort.lv mk).build h (encodeMod (.lv l)) = some (mk h l) := by
  have e : (encodeLayout l ++ 0#3).extractLsb' 0 3 = (0 : BitVec 3) ∧ decodeLayout ((encodeLayout l ++ 0#3).extractLsb' 3 2) = l := by
    cases l <;> decide
  show (if (encodeLayout l ++ 0#3).extractLsb' 0 3 = (0 : BitVec 3)
    then some (mk h (decodeLayout ((encodeLayout l ++ 0#3).extractLsb' 3 2))) else none) = _
  rw [if_pos e.1, e.2]

theorem build_m (mk : Head → MMod → Instr) (h : Head) (s : OrderSet) (m : MMod) :
    (TrigPort.m mk).build h (encodeMod (.m s m)) = some (mk h m) := by
  have e : decodeScope ((encodeOrder m.order ++ encodeScope m.scope).extractLsb' 0 3).toNat = some m.scope
      ∧ decodeOrder ((encodeOrder m.order ++ encodeScope m.scope).extractLsb' 3 2) = m.order := by
    obtain ⟨o, c⟩ := m
    cases o <;> cases c <;> decide
  show (match decodeScope ((encodeOrder m.order ++ encodeScope m.scope).extractLsb' 0 3).toNat with
    | some sc => some (mk h { order := decodeOrder ((encodeOrder m.order ++ encodeScope m.scope).extractLsb' 3 2), scope := sc })
    | none => none) = _
  rw [e.1, e.2]

theorem bits3 : ∀ x : BitVec 3, ((x.setWidth 5).extractLsb' 3 2 = (0 : BitVec 2)) ∧ (x.setWidth 5).extractLsb' 0 3 = x := by decide
theorem bits4 : ∀ x : BitVec 4, ((x.setWidth 5).extractLsb' 4 1 = (0 : BitVec 1)) ∧ (x.setWidth 5).extractLsb' 0 4 = x := by decide
theorem bits2 : ∀ x : BitVec 2, ((x.setWidth 5).extractLsb' 2 3 = (0 : BitVec 3)) ∧ (x.setWidth 5).extractLsb' 0 2 = x := by decide

theorem build_d (mk : Head → BitVec 3 → Instr) (h : Head) (x : BitVec 3) :
    (TrigPort.d mk).build h (encodeMod (.d x)) = some (mk h x) := by
  have hx := bits3 x
  show (if (x.setWidth 5).extractLsb' 3 2 = (0 : BitVec 2) then some (mk h ((x.setWidth 5).extractLsb' 0 3)) else none) = _
  rw [if_pos hx.1, hx.2]

theorem build_r (mk : Head → BitVec 3 → Instr) (h : Head) (x : BitVec 3) :
    (TrigPort.r mk).build h (encodeMod (.r x)) = some (mk h x) := build_d mk h x

theorem build_k (mk : Head → BitVec 4 → Instr) (h : Head) (n : Nat) (x : BitVec 4) :
    (TrigPort.k mk).build h (encodeMod (.k n x)) = some (mk h x) := by
  have hx := bits4 x
  show (if (x.setWidth 5).extractLsb' 4 1 = (0 : BitVec 1) then some (mk h ((x.setWidth 5).extractLsb' 0 4)) else none) = _
  rw [if_pos hx.1, hx.2]

theorem build_p (mk : Head → BitVec 5 → Instr) (h : Head) (x : BitVec 5) : (TrigPort.p mk).build h (encodeMod (.p x)) = some (mk h x) := rfl

theorem build_a (mk : Head → BitVec 2 → Instr) (h : Head) (x : BitVec 2) :
    (TrigPort.a mk).build h (encodeMod (.a x)) = some (mk h x) := by
  have hx := bits2 x
  show (if (x.setWidth 5).extractLsb' 2 3 = (0 : BitVec 3) then some (mk h ((x.setWidth 5).extractLsb' 0 2)) else none) = _
  rw [if_pos hx.1, hx.2]

/-! ## Sources and destinations -/

theorem sockOf_num (s : Sock) : sockOf (BitVec.ofNat 6 s.num).toNat = some s := by cases s <;> decide

theorem extract_append {n m : Nat} (a : BitVec n) (b : BitVec m) :
    (a ++ b).extractLsb' m n = a ∧ (a ++ b).extractLsb' 0 m = b := by
  constructor
  · ext i hi
    have h1 : ¬ m + i < m := by omega
    have h2 : m + i - m = i := by omega
    simp only [BitVec.getElem_extractLsb', BitVec.getLsbD_append, h1, h2, if_false]
    exact (BitVec.getLsbD_eq_getElem hi)
  · ext i hi
    simp only [BitVec.getElem_extractLsb', BitVec.getLsbD_append, Nat.zero_add, hi, if_true]
    exact (BitVec.getLsbD_eq_getElem hi)

theorem sourceOf_encode (s : Src) (h : s.wf = true) (hi : ∀ v, s ≠ .imm v) :
    sourceOf ((encodeSrc s).2.extractLsb' 5 6) ((encodeSrc s).2.extractLsb' 0 5) = some s := by
  have he : ∀ (a : BitVec 6) (b : BitVec 5), (a ++ b).extractLsb' 5 6 = a ∧ (a ++ b).extractLsb' 0 5 = b := by
    exact fun a b => extract_append a b
  cases s with
  | imm v => exact absurd rfl (hi v)
  | grf n => simp only [encodeSrc, (he _ _).1, (he _ _).2]; rfl
  | vrf n => simp only [encodeSrc, (he _ _).1, (he _ _).2]; rfl
  | brf n =>
    simp only [encodeSrc, (he _ _).1, (he _ _).2]
    revert n; decide
  | resX s => simp only [encodeSrc, (he _ _).1, (he _ _).2]; cases s <;> decide
  | resY s => simp only [encodeSrc, (he _ _).1, (he _ _).2]; cases s <;> decide
  | resS s => simp only [encodeSrc, (he _ _).1, (he _ _).2]; cases s <;> decide
  | li j =>
    simp only [encodeSrc, (he _ _).1, (he _ _).2]
    revert h; revert j; decide

/-- A slice of an upper part, and of a lower part, of a joined word. -/
theorem extract_high {n m : Nat} (a : BitVec n) (b : BitVec m) (k w : Nat) :
    (a ++ b).extractLsb' (m + k) w = a.extractLsb' k w := by
  ext i hi
  have h1 : ¬ m + k + i < m := by omega
  have h2 : m + k + i - m = k + i := by omega
  simp only [BitVec.getElem_extractLsb', BitVec.getLsbD_append, h1, h2, if_false]

theorem extract_low {n m : Nat} (a : BitVec n) (b : BitVec m) (k w : Nat) (h : k + w ≤ m) :
    (a ++ b).extractLsb' k w = b.extractLsb' k w := by
  ext i hi
  have h1 : k + i < m := by omega
  simp only [BitVec.getElem_extractLsb', BitVec.getLsbD_append, h1, if_true]

/-- A bit of an upper part of a joined word. -/
theorem bit_high {n m : Nat} (a : BitVec n) (b : BitVec m) (k : Nat) : (a ++ b).getLsbD (m + k) = a.getLsbD k := by
  rw [BitVec.getLsbD_append, if_neg (by omega), Nat.add_sub_cancel_left]

theorem extract_self {n : Nat} (a : BitVec n) : a.extractLsb' 0 n = a := by
  ext i hi
  simp only [BitVec.getElem_extractLsb', Nat.zero_add]
  exact BitVec.getLsbD_eq_getElem hi

/-- The fields of a word that was joined from them (Table 5.2). -/
theorem split_join (f : Fields) : Fields.split f.join = f := by
  obtain ⟨g, i, v, s, p, m⟩ := f
  have h5 : Fields.join ⟨g, i, v, s, p, m⟩ = g ++ BitVec.ofBool i ++ v ++ s ++ p ++ m := rfl
  simp only [Fields.split, h5, Fields.mk.injEq]
  refine ⟨?_, ?_, ?_, ?_, ?_, ?_⟩
  · rw [extract_high (m := 5) _ m 23, extract_high (m := 5) _ p 18, extract_high (m := 6) _ s 12,
      extract_high (m := 11) _ v 1, extract_high (m := 1) g _ 0, extract_self]
  · rw [bit_high (m := 5) _ m 22, bit_high (m := 5) _ p 17, bit_high (m := 6) _ s 11, bit_high (m := 11) _ v 0]
    exact (BitVec.getLsbD_append ..).trans (by cases i <;> rfl)
  · rw [extract_high (m := 5) _ m 11, extract_high (m := 5) _ p 6, extract_high (m := 6) _ s 0, extract_low _ v 0 11 (by omega), extract_self]
  · rw [extract_high (m := 5) _ m 5, extract_high (m := 5) _ p 0, extract_low _ s 0 6 (by omega), extract_self]
  · rw [extract_high (m := 5) _ m 0, extract_low _ p 0 5 (by omega), extract_self]
  · rw [extract_low _ m 0 5 (by omega), extract_self]

end Sys2Proof.Laws.Encoding
end

