-- ==== Sys2Proof/Laws/PerInstr.lean ====
section
/-! SUPPORT. The family Encoding: the trigger port and the modifier code of an instruction build that instruction again. -/

namespace Sys2Proof.Laws.Encoding

open Sys2Proof

/-- The port of Table 5.6 that the encoder writes for an instruction, with the modifier code it writes, builds the instruction; an event has no word. -/
def Statement (i : Instr) : Prop :=
  match i.form with
  | .event => encode i = none
  | .move _ => (encode i).isSome = true
  | .trig h s p md => md.accepted = true → ∃ q, trigPort s p.toNat = some q ∧ q.build h (encodeMod md) = some i

theorem move (m : Transport) : Statement (.move m) := by cases m <;> rfl
theorem jmp (h : Head) : Statement (.jmp h) := fun _ => ⟨_, rfl, build_z ..⟩
theorem jmpr (h : Head) : Statement (.jmpr h) := fun _ => ⟨_, rfl, build_z ..⟩
theorem call (h : Head) : Statement (.call h) := fun _ => ⟨_, rfl, build_z ..⟩
theorem callr (h : Head) : Statement (.callr h) := fun _ => ⟨_, rfl, build_z ..⟩
theorem ret (h : Head) : Statement (.ret h) := fun _ => ⟨_, rfl, build_z ..⟩
theorem loop (h : Head) : Statement (.loop h) := fun _ => ⟨_, rfl, build_z ..⟩
theorem loopx (h : Head) : Statement (.loopx h) := fun _ => ⟨_, rfl, build_z ..⟩
theorem idle (h : Head) : Statement (.idle h) := fun _ => ⟨_, rfl, build_z ..⟩
theorem halt (h : Head) : Statement (.halt h) := fun _ => ⟨_, rfl, build_z ..⟩
theorem trap (h : Head) : Statement (.trap h) := fun _ => ⟨_, rfl, build_z ..⟩
theorem gang (h : Head) : Statement (.gang h) := fun _ => ⟨_, rfl, build_z ..⟩
theorem split (h : Head) : Statement (.split h) := fun _ => ⟨_, rfl, build_z ..⟩
theorem brk (h : Head) : Statement (.brk h) := fun _ => ⟨_, rfl, build_z ..⟩
theorem add (h : Head) (u : Alu) (w : Width) : Statement (.add h u w) := by cases u <;> exact fun _ => ⟨_, rfl, build_w ..⟩
theorem sub (h : Head) (u : Alu) (w : Width) : Statement (.sub h u w) := by cases u <;> exact fun _ => ⟨_, rfl, build_w ..⟩
theorem and (h : Head) (u : Alu) (w : Width) : Statement (.and h u w) := by cases u <;> exact fun _ => ⟨_, rfl, build_w ..⟩
theorem or (h : Head) (u : Alu) (w : Width) : Statement (.or h u w) := by cases u <;> exact fun _ => ⟨_, rfl, build_w ..⟩
theorem xor (h : Head) (u : Alu) (w : Width) : Statement (.xor h u w) := by cases u <;> exact fun _ => ⟨_, rfl, build_w ..⟩
theorem andn (h : Head) (u : Alu) (w : Width) : Statement (.andn h u w) := by cases u <;> exact fun _ => ⟨_, rfl, build_w ..⟩
theorem orn (h : Head) (u : Alu) (w : Width) : Statement (.orn h u w) := by cases u <;> exact fun _ => ⟨_, rfl, build_w ..⟩
theorem min (h : Head) (u : Alu) (w : Width) : Statement (.min h u w) := by cases u <;> exact fun _ => ⟨_, rfl, build_w ..⟩
theorem max (h : Head) (u : Alu) (w : Width) : Statement (.max h u w) := by cases u <;> exact fun _ => ⟨_, rfl, build_w ..⟩
theorem minn (h : Head) (u : Alu) (w : Width) : Statement (.minn h u w) := by cases u <;> exact fun _ => ⟨_, rfl, build_w ..⟩
theorem maxn (h : Head) (u : Alu) (w : Width) : Statement (.maxn h u w) := by cases u <;> exact fun _ => ⟨_, rfl, build_w ..⟩
theorem abs (h : Head) (u : Alu) (w : Width) : Statement (.abs h u w) := by cases u <;> exact fun _ => ⟨_, rfl, build_w ..⟩
theorem neg (h : Head) (u : Alu) (w : Width) : Statement (.neg h u w) := by cases u <;> exact fun _ => ⟨_, rfl, build_w ..⟩
theorem ceq (h : Head) (u : Alu) (w : Width) : Statement (.ceq h u w) := by cases u <;> exact fun _ => ⟨_, rfl, build_w ..⟩
theorem cne (h : Head) (u : Alu) (w : Width) : Statement (.cne h u w) := by cases u <;> exact fun _ => ⟨_, rfl, build_w ..⟩
theorem clt (h : Head) (u : Alu) (w : Width) : Statement (.clt h u w) := by cases u <;> exact fun _ => ⟨_, rfl, build_w ..⟩
theorem cle (h : Head) (u : Alu) (w : Width) : Statement (.cle h u w) := by cases u <;> exact fun _ => ⟨_, rfl, build_w ..⟩
theorem cltn (h : Head) (u : Alu) (w : Width) : Statement (.cltn h u w) := by cases u <;> exact fun _ => ⟨_, rfl, build_w ..⟩
theorem clen (h : Head) (u : Alu) (w : Width) : Statement (.clen h u w) := by cases u <;> exact fun _ => ⟨_, rfl, build_w ..⟩
theorem sel (h : Head) (u : Alu) (w : Width) : Statement (.sel h u w) := by cases u <;> exact fun _ => ⟨_, rfl, build_w ..⟩
theorem lea (h : Head) (u : Alu) (w : Width) : Statement (.lea h u w) := by cases u <;> exact fun _ => ⟨_, rfl, build_w ..⟩
theorem addsat (h : Head) (u : Alu) (w : Width) : Statement (.addsat h u w) := by cases u <;> exact fun _ => ⟨_, rfl, build_w ..⟩
theorem subsat (h : Head) (u : Alu) (w : Width) : Statement (.subsat h u w) := by cases u <;> exact fun _ => ⟨_, rfl, build_w ..⟩
theorem tst (h : Head) (u : Alu) (w : Width) : Statement (.tst h u w) := by cases u <;> exact fun _ => ⟨_, rfl, build_w ..⟩
theorem shl (h : Head) (w : Width) : Statement (.shl h w) := fun _ => ⟨_, rfl, build_w ..⟩
theorem shr (h : Head) (w : Width) : Statement (.shr h w) := fun _ => ⟨_, rfl, build_w ..⟩
theorem sar (h : Head) (w : Width) : Statement (.sar h w) := fun _ => ⟨_, rfl, build_w ..⟩
theorem rol (h : Head) (w : Width) : Statement (.rol h w) := fun _ => ⟨_, rfl, build_w ..⟩
theorem ror (h : Head) (w : Width) : Statement (.ror h w) := fun _ => ⟨_, rfl, build_w ..⟩
theorem clz (h : Head) (w : Width) : Statement (.clz h w) := fun _ => ⟨_, rfl, build_w ..⟩
theorem ctz (h : Head) (w : Width) : Statement (.ctz h w) := fun _ => ⟨_, rfl, build_w ..⟩
theorem popc (h : Head) (w : Width) : Statement (.popc h w) := fun _ => ⟨_, rfl, build_w ..⟩
theorem brev (h : Head) (w : Width) : Statement (.brev h w) := fun _ => ⟨_, rfl, build_w ..⟩
theorem bswap (h : Head) (w : Width) : Statement (.bswap h w) := fun _ => ⟨_, rfl, build_w ..⟩
theorem extz (h : Head) (w : Width) : Statement (.extz h w) := fun _ => ⟨_, rfl, build_w ..⟩
theorem exts (h : Head) (w : Width) : Statement (.exts h w) := fun _ => ⟨_, rfl, build_w ..⟩
theorem ins (h : Head) (w : Width) : Statement (.ins h w) := fun _ => ⟨_, rfl, build_w ..⟩
theorem crc (h : Head) (w : Width) : Statement (.crc h w) := fun _ => ⟨_, rfl, build_w ..⟩
theorem mul (h : Head) (w : Width) : Statement (.mul h w) := fun _ => ⟨_, rfl, build_w ..⟩
theorem mulh (h : Head) (w : Width) : Statement (.mulh h w) := fun _ => ⟨_, rfl, build_w ..⟩
theorem mulhn (h : Head) (w : Width) : Statement (.mulhn h w) := fun _ => ⟨_, rfl, build_w ..⟩
theorem mac (h : Head) (w : Width) : Statement (.mac h w) := fun _ => ⟨_, rfl, build_w ..⟩
theorem div (h : Head) (w : Width) : Statement (.div h w) := fun _ => ⟨_, rfl, build_w ..⟩
theorem divn (h : Head) (w : Width) : Statement (.divn h w) := fun _ => ⟨_, rfl, build_w ..⟩
theorem rem (h : Head) (w : Width) : Statement (.rem h w) := fun _ => ⟨_, rfl, build_w ..⟩
theorem remn (h : Head) (w : Width) : Statement (.remn h w) := fun _ => ⟨_, rfl, build_w ..⟩
theorem fadd (h : Head) (m : TMod) : Statement (.fadd h m) := fun _ => ⟨_, rfl, build_t ..⟩
theorem fsub (h : Head) (m : TMod) : Statement (.fsub h m) := fun _ => ⟨_, rfl, build_t ..⟩
theorem fmul (h : Head) (m : TMod) : Statement (.fmul h m) := fun _ => ⟨_, rfl, build_t ..⟩
theorem fma (h : Head) (m : TMod) : Statement (.fma h m) := fun _ => ⟨_, rfl, build_t ..⟩
theorem fnma (h : Head) (m : TMod) : Statement (.fnma h m) := fun _ => ⟨_, rfl, build_t ..⟩
theorem fmin (h : Head) (m : TMod) : Statement (.fmin h m) := fun _ => ⟨_, rfl, build_t ..⟩
theorem fmax (h : Head) (m : TMod) : Statement (.fmax h m) := fun _ => ⟨_, rfl, build_t ..⟩
theorem fabs (h : Head) (m : TMod) : Statement (.fabs h m) := fun _ => ⟨_, rfl, build_t ..⟩
theorem fneg (h : Head) (m : TMod) : Statement (.fneg h m) := fun _ => ⟨_, rfl, build_t ..⟩
theorem fcpsgn (h : Head) (m : TMod) : Statement (.fcpsgn h m) := fun _ => ⟨_, rfl, build_t ..⟩
theorem fceq (h : Head) (m : TMod) : Statement (.fceq h m) := fun _ => ⟨_, rfl, build_t ..⟩
theorem fclt (h : Head) (m : TMod) : Statement (.fclt h m) := fun _ => ⟨_, rfl, build_t ..⟩
theorem fcle (h : Head) (m : TMod) : Statement (.fcle h m) := fun _ => ⟨_, rfl, build_t ..⟩
theorem fclass (h : Head) (m : TMod) : Statement (.fclass h m) := fun _ => ⟨_, rfl, build_t ..⟩
theorem fcvt (h : Head) (m : TMod) : Statement (.fcvt h m) := fun _ => ⟨_, rfl, build_t ..⟩
theorem fcvtsi (h : Head) (m : TMod) : Statement (.fcvtsi h m) := fun _ => ⟨_, rfl, build_t ..⟩
theorem fcvtis (h : Head) (m : TMod) : Statement (.fcvtis h m) := fun _ => ⟨_, rfl, build_t ..⟩
theorem ex2 (h : Head) (m : TMod) : Statement (.ex2 h m) := fun _ => ⟨_, rfl, build_t ..⟩
theorem lg2 (h : Head) (m : TMod) : Statement (.lg2 h m) := fun _ => ⟨_, rfl, build_t ..⟩
theorem rcp (h : Head) (m : TMod) : Statement (.rcp h m) := fun _ => ⟨_, rfl, build_t ..⟩
theorem rsq (h : Head) (m : TMod) : Statement (.rsq h m) := fun _ => ⟨_, rfl, build_t ..⟩
theorem sqrt (h : Head) (m : TMod) : Statement (.sqrt h m) := fun _ => ⟨_, rfl, build_t ..⟩
theorem fdiv (h : Head) (m : TMod) : Statement (.fdiv h m) := fun _ => ⟨_, rfl, build_t ..⟩
theorem ex2Vec (h : Head) (m : TMod) : Statement (.ex2Vec h m) := fun _ => ⟨_, rfl, build_t ..⟩
theorem lg2Vec (h : Head) (m : TMod) : Statement (.lg2Vec h m) := fun _ => ⟨_, rfl, build_t ..⟩
theorem rcpVec (h : Head) (m : TMod) : Statement (.rcpVec h m) := fun _ => ⟨_, rfl, build_t ..⟩
theorem rsqVec (h : Head) (m : TMod) : Statement (.rsqVec h m) := fun _ => ⟨_, rfl, build_t ..⟩
theorem sqrtVec (h : Head) (m : TMod) : Statement (.sqrtVec h m) := fun _ => ⟨_, rfl, build_t ..⟩
theorem fdivVec (h : Head) (m : TMod) : Statement (.fdivVec h m) := fun _ => ⟨_, rfl, build_t ..⟩
theorem vadd (h : Head) (m : TMod) : Statement (.vadd h m) := fun _ => ⟨_, rfl, build_t ..⟩
theorem vsub (h : Head) (m : TMod) : Statement (.vsub h m) := fun _ => ⟨_, rfl, build_t ..⟩
theorem vmul (h : Head) (m : TMod) : Statement (.vmul h m) := fun _ => ⟨_, rfl, build_t ..⟩
theorem vfma (h : Head) (m : TMod) : Statement (.vfma h m) := fun _ => ⟨_, rfl, build_t ..⟩
theorem vfnma (h : Head) (m : TMod) : Statement (.vfnma h m) := fun _ => ⟨_, rfl, build_t ..⟩
theorem vmin (h : Head) (m : TMod) : Statement (.vmin h m) := fun _ => ⟨_, rfl, build_t ..⟩
theorem vmax (h : Head) (m : TMod) : Statement (.vmax h m) := fun _ => ⟨_, rfl, build_t ..⟩
theorem vabs (h : Head) (m : TMod) : Statement (.vabs h m) := fun _ => ⟨_, rfl, build_t ..⟩
theorem vneg (h : Head) (m : TMod) : Statement (.vneg h m) := fun _ => ⟨_, rfl, build_t ..⟩
theorem vceq (h : Head) (m : TMod) : Statement (.vceq h m) := fun _ => ⟨_, rfl, build_t ..⟩
theorem vclt (h : Head) (m : TMod) : Statement (.vclt h m) := fun _ => ⟨_, rfl, build_t ..⟩
theorem vcle (h : Head) (m : TMod) : Statement (.vcle h m) := fun _ => ⟨_, rfl, build_t ..⟩
theorem vsel (h : Head) (m : TMod) : Statement (.vsel h m) := fun _ => ⟨_, rfl, build_t ..⟩
theorem vand (h : Head) : Statement (.vand h) := fun _ => ⟨_, rfl, build_z ..⟩
theorem vor (h : Head) : Statement (.vor h) := fun _ => ⟨_, rfl, build_z ..⟩
theorem vxor (h : Head) : Statement (.vxor h) := fun _ => ⟨_, rfl, build_z ..⟩
theorem vshl (h : Head) (m : TMod) : Statement (.vshl h m) := fun _ => ⟨_, rfl, build_t ..⟩
theorem vshr (h : Head) (m : TMod) : Statement (.vshr h m) := fun _ => ⟨_, rfl, build_t ..⟩
theorem vsar (h : Head) (m : TMod) : Statement (.vsar h m) := fun _ => ⟨_, rfl, build_t ..⟩
theorem vsum (h : Head) (m : TMod) : Statement (.vsum h m) := fun _ => ⟨_, rfl, build_t ..⟩
theorem vhmax (h : Head) (m : TMod) : Statement (.vhmax h m) := fun _ => ⟨_, rfl, build_t ..⟩
theorem vscale (h : Head) (m : TMod) : Statement (.vscale h m) := fun _ => ⟨_, rfl, build_t ..⟩
theorem vperm (h : Head) (m : TMod) : Statement (.vperm h m) := fun _ => ⟨_, rfl, build_t ..⟩
theorem vshuf (h : Head) (m : TMod) : Statement (.vshuf h m) := fun _ => ⟨_, rfl, build_t ..⟩
theorem vbcast (h : Head) (m : TMod) : Statement (.vbcast h m) := fun _ => ⟨_, rfl, build_t ..⟩
theorem vext (h : Head) (m : TMod) : Statement (.vext h m) := fun _ => ⟨_, rfl, build_t ..⟩
theorem vins (h : Head) (m : TMod) : Statement (.vins h m) := fun _ => ⟨_, rfl, build_t ..⟩
theorem vcvt (h : Head) (m : CMod) : Statement (.vcvt h m) := fun _ => ⟨_, rfl, build_c ..⟩
theorem vpack (h : Head) (m : CMod) : Statement (.vpack h m) := fun _ => ⟨_, rfl, build_c ..⟩
theorem vunpk (h : Head) (m : CMod) : Statement (.vunpk h m) := fun _ => ⟨_, rfl, build_c ..⟩
theorem vcmprs (h : Head) (m : TMod) : Statement (.vcmprs h m) := fun _ => ⟨_, rfl, build_t ..⟩
theorem vlane (h : Head) (m : TMod) : Statement (.vlane h m) := fun _ => ⟨_, rfl, build_t ..⟩
theorem vrot (h : Head) (m : TMod) : Statement (.vrot h m) := fun _ => ⟨_, rfl, build_t ..⟩
theorem vmerge (h : Head) (m : TMod) : Statement (.vmerge h m) := fun _ => ⟨_, rfl, build_t ..⟩
theorem vmask (h : Head) (m : TMod) : Statement (.vmask h m) := fun _ => ⟨_, rfl, build_t ..⟩
theorem ld (h : Head) (m : LMod) : Statement (.ld h m) := fun _ => ⟨_, rfl, build_l ..⟩
theorem st (h : Head) (m : LMod) : Statement (.st h m) := fun _ => ⟨_, rfl, build_l ..⟩
theorem vld (h : Head) (l : Layout) : Statement (.vld h l) := fun _ => ⟨_, rfl, build_lv ..⟩
theorem vst (h : Head) (l : Layout) : Statement (.vst h l) := fun _ => ⟨_, rfl, build_lv ..⟩
theorem vldl (h : Head) (l : Layout) : Statement (.vldl h l) := fun _ => ⟨_, rfl, build_lv ..⟩
theorem vstl (h : Head) (l : Layout) : Statement (.vstl h l) := fun _ => ⟨_, rfl, build_lv ..⟩
theorem vgat (h : Head) (m : LMod) : Statement (.vgat h m) := fun _ => ⟨_, rfl, build_l ..⟩
theorem vsct (h : Head) (m : LMod) : Statement (.vsct h m) := fun _ => ⟨_, rfl, build_l ..⟩
theorem aadd (h : Head) (m : LMod) : Statement (.aadd h m) := fun _ => ⟨_, rfl, build_l ..⟩
theorem aswp (h : Head) (m : LMod) : Statement (.aswp h m) := fun _ => ⟨_, rfl, build_l ..⟩
theorem acas (h : Head) (m : LMod) : Statement (.acas h m) := fun _ => ⟨_, rfl, build_l ..⟩
theorem amin (h : Head) (m : LMod) : Statement (.amin h m) := fun _ => ⟨_, rfl, build_l ..⟩
theorem amax (h : Head) (m : LMod) : Statement (.amax h m) := fun _ => ⟨_, rfl, build_l ..⟩
theorem aor (h : Head) (m : LMod) : Statement (.aor h m) := fun _ => ⟨_, rfl, build_l ..⟩
theorem aand (h : Head) (m : LMod) : Statement (.aand h m) := fun _ => ⟨_, rfl, build_l ..⟩
theorem sopen (h : Head) (p : BitVec 5) : Statement (.sopen h p) := fun _ => ⟨_, rfl, build_p ..⟩
theorem sstep (h : Head) : Statement (.sstep h) := fun _ => ⟨_, rfl, build_z ..⟩
theorem rinit (h : Head) (r : BitVec 3) : Statement (.rinit h r) := fun _ => ⟨_, rfl, build_r ..⟩
theorem rpush (h : Head) (r : BitVec 3) : Statement (.rpush h r) := fun _ => ⟨_, rfl, build_r ..⟩
theorem rpop (h : Head) (r : BitVec 3) : Statement (.rpop h r) := fun _ => ⟨_, rfl, build_r ..⟩
theorem rfill (h : Head) (r : BitVec 3) : Statement (.rfill h r) := fun _ => ⟨_, rfl, build_r ..⟩
theorem rstat (h : Head) (r : BitVec 3) : Statement (.rstat h r) := fun _ => ⟨_, rfl, build_r ..⟩
theorem rdrop (h : Head) (r : BitVec 3) : Statement (.rdrop h r) := fun _ => ⟨_, rfl, build_r ..⟩
theorem mma (h : Head) (a : BitVec 2) : Statement (.mma h a) := fun _ => ⟨_, rfl, build_a ..⟩
theorem mmas (h : Head) (a : BitVec 2) : Statement (.mmas h a) := fun _ => ⟨_, rfl, build_a ..⟩
theorem mzero (h : Head) (a : BitVec 2) : Statement (.mzero h a) := fun _ => ⟨_, rfl, build_a ..⟩
theorem mrd (h : Head) (a : BitVec 2) : Statement (.mrd h a) := fun _ => ⟨_, rfl, build_a ..⟩
theorem mst (h : Head) (a : BitVec 2) : Statement (.mst h a) := fun _ => ⟨_, rfl, build_a ..⟩
theorem mld (h : Head) (a : BitVec 2) : Statement (.mld h a) := fun _ => ⟨_, rfl, build_a ..⟩
theorem mmask (h : Head) (a : BitVec 2) : Statement (.mmask h a) := fun _ => ⟨_, rfl, build_a ..⟩
theorem get (h : Head) (m : MMod) : Statement (.get h m) := fun _ => ⟨_, rfl, build_m ..⟩
theorem put (h : Head) (m : MMod) : Statement (.put h m) := fun _ => ⟨_, rfl, build_m ..⟩
theorem getp (h : Head) (m : MMod) : Statement (.getp h m) := fun _ => ⟨_, rfl, build_m ..⟩
theorem putp (h : Head) (m : MMod) : Statement (.putp h m) := fun _ => ⟨_, rfl, build_m ..⟩
theorem fill (h : Head) (m : MMod) : Statement (.fill h m) := fun _ => ⟨_, rfl, build_m ..⟩
theorem gld (h : Head) (m : MMod) : Statement (.gld h m) := fun _ => ⟨_, rfl, build_m ..⟩
theorem gst (h : Head) (m : MMod) : Statement (.gst h m) := fun _ => ⟨_, rfl, build_m ..⟩
theorem gadd (h : Head) (m : MMod) : Statement (.gadd h m) := fun _ => ⟨_, rfl, build_m ..⟩
theorem gswp (h : Head) (m : MMod) : Statement (.gswp h m) := fun _ => ⟨_, rfl, build_m ..⟩
theorem gcas (h : Head) (m : MMod) : Statement (.gcas h m) := fun _ => ⟨_, rfl, build_m ..⟩
theorem gmin (h : Head) (m : MMod) : Statement (.gmin h m) := fun _ => ⟨_, rfl, build_m ..⟩
theorem gmax (h : Head) (m : MMod) : Statement (.gmax h m) := fun _ => ⟨_, rfl, build_m ..⟩
theorem gand (h : Head) (m : MMod) : Statement (.gand h m) := fun _ => ⟨_, rfl, build_m ..⟩
theorem gor (h : Head) (m : MMod) : Statement (.gor h m) := fun _ => ⟨_, rfl, build_m ..⟩
theorem gxor (h : Head) (m : MMod) : Statement (.gxor h m) := fun _ => ⟨_, rfl, build_m ..⟩
theorem mfence (h : Head) (m : MMod) : Statement (.mfence h m) := fun _ => ⟨_, rfl, build_m ..⟩
theorem ttarm (h : Head) (k : BitVec 4) : Statement (.ttarm h k) := fun _ => ⟨_, rfl, build_k ..⟩
theorem push (h : Head) : Statement (.push h) := fun _ => ⟨_, rfl, build_z ..⟩
theorem pushp (h : Head) : Statement (.pushp h) := fun _ => ⟨_, rfl, build_z ..⟩
theorem land (h : Head) : Statement (.land h) := fun _ => ⟨_, rfl, build_z ..⟩
theorem lclose (h : Head) : Statement (.lclose h) := fun _ => ⟨_, rfl, build_z ..⟩
theorem msg (h : Head) : Statement (.msg h) := fun _ => ⟨_, rfl, build_z ..⟩
theorem mig (h : Head) : Statement (.mig h) := fun _ => ⟨_, rfl, build_z ..⟩
theorem kopen (h : Head) : Statement (.kopen h) := fun _ => ⟨_, rfl, build_z ..⟩
theorem kpart (h : Head) : Statement (.kpart h) := fun _ => ⟨_, rfl, build_z ..⟩
theorem kattn (h : Head) : Statement (.kattn h) := fun _ => ⟨_, rfl, build_z ..⟩
theorem kfin (h : Head) : Statement (.kfin h) := fun _ => ⟨_, rfl, build_z ..⟩
theorem kres (h : Head) : Statement (.kres h) := fun _ => ⟨_, rfl, build_z ..⟩
theorem bell (h : Head) (v : BitVec 3) : Statement (.bell h v) := fun _ => ⟨_, rfl, build_d ..⟩
theorem bellx (h : Head) (v : BitVec 3) : Statement (.bellx h v) := fun _ => ⟨_, rfl, build_d ..⟩
theorem wany (h : Head) (m : MMod) : Statement (.wany h m) := fun _ => ⟨_, rfl, build_m ..⟩
theorem wall (h : Head) (m : MMod) : Statement (.wall h m) := fun _ => ⟨_, rfl, build_m ..⟩
theorem wffr (h : Head) (m : MMod) : Statement (.wffr h m) := fun _ => ⟨_, rfl, build_m ..⟩
theorem tclr (h : Head) : Statement (.tclr h) := fun _ => ⟨_, rfl, build_z ..⟩
theorem sig (h : Head) (m : MMod) : Statement (.sig h m) := fun _ => ⟨_, rfl, build_m ..⟩
theorem swait (h : Head) (m : MMod) : Statement (.swait h m) := fun _ => ⟨_, rfl, build_m ..⟩
theorem sdec (h : Head) (m : MMod) : Statement (.sdec h m) := fun _ => ⟨_, rfl, build_m ..⟩
theorem binit (h : Head) : Statement (.binit h) := fun _ => ⟨_, rfl, build_z ..⟩
theorem arrive (h : Head) (m : MMod) : Statement (.arrive h m) := fun _ => ⟨_, rfl, build_m ..⟩
theorem drop (h : Head) (m : MMod) : Statement (.drop h m) := fun _ => ⟨_, rfl, build_m ..⟩
theorem bwait (h : Head) (m : MMod) : Statement (.bwait h m) := fun _ => ⟨_, rfl, build_m ..⟩
theorem trig (h : Head) : Statement (.trig h) := fun _ => ⟨_, rfl, build_z ..⟩
theorem fence (h : Head) (m : MMod) : Statement (.fence h m) := fun _ => ⟨_, rfl, build_m ..⟩
theorem spawn (h : Head) : Statement (.spawn h) := fun _ => ⟨_, rfl, build_z ..⟩
theorem yield (h : Head) : Statement (.yield h) := fun _ => ⟨_, rfl, build_z ..⟩
theorem sleep (h : Head) : Statement (.sleep h) := fun _ => ⟨_, rfl, build_z ..⟩
theorem wake (h : Head) : Statement (.wake h) := fun _ => ⟨_, rfl, build_z ..⟩
theorem prio (h : Head) : Statement (.prio h) := fun _ => ⟨_, rfl, build_z ..⟩
theorem timer (h : Head) : Statement (.timer h) := fun _ => ⟨_, rfl, build_z ..⟩
theorem next (h : Head) : Statement (.next h) := fun _ => ⟨_, rfl, build_z ..⟩
theorem resume (h : Head) : Statement (.resume h) := fun _ => ⟨_, rfl, build_z ..⟩
theorem msgrd (h : Head) : Statement (.msgrd h) := fun _ => ⟨_, rfl, build_z ..⟩
theorem cload (h : Head) : Statement (.cload h) := fun _ => ⟨_, rfl, build_z ..⟩
theorem tidle (h : Head) : Statement (.tidle h) := fun _ => ⟨_, rfl, build_z ..⟩
theorem rdcyc (h : Head) : Statement (.rdcyc h) := fun _ => ⟨_, rfl, build_z ..⟩
theorem fmt (h : Head) : Statement (.fmt h) := fun _ => ⟨_, rfl, build_z ..⟩
theorem mode (h : Head) : Statement (.mode h) := fun _ => ⟨_, rfl, build_z ..⟩
theorem dom (h : Head) (v : BitVec 3) : Statement (.dom h v) := fun _ => ⟨_, rfl, build_d ..⟩
theorem tid (h : Head) (k : BitVec 4) : Statement (.tid h k) := fun _ => ⟨_, rfl, build_k ..⟩
theorem flags (h : Head) : Statement (.flags h) := fun _ => ⟨_, rfl, build_z ..⟩
theorem sleepd (h : Head) : Statement (.sleepd h) := fun _ => ⟨_, rfl, build_z ..⟩
theorem eret (h : Head) : Statement (.eret h) := fun _ => ⟨_, rfl, build_z ..⟩
theorem cause (h : Head) : Statement (.cause h) := fun _ => ⟨_, rfl, build_z ..⟩
theorem tlbinv (h : Head) (m : MMod) : Statement (.tlbinv h m) := fun _ => ⟨_, rfl, build_m ..⟩
theorem tlbinvas (h : Head) (m : MMod) : Statement (.tlbinvas h m) := fun _ => ⟨_, rfl, build_m ..⟩
theorem mapfence (h : Head) (m : MMod) : Statement (.mapfence h m) := fun _ => ⟨_, rfl, build_m ..⟩
theorem asid (h : Head) : Statement (.asid h) := fun _ => ⟨_, rfl, build_z ..⟩
theorem bank (h : Head) : Statement (.bank h) := fun _ => ⟨_, rfl, build_z ..⟩
theorem shcap (h : Head) : Statement (.shcap h) := fun _ => ⟨_, rfl, build_z ..⟩
theorem shset (h : Head) : Statement (.shset h) := fun _ => ⟨_, rfl, build_z ..⟩
theorem errst (h : Head) : Statement (.errst h) := fun _ => ⟨_, rfl, build_z ..⟩
theorem stmr (h : Head) : Statement (.stmr h) := fun _ => ⟨_, rfl, build_z ..⟩
theorem dgrd (h : Head) : Statement (.dgrd h) := fun _ => ⟨_, rfl, build_z ..⟩
theorem dgclr (h : Head) : Statement (.dgclr h) := fun _ => ⟨_, rfl, build_z ..⟩
theorem logon (h : Head) : Statement (.logon h) := fun _ => ⟨_, rfl, build_z ..⟩
theorem logoff (h : Head) : Statement (.logoff h) := fun _ => ⟨_, rfl, build_z ..⟩
theorem gateon (h : Head) : Statement (.gateon h) := fun _ => ⟨_, rfl, build_z ..⟩
theorem gateoff (h : Head) : Statement (.gateoff h) := fun _ => ⟨_, rfl, build_z ..⟩
theorem logst (h : Head) : Statement (.logst h) := fun _ => ⟨_, rfl, build_z ..⟩
theorem perstDeassert : Statement (.perstDeassert) := rfl
theorem portTrained : Statement (.portTrained) := rfl
theorem fwcmdActivate : Statement (.fwcmdActivate) := rfl
theorem memoryTraining : Statement (.memoryTraining) := rfl
theorem controlLoad : Statement (.controlLoad) := rfl
theorem tileSelfTest : Statement (.tileSelfTest) := rfl
theorem bootReady : Statement (.bootReady) := rfl
theorem fwcmdReload : Statement (.fwcmdReload) := rfl
theorem clusterReload : Statement (.clusterReload) := rfl
theorem fwcmdEndReload : Statement (.fwcmdEndReload) := rfl
theorem transferCommand : Statement (.transferCommand) := rfl
theorem getVersion : Statement (.getVersion) := rfl
theorem getCapabilities : Statement (.getCapabilities) := rfl
theorem negotiateAlgorithms : Statement (.negotiateAlgorithms) := rfl
theorem getDigests : Statement (.getDigests) := rfl
theorem getCertificate : Statement (.getCertificate) := rfl
theorem challenge : Statement (.challenge) := rfl
theorem getMeasurements : Statement (.getMeasurements) := rfl
theorem registerWrite : Statement (.registerWrite) := rfl
theorem reservedAccess : Statement (.reservedAccess) := rfl
theorem bar2Access : Statement (.bar2Access) := rfl
theorem pwrcapWrite : Statement (.pwrcapWrite) := rfl
theorem capDeadline : Statement (.capDeadline) := rfl
theorem junctionOvertemp : Statement (.junctionOvertemp) := rfl
theorem queueCreate : Statement (.queueCreate) := rfl
theorem queueDestroy : Statement (.queueDestroy) := rfl
theorem queueDestroyComplete : Statement (.queueDestroyComplete) := rfl
theorem queueResume : Statement (.queueResume) := rfl
theorem queueAbort : Statement (.queueAbort) := rfl
theorem notifyWrite : Statement (.notifyWrite) := rfl
theorem queueMap : Statement (.queueMap) := rfl
theorem recordRead : Statement (.recordRead) := rfl
theorem launchPlacement : Statement (.launchPlacement) := rfl
theorem place : Statement (.place) := rfl
theorem placed : Statement (.placed) := rfl
theorem nofit : Statement (.nofit) := rfl
theorem start : Statement (.start) := rfl
theorem triggered : Statement (.triggered) := rfl
theorem halted : Statement (.halted) := rfl
theorem completionWrite : Statement (.completionWrite) := rfl
theorem preempt : Statement (.preempt) := rfl
theorem release : Statement (.release) := rfl
theorem fault : Statement (.fault) := rfl
theorem schedulerTakeover : Statement (.schedulerTakeover) := rfl
theorem stageLaunch : Statement (.stageLaunch) := rfl
theorem switchTick : Statement (.switchTick) := rfl
theorem switchToken : Statement (.switchToken) := rfl
theorem quadCondemn : Statement (.quadCondemn) := rfl
theorem columnShift : Statement (.columnShift) := rfl
theorem dieFence : Statement (.dieFence) := rfl
theorem laneRepair : Statement (.laneRepair) := rfl
theorem linkRetrainEnd : Statement (.linkRetrainEnd) := rfl
theorem pseudoChannelSpare : Statement (.pseudoChannelSpare) := rfl
theorem spareCopyEnd : Statement (.spareCopyEnd) := rfl
theorem bundleIssue : Statement (.bundleIssue) := rfl
theorem parityRefetch : Statement (.parityRefetch) := rfl
theorem freeRunningLanding : Statement (.freeRunningLanding) := rfl
theorem dataLockedLanding : Statement (.dataLockedLanding) := rfl
theorem loopPassEnd : Statement (.loopPassEnd) := rfl
theorem idleEnd : Statement (.idleEnd) := rfl
theorem fmtTakesEffect : Statement (.fmtTakesEffect) := rfl
theorem fillerCommit : Statement (.fillerCommit) := rfl
theorem scrubRead : Statement (.scrubRead) := rfl
theorem mxOpStart : Statement (.mxOpStart) := rfl
theorem mxOpEnd : Statement (.mxOpEnd) := rfl
theorem dmCompletion : Statement (.dmCompletion) := rfl
theorem translationWalk : Statement (.translationWalk) := rfl
theorem dUpdate : Statement (.dUpdate) := rfl
theorem resolveRewalk : Statement (.resolveRewalk) := rfl
theorem resolveFail : Statement (.resolveFail) := rfl
theorem fqtailWrite : Statement (.fqtailWrite) := rfl
theorem accessRetry : Statement (.accessRetry) := rfl
theorem migrate : Statement (.migrate) := rfl
theorem replicate : Statement (.replicate) := rfl
theorem collapse : Statement (.collapse) := rfl
theorem migrationStep : Statement (.migrationStep) := rfl
theorem atomicArrival : Statement (.atomicArrival) := rfl
theorem gateTimeout : Statement (.gateTimeout) := rfl
theorem watchRecheck : Statement (.watchRecheck) := rfl
theorem eutasPacketReceive : Statement (.eutasPacketReceive) := rfl
theorem eutasRetransmit : Statement (.eutasRetransmit) := rfl
theorem peerLoss : Statement (.peerLoss) := rfl
theorem windowStart : Statement (.windowStart) := rfl
theorem windowEnd : Statement (.windowEnd) := rfl
theorem packetArrival : Statement (.packetArrival) := rfl
theorem packetRetry : Statement (.packetRetry) := rfl
theorem kilnChildArrival : Statement (.kilnChildArrival) := rfl
theorem bellRing : Statement (.bellRing) := rfl
theorem bellRelease : Statement (.bellRelease) := rfl
theorem tagWaitComplete : Statement (.tagWaitComplete) := rfl
theorem taskSwitchOut : Statement (.taskSwitchOut) := rfl
theorem timerUnit : Statement (.timerUnit) := rfl
theorem messageAccept : Statement (.messageAccept) := rfl
theorem contextArrival : Statement (.contextArrival) := rfl
theorem clusterLoadWrite : Statement (.clusterLoadWrite) := rfl
theorem spawnCreateEnd : Statement (.spawnCreateEnd) := rfl
theorem taskSaveEnd : Statement (.taskSaveEnd) := rfl
theorem taskLoadEnd : Statement (.taskLoadEnd) := rfl
theorem completionNotice : Statement (.completionNotice) := rfl
theorem tileSleep : Statement (.tileSleep) := rfl
theorem tileWake : Statement (.tileWake) := rfl
theorem supervisorEntry : Statement (.supervisorEntry) := rfl
theorem supervisorTimerExpiry : Statement (.supervisorTimerExpiry) := rfl
theorem debugHaltRequest : Statement (.debugHaltRequest) := rfl
theorem debugRelease : Statement (.debugRelease) := rfl
theorem preemptHalt : Statement (.preemptHalt) := rfl
theorem preemptSave : Statement (.preemptSave) := rfl
theorem restore : Statement (.restore) := rfl
theorem errorCounterHalving : Statement (.errorCounterHalving) := rfl
theorem tileDrained : Statement (.tileDrained) := rfl
theorem moduleReset : Statement (.moduleReset) := rfl
theorem peerReachableAgain : Statement (.peerReachableAgain) := rfl
theorem cxlPortRetraining : Statement (.cxlPortRetraining) := rfl

end Sys2Proof.Laws.Encoding
end

