-- ==== Sys2Proof/Safety.lean ====
section
/-! DEFINITION. The terms in which claims about the machine are stated: when a tile may issue, what a trigger finds, what the end of its issue cycle leaves, what an instruction may change. -/

namespace Sys2Proof.Machine

/-! ## A trigger alone in its bundle -/

/-- The state as the bundle of the served tile finds it: what is due has landed or taken effect (R125, R148, R169). -/
def State.atBundle (s : State) : State := s.settle s.cur

/-- The strand that the served tile runs. -/
def State.strand (s : State) : Strand := (s.self).bank (s.self).run

/-- The source of a move after the register stagger of its bus (R149). -/
def State.srcOf (s : State) (h : Head) : Src := staggerSrc s.atBundle.strand (s.self).bus h.src

/-- The register of a move's guard; `b0` is not stored (R139). -/
def guardReg (h : Head) : List (Nat × Nat) := (regPlace (.brf h.guard.sel)).toList

/-- The registers that a move whose guard holds reads: that of its guard and that of its source (R121, R140). -/
def State.regsOf (s : State) (h : Head) : List (Nat × Nat) := guardReg h ++ (regPlace (s.srcOf h)).toList

/-- The served tile issues by itself on this tick: it is in no gang, no cause is pending for its running strand, no operation holds it and none of `sv` is under way (R348, R421). -/
structure MayIssue (s : State) : Prop where
  alone : s.inGang = false
  calm : (s.atBundle.self).takePending s.tick false = none
  able : (s.atBundle.self).canIssue s.tick = true
  free : (s.atBundle.self).waits s.tick = false

/-- Registers of the running strand hold no error, correctable or not (R140). -/
abbrev State.intact (s : State) (rs : List (Nat × Nat)) : Prop :=
  ∀ r ∈ rs, regListed s.atBundle.self.badRegs s.atBundle.self.run r.1 r.2 = false
    ∧ regListed s.atBundle.self.softRegs s.atBundle.self.run r.1 r.2 = false

/-- Some of the registers of the running strand holds an uncorrectable error (R140). -/
abbrev State.badReg (s : State) (rs : List (Nat × Nat)) : Prop :=
  ∃ r ∈ rs, regListed s.atBundle.self.badRegs s.atBundle.self.run r.1 r.2 = true

/-- A move that passes the checks of Table 5.7, whose guard holds and whose source drives `v`; the registers of its guard and its source hold no error (R102, R103, R120, R128, R140). -/
structure Carries (i : Instr) (h : Head) (v : Bus) (s : State) : Prop where
  legal : moveCause (s.atBundle.self.run = 3) s.atBundle.self.lis.length i = none
  guard : guardHolds s.atBundle.strand h.guard = true
  value : readSrc s.atBundle.self s.atBundle.strand (s.srcOf h) = some v
  sound : s.intact (s.regsOf h)

/-- The bundle of the served tile is this one trigger, it may issue, and its move carries `v`. -/
structure Fires (i : Instr) (h : Head) (v : Bus) (s : State) : Prop where
  may : MayIssue s
  carries : Carries i h v s

/-- After phase 2, and after the cycle of the `mx` sequence, which comes before the triggers of other sockets (R121, R228). -/
def State.passed (s : State) (h : Head) (k : Sock) : State :=
  let s1 := s.atBundle.onSelf fun t => emptyPort t (s.srcOf h)
  if k = .mx then s1 else s1.mxIssueCycle s1.cur (s.atBundle.self).run

/-- The trigger operand is latched (R123). -/
def State.latched (s : State) (h : Head) (k : Sock) (o : Option Opnd) (v : Bus) : State :=
  match o with
  | some o => (s.passed h k).onSelf fun t => t.onBank s.atBundle.self.run fun b => b.onSock k fun c => c.setLatch o v
  | none => s.passed h k

/-- What the operation finds when it starts (R121, R123). -/
def State.starts (s : State) (h : Head) (k : Sock) (o : Option Opnd) (v : Bus) : Start :=
  let t0 := s.atBundle.self
  let b0 := s.atBundle.strand
  let c := (((s.latched h k o v).self).bank t0.run).sock k
  { sock := k, bank := t0.run, a := c.a, b := c.b, c := c.c, v := v, origin := b0.pc,
    next := b0.pc + BitVec.ofNat 32 (s.self).blen, seq := b0.seq, bus := (s.self).bus,
    locked := t0.locked k, fmt := b0.fmt }

/-- The command queue of a data-locked socket has a free slot (R129). -/
def Admits (h : Head) (k : Sock) (o : Option Opnd) (v : Bus) (s : State) : Prop :=
  s.atBundle.self.locked k = true → ((s.latched h k o v).self).slotFree k false = true

/-- The end of the issue cycle (R144, R156). -/
def State.ended (s : State) (i : Issue) : State :=
  match i.ctl with
  | .gang => formGang (finish (s.self).blen i)
  | .none | .jump _ _ | .skip _ | .openLevel _ | .loopx | .idle _ | .halt | .raise _ | .split => finish (s.self).blen i

/-- A result of a computing socket that is on its way: in the pipeline, or in the command queue of a data-locked socket, where it lands `lat` ticks after its trigger or a free number of ticks later (R125, R129, R130; log 86). -/
def State.delivered (s : State) (st : Start) (lat : Nat) (r : Res) (late : Option Pending := none) : State :=
  if st.locked then
    { s.onSelf fun t =>
      { t with
        nextOp := t.nextOp + 1
        queue := t.queue ++ [{ id := t.nextOp, bank := st.bank, sock := st.sock, a := st.a, b := st.b, c := st.c, origin := st.origin,
                               seq := st.seq, asid := t.asid, born := s.tick, due := s.tick + lat + Config.delay s.free, st := .performed,
                               res := some r, late := late }] } with free := s.free + 1 }
  else
    s.onSelf fun t => t.onBank st.bank fun b =>
      { b with flight := b.flight ++ [{ sock := st.sock, res := r, r := lat, origin := st.origin, seq := st.seq, late := late }] }

/-- An issue that leaves a state and asks nothing of the end of the cycle. -/
def leaves (s : State) : Issue := { st := s }

/-- No condition. -/
def always (_ : Start) (_ : State) : Prop := True

/-- COMPLETION OF A COMPUTING TRIGGER: whenever it fires and its queue admits it, the next state is that of an issue cycle with the result `f` on its way for `lat` cycles. -/
def Computes (i : Instr) (h : Head) (k : Sock) (o : Option Opnd) (lat : Nat) (f : Start → Res) : Prop :=
  ∀ (s : State) (v : Bus), Fires i h v s → Admits h k o v s →
    exec i s = .next (s.ended { st := (s.latched h k o v).delivered (s.starts h k o v) lat (f (s.starts h k o v)) })

/-- COMPLETION OF A TRIGGER: whenever it fires, its queue admits it and `ok` holds of what it finds, the next state is that of an issue cycle that leaves `f`. -/
def Runs (i : Instr) (h : Head) (k : Sock) (o : Option Opnd) (ok : Start → State → Prop) (f : Start → State → Issue) : Prop :=
  ∀ (s : State) (v : Bus), Fires i h v s → Admits h k o v s → ok (s.starts h k o v) (s.latched h k o v) →
    exec i s = .next (s.ended (f (s.starts h k o v) (s.latched h k o v)))

/-- COMPLETION OF A TRIGGER OF `mx`: the cycle of the `mx` sequence follows its start (R228, R248). -/
def RunsMx (i : Instr) (h : Head) (o : Option Opnd) (ok : Start → State → Prop) (f : Start → State → Issue) : Prop :=
  ∀ (s : State) (v : Bus), Fires i h v s → ok (s.starts h .mx o v) (s.latched h .mx o v) →
    exec i s = .next (s.ended
      { f (s.starts h .mx o v) (s.latched h .mx o v) with
        st := ((f (s.starts h .mx o v) (s.latched h .mx o v)).st).mxIssueCycle s.cur s.atBundle.self.run })

/-- The pending cause of a trigger that traps (R413): kind T, at the offset of the bundle. -/
def State.trapOf (s : State) (c : Cause) (a d : Dword) : Pending :=
  { bank := s.atBundle.self.run, cause := c, kind := .trigger, bus := some (s.self).bus, origin := s.atBundle.strand.pc,
    addr := a, detail := d, seq := s.atBundle.strand.seq, since := s.tick }

/-- The served tile takes a cause at the bundle about to issue; the bundle has no other effect (R135, R413). -/
def State.trapped (s : State) (p : Pending) : State :=
  (s.atBundle.noteCause s.cur p).onSelf fun t => t.raiseNow s.tick false p

/-- A TRIGGER THAT TRAPS with cause `c`, where `ok` holds of what it finds (R135). -/
def Traps (i : Instr) (h : Head) (k : Sock) (o : Option Opnd) (ok : Start → State → Prop) (c : Cause) (a d : Start → Dword) : Prop :=
  ∀ (s : State) (v : Bus), Fires i h v s → Admits h k o v s → ok (s.starts h k o v) (s.latched h k o v) →
    exec i s = .next (s.trapped (s.trapOf c (a (s.starts h k o v)) (d (s.starts h k o v))))

/-! ## A trigger whose registers hold single-bit errors -/

/-- The registers that the move reads have been corrected and written back (R140, R429). -/
def State.mended (s : State) (h : Head) : State := s.atBundle.regCorrect s.atBundle.self.run (s.regsOf h)

/-- As `latched`, after the correction of the registers read (R140). -/
def State.mendedLatched (s : State) (h : Head) (k : Sock) (o : Option Opnd) (v : Bus) : State :=
  let s1 := (s.mended h).onSelf fun t => emptyPort t (s.srcOf h)
  let s2 := if k = .mx then s1 else s1.mxIssueCycle s1.cur (s.atBundle.self).run
  match o with
  | some o => s2.onSelf fun t => t.onBank s.atBundle.self.run fun b => b.onSock k fun c => c.setLatch o v
  | none => s2

/-- What the trigger finds then. -/
def State.mendedStarts (s : State) (h : Head) (k : Sock) (o : Option Opnd) (v : Bus) : Start :=
  let c := (((s.mendedLatched h k o v).self).bank s.atBundle.self.run).sock k
  { s.starts h k o v with a := c.a, b := c.b, c := c.c }

/-- The trigger is not turned away at a full command queue, and what it does when it starts is `r` (R129). -/
def MendedStart (sp : Spec) (h : Head) (v : Bus) (s : State) (r : Except Stop Issue) : Prop :=
  (s.atBundle.self.locked sp.sock = true → sp.sock ≠ .mx → sp.sock ≠ .mu →
      ((s.mendedLatched h sp.sock sp.opnd v).self).slotFree sp.sock false = true)
    ∧ sp.run (s.mendedStarts h sp.sock sp.opnd v) { st := s.mendedLatched h sp.sock sp.opnd v } = r

/-! ## A bundle of any number of moves -/

/-- The served tile may issue by itself, and the fetch of its next bundle finds `f` (R98 to R100, R121). -/
structure BundleAt (s : State) (f : Fetched) : Prop where
  here : s.ev.tile = s.cur
  may : MayIssue s
  live : ((s.self).bank (s.self).run).idle = 0
  code : (s.self).run = 3 → (s.quadAt s.cur).store ≠ []
  fetched : s.atBundle.fetch s.cur = f

/-- The state in which the moves of the bundle read: its long immediates are latched (R100). -/
def State.reading (s : State) (lis : List Word) (len : Nat) : State := s.atBundle.latch lis len 0

/-- A move on bus `b` that reads `v` from the source `x`: it passes the checks of Table 5.7, its guard holds, and the registers of its guard and its source hold no error (R102, R121, R140). -/
structure MoveReads (w : State) (b : BitVec 3) (i : Instr) (h : Head) (d : Option Dst) (x : Src) (v : Bus) : Prop where
  head : headOf i = some (h, d)
  legal : moveCause (w.self.run = 3) w.self.lis.length i = none
  guard : guardHolds w.strand h.guard = true
  source : staggerSrc w.strand b h.src = x
  value : readSrc w.self w.strand x = some v
  sound : ∀ r ∈ guardReg h ++ (regPlace x).toList, regListed w.self.badRegs w.self.run r.1 r.2 = false
    ∧ regListed w.self.softRegs w.self.run r.1 r.2 = false

/-- The destination port that a move names: its own, or the trigger operand of its trigger (R123, R137). -/
def namedPort (i : Instr) : Option Dst :=
  match i.form with
  | .move (.live _ d) => some d
  | .trig _ k p _ => (trigOpnd k p.toNat).map (Dst.opnd k)
  | .move (.null _) | .event => none

/-- The socket that a move triggers. -/
def triggered (i : Instr) : Option Sock :=
  match i.form with
  | .trig _ k _ _ => some k
  | .move _ | .event => none

/-- Does the move name a register of a file as its destination, or read a vector register (Table 6.2)? -/
def writesG (i : Instr) : Bool := match namedPort i with | some (.grf _) => true | some (.vrf _) | some (.brf _) | some (.opnd _ _) | none => false
def writesV (i : Instr) : Bool := match namedPort i with | some (.vrf _) => true | some (.grf _) | some (.brf _) | some (.opnd _ _) | none => false
def writesB (i : Instr) : Bool := match namedPort i with | some (.brf _) => true | some (.grf _) | some (.vrf _) | some (.opnd _ _) | none => false
def readsV (i : Instr) : Bool := match headOf i with | some (h, _) => (match h.src with | .vrf _ => true | .imm _ | .grf _ | .brf _ | .resX _ | .resY _ | .resS _ | .li _ => false) | none => false

/-- THE LIMITS OF TABLE 6.2 (R137): the writes and reads of each register file, one trigger for each socket, one move for each destination port. -/
structure WithinLimits (is : List Instr) : Prop where
  grf : (is.filter writesG).length ≤ 4
  vrf : (is.filter writesV).length ≤ 2
  brf : (is.filter writesB).length ≤ 2
  reads : (is.filter readsV).length ≤ 4
  ports : (is.filterMap namedPort).Nodup
  socks : (is.filterMap triggered).Nodup

/-! ## Division, local accesses, streams -/

/-- A quotient or remainder is on its way through the queue of the divider (R131, R166). -/
def State.divided (s : State) (st : Start) (lat : Nat) (r : Res) : State :=
  s.onSelf fun t =>
    { t with
      nextOp := t.nextOp + 1
      queue := t.queue ++ [{ id := t.nextOp, bank := st.bank, sock := .mu, kind := .divide, a := st.a, b := st.b, c := st.c, origin := st.origin,
                             seq := st.seq, asid := t.asid, born := s.tick, due := s.tick + lat, st := .performed, res := some r }] }

/-- A DIVISION COMPLETES, whatever the operands, when the divider's queue is free, and stalls when it is not (R128, R131, R165, R166). -/
def Divides (i : Instr) (h : Head) (w : Width) (sg rm : Bool) : Prop :=
  (∀ (s : State) (v : Bus), Fires i h v s → ((s.latched h .mu (some .opB) v).self).slotFree .mu true = true →
    let st := s.starts h .mu (some .opB) v
    let d := divide sg (widthOf w) st
    let r := intResY (widthOf w) (if rm then d.2.1 else d.1) d.2.2
    exec i s = .next (s.ended { st := (s.latched h .mu (some .opB) v).divided st (if w = .w32 then 34 else 66) r }))
  ∧ (∀ (s : State) (v : Bus), Fires i h v s → ((s.latched h .mu (some .opB) v).self).slotFree .mu true = false →
      exec i s = .next (stallTick s.atBundle))

/-- An operation without a result on `.x` has been performed at its trigger: its `.y` and its status land an issue cycle later, or in data-locked mode a tick or a free number of ticks more later, but not before those of an earlier one of its strand and socket (R129, R130; DESIGN CHOICE, log 86). -/
def State.performedNow (s : State) (st : Start) (r : Res) : State :=
  if st.locked then
    { s.onSelf fun t =>
        { t with
          nextOp := t.nextOp + 1
          queue := t.queue ++ [{ id := t.nextOp, bank := st.bank, sock := st.sock, wx := false, slot := false, a := st.a, b := st.b, c := st.c,
                                 origin := st.origin, seq := st.seq, asid := t.asid, born := s.tick,
                                 due := ((t.queue.filter fun o => o.bank == st.bank && o.sock == st.sock && !o.wx).map (·.due)).foldl max
                                   (s.tick + 1 + Config.delay s.free),
                                 st := .performed, res := some r }] }
      with free := s.free + 1 }
  else s.onSelf fun t => t.onBank st.bank fun b =>
    { b with flight := b.flight ++ [{ sock := st.sock, res := r, r := 1, origin := st.origin, seq := st.seq }] }

/-- The first element of an access that is misaligned or does not lie within local SRAM (R220). -/
def firstOut (sz : Nat) (as : List Nat) : Option Nat := as.find? fun a => decide (a % sz ≠ 0) || decide (0x60000 < a + sz)

/-- The first element at fault is misaligned, or is aligned and beyond local SRAM: MISALIGNED or LOCAL_RANGE at its address (R220). -/
def ChecksElements (i : Instr) (h : Head) (o : Opnd) (sz : Nat) (elems : Start → List Nat) : Prop :=
  Traps i h .ls (some o) (fun st _ => (firstOut sz (elems st)).any fun a => decide (a % sz ≠ 0)) .misaligned
      (fun st => BitVec.ofNat 64 ((firstOut sz (elems st)).getD 0)) (fun _ => 0)
    ∧ Traps i h .ls (some o) (fun st _ => (firstOut sz (elems st)).any fun a => decide (a % sz = 0)) .localRange
      (fun st => BitVec.ofNat 64 ((firstOut sz (elems st)).getD 0)) (fun _ => 0)

/-- A LOAD of elements of `sz` bytes from the physical bytes `ps`: the bytes make the result after three issue cycles; one that meets an uncorrectable word has DATA_UNCORRECTABLE delivered in place of its landing (R216, R220, R221). -/
def LoadsLocal (i : Instr) (h : Head) (o : Opnd) (sz : Nat) (elems ps : Start → List Nat) (f : Start → List Byte → Res) : Prop :=
  Runs i h .ls (some o) (fun st s => firstOut sz (elems st) = none ∧ s.self.badWords (ps st) = false)
      (fun st s => { st := (s.sramRead s.cur (ps st)).2.delivered st 3 (f st (s.sramRead s.cur (ps st)).1) })
    ∧ Runs i h .ls (some o) (fun st s => firstOut sz (elems st) = none ∧ s.self.badWords (ps st) = true)
      (fun st s => { st := ((s.correct s.cur (ps st)).noteCause s.cur (lateBad st s.tick)).delivered st 3 { x := some 0 } (some (lateBad st s.tick)) })
    ∧ ChecksElements i h o sz elems

/-- A STORE of the bytes `ws`, element by element: it is performed at its trigger; one that covers a part of an uncorrectable word traps and writes nothing (R216, R220, R221). -/
def StoresLocal (i : Instr) (h : Head) (o : Opnd) (sz : Nat) (elems : Start → List Nat) (ws : Start → List (List (Nat × Byte))) : Prop :=
  Runs i h .ls (some o) (fun st s => firstOut sz (elems st) = none ∧ ∀ w ∈ ws st, s.self.writable (w.map (·.1)) = true)
      (fun st s => { st := (s.onSelf fun t => (t.sramWrite (ws st).flatten).touchZones ((ws st).flatten.map (·.1))).performedNow st {} })
    ∧ Traps i h .ls (some o) (fun st s => firstOut sz (elems st) = none ∧ ∃ w ∈ ws st, s.self.writable (w.map (·.1)) = false)
      .dataUncorrectable (fun _ => 0) (fun _ => 0)
    ∧ ChecksElements i h o sz elems

/-- A LOCAL ATOMIC: it reads its bytes, writes what `f` makes of them, if anything, and lands the old value with the ok bit after three issue cycles; one that meets an uncorrectable word traps (R216, R225). -/
def AtomicLocal (i : Instr) (h : Head) (o : Opnd) (m : LMod) (signedOld : Bool) (f : Nat → Nat → Nat → Option Nat × Bool) : Prop :=
  let ps := fun st : Start => layoutSpan m.layout (lsAddr st) (isizeBytes m.size)
  Runs i h .ls (some o) (fun st s => firstOut (isizeBytes m.size) [lsAddr st] = none ∧ s.self.badWords (ps st) = false)
      (fun st s =>
        let rd := s.sramRead s.cur (ps st)
        let old := leNat rd.1
        let out := f old (st.natB (isizeBits m.size)) (st.natC (isizeBits m.size))
        let s1 := match out.1 with
          | some v => rd.2.onSelf fun t => (t.sramWrite ((ps st).zip (natLe v (isizeBytes m.size)))).touchZones (ps st)
          | none => rd.2
        { st := s1.delivered st 3 (scalar (if signedOld then BitVec.ofInt 64 (signExt old (isizeBits m.size)) else BitVec.ofNat 64 old)
            (if out.2 then 1 else 0)) })
    ∧ Traps i h .ls (some o) (fun st s => firstOut (isizeBytes m.size) [lsAddr st] = none ∧ s.self.badWords (ps st) = true)
      .dataUncorrectable (fun _ => 0) (fun _ => 0)
    ∧ ChecksElements i h o (isizeBytes m.size) (fun st => [lsAddr st])

/-- A condition on rings that is not met: RING_FAULT at once in a free-running socket, a stall in a data-locked one (R229). -/
def RingWaits (i : Instr) (h : Head) (o : Option Opnd) (n : BitVec 3) (no : Start → State → Prop) : Prop :=
  Traps i h .ag o (fun st s => no st s ∧ st.locked = false) .ringFault (fun _ => 0) (fun _ => n.setWidth 64)
    ∧ ∀ (s : State) (v : Bus), Fires i h v s → Admits h .ag o v s → no (s.starts h .ag o v) (s.latched h .ag o v) →
        (s.starts h .ag o v).locked = true → exec i s = .next (stallTick s.atBundle)

/-- A trigger that always completes with a result of what it finds in the state. -/
def Computes' (i : Instr) (h : Head) (k : Sock) (o : Option Opnd) (lat : Nat) (f : Start → State → Res) : Prop :=
  Runs i h k o always (fun st s => { st := s.delivered st lat (f st s) })

/-- Ended operations have left the sequence (R244). -/
def State.pruned (s : State) : State := s.onSelf fun t => t.mxPrune s.tick

/-- Fewer than two operations are outstanding, and a slot of the command queue is free for a data-locked one (R244). -/
def mxRoom (st : Start) (s : State) : Prop := s.self.mxq.length < 2 ∧ (st.locked = true → s.self.mxSlots < 2)

/-- A TRIGGER OF `mx` THAT TRAPS (R135, R244). -/
def TrapsMx (i : Instr) (h : Head) (o : Option Opnd) (ok : Start → State → Prop) (c : Cause) (a d : Start → Dword) : Prop :=
  ∀ (s : State) (v : Bus), Fires i h v s → ok (s.starts h .mx o v) (s.latched h .mx o v) →
    exec i s = .next (s.trapped (s.trapOf c (a (s.starts h .mx o v)) (d (s.starts h .mx o v))))

/-- The ring at fault among the claims of an `mma`, in the order of R247: one that is not valid, one named twice, one of fewer lines than its claim, and for a free-running operation one whose lines are not there. -/
def ringStop (st : Start) (t : Tile) (cs : List (BitVec 3 × Nat)) : Option (BitVec 3) :=
  (((cs.map (·.1)).find? fun r => (t.ring r).valid == false).or
    ((cs.map (·.1)).find? fun r => decide (2 ≤ (cs.map (·.1)).count r))).or
    (((cs.find? fun c => decide ((t.ring c.1).lines < c.2)).map (·.1)).or
      (if st.locked then none else (cs.find? fun c => decide ((t.ring c.1).count < t.claimedBefore c.1 t.nextClaim + c.2)).map (·.1)))

/-- A word for `mx.s` that comes at the end of the cycle: that of a refused trigger (R239, R244, R254). -/
def mxWordNext (st : Start) (w : Dword) (s : State) : State :=
  s.onSelf fun t =>
    if st.locked then
      { t with
        nextOp := t.nextOp + 1
        queue := t.queue ++ [{ id := t.nextOp, bank := st.bank, sock := .mx, wx := false, slot := false, a := st.a, b := st.b, c := st.c,
                               origin := st.origin, seq := st.seq, asid := t.asid, born := s.tick, due := s.tick + 1, st := .performed,
                               res := some { s := w } }] }
    else t.onBank st.bank fun b =>
      { b with flight := addFlight { sock := .mx, res := { s := w }, r := 1, origin := st.origin, seq := st.seq } b.flight }

/-- An operation as it joins the sequence (R244, R247). -/
def mxNew (st : Start) (t : Tile) (kind : MxKind) (acc : BitVec 2) (occ : Nat) (claims : List (BitVec 3 × Nat)) : MxOp :=
  { bank := st.bank, locked := st.locked, opId := t.nextOp, kind := kind, acc := acc, a := st.a, b := st.b, fmt := st.fmt, origin := st.origin,
    seq := st.seq, task := t.taskIn st.bank, occ := occ, claimNo := if st.locked then 0 else t.nextClaim, claims := claims }

/-- A TRIGGER OF `mx` JOINS THE SEQUENCE when there is room and `ok` holds of what it finds: a free-running one with its claims, a data-locked one, which an `mrd` gives a slot of the command queue, to start when its lines are there; a data-locked operation before it may start in that tick; a third operation is refused or stalls (R244, R245, R247). -/
def JoinsMx (i : Instr) (h : Head) (o : Option Opnd) (acc : BitVec 2) (sp : Bool) (ok : Start → State → Prop) (kind : MxKind)
    (occ : Start → State → Nat) (claims : Start → State → List (BitVec 3 × Nat)) : Prop :=
  RunsMx i h o (fun st s => st.locked = false ∧ mxRoom st s.pruned ∧ ok st s.pruned ∧ ∀ o ∈ s.pruned.self.mxq, o.locked = false)
      (fun st s => { st := s.pruned.onSelf fun t => { t with mxq := t.mxq ++ [mxNew st t kind acc (occ st s.pruned) (claims st s.pruned)] } })
    ∧ RunsMx i h o (fun st s => st.locked = false ∧ mxRoom st s.pruned ∧ ok st s.pruned)
      (fun st s => { st := (s.pruned.onSelf fun t => { t with mxq := t.mxq ++ [mxNew st t kind acc (occ st s.pruned) (claims st s.pruned)] }).mxStart s.cur })
    ∧ RunsMx i h o (fun st s => st.locked = true ∧ mxRoom st s.pruned ∧ ok st s.pruned)
      (fun st s => mxEnqueue st kind acc (occ st s.pruned) (claims st s.pruned) { st := s.pruned })
    ∧ RunsMx i h o (fun st s => st.locked = false ∧ 2 ≤ s.pruned.self.mxq.length)
      (fun st s => { st := mxWordNext st (mxStatus acc false true false false false sp false) s })
    ∧ (∀ (s : State) (v : Bus), Fires i h v s → (s.starts h .mx o v).locked = true → ¬mxRoom (s.starts h .mx o v) (s.latched h .mx o v).pruned →
        exec i s = .next (stallTick s.atBundle))

/-! ## A trigger alone in the bundle of a gang -/

/-- The four tiles of the served tile's quad, its leader first (R110). -/
def State.four (s : State) : List Nat := [quadOf s.cur, quadOf s.cur + 1, quadOf s.cur + 2, quadOf s.cur + 3]

/-- The state as the bundle of the gang finds it on its four tiles (R110, R125, R148, R169). -/
def State.atGang (s : State) : State := s.four.foldl State.settle s

/-- A tile of a gang may issue the bundle's one trigger, and the trigger carries `v` there: no cause is pending, nothing holds the tile, the trigger passes the checks of Table 5.7, its guard holds, its source drives `v`, and the registers of both hold no uncorrectable error (R111, R121, R128, R140). -/
structure GangFires (i : Instr) (h : Head) (v : Bus) (s : State) (m : Nat) : Prop where
  bank : (s.atGang.tileAt m).run = 0
  part : (s.atGang.tileAt m).gangHold = false
  calm : (s.atGang.tileAt m).takePending s.tick true = none
  able : (s.atGang.tileAt m).canIssue s.tick = true
  free : (s.atGang.tileAt m).held s.tick = false
  legal : moveCause false (s.atGang.tileAt m).lis.length i = none
  guard : guardHolds ((s.atGang.tileAt m).bank 0) h.guard = true
  value : readSrc (s.atGang.tileAt m) ((s.atGang.tileAt m).bank 0) (staggerSrc ((s.atGang.tileAt m).bank 0) (s.self).bus h.src) = some v
  sound : ∀ r ∈ guardReg h ++ (regPlace (staggerSrc ((s.atGang.tileAt m).bank 0) (s.self).bus h.src)).toList,
    regListed (s.atGang.tileAt m).badRegs 0 r.1 r.2 = false

/-- A bundle without an effect: the cycle of the `mx` sequence and the end of the issue cycle pass. -/
def State.quiet (s : State) : State :=
  s.ended { st := (s.atBundle.onSelf fun t => t).mxIssueCycle s.cur s.atBundle.self.run }

/-- After phase 2 of a plain move: the port it read is emptied, then its destination has the value (R121, R128, R149). -/
def State.moved (s : State) (h : Head) (d : Dst) (v : Bus) : State :=
  s.atBundle.onSelf fun t => writeDst (emptyPort t (s.srcOf h)) v (staggerDst s.atBundle.strand (s.self).bus d)

/-- An operation as it stands in its command queue: its number, its operands, the offset and issue number of its bundle, the bound ASID, the tick and, in tasked mode, the task (R123, R129, R426). -/
def queuedOp (st : Start) (s : State) (o : DlOp) : DlOp :=
  { o with id := s.self.nextOp, bank := st.bank, sock := st.sock, a := st.a, b := st.b, c := st.c,
           origin := st.origin, seq := st.seq, asid := s.self.asid, born := s.tick,
           task := s.self.taskIn st.bank }

/-! ## Exceptions -/

/-- An exception has been taken (R415 to R418, R420): from tile `t`, for the cause `p`, with trap offset `off`, at tick `now`. Bank `p.bank` is captured where it stands, bank3 runs from offset 0 ten ticks after the bank's last bundle or after the cause became pending, the selectors hold the cause, and nothing else of the tile has changed. -/
structure Entered (t u : Tile) (now : Nat) (gang : Bool) (p : Pending) (off : Word) : Prop where
  runs : u.run = 3
  saved : u.bank p.bank = { t.bank p.bank with pc := off }
  start : u.bank 3 = { t.bank 3 with pc := 0, levels := [], life := .live, passEnd := false, idle := 0 }
  others : ∀ k : BitVec 2, k ≠ 3 → k ≠ p.bank → u.bank k = t.bank k
  sels : u.sel = #v[causeWord p (firstCause p.bank t.pend).isSome gang (t.preReq || t.prePeriod), p.origin ++ off, p.shown, p.detail]
  ticks : u.ready = max (max (t.bank p.bank).lastIssue p.since + 10) (now + 1)
  rest : u = { t with run := u.run, banks := u.banks, sel := u.sel, ready := u.ready, asleep := false, stalled := 0, stallFrom := none,
                      refetch := false }

/-- The bundle of an `sv.eret` of the form `f` has ended: the state after its issue cycle. -/
def State.returned (s u : State) (f : Nat) : State := s.ended { st := u, eret := some f }

/-! ## Frames -/

/-- The register files of every bank are the same. -/
def SameRegs (t u : Tile) : Prop := ∀ k : BitVec 2, (t.bank k).g = (u.bank k).g ∧ (t.bank k).v = (u.bank k).v ∧ (t.bank k).b = (u.bank k).b

/-- The sticky flags, the format and the levels' number of every bank other than `r` are the same, with everything else of it. -/
def SameBanks (r : BitVec 2) (t u : Tile) : Prop := ∀ k : BitVec 2, k ≠ r → t.bank k = u.bank k

/-- Everything of the module but the served tile, its quad and the counter of issued bundles is the same. -/
def SameRest (s t : State) : Prop :=
  (∀ a, a ≠ s.cur → t.tileAt a = s.tileAt a) ∧ t.mem = s.mem ∧ t.quads = s.quads ∧ t.units = s.units ∧ t.err = s.err
    ∧ t.tick = s.tick ∧ t.packets = s.packets ∧ t.kiln = s.kiln ∧ t.boot = s.boot ∧ t.sch = s.sch ∧ t.outbox = s.outbox

/-- A trigger of an engine has queued its operation: the tile has it at the end of its command queue, its tag is clear, the events of `ev` will look after it, and nothing else has changed. -/
structure Queued (st : Start) (s t : State) (o : DlOp) (named : Tile → Tile) (ev : List (Instr × EvArg)) : Prop where
  tile : t.self = { named s.self with addr := s.cur, queue := (named s.self).queue ++ [queuedOp st s o], nextOp := s.self.nextOp + 1 }
  rest : SameRest s t
  agenda : ∃ d, t.agenda = s.agenda ++ ev.map fun e => (s.tick + 1 + d, e.1, e.2)

/-- A TRIGGER OF AN ENGINE QUEUES ITS OPERATION whenever it fires, its queue has a slot and `ok` holds of what it finds. -/
def Queues (i : Instr) (h : Head) (k : Sock) (o : Option Opnd) (ok : Start → State → Prop) (op : Start → State → DlOp)
    (named : DlOp → Tile → Tile) (ev : DlOp → EvArg → List (Instr × EvArg)) : Prop :=
  ∀ (s : State) (v : Bus), Fires i h v s → Admits h k o v s → ok (s.starts h k o v) (s.latched h k o v) →
    ∃ t, exec i s = .next (s.ended { st := t }) ∧
      Queued (s.starts h k o v) (s.latched h k o v) t (op (s.starts h k o v) (s.latched h k o v))
        (named (op (s.starts h k o v) (s.latched h k o v)))
        (ev (op (s.starts h k o v) (s.latched h k o v)) { tile := (s.latched h k o v).cur, op := (s.latched h k o v).self.nextOp })

/-- No tag, and no event, goes with the operation. -/
def noTag (_ : DlOp) (t : Tile) : Tile := t
def noEvent (_ : DlOp) (_ : EvArg) : List (Instr × EvArg) := []

/-- A `dm` operation names its tag: it is cleared, and the stop of an earlier operation is forgotten (R281). -/
def dmTag (o : DlOp) (t : Tile) : Tile := match o.tag with | some n => t.nameTag n.toNat | none => t
/-- The engine will come to the operation unless it is performed already (R278). -/
def dmEvent (o : DlOp) (e : EvArg) : List (Instr × EvArg) := if o.st = .performed then [] else [(.dmCompletion, e)]
/-- A tag named by an operation of `nt` is cleared (R315). -/
def ntTag (o : DlOp) (t : Tile) : Tile := match o.tag with | some n => t.clearTag n.toNat | none => t
/-- The engine will send the packets of the operation (R304). -/
def ntEvent (_ : DlOp) (e : EvArg) : List (Instr × EvArg) := [(.packetRetry, { e with yes := true })]
/-- The operation will leave for its atomic unit (R352). -/
def unitEvent (_ : DlOp) (e : EvArg) : List (Instr × EvArg) := [(.atomicArrival, { e with yes := true })]

/-- A SCALAR ACCESS OR ATOMIC of `dm`: sizes outside `sizes` and misaligned addresses trap; every other one is queued (R280, R285, R286). -/
def ScalarAccess (i : Instr) (h : Head) (o : Opnd) (kind : OpKind) (wx : Bool) (sizes : List Nat) : Prop :=
  let size := fun st : Start => 2 ^ busBits st.a 58 56
  let g := fun st : Start => busBits st.a 54 0
  Queues i h .dm (some o) (fun st _ => size st ∈ sizes ∧ g st % size st = 0) (fun st _ => newOp st kind wx 0) dmTag dmEvent
    ∧ Traps i h .dm (some o) (fun st _ => size st ∉ sizes ∨ g st % size st ≠ 0) .misaligned (fun st => BitVec.ofNat 64 (g st)) (fun _ => 0)

/-- A SEMAPHORE OR BARRIER OPERATION of `sy`: it will leave for its unit, and holds the strand's next bundle where it has `.acq`; a misaligned address traps (R348, R352, R356). -/
def AtUnit (i : Instr) (h : Head) (kind : OpKind) (wx : Bool) (align : Nat) (ok : Start → State → Prop) : Prop :=
  Queues i h .sy (some .opB) (fun st s => busBits st.a 54 0 % align = 0 ∧ ok st s) (fun st _ => { newOp st kind wx 0 with hold := kind.isAcq }) noTag unitEvent
    ∧ Traps i h .sy (some .opB) (fun st _ => busBits st.a 54 0 % align ≠ 0) .misaligned (fun st => BitVec.ofNat 64 (busBits st.a 54 0)) (fun _ => 0)

/-- A TASK OPERATION: queued in tasked mode in one of its banks, an illegal bundle elsewhere (R404). -/
def TaskOp (i : Instr) (h : Head) (o : Option Opnd) (kind : OpKind) (wx : Bool) (banks : List (BitVec 2)) (ok : Start → Prop) : Prop :=
  Queues i h .tk o (fun st s => s.self.tasked = true ∧ st.bank ∈ banks ∧ ok st) (fun st _ => newOp st kind wx 0) noTag noEvent
    ∧ Traps i h .tk o (fun st s => s.self.tasked = false ∨ st.bank ∉ banks) .illegalBundle (fun _ => 0) (fun _ => 0)

/-- The operation in the tile's queue has been performed: its result, of which `f` holds, can be read from tick `due` on. -/
def Tile.carriedOut (t : Tile) (o : DlOp) (due : Nat) (f : Res → Prop) : Prop :=
  ∀ p ∈ t.queue, p.id = o.id → p.st = .performed ∧ p.due = due ∧ ∃ r, p.res = some r ∧ f r

/-- The operation of `tk` that a tile performs on this tick: the first that stands at the head of its bank's queue, where a `resume` or `tidle` that waits still stands, unless a create, a save or a load is under way (R404, R405, R409, R410). -/
def State.tkHead (s : State) (a : Nat) : Option DlOp :=
  let t := s.tileAt a
  if t.tasks.work.isSome || t.frozen then none
  else t.queue.find? fun o => o.sock == .tk && o.st == .queued
    && t.queue.all fun p => !(p.sock == .tk && p.bank == o.bank && decide (p.id < o.id)) || p.isPerformed

/-- Local memory with its error marks, the engines' state and the special registers of a tile are the same. -/
def SameUnits (t u : Tile) : Prop :=
  t.sram = u.sram ∧ t.bad = u.bad ∧ t.acc = u.acc ∧ t.mxq = u.mxq ∧ t.rings = u.rings ∧ t.cursors = u.cursors ∧ t.tags = u.tags
    ∧ t.zones = u.zones ∧ t.kslots = u.kslots ∧ t.armed = u.armed ∧ t.window = u.window

/-- The supervisor state and the configuration of a tile are the same. -/
def SameSpecial (t u : Tile) : Prop :=
  t.sel = u.sel ∧ t.stmr = u.stmr ∧ t.asid = u.asid ∧ t.tid = u.tid ∧ t.dom = u.dom ∧ t.mode = u.mode ∧ t.lock = u.lock
    ∧ t.sleepd = u.sleepd ∧ t.errs = u.errs ∧ t.digest = u.digest ∧ t.records = u.records ∧ t.run = u.run ∧ t.pend = u.pend

/-! ## What an instruction leaves alone -/

/-- WHAT A TRIGGER LEAVES ALONE, seen from the state its bundle found: every register, the memories and engine state of its tile, the supervisor state, the other banks, and everything of the module outside the tile but the count of issued bundles. -/
structure Leaves (s t : State) : Prop where
  regs : SameRegs s.atBundle.self t.self
  units : SameUnits s.atBundle.self t.self
  special : SameSpecial s.atBundle.self t.self
  banks : SameBanks s.atBundle.self.run s.atBundle.self t.self
  rest : SameRest s.atBundle t

/-- The byte of global memory at an address, and the byte of a tile's local memory (DESIGN CHOICE, log 1). -/
def State.byteAt (s : State) (a : Nat) : Byte := cellsRead s.mem a
def Tile.byteAt (t : Tile) (a : Nat) : Byte := cellsRead t.sram a

/-! ## The host's writes -/

/-- The events that are writes of the host and stand in the order of their port (R372). -/
def portWrites : List Instr :=
  [.registerWrite, .pwrcapWrite, .queueCreate, .queueDestroy, .queueResume, .queueAbort, .fqtailWrite, .resolveRewalk, .resolveFail,
   .transferCommand, .fwcmdActivate, .fwcmdReload, .fwcmdEndReload, .dieFence, .debugHaltRequest, .debugRelease]

/-- The write of the event comes from a port whose earlier writes have all been performed. -/
def State.writes (s : State) : Prop := s.ev.yes = false ∧ s.portHeld s.ev.port = false

/-! ## Invariants -/

/-- Every memory of the module has its canonical form: rising addresses, no byte that an unlisted address would read as. -/
def State.memWf (s : State) : Prop :=
  cellsWf s.mem = true ∧ cellsWf s.staging = true ∧ ∀ t ∈ s.tiles, cellsWf t.sram = true

/-- The memories of the module, and the local memories of the launches that a pre-emption has saved, have their canonical form. -/
structure State.MemoryForm (s : State) : Prop where
  live : s.memWf
  saved : ∀ l ∈ s.sch.launches, ∀ t ∈ l.saved, cellsWf t.sram = true

end Sys2Proof.Machine
end

