-- ==== Sys2Proof/Certificates/Slice0/Obligations.lean ====
section
/-! DEFINITION. What is claimed of the model, statement by statement; each docstring names the rules of the spec that it puts into Lean. -/

open Sys2Proof Sys2Proof.Machine

/-! ## Encoding -/

/-- R99 to R105, Tables 5.1 to 5.6. Every word that the encoder writes for a well-formed move decodes to that move with every operand, in every bundle and strand that Table 5.7 lets it stand in; elsewhere it raises the cause of check 3d or 3f. Events have no word. -/
def Obligations.DecodeEncode : Prop :=
  (∀ i : Instr, encode i = none ↔ isEvent i = true) ∧
  ∀ (i : Instr) (w : Word) (sup : Bool) (nli : Nat), i.wf = true → encode i = some w →
    (moveCause sup nli i = none → decodeMove sup nli w = .ok i)
      ∧ (moveCause sup nli i = some .privilegedPort → decodeMove sup nli w = .error .privilegedPort)
      ∧ (moveCause sup nli i = some .illegalBundle → decodeMove sup nli w = .error .illegalBundle)

/-- R101 to R105. A word that decodes stands for one well-formed move and for no other word: the encoder gives it back bit for bit. -/
def Obligations.EncodeDecode : Prop :=
  ∀ (i : Instr) (w : Word) (sup : Bool) (nli : Nat), decodeMove sup nli w = .ok i →
    i.wf = true ∧ encode i = some w ∧ moveCause sup nli i = none

/-- Tables 5.2 to 5.6. Words written out from the tables: 5 → a0.add.d; li1 → ls.ld with .u .s32 as its modifier field; v3 → v7 under b2; ctl.x → g31 under not b5; −1 → cf.rdcyc; a null move; and words of reserved sockets, ports and modifiers, which decode to nothing. -/
def Obligations.TableWords : Prop :=
  decodeTableWord 32 0x08051101 = some (.add { guard := { inv := false, sel := 0 }, src := .imm 5 } .a0 .w64)
    ∧ decodeTableWord 32 0x07E13106 = some (.ld { guard := { inv := false, sel := 0 }, src := .li 1 } { layout := .lin, natural := true, size := .i32 })
    ∧ decodeTableWord 32 0x204308E0 = some (.move (.live { guard := { inv := false, sel := 2 }, src := .vrf 3 } (.vrf 7)))
    ∧ decodeTableWord 32 0xD00007E0 = some (.move (.live { guard := { inv := true, sel := 5 }, src := .resX .ctl } (.grf 31)))
    ∧ decodeTableWord 32 0x0FFF5100 = some (.rdcyc { guard := { inv := false, sel := 0 }, src := .imm 0x7FF })
    ∧ decodeTableWord 32 0x8FFFFFFF = some (.move (.null 0xFFFFFFF))
    ∧ decodeTableWord 32 0x08005C00 = none
    ∧ decodeTableWord 32 0x08000F00 = none
    ∧ decodeTableWord 32 0x08051102 = none
    ∧ decodeTableWord 32 0x0800FC00 = none

/-- R104. A user strand whose non-null move touches a supervisor port faults with PRIVILEGED_PORT, by the word and at the issue; a supervisor strand may touch every port; the lock of a socket's mode is checked when a `cf.mode` write is performed. -/
def Obligations.PrivilegedPorts : Prop :=
  (∀ (i : Instr) (w : Word), i.wf = true → encode i = some w → touches i = true →
      decodeMove true 3 w = .ok i ∧ decodeMove false 3 w = .error .privilegedPort)
  ∧ (∀ (i : Instr) (h : Head) (d : Option Dst) (s : State), headOf i = some (h, d) → touches i = true → MayIssue s →
      s.atBundle.self.run ≠ 3 → moveCause true s.atBundle.self.lis.length i = none →
      exec i s = .next (s.trapped { s.trapOf .privilegedPort 0 0 with kind := .decode }))
  ∧ (∀ i : Instr, moveCause true 3 i ≠ some .privilegedPort)
  ∧ (∀ h : Head, Traps (.mode h) h .cf (some .opA)
      (fun st s => st.a.getLsbD 63 = false ∧ st.bank ≠ 3 ∧ bits st.a.toNat 13 8 < 23 ∧ s.self.lock.getLsbD (bits st.a.toNat 13 8) = true)
      .privilegedPort (fun _ => 0) (fun st => BitVec.ofNat 64 (bits st.a.toNat 13 8)))

/-! ## A step -/

/-- R99, R108, R121. When the words at the program counter of the tile in turn decode to a bundle, the step runs what they say: the instruction itself for a bundle of one move, BUNDLE_ISSUE for any other. Both find the bundle's long immediates and its length. -/
def Obligations.StepRunsDecoded : Prop :=
  ∀ (s : State) (a : Nat) (rest : List Nat) (b : Bundle),
    takeAgenda s.tick s.agenda = none → s.due = none → s.turn = a :: rest →
    let s0 : State := { s with turn := rest, cur := a }
    let m := if s0.inGang then s0.gangHead a else a
    let t := s0.tileAt m
    let c := s0.codeTile m
    let ws := codeWords (s0.quadAt m) c t.run (t.bank t.run).pc.toNat
    s0.hasTurn s0.self = true → s0.self.asleep = false → (s0.self.bank s0.self.run).idle = 0 →
    (s0.self.run = 3 → (s0.quadAt a).store ≠ []) →
    (t.bank t.run).pc.toNat % 4 = 0 → headLen ws / 4 ≤ ws.length →
    (bundleWords t c (headLen ws / 4)).any (if t.run = 3 then (s0.quadAt m).badStore else (s0.quadAt m).badCode).contains = false →
    decodeBundle (t.run = 3) ws = .ok b →
    (∀ bus i, b.moves = [(bus, i)] → step s = exec i (s0.latch b.lis b.len bus))
      ∧ (b.moves.length ≠ 1 → step s = exec .bundleIssue { s0 with ev := { tile := a } })

/-- R488 with DESIGN CHOICE, log 2. A step takes the first event of the agenda whose tick has come, then what is due on this tick, then the tile in turn; when all of them are done the tick counter goes on. -/
def Obligations.StepRunsEvents : Prop :=
  (∀ (s : State) (i : Instr) (e : EvArg) (rest : List (Nat × Instr × EvArg)),
      takeAgenda s.tick s.agenda = some ((i, e), rest) → isEvent i = true → step s = exec i { s with agenda := rest, ev := e })
  ∧ (∀ (s : State) (i : Instr) (e : EvArg), takeAgenda s.tick s.agenda = none → s.due = some (i, e) → step s = exec i { s with ev := e })
  ∧ (∀ (s : State) (a : Nat) (rest : List Nat), takeAgenda s.tick s.agenda = none → s.due = none → s.turn = a :: rest →
      ({ s with turn := rest, cur := a } : State).hasTurn ({ s with turn := rest, cur := a } : State).self = false →
      step s = .next { s with turn := rest, cur := a })
  ∧ (∀ s : State, takeAgenda s.tick s.agenda = none → s.due = none → s.turn = [] → step s = .next s.nextTick)

/-- R97, R108, R121, R123, R128, R137, R138, Tables 5.6 and 5.7, Table 6.2. A trigger alone in its bundle does what it does among others: its meaning is that of the port, and its trigger operand is the latch that the port names. A bundle of several moves: every source is read before any write; of two writes to one register after the stagger the higher bus's stays; a trigger on a lower bus finds the operand that a plain move of the bundle writes; one empty port stalls the whole bundle; a bundle with a fault of Table 5.7 takes it at once. Decoding counts the moves in bus order against the limits of Table 6.2: the first over a limit, or that names a port again, is the PORT_CONFLICT; but a short bundle, a reserved header bit and then the first move with a fault of step 3 come before it. COMPLETES: bundleIssue. -/
def Obligations.BundleMeansMoves : Prop :=
  (∀ i : Instr,
    (∀ sp, specOf i = some sp → ∀ s, exec i s = issueOne i sp s)
      ∧ (∀ sp h k p md, specOf i = some sp → i.form = .trig h k p md → sp.sock = k ∧ sp.opnd = trigOpnd k p.toNat)
      ∧ (specOf i = none ↔ isEvent i = true ∨ ∃ m, i = .move m))
  ∧ (∀ (s : State) (b1 b2 : BitVec 3) (h1 h2 : Head) (d1 d2 : Dst) (lis : List Word) (len : Nat) (x1 x2 : Src) (v1 v2 : Bus),
      let w := s.reading lis len
      BundleAt s (.ok [(b1, .move (.live h1 d1), none), (b2, .move (.live h2 d2), none)] lis len) →
      MoveReads w b1 (.move (.live h1 d1)) h1 (some d1) x1 v1 → MoveReads w b2 (.move (.live h2 d2)) h2 (some d2) x2 v2 →
      exec .bundleIssue s = .next (finish len { st := (w.onSelf fun t =>
        writeDst (writeDst (emptyPort (emptyPort t x1) x2) v1 (staggerDst w.strand b1 d1)) v2 (staggerDst w.strand b2 d2)).mxIssueCycle w.cur w.self.run }))
  ∧ (∀ (s : State) (b1 b2 : BitVec 3) (i : Instr) (sp : Spec) (h1 h2 : Head) (o : Opnd) (lis : List Word) (len : Nat) (x1 x2 : Src) (v1 v2 : Bus)
      (st : Start) (r : Issue),
      let w := s.reading lis len
      let u := (w.onSelf fun t => writeDst (emptyPort (emptyPort t x1) x2) v2 (.opnd sp.sock o)).mxIssueCycle w.cur w.self.run
      let u := match sp.opnd with
        | some p => u.onSelf fun t => t.onBank w.self.run fun b => b.onSock sp.sock fun c => c.setLatch p v1
        | none => u
      BundleAt s (.ok [(b1, i, some sp), (b2, .move (.live h2 (.opnd sp.sock o)), none)] lis len) → specOf i = some sp → sp.sock ≠ .mx →
      (w.self.locked sp.sock = true → sp.sock ≠ .mu → (u.self).slotFree sp.sock false = true) →
      MoveReads w b1 i h1 none x1 v1 → MoveReads w b2 (.move (.live h2 (.opnd sp.sock o))) h2 (some (.opnd sp.sock o)) x2 v2 →
      st.sock = sp.sock → st.bank = w.self.run → st.a = ((u.self.bank w.self.run).sock sp.sock).a → st.b = ((u.self.bank w.self.run).sock sp.sock).b →
      st.c = ((u.self.bank w.self.run).sock sp.sock).c → st.v = v1 → st.origin = w.strand.pc → st.next = w.strand.pc + BitVec.ofNat 32 len →
      st.seq = w.strand.seq → st.bus = b1 → st.locked = w.self.locked sp.sock → st.fmt = w.strand.fmt →
      sp.run st { st := u } = .ok r → r.ctl ≠ .gang → exec .bundleIssue s = .next (finish len r))
  ∧ (∀ (s : State) (acts : List Act) (lis : List Word) (len : Nat), let w := s.reading lis len
      BundleAt s (.ok acts lis len) → (∀ a ∈ acts, moveCause (w.self.run = 3) w.self.lis.length a.2.1 = none) →
      (∃ a ∈ acts, ∃ h d, headOf a.2.1 = some (h, d) ∧ guardHolds w.strand h.guard = true
        ∧ readSrc w.self w.strand (staggerSrc w.strand a.1 h.src) = none) →
      exec .bundleIssue s = .next (stallTick w))
  ∧ (∀ (s : State) (c : Cause) (bus : Option (BitVec 3)), BundleAt s (.bad c bus) →
      exec .bundleIssue s = .next (s.trapped { s.trapOf c 0 0 with kind := .decode, bus := bus }))
  ∧ (∀ ms : List (BitVec 3 × Instr),
      (checkCaps {} ms = none ↔ WithinLimits (ms.map (·.2)))
      ∧ ∀ (pre post : List (BitVec 3 × Instr)) (b : BitVec 3) (i : Instr), ms = pre ++ (b, i) :: post → WithinLimits (pre.map (·.2)) →
        ¬WithinLimits (pre.map (·.2) ++ [i]) → checkCaps {} ms = some b)
  ∧ (∀ (sup : Bool) (hd : Word) (rest : List Word), let bs := busesOf hd
      (rest.length < bs.length + nliOf hd → decodeBundle sup (hd :: rest) = .error (.illegalBundle, none))
      ∧ (bs.length + nliOf hd ≤ rest.length → hd.extractLsb' 0 22 ≠ 0 → decodeBundle sup (hd :: rest) = .error (.illegalBundle, none))
      ∧ (bs.length + nliOf hd ≤ rest.length → hd.extractLsb' 0 22 = 0 →
        (∀ (k : Nat) (b : BitVec 3) (e : DecodeError), bs[k]? = some b → (∀ j, j < k → ∃ i, decodeMove sup (nliOf hd) (rest.getD j 0) = .ok i) →
          decodeMove sup (nliOf hd) (rest.getD k 0) = .error e → decodeBundle sup (hd :: rest) = .error (e, some b))
        ∧ (∀ is : List Instr, is.length = bs.length → (∀ (k : Nat) (i : Instr), is[k]? = some i → decodeMove sup (nliOf hd) (rest.getD k 0) = .ok i) →
          (∀ b, checkCaps {} (bs.zip is) = some b → decodeBundle sup (hd :: rest) = .error (.portConflict, some b))
          ∧ (WithinLimits is → decodeBundle sup (hd :: rest)
            = .ok { moves := bs.zip is, lis := (rest.drop bs.length).take (nliOf hd), len := 4 * (1 + bs.length + nliOf hd) }))))

/-! ## The issue of a bundle -/

/-- R102, R140. A move takes effect only when its guard holds; a null move never does, and none of its bits is decoded; a move whose guard is false for another reason is decoded in full, so that it still faults, and a guard register with an uncorrectable error faults whatever it holds. -/
def Obligations.GuardAndNull : Prop :=
  (∀ (rest : BitVec 28) (sup : Bool) (nli : Nat), decodeMove sup nli (8#4 ++ rest) = .ok (.move (.null rest)))
  ∧ (∀ (rest : BitVec 28) (s : State), MayIssue s → exec (.move (.null rest)) s = .next s.quiet)
  ∧ (∀ (i : Instr) (h : Head) (d : Option Dst) (s : State), headOf i = some (h, d) → MayIssue s →
      moveCause (s.atBundle.self.run = 3) s.atBundle.self.lis.length i = none →
      guardHolds s.atBundle.strand h.guard = false → s.intact (guardReg h) → exec i s = .next s.quiet)
  ∧ (∀ (i : Instr) (h : Head) (d : Option Dst) (s : State), headOf i = some (h, d) → MayIssue s →
      moveCause (s.atBundle.self.run = 3) s.atBundle.self.lis.length i = none →
      guardHolds s.atBundle.strand h.guard = false → s.badReg (guardReg h) →
      exec i s = .next (s.trapped (s.trapOf .dataUncorrectable 0 1)))
  ∧ (∀ (i : Instr) (h : Head) (d : Option Dst) (c : Cause) (s : State), headOf i = some (h, d) → MayIssue s →
      moveCause (s.atBundle.self.run = 3) s.atBundle.self.lis.length i = some c →
      exec i s = .next (s.trapped { s.trapOf c 0 0 with kind := .decode }))
  ∧ (∀ (b : Strand) (g : Guard), guardHolds b g = (b.getB g.sel != g.inv))

/-- R103, R120, R121, R123, R128, R140, R149. A plain move whose guard holds drives its source's value into its destination: a register of the strand's own bank, or an operand latch; a data-locked port that it reads is emptied. Registers that it reads with single-bit errors are corrected and written back; an uncorrectable one of its guard or its source faults, and nothing is written. A trigger does with its registers the same: it starts from what the corrected registers hold, and with an uncorrectable one it faults in place of its effect. COMPLETES: move. -/
def Obligations.PlainMoves : Prop :=
  (∀ (h : Head) (d : Dst) (v : Bus) (s : State), MayIssue s → Carries (.move (.live h d)) h v s →
    exec (.move (.live h d)) s = .next (s.ended { st := (s.moved h d v).mxIssueCycle s.cur s.atBundle.self.run }))
  ∧ (∀ (h : Head) (d : Dst) (v : Bus) (s : State), MayIssue s →
    moveCause (s.atBundle.self.run = 3) s.atBundle.self.lis.length (.move (.live h d)) = none →
    guardHolds s.atBundle.strand h.guard = true → readSrc s.atBundle.self s.atBundle.strand (s.srcOf h) = some v →
    (¬s.badReg (s.regsOf h) → exec (.move (.live h d)) s = .next (s.ended
      { st := ((s.atBundle.regCorrect s.atBundle.self.run (s.regsOf h)).onSelf fun t =>
          writeDst (emptyPort t (s.srcOf h)) v (staggerDst s.atBundle.strand (s.self).bus d)).mxIssueCycle s.cur s.atBundle.self.run }))
    ∧ (s.badReg (s.regsOf h) → exec (.move (.live h d)) s = .next (s.trapped (s.trapOf .dataUncorrectable 0 1))))
  ∧ (∀ (s : State) (k : BitVec 2) (ps : List (Nat × Nat)), let t := (s.regCorrect k ps).self
    t.banks = (s.self).banks ∧ t.badRegs = (s.self).badRegs
      ∧ ∀ e, e ∈ t.softRegs ↔ e ∈ (s.self).softRegs ∧ ¬(e.1 = k.toNat ∧ (e.2.1, e.2.2.1) ∈ ps))
  ∧ (∀ (i : Instr) (sp : Spec) (h : Head) (v : Bus) (s : State), specOf i = some sp → headOf i = some (h, none) → MayIssue s →
    moveCause (s.atBundle.self.run = 3) s.atBundle.self.lis.length i = none →
    guardHolds s.atBundle.strand h.guard = true → readSrc s.atBundle.self s.atBundle.strand (s.srcOf h) = some v →
    (∀ r : Issue, ¬s.badReg (s.regsOf h) → MendedStart sp h v s (.ok r) →
      exec i s = .next (s.ended (if sp.sock = .mx then { r with st := (r.st).mxIssueCycle s.cur s.atBundle.self.run } else r)))
    ∧ (∀ x, s.badReg (s.regsOf h) → MendedStart sp h v s x → x ≠ .error .stall → x ≠ .error .gangWait →
      exec i s = .next (s.trapped (s.trapOf .dataUncorrectable 0 1))))

/-- R103, R120. What each source drives: an immediate and a long immediate sign-extended to 64 bits, a general register in bits [63:0], a whole vector register, a guard register as 0 or 1, a result or status port of the strand's own socket context. -/
def Obligations.SourceValues : Prop :=
  ∀ (t : Tile) (b : Strand),
    (∀ v, readSrc t b (.imm v) = some ((v.signExtend 64).setWidth 512))
      ∧ (∀ n, readSrc t b (.grf n) = some ((b.getG n).setWidth 512))
      ∧ (∀ n, readSrc t b (.vrf n) = some (b.getV n))
      ∧ (∀ n, readSrc t b (.brf n) = some (if b.getB n then 1 else 0))
      ∧ (∀ j, readSrc t b (.li j) = some (((t.lis.getD j.toNat 0).signExtend 64).setWidth 512))
      ∧ (∀ k, readSrc t b (.resS k) = some ((b.sock k).s.setWidth 512))
      ∧ (∀ k, readSrc t b (.resX k) = if t.locked k = true ∧ (b.sock k).fullX = false then none else some (b.sock k).x)
      ∧ (∀ k, readSrc t b (.resY k) = if (k = .mu ∨ t.locked k = true) ∧ (b.sock k).fullY = false then none else some (b.sock k).y)

/-- R139. Four banks of registers, each strand's ports naming its own bank; `b0` reads 1 and discards writes; a write leaves every other register and every other bank as it is. -/
def Obligations.RegisterBanks : Prop :=
  (∀ (b : Strand) (m n : BitVec 5) (v : Dword), (b.setG n v).getG m = if m = n then v else b.getG m)
  ∧ (∀ (b : Strand) (m n : BitVec 5) (v : Bus), (b.setV n v).getV m = if m = n then v else b.getV m)
  ∧ (∀ (b : Strand) (m n : BitVec 3) (v : Bool), (b.setB n v).getB m = if m = 0 then true else if m = n then v else b.getB m)
  ∧ (∀ (b : Strand) (v : Bool), b.getB 0 = true ∧ b.setB 0 v = b)
  ∧ (∀ (t : Tile) (d : Dst) (v : Bus) (k : BitVec 2), k ≠ t.run → (writeDst t v d).bank k = t.bank k)
  ∧ (∀ (t : Tile) (v : Bus) (n : BitVec 5), (writeDst t v (.grf n)).bank t.run = (t.bank t.run).setG n (Bus.low v))
  ∧ (∀ (t : Tile) (v : Bus) (n : BitVec 5), (writeDst t v (.vrf n)).bank t.run = (t.bank t.run).setV n v)
  ∧ (∀ (t : Tile) (v : Bus) (n : BitVec 3), (writeDst t v (.brf n)).bank t.run = (t.bank t.run).setB n (v.getLsbD 0))

/-- R128, R129, R348, R421. A bundle stalls whole, and leaves nothing but a stalled tick, when a true-guarded move reads an empty port, when the command queue of a data-locked socket, of a multiplication too, has no slot for its trigger, or while an operation that holds the strand, or one of `sv` in bank3, has not completed; but a fault of Table 5.7 does not wait for that. That such a held tick counts as a stalled tick is the model's reading (log 43). -/
def Obligations.Stalls : Prop :=
  (∀ (i : Instr) (h : Head) (d : Option Dst) (s : State), headOf i = some (h, d) → MayIssue s →
      moveCause (s.atBundle.self.run = 3) s.atBundle.self.lis.length i = none →
      guardHolds s.atBundle.strand h.guard = true → readSrc s.atBundle.self s.atBundle.strand (s.srcOf h) = none →
      exec i s = .next (stallTick s.atBundle))
  ∧ (∀ (i : Instr) (sp : Spec) (h : Head) (v : Bus) (s : State), specOf i = some sp → headOf i = some (h, none) → Fires i h v s →
      sp.sock ≠ .mx → sp.sock ≠ .mu → s.atBundle.self.locked sp.sock = true →
      ((s.latched h sp.sock sp.opnd v).self).slotFree sp.sock false = false →
      exec i s = .next (stallTick s.atBundle))
  ∧ (∀ (i : Instr) (h : Head) (d : Option Dst) (s : State), headOf i = some (h, d) → s.inGang = false →
      (s.atBundle.self).takePending s.tick false = none → (s.atBundle.self).canIssue s.tick = true →
      moveCause (s.atBundle.self.run = 3) s.atBundle.self.lis.length i = none → (s.atBundle.self).waits s.tick = true → exec i s = .next (stallTick s.atBundle))
  ∧ (∀ (h : Head) (w : Width) (i : Instr) (o : Opnd) (v : Bus) (s : State),
      (i = .mul h w ∨ i = .mulh h w ∨ i = .mulhn h w) ∧ o = .opB ∨ i = .mac h w ∧ o = .opC → Fires i h v s →
      s.atBundle.self.locked .mu = true → ((s.latched h .mu (some o) v).self).slotFree .mu false = false → exec i s = .next (stallTick s.atBundle))
  ∧ (∀ (i : Instr) (h : Head) (d : Option Dst) (c : Cause) (s : State), headOf i = some (h, d) → s.inGang = false →
      (s.atBundle.self).takePending s.tick false = none → (s.atBundle.self).canIssue s.tick = true →
      moveCause (s.atBundle.self.run = 3) s.atBundle.self.lis.length i = some c →
      exec i s = .next (s.trapped { s.trapOf c 0 0 with kind := .decode }))

/-- R125, R126, R135. A free-running result lands when the issue cycles of its latency have passed: it writes the ports that its operation writes, the status and the sticky flags, and leaves every other port and socket; one that carries a fault raises it in place of landing. -/
def Obligations.Landings : Prop :=
  (∀ (b : Strand) (f : Flight) (n : Nat), b.flight = [f] → (Strand.advance^[n] b).flight = [{ f with r := f.r - n }])
  ∧ (∀ (t : Tile) (k : BitVec 2) (f : Flight), (t.bank k).flight = [f] → f.r ≠ 0 → t.landBank k = t)
  ∧ (∀ (t : Tile) (k : BitVec 2) (f : Flight), (t.bank k).flight = [f] → f.r = 0 → f.late = none →
      let b := (t.landBank k).bank k
      b.flight = [] ∧ (b.sock f.sock).x = f.res.x.getD ((t.bank k).sock f.sock).x
        ∧ (b.sock f.sock).y = f.res.y.getD ((t.bank k).sock f.sock).y ∧ (b.sock f.sock).s = f.res.s
        ∧ b.flags = (t.bank k).flags ||| f.res.flags ∧ (∀ r, r ≠ f.sock → b.sock r = (t.bank k).sock r)
        ∧ b.g = (t.bank k).g ∧ b.v = (t.bank k).v ∧ b.b = (t.bank k).b ∧ (t.landBank k).pend = t.pend)
  ∧ (∀ (t : Tile) (k : BitVec 2) (f : Flight) (p : Pending), (t.bank k).flight = [f] → f.r = 0 → f.late = some p →
      (t.landBank k).pend = t.pend ++ [p] ∧ ((t.landBank k).bank k).socks = (t.bank k).socks)
  ∧ (∀ (t : Tile) (k : BitVec 2) (f g : Flight), (t.bank k).flight = [f, g] → f.r = 0 → g.r = 0 → f.late = none → g.late = none →
      f.sock = g.sock → f.res.x.isSome = true → g.res.x.isSome = true →
      (((t.landBank k).bank k).sock g.sock).x = g.res.x.getD 0)

/-! ## What the computing triggers leave -/

/-- R159 to R161, Table 7.7. Every operation of `a0` and `a1` lands its result and status one issue cycle after a trigger that fires, for both widths and on either socket: the w-bit value sign-extended to 64 bits, Z and N of it, and the other bits only where the table names them. COMPLETES: add, sub, and, or, xor, andn, orn, min, max, minn, maxn, abs, neg, ceq, cne, clt, cle, cltn, clen, sel, lea, addsat, subsat, tst. -/
def Obligations.AluResults : Prop :=
  (∀ (h : Head) (u : Alu) (w : Width),
    Computes (.add h u w) h u.sock (some .opB) 1 (fun st => let w := widthOf w; intRes w ((st.natA w + st.natB w) % 2 ^ w) { cy := decide (st.natA w + st.natB w ≥ 2 ^ w), ov := outOfRange w (st.intA w + st.intB w) })
    ∧ Computes (.sub h u w) h u.sock (some .opB) 1 (fun st => let w := widthOf w; intRes w (wrap w (st.natA w - st.natB w : Int)) { cy := decide (st.natA w < st.natB w), ov := outOfRange w (st.intA w - st.intB w) })
    ∧ Computes (.and h u w) h u.sock (some .opB) 1 (fun st => let w := widthOf w; intRes w (st.natA w &&& st.natB w))
    ∧ Computes (.or h u w) h u.sock (some .opB) 1 (fun st => let w := widthOf w; intRes w (st.natA w ||| st.natB w))
    ∧ Computes (.xor h u w) h u.sock (some .opB) 1 (fun st => let w := widthOf w; intRes w (st.natA w ^^^ st.natB w))
    ∧ Computes (.andn h u w) h u.sock (some .opB) 1 (fun st => let w := widthOf w; intRes w (st.natA w &&& (2 ^ w - 1 - st.natB w)))
    ∧ Computes (.orn h u w) h u.sock (some .opB) 1 (fun st => let w := widthOf w; intRes w (st.natA w ||| (2 ^ w - 1 - st.natB w)))
    ∧ Computes (.min h u w) h u.sock (some .opB) 1 (fun st => let w := widthOf w; intRes w (wrap w (min (st.intA w) (st.intB w))))
    ∧ Computes (.max h u w) h u.sock (some .opB) 1 (fun st => let w := widthOf w; intRes w (wrap w (max (st.intA w) (st.intB w))))
    ∧ Computes (.minn h u w) h u.sock (some .opB) 1 (fun st => let w := widthOf w; intRes w (min (st.natA w) (st.natB w)))
    ∧ Computes (.maxn h u w) h u.sock (some .opB) 1 (fun st => let w := widthOf w; intRes w (max (st.natA w) (st.natB w)))
    ∧ Computes (.abs h u w) h u.sock (some .opA) 1 (fun st => let w := widthOf w; intRes w (wrap w ((st.intA w).natAbs : Int)) { ov := st.intA w == -(2 ^ (w - 1) : Int) })
    ∧ Computes (.neg h u w) h u.sock (some .opA) 1 (fun st => let w := widthOf w; intRes w (wrap w (-st.intA w)) { ov := st.intA w == -(2 ^ (w - 1) : Int), cy := st.natA w != 0 })
    ∧ Computes (.ceq h u w) h u.sock (some .opB) 1 (fun st => let w := widthOf w; intRes w (st.natA w == st.natB w).toNat)
    ∧ Computes (.cne h u w) h u.sock (some .opB) 1 (fun st => let w := widthOf w; intRes w (st.natA w != st.natB w).toNat)
    ∧ Computes (.clt h u w) h u.sock (some .opB) 1 (fun st => let w := widthOf w; intRes w (decide (st.intA w < st.intB w)).toNat)
    ∧ Computes (.cle h u w) h u.sock (some .opB) 1 (fun st => let w := widthOf w; intRes w (decide (st.intA w ≤ st.intB w)).toNat)
    ∧ Computes (.cltn h u w) h u.sock (some .opB) 1 (fun st => let w := widthOf w; intRes w (decide (st.natA w < st.natB w)).toNat)
    ∧ Computes (.clen h u w) h u.sock (some .opB) 1 (fun st => let w := widthOf w; intRes w (decide (st.natA w ≤ st.natB w)).toNat)
    ∧ Computes (.sel h u w) h u.sock (some .opC) 1 (fun st => let w := widthOf w; intRes w (if st.natC w ≠ 0 then st.natA w else st.natB w))
    ∧ Computes (.lea h u w) h u.sock (some .opC) 1 (fun st => let w := widthOf w; intRes w ((st.natA w + st.natB w * 2 ^ (st.c.toNat % 8)) % 2 ^ w))
    ∧ Computes (.addsat h u w) h u.sock (some .opB) 1 (fun st => let w := widthOf w; satRes w (st.intA w + st.intB w) (decide (st.natA w + st.natB w ≥ 2 ^ w)))
    ∧ Computes (.subsat h u w) h u.sock (some .opB) 1 (fun st => let w := widthOf w; satRes w (st.intA w - st.intB w) (decide (st.natA w < st.natB w)))
    ∧ Computes (.tst h u w) h u.sock (some .opB) 1 (fun st => let w := widthOf w; intRes w (st.natA w &&& st.natB w != 0).toNat))
  ∧ (∀ (w r : Nat) (f : IntFlags), (w = 32 ∨ w = 64) → r < 2 ^ w →
      (intRes w r f).x = some ((BitVec.ofInt 64 (if r < 2 ^ (w - 1) then (r : Int) else (r : Int) - 2 ^ w)).setWidth 512) ∧ (intRes w r f).y = none
        ∧ (intRes w r f).flags = 0 ∧ (intRes w r f).s.getLsbD 0 = decide (r = 0) ∧ (intRes w r f).s.getLsbD 1 = decide (2 ^ (w - 1) ≤ r)
        ∧ (intRes w r f).s.getLsbD 2 = f.cy ∧ (intRes w r f).s.getLsbD 3 = f.ov ∧ (intRes w r f).s.getLsbD 4 = f.sat
        ∧ (intRes w r f).s.getLsbD 5 = f.dz ∧ (intRes w r f).s.getLsbD 6 = f.ovfDiv ∧ (intRes w r f).s.toNat < 128)

/-- R162 to R164, Table 7.8. Every operation of `sh` lands its result one issue cycle after its trigger. COMPLETES: shl, shr, sar, rol, ror, clz, ctz, popc, brev, bswap, extz, exts, ins, crc. -/
def Obligations.ShiftResults : Prop :=
  ∀ (h : Head) (w : Width),
    Computes (.shl h w) h .sh (some .opB) 1 (fun st => let w := widthOf w; intRes w (st.natA w * 2 ^ (st.b.toNat % w) % 2 ^ w))
    ∧ Computes (.shr h w) h .sh (some .opB) 1 (fun st => let w := widthOf w; intRes w (st.natA w / 2 ^ (st.b.toNat % w)))
    ∧ Computes (.sar h w) h .sh (some .opB) 1 (fun st => let w := widthOf w; intRes w (wrap w (st.intA w / (2 ^ (st.b.toNat % w) : Nat))))
    ∧ Computes (.rol h w) h .sh (some .opB) 1 (fun st => let w := widthOf w; intRes w (rotl w (st.natA w) (st.b.toNat % w)))
    ∧ Computes (.ror h w) h .sh (some .opB) 1 (fun st => let w := widthOf w; intRes w (rotl w (st.natA w) (w - st.b.toNat % w)))
    ∧ Computes (.clz h w) h .sh (some .opA) 1 (fun st => let w := widthOf w; intRes w (clzN w (st.natA w)))
    ∧ Computes (.ctz h w) h .sh (some .opA) 1 (fun st => let w := widthOf w; intRes w (ctzN w (st.natA w)))
    ∧ Computes (.popc h w) h .sh (some .opA) 1 (fun st => let w := widthOf w; intRes w (popN w (st.natA w)))
    ∧ Computes (.brev h w) h .sh (some .opA) 1 (fun st => let w := widthOf w; intRes w (brevN w (st.natA w)))
    ∧ Computes (.bswap h w) h .sh (some .opA) 1 (fun st => let w := widthOf w; intRes w (leNat (natLe (st.natA w) (w / 8)).reverse))
    ∧ Computes (.extz h w) h .sh (some .opB) 1 (fun st => let w := widthOf w; intRes w (fieldOf w (st.natA w) st.b.toNat).1)
    ∧ Computes (.exts h w) h .sh (some .opB) 1 (fun st => let w := widthOf w; intRes w (wrap w (signExt (fieldOf w (st.natA w) st.b.toNat).1 (fieldOf w (st.natA w) st.b.toNat).2)))
    ∧ Computes (.ins h w) h .sh (some .opC) 1 (fun st => let w := widthOf w; intRes w (insField w (st.natA w) (st.natB w) st.c.toNat))
    ∧ Computes (.crc h w) h .sh (some .opB) 1 (fun st => let w := widthOf w; crcRes w (crcBytes (natLe (st.b.toNat % 2 ^ w) (w / 8)) (st.a.toNat % 2 ^ 32)))

/-- R165, R166, R131, Table 7.9. The products land on `mu.x` after three issue cycles; a quotient or remainder lands on `mu.y` alone, 34 or 66 ticks after its trigger, through a queue of one slot, and stalls while the slot is taken. A division by 0 gives all ones and the dividend, and an overflowing one the dividend and 0. COMPLETES: mul, mulh, mulhn, mac, div, divn, rem, remn. -/
def Obligations.MultiplyAndDivide : Prop :=
  (∀ (h : Head) (w : Width),
    Computes (.mul h w) h .mu (some .opB) 3 (fun st => let w := widthOf w; intRes w (st.natA w * st.natB w % 2 ^ w))
    ∧ Computes (.mulh h w) h .mu (some .opB) 3 (fun st => let w := widthOf w; intRes w (wrap w (st.intA w * st.intB w / (2 ^ w : Nat))))
    ∧ Computes (.mulhn h w) h .mu (some .opB) 3 (fun st => let w := widthOf w; intRes w (st.natA w * st.natB w / 2 ^ w))
    ∧ Computes (.mac h w) h .mu (some .opC) 3 (fun st => let w := widthOf w; intRes w ((st.natA w * st.natB w + st.natC w) % 2 ^ w)))
  ∧ (∀ (h : Head) (w : Width), Divides (.div h w) h w true false ∧ Divides (.divn h w) h w false false
      ∧ Divides (.rem h w) h w true true ∧ Divides (.remn h w) h w false true)
  ∧ (∀ (st : Start) (w : Nat) (sg : Bool), st.natB w = 0 → divide sg w st = (2 ^ w - 1, st.natA w, { dz := true }))
  ∧ (∀ (st : Start) (w : Nat), st.natB w ≠ 0 → st.natA w = (divide false w st).1 * st.natB w + (divide false w st).2.1
      ∧ (divide false w st).2.1 < st.natB w ∧ (divide false w st).2.2 = {})
  ∧ (∀ (st : Start) (w : Nat), st.natB w ≠ 0 → ¬(st.intA w = -(2 ^ (w - 1) : Int) ∧ st.intB w = -1) →
      divide true w st = (wrap w ((st.intA w).tdiv (st.intB w)), wrap w ((st.intA w).tmod (st.intB w)), {}))
  ∧ (∀ (st : Start) (w : Nat), st.natB w ≠ 0 → st.intA w = -(2 ^ (w - 1) : Int) → st.intB w = -1 →
      divide true w st = (st.natA w, 0, { ovfDiv := true }))

/-- R193 to R201. Every operation of `fp` lands its rounded result, its status and its sticky flags after 4 issue cycles, 6 for `.f64`; a float to integer conversion after 4. COMPLETES: fadd, fsub, fmul, fma, fnma, fmin, fmax, fabs, fneg, fcpsgn, fceq, fclt, fcle, fclass, fcvt, fcvtsi, fcvtis. -/
def Obligations.ScalarFloatResults : Prop :=
  ∀ (h : Head) (m : TMod),
    Computes (.fadd h m) h .fp (some .opB) (fpLat m) (fun st => fpRes (fAdd (fmtOf m) (rndOf m) (fpA st m) (fpB st m)))
    ∧ Computes (.fsub h m) h .fp (some .opB) (fpLat m) (fun st => fpRes (fSub (fmtOf m) (rndOf m) (fpA st m) (fpB st m)))
    ∧ Computes (.fmul h m) h .fp (some .opB) (fpLat m) (fun st => fpRes (fMul (fmtOf m) (rndOf m) (fpA st m) (fpB st m)))
    ∧ Computes (.fma h m) h .fp (some .opC) (fpLat m) (fun st => fpRes (fFma (fmtOf m) (rndOf m) false (fpA st m) (fpB st m) (fpC st m)))
    ∧ Computes (.fnma h m) h .fp (some .opC) (fpLat m) (fun st => fpRes (fFma (fmtOf m) (rndOf m) true (fpA st m) (fpB st m) (fpC st m)))
    ∧ Computes (.fmin h m) h .fp (some .opB) (fpLat m) (fun st => fpRes (fMinMax (fmtOf m) false (fpA st m) (fpB st m)))
    ∧ Computes (.fmax h m) h .fp (some .opB) (fpLat m) (fun st => fpRes (fMinMax (fmtOf m) true (fpA st m) (fpB st m)))
    ∧ Computes (.fabs h m) h .fp (some .opA) (fpLat m) (fun st => fpRes { code := fpA st m % fmtSign (fmtOf m) })
    ∧ Computes (.fneg h m) h .fp (some .opA) (fpLat m) (fun st => fpRes { code := fpA st m ^^^ fmtSign (fmtOf m) })
    ∧ Computes (.fcpsgn h m) h .fp (some .opB) (fpLat m) (fun st => fpRes { code := fpA st m % fmtSign (fmtOf m) + fpB st m / fmtSign (fmtOf m) * fmtSign (fmtOf m) })
    ∧ Computes (.fceq h m) h .fp (some .opB) (fpLat m) (fun st => fpRes (cmpRes (fCompare (fmtOf m) .eq (fpA st m) (fpB st m))))
    ∧ Computes (.fclt h m) h .fp (some .opB) (fpLat m) (fun st => fpRes (cmpRes (fCompare (fmtOf m) .lt (fpA st m) (fpB st m))))
    ∧ Computes (.fcle h m) h .fp (some .opB) (fpLat m) (fun st => fpRes (cmpRes (fCompare (fmtOf m) .le (fpA st m) (fpB st m))))
    ∧ Computes (.fclass h m) h .fp (some .opA) (fpLat m) (fun st => fpRes { code := fClass (fmtOf m) (fpA st m) })
    ∧ Computes (.fcvt h m) h .fp (some .opA) (fpLat m) (fun st => fpRes (fcvtRes st m))
    ∧ Computes (.fcvtsi h m) h .fp (some .opA) 4 (fun st => fpRes (fcvtsiRes st m))
    ∧ Computes (.fcvtis h m) h .fp (some .opA) (fpLat m) (fun st => fpRes (fcvtisRes st m))

/-- R202, R203. Every operation of `sf`, scalar and vector, lands after 8 issue cycles. The results of `ex2` and `lg2` are those of the model's series (DESIGN CHOICE, log 11). COMPLETES: ex2, lg2, rcp, rsq, sqrt, fdiv, ex2Vec, lg2Vec, rcpVec, rsqVec, sqrtVec, fdivVec. -/
def Obligations.SpecialFunctionResults : Prop :=
  ∀ (h : Head) (m : TMod),
    Computes (.ex2 h m) h .sf (some .opA) 8 (fun st => fpRes (fEx2 (fmtOf m) (rndOf m) (fpA st m)))
    ∧ Computes (.lg2 h m) h .sf (some .opA) 8 (fun st => fpRes (fLg2 (fmtOf m) (rndOf m) (fpA st m)))
    ∧ Computes (.rcp h m) h .sf (some .opA) 8 (fun st => fpRes (fRcp (fmtOf m) (rndOf m) (fpA st m)))
    ∧ Computes (.rsq h m) h .sf (some .opA) 8 (fun st => fpRes (fRsq (fmtOf m) (rndOf m) (fpA st m)))
    ∧ Computes (.sqrt h m) h .sf (some .opA) 8 (fun st => fpRes (fSqrt (fmtOf m) (rndOf m) (fpA st m)))
    ∧ Computes (.fdiv h m) h .sf (some .opB) 8 (fun st => fpRes (fDiv (fmtOf m) (rndOf m) (fpA st m) (fpB st m)))
    ∧ Computes (.ex2Vec h m) h .sf (some .opA) 8 (fun st => sfVec m st fun a _ => fEx2 (fmtOf m) (rndOf m) a)
    ∧ Computes (.lg2Vec h m) h .sf (some .opA) 8 (fun st => sfVec m st fun a _ => fLg2 (fmtOf m) (rndOf m) a)
    ∧ Computes (.rcpVec h m) h .sf (some .opA) 8 (fun st => sfVec m st fun a _ => fRcp (fmtOf m) (rndOf m) a)
    ∧ Computes (.rsqVec h m) h .sf (some .opA) 8 (fun st => sfVec m st fun a _ => fRsq (fmtOf m) (rndOf m) a)
    ∧ Computes (.sqrtVec h m) h .sf (some .opA) 8 (fun st => sfVec m st fun a _ => fSqrt (fmtOf m) (rndOf m) a)
    ∧ Computes (.fdivVec h m) h .sf (some .opB) 8 (fun st => sfVec m st fun a b => fDiv (fmtOf m) (rndOf m) a b)

/-- R195, R204 to R207. Every operation of `vu` lands its lanes, with the OR of their flags, after 4 issue cycles, 6 for 64-bit lanes. COMPLETES: vadd, vsub, vmul, vfma, vfnma, vmin, vmax, vabs, vneg, vceq, vclt, vcle, vsel, vand, vor, vxor, vshl, vshr, vsar, vsum, vhmax, vscale. -/
def Obligations.VectorResults : Prop :=
  ∀ (h : Head) (m : TMod),
    Computes (.vadd h m) h .vu (some .opB) (vuLat m) (fun st => lanewise m st fun a b _ => vAdd m (rndOf m) a b)
    ∧ Computes (.vsub h m) h .vu (some .opB) (vuLat m) (fun st => lanewise m st fun a b _ => vSub m (rndOf m) a b)
    ∧ Computes (.vmul h m) h .vu (some .opB) (vuLat m) (fun st => lanewise m st fun a b _ => vMul m (rndOf m) a b)
    ∧ Computes (.vfma h m) h .vu (some .opC) (vuLat m) (fun st => lanewise m st fun a b c => vFma false m (rndOf m) a b c)
    ∧ Computes (.vfnma h m) h .vu (some .opC) (vuLat m) (fun st => lanewise m st fun a b c => vFma true m (rndOf m) a b c)
    ∧ Computes (.vmin h m) h .vu (some .opB) (vuLat m) (fun st => lanewise m st fun a b _ => vMinMax false m a b)
    ∧ Computes (.vmax h m) h .vu (some .opB) (vuLat m) (fun st => lanewise m st fun a b _ => vMinMax true m a b)
    ∧ Computes (.vabs h m) h .vu (some .opA) (vuLat m) (fun st => lanewise m st fun a _ _ => vAbs m a)
    ∧ Computes (.vneg h m) h .vu (some .opA) (vuLat m) (fun st => lanewise m st fun a _ _ => vNeg m a)
    ∧ Computes (.vceq h m) h .vu (some .opB) (vuLat m) (fun st => lanewise m st fun a b _ => vCompare .eq m a b)
    ∧ Computes (.vclt h m) h .vu (some .opB) (vuLat m) (fun st => lanewise m st fun a b _ => vCompare .lt m a b)
    ∧ Computes (.vcle h m) h .vu (some .opB) (vuLat m) (fun st => lanewise m st fun a b _ => vCompare .le m a b)
    ∧ Computes (.vsel h m) h .vu (some .opC) (vuLat m) (fun st => lanewise m st fun a b c => { code := if c ≠ 0 then a else b })
    ∧ Computes (.vshl h m) h .vu (some .opB) (vuLat m) (fun st => lanewise m st fun a b _ => { code := a * 2 ^ (b % tmodBits m) % 2 ^ tmodBits m })
    ∧ Computes (.vshr h m) h .vu (some .opB) (vuLat m) (fun st => lanewise m st fun a b _ => { code := a / 2 ^ (b % tmodBits m) })
    ∧ Computes (.vsar h m) h .vu (some .opB) (vuLat m) (fun st => lanewise m st fun a b _ => { code := (signExt a (tmodBits m) / (2 ^ (b % tmodBits m) : Nat) % (2 ^ tmodBits m : Nat)).toNat })
    ∧ Computes (.vsum h m) h .vu (some .opA) (vuLat m) (fun st => vsumRes m st)
    ∧ Computes (.vhmax h m) h .vu (some .opA) (vuLat m) (fun st => vhmaxRes m st)
    ∧ Computes (.vscale h m) h .vu (some .opB) (vuLat m) (fun st => lanewise m st fun a b _ => fScale (fmtOf m) (rndOf m) a (signExt b (tmodBits m)))
    ∧ Computes (.vand h) h .vu (some .opB) 4 (fun st => vxRes (st.a &&& st.b))
    ∧ Computes (.vor h) h .vu (some .opB) 4 (fun st => vxRes (st.a ||| st.b))
    ∧ Computes (.vxor h) h .vu (some .opB) 4 (fun st => vxRes (st.a ^^^ st.b))

/-- R208 to R212. Every operation of `vx` lands its lanes after 2 issue cycles. COMPLETES: vperm, vshuf, vbcast, vext, vins, vcvt, vpack, vunpk, vcmprs, vlane, vrot, vmerge, vmask. -/
def Obligations.LaneMoveResults : Prop :=
  ∀ (h : Head) (m : TMod) (c : CMod),
    Computes (.vperm h m) h .vx (some .opB) 2 (fun st => let w := tmodBits m; let n := 512 / w; vxRes (mapLanes w fun i => let j := lane w st.b i; if j < n then lane w st.a j else 0))
    ∧ Computes (.vshuf h m) h .vx (some .opC) 2 (fun st => let w := tmodBits m; let n := 512 / w; vxRes (mapLanes w fun i => let j := lane w st.c i; if j < n then lane w st.a j else if j < 2 * n then lane w st.b (j - n) else 0))
    ∧ Computes (.vbcast h m) h .vx (some .opA) 2 (fun st => let w := tmodBits m; vxRes (mapLanes w fun _ => st.a.toNat % 2 ^ w))
    ∧ Computes (.vext h m) h .vx (some .opB) 2 (fun st => vextRes m st)
    ∧ Computes (.vins h m) h .vx (some .opC) 2 (fun st => vinsRes m st)
    ∧ Computes (.vcvt h c) h .vx (some .opA) 2 (fun st => vcvtRes c st)
    ∧ Computes (.vpack h c) h .vx (some .opB) 2 (fun st => vpackRes c st)
    ∧ Computes (.vunpk h c) h .vx (some .opA) 2 (fun st => vunpkRes c st)
    ∧ Computes (.vcmprs h m) h .vx (some .opB) 2 (fun st => vcmprsRes m st)
    ∧ Computes (.vlane h m) h .vx (some .opB) 2 (fun st => let w := tmodBits m; vxRes (mapLanes w fun i => (st.a.toNat % 2 ^ w + i * (st.b.toNat % 2 ^ w)) % 2 ^ w))
    ∧ Computes (.vrot h m) h .vx (some .opB) 2 (fun st => let w := tmodBits m; let n := 512 / w; vxRes (mapLanes w fun i => lane w st.a ((i + st.b.toNat % 2 ^ 64) % n)))
    ∧ Computes (.vmerge h m) h .vx (some .opC) 2 (fun st => let w := tmodBits m; vxRes (mapLanes w fun i => if st.c.getLsbD i then lane w st.b i else lane w st.a i))
    ∧ Computes (.vmask h m) h .vx (some .opA) 2 (fun st => vmaskRes m st)

/-! ## Local memory: `ls` -/

/-- R220 to R224, R216. `ld`, `vld`, `vldl` and `vgat` land what their bytes hold, under any layout, after three issue cycles; words that no unmasked byte lies in are not read; an element that is misaligned or beyond local SRAM traps. Sound bytes read as they are stored, and the read changes nothing. COMPLETES: ld, vld, vldl, vgat. -/
def Obligations.LocalLoads : Prop :=
  (∀ (h : Head) (m : LMod),
    LoadsLocal (.ld h m) h .opA (isizeBytes m.size) (fun st => [lsAddr st]) (fun st => layoutSpan m.layout (lsAddr st) (isizeBytes m.size))
      (fun _ bs => scalar (if m.natural then BitVec.ofNat 64 (leNat bs) else BitVec.ofInt 64 (signExt (leNat bs) (isizeBits m.size))))
    ∧ LoadsLocal (.vgat h m) h .opB (isizeBytes m.size) (gatherAddrs m)
      (fun st => (gatherAddrs m st).flatMap fun a => layoutSpan m.layout a (isizeBytes m.size))
      (fun st bs => { x := some (BitVec.ofNat 512 (ofLanes (if isizeBytes m.size ≤ 4 then 32 else 64)
        ((chunksOf (isizeBytes m.size) (gatherAddrs m st).length bs).map fun e => (lsExtend m (leNat e)).toNat))) }))
  ∧ (∀ (h : Head) (l : Layout),
    LoadsLocal (.vld h l) h .opA 64 (fun st => [lsAddr st]) (fun st => layoutSpan l (lsAddr st) 64) (fun _ bs => { x := some (busOf bs) })
    ∧ LoadsLocal (.vldl h l) h .opB 64 (fun st => [lsAddr st])
      (fun st => ((List.range 64).filter fun k => st.b.getLsbD k).map fun k => layoutMap l (lsAddr st + k))
      (fun st bs => { x := some (scatterBytes ((List.range 64).filter fun k => st.b.getLsbD k) bs) }))
  ∧ (∀ (s : State) (a : Nat) (ps : List Nat), (∀ p ∈ ps, (s.tileAt a).soft.contains (p / 8) = false) →
      (∀ p ∈ ps, (s.tileAt a).isUnspec p = false) → s.sramRead a ps = (ps.map (cellsRead (s.tileAt a).sram), s))

/-- R220 to R224, R216. `st`, `vst`, `vstl` and `vsct` write their bytes at their trigger; bytes that are not named keep their value; a write that covers only a part of an uncorrectable word traps with nothing written, and one that covers it whole clears its error. When the status of a data-locked store can be read is a free choice of the model (logs 21, 86). COMPLETES: st, vst, vstl, vsct. -/
def Obligations.LocalStores : Prop :=
  (∀ (h : Head) (m : LMod),
    StoresLocal (.st h m) h .opB (isizeBytes m.size) (fun st => [lsAddr st])
      (fun st => [(layoutSpan m.layout (lsAddr st) (isizeBytes m.size)).zip (natLe st.b.toNat (isizeBytes m.size))])
    ∧ StoresLocal (.vsct h m) h .opC (isizeBytes m.size) (gatherAddrs m)
      (fun st => (List.range (gatherAddrs m st).length).map fun k =>
        (layoutSpan m.layout ((gatherAddrs m st).getD k 0) (isizeBytes m.size)).zip
          (natLe (lane (if isizeBytes m.size ≤ 4 then 32 else 64) st.c k) (isizeBytes m.size))))
  ∧ (∀ (h : Head) (l : Layout),
    StoresLocal (.vst h l) h .opB 64 (fun st => [lsAddr st]) (fun st => [(layoutSpan l (lsAddr st) 64).zip (bytesOf st.b)])
    ∧ StoresLocal (.vstl h l) h .opC 64 (fun st => [lsAddr st])
      (fun st => [((List.range 64).filter fun k => st.b.getLsbD k).map fun k => (layoutMap l (lsAddr st + k), (bytesOf st.c).getD k 0)]))
  ∧ (∀ (t : Tile) (ws : List (Nat × Byte)) (p : Nat), cellsWf t.sram = true →
      cellsRead (t.sramWrite ws).sram p = ((ws.reverse.find? fun w => w.1 == p).map (·.2)).getD (cellsRead t.sram p))
  ∧ (∀ (t : Tile) (ws : List (Nat × Byte)) (w : Nat), (t.sramWrite ws).bad.contains w =
      (t.bad.contains w && !(List.range 8).all fun k => (ws.map (·.1)).contains (8 * w + k)))

/-- R225. The seven local atomics: what each makes of old, B and C; only `acas` may leave memory as it is, and only it sets OK. COMPLETES: aadd, aswp, acas, amin, amax, aor, aand. -/
def Obligations.LocalAtomics : Prop :=
  ∀ (h : Head) (m : LMod),
    AtomicLocal (.aadd h m) h .opB m false (fun old b _ => (some ((old + b) % 2 ^ isizeBits m.size), false))
    ∧ AtomicLocal (.aswp h m) h .opB m false (fun _ b _ => (some b, false))
    ∧ AtomicLocal (.aor h m) h .opB m false (fun old b _ => (some (old ||| b), false))
    ∧ AtomicLocal (.aand h m) h .opB m false (fun old b _ => (some (old &&& b), false))
    ∧ AtomicLocal (.amin h m) h .opB m (!m.natural) (fun old b _ => (some (if lsLess m b old then b else old), false))
    ∧ AtomicLocal (.amax h m) h .opB m (!m.natural) (fun old b _ => (some (if lsLess m old b then b else old), false))
    ∧ AtomicLocal (.acas h m) h .opC m (!m.natural) (fun old b c => if old = b then (some c, true) else (none, false))

/-- R217, R218, R219, Table 10.1. Each layout is a permutation of local SRAM that undoes itself; under `.sw64` and `.sw128` an aligned access of up to 64 bytes stays in one line with its bytes in order. -/
def Obligations.LayoutsPermute : Prop :=
  (∀ (l : Layout) (a : Nat), a < 0x60000 → layoutMap l a < 0x60000 ∧ layoutMap l (layoutMap l a) = a)
  ∧ (∀ (l : Layout) (a j : Nat), (l = .sw64 ∨ l = .sw128) → j ≤ 6 → a % 2 ^ j = 0 → ∀ k, k < 2 ^ j →
      layoutMap l (a + k) = layoutMap l a + k ∧ layoutMap l (a + k) / 64 = layoutMap l a / 64)

/-! ## Streams and rings: `ag` -/

/-- R230, R231. `sopen` sets a cursor to the first element of a pattern and writes the element count to `ag.y`; `sstep` lands the next address and then moves on, with LAST at the last element and END after it; a pattern that is not there and a cursor never opened trap, the latter with detail 0 (the model's choice, log 33). When the status of a data-locked `sopen` can be read is a free choice of the model (logs 21, 86). COMPLETES: sopen, sstep. -/
def Obligations.Streams : Prop :=
  (∀ (h : Head) (p : BitVec 5) (x : Pattern),
    Runs (.sopen h p) h .ag (some .opB) (fun _ s => s.self.pattern p.toNat = some x)
      (fun st s =>
        let c : BitVec 2 := st.b.setWidth 2
        leaves ((s.onSelf fun t => { t with cursors := t.cursors.set c.toNat (some { pat := x, base := st.natA 64, idx := 0 }) c.isLt }).performedNow
            st { y := some (BitVec.ofNat 512 (min x.count (2 ^ 64 - 1))), s := if x.count = 0 then 8 else 0 })))
  ∧ (∀ (h : Head) (p : BitVec 5),
    Traps (.sopen h p) h .ag (some .opB) (fun _ s => s.self.pattern p.toNat = none) .ringFault (fun _ => 0) (fun _ => 0x8000 + p.setWidth 64 * 256))
  ∧ (∀ (h : Head) (c : BitVec 2) (u : Cursor),
    Runs (.sstep h) h .ag (some .opA) (fun st s => st.a.setWidth 2 = c ∧ s.self.cursors[c.toNat]'c.isLt = some u ∧ u.pat.count ≤ u.idx)
        (fun st s => leaves (s.delivered st 1 (scalar 0 8)))
    ∧ Runs (.sstep h) h .ag (some .opA) (fun st s => st.a.setWidth 2 = c ∧ s.self.cursors[c.toNat]'c.isLt = some u ∧ u.idx < u.pat.count)
        (fun st s =>
          leaves ((s.onSelf fun t => { t with cursors := t.cursors.set c.toNat (some { u with idx := u.idx + 1 }) c.isLt }).delivered st 1
              (scalar (BitVec.ofNat 64 (u.pat.addr u.base u.idx)) (if u.idx + 1 = u.pat.count then 4 else 0))))
    ∧ Traps (.sstep h) h .ag (some .opA) (fun st s => st.a.setWidth 2 = c ∧ s.self.cursors[c.toNat]'c.isLt = none) .ringFault (fun _ => 0) (fun _ => 0))
  ∧ (∀ (p : Pattern) (b0 len : Nat) (stride : Int) (i : Nat), p.dims = [(len, stride)] → i < len → p.count = len ∧
      p.addr b0 i = ((((b0 + p.base : Nat) : Int) + i * stride).emod (2 ^ 64 : Nat)).toNat)

/-- R229, R232, R233, R235, R226, R227. `rinit` gives a ring its extent and empties it; `rpush` pushes one line, `rpop` pops one, `rdrop` drops k without reading them, and `rstat` reads the ring's state whatever its valid bit. A full, empty, bound or filled ring stalls a data-locked `ag` and faults a free-running one, and a ring that is not valid faults in both. R226, R227. Pushing a line stores its 64 bytes at the tail, in the ring's layout, and moves the tail; popping moves the head; both are counted, and what was pushed first is what is popped first. That `rstat` answers whatever the valid bit is the model's reading of R235 beside R229 (log 12), and when a data-locked status can be read is a free choice (logs 21, 86). COMPLETES: rinit, rpush, rpop, rstat, rdrop. -/
def Obligations.Rings : Prop :=
  (∀ (h : Head) (n : BitVec 3),
    Runs (.rinit h n) h .ag (some .opB)
      (fun st s => (s.self.ring n).filler = none ∧ s.self.ringBound n = false
        ∧ (st.b.getLsbD 16 = true → ringBad (busBits st.a 18 0) (busBits st.a 50 32) (busBits st.b 4 0) = false))
      (fun st s =>
        let r : Ring := { base := busBits st.a 18 0, size := busBits st.a 50 32, n := busBits st.b 4 0, layout := layoutOf (busBits st.b 9 8),
                          valid := st.b.getLsbD 16 }
        leaves ((s.onSelf fun t => t.setRing n r).performedNow st { y := some ((ringWord s.self n).setWidth 512), s := ringStatus r }))
    ∧ Traps (.rinit h n) h .ag (some .opB)
      (fun st s => (s.self.ring n).filler = none ∧ s.self.ringBound n = false ∧ st.b.getLsbD 16 = true
        ∧ ringBad (busBits st.a 18 0) (busBits st.a 50 32) (busBits st.b 4 0) = true) .ringFault (fun _ => 0) (fun _ => n.setWidth 64)
    ∧ RingWaits (.rinit h n) h (some .opB) n (fun _ s => (s.self.ring n).filler.isSome = true ∨ s.self.ringBound n = true))
  ∧ (∀ (h : Head) (n : BitVec 3),
    Runs (.rpush h n) h .ag (some .opA)
      (fun _ s => (s.self.ring n).valid = true ∧ (s.self.ring n).filler = none ∧ (s.self.ring n).count + 1 ≤ (s.self.ring n).lines)
      (fun st s => leaves ((s.onSelf fun t => t.pushLine n (bytesOf st.a)).performedNow st { s := ringStatus ((s.self.pushLine n (bytesOf st.a)).ring n) }))
    ∧ RingWaits (.rpush h n) h (some .opA) n
      (fun _ s => (s.self.ring n).valid = true ∧ ((s.self.ring n).filler.isSome = true ∨ (s.self.ring n).lines < (s.self.ring n).count + 1)))
  ∧ (∀ (h : Head) (n : BitVec 3),
    let pop := fun s : State => s.onSelf fun t => t.setRing n ((t.ring n).popped 1)
    let line := fun s : State => (s.self.ring n).lineSpan (s.self.ring n).head
    let ready := fun s : State => (s.self.ring n).valid = true ∧ (s.self.ring n).count ≠ 0 ∧ s.self.ringBound n = false
    Runs (.rpop h n) h .ag none (fun _ s => ready s ∧ s.self.badWords (line s) = false)
      (fun st s => leaves ((pop (s.sramRead s.cur (line s)).2).delivered st 1
        { x := some (busOf (s.sramRead s.cur (line s)).1), s := ringStatus ((s.self.ring n).popped 1) }))
    ∧ Runs (.rpop h n) h .ag none (fun _ s => ready s ∧ s.self.badWords (line s) = true)
      (fun st s => leaves ((pop ((s.correct s.cur (line s)).noteCause s.cur (lateBad st s.tick))).delivered st 1 { x := some 0 } (some (lateBad st s.tick))))
    ∧ RingWaits (.rpop h n) h none n
      (fun _ s => (s.self.ring n).valid = true ∧ ((s.self.ring n).count = 0 ∨ s.self.ringBound n = true)))
  ∧ (∀ (h : Head) (n : BitVec 3),
    Runs (.rdrop h n) h .ag (some .opA) (fun st s => (s.self.ring n).valid = true ∧ st.natA 32 = 0)
      (fun st s => leaves (s.performedNow st { s := ringStatus (s.self.ring n) }))
    ∧ Runs (.rdrop h n) h .ag (some .opA)
      (fun st s => (s.self.ring n).valid = true ∧ st.natA 32 ≠ 0 ∧ st.natA 32 ≤ (s.self.ring n).count ∧ s.self.ringBound n = false)
      (fun st s => leaves ((s.onSelf fun t => t.setRing n ((t.ring n).popped (st.natA 32))).performedNow
        st { s := ringStatus ((s.self.ring n).popped (st.natA 32)) }))
    ∧ RingWaits (.rdrop h n) h (some .opA) n
      (fun st s => (s.self.ring n).valid = true ∧ st.natA 32 ≠ 0 ∧ ((s.self.ring n).count < st.natA 32 ∨ s.self.ringBound n = true)))
  ∧ (∀ (h : Head) (n : BitVec 3),
    Computes' (.rstat h n) h .ag none 1 (fun _ s => scalar (ringWord s.self n) (ringStatus (s.self.ring n))))
  ∧ (∀ (h : Head) (n : BitVec 3),
    Traps (.rpush h n) h .ag (some .opA) (fun _ s => (s.self.ring n).valid = false) .ringFault (fun _ => 0) (fun _ => n.setWidth 64)
    ∧ Traps (.rpop h n) h .ag none (fun _ s => (s.self.ring n).valid = false) .ringFault (fun _ => 0) (fun _ => n.setWidth 64)
    ∧ Traps (.rdrop h n) h .ag (some .opA) (fun _ s => (s.self.ring n).valid = false) .ringFault (fun _ => 0) (fun _ => n.setWidth 64)
    ∧ Traps (.rfill h n) h .ag (some .opB) (fun _ s => (s.self.ring n).valid = false) .ringFault (fun _ => 0) (fun _ => n.setWidth 64))
  ∧ (∀ (t : Tile) (n : BitVec 3) (bs : List Byte) (k : Nat), cellsWf t.sram = true → bs.length = 64 → k < 64 →
      let r := t.ring n
      t.badWords (r.lineSpan r.tail) = false →
      let u := t.pushLine n bs
      cellsRead u.sram (layoutMap r.layout (r.base + 64 * r.tail + k)) = bs.getD k 0
        ∧ (u.ring n).tail = (r.tail + 1) % max r.lines 1 ∧ (u.ring n).count = r.count + 1 ∧ (u.ring n).head = r.head
        ∧ (∀ p, (∀ j, j < 64 → p ≠ layoutMap r.layout (r.base + 64 * r.tail + j)) → cellsRead u.sram p = cellsRead t.sram p)
        ∧ (∀ m, m ≠ n → u.ring m = t.ring m) ∧ u.banks = t.banks)
  ∧ (∀ (r : Ring) (k : Nat), (r.popped k).head = (r.head + k) % max r.lines 1 ∧ (r.popped k).count = r.count - k ∧ (r.popped k).tail = r.tail)
  ∧ (∀ r : Ring, r.pushed.lineSpan r.tail = layoutSpan r.layout (r.base + 64 * r.tail) 64)

/-- R234. `rfill` starts the filler of a ring: it clears its tag, writes the byte count of its pattern to `ag.y`, and makes the filler the ring's producer; a pattern that is not there, elements that are misaligned or beyond local SRAM trap, in that order, and a ring with a filler waits. The address that these traps report (log 27), the ticks from which the first elements are gathered and the first line may be committed (free, log 17) and the tick of a data-locked status (logs 21, 86) are the model's choices. COMPLETES: rfill. -/
def Obligations.FillerStarts : Prop :=
  (∀ (h : Head) (n : BitVec 3) (p : Pattern),
    let found := fun (st : Start) (s : State) => (s.self.ring n).valid = true ∧ s.self.pattern (busBits st.b 4 0) = some p
    let sound := fun st : Start => p.count = 0 ∨ (p.aligned (st.natA 64) = true ∧ p.inLocal (st.natA 64) = true)
    Runs (.rfill h n) h .ag (some .opB) (fun st s => found st s ∧ sound st ∧ (s.self.ring n).filler = none)
      (fun st s =>
        let f : Filler :=
          { pat := p, base := st.natA 64, idx := 0, stage := [], tag := BitVec.ofNat 6 (busBits st.b 13 8), isGlobal := false, scope := .tile,
            asid := s.self.asid, bank := st.bank, origin := st.origin, seq := st.seq, task := s.self.taskIn st.bank,
            due := s.tick + 1 + (if p.count = 0 then 0 else Config.delay s.free), commitAt := s.tick + 3 + Config.delay (s.free + 1), opId := 0 }
        leaves (({ s.onSelf fun t => (t.clearTag (busBits st.b 13 8 % 64)).setRing n { t.ring n with filler := some f } with free := s.free + 2 } : State).performedNow
            st { y := some (BitVec.ofNat 512 (min (p.count * 2 ^ p.esize) (2 ^ 64 - 1))), s := ringStatus (s.self.ring n) }))
    ∧ Traps (.rfill h n) h .ag (some .opB) (fun st s => found st s ∧ p.count ≠ 0 ∧ p.aligned (st.natA 64) = false) .misaligned
      (fun st => BitVec.ofNat 64 (st.natA 64 + p.base)) (fun _ => 0)
    ∧ Traps (.rfill h n) h .ag (some .opB)
      (fun st s => found st s ∧ p.count ≠ 0 ∧ p.aligned (st.natA 64) = true ∧ p.inLocal (st.natA 64) = false) .localRange
      (fun st => BitVec.ofNat 64 (st.natA 64 + p.base)) (fun _ => 0)
    ∧ RingWaits (.rfill h n) h (some .opB) n (fun st s => found st s ∧ sound st ∧ (s.self.ring n).filler.isSome = true))
  ∧ (∀ (h : Head) (n : BitVec 3) (q : BitVec 5),
    Traps (.rfill h n) h .ag (some .opB) (fun st s => (s.self.ring n).valid = true ∧ busBits st.b 4 0 = q.toNat ∧ s.self.pattern q.toNat = none)
      .ringFault (fun _ => 0) (fun _ => 0x8000 + q.setWidth 64 * 256))
  ∧ (∀ (t : Tile) (n m : Nat), n < 64 → m < 64 → (t.clearTag n).tags.getLsbD m = (t.tags.getLsbD m && m != n))

/-! ## The matrix unit: `mx` -/

/-- R244, R247, R256 to R260. Every trigger of `mx` joins the end of the sequence when fewer than two operations are outstanding; a third stalls a data-locked `mx` and is refused, with the queue flag in `mx.s`, by a free-running one; a format pair outside Table 11.1 is refused; the address checks of `mst` and `mld` trap, and the ring checks of `mma` and `mmas` trap with RING_FAULT at the first ring at fault in the order of R247. COMPLETES: mma, mmas, mzero, mrd, mst, mld, mmask. -/
def Obligations.MatrixTriggers : Prop :=
  (∀ (h : Head) (acc : BitVec 2),
    JoinsMx (.mzero h acc) h none acc false always .mzero (fun _ _ => 1) (fun _ _ => [])
    ∧ JoinsMx (.mrd h acc) h (some .opA) acc false always .mrd (fun _ _ => 1) (fun _ _ => [])
    ∧ JoinsMx (.mmask h acc) h (some .opB) acc false always .mmask (fun _ _ => 1) (fun _ _ => [])
    ∧ JoinsMx (.mst h acc) h (some .opA) acc false (fun st _ => st.natA 32 % 64 = 0 ∧ st.natA 32 + 1024 ≤ 0x60000) .mst (fun _ _ => 16) (fun _ _ => [])
    ∧ JoinsMx (.mld h acc) h (some .opA) acc false (fun st _ => st.natA 32 % 64 = 0 ∧ st.natA 32 + 1024 ≤ 0x60000) .mld (fun _ _ => 16) (fun _ _ => []))
  ∧ (∀ (h : Head) (acc : BitVec 2) (f : MxForm),
    JoinsMx (.mma h acc) h (some .opB) acc false
      (fun st s => mxForm false (busBits st.b 15 0) st.fmt = some f ∧ mxRings st s.self (f.claims false (busBits st.b 15 0) st.a) = .ok ()) (.mma false)
      (fun st _ => if busBits st.b 15 0 = 0 then 1 else busBits st.b 15 0 * f.cycles false) (fun st _ => f.claims false (busBits st.b 15 0) st.a)
    ∧ JoinsMx (.mmas h acc) h (some .opB) acc true
      (fun st s => mxForm true (busBits st.b 15 0) st.fmt = some f ∧ mxRings st s.self (f.claims true (busBits st.b 15 0) st.a) = .ok ()) (.mma true)
      (fun st _ => if busBits st.b 15 0 = 0 then 1 else busBits st.b 15 0 * f.cycles true) (fun st _ => f.claims true (busBits st.b 15 0) st.a))
  ∧ (∀ (h : Head) (acc : BitVec 2),
    RunsMx (.mma h acc) h (some .opB) (fun st s => mxRoom st (s.pruned) ∧ mxForm false (busBits st.b 15 0) st.fmt = none)
      (fun st s => leaves (mxWordNext st (mxStatus acc true false false false false false false) s.pruned))
    ∧ RunsMx (.mmas h acc) h (some .opB) (fun st s => mxRoom st (s.pruned) ∧ mxForm true (busBits st.b 15 0) st.fmt = none)
      (fun st s => leaves (mxWordNext st (mxStatus acc true false false false false true false) s.pruned)))
  ∧ (∀ (h : Head) (acc : BitVec 2) (f : MxForm) (n : BitVec 3),
    TrapsMx (.mma h acc) h (some .opB)
      (fun st s => mxRoom st s.pruned ∧ mxForm false (busBits st.b 15 0) st.fmt = some f
        ∧ ringStop st s.pruned.self (f.claims false (busBits st.b 15 0) st.a) = some n) .ringFault (fun _ => 0) (fun _ => n.setWidth 64)
    ∧ TrapsMx (.mmas h acc) h (some .opB)
      (fun st s => mxRoom st s.pruned ∧ mxForm true (busBits st.b 15 0) st.fmt = some f
        ∧ ringStop st s.pruned.self (f.claims true (busBits st.b 15 0) st.a) = some n) .ringFault (fun _ => 0) (fun _ => n.setWidth 64))
  ∧ (∀ (h : Head) (acc : BitVec 2),
    TrapsMx (.mst h acc) h (some .opA) (fun st s => mxRoom st s.pruned ∧ st.natA 32 % 64 ≠ 0) .misaligned (fun st => BitVec.ofNat 64 (st.natA 32)) (fun _ => 0)
    ∧ TrapsMx (.mld h acc) h (some .opA) (fun st s => mxRoom st s.pruned ∧ st.natA 32 % 64 ≠ 0) .misaligned (fun st => BitVec.ofNat 64 (st.natA 32)) (fun _ => 0)
    ∧ TrapsMx (.mst h acc) h (some .opA) (fun st s => mxRoom st s.pruned ∧ st.natA 32 % 64 = 0 ∧ 0x60000 < st.natA 32 + 1024) .localRange
      (fun st => BitVec.ofNat 64 (st.natA 32)) (fun _ => 0)
    ∧ TrapsMx (.mld h acc) h (some .opA) (fun st s => mxRoom st s.pruned ∧ st.natA 32 % 64 = 0 ∧ 0x60000 < st.natA 32 + 1024) .localRange
      (fun st => BitVec.ofNat 64 (st.natA 32)) (fun _ => 0))

/-- R249, R250, R256 to R260. What an operation of `mx` leaves at the end of its last cycle: zeros, the masks, the rows that were loaded, or the accumulated products, in the entries that the masks admit and with their residues; every other entry and every other accumulator stays. -/
def Obligations.MatrixEffects : Prop :=
  (∀ (t : Tile) (now : Nat) (o : MxOp), o.kind = .mzero →
      (t.mxCommit now o).getAcc o.acc = (t.getAcc o.acc).write (fun _ _ => 0))
  ∧ (∀ (t : Tile) (now : Nat) (o : MxOp), o.kind = .mmask →
      (t.mxCommit now o).getAcc o.acc = { t.getAcc o.acc with rows := o.a.setWidth 16, cols := o.b.setWidth 16 })
  ∧ (∀ (t : Tile) (now : Nat) (o : MxOp), o.kind = .mld →
      (t.mxCommit now o).getAcc o.acc = (t.getAcc o.acc).write (fun i j => BitVec.ofNat 32 (lane 32 (o.linesA.getD i 0) j)))
  ∧ (∀ (t : Tile) (now : Nat) (o : MxOp), o.kind = .mst ∨ o.kind = .mrd → (t.mxCommit now o).acc = t.acc)
  ∧ (∀ (t : Tile) (now : Nat) (o : MxOp) (sp : Bool) (f : MxForm), o.kind = .mma sp → mxForm sp o.nb o.fmt = some f →
      (t.mxCommit now o).getAcc o.acc
        = (t.getAcc o.acc).write (fun i j => BitVec.ofNat 32 (mxEntry f sp o.nb o ((t.getAcc o.acc).entry i j).toNat i j)))
  ∧ (∀ (t : Tile) (now : Nat) (o : MxOp) (n : BitVec 2), n ≠ o.acc → (t.mxCommit now o).getAcc n = t.getAcc n)
  ∧ (∀ (a : Acc) (f : Nat → Nat → Word) (i j : Nat), i < 16 → j < 16 →
      (a.write f).entry i j = if a.rows.getLsbD i = true ∧ a.cols.getLsbD j = true then f i j else a.entry i j)
  ∧ (∀ (a : Acc) (f : Nat → Nat → Word) (i j : Nat), i < 16 → j < 16 → a.rows.getLsbD i = true → a.cols.getLsbD j = true →
      (a.write f).res.toList.getD (16 * i + j) 0 = BitVec.ofNat 2 ((f i j).toNat % 3))

/-! ## Control and configuration: `ctl` and `cf` -/

/-- R144, R146, R152. `jmp`, `jmpr`, `call`, `callr` and `ret` send the strand to the low 32 bits of their operand, whatever its source, three ticks later, or four where the target bundle crosses a line; every level is discarded; the two calls land the offset of the bundle that follows on `ctl.x` for the next issue cycle. COMPLETES: jmp, jmpr, call, callr, ret. -/
def Obligations.Transfers : Prop :=
  (∀ h : Head,
    Runs (.jmp h) h .ctl (some .opA) always (fun st s => { st := s, ctl := .jump (st.a.setWidth 32) false })
    ∧ Runs (.jmpr h) h .ctl (some .opA) always (fun st s => { st := s, ctl := .jump (st.a.setWidth 32) false })
    ∧ Runs (.ret h) h .ctl (some .opA) always (fun st s => { st := s, ctl := .jump (st.a.setWidth 32) false })
    ∧ Runs (.call h) h .ctl (some .opA) always
      (fun st s => { landNext st { x := some (st.next.setWidth 512) } { st := s } with ctl := .jump (st.a.setWidth 32) true })
    ∧ Runs (.callr h) h .ctl (some .opA) always
      (fun st s => { landNext st { x := some (st.next.setWidth 512) } { st := s } with ctl := .jump (st.a.setWidth 32) true }))
  ∧ (∀ (s u : State) (target : Word) (call : Bool),
      let t := s.ended { st := u, ctl := .jump target call }
      let k := u.self.run
      (t.self.bank k).pc = target ∧ (t.self.bank k).levels = [] ∧ (t.self.bank k).passEnd = false
        ∧ t.self.ready = u.tick + if ((if k = 3 then 0 else (u.codeTile u.cur).codeStart) + target.toNat) % 64
            + headLen (codeWords (u.quadAt u.cur) (u.codeTile u.cur) k target.toNat) > 64 then 4 else 3)

/-- R148, R150, R152, Table 7.2. `loop` opens a level whose body is the L bundles that follow it, skips the body when the bound is 0, and traps with LOOP_NEST when L is not 1 to 16, when two levels are open, or when the body would end after the outer one. At the end of a pass the innermost level is evaluated first: it goes on while its count stays below the bound. COMPLETES: loop. -/
def Obligations.Loops : Prop :=
  (∀ h : Head,
    let level := fun st : Start => ({ start := st.next, len := bits st.a.toNat 4 0, count := 0, bound := bits st.b.toNat 31 0, step := signExt st.c.toNat 32, stagger := bits st.a.toNat 7 5, mask := BitVec.ofNat 16 (bits st.a.toNat 23 8), pass := 0, loopx := false } : Level)
    let endOf := fun (s : State) (st : Start) (l : Level) => afterBundles (s.quadAt s.cur) (s.codeTile s.cur) st.bank l.len l.start.toNat
    let open_ := fun (st : Start) (s : State) => (s.self.bank st.bank).levels
    let fits := fun (st : Start) (s : State) => 1 ≤ bits st.a.toNat 4 0 ∧ bits st.a.toNat 4 0 ≤ 16 ∧ (open_ st s).length < 2
      ∧ ∀ o, (open_ st s).getLast? = some o → endOf s st (level st) ≤ endOf s st o
    Runs (.loop h) h .ctl (some .opC) (fun st s => fits st s ∧ bits st.b.toNat 31 0 ≠ 0) (fun st s => { st := s, ctl := .openLevel (level st) })
    ∧ Runs (.loop h) h .ctl (some .opC) (fun st s => fits st s ∧ bits st.b.toNat 31 0 = 0)
      (fun st s => { st := s, ctl := .skip (BitVec.ofNat 32 (endOf s st (level st))) })
    ∧ Traps (.loop h) h .ctl (some .opC) (fun st s => ¬fits st s) .loopNest (fun _ => 0) (fun _ => 0))
  ∧ (∀ (s u : State) (l : Level), let t := s.ended { st := u, ctl := .openLevel l }
      (t.self.bank u.self.run).levels = (u.self.bank u.self.run).levels ++ [l]
        ∧ (t.self.bank u.self.run).pc = (u.self.bank u.self.run).pc + BitVec.ofNat 32 (s.self).blen ∧ t.self.ready = u.tick + 1)
  ∧ (∀ (s u : State) (target : Word), let t := s.ended { st := u, ctl := .skip target }
      (t.self.bank u.self.run).levels = (u.self.bank u.self.run).levels ∧ (t.self.bank u.self.run).pc = target)
  ∧ (∀ (endOf : Level → Nat) (l : Level) (outer : List Level) (next : Nat), endOf l = next →
      (l.loopx = true ∨ (0 < l.step ∧ (l.bound : Int) ≤ l.count + l.step) → evalLevels endOf (l :: outer) next = evalLevels endOf outer next)
      ∧ (l.loopx = false ∧ 0 < l.step ∧ (l.count : Int) + l.step < l.bound →
          evalLevels endOf (l :: outer) next = ({ l with count := l.count + l.step.toNat, pass := l.pass + 1 } :: outer, l.start.toNat))
      ∧ (l.loopx = false ∧ l.step ≤ 0 → evalLevels endOf (l :: outer) next = ({ l with pass := l.pass + 1 } :: outer, l.start.toNat)))
  ∧ (∀ (endOf : Level → Nat) (l : Level) (outer : List Level) (next : Nat), endOf l ≠ next → evalLevels endOf (l :: outer) next = (l :: outer, next))

/-- R151. `ctl.loopx` at port 14, destination field 0x00E, class Z, whatever value its trigger move carries, writes no operand and marks the innermost level to close at the end of its pass, whose rest still issues; without a level it has no effect, and a second one changes nothing. COMPLETES: loopx. -/
def Obligations.LoopExit : Prop :=
  (∀ (h : Head) (w : Word), encode (.loopx h) = some w → w.extractLsb' 5 11 = 0x00E ∧ w.extractLsb' 0 5 = 0)
  ∧ (∀ h : Head, Runs (.loopx h) h .ctl none always (fun _ s => { st := s, ctl := .loopx }))
  ∧ (∀ (s : State) (h : Head) (v v' : Bus), s.latched h .ctl none v = s.latched h .ctl none v')
  ∧ (∀ s u : State, let t := s.ended { st := u, ctl := .loopx }
      (t.self.bank u.self.run).levels = markLoopx (u.self.bank u.self.run).levels
        ∧ (t.self.bank u.self.run).pc = (u.self.bank u.self.run).pc + BitVec.ofNat 32 (s.self).blen ∧ t.self.ready = u.tick + 1)
  ∧ (∀ (outer : List Level) (l : Level), markLoopx (outer ++ [l]) = outer ++ [{ l with loopx := true }])
  ∧ markLoopx [] = []
  ∧ (∀ ls : List Level, markLoopx (markLoopx ls) = markLoopx ls)
  ∧ (∀ (endOf : Level → Nat) (l : Level) (outer : List Level) (next : Nat), endOf l = next → l.loopx = true →
      evalLevels endOf (l :: outer) next = evalLevels endOf outer next)

/-- R153 to R155, R134, R442. `idle` makes the next n ticks issue cycles without a bundle; `halt` stops the strand, its in-flight operations and its levels; `trap` raises TRAP_INSTRUCTION with its code after the other moves of the bundle, and `brk` DEBUG where the tile's debug enable is set, and nothing elsewhere. COMPLETES: idle, halt, trap, brk. -/
def Obligations.IdleHaltTrap : Prop :=
  (∀ h : Head,
    Runs (.idle h) h .ctl (some .opA) always (fun st s => { st := s, ctl := .idle (bits st.a.toNat 31 0) })
    ∧ Runs (.halt h) h .ctl none always (fun _ s => { st := s, ctl := .halt })
    ∧ Runs (.trap h) h .ctl (some .opA) always (fun st s => { st := s, ctl := .raise (trapCause st .trapInstruction s.tick) })
    ∧ Runs (.brk h) h .ctl (some .opA) (fun _ s => s.debugEnabled s.cur = true) (fun st s => { st := s, ctl := .raise (trapCause st .debug s.tick) })
    ∧ Runs (.brk h) h .ctl (some .opA) (fun _ s => s.debugEnabled s.cur = false) (fun _ s => { st := s }))
  ∧ (∀ (st : Start) (c : Cause) (now : Nat), (trapCause st c now).code = st.a.setWidth 16 ∧ (trapCause st c now).kind = .trigger
      ∧ (trapCause st c now).origin = st.origin ∧ (trapCause st c now).bank = st.bank ∧ (trapCause st c now).cause = c)
  ∧ (∀ (s u : State) (n : Nat), let t := s.ended { st := u, ctl := .idle n }
      (t.self.bank u.self.run).idle = n ∧ (t.self.bank u.self.run).pc = (u.self.bank u.self.run).pc + BitVec.ofNat 32 (s.self).blen)
  ∧ (∀ s u : State, let t := s.ended { st := u, ctl := .halt }
      (t.self.bank u.self.run).life = .halted ∧ (t.self.bank u.self.run).flight = [] ∧ (t.self.bank u.self.run).levels = [])
  ∧ (∀ (s u : State) (p : Pending), let t := s.ended { st := u, ctl := .raise p }
      t.self.pend = u.self.pend ++ [p] ∧ (t.self.bank u.self.run).pc = (u.self.bank u.self.run).pc + BitVec.ofNat 32 (s.self).blen)

/-- R156, R157, R111, R112. COMPLETES: gang, split. `gang` traps outside timetabled bank0 or with a tile of role none or halted; it waits until all four tiles of the quad are at their gang bundles, which then issue on one tick, sleepers after the longest wake delay; once they form the gang it completes. `split` dissolves a gang: each member goes on at its own target; outside a gang it does nothing. -/
def Obligations.Gangs : Prop :=
  (∀ h : Head,
    let mates := fun s : State => [quadOf s.cur, quadOf s.cur + 1, quadOf s.cur + 2, quadOf s.cur + 3].filter fun m => m ≠ s.cur
    let legal := fun (st : Start) (s : State) => s.self.tasked = false ∧ st.bank = 0 ∧ s.self.role.isSome = true
      ∧ (∀ m ∈ mates s, (s.tileAt m).role.isSome = true)
    let calm := fun (st : Start) (s : State) => legal st s ∧ (s.quadAt s.cur).ganged = false ∧ ∀ m ∈ mates s, ((s.tileAt m).bank 0).life ≠ .halted
    Traps (.gang h) h .ctl (some .opA) (fun st s => ¬legal st s) .illegalBundle (fun _ => 0) (fun _ => 0)
    ∧ Traps (.gang h) h .ctl (some .opA)
      (fun st s => legal st s ∧ (s.quadAt s.cur).ganged = false ∧ ∃ m ∈ mates s, ((s.tileAt m).bank 0).life = .halted) .illegalBundle (fun _ => 0) (fun _ => 0)
    ∧ Runs (.gang h) h .ctl (some .opA) (fun st s => calm st s ∧ s.self.gangGo = true) (fun _ s => { st := s, ctl := .gang })
    ∧ (∀ (s : State) (v : Bus), Fires (.gang h) h v s → Admits h .ctl (some .opA) v s →
        calm (s.starts h .ctl (some .opA) v) (s.latched h .ctl (some .opA) v) → (s.latched h .ctl (some .opA) v).self.gangGo = false →
        exec (.gang h) s = .next (meetGang (stallTick (s.atBundle.onSelf fun t => { t with gangWait := some s.tick, gangTrap := none }))))
    ∧ Runs (.split h) h .ctl (some .opA) (fun _ s => (s.quadAt s.cur).ganged = false) (fun _ s => { st := s }))
  ∧ (∀ s : State, (∃ m ∈ s.four, (s.tileAt m).gangWait ≠ some s.tick) → meetGang s = s)
  ∧ (∀ s : State, (∀ m ∈ s.four, (s.tileAt m).gangWait = some s.tick) →
      ((∀ m ∈ s.four, (s.tileAt m).asleep = false ∧ (s.tileAt m).gangTrap = none) → (meetGang s).turn = s.four ++ s.turn
        ∧ (meetGang s).cnt.stall = s.cnt.stall - 4 ∧ ∀ m ∈ s.four, ((meetGang s).tileAt m).gangGo = true ∧ ((meetGang s).tileAt m).ready = s.tick
          ∧ ((meetGang s).tileAt m).stalled = (s.tileAt m).stalled - 1)
      ∧ ((∀ m ∈ s.four, (s.tileAt m).asleep = false) → ∀ m ∈ s.four, (s.tileAt m).gangTrap.isSome = true → ((meetGang s).tileAt m).run = 3)
      ∧ ∀ x ∈ s.four, (s.tileAt x).asleep = true →
        (∀ y ∈ s.four, (s.tileAt y).asleep = true → wakeDelay (s.tileAt y).sleepd ≤ wakeDelay (s.tileAt x).sleepd) →
        ∀ m ∈ s.four, ((meetGang s).tileAt m).asleep = false ∧ ((meetGang s).tileAt m).gangWait = none
          ∧ ((meetGang s).tileAt m).ready = s.tick + wakeDelay (s.tileAt x).sleepd)
  ∧ (∀ (h : Head) (s : State) (v : Nat → Bus), s.inGang = true → (∀ m ∈ s.four, GangFires (.split h) h (v m) s m) →
      ∃ t, exec (.split h) s = .next t ∧ (t.quadAt s.cur).ganged = false ∧ ∀ m ∈ s.four, ((t.tileAt m).bank 0).pc = (v m).setWidth 32
        ∧ ((t.tileAt m).bank 0).levels = [] ∧ (t.tileAt m).gangHold = false
        ∧ (t.tileAt m).ready = s.tick + transferTicks (s.quadAt m) (s.tileAt m) 0 ((v m).setWidth 32).toNat)
  ∧ (∀ (s u : State), let t := s.ended { st := u, ctl := .gang }
      (∀ m, quadOf m = quadOf u.cur → m ≠ u.cur → (u.tileAt m).gangGo = false) →
      (t.quadAt u.cur).ganged = true ∧ ∀ m, quadOf m = quadOf u.cur →
        ((t.tileAt m).bank 0).pc = (((u.tileAt (quadOf u.cur)).bank 0).sock .ctl).a.setWidth 32 ∧ ((t.tileAt m).bank 0).levels = [])

/-- R168. `cf.rdcyc` at port 8, destination field 0x288, class Z, lands the module's tick counter as it stands on the tick of its bundle on `cf.x`, whatever value its trigger move carries. COMPLETES: rdcyc. -/
def Obligations.ReadsTickCounter : Prop :=
  (∀ (h : Head) (w : Word), encode (.rdcyc h) = some w → w.extractLsb' 5 11 = 0x288 ∧ w.extractLsb' 0 5 = 0)
  ∧ (∀ h : Head, Runs (.rdcyc h) h .cf none always (fun st s => landNext st { x := some (BitVec.ofNat 512 (s.tick % 2 ^ 64)) } { st := s }))
  ∧ (∀ (s : State) (h : Head) (v v' : Bus), s.latched h .cf none v = s.latched h .cf none v')

/-- R167, R169 to R173, R35. The other operations of `cf` land the value they read or replace on `cf.x` an issue cycle later, with `cf.s` set only by a refused write: `fmt` and its delay of three bundles, `mode` with its locks, `dom`, `tid`, `flags` which clears what its mask names, and `sleepd`. A mode changes when the bundle ends, so that the bundle's own triggers run under the old one. That a value 3 of `sleepd` is refused (log 22) and that the mode of every bank changes (log 23) are the model's choices. COMPLETES: fmt, mode, dom, tid, flags, sleepd. -/
def Obligations.Configuration : Prop :=
  (∀ h : Head,
    let old := fun (st : Start) (s : State) => landNext st { x := some (st.fmt.setWidth 512) } { st := s }
    Runs (.fmt h) h .cf (some .opA) (fun st _ => st.a.getLsbD 63 = true) old
    ∧ Runs (.fmt h) h .cf (some .opA) (fun st _ => st.a.getLsbD 63 = false)
      (fun st s => leaves ((old st s).st.onSelf fun t => t.onBank st.bank fun b => { b with fmtPend := st.a.setWidth 13, fmtLeft := 3, fmtDue := false })))
  ∧ (∀ h : Head,
    let n := fun st : Start => bits st.a.toNat 13 8
    let old := fun (st : Start) (s : State) (r : Dword) => landNext st { x := some (BitVec.ofNat 512 (modeByte s.self (n st))), s := r } { st := s }
    let allowed := fun (st : Start) (s : State) => st.a.getLsbD 63 = false ∧ ¬(st.bank ≠ 3 ∧ n st < 23 ∧ s.self.lock.getLsbD (n st) = true)
    Runs (.mode h) h .cf (some .opA) (fun st _ => st.a.getLsbD 63 = true) (fun st s => old st s 0)
    ∧ Runs (.mode h) h .cf (some .opA) (fun st s => allowed st s ∧ modeSock (n st) = none) (fun st s => old st s 1)
    ∧ (∀ k : Sock, Runs (.mode h) h .cf (some .opA) (fun st s => allowed st s ∧ modeSock (n st) = some k ∧ s.self.locked k = st.a.getLsbD 0) (fun st s => old st s 0)
      ∧ Runs (.mode h) h .cf (some .opA) (fun st s => allowed st s ∧ modeSock (n st) = some k ∧ s.self.locked k ≠ st.a.getLsbD 0)
        (fun st s => { old st s 0 with mode := some (k, st.a.getLsbD 0) })))
  ∧ (∀ (s u : State) (k : Sock) (b : Bool), k.noMode = false → k.always = false → let t := s.ended { st := u, mode := some (k, b) }
      t.self.locked k = b ∧ ∀ j, j ≠ k → t.self.locked j = u.self.locked j)
  ∧ (∀ (h : Head) (lev : BitVec 3) (v : Dword), lev.toNat < 5 →
    Runs (.dom h lev) h .cf none (fun _ s => s.self.dom.toList[lev.toNat]? = some v) (fun st s => landNext st { x := some (v.setWidth 512) } { st := s }))
  ∧ (∀ (h : Head) (k : BitVec 4) (v : Dword), k.toNat < 4 →
    Runs (.tid h k) h .cf none (fun _ s => s.self.tid.toList[k.toNat]? = some v) (fun st s => landNext st { x := some (v.setWidth 512) } { st := s }))
  ∧ (∀ h : Head, Runs (.flags h) h .cf (some .opA) always
      (fun st s => leaves ((landNext st { x := some ((s.self.bank st.bank).flags.setWidth 512) } { st := s }).st.onSelf fun t =>
        t.onBank st.bank fun b => { b with flags := b.flags &&& ~~~(st.a.setWidth 6) })))
  ∧ (∀ h : Head,
    let old := fun (st : Start) (s : State) (r : Dword) => landNext st { x := some (s.self.sleepd.setWidth 512), s := r } { st := s }
    Runs (.sleepd h) h .cf (some .opA) (fun st _ => st.a.getLsbD 63 = true) (fun st s => old st s 0)
    ∧ Runs (.sleepd h) h .cf (some .opA) (fun st _ => st.a.getLsbD 63 = false ∧ bits st.a.toNat 1 0 = 3) (fun st s => old st s 1)
    ∧ Runs (.sleepd h) h .cf (some .opA) (fun st _ => st.a.getLsbD 63 = false ∧ bits st.a.toNat 1 0 ≠ 3)
      (fun st s => leaves ((old st s 0).st.onSelf fun t => { t with sleepd := st.a.setWidth 2 })))
  ∧ (∀ (t : Tile) (k : Sock) (b : Bool), k.noMode = false → k.always = false → (changeMode t k b).locked k = b
      ∧ ∀ j, j ≠ k → (changeMode t k b).locked j = t.locked j)

/-! ## The engines: `dm`, `nt`, `kn`, `sy`, `tk` -/

/-- R280 to R288, R420. The triggers of the copy engine: an operation with its operands, its bound ASID and its place in trigger order joins the queue, its tag is cleared, and the engine will come to it; an empty copy completes on the next tick. A misaligned operand, a local range outside SRAM, a pattern that is not there, and a ring that is not valid trap at the trigger. MISALIGNED of a copy reports its local address, whichever operand is misaligned (R420); a `fill` or a scalar access has no local address, and its report of the virtual one is the model's choice (log 96). COMPLETES: get, put, getp, putp, fill, gld, gst, gadd, gswp, gcas, gmin, gmax, gand, gor, gxor, mfence. -/
def Obligations.CopyTriggers : Prop :=
  (∀ (h : Head) (m : MMod) (k : Bool),
    let i : Instr := if k then .get h m else .put h m
    let kind : OpKind := if k then .get m else .put m
    let g := fun st : Start => busBits st.a 54 0
    let l := fun st : Start => busBits st.b 31 0
    let n := fun st : Start => busBits st.c 23 0
    Queues i h .dm (some .opC) (fun st _ => g st % 4 = 0 ∧ l st % 4 = 0 ∧ n st % 4 = 0 ∧ l st + n st ≤ 0x60000)
      (fun st s => emptyCopy s.tick { newOp st kind false 0 with tag := some (BitVec.ofNat 6 (busBits st.c 37 32)), rest := List.range (n st / 4) }) dmTag dmEvent
    ∧ Traps i h .dm (some .opC) (fun st _ => g st % 4 ≠ 0 ∨ l st % 4 ≠ 0 ∨ n st % 4 ≠ 0) .misaligned (fun st => BitVec.ofNat 64 (l st)) (fun _ => 0)
    ∧ Traps i h .dm (some .opC) (fun st _ => g st % 4 = 0 ∧ l st % 4 = 0 ∧ n st % 4 = 0 ∧ 0x60000 < l st + n st) .localRange
      (fun st => BitVec.ofNat 64 (l st)) (fun _ => 0))
  ∧ (∀ (h : Head) (m : MMod) (k : Bool) (p : Pattern),
    let i : Instr := if k then .getp h m else .putp h m
    let kind : OpKind := if k then .getp m else .putp m
    let g := fun st : Start => busBits st.a 54 0
    let l := fun st : Start => busBits st.b 31 0
    let found := fun (st : Start) (s : State) => s.self.pattern (busBits st.c 44 40) = some p
    let aligned := fun st : Start => (p.count = 0 ∨ p.aligned (g st) = true) ∧ l st % min (2 ^ p.esize) 4 = 0
    Queues i h .dm (some .opC) (fun st s => found st s ∧ aligned st ∧ l st + p.count * 2 ^ p.esize ≤ 0x60000)
      (fun st s => emptyCopy s.tick
        { newOp st kind false 0 with tag := some (BitVec.ofNat 6 (busBits st.c 37 32)), pat := some p, rest := List.range p.count }) dmTag dmEvent
    ∧ Traps i h .dm (some .opC) (fun st s => found st s ∧ ¬aligned st) .misaligned (fun st => BitVec.ofNat 64 (l st)) (fun _ => 0)
    ∧ Traps i h .dm (some .opC) (fun st s => found st s ∧ aligned st ∧ 0x60000 < l st + p.count * 2 ^ p.esize) .localRange
      (fun st => BitVec.ofNat 64 (l st)) (fun _ => 0)
    ∧ ∀ q : BitVec 5, Traps i h .dm (some .opC) (fun st s => busBits st.c 44 40 = q.toNat ∧ s.self.pattern q.toNat = none) .ringFault (fun _ => 0)
      (fun _ => 0x8000 + q.setWidth 64 * 256))
  ∧ (∀ (h : Head) (m : MMod) (p : Pattern) (n : BitVec 3),
    let g := fun st : Start => busBits st.a 54 0
    let found := fun (st : Start) (s : State) => BitVec.ofNat 3 (busBits st.b 18 16) = n ∧ (s.self.ring n).valid = true ∧ s.self.pattern (busBits st.b 4 0) = some p
    Queues (.fill h m) h .dm (some .opB) (fun st s => found st s ∧ (p.count = 0 ∨ p.aligned (g st) = true))
      (fun st s =>
        let o : DlOp := { newOp st (.fill m) false 0 with tag := some (BitVec.ofNat 6 (busBits st.b 13 8)), pat := some p }
        if p.count = 0 ∧ (s.self.ring n).filler.isNone then emptyCopy s.tick o else o) dmTag dmEvent
    ∧ (∀ q : BitVec 5, Traps (.fill h m) h .dm (some .opB)
      (fun st s => BitVec.ofNat 3 (busBits st.b 18 16) = n ∧ (s.self.ring n).valid = true ∧ busBits st.b 4 0 = q.toNat ∧ s.self.pattern q.toNat = none)
      .ringFault (fun _ => 0) (fun _ => 0x8000 + q.setWidth 64 * 256))
    ∧ Traps (.fill h m) h .dm (some .opB) (fun st s => found st s ∧ p.count ≠ 0 ∧ p.aligned (g st) = false) .misaligned
      (fun st => BitVec.ofNat 64 (g st)) (fun _ => 0)
    ∧ Traps (.fill h m) h .dm (some .opB) (fun st s => BitVec.ofNat 3 (busBits st.b 18 16) = n ∧ (s.self.ring n).valid = false) .ringFault
      (fun _ => 0) (fun _ => n.setWidth 64))
  ∧ (∀ (h : Head) (m : MMod), ScalarAccess (.gld h m) h .opA (.gld m) true [1, 2, 4, 8]
    ∧ ScalarAccess (.gst h m) h .opB (.gst m) false [1, 2, 4, 8]
    ∧ ScalarAccess (.gadd h m) h .opB (.gatom .add m) true [4, 8] ∧ ScalarAccess (.gswp h m) h .opB (.gatom .swp m) true [4, 8]
    ∧ ScalarAccess (.gcas h m) h .opC (.gcas m) true [4, 8, 16] ∧ ScalarAccess (.gmin h m) h .opB (.gatom .min m) true [4, 8]
    ∧ ScalarAccess (.gmax h m) h .opB (.gatom .max m) true [4, 8] ∧ ScalarAccess (.gand h m) h .opB (.gatom .and m) true [4, 8]
    ∧ ScalarAccess (.gor h m) h .opB (.gatom .or m) true [4, 8] ∧ ScalarAccess (.gxor h m) h .opB (.gatom .xor m) true [4, 8]
    ∧ Queues (.mfence h m) h .dm none always (fun st _ => newOp st (.mfence m) false 0) dmTag dmEvent)

/-- R315 to R320. The triggers of the exchange: `ttarm`, `push`, `pushp`, `land`, `lclose`, `msg` and `mig` join the queue when their checks pass, and trap with the cause of the first that fails. COMPLETES: ttarm, push, pushp, land, lclose, msg, mig. -/
def Obligations.ExchangeTriggers : Prop :=
  (∀ (h : Head) (k : BitVec 4),
    let armable := fun s : State => s.self.tasked = false ∧ ∃ x ∈ s.self.timetables, x.num = k.toNat
    Queues (.ttarm h k) h .nt none (fun _ s => armable s) (fun st _ => { newOp st .ttarm false 0 with val := k.toNat }) ntTag noEvent
    ∧ Traps (.ttarm h k) h .nt none (fun _ s => ¬armable s) .exchangeFault (fun _ => 0) (fun _ => 0))
  ∧ (∀ h : Head,
    let l := fun st : Start => busBits st.b 31 0
    let n := fun st : Start => busBits st.c 19 0
    let off := fun st : Start => busBits st.a 58 40
    let even := fun st : Start => l st % 4 = 0 ∧ n st % 4 = 0 ∧ off st % 4 = 0
    let inside := fun st : Start => (n st = 0 ∨ l st + n st ≤ 0x60000) ∧ off st + n st ≤ 0x60000
    Queues (.push h) h .nt (some .opC)
      (fun st s => even st ∧ inside st ∧ busBits st.c 42 40 ≤ 4 ∧ rankCheck s s.self (busBits st.a 31 0) = .ok ())
      (fun st _ => { newOp st (.push false) false 0 with tag := some (BitVec.ofNat 6 (busBits st.c 37 32)), rest := packetStarts (off st) (n st) }) ntTag ntEvent
    ∧ Traps (.push h) h .nt (some .opC) (fun st _ => ¬even st) .misaligned (fun st => BitVec.ofNat 64 (l st)) (fun _ => 0)
    ∧ Traps (.push h) h .nt (some .opC) (fun st _ => even st ∧ ¬inside st) .localRange (fun st => BitVec.ofNat 64 (l st)) (fun _ => 0)
    ∧ Traps (.push h) h .nt (some .opC) (fun st _ => even st ∧ inside st ∧ 4 < busBits st.c 42 40) .exchangeFault (fun _ => 0) (fun _ => 0))
  ∧ (∀ (h : Head) (p : Pattern),
    let l := fun st : Start => busBits st.b 31 0
    let n := p.count * 2 ^ p.esize
    let off := fun st : Start => busBits st.a 58 40
    let found := fun (st : Start) (s : State) => s.self.pattern (busBits st.c 28 24) = some p
    let even := fun st : Start => (p.count = 0 ∨ p.aligned (l st) = true) ∧ n % 4 = 0 ∧ off st % 4 = 0
    let inside := fun st : Start => (p.count = 0 ∨ p.inLocal (l st) = true) ∧ off st + n ≤ 0x60000
    Queues (.pushp h) h .nt (some .opC)
      (fun st s => found st s ∧ even st ∧ inside st ∧ busBits st.c 42 40 ≤ 4 ∧ rankCheck s s.self (busBits st.a 31 0) = .ok ())
      (fun st _ => { newOp st (.push true) false 0 with
        tag := some (BitVec.ofNat 6 (busBits st.c 37 32)), pat := some p, rest := packetStarts (off st) n }) ntTag ntEvent
    ∧ Traps (.pushp h) h .nt (some .opC) (fun st s => found st s ∧ ¬even st) .misaligned (fun st => BitVec.ofNat 64 (l st)) (fun _ => 0)
    ∧ Traps (.pushp h) h .nt (some .opC) (fun st s => found st s ∧ even st ∧ ¬inside st) .localRange (fun st => BitVec.ofNat 64 (l st)) (fun _ => 0)
    ∧ Traps (.pushp h) h .nt (some .opC) (fun st s => found st s ∧ even st ∧ inside st ∧ 4 < busBits st.c 42 40) .exchangeFault (fun _ => 0) (fun _ => 0)
    ∧ ∀ q : BitVec 5, Traps (.pushp h) h .nt (some .opC) (fun st s => busBits st.c 28 24 = q.toNat ∧ s.self.pattern q.toNat = none) .ringFault (fun _ => 0)
      (fun _ => 0x8000 + q.setWidth 64 * 256))
  ∧ (∀ h : Head,
    let base := fun st : Start => busBits st.a 31 0
    let size := fun st : Start => busBits st.a 63 32
    let c := fun st : Start => busBits st.b 15 0
    let mode := fun st : Start => busBits st.b 17 16
    let level := fun st : Start => if mode st = 0 then 0 else busBits st.b 22 20
    let rb := fun st : Start => if mode st = 0 then 0 else busBits st.b 63 32
    let even := fun st : Start => base st % 64 = 0 ∧ size st ≠ 0 ∧ size st % 4 = 0
    let inside := fun st : Start => base st + size st ≤ 0x60000
    let fits := fun (st : Start) (s : State) => c st ≠ 0 ∧ (mode st = 0 → c st = 1) ∧ level st ≤ 4 ∧ busBits st.c 18 16 ≤ 5
      ∧ rb st + c st ≤ (s.self.domReg (level st)).toNat / 2 ^ 32
    Queues (.land h) h .nt (some .opC) (fun st s => even st ∧ inside st ∧ fits st s) (fun st _ => newOp st .land false 0) ntTag noEvent
    ∧ Traps (.land h) h .nt (some .opC) (fun st _ => ¬even st) .misaligned (fun st => BitVec.ofNat 64 (base st)) (fun _ => 0)
    ∧ Traps (.land h) h .nt (some .opC) (fun st _ => even st ∧ ¬inside st) .localRange (fun st => BitVec.ofNat 64 (base st)) (fun _ => 0)
    ∧ Traps (.land h) h .nt (some .opC) (fun st s => even st ∧ inside st ∧ ¬fits st s) .exchangeFault (fun _ => 0) (fun _ => 0))
  ∧ (∀ h : Head,
    let l := fun st : Start => busBits st.b 31 0
    Queues (.lclose h) h .nt (some .opA) always (fun st _ => newOp st .lclose true 0) ntTag noEvent
    ∧ Queues (.msg h) h .nt (some .opC) (fun st s => s.self.tasked = true ∧ rankCheck s s.self (busBits st.a 31 0) = .ok ())
      (fun st _ => newOp st .msg false 0) ntTag ntEvent
    ∧ Queues (.mig h) h .nt (some .opC)
      (fun st s => s.self.tasked = true ∧ l st % 16 = 0 ∧ l st + 272 ≤ 0x60000 ∧ rankCheck s s.self (busBits st.a 31 0) = .ok ())
      (fun st _ => { newOp st .mig false 0 with tag := some (BitVec.ofNat 6 (busBits st.c 37 32)) }) ntTag ntEvent
    ∧ Traps (.msg h) h .nt (some .opC) (fun _ s => s.self.tasked = false) .exchangeFault (fun _ => 0) (fun _ => 0)
    ∧ Traps (.mig h) h .nt (some .opC) (fun _ s => s.self.tasked = false) .exchangeFault (fun _ => 0) (fun _ => 0)
    ∧ Traps (.mig h) h .nt (some .opC) (fun st s => s.self.tasked = true ∧ l st % 16 ≠ 0) .misaligned (fun st => BitVec.ofNat 64 (l st)) (fun _ => 0)
    ∧ Traps (.mig h) h .nt (some .opC) (fun st s => s.self.tasked = true ∧ l st % 16 = 0 ∧ 0x60000 < l st + 272) .localRange
      (fun st => BitVec.ofNat 64 (l st)) (fun _ => 0))
  ∧ (∀ (s : State) (t : Tile) (rank : Nat), t.dom[4].toNat / 2 ^ 32 ≤ rank → rankCheck s t rank = .error (.trap .protectionFault 0 0))

/-- R335 to R338. The triggers of the reduction network: `kopen`, `kpart`, `kattn`, `kfin` and `kres` join the queue when their checks pass; parameters outside their range trap with EXCHANGE_FAULT, a destination that is no rank with PROTECTION_FAULT, and local operands with MISALIGNED or LOCAL_RANGE. COMPLETES: kopen, kpart, kattn, kfin, kres. -/
def Obligations.ReductionTriggers : Prop :=
  (∀ h : Head,
    let p := kopenPar
    let dom := fun (st : Start) (s : State) => s.self.domReg (p st).level
    let rank := fun (st : Start) (s : State) => (dom st s).toNat % 2 ^ 32
    let legal := fun (st : Start) (s : State) => (p st).level ≤ 3 ∧ (p st).ty ≠ 3 ∧ ((p st).op = 3 → (p st).ty = 0) ∧ 1 ≤ (p st).n ∧ (p st).n ≤ 256
      ∧ ((p st).op ≠ 3 → (p st).r ≤ 1 ∧ (p st).fin = false) ∧ (p st).r * (p st).n ≤ 256 ∧ (p st).c ≠ 0
      ∧ (p st).rankBase + (p st).c ≤ (dom st s).toNat / 2 ^ 32 ∧ (p st).rankBase ≤ rank st s ∧ rank st s < (p st).rankBase + (p st).c
    let sent := fun (st : Start) (s : State) => (p st).dstRank < (s.self.domReg 3).toNat / 2 ^ 32
    Queues (.kopen h) h .kn (some .opC)
      (fun st s => legal st s ∧ sent st s ∧ (p st).off % 4 = 0 ∧ (p st).off + (p st).resultBytes ≤ 0x60000) (fun st _ => newOp st .kopen false 0) noTag noEvent
    ∧ Traps (.kopen h) h .kn (some .opC) (fun st s => ¬legal st s) .exchangeFault (fun _ => 0) (fun _ => 0)
    ∧ Traps (.kopen h) h .kn (some .opC) (fun st s => legal st s ∧ ¬sent st s) .protectionFault (fun _ => 0) (fun _ => 0)
    ∧ Traps (.kopen h) h .kn (some .opC) (fun st s => legal st s ∧ sent st s ∧ (p st).off % 4 ≠ 0) .misaligned (fun st => BitVec.ofNat 64 (p st).off) (fun _ => 0)
    ∧ Traps (.kopen h) h .kn (some .opC) (fun st s => legal st s ∧ sent st s ∧ (p st).off % 4 = 0 ∧ 0x60000 < (p st).off + (p st).resultBytes) .localRange
      (fun st => BitVec.ofNat 64 (p st).off) (fun _ => 0))
  ∧ (∀ (h : Head) (attn : Bool),
    let i : Instr := if attn then .kattn h else .kpart h
    Queues i h .kn (some .opB) (fun st _ => busBits st.a 31 0 % 4 = 0)
      (fun st _ => { newOp st (if attn then .kattn else .kpart) false 0 with tag := some (BitVec.ofNat 6 (busBits st.b 13 8)) }) noTag noEvent
    ∧ Traps i h .kn (some .opB) (fun st _ => busBits st.a 31 0 % 4 ≠ 0) .misaligned (fun st => BitVec.ofNat 64 (busBits st.a 31 0)) (fun _ => 0))
  ∧ (∀ h : Head,
    let src := fun st : Start => busBits st.a 31 0
    let dst := fun st : Start => busBits st.b 31 0
    let n := fun st : Start => busBits st.c 8 0
    let r := fun st : Start => busBits st.c 14 12 + 1
    let legal := fun st : Start => 1 ≤ n st ∧ n st ≤ 256 ∧ r st * n st ≤ 256
    let even := fun st : Start => src st % 4 = 0 ∧ dst st % 4 = 0
    let size := fun st : Start => r st * (8 + 4 * n st)
    Queues (.kfin h) h .kn (some .opC) (fun st _ => legal st ∧ even st ∧ src st + size st ≤ 0x60000 ∧ dst st + size st ≤ 0x60000)
      (fun st _ => { newOp st .kfin false 0 with tag := some (BitVec.ofNat 6 (busBits st.c 21 16)) }) noTag noEvent
    ∧ Traps (.kfin h) h .kn (some .opC) (fun st _ => ¬legal st) .exchangeFault (fun _ => 0) (fun _ => 0)
    ∧ Traps (.kfin h) h .kn (some .opC) (fun st _ => legal st ∧ ¬even st) .misaligned
      (fun st => BitVec.ofNat 64 (if src st % 4 ≠ 0 then src st else dst st)) (fun _ => 0)
    ∧ Traps (.kfin h) h .kn (some .opC) (fun st _ => legal st ∧ even st ∧ (0x60000 < src st + size st ∨ 0x60000 < dst st + size st)) .localRange
      (fun st => BitVec.ofNat 64 (if 0x60000 < src st + size st then src st else dst st)) (fun _ => 0)
    ∧ Queues (.kres h) h .kn (some .opA) always (fun st _ => newOp st .kres true 0) noTag noEvent)

/-- R343, R346, R348 to R361. COMPLETES: bell, bellx, wany, wall, wffr, tclr, sig, swait, sdec, binit, arrive, drop, bwait, trig, fence. Each joins the queue at its trigger, and what it does there or at its unit is said here and, for bells and tag waits, beside their events. The triggers of `sy`: a bell, a fence and an operation with `.acq` hold the strand's next bundle until they complete; a bell outside bank0 is an illegal bundle, one whose timetable sends beyond its domain an exchange fault; semaphores and barriers trap on a misaligned address and `binit` on a count outside 1 to 4,096. A result on `sy.x` lands without its status: the read of the port that frees the operation's slot brings it. -/
def Obligations.SyncTriggers : Prop :=
  (∀ (h : Head) (lev : BitVec 3),
    Queues (.bell h lev) h .sy none (fun st s => st.bank = 0 ∧ ¬(lev.toNat ≤ 1 ∧ s.self.sendsBeyond lev = true))
      (fun st _ => { newOp st (.bell lev) false 0 with hold := true }) noTag noEvent
    ∧ Traps (.bell h lev) h .sy none (fun st _ => st.bank ≠ 0) .illegalBundle (fun _ => 0) (fun _ => 0)
    ∧ Traps (.bell h lev) h .sy none (fun st s => st.bank = 0 ∧ lev.toNat ≤ 1 ∧ s.self.sendsBeyond lev = true) .exchangeFault (fun _ => 0) (fun _ => 0)
    ∧ Queues (.bellx h lev) h .sy none (fun st _ => st.bank = 0) (fun st _ => { newOp st (.bellx lev) false 0 with hold := true }) noTag noEvent
    ∧ Traps (.bellx h lev) h .sy none (fun st _ => st.bank ≠ 0) .illegalBundle (fun _ => 0) (fun _ => 0))
  ∧ (∀ (h : Head) (m : MMod),
    let acq := m.order == .acq || m.order == .ar
    Queues (.wany h m) h .sy (some .opA) always (fun st _ => { newOp st (.wany m) true 0 with hold := acq }) noTag noEvent
    ∧ Queues (.wall h m) h .sy (some .opA) always (fun st _ => { newOp st (.wall m) true 0 with hold := acq }) noTag noEvent
    ∧ Queues (.wffr h m) h .sy (some .opA) always (fun st _ => { newOp st (.wffr m) true 0 with hold := acq }) noTag noEvent
    ∧ Queues (.fence h m) h .sy none always (fun st _ => { newOp st (.fence m) false 0 with hold := true }) noTag noEvent)
  ∧ (∀ h : Head,
    Queues (.tclr h) h .sy (some .opA) always (fun st _ => newOp st .tclr false 0) noTag noEvent
    ∧ Queues (.trig h) h .sy none always (fun st _ => newOp st .trig false 0) noTag noEvent)
  ∧ (∀ (h : Head) (m : MMod),
    AtUnit (.sig h m) h (.sig m) false 8 always ∧ AtUnit (.swait h m) h (.swait m) true 8 always ∧ AtUnit (.sdec h m) h (.sdec m) true 8 always
    ∧ AtUnit (.arrive h m) h (.arrive m) true 32 always ∧ AtUnit (.drop h m) h (.drop m) false 32 always ∧ AtUnit (.bwait h m) h (.bwait m) true 32 always)
  ∧ (∀ h : Head,
    let n := fun st : Start => busBits st.b 31 0
    AtUnit (.binit h) h .binit false 32 (fun st _ => 1 ≤ n st ∧ n st ≤ 4096)
    ∧ Traps (.binit h) h .sy (some .opB) (fun st _ => busBits st.a 54 0 % 32 = 0 ∧ (n st = 0 ∨ 4096 < n st)) .semRange
      (fun st => BitVec.ofNat 64 (busBits st.a 54 0)) (fun _ => 0))
  ∧ (∀ (t : Tile) (now : Nat) (o : DlOp), (t.queue.find? fun o => o.kind == .tclr && o.st == .queued && t.syReady now o) = some o →
      (t.tclrTick now).tags = t.tags &&& ~~~(o.a.setWidth 64) ∧ (t.tclrTick now).carriedOut o now (fun r => r.s.getLsbD 0 = true))
  ∧ (∀ (t : Tile) (now : Nat) (o : DlOp), t.dueSync now = some o →
      (o.kind = .trig → (t.syncTick now).carriedOut o now (fun r => r.s.getLsbD 0 = true) ∧ (o.bank = 0 → ((t.syncTick now).bank 0).triggered = true))
      ∧ (∀ m, o.kind = .fence m → (t.syncTick now).carriedOut o (now + 1) (fun r => r.s.getLsbD 0 = true)))
  ∧ (∀ (s : State) (pa v : Nat), let cur := s.dwordAt pa
      let stored := fun x => State.gWrite s pa (natLe x 8)
      (s.syncOp pa 0 v = if cur < v ∧ v < 2 ^ 64 then .done (stored v) 0 false (some v) else .fault .semRange 0)
      ∧ (s.syncOp pa 1 v = if 0 < v ∧ cur + v < 2 ^ 64 then .done (stored (cur + v)) 0 false (some (cur + v)) else .fault .semRange 0)
      ∧ (s.syncOp pa 2 v = if v ≤ cur then .done s cur false none else .wait)
      ∧ (0 < v → s.syncOp pa 3 v = if v ≤ cur then .done (stored (cur - v)) cur false (some (cur - v)) else .fault .semUnderflow 0))
  ∧ (∀ (s : State) (pa v : Nat), 1 ≤ v → v ≤ 4096 → cellsWf s.mem = true → ∃ t, s.syncOp pa 4 v = .done t 0 false none
      ∧ leNat (t.gRead pa 4) = v ∧ leNat (t.gRead (pa + 4) 4) = v ∧ leNat (t.gRead (pa + 8) 4) = 0 ∧ t.dwordAt (pa + 16) = 0
      ∧ (∀ a, 32 ≤ a → a < 32 + 16 * ((v + 63) / 64) → t.byteAt (pa + a) = 0)
      ∧ ∀ a, a < pa ∨ pa + 32 + 16 * ((v + 63) / 64) ≤ a → t.byteAt a = s.byteAt a)
  ∧ (∀ (s : State) (pa i : Nat), cellsWf s.mem = true → let n := leNat (s.gRead pa 4)
      let w := (n + 63) / 64
      let e := leNat (s.gRead (pa + 4) 4)
      let arrived := leNat (s.gRead (pa + 8) 4)
      let phase := s.dwordAt (pa + 16)
      let absent := s.setBit? (pa + 0x20) i = false ∧ s.setBit? (pa + 0x20 + 8 * w) i = false
      let ends := fun (t : State) => t.dwordAt (pa + 16) = (phase + 1) % 2 ^ 64 ∧ leNat (t.gRead (pa + 8) 4) = 0
        ∧ ∀ a, a < 8 * w → t.byteAt (pa + 0x20 + 8 * w + a) = 0
      let alone := fun (t : State) => ∀ a, a < pa ∨ pa + 32 + 16 * w ≤ a → t.byteAt a = s.byteAt a
      1 ≤ n → n ≤ 4096 →
        (i < n → absent → arrived + 1 < 2 ^ 32 → ∃ t, alone t ∧ s.syncOp pa 5 i = .done t phase (decide (e ≤ arrived + 1)) none
          ∧ (e ≤ arrived + 1 → ends t)
          ∧ (arrived + 1 < e → t.setBit? (pa + 0x20 + 8 * w) i = true ∧ leNat (t.gRead (pa + 8) 4) = arrived + 1 ∧ t.dwordAt (pa + 16) = phase))
        ∧ (i < n → absent → 0 < e → ∃ t, alone t ∧ s.syncOp pa 6 i = .done t 0 (decide (e - 1 ≤ arrived)) none
          ∧ t.setBit? (pa + 0x20) i = true ∧ leNat (t.gRead (pa + 4) 4) = e - 1
          ∧ (e - 1 ≤ arrived → ends t) ∧ (arrived < e - 1 → leNat (t.gRead (pa + 8) 4) = arrived ∧ t.dwordAt (pa + 16) = phase))
        ∧ (i < 2 ^ 32 → (n ≤ i ∨ ¬absent) → s.syncOp pa 5 i = .fault .barrierOverarrival i ∧ s.syncOp pa 6 i = .fault .barrierOverarrival i)
        ∧ s.syncOp pa 7 i = if phase = i then .wait else .done s phase false none)
  ∧ (∀ (s : State) (d a : Nat) (o : DlOp) (r : UnitReq),
      (∀ t x ph new, s.syncOp r.pa (syncCode o.bit59 o.kind) (busBits o.b 63 0) = .done t x ph new →
        s.unitSync d a o r = ((t.answerSync a o r.pa x ph new).unitDone d (if ph then (leNat (s.gRead r.pa 4) + 63) / 64 else 0)).watchAll d r.pa)
      ∧ (s.syncOp r.pa (syncCode o.bit59 o.kind) (busBits o.b 63 0) = .wait → s.unitSync d a o r = (s.watchAdd d r).unitBusy d 0)
      ∧ (∀ c x, s.syncOp r.pa (syncCode o.bit59 o.kind) (busBits o.b 63 0) = .fault c x →
        s.unitSync d a o r = (s.engineFault a o c (busBits o.a 54 0) x).unitBusy d 0))
  ∧ (∀ (t : Tile) (o : DlOp) (r : Res), o.sock = .sy → o.old = none → o.late = none → o.res = some r → o.wx = true →
      let u := t.landOp o
      ((u.bank o.bank).sock .sy).s = ((t.bank o.bank).sock .sy).s ∧ ((u.bank o.bank).sock .sy).x = r.x.getD ((t.bank o.bank).sock .sy).x
        ∧ ((u.bank o.bank).sock .sy).fullX = (r.x.isSome || ((t.bank o.bank).sock .sy).fullX))
  ∧ (∀ (t : Tile) (o : DlOp) (r : Res), (t.queue.find? fun p => p.bank = t.run ∧ p.sock = .sy ∧ p.landed) = some o → o.res = some r →
      t.portLocked .sy false = true → (((emptyPort t (.resX .sy)).bank t.run).sock .sy).s = r.s
        ∧ (((emptyPort t (.resX .sy)).bank t.run).sock .sy).fullX = false)

/-- R404 to R410. COMPLETES: spawn, yield, sleep, wake, prio, timer, next, resume, msgrd, cload, tidle. Each joins the queue at its trigger, and a tile performs the head of a bank's queue on its tick; the result can be read on the next. A `resume` or `tidle` that waits stays at the head, and nothing behind it is performed. A `resume` that finds the tile in its handler waits there, and a wake, message or deadline that falls between a `sleep` and its task's boundary is recorded for it (DEDUCED, log 45). The triggers of `tk` are legal in tasked mode, in the banks their entries name; elsewhere each is an illegal bundle. An id that names no task and a kind or bank of 3 trap with TASK_OVERFLOW; the area of a `spawn` is checked. -/
def Obligations.TaskTriggers : Prop :=
  (∀ h : Head,
    let named := fun st : Start => 1 ≤ busBits st.a 31 0 ∧ busBits st.a 31 0 < 32
    TaskOp (.yield h) h none .yield false [1, 2] (fun _ => True)
    ∧ TaskOp (.sleep h) h (some .opA) .sleep false [1, 2] (fun _ => True)
    ∧ TaskOp (.wake h) h (some .opA) .wake false [0, 1, 2] named
    ∧ TaskOp (.prio h) h (some .opB) .prio true [0] named
    ∧ TaskOp (.timer h) h (some .opA) .timer true [0] (fun _ => True)
    ∧ TaskOp (.resume h) h (some .opB) .resume true [0] (fun st => named st ∧ busBits st.b 1 0 ≠ 3)
    ∧ TaskOp (.msgrd h) h none .msgrd true [0, 1, 2] (fun _ => True)
    ∧ TaskOp (.cload h) h none .cload true [0, 1, 2] (fun _ => True)
    ∧ TaskOp (.tidle h) h none .tidle true [0] (fun _ => True)
    ∧ Queues (.next h) h .tk none (fun st s => s.self.tasked = true ∧ st.bank = 0)
      (fun st _ => { newOp st .next true 0 with val := (st.v.getLsbD 63).toNat }) noTag noEvent
    ∧ Traps (.next h) h .tk none (fun st s => s.self.tasked = false ∨ st.bank ≠ 0) .illegalBundle (fun _ => 0) (fun _ => 0)
    ∧ Traps (.wake h) h .tk (some .opA) (fun st s => s.self.tasked = true ∧ [0, 1, 2].contains st.bank = true ∧ ¬named st) .taskOverflow (fun _ => 0) (fun _ => 0)
    ∧ Traps (.prio h) h .tk (some .opB) (fun st s => s.self.tasked = true ∧ st.bank = 0 ∧ ¬named st) .taskOverflow (fun _ => 0) (fun _ => 0)
    ∧ Traps (.resume h) h .tk (some .opB) (fun st s => s.self.tasked = true ∧ st.bank = 0 ∧ (¬named st ∨ busBits st.b 1 0 = 3)) .taskOverflow (fun _ => 0) (fun _ => 0))
  ∧ (∀ h : Head,
    let id := fun st : Start => busBits st.c 4 0
    let kind := fun st : Start => busBits st.c 13 12
    let area := fun st : Start => busBits st.c 50 32
    let placed := fun st : Start => 2 ≤ kind st ∨ (area st % 16 = 0 ∧ area st + 272 ≤ 0x60000)
    TaskOp (.spawn h) h (some .opC) .spawn false [0] (fun st => id st ≠ 0 ∧ kind st ≠ 3 ∧ placed st)
    ∧ Traps (.spawn h) h .tk (some .opC) (fun st s => s.self.tasked = true ∧ st.bank = 0 ∧ (id st = 0 ∨ kind st = 3)) .taskOverflow (fun _ => 0) (fun _ => 0)
    ∧ Traps (.spawn h) h .tk (some .opC) (fun st s => s.self.tasked = true ∧ st.bank = 0 ∧ id st ≠ 0 ∧ kind st ≤ 1 ∧ area st % 16 ≠ 0) .misaligned
      (fun st => BitVec.ofNat 64 (area st)) (fun _ => 0)
    ∧ Traps (.spawn h) h .tk (some .opC) (fun st s => s.self.tasked = true ∧ st.bank = 0 ∧ id st ≠ 0 ∧ kind st ≤ 1 ∧ area st % 16 = 0 ∧ 0x60000 < area st + 272)
      .localRange (fun st => BitVec.ofNat 64 (area st)) (fun _ => 0))
  ∧ (∀ (s : State) (a : Nat) (o : DlOp), s.tkHead a = some o → let t := s.tileAt a
      let u := (s.tkTick a).tileAt a
      let id := busBits o.a 31 0
      let b := t.tasks.block id
      let done := fun (f : Res → Prop) => u.carriedOut o (s.tick + 1) f
      let ok := fun r : Res => r.s.getLsbD 0 = true ∧ r.s.getLsbD 1 = false
      let refused := fun r : Res => r.s.getLsbD 0 = false ∧ r.s.getLsbD 1 = true
      let gives := fun (x : Nat) (r : Res) => r.x = some (BitVec.ofNat 512 x)
      (o.kind = .yield → done ok ∧ (∀ i, o.task = some i → t.tasks.current = some i → t.tasks.own.contains .yield = false →
          u.tasks.own = t.tasks.own ++ [.yield]))
      ∧ (o.kind = .sleep → ∀ i, o.task = some i → let b := t.tasks.block i
          done ok
          ∧ (b.wk = true ∨ b.mail ≠ [] → (u.tasks.block i).wk = false ∧ (u.tasks.block i).state = b.state ∧ done fun r => r.s.getLsbD 3 = true)
          ∧ (b.wk = false → b.mail = [] → (u.tasks.block i).deadline = (if id = 0 then none else some id)
              ∧ (t.tasks.current = some i → t.tasks.own.contains .sleep = false → u.tasks.own = t.tasks.own ++ [.sleep])
              ∧ (t.tasks.current ≠ some i → b.state = .ready ∨ b.state = .selected → (u.tasks.block i).state = .sleep ∧ ∀ l ∈ u.tasks.rq.toList, i ∉ l)))
      ∧ (o.kind = .wake → ((b.state = .free ∨ b.state = .inbound) → done refused)
          ∧ (b.state ≠ .free → b.state ≠ .inbound → done ok)
          ∧ ((b.state = .sleep ∨ b.state = .selected) → (u.tasks.block id).state = .ready)
          ∧ ((b.state = .ready ∨ b.state = .parked ∨ b.state = .running ∧ ¬(t.tasks.current = some id ∧ t.tasks.own.contains .sleep = true)) →
              (u.tasks.block id).wk = true ∧ (u.tasks.block id).state = b.state ∧ done fun r => r.s.getLsbD 3 = true)
          ∧ ((b.state = .saving ∨ b.state = .loading ∨ b.state = .running ∧ t.tasks.current = some id ∧ t.tasks.own.contains .sleep = true) →
              (u.tasks.block id).recorded = b.recorded ++ [.wakeOp] ∧ (u.tasks.block id).wk = b.wk ∧ (u.tasks.block id).state = b.state))
      ∧ (o.kind = .prio → done (gives b.word) ∧ (o.b.getLsbD 63 = true → u.tasks = t.tasks)
          ∧ (o.b.getLsbD 63 = false → b.state = .free → done refused ∧ u.tasks = t.tasks)
          ∧ (o.b.getLsbD 63 = false → b.state ≠ .free → done ok ∧ (u.tasks.block id).bprio = BitVec.ofNat 2 (busBits o.b 1 0)
              ∧ (u.tasks.block id).eprio = BitVec.ofNat 2 (busBits o.b 1 0) ∧ (u.tasks.block id).age = 0))
      ∧ (o.kind = .timer → done ok ∧ done (gives t.tasks.quantum) ∧ u.tasks.quantum = busBits o.a 15 0)
      ∧ (o.kind = .next → (t.tasks.headId = none → done ok ∧ done (gives 0) ∧ done fun r => r.s.getLsbD 2 = true)
          ∧ (∀ i, t.tasks.headId = some i → done ok ∧ done (gives i) ∧ (o.val = 1 → u.tasks = t.tasks)
              ∧ (o.val ≠ 1 → (u.tasks.block i).state = .selected ∧ ∀ l ∈ u.tasks.rq.toList, i ∉ l)))
      ∧ (o.kind = .resume → let k : BitVec 2 := BitVec.ofNat 2 (busBits o.b 1 0)
          (∀ c i r, t.tasks.pend = (c, i) :: r → done ok ∧ done (gives (upcallWord c i !r.isEmpty)) ∧ u.tasks.pend = r)
          ∧ (t.tasks.pend = [] → (t.bank 0).life = .halted → done refused)
          ∧ (t.tasks.pend = [] → (t.bank 0).life ≠ .halted → t.run = 3 → u.tasks = t.tasks ∧ u.queue = t.queue)
          ∧ (t.tasks.pend = [] → t.run ≠ 3 → b.state ≠ .selected ∨ b.loc = 0 ∧ k = 0 → done refused)
          ∧ (t.tasks.pend = [] → (t.bank 0).life ≠ .halted → t.run ≠ 3 → b.state = .selected → b.loc ≠ 0 → u.run = b.loc ∧ u.tasks.current = some id ∧ (u.tasks.block id).state = .running
              ∧ u.ready = max t.ready (s.tick + 4))
          ∧ (t.tasks.pend = [] → (t.bank 0).life ≠ .halted → t.run ≠ 3 → b.state = .selected → b.loc = 0 → k ≠ 0 →
              (t.resident k = none → t.bankFree s.tick k = true →
                (u.tasks.block id).state = .loading ∧ u.tasks.work = some (.load o.id id k.toNat (s.tick + 8)))
              ∧ (t.resident k = none → t.bankFree s.tick k = false → u.tasks = t.tasks ∧ u.queue = t.queue)
              ∧ (∀ v, t.resident k = some v → (o.b.getLsbD 2 = false ∨ t.compact k = false → done refused)
                ∧ (o.b.getLsbD 2 = true → t.compact k = true → (u.tasks.block v).state = .saving
                  ∧ u.tasks.work = some (.save o.id v k.toNat (s.tick + 8))))))
      ∧ (o.kind = .msgrd → let i := o.task.getD 0
          ((t.tasks.block i).mail = [] → done (fun r => r.x = some 0 ∧ r.y = some 0 ∧ r.s.getLsbD 2 = true))
          ∧ (∀ m r, (t.tasks.block i).mail = m :: r → (u.tasks.block i).mail = r
              ∧ done fun x => x.x = some (m.1.setWidth 512) ∧ x.y = some (m.2.setWidth 512) ∧ x.s.getLsbD 2 = false))
      ∧ (o.kind = .cload → done ok ∧ done fun r => r.x = some ((s.cloadOf t).setWidth 512))
      ∧ (o.kind = .tidle → (∀ c i r, t.tasks.pend = (c, i) :: r → done ok ∧ done (gives (upcallWord c i !r.isEmpty)))
          ∧ (∀ i, t.tasks.pend = [] → t.tasks.headId = some i → done ok ∧ done (gives (upcallWord .ready i false)))
          ∧ (t.tasks.pend = [] → t.tasks.headId = none → (t.bank 0).life = .halted → done refused)
          ∧ (t.tasks.pend = [] → t.tasks.headId = none → (t.bank 0).life ≠ .halted → ∀ p ∈ u.queue, p.id = o.id → p.st = .waiting ∧ p.due = s.tick + 1))
      ∧ (o.kind = .spawn → let n := busBits o.c 4 0
          let kind := busBits o.c 13 12
          let free := (t.tasks.block n).state = .free
          (kind = 0 → free → u.tasks.work = some (.create o.id (s.tick + 8))) ∧ (kind ≤ 1 → ¬free → done refused)
          ∧ (kind = 1 → free → done ok ∧ (u.tasks.block n).state = .inbound ∧ (u.tasks.block n).area = busBits o.c 50 32)
          ∧ (2 ≤ kind → (t.tasks.block n).state = .inbound → done ok ∧ (u.tasks.block n).state = .free)))
  ∧ (∀ (s : State) (a : Nat), s.tkHead a = none → s.tkTick a = s)
  ∧ (∀ (s : State) (a : Nat) (o p : DlOp), p ∈ (s.tileAt a).queue → p.sock = .tk → p.st = .waiting → p.bank = o.bank → p.id < o.id → s.tkHead a ≠ some o)

/-! ## The supervisor's socket `sv` and the replay socket `rp` -/

/-- R421 to R427, R429, R430. The operations of `sv` complete with OK, or are refused with REF and change nothing: `eret` returns by its form after the other moves of its bundle; `cause` reads a dword of the supervisor state or sets the trap offset; `asid`, `errst` and `stmr` return what they replace; `bank` reads or writes a register of another bank; the invalidations and the map fence stall bank3's next bundle until they complete. COMPLETES: eret, cause, tlbinv, tlbinvas, mapfence, asid, bank, errst, stmr. -/
def Obligations.SupervisorOperations : Prop :=
  (∀ h : Head,
    Runs (.eret h) h .sv (some .opA) (fun st _ => busBits st.a 1 0 = 3) (fun st s => landNext st { s := 2 } { st := s })
    ∧ Runs (.eret h) h .sv (some .opA) (fun st _ => busBits st.a 1 0 ≠ 3)
      (fun st s => { landNext st { s := 1 } { st := s } with eret := some (busBits st.a 1 0) }))
  ∧ (∀ (h : Head) (n : Fin 4),
    Runs (.cause h) h .sv (some .opA) (fun st _ => st.a.getLsbD 62 = false ∧ busBits st.a 1 0 = n)
      (fun st s => landNext st { x := some ((s.self.sel[n]).setWidth 512), s := 1 } { st := s })
    ∧ Runs (.cause h) h .sv (some .opA) (fun st _ => st.a.getLsbD 62 = true)
      (fun st s => landNext st { x := some ((s.self.sel[1]).setWidth 512), s := 1 } { st := s.onSelf fun t => t.setTrapOff (st.a.setWidth 32) }))
  ∧ (∀ (h : Head) (m : MMod),
    let within := fun n (st : Start) (s : State) (k : SupKind) => landNext st { s := 1 } { st := s.supStart st k 1 (some (n - 1)) }
    Runs (.tlbinv h m) h .sv (some .opB) always (fun st s => within (invBound m.scope) st s (.tlbinv m))
    ∧ Runs (.tlbinvas h m) h .sv (some .opA) always (fun st s => within (invBound m.scope) st s (.tlbinvas m))
    ∧ Runs (.mapfence h m) h .sv (some .opC) (fun st _ => busBits st.c 15 0 = 0) (fun st s => landNext st { s := 2 } { st := s })
    ∧ Runs (.mapfence h m) h .sv (some .opC) (fun st _ => busBits st.c 15 0 ≠ 0)
      (fun st s => landNext st { s := 1 } { st := s.supStart st (.mapfence m) 1 none }))
  ∧ (∀ h : Head,
    let old := fun (s : State) => s.self.asid.setWidth 512
    Runs (.asid h) h .sv (some .opA) (fun st _ => st.a.getLsbD 63 = true) (fun st s => landNext st { x := some (old s), s := 1 } { st := s })
    ∧ Runs (.asid h) h .sv (some .opA) (fun st _ => st.a.getLsbD 63 = false)
      (fun st s => { landNext st { x := some (old s), s := 1 } { st := s } with asid := some (st.a.setWidth 16) }))
  ∧ (∀ (s u : State) (n : Half), let t := (s.ended { st := u, asid := some n }).self
      t.asid = n ∧ t.lastAsid = some n ∧ (t.tid[3]).setWidth 16 = n ∧ (t.tid[3]).extractLsb' 16 48 = (u.self.tid[3]).extractLsb' 16 48 ∧ t.queue = u.self.queue)
  ∧ (∀ h : Head,
    Runs (.errst h) h .sv (some .opA) (fun st _ => st.a.getLsbD 0 = false)
      (fun st s => landNext st { x := some (s.self.errWord.setWidth 512), s := 1 } { st := s })
    ∧ Runs (.errst h) h .sv (some .opA) (fun st _ => st.a.getLsbD 0 = true)
      (fun st s => landNext st { x := some (s.self.errWord.setWidth 512), s := 1 } { st := s.onSelf fun t => { t with errs := Vector.replicate 5 0 } }))
  ∧ (∀ h : Head,
    let n := fun st : Start => busBits st.a 47 0
    let left := fun s : State => BitVec.ofNat 512 (s.self.timerLeft s.tick)
    Runs (.stmr h) h .sv (some .opA) (fun st _ => st.a.getLsbD 63 = true) (fun st s => landNext st { x := some (left s), s := 1 } { st := s })
    ∧ Runs (.stmr h) h .sv (some .opA) (fun st _ => st.a.getLsbD 63 = false)
      (fun st s => landNext st { x := some (left s), s := 1 } { st := s.onSelf fun t => { t with stmr := if n st = 0 then 0 else s.tick + n st } }))
  ∧ (∀ (h : Head) (k : BitVec 2) (n : BitVec 5),
    let reads := fun (st : Start) (f : Nat) => st.a.setWidth 2 = k ∧ k ≠ 3 ∧ busBits st.a 4 3 = f ∧ busBits st.a 9 5 = n.toNat ∧ st.a.getLsbD 2 = false
    let writes := fun (st : Start) (f : Nat) => st.a.setWidth 2 = k ∧ k ≠ 3 ∧ busBits st.a 4 3 = f ∧ busBits st.a 9 5 = n.toNat ∧ st.a.getLsbD 2 = true
    let sound := fun (s : State) (f : Nat) => regListed s.self.badRegs k f n.toNat = false
    let read := fun (s : State) (f : Nat) => { s.regCorrect k [(f, n.toNat)] with free := s.free + 1 }
    Runs (.bank h) h .sv (some .opB) (fun st _ => st.a.setWidth 2 = (3 : BitVec 2) ∨ busBits st.a 4 3 = 3) (fun st s => landNext st { s := 2 } { st := s })
    ∧ Runs (.bank h) h .sv (some .opB) (fun st s => reads st 0 ∧ sound s 0)
      (fun st s => landNext st { x := some (((s.self.bank k).getG n).setWidth 512), s := 1 } { st := read s 0 })
    ∧ Runs (.bank h) h .sv (some .opB) (fun st s => reads st 1 ∧ sound s 1)
      (fun st s => landNext st { x := some ((s.self.bank k).getV n), s := 1 } { st := read s 1 })
    ∧ Runs (.bank h) h .sv (some .opB) (fun st s => reads st 2 ∧ sound s 2 ∧ n.toNat < 8)
      (fun st s => landNext st { x := some (if (s.self.bank k).getB (n.setWidth 3) then 1 else 0), s := 1 } { st := read s 2 })
    ∧ (∀ f, f < 3 → Traps (.bank h) h .sv (some .opB) (fun st s => reads st f ∧ ¬sound s f) .dataUncorrectable (fun _ => 0) (fun _ => 1))
    ∧ (∀ f, f < 3 → Runs (.bank h) h .sv (some .opB) (fun st _ => writes st f)
      (fun st s => landNext st { s := 1 } { st := s.onSelf fun t => t.bankWrite k f n.toNat st.b })))
  ∧ (∀ (t : Tile) (k : BitVec 2) (n : BitVec 5) (v : Bus),
    ((t.bankWrite k 0 n.toNat v).bank k).getG n = v.setWidth 64 ∧ ((t.bankWrite k 1 n.toNat v).bank k).getV n = v
      ∧ (n.toNat < 8 → ((t.bankWrite k 2 n.toNat v).bank k).getB (n.setWidth 3) = if n = 0 then true else v.getLsbD 0)
      ∧ ∀ f, regListed (t.bankWrite k f n.toNat v).badRegs k f n.toNat = false ∧ regListed (t.bankWrite k f n.toNat v).softRegs k f n.toNat = false)

/-- R428. `shcap` and `shset` take an address that is a multiple of 64 with 16 KiB of local SRAM behind it and a bank other than bank3; both are refused otherwise. `shcap` writes the capture block of the bank; `shset` loads the bank from its block, unless the block is refused or has an uncorrectable word. Both stall bank3's next bundle for at least 256 ticks. The origin of a bank that the cause word does not name is its program counter (log 59), and `shcap` leaves uncorrectable words that it covers in part as they are (log 39): the model's readings. COMPLETES: shcap, shset. -/
def Obligations.CaptureBlocks : Prop :=
  (∀ (st : Start) (a : Nat), captureAddr st = some a ↔
      busBits st.a 31 0 = a ∧ a % 64 = 0 ∧ a + 0x4000 ≤ 0x60000 ∧ busBits st.b 1 0 ≠ 3)
  ∧ (∀ (h : Head) (a : Nat) (k : BitVec 2),
    let at' := fun st : Start => captureAddr st = some a ∧ st.b.setWidth 2 = k
    let block := (List.range 0x4000).map (a + ·)
    let origin := fun t : Tile => if ((t.sel[0]).extractLsb' 10 2 == k && (t.sel[0]).extractLsb' 0 6 != 0) = true then (t.sel[1]).extractLsb' 32 32 else (t.bank k).pc
    Runs (.shcap h) h .sv (some .opB) (fun st _ => captureAddr st = none) (fun st s => landNext st { s := 2 } { st := s })
    ∧ Runs (.shcap h) h .sv (some .opB) (fun st _ => at' st)
      (fun st s =>
        let ws := block.zip (captureBytes (origin s.self) (s.self.bank k))
        landNext st { s := 1 } { st := (s.onSelf fun t => (t.engineWrite ws).touchZones (ws.map (·.1))).supStart st .shcap 256 (some 0) })
    ∧ Runs (.shset h) h .sv (some .opB) (fun st _ => captureAddr st = none) (fun st s => landNext st { s := 2 } { st := s })
    ∧ Runs (.shset h) h .sv (some .opB) (fun st s => at' st ∧ s.self.badWords block = false ∧ captureFrom (s.sramRead s.cur block).1 (s.self.bank k) = none)
      (fun st s => landNext st { s := 2 } { st := (s.sramRead s.cur block).2 })
    ∧ Runs (.shset h) h .sv (some .opB) (fun st s => at' st ∧ s.self.badWords block = true)
      (fun st s =>
        let p : Pending := { bank := st.bank, cause := .dataUncorrectable, kind := .late, origin := st.origin, seq := st.seq, since := s.tick, addr := BitVec.ofNat 64 a }
        landNext st { s := 2 } { st := s.lateCause s.cur p })
    ∧ (∀ b : Strand, Runs (.shset h) h .sv (some .opB)
      (fun st s => at' st ∧ s.self.badWords block = false ∧ captureFrom (s.sramRead s.cur block).1 (s.self.bank k) = some b)
      (fun st s => landNext st { s := 1 } { st := ((s.sramRead s.cur block).2.onSelf fun t => t.setBank k b).supStart st .shset 256 (some 0) })))

/-- R454 to R460. The operations of `rp` stall their own bundle while they wait, at most 600 ticks from its first stalled tick where R457 and R460 say so and a finite time else (log 58), then complete with OK, or are refused with REF and change nothing: the digest and its record count, the log and the gate of the launch at every unit, and the unit word. COMPLETES: dgrd, dgclr, logon, logoff, gateon, gateoff, logst. -/
def Obligations.ReplayOperations : Prop :=
  (∀ h : Head,
    let folded := fun (_ : Start) (s : State) => s.self.unfolded s.tick = false
    Runs (.dgrd h) h .rp (some .opA) (fun st s => folded st s ∧ st.a.getLsbD 0 = false)
      (fun st s => landNext st { x := some (s.self.digest.setWidth 512), s := 1 } { st := s })
    ∧ Runs (.dgrd h) h .rp (some .opA) (fun st s => folded st s ∧ st.a.getLsbD 0 = true)
      (fun st s => landNext st { x := some (s.self.records.setWidth 512), s := 1 } { st := s })
    ∧ Runs (.dgclr h) h .rp none folded
      (fun st s => landNext st { x := some (s.self.digest.setWidth 512), s := 1 } { st := s.onSelf fun t => { t with digest := 0xFFFF_FFFF_FFFF_FFFF, records := 0 } })
    ∧ (∀ (s : State) (v : Bus), Fires (.dgrd h) h v s → Admits h .rp (some .opA) v s →
        (s.latched h .rp (some .opA) v).self.unfolded s.tick = true → exec (.dgrd h) s = .next (stallTick s.atBundle))
    ∧ (∀ (s : State) (v : Bus), Fires (.dgclr h) h v s → Admits h .rp none v s →
        (s.latched h .rp none v).self.unfolded s.tick = true → exec (.dgclr h) s = .next (stallTick s.atBundle)))
  ∧ (∀ h : Head,
    let base := fun st : Start => busBits st.a 51 0
    let z := fun st : Start => busBits st.b 15 0
    let l := fun s : State => s.self.launchId
    let on := fun (st : Start) (s : State) => areasOk (base st) (z st) = true ∧ s.logsOn (l s) true = false
    Runs (.logon h) h .rp (some .opB) (fun st s => unitsWait (some 600) s = false ∧ on st s ∧ s.sameLog (l s) (base st) (z st) = true)
      (fun st s => landNext st { s := 1 } { st := s })
    ∧ Runs (.logon h) h .rp (some .opB)
      (fun st s => unitsWait (some 600) s = false ∧ on st s ∧ s.sameLog (l s) (base st) (z st) = false ∧ s.logsOn (l s) false = false)
      (fun st s => landNext st { s := 1 } { st := s.startLogs (l s) (base st) (z st) })
    ∧ Runs (.logon h) h .rp (some .opB)
      (fun st s => unitsWait (some 600) s = false ∧ (¬on st s ∨ (s.sameLog (l s) (base st) (z st) = false ∧ s.logsOn (l s) false = true)))
      (fun st s => landNext st { s := 2 } { st := s })
    ∧ Runs (.logoff h) h .rp none (fun _ s => s.logsOn (l s) false = false ∨ unitsWait none s = false)
      (fun st s => landNext st { s := 1 } { st := s.logOff (l s) })
    ∧ Runs (.gateon h) h .rp (some .opB) (fun st s => unitsWait none s = false ∧ s.headersBusy (base st) (z st) = false ∧ on st s ∧ s.logsOn (l s) false = false)
      (fun st s => landNext st { s := 1 } { st := (s.gateOn (l s) (base st) (z st) (busBits st.b 47 16)).2 })
    ∧ Runs (.gateon h) h .rp (some .opB)
      (fun st s => unitsWait none s = false ∧ s.headersBusy (base st) (z st) = false ∧ ¬(on st s ∧ s.logsOn (l s) false = false))
      (fun st s => landNext st { s := 2 } { st := s })
    ∧ Runs (.gateoff h) h .rp none always (fun st s => landNext st { s := 1 } { st := s.gateOff (l s) })
    ∧ (∀ (s : State) (v : Bus), Fires (.logon h) h v s → Admits h .rp (some .opB) v s →
        unitsWait (some 600) (s.latched h .rp (some .opB) v) = true → exec (.logon h) s = .next (stallTick s.atBundle))
    ∧ (∀ (s : State) (v : Bus), Fires (.logoff h) h v s → Admits h .rp none v s → (s.latched h .rp none v).logsOn (s.latched h .rp none v).self.launchId false = true →
        unitsWait none (s.latched h .rp none v) = true → exec (.logoff h) s = .next (stallTick s.atBundle))
    ∧ (∀ (s : State) (v : Bus), Fires (.gateon h) h v s → Admits h .rp (some .opB) v s →
        unitsWait none (s.latched h .rp (some .opB) v) = true
          ∨ (s.latched h .rp (some .opB) v).headersBusy (base (s.starts h .rp (some .opB) v)) (z (s.starts h .rp (some .opB) v)) = true →
        exec (.gateon h) s = .next (stallTick s.atBundle)))
  ∧ (∀ (s : State) (f n : Nat), s.self.stallFrom = some f → f + n ≤ s.tick → unitsWait (some n) s = false)
  ∧ (∀ f a : Nat, ∃ d, ∀ s : State, s.self.stallFrom = some f → s.self.addr = a → f + d ≤ s.tick → unitsWait none s = false)
  ∧ (∀ h : Head,
    let d := fun st : Start => busBits st.a 4 0
    Runs (.logst h) h .rp (some .opA) (fun st s => unitsWait (some 600) s = false ∧ (24 ≤ d st ∨ s.fenced.getLsbD (d st) = true))
      (fun st s => landNext st { x := some 0, s := 2 } { st := s })
    ∧ Runs (.logst h) h .rp (some .opA) (fun st s => unitsWait (some 600) s = false ∧ d st < 24 ∧ s.fenced.getLsbD (d st) = false)
      (fun st s => landNext st { x := some (BitVec.ofNat 512 (s.unitWord s.self.launchId (d st))), s := 1 } { st := s })
    ∧ (∀ (s : State) (v : Bus), Fires (.logst h) h v s → Admits h .rp (some .opA) v s →
        unitsWait (some 600) (s.latched h .rp (some .opA) v) = true → exec (.logst h) s = .next (stallTick s.atBundle)))

/-! ## Exceptions -/

/-- R414. Of the pending causes of a bank the one taken first has the lowest priority number, among those the lowest issue number of its bundle, among those the lowest code; the others stay pending. The priorities of Table 18.1 that are blank come last by DESIGN CHOICE, log 10. -/
def Obligations.CauseOrder : Prop :=
  (∀ (k : BitVec 2) (l : List Pending), firstCause k l = none ↔ ∀ p ∈ l, p.bank ≠ k)
  ∧ (∀ (k : BitVec 2) (l : List Pending) (p : Pending), firstCause k l = some p → p ∈ l ∧ p.bank = k ∧
      ∀ q ∈ l, q.bank = k → p.cause.prio < q.cause.prio ∨ (p.cause.prio = q.cause.prio ∧ (p.seq < q.seq ∨ (p.seq = q.seq ∧ p.cause.code ≤ q.cause.code))))
  ∧ (∀ (l : List Pending) (p : Pending), p ∈ l → (dropCause p l).length + 1 = l.length ∧ ∀ q, q ≠ p → (q ∈ dropCause p l ↔ q ∈ l))

/-- R414 to R418, R420, R432, Table 18.2. TAKING AN EXCEPTION. SUPERVISOR_ENTRY takes the first pending cause of a live user strand: its bank is captured with the bundle's own offset as trap offset, the selectors hold the cause word, the origin and the offset, the address and the detail, and bank3 runs from offset 0. A trigger that traps, and a bundle that faults at decode, enter in the same way with their own offset as origin. A cause of bank3 stops the tile for its leaf to end the launch. The cause word reads back field by field. COMPLETES: supervisorEntry. -/
def Obligations.ExceptionEntry : Prop :=
  (∀ (s : State) (p : Pending), let a := s.ev.tile
    let t := (s.settle a).tileAt a
    let off := (t.bank t.run).pc
    firstCause t.run (t.pend.filter fun p => decide (p.notBefore ≤ s.tick)) = some p → t.frozen = false → (t.bank t.run).life = .live →
      (t.run ≠ 3 → ∃ u, exec .supervisorEntry s = .next ((s.settle a).setTile u)
        ∧ Entered { t with pend := dropCause p t.pend } u s.tick (s.quadAt a).ganged (p.takenAt off) off)
      ∧ (t.run = 3 → exec .supervisorEntry s = .next ((s.settle a).setTile { t with pend := dropCause p t.pend, frozen := true, ended := some (p.cause, true) })))
  ∧ (∀ s : State, ((s.settle s.ev.tile).tileAt s.ev.tile).takePending s.tick (s.quadAt s.ev.tile).ganged = none → exec .supervisorEntry s = .next s)
  ∧ (∀ (t : Tile) (now : Nat) (gang : Bool), t.takePending now gang = none ↔
      (t.frozen = true ∨ (t.bank t.run).life ≠ .live ∨ firstCause t.run (t.pend.filter fun p => decide (p.notBefore ≤ now)) = none))
  ∧ (∀ (p : Pending) (pc : Word), (p.kind = .async → (p.takenAt pc).origin = pc) ∧ (p.kind ≠ .async → (p.takenAt pc).origin = p.origin)
      ∧ p.shown = if p.cause.code = 0x05 ∨ p.cause.code = 0x06 ∨ (0x08 ≤ p.cause.code ∧ p.cause.code ≤ 0x0B) ∨ p.cause.code = 0x11 then p.addr else 0)
  ∧ (∀ (s : State) (c : Cause) (a d : Dword), let b := s.atBundle.strand
    let noted := s.atBundle.noteCause s.cur (s.trapOf c a d)
    (s.atBundle.self.run ≠ 3 → Entered noted.self (s.trapped (s.trapOf c a d)).self s.tick false (s.trapOf c a d) b.pc)
      ∧ (s.atBundle.self.run = 3 → (s.trapped (s.trapOf c a d)).self = { noted.self with frozen := true, ended := some (c, true) })
      ∧ SameRegs s.atBundle.self noted.self ∧ (c ≠ .dataUncorrectable → c ≠ .datapathCheck → noted = s.atBundle))
  ∧ (∀ (p : Pending) (more gang pr : Bool), let w := causeWord p more gang pr
    w.extractLsb' 0 6 = BitVec.ofNat 6 p.cause.code ∧ w.extractLsb' 6 3 = p.bus.getD 0 ∧ w.getLsbD 9 = p.bus.isSome ∧ w.extractLsb' 10 2 = p.bank
      ∧ w.extractLsb' 12 2 = BitVec.ofNat 2 p.kind.code ∧ w.getLsbD 14 = gang ∧ w.getLsbD 15 = more ∧ w.getLsbD 16 = pr
      ∧ w.extractLsb' 17 31 = 0 ∧ w.extractLsb' 48 16 = p.code)

/-- R422, R431. RETURNING. `eret` acts on the bank k of the cause word after the other moves of its bundle: form 0 resumes bank k four ticks later where it was captured, or enters again ten ticks later when a cause is pending for it; after the entry with cause 0 the tile is ready for START, with what it was doing at the save, a handler that the debugger holds among it; form 1 halts bank k and discards its shadow and its levels; form 2 ends the launch with the cause. -/
def Obligations.ExceptionReturn : Prop :=
  (∀ s u : State, let t := (s.returned u 0).self
    let k : BitVec 2 := (u.self.sel[0]).extractLsb' 10 2
    u.self.run = 3 → k ≠ 3 → (u.self.sel[0]).extractLsb' 0 6 ≠ 0 →
      (firstCause k u.self.pend = none → t.run = k ∧ t.ready = u.tick + 4 ∧ t.bank k = u.self.bank k ∧ t.sel = u.self.sel)
      ∧ (∀ p, firstCause k u.self.pend = some p → t.run = 3 ∧ t.ready = u.tick + 10 ∧ (t.bank 3).pc = 0 ∧ t.pend = dropCause p u.self.pend
          ∧ t.bank k = u.self.bank k ∧ t.sel[1] = (p.takenAt (u.self.bank k).pc).origin ++ (u.self.bank k).pc ∧ t.sel[2] = p.shown ∧ t.sel[3] = p.detail
          ∧ (t.sel[0]).extractLsb' 0 6 = BitVec.ofNat 6 p.cause.code))
  ∧ (∀ s u : State, let t := (s.returned u 0).self
    u.self.run = 3 → (u.self.sel[0]).extractLsb' 0 6 = 0 → u.self.heldRun = none → t.run = 0 ∧ t.supReady = true ∧ t.ready = u.tick + 4
      ∧ ∀ k : BitVec 2, k ≠ 3 → t.bank k = u.self.bank k)
  ∧ (∀ (s u : State) (x : HeldRun), let t := (s.returned u 0).self
    u.self.run = 3 → (u.self.sel[0]).extractLsb' 0 6 = 0 → u.self.heldRun = some x → t.frozen = true ∧ t.supReady = true ∧ t.run = x.run
      ∧ (x.run = 3 → t.bank 3 = x.bank3 ∧ t.sel = x.sel ∧ t.debugHeld = x.debugHeld) ∧ ∀ k : BitVec 2, k ≠ 3 → t.bank k = u.self.bank k)
  ∧ (∀ s u : State, let t := (s.returned u 1).self
    let k : BitVec 2 := (u.self.sel[0]).extractLsb' 10 2
    u.self.run = 3 → k ≠ 3 → t.run = k ∧ (t.bank k).life = .halted ∧ (t.bank k).flight = [] ∧ (t.bank k).levels = [] ∧ (t.bank k).pc = (u.self.bank k).pc
      ∧ (t.bank k).g = (u.self.bank k).g ∧ (t.bank k).v = (u.self.bank k).v ∧ (t.bank k).b = (u.self.bank k).b)
  ∧ (∀ s u : State, let t := (s.returned u 2).self
    u.self.run = 3 → t.frozen = true ∧ t.ended = some (causeOfCode ((u.self.sel[0]).extractLsb' 0 6).toNat, false)
      ∧ ∀ k : BitVec 2, k ≠ 3 → t.bank k = u.self.bank k)
  ∧ (∀ (t : Tile) (v : Word), let k : BitVec 2 := (t.sel[0]).extractLsb' 10 2
      (t.setTrapOff v).sel[1] = (t.sel[1]).extractLsb' 32 32 ++ v ∧ (k ≠ 3 → (t.setTrapOff v).bank k = { t.bank k with pc := v }))

/-! ## Frames and memory -/

/-- R125, R144, R149. WHAT AN INSTRUCTION LEAVES ALONE, with no `mx` operation outstanding. A trigger that computes, and a division, leave every register, the memories, the engines, the special registers, the other banks and the rest of the module as its bundle found them, and so does a trigger that traps but for what the exception writes. What is due before a bundle changes no register and no memory. A local load changes no register and no byte; a local store or atomic changes no register and no byte but those it stores to; a trigger of an engine changes no register and no byte. -/
def Obligations.LeavesAlone : Prop :=
  (∀ s : State, SameRegs s.self s.atBundle.self ∧ SameUnits s.self s.atBundle.self ∧ SameRest s s.atBundle
      ∧ SameBanks s.self.run s.self s.atBundle.self)
  ∧ (∀ (i : Instr) (h : Head) (k : Sock) (o : Option Opnd) (lat : Nat) (f : Start → Res), Computes i h k o lat f →
      ∀ (s t : State) (v : Bus), Fires i h v s → Admits h k o v s → s.atBundle.self.mxq = [] → exec i s = .next t → Leaves s t)
  ∧ (∀ (i : Instr) (h : Head) (w : Width) (sg rm : Bool), Divides i h w sg rm →
      ∀ (s t : State) (v : Bus), Fires i h v s → ((s.latched h .mu (some .opB) v).self).slotFree .mu true = true → s.atBundle.self.mxq = [] →
        exec i s = .next t → Leaves s t)
  ∧ (∀ (i : Instr) (h : Head) (o : Opnd) (sz : Nat) (elems ps : Start → List Nat) (f : Start → List Byte → Res), LoadsLocal i h o sz elems ps f →
      ∀ (s t : State) (v : Bus), Fires i h v s → Admits h .ls (some o) v s → s.atBundle.self.mxq = [] →
        firstOut sz (elems (s.starts h .ls (some o) v)) = none → (s.latched h .ls (some o) v).self.badWords (ps (s.starts h .ls (some o) v)) = false →
        exec i s = .next t → SameRegs s.self t.self ∧ t.self.sram = s.self.sram ∧ t.mem = s.mem)
  ∧ (∀ (i : Instr) (h : Head) (o : Opnd) (sz : Nat) (elems : Start → List Nat) (ws : Start → List (List (Nat × Byte))), StoresLocal i h o sz elems ws →
      ∀ (s t : State) (v : Bus), let st := s.starts h .ls (some o) v
        Fires i h v s → Admits h .ls (some o) v s → s.atBundle.self.mxq = [] → cellsWf s.self.sram = true →
        firstOut sz (elems st) = none → (∀ w ∈ ws st, (s.latched h .ls (some o) v).self.writable (w.map (·.1)) = true) → exec i s = .next t →
          SameRegs s.self t.self ∧ t.mem = s.mem ∧ ∀ a, a ∉ (ws st).flatten.map (·.1) → t.self.byteAt a = s.self.byteAt a)
  ∧ (∀ (i : Instr) (h : Head) (o : Opnd) (m : LMod) (sg : Bool) (f : Nat → Nat → Nat → Option Nat × Bool), AtomicLocal i h o m sg f →
      ∀ (s t : State) (v : Bus), let st := s.starts h .ls (some o) v
        Fires i h v s → Admits h .ls (some o) v s → s.atBundle.self.mxq = [] → cellsWf s.self.sram = true →
        firstOut (isizeBytes m.size) [lsAddr st] = none → (s.latched h .ls (some o) v).self.badWords (layoutSpan m.layout (lsAddr st) (isizeBytes m.size)) = false →
        exec i s = .next t →
          SameRegs s.self t.self ∧ t.mem = s.mem ∧ ∀ a, a ∉ layoutSpan m.layout (lsAddr st) (isizeBytes m.size) → t.self.byteAt a = s.self.byteAt a)
  ∧ (∀ (i : Instr) (h : Head) (k : Sock) (o : Option Opnd) (ok : Start → State → Prop) (op : Start → State → DlOp) (named : DlOp → Tile → Tile)
      (ev : DlOp → EvArg → List (Instr × EvArg)), Queues i h k o ok op named ev → (∀ d t, SameRegs t (named d t) ∧ (named d t).sram = t.sram) →
      ∀ (s t : State) (v : Bus), Fires i h v s → Admits h k o v s → s.atBundle.self.mxq = [] → ok (s.starts h k o v) (s.latched h k o v) → exec i s = .next t →
        SameRegs s.self t.self ∧ t.self.sram = s.self.sram ∧ t.mem = s.mem)

/-- R216, R262. MEMORY READS WHAT WAS WRITTEN. A byte written to the cells of a memory in canonical form reads back, every other byte reads as before, and the form is kept; two memories in canonical form that read alike are equal. The memories of the module at reset have the form, and the stores of strands and engines to local memory and writes to global memory keep it. -/
def Obligations.MemoryReadsBack : Prop :=
  (∀ (m : List Host.Cell) (a b : Nat) (v : Byte), cellsWf m = true →
      cellsWf (cellsWrite m a v) = true ∧ cellsRead (cellsWrite m a v) b = if b = a then v else cellsRead m b)
  ∧ (∀ (m : List Host.Cell) (a : Nat) (bs : List Byte), cellsWf m = true →
      cellsReadAll (cellsWriteAll m a bs) a bs.length = bs ∧ ∀ b, (b < a ∨ a + bs.length ≤ b) → cellsRead (cellsWriteAll m a bs) b = cellsRead m b)
  ∧ (∀ m n : List Host.Cell, cellsWf m = true → cellsWf n = true → (∀ a, cellsRead m a = cellsRead n a) → m = n)
  ∧ (∀ v n : Nat, leNat (natLe v n) = v % 2 ^ (8 * n))
  ∧ (∀ (t : Tile) (ws : List (Nat × Byte)), cellsWf t.sram = true → cellsWf (t.sramWrite ws).sram = true ∧ cellsWf (t.engineWrite ws).sram = true)
  ∧ (∀ (s : State) (a : Nat) (bs : List Byte), s.memWf → (s.gWrite a bs).memWf)
  ∧ State.reset.memWf

/-- R216, R262 with DESIGN CHOICE, log 1. EVERY STEP KEEPS THE FORM OF MEMORY: where every memory of the module has its canonical form, saved ones included, the memories of the next state have it. So a memory that any run reaches is a map from addresses to bytes, and two of them that read alike are equal. -/
def Obligations.MemoryFormKept : Prop := ∀ s t : State, s.MemoryForm → step s = .next t → t.MemoryForm

/-! ## Events: bring-up, trust, reset -/

/-- R13, R14, R17 to R19, R21, R26. COMPLETES: perstDeassert, portTrained, fwcmdActivate, fwcmdReload, fwcmdEndReload, memoryTraining, controlLoad, tileSelfTest, bootReady. BRING-UP. Each stage follows the one before it and no other: PERST# out of reset measures the boot ROM, the first port to train gives the leader, `FWCMD` = 1 from the owner of the region starts verification, a failed check rejects with its reason, a passed one installs the owner, measures and trains, fewer than 23 healthy dies are fatal, which leaves a record, the self-test retires and holds what failed, and READY, within 20 s of the commit, raises the floor and frees the region. A slot is extended by the digest alone. That reset is the state with PERST# asserted (log 4), what training and the self-test find and the record of a fatal boot (log 72), and the corners of ownership (log 74) are the model's choices. -/
def Obligations.BootStages : Prop :=
  (∀ s : State, s.boot.out = false → exec .perstDeassert s = .next { s with boot := ({ s.boot with out := true }).extend 0 Config.romDigest })
  ∧ (∀ (b : Boot) (k : Fin 16) (d : BitVec 256), (b.extend k d).slots[k] = sha256Val (natBe (b.slots[k]).toNat 32 ++ natBe d.toNat 32)
      ∧ (∀ j : Fin 16, j ≠ k → (b.extend k d).slots[j] = b.slots[j]) ∧ (b.extend k d).stage = b.stage ∧ (b.extend k d).owner = b.owner)
  ∧ (∀ s : State, s.boot.out = true → s.boot.stage = 0x01 →
      exec .portTrained s = .next { s with boot := { s.boot with stage := 0x02, leader := portDie s.ev.port } })
  ∧ (∀ (s : State) (p : HostPort), s.ev.port = p → s.writes → 2 ≤ s.boot.stage →
      let mine := s.boot.port = none ∨ s.boot.port = some p
      let owned : State := { s with boot := { s.boot with port := some p } }
      (¬mine → exec .fwcmdActivate s = .next s.foreign ∧ exec .fwcmdReload s = .next s.foreign ∧ exec .fwcmdEndReload s = .next s.foreign)
      ∧ (mine → s.boot.stage = 0x02 →
          exec .fwcmdActivate s = .next ({ owned with boot := { owned.boot with stage := 0x03, busy := true, deadline := s.tick + 34000000000 } }.bootNext 5
            .fwcmdActivate { yes := true }))
      ∧ (mine → s.boot.stage ≠ 0x02 → exec .fwcmdActivate s = .next owned)
      ∧ (mine → s.boot.stage = 0x09 → s.boot.busy = false →
          exec .fwcmdReload s = .next ({ owned with boot := { owned.boot with busy := true } }.sched 1 none .fwcmdReload { yes := true }))
      ∧ (mine → s.boot.stage = 0x09 → s.boot.busy = true → exec .fwcmdEndReload s = .next owned.endReload))
  ∧ (∀ s : State, s.ev.yes = true →
      (s.boot.stage = 0x03 → ∃ t, exec .fwcmdActivate s = .next t ∧
        if s.verify false = 0 then
          t.boot.stage = 0x04 ∧ t.boot.image = some s.stagedJaith
            ∧ (s.boot.owner = none → t.boot.owner = some s.stagedJaith.owner) ∧ (s.boot.owner ≠ none → t.boot.owner = s.boot.owner)
        else
          t.boot.stage = 0xF0 ∧ t.boot.reason = s.verify false ∧ t.boot.port = none ∧ t.boot.busy = false
            ∧ (s.verify false < 6 → t.boot.owner = s.boot.owner))
      ∧ (s.boot.stage = 0x04 → ∃ t, exec .fwcmdActivate s = .next t ∧
        if s.verify false = 0 then
          t.boot.stage = 0x05 ∧ t.boot.slots = (((s.boot.extend 1 s.stagedJaith.digest).extend 2 s.stagedJaith.owner).extend 3 (sha256Val s.boot.security)).slots
        else t = s.fatal 1))
  ∧ (∀ (s : State) (k : Nat), (s.fatal k).boot.stage = 0xF1 ∧ (s.fatal k).boot.busy = false
      ∧ (s.err.head - s.err.tail < 4096 → (s.fatal k).err.head = s.err.head + 1) ∧ (4096 ≤ s.err.head - s.err.tail → s.err.drop ≤ (s.fatal k).err.drop))
  ∧ (∀ (s : State) (left : Nat) (i : Instr) (e : EvArg), ∃ d, (s.bootNext left i e).agenda = s.agenda ++ [(d, i, e)] ∧ s.tick < d
      ∧ (s.tick + left < s.boot.deadline → d + left ≤ s.boot.deadline))
  ∧ (∀ s : State, let k := s.keepDies s.ev.dies
      s.boot.stage = 0x05 → (k.healthy.length < 23 → exec .memoryTraining s = .next (k.fatal 2))
        ∧ (23 ≤ k.healthy.length → ∃ t, exec .memoryTraining s = .next t ∧ t.boot.stage = 0x06 ∧ t.sick = s.sick ||| ~~~s.ev.dies
            ∧ t.eutas.links = (List.range 12).map trainedLink ∧ ∀ i : Fin 8, t.cxl[i] = trainedPort i))
  ∧ (∀ s : State, s.boot.stage = 0x06 → ∃ t, exec .controlLoad s = .next t ∧ t.boot.stage = 0x07 ∧ t.boot.sched = (if s.ev.off = 0 then 0 else 2) ∧ t.sch.standby = true)
  ∧ (∀ s : State, let k := s.keepDies s.ev.dies
      s.boot.stage = 0x07 → (k.healthy.length < 23 ∨ s.ev.off % 4 = 0 → exec .tileSelfTest s = .next (k.fatal 3))
        ∧ (23 ≤ k.healthy.length → s.ev.off % 4 ≠ 0 → ∃ t, exec .tileSelfTest s = .next t
            ∧ t.boot.sched = (if s.ev.off % 4 = 1 then 0 else if s.ev.off % 4 = 2 then 2 else s.boot.sched) ∧ t.sch.standby = (s.ev.off % 4 == 3)
            ∧ t.shifts = (s.ev.quads.foldl State.retireQuad k).shifts ∧ t.lostQuads = (s.ev.quads.foldl State.retireQuad k).lostQuads
            ∧ (∀ c, c ∈ t.boot.held ↔ c ∈ s.boot.held ∨ c ∈ s.ev.clusters ∧ c < 96)
            ∧ (∀ d, 2 < (t.boot.held.filter fun x => x / 4 = d).length → (∃ c ∈ s.ev.clusters, c < 96 ∧ c / 4 = d) →
              ∃ x, (x, Instr.dieFence, ({ die := d, yes := true } : EvArg)) ∈ t.agenda)
            ∧ (∀ e ∈ s.agenda, e ∈ t.agenda)
            ∧ ∃ d, (d, Instr.bootReady, ({} : EvArg)) ∈ t.agenda ∧ s.tick < d ∧ (s.tick < s.boot.deadline → d ≤ s.boot.deadline)))
  ∧ (∀ (s : State) (n row : Nat), let p := quadPlace (n / 480) (n % 480)
      logicalRow (s.shiftOf p.1 p.2.2) p.2.1 = some row →
        (s.shiftOf p.1 p.2.2 = none → (s.retireQuad n).shifts = (p.1, p.2.2, row) :: s.shifts ∧ (s.retireQuad n).lostQuads = s.lostQuads)
        ∧ (∀ r, s.shiftOf p.1 p.2.2 = some r → (s.retireQuad n).shifts = s.shifts ∧ (s.retireQuad n).lostQuads = columnQuad p.1 row p.2.2 :: s.lostQuads))
  ∧ (∀ (s : State) (n : Nat), let p := quadPlace (n / 480) (n % 480)
      logicalRow (s.shiftOf p.1 p.2.2) p.2.1 = none → s.retireQuad n = s)
  ∧ (∀ s : State, s.boot.stage = 0x07 → ∃ t, exec .bootReady s = .next t ∧ t.boot.stage = 0x09 ∧ t.boot.busy = false ∧ t.boot.port = none ∧ s.boot.floor ≤ t.boot.floor
      ∧ (∀ j, s.boot.image = some j → j.raise = true → t.boot.floor = max s.boot.floor j.sec) ∧ (∀ j, s.boot.image = some j → j.raise = false → t.boot.floor = s.boot.floor))

/-- R20, R22 to R25, R28, R487. COMPLETES: clusterReload, transferCommand, getVersion, getCapabilities, negotiateAlgorithms, getDigests, getCertificate, challenge, getMeasurements, moduleReset. RELOAD, TRANSFER, MEASUREMENT, RESET. A reload verifies, measures into slot 4, takes the scheduler over, then takes the clusters one after another, each when no launch holds a quad of it. A transfer command answers with the code of the first check that fails and a new nonce, and empties the owner slot when it is accepted. An SPDM request is answered once the responder is up, a measurement with every slot. A module reset leaves the fuses, the owner, the host's memory and the size of BAR2. What unwritten memory reads as (log 1), the SPDM bytes (log 9), what a reset keeps (log 62), how a reload ends that fails (log 73), when its takeover is made (log 75) and the corners of a reload (log 89) are the model's choices. -/
def Obligations.ReloadTransferReset : Prop :=
  (∀ s : State, s.ev.yes = true → s.boot.stage = 0x09 → s.boot.busy = true →
      let after := fun (t u : State) (k : Nat) => u.agenda = t.agenda ++ [(t.tick + 1 + Config.delay t.free, .fwcmdReload, { yes := true, off := k })]
      (s.ev.off = 0 → ∃ t, exec .fwcmdReload s = .next t ∧
        if s.verify true = 0 then t.boot.next = some s.stagedJaith ∧ after s t 1 else t.boot.stage = 0xF0 ∧ t.boot.reason = s.verify true)
      ∧ (s.ev.off = 1 → ∃ t, exec .fwcmdReload s = .next t ∧
        if s.verify true = 0 then t.boot.slots = (s.boot.extend 4 s.stagedJaith.digest).slots ∧ t.boot.reloading = true ∧ t.boot.reloaded = [] ∧ after s t 2
        else t = s.fatal 1)
      ∧ (s.ev.off = 2 → s.sch.standby = true → ∃ t, exec .fwcmdReload s = .next t ∧ after s.takeover t 3 ∧ t.sch.standby = false)
      ∧ (s.ev.off = 2 → s.sch.standby = false → exec .fwcmdReload s = .next (s.reloadFrom 0))
      ∧ (s.ev.off = 3 → exec .fwcmdReload s = .next ({ s with sch := { s.sch with standby := true } }.reloadFrom 0))
      ∧ (s.ev.off = 4 → ∃ t, exec .fwcmdReload s = .next t ∧ after s t 5)
      ∧ (5 ≤ s.ev.off → ∃ t, exec .fwcmdReload s = .next t ∧ t.boot.image = s.boot.next ∧ t.boot.reloading = false ∧ t.boot.busy = false ∧ t.boot.port = none))
  ∧ (∀ (s : State) (c : Nat), s.ev.cluster = c → s.boot.reloading = true → s.boot.inProgress = c →
      let held := ∃ q ∈ s.quads, clusterOf q.addr = c ∧ q.owner.isSome = true
      (held → (∀ l ∈ s.sch.launches, c ∈ l.clusters → l.rcd.pclass = 0) →
        exec .clusterReload s = .next (s.sched 1 none .clusterReload { cluster := c }))
      ∧ (¬held → ∃ t, exec .clusterReload s = .next t ∧
        if Config.choice s.free = true then
          t = ({ s with free := s.free + 1, draining := [], boot := { s.boot with reloaded := c :: s.boot.reloaded }, quads := s.quads.map (fun q => if clusterOf q.addr = c then { q with store := s.boot.sup, badStore := [] } else q) } : State).reloadFrom (c + 1)
        else c ∈ t.boot.held ∧ t.boot.reloading = false ∧ t.boot.busy = false ∧ t.boot.reloaded = s.boot.reloaded))
  ∧ (∀ (s : State), 2 ≤ s.boot.stage → s.portHeld s.ev.port = false → ∃ t r, exec .transferCommand s = .next t
      ∧ r = ({ s with boot := { s.boot with xfer := s.boot.xfer.set 15 s.ev.val } } : State).transferResult
      ∧ t.boot.xferResult = r ∧ t.boot.nonce = Config.freeNonce s.free ∧ t.boot.owner = (if r = 1 then none else s.boot.owner)
      ∧ t.boot.xferAccepted = (s.boot.xferAccepted || r == 1))
  ∧ (∀ s : State, s.spdmUp = true →
      let answer := fun (name : String) (bs : List Byte) => ({ s with outbox := s.outbox ++ [.spdm name bs s.free], free := s.free + 1 } : State)
      exec .getVersion s = .next (answer "VERSION" []) ∧ exec .getCapabilities s = .next (answer "CAPABILITIES" [])
      ∧ exec .negotiateAlgorithms s = .next (answer "ALGORITHMS" (natLe 0x10 4 ++ natLe 1 4)) ∧ exec .getDigests s = .next (answer "DIGESTS" [])
      ∧ exec .getCertificate s = .next (answer "CERTIFICATE" []) ∧ exec .challenge s = .next (answer "CHALLENGE_AUTH" [])
      ∧ exec .getMeasurements s = .next (answer "MEASUREMENTS"
        ((s.boot.slots.toList.zipIdx.flatMap fun x => natLe (x.2 + 1) 1 ++ natBe x.1.toNat 32) ++ natBe (Config.deviceSign s.boot.measurements s.free).toNat 64)))
  ∧ (∀ s : State, ∃ t, exec .moduleReset s = .next t ∧ t.boot.floor = s.boot.floor ∧ t.boot.owner = s.boot.owner ∧ t.boot.strap = s.ev.yes
      ∧ t.boot.bar2k = s.boot.bar2k ∧ t.boot.out = false ∧ t.boot.stage = 0x01 ∧ t.boot.slots = Vector.replicate 16 0 ∧ t.tiles = [] ∧ t.quads = []
      ∧ t.sch = {} ∧ t.outbox = s.outbox ∧ t.boot.nonce = Config.freeNonce s.free
      ∧ ∀ a, cellsWf s.mem = true → cellsRead t.mem a = match regionOf a with | .host => cellsRead s.mem a | _ => 0)

/-! ## Events: the host's accesses, power, queues -/

/-- R15, R26, R27, R29 to R32, R372. COMPLETES: registerWrite, reservedAccess, bar2Access, pwrcapWrite, capDeadline, queueCreate, queueDestroy, queueResume, queueAbort, queueDestroyComplete, notifyWrite, queueMap, recordRead. THE HOST'S ACCESSES. The writes of a port are performed in their order. BAR0 accepts aligned accesses of 4 and 8 bytes: others get an unsupported request; a reserved address reads 0, discards writes and is counted; a read-only register keeps its value; a register outside the boot regions does not answer before READY; a half write of a read-write register keeps the other half. BAR2 reaches the staging SRAM or the window. A cap is clamped to its range and checked at its deadline. R52 to R60, R71, R72. QUEUES. A command answers in QCMD's status: 1 for a reserved field, 2 for a bad or overlapping descriptor, 3 for a queue that is not there, 4 for one that has not faulted. A create clears the header; a destroy completes when nothing of the queue is left; an abort ends every kernel of the queue with status 6. A notify above the read index and the depth, to a faulted queue or from a device that may not, is discarded and counted; another raises N. A record is read in three parts, its mark, its body and its mark again; 16 failed checksums in a row fault the queue. What PWRCAP does between its steps and what the draw is (log 7), when the parts of a record are read (log 53), the corners of queue commands (log 64), what the scheduler cannot read (log 91) and the corners of the host's accesses (log 89) are the model's choices. -/
def Obligations.HostEvents : Prop :=
  (∀ s : State, 2 ≤ s.boot.stage → let off := s.ev.off
      let size := s.ev.size
      let v := s.ev.val.toNat
      let b := (barOf off).1
      let o := (barOf off).2 / 8 * 8
      let open_ := b.early = true ∨ s.boot.stage = 0x09
      let kept := match b with | .debug _ => s.reg b o % 2 | _ => s.reg b o
      (s.portHeld s.ev.port = false →
      (barAccepts off size = false → exec .registerWrite s = .next { s with outbox := s.outbox ++ [.unsupported] })
      ∧ (barAccepts off size = true → barNamed off size = false → exec .registerWrite s = .next s.countReserved)
      ∧ (barAccepts off size = true → barNamed off size = true → ¬open_ ∨ b.access o = .ro → exec .registerWrite s = .next s)
      ∧ (barAccepts off size = true → barNamed off size = true → open_ → b.access o = .wo →
          exec .registerWrite s = .next (if size = 8 then s.regSet s.ev.port b o v else s))
      ∧ (barAccepts off size = true → barNamed off size = true → open_ → b.access o = .rw → ∃ whole : Nat, whole < 2 ^ 64
          ∧ exec .registerWrite s = .next (s.regSet s.ev.port b o whole)
          ∧ (size = 8 → whole = v % 2 ^ 64)
          ∧ (size ≠ 8 → off % 8 = 0 → whole % 2 ^ 32 = v % 2 ^ 32 ∧ whole / 2 ^ 32 = kept / 2 ^ 32 % 2 ^ 32)
          ∧ (size ≠ 8 → off % 8 ≠ 0 → whole / 2 ^ 32 = v % 2 ^ 32 ∧ whole % 2 ^ 32 = kept % 2 ^ 32))))
  ∧ (∀ (s : State) (i : Instr), i ∈ portWrites → s.ev.yes = false → s.portHeld s.ev.port = true → exec i s = .next { s with hostQ := s.hostQ ++ [(i, s.ev)] })
  ∧ (∀ (s : State) (p : HostPort) (n : Nat) (x : Instr × EvArg), (s.hostQ.find? fun x => portOfWrite x.1 x.2 == p) = some x →
      (({ s with ev := x.2 } : State).hostHint x.1 = none →
        s.drainPort p (n + 1) = (({ s with ev := x.2, hostQ := s.hostQ.erase x } : State).hostPerform x.1).drainPort p n)
      ∧ ∀ h, ({ s with ev := x.2 } : State).hostHint x.1 = some h → s.drainPort p (n + 1) = s.portAgain p h)
  ∧ (∀ (s : State) (bs : List Byte), 2 ≤ s.boot.stage → s.ev.req = .write bs →
      (s.portHeld s.ev.port = true → exec .reservedAccess s = .next { s with hostQ := s.hostQ ++ [(.reservedAccess, s.ev)] })
      ∧ (s.portHeld s.ev.port = false → barAccepts s.ev.off bs.length = true → barNamed s.ev.off bs.length = false → exec .reservedAccess s = .next s.countReserved)
      ∧ (s.portHeld s.ev.port = false → barAccepts s.ev.off bs.length = false →
        exec .reservedAccess s = .next { s with outbox := s.outbox ++ [.unsupported] }))
  ∧ (∀ (s : State) (n : Nat), 2 ≤ s.boot.stage → s.ev.req = .read n → let off := s.ev.off
      let b := (barOf off).1
      let o := (barOf off).2 / 8 * 8
      let data := fun (s : State) (v : Nat) => ({ s with outbox := s.outbox ++ [.data (natLe (v / 2 ^ (8 * (off % 8))) n)] } : State)
      (barAccepts off n = false → exec .reservedAccess s = .next { s with outbox := s.outbox ++ [.unsupported] })
      ∧ (barAccepts off n = true → barNamed off n = false → exec .reservedAccess s = .next (data s.countReserved 0))
      ∧ (barAccepts off n = true → barNamed off n = true → (b.early = true ∨ s.boot.stage = 0x09) → let u := if b = .power ∧ o = 8 then s.lookPower else s
          exec .reservedAccess s = .next (data u (u.reg b o)))
      ∧ (barAccepts off n = true → barNamed off n = true → b.early = false → s.boot.stage ≠ 0x09 → ¬(s.boot.stage = 0xF1 ∧ b = .errors) →
          exec .reservedAccess s = .next (data s 0))
      ∧ (barAccepts off n = true → barNamed off n = true → s.boot.stage = 0xF1 → b = .errors → exec .reservedAccess s = .next (data s (s.reg b o))))
  ∧ (∀ s : State, let e := s.ev
      (e.yes = true → e.size ≤ 8 → exec .bar2Access s = .next { s with boot := { s.boot with bar2k := e.size } })
      ∧ (e.yes = false → e.words = 1 → exec .bar2Access s = .next (s.drainPort e.port s.hostQ.length))
      ∧ (e.yes = false → e.words ≠ 1 → 2 ≤ s.boot.stage → e.off + reqSize e.req ≤ s.boot.span →
          let isWrite := ∃ bs, e.req = .write bs
          (reqLegal e.off e.req = false → exec .bar2Access s = .next { s with outbox := s.outbox ++ [.unsupported] })
          ∧ (reqLegal e.off e.req = true → s.stagingMapped = true → (isWrite → s.portHeld e.port = false) →
              exec .bar2Access s = .next (s.stagingAccess e.off e.req))
          ∧ (reqLegal e.off e.req = true → s.stagingMapped = false → (isWrite → s.portHeld e.port = false) → s.windowHint e.off e.req = none →
              exec .bar2Access s = .next (s.windowAccess e.off e.req))
          ∧ (∀ n, reqLegal e.off e.req = true → s.stagingMapped = false → s.windowHint e.off e.req = some n →
              (¬isWrite → exec .bar2Access s = .next { s.countRef with agenda := s.agenda ++ [(s.tick + n, .bar2Access, e)] })
              ∧ (isWrite → s.portHeld e.port = false → exec .bar2Access s = .next { s.countRef with
                  hostQ := s.hostQ ++ [(.bar2Access, e)], agenda := s.agenda ++ [(s.tick + n, .bar2Access, { port := e.port, words := 1 })] }))
          ∧ (reqLegal e.off e.req = true → isWrite → s.portHeld e.port = true → exec .bar2Access s = .next { s with hostQ := s.hostQ ++ [(.bar2Access, e)] })))
  ∧ (∀ s : State, 2 ≤ s.boot.stage → s.writes → ∃ t, exec .pwrcapWrite s = .next t ∧ t.capAt = s.tick ∧ t.draw ≤ 800 ∧ 3000 ≤ t.pwrcap ∧ t.pwrcap ≤ 8000 ∧ t.pwrcap % 50 = 0
      ∧ (s.ev.val.toNat % 50 = 0 → 3000 ≤ s.ev.val.toNat → s.ev.val.toNat ≤ 8000 → t.pwrcap = s.ev.val.toNat)
      ∧ t.overCap = decide (t.pwrcap < 10 * t.draw) ∧ (t.overCap = true → t.capUntil = some (s.tick + 17000000) ∧ ∀ d, d ∈ t.capHeld ↔ d ∈ s.busyDies ∧ s.silentOn d = true) ∧ (t.overCap = false → t.capped = [] ∧ t.capHeld = [] ∧ t.capUntil = none))
  ∧ (∀ s : State, s.capAt + 17000000 ≤ s.tick → s.allRing = true → s.samplePower.overCap = false)
  ∧ (∀ (s : State) (d : Nat), s.capUntil = some d → d ≤ s.tick →
      ∃ t, exec .capDeadline s = .next t ∧
        if s.samplePower.overCap = true then
          t = (match s.samplePower.capVictim with | some l => s.samplePower.preemptLaunch l.id false | none => s.samplePower).sched 1 none .capDeadline {}
        else t.capped = [] ∧ t.capHeld = [] ∧ t.capUntil = none)
  ∧ (∀ (s : State) (v : Nat), s.boot.stage = 0x09 → s.writes → s.ev.off = 0x100008 → s.ev.size = 8 → s.ev.val.toNat = v →
      (s.sch.cmdBusy = true → exec .registerWrite s = .next s)
      ∧ (s.sch.cmdBusy = false → (bits v 55 16 ≠ 0 ∨ bits v 63 56 = 0 ∨ 4 < bits v 63 56) → exec .registerWrite s = .next (s.cmdDone (v % 2 ^ 16) 1)))
  ∧ (∀ s : State, let n := s.ev.queue.toNat
      (s.ev.yes = true ∨ (s.writes ∧ s.boot.stage = 0x09 ∧ s.sch.cmdBusy = false)) →
      (∀ u, s.ownBusy (s.descAt n) 32 = some u → exec .queueCreate s = .next { s.countRef with
          sch := { s.sch with cmdQueue := n, cmdResult := 0, cmdBusy := true },
          agenda := s.agenda ++ [(s.tick + hintOf u s.tick, .queueCreate, { queue := BitVec.ofNat 16 n, yes := true })] })
      ∧ (s.ownBusy (s.descAt n) 32 = none → s.descriptor n = none → exec .queueCreate s = .next (s.cmdDone n 2))
      ∧ (s.ownLost (s.descAt n) 32 = true → s.descriptor n = none)
      ∧ (s.ownBusy (s.descAt n) 32 = none → ∀ q, s.descriptor n = some q → ((s.queue? n).isSome = true ∨ ∃ p ∈ s.sch.queues, q.overlaps p = true) → exec .queueCreate s = .next (s.cmdDone n 2))
      ∧ (s.ownBusy (s.descAt n) 32 = none → ∀ q, s.descriptor n = some q → s.queue? n = none → (∀ p ∈ s.sch.queues, q.overlaps p = false) →
          ∃ t, exec .queueCreate s = .next t ∧ t.sch.queues = s.sch.queues ++ [q] ∧ t.sch.cmdResult = 0 ∧ t.sch.cmdQueue = n ∧ t.sch.cmdBusy = false
            ∧ t.mem = cellsWriteAll s.mem q.header (List.replicate 64 0)))
  ∧ (∀ s : State, s.writes → s.boot.stage = 0x09 → s.sch.cmdBusy = false → let n := s.ev.queue.toNat
      let gone := s.queue? n = none
      (gone → exec .queueDestroy s = .next (s.cmdDone n 3) ∧ exec .queueResume s = .next (s.cmdDone n 3) ∧ exec .queueAbort s = .next (s.cmdDone n 3))
      ∧ (∀ q, s.queue? n = some q →
          (∃ t, exec .queueDestroy s = .next t ∧ t.sch.cmdBusy = true ∧ t.sch.cmdQueue = n ∧ ∀ x ∈ t.sch.queues, x.num = n → x.destroying = true)
          ∧ (q.faulted = false → exec .queueResume s = .next (s.cmdDone n 4))
          ∧ (q.faulted = true → exec .queueResume s = .next ((s.updQueue { q with faulted := false, fails := 0, rd := none, reread := s.tick }).cmdDone n 0))
          ∧ (∃ t, exec .queueAbort s = .next t ∧ t.sch.cmdResult = 0 ∧ t.sch.cmdQueue = n
            ∧ ∀ l ∈ s.sch.launches, l.queue = n → (s.launch? l.id) = some l →
              (l.wasLaunched = true → l.slotDone = false → l.result = none →
                ∃ x, t.launch? l.id = some x ∧ x.result = some (6, 0, 0xFF, 0xFFFF) ∧ x.phase = .ending)
              ∧ (l.slotDone = true ∨ l.result.isSome = true → ∃ x, t.launch? l.id = some x ∧ x.result = l.result))
          ∧ ((∀ l ∈ s.sch.launches, l.queue ≠ n) → exec .queueAbort s = .next (s.cmdDone n 0))))
  ∧ (∀ (s : State) (l : Launch), (s.launch? l.id) = some l → l.result = none → l.slotDone = false → l.phase ≠ .complete →
      ∃ x, ((s.endLaunch l.id 6 0 0xFF 0xFFFF).launch? l.id) = some x ∧ x.result = some (6, 0, 0xFF, 0xFFFF) ∧ x.phase = .ending)
  ∧ (∀ (s : State) (n : Nat), s.dueDestroy = some n → ∃ t, exec .queueDestroyComplete s = .next t ∧ (∀ q ∈ t.sch.queues, q.num ≠ n)
      ∧ t.sch.cmdResult = 0 ∧ t.sch.cmdQueue = n ∧ t.sch.cmdBusy = false)
  ∧ (∀ (s : State) (q : LQueue), let n := s.ev.off / 4096
      let device := s.ev.path = .aperture
      let good := s.ev.off % 4096 = 0 ∧ (device ∨ s.ev.size = 8)
      let w := s.ev.val.toNat
      s.queue? n = some q → s.boot.stage = 0x09 → s.ev.yes = false → (∀ p, s.ev.path = .bar4 p → s.portHeld p = false) →
        (∀ t0, s.sch.silent = some t0 → ∃ b, exec .notifyWrite s = .next { s with sch := { s.sch with heldNotes := s.sch.heldNotes ++ [(n, w, b, decide good)] } }
          ∧ (b = true ↔ device))
        ∧ (s.sch.silent = none → ((q.faulted = true ∨ q.head + q.size < w ∨ (device ∧ q.device = false) ∨ ¬good) →
          exec .notifyWrite s = .next (s.updQueue { q with discards := min (q.discards + 1) (2 ^ 32 - 1) })))
        ∧ (s.sch.silent = none → q.faulted = false → w ≤ q.head + q.size → (device → q.device = true) → good → ∃ t x, exec .notifyWrite s = .next t
            ∧ (t.queue? n) = some x ∧ x.notified = max q.notified w ∧ x.lastNotify = s.tick ∧ x.head = q.head ∧ x.discards = q.discards ∧ t.mem = s.mem))
  ∧ (∀ (s : State) (p : HostPort), let n := s.ev.off / 4096
      s.ev.path = .bar4 p → s.ev.off % 4096 = 0 → s.ev.size = 8 →
        (∀ q, s.queue? n = some q → s.boot.stage = 0x09 → s.ev.yes = true →
          exec .notifyWrite s = .next { s with outbox := s.outbox ++ [.data (natLe q.notified 8)] })
        ∧ (s.boot.stage ≠ 0x09 → s.ev.yes = false → s.portHeld p = false →
          exec .notifyWrite s = .next { s with boot := { s.boot with pages := putKeyed n s.ev.val.toNat s.boot.pages } }))
  ∧ (∀ (s : State) (q : LQueue), s.queue? s.ev.queue.toNat = some q → q.mapped = false →
      ((s.sch.queues.filter (·.mapped)).length < 1024 → exec .queueMap s = .next (s.mapQueue q))
      ∧ (1024 ≤ (s.sch.queues.filter (·.mapped)).length → ∀ p, oldestIdle s.sch.queues = some p → exec .queueMap s = .next ((s.putQueue { p with mapped := false }).mapQueue q))
      ∧ (1024 ≤ (s.sch.queues.filter (·.mapped)).length → oldestIdle s.sch.queues = none → exec .queueMap s = .next (s.putQueue { q with wake := true })))
  ∧ (∀ (s : State) (q : LQueue), s.queue? s.ev.queue.toNat = some q →
      q.mapped = true → q.faulted = false → q.destroying = false → q.item = none → q.head < q.notified → q.reread ≤ s.tick →
        let a := q.base + 128 * (q.head % q.size)
        let marked := leNat (s.gRead (a + 0x78) 8) = (q.head + 1) % 2 ^ 64
        let whole := fun bs : List Byte => crc32c (bs.take 0x74) = BitVec.ofNat 32 (imgField bs 0x74 4)
        let goesOn := fun (part : Nat × Option (List Byte)) => ∃ t x, exec .recordRead s = .next t ∧ t.queue? q.num = some x ∧ x.rd = some part ∧ x.head = q.head
          ∧ x.item = none ∧ x.fails = q.fails ∧ s.tick ≤ x.reread ∧ x.reread < s.tick + 1700
        let notYet := ∃ t x, exec .recordRead s = .next t ∧ t.queue? q.num = some x ∧ x.rd = none ∧ x.fails = 0 ∧ x.head = q.head ∧ x.item = none
          ∧ s.tick < x.reread ∧ x.reread ≤ s.tick + 3400
        (∀ bs, q.accepted = some bs → exec .recordRead s = .next (s.schedBusy.checkImage q bs))
        ∧ (q.accepted = none → s.ownBusy a 128 = none → s.ownLost a 128 = true → q.rd = none → notYet)
        ∧ (∀ u, q.accepted = none → s.ownBusy a 128 = some u →
          exec .recordRead s = .next (s.countRef.putQueue { q with rd := none, reread := s.tick + hintOf u s.tick }))
        ∧ (q.accepted = none → s.ownLost a 128 = false → s.ownBusy a 128 = none →
          (q.rd = none → (marked → goesOn (s.tick, none)) ∧ (¬marked → notYet))
          ∧ (∀ t0, q.rd = some (t0, none) → goesOn (t0, some (s.gRead a 0x78)))
          ∧ (∀ t0 bs, q.rd = some (t0, some bs) → (¬marked → notYet)
            ∧ (marked → ¬whole bs → q.fails = 15 → exec .recordRead s = .next (s.schedBusy.updQueue { q with fails := 0, rd := none, faulted := true }))
            ∧ (marked → ¬whole bs → q.fails ≠ 15 → exec .recordRead s = .next (s.schedBusy.putQueue { q with fails := q.fails + 1, rd := none, reread := s.tick + 3400 }))
            ∧ (marked → whole bs → exec .recordRead s = .next (s.schedBusy.checkRecord { q with rd := none, fails := 0 } (bs ++ natLe (q.head + 1) 8))))))

/-! ## Events: the scheduler and the leaves -/

/-- R61 to R65, R68 to R70, R77, R114 to R119, R432, R434 to R438, R448, R450. COMPLETES: launchPlacement, place, placed, nofit, start, triggered, halted, fault, completionWrite, preempt, release, schedulerTakeover, stageLaunch, switchTick, switchToken. LAUNCHES. The scheduler acts on its first choice; a leaf reserves a placement or answers NOFIT, as a draining or held cluster does; the answers are gathered, and when every leaf has placed START names one tick for all; TRIGGERED, HALTED and FAULT are noted; a due completion writes the status slot, once its pseudo-channel is there, then the semaphore, which is tried again after a refusal; PREEMPT asks every tile, and an entry under way shows the request; RELEASE frees the quads; a standby takes over once the active core has missed its heartbeat for 170,000 ticks, and takes every record without a launch again; a dependant is staged on its producer and switches at its tick or behind its tokens. That the answers of every leaf are awaited (log 55), the corners of a staged launch (log 57) and of a save (log 67), what a takeover keeps (log 69), when the permit of a link returns (log 79) and what the scheduler itself reads (log 91) are the model's choices. -/
def Obligations.LaunchEvents : Prop :=
  (∀ (s : State) (a : SchedAct), s.schedAct = some a → exec .launchPlacement s = .next (s.doAct a).schedBusy)
  ∧ (∀ (s u : State) (m : LinkMsg) (l : Launch), s.takeMsg .place = some (m, u) → u.launch? m.launch = some l →
      ((m.cluster ∈ u.draining ∨ m.cluster ∈ u.boot.held ∨ ∃ q ∈ l.quads, clusterOf q = m.cluster ∧ u.unfit q = true) → u.leafCan l m.cluster = false)
      ∧ (u.leafCan l m.cluster = false → exec .place s = .next (u.sendMsg m.cluster l.id .nofit))
      ∧ (u.leafCan l m.cluster = true → l.restoring = true →
          exec .place s = .next ((u.leafReserve l m.cluster).sched 1 none .restore { cluster := m.cluster, launch := l.id }))
      ∧ (u.leafCan l m.cluster = true → l.restoring = false → ∀ e, l.load = some e →
          exec .place s = .next ((u.leafReserve l m.cluster).sendMsg m.cluster l.id (.placed (some e))))
      ∧ (u.leafCan l m.cluster = true → l.restoring = false → l.load = none → exec .place s = .next (u.leafPlace l m.cluster)))
  ∧ (∀ (s u : State) (m : LinkMsg) (l : Launch), u.launch? m.launch = some l →
      (s.takeMsg .placed = some (m, u) → exec .placed s = .next (u.placeAnswered { l with placed := m.cluster :: l.placed }))
      ∧ (s.takeMsg .nofit = some (m, u) → exec .nofit s = .next (u.placeAnswered { l with nofit := m.cluster :: l.nofit }))
      ∧ (s.takeMsg .triggered = some (m, u) → exec .triggered s = .next (u.putLaunch { l with trig := m.cluster :: l.trig }))
      ∧ (s.takeMsg .halted = some (m, u) → m.msg = .halted true → exec .halted s = .next (u.haltAnswered { l with savedBy := m.cluster :: l.savedBy }))
      ∧ (s.takeMsg .halted = some (m, u) → m.msg = .halted false → exec .halted s = .next (u.haltAnswered { l with halted := m.cluster :: l.halted }))
      ∧ (∀ c r, s.takeMsg .fault = some (m, u) → m.msg = .fault c r → exec .fault s = .next (u.endLaunch m.launch 5 c r 0xFFFF)))
  ∧ (∀ (s : State) (l : Launch), l.phase = .placing → l.load = none → (∀ c ∈ l.clusters, c ∉ l.nofit) → (∀ c ∈ s.leavesOf l, c ∈ l.placed) →
      (∀ c ∈ s.leavesOf l, s.hasPermit c true = true) → s.placeAnswered l = (s.putLaunch l).startLaunch l)
  ∧ (∀ (s : State) (l : Launch), s.launch? l.id = some l → ∃ T, (∀ m ∈ (s.startLaunch l).sch.msgs, m ∉ s.sch.msgs → m.msg = .start T ∧ m.launch = l.id ∧ m.due < T))
  ∧ (∀ (s u : State) (m : LinkMsg) (t : Nat), s.takeMsg .start = some (m, u) → m.msg = .start t →
      let v := ((u.launchTiles m.launch).filter fun x => clusterOf x.addr = m.cluster).foldl
        (fun s x => (s.onTile x.addr fun x => x.startAt t).resumeOps x.addr) u
      exec .start s = .next { v with agenda := v.agenda ++ [(t, .clusterLoadWrite, { cluster := m.cluster, launch := m.launch, yes := true })] })
  ∧ (∀ (t : Tile) (tick : Nat), (t.startAt tick).frozen = false ∧ tick ≤ (t.startAt tick).ready
      ∧ (t.role.isSome = true → (t.bank 0).life = .unstarted → ((t.startAt tick).bank 0).life = .live))
  ∧ (∀ (s : State) (c : Nat) (l : Dword) (m : LMsg), let t := s.sendMsg c l m
      (s.hasPermit c m.down = true → ∃ d, t.sch.msgs = s.sch.msgs ++ [{ cluster := c, msg := m, launch := l, due := d }] ∧ s.tick < d
        ∧ ∀ x ∈ s.sch.msgs, x.cluster = c → x.msg.down = m.down → x.due ≤ d)
      ∧ (s.hasPermit c m.down = false → ∃ d, t.sch.msgs = s.sch.msgs ++ [{ cluster := c, msg := m, launch := l, due := d, waits := true }]))
  ∧ (∀ (s : State) (l : Launch), s.dueCompletion = some l.id → s.launch? l.id = some l →
      let r := l.result.getD (1, 0, 0xFF, 0xFFFF)
      let s1 := if l.slotDone then s else ((s.logOff l.id).gateOff l.id).writeStatus l r
      let l1 : Launch := { l with slotDone := true, result := some r }
      (∀ u, s.slotBusy l = some u → exec .completionWrite s = .next (s.countRef.putLaunch { l with due := s.tick + hintOf u s.tick }))
      ∧ (s.slotBusy l = none →
      (l.rcd.done = false → exec .completionWrite s = .next (s1.closeLaunch l1 r.1).schedBusy)
      ∧ (l.rcd.done = true → ∀ u pa k d, s1.schedAccess l.rcd.asid l.rcd.sem 8 .wr = .ok u pa k d →
          exec .completionWrite s = .next ((u.semStore pa l.rcd.semVal).closeLaunch l1 r.1).schedBusy)
      ∧ (l.rcd.done = true → ∀ h, s1.schedAccess l.rcd.asid l.rcd.sem 8 .wr = .refuse h →
          exec .completionWrite s = .next (s1.countRef.putLaunch { l1 with due := s.tick + h }))
      ∧ (l.rcd.done = true → ∀ c q, s1.schedAccess l.rcd.asid l.rcd.sem 8 .wr = .fault c → s1.queue? l.queue = some q →
          exec .completionWrite s = .next ((s1.updQueue (q.semFailed l.index c)).closeLaunch l1 r.1).schedBusy)))
  ∧ (∀ (s : State) (l : Launch) (a : Nat) (r : Nat × Nat × Nat × Nat), s.slotOf l = some a → cellsWf s.mem = true →
      (s.ownLost a 16 = true → s.writeStatus l r = s)
      ∧ (s.ownLost a 16 = false → ∀ k, k < 16 → (s.writeStatus l r).byteAt (a + k) =
          (natLe l.index 8 ++ natLe r.1 1 ++ natLe r.2.1 1 ++ natLe r.2.2.1 1 ++ [0] ++ natLe r.2.2.2 2 ++ [0, 0]).getD k 0))
  ∧ (∀ (s u : State) (m : LinkMsg) (l : Launch), s.takeMsg .preempt = some (m, u) → u.launch? m.launch = some l → l.phase = .preempting →
      exec .preempt s = .next (((u.launchTiles l.id).filter fun t => clusterOf t.addr = m.cluster).foldl
        (fun s t => s.onTile t.addr fun t =>
          let t : Tile := if l.rcd.pclass = 1 then { t with prePeriod := true } else { t with preReq := true }
          if t.run = 3 then { t with sel := t.sel.set 0 (t.sel[0] ||| 1#64 <<< 16) } else t) u))
  ∧ (∀ (s u : State) (m : LinkMsg), s.takeMsg .release = some (m, u) → (u.leafRelease m.launch m.cluster).launch? m.launch = none →
      exec .release s = .next (u.leafRelease m.launch m.cluster))
  ∧ (∀ s : State,
      (s.ev.yes = true → s.sch.silent = none → s.boot.stage = 0x09 → exec .schedulerTakeover s = .next { s with
        sch := { s.sch with silent := some s.tick }, agenda := s.agenda ++ [(s.tick + 170000, .schedulerTakeover, {})] })
      ∧ (∀ t, s.ev.yes = false → s.sch.silent = some t → s.boot.stage = 0x09 →
        (s.sch.standby = true → t + 170000 ≤ s.tick → exec .schedulerTakeover s = .next s.takeover)
        ∧ ((s.sch.standby = false ∨ s.tick < t + 170000) → exec .schedulerTakeover s = .next s)))
  ∧ (∀ s : State, s.takeover.boot.sched = (if s.boot.sched = 0 then 2 else 0) ∧ s.takeover.sch.takeovers = s.sch.takeovers + 1 ∧ s.takeover.sch.launches = s.sch.launches
      ∧ s.takeover.sch.journal = s.sch.journal ∧ s.takeover.sch.standby = false ∧ s.takeover.sch.silent = none ∧ s.takeover.sch.heldNotes = []
      ∧ (s.sch.heldNotes = [] → ∀ q ∈ s.takeover.sch.queues, (s.launch? (q.launchId q.head)).isNone = true → q.item = none ∧ q.rd = none ∧ q.accepted = none ∧ q.fails = 0))
  ∧ (∀ (l : Launch) (at_ : List (Nat × Nat × Nat)), (l.moveTo at_).place = at_
      ∧ (l.trig ≠ [] → (∀ c ∈ l.clusters, c ∈ l.trig) → (l.moveTo at_).trig = (l.moveTo at_).clusters)
      ∧ ((∃ c ∈ l.clusters, c ∉ l.trig) → (l.moveTo at_).trig = []))
  ∧ (∀ (s : State) (q : LQueue) (h : QHead) (p : Launch), s.queue? s.ev.queue.toNat = some q → q.item = some h → s.stageOn q h = some p →
      (s.groupBad q h.rcd h.img = true → exec .stageLaunch s = .next (s.refuseRecord q h.rcd 3 0x28 0xFF 0xFFFF).schedBusy)
      ∧ (∀ e, s.groupBad q h.rcd h.img = false → h.load = some e → exec .stageLaunch s = .next ((s.countTurn (q.headPrio h) q.num).refuseHead q h.rcd 2 e.code e.role e.index).schedBusy)
      ∧ (s.groupBad q h.rcd h.img = false → h.load = none → ∃ t l, exec .stageLaunch s = .next t ∧ t.sch.launches = s.sch.launches ++ [l] ∧ l.phase = .staged ∧ l.stage = some { on := p.id } ∧ l.place = p.place
          ∧ t.tiles = s.tiles ∧ t.quads.map (·.active) = s.quads.map (·.active)))
  ∧ (∀ (s : State) (l : Launch) (g : Stage), s.launch? s.ev.launch = some l → l.phase = .staged → l.stage = some g → s.tokenMode l = false →
      (g.tickAt = none → l.dies.all (s.canSwitch l g) = true → ∃ T, s.tick + 3400 ≤ T
        ∧ exec .switchTick s = .next { s.putLaunch { l with stage := some { g with tickAt := some T } } with free := s.free + 1 })
      ∧ (∀ T, g.tickAt = some T → T ≤ s.tick → l.dies.all (s.canSwitch l g) = true →
          exec .switchTick s = .next ((l.dies.foldl (fun s d => s.switchDie l g d) s).switched l g l.dies))
      ∧ (∀ T, g.tickAt = some T → T ≤ s.tick → l.dies.all (s.canSwitch l g) = false → exec .switchTick s = .next (s.putLaunch { l with stage := some { g with tickAt := none } })))
  ∧ (∀ (s : State) (l : Launch) (g : Stage), s.launch? s.ev.launch = some l → l.phase = .staged → l.stage = some g →
      (s.ev.yes = false → s.datumBetween g.on s.ev.src s.ev.dst = false →
        exec .switchToken s = .next (s.putLaunch { l with stage := some { g with tokens := (s.ev.src, s.ev.dst) :: g.tokens } }))
      ∧ (s.ev.yes = true → s.tokenMode l = true → s.ev.die ∈ l.dies → s.ev.die ∉ g.done → s.canSwitch l g s.ev.die = true →
          (∀ e ∈ l.dies, e ≠ s.ev.die → (e, s.ev.die) ∈ g.tokens) → exec .switchToken s = .next ((s.switchDie l g s.ev.die).switched l g [s.ev.die])))

/-! ## Events: health, debugging, draining -/

/-- R32, R87, R89 to R92, R264, R274, R390, R440 to R442, R445. COMPLETES: dieFence, junctionOvertemp, quadCondemn, columnShift, laneRepair, linkRetrainEnd, pseudoChannelSpare, spareCopyEnd, debugHaltRequest, debugRelease, errorCounterHalving, cxlPortRetraining, tileDrained. HEALTH. A fenced die leaves the healthy set, its range is out of reach, its tiles are released; a condemned quad of a column with its spare in use is lost, one with a spare left is shifted out once no launch holds the column; links and ports are held while they retrain; a stack has two spares; the error counters halve every 2^40 ticks; a debug halt makes DEBUG pending and a release frees the tile, both behind the earlier writes of their port; a tile drains once everything of its launch there has ended. 64 replays on one lane within 2^24 ticks start its repair, and 16 corrected accesses of a channel within 2^34 ticks its sparing. The corners of losses (log 68) and the bank of a debug halt (log 78) are the model's choices. -/
def Obligations.HealthEvents : Prop :=
  (∀ (s : State) (d : Nat), s.ev.die = d → d < 24 → s.sick.getLsbD d = false → ∃ t, ((s.ev.yes = true ∨ s.writes ∧ s.boot.stage = 0x09) → exec .dieFence s = .next t)
      ∧ exec .junctionOvertemp s = .next t ∧ ((∀ e ∈ s.agenda, s.fenceDue e = false) → t.sick = s.sick ||| BitVec.ofNat 24 (2 ^ d))
      ∧ t.sick.getLsbD d = true ∧ t.fenced.getLsbD d = true ∧ (∀ q ∈ t.quads, dieOf q.addr = d → q.owner = none ∧ q.ganged = false)
      ∧ d ∉ t.healthy)
  ∧ (∀ s : State, s.writes ∨ s.ev.yes = true → (24 ≤ s.ev.die ∨ s.sick.getLsbD s.ev.die = true) → (∀ e ∈ s.agenda, s.fenceDue e = false) → exec .dieFence s = .next s)
  ∧ (∀ s : State, s.writes → s.boot.stage ≠ 0x09 → exec .dieFence s = .next s)
  ∧ (∀ (s : State) (d : Nat), s.fenceWith d = ((List.range 24).filter fun e => e == d || s.agenda.any fun x => s.fenceDue x && x.2.2.die == e).foldl State.fenceDie
      { s with agenda := s.agenda.filter fun x => !s.fenceDue x })
  ∧ (∀ (s : State) (x : Nat × Instr × EvArg), x.1 ≤ s.tick → (x.2.1 = .junctionOvertemp → s.fenceDue x = true)
      ∧ (x.2.1 = .dieFence → (x.2.2.yes = true ∨ s.boot.stage = 0x09 ∧ s.portHeld x.2.2.port = false) → s.fenceDue x = true))
  ∧ (∀ (s : State) (row : Nat), let p := quadPlace s.ev.die s.ev.quad
      let q := columnQuad p.1 row p.2.2
      logicalRow (s.shiftOf p.1 p.2.2) p.2.1 = some row → q ∉ s.condemned → q ∉ s.lostQuads →
        ((s.shiftOf p.1 p.2.2).isSome = true → ∃ t, exec .quadCondemn s = .next t ∧ t.lostQuads = q :: s.lostQuads ∧ t.condemned = s.condemned)
        ∧ (s.shiftOf p.1 p.2.2 = none → ∃ t, exec .quadCondemn s = .next t ∧ q ∈ t.condemned))
  ∧ (∀ s : State, let q := s.ev.quad
      let c := clusterOf q
      let row := bits q 9 6
      let col := bits q 5 2
      q ∈ s.condemned → s.shiftOf c col = none →
        (s.holders (columnFrom c row col) ≠ [] → exec .columnShift s = .next ((s.clearColumn (columnFrom c row col)).sched 1 none .columnShift s.ev))
        ∧ (s.holders (columnFrom c row col) = [] → ∃ t, exec .columnShift s = .next t ∧ t.shifts = (c, col, row) :: s.shifts ∧ t.shiftOf c col = some row
            ∧ q ∉ t.condemned ∧ ∀ x ∈ s.lostQuads, x ∈ t.lostQuads))
  ∧ (∀ s : State, let e := s.ev
      e.words ≠ 1 → (∀ r ∈ s.retrain, ¬(r.1 = e.src ∧ r.2.1 = e.dst)) → ∃ t u, exec .laneRepair s = .next t ∧ t.retrain = (e.src, e.dst, u) :: s.retrain ∧ s.tick < u ∧ u ≤ s.tick + 34000
        ∧ (u, .linkRetrainEnd, { src := e.src, dst := e.dst, yes := e.yes }) ∈ t.agenda)
  ∧ (∀ s : State, let e := s.ev
      let recent := s.laneReplays.filter fun r => r.1 == e.src && r.2.1 == e.dst && r.2.2.1 == e.channel && decide (s.tick < r.2.2.2 + 2 ^ 24)
      e.words = 1 → ∃ t, exec .laneRepair s = .next t
        ∧ (recent.length < 63 → t.retrain = s.retrain ∧ (e.src, e.dst, e.channel, s.tick) ∈ t.laneReplays)
        ∧ (63 ≤ recent.length → (∃ r ∈ t.retrain, r.1 = e.src ∧ r.2.1 = e.dst) ∧ ∀ r ∈ t.laneReplays, ¬(r.1 = e.src ∧ r.2.1 = e.dst ∧ r.2.2.1 = e.channel)))
  ∧ (∀ s : State, let e := s.ev
      ∃ t, exec .linkRetrainEnd s = .next t ∧ (∀ r ∈ t.retrain, ¬(r.1 = e.src ∧ r.2.1 = e.dst))
        ∧ (∀ r ∈ s.retrain, ¬(r.1 = e.src ∧ r.2.1 = e.dst) → r ∈ t.retrain)
        ∧ t.halfWidth = (if e.yes then (e.src, e.dst) :: s.halfWidth else s.halfWidth))
  ∧ (∀ s : State, let d := s.ev.die
      let c := s.ev.channel
      s.ev.words ≠ 1 → (d, c) ∉ s.failed → (∀ e ∈ s.sparing, ¬(e.1 = d ∧ e.2.1 = c)) →
        (2 ≤ s.sparesUsed d → exec .pseudoChannelSpare s = .next { s with failed := (d, c) :: s.failed })
        ∧ (s.sparesUsed d < 2 → ∃ t u, exec .pseudoChannelSpare s = .next t ∧ t.sparesUsed d = s.sparesUsed d + 1 ∧ t.sparing = (d, c, u) :: s.sparing ∧ s.tick < u
            ∧ t.agenda = s.agenda ++ [(u, .spareCopyEnd, { die := d, channel := c })] ∧ t.failed = s.failed))
  ∧ (∀ s : State, let d := s.ev.die
      let c := s.ev.channel
      let recent := s.hbmCorr.filter fun r => r.1 == d && r.2.1 == c && decide (s.tick < r.2.2 + 2 ^ 34)
      s.ev.words = 1 → ∃ t, exec .pseudoChannelSpare s = .next t
        ∧ (recent.length < 15 → t.sparing = s.sparing ∧ t.failed = s.failed ∧ (d, c, s.tick) ∈ t.hbmCorr)
        ∧ (15 ≤ recent.length → ((d, c) ∈ t.failed ∨ ∃ e ∈ t.sparing, e.1 = d ∧ e.2.1 = c)))
  ∧ (∀ s : State, exec .spareCopyEnd s = .next { s with sparing := s.sparing.filter fun e => !(e.1 == s.ev.die && e.2.1 == s.ev.channel) })
  ∧ (∀ (s : State) (t : Tile), s.tileAtPhys s.ev.die s.ev.entry = some t →
      s.writes → (t.launch.isSome = true → exec .debugHaltRequest s = .next (s.onTile t.addr fun t => t.debugHalt s.tick))
        ∧ (t.launch = none → exec .debugHaltRequest s = .next s)
        ∧ exec .debugRelease s = .next (s.onTile t.addr fun t => { t with debugHeld := false }))
  ∧ (∀ (t : Tile) (now : Nat), (t.bank 0).life ≠ .halted → ∃ p, (t.debugHalt now).pend = t.pend ++ [p] ∧ p.cause = .debug ∧ p.detail = 2 ∧ p.kind = .async
      ∧ p.bank = (if t.run = 3 then (t.sel[0]).extractLsb' 10 2 else t.run) ∧ (t.debugHalt now).asleep = false)
  ∧ (∀ s : State, s.tick % 2 ^ 40 = 0 → s.halved ≠ s.tick → exec .errorCounterHalving s = .next { s with
      halved := s.tick
      qerr := s.qerr.map fun x => { x with corr := x.corr / 2, unc := x.unc / 2, resid := x.resid / 2, exch := x.exch / 2 } })
  ∧ (∀ s : State, ∃ t, exec .cxlPortRetraining s = .next t ∧ ∀ k : Fin 8, t.cxl[k] =
      if k.val = s.ev.channel then { s.cxl[k] with holdUntil := if s.ev.yes then s.tick + s.ev.words else s.tick } else s.cxl[k])
  ∧ (∀ s : State, s.canDrain (s.tileAt s.ev.tile) = true → exec .tileDrained s = .next (s.onTile s.ev.tile fun t => { t with drained := true }))

/-! ## Events: the pipeline of a tile -/

/-- R97, R125 to R129, R148, R153, R169, R217, R228, R234, R237, R245, R249, R401, R414, R430. COMPLETES: bundleIssue, freeRunningLanding, dataLockedLanding, loopPassEnd, fmtTakesEffect, idleEnd, parityRefetch, fillerCommit, scrubRead, mxOpStart, mxOpEnd, tileSleep, tileWake, supervisorTimerExpiry, dmCompletion, translationWalk, dUpdate, accessRetry, resolveRewalk, resolveFail, fqtailWrite, migrate, replicate, collapse, migrationStep. THE TILE'S OWN EVENTS: landings, the end of a pass, a pending format, idle cycles, a parity refetch, the filler and the `mx` sequence, the scrubber, sleep and wake, the supervisor timer; each happens when its condition holds, and changes what the rule names. R268, R272 to R278, R281, R282, R294, R387. GLOBAL ACCESSES. The engine performs the next part of an operation, or ends one that is performed: its queue entry goes, its status lands, its tag is set. A core answers a walk; a write through a clean entry sets D; RESOLVE answers the accesses of a record with a new walk or a final fault; FQTAIL makes room; a refused access is sent again when its hint has passed; a migration request is taken up and goes through its steps. What a wake costs beside Tables 11.6 and 11.7 (log 28), the bank of the supervisor timer's cause (log 78), for how long an access waits for its bank (log 86) and the ticks of a refetch (log 94) are the model's choices. -/
def Obligations.TileEvents : Prop :=
  (∀ s : State, exec .bundleIssue s = .next { serve { s with cur := s.ev.tile } with cur := s.cur })
  ∧ (∀ s : State, let a := s.ev.tile
      exec .freeRunningLanding s = .next (s.onTile a fun t => t.landBank t.run)
      ∧ exec .loopPassEnd s = .next (s.onTile a fun t => t.passBank (s.quadAt a) (s.codeTile a) t.run)
      ∧ exec .fmtTakesEffect s = .next (s.onTile a fun t => t.onBank t.run Strand.fmtNow)
      ∧ (s.ev.yes = false → exec .fillerCommit s = .next (s.fillerStep a s.ev.ring)
        ∧ exec .mxOpStart s = .next (s.mxStart a) ∧ exec .mxOpEnd s = .next (s.mxTick a true))
      ∧ (s.ev.yes = true → exec .fillerCommit s = .next (s.asPrev a s.ev.launch fun s => s.fillerStep a s.ev.ring)
        ∧ exec .mxOpStart s = .next (s.asPrev a s.ev.launch fun s => s.mxStart a)
        ∧ exec .mxOpEnd s = .next (s.asPrev a s.ev.launch fun s => s.mxTick a true)))
  ∧ (∀ b : Strand, (b.fmtDue = true → b.fmtNow.fmt = b.fmtPend ∧ b.fmtNow.fmtDue = false) ∧ (b.fmtDue = false → b.fmtNow = b))
  ∧ (∀ (s : State) (o : DlOp), ((s.tileAt s.ev.tile).queue.find? fun o => o.id = s.ev.op) = some o → ((s.tileAt s.ev.tile).landable s.tick o = true ∨ (s.tileAt s.ev.tile).landsFirst s.tick o = true) →
      let v := s.onTile s.ev.tile fun t => t.landOp o
      (∀ p, o.late = some p → o.old = none → exec .dataLockedLanding s = .next (v.bringCause s.ev.tile { p with since := s.tick, task := o.task }))
      ∧ ((o.late = none ∨ o.old.isSome = true) → exec .dataLockedLanding s = .next v))
  ∧ (∀ (t : Tile) (now : Nat) (o : DlOp) (r : Res), t.landable now o = true → o.old = none → o.late = none → o.res = some r → o.wx = true →
      let u := t.landOp o
      (∀ x, r.x = some x → ((u.bank o.bank).sock o.sock).x = x ∧ ((u.bank o.bank).sock o.sock).fullX = true)
      ∧ ((u.bank o.bank).sock o.sock).s = (if o.sock = .sy ∨ o.sock = .tk then ((t.bank o.bank).sock o.sock).s else r.s) ∧ (u.bank o.bank).flags = (t.bank o.bank).flags ||| r.flags
      ∧ (u.bank o.bank).g = (t.bank o.bank).g ∧ u.sram = t.sram ∧ u.queue.length = t.queue.length)
  ∧ (∀ s : State, ((s.tileAt s.ev.tile).bank (s.tileAt s.ev.tile).run).idle = 1 → exec .idleEnd s = .next { idleCycle { s with cur := s.ev.tile } with cur := s.cur })
  ∧ (∀ s : State, (s.tileAt s.ev.tile).refetch = true → s.ev.yes = false → ∃ t, exec .parityRefetch s = .next t ∧ (t.tileAt s.ev.tile).refetch = false
      ∧ (t.tileAt s.ev.tile).errs[2] = min ((s.tileAt s.ev.tile).errs[2] + 1) 0xFFFF ∧ (t.tileAt s.ev.tile).banks = (s.tileAt s.ev.tile).banks)
  ∧ (∀ s : State, (s.tileAt s.ev.tile).refetch = true → s.ev.yes = true →
      exec .parityRefetch s = .next { decodeFault .dataUncorrectable none 2 { s.onTile s.ev.tile fun t =>
        { (t.errAdd 2 1 0xFFFF) with refetch := false, ready := max t.ready s.tick } with cur := s.ev.tile } with cur := s.cur })
  ∧ (∀ s : State, let a := s.ev.tile
      let t := s.tileAt a
      t.scrubDue ≤ s.tick → ∃ u, exec .scrubRead s = .next u ∧ (u.tileAt a).scrub = (t.scrub + 1) % 0xC000 ∧ s.tick + 256 ≤ (u.tileAt a).scrubDue
        ∧ (u.tileAt a).sram = t.sram ∧ (t.scrub ∈ t.bad → (u.tileAt a).errs[3] = min (t.errs[3] + 1) 0xFF) ∧ (t.scrub ∉ t.bad → u.mem = s.mem))
  ∧ (∀ s : State, let a := s.ev.tile
      let t := s.tileAt a
      (33 ≤ t.stalled → exec .tileSleep s = .next (s.onTile a fun t => { t with asleep := true }))
      ∧ (t.stalled < 33 → t.tidleSleeps s.tick = true → ∃ u, exec .tileSleep s = .next u ∧ (u.tileAt a).asleep = true ∧ (u.tileAt a).tidleSleeps s.tick = false
        ∧ (u.tileAt a).banks = t.banks ∧ (u.tileAt a).sram = t.sram ∧ (u.tileAt a).ready = t.ready))
  ∧ (∀ s : State, (s.tileAt s.ev.tile).asleep = true → let s' : State := { s with cur := s.ev.tile }
      s'.inGang = false →
      (wouldIssue s' = true → (s.tileAt s.ev.tile).tidleRests = true → exec .tileWake s = .next s)
      ∧ (wouldIssue s' = true → (s.tileAt s.ev.tile).tidleRests = false → exec .tileWake s = .next (s.onTile s.ev.tile fun t => t.wake s.tick))
      ∧ (wouldIssue s' = false → exec .tileWake s = .next { sleepTick s' with cur := s.cur }))
  ∧ (∀ (t : Tile) (now : Nat), t.asleep = true → (t.wake now).asleep = false ∧ (t.wake now).ready = max t.ready now + wakeDelay t.sleepd)
  ∧ (∀ s : State, let t := s.tileAt s.ev.tile
      t.stmr ≠ 0 → t.stmr ≤ s.tick → t.frozen = false → exec .supervisorTimerExpiry s = .next (s.onTile s.ev.tile fun t => t.timerExpiry s.tick))
  ∧ (∀ (t : Tile) (now : Nat), (t.timerExpiry now).stmr = 0 ∧ ((t.bank 0).life ≠ .halted → (t.timerExpiry now).asleep = false ∧ ∃ p, (t.timerExpiry now).pend = t.pend ++ [p]
      ∧ p.cause = .preempt ∧ p.detail = 1 ∧ p.kind = .async ∧ p.bank = (if t.run = 3 then (t.sel[0]).extractLsb' 10 2 else t.run))
      ∧ ((t.bank 0).life = .halted → (t.timerExpiry now).pend = t.pend))
  ∧ (∀ (s : State) (o : DlOp), s.op? s.ev.tile s.ev.op = some o →
      ((o.st = .queued ∨ o.st = .active) → exec .dmCompletion s = .next (s.dmStep s.ev.tile o))
      ∧ (o.st = .performed → o.wx = false → o.sock = .dm → o.due ≤ s.tick → exec .dmCompletion s = .next (s.onTile s.ev.tile fun t => t.dmFinish o))
      ∧ (o.walk = 2 → o.st = .active → exec .translationWalk s = .next (s.coreAnswer s.ev.tile o (o.access ≠ .rd)) ∧ exec .dUpdate s = .next (s.coreAnswer s.ev.tile o true))
      ∧ (∀ u, o.st = .refused u → u ≤ s.tick → exec .accessRetry s = .next ((s.putOp s.ev.tile { o with st := .active, walk := 0 }).tryAccess s.ev.tile
          { o with st := .active, walk := 0 } (if o.sock = .dm then .dmCompletion else .atomicArrival))))
  ∧ (∀ (t : Tile) (o : DlOp) (r : Res) (n : BitVec 6), o.old = none → o.res = some r → o.tag = some n → t.tagStop.getLsbD n.toNat = false →
      (∀ x ∈ t.queue, x.id ≠ o.id → x.namesTag n.toNat = false) →
      let u := t.dmFinish o
      (∀ x ∈ u.queue, x.id ≠ o.id) ∧ (∀ x ∈ t.queue, x.id ≠ o.id → x ∈ u.queue) ∧ ((u.bank o.bank).sock .dm).s = r.s ∧ u.tags.getLsbD n.toNat = true
        ∧ ∀ k, k ≠ n.toNat → u.tags.getLsbD k = t.tags.getLsbD k)
  ∧ (∀ s : State, (∃ r ∈ s.faults, r.id = s.ev.id) →
      s.writes → (∃ t, exec .resolveRewalk s = .next t ∧ (∀ r ∈ t.faults, r.id ≠ s.ev.id)
        ∧ ∀ x ∈ s.waitingOn s.ev.id, x.2 ∈ (s.tileAt x.1).queue →
          (∃ o ∈ (t.tileAt x.1).queue, o.id = x.2.id ∧ o.st = .active ∧ o.walk = 2) ∧ ∃ e ∈ t.agenda, e.2.1 = .translationWalk ∧ e.2.2.tile = x.1 ∧ e.2.2.op = x.2.id)
      ∧ exec .resolveFail s = .next ((s.waitingOn s.ev.id).foldl (fun s x => (s.engineFault x.1 x.2 .translationFault (s.nextVa x.1 x.2) 0).pendNotice x.1 x.2)
          { s with faults := s.faults.filter fun r => r.id ≠ s.ev.id }))
  ∧ (∀ (s : State) (a : Nat) (o : DlOp) (c : Cause) (va d : Nat), let t := s.engineFault a o c va d
      (∀ x ∈ (t.tileAt a).queue, x.id ≠ o.id) ∧ (∀ x ∈ (s.tileAt a).queue, x.id ≠ o.id → x ∈ (t.tileAt a).queue) ∧ (t.tileAt a).tags = (s.tileAt a).tags)
  ∧ (∀ (s : State) (w : Who) (va at_ pte : Nat) (big : Bool), let e := entryOf w.asid va pte big
      cellsWf s.mem = true → s.walk w.asid va = .leaf at_ pte big → permCheck w e (e.pa va) = none → bits pte 9 9 = 0 →
        ∃ t, s.coreFill w va true = .filled t ∧ t.dwordAt at_ = (pte ||| 24) % 2 ^ 64 ∧ ∀ a, (a < at_ ∨ at_ + 8 ≤ a) → t.byteAt a = s.byteAt a)
  ∧ (∀ s : State, s.writes → (∀ r ∈ s.faults, r.id ≠ s.ev.id) → exec .resolveRewalk s = .next s ∧ exec .resolveFail s = .next s)
  ∧ (∀ s : State, let v := s.ev.val.toNat
      s.writes → (v < s.tr.fqTail ∨ s.tr.fqHead < v → exec .fqtailWrite s = .next s)
        ∧ (s.tr.fqTail ≤ v → v ≤ s.tr.fqHead →
          exec .fqtailWrite s = .next ((s.faults.filter fun r => !r.written).foldl State.writeFault { s with tr := { s.tr with fqTail := v } }))
        ∧ (s.tr.fqTail ≤ v → v ≤ s.tr.fqHead → (∀ r ∈ s.faults, r.written = true) → exec .fqtailWrite s = .next { s with tr := { s.tr with fqTail := v } }))
  ∧ (∀ s : State, exec .migrate s = .next (s.migBegin 1 .migrate) ∧ exec .replicate s = .next (s.migBegin 2 .replicate) ∧ exec .collapse s = .next (s.migBegin 3 .collapse))
  ∧ (∀ (s : State) (m : MigSlot) (op : Nat), (bits m.page.toNat 47 39 ≠ 0 → ∃ st, s.migCheck m op = .ends st ∧ st = 5)
      ∧ (bits m.page.toNat 47 39 = 0 → ∀ u, s.walk (BitVec.ofNat 16 (m.page.toNat / 2 ^ 48)) (bits m.page.toNat 38 0 * 2 ^ 16) = .busy u → ∃ v, s.migCheck m op = .busy v ∧ v = u))
  ∧ (∀ (s : State) (m : MigReq), (s.migs.find? fun m => m.who = s.ev.who) = some m →
      exec .migrationStep s = .next (match m.step with
        | 1 => s.migLock m | 2 => s.migFence m (if m.op = 3 then 4 else if m.op = 2 then 7 else 3) | 3 => s.migCopy m
        | 4 => s.migMove m | 5 => s.migFence m 6 | 6 => s.migUnlock m | 7 => s.migReplicas m | _ => s.migRep m))
  ∧ (∀ (s : State) (m : MigReq), (∀ w, regionOf (m.oldFrame * 2 ^ 16) ≠ .peer w) → s.migCopy m = (s.copyFrame m.oldFrame m.newFrame (pageBytes m.big)).migNext m 4)
  ∧ (∀ (s : State) (m : MigReq) (w p : Nat), regionOf (m.oldFrame * 2 ^ 16) = .peer w → s.peerOf w = some p → s.peerUp p = true → m.asked = false →
      s.migCopy m = (s.putMig { m with asked := true }).eutasSend p (.request (m.oldFrame * 2 ^ 16 % 2 ^ 41) (.read (pageBytes m.big))) (some (.copy m.who)))
  ∧ (∀ (s : State) (old new n a : Nat), cellsWf s.mem = true → (old * 2 ^ 16 + n ≤ new * 2 ^ 16 ∨ new * 2 ^ 16 + n ≤ old * 2 ^ 16) →
      (a < n → (s.copyFrame old new n).byteAt (new * 2 ^ 16 + a) = s.byteAt (old * 2 ^ 16 + a))
      ∧ ((a < new * 2 ^ 16 ∨ new * 2 ^ 16 + n ≤ a) → (s.copyFrame old new n).byteAt a = s.byteAt a))

/-! ## Events: units, exchange, bells -/

/-- R265, R274, R289 to R291, R313, R314, R348, R350, R352, R354, R389, R390. COMPLETES: atomicArrival, gateTimeout, watchRecheck, eutasPacketReceive, eutasRetransmit, peerLoss, peerReachableAgain, tagWaitComplete. UNITS AND PEERS. A `sy` operation leaves for its unit when the bundles before it let it, and a free unit takes the first request at its input; a gate whose oldest request has waited longer than the timeout diverges every held request; a watched request is checked again; a packet of a peer is acknowledged and delivered once, and an acknowledgement empties the retry store; after the last try, and at a loss, the peer is unreachable until it is reachable again; links go down and come up; a tag wait completes when its tags are there. What a packet between modules carries (log 85) and what makes a link fail (log 88) are the model's choices. -/
def Obligations.UnitEvents : Prop :=
  (∀ (s : State) (o : DlOp), s.ev.yes = true → s.op? s.ev.tile s.ev.op = some o → (o.st = .queued ∨ o.st = .active) →
      ((s.tileAt s.ev.tile).syReady s.tick o = true → exec .atomicArrival s = .next (s.tryAccess s.ev.tile o .atomicArrival))
      ∧ ((s.tileAt s.ev.tile).syReady s.tick o = false →
          exec .atomicArrival s = .next (s.sched 1 none .atomicArrival { tile := s.ev.tile, op := o.id, yes := true })))
  ∧ (∀ s : State, s.ev.yes = false → exec .atomicArrival s = .next (s.unitTake s.ev.die))
  ∧ (∀ s : State, s.tick < (s.unit s.ev.die).free → s.unitTake s.ev.die = s)
  ∧ (∀ (s : State) (r : UnitReq) (a id rank : Nat) (o : DlOp), let d := s.ev.die
      let u := s.unit d
      let taken := s.onUnit d fun u => { u with inq := u.inq.filter fun q => !(q == r) }
      let e : TlbEntry := { asid := o.asid, page := 0, big := false, frame := r.pa / 2 ^ 16, kind := kindOf r.pa,
                            home := d, g := false, u := true, r := true, w := true, d := true, rep := false, mig := false }
      let w : Who := { tile := a, user := false, asid := o.asid, acc := .atom }
      let op := syncCode o.bit59 o.kind
      let v := busBits o.b 63 0
      s.ev.yes = false → u.free ≤ s.tick → u.nextReq s.tick = some r → r.src = .tile a id rank → taken.op? a id = some o → o.sock = .sy →
      (∀ p, regionOf r.pa ≠ .peer p) →
        ((taken.overtakes a o r.pa = true ∨ (taken.tileAt a).digestFull o = true) → exec .atomicArrival s = .next ((taken.putOp a { o with st := .active, walk := 0 }).sched 1 none
          .atomicArrival { tile := a, op := o.id, yes := true }))
        ∧ (taken.overtakes a o r.pa = false → (taken.tileAt a).digestFull o = false → ∀ h, taken.homeCheck w e r.pa (taken.syncBytes r.pa op v) (op != 4) = .refuse h →
          exec .atomicArrival s = .next (taken.refuse a o h .accessRetry))
        ∧ (taken.overtakes a o r.pa = false → (taken.tileAt a).digestFull o = false → taken.homeCheck w e r.pa (taken.syncBytes r.pa op v) (op != 4) = .ok →
        (taken.watchFull d r.pa op v = true → exec .atomicArrival s = .next (taken.refuse a o 256 .accessRetry))
        ∧ (taken.watchFull d r.pa op v = false → u.gated r ≠ .diverge → exec .atomicArrival s = .next ((taken.takeLog d r).unitTile d a o r))))
  ∧ (∀ (s : State) (r : UnitReq) (m n : Nat), let d := s.ev.die
      s.ev.yes = false → (s.unit d).free ≤ s.tick → (s.unit d).nextReq s.tick = some r → r.src = .peer m n →
        exec .atomicArrival s = .next ((s.onUnit d fun u => { u with inq := u.inq.filter fun q => !(q == r) }).unitPeer d m n r))
  ∧ (∀ (s : State) (g : UnitLog), let d := s.ev.die
      let u := s.unit d
      (u.logs.find? fun g => g.launch = s.ev.launch ∧ g.active ∧ g.gate ∧ !g.div) = some g →
      let held := u.inq.filter fun r => r.launch = some g.launch ∧ r.arrive ≤ s.tick ∧ u.gated r = .hold
      ((∃ r ∈ held, r.arrive + g.timeout < s.tick) → exec .gateTimeout s = .next (held.foldl (fun s r => s.diverge d r)
          (s.onUnit d fun u => { u with inq := u.inq.filter fun r => !held.contains r })))
      ∧ ((∀ r ∈ held, s.tick ≤ r.arrive + g.timeout) → exec .gateTimeout s = .next s))
  ∧ (∀ (s : State) (e : Nat × Nat × UnitReq), ((s.unit s.ev.die).watch.find? fun e => e.1 = s.ev.entry) = some e →
      let u := s.watchCheck s.ev.die e
      ((∃ x ∈ (u.unit s.ev.die).watch, x.1 = e.1) → exec .watchRecheck s = .next (u.sched 1 (some 1699) .watchRecheck { die := s.ev.die, entry := e.1 }))
      ∧ ((∀ x ∈ (u.unit s.ev.die).watch, x.1 ≠ e.1) → exec .watchRecheck s = .next u))
  ∧ (∀ s : State, let m := s.ev.src
      let n := s.ev.seq
      let counted := s.replayed s.ev.channel s.ev.words
      let acked : State := { counted with outbox := s.outbox ++ [.eutasAck m n] }
      let noted : State := { acked with eutas := { counted.eutas with seen := s.eutas.seen ++ [(m, n)] } }
      (s.ev.body = .ack → ∃ t, exec .eutasPacketReceive s = .next t ∧ (∀ e ∈ t.eutas.out, ¬(e.dst = m ∧ e.seq = n))
        ∧ ∀ e ∈ s.eutas.out, ¬(e.dst = m ∧ e.seq = n) → e ∈ t.eutas.out)
      ∧ (s.ev.body ≠ .ack → (m, n) ∈ s.eutas.seen → exec .eutasPacketReceive s = .next acked)
      ∧ ((m, n) ∉ s.eutas.seen →
          (∀ asid rank zone off level sender data, s.ev.body = .push asid rank zone off level sender data →
            exec .eutasPacketReceive s = .next (noted.peerPacket asid rank
              { id := s.nextPacket, launch := 0, src := none, dst := noTile, zone := zone, off := off, level := level, rank := sender,
                data := data, peer := some (m, n) }))
          ∧ (∀ pa req, s.ev.body = .request pa req → exec .eutasPacketReceive s = .next (noted.peerRequest m n pa req))
          ∧ (∀ seq old fault detail ph a id, s.ev.body = .answer seq old fault detail ph → s.ask? m seq = some { dst := m, seq := seq, what := .op a id } →
              exec .eutasPacketReceive s = .next (State.peerAnswer
                { noted with eutas := { noted.eutas with asked := s.eutas.asked.filter fun x => x ≠ { dst := m, seq := seq, what := .op a id } } }
                a id old fault detail ph))
          ∧ (∀ seq hint, s.ev.body = .refused seq hint → s.ask? m seq = none → exec .eutasPacketReceive s = .next noted)
          ∧ (∀ seq hint a id o, s.ev.body = .refused seq hint → s.ask? m seq = some { dst := m, seq := seq, what := .op a id } → s.op? a id = some o →
              exec .eutasPacketReceive s = .next (State.refuse
                { noted with eutas := { noted.eutas with asked := s.eutas.asked.filter fun x => x ≠ { dst := m, seq := seq, what := .op a id } } }
                a o hint .accessRetry))))
  ∧ (∀ (s : State) (m n pa k : Nat),
      (inHbm pa = false → s.peerRequest m n pa (.read k) = s.eutasSend m (.answer n 0 Cause.peerUnreachable.code s.eutas.modnum false) none)
      ∧ (∀ h, inHbm pa = true → s.reqCheck (pa / 2 ^ 36) pa (.read k) = .refuse h → s.peerRequest m n pa (.read k) = s.countRef.eutasSend m (.refused n h) none)
      ∧ (inHbm pa = true → s.reqCheck (pa / 2 ^ 36) pa (.read k) = .ok → s.peerRequest m n pa (.read k) = s.eutasSend m (.answer n (leNat (s.gRead pa k)) 0 0 false) none))
  ∧ (∀ (s : State) (e : EutasOut), (s.eutas.out.find? fun e => e.dst = s.ev.dst ∧ e.seq = s.ev.seq) = some e →
      (s.tick < e.sent + s.eutas.timeout → exec .eutasRetransmit s = .next s)
      ∧ (e.sent + s.eutas.timeout ≤ s.tick → s.eutas.tries ≤ e.tries → exec .eutasRetransmit s = .next (s.peerLoss e.dst))
      ∧ (e.sent + s.eutas.timeout ≤ s.tick → e.tries < s.eutas.tries → ∃ t, exec .eutasRetransmit s = .next t
          ∧ { e with tries := e.tries + 1, sent := s.tick } ∈ t.eutas.out
          ∧ t.agenda = s.agenda ++ [(s.tick + s.eutas.timeout, .eutasRetransmit, { dst := e.dst, seq := e.seq })]))
  ∧ (∀ s : State, s.ev.off = 0 → exec .peerLoss s = .next (s.peerLoss s.ev.peer) ∧ s.ev.peer ∈ (s.peerLoss s.ev.peer).eutas.lost)
  ∧ (∀ s : State, s.ev.off = 0 → ∃ t, exec .peerReachableAgain s = .next t ∧ t.eutas = { s.eutas with lost := s.eutas.lost.filter (· ≠ s.ev.peer) }
      ∧ t = State.dropPeer { s with eutas := { s.eutas with lost := s.eutas.lost.filter (· ≠ s.ev.peer) } } s.ev.peer ∧ t.mem = s.mem)
  ∧ (∀ s : State, s.ev.off ≠ 0 → exec .peerLoss s = .next (s.linksChanged (s.setLinks s.ev.off false))
      ∧ exec .peerReachableAgain s = .next (s.linksChanged (s.setLinks s.ev.off true)))
  ∧ (∀ (s : State) (mask k : Nat) (up : Bool) (e : Nat × Nat × Bool × Bool), s.eutas.links[k]? = some e →
      (s.setLinks mask up).eutas.links[k]? = some (if bits mask k k = 1 ∧ (Config.linkPeer k).isSome = true then (e.1, e.2.1, !up, up) else e)
      ∧ ∀ n, (s.replayed k n).eutas.links[k]? = some (e.1, min 0xFFFF (e.2.1 + n), e.2.2.1, e.2.2.2))
  ∧ (∀ (s : State) (o : DlOp), s.op? s.ev.tile s.ev.op = some o → (s.tileAt s.ev.tile).waitHolds o = true →
      exec .tagWaitComplete s = .next (s.onTile s.ev.tile fun t => t.waitDone s.tick o))
  ∧ (∀ (t : Tile) (o : DlOp) (now : Nat) (m : MMod), let mask : Dword := o.a.setWidth 64
      let done := fun (u : Tile) (x : Dword) => ∀ p ∈ u.queue, p.id = o.id → p.st = .performed ∧ p.due = now + 1 ∧ ∃ r, p.res = some r ∧ r.x = some (x.setWidth 512)
      (o.kind = .wany m → done (t.waitDone now o) (mask &&& t.tags) ∧ (t.waitDone now o).tags = t.tags)
      ∧ (o.kind = .wall m → done (t.waitDone now o) mask ∧ (t.waitDone now o).tags = t.tags)
      ∧ (o.kind = .wffr m → mask &&& t.tags ≠ 0 → ∃ k : Nat, k < 64 ∧ (mask &&& t.tags).getLsbD k = true ∧ (∀ j < k, (mask &&& t.tags).getLsbD j = false)
          ∧ done (t.waitDone now o) (BitVec.ofNat 64 k) ∧ ∀ j : Nat, (t.waitDone now o).tags.getLsbD j = (t.tags.getLsbD j && j != k)))

/-- R299 to R306, R313, R320, R324 to R327, R332, R343, R345, R347. COMPLETES: windowStart, windowEnd, packetArrival, packetRetry, kilnChildArrival, bellRing, bellRelease. THE EXCHANGE. A window starts at W with the armed timetable, or its bell completes; it ends at W + Λ with its fault, if any; a routed packet arrives at its zone, or is sent again; a value at a kiln is combined with its sibling, held, refused, or aborts its collective; a bell rings when the stores before it are performed, and is released with one W for every member when all of the domain have rung, at levels 0 to 3 within the bound of R345. A beat leaves on its tick with the bytes at its send's address and reaches its ingress when its route says; a first beat that no entry expects, a missing one, and a later beat of no open transfer are exchange faults. The period boundary of a launch of class 1 (log 66), a collective whose values never meet (log 88), an uncorrectable word that a sum reads (log 97) and beats where no window runs (log 98) are the model's choices. -/
def Obligations.ExchangeEvents : Prop :=
  (∀ (s : State) (o : DlOp), let t := s.tileAt s.ev.tile
      (t.queue.find? fun o => o.bellLevel.isSome && o.st == .waiting && decide (o.val ≤ s.tick)) = some o →
      (∀ lev n tt, o.kind = .bell lev → t.armed = some n → (t.timetables.find? fun x => x.num = n) = some tt →
        ∃ u, exec .windowStart s = .next u ∧ (u.tileAt s.ev.tile).window = some { w := s.tick, len := tt.window, tt := tt.num }
          ∧ let off := fun k : KPart => if s.windowOn s.ev.tile k then { k with until_ := none } else k
            u.kiln = s.kiln.map off ∧ u.kilnAir = s.kilnAir.map off)
      ∧ ((∀ lev, o.kind ≠ .bell lev) ∨ t.armed = none → exec .windowStart s = .next (State.periodEnd (s.putOp s.ev.tile
          { o with st := .performed, due := s.tick, res := some { s := syStatus o false false false true } }) s.ev.tile o)))
  ∧ (∀ (s : State) (a : Nat) (o : DlOp), let t := s.tileAt a
      (t.prePeriod = false ∨ (∃ lev, o.bellLevel = some lev ∧ lev.toNat < 3) → s.periodEnd a o = s)
      ∧ ((∃ u ∈ s.tiles, u.launch = t.launch ∧ u.prePeriod = false ∧ u.preReq = false) → s.periodEnd a o = s)
      ∧ (∀ lev, o.bellLevel = some lev → 3 ≤ lev.toNat → t.prePeriod = true → (∀ u ∈ s.tiles, u.launch = t.launch → u.prePeriod = true ∨ u.preReq = true) →
          (s.periodEnd a o).tileAt a = { t with preReq := true, prePeriod := false }
          ∧ ∀ b, b ≠ a → let u := s.tileAt b
              (s.periodEnd a o).tileAt b = if u.launch = t.launch ∧ u.prePeriod = true ∧ u.haltedAll = true then { u with preReq := true, prePeriod := false } else u))
  ∧ (∀ (s : State) (x : Window), (s.tileAt s.ev.tile).window = some x →
      (s.tick < x.w + x.len → exec .windowEnd s = .next s)
      ∧ (x.w + x.len ≤ s.tick → x.ran = true → x.fault = none → x.bad = false →
          ((s.tileAt s.ev.tile).queue.find? fun o => o.bellLevel.isSome && o.st == .active) = none →
          exec .windowEnd s = .next (s.onTile s.ev.tile fun t => { t with window := none }))
      ∧ (∀ o, x.w + x.len ≤ s.tick → x.ran = true →
          ((s.tileAt s.ev.tile).queue.find? fun o => o.bellLevel.isSome && o.st == .active) = some o →
          let z := State.periodEnd (s.onTile s.ev.tile fun t =>
            { t.putOp { o with st := .performed, due := s.tick, res := some { s := syStatus o false false false true } } with window := none }) s.ev.tile o
          (x.fault = none → x.bad = false → exec .windowEnd s = .next z)
          ∧ (∀ τ, x.fault = some τ → x.bad = false →
            exec .windowEnd s = .next ((z.countExch s.ev.tile).lateCause s.ev.tile (o.pending .exchangeFault 0 (τ % 65536 + x.tt * 65536) s.tick)))
          ∧ (x.fault = none → x.bad = true → exec .windowEnd s = .next (z.lateCause s.ev.tile (o.pending .dataUncorrectable 0 6 s.tick)))
          ∧ (∀ τ, x.fault = some τ → x.bad = true →
            exec .windowEnd s = .next ((z.countExch s.ev.tile).lateCause s.ev.tile (o.pending .dataUncorrectable 0 6 s.tick))))
      ∧ (∀ y, let u := s.exchange x.w (dieOf s.ev.tile)
          x.w + x.len ≤ s.tick → x.ran = false → (u.tileAt s.ev.tile).window = some y → y.ran = true → y.w = x.w → y.len = x.len →
            exec .windowEnd s = exec .windowEnd u))
  ∧ (∀ (t : Tile) (tt : Timetable) (e : Send) (j : Nat), e ∈ tt.sends → j < (e.len + 63) / 64 → ∃ b ∈ t.egressAt tt (e.off + j),
      b.at_ = e.off + j + 6 + 2 * (e.dc.natAbs + e.dr.natAbs) ∧ b.dst = sendDst t.addr e ∧ (b.first = true ↔ j = 0) ∧ (b.last = true ↔ j + 1 = (e.len + 63) / 64)
      ∧ b.data.map (·.1) = (List.range (min 64 (e.len - 64 * j))).map fun k => cellsRead t.sram (e.addr + 64 * j + k))
  ∧ (∀ (tt : Timetable) (τ : Nat) (b : Beat) (g : Ingress) (t : Tile), t.beatUpset = [] →
      let put := fun d : Nat => t.engineWrite ((b.data.zipIdx.filter fun x => x.1.2).map fun x => (d + x.2, x.1.1))
      let r := ingressBeat tt τ b g t
      (b.first = true → ∀ e, (tt.arrives.find? fun e => e.off = τ + 2) = some e →
        r.2 = put e.addr ∧ r.1.next = (if b.last = true then none else some (e.addr + 64)) ∧ r.1.fault = g.fault)
      ∧ (b.first = true → (∀ e ∈ tt.arrives, e.off ≠ τ + 2) → r.2 = t ∧ r.1.next = none ∧ r.1.fault = some (min (g.fault.getD τ) τ))
      ∧ (b.first = false → ∀ d, g.next = some d → r.2 = put d ∧ r.1.next = (if b.last = true then none else some (d + 64)) ∧ r.1.fault = g.fault)
      ∧ (b.first = false → g.next = none → r.2 = t ∧ r.1.fault = some (min (g.fault.getD τ) τ))
      ∧ (r.2 ≠ t → r.1.bad = (g.bad || b.data.any fun x => !x.2)))
  ∧ (∀ (s : State) (p : Packet), (s.packets.find? fun p => p.id = s.ev.packet) = some p → exec .packetArrival s = .next (s.asPrev p.dst p.launch (State.packetLands p)))
  ∧ (∀ (s : State) (p : Packet), let t := s.tileAt p.dst
      s.absentHint p.launch t = none → t.launch = some p.launch → t.frozen = false → (t.zone p.zone).isOpen = true →
      (∀ u read, t.landPacket p.zone p.level p.rank p.off p.data = .accepted u read → t.soft = [] → t.badWords read = false → ∃ r, State.packetLands p s = r ∧ r.tileAt u.addr = u ∧ (∀ x ∈ r.packets, x.id ≠ p.id)
          ∧ r.cnt.xbytes = s.cnt.xbytes + BitVec.ofNat 64 p.data.length)
      ∧ (∀ h, t.landPacket p.zone p.level p.rank p.off p.data = .refused h → State.packetLands p s = s.packetRefused p h))
  ∧ (∀ (s : State) (p : Packet) (h : Nat), s.absentHint p.launch (s.tileAt p.dst) = some h → State.packetLands p s = s.packetRefused p h)
  ∧ (∀ (s : State) (o : DlOp), s.ev.yes = true → s.op? s.ev.tile s.ev.op = some o → (s.tileAt s.ev.tile).preHalted = true →
      exec .packetRetry s = .next (s.sched 1 none .packetRetry s.ev))
  ∧ (∀ (s : State) (o : DlOp), s.ev.yes = true → s.op? s.ev.tile s.ev.op = some o → (s.tileAt s.ev.tile).preHalted = false → o.old = none →
      (∀ b, o.kind = .push b → (o.st = .queued ∨ o.st = .active) → exec .packetRetry s = .next (s.pushStep s.ev.tile o))
      ∧ ((o.kind = .msg ∨ o.kind = .mig) → o.st = .queued → exec .packetRetry s = .next (s.msgStep s.ev.tile o)))
  ∧ (∀ (s : State) (p : Packet), s.ev.yes = false → s.ev.off ≠ 1 → (s.packets.find? fun p => p.id = s.ev.packet) = some p → s.heldBack p.launch p.src = false →
      (∀ m, p.away = some m → s.peerUp m = true → exec .packetRetry s = .next (s.awaySend p m))
      ∧ (p.away = none → exec .packetRetry s = .next (s.sched 1 none (if p.ctx then .contextArrival else if p.task.isSome then .messageAccept else .packetArrival) { packet := p.id, tile := p.dst })))
  ∧ (∀ (s : State) (k : KPart), (s.kilnAir.find? fun k => k.child = s.ev.child) = some k →
      let sibling := s.kiln.find? fun x => x.sameKey k && x.depth == k.depth && x.idx / 2 == k.idx / 2
      let gone := s.kilnAir.filter fun x => x.child ≠ k.child
      k.soft = false →
      (∀ x, sibling = some x → x.par ≠ k.par → exec .kilnChildArrival s = .next (s.abort k .exchangeFault 0 none))
      ∧ (∀ x, sibling = some x → x.par = k.par → (x.bad = true ∨ k.bad = true) → exec .kilnChildArrival s = .next ((s.kilnBad k).abort k .dataUncorrectable 9 none))
      ∧ (∀ x, sibling = some x → x.par = k.par → x.bad = false → k.bad = false →
          exec .kilnChildArrival s = .next (State.kilnGo { s with kiln := s.kiln.filter fun y => y.child ≠ x.child, kilnAir := gone }
            { k with depth := k.depth + 1, idx := k.idx / 2, val := if x.idx < k.idx then combine k.par x.val k.val else combine k.par k.val x.val, src := none }))
      ∧ (sibling = none → let size := if (s.kilnOf k).1 = true then 0x40000 else 0x8000
          (size < s.kilnBytes (s.kilnOf k) + k.par.resultBytes → exec .kilnChildArrival s = .next (s.childRefused k))
          ∧ (s.kilnBytes (s.kilnOf k) + k.par.resultBytes ≤ size → let held : State := { s with kilnAir := gone, kiln := s.kiln ++ [k] }
              (held.kilnStuck k = false → exec .kilnChildArrival s = .next held)
              ∧ (held.kilnStuck k = true → exec .kilnChildArrival s = .next (held.abort k .exchangeFault 0 none)))))
  ∧ (∀ (s : State) (o : DlOp), s.op? s.ev.tile s.ev.op = some o → (s.tileAt s.ev.tile).ringable s.tick o = true →
      exec .bellRing s = .next (State.noteRing (s.putOp s.ev.tile { o with rung := true }) (s.tileAt s.ev.tile)))
  ∧ (∀ (s : State) (o : DlOp) (lev : BitVec 3), let t := s.tileAt s.ev.tile
      t.op? s.ev.op = some o → o.bellLevel = some lev →
      (s.allRung t lev = false → exec .bellRelease s = .next s)
      ∧ (o.rung = true → o.st = .queued → s.allRung t lev = true → (∀ u ∈ s.domain t lev, u.preReq = false ∧ u.prePeriod = false) → s.capped = [] →
          ∃ (w : Nat) (z : State), exec .bellRelease s = .next z ∧ s.tick < w
            ∧ (lev.toNat ≤ 3 → w ≤ s.tick + (if ∀ u ∈ s.domain t lev, dieOf u.addr = dieOf t.addr then 64 else 600))
            ∧ z = { (s.domain t lev).foldl (fun s u => match u.rungAt lev with | some p => s.putOp u.addr { p with st := .waiting, val := w } | none => s) s with free := s.free + 2 }))

/-! ## Events: tasks, pre-emption -/

/-- R396 to R409, R434 to R437. COMPLETES: taskSwitchOut, timerUnit, messageAccept, contextArrival, clusterLoadWrite, spawnCreateEnd, taskSaveEnd, taskLoadEnd, completionNotice, preemptHalt, preemptSave, restore. TASKS AND PRE-EMPTION. A task leaves its bank when a cause of its is raised; a timer unit ages tasks, counts the quantum and ends sleeps; a message or a context enters its block or is refused; a create, a save and a load take 8 ticks, and a save keeps a context that a load gives back; a tile halts for pre-emption, is saved by its leaf and written back. When a task leaves and what becomes of wakes and causes between the steps of its switch (log 45) and what a halted task kernel keeps (log 76) are the model's choices. R394, Table 17.2. A SAVED CONTEXT GIVES THE STRAND BACK: its registers, its program counter, its guard registers with bit 0 as 0, its format and its sticky flags; the image is 272 bytes. -/
def Obligations.TaskEvents : Prop :=
  (∀ s : State, exec .taskSwitchOut s = .next (s.onTile s.ev.tile fun t => if t.mustLeave s.tick then t.leaveTask s.tick else t))
  ∧ (∀ (t : Tile) (now u : Nat) (c : Upcall) (cs : List Upcall), t.tasks.current = some u → t.tasks.raisedCauses = c :: cs →
      (∀ o ∈ t.queue, o.kind = .tidle → o.st ≠ .waiting) → let v := t.leaveTask now
      v.run = 0 ∧ v.tasks.current = none ∧ v.asleep = false
      ∧ v.ready = max t.ready (max ((t.bank t.run).lastIssue + 4) (now + 1) + if t.asleep = true then wakeDelay t.sleepd else 0)
      ∧ v.tasks.pend = t.tasks.pend ++ cs.map (fun c => (c, u)) ∧ v.tasks.raisedCauses = []
      ∧ (∀ o, (t.queue.find? fun o => o.kind == .resume && o.st == .waiting) = some o → ∀ p ∈ v.queue, p.id = o.id →
          p.st = .performed ∧ p.due = now ∧ ∃ r, p.res = some r ∧ r.x = some (BitVec.ofNat 512 (upcallWord c u !v.tasks.pend.isEmpty)))
      ∧ (c = .halt → (v.tasks.block u).state = .free)
      ∧ (t.accessPending u = false → (t.tasks.block u).recorded = [] → (c = .yield ∨ c = .timer ∨ c = .preempt ∨ c = .kmsg) → (v.tasks.block u).state = .ready)
      ∧ (t.accessPending u = false → (t.tasks.block u).recorded = [] → c = .sleep → (v.tasks.block u).state = .sleep)
      ∧ (t.accessPending u = true → (t.tasks.block u).recorded = [] → c ≠ .halt → c ≠ .none → c ≠ .ready → (v.tasks.block u).state = .parked))
  ∧ (∀ s : State, let a := s.ev.tile
      let t := s.tileAt a
      s.tick % 64 = 0 → t.tasks.unitTick < s.tick → t.tasked = true → (t.bank 0).life ≠ .halted →
        ∃ u, exec .timerUnit s = .next u ∧ (u.tileAt a).tasks.unitTick = s.tick
          ∧ (t.tasks.current.isSome = true → t.run ≠ 3 → (u.tileAt a).tasks.runCount = t.tasks.runCount + 1
              ∧ (t.tasks.quantum ≠ 0 → t.tasks.runCount + 1 = t.tasks.quantum → (u.tileAt a).tasks.raisedTimer = true))
          ∧ (∀ i, i < 32 → (t.tasks.block i).state = .ready → (t.tasks.block i).eprio ≠ 3 → let b := (u.tileAt a).tasks.block i
              b.state = .ready ∧ ((t.tasks.block i).age + 1 < 4096 → b.age = (t.tasks.block i).age + 1 ∧ b.eprio = (t.tasks.block i).eprio)
              ∧ (4096 ≤ (t.tasks.block i).age + 1 → b.age = 0 ∧ b.eprio = (t.tasks.block i).eprio + 1))
          ∧ (∀ i n, i < 32 → (t.tasks.block i).state = .sleep → (t.tasks.block i).deadline = some n → let b := (u.tileAt a).tasks.block i
              (1 < n → b.state = .sleep ∧ b.deadline = some (n - 1)) ∧ (n ≤ 1 → b.state = .ready ∧ b.deadline = none))
          ∧ (∀ i, i < 32 → (t.tasks.block i).state = .sleep → (t.tasks.block i).deadline = none → ((u.tileAt a).tasks.block i).state = .sleep)
          ∧ (u.tileAt a).banks = t.banks ∧ (u.tileAt a).sram = t.sram)
  ∧ (∀ (s : State) (p : Packet), (s.packets.find? fun p => p.id = s.ev.packet) = some p → let t := s.tileAt p.dst
      let i := p.task.getD 0
      (∀ h, s.absentHint p.launch t = some h → exec .messageAccept s = .next (s.packetRefused p h) ∧ exec .contextArrival s = .next (s.packetRefused p h))
      ∧ (s.absentHint p.launch t = none →
      (t.launch ≠ some p.launch → exec .messageAccept s = .next { s.msgAccepted p with cnt := { s.cnt with disc := s.cnt.disc + 1 } }
        ∧ exec .contextArrival s = .next { s.msgAccepted p with cnt := { s.cnt with disc := s.cnt.disc + 1 } })
      ∧ (t.launch = some p.launch → t.frozen = true → exec .messageAccept s = .next (s.packetRefused p 4096) ∧ exec .contextArrival s = .next (s.packetRefused p 4096))
      ∧ (t.launch = some p.launch → t.frozen = false → t.haltedAll = false → i < 32 → (i = 0 ∨ ((t.tasks.block i).state ≠ .free ∧ (t.tasks.block i).state ≠ .inbound)) →
          (4 ≤ (t.tasks.block i).mail.length → exec .messageAccept s = .next (s.packetRefused p 256))
          ∧ ((t.tasks.block i).mail.length < 4 → ∃ u, exec .messageAccept s = .next u ∧ ((u.tileAt p.dst).tasks.block i).mail
              = (t.tasks.block i).mail ++ [(BitVec.ofNat 64 (leNat (p.data.take 8)), BitVec.ofNat 64 (leNat (p.data.drop 8)))]))
      ∧ (t.launch = some p.launch → t.frozen = false → (∀ i, i < 32 → (t.tasks.block i).state ≠ .inbound) → t.haltedAll = false →
          exec .contextArrival s = .next (s.packetRefused p 1024))
      ∧ (∀ i, t.launch = some p.launch → t.frozen = false → i < 32 → (t.tasks.block i).state = .inbound → (∀ j < i, (t.tasks.block j).state ≠ .inbound) →
          ∃ u, exec .contextArrival s = .next u ∧ ((u.tileAt p.dst).tasks.block i).state = .ready ∧ ((u.tileAt p.dst).tasks.block i).loc = 0
            ∧ ((u.tileAt p.dst).tasks.block i).bprio = BitVec.ofNat 2 (leNat ((p.data.drop 0x104).take 1)))))
  ∧ (∀ s : State, s.ev.yes = true → exec .clusterLoadWrite s = .next (s.writeLoad s.ev.launch s.ev.cluster))
  ∧ (∀ s : State, s.ev.yes = false → s.tick % 1700 = 0 → exec .clusterLoadWrite s = .next
      ((((s.tiles.filter fun t => clusterOf t.addr = s.ev.cluster ∧ t.tasked).filterMap fun t => t.launch).eraseDups).foldl (fun s l => s.writeLoad l s.ev.cluster) s))
  ∧ (∀ (s : State) (id e : Nat) (o : DlOp), let t := s.tileAt s.ev.tile
      t.tasks.work = some (.create id e) → e ≤ s.tick → t.op? id = some o → ∃ u, exec .spawnCreateEnd s = .next u
        ∧ (u.tileAt s.ev.tile).tasks.work = none ∧ ((u.tileAt s.ev.tile).tasks.block (busBits o.c 4 0)).state = .ready
        ∧ ((u.tileAt s.ev.tile).tasks.block (busBits o.c 4 0)).area = busBits o.c 50 32 ∧ ((u.tileAt s.ev.tile).tasks.block (busBits o.c 4 0)).mail = (t.tasks.block (busBits o.c 4 0)).mail)
  ∧ (∀ (s : State) (op u k e : Nat), let t := s.tileAt s.ev.tile
      t.tasks.work = some (.save op u k e) → e ≤ s.tick → (t.tasks.block u).kept = .parked → (t.tasks.block u).recorded = [] →
        ∃ z, exec .taskSaveEnd s = .next z ∧ (z.tileAt s.ev.tile).sram
          = (t.engineWrite ((areaSpan (t.tasks.block u).area).zip (contextBytes (t.bank (BitVec.ofNat 2 k)) (t.tasks.block u).bprio u))).sram
        ∧ (z.tileAt s.ev.tile).bank (BitVec.ofNat 2 k) = {} ∧ ((z.tileAt s.ev.tile).tasks.block u).loc = 0
        ∧ (t.op? op = none → (z.tileAt s.ev.tile).tasks.work = none ∧ ((z.tileAt s.ev.tile).tasks.block u).state = .parked)
        ∧ (∀ o, t.op? op = some o → let id := busBits o.a 31 0
            (z.tileAt s.ev.tile).tasks.work = some (.load op id (BitVec.ofNat 2 k).toNat (s.tick + 8)) ∧ ((z.tileAt s.ev.tile).tasks.block id).state = .loading
            ∧ (id % 32 ≠ u % 32 → ((z.tileAt s.ev.tile).tasks.block u).state = .parked)))
  ∧ (∀ (s : State) (op i k e : Nat), let t := s.tileAt s.ev.tile
      let r := s.sramRead s.ev.tile (areaSpan (t.tasks.block i).area)
      t.tasks.work = some (.load op i k e) → e ≤ s.tick → (t.run = 3 → exec .taskLoadEnd s = .next s) ∧ (t.run ≠ 3 → (t.tasks.block i).recorded = [] → ∃ z, exec .taskLoadEnd s = .next z
        ∧ (z.tileAt s.ev.tile).bank (BitVec.ofNat 2 k) = contextStrand r.1 ∧ (z.tileAt s.ev.tile).tasks.current = some i
        ∧ ((z.tileAt s.ev.tile).tasks.block i).state = .running ∧ (z.tileAt s.ev.tile).run = BitVec.ofNat 2 k
        ∧ (z.tileAt s.ev.tile).ready = max t.ready (s.tick + 4)))
  ∧ (∀ s : State, exec .completionNotice s = .next (s.onTile s.ev.tile fun t => (t.wakeTask s.tick s.ev.op .notice).1))
  ∧ (∀ s : State, s.canPreHalt s.ev.tile = true → exec .preemptHalt s = .next
      ((s.members s.ev.tile).foldl (fun s m => s.onTile m fun t => { t with preHalted := true, frozen := true }) s))
  ∧ (∀ (s : State) (l : Launch), s.launch? s.ev.launch = some l → s.canSave l s.ev.cluster = true → ∃ t, exec .preemptSave s = .next t
      ∧ (∀ x ∈ t.tiles, clusterOf x.addr = s.ev.cluster → x.launch ≠ some l.id) ∧ (∀ k ∈ t.kiln, k.launch ≠ l.id)
      ∧ ∃ m ∈ t.sch.msgs, m.cluster = s.ev.cluster ∧ m.launch = l.id ∧ m.msg = .halted true)
  ∧ (∀ (s : State) (l : Launch), s.launch? s.ev.launch = some l → l.phase = .placing → l.restoring = true →
      (∀ x ∈ seatsIn l.seats s.ev.cluster, (s.quadAt x.addr).owner = some l.id ∧ (s.tileAt x.addr).launch = none) →
      exec .restore s = .next ((seatsIn l.seats s.ev.cluster).foldl (fun s x =>
        match l.saved.find? fun t => t.tid[1].toNat % 2 ^ 32 = x.sdie * 2 ^ 24 + x.sqr * 2 ^ 16 + x.sqc * 2 ^ 8 + x.stq with
        | none => s
        | some t =>
          let s := if l.gangs.contains (quadOf t.addr) then s.onQuad x.addr fun q => { q with ganged := true } else s
          s.setTile (s.restoreTile l l.seats x t)) s))
  ∧ (∀ (b : Strand) (p : BitVec 2) (id : Nat), (contextBytes b p id).length = 272
    ∧ (contextStrand (contextBytes b p id)).g = b.g ∧ (contextStrand (contextBytes b p id)).pc = b.pc ∧ (contextStrand (contextBytes b p id)).b = b.b &&& 0xFE
    ∧ (contextStrand (contextBytes b p id)).fmt = b.fmt ∧ (contextStrand (contextBytes b p id)).flags = b.flags
    ∧ (contextStrand (contextBytes b p id)).life = .live ∧ (contextStrand (contextBytes b p id)).levels = [] ∧ (contextStrand (contextBytes b p id)).flight = [])

/-! ## Reset -/

/-- R5, R13, R16, R26, R31, R84, R139, R142, R173, R237, R255, R264, R420, R430, R440, R455. WHAT RESET LEAVES, by the values that the spec gives: stage 0x01 with nothing committed and PERST# not yet deasserted, every measurement slot 0, no queue, no launch, no tile and no quad in use, `PWRCAP` at 8,000 W, the CXL ports down, no error recorded with the thresholds of Table 18.8; and a tile that has not been placed is the cleared tile: registers, latches, ports, flags and formats 0, accumulators 0 with every mask bit set, rings not valid, tags clear, sockets free-running, the digest all ones with no record, the supervisor state and timer 0. That reset is the state with PERST# asserted (log 4), the registers to which the spec gives no reset value (log 6) and the 8,000 W of `PWRCAP` (log 7) are the model's choices. -/
def Obligations.ResetState : Prop :=
  (∀ s : State, s = State.reset →
    s.tick = 0 ∧ s.boot.stage = 0x01 ∧ s.boot.out = false ∧ s.boot.reason = 0 ∧ s.boot.leader = 0xFF ∧ s.boot.port = none ∧ s.boot.busy = false
    ∧ s.boot.reloading = false ∧ s.boot.slots = Vector.replicate 16 0 ∧ s.boot.rsvcnt = 0 ∧ s.boot.foreign = 0 ∧ s.pwrcap = 8000 ∧ s.sch.queues = [] ∧ s.sch.launches = []
    ∧ s.tiles = [] ∧ s.quads = [] ∧ s.err.head = 0 ∧ s.err.tail = 0 ∧ s.err.drop = 0 ∧ s.err.cfg = 0x0000000202021000 ∧ (∀ k : Fin 8, s.cxl[k].up = false)
    ∧ s.sick = 0 ∧ s.fenced = 0 ∧ s.eutas.tries = 16 ∧ s.eutas.timeout = 170000)
  ∧ (∀ a : Nat, State.reset.tileAt a = { addr := a })
  ∧ (∀ (t : Tile) (a : Nat) (k : BitVec 2), t = { addr := a } →
      (∀ n, (t.bank k).getG n = 0) ∧ (∀ n, (t.bank k).getV n = 0) ∧ (∀ n, n ≠ 0 → (t.bank k).getB n = false) ∧ (t.bank k).getB 0 = true
      ∧ (t.bank k).pc = 0 ∧ (t.bank k).flags = 0 ∧ (t.bank k).fmt = 0 ∧ (t.bank k).levels = [] ∧ (t.bank k).flight = [] ∧ (t.bank k).idle = 0
      ∧ ∀ j : Sock, (t.bank k).sock j = {})
  ∧ (∀ (t : Tile) (a : Nat), t = { addr := a } →
      t.tags = 0 ∧ t.digest = 0xFFFF_FFFF_FFFF_FFFF ∧ t.records = 0 ∧ t.sel = Vector.replicate 4 0 ∧ t.stmr = 0 ∧ t.queue = [] ∧ t.mxq = [] ∧ t.pend = [] ∧ t.sleepd = 0
      ∧ (∀ r : BitVec 3, (t.ring r).valid = false) ∧ (∀ z : Fin 16, t.zones[z].isOpen = false) ∧ t.kslots = [] ∧ t.armed = none ∧ t.sram = []
      ∧ (∀ i : Fin 4, t.acc[i].rows = 0xFFFF ∧ t.acc[i].cols = 0xFFFF ∧ ∀ e : Fin 256, t.acc[i].e[e] = 0))
end

