-- ==== Sys2Proof/Laws/Ops.lean ====
section
/-! SUPPORT. What the shared operations of Machine/Ops.lean do: memory cells, tiles, quads, banks, registers, ports. -/

namespace Sys2Proof.Laws

open Sys2Proof.Machine

/-! ## Memory cells -/

theorem cellsFrom_mono {lo lo' : Nat} (h : lo' ≤ lo) : ∀ {m : List Host.Cell}, cellsFrom lo m = true → cellsFrom lo' m = true
  | [], _ => rfl
  | (a, v) :: r, hm => by
    simp only [cellsFrom, Bool.and_eq_true, decide_eq_true_eq] at hm ⊢
    exact ⟨⟨by omega, hm.1.2⟩, hm.2⟩

theorem cellsFrom_write {lo a : Nat} {v : Byte} (ha : lo ≤ a) :
    ∀ {m : List Host.Cell}, cellsFrom lo m = true → cellsFrom lo (cellsWrite m a v) = true := by
  intro m
  induction m generalizing lo with
  | nil =>
    intro _
    unfold cellsWrite
    split <;> simp_all [cellsFrom]
  | cons c r ih =>
    obtain ⟨b, w⟩ := c
    intro hm
    have hm' := hm
    simp only [cellsFrom, Bool.and_eq_true, decide_eq_true_eq] at hm
    unfold cellsWrite
    split
    · split
      · exact hm'
      · simp only [cellsFrom, Bool.and_eq_true, decide_eq_true_eq]
        exact ⟨⟨ha, ‹_›⟩, ⟨by omega, hm.1.2⟩, hm.2⟩
    · split
      · split
        · exact cellsFrom_mono (by omega) hm.2
        · simp only [cellsFrom, Bool.and_eq_true, decide_eq_true_eq]
          subst a
          exact ⟨⟨ha, ‹_›⟩, hm.2⟩
      · simp only [cellsFrom, Bool.and_eq_true, decide_eq_true_eq]
        exact ⟨⟨hm.1.1, hm.1.2⟩, ih (by omega) hm.2⟩

/-- A write keeps the canonical form. -/
theorem cellsWf_write {m : List Host.Cell} {a : Nat} {v : Byte} (h : cellsWf m = true) : cellsWf (cellsWrite m a v) = true :=
  cellsFrom_write (Nat.zero_le a) h

/-- So do writes at consecutive addresses. -/
theorem cellsWf_writeAll {bs : List Byte} : ∀ {m : List Host.Cell} {a : Nat}, cellsWf m = true → cellsWf (cellsWriteAll m a bs) = true := by
  induction bs with
  | nil => intro m a h; exact h
  | cons b bs ih => intro m a h; exact ih (cellsWf_write h)

/-- So do writes at any addresses. -/
theorem cellsWf_writes {ws : List (Nat × Byte)} :
    ∀ {m : List Host.Cell}, cellsWf m = true → cellsWf (ws.foldl (fun m w => cellsWrite m w.1 w.2) m) = true := by
  induction ws with
  | nil => intro m h; exact h
  | cons w ws ih => intro m h; exact ih (cellsWf_write h)

/-- A part of a canonical memory is canonical. -/
theorem cellsFrom_filter {p : Host.Cell → Bool} {lo : Nat} :
    ∀ {m : List Host.Cell}, cellsFrom lo m = true → cellsFrom lo (m.filter p) = true := by
  intro m
  induction m generalizing lo with
  | nil => intro _; rfl
  | cons c r ih =>
    obtain ⟨a, v⟩ := c
    intro h
    simp only [cellsFrom, Bool.and_eq_true, decide_eq_true_eq] at h
    simp only [List.filter_cons]
    split
    · simp only [cellsFrom, Bool.and_eq_true, decide_eq_true_eq]
      exact ⟨h.1, ih h.2⟩
    · exact cellsFrom_mono (by omega) (ih h.2)

theorem cellsWf_filter {p : Host.Cell → Bool} {m : List Host.Cell} (h : cellsWf m = true) : cellsWf (m.filter p) = true :=
  cellsFrom_filter h

theorem cellsWf_nil : cellsWf [] = true := rfl

theorem cellsRead_below {lo a : Nat} (ha : a < lo) : ∀ {m : List Host.Cell}, cellsFrom lo m = true → cellsRead m a = 0
  | [], _ => rfl
  | (b, w) :: r, h => by
    simp only [cellsFrom, Bool.and_eq_true, decide_eq_true_eq] at h
    unfold cellsRead
    rw [if_neg (by omega)]
    exact cellsRead_below (lo := b + 1) (by omega) h.2

theorem cellsRead_write_from {lo a b : Nat} {v : Byte} :
    ∀ {m : List Host.Cell}, cellsFrom lo m = true → cellsRead (cellsWrite m a v) b = if b = a then v else cellsRead m b := by
  intro m
  induction m generalizing lo with
  | nil =>
    intro _
    unfold cellsWrite
    split <;> simp_all [cellsRead]
  | cons c r ih =>
    obtain ⟨d, w⟩ := c
    intro h
    simp only [cellsFrom, Bool.and_eq_true, decide_eq_true_eq] at h
    unfold cellsWrite
    split
    · rename_i hlt
      split
      · rename_i hv
        by_cases hb : b = a
        · subst hb
          rw [if_pos rfl, hv]
          unfold cellsRead
          rw [if_neg (by omega)]
          exact cellsRead_below (lo := d + 1) (by omega) h.2
        · rw [if_neg hb]
      · by_cases hb : b = a
        · subst hb; simp [cellsRead]
        · simp [cellsRead, hb]
    · split
      · rename_i _ he
        subst he
        split
        · rename_i hv
          by_cases hb : b = a
          · subst hb
            rw [if_pos rfl, hv]
            exact cellsRead_below (lo := b + 1) (by omega) h.2
          · rw [if_neg hb]; simp [cellsRead, hb]
        · by_cases hb : b = a
          · subst hb; simp [cellsRead]
          · simp [cellsRead, hb]
      · simp only [cellsRead]
        rw [ih h.2]
        by_cases hb : b = d
        · subst hb
          rw [if_pos rfl, if_pos rfl, if_neg (by omega)]
        · rw [if_neg hb, if_neg hb]

/-- Reading after a write: the new byte at its address, the old one elsewhere. -/
theorem cellsRead_write {m : List Host.Cell} {a b : Nat} {v : Byte} (h : cellsWf m = true) :
    cellsRead (cellsWrite m a v) b = if b = a then v else cellsRead m b := cellsRead_write_from h

/-- Reading after a write of bytes at consecutive addresses, outside them. -/
theorem cellsRead_writeAll_other {bs : List Byte} {b : Nat} : ∀ {m : List Host.Cell} {a : Nat}, cellsWf m = true →
    (b < a ∨ a + bs.length ≤ b) → cellsRead (cellsWriteAll m a bs) b = cellsRead m b := by
  induction bs with
  | nil => intro m a _ _; rfl
  | cons x xs ih =>
    intro m a h hb
    simp only [List.length_cons] at hb
    unfold cellsWriteAll
    rw [ih (cellsWf_write h) (by omega), cellsRead_write h, if_neg (by omega)]

/-- Reading after writes at any addresses, outside them. -/
theorem cellsRead_writes_other {ws : List (Nat × Byte)} {b : Nat} : ∀ {m : List Host.Cell}, cellsWf m = true →
    (∀ w ∈ ws, w.1 ≠ b) → cellsRead (ws.foldl (fun m w => cellsWrite m w.1 w.2) m) b = cellsRead m b := by
  induction ws with
  | nil => intro m _ _; rfl
  | cons w ws ih =>
    intro m h hb
    simp only [List.foldl_cons]
    rw [ih (cellsWf_write h) (fun x hx => hb x (List.mem_cons_of_mem _ hx)), cellsRead_write h,
      if_neg (fun e => hb w (List.mem_cons_self ..) e.symm)]

/-! ## Tiles and quads -/

theorem findTile_putTile (t : Tile) : ∀ l : List Tile, findTile t.addr (putTile t l) = t
  | [] => by simp [putTile, findTile]
  | u :: r => by
    unfold putTile
    split
    · simp [findTile]
    · split
      · simp [findTile]
      · have h := findTile_putTile t r
        simp only [findTile]
        rw [if_neg (fun e => by omega)]
        exact h

theorem findTile_putTile_other {a : Nat} (t : Tile) (ha : a ≠ t.addr) : ∀ l : List Tile, findTile a (putTile t l) = findTile a l
  | [] => by simp [putTile, findTile, Ne.symm ha]
  | u :: r => by
    unfold putTile
    split
    · simp [findTile, Ne.symm ha]
    · split
      · rename_i _ he
        simp only [findTile]
        rw [if_neg (Ne.symm ha), if_neg (fun e => ha (by rw [← e, he]))]
      · simp only [findTile]
        rw [findTile_putTile_other t ha r]

theorem findTile_addr (a : Nat) : ∀ l : List Tile, (findTile a l).addr = a
  | [] => rfl
  | t :: r => by
    unfold findTile
    split
    · assumption
    · exact findTile_addr a r

@[simp] theorem tileAt_addr (s : State) (a : Nat) : (s.tileAt a).addr = a := findTile_addr a s.tiles

theorem tileAt_setTile (s : State) (t : Tile) : (s.setTile t).tileAt t.addr = t := findTile_putTile t s.tiles

theorem tileAt_setTile_other (s : State) (t : Tile) {a : Nat} (h : a ≠ t.addr) : (s.setTile t).tileAt a = s.tileAt a :=
  findTile_putTile_other t h s.tiles

@[simp] theorem tileAt_onTile (s : State) (a : Nat) (f : Tile → Tile) : (s.onTile a f).tileAt a = { f (s.tileAt a) with addr := a } :=
  tileAt_setTile s { f (s.tileAt a) with addr := a }

theorem tileAt_onTile_other (s : State) {a b : Nat} (f : Tile → Tile) (h : b ≠ a) : (s.onTile a f).tileAt b = s.tileAt b :=
  tileAt_setTile_other s { f (s.tileAt a) with addr := a } h

@[simp] theorem self_onSelf (s : State) (f : Tile → Tile) : (s.onSelf f).self = { f s.self with addr := s.cur } :=
  tileAt_onTile s s.cur f

theorem putTile_mem {t : Tile} {u : Tile} : ∀ {l : List Tile}, u ∈ putTile t l → u = t ∨ u ∈ l
  | [], h => .inl (List.mem_singleton.mp h)
  | v :: r, h => by
    have ih := @putTile_mem t u r
    unfold putTile at h
    by_cases h1 : t.addr < v.addr
    · rw [if_pos h1] at h; simpa using h
    · rw [if_neg h1] at h
      by_cases h2 : t.addr = v.addr
      · rw [if_pos h2, List.mem_cons] at h; exact h.imp_right (List.mem_cons_of_mem _)
      · rw [if_neg h2, List.mem_cons] at h; rw [List.mem_cons]; tauto

theorem findTile_mem {a : Nat} : ∀ {l : List Tile}, findTile a l = { addr := a } ∨ findTile a l ∈ l
  | [] => .inl rfl
  | t :: r => by
    have ih := @findTile_mem a r
    by_cases h : t.addr = a
    · simp [findTile, h]
    · simp only [findTile, if_neg h, List.mem_cons]; tauto

/-! ## Banks, registers, ports -/

@[simp] theorem bank_setBank (t : Tile) (k : BitVec 2) (b : Strand) : (t.setBank k b).bank k = b := by
  simp [Tile.bank, Tile.setBank]

theorem bank_setBank_other (t : Tile) {j k : BitVec 2} (b : Strand) (h : j ≠ k) : (t.setBank k b).bank j = t.bank j := by
  simp only [Tile.bank, Tile.setBank]
  rw [Vector.getElem_set_ne]
  intro e
  exact h (BitVec.eq_of_toNat_eq e.symm)

@[simp] theorem bank_onBank (t : Tile) (k : BitVec 2) (f : Strand → Strand) : (t.onBank k f).bank k = f (t.bank k) :=
  bank_setBank t k _

theorem bank_onBank_other (t : Tile) {j k : BitVec 2} (f : Strand → Strand) (h : j ≠ k) : (t.onBank k f).bank j = t.bank j :=
  bank_setBank_other t _ h

@[simp] theorem sock_setSock (b : Strand) (s : Sock) (c : SockCtx) : (b.setSock s c).sock s = c := by
  simp [Strand.sock, Strand.setSock]

theorem sock_num_inj {s r : Sock} (h : s.num = r.num) : s = r := by
  revert h; cases s <;> cases r <;> decide

theorem sock_setSock_other (b : Strand) {s r : Sock} (c : SockCtx) (h : r ≠ s) : (b.setSock s c).sock r = b.sock r := by
  simp only [Strand.sock, Strand.setSock]
  rw [Vector.getElem_set_ne]
  intro e
  exact h (sock_num_inj e.symm)

@[simp] theorem getG_setG (b : Strand) (n : BitVec 5) (v : Dword) : (b.setG n v).getG n = v := by
  simp [Strand.getG, Strand.setG]

/-- What a landing writes (R125, R126). -/
theorem landRes_spec (b : Strand) (k : Sock) (full : Bool) (r : Res) :
    ((landRes b k full r).sock k).x = r.x.getD (b.sock k).x ∧ ((landRes b k full r).sock k).y = r.y.getD (b.sock k).y
      ∧ ((landRes b k full r).sock k).s = r.s ∧ (landRes b k full r).flags = b.flags ||| r.flags := by
  obtain ⟨x, y, s, f⟩ := r
  refine ⟨?_, ?_, ?_, rfl⟩
  all_goals
    refine (congrArg _ (sock_setSock b k _)).trans ?_
    cases x <;> cases y <;> rfl

theorem landRes_other (b : Strand) (k : Sock) (full : Bool) (r : Res) {j : Sock} (h : j ≠ k) :
    (landRes b k full r).sock j = b.sock j := sock_setSock_other b _ h

theorem getG_setG_other (b : Strand) {m n : BitVec 5} (v : Dword) (h : m ≠ n) : (b.setG n v).getG m = b.getG m := by
  simp only [Strand.getG, Strand.setG]
  rw [Vector.getElem_set_ne]
  intro e
  exact h (BitVec.eq_of_toNat_eq e.symm)

@[simp] theorem getV_setV (b : Strand) (n : BitVec 5) (v : Bus) : (b.setV n v).getV n = v := by
  simp [Strand.getV, Strand.setV]

theorem getV_setV_other (b : Strand) {m n : BitVec 5} (v : Bus) (h : m ≠ n) : (b.setV n v).getV m = b.getV m := by
  simp only [Strand.getV, Strand.setV]
  rw [Vector.getElem_set_ne]
  intro e
  exact h (BitVec.eq_of_toNat_eq e.symm)

/-- `b0` reads 1 and discards a write. -/
@[simp] theorem getB_zero (b : Strand) : b.getB 0 = true := by simp [Strand.getB]

@[simp] theorem setB_zero (b : Strand) (v : Bool) : b.setB 0 v = b := by simp [Strand.setB]

/-! ## Taking an exception -/

theorem bitsB : ∀ (x : BitVec 8) (m n : BitVec 3) (v : Bool), n ≠ 0 →
    (m == 0 || (if v then x ||| (1#8 <<< n.toNat) else x &&& ~~~(1#8 <<< n.toNat)).getLsbD m.toNat)
      = if m = 0 then true else if m = n then v else (m == 0 || x.getLsbD m.toNat) := by decide +kernel

/-- A guard register after a write (R139). -/
theorem getB_setB (b : Strand) (m n : BitVec 3) (v : Bool) :
    (b.setB n v).getB m = if m = 0 then true else if m = n then v else b.getB m := by
  by_cases hn : n = 0
  · unfold Strand.setB
    rw [if_pos hn]
    by_cases hm : m = 0
    · rw [if_pos hm]; unfold Strand.getB; rw [hm]; rfl
    · rw [if_neg hm, if_neg (by rw [hn]; exact hm)]
  · have h := bitsB b.b m n v hn
    unfold Strand.setB
    rw [if_neg hn]
    cases v <;> exact h

/-- Everything that taking an exception does (R415 to R420): bank3 runs from offset 0, the selectors hold the cause, and the banks keep what they hold but the saved pc and what bank3 starts with. -/
theorem enter_spec (t : Tile) (now : Nat) (gang : Bool) (p : Pending) (off : Word) (hk : p.bank ≠ 3) :
    (t.enter now gang p off).run = 3
    ∧ ((t.enter now gang p off).bank 3).pc = 0
    ∧ ((t.enter now gang p off).bank 3).life = .live
    ∧ (t.enter now gang p off).bank p.bank = { t.bank p.bank with pc := off }
    ∧ (t.enter now gang p off).sel
        = #v[causeWord p (firstCause p.bank t.pend).isSome gang (t.preReq || t.prePeriod), p.origin ++ off, p.shown, p.detail]
    ∧ (t.enter now gang p off).pend = t.pend := by
  have hb : ∀ k, (t.enter now gang p off).bank k
      = ((t.setBank p.bank { t.bank p.bank with pc := off }).onBank 3
          fun b3 => { b3 with pc := 0, levels := [], life := .live, passEnd := false, idle := 0 }).bank k := fun _ => rfl
  refine ⟨rfl, ?_, ?_, ?_, rfl, rfl⟩
  · rw [hb, bank_onBank]
  · rw [hb, bank_onBank]
  · rw [hb, bank_onBank_other _ _ hk, bank_setBank]

end Sys2Proof.Laws
end

