-- ==== Sys2Proof/Laws/State.lean ====
section
/-! SUPPORT. One lemma for each field and each update of the state, of a tile and of a strand: what the update leaves alone. -/

namespace Sys2Proof.Laws

open Sys2Proof.Machine

/-! ## Updates of the state -/

@[simp] theorem setTile_tick (s : State) (t : Tile) : (s.setTile t).tick = s.tick := rfl
@[simp] theorem setTile_quads (s : State) (t : Tile) : (s.setTile t).quads = s.quads := rfl
@[simp] theorem setTile_mem (s : State) (t : Tile) : (s.setTile t).mem = s.mem := rfl
@[simp] theorem setTile_cnt (s : State) (t : Tile) : (s.setTile t).cnt = s.cnt := rfl
@[simp] theorem setTile_qerr (s : State) (t : Tile) : (s.setTile t).qerr = s.qerr := rfl
@[simp] theorem setTile_err (s : State) (t : Tile) : (s.setTile t).err = s.err := rfl
@[simp] theorem setTile_outbox (s : State) (t : Tile) : (s.setTile t).outbox = s.outbox := rfl
@[simp] theorem setTile_debugOn (s : State) (t : Tile) : (s.setTile t).debugOn = s.debugOn := rfl
@[simp] theorem setTile_shifts (s : State) (t : Tile) : (s.setTile t).shifts = s.shifts := rfl
@[simp] theorem setTile_badMem (s : State) (t : Tile) : (s.setTile t).badMem = s.badMem := rfl
@[simp] theorem setTile_tr (s : State) (t : Tile) : (s.setTile t).tr = s.tr := rfl
@[simp] theorem setTile_faults (s : State) (t : Tile) : (s.setTile t).faults = s.faults := rfl
@[simp] theorem setTile_ctlb (s : State) (t : Tile) : (s.setTile t).ctlb = s.ctlb := rfl
@[simp] theorem setTile_cxl (s : State) (t : Tile) : (s.setTile t).cxl = s.cxl := rfl
@[simp] theorem setTile_peerWin (s : State) (t : Tile) : (s.setTile t).peerWin = s.peerWin := rfl
@[simp] theorem setTile_migSlots (s : State) (t : Tile) : (s.setTile t).migSlots = s.migSlots := rfl
@[simp] theorem setTile_migs (s : State) (t : Tile) : (s.setTile t).migs = s.migs := rfl
@[simp] theorem setTile_migDone (s : State) (t : Tile) : (s.setTile t).migDone = s.migDone := rfl
@[simp] theorem setTile_units (s : State) (t : Tile) : (s.setTile t).units = s.units := rfl
@[simp] theorem setTile_eutas (s : State) (t : Tile) : (s.setTile t).eutas = s.eutas := rfl
@[simp] theorem setTile_cloads (s : State) (t : Tile) : (s.setTile t).cloads = s.cloads := rfl
@[simp] theorem setTile_packets (s : State) (t : Tile) : (s.setTile t).packets = s.packets := rfl
@[simp] theorem setTile_nextPacket (s : State) (t : Tile) : (s.setTile t).nextPacket = s.nextPacket := rfl
@[simp] theorem setTile_kiln (s : State) (t : Tile) : (s.setTile t).kiln = s.kiln := rfl
@[simp] theorem setTile_kilnAir (s : State) (t : Tile) : (s.setTile t).kilnAir = s.kilnAir := rfl
@[simp] theorem setTile_nextChild (s : State) (t : Tile) : (s.setTile t).nextChild = s.nextChild := rfl
@[simp] theorem setTile_sick (s : State) (t : Tile) : (s.setTile t).sick = s.sick := rfl
@[simp] theorem setTile_fenced (s : State) (t : Tile) : (s.setTile t).fenced = s.fenced := rfl
@[simp] theorem setTile_sparing (s : State) (t : Tile) : (s.setTile t).sparing = s.sparing := rfl
@[simp] theorem setTile_failed (s : State) (t : Tile) : (s.setTile t).failed = s.failed := rfl
@[simp] theorem setTile_hbmCorr (s : State) (t : Tile) : (s.setTile t).hbmCorr = s.hbmCorr := rfl
@[simp] theorem setTile_laneReplays (s : State) (t : Tile) : (s.setTile t).laneReplays = s.laneReplays := rfl
@[simp] theorem setTile_spared (s : State) (t : Tile) : (s.setTile t).spared = s.spared := rfl
@[simp] theorem setTile_retrain (s : State) (t : Tile) : (s.setTile t).retrain = s.retrain := rfl
@[simp] theorem setTile_pwrcap (s : State) (t : Tile) : (s.setTile t).pwrcap = s.pwrcap := rfl
@[simp] theorem setTile_overCap (s : State) (t : Tile) : (s.setTile t).overCap = s.overCap := rfl
@[simp] theorem setTile_capAt (s : State) (t : Tile) : (s.setTile t).capAt = s.capAt := rfl
@[simp] theorem setTile_draw (s : State) (t : Tile) : (s.setTile t).draw = s.draw := rfl
@[simp] theorem setTile_capped (s : State) (t : Tile) : (s.setTile t).capped = s.capped := rfl
@[simp] theorem setTile_boot (s : State) (t : Tile) : (s.setTile t).boot = s.boot := rfl
@[simp] theorem setTile_sch (s : State) (t : Tile) : (s.setTile t).sch = s.sch := rfl
@[simp] theorem setTile_staging (s : State) (t : Tile) : (s.setTile t).staging = s.staging := rfl
@[simp] theorem setTile_condemned (s : State) (t : Tile) : (s.setTile t).condemned = s.condemned := rfl
@[simp] theorem setTile_lostQuads (s : State) (t : Tile) : (s.setTile t).lostQuads = s.lostQuads := rfl
@[simp] theorem setTile_draining (s : State) (t : Tile) : (s.setTile t).draining = s.draining := rfl
@[simp] theorem setTile_dieRecs (s : State) (t : Tile) : (s.setTile t).dieRecs = s.dieRecs := rfl
@[simp] theorem setTile_retrained (s : State) (t : Tile) : (s.setTile t).retrained = s.retrained := rfl
@[simp] theorem setTile_halfWidth (s : State) (t : Tile) : (s.setTile t).halfWidth = s.halfWidth := rfl
@[simp] theorem setTile_halved (s : State) (t : Tile) : (s.setTile t).halved = s.halved := rfl
@[simp] theorem setTile_hostQ (s : State) (t : Tile) : (s.setTile t).hostQ = s.hostQ := rfl
@[simp] theorem setTile_capHeld (s : State) (t : Tile) : (s.setTile t).capHeld = s.capHeld := rfl
@[simp] theorem setTile_ev (s : State) (t : Tile) : (s.setTile t).ev = s.ev := rfl
@[simp] theorem setTile_cur (s : State) (t : Tile) : (s.setTile t).cur = s.cur := rfl
@[simp] theorem setTile_turn (s : State) (t : Tile) : (s.setTile t).turn = s.turn := rfl
@[simp] theorem setTile_capUntil (s : State) (t : Tile) : (s.setTile t).capUntil = s.capUntil := rfl
@[simp] theorem setTile_agenda (s : State) (t : Tile) : (s.setTile t).agenda = s.agenda := rfl
@[simp] theorem setTile_free (s : State) (t : Tile) : (s.setTile t).free = s.free := rfl

@[simp] theorem onTile_tick (s : State) (a : Nat) (f : Tile → Tile) : (s.onTile a f).tick = s.tick := rfl
@[simp] theorem onTile_quads (s : State) (a : Nat) (f : Tile → Tile) : (s.onTile a f).quads = s.quads := rfl
@[simp] theorem onTile_mem (s : State) (a : Nat) (f : Tile → Tile) : (s.onTile a f).mem = s.mem := rfl
@[simp] theorem onTile_cnt (s : State) (a : Nat) (f : Tile → Tile) : (s.onTile a f).cnt = s.cnt := rfl
@[simp] theorem onTile_qerr (s : State) (a : Nat) (f : Tile → Tile) : (s.onTile a f).qerr = s.qerr := rfl
@[simp] theorem onTile_err (s : State) (a : Nat) (f : Tile → Tile) : (s.onTile a f).err = s.err := rfl
@[simp] theorem onTile_outbox (s : State) (a : Nat) (f : Tile → Tile) : (s.onTile a f).outbox = s.outbox := rfl
@[simp] theorem onTile_debugOn (s : State) (a : Nat) (f : Tile → Tile) : (s.onTile a f).debugOn = s.debugOn := rfl
@[simp] theorem onTile_shifts (s : State) (a : Nat) (f : Tile → Tile) : (s.onTile a f).shifts = s.shifts := rfl
@[simp] theorem onTile_badMem (s : State) (a : Nat) (f : Tile → Tile) : (s.onTile a f).badMem = s.badMem := rfl
@[simp] theorem onTile_tr (s : State) (a : Nat) (f : Tile → Tile) : (s.onTile a f).tr = s.tr := rfl
@[simp] theorem onTile_faults (s : State) (a : Nat) (f : Tile → Tile) : (s.onTile a f).faults = s.faults := rfl
@[simp] theorem onTile_ctlb (s : State) (a : Nat) (f : Tile → Tile) : (s.onTile a f).ctlb = s.ctlb := rfl
@[simp] theorem onTile_cxl (s : State) (a : Nat) (f : Tile → Tile) : (s.onTile a f).cxl = s.cxl := rfl
@[simp] theorem onTile_peerWin (s : State) (a : Nat) (f : Tile → Tile) : (s.onTile a f).peerWin = s.peerWin := rfl
@[simp] theorem onTile_migSlots (s : State) (a : Nat) (f : Tile → Tile) : (s.onTile a f).migSlots = s.migSlots := rfl
@[simp] theorem onTile_migs (s : State) (a : Nat) (f : Tile → Tile) : (s.onTile a f).migs = s.migs := rfl
@[simp] theorem onTile_migDone (s : State) (a : Nat) (f : Tile → Tile) : (s.onTile a f).migDone = s.migDone := rfl
@[simp] theorem onTile_units (s : State) (a : Nat) (f : Tile → Tile) : (s.onTile a f).units = s.units := rfl
@[simp] theorem onTile_eutas (s : State) (a : Nat) (f : Tile → Tile) : (s.onTile a f).eutas = s.eutas := rfl
@[simp] theorem onTile_cloads (s : State) (a : Nat) (f : Tile → Tile) : (s.onTile a f).cloads = s.cloads := rfl
@[simp] theorem onTile_packets (s : State) (a : Nat) (f : Tile → Tile) : (s.onTile a f).packets = s.packets := rfl
@[simp] theorem onTile_nextPacket (s : State) (a : Nat) (f : Tile → Tile) : (s.onTile a f).nextPacket = s.nextPacket := rfl
@[simp] theorem onTile_kiln (s : State) (a : Nat) (f : Tile → Tile) : (s.onTile a f).kiln = s.kiln := rfl
@[simp] theorem onTile_kilnAir (s : State) (a : Nat) (f : Tile → Tile) : (s.onTile a f).kilnAir = s.kilnAir := rfl
@[simp] theorem onTile_nextChild (s : State) (a : Nat) (f : Tile → Tile) : (s.onTile a f).nextChild = s.nextChild := rfl
@[simp] theorem onTile_sick (s : State) (a : Nat) (f : Tile → Tile) : (s.onTile a f).sick = s.sick := rfl
@[simp] theorem onTile_fenced (s : State) (a : Nat) (f : Tile → Tile) : (s.onTile a f).fenced = s.fenced := rfl
@[simp] theorem onTile_sparing (s : State) (a : Nat) (f : Tile → Tile) : (s.onTile a f).sparing = s.sparing := rfl
@[simp] theorem onTile_failed (s : State) (a : Nat) (f : Tile → Tile) : (s.onTile a f).failed = s.failed := rfl
@[simp] theorem onTile_hbmCorr (s : State) (a : Nat) (f : Tile → Tile) : (s.onTile a f).hbmCorr = s.hbmCorr := rfl
@[simp] theorem onTile_laneReplays (s : State) (a : Nat) (f : Tile → Tile) : (s.onTile a f).laneReplays = s.laneReplays := rfl
@[simp] theorem onTile_spared (s : State) (a : Nat) (f : Tile → Tile) : (s.onTile a f).spared = s.spared := rfl
@[simp] theorem onTile_retrain (s : State) (a : Nat) (f : Tile → Tile) : (s.onTile a f).retrain = s.retrain := rfl
@[simp] theorem onTile_pwrcap (s : State) (a : Nat) (f : Tile → Tile) : (s.onTile a f).pwrcap = s.pwrcap := rfl
@[simp] theorem onTile_overCap (s : State) (a : Nat) (f : Tile → Tile) : (s.onTile a f).overCap = s.overCap := rfl
@[simp] theorem onTile_capAt (s : State) (a : Nat) (f : Tile → Tile) : (s.onTile a f).capAt = s.capAt := rfl
@[simp] theorem onTile_draw (s : State) (a : Nat) (f : Tile → Tile) : (s.onTile a f).draw = s.draw := rfl
@[simp] theorem onTile_capped (s : State) (a : Nat) (f : Tile → Tile) : (s.onTile a f).capped = s.capped := rfl
@[simp] theorem onTile_boot (s : State) (a : Nat) (f : Tile → Tile) : (s.onTile a f).boot = s.boot := rfl
@[simp] theorem onTile_sch (s : State) (a : Nat) (f : Tile → Tile) : (s.onTile a f).sch = s.sch := rfl
@[simp] theorem onTile_staging (s : State) (a : Nat) (f : Tile → Tile) : (s.onTile a f).staging = s.staging := rfl
@[simp] theorem onTile_condemned (s : State) (a : Nat) (f : Tile → Tile) : (s.onTile a f).condemned = s.condemned := rfl
@[simp] theorem onTile_lostQuads (s : State) (a : Nat) (f : Tile → Tile) : (s.onTile a f).lostQuads = s.lostQuads := rfl
@[simp] theorem onTile_draining (s : State) (a : Nat) (f : Tile → Tile) : (s.onTile a f).draining = s.draining := rfl
@[simp] theorem onTile_dieRecs (s : State) (a : Nat) (f : Tile → Tile) : (s.onTile a f).dieRecs = s.dieRecs := rfl
@[simp] theorem onTile_retrained (s : State) (a : Nat) (f : Tile → Tile) : (s.onTile a f).retrained = s.retrained := rfl
@[simp] theorem onTile_halfWidth (s : State) (a : Nat) (f : Tile → Tile) : (s.onTile a f).halfWidth = s.halfWidth := rfl
@[simp] theorem onTile_halved (s : State) (a : Nat) (f : Tile → Tile) : (s.onTile a f).halved = s.halved := rfl
@[simp] theorem onTile_hostQ (s : State) (a : Nat) (f : Tile → Tile) : (s.onTile a f).hostQ = s.hostQ := rfl
@[simp] theorem onTile_capHeld (s : State) (a : Nat) (f : Tile → Tile) : (s.onTile a f).capHeld = s.capHeld := rfl
@[simp] theorem onTile_ev (s : State) (a : Nat) (f : Tile → Tile) : (s.onTile a f).ev = s.ev := rfl
@[simp] theorem onTile_cur (s : State) (a : Nat) (f : Tile → Tile) : (s.onTile a f).cur = s.cur := rfl
@[simp] theorem onTile_turn (s : State) (a : Nat) (f : Tile → Tile) : (s.onTile a f).turn = s.turn := rfl
@[simp] theorem onTile_capUntil (s : State) (a : Nat) (f : Tile → Tile) : (s.onTile a f).capUntil = s.capUntil := rfl
@[simp] theorem onTile_agenda (s : State) (a : Nat) (f : Tile → Tile) : (s.onTile a f).agenda = s.agenda := rfl
@[simp] theorem onTile_free (s : State) (a : Nat) (f : Tile → Tile) : (s.onTile a f).free = s.free := rfl

@[simp] theorem onSelf_tick (s : State) (f : Tile → Tile) : (s.onSelf f).tick = s.tick := rfl
@[simp] theorem onSelf_quads (s : State) (f : Tile → Tile) : (s.onSelf f).quads = s.quads := rfl
@[simp] theorem onSelf_mem (s : State) (f : Tile → Tile) : (s.onSelf f).mem = s.mem := rfl
@[simp] theorem onSelf_cnt (s : State) (f : Tile → Tile) : (s.onSelf f).cnt = s.cnt := rfl
@[simp] theorem onSelf_qerr (s : State) (f : Tile → Tile) : (s.onSelf f).qerr = s.qerr := rfl
@[simp] theorem onSelf_err (s : State) (f : Tile → Tile) : (s.onSelf f).err = s.err := rfl
@[simp] theorem onSelf_outbox (s : State) (f : Tile → Tile) : (s.onSelf f).outbox = s.outbox := rfl
@[simp] theorem onSelf_debugOn (s : State) (f : Tile → Tile) : (s.onSelf f).debugOn = s.debugOn := rfl
@[simp] theorem onSelf_shifts (s : State) (f : Tile → Tile) : (s.onSelf f).shifts = s.shifts := rfl
@[simp] theorem onSelf_badMem (s : State) (f : Tile → Tile) : (s.onSelf f).badMem = s.badMem := rfl
@[simp] theorem onSelf_tr (s : State) (f : Tile → Tile) : (s.onSelf f).tr = s.tr := rfl
@[simp] theorem onSelf_faults (s : State) (f : Tile → Tile) : (s.onSelf f).faults = s.faults := rfl
@[simp] theorem onSelf_ctlb (s : State) (f : Tile → Tile) : (s.onSelf f).ctlb = s.ctlb := rfl
@[simp] theorem onSelf_cxl (s : State) (f : Tile → Tile) : (s.onSelf f).cxl = s.cxl := rfl
@[simp] theorem onSelf_peerWin (s : State) (f : Tile → Tile) : (s.onSelf f).peerWin = s.peerWin := rfl
@[simp] theorem onSelf_migSlots (s : State) (f : Tile → Tile) : (s.onSelf f).migSlots = s.migSlots := rfl
@[simp] theorem onSelf_migs (s : State) (f : Tile → Tile) : (s.onSelf f).migs = s.migs := rfl
@[simp] theorem onSelf_migDone (s : State) (f : Tile → Tile) : (s.onSelf f).migDone = s.migDone := rfl
@[simp] theorem onSelf_units (s : State) (f : Tile → Tile) : (s.onSelf f).units = s.units := rfl
@[simp] theorem onSelf_eutas (s : State) (f : Tile → Tile) : (s.onSelf f).eutas = s.eutas := rfl
@[simp] theorem onSelf_cloads (s : State) (f : Tile → Tile) : (s.onSelf f).cloads = s.cloads := rfl
@[simp] theorem onSelf_packets (s : State) (f : Tile → Tile) : (s.onSelf f).packets = s.packets := rfl
@[simp] theorem onSelf_nextPacket (s : State) (f : Tile → Tile) : (s.onSelf f).nextPacket = s.nextPacket := rfl
@[simp] theorem onSelf_kiln (s : State) (f : Tile → Tile) : (s.onSelf f).kiln = s.kiln := rfl
@[simp] theorem onSelf_kilnAir (s : State) (f : Tile → Tile) : (s.onSelf f).kilnAir = s.kilnAir := rfl
@[simp] theorem onSelf_nextChild (s : State) (f : Tile → Tile) : (s.onSelf f).nextChild = s.nextChild := rfl
@[simp] theorem onSelf_sick (s : State) (f : Tile → Tile) : (s.onSelf f).sick = s.sick := rfl
@[simp] theorem onSelf_fenced (s : State) (f : Tile → Tile) : (s.onSelf f).fenced = s.fenced := rfl
@[simp] theorem onSelf_sparing (s : State) (f : Tile → Tile) : (s.onSelf f).sparing = s.sparing := rfl
@[simp] theorem onSelf_failed (s : State) (f : Tile → Tile) : (s.onSelf f).failed = s.failed := rfl
@[simp] theorem onSelf_hbmCorr (s : State) (f : Tile → Tile) : (s.onSelf f).hbmCorr = s.hbmCorr := rfl
@[simp] theorem onSelf_laneReplays (s : State) (f : Tile → Tile) : (s.onSelf f).laneReplays = s.laneReplays := rfl
@[simp] theorem onSelf_spared (s : State) (f : Tile → Tile) : (s.onSelf f).spared = s.spared := rfl
@[simp] theorem onSelf_retrain (s : State) (f : Tile → Tile) : (s.onSelf f).retrain = s.retrain := rfl
@[simp] theorem onSelf_pwrcap (s : State) (f : Tile → Tile) : (s.onSelf f).pwrcap = s.pwrcap := rfl
@[simp] theorem onSelf_overCap (s : State) (f : Tile → Tile) : (s.onSelf f).overCap = s.overCap := rfl
@[simp] theorem onSelf_capAt (s : State) (f : Tile → Tile) : (s.onSelf f).capAt = s.capAt := rfl
@[simp] theorem onSelf_draw (s : State) (f : Tile → Tile) : (s.onSelf f).draw = s.draw := rfl
@[simp] theorem onSelf_capped (s : State) (f : Tile → Tile) : (s.onSelf f).capped = s.capped := rfl
@[simp] theorem onSelf_boot (s : State) (f : Tile → Tile) : (s.onSelf f).boot = s.boot := rfl
@[simp] theorem onSelf_sch (s : State) (f : Tile → Tile) : (s.onSelf f).sch = s.sch := rfl
@[simp] theorem onSelf_staging (s : State) (f : Tile → Tile) : (s.onSelf f).staging = s.staging := rfl
@[simp] theorem onSelf_condemned (s : State) (f : Tile → Tile) : (s.onSelf f).condemned = s.condemned := rfl
@[simp] theorem onSelf_lostQuads (s : State) (f : Tile → Tile) : (s.onSelf f).lostQuads = s.lostQuads := rfl
@[simp] theorem onSelf_draining (s : State) (f : Tile → Tile) : (s.onSelf f).draining = s.draining := rfl
@[simp] theorem onSelf_dieRecs (s : State) (f : Tile → Tile) : (s.onSelf f).dieRecs = s.dieRecs := rfl
@[simp] theorem onSelf_retrained (s : State) (f : Tile → Tile) : (s.onSelf f).retrained = s.retrained := rfl
@[simp] theorem onSelf_halfWidth (s : State) (f : Tile → Tile) : (s.onSelf f).halfWidth = s.halfWidth := rfl
@[simp] theorem onSelf_halved (s : State) (f : Tile → Tile) : (s.onSelf f).halved = s.halved := rfl
@[simp] theorem onSelf_hostQ (s : State) (f : Tile → Tile) : (s.onSelf f).hostQ = s.hostQ := rfl
@[simp] theorem onSelf_capHeld (s : State) (f : Tile → Tile) : (s.onSelf f).capHeld = s.capHeld := rfl
@[simp] theorem onSelf_ev (s : State) (f : Tile → Tile) : (s.onSelf f).ev = s.ev := rfl
@[simp] theorem onSelf_cur (s : State) (f : Tile → Tile) : (s.onSelf f).cur = s.cur := rfl
@[simp] theorem onSelf_turn (s : State) (f : Tile → Tile) : (s.onSelf f).turn = s.turn := rfl
@[simp] theorem onSelf_capUntil (s : State) (f : Tile → Tile) : (s.onSelf f).capUntil = s.capUntil := rfl
@[simp] theorem onSelf_agenda (s : State) (f : Tile → Tile) : (s.onSelf f).agenda = s.agenda := rfl
@[simp] theorem onSelf_free (s : State) (f : Tile → Tile) : (s.onSelf f).free = s.free := rfl

@[simp] theorem setQuad_tick (s : State) (q : Quad) : (s.setQuad q).tick = s.tick := rfl
@[simp] theorem setQuad_tiles (s : State) (q : Quad) : (s.setQuad q).tiles = s.tiles := rfl
@[simp] theorem setQuad_mem (s : State) (q : Quad) : (s.setQuad q).mem = s.mem := rfl
@[simp] theorem setQuad_cnt (s : State) (q : Quad) : (s.setQuad q).cnt = s.cnt := rfl
@[simp] theorem setQuad_qerr (s : State) (q : Quad) : (s.setQuad q).qerr = s.qerr := rfl
@[simp] theorem setQuad_err (s : State) (q : Quad) : (s.setQuad q).err = s.err := rfl
@[simp] theorem setQuad_outbox (s : State) (q : Quad) : (s.setQuad q).outbox = s.outbox := rfl
@[simp] theorem setQuad_debugOn (s : State) (q : Quad) : (s.setQuad q).debugOn = s.debugOn := rfl
@[simp] theorem setQuad_shifts (s : State) (q : Quad) : (s.setQuad q).shifts = s.shifts := rfl
@[simp] theorem setQuad_badMem (s : State) (q : Quad) : (s.setQuad q).badMem = s.badMem := rfl
@[simp] theorem setQuad_tr (s : State) (q : Quad) : (s.setQuad q).tr = s.tr := rfl
@[simp] theorem setQuad_faults (s : State) (q : Quad) : (s.setQuad q).faults = s.faults := rfl
@[simp] theorem setQuad_ctlb (s : State) (q : Quad) : (s.setQuad q).ctlb = s.ctlb := rfl
@[simp] theorem setQuad_cxl (s : State) (q : Quad) : (s.setQuad q).cxl = s.cxl := rfl
@[simp] theorem setQuad_peerWin (s : State) (q : Quad) : (s.setQuad q).peerWin = s.peerWin := rfl
@[simp] theorem setQuad_migSlots (s : State) (q : Quad) : (s.setQuad q).migSlots = s.migSlots := rfl
@[simp] theorem setQuad_migs (s : State) (q : Quad) : (s.setQuad q).migs = s.migs := rfl
@[simp] theorem setQuad_migDone (s : State) (q : Quad) : (s.setQuad q).migDone = s.migDone := rfl
@[simp] theorem setQuad_units (s : State) (q : Quad) : (s.setQuad q).units = s.units := rfl
@[simp] theorem setQuad_eutas (s : State) (q : Quad) : (s.setQuad q).eutas = s.eutas := rfl
@[simp] theorem setQuad_cloads (s : State) (q : Quad) : (s.setQuad q).cloads = s.cloads := rfl
@[simp] theorem setQuad_packets (s : State) (q : Quad) : (s.setQuad q).packets = s.packets := rfl
@[simp] theorem setQuad_nextPacket (s : State) (q : Quad) : (s.setQuad q).nextPacket = s.nextPacket := rfl
@[simp] theorem setQuad_kiln (s : State) (q : Quad) : (s.setQuad q).kiln = s.kiln := rfl
@[simp] theorem setQuad_kilnAir (s : State) (q : Quad) : (s.setQuad q).kilnAir = s.kilnAir := rfl
@[simp] theorem setQuad_nextChild (s : State) (q : Quad) : (s.setQuad q).nextChild = s.nextChild := rfl
@[simp] theorem setQuad_sick (s : State) (q : Quad) : (s.setQuad q).sick = s.sick := rfl
@[simp] theorem setQuad_fenced (s : State) (q : Quad) : (s.setQuad q).fenced = s.fenced := rfl
@[simp] theorem setQuad_sparing (s : State) (q : Quad) : (s.setQuad q).sparing = s.sparing := rfl
@[simp] theorem setQuad_failed (s : State) (q : Quad) : (s.setQuad q).failed = s.failed := rfl
@[simp] theorem setQuad_hbmCorr (s : State) (q : Quad) : (s.setQuad q).hbmCorr = s.hbmCorr := rfl
@[simp] theorem setQuad_laneReplays (s : State) (q : Quad) : (s.setQuad q).laneReplays = s.laneReplays := rfl
@[simp] theorem setQuad_spared (s : State) (q : Quad) : (s.setQuad q).spared = s.spared := rfl
@[simp] theorem setQuad_retrain (s : State) (q : Quad) : (s.setQuad q).retrain = s.retrain := rfl
@[simp] theorem setQuad_pwrcap (s : State) (q : Quad) : (s.setQuad q).pwrcap = s.pwrcap := rfl
@[simp] theorem setQuad_overCap (s : State) (q : Quad) : (s.setQuad q).overCap = s.overCap := rfl
@[simp] theorem setQuad_capAt (s : State) (q : Quad) : (s.setQuad q).capAt = s.capAt := rfl
@[simp] theorem setQuad_draw (s : State) (q : Quad) : (s.setQuad q).draw = s.draw := rfl
@[simp] theorem setQuad_capped (s : State) (q : Quad) : (s.setQuad q).capped = s.capped := rfl
@[simp] theorem setQuad_boot (s : State) (q : Quad) : (s.setQuad q).boot = s.boot := rfl
@[simp] theorem setQuad_sch (s : State) (q : Quad) : (s.setQuad q).sch = s.sch := rfl
@[simp] theorem setQuad_staging (s : State) (q : Quad) : (s.setQuad q).staging = s.staging := rfl
@[simp] theorem setQuad_condemned (s : State) (q : Quad) : (s.setQuad q).condemned = s.condemned := rfl
@[simp] theorem setQuad_lostQuads (s : State) (q : Quad) : (s.setQuad q).lostQuads = s.lostQuads := rfl
@[simp] theorem setQuad_draining (s : State) (q : Quad) : (s.setQuad q).draining = s.draining := rfl
@[simp] theorem setQuad_dieRecs (s : State) (q : Quad) : (s.setQuad q).dieRecs = s.dieRecs := rfl
@[simp] theorem setQuad_retrained (s : State) (q : Quad) : (s.setQuad q).retrained = s.retrained := rfl
@[simp] theorem setQuad_halfWidth (s : State) (q : Quad) : (s.setQuad q).halfWidth = s.halfWidth := rfl
@[simp] theorem setQuad_halved (s : State) (q : Quad) : (s.setQuad q).halved = s.halved := rfl
@[simp] theorem setQuad_hostQ (s : State) (q : Quad) : (s.setQuad q).hostQ = s.hostQ := rfl
@[simp] theorem setQuad_capHeld (s : State) (q : Quad) : (s.setQuad q).capHeld = s.capHeld := rfl
@[simp] theorem setQuad_ev (s : State) (q : Quad) : (s.setQuad q).ev = s.ev := rfl
@[simp] theorem setQuad_cur (s : State) (q : Quad) : (s.setQuad q).cur = s.cur := rfl
@[simp] theorem setQuad_turn (s : State) (q : Quad) : (s.setQuad q).turn = s.turn := rfl
@[simp] theorem setQuad_capUntil (s : State) (q : Quad) : (s.setQuad q).capUntil = s.capUntil := rfl
@[simp] theorem setQuad_agenda (s : State) (q : Quad) : (s.setQuad q).agenda = s.agenda := rfl
@[simp] theorem setQuad_free (s : State) (q : Quad) : (s.setQuad q).free = s.free := rfl

@[simp] theorem onQuad_tick (s : State) (a : Nat) (f : Quad → Quad) : (s.onQuad a f).tick = s.tick := rfl
@[simp] theorem onQuad_tiles (s : State) (a : Nat) (f : Quad → Quad) : (s.onQuad a f).tiles = s.tiles := rfl
@[simp] theorem onQuad_mem (s : State) (a : Nat) (f : Quad → Quad) : (s.onQuad a f).mem = s.mem := rfl
@[simp] theorem onQuad_cnt (s : State) (a : Nat) (f : Quad → Quad) : (s.onQuad a f).cnt = s.cnt := rfl
@[simp] theorem onQuad_qerr (s : State) (a : Nat) (f : Quad → Quad) : (s.onQuad a f).qerr = s.qerr := rfl
@[simp] theorem onQuad_err (s : State) (a : Nat) (f : Quad → Quad) : (s.onQuad a f).err = s.err := rfl
@[simp] theorem onQuad_outbox (s : State) (a : Nat) (f : Quad → Quad) : (s.onQuad a f).outbox = s.outbox := rfl
@[simp] theorem onQuad_debugOn (s : State) (a : Nat) (f : Quad → Quad) : (s.onQuad a f).debugOn = s.debugOn := rfl
@[simp] theorem onQuad_shifts (s : State) (a : Nat) (f : Quad → Quad) : (s.onQuad a f).shifts = s.shifts := rfl
@[simp] theorem onQuad_badMem (s : State) (a : Nat) (f : Quad → Quad) : (s.onQuad a f).badMem = s.badMem := rfl
@[simp] theorem onQuad_tr (s : State) (a : Nat) (f : Quad → Quad) : (s.onQuad a f).tr = s.tr := rfl
@[simp] theorem onQuad_faults (s : State) (a : Nat) (f : Quad → Quad) : (s.onQuad a f).faults = s.faults := rfl
@[simp] theorem onQuad_ctlb (s : State) (a : Nat) (f : Quad → Quad) : (s.onQuad a f).ctlb = s.ctlb := rfl
@[simp] theorem onQuad_cxl (s : State) (a : Nat) (f : Quad → Quad) : (s.onQuad a f).cxl = s.cxl := rfl
@[simp] theorem onQuad_peerWin (s : State) (a : Nat) (f : Quad → Quad) : (s.onQuad a f).peerWin = s.peerWin := rfl
@[simp] theorem onQuad_migSlots (s : State) (a : Nat) (f : Quad → Quad) : (s.onQuad a f).migSlots = s.migSlots := rfl
@[simp] theorem onQuad_migs (s : State) (a : Nat) (f : Quad → Quad) : (s.onQuad a f).migs = s.migs := rfl
@[simp] theorem onQuad_migDone (s : State) (a : Nat) (f : Quad → Quad) : (s.onQuad a f).migDone = s.migDone := rfl
@[simp] theorem onQuad_units (s : State) (a : Nat) (f : Quad → Quad) : (s.onQuad a f).units = s.units := rfl
@[simp] theorem onQuad_eutas (s : State) (a : Nat) (f : Quad → Quad) : (s.onQuad a f).eutas = s.eutas := rfl
@[simp] theorem onQuad_cloads (s : State) (a : Nat) (f : Quad → Quad) : (s.onQuad a f).cloads = s.cloads := rfl
@[simp] theorem onQuad_packets (s : State) (a : Nat) (f : Quad → Quad) : (s.onQuad a f).packets = s.packets := rfl
@[simp] theorem onQuad_nextPacket (s : State) (a : Nat) (f : Quad → Quad) : (s.onQuad a f).nextPacket = s.nextPacket := rfl
@[simp] theorem onQuad_kiln (s : State) (a : Nat) (f : Quad → Quad) : (s.onQuad a f).kiln = s.kiln := rfl
@[simp] theorem onQuad_kilnAir (s : State) (a : Nat) (f : Quad → Quad) : (s.onQuad a f).kilnAir = s.kilnAir := rfl
@[simp] theorem onQuad_nextChild (s : State) (a : Nat) (f : Quad → Quad) : (s.onQuad a f).nextChild = s.nextChild := rfl
@[simp] theorem onQuad_sick (s : State) (a : Nat) (f : Quad → Quad) : (s.onQuad a f).sick = s.sick := rfl
@[simp] theorem onQuad_fenced (s : State) (a : Nat) (f : Quad → Quad) : (s.onQuad a f).fenced = s.fenced := rfl
@[simp] theorem onQuad_sparing (s : State) (a : Nat) (f : Quad → Quad) : (s.onQuad a f).sparing = s.sparing := rfl
@[simp] theorem onQuad_failed (s : State) (a : Nat) (f : Quad → Quad) : (s.onQuad a f).failed = s.failed := rfl
@[simp] theorem onQuad_hbmCorr (s : State) (a : Nat) (f : Quad → Quad) : (s.onQuad a f).hbmCorr = s.hbmCorr := rfl
@[simp] theorem onQuad_laneReplays (s : State) (a : Nat) (f : Quad → Quad) : (s.onQuad a f).laneReplays = s.laneReplays := rfl
@[simp] theorem onQuad_spared (s : State) (a : Nat) (f : Quad → Quad) : (s.onQuad a f).spared = s.spared := rfl
@[simp] theorem onQuad_retrain (s : State) (a : Nat) (f : Quad → Quad) : (s.onQuad a f).retrain = s.retrain := rfl
@[simp] theorem onQuad_pwrcap (s : State) (a : Nat) (f : Quad → Quad) : (s.onQuad a f).pwrcap = s.pwrcap := rfl
@[simp] theorem onQuad_overCap (s : State) (a : Nat) (f : Quad → Quad) : (s.onQuad a f).overCap = s.overCap := rfl
@[simp] theorem onQuad_capAt (s : State) (a : Nat) (f : Quad → Quad) : (s.onQuad a f).capAt = s.capAt := rfl
@[simp] theorem onQuad_draw (s : State) (a : Nat) (f : Quad → Quad) : (s.onQuad a f).draw = s.draw := rfl
@[simp] theorem onQuad_capped (s : State) (a : Nat) (f : Quad → Quad) : (s.onQuad a f).capped = s.capped := rfl
@[simp] theorem onQuad_boot (s : State) (a : Nat) (f : Quad → Quad) : (s.onQuad a f).boot = s.boot := rfl
@[simp] theorem onQuad_sch (s : State) (a : Nat) (f : Quad → Quad) : (s.onQuad a f).sch = s.sch := rfl
@[simp] theorem onQuad_staging (s : State) (a : Nat) (f : Quad → Quad) : (s.onQuad a f).staging = s.staging := rfl
@[simp] theorem onQuad_condemned (s : State) (a : Nat) (f : Quad → Quad) : (s.onQuad a f).condemned = s.condemned := rfl
@[simp] theorem onQuad_lostQuads (s : State) (a : Nat) (f : Quad → Quad) : (s.onQuad a f).lostQuads = s.lostQuads := rfl
@[simp] theorem onQuad_draining (s : State) (a : Nat) (f : Quad → Quad) : (s.onQuad a f).draining = s.draining := rfl
@[simp] theorem onQuad_dieRecs (s : State) (a : Nat) (f : Quad → Quad) : (s.onQuad a f).dieRecs = s.dieRecs := rfl
@[simp] theorem onQuad_retrained (s : State) (a : Nat) (f : Quad → Quad) : (s.onQuad a f).retrained = s.retrained := rfl
@[simp] theorem onQuad_halfWidth (s : State) (a : Nat) (f : Quad → Quad) : (s.onQuad a f).halfWidth = s.halfWidth := rfl
@[simp] theorem onQuad_halved (s : State) (a : Nat) (f : Quad → Quad) : (s.onQuad a f).halved = s.halved := rfl
@[simp] theorem onQuad_hostQ (s : State) (a : Nat) (f : Quad → Quad) : (s.onQuad a f).hostQ = s.hostQ := rfl
@[simp] theorem onQuad_capHeld (s : State) (a : Nat) (f : Quad → Quad) : (s.onQuad a f).capHeld = s.capHeld := rfl
@[simp] theorem onQuad_ev (s : State) (a : Nat) (f : Quad → Quad) : (s.onQuad a f).ev = s.ev := rfl
@[simp] theorem onQuad_cur (s : State) (a : Nat) (f : Quad → Quad) : (s.onQuad a f).cur = s.cur := rfl
@[simp] theorem onQuad_turn (s : State) (a : Nat) (f : Quad → Quad) : (s.onQuad a f).turn = s.turn := rfl
@[simp] theorem onQuad_capUntil (s : State) (a : Nat) (f : Quad → Quad) : (s.onQuad a f).capUntil = s.capUntil := rfl
@[simp] theorem onQuad_agenda (s : State) (a : Nat) (f : Quad → Quad) : (s.onQuad a f).agenda = s.agenda := rfl
@[simp] theorem onQuad_free (s : State) (a : Nat) (f : Quad → Quad) : (s.onQuad a f).free = s.free := rfl

@[simp] theorem sched_tick (s : State) (lo : Nat) (span : Option Nat) (i : Instr) (e : EvArg) : (s.sched lo span i e).tick = s.tick := rfl
@[simp] theorem sched_tiles (s : State) (lo : Nat) (span : Option Nat) (i : Instr) (e : EvArg) : (s.sched lo span i e).tiles = s.tiles := rfl
@[simp] theorem sched_quads (s : State) (lo : Nat) (span : Option Nat) (i : Instr) (e : EvArg) : (s.sched lo span i e).quads = s.quads := rfl
@[simp] theorem sched_mem (s : State) (lo : Nat) (span : Option Nat) (i : Instr) (e : EvArg) : (s.sched lo span i e).mem = s.mem := rfl
@[simp] theorem sched_cnt (s : State) (lo : Nat) (span : Option Nat) (i : Instr) (e : EvArg) : (s.sched lo span i e).cnt = s.cnt := rfl
@[simp] theorem sched_qerr (s : State) (lo : Nat) (span : Option Nat) (i : Instr) (e : EvArg) : (s.sched lo span i e).qerr = s.qerr := rfl
@[simp] theorem sched_err (s : State) (lo : Nat) (span : Option Nat) (i : Instr) (e : EvArg) : (s.sched lo span i e).err = s.err := rfl
@[simp] theorem sched_outbox (s : State) (lo : Nat) (span : Option Nat) (i : Instr) (e : EvArg) : (s.sched lo span i e).outbox = s.outbox := rfl
@[simp] theorem sched_debugOn (s : State) (lo : Nat) (span : Option Nat) (i : Instr) (e : EvArg) : (s.sched lo span i e).debugOn = s.debugOn := rfl
@[simp] theorem sched_shifts (s : State) (lo : Nat) (span : Option Nat) (i : Instr) (e : EvArg) : (s.sched lo span i e).shifts = s.shifts := rfl
@[simp] theorem sched_badMem (s : State) (lo : Nat) (span : Option Nat) (i : Instr) (e : EvArg) : (s.sched lo span i e).badMem = s.badMem := rfl
@[simp] theorem sched_tr (s : State) (lo : Nat) (span : Option Nat) (i : Instr) (e : EvArg) : (s.sched lo span i e).tr = s.tr := rfl
@[simp] theorem sched_faults (s : State) (lo : Nat) (span : Option Nat) (i : Instr) (e : EvArg) : (s.sched lo span i e).faults = s.faults := rfl
@[simp] theorem sched_ctlb (s : State) (lo : Nat) (span : Option Nat) (i : Instr) (e : EvArg) : (s.sched lo span i e).ctlb = s.ctlb := rfl
@[simp] theorem sched_cxl (s : State) (lo : Nat) (span : Option Nat) (i : Instr) (e : EvArg) : (s.sched lo span i e).cxl = s.cxl := rfl
@[simp] theorem sched_peerWin (s : State) (lo : Nat) (span : Option Nat) (i : Instr) (e : EvArg) : (s.sched lo span i e).peerWin = s.peerWin := rfl
@[simp] theorem sched_migSlots (s : State) (lo : Nat) (span : Option Nat) (i : Instr) (e : EvArg) : (s.sched lo span i e).migSlots = s.migSlots := rfl
@[simp] theorem sched_migs (s : State) (lo : Nat) (span : Option Nat) (i : Instr) (e : EvArg) : (s.sched lo span i e).migs = s.migs := rfl
@[simp] theorem sched_migDone (s : State) (lo : Nat) (span : Option Nat) (i : Instr) (e : EvArg) : (s.sched lo span i e).migDone = s.migDone := rfl
@[simp] theorem sched_units (s : State) (lo : Nat) (span : Option Nat) (i : Instr) (e : EvArg) : (s.sched lo span i e).units = s.units := rfl
@[simp] theorem sched_eutas (s : State) (lo : Nat) (span : Option Nat) (i : Instr) (e : EvArg) : (s.sched lo span i e).eutas = s.eutas := rfl
@[simp] theorem sched_cloads (s : State) (lo : Nat) (span : Option Nat) (i : Instr) (e : EvArg) : (s.sched lo span i e).cloads = s.cloads := rfl
@[simp] theorem sched_packets (s : State) (lo : Nat) (span : Option Nat) (i : Instr) (e : EvArg) : (s.sched lo span i e).packets = s.packets := rfl
@[simp] theorem sched_nextPacket (s : State) (lo : Nat) (span : Option Nat) (i : Instr) (e : EvArg) : (s.sched lo span i e).nextPacket = s.nextPacket := rfl
@[simp] theorem sched_kiln (s : State) (lo : Nat) (span : Option Nat) (i : Instr) (e : EvArg) : (s.sched lo span i e).kiln = s.kiln := rfl
@[simp] theorem sched_kilnAir (s : State) (lo : Nat) (span : Option Nat) (i : Instr) (e : EvArg) : (s.sched lo span i e).kilnAir = s.kilnAir := rfl
@[simp] theorem sched_nextChild (s : State) (lo : Nat) (span : Option Nat) (i : Instr) (e : EvArg) : (s.sched lo span i e).nextChild = s.nextChild := rfl
@[simp] theorem sched_sick (s : State) (lo : Nat) (span : Option Nat) (i : Instr) (e : EvArg) : (s.sched lo span i e).sick = s.sick := rfl
@[simp] theorem sched_fenced (s : State) (lo : Nat) (span : Option Nat) (i : Instr) (e : EvArg) : (s.sched lo span i e).fenced = s.fenced := rfl
@[simp] theorem sched_sparing (s : State) (lo : Nat) (span : Option Nat) (i : Instr) (e : EvArg) : (s.sched lo span i e).sparing = s.sparing := rfl
@[simp] theorem sched_failed (s : State) (lo : Nat) (span : Option Nat) (i : Instr) (e : EvArg) : (s.sched lo span i e).failed = s.failed := rfl
@[simp] theorem sched_hbmCorr (s : State) (lo : Nat) (span : Option Nat) (i : Instr) (e : EvArg) : (s.sched lo span i e).hbmCorr = s.hbmCorr := rfl
@[simp] theorem sched_laneReplays (s : State) (lo : Nat) (span : Option Nat) (i : Instr) (e : EvArg) : (s.sched lo span i e).laneReplays = s.laneReplays := rfl
@[simp] theorem sched_spared (s : State) (lo : Nat) (span : Option Nat) (i : Instr) (e : EvArg) : (s.sched lo span i e).spared = s.spared := rfl
@[simp] theorem sched_retrain (s : State) (lo : Nat) (span : Option Nat) (i : Instr) (e : EvArg) : (s.sched lo span i e).retrain = s.retrain := rfl
@[simp] theorem sched_pwrcap (s : State) (lo : Nat) (span : Option Nat) (i : Instr) (e : EvArg) : (s.sched lo span i e).pwrcap = s.pwrcap := rfl
@[simp] theorem sched_overCap (s : State) (lo : Nat) (span : Option Nat) (i : Instr) (e : EvArg) : (s.sched lo span i e).overCap = s.overCap := rfl
@[simp] theorem sched_capAt (s : State) (lo : Nat) (span : Option Nat) (i : Instr) (e : EvArg) : (s.sched lo span i e).capAt = s.capAt := rfl
@[simp] theorem sched_draw (s : State) (lo : Nat) (span : Option Nat) (i : Instr) (e : EvArg) : (s.sched lo span i e).draw = s.draw := rfl
@[simp] theorem sched_capped (s : State) (lo : Nat) (span : Option Nat) (i : Instr) (e : EvArg) : (s.sched lo span i e).capped = s.capped := rfl
@[simp] theorem sched_boot (s : State) (lo : Nat) (span : Option Nat) (i : Instr) (e : EvArg) : (s.sched lo span i e).boot = s.boot := rfl
@[simp] theorem sched_sch (s : State) (lo : Nat) (span : Option Nat) (i : Instr) (e : EvArg) : (s.sched lo span i e).sch = s.sch := rfl
@[simp] theorem sched_staging (s : State) (lo : Nat) (span : Option Nat) (i : Instr) (e : EvArg) : (s.sched lo span i e).staging = s.staging := rfl
@[simp] theorem sched_condemned (s : State) (lo : Nat) (span : Option Nat) (i : Instr) (e : EvArg) : (s.sched lo span i e).condemned = s.condemned := rfl
@[simp] theorem sched_lostQuads (s : State) (lo : Nat) (span : Option Nat) (i : Instr) (e : EvArg) : (s.sched lo span i e).lostQuads = s.lostQuads := rfl
@[simp] theorem sched_draining (s : State) (lo : Nat) (span : Option Nat) (i : Instr) (e : EvArg) : (s.sched lo span i e).draining = s.draining := rfl
@[simp] theorem sched_dieRecs (s : State) (lo : Nat) (span : Option Nat) (i : Instr) (e : EvArg) : (s.sched lo span i e).dieRecs = s.dieRecs := rfl
@[simp] theorem sched_retrained (s : State) (lo : Nat) (span : Option Nat) (i : Instr) (e : EvArg) : (s.sched lo span i e).retrained = s.retrained := rfl
@[simp] theorem sched_halfWidth (s : State) (lo : Nat) (span : Option Nat) (i : Instr) (e : EvArg) : (s.sched lo span i e).halfWidth = s.halfWidth := rfl
@[simp] theorem sched_halved (s : State) (lo : Nat) (span : Option Nat) (i : Instr) (e : EvArg) : (s.sched lo span i e).halved = s.halved := rfl
@[simp] theorem sched_hostQ (s : State) (lo : Nat) (span : Option Nat) (i : Instr) (e : EvArg) : (s.sched lo span i e).hostQ = s.hostQ := rfl
@[simp] theorem sched_capHeld (s : State) (lo : Nat) (span : Option Nat) (i : Instr) (e : EvArg) : (s.sched lo span i e).capHeld = s.capHeld := rfl
@[simp] theorem sched_ev (s : State) (lo : Nat) (span : Option Nat) (i : Instr) (e : EvArg) : (s.sched lo span i e).ev = s.ev := rfl
@[simp] theorem sched_cur (s : State) (lo : Nat) (span : Option Nat) (i : Instr) (e : EvArg) : (s.sched lo span i e).cur = s.cur := rfl
@[simp] theorem sched_turn (s : State) (lo : Nat) (span : Option Nat) (i : Instr) (e : EvArg) : (s.sched lo span i e).turn = s.turn := rfl
@[simp] theorem sched_capUntil (s : State) (lo : Nat) (span : Option Nat) (i : Instr) (e : EvArg) : (s.sched lo span i e).capUntil = s.capUntil := rfl

@[simp] theorem countErr_tick (s : State) (a : Nat) (f : QuadErr → QuadErr) : (s.countErr a f).tick = s.tick := rfl
@[simp] theorem countErr_tiles (s : State) (a : Nat) (f : QuadErr → QuadErr) : (s.countErr a f).tiles = s.tiles := rfl
@[simp] theorem countErr_quads (s : State) (a : Nat) (f : QuadErr → QuadErr) : (s.countErr a f).quads = s.quads := rfl
@[simp] theorem countErr_mem (s : State) (a : Nat) (f : QuadErr → QuadErr) : (s.countErr a f).mem = s.mem := rfl
@[simp] theorem countErr_cnt (s : State) (a : Nat) (f : QuadErr → QuadErr) : (s.countErr a f).cnt = s.cnt := rfl
@[simp] theorem countErr_err (s : State) (a : Nat) (f : QuadErr → QuadErr) : (s.countErr a f).err = s.err := rfl
@[simp] theorem countErr_outbox (s : State) (a : Nat) (f : QuadErr → QuadErr) : (s.countErr a f).outbox = s.outbox := rfl
@[simp] theorem countErr_debugOn (s : State) (a : Nat) (f : QuadErr → QuadErr) : (s.countErr a f).debugOn = s.debugOn := rfl
@[simp] theorem countErr_shifts (s : State) (a : Nat) (f : QuadErr → QuadErr) : (s.countErr a f).shifts = s.shifts := rfl
@[simp] theorem countErr_badMem (s : State) (a : Nat) (f : QuadErr → QuadErr) : (s.countErr a f).badMem = s.badMem := rfl
@[simp] theorem countErr_tr (s : State) (a : Nat) (f : QuadErr → QuadErr) : (s.countErr a f).tr = s.tr := rfl
@[simp] theorem countErr_faults (s : State) (a : Nat) (f : QuadErr → QuadErr) : (s.countErr a f).faults = s.faults := rfl
@[simp] theorem countErr_ctlb (s : State) (a : Nat) (f : QuadErr → QuadErr) : (s.countErr a f).ctlb = s.ctlb := rfl
@[simp] theorem countErr_cxl (s : State) (a : Nat) (f : QuadErr → QuadErr) : (s.countErr a f).cxl = s.cxl := rfl
@[simp] theorem countErr_peerWin (s : State) (a : Nat) (f : QuadErr → QuadErr) : (s.countErr a f).peerWin = s.peerWin := rfl
@[simp] theorem countErr_migSlots (s : State) (a : Nat) (f : QuadErr → QuadErr) : (s.countErr a f).migSlots = s.migSlots := rfl
@[simp] theorem countErr_migs (s : State) (a : Nat) (f : QuadErr → QuadErr) : (s.countErr a f).migs = s.migs := rfl
@[simp] theorem countErr_migDone (s : State) (a : Nat) (f : QuadErr → QuadErr) : (s.countErr a f).migDone = s.migDone := rfl
@[simp] theorem countErr_units (s : State) (a : Nat) (f : QuadErr → QuadErr) : (s.countErr a f).units = s.units := rfl
@[simp] theorem countErr_eutas (s : State) (a : Nat) (f : QuadErr → QuadErr) : (s.countErr a f).eutas = s.eutas := rfl
@[simp] theorem countErr_cloads (s : State) (a : Nat) (f : QuadErr → QuadErr) : (s.countErr a f).cloads = s.cloads := rfl
@[simp] theorem countErr_packets (s : State) (a : Nat) (f : QuadErr → QuadErr) : (s.countErr a f).packets = s.packets := rfl
@[simp] theorem countErr_nextPacket (s : State) (a : Nat) (f : QuadErr → QuadErr) : (s.countErr a f).nextPacket = s.nextPacket := rfl
@[simp] theorem countErr_kiln (s : State) (a : Nat) (f : QuadErr → QuadErr) : (s.countErr a f).kiln = s.kiln := rfl
@[simp] theorem countErr_kilnAir (s : State) (a : Nat) (f : QuadErr → QuadErr) : (s.countErr a f).kilnAir = s.kilnAir := rfl
@[simp] theorem countErr_nextChild (s : State) (a : Nat) (f : QuadErr → QuadErr) : (s.countErr a f).nextChild = s.nextChild := rfl
@[simp] theorem countErr_sick (s : State) (a : Nat) (f : QuadErr → QuadErr) : (s.countErr a f).sick = s.sick := rfl
@[simp] theorem countErr_fenced (s : State) (a : Nat) (f : QuadErr → QuadErr) : (s.countErr a f).fenced = s.fenced := rfl
@[simp] theorem countErr_sparing (s : State) (a : Nat) (f : QuadErr → QuadErr) : (s.countErr a f).sparing = s.sparing := rfl
@[simp] theorem countErr_failed (s : State) (a : Nat) (f : QuadErr → QuadErr) : (s.countErr a f).failed = s.failed := rfl
@[simp] theorem countErr_hbmCorr (s : State) (a : Nat) (f : QuadErr → QuadErr) : (s.countErr a f).hbmCorr = s.hbmCorr := rfl
@[simp] theorem countErr_laneReplays (s : State) (a : Nat) (f : QuadErr → QuadErr) : (s.countErr a f).laneReplays = s.laneReplays := rfl
@[simp] theorem countErr_spared (s : State) (a : Nat) (f : QuadErr → QuadErr) : (s.countErr a f).spared = s.spared := rfl
@[simp] theorem countErr_retrain (s : State) (a : Nat) (f : QuadErr → QuadErr) : (s.countErr a f).retrain = s.retrain := rfl
@[simp] theorem countErr_pwrcap (s : State) (a : Nat) (f : QuadErr → QuadErr) : (s.countErr a f).pwrcap = s.pwrcap := rfl
@[simp] theorem countErr_overCap (s : State) (a : Nat) (f : QuadErr → QuadErr) : (s.countErr a f).overCap = s.overCap := rfl
@[simp] theorem countErr_capAt (s : State) (a : Nat) (f : QuadErr → QuadErr) : (s.countErr a f).capAt = s.capAt := rfl
@[simp] theorem countErr_draw (s : State) (a : Nat) (f : QuadErr → QuadErr) : (s.countErr a f).draw = s.draw := rfl
@[simp] theorem countErr_capped (s : State) (a : Nat) (f : QuadErr → QuadErr) : (s.countErr a f).capped = s.capped := rfl
@[simp] theorem countErr_boot (s : State) (a : Nat) (f : QuadErr → QuadErr) : (s.countErr a f).boot = s.boot := rfl
@[simp] theorem countErr_sch (s : State) (a : Nat) (f : QuadErr → QuadErr) : (s.countErr a f).sch = s.sch := rfl
@[simp] theorem countErr_staging (s : State) (a : Nat) (f : QuadErr → QuadErr) : (s.countErr a f).staging = s.staging := rfl
@[simp] theorem countErr_condemned (s : State) (a : Nat) (f : QuadErr → QuadErr) : (s.countErr a f).condemned = s.condemned := rfl
@[simp] theorem countErr_lostQuads (s : State) (a : Nat) (f : QuadErr → QuadErr) : (s.countErr a f).lostQuads = s.lostQuads := rfl
@[simp] theorem countErr_draining (s : State) (a : Nat) (f : QuadErr → QuadErr) : (s.countErr a f).draining = s.draining := rfl
@[simp] theorem countErr_dieRecs (s : State) (a : Nat) (f : QuadErr → QuadErr) : (s.countErr a f).dieRecs = s.dieRecs := rfl
@[simp] theorem countErr_retrained (s : State) (a : Nat) (f : QuadErr → QuadErr) : (s.countErr a f).retrained = s.retrained := rfl
@[simp] theorem countErr_halfWidth (s : State) (a : Nat) (f : QuadErr → QuadErr) : (s.countErr a f).halfWidth = s.halfWidth := rfl
@[simp] theorem countErr_halved (s : State) (a : Nat) (f : QuadErr → QuadErr) : (s.countErr a f).halved = s.halved := rfl
@[simp] theorem countErr_hostQ (s : State) (a : Nat) (f : QuadErr → QuadErr) : (s.countErr a f).hostQ = s.hostQ := rfl
@[simp] theorem countErr_capHeld (s : State) (a : Nat) (f : QuadErr → QuadErr) : (s.countErr a f).capHeld = s.capHeld := rfl
@[simp] theorem countErr_ev (s : State) (a : Nat) (f : QuadErr → QuadErr) : (s.countErr a f).ev = s.ev := rfl
@[simp] theorem countErr_cur (s : State) (a : Nat) (f : QuadErr → QuadErr) : (s.countErr a f).cur = s.cur := rfl
@[simp] theorem countErr_turn (s : State) (a : Nat) (f : QuadErr → QuadErr) : (s.countErr a f).turn = s.turn := rfl
@[simp] theorem countErr_capUntil (s : State) (a : Nat) (f : QuadErr → QuadErr) : (s.countErr a f).capUntil = s.capUntil := rfl
@[simp] theorem countErr_agenda (s : State) (a : Nat) (f : QuadErr → QuadErr) : (s.countErr a f).agenda = s.agenda := rfl
@[simp] theorem countErr_free (s : State) (a : Nat) (f : QuadErr → QuadErr) : (s.countErr a f).free = s.free := rfl

/-! ## Updates of a tile -/

@[simp] theorem setBank_addr (t : Tile) (k : BitVec 2) (b : Strand) : (t.setBank k b).addr = t.addr := rfl
@[simp] theorem setBank_launch (t : Tile) (k : BitVec 2) (b : Strand) : (t.setBank k b).launch = t.launch := rfl
@[simp] theorem setBank_role (t : Tile) (k : BitVec 2) (b : Strand) : (t.setBank k b).role = t.role := rfl
@[simp] theorem setBank_tasked (t : Tile) (k : BitVec 2) (b : Strand) : (t.setBank k b).tasked = t.tasked := rfl
@[simp] theorem setBank_asid (t : Tile) (k : BitVec 2) (b : Strand) : (t.setBank k b).asid = t.asid := rfl
@[simp] theorem setBank_lastAsid (t : Tile) (k : BitVec 2) (b : Strand) : (t.setBank k b).lastAsid = t.lastAsid := rfl
@[simp] theorem setBank_codeStart (t : Tile) (k : BitVec 2) (b : Strand) : (t.setBank k b).codeStart = t.codeStart := rfl
@[simp] theorem setBank_codeLen (t : Tile) (k : BitVec 2) (b : Strand) : (t.setBank k b).codeLen = t.codeLen := rfl
@[simp] theorem setBank_tid (t : Tile) (k : BitVec 2) (b : Strand) : (t.setBank k b).tid = t.tid := rfl
@[simp] theorem setBank_dom (t : Tile) (k : BitVec 2) (b : Strand) : (t.setBank k b).dom = t.dom := rfl
@[simp] theorem setBank_run (t : Tile) (k : BitVec 2) (b : Strand) : (t.setBank k b).run = t.run := rfl
@[simp] theorem setBank_mode (t : Tile) (k : BitVec 2) (b : Strand) : (t.setBank k b).mode = t.mode := rfl
@[simp] theorem setBank_lock (t : Tile) (k : BitVec 2) (b : Strand) : (t.setBank k b).lock = t.lock := rfl
@[simp] theorem setBank_sleepd (t : Tile) (k : BitVec 2) (b : Strand) : (t.setBank k b).sleepd = t.sleepd := rfl
@[simp] theorem setBank_asleep (t : Tile) (k : BitVec 2) (b : Strand) : (t.setBank k b).asleep = t.asleep := rfl
@[simp] theorem setBank_stalled (t : Tile) (k : BitVec 2) (b : Strand) : (t.setBank k b).stalled = t.stalled := rfl
@[simp] theorem setBank_stallFrom (t : Tile) (k : BitVec 2) (b : Strand) : (t.setBank k b).stallFrom = t.stallFrom := rfl
@[simp] theorem setBank_ready (t : Tile) (k : BitVec 2) (b : Strand) : (t.setBank k b).ready = t.ready := rfl
@[simp] theorem setBank_queue (t : Tile) (k : BitVec 2) (b : Strand) : (t.setBank k b).queue = t.queue := rfl
@[simp] theorem setBank_nextOp (t : Tile) (k : BitVec 2) (b : Strand) : (t.setBank k b).nextOp = t.nextOp := rfl
@[simp] theorem setBank_tags (t : Tile) (k : BitVec 2) (b : Strand) : (t.setBank k b).tags = t.tags := rfl
@[simp] theorem setBank_tagStop (t : Tile) (k : BitVec 2) (b : Strand) : (t.setBank k b).tagStop = t.tagStop := rfl
@[simp] theorem setBank_rings (t : Tile) (k : BitVec 2) (b : Strand) : (t.setBank k b).rings = t.rings := rfl
@[simp] theorem setBank_patterns (t : Tile) (k : BitVec 2) (b : Strand) : (t.setBank k b).patterns = t.patterns := rfl
@[simp] theorem setBank_cursors (t : Tile) (k : BitVec 2) (b : Strand) : (t.setBank k b).cursors = t.cursors := rfl
@[simp] theorem setBank_acc (t : Tile) (k : BitVec 2) (b : Strand) : (t.setBank k b).acc = t.acc := rfl
@[simp] theorem setBank_mxq (t : Tile) (k : BitVec 2) (b : Strand) : (t.setBank k b).mxq = t.mxq := rfl
@[simp] theorem setBank_zones (t : Tile) (k : BitVec 2) (b : Strand) : (t.setBank k b).zones = t.zones := rfl
@[simp] theorem setBank_timetables (t : Tile) (k : BitVec 2) (b : Strand) : (t.setBank k b).timetables = t.timetables := rfl
@[simp] theorem setBank_armed (t : Tile) (k : BitVec 2) (b : Strand) : (t.setBank k b).armed = t.armed := rfl
@[simp] theorem setBank_window (t : Tile) (k : BitVec 2) (b : Strand) : (t.setBank k b).window = t.window := rfl
@[simp] theorem setBank_kslots (t : Tile) (k : BitVec 2) (b : Strand) : (t.setBank k b).kslots = t.kslots := rfl
@[simp] theorem setBank_kgens (t : Tile) (k : BitVec 2) (b : Strand) : (t.setBank k b).kgens = t.kgens := rfl
@[simp] theorem setBank_knotices (t : Tile) (k : BitVec 2) (b : Strand) : (t.setBank k b).knotices = t.knotices := rfl
@[simp] theorem setBank_knBy (t : Tile) (k : BitVec 2) (b : Strand) : (t.setBank k b).knBy = t.knBy := rfl
@[simp] theorem setBank_tasks (t : Tile) (k : BitVec 2) (b : Strand) : (t.setBank k b).tasks = t.tasks := rfl
@[simp] theorem setBank_sram (t : Tile) (k : BitVec 2) (b : Strand) : (t.setBank k b).sram = t.sram := rfl
@[simp] theorem setBank_bad (t : Tile) (k : BitVec 2) (b : Strand) : (t.setBank k b).bad = t.bad := rfl
@[simp] theorem setBank_soft (t : Tile) (k : BitVec 2) (b : Strand) : (t.setBank k b).soft = t.soft := rfl
@[simp] theorem setBank_unspec (t : Tile) (k : BitVec 2) (b : Strand) : (t.setBank k b).unspec = t.unspec := rfl
@[simp] theorem setBank_scrub (t : Tile) (k : BitVec 2) (b : Strand) : (t.setBank k b).scrub = t.scrub := rfl
@[simp] theorem setBank_scrubDue (t : Tile) (k : BitVec 2) (b : Strand) : (t.setBank k b).scrubDue = t.scrubDue := rfl
@[simp] theorem setBank_utlb (t : Tile) (k : BitVec 2) (b : Strand) : (t.setBank k b).utlb = t.utlb := rfl
@[simp] theorem setBank_digest (t : Tile) (k : BitVec 2) (b : Strand) : (t.setBank k b).digest = t.digest := rfl
@[simp] theorem setBank_records (t : Tile) (k : BitVec 2) (b : Strand) : (t.setBank k b).records = t.records := rfl
@[simp] theorem setBank_dgbuf (t : Tile) (k : BitVec 2) (b : Strand) : (t.setBank k b).dgbuf = t.dgbuf := rfl
@[simp] theorem setBank_sel (t : Tile) (k : BitVec 2) (b : Strand) : (t.setBank k b).sel = t.sel := rfl
@[simp] theorem setBank_stmr (t : Tile) (k : BitVec 2) (b : Strand) : (t.setBank k b).stmr = t.stmr := rfl
@[simp] theorem setBank_supOp (t : Tile) (k : BitVec 2) (b : Strand) : (t.setBank k b).supOp = t.supOp := rfl
@[simp] theorem setBank_natAt (t : Tile) (k : BitVec 2) (b : Strand) : (t.setBank k b).natAt = t.natAt := rfl
@[simp] theorem setBank_supReady (t : Tile) (k : BitVec 2) (b : Strand) : (t.setBank k b).supReady = t.supReady := rfl
@[simp] theorem setBank_pend (t : Tile) (k : BitVec 2) (b : Strand) : (t.setBank k b).pend = t.pend := rfl
@[simp] theorem setBank_errs (t : Tile) (k : BitVec 2) (b : Strand) : (t.setBank k b).errs = t.errs := rfl
@[simp] theorem setBank_badRegs (t : Tile) (k : BitVec 2) (b : Strand) : (t.setBank k b).badRegs = t.badRegs := rfl
@[simp] theorem setBank_softRegs (t : Tile) (k : BitVec 2) (b : Strand) : (t.setBank k b).softRegs = t.softRegs := rfl
@[simp] theorem setBank_mxUpset (t : Tile) (k : BitVec 2) (b : Strand) : (t.setBank k b).mxUpset = t.mxUpset := rfl
@[simp] theorem setBank_beatUpset (t : Tile) (k : BitVec 2) (b : Strand) : (t.setBank k b).beatUpset = t.beatUpset := rfl
@[simp] theorem setBank_refetch (t : Tile) (k : BitVec 2) (b : Strand) : (t.setBank k b).refetch = t.refetch := rfl
@[simp] theorem setBank_preReq (t : Tile) (k : BitVec 2) (b : Strand) : (t.setBank k b).preReq = t.preReq := rfl
@[simp] theorem setBank_prePeriod (t : Tile) (k : BitVec 2) (b : Strand) : (t.setBank k b).prePeriod = t.prePeriod := rfl
@[simp] theorem setBank_preHalted (t : Tile) (k : BitVec 2) (b : Strand) : (t.setBank k b).preHalted = t.preHalted := rfl
@[simp] theorem setBank_frozen (t : Tile) (k : BitVec 2) (b : Strand) : (t.setBank k b).frozen = t.frozen := rfl
@[simp] theorem setBank_debugHeld (t : Tile) (k : BitVec 2) (b : Strand) : (t.setBank k b).debugHeld = t.debugHeld := rfl
@[simp] theorem setBank_drained (t : Tile) (k : BitVec 2) (b : Strand) : (t.setBank k b).drained = t.drained := rfl
@[simp] theorem setBank_ended (t : Tile) (k : BitVec 2) (b : Strand) : (t.setBank k b).ended = t.ended := rfl
@[simp] theorem setBank_endSeen (t : Tile) (k : BitVec 2) (b : Strand) : (t.setBank k b).endSeen = t.endSeen := rfl
@[simp] theorem setBank_prevs (t : Tile) (k : BitVec 2) (b : Strand) : (t.setBank k b).prevs = t.prevs := rfl
@[simp] theorem setBank_heldRun (t : Tile) (k : BitVec 2) (b : Strand) : (t.setBank k b).heldRun = t.heldRun := rfl
@[simp] theorem setBank_gangWait (t : Tile) (k : BitVec 2) (b : Strand) : (t.setBank k b).gangWait = t.gangWait := rfl
@[simp] theorem setBank_gangGo (t : Tile) (k : BitVec 2) (b : Strand) : (t.setBank k b).gangGo = t.gangGo := rfl
@[simp] theorem setBank_gangTrap (t : Tile) (k : BitVec 2) (b : Strand) : (t.setBank k b).gangTrap = t.gangTrap := rfl
@[simp] theorem setBank_gangHold (t : Tile) (k : BitVec 2) (b : Strand) : (t.setBank k b).gangHold = t.gangHold := rfl
@[simp] theorem setBank_gangSplit (t : Tile) (k : BitVec 2) (b : Strand) : (t.setBank k b).gangSplit = t.gangSplit := rfl
@[simp] theorem setBank_lis (t : Tile) (k : BitVec 2) (b : Strand) : (t.setBank k b).lis = t.lis := rfl
@[simp] theorem setBank_blen (t : Tile) (k : BitVec 2) (b : Strand) : (t.setBank k b).blen = t.blen := rfl
@[simp] theorem setBank_bus (t : Tile) (k : BitVec 2) (b : Strand) : (t.setBank k b).bus = t.bus := rfl

@[simp] theorem onBank_addr (t : Tile) (k : BitVec 2) (f : Strand → Strand) : (t.onBank k f).addr = t.addr := rfl
@[simp] theorem onBank_launch (t : Tile) (k : BitVec 2) (f : Strand → Strand) : (t.onBank k f).launch = t.launch := rfl
@[simp] theorem onBank_role (t : Tile) (k : BitVec 2) (f : Strand → Strand) : (t.onBank k f).role = t.role := rfl
@[simp] theorem onBank_tasked (t : Tile) (k : BitVec 2) (f : Strand → Strand) : (t.onBank k f).tasked = t.tasked := rfl
@[simp] theorem onBank_asid (t : Tile) (k : BitVec 2) (f : Strand → Strand) : (t.onBank k f).asid = t.asid := rfl
@[simp] theorem onBank_lastAsid (t : Tile) (k : BitVec 2) (f : Strand → Strand) : (t.onBank k f).lastAsid = t.lastAsid := rfl
@[simp] theorem onBank_codeStart (t : Tile) (k : BitVec 2) (f : Strand → Strand) : (t.onBank k f).codeStart = t.codeStart := rfl
@[simp] theorem onBank_codeLen (t : Tile) (k : BitVec 2) (f : Strand → Strand) : (t.onBank k f).codeLen = t.codeLen := rfl
@[simp] theorem onBank_tid (t : Tile) (k : BitVec 2) (f : Strand → Strand) : (t.onBank k f).tid = t.tid := rfl
@[simp] theorem onBank_dom (t : Tile) (k : BitVec 2) (f : Strand → Strand) : (t.onBank k f).dom = t.dom := rfl
@[simp] theorem onBank_run (t : Tile) (k : BitVec 2) (f : Strand → Strand) : (t.onBank k f).run = t.run := rfl
@[simp] theorem onBank_mode (t : Tile) (k : BitVec 2) (f : Strand → Strand) : (t.onBank k f).mode = t.mode := rfl
@[simp] theorem onBank_lock (t : Tile) (k : BitVec 2) (f : Strand → Strand) : (t.onBank k f).lock = t.lock := rfl
@[simp] theorem onBank_sleepd (t : Tile) (k : BitVec 2) (f : Strand → Strand) : (t.onBank k f).sleepd = t.sleepd := rfl
@[simp] theorem onBank_asleep (t : Tile) (k : BitVec 2) (f : Strand → Strand) : (t.onBank k f).asleep = t.asleep := rfl
@[simp] theorem onBank_stalled (t : Tile) (k : BitVec 2) (f : Strand → Strand) : (t.onBank k f).stalled = t.stalled := rfl
@[simp] theorem onBank_stallFrom (t : Tile) (k : BitVec 2) (f : Strand → Strand) : (t.onBank k f).stallFrom = t.stallFrom := rfl
@[simp] theorem onBank_ready (t : Tile) (k : BitVec 2) (f : Strand → Strand) : (t.onBank k f).ready = t.ready := rfl
@[simp] theorem onBank_queue (t : Tile) (k : BitVec 2) (f : Strand → Strand) : (t.onBank k f).queue = t.queue := rfl
@[simp] theorem onBank_nextOp (t : Tile) (k : BitVec 2) (f : Strand → Strand) : (t.onBank k f).nextOp = t.nextOp := rfl
@[simp] theorem onBank_tags (t : Tile) (k : BitVec 2) (f : Strand → Strand) : (t.onBank k f).tags = t.tags := rfl
@[simp] theorem onBank_tagStop (t : Tile) (k : BitVec 2) (f : Strand → Strand) : (t.onBank k f).tagStop = t.tagStop := rfl
@[simp] theorem onBank_rings (t : Tile) (k : BitVec 2) (f : Strand → Strand) : (t.onBank k f).rings = t.rings := rfl
@[simp] theorem onBank_patterns (t : Tile) (k : BitVec 2) (f : Strand → Strand) : (t.onBank k f).patterns = t.patterns := rfl
@[simp] theorem onBank_cursors (t : Tile) (k : BitVec 2) (f : Strand → Strand) : (t.onBank k f).cursors = t.cursors := rfl
@[simp] theorem onBank_acc (t : Tile) (k : BitVec 2) (f : Strand → Strand) : (t.onBank k f).acc = t.acc := rfl
@[simp] theorem onBank_mxq (t : Tile) (k : BitVec 2) (f : Strand → Strand) : (t.onBank k f).mxq = t.mxq := rfl
@[simp] theorem onBank_zones (t : Tile) (k : BitVec 2) (f : Strand → Strand) : (t.onBank k f).zones = t.zones := rfl
@[simp] theorem onBank_timetables (t : Tile) (k : BitVec 2) (f : Strand → Strand) : (t.onBank k f).timetables = t.timetables := rfl
@[simp] theorem onBank_armed (t : Tile) (k : BitVec 2) (f : Strand → Strand) : (t.onBank k f).armed = t.armed := rfl
@[simp] theorem onBank_window (t : Tile) (k : BitVec 2) (f : Strand → Strand) : (t.onBank k f).window = t.window := rfl
@[simp] theorem onBank_kslots (t : Tile) (k : BitVec 2) (f : Strand → Strand) : (t.onBank k f).kslots = t.kslots := rfl
@[simp] theorem onBank_kgens (t : Tile) (k : BitVec 2) (f : Strand → Strand) : (t.onBank k f).kgens = t.kgens := rfl
@[simp] theorem onBank_knotices (t : Tile) (k : BitVec 2) (f : Strand → Strand) : (t.onBank k f).knotices = t.knotices := rfl
@[simp] theorem onBank_knBy (t : Tile) (k : BitVec 2) (f : Strand → Strand) : (t.onBank k f).knBy = t.knBy := rfl
@[simp] theorem onBank_tasks (t : Tile) (k : BitVec 2) (f : Strand → Strand) : (t.onBank k f).tasks = t.tasks := rfl
@[simp] theorem onBank_sram (t : Tile) (k : BitVec 2) (f : Strand → Strand) : (t.onBank k f).sram = t.sram := rfl
@[simp] theorem onBank_bad (t : Tile) (k : BitVec 2) (f : Strand → Strand) : (t.onBank k f).bad = t.bad := rfl
@[simp] theorem onBank_soft (t : Tile) (k : BitVec 2) (f : Strand → Strand) : (t.onBank k f).soft = t.soft := rfl
@[simp] theorem onBank_unspec (t : Tile) (k : BitVec 2) (f : Strand → Strand) : (t.onBank k f).unspec = t.unspec := rfl
@[simp] theorem onBank_scrub (t : Tile) (k : BitVec 2) (f : Strand → Strand) : (t.onBank k f).scrub = t.scrub := rfl
@[simp] theorem onBank_scrubDue (t : Tile) (k : BitVec 2) (f : Strand → Strand) : (t.onBank k f).scrubDue = t.scrubDue := rfl
@[simp] theorem onBank_utlb (t : Tile) (k : BitVec 2) (f : Strand → Strand) : (t.onBank k f).utlb = t.utlb := rfl
@[simp] theorem onBank_digest (t : Tile) (k : BitVec 2) (f : Strand → Strand) : (t.onBank k f).digest = t.digest := rfl
@[simp] theorem onBank_records (t : Tile) (k : BitVec 2) (f : Strand → Strand) : (t.onBank k f).records = t.records := rfl
@[simp] theorem onBank_dgbuf (t : Tile) (k : BitVec 2) (f : Strand → Strand) : (t.onBank k f).dgbuf = t.dgbuf := rfl
@[simp] theorem onBank_sel (t : Tile) (k : BitVec 2) (f : Strand → Strand) : (t.onBank k f).sel = t.sel := rfl
@[simp] theorem onBank_stmr (t : Tile) (k : BitVec 2) (f : Strand → Strand) : (t.onBank k f).stmr = t.stmr := rfl
@[simp] theorem onBank_supOp (t : Tile) (k : BitVec 2) (f : Strand → Strand) : (t.onBank k f).supOp = t.supOp := rfl
@[simp] theorem onBank_natAt (t : Tile) (k : BitVec 2) (f : Strand → Strand) : (t.onBank k f).natAt = t.natAt := rfl
@[simp] theorem onBank_supReady (t : Tile) (k : BitVec 2) (f : Strand → Strand) : (t.onBank k f).supReady = t.supReady := rfl
@[simp] theorem onBank_pend (t : Tile) (k : BitVec 2) (f : Strand → Strand) : (t.onBank k f).pend = t.pend := rfl
@[simp] theorem onBank_errs (t : Tile) (k : BitVec 2) (f : Strand → Strand) : (t.onBank k f).errs = t.errs := rfl
@[simp] theorem onBank_badRegs (t : Tile) (k : BitVec 2) (f : Strand → Strand) : (t.onBank k f).badRegs = t.badRegs := rfl
@[simp] theorem onBank_softRegs (t : Tile) (k : BitVec 2) (f : Strand → Strand) : (t.onBank k f).softRegs = t.softRegs := rfl
@[simp] theorem onBank_mxUpset (t : Tile) (k : BitVec 2) (f : Strand → Strand) : (t.onBank k f).mxUpset = t.mxUpset := rfl
@[simp] theorem onBank_beatUpset (t : Tile) (k : BitVec 2) (f : Strand → Strand) : (t.onBank k f).beatUpset = t.beatUpset := rfl
@[simp] theorem onBank_refetch (t : Tile) (k : BitVec 2) (f : Strand → Strand) : (t.onBank k f).refetch = t.refetch := rfl
@[simp] theorem onBank_preReq (t : Tile) (k : BitVec 2) (f : Strand → Strand) : (t.onBank k f).preReq = t.preReq := rfl
@[simp] theorem onBank_prePeriod (t : Tile) (k : BitVec 2) (f : Strand → Strand) : (t.onBank k f).prePeriod = t.prePeriod := rfl
@[simp] theorem onBank_preHalted (t : Tile) (k : BitVec 2) (f : Strand → Strand) : (t.onBank k f).preHalted = t.preHalted := rfl
@[simp] theorem onBank_frozen (t : Tile) (k : BitVec 2) (f : Strand → Strand) : (t.onBank k f).frozen = t.frozen := rfl
@[simp] theorem onBank_debugHeld (t : Tile) (k : BitVec 2) (f : Strand → Strand) : (t.onBank k f).debugHeld = t.debugHeld := rfl
@[simp] theorem onBank_drained (t : Tile) (k : BitVec 2) (f : Strand → Strand) : (t.onBank k f).drained = t.drained := rfl
@[simp] theorem onBank_ended (t : Tile) (k : BitVec 2) (f : Strand → Strand) : (t.onBank k f).ended = t.ended := rfl
@[simp] theorem onBank_endSeen (t : Tile) (k : BitVec 2) (f : Strand → Strand) : (t.onBank k f).endSeen = t.endSeen := rfl
@[simp] theorem onBank_prevs (t : Tile) (k : BitVec 2) (f : Strand → Strand) : (t.onBank k f).prevs = t.prevs := rfl
@[simp] theorem onBank_heldRun (t : Tile) (k : BitVec 2) (f : Strand → Strand) : (t.onBank k f).heldRun = t.heldRun := rfl
@[simp] theorem onBank_gangWait (t : Tile) (k : BitVec 2) (f : Strand → Strand) : (t.onBank k f).gangWait = t.gangWait := rfl
@[simp] theorem onBank_gangGo (t : Tile) (k : BitVec 2) (f : Strand → Strand) : (t.onBank k f).gangGo = t.gangGo := rfl
@[simp] theorem onBank_gangTrap (t : Tile) (k : BitVec 2) (f : Strand → Strand) : (t.onBank k f).gangTrap = t.gangTrap := rfl
@[simp] theorem onBank_gangHold (t : Tile) (k : BitVec 2) (f : Strand → Strand) : (t.onBank k f).gangHold = t.gangHold := rfl
@[simp] theorem onBank_gangSplit (t : Tile) (k : BitVec 2) (f : Strand → Strand) : (t.onBank k f).gangSplit = t.gangSplit := rfl
@[simp] theorem onBank_lis (t : Tile) (k : BitVec 2) (f : Strand → Strand) : (t.onBank k f).lis = t.lis := rfl
@[simp] theorem onBank_blen (t : Tile) (k : BitVec 2) (f : Strand → Strand) : (t.onBank k f).blen = t.blen := rfl
@[simp] theorem onBank_bus (t : Tile) (k : BitVec 2) (f : Strand → Strand) : (t.onBank k f).bus = t.bus := rfl

@[simp] theorem addCause_addr (t : Tile) (p : Pending) : (t.addCause p).addr = t.addr := rfl
@[simp] theorem addCause_launch (t : Tile) (p : Pending) : (t.addCause p).launch = t.launch := rfl
@[simp] theorem addCause_role (t : Tile) (p : Pending) : (t.addCause p).role = t.role := rfl
@[simp] theorem addCause_tasked (t : Tile) (p : Pending) : (t.addCause p).tasked = t.tasked := rfl
@[simp] theorem addCause_asid (t : Tile) (p : Pending) : (t.addCause p).asid = t.asid := rfl
@[simp] theorem addCause_lastAsid (t : Tile) (p : Pending) : (t.addCause p).lastAsid = t.lastAsid := rfl
@[simp] theorem addCause_codeStart (t : Tile) (p : Pending) : (t.addCause p).codeStart = t.codeStart := rfl
@[simp] theorem addCause_codeLen (t : Tile) (p : Pending) : (t.addCause p).codeLen = t.codeLen := rfl
@[simp] theorem addCause_tid (t : Tile) (p : Pending) : (t.addCause p).tid = t.tid := rfl
@[simp] theorem addCause_dom (t : Tile) (p : Pending) : (t.addCause p).dom = t.dom := rfl
@[simp] theorem addCause_banks (t : Tile) (p : Pending) : (t.addCause p).banks = t.banks := rfl
@[simp] theorem addCause_run (t : Tile) (p : Pending) : (t.addCause p).run = t.run := rfl
@[simp] theorem addCause_mode (t : Tile) (p : Pending) : (t.addCause p).mode = t.mode := rfl
@[simp] theorem addCause_lock (t : Tile) (p : Pending) : (t.addCause p).lock = t.lock := rfl
@[simp] theorem addCause_sleepd (t : Tile) (p : Pending) : (t.addCause p).sleepd = t.sleepd := rfl
@[simp] theorem addCause_asleep (t : Tile) (p : Pending) : (t.addCause p).asleep = t.asleep := rfl
@[simp] theorem addCause_stalled (t : Tile) (p : Pending) : (t.addCause p).stalled = t.stalled := rfl
@[simp] theorem addCause_stallFrom (t : Tile) (p : Pending) : (t.addCause p).stallFrom = t.stallFrom := rfl
@[simp] theorem addCause_ready (t : Tile) (p : Pending) : (t.addCause p).ready = t.ready := rfl
@[simp] theorem addCause_queue (t : Tile) (p : Pending) : (t.addCause p).queue = t.queue := rfl
@[simp] theorem addCause_nextOp (t : Tile) (p : Pending) : (t.addCause p).nextOp = t.nextOp := rfl
@[simp] theorem addCause_tags (t : Tile) (p : Pending) : (t.addCause p).tags = t.tags := rfl
@[simp] theorem addCause_tagStop (t : Tile) (p : Pending) : (t.addCause p).tagStop = t.tagStop := rfl
@[simp] theorem addCause_rings (t : Tile) (p : Pending) : (t.addCause p).rings = t.rings := rfl
@[simp] theorem addCause_patterns (t : Tile) (p : Pending) : (t.addCause p).patterns = t.patterns := rfl
@[simp] theorem addCause_cursors (t : Tile) (p : Pending) : (t.addCause p).cursors = t.cursors := rfl
@[simp] theorem addCause_acc (t : Tile) (p : Pending) : (t.addCause p).acc = t.acc := rfl
@[simp] theorem addCause_mxq (t : Tile) (p : Pending) : (t.addCause p).mxq = t.mxq := rfl
@[simp] theorem addCause_zones (t : Tile) (p : Pending) : (t.addCause p).zones = t.zones := rfl
@[simp] theorem addCause_timetables (t : Tile) (p : Pending) : (t.addCause p).timetables = t.timetables := rfl
@[simp] theorem addCause_armed (t : Tile) (p : Pending) : (t.addCause p).armed = t.armed := rfl
@[simp] theorem addCause_window (t : Tile) (p : Pending) : (t.addCause p).window = t.window := rfl
@[simp] theorem addCause_kslots (t : Tile) (p : Pending) : (t.addCause p).kslots = t.kslots := rfl
@[simp] theorem addCause_kgens (t : Tile) (p : Pending) : (t.addCause p).kgens = t.kgens := rfl
@[simp] theorem addCause_knotices (t : Tile) (p : Pending) : (t.addCause p).knotices = t.knotices := rfl
@[simp] theorem addCause_knBy (t : Tile) (p : Pending) : (t.addCause p).knBy = t.knBy := rfl
@[simp] theorem addCause_tasks (t : Tile) (p : Pending) : (t.addCause p).tasks = t.tasks := rfl
@[simp] theorem addCause_sram (t : Tile) (p : Pending) : (t.addCause p).sram = t.sram := rfl
@[simp] theorem addCause_bad (t : Tile) (p : Pending) : (t.addCause p).bad = t.bad := rfl
@[simp] theorem addCause_soft (t : Tile) (p : Pending) : (t.addCause p).soft = t.soft := rfl
@[simp] theorem addCause_unspec (t : Tile) (p : Pending) : (t.addCause p).unspec = t.unspec := rfl
@[simp] theorem addCause_scrub (t : Tile) (p : Pending) : (t.addCause p).scrub = t.scrub := rfl
@[simp] theorem addCause_scrubDue (t : Tile) (p : Pending) : (t.addCause p).scrubDue = t.scrubDue := rfl
@[simp] theorem addCause_utlb (t : Tile) (p : Pending) : (t.addCause p).utlb = t.utlb := rfl
@[simp] theorem addCause_digest (t : Tile) (p : Pending) : (t.addCause p).digest = t.digest := rfl
@[simp] theorem addCause_records (t : Tile) (p : Pending) : (t.addCause p).records = t.records := rfl
@[simp] theorem addCause_dgbuf (t : Tile) (p : Pending) : (t.addCause p).dgbuf = t.dgbuf := rfl
@[simp] theorem addCause_sel (t : Tile) (p : Pending) : (t.addCause p).sel = t.sel := rfl
@[simp] theorem addCause_stmr (t : Tile) (p : Pending) : (t.addCause p).stmr = t.stmr := rfl
@[simp] theorem addCause_supOp (t : Tile) (p : Pending) : (t.addCause p).supOp = t.supOp := rfl
@[simp] theorem addCause_natAt (t : Tile) (p : Pending) : (t.addCause p).natAt = t.natAt := rfl
@[simp] theorem addCause_supReady (t : Tile) (p : Pending) : (t.addCause p).supReady = t.supReady := rfl
@[simp] theorem addCause_errs (t : Tile) (p : Pending) : (t.addCause p).errs = t.errs := rfl
@[simp] theorem addCause_badRegs (t : Tile) (p : Pending) : (t.addCause p).badRegs = t.badRegs := rfl
@[simp] theorem addCause_softRegs (t : Tile) (p : Pending) : (t.addCause p).softRegs = t.softRegs := rfl
@[simp] theorem addCause_mxUpset (t : Tile) (p : Pending) : (t.addCause p).mxUpset = t.mxUpset := rfl
@[simp] theorem addCause_beatUpset (t : Tile) (p : Pending) : (t.addCause p).beatUpset = t.beatUpset := rfl
@[simp] theorem addCause_refetch (t : Tile) (p : Pending) : (t.addCause p).refetch = t.refetch := rfl
@[simp] theorem addCause_preReq (t : Tile) (p : Pending) : (t.addCause p).preReq = t.preReq := rfl
@[simp] theorem addCause_prePeriod (t : Tile) (p : Pending) : (t.addCause p).prePeriod = t.prePeriod := rfl
@[simp] theorem addCause_preHalted (t : Tile) (p : Pending) : (t.addCause p).preHalted = t.preHalted := rfl
@[simp] theorem addCause_frozen (t : Tile) (p : Pending) : (t.addCause p).frozen = t.frozen := rfl
@[simp] theorem addCause_debugHeld (t : Tile) (p : Pending) : (t.addCause p).debugHeld = t.debugHeld := rfl
@[simp] theorem addCause_drained (t : Tile) (p : Pending) : (t.addCause p).drained = t.drained := rfl
@[simp] theorem addCause_ended (t : Tile) (p : Pending) : (t.addCause p).ended = t.ended := rfl
@[simp] theorem addCause_endSeen (t : Tile) (p : Pending) : (t.addCause p).endSeen = t.endSeen := rfl
@[simp] theorem addCause_prevs (t : Tile) (p : Pending) : (t.addCause p).prevs = t.prevs := rfl
@[simp] theorem addCause_heldRun (t : Tile) (p : Pending) : (t.addCause p).heldRun = t.heldRun := rfl
@[simp] theorem addCause_gangWait (t : Tile) (p : Pending) : (t.addCause p).gangWait = t.gangWait := rfl
@[simp] theorem addCause_gangGo (t : Tile) (p : Pending) : (t.addCause p).gangGo = t.gangGo := rfl
@[simp] theorem addCause_gangTrap (t : Tile) (p : Pending) : (t.addCause p).gangTrap = t.gangTrap := rfl
@[simp] theorem addCause_gangHold (t : Tile) (p : Pending) : (t.addCause p).gangHold = t.gangHold := rfl
@[simp] theorem addCause_gangSplit (t : Tile) (p : Pending) : (t.addCause p).gangSplit = t.gangSplit := rfl
@[simp] theorem addCause_lis (t : Tile) (p : Pending) : (t.addCause p).lis = t.lis := rfl
@[simp] theorem addCause_blen (t : Tile) (p : Pending) : (t.addCause p).blen = t.blen := rfl
@[simp] theorem addCause_bus (t : Tile) (p : Pending) : (t.addCause p).bus = t.bus := rfl

@[simp] theorem setRing_addr (t : Tile) (r : BitVec 3) (x : Ring) : (t.setRing r x).addr = t.addr := rfl
@[simp] theorem setRing_launch (t : Tile) (r : BitVec 3) (x : Ring) : (t.setRing r x).launch = t.launch := rfl
@[simp] theorem setRing_role (t : Tile) (r : BitVec 3) (x : Ring) : (t.setRing r x).role = t.role := rfl
@[simp] theorem setRing_tasked (t : Tile) (r : BitVec 3) (x : Ring) : (t.setRing r x).tasked = t.tasked := rfl
@[simp] theorem setRing_asid (t : Tile) (r : BitVec 3) (x : Ring) : (t.setRing r x).asid = t.asid := rfl
@[simp] theorem setRing_lastAsid (t : Tile) (r : BitVec 3) (x : Ring) : (t.setRing r x).lastAsid = t.lastAsid := rfl
@[simp] theorem setRing_codeStart (t : Tile) (r : BitVec 3) (x : Ring) : (t.setRing r x).codeStart = t.codeStart := rfl
@[simp] theorem setRing_codeLen (t : Tile) (r : BitVec 3) (x : Ring) : (t.setRing r x).codeLen = t.codeLen := rfl
@[simp] theorem setRing_tid (t : Tile) (r : BitVec 3) (x : Ring) : (t.setRing r x).tid = t.tid := rfl
@[simp] theorem setRing_dom (t : Tile) (r : BitVec 3) (x : Ring) : (t.setRing r x).dom = t.dom := rfl
@[simp] theorem setRing_banks (t : Tile) (r : BitVec 3) (x : Ring) : (t.setRing r x).banks = t.banks := rfl
@[simp] theorem setRing_run (t : Tile) (r : BitVec 3) (x : Ring) : (t.setRing r x).run = t.run := rfl
@[simp] theorem setRing_mode (t : Tile) (r : BitVec 3) (x : Ring) : (t.setRing r x).mode = t.mode := rfl
@[simp] theorem setRing_lock (t : Tile) (r : BitVec 3) (x : Ring) : (t.setRing r x).lock = t.lock := rfl
@[simp] theorem setRing_sleepd (t : Tile) (r : BitVec 3) (x : Ring) : (t.setRing r x).sleepd = t.sleepd := rfl
@[simp] theorem setRing_asleep (t : Tile) (r : BitVec 3) (x : Ring) : (t.setRing r x).asleep = t.asleep := rfl
@[simp] theorem setRing_stalled (t : Tile) (r : BitVec 3) (x : Ring) : (t.setRing r x).stalled = t.stalled := rfl
@[simp] theorem setRing_stallFrom (t : Tile) (r : BitVec 3) (x : Ring) : (t.setRing r x).stallFrom = t.stallFrom := rfl
@[simp] theorem setRing_ready (t : Tile) (r : BitVec 3) (x : Ring) : (t.setRing r x).ready = t.ready := rfl
@[simp] theorem setRing_queue (t : Tile) (r : BitVec 3) (x : Ring) : (t.setRing r x).queue = t.queue := rfl
@[simp] theorem setRing_nextOp (t : Tile) (r : BitVec 3) (x : Ring) : (t.setRing r x).nextOp = t.nextOp := rfl
@[simp] theorem setRing_tags (t : Tile) (r : BitVec 3) (x : Ring) : (t.setRing r x).tags = t.tags := rfl
@[simp] theorem setRing_tagStop (t : Tile) (r : BitVec 3) (x : Ring) : (t.setRing r x).tagStop = t.tagStop := rfl
@[simp] theorem setRing_patterns (t : Tile) (r : BitVec 3) (x : Ring) : (t.setRing r x).patterns = t.patterns := rfl
@[simp] theorem setRing_cursors (t : Tile) (r : BitVec 3) (x : Ring) : (t.setRing r x).cursors = t.cursors := rfl
@[simp] theorem setRing_acc (t : Tile) (r : BitVec 3) (x : Ring) : (t.setRing r x).acc = t.acc := rfl
@[simp] theorem setRing_mxq (t : Tile) (r : BitVec 3) (x : Ring) : (t.setRing r x).mxq = t.mxq := rfl
@[simp] theorem setRing_zones (t : Tile) (r : BitVec 3) (x : Ring) : (t.setRing r x).zones = t.zones := rfl
@[simp] theorem setRing_timetables (t : Tile) (r : BitVec 3) (x : Ring) : (t.setRing r x).timetables = t.timetables := rfl
@[simp] theorem setRing_armed (t : Tile) (r : BitVec 3) (x : Ring) : (t.setRing r x).armed = t.armed := rfl
@[simp] theorem setRing_window (t : Tile) (r : BitVec 3) (x : Ring) : (t.setRing r x).window = t.window := rfl
@[simp] theorem setRing_kslots (t : Tile) (r : BitVec 3) (x : Ring) : (t.setRing r x).kslots = t.kslots := rfl
@[simp] theorem setRing_kgens (t : Tile) (r : BitVec 3) (x : Ring) : (t.setRing r x).kgens = t.kgens := rfl
@[simp] theorem setRing_knotices (t : Tile) (r : BitVec 3) (x : Ring) : (t.setRing r x).knotices = t.knotices := rfl
@[simp] theorem setRing_knBy (t : Tile) (r : BitVec 3) (x : Ring) : (t.setRing r x).knBy = t.knBy := rfl
@[simp] theorem setRing_tasks (t : Tile) (r : BitVec 3) (x : Ring) : (t.setRing r x).tasks = t.tasks := rfl
@[simp] theorem setRing_sram (t : Tile) (r : BitVec 3) (x : Ring) : (t.setRing r x).sram = t.sram := rfl
@[simp] theorem setRing_bad (t : Tile) (r : BitVec 3) (x : Ring) : (t.setRing r x).bad = t.bad := rfl
@[simp] theorem setRing_soft (t : Tile) (r : BitVec 3) (x : Ring) : (t.setRing r x).soft = t.soft := rfl
@[simp] theorem setRing_unspec (t : Tile) (r : BitVec 3) (x : Ring) : (t.setRing r x).unspec = t.unspec := rfl
@[simp] theorem setRing_scrub (t : Tile) (r : BitVec 3) (x : Ring) : (t.setRing r x).scrub = t.scrub := rfl
@[simp] theorem setRing_scrubDue (t : Tile) (r : BitVec 3) (x : Ring) : (t.setRing r x).scrubDue = t.scrubDue := rfl
@[simp] theorem setRing_utlb (t : Tile) (r : BitVec 3) (x : Ring) : (t.setRing r x).utlb = t.utlb := rfl
@[simp] theorem setRing_digest (t : Tile) (r : BitVec 3) (x : Ring) : (t.setRing r x).digest = t.digest := rfl
@[simp] theorem setRing_records (t : Tile) (r : BitVec 3) (x : Ring) : (t.setRing r x).records = t.records := rfl
@[simp] theorem setRing_dgbuf (t : Tile) (r : BitVec 3) (x : Ring) : (t.setRing r x).dgbuf = t.dgbuf := rfl
@[simp] theorem setRing_sel (t : Tile) (r : BitVec 3) (x : Ring) : (t.setRing r x).sel = t.sel := rfl
@[simp] theorem setRing_stmr (t : Tile) (r : BitVec 3) (x : Ring) : (t.setRing r x).stmr = t.stmr := rfl
@[simp] theorem setRing_supOp (t : Tile) (r : BitVec 3) (x : Ring) : (t.setRing r x).supOp = t.supOp := rfl
@[simp] theorem setRing_natAt (t : Tile) (r : BitVec 3) (x : Ring) : (t.setRing r x).natAt = t.natAt := rfl
@[simp] theorem setRing_supReady (t : Tile) (r : BitVec 3) (x : Ring) : (t.setRing r x).supReady = t.supReady := rfl
@[simp] theorem setRing_pend (t : Tile) (r : BitVec 3) (x : Ring) : (t.setRing r x).pend = t.pend := rfl
@[simp] theorem setRing_errs (t : Tile) (r : BitVec 3) (x : Ring) : (t.setRing r x).errs = t.errs := rfl
@[simp] theorem setRing_badRegs (t : Tile) (r : BitVec 3) (x : Ring) : (t.setRing r x).badRegs = t.badRegs := rfl
@[simp] theorem setRing_softRegs (t : Tile) (r : BitVec 3) (x : Ring) : (t.setRing r x).softRegs = t.softRegs := rfl
@[simp] theorem setRing_mxUpset (t : Tile) (r : BitVec 3) (x : Ring) : (t.setRing r x).mxUpset = t.mxUpset := rfl
@[simp] theorem setRing_beatUpset (t : Tile) (r : BitVec 3) (x : Ring) : (t.setRing r x).beatUpset = t.beatUpset := rfl
@[simp] theorem setRing_refetch (t : Tile) (r : BitVec 3) (x : Ring) : (t.setRing r x).refetch = t.refetch := rfl
@[simp] theorem setRing_preReq (t : Tile) (r : BitVec 3) (x : Ring) : (t.setRing r x).preReq = t.preReq := rfl
@[simp] theorem setRing_prePeriod (t : Tile) (r : BitVec 3) (x : Ring) : (t.setRing r x).prePeriod = t.prePeriod := rfl
@[simp] theorem setRing_preHalted (t : Tile) (r : BitVec 3) (x : Ring) : (t.setRing r x).preHalted = t.preHalted := rfl
@[simp] theorem setRing_frozen (t : Tile) (r : BitVec 3) (x : Ring) : (t.setRing r x).frozen = t.frozen := rfl
@[simp] theorem setRing_debugHeld (t : Tile) (r : BitVec 3) (x : Ring) : (t.setRing r x).debugHeld = t.debugHeld := rfl
@[simp] theorem setRing_drained (t : Tile) (r : BitVec 3) (x : Ring) : (t.setRing r x).drained = t.drained := rfl
@[simp] theorem setRing_ended (t : Tile) (r : BitVec 3) (x : Ring) : (t.setRing r x).ended = t.ended := rfl
@[simp] theorem setRing_endSeen (t : Tile) (r : BitVec 3) (x : Ring) : (t.setRing r x).endSeen = t.endSeen := rfl
@[simp] theorem setRing_prevs (t : Tile) (r : BitVec 3) (x : Ring) : (t.setRing r x).prevs = t.prevs := rfl
@[simp] theorem setRing_heldRun (t : Tile) (r : BitVec 3) (x : Ring) : (t.setRing r x).heldRun = t.heldRun := rfl
@[simp] theorem setRing_gangWait (t : Tile) (r : BitVec 3) (x : Ring) : (t.setRing r x).gangWait = t.gangWait := rfl
@[simp] theorem setRing_gangGo (t : Tile) (r : BitVec 3) (x : Ring) : (t.setRing r x).gangGo = t.gangGo := rfl
@[simp] theorem setRing_gangTrap (t : Tile) (r : BitVec 3) (x : Ring) : (t.setRing r x).gangTrap = t.gangTrap := rfl
@[simp] theorem setRing_gangHold (t : Tile) (r : BitVec 3) (x : Ring) : (t.setRing r x).gangHold = t.gangHold := rfl
@[simp] theorem setRing_gangSplit (t : Tile) (r : BitVec 3) (x : Ring) : (t.setRing r x).gangSplit = t.gangSplit := rfl
@[simp] theorem setRing_lis (t : Tile) (r : BitVec 3) (x : Ring) : (t.setRing r x).lis = t.lis := rfl
@[simp] theorem setRing_blen (t : Tile) (r : BitVec 3) (x : Ring) : (t.setRing r x).blen = t.blen := rfl
@[simp] theorem setRing_bus (t : Tile) (r : BitVec 3) (x : Ring) : (t.setRing r x).bus = t.bus := rfl

@[simp] theorem setTag_addr (t : Tile) (n : Nat) : (t.setTag n).addr = t.addr := rfl
@[simp] theorem setTag_launch (t : Tile) (n : Nat) : (t.setTag n).launch = t.launch := rfl
@[simp] theorem setTag_role (t : Tile) (n : Nat) : (t.setTag n).role = t.role := rfl
@[simp] theorem setTag_tasked (t : Tile) (n : Nat) : (t.setTag n).tasked = t.tasked := rfl
@[simp] theorem setTag_asid (t : Tile) (n : Nat) : (t.setTag n).asid = t.asid := rfl
@[simp] theorem setTag_lastAsid (t : Tile) (n : Nat) : (t.setTag n).lastAsid = t.lastAsid := rfl
@[simp] theorem setTag_codeStart (t : Tile) (n : Nat) : (t.setTag n).codeStart = t.codeStart := rfl
@[simp] theorem setTag_codeLen (t : Tile) (n : Nat) : (t.setTag n).codeLen = t.codeLen := rfl
@[simp] theorem setTag_tid (t : Tile) (n : Nat) : (t.setTag n).tid = t.tid := rfl
@[simp] theorem setTag_dom (t : Tile) (n : Nat) : (t.setTag n).dom = t.dom := rfl
@[simp] theorem setTag_banks (t : Tile) (n : Nat) : (t.setTag n).banks = t.banks := rfl
@[simp] theorem setTag_run (t : Tile) (n : Nat) : (t.setTag n).run = t.run := rfl
@[simp] theorem setTag_mode (t : Tile) (n : Nat) : (t.setTag n).mode = t.mode := rfl
@[simp] theorem setTag_lock (t : Tile) (n : Nat) : (t.setTag n).lock = t.lock := rfl
@[simp] theorem setTag_sleepd (t : Tile) (n : Nat) : (t.setTag n).sleepd = t.sleepd := rfl
@[simp] theorem setTag_asleep (t : Tile) (n : Nat) : (t.setTag n).asleep = t.asleep := rfl
@[simp] theorem setTag_stalled (t : Tile) (n : Nat) : (t.setTag n).stalled = t.stalled := rfl
@[simp] theorem setTag_stallFrom (t : Tile) (n : Nat) : (t.setTag n).stallFrom = t.stallFrom := rfl
@[simp] theorem setTag_ready (t : Tile) (n : Nat) : (t.setTag n).ready = t.ready := rfl
@[simp] theorem setTag_queue (t : Tile) (n : Nat) : (t.setTag n).queue = t.queue := rfl
@[simp] theorem setTag_nextOp (t : Tile) (n : Nat) : (t.setTag n).nextOp = t.nextOp := rfl
@[simp] theorem setTag_tagStop (t : Tile) (n : Nat) : (t.setTag n).tagStop = t.tagStop := rfl
@[simp] theorem setTag_rings (t : Tile) (n : Nat) : (t.setTag n).rings = t.rings := rfl
@[simp] theorem setTag_patterns (t : Tile) (n : Nat) : (t.setTag n).patterns = t.patterns := rfl
@[simp] theorem setTag_cursors (t : Tile) (n : Nat) : (t.setTag n).cursors = t.cursors := rfl
@[simp] theorem setTag_acc (t : Tile) (n : Nat) : (t.setTag n).acc = t.acc := rfl
@[simp] theorem setTag_mxq (t : Tile) (n : Nat) : (t.setTag n).mxq = t.mxq := rfl
@[simp] theorem setTag_zones (t : Tile) (n : Nat) : (t.setTag n).zones = t.zones := rfl
@[simp] theorem setTag_timetables (t : Tile) (n : Nat) : (t.setTag n).timetables = t.timetables := rfl
@[simp] theorem setTag_armed (t : Tile) (n : Nat) : (t.setTag n).armed = t.armed := rfl
@[simp] theorem setTag_window (t : Tile) (n : Nat) : (t.setTag n).window = t.window := rfl
@[simp] theorem setTag_kslots (t : Tile) (n : Nat) : (t.setTag n).kslots = t.kslots := rfl
@[simp] theorem setTag_kgens (t : Tile) (n : Nat) : (t.setTag n).kgens = t.kgens := rfl
@[simp] theorem setTag_knotices (t : Tile) (n : Nat) : (t.setTag n).knotices = t.knotices := rfl
@[simp] theorem setTag_knBy (t : Tile) (n : Nat) : (t.setTag n).knBy = t.knBy := rfl
@[simp] theorem setTag_tasks (t : Tile) (n : Nat) : (t.setTag n).tasks = t.tasks := rfl
@[simp] theorem setTag_sram (t : Tile) (n : Nat) : (t.setTag n).sram = t.sram := rfl
@[simp] theorem setTag_bad (t : Tile) (n : Nat) : (t.setTag n).bad = t.bad := rfl
@[simp] theorem setTag_soft (t : Tile) (n : Nat) : (t.setTag n).soft = t.soft := rfl
@[simp] theorem setTag_unspec (t : Tile) (n : Nat) : (t.setTag n).unspec = t.unspec := rfl
@[simp] theorem setTag_scrub (t : Tile) (n : Nat) : (t.setTag n).scrub = t.scrub := rfl
@[simp] theorem setTag_scrubDue (t : Tile) (n : Nat) : (t.setTag n).scrubDue = t.scrubDue := rfl
@[simp] theorem setTag_utlb (t : Tile) (n : Nat) : (t.setTag n).utlb = t.utlb := rfl
@[simp] theorem setTag_digest (t : Tile) (n : Nat) : (t.setTag n).digest = t.digest := rfl
@[simp] theorem setTag_records (t : Tile) (n : Nat) : (t.setTag n).records = t.records := rfl
@[simp] theorem setTag_dgbuf (t : Tile) (n : Nat) : (t.setTag n).dgbuf = t.dgbuf := rfl
@[simp] theorem setTag_sel (t : Tile) (n : Nat) : (t.setTag n).sel = t.sel := rfl
@[simp] theorem setTag_stmr (t : Tile) (n : Nat) : (t.setTag n).stmr = t.stmr := rfl
@[simp] theorem setTag_supOp (t : Tile) (n : Nat) : (t.setTag n).supOp = t.supOp := rfl
@[simp] theorem setTag_natAt (t : Tile) (n : Nat) : (t.setTag n).natAt = t.natAt := rfl
@[simp] theorem setTag_supReady (t : Tile) (n : Nat) : (t.setTag n).supReady = t.supReady := rfl
@[simp] theorem setTag_pend (t : Tile) (n : Nat) : (t.setTag n).pend = t.pend := rfl
@[simp] theorem setTag_errs (t : Tile) (n : Nat) : (t.setTag n).errs = t.errs := rfl
@[simp] theorem setTag_badRegs (t : Tile) (n : Nat) : (t.setTag n).badRegs = t.badRegs := rfl
@[simp] theorem setTag_softRegs (t : Tile) (n : Nat) : (t.setTag n).softRegs = t.softRegs := rfl
@[simp] theorem setTag_mxUpset (t : Tile) (n : Nat) : (t.setTag n).mxUpset = t.mxUpset := rfl
@[simp] theorem setTag_beatUpset (t : Tile) (n : Nat) : (t.setTag n).beatUpset = t.beatUpset := rfl
@[simp] theorem setTag_refetch (t : Tile) (n : Nat) : (t.setTag n).refetch = t.refetch := rfl
@[simp] theorem setTag_preReq (t : Tile) (n : Nat) : (t.setTag n).preReq = t.preReq := rfl
@[simp] theorem setTag_prePeriod (t : Tile) (n : Nat) : (t.setTag n).prePeriod = t.prePeriod := rfl
@[simp] theorem setTag_preHalted (t : Tile) (n : Nat) : (t.setTag n).preHalted = t.preHalted := rfl
@[simp] theorem setTag_frozen (t : Tile) (n : Nat) : (t.setTag n).frozen = t.frozen := rfl
@[simp] theorem setTag_debugHeld (t : Tile) (n : Nat) : (t.setTag n).debugHeld = t.debugHeld := rfl
@[simp] theorem setTag_drained (t : Tile) (n : Nat) : (t.setTag n).drained = t.drained := rfl
@[simp] theorem setTag_ended (t : Tile) (n : Nat) : (t.setTag n).ended = t.ended := rfl
@[simp] theorem setTag_endSeen (t : Tile) (n : Nat) : (t.setTag n).endSeen = t.endSeen := rfl
@[simp] theorem setTag_prevs (t : Tile) (n : Nat) : (t.setTag n).prevs = t.prevs := rfl
@[simp] theorem setTag_heldRun (t : Tile) (n : Nat) : (t.setTag n).heldRun = t.heldRun := rfl
@[simp] theorem setTag_gangWait (t : Tile) (n : Nat) : (t.setTag n).gangWait = t.gangWait := rfl
@[simp] theorem setTag_gangGo (t : Tile) (n : Nat) : (t.setTag n).gangGo = t.gangGo := rfl
@[simp] theorem setTag_gangTrap (t : Tile) (n : Nat) : (t.setTag n).gangTrap = t.gangTrap := rfl
@[simp] theorem setTag_gangHold (t : Tile) (n : Nat) : (t.setTag n).gangHold = t.gangHold := rfl
@[simp] theorem setTag_gangSplit (t : Tile) (n : Nat) : (t.setTag n).gangSplit = t.gangSplit := rfl
@[simp] theorem setTag_lis (t : Tile) (n : Nat) : (t.setTag n).lis = t.lis := rfl
@[simp] theorem setTag_blen (t : Tile) (n : Nat) : (t.setTag n).blen = t.blen := rfl
@[simp] theorem setTag_bus (t : Tile) (n : Nat) : (t.setTag n).bus = t.bus := rfl

@[simp] theorem clearTag_addr (t : Tile) (n : Nat) : (t.clearTag n).addr = t.addr := rfl
@[simp] theorem clearTag_launch (t : Tile) (n : Nat) : (t.clearTag n).launch = t.launch := rfl
@[simp] theorem clearTag_role (t : Tile) (n : Nat) : (t.clearTag n).role = t.role := rfl
@[simp] theorem clearTag_tasked (t : Tile) (n : Nat) : (t.clearTag n).tasked = t.tasked := rfl
@[simp] theorem clearTag_asid (t : Tile) (n : Nat) : (t.clearTag n).asid = t.asid := rfl
@[simp] theorem clearTag_lastAsid (t : Tile) (n : Nat) : (t.clearTag n).lastAsid = t.lastAsid := rfl
@[simp] theorem clearTag_codeStart (t : Tile) (n : Nat) : (t.clearTag n).codeStart = t.codeStart := rfl
@[simp] theorem clearTag_codeLen (t : Tile) (n : Nat) : (t.clearTag n).codeLen = t.codeLen := rfl
@[simp] theorem clearTag_tid (t : Tile) (n : Nat) : (t.clearTag n).tid = t.tid := rfl
@[simp] theorem clearTag_dom (t : Tile) (n : Nat) : (t.clearTag n).dom = t.dom := rfl
@[simp] theorem clearTag_banks (t : Tile) (n : Nat) : (t.clearTag n).banks = t.banks := rfl
@[simp] theorem clearTag_run (t : Tile) (n : Nat) : (t.clearTag n).run = t.run := rfl
@[simp] theorem clearTag_mode (t : Tile) (n : Nat) : (t.clearTag n).mode = t.mode := rfl
@[simp] theorem clearTag_lock (t : Tile) (n : Nat) : (t.clearTag n).lock = t.lock := rfl
@[simp] theorem clearTag_sleepd (t : Tile) (n : Nat) : (t.clearTag n).sleepd = t.sleepd := rfl
@[simp] theorem clearTag_asleep (t : Tile) (n : Nat) : (t.clearTag n).asleep = t.asleep := rfl
@[simp] theorem clearTag_stalled (t : Tile) (n : Nat) : (t.clearTag n).stalled = t.stalled := rfl
@[simp] theorem clearTag_stallFrom (t : Tile) (n : Nat) : (t.clearTag n).stallFrom = t.stallFrom := rfl
@[simp] theorem clearTag_ready (t : Tile) (n : Nat) : (t.clearTag n).ready = t.ready := rfl
@[simp] theorem clearTag_queue (t : Tile) (n : Nat) : (t.clearTag n).queue = t.queue := rfl
@[simp] theorem clearTag_nextOp (t : Tile) (n : Nat) : (t.clearTag n).nextOp = t.nextOp := rfl
@[simp] theorem clearTag_tagStop (t : Tile) (n : Nat) : (t.clearTag n).tagStop = t.tagStop := rfl
@[simp] theorem clearTag_rings (t : Tile) (n : Nat) : (t.clearTag n).rings = t.rings := rfl
@[simp] theorem clearTag_patterns (t : Tile) (n : Nat) : (t.clearTag n).patterns = t.patterns := rfl
@[simp] theorem clearTag_cursors (t : Tile) (n : Nat) : (t.clearTag n).cursors = t.cursors := rfl
@[simp] theorem clearTag_acc (t : Tile) (n : Nat) : (t.clearTag n).acc = t.acc := rfl
@[simp] theorem clearTag_mxq (t : Tile) (n : Nat) : (t.clearTag n).mxq = t.mxq := rfl
@[simp] theorem clearTag_zones (t : Tile) (n : Nat) : (t.clearTag n).zones = t.zones := rfl
@[simp] theorem clearTag_timetables (t : Tile) (n : Nat) : (t.clearTag n).timetables = t.timetables := rfl
@[simp] theorem clearTag_armed (t : Tile) (n : Nat) : (t.clearTag n).armed = t.armed := rfl
@[simp] theorem clearTag_window (t : Tile) (n : Nat) : (t.clearTag n).window = t.window := rfl
@[simp] theorem clearTag_kslots (t : Tile) (n : Nat) : (t.clearTag n).kslots = t.kslots := rfl
@[simp] theorem clearTag_kgens (t : Tile) (n : Nat) : (t.clearTag n).kgens = t.kgens := rfl
@[simp] theorem clearTag_knotices (t : Tile) (n : Nat) : (t.clearTag n).knotices = t.knotices := rfl
@[simp] theorem clearTag_knBy (t : Tile) (n : Nat) : (t.clearTag n).knBy = t.knBy := rfl
@[simp] theorem clearTag_tasks (t : Tile) (n : Nat) : (t.clearTag n).tasks = t.tasks := rfl
@[simp] theorem clearTag_sram (t : Tile) (n : Nat) : (t.clearTag n).sram = t.sram := rfl
@[simp] theorem clearTag_bad (t : Tile) (n : Nat) : (t.clearTag n).bad = t.bad := rfl
@[simp] theorem clearTag_soft (t : Tile) (n : Nat) : (t.clearTag n).soft = t.soft := rfl
@[simp] theorem clearTag_unspec (t : Tile) (n : Nat) : (t.clearTag n).unspec = t.unspec := rfl
@[simp] theorem clearTag_scrub (t : Tile) (n : Nat) : (t.clearTag n).scrub = t.scrub := rfl
@[simp] theorem clearTag_scrubDue (t : Tile) (n : Nat) : (t.clearTag n).scrubDue = t.scrubDue := rfl
@[simp] theorem clearTag_utlb (t : Tile) (n : Nat) : (t.clearTag n).utlb = t.utlb := rfl
@[simp] theorem clearTag_digest (t : Tile) (n : Nat) : (t.clearTag n).digest = t.digest := rfl
@[simp] theorem clearTag_records (t : Tile) (n : Nat) : (t.clearTag n).records = t.records := rfl
@[simp] theorem clearTag_dgbuf (t : Tile) (n : Nat) : (t.clearTag n).dgbuf = t.dgbuf := rfl
@[simp] theorem clearTag_sel (t : Tile) (n : Nat) : (t.clearTag n).sel = t.sel := rfl
@[simp] theorem clearTag_stmr (t : Tile) (n : Nat) : (t.clearTag n).stmr = t.stmr := rfl
@[simp] theorem clearTag_supOp (t : Tile) (n : Nat) : (t.clearTag n).supOp = t.supOp := rfl
@[simp] theorem clearTag_natAt (t : Tile) (n : Nat) : (t.clearTag n).natAt = t.natAt := rfl
@[simp] theorem clearTag_supReady (t : Tile) (n : Nat) : (t.clearTag n).supReady = t.supReady := rfl
@[simp] theorem clearTag_pend (t : Tile) (n : Nat) : (t.clearTag n).pend = t.pend := rfl
@[simp] theorem clearTag_errs (t : Tile) (n : Nat) : (t.clearTag n).errs = t.errs := rfl
@[simp] theorem clearTag_badRegs (t : Tile) (n : Nat) : (t.clearTag n).badRegs = t.badRegs := rfl
@[simp] theorem clearTag_softRegs (t : Tile) (n : Nat) : (t.clearTag n).softRegs = t.softRegs := rfl
@[simp] theorem clearTag_mxUpset (t : Tile) (n : Nat) : (t.clearTag n).mxUpset = t.mxUpset := rfl
@[simp] theorem clearTag_beatUpset (t : Tile) (n : Nat) : (t.clearTag n).beatUpset = t.beatUpset := rfl
@[simp] theorem clearTag_refetch (t : Tile) (n : Nat) : (t.clearTag n).refetch = t.refetch := rfl
@[simp] theorem clearTag_preReq (t : Tile) (n : Nat) : (t.clearTag n).preReq = t.preReq := rfl
@[simp] theorem clearTag_prePeriod (t : Tile) (n : Nat) : (t.clearTag n).prePeriod = t.prePeriod := rfl
@[simp] theorem clearTag_preHalted (t : Tile) (n : Nat) : (t.clearTag n).preHalted = t.preHalted := rfl
@[simp] theorem clearTag_frozen (t : Tile) (n : Nat) : (t.clearTag n).frozen = t.frozen := rfl
@[simp] theorem clearTag_debugHeld (t : Tile) (n : Nat) : (t.clearTag n).debugHeld = t.debugHeld := rfl
@[simp] theorem clearTag_drained (t : Tile) (n : Nat) : (t.clearTag n).drained = t.drained := rfl
@[simp] theorem clearTag_ended (t : Tile) (n : Nat) : (t.clearTag n).ended = t.ended := rfl
@[simp] theorem clearTag_endSeen (t : Tile) (n : Nat) : (t.clearTag n).endSeen = t.endSeen := rfl
@[simp] theorem clearTag_prevs (t : Tile) (n : Nat) : (t.clearTag n).prevs = t.prevs := rfl
@[simp] theorem clearTag_heldRun (t : Tile) (n : Nat) : (t.clearTag n).heldRun = t.heldRun := rfl
@[simp] theorem clearTag_gangWait (t : Tile) (n : Nat) : (t.clearTag n).gangWait = t.gangWait := rfl
@[simp] theorem clearTag_gangGo (t : Tile) (n : Nat) : (t.clearTag n).gangGo = t.gangGo := rfl
@[simp] theorem clearTag_gangTrap (t : Tile) (n : Nat) : (t.clearTag n).gangTrap = t.gangTrap := rfl
@[simp] theorem clearTag_gangHold (t : Tile) (n : Nat) : (t.clearTag n).gangHold = t.gangHold := rfl
@[simp] theorem clearTag_gangSplit (t : Tile) (n : Nat) : (t.clearTag n).gangSplit = t.gangSplit := rfl
@[simp] theorem clearTag_lis (t : Tile) (n : Nat) : (t.clearTag n).lis = t.lis := rfl
@[simp] theorem clearTag_blen (t : Tile) (n : Nat) : (t.clearTag n).blen = t.blen := rfl
@[simp] theorem clearTag_bus (t : Tile) (n : Nat) : (t.clearTag n).bus = t.bus := rfl

@[simp] theorem onTasks_addr (t : Tile) (f : Tasks → Tasks) : (t.onTasks f).addr = t.addr := rfl
@[simp] theorem onTasks_launch (t : Tile) (f : Tasks → Tasks) : (t.onTasks f).launch = t.launch := rfl
@[simp] theorem onTasks_role (t : Tile) (f : Tasks → Tasks) : (t.onTasks f).role = t.role := rfl
@[simp] theorem onTasks_tasked (t : Tile) (f : Tasks → Tasks) : (t.onTasks f).tasked = t.tasked := rfl
@[simp] theorem onTasks_asid (t : Tile) (f : Tasks → Tasks) : (t.onTasks f).asid = t.asid := rfl
@[simp] theorem onTasks_lastAsid (t : Tile) (f : Tasks → Tasks) : (t.onTasks f).lastAsid = t.lastAsid := rfl
@[simp] theorem onTasks_codeStart (t : Tile) (f : Tasks → Tasks) : (t.onTasks f).codeStart = t.codeStart := rfl
@[simp] theorem onTasks_codeLen (t : Tile) (f : Tasks → Tasks) : (t.onTasks f).codeLen = t.codeLen := rfl
@[simp] theorem onTasks_tid (t : Tile) (f : Tasks → Tasks) : (t.onTasks f).tid = t.tid := rfl
@[simp] theorem onTasks_dom (t : Tile) (f : Tasks → Tasks) : (t.onTasks f).dom = t.dom := rfl
@[simp] theorem onTasks_banks (t : Tile) (f : Tasks → Tasks) : (t.onTasks f).banks = t.banks := rfl
@[simp] theorem onTasks_run (t : Tile) (f : Tasks → Tasks) : (t.onTasks f).run = t.run := rfl
@[simp] theorem onTasks_mode (t : Tile) (f : Tasks → Tasks) : (t.onTasks f).mode = t.mode := rfl
@[simp] theorem onTasks_lock (t : Tile) (f : Tasks → Tasks) : (t.onTasks f).lock = t.lock := rfl
@[simp] theorem onTasks_sleepd (t : Tile) (f : Tasks → Tasks) : (t.onTasks f).sleepd = t.sleepd := rfl
@[simp] theorem onTasks_asleep (t : Tile) (f : Tasks → Tasks) : (t.onTasks f).asleep = t.asleep := rfl
@[simp] theorem onTasks_stalled (t : Tile) (f : Tasks → Tasks) : (t.onTasks f).stalled = t.stalled := rfl
@[simp] theorem onTasks_stallFrom (t : Tile) (f : Tasks → Tasks) : (t.onTasks f).stallFrom = t.stallFrom := rfl
@[simp] theorem onTasks_ready (t : Tile) (f : Tasks → Tasks) : (t.onTasks f).ready = t.ready := rfl
@[simp] theorem onTasks_queue (t : Tile) (f : Tasks → Tasks) : (t.onTasks f).queue = t.queue := rfl
@[simp] theorem onTasks_nextOp (t : Tile) (f : Tasks → Tasks) : (t.onTasks f).nextOp = t.nextOp := rfl
@[simp] theorem onTasks_tags (t : Tile) (f : Tasks → Tasks) : (t.onTasks f).tags = t.tags := rfl
@[simp] theorem onTasks_tagStop (t : Tile) (f : Tasks → Tasks) : (t.onTasks f).tagStop = t.tagStop := rfl
@[simp] theorem onTasks_rings (t : Tile) (f : Tasks → Tasks) : (t.onTasks f).rings = t.rings := rfl
@[simp] theorem onTasks_patterns (t : Tile) (f : Tasks → Tasks) : (t.onTasks f).patterns = t.patterns := rfl
@[simp] theorem onTasks_cursors (t : Tile) (f : Tasks → Tasks) : (t.onTasks f).cursors = t.cursors := rfl
@[simp] theorem onTasks_acc (t : Tile) (f : Tasks → Tasks) : (t.onTasks f).acc = t.acc := rfl
@[simp] theorem onTasks_mxq (t : Tile) (f : Tasks → Tasks) : (t.onTasks f).mxq = t.mxq := rfl
@[simp] theorem onTasks_zones (t : Tile) (f : Tasks → Tasks) : (t.onTasks f).zones = t.zones := rfl
@[simp] theorem onTasks_timetables (t : Tile) (f : Tasks → Tasks) : (t.onTasks f).timetables = t.timetables := rfl
@[simp] theorem onTasks_armed (t : Tile) (f : Tasks → Tasks) : (t.onTasks f).armed = t.armed := rfl
@[simp] theorem onTasks_window (t : Tile) (f : Tasks → Tasks) : (t.onTasks f).window = t.window := rfl
@[simp] theorem onTasks_kslots (t : Tile) (f : Tasks → Tasks) : (t.onTasks f).kslots = t.kslots := rfl
@[simp] theorem onTasks_kgens (t : Tile) (f : Tasks → Tasks) : (t.onTasks f).kgens = t.kgens := rfl
@[simp] theorem onTasks_knotices (t : Tile) (f : Tasks → Tasks) : (t.onTasks f).knotices = t.knotices := rfl
@[simp] theorem onTasks_knBy (t : Tile) (f : Tasks → Tasks) : (t.onTasks f).knBy = t.knBy := rfl
@[simp] theorem onTasks_sram (t : Tile) (f : Tasks → Tasks) : (t.onTasks f).sram = t.sram := rfl
@[simp] theorem onTasks_bad (t : Tile) (f : Tasks → Tasks) : (t.onTasks f).bad = t.bad := rfl
@[simp] theorem onTasks_soft (t : Tile) (f : Tasks → Tasks) : (t.onTasks f).soft = t.soft := rfl
@[simp] theorem onTasks_unspec (t : Tile) (f : Tasks → Tasks) : (t.onTasks f).unspec = t.unspec := rfl
@[simp] theorem onTasks_scrub (t : Tile) (f : Tasks → Tasks) : (t.onTasks f).scrub = t.scrub := rfl
@[simp] theorem onTasks_scrubDue (t : Tile) (f : Tasks → Tasks) : (t.onTasks f).scrubDue = t.scrubDue := rfl
@[simp] theorem onTasks_utlb (t : Tile) (f : Tasks → Tasks) : (t.onTasks f).utlb = t.utlb := rfl
@[simp] theorem onTasks_digest (t : Tile) (f : Tasks → Tasks) : (t.onTasks f).digest = t.digest := rfl
@[simp] theorem onTasks_records (t : Tile) (f : Tasks → Tasks) : (t.onTasks f).records = t.records := rfl
@[simp] theorem onTasks_dgbuf (t : Tile) (f : Tasks → Tasks) : (t.onTasks f).dgbuf = t.dgbuf := rfl
@[simp] theorem onTasks_sel (t : Tile) (f : Tasks → Tasks) : (t.onTasks f).sel = t.sel := rfl
@[simp] theorem onTasks_stmr (t : Tile) (f : Tasks → Tasks) : (t.onTasks f).stmr = t.stmr := rfl
@[simp] theorem onTasks_supOp (t : Tile) (f : Tasks → Tasks) : (t.onTasks f).supOp = t.supOp := rfl
@[simp] theorem onTasks_natAt (t : Tile) (f : Tasks → Tasks) : (t.onTasks f).natAt = t.natAt := rfl
@[simp] theorem onTasks_supReady (t : Tile) (f : Tasks → Tasks) : (t.onTasks f).supReady = t.supReady := rfl
@[simp] theorem onTasks_pend (t : Tile) (f : Tasks → Tasks) : (t.onTasks f).pend = t.pend := rfl
@[simp] theorem onTasks_errs (t : Tile) (f : Tasks → Tasks) : (t.onTasks f).errs = t.errs := rfl
@[simp] theorem onTasks_badRegs (t : Tile) (f : Tasks → Tasks) : (t.onTasks f).badRegs = t.badRegs := rfl
@[simp] theorem onTasks_softRegs (t : Tile) (f : Tasks → Tasks) : (t.onTasks f).softRegs = t.softRegs := rfl
@[simp] theorem onTasks_mxUpset (t : Tile) (f : Tasks → Tasks) : (t.onTasks f).mxUpset = t.mxUpset := rfl
@[simp] theorem onTasks_beatUpset (t : Tile) (f : Tasks → Tasks) : (t.onTasks f).beatUpset = t.beatUpset := rfl
@[simp] theorem onTasks_refetch (t : Tile) (f : Tasks → Tasks) : (t.onTasks f).refetch = t.refetch := rfl
@[simp] theorem onTasks_preReq (t : Tile) (f : Tasks → Tasks) : (t.onTasks f).preReq = t.preReq := rfl
@[simp] theorem onTasks_prePeriod (t : Tile) (f : Tasks → Tasks) : (t.onTasks f).prePeriod = t.prePeriod := rfl
@[simp] theorem onTasks_preHalted (t : Tile) (f : Tasks → Tasks) : (t.onTasks f).preHalted = t.preHalted := rfl
@[simp] theorem onTasks_frozen (t : Tile) (f : Tasks → Tasks) : (t.onTasks f).frozen = t.frozen := rfl
@[simp] theorem onTasks_debugHeld (t : Tile) (f : Tasks → Tasks) : (t.onTasks f).debugHeld = t.debugHeld := rfl
@[simp] theorem onTasks_drained (t : Tile) (f : Tasks → Tasks) : (t.onTasks f).drained = t.drained := rfl
@[simp] theorem onTasks_ended (t : Tile) (f : Tasks → Tasks) : (t.onTasks f).ended = t.ended := rfl
@[simp] theorem onTasks_endSeen (t : Tile) (f : Tasks → Tasks) : (t.onTasks f).endSeen = t.endSeen := rfl
@[simp] theorem onTasks_prevs (t : Tile) (f : Tasks → Tasks) : (t.onTasks f).prevs = t.prevs := rfl
@[simp] theorem onTasks_heldRun (t : Tile) (f : Tasks → Tasks) : (t.onTasks f).heldRun = t.heldRun := rfl
@[simp] theorem onTasks_gangWait (t : Tile) (f : Tasks → Tasks) : (t.onTasks f).gangWait = t.gangWait := rfl
@[simp] theorem onTasks_gangGo (t : Tile) (f : Tasks → Tasks) : (t.onTasks f).gangGo = t.gangGo := rfl
@[simp] theorem onTasks_gangTrap (t : Tile) (f : Tasks → Tasks) : (t.onTasks f).gangTrap = t.gangTrap := rfl
@[simp] theorem onTasks_gangHold (t : Tile) (f : Tasks → Tasks) : (t.onTasks f).gangHold = t.gangHold := rfl
@[simp] theorem onTasks_gangSplit (t : Tile) (f : Tasks → Tasks) : (t.onTasks f).gangSplit = t.gangSplit := rfl
@[simp] theorem onTasks_lis (t : Tile) (f : Tasks → Tasks) : (t.onTasks f).lis = t.lis := rfl
@[simp] theorem onTasks_blen (t : Tile) (f : Tasks → Tasks) : (t.onTasks f).blen = t.blen := rfl
@[simp] theorem onTasks_bus (t : Tile) (f : Tasks → Tasks) : (t.onTasks f).bus = t.bus := rfl

/-! ## Updates of a strand -/

@[simp] theorem setSock_g (b : Strand) (k : Sock) (c : SockCtx) : (b.setSock k c).g = b.g := rfl
@[simp] theorem setSock_v (b : Strand) (k : Sock) (c : SockCtx) : (b.setSock k c).v = b.v := rfl
@[simp] theorem setSock_b (b : Strand) (k : Sock) (c : SockCtx) : (b.setSock k c).b = b.b := rfl
@[simp] theorem setSock_pc (b : Strand) (k : Sock) (c : SockCtx) : (b.setSock k c).pc = b.pc := rfl
@[simp] theorem setSock_flags (b : Strand) (k : Sock) (c : SockCtx) : (b.setSock k c).flags = b.flags := rfl
@[simp] theorem setSock_levels (b : Strand) (k : Sock) (c : SockCtx) : (b.setSock k c).levels = b.levels := rfl
@[simp] theorem setSock_flight (b : Strand) (k : Sock) (c : SockCtx) : (b.setSock k c).flight = b.flight := rfl
@[simp] theorem setSock_idle (b : Strand) (k : Sock) (c : SockCtx) : (b.setSock k c).idle = b.idle := rfl
@[simp] theorem setSock_fmt (b : Strand) (k : Sock) (c : SockCtx) : (b.setSock k c).fmt = b.fmt := rfl
@[simp] theorem setSock_fmtPend (b : Strand) (k : Sock) (c : SockCtx) : (b.setSock k c).fmtPend = b.fmtPend := rfl
@[simp] theorem setSock_fmtLeft (b : Strand) (k : Sock) (c : SockCtx) : (b.setSock k c).fmtLeft = b.fmtLeft := rfl
@[simp] theorem setSock_fmtDue (b : Strand) (k : Sock) (c : SockCtx) : (b.setSock k c).fmtDue = b.fmtDue := rfl
@[simp] theorem setSock_life (b : Strand) (k : Sock) (c : SockCtx) : (b.setSock k c).life = b.life := rfl
@[simp] theorem setSock_passEnd (b : Strand) (k : Sock) (c : SockCtx) : (b.setSock k c).passEnd = b.passEnd := rfl
@[simp] theorem setSock_seq (b : Strand) (k : Sock) (c : SockCtx) : (b.setSock k c).seq = b.seq := rfl
@[simp] theorem setSock_lastIssue (b : Strand) (k : Sock) (c : SockCtx) : (b.setSock k c).lastIssue = b.lastIssue := rfl
@[simp] theorem setSock_triggered (b : Strand) (k : Sock) (c : SockCtx) : (b.setSock k c).triggered = b.triggered := rfl

@[simp] theorem onSock_g (b : Strand) (k : Sock) (f : SockCtx → SockCtx) : (b.onSock k f).g = b.g := rfl
@[simp] theorem onSock_v (b : Strand) (k : Sock) (f : SockCtx → SockCtx) : (b.onSock k f).v = b.v := rfl
@[simp] theorem onSock_b (b : Strand) (k : Sock) (f : SockCtx → SockCtx) : (b.onSock k f).b = b.b := rfl
@[simp] theorem onSock_pc (b : Strand) (k : Sock) (f : SockCtx → SockCtx) : (b.onSock k f).pc = b.pc := rfl
@[simp] theorem onSock_flags (b : Strand) (k : Sock) (f : SockCtx → SockCtx) : (b.onSock k f).flags = b.flags := rfl
@[simp] theorem onSock_levels (b : Strand) (k : Sock) (f : SockCtx → SockCtx) : (b.onSock k f).levels = b.levels := rfl
@[simp] theorem onSock_flight (b : Strand) (k : Sock) (f : SockCtx → SockCtx) : (b.onSock k f).flight = b.flight := rfl
@[simp] theorem onSock_idle (b : Strand) (k : Sock) (f : SockCtx → SockCtx) : (b.onSock k f).idle = b.idle := rfl
@[simp] theorem onSock_fmt (b : Strand) (k : Sock) (f : SockCtx → SockCtx) : (b.onSock k f).fmt = b.fmt := rfl
@[simp] theorem onSock_fmtPend (b : Strand) (k : Sock) (f : SockCtx → SockCtx) : (b.onSock k f).fmtPend = b.fmtPend := rfl
@[simp] theorem onSock_fmtLeft (b : Strand) (k : Sock) (f : SockCtx → SockCtx) : (b.onSock k f).fmtLeft = b.fmtLeft := rfl
@[simp] theorem onSock_fmtDue (b : Strand) (k : Sock) (f : SockCtx → SockCtx) : (b.onSock k f).fmtDue = b.fmtDue := rfl
@[simp] theorem onSock_life (b : Strand) (k : Sock) (f : SockCtx → SockCtx) : (b.onSock k f).life = b.life := rfl
@[simp] theorem onSock_passEnd (b : Strand) (k : Sock) (f : SockCtx → SockCtx) : (b.onSock k f).passEnd = b.passEnd := rfl
@[simp] theorem onSock_seq (b : Strand) (k : Sock) (f : SockCtx → SockCtx) : (b.onSock k f).seq = b.seq := rfl
@[simp] theorem onSock_lastIssue (b : Strand) (k : Sock) (f : SockCtx → SockCtx) : (b.onSock k f).lastIssue = b.lastIssue := rfl
@[simp] theorem onSock_triggered (b : Strand) (k : Sock) (f : SockCtx → SockCtx) : (b.onSock k f).triggered = b.triggered := rfl

@[simp] theorem setG_v (b : Strand) (n : BitVec 5) (v : Dword) : (b.setG n v).v = b.v := rfl
@[simp] theorem setG_b (b : Strand) (n : BitVec 5) (v : Dword) : (b.setG n v).b = b.b := rfl
@[simp] theorem setG_pc (b : Strand) (n : BitVec 5) (v : Dword) : (b.setG n v).pc = b.pc := rfl
@[simp] theorem setG_flags (b : Strand) (n : BitVec 5) (v : Dword) : (b.setG n v).flags = b.flags := rfl
@[simp] theorem setG_levels (b : Strand) (n : BitVec 5) (v : Dword) : (b.setG n v).levels = b.levels := rfl
@[simp] theorem setG_socks (b : Strand) (n : BitVec 5) (v : Dword) : (b.setG n v).socks = b.socks := rfl
@[simp] theorem setG_flight (b : Strand) (n : BitVec 5) (v : Dword) : (b.setG n v).flight = b.flight := rfl
@[simp] theorem setG_idle (b : Strand) (n : BitVec 5) (v : Dword) : (b.setG n v).idle = b.idle := rfl
@[simp] theorem setG_fmt (b : Strand) (n : BitVec 5) (v : Dword) : (b.setG n v).fmt = b.fmt := rfl
@[simp] theorem setG_fmtPend (b : Strand) (n : BitVec 5) (v : Dword) : (b.setG n v).fmtPend = b.fmtPend := rfl
@[simp] theorem setG_fmtLeft (b : Strand) (n : BitVec 5) (v : Dword) : (b.setG n v).fmtLeft = b.fmtLeft := rfl
@[simp] theorem setG_fmtDue (b : Strand) (n : BitVec 5) (v : Dword) : (b.setG n v).fmtDue = b.fmtDue := rfl
@[simp] theorem setG_life (b : Strand) (n : BitVec 5) (v : Dword) : (b.setG n v).life = b.life := rfl
@[simp] theorem setG_passEnd (b : Strand) (n : BitVec 5) (v : Dword) : (b.setG n v).passEnd = b.passEnd := rfl
@[simp] theorem setG_seq (b : Strand) (n : BitVec 5) (v : Dword) : (b.setG n v).seq = b.seq := rfl
@[simp] theorem setG_lastIssue (b : Strand) (n : BitVec 5) (v : Dword) : (b.setG n v).lastIssue = b.lastIssue := rfl
@[simp] theorem setG_triggered (b : Strand) (n : BitVec 5) (v : Dword) : (b.setG n v).triggered = b.triggered := rfl

@[simp] theorem setV_g (b : Strand) (n : BitVec 5) (v : Bus) : (b.setV n v).g = b.g := rfl
@[simp] theorem setV_b (b : Strand) (n : BitVec 5) (v : Bus) : (b.setV n v).b = b.b := rfl
@[simp] theorem setV_pc (b : Strand) (n : BitVec 5) (v : Bus) : (b.setV n v).pc = b.pc := rfl
@[simp] theorem setV_flags (b : Strand) (n : BitVec 5) (v : Bus) : (b.setV n v).flags = b.flags := rfl
@[simp] theorem setV_levels (b : Strand) (n : BitVec 5) (v : Bus) : (b.setV n v).levels = b.levels := rfl
@[simp] theorem setV_socks (b : Strand) (n : BitVec 5) (v : Bus) : (b.setV n v).socks = b.socks := rfl
@[simp] theorem setV_flight (b : Strand) (n : BitVec 5) (v : Bus) : (b.setV n v).flight = b.flight := rfl
@[simp] theorem setV_idle (b : Strand) (n : BitVec 5) (v : Bus) : (b.setV n v).idle = b.idle := rfl
@[simp] theorem setV_fmt (b : Strand) (n : BitVec 5) (v : Bus) : (b.setV n v).fmt = b.fmt := rfl
@[simp] theorem setV_fmtPend (b : Strand) (n : BitVec 5) (v : Bus) : (b.setV n v).fmtPend = b.fmtPend := rfl
@[simp] theorem setV_fmtLeft (b : Strand) (n : BitVec 5) (v : Bus) : (b.setV n v).fmtLeft = b.fmtLeft := rfl
@[simp] theorem setV_fmtDue (b : Strand) (n : BitVec 5) (v : Bus) : (b.setV n v).fmtDue = b.fmtDue := rfl
@[simp] theorem setV_life (b : Strand) (n : BitVec 5) (v : Bus) : (b.setV n v).life = b.life := rfl
@[simp] theorem setV_passEnd (b : Strand) (n : BitVec 5) (v : Bus) : (b.setV n v).passEnd = b.passEnd := rfl
@[simp] theorem setV_seq (b : Strand) (n : BitVec 5) (v : Bus) : (b.setV n v).seq = b.seq := rfl
@[simp] theorem setV_lastIssue (b : Strand) (n : BitVec 5) (v : Bus) : (b.setV n v).lastIssue = b.lastIssue := rfl
@[simp] theorem setV_triggered (b : Strand) (n : BitVec 5) (v : Bus) : (b.setV n v).triggered = b.triggered := rfl

@[simp] theorem advance_g (b : Strand) : (b.advance).g = b.g := rfl
@[simp] theorem advance_v (b : Strand) : (b.advance).v = b.v := rfl
@[simp] theorem advance_b (b : Strand) : (b.advance).b = b.b := rfl
@[simp] theorem advance_pc (b : Strand) : (b.advance).pc = b.pc := rfl
@[simp] theorem advance_flags (b : Strand) : (b.advance).flags = b.flags := rfl
@[simp] theorem advance_levels (b : Strand) : (b.advance).levels = b.levels := rfl
@[simp] theorem advance_socks (b : Strand) : (b.advance).socks = b.socks := rfl
@[simp] theorem advance_idle (b : Strand) : (b.advance).idle = b.idle := rfl
@[simp] theorem advance_fmt (b : Strand) : (b.advance).fmt = b.fmt := rfl
@[simp] theorem advance_fmtPend (b : Strand) : (b.advance).fmtPend = b.fmtPend := rfl
@[simp] theorem advance_fmtLeft (b : Strand) : (b.advance).fmtLeft = b.fmtLeft := rfl
@[simp] theorem advance_fmtDue (b : Strand) : (b.advance).fmtDue = b.fmtDue := rfl
@[simp] theorem advance_life (b : Strand) : (b.advance).life = b.life := rfl
@[simp] theorem advance_passEnd (b : Strand) : (b.advance).passEnd = b.passEnd := rfl
@[simp] theorem advance_seq (b : Strand) : (b.advance).seq = b.seq := rfl
@[simp] theorem advance_lastIssue (b : Strand) : (b.advance).lastIssue = b.lastIssue := rfl
@[simp] theorem advance_triggered (b : Strand) : (b.advance).triggered = b.triggered := rfl

@[simp] theorem counted_g (b : Strand) (now : Nat) : (b.counted now).g = b.g := rfl
@[simp] theorem counted_v (b : Strand) (now : Nat) : (b.counted now).v = b.v := rfl
@[simp] theorem counted_b (b : Strand) (now : Nat) : (b.counted now).b = b.b := rfl
@[simp] theorem counted_pc (b : Strand) (now : Nat) : (b.counted now).pc = b.pc := rfl
@[simp] theorem counted_flags (b : Strand) (now : Nat) : (b.counted now).flags = b.flags := rfl
@[simp] theorem counted_levels (b : Strand) (now : Nat) : (b.counted now).levels = b.levels := rfl
@[simp] theorem counted_socks (b : Strand) (now : Nat) : (b.counted now).socks = b.socks := rfl
@[simp] theorem counted_flight (b : Strand) (now : Nat) : (b.counted now).flight = b.flight := rfl
@[simp] theorem counted_idle (b : Strand) (now : Nat) : (b.counted now).idle = b.idle := rfl
@[simp] theorem counted_fmt (b : Strand) (now : Nat) : (b.counted now).fmt = b.fmt := rfl
@[simp] theorem counted_fmtPend (b : Strand) (now : Nat) : (b.counted now).fmtPend = b.fmtPend := rfl
@[simp] theorem counted_life (b : Strand) (now : Nat) : (b.counted now).life = b.life := rfl
@[simp] theorem counted_passEnd (b : Strand) (now : Nat) : (b.counted now).passEnd = b.passEnd := rfl
@[simp] theorem counted_triggered (b : Strand) (now : Nat) : (b.counted now).triggered = b.triggered := rfl

end Sys2Proof.Laws
end

