-- ==== Sys2Proof/Laws/Issue.lean ====
section
/-! SUPPORT. What the issue of a bundle of one move does: it completes, it traps, it stalls; the pipelines and the queues of results. -/

namespace Sys2Proof.Laws

open Sys2Proof.Machine

/-! ## Before the bundle -/

theorem landBank_run (t : Tile) (k : BitVec 2) : (t.landBank k).run = t.run := by
  unfold Tile.landBank
  dsimp only
  split <;> rfl

theorem passBank_run (t : Tile) (q : Quad) (c : Tile) (k : BitVec 2) : (t.passBank q c k).run = t.run := by
  unfold Tile.passBank
  dsimp only
  split <;> rfl

theorem landQueued_fold_run (now : Nat) (k : BitVec 2) : ∀ (ops : List DlOp) (t : Tile),
    (ops.foldl (fun (t : Tile) o =>
      match o.late, o.res with
      | some p, _ => t.addCause { p with since := now }
      | none, some r => t.onBank k fun b => landRes b o.sock false r
      | none, none => t) t).run = t.run := by
  intro ops
  induction ops with
  | nil => intro t; rfl
  | cons o ops ih =>
    intro t
    rw [List.foldl_cons, ih]
    split <;> rfl

theorem landQueued_run (t : Tile) (now : Nat) (k : BitVec 2) : (t.landQueued now k).run = t.run := by
  unfold Tile.landQueued
  dsimp only
  split
  · exact landQueued_fold_run now k _ _
  · rfl

@[simp] theorem settle_tick (s : State) (a : Nat) : (s.settle a).tick = s.tick := rfl
@[simp] theorem settle_cur (s : State) (a : Nat) : (s.settle a).cur = s.cur := rfl
@[simp] theorem settle_quads (s : State) (a : Nat) : (s.settle a).quads = s.quads := rfl
@[simp] theorem settle_mem (s : State) (a : Nat) : (s.settle a).mem = s.mem := rfl

theorem settle_run (s : State) (a : Nat) : ((s.settle a).tileAt a).run = (s.tileAt a).run := by
  unfold State.settle
  simp only [tileAt_onTile, onBank_run, passBank_run, landQueued_run, landBank_run]

/-- What is due before the bundle leaves the gang as it is. -/
theorem settle_inGang (s : State) : (s.settle s.cur).inGang = s.inGang := by
  unfold State.inGang State.self
  rw [settle_cur, settle_run]
  rfl

theorem whenReady_mayIssue {s : State} (h : MayIssue s) (act : State → State) : whenReady act s = act s.atBundle := by
  have hc := h.calm
  have ha := h.able
  unfold State.atBundle at *
  unfold whenReady
  rw [if_neg (by rw [h.alone]; decide)]
  show (match ((s.settle s.cur).self).takePending s.tick false with
    | some t => (s.settle s.cur).setTile t
    | none => if ((s.settle s.cur).self).canIssue s.tick = true then act (s.settle s.cur) else s.settle s.cur) = _
  rw [hc]
  show (if _ then _ else _) = _
  rw [if_pos ha]

theorem issue_mayIssue {s : State} (h : MayIssue s) (acts : List Act) (len : Nat) :
    issue acts len s = issueSingle acts len s.atBundle := by
  unfold issue
  rw [whenReady_mayIssue h]
  have hg : s.atBundle.inGang = false := (settle_inGang s).trans h.alone
  show (if s.atBundle.inGang = true then _ else _) = _
  rw [hg]
  rfl

/-! ## A bundle of one trigger -/

/-- The move of a trigger, read. -/
def gotOf (s : State) (h : Head) (v : Bus) (sp : Spec) : Got :=
  { bus := (s.self).bus, src := s.srcOf h, val := v, dst := none, spec := some sp }

/-- A read of a register that holds no error does not fault (R140). -/
theorem badRead_intact {s : State} {x : Src} (hs : s.intact (regPlace x).toList) : badRead s.atBundle.self s.atBundle.self.run x = false := by
  unfold badRead
  split
  · rename_i f n he
    exact (hs (f, n) (by rw [he]; simp)).1
  · rfl

theorem intact_left {s : State} {l r : List (Nat × Nat)} (hs : s.intact (l ++ r)) : s.intact l := fun x hx => hs x (List.mem_append_left _ hx)
theorem intact_right {s : State} {l r : List (Nat × Nat)} (hs : s.intact (l ++ r)) : s.intact r := fun x hx => hs x (List.mem_append_right _ hx)

/-- The guard of a move lies in a register that holds no error. -/
theorem badGuard_intact {s : State} {h : Head} (hs : s.intact (guardReg h)) : badGuard s.atBundle.self s.atBundle.self.run h.guard = false :=
  badRead_intact hs

theorem readPhase_one {i : Instr} {h : Head} {v : Bus} {s : State} {sp : Spec} (hf : Carries i h v s)
    (hi : headOf i = some (h, none)) :
    readPhase s.atBundle.self [((s.self).bus, i, some sp)] = { gots := [gotOf s h v sp] } := by
  have hg := hf.guard
  have hv := hf.value
  have hs := badRead_intact (intact_right hf.sound)
  have hm := badGuard_intact (intact_left hf.sound)
  unfold State.srcOf State.strand at *
  unfold readPhase
  simp only [hi, readPhase]
  rw [if_pos hg, hv]
  simp only [hs, hm, Option.map_none]
  rfl

theorem regsRead_one {i : Instr} {h : Head} {d : Option Dst} {s : State} {sp : Option Spec} (hi : headOf i = some (h, d))
    (hg : guardHolds s.atBundle.strand h.guard = true) : regsRead s.atBundle.self [((s.self).bus, i, sp)] = s.regsOf h := by
  unfold State.strand at hg
  unfold regsRead
  simp only [hi, regsRead, hg, if_true, List.append_nil]
  rfl

/-- A read that meets no single-bit error leaves the state as it is (R140). -/
theorem regCorrect_clean {s : State} {k : BitVec 2} {ps : List (Nat × Nat)}
    (hc : ∀ r ∈ ps, regListed s.self.softRegs k r.1 r.2 = false) : s.regCorrect k ps = s := by
  unfold State.regCorrect
  dsimp only
  rw [if_neg]
  intro ha
  obtain ⟨e, he, hp⟩ := List.any_eq_true.mp ha
  rw [Bool.and_eq_true, beq_iff_eq] at hp
  have hmem : (e.2.1, e.2.2.1) ∈ ps := by simpa using hp.2
  have := hc _ hmem
  unfold regListed at this
  rw [List.any_eq_false] at this
  exact this e he (by simp [hp.1])

theorem startOne_latched {s : State} {h : Head} {v : Bus} {sp : Spec} (ctl : CtlAct) (er : Option Nat)
    (hr : s.atBundle.self.locked sp.sock = true → sp.sock ≠ .mx → sp.sock ≠ .mu →
      ((s.latched h sp.sock sp.opnd v).self).slotFree sp.sock false = true) :
    startOne s.atBundle.self s.atBundle.strand.pc (s.atBundle.strand.pc + BitVec.ofNat 32 (s.self).blen)
      (gotOf s h v sp) sp { st := s.passed h sp.sock, ctl := ctl, eret := er }
      = sp.run (s.starts h sp.sock sp.opnd v) { st := s.latched h sp.sock sp.opnd v, ctl := ctl, eret := er } := by
  obtain ⟨k, o, rn⟩ := sp
  have hc : ¬(s.atBundle.self.locked k && k != .mx && k != .mu && !((s.latched h k o v).self).slotFree k false) = true := by
    intro hc
    simp only [Bool.and_eq_true, bne_iff_ne, ne_eq, Bool.not_eq_true'] at hc
    have := hr hc.1.1.1 hc.1.1.2 hc.1.2
    rw [this] at hc
    exact absurd hc.2 (by decide)
  cases o with
  | none =>
    have he : ∀ x y : Except Stop Issue, (if (s.atBundle.self.locked k && k != .mx && k != .mu
        && !((s.latched h k none v).self).slotFree k false) = true then x else y) = y := fun x y => if_neg hc
    exact he _ _
  | some o =>
    have he : ∀ x y : Except Stop Issue, (if (s.atBundle.self.locked k && k != .mx && k != .mu
        && !((s.latched h k (some o) v).self).slotFree k false) = true then x else y) = y := fun x y => if_neg hc
    exact he _ _

theorem trigPhase_ok {t0 : Tile} {o n : Word} {g : Got} {sp : Spec} {i j : Issue} (hg : g.spec = some sp)
    (h : startOne t0 o n g sp i = .ok j) : trigPhase t0 o n [g] { out := i } = { out := j } := by
  unfold trigPhase
  rw [hg]
  dsimp only
  rw [h]
  rfl

theorem trigPhase_trap {t0 : Tile} {o n : Word} {g : Got} {sp : Spec} {i : Issue} {c : Cause} {a d : Dword} (hg : g.spec = some sp)
    (h : startOne t0 o n g sp i = .error (.trap c a d)) :
    trigPhase t0 o n [g] { out := i } = { out := i, trap := some (g.bus, c, a, d) } := by
  unfold trigPhase
  rw [hg]
  dsimp only
  rw [h]
  rfl

theorem trigPhase_stall {t0 : Tile} {o n : Word} {g : Got} {sp : Spec} {i : Issue} (hg : g.spec = some sp)
    (h : startOne t0 o n g sp i = .error .stall) : trigPhase t0 o n [g] { out := i } = { out := i, stall := true } := by
  unfold trigPhase
  rw [hg]
  dsimp only
  rw [h]
  rfl

/-- One trigger leaves no order open. -/
theorem orderChoice_one (g : Got) (s : State) : orderChoice [g] s = (false, s) := by
  have h : ([g].any (·.starts .ls) && [g].any (·.starts .ag)) = false := by
    simp only [List.any_cons, List.any_nil, Bool.or_false, Got.starts]
    cases hg : g.spec with
    | none => simp
    | some sp => cases hk : sp.sock <;> simp [hk]
  unfold orderChoice
  rw [h]
  rfl

theorem bySocket_one (b : Bool) (g : Got) : bySocket b [g] = [g] := rfl

/-- Phase 3 of a trigger of any socket but `mx`. -/
theorem startAll_one {s : State} {h : Head} {v : Bus} {sp : Spec} (hk : sp.sock ≠ .mx) :
    startAll s.atBundle.self s.atBundle.strand.pc (s.atBundle.strand.pc + BitVec.ofNat 32 (s.self).blen) [gotOf s h v sp]
      (s.atBundle.onSelf (writePhase [gotOf s h v sp]))
      = trigPhase s.atBundle.self s.atBundle.strand.pc (s.atBundle.strand.pc + BitVec.ofNat 32 (s.self).blen)
          [gotOf s h v sp] { out := { st := s.passed h sp.sock } } := by
  have hm : (gotOf s h v sp).isMx = false := by
    unfold Got.isMx gotOf
    simp [hk]
  unfold startAll
  simp only [List.filter_cons, hm, List.filter_nil, trigPhase, Bool.not_false, if_true, Bool.false_eq_true, if_false,
    orderChoice_one, bySocket_one]
  unfold State.passed
  rw [if_neg hk]
  rfl

/-- Phase 3 of a trigger of `mx`: the cycle of the sequence follows it. -/
theorem startAll_mx {s : State} {h : Head} {v : Bus} {sp : Spec} (hk : sp.sock = .mx) :
    startAll s.atBundle.self s.atBundle.strand.pc (s.atBundle.strand.pc + BitVec.ofNat 32 (s.self).blen) [gotOf s h v sp]
      (s.atBundle.onSelf (writePhase [gotOf s h v sp]))
      = (let r := trigPhase s.atBundle.self s.atBundle.strand.pc (s.atBundle.strand.pc + BitVec.ofNat 32 (s.self).blen)
          [gotOf s h v sp] { out := { st := s.passed h sp.sock } }
         { r with out := { r.out with st := r.out.st.mxIssueCycle s.cur s.atBundle.self.run } }) := by
  have hm : (gotOf s h v sp).isMx = true := by
    unfold Got.isMx gotOf
    simp [hk]
  unfold startAll
  simp only [List.filter_cons, hm, List.filter_nil, Bool.not_true, Bool.false_eq_true, if_false, if_true, orderChoice_one]
  unfold State.passed
  rw [if_pos hk]
  rfl

/-- The outcome of the bundle, from that of phase 3. -/
theorem prepare_one {i : Instr} {h : Head} {v : Bus} {s : State} {sp : Spec} (hf : Fires i h v s)
    (hi : headOf i = some (h, none)) :
    prepare [((s.self).bus, i, some sp)] (s.self).blen s.atBundle
      = (let r := startAll s.atBundle.self s.atBundle.strand.pc (s.atBundle.strand.pc + BitVec.ofNat 32 (s.self).blen)
          [gotOf s h v sp] (s.atBundle.onSelf (writePhase [gotOf s h v sp]))
         if r.stall then .stall
         else
           let trap : Option Pending := match r.trap with
             | some (bus, c, a, d) => some { bank := s.atBundle.self.run, cause := c, kind := .trigger, bus := some bus,
                                             origin := s.atBundle.strand.pc, addr := a, detail := d,
                                             seq := s.atBundle.strand.seq, since := s.tick }
             | none => none
           if r.wait then .wait trap else match trap with | some p => .fault p | none => .ok r.out) := by
  have hfree : (s.atBundle.self).waits s.atBundle.tick = false := hf.may.free
  have hlegal := hf.carries.legal
  have hrd := readPhase_one (sp := sp) hf.carries hi
  have hreg := regsRead_one (sp := some sp) hi hf.carries.guard
  have hcl : s.atBundle.regCorrect s.atBundle.self.run (s.regsOf h) = s.atBundle := regCorrect_clean fun r hr => (hf.carries.sound r hr).2
  unfold prepare
  simp only [hfree, Bool.false_eq_true, if_false, List.findSome?_cons, List.findSome?_nil, hlegal, Option.map_none, hrd, hreg, hcl]
  unfold State.strand
  generalize startAll s.atBundle.self (s.atBundle.self.bank s.atBundle.self.run).pc _ _ _ = r
  obtain ⟨out, stall, wait, trap⟩ := r
  cases stall <;> cases wait <;> rcases trap with _ | ⟨bus, c, a, d⟩ <;> rfl

/-- COMPLETION: the meaning of a trigger that fires and starts. -/
theorem issueOne_runs {i : Instr} {h : Head} {v : Bus} {s : State} {sp : Spec} {j : Issue} (hf : Fires i h v s)
    (hi : headOf i = some (h, none)) (hk : sp.sock ≠ .mx)
    (hr : s.atBundle.self.locked sp.sock = true → sp.sock ≠ .mx → sp.sock ≠ .mu →
      ((s.latched h sp.sock sp.opnd v).self).slotFree sp.sock false = true)
    (hrun : sp.run (s.starts h sp.sock sp.opnd v) { st := s.latched h sp.sock sp.opnd v } = .ok j) :
    issueOne i sp s = .next (s.ended j) := by
  have hp : prepare [((s.self).bus, i, some sp)] (s.self).blen s.atBundle = .ok j := by
    rw [prepare_one hf hi, startAll_one hk]
    rw [trigPhase_ok rfl ((startOne_latched .none none hr).trans hrun)]
    rfl
  unfold issueOne
  rw [issue_mayIssue hf.may]
  unfold issueSingle
  rw [hp]
  unfold State.ended
  obtain ⟨st, ctl, er, asid⟩ := j
  cases ctl <;> rfl

/-- COMPLETION of a trigger of `mx`. -/
theorem issueOne_runs_mx {i : Instr} {h : Head} {v : Bus} {s : State} {sp : Spec} {j : Issue} (hf : Fires i h v s)
    (hi : headOf i = some (h, none)) (hk : sp.sock = .mx)
    (hrun : sp.run (s.starts h sp.sock sp.opnd v) { st := s.latched h sp.sock sp.opnd v } = .ok j) :
    issueOne i sp s = .next (s.ended { j with st := j.st.mxIssueCycle s.cur s.atBundle.self.run }) := by
  have hp : prepare [((s.self).bus, i, some sp)] (s.self).blen s.atBundle
      = .ok { j with st := j.st.mxIssueCycle s.cur s.atBundle.self.run } := by
    rw [prepare_one hf hi, startAll_mx hk]
    rw [trigPhase_ok rfl ((startOne_latched .none none (fun _ hm => absurd hk hm)).trans hrun)]
    rfl
  unfold issueOne
  rw [issue_mayIssue hf.may]
  unfold issueSingle
  rw [hp]
  unfold State.ended
  obtain ⟨st, ctl, er, asid⟩ := j
  cases ctl <;> rfl

/-- A TRAP of a trigger of any socket but `mx`. -/
theorem issueOne_traps {i : Instr} {h : Head} {v : Bus} {s : State} {sp : Spec} {c : Cause} {a d : Dword} (hf : Fires i h v s)
    (hi : headOf i = some (h, none)) (hk : sp.sock ≠ .mx)
    (hr : s.atBundle.self.locked sp.sock = true → sp.sock ≠ .mx → sp.sock ≠ .mu →
      ((s.latched h sp.sock sp.opnd v).self).slotFree sp.sock false = true)
    (hrun : sp.run (s.starts h sp.sock sp.opnd v) { st := s.latched h sp.sock sp.opnd v } = .error (.trap c a d)) :
    issueOne i sp s = .next (s.trapped (s.trapOf c a d)) := by
  have hp : prepare [((s.self).bus, i, some sp)] (s.self).blen s.atBundle = .fault (s.trapOf c a d) := by
    rw [prepare_one hf hi, startAll_one hk]
    rw [trigPhase_trap rfl ((startOne_latched .none none hr).trans hrun)]
    rfl
  unfold issueOne
  rw [issue_mayIssue hf.may]
  unfold issueSingle
  rw [hp]
  rfl

/-- A TRAP of a trigger of `mx`. -/
theorem issueOne_traps_mx {i : Instr} {h : Head} {v : Bus} {s : State} {sp : Spec} {c : Cause} {a d : Dword} (hf : Fires i h v s)
    (hi : headOf i = some (h, none)) (hk : sp.sock = .mx)
    (hrun : sp.run (s.starts h sp.sock sp.opnd v) { st := s.latched h sp.sock sp.opnd v } = .error (.trap c a d)) :
    issueOne i sp s = .next (s.trapped (s.trapOf c a d)) := by
  have hp : prepare [((s.self).bus, i, some sp)] (s.self).blen s.atBundle = .fault (s.trapOf c a d) := by
    rw [prepare_one hf hi, startAll_mx hk]
    rw [trigPhase_trap rfl ((startOne_latched .none none (fun _ hm => absurd hk hm)).trans hrun)]
    rfl
  unfold issueOne
  rw [issue_mayIssue hf.may]
  unfold issueSingle
  rw [hp]
  rfl

/-- A STALL of a trigger of any socket but `mx`. -/
theorem issueOne_stalls {i : Instr} {h : Head} {v : Bus} {s : State} {sp : Spec} (hf : Fires i h v s)
    (hi : headOf i = some (h, none)) (hk : sp.sock ≠ .mx)
    (hr : s.atBundle.self.locked sp.sock = true → sp.sock ≠ .mx → sp.sock ≠ .mu →
      ((s.latched h sp.sock sp.opnd v).self).slotFree sp.sock false = true)
    (hrun : sp.run (s.starts h sp.sock sp.opnd v) { st := s.latched h sp.sock sp.opnd v } = .error .stall) :
    issueOne i sp s = .next (stallTick s.atBundle) := by
  have hp : prepare [((s.self).bus, i, some sp)] (s.self).blen s.atBundle = .stall := by
    rw [prepare_one hf hi, startAll_one hk]
    rw [trigPhase_stall rfl ((startOne_latched .none none hr).trans hrun)]
    rfl
  unfold issueOne
  rw [issue_mayIssue hf.may]
  unfold issueSingle
  rw [hp]

/-- A meaning never stops the model: every issue answers a next state. -/
theorem issueOne_next (i : Instr) (sp : Spec) (s : State) : ∃ t, issueOne i sp s = .next t := ⟨_, rfl⟩

/-! ## A bundle of one move of any kind -/
theorem issue_ready {s : State} (h : MayIssue s) (i : Instr) (sp : Option Spec) :
    issue [((s.self).bus, i, sp)] (s.self).blen s = issueSingle [((s.self).bus, i, sp)] (s.self).blen s.atBundle :=
  issue_mayIssue h _ _

theorem exec_issue (i : Instr) (h : Head) (d : Option Dst) (hi : headOf i = some (h, d)) (s : State) :
    ∃ sp, exec i s = .next (issue [((s.self).bus, i, sp)] (s.self).blen s) := by
  cases i
  case move m => exact ⟨none, rfl⟩
  all_goals first
    | exact ⟨some _, rfl⟩
    | (have hi' : none = some (h, d) := hi; cases hi')

theorem prepare_quiet {i : Instr} {h : Head} {d : Option Dst} {s : State} (sp : Option Spec) (hi : headOf i = some (h, d)) (hm : MayIssue s)
    (hl : moveCause (s.atBundle.self.run = 3) s.atBundle.self.lis.length i = none)
    (hg : guardHolds s.atBundle.strand h.guard = false) (hs : s.intact (guardReg h)) :
    prepare [((s.self).bus, i, sp)] (s.self).blen s.atBundle = .ok { st := (s.atBundle.onSelf fun t => t).mxIssueCycle s.cur s.atBundle.self.run } := by
  have hfree : (s.atBundle.self).waits s.atBundle.tick = false := hm.free
  have hb := badGuard_intact hs
  have hr : readPhase s.atBundle.self [((s.self).bus, i, sp)] = {} := by
    unfold State.strand at hg
    unfold readPhase
    simp only [hi, hg, hb, readPhase]
    rfl
  have hp : regsRead s.atBundle.self [((s.self).bus, i, sp)] = guardReg h := by
    unfold State.strand at hg
    unfold regsRead
    simp only [hi, regsRead, hg, Bool.false_eq_true, if_false, List.append_nil]
    rfl
  have hcl : s.atBundle.regCorrect s.atBundle.self.run (guardReg h) = s.atBundle := regCorrect_clean fun r hr => (hs r hr).2
  unfold prepare
  simp only [hfree, Bool.false_eq_true, if_false, List.findSome?_cons, List.findSome?_nil, hl, Option.map_none, hr, hp, hcl]
  rfl

theorem exec_quiet {i : Instr} {h : Head} {d : Option Dst} {s : State} (hi : headOf i = some (h, d)) (hm : MayIssue s)
    (hl : moveCause (s.atBundle.self.run = 3) s.atBundle.self.lis.length i = none)
    (hg : guardHolds s.atBundle.strand h.guard = false) (hs : s.intact (guardReg h)) : exec i s = .next s.quiet := by
  obtain ⟨sp, he⟩ := exec_issue i h d hi s
  rw [he, issue_ready hm]
  unfold issueSingle
  rw [prepare_quiet sp hi hm hl hg hs]
  rfl

theorem exec_decodeFault {i : Instr} {h : Head} {d : Option Dst} {c : Cause} {s : State} (hi : headOf i = some (h, d)) (hm : MayIssue s)
    (hl : moveCause (s.atBundle.self.run = 3) s.atBundle.self.lis.length i = some c) :
    exec i s = .next (s.trapped { s.trapOf c 0 0 with kind := .decode }) := by
  obtain ⟨sp, he⟩ := exec_issue i h d hi s
  rw [he, issue_ready hm]
  unfold issueSingle
  have : prepare [((s.self).bus, i, sp)] (s.self).blen s.atBundle = .fault { s.trapOf c 0 0 with kind := .decode } := by
    unfold prepare
    simp only [List.findSome?_cons, hl, Option.map_some]
    rfl
  rw [this]
  rfl

theorem exec_stall {i : Instr} {h : Head} {d : Option Dst} {s : State} (hi : headOf i = some (h, d)) (hm : MayIssue s)
    (hl : moveCause (s.atBundle.self.run = 3) s.atBundle.self.lis.length i = none)
    (hg : guardHolds s.atBundle.strand h.guard = true)
    (hv : readSrc s.atBundle.self s.atBundle.strand (s.srcOf h) = none) : exec i s = .next (stallTick s.atBundle) := by
  obtain ⟨sp, he⟩ := exec_issue i h d hi s
  rw [he, issue_ready hm]
  unfold issueSingle
  have hfree : (s.atBundle.self).waits s.atBundle.tick = false := hm.free
  have hr : (readPhase s.atBundle.self [((s.self).bus, i, sp)]).stall = true := by
    unfold State.strand State.srcOf State.strand at *
    unfold readPhase
    simp only [hi, hg, readPhase, if_true]
    rw [hv]
  have : prepare [((s.self).bus, i, sp)] (s.self).blen s.atBundle = .stall := by
    unfold prepare
    simp only [hfree, Bool.false_eq_true, if_false, List.findSome?_cons, List.findSome?_nil, hl, Option.map_none, hr, if_true]
  rw [this]

theorem moveCause_null (rest : BitVec 28) (sup : Bool) (nli : Nat) : moveCause sup nli (.move (.null rest)) = none := by
  unfold moveCause touches
  simp [Instr.form]

/-! ## Results on their way -/

/-- `deliver` puts the result on its way. -/
theorem deliver_spec {st : Start} {lat : Nat} {r : Res} {late : Option Pending} {i : Issue}
    (h : st.locked = true → (i.st.self).slotFree st.sock false = true) :
    deliver st false lat r late i = .ok { i with st := i.st.delivered st lat r late } := by
  unfold deliver State.delivered
  cases hl : st.locked
  · rfl
  · simp only [Bool.true_or, if_true, h hl]
    rfl

/-- An operation of a computing socket completes. -/
theorem issueOne_compute {i : Instr} {h : Head} {v : Bus} {s : State} {k : Sock} {o : Option Opnd} {lat : Nat} {f : Start → Res}
    (hf : Fires i h v s) (hi : headOf i = some (h, none)) (hk : k ≠ .mx) (ha : Admits h k o v s) :
    issueOne i (compute k o lat f) s
      = .next (s.ended { st := (s.latched h k o v).delivered (s.starts h k o v) lat (f (s.starts h k o v)) }) := by
  refine issueOne_runs hf hi hk (fun hl _ _ => ha hl) ?_
  show deliver (s.starts h k o v) false lat (f (s.starts h k o v)) none { st := s.latched h k o v } = _
  exact deliver_spec ha

end Sys2Proof.Laws
end

