-- ==== Sys2Proof/Laws/Triggers.lean ====
section
/-! SUPPORT. One lemma for each way a trigger can go: it completes, it traps, it stalls; the checks of local accesses, performing at a trigger, and what a read of local SRAM leaves alone. -/

namespace Sys2Proof.Laws

open Sys2Proof Sys2Proof.Machine

/-- An operation without `.x` is performed at its trigger. -/
theorem performNow_spec {st : Start} {r : Res} {i : Issue} (h : st.locked = true → (i.st.self).slotFree st.sock false = true) :
    performNow st r i = .ok { i with st := i.st.performedNow st r } := by
  unfold performNow State.performedNow
  cases hl : st.locked
  · rfl
  · simp only [if_true, h hl]
    rfl

/-- Whether a slot is free depends on the queue and the running bank alone. -/
theorem slotFree_queue {t u : Tile} (h : t.queue = u.queue) (hr : t.run = u.run) (k : Sock) (dv : Bool) : t.slotFree k dv = u.slotFree k dv := by
  unfold Tile.slotFree; rw [h, hr]

/-- The check of a list of elements: the first one at fault decides, and none at fault passes. -/
theorem lsCheck_eq (sz : Nat) : ∀ as : List Nat, lsCheck sz as = match firstOut sz as with
    | none => .ok ()
    | some a => .error (if a % sz ≠ 0 then .trap .misaligned (BitVec.ofNat 64 a) 0 else .trap .localRange (BitVec.ofNat 64 a) 0)
  | [] => rfl
  | a :: r => by
    have ih := lsCheck_eq sz r
    by_cases hm : a % sz = 0
    · by_cases hl : 0x60000 < a + sz
      · simp [lsCheck, firstOut, hm, hl]
      · rw [lsCheck, if_neg (by simpa using hm), if_neg hl, ih]
        simp [firstOut, hm, hl]
    · simp [lsCheck, firstOut, hm]

/-- No element is at fault. -/
theorem lsCheck_ok {sz : Nat} {as : List Nat} (h : firstOut sz as = none) : lsCheck sz as = .ok () := by
  rw [lsCheck_eq, h]

/-- The first element at fault decides. -/
theorem lsCheck_bad {sz : Nat} {as : List Nat} {a : Nat} (h : firstOut sz as = some a) :
    lsCheck sz as = .error (if a % sz ≠ 0 then .trap .misaligned (BitVec.ofNat 64 a) 0 else .trap .localRange (BitVec.ofNat 64 a) 0) := by
  rw [lsCheck_eq, h]

/-- COMPLETION of a trigger, from the run of its meaning. -/
theorem runs_of {i : Instr} {sp : Spec} {h : Head} {k : Sock} {o : Option Opnd} {ok : Start → State → Prop} {f : Start → State → Issue}
    (he : ∀ s, exec i s = issueOne i sp s) (hi : headOf i = some (h, none)) (hk : sp.sock = k) (ho : sp.opnd = o) (hm : k ≠ .mx)
    (hr : ∀ st s, st.sock = k → (st.locked = true → s.self.slotFree k false = true) → ok st s → sp.run st { st := s } = .ok (f st s)) : Runs i h k o ok f := by
  subst hk ho
  intro s v hf ha hok
  rw [he]
  exact issueOne_runs hf hi hm (fun hl _ _ => ha hl) (hr _ _ rfl ha hok)

/-- A TRAP of a trigger, from the run of its meaning. -/
theorem traps_of {i : Instr} {sp : Spec} {h : Head} {k : Sock} {o : Option Opnd} {ok : Start → State → Prop} {c : Cause} {a d : Start → Dword}
    (he : ∀ s, exec i s = issueOne i sp s) (hi : headOf i = some (h, none)) (hk : sp.sock = k) (ho : sp.opnd = o) (hm : k ≠ .mx)
    (hr : ∀ st s, st.sock = k → (st.locked = true → s.self.slotFree k false = true) → ok st s → sp.run st { st := s } = .error (.trap c (a st) (d st))) : Traps i h k o ok c a d := by
  subst hk ho
  intro s v hf ha hok
  rw [he]
  exact issueOne_traps hf hi hm (fun hl _ _ => ha hl) (hr _ _ rfl ha hok)

/-- A STALL of a trigger, from the run of its meaning. -/
theorem stalls_of {i : Instr} {sp : Spec} {h : Head} {k : Sock} {o : Option Opnd} {ok : Start → State → Prop}
    (he : ∀ s, exec i s = issueOne i sp s) (hi : headOf i = some (h, none)) (hk : sp.sock = k) (ho : sp.opnd = o) (hm : k ≠ .mx)
    (hr : ∀ st s, st.sock = k → st.locked = true → ok st s → sp.run st { st := s } = .error .stall) :
    ∀ (s : State) (v : Bus), Fires i h v s → Admits h k o v s → ok (s.starts h k o v) (s.latched h k o v) →
        (s.starts h k o v).locked = true → exec i s = .next (stallTick s.atBundle) := by
  subst hk ho
  intro s v hf ha hok hl
  rw [he]
  exact issueOne_stalls hf hi hm (fun hl _ _ => ha hl) (hr _ _ rfl hl hok)

/-- COMPLETION of a trigger of `mx`. -/
theorem runsMx_of {i : Instr} {sp : Spec} {h : Head} {o : Option Opnd} {ok : Start → State → Prop} {f : Start → State → Issue}
    (he : ∀ s, exec i s = issueOne i sp s) (hi : headOf i = some (h, none)) (hk : sp.sock = .mx) (ho : sp.opnd = o)
    (hr : ∀ st s, ok st s → sp.run st { st := s } = .ok (f st s)) : RunsMx i h o ok f := by
  subst ho
  intro s v hf hok
  rw [he]
  have := issueOne_runs_mx (sp := sp) hf hi hk (by rw [hk]; exact hr _ _ hok)
  exact this

/-- A TRAP of a trigger of `mx`. -/
theorem trapsMx_of {i : Instr} {sp : Spec} {h : Head} {o : Option Opnd} {ok : Start → State → Prop} {c : Cause} {a d : Start → Dword}
    (he : ∀ s, exec i s = issueOne i sp s) (hi : headOf i = some (h, none)) (hk : sp.sock = .mx) (ho : sp.opnd = o)
    (hr : ∀ st s, ok st s → sp.run st { st := s } = .error (.trap c (a st) (d st))) : TrapsMx i h o ok c a d := by
  subst ho
  intro s v hf hok
  rw [he]
  exact issueOne_traps_mx hf hi hk (by rw [hk]; exact hr _ _ hok)

/-- A STALL of a trigger of `mx`. -/
theorem issueOne_stalls_mx {i : Instr} {h : Head} {v : Bus} {s : State} {sp : Spec} (hf : Fires i h v s)
    (hi : headOf i = some (h, none)) (hk : sp.sock = .mx)
    (hrun : sp.run (s.starts h sp.sock sp.opnd v) { st := s.latched h sp.sock sp.opnd v } = .error .stall) :
    issueOne i sp s = .next (stallTick s.atBundle) := by
  have hp : prepare [((s.self).bus, i, some sp)] (s.self).blen s.atBundle = .stall := by
    rw [prepare_one hf hi, startAll_mx hk]
    rw [trigPhase_stall rfl ((startOne_latched .none none (fun _ hm => absurd hk hm)).trans hrun)]
    rfl
  unfold issueOne
  rw [issue_mayIssue hf.may]
  unfold issueSingle
  rw [hp]

/-- `mx` has room: the check of R244 passes. -/
theorem mxAdmit_room {st : Start} {acc : BitVec 2} {sp : Bool} {s : State} {k : Issue → Except Stop Issue} (h : mxRoom st s.pruned) :
    mxAdmit st acc sp { st := s } k = k { st := s.pruned } := by
  unfold mxAdmit
  show (if st.locked = true then if 2 ≤ s.pruned.self.mxq.length ∨ 2 ≤ s.pruned.self.mxSlots then _ else _ else if 2 ≤ s.pruned.self.mxq.length then _ else _) = _
  cases hl : st.locked
  · rw [if_neg (by decide), if_neg (by have := h.1; omega)]; rfl
  · rw [if_pos rfl, if_neg (by have := h.1; have := h.2 hl; omega)]; rfl

/-- A free-running `mx` without room refuses. -/
theorem mxAdmit_refuse {st : Start} {acc : BitVec 2} {sp : Bool} {s : State} {k : Issue → Except Stop Issue} (hl : st.locked = false)
    (h : 2 ≤ s.pruned.self.mxq.length) :
    mxAdmit st acc sp { st := s } k = .ok (mxRefuse st (mxStatus acc false true false false false sp false) { st := s }) := by
  unfold mxAdmit
  show (if st.locked = true then _ else if 2 ≤ s.pruned.self.mxq.length then _ else _) = _
  rw [hl, if_neg (by decide), if_pos h]

/-- A data-locked `mx` without room stalls. -/
theorem mxAdmit_stall {st : Start} {acc : BitVec 2} {sp : Bool} {s : State} {k : Issue → Except Stop Issue} (hl : st.locked = true)
    (h : ¬mxRoom st s.pruned) : mxAdmit st acc sp { st := s } k = .error .stall := by
  unfold mxAdmit
  show (if st.locked = true then if 2 ≤ s.pruned.self.mxq.length ∨ 2 ≤ s.pruned.self.mxSlots then _ else _ else _) = _
  rw [hl, if_pos rfl, if_pos]
  unfold mxRoom at h
  by_cases h1 : 2 ≤ s.pruned.self.mxq.length
  · exact .inl h1
  · by_cases h2 : 2 ≤ s.pruned.self.mxSlots
    · exact .inr h2
    · exact absurd ⟨by omega, fun _ => by omega⟩ h

/-! ## Reads of local SRAM -/

/-- What a read of local SRAM leaves alone. -/
structure SameButErrors (s t : State) : Prop where
  cur : t.cur = s.cur
  tick : t.tick = s.tick
  mem : t.mem = s.mem
  queue : t.self.queue = s.self.queue
  run : t.self.run = s.self.run
  banks : t.self.banks = s.self.banks
  sram : t.self.sram = s.self.sram

theorem SameButErrors.rfl' (s : State) : SameButErrors s s := ⟨rfl, rfl, rfl, rfl, rfl, rfl, rfl⟩

theorem correct_frame (s : State) (ps : List Nat) : SameButErrors s (s.correct s.cur ps) := by
  unfold State.correct
  dsimp only
  split
  · exact SameButErrors.rfl' s
  · have key : ∀ {α : Type} (g : Tile → α), (∀ (t : Tile) (x : Nat), g { t with addr := x } = g t) →
        (∀ (t : Tile) (l : List Nat) (e : Vector Nat 5), g { t with soft := l, errs := e } = g t) →
        ∀ (f : Tile → Tile), (∀ t, ∃ l e, f t = { t with soft := l, errs := e }) → g (s.onSelf f).self = g s.self := by
      intro α g h1 h2 f hf
      rw [self_onSelf, h1]
      obtain ⟨l, e, he⟩ := hf s.self
      rw [he, h2]
    refine ⟨rfl, rfl, rfl, ?_, ?_, ?_, ?_⟩
    · exact key Tile.queue (fun _ _ => rfl) (fun _ _ _ => rfl) _ (fun t => ⟨_, _, rfl⟩)
    · exact key Tile.run (fun _ _ => rfl) (fun _ _ _ => rfl) _ (fun t => ⟨_, _, rfl⟩)
    · exact key Tile.banks (fun _ _ => rfl) (fun _ _ _ => rfl) _ (fun t => ⟨_, _, rfl⟩)
    · exact key Tile.sram (fun _ _ => rfl) (fun _ _ _ => rfl) _ (fun t => ⟨_, _, rfl⟩)

theorem sramRead_frame (s : State) (ps : List Nat) : SameButErrors s (s.sramRead s.cur ps).2 := by
  have h := correct_frame s ps
  unfold State.sramRead
  dsimp only
  split
  · exact ⟨h.cur, h.tick, h.mem, h.queue, h.run, h.banks, h.sram⟩
  · exact h

/-- The error record of a cause leaves the queue and the running bank. -/
theorem noteCause_queue (s : State) (p : Pending) : ((s.noteCause s.cur p).self).queue = s.self.queue ∧ ((s.noteCause s.cur p).self).run = s.self.run
    ∧ (s.noteCause s.cur p).cur = s.cur := by
  have hr : ∀ (s : State) c x u w a l, (s.record c x u w a l).tiles = s.tiles ∧ (s.record c x u w a l).cur = s.cur := by
    intro s c x u w a l; unfold State.record; split <;> exact ⟨rfl, rfl⟩
  have key : ∀ (i : Fin 5) (s2 : State) (k : Nat) c d x l, s2.tiles = (s.onTile s.cur fun t => t.errAdd i 1 0xFF).tiles → s2.cur = s.cur →
      let s3 := s2.tileRecord k s.cur c d x l
      s3.self.queue = s.self.queue ∧ s3.self.run = s.self.run ∧ s3.cur = s.cur := by
    intro i s2 k c d x l h2 hc s3
    have h : s3.tiles = s2.tiles ∧ s3.cur = s2.cur := hr s2 k c (causeUnit c d) (s2.mtile s.cur) x l
    have ht : s3.self = (s.onSelf fun t => t.errAdd i 1 0xFF).self := by
      unfold State.self State.tileAt
      rw [h.1.trans h2, h.2.trans hc]; rfl
    rw [ht, self_onSelf]
    exact ⟨rfl, rfl, h.2.trans hc⟩
  unfold State.noteCause
  split
  · dsimp only
    split
    · exact key 3 _ _ _ _ _ _ rfl rfl
    · exact key 3 _ _ _ _ _ _ rfl rfl
  · exact key 4 _ _ _ _ _ _ rfl rfl
  all_goals exact ⟨rfl, rfl, rfl⟩

end Sys2Proof.Laws
end

