-- ==== Sys2Proof/Laws/Ends.lean ====
section
/-! SUPPORT. What the end of an issue cycle does: the tile it leaves, what it leaves alone. -/

namespace Sys2Proof.Laws

open Sys2Proof Sys2Proof.Machine

theorem self_setTile (s : State) (t : Tile) (h : t.addr = s.cur) : (s.setTile t).self = t := by
  have := tileAt_setTile s t
  rw [h] at this
  exact this

theorem taskCycle_is (t : Tile) : ∃ k, t.taskCycle = { t with tasks := k } := by
  unfold Tile.taskCycle
  split
  · exact ⟨_, rfl⟩
  · exact ⟨t.tasks, rfl⟩

/-- The strand after its bundle, as control leaves it. -/
def nextStrand (u : State) (len : Nat) (c : CtlAct) : Strand × Nat :=
  let t := u.self
  control (u.quadAt u.cur) (u.codeTile u.cur) t.run ((t.bank t.run).pc + BitVec.ofNat 32 len) c (((t.bank t.run).advance).counted u.tick)

/-- The end of an issue cycle without a return, a halt or a cause. -/
theorem finish_plain (len : Nat) (u : State) (c : CtlAct) (hh : c ≠ .halt) (hr : ∀ p, c ≠ .raise p) :
    ∃ k, (finish len { st := u, ctl := c }).self =
      { (u.self.setBank u.self.run (nextStrand u len c).1) with
        ready := u.tick + (nextStrand u len c).2, stalled := 0, stallFrom := none, gangWait := none, gangGo := false, tasks := k } := by
  have key : ∃ k, (finish len { st := u, ctl := c }) = { (u.setTile { (u.self.setBank u.self.run (nextStrand u len c).1) with
        ready := u.tick + (nextStrand u len c).2, stalled := 0, stallFrom := none, gangWait := none, gangGo := false, tasks := k }) with
        cnt := { u.cnt with issue := u.cnt.issue + 1 } } := by
    unfold finish nextStrand
    cases c
    case halt => exact absurd rfl hh
    case raise p => exact absurd rfl (hr p)
    all_goals
      dsimp only
      by_cases h3 : u.self.run = 3
      · rw [if_pos h3]; exact ⟨u.self.tasks, rfl⟩
      · rw [if_neg h3]
        obtain ⟨k, hk⟩ := taskCycle_is { (u.self.setBank u.self.run (nextStrand u len _).1) with
          ready := u.tick + (nextStrand u len _).2, stalled := 0, stallFrom := none, gangWait := none, gangGo := false }
        refine ⟨k, ?_⟩
        unfold nextStrand at hk
        rw [hk]
  obtain ⟨k, hk⟩ := key
  refine ⟨k, ?_⟩
  rw [hk]
  exact self_setTile u _ (tileAt_addr u u.cur)

end Sys2Proof.Laws
end

