-- ==== Sys2Proof/Laws/Engines.lean ====
section
/-! SUPPORT. What it is for a trigger of an engine to queue its operation. -/

namespace Sys2Proof.Laws

open Sys2Proof Sys2Proof.Machine

/-- The rest of the module does not see an update of the served tile. -/
theorem onSelf_rest (s : State) (f : Tile → Tile) : SameRest s (s.onSelf f) :=
  ⟨fun _ h => tileAt_onTile_other s f h, rfl, rfl, rfl, rfl, rfl, rfl, rfl, rfl, rfl, rfl⟩

/-- An operation joins the queue, with its tag named before. -/
theorem enqueue_queued (st : Start) (s : State) (o : DlOp) (named : Tile → Tile) (hn : ∀ t, (named t).tasked = t.tasked)
    (ht : ∀ t, (named t).tasks = t.tasks) (ha : ∀ t, (named t).asid = t.asid) (hq : ∀ t, (named t).nextOp = t.nextOp) :
    Queued st s (enqueue st (s.onSelf named) o) o named [] := by
  have hs : (s.onSelf named).self = { named s.self with addr := s.cur } := self_onSelf s named
  refine ⟨?_, ?_, ⟨0, by rw [List.map_nil, List.append_nil]; rfl⟩⟩
  · unfold enqueue queuedOp
    rw [self_onSelf, hs]
    dsimp only
    rw [hn, ht, ha, hq]
    rfl
  · unfold enqueue
    have h1 := onSelf_rest s named
    refine ⟨fun a h => ?_, rfl, rfl, rfl, rfl, rfl, rfl, rfl, rfl, rfl, rfl⟩
    rw [← h1.1 a h]
    exact tileAt_onTile_other (s.onSelf named) _ h

/-- An event is scheduled one tick from now at the earliest. -/
theorem queued_sched {st : Start} {s t : State} {o : DlOp} {named : Tile → Tile} (h : Queued st s t o named []) (span : Option Nat) (i : Instr) (e : EvArg) :
    Queued st s (t.sched 1 span i e) o named [(i, e)] := by
  obtain ⟨h1, h2, d, h3⟩ := h
  have ht : t.tick = s.tick := h2.2.2.2.2.2.1
  refine ⟨h1, h2, (match span with | none => Config.delay t.free | some n => Config.delay t.free % (n + 1)), ?_⟩
  show t.agenda ++ [(t.tick + 1 + (match span with | none => Config.delay t.free | some n => Config.delay t.free % (n + 1)), i, e)] = _
  rw [h3, ht, List.map_nil, List.append_nil]
  rfl

/-- A TRIGGER QUEUES ITS OPERATION, from the run of its meaning. -/
theorem queues_of {i : Instr} {sp : Spec} {h : Head} {k : Sock} {o : Option Opnd} {ok : Start → State → Prop} {op : Start → State → DlOp}
    {named : DlOp → Tile → Tile} {ev : DlOp → EvArg → List (Instr × EvArg)} (he : ∀ s, exec i s = issueOne i sp s) (hi : headOf i = some (h, none))
    (hk : sp.sock = k) (ho : sp.opnd = o) (hm : k ≠ .mx)
    (hr : ∀ st s, st.sock = k → ok st s → ∃ t, sp.run st { st := s } = .ok { st := t } ∧
      Queued st s t (op st s) (named (op st s)) (ev (op st s) { tile := s.cur, op := s.self.nextOp })) : Queues i h k o ok op named ev := by
  subst hk ho
  intro s v hf ha hok
  obtain ⟨t, h1, h2⟩ := hr _ _ rfl hok
  refine ⟨t, ?_, h2⟩
  rw [he]
  exact issueOne_runs hf hi hm (fun hl _ _ => ha hl) h1

/-- An operation without a tag or an event. -/
theorem plain_queued (st : Start) (s : State) (o : DlOp) : Queued st s (enqueue st s o) o (noTag o) (noEvent o { tile := s.cur, op := s.self.nextOp }) := by
  refine ⟨?_, ?_, ⟨0, by unfold noEvent; rw [List.map_nil, List.append_nil]; rfl⟩⟩
  · unfold enqueue queuedOp noTag
    rw [self_onSelf]
  · exact onSelf_rest s _

/-- An operation of `dm` (R281). -/
theorem dm_queued (st : Start) (s : State) (o : DlOp) :
    ∃ t, dmQueue st { st := s } o = .ok { st := t } ∧ Queued st s t o (dmTag o) (dmEvent o { tile := s.cur, op := s.self.nextOp }) := by
  unfold dmQueue dmEvent
  dsimp only
  have fin : ∀ (u : State), u.cur = s.cur → u.self.nextOp = s.self.nextOp → Queued st s (enqueue st u o) o (dmTag o) [] →
      ∃ t, (Except.ok { st := if (o.st == .performed) = true then enqueue st u o
          else (enqueue st u o).sched 1 none .dmCompletion { tile := (enqueue st u o).cur, op := u.self.nextOp } } : Except Stop Issue) = .ok { st := t } ∧
        Queued st s t o (dmTag o) (if o.st = .performed then [] else [(.dmCompletion, { tile := s.cur, op := s.self.nextOp })]) := by
    intro u h1 h2 h3
    refine ⟨_, rfl, ?_⟩
    by_cases hp : o.st = .performed
    · rw [if_pos hp, if_pos (by rw [hp]; rfl)]; exact h3
    · rw [if_neg hp, if_neg (by simpa using hp)]
      have hc : (enqueue st u o).cur = s.cur := h1
      rw [hc, h2]
      exact queued_sched h3 _ _ _
  cases ht : o.tag with
  | none =>
    dsimp only
    refine fin s rfl rfl ?_
    have : dmTag o = noTag o := by unfold dmTag noTag; rw [ht]
    rw [this]
    exact plain_queued st s o
  | some n =>
    dsimp only
    have : dmTag o = fun t => t.nameTag n.toNat := by unfold dmTag; rw [ht]
    refine fin _ rfl ?_ ?_
    · rw [self_onSelf]; rfl
    · rw [this]
      exact enqueue_queued st s o _ (fun _ => rfl) (fun _ => rfl) (fun _ => rfl) (fun _ => rfl)

/-- An operation of `nt` (R315). -/
theorem nt_queued (st : Start) (s : State) (o : DlOp) (ev : List (Instr × EvArg))
    (hev : ev = (match o.kind with | .push _ | .msg | .mig => [(.packetRetry, { tile := s.cur, op := s.self.nextOp, yes := true })] | _ => [])) :
    ∃ t, ntQueue st { st := s } o = .ok { st := t } ∧ Queued st s t o (ntTag o) ev := by
  subst hev
  unfold ntQueue
  dsimp only
  have fin : ∀ (u : State), u.cur = s.cur → u.self.nextOp = s.self.nextOp → Queued st s (enqueue st u o) o (ntTag o) [] →
      ∃ t, (Except.ok { st := (match o.kind with
          | .push _ => (enqueue st u o).sched 1 (if o.rest.isEmpty then some 0 else none) .packetRetry { tile := (enqueue st u o).cur, op := u.self.nextOp, yes := true }
          | .msg | .mig => (enqueue st u o).sched 1 none .packetRetry { tile := (enqueue st u o).cur, op := u.self.nextOp, yes := true }
          | _ => enqueue st u o) } : Except Stop Issue) = .ok { st := t } ∧
        Queued st s t o (ntTag o) (match o.kind with
          | .push _ | .msg | .mig => [(.packetRetry, { tile := s.cur, op := s.self.nextOp, yes := true })] | _ => []) := by
    intro u h1 h2 h3
    refine ⟨_, rfl, ?_⟩
    have hc : (enqueue st u o).cur = s.cur := h1
    rw [hc, h2]
    cases o.kind
    all_goals first
      | exact h3
      | exact queued_sched h3 _ _ _
  cases ht : o.tag with
  | none =>
    dsimp only
    refine fin s rfl rfl ?_
    have : ntTag o = noTag o := by unfold ntTag noTag; rw [ht]
    rw [this]
    exact plain_queued st s o
  | some n =>
    dsimp only
    have : ntTag o = fun t => t.clearTag n.toNat := by unfold ntTag; rw [ht]
    refine fin _ rfl ?_ ?_
    · rw [self_onSelf]; rfl
    · rw [this]
      exact enqueue_queued st s o _ (fun _ => rfl) (fun _ => rfl) (fun _ => rfl) (fun _ => rfl)

/-- An operation of `sy` that will leave for its unit (R352). -/
theorem unit_queued (st : Start) (s : State) (o : DlOp) :
    ∃ t, unitQueue st { st := s } o = .ok { st := t } ∧
      Queued st s t { o with hold := o.kind.isAcq } (noTag { o with hold := o.kind.isAcq }) (unitEvent { o with hold := o.kind.isAcq } { tile := s.cur, op := s.self.nextOp }) :=
  ⟨_, rfl, queued_sched (plain_queued st s _) _ _ _⟩

end Sys2Proof.Laws
end

