-- ==== Sys2Proof/Machine/Pomas.lean ====
section
/-! DEFINITION. pomas, the assembler: source text to a program image (R10, R43 to R50, R105, R106, Table 2.7). No step of the module runs it: an image reaches the module through memory. DESIGN CHOICE, log 83: corners of the language that the rules leave open. -/

namespace Sys2Proof.Machine.Pomas

/-- Why pomas rejects a source. -/
inductive Why where
  /-- the line has no form that R10, R43 or Table 2.7 gives -/
  | form
  /-- an integer or decimal literal is not as R44 writes it -/
  | number
  /-- a name that R43 does not allow or that nothing defines -/
  | name
  /-- a second definition -/
  | twice
  /-- a symbol or a layout that depends on itself -/
  | selfDependent
  /-- division by zero, or a shift count outside 0 to 63 -/
  | arithmetic
  /-- a value outside the range of its place -/
  | range
  /-- a suffix that the destination does not accept, or none where one is required -/
  | suffix
  /-- outside the context that a line needs -/
  | context
  /-- more than eight moves or three long immediates -/
  | tooMany
  /-- a code label of another role -/
  | otherRole
  /-- something required is missing -/
  | missing
  /-- a bundle that breaks a rule of load code 0x05 -/
  | illegalBundle
deriving DecidableEq, Repr

/-- A rejection with its source line, 0 for the source as a whole. -/
structure AsmErr where
  line : Nat
  why : Why
deriving DecidableEq, Repr

/-! ## Tokens (R10, R43, R44) -/

/-- A name with its dotted parts, a number as it is written, or a mark. -/
inductive Tok where
  | name (s : String)
  | num (s : String)
  | mark (s : String)
deriving DecidableEq, Repr

def wordChar (c : Char) : Bool := c.isAlphanum || c == '_'
def nameStart (c : Char) : Bool := c.isAlpha || c == '_'
def digitOrLow (c : Char) : Bool := c.isDigit || c == '_'

/-- A name and the dotted names that follow it without a blank, and the rest. -/
def lexName : Nat → List Char → List Char × List Char
  | 0, cs => ([], cs)
  | n + 1, cs =>
    let w := cs.takeWhile wordChar
    match cs.dropWhile wordChar with
    | '.' :: c :: r =>
      if wordChar c then
        let x := lexName n (c :: r)
        (w ++ '.' :: x.1, x.2)
      else (w, '.' :: c :: r)
    | r => (w, r)

/-- The digits after a decimal point, where a number has one. -/
def lexFrac (w r : List Char) : List Char × List Char :=
  match r with
  | '.' :: c :: r' =>
    if w.all digitOrLow && c.isDigit then (w ++ '.' :: (c :: r').takeWhile wordChar, (c :: r').dropWhile wordChar) else (w, r)
  | _ => (w, r)

/-- The sign and the digits of a decimal exponent, where a number ends in the letter e. -/
def lexExp (w r : List Char) : List Char × List Char :=
  match w.reverse, r with
  | e :: m, s :: c :: r' =>
    if (e == 'e' || e == 'E') && m.all (fun c => digitOrLow c || c == '.') && (s == '+' || s == '-') && c.isDigit then
      (w ++ s :: (c :: r').takeWhile Char.isDigit, (c :: r').dropWhile Char.isDigit)
    else (w, r)
  | _, _ => (w, r)

def lexNum (cs : List Char) : List Char × List Char :=
  let x := lexFrac (cs.takeWhile wordChar) (cs.dropWhile wordChar)
  lexExp x.1 x.2

/-- The tokens of one line; its comment is left out. None for a character that no line holds. -/
def lexLine : Nat → List Char → Option (List Tok)
  | 0, _ => some []
  | n + 1, cs =>
    match cs with
    | [] => some []
    | '/' :: '/' :: _ => some []
    | '<' :: '<' :: r => (lexLine n r).map (.mark "<<" :: ·)
    | '>' :: '>' :: r => (lexLine n r).map (.mark ">>" :: ·)
    | '-' :: '>' :: r => (lexLine n r).map (.mark "->" :: ·)
    | '.' :: '.' :: r => (lexLine n r).map (.mark ".." :: ·)
    | '.' :: r =>
      match r with
      | c :: _ =>
        if nameStart c then
          let x := lexName n r
          (lexLine n x.2).map (.name (String.ofList ('.' :: x.1)) :: ·)
        else none
      | [] => none
    | c :: r =>
      if c == ' ' || c == '\t' || c == '\r' then lexLine n r
      else if nameStart c then
        let x := lexName n cs
        (lexLine n x.2).map (.name (String.ofList x.1) :: ·)
      else if c.isDigit then
        let x := lexNum cs
        (lexLine n x.2).map (.num (String.ofList x.1) :: ·)
      else if "(),:|#?!*/%+-&^~".toList.contains c then (lexLine n r).map (.mark (String.ofList [c]) :: ·)
      else none

/-! ## Literals (R44) -/

def digitVal (c : Char) : Option Nat :=
  if c.isDigit then some (c.toNat - '0'.toNat)
  else if 'a' ≤ c ∧ c ≤ 'f' then some (c.toNat - 'a'.toNat + 10)
  else if 'A' ≤ c ∧ c ≤ 'F' then some (c.toNat - 'A'.toNat + 10)
  else none

/-- Underscores stand between digits only. -/
def lowsInside (cs : List Char) : Bool := cs.head? != some '_' && cs.getLast? != some '_' && cs != []

def digitsVal (base : Nat) (cs : List Char) : Option Nat :=
  if lowsInside cs then
    (cs.filter (· != '_')).foldlM (fun v c => (digitVal c).bind fun d => if d < base then some (v * base + d) else none) 0
  else none

def readInt (s : String) : Option Nat :=
  match s.toList with
  | '0' :: 'x' :: r => digitsVal 16 r
  | '0' :: 'b' :: r => digitsVal 2 r
  | cs => digitsVal 10 cs

/-- A decimal literal: sign, digits, power of ten. -/
structure Dec where
  neg : Bool
  mant : Nat
  exp : Int
deriving DecidableEq, Repr

/-- The exponent that follows the letter e. -/
def readExp (cs : List Char) : Option Int :=
  match cs with
  | '-' :: r => (digitsVal 10 r).map fun n => -(n : Int)
  | '+' :: r => (digitsVal 10 r).map (·)
  | r => (digitsVal 10 r).map (·)

def readDec (neg : Bool) (s : String) : Option Dec := do
  let cs := s.toList
  let m := cs.takeWhile fun c => c != 'e' && c != 'E'
  let x ← if m.length = cs.length then some 0 else readExp (cs.drop (m.length + 1))
  let whole := m.takeWhile (· != '.')
  let frac := m.drop (whole.length + 1)
  let w ← digitsVal 10 whole
  let f ← if m.contains '.' then digitsVal 10 frac else some 0
  let k := (frac.filter (· != '_')).length
  some { neg := neg, mant := w * 10 ^ k + f, exp := x - k }

/-- The bit pattern of a decimal literal, rounded to nearest with ties to even, and whether it overflows (R44, Table 2.7). -/
def Dec.code (f : Fmt) (d : Dec) : Nat × Bool :=
  if d.mant = 0 then (if d.neg then fmtSign f else 0, false)
  else
    let r := roundApprox f .rne false (if 0 ≤ d.exp then divApprox d.neg (d.mant * 10 ^ d.exp.toNat) 0 1 0 else divApprox d.neg d.mant 0 (10 ^ (-d.exp).toNat) 0)
    (r.code, r.st &&& fOF != 0)

/-! ## Expressions (R44) -/

inductive BinOp where
  | mul | div | rem | add | sub | shl | shr | and | xor | or
deriving DecidableEq, Repr

inductive Expr where
  | lit (v : Nat)
  | sym (s : String)
  | neg (e : Expr)
  | not (e : Expr)
  | bin (o : BinOp) (a b : Expr)
  /-- f32(x), f16(x) or bf16(x) -/
  | flt (f : Fmt) (d : Dec)
deriving DecidableEq, Repr

/-- 64-bit two's complement. -/
def wrap64 (x : Int) : Int := x.bmod (2 ^ 64)

def bitwise (f : BitVec 64 → BitVec 64 → BitVec 64) (a b : Int) : Int := (f (BitVec.ofInt 64 a) (BitVec.ofInt 64 b)).toInt

def BinOp.eval (o : BinOp) (a b : Int) : Except Why Int :=
  match o with
  | .mul => .ok (wrap64 (a * b))
  | .div => if b = 0 then .error .arithmetic else .ok (wrap64 (a.tdiv b))
  | .rem => if b = 0 then .error .arithmetic else .ok (wrap64 (a.tmod b))
  | .add => .ok (wrap64 (a + b))
  | .sub => .ok (wrap64 (a - b))
  | .shl => if b < 0 ∨ 63 < b then .error .arithmetic else .ok (wrap64 (a * 2 ^ b.toNat))
  | .shr => if b < 0 ∨ 63 < b then .error .arithmetic else .ok (a.fdiv (2 ^ b.toNat))
  | .and => .ok (bitwise (· &&& ·) a b)
  | .xor => .ok (bitwise (· ^^^ ·) a b)
  | .or => .ok (bitwise (· ||| ·) a b)

/-- The value of an expression, given the values of symbols. A literal of more than 64 bits is taken modulo 2^64 (DESIGN CHOICE, log 83). -/
def Expr.eval (val : String → Except Why Int) : Expr → Except Why Int
  | .lit v => .ok (wrap64 v)
  | .sym s => val s
  | .neg e => (e.eval val).map fun x => wrap64 (-x)
  | .not e => (e.eval val).map fun x => wrap64 (-x - 1)
  | .bin o a b =>
    match a.eval val, b.eval val with
    | .ok x, .ok y => o.eval x y
    | .error w, _ => .error w
    | _, .error w => .error w
  | .flt f d => .ok (d.code f).1

/-- The symbols that an expression names. -/
def Expr.syms : Expr → List String
  | .lit _ | .flt _ _ => []
  | .sym s => [s]
  | .neg e | .not e => e.syms
  | .bin _ a b => a.syms ++ b.syms

/-- Operators by falling precedence from the last level to the first. -/
def binOps : Nat → List (String × BinOp)
  | 0 => [("|", .or)]
  | 1 => [("^", .xor)]
  | 2 => [("&", .and)]
  | 3 => [("<<", .shl), (">>", .shr)]
  | 4 => [("+", .add), ("-", .sub)]
  | 5 => [("*", .mul), ("/", .div), ("%", .rem)]
  | _ => []

def fmtFun : String → Option Fmt
  | "f32" => some .f32
  | "f16" => some .f16
  | "bf16" => some .bf16
  | _ => none

/-- What the parser does next: an operand of a level, or more operators of a level after a left operand. -/
inductive Goal where
  | operand (level : Nat)
  | more (level : Nat) (left : Expr)

/-- An expression at the front of the tokens, and the rest. Levels 0 to 5 are the binary operators; 6 is a unary operator or a primary. -/
def parse : Nat → Goal → List Tok → Option (Expr × List Tok)
  | 0, _, _ => none
  | n + 1, .operand 6, ts =>
    match ts with
    | .mark "-" :: r => (parse n (.operand 6) r).map fun x => (.neg x.1, x.2)
    | .mark "~" :: r => (parse n (.operand 6) r).map fun x => (.not x.1, x.2)
    | .mark "(" :: r =>
      match parse n (.operand 0) r with
      | some (e, .mark ")" :: r') => some (e, r')
      | _ => none
    | .num s :: r => (readInt s).map fun v => (.lit v, r)
    | .name f :: .mark "(" :: .num s :: .mark ")" :: r => (fmtFun f).bind fun x => (readDec false s).map fun d => (.flt x d, r)
    | .name f :: .mark "(" :: .mark "-" :: .num s :: .mark ")" :: r =>
      (fmtFun f).bind fun x => (readDec true s).map fun d => (.flt x d, r)
    | .name s :: r => if s.toList.contains '.' then none else some (.sym s, r)
    | _ => none
  | n + 1, .operand k, ts => (parse n (.operand (k + 1)) ts).bind fun x => parse n (.more k x.1) x.2
  | n + 1, .more k left, ts =>
    match ts with
    | .mark s :: r =>
      match (binOps k).lookup s with
      | some o => (parse n (.operand (k + 1)) r).bind fun x => parse n (.more k (.bin o left x.1)) x.2
      | none => some (left, ts)
    | _ => some (left, ts)

/-- The whole of a list of tokens as one expression. -/
def parseExpr (ts : List Tok) : Except Why Expr :=
  match parse (16 * ts.length + 16) (.operand 0) ts with
  | some (e, []) => .ok e
  | _ => .error .form

/-! ## Names (Tables 5.3 to 5.6) -/

def sockNames : List (String × Nat) :=
  [("ctl", 0x00), ("grf", 0x01), ("vrf", 0x02), ("brf", 0x03), ("a0", 0x04), ("a1", 0x05), ("sh", 0x06), ("mu", 0x07), ("fp", 0x08),
   ("sf", 0x09), ("vu", 0x0A), ("vx", 0x0B), ("ls", 0x0C), ("ag", 0x0D), ("mx", 0x0E), ("dm", 0x0F), ("nt", 0x10), ("kn", 0x11),
   ("sy", 0x12), ("tk", 0x13), ("cf", 0x14), ("sv", 0x15), ("rp", 0x16), ("li", 0x3F)]

/-- The triggers of a socket from port 8 on (Table 5.6); of `sf` the scalar forms. -/
def trigNames : Sock → List String
  | .ctl => ["jmp", "jmpr", "call", "callr", "ret", "loop", "loopx", "idle", "halt", "trap", "gang", "split", "brk"]
  | .a0 | .a1 =>
    ["add", "sub", "and", "or", "xor", "andn", "orn", "min", "max", "minn", "maxn", "abs", "neg", "ceq", "cne", "clt", "cle", "cltn",
     "clen", "sel", "lea", "addsat", "subsat", "tst"]
  | .sh => ["shl", "shr", "sar", "rol", "ror", "clz", "ctz", "popc", "brev", "bswap", "extz", "exts", "ins", "crc"]
  | .mu => ["mul", "mulh", "mulhn", "mac", "div", "divn", "rem", "remn"]
  | .fp =>
    ["fadd", "fsub", "fmul", "fma", "fnma", "fmin", "fmax", "fabs", "fneg", "fcpsgn", "fceq", "fclt", "fcle", "fclass", "fcvt",
     "fcvtsi", "fcvtis"]
  | .sf => ["ex2", "lg2", "rcp", "rsq", "sqrt", "fdiv"]
  | .vu =>
    ["vadd", "vsub", "vmul", "vfma", "vfnma", "vmin", "vmax", "vabs", "vneg", "vceq", "vclt", "vcle", "vsel", "vand", "vor", "vxor",
     "vshl", "vshr", "vsar", "vsum", "vhmax", "vscale"]
  | .vx =>
    ["vperm", "vshuf", "vbcast", "vext", "vins", "vcvt", "vpack", "vunpk", "vcmprs", "vlane", "vrot", "vmerge", "vmask"]
  | .ls =>
    ["ld", "st", "vld", "vst", "vldl", "vstl", "vgat", "vsct", "aadd", "aswp", "acas", "amin", "amax", "aor", "aand"]
  | .ag => ["sopen", "sstep", "rinit", "rpush", "rpop", "rfill", "rstat", "rdrop"]
  | .mx => ["mma", "mmas", "mzero", "mrd", "mst", "mld", "mmask"]
  | .dm =>
    ["get", "put", "getp", "putp", "fill", "gld", "gst", "gadd", "gswp", "gcas", "gmin", "gmax", "gand", "gor", "gxor", "mfence"]
  | .nt => ["ttarm", "push", "pushp", "land", "lclose", "msg", "mig"]
  | .kn => ["kopen", "kpart", "kattn", "kfin", "kres"]
  | .sy =>
    ["bell", "bellx", "wany", "wall", "wffr", "tclr", "sig", "swait", "sdec", "binit", "arrive", "drop", "bwait", "trig", "fence"]
  | .tk => ["spawn", "yield", "sleep", "wake", "prio", "timer", "next", "resume", "msgrd", "cload", "tidle"]
  | .cf => ["rdcyc", "fmt", "mode", "dom", "tid", "flags", "sleepd"]
  | .sv => ["eret", "cause", "tlbinv", "tlbinvas", "mapfence", "asid", "bank", "shcap", "shset", "errst", "stmr"]
  | .rp => ["dgrd", "dgclr", "logon", "logoff", "gateon", "gateoff", "logst"]

/-- Names that end in a number, 0 to n - 1. -/
def numbered (stem : String) (n : Nat) : List String := (List.range n).map fun i => stem ++ toString i

/-- A register: its socket and its number. -/
def regOf (s : String) : Option (Nat × Nat) :=
  match (numbered "g" 32).idxOf? s, (numbered "v" 32).idxOf? s, (numbered "b" 8).idxOf? s with
  | some n, _, _ => some (0x01, n)
  | _, some n, _ => some (0x02, n)
  | _, _, some n => some (0x03, n)
  | none, none, none => none

def dirNames : List String :=
  ["kernel", "close", "shape", "role", "section", "align", "byte", "half", "word", "dword", "float", "res", "equ", "ring", "stream",
   "timetable", "send", "arrive", "mode", "budget", "targets", "entry"]

/-- May a user symbol have this name (R43)? The names `li0` to `li2`, which R46 rejects as written sources, are no symbols either (DESIGN CHOICE, log 83). -/
def symbolOk (s : String) : Bool :=
  s.toList.all wordChar && (s.toList.head?.map nameStart).getD false && (regOf s).isNone && !(numbered "li" 3).contains s
    && (sockNames.lookup s).isNone && !dirNames.contains s

def layoutNames : List String := ["lin", "sw64", "sw128", "trn"]

/-- A name's place in a list, times a factor. -/
def pick (l : List String) (k : Nat) (s : String) : Option Nat := (l.idxOf? s).map (· * k)

def fltNames : List String := ["f64", "f32", "bf16", "f16", "e4m3", "e5m2"]
def intNames : List String := ["s8", "s16", "s32", "s64", "n8", "n16", "n32", "n64"]
def rndNames : List String := ["rne", "rz", "ru", "rd"]

/-- Modifier classes (Table 5.4). -/
inductive MClass where
  | clsZ | clsW | clsT | clsTX | clsC | clsL | clsLV | clsM | clsD | clsK | clsP | clsR | clsA
deriving DecidableEq, Repr

/-- The ports of class TX among those that decode by the T encoding (Table 5.6). -/
def isTX (s : Sock) (port : Nat) : Bool :=
  match s with
  | .fp => decide (13 ≤ port ∧ port ≤ 21)
  | .vu => decide (13 ≤ port ∧ port ≤ 20) || decide (24 ≤ port ∧ port ≤ 26) || port == 28
  | .vx => true
  | .ctl | .a0 | .a1 | .sh | .mu | .sf | .ls | .ag | .mx | .dm | .nt | .kn | .sy | .tk | .cf | .sv | .rp => false

/-- The modifier class of a trigger port (Table 5.6). -/
def classOf (s : Sock) (port : Nat) : Option MClass :=
  (trigPort s port).map fun
    | .z _ => .clsZ | .w _ => .clsW | .t _ => if isTX s port then .clsTX else .clsT | .c _ => .clsC | .l _ => .clsL | .lv _ => .clsLV
    | .m _ => .clsM | .d _ => .clsD | .k _ => .clsK | .p _ => .clsP | .r _ => .clsR | .a _ => .clsA

/-- A T code: six float formats with a rounding, then the integers with a width. -/
def typeCode (s : String) : Option Nat := (pick fltNames 4 s).or ((intNames.idxOf? s).map (24 + ·))

/-- A C code (Table 5.5). -/
def targetCode (s : String) : Option Nat := pick (intNames ++ fltNames ++ ["i4", "i8"]) 2 s

/-- The modifier that suffixes write, in the order of Table 5.4; an omitted one encodes 0 (R105). -/
def MClass.bits (c : MClass) (sfx : List String) : Option Nat :=
  match c, sfx with
  | .clsZ, [] | .clsW, [] | .clsLV, [] | .clsD, [] | .clsK, [] | .clsP, [] | .clsR, [] | .clsA, [] => some 0
  | .clsW, [x] => pick ["w", "d"] 1 x
  | .clsT, [x] | .clsTX, [x] => typeCode x
  | .clsT, [x, r] => (pick fltNames 4 x).bind fun v => (pick rndNames 1 r).map (v + ·)
  | .clsC, [x] => targetCode x
  | .clsC, [x, "sat"] => (targetCode x).map (· + 1)
  | .clsL, [x] => pick intNames 1 x
  | .clsL, [x, y] => (pick intNames 1 x).bind fun v => (pick layoutNames 8 y).map (v + ·)
  | .clsLV, [x] => pick layoutNames 8 x
  | .clsM, [x] => pick ["t", "q", "c", "d", "m", "s"] 1 x
  | .clsM, [x, y] => (pick ["t", "q", "c", "d", "m", "s"] 1 x).bind fun v => (pick ["acq", "rel", "ar"] 8 y).map (v + 8 + ·)
  | .clsD, [x] => pick (numbered "l" 5) 1 x
  | .clsK, [x] => pick (numbered "k" 16) 1 x
  | .clsP, [x] => pick (numbered "p" 32) 1 x
  | .clsR, [x] => pick (numbered "ring" 8) 1 x
  | .clsA, [x] => pick (numbered "acc" 4) 1 x
  | _, _ => none

/-- On `st` and the local atomics that do not compare, `.sN` is encoded as `.nN` (R105). -/
def naturalForm (s : Sock) (port : Nat) (v : Nat) : Nat :=
  if s = .ls ∧ (port = 9 ∨ port = 16 ∨ port = 17 ∨ port = 21 ∨ port = 22) ∧ v / 4 % 2 = 0 then v + 4 else v

/-! ## Moves and lines (R10, R45 to R47, R49) -/

/-- A written source: a source field, or an immediate. -/
inductive PSrc where
  | port (field : BitVec 11)
  | imm (e : Expr)
deriving DecidableEq, Repr

/-- A written move. -/
structure PMove where
  guard : BitVec 4
  src : PSrc
  dsock : Nat
  dport : Nat
  md : Nat
deriving DecidableEq, Repr

/-- One element of a role's position: all, or an inclusive range. -/
inductive PosEl where
  | all
  | range (a b : Expr)
deriving DecidableEq, Repr

/-- A value of `.float`. -/
inductive FLit where
  | dec (d : Dec)
  | inf (neg : Bool)
  | nan
deriving DecidableEq, Repr

/-- What a line holds: a label, a bundle (no move for `nop`), or a directive of Table 2.7. -/
inductive Item where
  | label (s : String)
  | bundle (ms : List PMove)
  | kernel (name : String) (modes : Nat)
  | close
  | shape (cols rows dies : Expr) (dflt : String)
  | role (name : String) (id : Expr) (pos : List (List PosEl))
  | toCode
  | toData (addr : Expr)
  | align (n : Expr)
  | ints (width : Nat) (vs : List Expr)
  | floats (f : Fmt) (vs : List FLit)
  | res (n : Expr)
  | equ (name : String) (e : Expr)
  | ring (n : Nat) (base size units : Expr) (layout : Nat)
  | stream (id base : Expr) (layout : Nat) (esize : Expr) (dims : List (Expr × Expr))
  | timetable (id window : Expr)
  | send (off dc dr t len addr : Expr)
  | arrive (off addr : Expr)
  | mode (sock : Nat) (v : Nat)
  | budget (g v : Expr)
  | targets (ls : List String)
  | entry (l : String)
deriving DecidableEq, Repr

/-- Tokens split at a mark that stands outside parentheses. -/
def splitAt (m : String) : Nat → List Tok → List (List Tok)
  | _, [] => [[]]
  | d, t :: r =>
    if d = 0 ∧ t = .mark m then [] :: splitAt m 0 r
    else
      let d' := if t = .mark "(" then d + 1 else if t = .mark ")" then d - 1 else d
      match splitAt m d' r with
      | x :: xs => (t :: x) :: xs
      | [] => [[t]]

def dotted (s : String) : List String := (s.toList.splitOn '.').map String.ofList

/-- A source (R10, R103); `li0` to `li2` are rejected as written sources (R46). -/
def parseSrc (ts : List Tok) : Except Why PSrc :=
  match ts with
  | .mark "#" :: r => (parseExpr r).map .imm
  | [.name s] =>
    match regOf s, dotted s with
    | some (k, n), _ => .ok (.port (BitVec.ofNat 6 k ++ BitVec.ofNat 5 n))
    | none, [u, p] =>
      match (sockNames.lookup u).bind sockOf, pick ["x", "y", "s"] 1 p with
      | some k, some n => .ok (.port (BitVec.ofNat 6 k.num ++ BitVec.ofNat 5 n))
      | _, _ => .error .name
    | none, _ => .error .name
  | _ => .error .form

/-- A destination: socket, port, modifier (R47, R105, R106). -/
def parseDst (ts : List Tok) : Except Why (Nat × Nat × Nat) :=
  match ts with
  | [.name s] =>
    match dotted s with
    | [] => .error .form
    | r :: sfx =>
      match regOf r, (sockNames.lookup r).bind sockOf, sfx with
      | some (k, n), _, [] => .ok (k, n, 0)
      | some _, _, _ :: _ => .error .suffix
      | none, some u, p :: sfx =>
        match pick ["a", "b", "c"] 1 p with
        | some n => if sfx = [] then .ok (u.num, n, 0) else .error .suffix
        | none =>
          match (trigNames u).idxOf? p with
          | none => .error .name
          | some k =>
            let x : Nat × List String := if u = .sf ∧ sfx.head? = some "vec" then (k + 16, sfx.drop 1) else (k + 8, sfx)
            match (classOf u x.1).bind fun c => c.bits x.2 with
            | some v => .ok (u.num, x.1, naturalForm u x.1 v)
            | none => .error .suffix
      | none, _, _ => .error .name
  | _ => .error .form

/-- A guard at the front of a move: the four guard bits and the rest; b0 where none is written. -/
def parseGuard (ts : List Tok) : Except Why (BitVec 4 × List Tok) :=
  match ts with
  | .mark "?" :: .mark "!" :: .name b :: r =>
    match pick (numbered "b" 8) 1 b with | some n => .ok (BitVec.ofNat 4 (8 + n), r) | none => .error .name
  | .mark "?" :: .name b :: r =>
    match pick (numbered "b" 8) 1 b with | some n => .ok (BitVec.ofNat 4 n, r) | none => .error .name
  | .mark "?" :: _ => .error .form
  | _ => .ok (0, ts)

def parseMove (ts : List Tok) : Except Why PMove := do
  let (g, r) ← parseGuard ts
  match splitAt "->" 0 r with
  | [s, d] => do
    let src ← parseSrc s
    let (k, p, m) ← parseDst d
    return { guard := g, src := src, dsock := k, dport := p, md := m }
  | _ => throw .form

/-- A bundle line: one to eight moves, or `nop` (R45). -/
def parseBundle (ts : List Tok) : Except Why Item :=
  if ts = [.name "nop"] then .ok (.bundle [])
  else
    let parts := splitAt "|" 0 ts
    if 8 < parts.length then .error .tooMany else (parts.mapM parseMove).map .bundle

/-- The elements of a parenthesised list. -/
def inParens (ts : List Tok) : Except Why (List (List Tok)) :=
  match ts with
  | .mark "(" :: r =>
    match r.reverse with
    | .mark ")" :: i => .ok (splitAt "," 0 i.reverse)
    | _ => .error .form
  | _ => .error .form

def parsePosEl (ts : List Tok) : Except Why PosEl :=
  match splitAt ".." 0 ts with
  | [[.mark "*"]] => .ok .all
  | [e] => (parseExpr e).map fun x => .range x x
  | [a, b] => do return .range (← parseExpr a) (← parseExpr b)
  | _ => .error .form

def parseFLit (ts : List Tok) : Except Why FLit :=
  match ts with
  | [.name "inf"] => .ok (.inf false)
  | [.mark "-", .name "inf"] => .ok (.inf true)
  | [.name "nan"] => .ok .nan
  | [.num s] => match readDec false s with | some d => .ok (.dec d) | none => .error .number
  | [.mark "-", .num s] => match readDec true s with | some d => .ok (.dec d) | none => .error .number
  | _ => .error .form

def parseName (ts : List Tok) : Except Why String :=
  match ts with
  | [.name s] => if s.toList.all wordChar then .ok s else .error .form
  | _ => .error .form

def parsePick (l : List String) (ts : List Tok) : Except Why Nat := do
  match pick l 1 (← parseName ts) with
  | some n => return n
  | none => throw .name

def parsePair (ts : List Tok) : Except Why (Expr × Expr) := do
  match ← inParens ts with
  | [a, b] => return (← parseExpr a, ← parseExpr b)
  | _ => throw .form

/-- A directive with its arguments (Table 2.7). -/
def parseDir (dir : String) (args : List (List Tok)) : Except Why Item := do
  match dir, args with
  | ".kernel", [n] => return .kernel (← parseName n) 3
  | ".kernel", [n, m] => return .kernel (← parseName n) ((← parsePick ["timetabled", "tasked", "both"] m) + 1)
  | ".close", [[]] => return .close
  | ".shape", [c, r, d, x] => return .shape (← parseExpr c) (← parseExpr r) (← parseExpr d) (← parseName x)
  | ".role", n :: i :: ps =>
    let pos ← ps.mapM fun q => do
      let els ← inParens q
      if els.length = 4 then els.mapM parsePosEl else throw .form
    return .role (← parseName n) (← parseExpr i) pos
  | ".section", [[.name "code"]] => return .toCode
  | ".section", [[.name "data"], a] => return .toData (← parseExpr a)
  | ".align", [n] => return .align (← parseExpr n)
  | ".byte", vs => return .ints 1 (← vs.mapM parseExpr)
  | ".half", vs => return .ints 2 (← vs.mapM parseExpr)
  | ".word", vs => return .ints 4 (← vs.mapM parseExpr)
  | ".dword", vs => return .ints 8 (← vs.mapM parseExpr)
  | ".float", f :: v :: vs =>
    match [Fmt.f64, .f32, .bf16, .f16, .e4m3, .e5m2][← parsePick fltNames f]? with
    | some x => return .floats x (← (v :: vs).mapM parseFLit)
    | none => throw .name
  | ".res", [n] => return .res (← parseExpr n)
  | ".equ", [n, e] => return .equ (← parseName n) (← parseExpr e)
  | ".ring", [r, b, s, n, l] =>
    return .ring (← parsePick (numbered "ring" 8) r) (← parseExpr b) (← parseExpr s) (← parseExpr n) (← parsePick layoutNames l)
  | ".stream", i :: b :: l :: e :: d :: ds =>
    if 3 < ds.length then throw .form
    return .stream (← parseExpr i) (← parseExpr b) (← parsePick layoutNames l) (← parseExpr e) (← (d :: ds).mapM parsePair)
  | ".timetable", [i, w] => return .timetable (← parseExpr i) (← parseExpr w)
  | ".send", [o, r, l, a] =>
    match ← inParens r with
    | [c, d, t] =>
      return .send (← parseExpr o) (← parseExpr c) (← parseExpr d) (← parseExpr t) (← parseExpr l) (← parseExpr a)
    | _ => throw .form
  | ".arrive", [o, a] => return .arrive (← parseExpr o) (← parseExpr a)
  | ".mode", s :: m :: r =>
    let v ← parsePick ["free", "locked"] m
    match sockNames.lookup (← parseName s), r with
    | some k, [] => return .mode k v
    | some k, [[.name "lock"]] => return .mode k (v + 4)
    | some _, _ => throw .form
    | none, _ => throw .name
  | ".budget", [g, v] => return .budget (← parseExpr g) (← parseExpr v)
  | ".targets", ls => return .targets (← ls.mapM parseName)
  | ".entry", [l] => return .entry (← parseName l)
  | _, _ => throw .form

/-- What a line without its label holds. -/
def parseBody (ts : List Tok) : Except Why (List Item) :=
  match ts with
  | [] => .ok []
  | .name d :: r =>
    if d.toList.head? = some '.' then (parseDir d (splitAt "," 0 r)).map fun i => [i]
    else (parseBundle ts).map fun i => [i]
  | _ => (parseBundle ts).map fun i => [i]

/-- The items of a line: at most one label, then at most one directive or bundle (R43). -/
def parseLine (ts : List Tok) : Except Why (List Item) :=
  match ts with
  | .name s :: .mark ":" :: r =>
    if symbolOk s then (parseBody r).map fun is => .label s :: is else .error .name
  | _ => parseBody ts

/-- Does a line hold a bundle that a later line can continue? -/
def continues (ts : List Tok) : Bool :=
  let body := match ts with
    | .name _ :: .mark ":" :: r => r
    | _ => ts
  match body with
  | [] => false
  | .name d :: _ => d.toList.head? != some '.' && body != [.name "nop"]
  | _ => true

/-- Lines with their numbers; one that begins with a bar is joined to the line before it (R10). The first list is the lines done, latest first. -/
def joinLines : List (Nat × List Tok) → List (Nat × List Tok) → Except AsmErr (List (Nat × List Tok))
  | done, [] => .ok done.reverse
  | done, (n, ts) :: r =>
    if ts.head? = some (.mark "|") then
      match done with
      | (m, ts') :: d => if continues ts' then joinLines ((m, ts' ++ ts) :: d) r else .error { line := n, why := .form }
      | [] => .error { line := n, why := .form }
    else joinLines ((n, ts) :: done) r

def tag {α : Type} (n : Nat) (x : Except Why α) : Except AsmErr α := x.mapError fun w => { line := n, why := w }

/-- A source as its items, each with its line. -/
def parseSource (src : List Char) : Except AsmErr (List (Nat × Item)) := do
  let lines ← ((src.splitOn '\n').zipIdx 1).mapM fun l =>
    match lexLine (l.1.length + 1) l.1 with
    | some ts => Except.ok (l.2, ts)
    | none => .error { line := l.2, why := .form }
  let joined ← joinLines [] lines
  let items ← joined.mapM fun l => tag l.1 ((parseLine l.2).map fun is => is.map fun i => (l.1, i))
  return items.flatten

/-! ## Layout: the values of labels (R48) -/

/-- Where the next byte goes. -/
inductive Place where
  | nowhere | code | data
deriving DecidableEq, Repr

/-- A label: its value, the number of its role's declaration where it is a code label, and the symbols that the expressions before it in its section name: its value depends on theirs. -/
structure Label where
  name : String
  value : Nat
  codeOf : Option Nat
  deps : List String
deriving DecidableEq, Repr

structure Lay where
  role : Nat := 0
  place : Place := .nowhere
  code : Nat := 0
  addr : Nat := 0
  /-- symbols that the offset in the role's code, and the address in the data section, depend on -/
  codeDeps : List String := []
  addrDeps : List String := []
  labels : List Label := []

/-- The definitions of `.equ`. -/
def equsOf (is : List (Nat × Item)) : List (String × Expr) :=
  is.filterMap fun i => match i.2 with | .equ n e => some (n, e) | _ => none

/-- The value of a symbol, which no chain of definitions may lead back to itself (R44). -/
def symVal (equs : List (String × Expr)) (labels : List Label) : Nat → String → Except Why Int
  | 0, _ => .error .selfDependent
  | n + 1, s =>
    match equs.lookup s with
    | some e => e.eval (symVal equs labels n)
    | none =>
      match labels.find? fun l => l.name = s with
      | some l => .ok l.value
      | none => .error .name

def valueOf (equs : List (String × Expr)) (labels : List Label) (e : Expr) : Except Why Int :=
  e.eval (symVal equs labels (equs.length + 1))

def short (v : Int) : Bool := decide (-1024 ≤ v ∧ v ≤ 1023)

/-- The value of a move that needs a long immediate. -/
def longOf (val : Expr → Int) (m : PMove) : Option Int :=
  match m.src with
  | .imm e => if short (val e) then none else some (val e)
  | .port _ => none

/-- The long immediates of a bundle: distinct values in order of first use (R46). -/
def longs (val : Expr → Int) (ms : List PMove) : List Int :=
  (ms.filterMap (longOf val)).foldl (fun l v => if l.contains v then l else l ++ [v]) []

def bundleLen (val : Expr → Int) (ms : List PMove) : Nat := 4 * (1 + ms.length + (longs val ms).length)

/-- Bytes up to a multiple. -/
def padding (at_ n : Nat) : Nat := if n = 0 then 0 else (n - at_ % n) % n

/-- One item of a layout pass, with provisional values. -/
def layItem (val : Expr → Int) (l : Lay) (i : Item) : Lay :=
  match i with
  | .label s =>
    { l with labels := l.labels ++ [{ name := s, value := if l.place = .code then l.code else l.addr,
                                      codeOf := if l.place = .code then some l.role else none,
                                      deps := if l.place = .code then l.codeDeps else l.addrDeps }] }
  | .bundle ms => { l with code := l.code + bundleLen val ms }
  | .role _ _ _ => { l with role := l.role + 1, place := .nowhere, code := 0, codeDeps := [] }
  | .toCode => { l with place := .code }
  | .toData a => { l with place := .data, addr := (val a).toNat, addrDeps := a.syms }
  | .align n =>
    if l.place = .code then { l with code := l.code + padding l.code (val n).toNat, codeDeps := l.codeDeps ++ n.syms }
    else { l with addr := l.addr + padding l.addr (val n).toNat, addrDeps := l.addrDeps ++ n.syms }
  | .ints w vs => { l with addr := l.addr + w * vs.length }
  | .floats f vs => { l with addr := l.addr + fmtBits f / 8 * vs.length }
  | .res n => { l with addr := l.addr + (val n).toNat, addrDeps := l.addrDeps ++ n.syms }
  | .kernel _ _ | .close | .shape _ _ _ _ | .equ _ _ | .ring _ _ _ _ _ | .stream _ _ _ _ _ | .timetable _ _ | .send _ _ _ _ _ _
  | .arrive _ _ | .mode _ _ | .budget _ _ | .targets _ | .entry _ => l

/-- The labels that a pass gives from the labels of the pass before it. -/
def layPass (is : List (Nat × Item)) (equs : List (String × Expr)) (old : List Label) : List Label :=
  let val (e : Expr) : Int := match valueOf equs old e with | .ok v => v | .error _ => 0
  (is.foldl (fun l i => layItem val l i.2) {}).labels

/-- Passes until the labels stay the same. -/
def settle (is : List (Nat × Item)) (equs : List (String × Expr)) : Nat → List Label → Option (List Label)
  | 0, _ => none
  | n + 1, old =>
    let new := layPass is equs old
    if new = old then some old else settle is equs n new

/-- Everything that some symbols lead to. -/
def reach (f : String → List String) : Nat → List String → List String → List String
  | 0, seen, _ => seen
  | n + 1, seen, todo =>
    let new := ((todo.flatMap f).eraseDups).filter fun s => !seen.contains s
    if new = [] then seen else reach f n (seen ++ new) new

/-- Does the value of a symbol depend on itself (R44)? -/
def selfDependent (equs : List (String × Expr)) (labels : List Label) (s : String) : Bool :=
  let f (x : String) : List String :=
    match equs.lookup x with
    | some e => e.syms
    | none => (labels.filter fun l => l.name = x).flatMap Label.deps
  (reach f (equs.length + labels.length + 1) (f s).eraseDups (f s)).contains s

/-! ## Emission (R49, R50) -/

/-- A role under assembly. -/
structure RoleAsm where
  name : String
  id : Nat
  pos : List (List (Option (Nat × Nat)))
  code : List Word := []
  entry : Option Nat := none
  modes : List (Nat × Nat) := []
  budget : Option (Nat × Nat) := none
  rings : List (Nat × List Byte) := []
  streams : List (List Byte) := []
  targets : List Nat := []
  /-- number, window, sends and arrives with their tick offsets -/
  tts : List (Nat × Nat × List (Nat × List Byte) × List (Nat × List Byte)) := []
  datas : List (Nat × List Byte) := []


inductive Stage where
  | before | inside | closed
deriving DecidableEq, Repr

/-- A kernel under assembly; its roles latest first. -/
structure Gen where
  stage : Stage := .before
  kname : String := ""
  modes : Nat := 0
  shape : Option (Nat × Nat × Nat × String) := none
  roles : List RoleAsm := []
  place : Place := .nowhere
  ttOpen : Bool := false


/-- The symbol values that emission uses. -/
structure Env where
  equs : List (String × Expr)
  labels : List Label

def Env.val (v : Env) (e : Expr) : Except Why Int := valueOf v.equs v.labels e

/-- A value from `lo` to `hi`. -/
def Env.within (v : Env) (lo hi : Int) (e : Expr) : Except Why Int := do
  let x ← v.val e
  if lo ≤ x ∧ x ≤ hi then return x else throw .range

/-- An unsigned field of `n` bits. -/
def Env.nat (v : Env) (n : Nat) (e : Expr) : Except Why Nat := (v.within 0 (2 ^ n - 1) e).map Int.toNat

/-- A field of `n` bits that takes a signed or an unsigned value. -/
def Env.either (v : Env) (n : Nat) (e : Expr) : Except Why Nat := do
  let x ← v.val e
  if -(2 ^ (n - 1)) ≤ x ∧ x < 2 ^ n ∨ n = 64 then return (x % 2 ^ n).toNat else throw .range

/-- A signed field of `n` bits. -/
def Env.signed (v : Env) (n : Nat) (e : Expr) : Except Why Nat :=
  (v.within (-(2 ^ (n - 1))) (2 ^ (n - 1) - 1) e).map fun x => (x % 2 ^ n).toNat

/-- The code labels that an expression names, through definitions too. -/
def Env.codeLabels (v : Env) : Nat → Expr → List Label
  | 0, _ => []
  | n + 1, e =>
    e.syms.flatMap fun s =>
      match v.equs.lookup s with
      | some x => v.codeLabels n x
      | none => v.labels.filter fun l => l.name = s && l.codeOf.isSome

/-- A code label of the current role (R48). -/
def Env.ownLabel (v : Env) (role : Nat) (s : String) : Except Why Nat :=
  match v.labels.find? fun l => l.name = s with
  | none => .error .name
  | some l => if l.codeOf = some role then .ok l.value else if l.codeOf.isSome then .error .otherRole else .error .context

/-- A move's word (R46, Table 5.2). -/
def moveWord (lis : List Int) (vals : List (Expr × Int)) (m : PMove) : Word :=
  let f : Bool × BitVec 11 :=
    match m.src with
    | .port x => (false, x)
    | .imm e =>
      let v := (vals.lookup e).getD 0
      if short v then (true, BitVec.ofInt 11 v) else (false, 0x3F#6 ++ BitVec.ofNat 5 ((lis.idxOf? v).getD 0))
  Fields.join { guard := m.guard, isImm := f.1, sval := f.2, dsock := BitVec.ofNat 6 m.dsock, dport := BitVec.ofNat 5 m.dport,
                md := BitVec.ofNat 5 m.md }

/-- Does the trigger of a move accept its suffixes, whatever the guard (R47)? -/
def PMove.accepted (m : PMove) : Bool :=
  match destOf (BitVec.ofNat 6 m.dsock) (BitVec.ofNat 5 m.dport) with
  | some q => (buildMove q { guard := { inv := false, sel := 0 }, src := .imm 0 } (BitVec.ofNat 5 m.md)).isSome
  | none => true

/-- The words of a bundle: header, moves on buses 0 upwards, long immediates (R45, R46). A code label of another role is no constant target (R48). -/
def bundleWords (v : Env) (role : Nat) (ms : List PMove) : Except Why (List Word) := do
  let vals ← (ms.filterMap fun m => match m.src with | .imm e => some e | .port _ => none).mapM fun e => do
    return (e, ← v.within (-(2 ^ 31)) (2 ^ 31 - 1) e)
  let lis := longs (fun e => (vals.lookup e).getD 0) ms
  if 3 < lis.length then throw .tooMany
  if ms.any fun m => !m.accepted then throw .suffix
  if ms.any fun m => m.dsock = 0 && [8, 10, 18, 19].contains m.dport &&
      match m.src with
      | .imm e => (v.codeLabels (v.equs.length + 1) e).any fun l => l.codeOf != some role
      | .port _ => false
  then throw .otherRole
  let hd : Word := BitVec.ofNat 8 (2 ^ ms.length - 1) ++ BitVec.ofNat 2 lis.length ++ 0#22
  return hd :: ms.map (moveWord lis vals) ++ lis.map (BitVec.ofInt 32)

def nopWord : Word := 0

/-- The bytes of a `.float` value (Table 2.7). An infinity in E4M3, which has none, is rejected (DESIGN CHOICE, log 89). -/
def FLit.bytes (f : Fmt) (x : FLit) : Except Why (List Byte) :=
  match x with
  | .nan => .ok (natLe (fmtNan f) (fmtBits f / 8))
  | .inf neg => if f = .e4m3 then .error .range else .ok (natLe ((if neg then fmtSign f else 0) + fmtInf f) (fmtBits f / 8))
  | .dec d => if (d.code f).2 ∧ f = .e4m3 then .error .range else .ok (natLe (d.code f).1 (fmtBits f / 8))

/-- Change the current role. -/
def Gen.onRole (g : Gen) (f : RoleAsm → Except Why RoleAsm) : Except Why Gen :=
  match g.roles with
  | [] => .error .context
  | r :: rs => (f r).map fun r' => { g with roles := r' :: rs }

/-- Bytes at the end of the open DATA section. -/
def Gen.emit (g : Gen) (bs : List Byte) : Except Why Gen :=
  if g.place = .data then
    g.onRole fun r => match r.datas with
      | (a, ds) :: rest => .ok { r with datas := (a, ds ++ bs) :: rest }
      | [] => .error .context
  else .error .context

/-- Code of the current role. -/
def Gen.emitCode (g : Gen) (ws : List Word) : Except Why Gen :=
  if g.place = .code then g.onRole fun r => .ok { r with code := r.code ++ ws } else .error .context

def Gen.onTt (g : Gen) (f : Nat × Nat × List (Nat × List Byte) × List (Nat × List Byte) → Nat × Nat × List (Nat × List Byte) × List (Nat × List Byte)) :
    Except Why Gen :=
  if g.ttOpen then
    g.onRole fun r => match r.tts with
      | t :: ts => .ok { r with tts := f t :: ts }
      | [] => .error .context
  else .error .context

def Env.posEl (v : Env) (p : PosEl) : Except Why (Option (Nat × Nat)) :=
  match p with
  | .all => .ok none
  | .range a b => do
    let x ← v.nat 16 a
    let y ← v.nat 16 b
    if x ≤ y then return some (x, y) else throw .range

/-- The next item of the source (R49). A role cannot be called `none`, the word of `.shape` for no role (DESIGN CHOICE, log 83). -/
def genItem (v : Env) (g : Gen) (i : Item) : Except Why Gen :=
  let inRole := g.roles.length
  match g.stage, i with
  | .before, .kernel n m =>
    if n.toList.length < 32 then .ok { g with stage := .inside, kname := n, modes := m } else .error .range
  | .before, _ => .error .context
  | .closed, _ => .error .context
  | .inside, .kernel _ _ => .error .twice
  | .inside, .label _ => if g.place = .nowhere then .error .context else .ok g
  | .inside, .bundle ms => do g.emitCode (← bundleWords v inRole ms)
  | .inside, .send o c d t l a => do
    let off ← v.nat 16 o
    let e := natLe off 2 ++ natLe ((← v.signed 8 c) + 2 ^ 8 * (← v.signed 8 d) + 2 ^ 16 * (← v.nat 2 t)) 4
      ++ natLe (← v.nat 16 l) 2 ++ natLe (← v.nat 32 a) 4
    g.onTt fun (n, w, s, r) => (n, w, s ++ [(off, e)], r)
  | .inside, .arrive o a => do
    let off ← v.nat 16 o
    let e := natLe off 2 ++ natLe 0 2 ++ natLe (← v.nat 32 a) 4
    g.onTt fun (n, w, s, r) => (n, w, s, r ++ [(off, e)])
  | .inside, i =>
    let g := { g with ttOpen := false }
    match i with
    | .close => .ok { g with stage := .closed }
    | .shape c r d x =>
      if g.shape.isSome then .error .twice
      else do return { g with shape := some (← v.nat 8 c, ← v.nat 8 r, ← v.nat 8 d, x) }
    | .role n x ps => do
      let id ← v.within 0 254 x
      if n = "none" then throw .name
      if g.roles.any fun r => r.name = n || r.id = id.toNat then throw .twice
      let pos ← ps.mapM fun p => p.mapM v.posEl
      return { g with roles := { name := n, id := id.toNat, pos := pos } :: g.roles, place := .nowhere }
    | .toCode => if g.roles = [] then .error .context else .ok { g with place := .code }
    | .toData a => do
      let x ← v.nat 32 a
      ({ g with place := .data } : Gen).onRole fun r => .ok { r with datas := (x, []) :: r.datas }
    | .align n => do
      let k ← v.nat 13 n
      if !([4, 8, 16, 32, 64, 128, 256, 512, 1024, 2048, 4096] : List Nat).contains k then throw Why.range
      match g.place, g.roles with
      | .code, r :: _ => g.emitCode (List.replicate (padding (4 * r.code.length) k / 4) nopWord)
      | .data, r :: _ =>
        match r.datas with
        | (a, ds) :: _ => g.emit (List.replicate (padding (a + ds.length) k) 0)
        | [] => .error .context
      | _, _ => .error .context
    | .ints w vs => do
      let bs ← vs.mapM fun e => do return natLe (← v.either (8 * w) e) w
      g.emit bs.flatten
    | .floats f vs => do
      let bs ← vs.mapM (FLit.bytes f)
      g.emit bs.flatten
    | .res n => do g.emit (List.replicate (← v.nat 32 n) 0)
    | .equ _ _ => .ok g
    | .ring n b s k l => do
      let e := natLe (← v.nat 32 b) 4 ++ natLe (← v.nat 32 s) 4 ++ natLe (← v.nat 8 k) 1 ++ natLe l 1 ++ natLe 1 1 ++ natLe 0 5
      g.onRole fun r => if (r.rings.lookup n).isSome then .error .twice else .ok { r with rings := (n, e) :: r.rings }
    | .stream x b l es ds => do
      let sz ← v.val es
      match ([1, 2, 4, 8, 16, 32, 64] : List Int).idxOf? sz with
      | none => throw .range
      | some lg =>
        let dims ← ds.mapM fun d => do return natLe (← v.nat 32 d.1) 4 ++ natLe (← v.signed 32 d.2) 4
        let e := natLe (← v.within 0 31 x).toNat 1 ++ natLe ds.length 1 ++ natLe l 1 ++ natLe lg 1 ++ natLe (← v.either 32 b) 4
          ++ dims.flatten ++ natLe 0 (8 * (4 - ds.length) + 8)
        g.onRole fun r => .ok { r with streams := r.streams ++ [e] }
    | .timetable x w => do
      let n ← v.nat 4 x
      let win ← v.nat 16 w
      ({ g with ttOpen := true } : Gen).onRole fun r =>
        if (r.tts.lookup n).isSome then .error .twice else .ok { r with tts := (n, win, [], []) :: r.tts }
    | .mode s x => g.onRole fun r => if (r.modes.lookup s).isSome then .error .twice else .ok { r with modes := (s, x) :: r.modes }
    | .budget a b => do
      let x ← v.nat 8 a
      let y ← v.nat 8 b
      g.onRole fun r => if r.budget.isSome then .error .twice else .ok { r with budget := some (x, y) }
    | .targets ls => do
      let xs ← ls.mapM (v.ownLabel inRole)
      g.onRole fun r => .ok { r with targets := r.targets ++ xs }
    | .entry l => do
      let x ← v.ownLabel inRole l
      g.onRole fun r => if r.entry.isSome then .error .twice else .ok { r with entry := some x }
    | .kernel _ _ | .label _ | .bundle _ | .send _ _ _ _ _ _ | .arrive _ _ => .error .context

def genItems (v : Env) : Gen → List (Nat × Item) → Except AsmErr Gen
  | g, [] => .ok g
  | g, (n, i) :: r =>
    match genItem v g i with
    | .ok g' => genItems v g' r
    | .error w => .error { line := n, why := w }

/-! ## The image (R33 to R39, R50) -/

/-- Is a tile position one of a role's? -/
def RoleAsm.has (r : RoleAsm) (p : List Nat) : Bool :=
  r.pos.any fun q => (q.zip p).all fun x => match x.1 with | none => true | some (a, b) => decide (a ≤ x.2 ∧ x.2 ≤ b)

/-- Does every position of a role lie in the shape? -/
def RoleAsm.inShape (r : RoleAsm) (dims : List Nat) : Bool :=
  r.pos.all fun q => (q.zip dims).all fun x => match x.1 with | none => true | some (_, b) => decide (b < x.2)

/-- The role map (R36): die, quad row, quad column, tile-in-quad; a position of two roles is an error. -/
def roleMap (rs : List RoleAsm) (cols rows dies dflt : Nat) : Except Why (List Byte) :=
  (List.range (4 * cols * rows * dies)).mapM fun i =>
    let p := [i / (4 * cols * rows), i / (4 * cols) % rows, i / 4 % cols, i % 4]
    match rs.filter fun r => r.has p with
    | [] => .ok (BitVec.ofNat 8 dflt)
    | [r] => .ok (BitVec.ofNat 8 r.id)
    | _ => .error .twice

/-- Entries by ascending tick offset (R39). -/
def byOffset (l : List (Nat × List Byte)) : List Byte := ((l.mergeSort fun a b => decide (a.1 ≤ b.1)).map (·.2)).flatten

/-- The sections of a role in the order of R50: kind, parameter, payload. A `.mode` of a socket that has no byte in the MODEMAP is accepted and writes none (DESIGN CHOICE, log 83). -/
def RoleAsm.secs (r : RoleAsm) : List (Nat × Nat × List Byte) :=
  let modemap := if r.modes = [] then [] else
    (List.range 32).map fun k =>
      BitVec.ofNat 8 ((r.modes.lookup k).getD (match sockOf k with | some s => s.always.toNat | none => 0))
  let rings := if r.rings = [] then [] else (List.range 8).flatMap fun k => (r.rings.lookup k).getD (natLe 0 16)
  let budget := match r.budget with | some (g, v) => natLe g 1 ++ natLe v 1 ++ natLe 0 2 | none => []
  [(5, 0, modemap), (7, 0, budget), (3, 0, rings), (4, r.streams.length, r.streams.flatten),
   (8, r.targets.length, (r.targets.map fun t => natLe t 4).flatten)]
  ++ ((r.tts.mergeSort fun a b => decide (a.1 ≤ b.1)).map fun (n, w, s, a) =>
      (2, n, natLe w 2 ++ natLe s.length 2 ++ natLe a.length 2 ++ natLe 0 2 ++ byOffset s ++ byOffset a))
  ++ ((r.datas.reverse.mergeSort fun a b => decide (a.1 ≤ b.1)).map fun (a, d) => (9, a, d))
  ++ [(1, r.entry.getD 0, (r.code.map fun w => natLe w.toNat 4).flatten)]

/-- The section table and the payloads, each at a multiple of 8 (R33). -/
def layOut (off : Nat) : List (Nat × Nat × Nat × List Byte) → List Byte × List Byte
  | [] => ([], [])
  | (kind, role, param, d) :: r =>
    let pad := padding d.length 8
    let x := layOut (off + d.length + pad) r
    (natLe kind 2 ++ natLe role 2 ++ natLe param 4 ++ natLe off 8 ++ natLe d.length 8 ++ natLe 0 8 ++ x.1,
     d ++ List.replicate pad 0 ++ x.2)

/-- The image of a finished kernel (R33, R50). A `.role` position outside the shape is rejected (DESIGN CHOICE, log 89). -/
def Gen.image (g : Gen) : Except Why (List Byte) := do
  if g.stage ≠ .closed then throw .missing
  match g.shape with
  | none => throw .missing
  | some (cols, rows, dies, dflt) =>
    if g.roles = [] ∨ g.roles.any fun r => r.budget.isNone then throw .missing
    let def_ ← if dflt = "none" then pure 0xFF else
      match g.roles.find? fun r => r.name = dflt with | some r => pure r.id | none => throw .name
    if g.roles.any fun r => !r.inShape [dies, rows, cols, 4] then throw .range
    let map ← roleMap g.roles cols rows dies def_
    let shape := natLe cols 1 ++ natLe rows 1 ++ natLe dies 1 ++ natLe def_ 1 ++ natLe 0 4 ++ map
    let secs := (6, 0xFFFF, 0, shape) :: ((g.roles.mergeSort fun a b => decide (a.id ≤ b.id)).flatMap fun r =>
      (r.secs.filter fun s => !s.2.2.isEmpty).map fun (k, p, d) => (k, r.id, p, d))
    let off := 64 + 32 * secs.length
    let x := layOut off secs
    let total := off + x.2.length
    if 1024 < secs.length ∨ 2 ^ 32 ≤ total then throw .range
    let body := x.1 ++ x.2
    let name := g.kname.toList.map fun c => BitVec.ofNat 8 c.toNat
    return [0x50, 0x4F, 0x4D, 0x49, 0x4E, 0x49, 0x4D, 0x47] ++ natLe 1 2 ++ natLe g.modes 2 ++ natLe total 4 ++ natLe secs.length 2
      ++ natLe g.roles.length 2 ++ natLe (crc32c body).toNat 4 ++ natLe 0 8 ++ name ++ List.replicate (32 - name.length) 0 ++ body

/-- The names that a source defines. -/
def defined (is : List (Nat × Item)) : List (Nat × String) :=
  is.filterMap fun i => match i.2 with | .label s => some (i.1, s) | .equ s _ => some (i.1, s) | _ => none

/-- The first name that may not be defined, or that is defined a second time (R43, R48, R49). -/
def badName : List String → List (Nat × String) → Option AsmErr
  | _, [] => none
  | seen, (n, s) :: r =>
    if !symbolOk s then some { line := n, why := .name }
    else if seen.contains s then some { line := n, why := .twice }
    else badName (s :: seen) r

/-- Does every role's code pass the loader's check 0x05 (R48)? -/
def codeOk (bs : List Byte) : Bool :=
  let secs := allSecs bs
  secs.all fun c => c.kind != 1 || match roleSecs secs c.role with | some x => (check05 x).isNone | none => true

/-- pomas: the image of a source, or why it is rejected (R43 to R50). -/
def assemble (src : List Char) : Except AsmErr (List Byte) := do
  let is ← parseSource src
  match badName [] (defined is) with
  | some e => throw e
  | none =>
    let equs := equsOf is
    let names := (defined is).map (·.2)
    if names.any (selfDependent equs (layPass is equs [])) then throw { line := 0, why := .selfDependent }
    let v ← match settle is equs (is.length + 64) (layPass is equs []) with
      | some ls => pure ({ equs := equs, labels := ls } : Env)
      | none => throw { line := 0, why := .selfDependent }
    -- each definition has a value, used or not
    let _ ← is.mapM fun i => match i.2 with | .equ _ e => tag i.1 (v.val e) | _ => pure 0
    let g ← genItems v {} is
    let bs ← tag 0 g.image
    if codeOk bs then return bs else throw { line := 0, why := .illegalBundle }

end Sys2Proof.Machine.Pomas
end

