-- ==== Sys2Proof/Laws/Pomas.lean ====
section
/-! SUPPORT. What the assembler's answer always has (R48, R44). -/

namespace Sys2Proof.Machine.Pomas

/-- An image that pomas emits passes the loader's check 0x05 for every role (R48). -/
theorem assemble_code_ok {src : List Char} {bs : List Byte} (h : assemble src = .ok bs) : codeOk bs = true := by
  by_contra hc
  revert h
  simp only [assemble, bind, Except.bind]
  repeat' split
  all_goals simp_all [pure, Except.pure]
  rintro rfl
  simp_all

/-- A definition that leads back to itself has no value, however its chain runs (R44). -/
theorem symVal_zero (equs : List (String × Expr)) (labels : List Label) (s : String) :
    symVal equs labels 0 s = .error .selfDependent := rfl

/-- An immediate in the short range needs no long immediate (R46). -/
theorem longs_short (val : Expr → Int) (ms : List PMove)
    (h : ∀ m ∈ ms, ∀ e, m.src = .imm e → short (val e) = true) : longs val ms = [] := by
  have hn : ms.filterMap (longOf val) = [] := by
    simp only [List.filterMap_eq_nil_iff]
    intro m hm
    cases hs : m.src with
    | imm e => simp [longOf, hs, h m hm e hs]
    | port f => simp [longOf, hs]
  simp [longs, hn]

end Sys2Proof.Machine.Pomas
end

