-- ==== Sys2Proof/Tests/Slice0.lean ====
section
/-! SUPPORT. Tests: ill-formed terms, words written out from the encoding tables, a few results worked by hand from the tables of the spec, and for each statement states and operands that meet its hypotheses. -/

namespace Sys2Proof.Tests

open Sys2Proof Sys2Proof.Machine

-- One test after the other: many kernel evaluations at once would take many threads.
set_option Elab.async false

/-! ## Well-formedness refuses -/

/-- The head of the moves below: guard `b0`, source `g1`. -/
def hd : Head := { guard := { inv := false, sel := 0 }, src := .grf 1 }

theorem test_wf_null_guard : (Instr.add { hd with guard := { inv := true, sel := 0 } } .a0 .w64).wf = false := by decide
theorem test_wf_null_guard_move : (Instr.move (.live { hd with guard := { inv := true, sel := 0 } } (.grf 1))).wf = false := by decide
theorem test_wf_li3 : (Instr.add { hd with src := .li 3 } .a0 .w64).wf = false := by decide
theorem test_wf_type_set : (Instr.fadd hd (.int false .i32)).wf = false := by decide
theorem test_wf_type_rounding : (Instr.fmin hd (.flt .f32 .rz)).wf = false := by decide
theorem test_wf_vperm_rounding : (Instr.vperm hd (.flt .bf16 .ru)).wf = false := by decide
theorem test_wf_atomic_size : (Instr.aadd hd { layout := .lin, natural := true, size := .i16 }).wf = false := by decide
theorem test_wf_order : (Instr.gld hd { order := .rel, scope := .die }).wf = false := by decide
theorem test_wf_level : (Instr.dom hd 5).wf = false := by decide
theorem test_wf_index : (Instr.tid hd 4).wf = false := by decide
theorem test_wf_accepts : (Instr.add hd .a0 .w64).wf = true ∧ (Instr.aadd hd { layout := .trn, natural := false, size := .i64 }).wf = true
    ∧ (Instr.dom hd 4).wf = true ∧ (Instr.tid hd 3).wf = true ∧ (Instr.fadd hd (.flt .f32 .rz)).wf = true := by decide

/-! ## Words

The first seven are the moves of Table 5.8; the others are guard × 2^28 + source × 2^16 + (socket × 32 + port) × 2^5 + modifier, written out from Tables 5.3 to 5.6, one or more of every socket. Source `g1` is 0x021, guard `b0` is 0. -/

theorem test_word_move_a0_a : decodeTableWord 32 0x00201000 = some (.move (.live { hd with src := .grf 0 } (.opnd .a0 .opA))) := by decide +kernel
theorem test_word_add : decodeTableWord 32 0x07E01101 = some (.add { hd with src := .li 0 } .a0 .w64) := by decide +kernel
theorem test_word_result_to_g1 : decodeTableWord 32 0x00800420 = some (.move (.live { hd with src := .resX .a0 } (.grf 1))) := by decide +kernel
theorem test_word_halt : decodeTableWord 32 0x08000200 = some (.halt { hd with src := .imm 0 }) := by decide +kernel
theorem test_word_inverted_guard : decodeTableWord 32 0xAFFF04C0 = some (.move (.live { guard := { inv := true, sel := 2 }, src := .imm 0x7FF } (.grf 6))) := by decide +kernel
theorem test_word_fadd : decodeTableWord 32 0x00232105 = some (.fadd { hd with src := .grf 3 } (.flt .f32 .rz)) := by decide +kernel
theorem test_bundle_1 : (decodeBundle false [0x03400000, 0x00201000, 0x07E01101, 0x00001000]).toOption.map (fun b => (b.moves.map (·.1), b.lis, b.len))
    = some ([0, 1], [0x1000], 16) := by decide +kernel
theorem test_bundle_1_without_li : (match decodeBundle false [0x03000000, 0x00201000, 0x07E01101, 0x00001000] with
    | .error e => some (e.1, e.2) | .ok _ => none) = some (.illegalBundle, some 1) := by decide +kernel

theorem test_word_null : decodeTableWord 32 0x8000ABCD = some (.move (.null 0x000ABCD)) := by decide +kernel
theorem test_word_loop : decodeTableWord 32 0x002101A0 = some (.loop hd) := by decide +kernel
theorem test_word_a1_tst_w : decodeTableWord 32 0x002117E0 = some (.tst hd .a1 .w32) := by decide +kernel
theorem test_word_sh_crc_d : decodeTableWord 32 0x00211AA1 = some (.crc hd .w64) := by decide +kernel
theorem test_word_mu_remn_w : decodeTableWord 32 0x00211DE0 = some (.remn hd .w32) := by decide +kernel
theorem test_word_fp_fcvtsi_s32 : decodeTableWord 32 0x002122FA = some (.fcvtsi hd (.int false .i32)) := by decide +kernel
theorem test_word_sf_rcp_vec_f32 : decodeTableWord 32 0x00212644 = some (.rcpVec hd (.flt .f32 .rne)) := by decide +kernel
theorem test_word_vu_vsel_n16 : decodeTableWord 32 0x00212A9D = some (.vsel hd (.int true .i16)) := by decide +kernel
theorem test_word_vx_vcvt_e4m3_sat : decodeTableWord 32 0x00212DB9 = some (.vcvt hd { ty := .flt .e4m3, sat := true }) := by decide +kernel
theorem test_word_ls_ld_n16_sw128 : decodeTableWord 32 0x00213115 = some (.ld hd { layout := .sw128, natural := true, size := .i16 }) := by decide +kernel
theorem test_word_ls_vstl_trn : decodeTableWord 32 0x002131B8 = some (.vstl hd .trn) := by decide +kernel
theorem test_word_ag_sopen_p17 : decodeTableWord 32 0x00213511 = some (.sopen hd 17) := by decide +kernel
theorem test_word_ag_rdrop_ring7 : decodeTableWord 32 0x002135E7 = some (.rdrop hd 7) := by decide +kernel
theorem test_word_mx_mma_acc2 : decodeTableWord 32 0x00213902 = some (.mma hd 2) := by decide +kernel
theorem test_word_dm_gcas_c_ar : decodeTableWord 32 0x00213E3A = some (.gcas hd { order := .ar, scope := .cluster }) := by decide +kernel
theorem test_word_nt_ttarm_k15 : decodeTableWord 32 0x0021410F = some (.ttarm hd 15) := by decide +kernel
theorem test_word_kn_kres : decodeTableWord 32 0x00214580 = some (.kres hd) := by decide +kernel
theorem test_word_sy_bell_l4 : decodeTableWord 32 0x00214904 = some (.bell hd 4) := by decide +kernel
theorem test_word_sy_swait_m_acq : decodeTableWord 32 0x002149EC = some (.swait hd { order := .acq, scope := .module }) := by decide +kernel
theorem test_word_tk_tidle : decodeTableWord 32 0x00214E40 = some (.tidle hd) := by decide +kernel
theorem test_word_cf_dom_l3 : decodeTableWord 32 0x00215163 = some (.dom hd 3) := by decide +kernel
theorem test_word_sv_eret : decodeMove true 3 0x00215500 = .ok (.eret hd) ∧ decodeMove false 3 0x00215500 = .error .privilegedPort := by decide +kernel
theorem test_word_rp_dgrd_user : decodeMove false 3 0x00215900 = .ok (.dgrd hd) := by decide +kernel
theorem test_word_rp_logon_user : decodeMove false 3 0x00215940 = .error .privilegedPort := by decide +kernel
/-- Reserved: `ctl` port 21, socket 0x17 as a source, class W above one bit, a modifier on a register. -/
theorem test_word_reserved : decodeMove false 3 0x002102A0 = .error .reservedSocket ∧ decodeMove false 3 0x02E01000 = .error .reservedSocket
    ∧ decodeMove false 3 0x00211102 = .error .illegalBundle ∧ decodeMove false 3 0x00210421 = .error .illegalBundle := by decide +kernel
theorem test_encode_halt : encode (.halt { hd with src := .imm 0 }) = some 0x08000200 := by decide +kernel
theorem test_encode_fadd : encode (.fadd { hd with src := .grf 3 } (.flt .f32 .rz)) = some 0x00232105 := by decide +kernel
/-! ## States to fire from -/

/-- A state: tile 0 runs bank0 at a bundle of one move. -/
def W : State := (State.reset.withFetchWord 32 0x00201000).latch [0, 0, 0] 20 0
/-- The same in bank3, the supervisor's. -/
def W3 : State := (State.reset.withFetchWord 32 0x00215500).latch [0, 0, 0] 20 0

/-- The operands of socket `k` are latched, `g1` holds `g`, and the tile is changed by `f`. -/
def put (s : State) (k : Sock) (a b c : Bus) (g : Dword) (f : Tile → Tile := id) : State :=
  s.onSelf fun t => f (t.onBank t.run fun x => (x.setG 1 g).onSock k fun y => { y with a := a, b := b, c := c })

/-- The value that `g1` drives. -/
def val (s : State) : Bus := (s.self.bank s.self.run |>.getG 1).setWidth 512

/-- The conditions of `MayIssue` and of `Fires` as checks. -/
def mayB (s : State) : Bool :=
  decide (s.inGang = false ∧ s.atBundle.self.takePending s.tick false = none ∧ s.atBundle.self.canIssue s.tick = true ∧ s.atBundle.self.waits s.tick = false)

def firesB (i : Instr) (s : State) : Bool :=
  mayB s && decide (moveCause (s.atBundle.self.run = 3) s.atBundle.self.lis.length i = none ∧ guardHolds s.atBundle.strand hd.guard = true
    ∧ readSrc s.atBundle.self s.atBundle.strand (s.srcOf hd) = some (val s) ∧ s.intact (s.regsOf hd))

theorem may_of {s : State} (h : mayB s = true) : MayIssue s :=
  have c := of_decide_eq_true h
  { alone := c.1, calm := c.2.1, able := c.2.2.1, free := c.2.2.2 }

theorem fires_of {i : Instr} {s : State} (h : firesB i s = true) : Fires i hd (val s) s :=
  have c := Bool.and_eq_true _ _ ▸ h
  have d := of_decide_eq_true c.2
  { may := may_of c.1, carries := { legal := d.1, guard := d.2.1, value := d.2.2.1, sound := d.2.2.2 } }

def admitsB (k : Sock) (o : Option Opnd) (s : State) : Bool :=
  !s.atBundle.self.locked k || ((s.latched hd k o (val s)).self).slotFree k false

theorem admits_of {k : Sock} {o : Option Opnd} {s : State} (h : admitsB k o s = true) : Admits hd k o (val s) s := by
  intro hl; simpa [admitsB, hl] using h

/-- The hypotheses of `Runs`, `Traps`, `Queues` and `Computes`, all at once, in one state. -/
structure Meets (i : Instr) (k : Sock) (o : Option Opnd) (s : State) (ok : Start → State → Prop) : Prop where
  fires : Fires i hd (val s) s
  admits : Admits hd k o (val s) s
  ok : ok (s.starts hd k o (val s)) (s.latched hd k o (val s))

theorem meets {i : Instr} {k : Sock} {o : Option Opnd} {s : State} {ok : Start → State → Prop}
    (h : ((firesB i s && admitsB k o s) = true) ∧ ok (s.starts hd k o (val s)) (s.latched hd k o (val s))) : Meets i k o s ok :=
  have hb := Bool.and_eq_true _ _ ▸ h.1
  ⟨fires_of hb.1, admits_of hb.2, h.2⟩

/-- Next state, if there is one. -/
def ran (i : Instr) (s : State) : Option State :=
  match exec i s with
  | .next t => some t
  | .fault _ | .refused _ => none

/-- The result that has been put on its way last in bank0: its `.x`, `.y`, status and flags, and its latency. -/
def sent (i : Instr) (s : State) : Option (Option Bus × Option Bus × Dword × BitVec 6 × Nat) :=
  (ran i s).bind fun t => (t.self.bank 0).flight.getLast?.map fun f => (f.res.x, f.res.y, f.res.s, f.res.flags, f.r)

/-! ## Results worked by hand from the tables and examples of the spec -/

/-- The example under Table 7.7: 0x7FFF_FFF0 + 0x20, saturating and not. -/
theorem test_addsat_w : sent (.addsat hd .a0 .w32) (put W .a0 0x7FFFFFF0 0 0 0x20) = some (some 0x7FFFFFFF, none, 0x18, 0, 0) := by decide +kernel
theorem test_add_w : sent (.add hd .a0 .w32) (put W .a0 0x7FFFFFF0 0 0 0x20) = some (some 0xFFFFFFFF80000010, none, 0x0A, 0, 0) := by decide +kernel
/-- 0 − 1 at 64 bits borrows: CY and N. -/
theorem test_sub_d : sent (.sub hd .a1 .w64) (put W .a1 0 0 0 1) = some (some 0xFFFFFFFFFFFFFFFF, none, 0x06, 0, 0) := by decide +kernel
/-- Shift amounts are taken modulo the width. -/
theorem test_shl_33 : sent (.shl hd .w32) (put W .sh 3 0 0 33) = some (some 6, none, 0, 0, 0) := by decide +kernel
theorem test_sar : sent (.sar hd .w32) (put W .sh 0x80000000 0 0 4) = some (some 0xFFFFFFFFF8000000, none, 2, 0, 0) := by decide +kernel
/-- Table 7.10: −7 / 2 is −3 and −7 rem 2 is −1, with N. -/
theorem test_div_w : (ran (.div hd .w32) (put W .mu 0xFFFFFFF9 0 0 2)).bind (fun t => t.self.queue.getLast?.bind fun o => o.res.map fun r => (r.y, r.s, o.due - t.tick))
    = some (some 0xFFFFFFFFFFFFFFFD, 2, 34) := by decide +kernel
theorem test_rem_w : (ran (.rem hd .w32) (put W .mu 0xFFFFFFF9 0 0 2)).bind (fun t => t.self.queue.getLast?.bind fun o => o.res.map fun r => (r.y, r.s))
    = some (some 0xFFFFFFFFFFFFFFFF, 2) := by decide +kernel
/-- The example of `fp`: (1 + 2^−23)² − (1 + 2^−22) is 2^−46 exactly; the product alone rounds to 1 + 2^−22 with NX. -/
theorem test_fma : sent (.fma hd (.flt .f32 .rne)) (put W .fp 0x3F800001 0x3F800001 0 0xBF800002) = some (some 0x28800000, none, 0, 0, 3) := by decide +kernel
theorem test_fmul : sent (.fmul hd (.flt .f32 .rne)) (put W .fp 0x3F800001 0 0 0x3F800001) = some (some 0x3F800002, none, 1, 1, 3) := by decide +kernel
/-- The example under Table 9.4: −7.5 to `.s64` in mode rz is −7 with NX. -/
theorem test_fcvtsi_s64 : (sent (.fcvtsi hd (.int false .i64)) (put W .fp 0 0x11 0 0xC0F00000)).map (fun r => (r.1, r.2.2.1)) = some (some 0xFFFFFFFFFFFFFFF9, 1) := by decide +kernel
theorem test_fcvtsi_n8 : (sent (.fcvtsi hd (.int true .i8)) (put W .fp 0 0x11 0 0xC0F00000)).map (fun r => (r.1, r.2.2.2.1)) = some (some 0, 0x30) := by decide +kernel
/-- The example of `sf`: 1/3 in each rounding. -/
theorem test_rcp_rne : sent (.rcp hd (.flt .f32 .rne)) (put W .sf 0 0 0 0x40400000) = some (some 0x3EAAAAAB, none, 1, 1, 7) := by decide +kernel
theorem test_rcp_rz : sent (.rcp hd (.flt .f32 .rz)) (put W .sf 0 0 0 0x40400000) = some (some 0x3EAAAAAA, none, 1, 1, 7) := by decide +kernel
/-- The example of R218: logical 0x2240 under `.sw64` lies at 0x2200. -/
theorem test_sw64 : layoutMap .sw64 0x2240 = 0x2200 ∧ layoutMap .trn 0x2044 = 0x2044 ∧ layoutMap .trn 0x2048 = 0x2084 := by decide
/-- `a0.x -> g1` of Table 5.8, with 0x1000 in `a0.x`. -/
theorem test_move_result : (ran (.move (.live { hd with src := .resX .a0 } (.grf 1))) (W.onSelf fun t => t.onBank 0 fun b => b.onSock .a0 fun c => { c with x := 0x1000 })).map
    (fun t => (t.self.bank 0).getG 1) = some 0x1000 := by decide +kernel
/-- A stored byte is read back at its address, and its neighbour is 0. -/
theorem test_store : (ran (.st hd { layout := .lin, natural := true, size := .i8 }) (put W .ls 0x5FFFF 0 0 0x1A5)).map
    (fun t => (cellsRead t.self.sram 0x5FFFF, cellsRead t.self.sram 0x5FFFE)) = some (0xA5, 0) := by decide +kernel
theorem test_halt : (ran (.halt hd) W).map (fun t => (t.self.bank 0).life) = some .halted := by decide +kernel
/-- `trap` leaves TRAP_INSTRUCTION (Table 18.1) pending with its code. -/
theorem test_trap : (ran (.trap hd) (put W .ctl 0 0 0 0x55)).map (fun t => t.self.pend.map fun p => (p.cause, p.code)) = some [(.trapInstruction, 0x55)] := by decide +kernel
/-! ## States that meet the hypotheses: triggers -/

/-- AluResults to LaneMoveResults: one trigger of each socket fires, free-running and data-locked, and its queue admits it. -/
theorem wit_computes :
    Meets (.add hd .a0 .w64) .a0 (some .opB) (put W .a0 0 0 0 1) (fun _ _ => True)
    ∧ Meets (.sel hd .a1 .w32) .a1 (some .opC) (put W .a1 0 0 0 0) (fun _ _ => True)
    ∧ Meets (.crc hd .w64) .sh (some .opB) (put W .sh 0 0 0 0) (fun _ _ => True)
    ∧ Meets (.mul hd .w32) .mu (some .opB) (put W .mu 0 0 0 0) (fun _ _ => True)
    ∧ Meets (.fma hd (.flt .f32 .rz)) .fp (some .opC) (put W .fp 0 0 0 0) (fun _ _ => True)
    ∧ Meets (.ex2 hd (.flt .f32 .rz)) .sf (some .opA) (put W .sf 0 0 0 0) (fun _ _ => True)
    ∧ Meets (.vadd hd (.flt .f16 .ru)) .vu (some .opB) (put W .vu 0 0 0 0) (fun _ _ => True)
    ∧ Meets (.vperm hd (.int true .i8)) .vx (some .opB) (put W .vx 0 0 0 0) (fun _ _ => True)
    ∧ Meets (.rdcyc hd) .cf none (put W .cf 0 0 0 0) (fun _ _ => True)
    ∧ Meets (.add hd .a0 .w64) .a0 (some .opB) (put W .a0 0 0 0 1 (fun t => changeMode t .a0 true)) (fun _ _ => True)
    ∧ Meets (.vadd hd (.int true .i8)) .vu (some .opB) (put W .vu 0 0 0 0 (fun t => changeMode t .vu true)) (fun _ _ => True) :=
  by and_intros <;> exact meets (by decide +kernel)

/-- MultiplyAndDivide: a division fires, with the queue of the divider free and taken; divisors 0 and −1. -/
theorem wit_divides :
    (Fires (.div hd .w64) hd (val (put W .mu 7 0 0 0)) (put W .mu 7 0 0 0) ∧ ((put W .mu 7 0 0 0).latched hd .mu (some .opB) 0).self.slotFree .mu true = true)
    ∧ (∃ s : State, Fires (.div hd .w64) hd (val s) s ∧ (s.latched hd .mu (some .opB) (val s)).self.slotFree .mu true = false)
    ∧ (∃ st : Start, st.natB 64 = 0)
    ∧ (∃ st : Start, st.natB 64 ≠ 0 ∧ ¬(st.intA 64 = -(2 ^ 63 : Int) ∧ st.intB 64 = -1))
    ∧ (∃ st : Start, st.natB 32 ≠ 0 ∧ st.intA 32 = -(2 ^ 31 : Int) ∧ st.intB 32 = -1) :=
  ⟨⟨fires_of (by decide +kernel), by decide +kernel⟩, ⟨((ran (.div hd .w64) (put W .mu 7 0 0 2)).map fun s => { s with tick := 1 }).getD W, fires_of (by decide +kernel), by decide +kernel⟩, ⟨(put W .mu 7 0 0 0).starts hd .mu (some .opB) 0, by decide +kernel⟩, ⟨(put W .mu 7 0 0 1).starts hd .mu (some .opB) 1, by decide +kernel⟩, ⟨(put W .mu 0x80000000 0 0 0xFFFFFFFF).starts hd .mu (some .opB) 0xFFFFFFFF, by decide +kernel⟩⟩

/-- LocalLoads: sound and uncorrectable words, misaligned and beyond local SRAM, at the edges. -/
theorem wit_LocalLoads :
    Meets (.ld hd { layout := .lin, natural := true, size := .i32 }) .ls (some .opA) (put W .ls 0 0 0 0x5FFFC) (fun st s => firstOut 4 [lsAddr st] = none ∧ s.self.badWords (layoutSpan .lin (lsAddr st) 4) = false)
    ∧ Meets (.ld hd { layout := .lin, natural := true, size := .i32 }) .ls (some .opA) (put W .ls 0 0 0 4 (fun t => { t with bad := [0] })) (fun st s => firstOut 4 [lsAddr st] = none ∧ s.self.badWords (layoutSpan .lin (lsAddr st) 4) = true)
    ∧ Meets (.ld hd { layout := .lin, natural := true, size := .i32 }) .ls (some .opA) (put W .ls 0 0 0 0x5FFFE) (fun st _ => (firstOut 4 [lsAddr st]).any (fun a => decide (a % 4 ≠ 0)) = true)
    ∧ Meets (.ld hd { layout := .lin, natural := true, size := .i32 }) .ls (some .opA) (put W .ls 0 0 0 0x60000) (fun st _ => (firstOut 4 [lsAddr st]).any (fun a => decide (a % 4 = 0)) = true)
    ∧ Meets (.vgat hd { layout := .trn, natural := false, size := .i64 }) .ls (some .opB) (put W .ls 0x5FFF8 0 0 0) (fun st s => firstOut 8 (gatherAddrs { layout := .trn, natural := false, size := .i64 } st) = none ∧ s.self.badWords ((gatherAddrs { layout := .trn, natural := false, size := .i64 } st).flatMap fun a => layoutSpan .trn a 8) = false)
    ∧ Meets (.vld hd .sw64) .ls (some .opA) (put W .ls 0 0 0 0x5FFC0) (fun st s => firstOut 64 [lsAddr st] = none ∧ s.self.badWords (layoutSpan .sw64 (lsAddr st) 64) = false)
    ∧ Meets (.vldl hd .lin) .ls (some .opB) (put W .ls 0 0 0 0xFF00 (fun t => { t with bad := [0] })) (fun st s => firstOut 64 [lsAddr st] = none ∧ s.self.badWords (((List.range 64).filter fun k => st.b.getLsbD k).map fun k => layoutMap .lin (lsAddr st + k)) = false)
    ∧ (∀ p ∈ [0, 0x5FFFF], (W.tileAt 0).soft.contains (p / 8) = false ∧ (W.tileAt 0).isUnspec p = false) :=
  by and_intros <;> first | exact meets (by decide +kernel) | decide +kernel

/-- LocalStores: a store that may be performed, one that covers a part of an uncorrectable word, and the checks. -/
theorem wit_LocalStores :
    Meets (.st hd { layout := .lin, natural := true, size := .i32 }) .ls (some .opB) (put W .ls 0x5FFFC 0 0 7) (fun st s => firstOut 4 [lsAddr st] = none ∧ ∀ w ∈ [(layoutSpan .lin (lsAddr st) 4).zip (natLe st.b.toNat 4)], s.self.writable (w.map (·.1)) = true)
    ∧ Meets (.st hd { layout := .lin, natural := true, size := .i32 }) .ls (some .opB) (put W .ls 4 0 0 7 (fun t => { t with bad := [0] })) (fun st s => firstOut 4 [lsAddr st] = none ∧ ∃ w ∈ [(layoutSpan .lin (lsAddr st) 4).zip (natLe st.b.toNat 4)], s.self.writable (w.map (·.1)) = false)
    ∧ Meets (.st hd { layout := .lin, natural := true, size := .i32 }) .ls (some .opB) (put W .ls 0x5FFFE 0 0 0) (fun st _ => (firstOut 4 [lsAddr st]).any (fun a => decide (a % 4 ≠ 0)) = true)
    ∧ Meets (.st hd { layout := .lin, natural := true, size := .i32 }) .ls (some .opB) (put W .ls 0x60000 0 0 0) (fun st _ => (firstOut 4 [lsAddr st]).any (fun a => decide (a % 4 = 0)) = true)
    ∧ Meets (.vst hd .trn) .ls (some .opB) (put W .ls 0x5FFC0 0 0 0) (fun st s => firstOut 64 [lsAddr st] = none ∧ ∀ w ∈ [(layoutSpan .trn (lsAddr st) 64).zip (bytesOf st.b)], s.self.writable (w.map (·.1)) = true)
    ∧ Meets (.vsct hd { layout := .lin, natural := true, size := .i32 }) .ls (some .opC) (put W .ls 0x5FFFC 0 0 0) (fun st _ => firstOut 4 (gatherAddrs { layout := .lin, natural := true, size := .i32 } st) = none)
    ∧ Meets (.vstl hd .sw128) .ls (some .opC) (put W .ls 0x5FFC0 1 0 0) (fun st _ => firstOut 64 [lsAddr st] = none)
    ∧ (cellsWf W.self.sram = true) :=
  by and_intros <;> first | exact meets (by decide +kernel) | decide +kernel

/-- LocalAtomics: sound, uncorrectable, and the checks. -/
theorem wit_LocalAtomics :
    Meets (.aadd hd { layout := .lin, natural := true, size := .i32 }) .ls (some .opB) (put W .ls 0x5FFFC 0 0 1) (fun st s => firstOut 4 [lsAddr st] = none ∧ s.self.badWords (layoutSpan .lin (lsAddr st) 4) = false)
    ∧ Meets (.acas hd { layout := .trn, natural := false, size := .i64 }) .ls (some .opC) (put W .ls 0 0 0 0 (fun t => { t with bad := [0] })) (fun st s => firstOut 8 [lsAddr st] = none ∧ s.self.badWords (layoutSpan .trn (lsAddr st) 8) = true)
    ∧ Meets (.amin hd { layout := .lin, natural := true, size := .i32 }) .ls (some .opB) (put W .ls 1 0 0 0) (fun st _ => (firstOut 4 [lsAddr st]).any (fun a => decide (a % 4 ≠ 0)) = true)
    ∧ Meets (.amax hd { layout := .lin, natural := true, size := .i32 }) .ls (some .opB) (put W .ls 0xFFFFFFFC 0 0 0) (fun st _ => (firstOut 4 [lsAddr st]).any (fun a => decide (a % 4 = 0)) = true) :=
  by and_intros <;> exact meets (by decide +kernel)

/-- A stream pattern of four words. -/
def pat4 : Pattern := { num := 0, layout := .lin, esize := 2, base := 0, dims := [(4, 4)] }

/-- The same pattern, beyond local SRAM and misaligned. -/
def patFar : Pattern := { pat4 with base := 0x60000 }
def patOdd : Pattern := { pat4 with base := 1 }

/-- Ring 1: two lines at 0, empty, or with `n` lines. -/
def ring2 (n : Nat) : Ring := { base := 0, size := 128, n := 1, valid := true, count := n }

/-- Streams: a pattern that is there and one that is not; a cursor before its end, at its end, and never opened. -/
theorem wit_Streams :
    Meets (.sopen hd 0) .ag (some .opB) (put W .ag 0 0 0 3 (fun t => { t with patterns := [pat4] })) (fun _ s => s.self.pattern 0 = some pat4)
    ∧ Meets (.sopen hd 31) .ag (some .opB) (put W .ag 0 0 0 0) (fun _ s => s.self.pattern 31 = none)
    ∧ Meets (.sstep hd) .ag (some .opA) (put W .ag 0 0 0 0 (fun t => { t with cursors := #v[some { pat := pat4, base := 0, idx := 4 }, none, none, none] })) (fun st s => st.a.setWidth 2 = (0 : BitVec 2) ∧ s.self.cursors[0] = some { pat := pat4, base := 0, idx := 4 } ∧ pat4.count ≤ 4)
    ∧ Meets (.sstep hd) .ag (some .opA) (put W .ag 0 0 0 0 (fun t => { t with cursors := #v[some { pat := pat4, base := 0, idx := 3 }, none, none, none] })) (fun st s => st.a.setWidth 2 = (0 : BitVec 2) ∧ s.self.cursors[0] = some { pat := pat4, base := 0, idx := 3 } ∧ 3 < pat4.count)
    ∧ Meets (.sstep hd) .ag (some .opA) (put W .ag 0 0 0 3) (fun st s => st.a.setWidth 2 = (3 : BitVec 2) ∧ s.self.cursors[3] = none)
    ∧ (pat4.dims = [(4, 4)] ∧ 3 < 4) :=
  by and_intros <;> first | exact meets (by decide +kernel) | decide +kernel

/-- Rings: initialised, pushed, popped, dropped; full, empty, with a filler, not valid; free-running and data-locked. -/
theorem wit_Rings :
    Meets (.rinit hd 1) .ag (some .opB) (put W .ag 0x8000000000 0 0 0x10001) (fun st s => (s.self.ring 1).filler = none ∧ s.self.ringBound 1 = false ∧ (st.b.getLsbD 16 = true → ringBad (busBits st.a 18 0) (busBits st.a 50 32) (busBits st.b 4 0) = false))
    ∧ Meets (.rinit hd 1) .ag (some .opB) (put W .ag 0 0 0 0x10001) (fun st s => (s.self.ring 1).filler = none ∧ s.self.ringBound 1 = false ∧ st.b.getLsbD 16 = true ∧ ringBad (busBits st.a 18 0) (busBits st.a 50 32) (busBits st.b 4 0) = true)
    ∧ Meets (.rinit hd 1) .ag (some .opB) (put W .ag 0 0 0 0 (fun t => t.setRing 1 { ring2 0 with filler := some { pat := pat4, base := 0, idx := 0, stage := [], tag := 0, isGlobal := false, scope := .tile, asid := 0, bank := 0, origin := 0, seq := 0, due := 0, opId := 0 } })) (fun st s => ((s.self.ring 1).filler.isSome = true ∨ s.self.ringBound 1 = true) ∧ st.locked = false)
    ∧ Meets (.rpush hd 1) .ag (some .opA) (put W .ag 0 0 0 0 (fun t => t.setRing 1 (ring2 1))) (fun _ s => (s.self.ring 1).valid = true ∧ (s.self.ring 1).filler = none ∧ (s.self.ring 1).count + 1 ≤ (s.self.ring 1).lines)
    ∧ Meets (.rpush hd 1) .ag (some .opA) (put W .ag 0 0 0 0 (fun t => t.setRing 1 (ring2 2))) (fun st s => (s.self.ring 1).valid = true ∧ ((s.self.ring 1).filler.isSome = true ∨ (s.self.ring 1).lines < (s.self.ring 1).count + 1) ∧ st.locked = false)
    ∧ Meets (.rpush hd 1) .ag (some .opA) (put W .ag 0 0 0 0 (fun t => changeMode (t.setRing 1 (ring2 2)) .ag true)) (fun st s => (s.self.ring 1).valid = true ∧ ((s.self.ring 1).filler.isSome = true ∨ (s.self.ring 1).lines < (s.self.ring 1).count + 1) ∧ st.locked = true)
    ∧ Meets (.rpop hd 1) .ag none (put W .ag 0 0 0 0 (fun t => t.setRing 1 (ring2 1))) (fun _ s => (s.self.ring 1).valid = true ∧ (s.self.ring 1).count ≠ 0 ∧ s.self.ringBound 1 = false ∧ s.self.badWords ((s.self.ring 1).lineSpan (s.self.ring 1).head) = false)
    ∧ Meets (.rpop hd 1) .ag none (put W .ag 0 0 0 0 (fun t => { t.setRing 1 (ring2 1) with bad := [7] })) (fun _ s => (s.self.ring 1).valid = true ∧ (s.self.ring 1).count ≠ 0 ∧ s.self.ringBound 1 = false ∧ s.self.badWords ((s.self.ring 1).lineSpan (s.self.ring 1).head) = true)
    ∧ Meets (.rpop hd 1) .ag none (put W .ag 0 0 0 0 (fun t => t.setRing 1 (ring2 0))) (fun st s => (s.self.ring 1).valid = true ∧ ((s.self.ring 1).count = 0 ∨ s.self.ringBound 1 = true) ∧ st.locked = false)
    ∧ Meets (.rpop hd 1) .ag none (put W .ag 0 0 0 0 (fun t => changeMode (t.setRing 1 (ring2 0)) .ag true)) (fun st s => (s.self.ring 1).valid = true ∧ ((s.self.ring 1).count = 0 ∨ s.self.ringBound 1 = true) ∧ st.locked = true)
    ∧ Meets (.rdrop hd 1) .ag (some .opA) (put W .ag 0 0 0 0 (fun t => t.setRing 1 (ring2 0))) (fun st s => (s.self.ring 1).valid = true ∧ st.natA 32 = 0)
    ∧ Meets (.rdrop hd 1) .ag (some .opA) (put W .ag 0 0 0 2 (fun t => t.setRing 1 (ring2 2))) (fun st s => (s.self.ring 1).valid = true ∧ st.natA 32 ≠ 0 ∧ st.natA 32 ≤ (s.self.ring 1).count ∧ s.self.ringBound 1 = false)
    ∧ Meets (.rdrop hd 1) .ag (some .opA) (put W .ag 0 0 0 3 (fun t => t.setRing 1 (ring2 2))) (fun st s => (s.self.ring 1).valid = true ∧ st.natA 32 ≠ 0 ∧ ((s.self.ring 1).count < st.natA 32 ∨ s.self.ringBound 1 = true) ∧ st.locked = false)
    ∧ Meets (.rpop hd 7) .ag none (put W .ag 0 0 0 0) (fun _ s => (s.self.ring 7).valid = false)
    ∧ Meets (.rstat hd 7) .ag none (put W .ag 0 0 0 0) (fun _ _ => True)
    ∧ (cellsWf W.self.sram = true ∧ (bytesOf 0).length = 64) :=
  by and_intros <;> first | exact meets (by decide +kernel) | decide +kernel

/-- FillerStarts: a pattern in place, misaligned, beyond local SRAM, not there; a ring that is being filled. -/
theorem wit_FillerStarts :
    Meets (.rfill hd 1) .ag (some .opB) (put W .ag 0 0 0 0 (fun t => { t.setRing 1 (ring2 0) with patterns := [pat4] })) (fun st s => ((s.self.ring 1).valid = true ∧ s.self.pattern (busBits st.b 4 0) = some pat4) ∧ (pat4.count = 0 ∨ (pat4.aligned (st.natA 64) = true ∧ pat4.inLocal (st.natA 64) = true)) ∧ (s.self.ring 1).filler = none)
    ∧ Meets (.rfill hd 1) .ag (some .opB) (put W .ag 0 0 0 0 (fun t => { t.setRing 1 (ring2 0) with patterns := [patOdd] })) (fun st s => ((s.self.ring 1).valid = true ∧ s.self.pattern (busBits st.b 4 0) = some patOdd) ∧ patOdd.count ≠ 0 ∧ patOdd.aligned (st.natA 64) = false)
    ∧ Meets (.rfill hd 1) .ag (some .opB) (put W .ag 0 0 0 0 (fun t => { t.setRing 1 (ring2 0) with patterns := [patFar] })) (fun st s => ((s.self.ring 1).valid = true ∧ s.self.pattern (busBits st.b 4 0) = some patFar) ∧ patFar.count ≠ 0 ∧ patFar.aligned (st.natA 64) = true ∧ patFar.inLocal (st.natA 64) = false)
    ∧ Meets (.rfill hd 1) .ag (some .opB) (put W .ag 0 0 0 31 (fun t => { t.setRing 1 (ring2 0) with patterns := [pat4] })) (fun st s => (s.self.ring 1).valid = true ∧ busBits st.b 4 0 = 31 ∧ s.self.pattern 31 = none)
    ∧ Meets (.rfill hd 1) .ag (some .opB) (put W .ag 0 0 0 0 (fun t => { t.setRing 1 { ring2 0 with filler := some { pat := pat4, base := 0, idx := 0, stage := [], tag := 0, isGlobal := false, scope := .tile, asid := 0, bank := 0, origin := 0, seq := 0, due := 0, opId := 0 } } with patterns := [pat4] })) (fun st s => ((s.self.ring 1).valid = true ∧ s.self.pattern (busBits st.b 4 0) = some pat4) ∧ (pat4.count = 0 ∨ (pat4.aligned (st.natA 64) = true ∧ pat4.inLocal (st.natA 64) = true)) ∧ (s.self.ring 1).filler.isSome = true ∧ st.locked = false) :=
  by and_intros <;> exact meets (by decide +kernel)

/-- MatrixTriggers: room in the sequence and none, a format pair of Table 11.1 and one outside, and the checks of `mst` at the edges. -/
theorem wit_MatrixTriggers :
    Meets (.mzero hd 3) .mx none (put W .mx 0 0 0 0) (fun st s => st.locked = false ∧ s.pruned.self.mxq.length < 2 ∧ (st.locked = true → s.pruned.self.mxSlots < 2) ∧ ∀ o ∈ s.pruned.self.mxq, o.locked = false)
    ∧ Meets (.mzero hd 3) .mx none (put W .mx 0 0 0 0 (fun t => changeMode t .mx true)) (fun st s => st.locked = true ∧ s.pruned.self.mxq.length < 2 ∧ (st.locked = true → s.pruned.self.mxSlots < 2))
    ∧ Meets (.mzero hd 3) .mx none (put W .mx 0 0 0 0 (fun t => { t with mxq := [{ bank := 0, locked := false, kind := .mzero, acc := 0, a := 0, b := 0, fmt := 0, origin := 0, seq := 0, occ := 9 }, { bank := 0, locked := false, kind := .mzero, acc := 0, a := 0, b := 0, fmt := 0, origin := 0, seq := 0, occ := 9 }] })) (fun st s => st.locked = false ∧ 2 ≤ s.pruned.self.mxq.length)
    ∧ Meets (.mst hd 0) .mx (some .opA) (put W .mx 0 0 0 0x5FC00) (fun st s => st.locked = false ∧ s.pruned.self.mxq.length < 2 ∧ (st.locked = true → s.pruned.self.mxSlots < 2) ∧ st.natA 32 % 64 = 0 ∧ st.natA 32 + 1024 ≤ 0x60000)
    ∧ Meets (.mst hd 0) .mx (some .opA) (put W .mx 0 0 0 0x5FC20) (fun st s => st.locked = false ∧ s.pruned.self.mxq.length < 2 ∧ (st.locked = true → s.pruned.self.mxSlots < 2) ∧ st.natA 32 % 64 ≠ 0)
    ∧ Meets (.mst hd 0) .mx (some .opA) (put W .mx 0 0 0 0x5FC40) (fun st s => st.locked = false ∧ s.pruned.self.mxq.length < 2 ∧ (st.locked = true → s.pruned.self.mxSlots < 2) ∧ st.natA 32 % 64 = 0 ∧ 0x60000 < st.natA 32 + 1024)
    ∧ Meets (.mma hd 0) .mx (some .opB) (put W .mx 0 0 0 0) (fun st s => st.locked = false ∧ s.pruned.self.mxq.length < 2 ∧ (st.locked = true → s.pruned.self.mxSlots < 2) ∧ (mxForm false (busBits st.b 15 0) st.fmt).isSome = true)
    ∧ Meets (.mma hd 0) .mx (some .opB) (put W .mx 0 0 0 1 (fun t => t.onBank 0 fun b => { b with fmt := 0x300 })) (fun st s => st.locked = false ∧ s.pruned.self.mxq.length < 2 ∧ (st.locked = true → s.pruned.self.mxSlots < 2) ∧ mxForm false (busBits st.b 15 0) st.fmt = none) :=
  by and_intros <;> exact meets (by decide +kernel)

/-- Transfers, IdleHaltTrap: a transfer, an idle and a halt fire; `brk` with debugging enabled and not. -/
theorem wit_Transfers :
    Meets (.jmp hd) .ctl (some .opA) (put W .ctl 0 0 0 64) (fun _ _ => True)
    ∧ Meets (.call hd) .ctl (some .opA) (put W .ctl 0 0 0 64) (fun _ _ => True)
    ∧ Meets (.idle hd) .ctl (some .opA) (put W .ctl 0 0 0 1) (fun _ _ => True)
    ∧ Meets (.halt hd) .ctl none (put W .ctl 0 0 0 0) (fun _ _ => True)
    ∧ Meets (.trap hd) .ctl (some .opA) (put W .ctl 0 0 0 0) (fun _ _ => True)
    ∧ Meets (.brk hd) .ctl (some .opA) (put W .ctl 0 0 0 0) (fun _ s => s.debugEnabled s.cur = false)
    ∧ Meets (.brk hd) .ctl (some .opA) { W with debugOn := [(dieOf 0, W.physTile 0)] } (fun _ s => s.debugEnabled s.cur = true) :=
  by and_intros <;> exact meets (by decide +kernel)

/-- Loops: a body of 16 bundles with a bound, without one, a body of 0, a third level; a level at its end and before it. -/
theorem wit_Loops :
    Meets (.loop hd) .ctl (some .opC) (put W .ctl 16 1 0 1) (fun st s => 1 ≤ bits st.a.toNat 4 0 ∧ bits st.a.toNat 4 0 ≤ 16 ∧ (s.self.bank st.bank).levels.length < 2 ∧ (s.self.bank st.bank).levels.getLast? = none ∧ bits st.b.toNat 31 0 ≠ 0)
    ∧ Meets (.loop hd) .ctl (some .opC) (put W .ctl 1 0 0 1) (fun st s => 1 ≤ bits st.a.toNat 4 0 ∧ bits st.a.toNat 4 0 ≤ 16 ∧ (s.self.bank st.bank).levels.length < 2 ∧ (s.self.bank st.bank).levels.getLast? = none ∧ bits st.b.toNat 31 0 = 0)
    ∧ Meets (.loop hd) .ctl (some .opC) (put W .ctl 0 1 0 0) (fun st _ => ¬(1 ≤ bits st.a.toNat 4 0))
    ∧ Meets (.loop hd) .ctl (some .opC) (put W .ctl 17 1 0 0) (fun st _ => ¬(bits st.a.toNat 4 0 ≤ 16))
    ∧ (∃ l : Level, l.loopx = false ∧ 0 < l.step ∧ (l.count : Int) + l.step < l.bound)
    ∧ (∃ l : Level, 0 < l.step ∧ (l.bound : Int) ≤ l.count + l.step)
    ∧ (∃ l : Level, l.loopx = false ∧ l.step ≤ 0) :=
  ⟨meets (by decide +kernel), meets (by decide +kernel), meets (by decide +kernel), meets (by decide +kernel), ⟨{ start := 8, len := 1, count := 0, bound := 2, step := 1, stagger := 0, mask := 0, pass := 0, loopx := false }, by decide⟩, ⟨{ start := 8, len := 1, count := 1, bound := 2, step := 1, stagger := 0, mask := 0, pass := 0, loopx := false }, by decide⟩, ⟨{ start := 8, len := 1, count := 1, bound := 2, step := 0, stagger := 0, mask := 0, pass := 0, loopx := false }, by decide⟩⟩

/-- LoopExit: it has a word, it fires, and a marked level ends where the next bundle stands. -/
theorem wit_LoopExit :
    (encode (.loopx hd) = some 0x002101C0)
    ∧ Meets (.loopx hd) .ctl none (put W .ctl 0 0 0 0) (fun _ _ => True)
    ∧ (∃ (f : Level → Nat) (l : Level), f l = 16 ∧ l.loopx = true) :=
  ⟨by decide +kernel, meets (by decide +kernel), ⟨fun _ => 16, { start := 8, len := 1, count := 0, bound := 9, step := 1, stagger := 0, mask := 0, pass := 0, loopx := true }, by decide⟩⟩

/-- Gangs: four tiles with roles, one without, one halted; the others waiting and not; `split` outside a gang. -/
theorem wit_Gangs :
    Meets (.gang hd) .ctl (some .opA) (put (([1, 2, 3].foldl (fun s m => s.onTile m fun t => { t with role := some 0 }) W)) .ctl 0 0 0 0 (fun t => { t with gangGo := true })) (fun st s => s.self.tasked = false ∧ st.bank = 0 ∧ s.self.role.isSome = true ∧ (∀ m ∈ [1, 2, 3], (s.tileAt m).role.isSome = true) ∧ (s.quadAt s.cur).ganged = false ∧ (∀ m ∈ [1, 2, 3], ((s.tileAt m).bank 0).life ≠ .halted) ∧ s.self.gangGo = true)
    ∧ Meets (.gang hd) .ctl (some .opA) (put (([1, 2, 3].foldl (fun s m => s.onTile m fun t => { t with role := some 0, gangWait := some 0 }) W)) .ctl 0 0 0 0) (fun st s => s.self.tasked = false ∧ st.bank = 0 ∧ s.self.role.isSome = true ∧ (∀ m ∈ [1, 2, 3], (s.tileAt m).role.isSome = true) ∧ (s.quadAt s.cur).ganged = false ∧ (∀ m ∈ [1, 2, 3], ((s.tileAt m).bank 0).life ≠ .halted) ∧ s.self.gangGo = false ∧ ∀ m ∈ [1, 2, 3], (s.tileAt m).gangWait = some s.tick)
    ∧ Meets (.gang hd) .ctl (some .opA) (put (([1, 2, 3].foldl (fun s m => s.onTile m fun t => { t with role := some 0 }) W)) .ctl 0 0 0 0) (fun st s => s.self.tasked = false ∧ st.bank = 0 ∧ s.self.role.isSome = true ∧ (∀ m ∈ [1, 2, 3], (s.tileAt m).role.isSome = true) ∧ (s.quadAt s.cur).ganged = false ∧ s.self.gangGo = false ∧ ∃ m ∈ [1, 2, 3], (s.tileAt m).gangWait ≠ some s.tick)
    ∧ Meets (.gang hd) .ctl (some .opA) (put W .ctl 0 0 0 0) (fun _ s => ¬(∀ m ∈ [1, 2, 3], (s.tileAt m).role.isSome = true))
    ∧ Meets (.gang hd) .ctl (some .opA) (put ((([1, 2, 3].foldl (fun s m => s.onTile m fun t => { t with role := some 0 }) W)).onTile 2 fun t => t.onBank 0 fun b => { b with life := .halted }) .ctl 0 0 0 0) (fun st s => s.self.tasked = false ∧ st.bank = 0 ∧ s.self.role.isSome = true ∧ (∀ m ∈ [1, 2, 3], (s.tileAt m).role.isSome = true) ∧ (s.quadAt s.cur).ganged = false ∧ ∃ m ∈ [1, 2, 3], ((s.tileAt m).bank 0).life = .halted)
    ∧ Meets (.split hd) .ctl (some .opA) (put W .ctl 0 0 0 0) (fun _ s => (s.quadAt s.cur).ganged = false) :=
  by and_intros <;> exact meets (by decide +kernel)

/-- Configuration, PrivilegedPorts: reads and writes of `fmt`, `mode` (allowed, of no socket, unchanged, locked), `sleepd` with depth 3, `dom` and `tid` at their last index. -/
theorem wit_Configuration :
    Meets (.fmt hd) .cf (some .opA) (put W .cf 0 0 0 0x8000000000000000) (fun st _ => st.a.getLsbD 63 = true)
    ∧ Meets (.fmt hd) .cf (some .opA) (put W .cf 0 0 0 0x1FFF) (fun st _ => st.a.getLsbD 63 = false)
    ∧ Meets (.mode hd) .cf (some .opA) (put W .cf 0 0 0 0x8000000000000000) (fun st _ => st.a.getLsbD 63 = true)
    ∧ Meets (.mode hd) .cf (some .opA) (put W .cf 0 0 0 0x3F00) (fun st s => (st.a.getLsbD 63 = false ∧ ¬(st.bank ≠ 3 ∧ bits st.a.toNat 13 8 < 23 ∧ s.self.lock.getLsbD (bits st.a.toNat 13 8) = true)) ∧ modeSock (bits st.a.toNat 13 8) = none)
    ∧ Meets (.mode hd) .cf (some .opA) (put W .cf 0 0 0 0x400) (fun st s => st.a.getLsbD 63 = false ∧ modeSock (bits st.a.toNat 13 8) = some .a0 ∧ s.self.locked .a0 = st.a.getLsbD 0)
    ∧ Meets (.mode hd) .cf (some .opA) (put W .cf 0 0 0 0x401) (fun st s => st.a.getLsbD 63 = false ∧ modeSock (bits st.a.toNat 13 8) = some .a0 ∧ s.self.locked .a0 ≠ st.a.getLsbD 0)
    ∧ Meets (.mode hd) .cf (some .opA) (put W .cf 0 0 0 0x401 (fun t => { t with lock := 0x10 })) (fun st s => st.a.getLsbD 63 = false ∧ st.bank ≠ 3 ∧ bits st.a.toNat 13 8 < 23 ∧ s.self.lock.getLsbD (bits st.a.toNat 13 8) = true)
    ∧ Meets (.dom hd 4) .cf none (put W .cf 0 0 0 0) (fun _ s => s.self.dom.toList[4]? = some 0)
    ∧ Meets (.tid hd 3) .cf none (put W .cf 0 0 0 0) (fun _ s => s.self.tid.toList[3]? = some 0)
    ∧ Meets (.flags hd) .cf (some .opA) (put W .cf 0 0 0 0) (fun _ _ => True)
    ∧ Meets (.sleepd hd) .cf (some .opA) (put W .cf 0 0 0 0x8000000000000000) (fun st _ => st.a.getLsbD 63 = true)
    ∧ Meets (.sleepd hd) .cf (some .opA) (put W .cf 0 0 0 3) (fun st _ => st.a.getLsbD 63 = false ∧ bits st.a.toNat 1 0 = 3)
    ∧ Meets (.sleepd hd) .cf (some .opA) (put W .cf 0 0 0 2) (fun st _ => st.a.getLsbD 63 = false ∧ bits st.a.toNat 1 0 ≠ 3)
    ∧ (Sock.a0.noMode = false ∧ Sock.a0.always = false) :=
  by and_intros <;> first | exact meets (by decide +kernel) | decide +kernel

/-- CopyTriggers: a copy to the end of local SRAM, misaligned operands, one byte too far; patterns; a fill; scalar accesses of 8, 3 and misaligned bytes. -/
theorem wit_CopyTriggers :
    Meets (.get hd { order := .plain, scope := .die }) .dm (some .opC) (put W .dm 0 0x5FFFC 0 4) (fun st _ => busBits st.a 54 0 % 4 = 0 ∧ busBits st.b 31 0 % 4 = 0 ∧ busBits st.c 23 0 % 4 = 0 ∧ busBits st.b 31 0 + busBits st.c 23 0 ≤ 0x60000)
    ∧ Meets (.get hd { order := .plain, scope := .die }) .dm (some .opC) (put W .dm 2 0 0 4) (fun st _ => busBits st.a 54 0 % 4 ≠ 0)
    ∧ Meets (.put hd { order := .plain, scope := .die }) .dm (some .opC) (put W .dm 0 0 0 6) (fun st _ => busBits st.a 54 0 % 4 = 0 ∧ (busBits st.b 31 0 % 4 ≠ 0 ∨ busBits st.c 23 0 % 4 ≠ 0))
    ∧ Meets (.put hd { order := .plain, scope := .die }) .dm (some .opC) (put W .dm 0 0x5FFFC 0 8) (fun st _ => busBits st.a 54 0 % 4 = 0 ∧ busBits st.b 31 0 % 4 = 0 ∧ busBits st.c 23 0 % 4 = 0 ∧ 0x60000 < busBits st.b 31 0 + busBits st.c 23 0)
    ∧ Meets (.getp hd { order := .plain, scope := .die }) .dm (some .opC) (put W .dm 0 0x5FFF0 0 0 (fun t => { t with patterns := [pat4] })) (fun st s => s.self.pattern (busBits st.c 44 40) = some pat4 ∧ ((pat4.count = 0 ∨ pat4.aligned (busBits st.a 54 0) = true) ∧ busBits st.b 31 0 % min (2 ^ pat4.esize) 4 = 0) ∧ busBits st.b 31 0 + pat4.count * 2 ^ pat4.esize ≤ 0x60000)
    ∧ Meets (.putp hd { order := .plain, scope := .die }) .dm (some .opC) (put W .dm 2 0 0 0 (fun t => { t with patterns := [pat4] })) (fun st s => s.self.pattern (busBits st.c 44 40) = some pat4 ∧ ¬((pat4.count = 0 ∨ pat4.aligned (busBits st.a 54 0) = true) ∧ busBits st.b 31 0 % min (2 ^ pat4.esize) 4 = 0))
    ∧ Meets (.putp hd { order := .plain, scope := .die }) .dm (some .opC) (put W .dm 0 0x5FFF4 0 0 (fun t => { t with patterns := [pat4] })) (fun st s => s.self.pattern (busBits st.c 44 40) = some pat4 ∧ ((pat4.count = 0 ∨ pat4.aligned (busBits st.a 54 0) = true) ∧ busBits st.b 31 0 % min (2 ^ pat4.esize) 4 = 0) ∧ 0x60000 < busBits st.b 31 0 + pat4.count * 2 ^ pat4.esize)
    ∧ Meets (.getp hd { order := .plain, scope := .die }) .dm (some .opC) (put W .dm 0 0 0 0x10000000000 (fun t => { t with patterns := [pat4] })) (fun st s => busBits st.c 44 40 = 1 ∧ s.self.pattern 1 = none)
    ∧ Meets (.fill hd { order := .plain, scope := .die }) .dm (some .opB) (put W .dm 0 0 0 0x10000 (fun t => { t.setRing 1 (ring2 0) with patterns := [pat4] })) (fun st s => (BitVec.ofNat 3 (busBits st.b 18 16) = 1 ∧ (s.self.ring 1).valid = true ∧ s.self.pattern (busBits st.b 4 0) = some pat4) ∧ (pat4.count = 0 ∨ pat4.aligned (busBits st.a 54 0) = true))
    ∧ Meets (.fill hd { order := .plain, scope := .die }) .dm (some .opB) (put W .dm 0 0 0 0x10000 (fun t => { t.setRing 1 (ring2 0) with patterns := [patOdd] })) (fun st s => (BitVec.ofNat 3 (busBits st.b 18 16) = 1 ∧ (s.self.ring 1).valid = true ∧ s.self.pattern (busBits st.b 4 0) = some patOdd) ∧ patOdd.count ≠ 0 ∧ patOdd.aligned (busBits st.a 54 0) = false)
    ∧ Meets (.fill hd { order := .plain, scope := .die }) .dm (some .opB) (put W .dm 0 0 0 0x70000) (fun st s => BitVec.ofNat 3 (busBits st.b 18 16) = 7 ∧ (s.self.ring 7).valid = false)
    ∧ Meets (.gld hd { order := .plain, scope := .die }) .dm (some .opA) (put W .dm 0 0 0 0x300000000000008) (fun st _ => 2 ^ busBits st.a 58 56 ∈ [1, 2, 4, 8] ∧ busBits st.a 54 0 % 2 ^ busBits st.a 58 56 = 0)
    ∧ Meets (.gld hd { order := .plain, scope := .die }) .dm (some .opA) (put W .dm 0 0 0 0x300000000000004) (fun st _ => 2 ^ busBits st.a 58 56 ∉ [1, 2, 4, 8] ∨ busBits st.a 54 0 % 2 ^ busBits st.a 58 56 ≠ 0)
    ∧ Meets (.gcas hd { order := .plain, scope := .die }) .dm (some .opC) (put W .dm 0x400000000000010 0 0 0) (fun st _ => 2 ^ busBits st.a 58 56 ∈ [4, 8, 16] ∧ busBits st.a 54 0 % 2 ^ busBits st.a 58 56 = 0)
    ∧ Meets (.gadd hd { order := .plain, scope := .die }) .dm (some .opB) (put W .dm 0x100000000000000 0 0 0) (fun st _ => 2 ^ busBits st.a 58 56 ∉ [4, 8] ∨ busBits st.a 54 0 % 2 ^ busBits st.a 58 56 ≠ 0)
    ∧ Meets (.mfence hd { order := .plain, scope := .die }) .dm none (put W .dm 0 0 0 0) (fun _ _ => True) :=
  by and_intros <;> exact meets (by decide +kernel)

def rankOk (s : State) (r : Nat) : Bool := match rankCheck s s.self r with | .ok _ => true | .error _ => false

theorem rankOk_ok (s : State) (r : Nat) (h : rankOk s r = true) : rankCheck s s.self r = .ok () := by
  unfold rankOk at h; split at h
  · assumption
  · cases h

/-- ExchangeTriggers: a timetable of the role and none; pushes with a rank, misaligned, too far, with a level above 4; zones that fit and do not; messages of tasks. -/
theorem wit_ExchangeTriggers :
    Meets (.ttarm hd 1) .nt none (put W .nt 0 0 0 0 (fun t => { t with timetables := [{ num := 1, window := 64, sends := [], arrives := [] }] })) (fun _ s => s.self.tasked = false ∧ ∃ x ∈ s.self.timetables, x.num = 1)
    ∧ Meets (.ttarm hd 15) .nt none (put W .nt 0 0 0 0) (fun _ s => ¬(s.self.tasked = false ∧ ∃ x ∈ s.self.timetables, x.num = 15))
    ∧ Meets (.push hd) .nt (some .opC) (put W .nt 0 0x5FFFC 0 4 (fun t => { t with dom := #v[0x100000000, 0x100000000, 0x100000000, 0x100000000, 0x100000000], launch := some 1 })) (fun st s => busBits st.b 31 0 % 4 = 0 ∧ busBits st.c 19 0 % 4 = 0 ∧ busBits st.b 31 0 + busBits st.c 19 0 ≤ 0x60000 ∧ busBits st.c 42 40 ≤ 4 ∧ rankOk s (busBits st.a 31 0) = true)
    ∧ Meets (.push hd) .nt (some .opC) (put W .nt 0 2 0 4) (fun st _ => busBits st.b 31 0 % 4 ≠ 0)
    ∧ Meets (.push hd) .nt (some .opC) (put W .nt 0 0x5FFFC 0 8) (fun st _ => busBits st.b 31 0 % 4 = 0 ∧ busBits st.c 19 0 % 4 = 0 ∧ ¬(busBits st.b 31 0 + busBits st.c 19 0 ≤ 0x60000))
    ∧ Meets (.push hd) .nt (some .opC) (put W .nt 0 0 0 0x50000000000) (fun st _ => busBits st.c 19 0 % 4 = 0 ∧ 4 < busBits st.c 42 40)
    ∧ Meets (.pushp hd) .nt (some .opC) (put W .nt 0 0x5FFF0 0 0 (fun t => { (fun t => { t with dom := #v[0x100000000, 0x100000000, 0x100000000, 0x100000000, 0x100000000], launch := some 1 }) t with patterns := [pat4] })) (fun st s => s.self.pattern (busBits st.c 28 24) = some pat4 ∧ pat4.aligned (busBits st.b 31 0) = true ∧ pat4.inLocal (busBits st.b 31 0) = true ∧ busBits st.c 42 40 ≤ 4 ∧ rankOk s (busBits st.a 31 0) = true)
    ∧ Meets (.pushp hd) .nt (some .opC) (put W .nt 0 0x5FFF4 0 0 (fun t => { t with patterns := [pat4] })) (fun st s => s.self.pattern (busBits st.c 28 24) = some pat4 ∧ pat4.aligned (busBits st.b 31 0) = true ∧ pat4.inLocal (busBits st.b 31 0) = false)
    ∧ Meets (.pushp hd) .nt (some .opC) (put W .nt 0 0 0 0x1F000000) (fun st s => busBits st.c 28 24 = 31 ∧ s.self.pattern 31 = none)
    ∧ Meets (.land hd) .nt (some .opC) (put W .nt 0x400005FFC0 1 0 0 (fun t => { t with dom := #v[0x100000000, 0x100000000, 0x100000000, 0x100000000, 0x100000000], launch := some 1 })) (fun st s => busBits st.a 31 0 % 64 = 0 ∧ busBits st.a 63 32 ≠ 0 ∧ busBits st.a 63 32 % 4 = 0 ∧ busBits st.a 31 0 + busBits st.a 63 32 ≤ 0x60000 ∧ busBits st.b 15 0 = 1 ∧ busBits st.b 17 16 = 0 ∧ busBits st.c 18 16 ≤ 5 ∧ 0 + 1 ≤ (s.self.domReg 0).toNat / 2 ^ 32)
    ∧ Meets (.land hd) .nt (some .opC) (put W .nt 0x5FFC0 0 0 0) (fun st _ => ¬(busBits st.a 31 0 % 64 = 0 ∧ busBits st.a 63 32 ≠ 0))
    ∧ Meets (.land hd) .nt (some .opC) (put W .nt 0x440005FFC0 0 0 0) (fun st _ => busBits st.a 31 0 % 64 = 0 ∧ busBits st.a 63 32 % 4 = 0 ∧ ¬(busBits st.a 31 0 + busBits st.a 63 32 ≤ 0x60000))
    ∧ Meets (.land hd) .nt (some .opC) (put W .nt 0x400000000 0 0 0) (fun st _ => busBits st.a 63 32 ≠ 0 ∧ busBits st.b 15 0 = 0)
    ∧ Meets (.lclose hd) .nt (some .opA) (put W .nt 0 0 0 0) (fun _ _ => True)
    ∧ Meets (.msg hd) .nt (some .opC) (put W .nt 0 0 0 0 (fun t => { (fun t => { t with dom := #v[0x100000000, 0x100000000, 0x100000000, 0x100000000, 0x100000000], launch := some 1 }) t with tasked := true })) (fun st s => s.self.tasked = true ∧ rankOk s (busBits st.a 31 0) = true)
    ∧ Meets (.msg hd) .nt (some .opC) (put W .nt 0 0 0 0) (fun _ s => s.self.tasked = false)
    ∧ Meets (.mig hd) .nt (some .opC) (put W .nt 0 0x5FEF0 0 0 (fun t => { (fun t => { t with dom := #v[0x100000000, 0x100000000, 0x100000000, 0x100000000, 0x100000000], launch := some 1 }) t with tasked := true })) (fun st s => s.self.tasked = true ∧ busBits st.b 31 0 % 16 = 0 ∧ busBits st.b 31 0 + 272 ≤ 0x60000 ∧ rankOk s (busBits st.a 31 0) = true)
    ∧ Meets (.mig hd) .nt (some .opC) (put W .nt 0 8 0 0 (fun t => { t with tasked := true })) (fun st s => s.self.tasked = true ∧ busBits st.b 31 0 % 16 ≠ 0)
    ∧ Meets (.mig hd) .nt (some .opC) (put W .nt 0 0x5FF00 0 0 (fun t => { t with tasked := true })) (fun st s => s.self.tasked = true ∧ busBits st.b 31 0 % 16 = 0 ∧ 0x60000 < busBits st.b 31 0 + 272)
    ∧ ((W.self).dom[4].toNat / 2 ^ 32 ≤ 0) :=
  by and_intros <;> first | exact meets (by decide +kernel) | decide +kernel

/-- ReductionTriggers: a collective of 256 results, with no contributor, to a rank beyond the domain, misaligned and beyond local SRAM; contributions and a final step at their edges. -/
theorem wit_ReductionTriggers :
    Meets (.kopen hd) .kn (some .opC) (put W .kn 0x10000 0x5FC00 0 0x1000000 (fun t => { t with dom := #v[0x100000000, 0x100000000, 0x100000000, 0x100000000, 0x100000000], launch := some 1 })) (fun st s => (kopenPar st).level ≤ 3 ∧ (kopenPar st).ty ≠ 3 ∧ 1 ≤ (kopenPar st).n ∧ (kopenPar st).n ≤ 256 ∧ (kopenPar st).r ≤ 1 ∧ (kopenPar st).fin = false ∧ (kopenPar st).c ≠ 0 ∧ (kopenPar st).rankBase + (kopenPar st).c ≤ (s.self.domReg (kopenPar st).level).toNat / 2 ^ 32 ∧ (s.self.domReg (kopenPar st).level).toNat % 2 ^ 32 < (kopenPar st).rankBase + (kopenPar st).c ∧ (kopenPar st).dstRank < (s.self.domReg 3).toNat / 2 ^ 32 ∧ (kopenPar st).off % 4 = 0 ∧ (kopenPar st).off + (kopenPar st).resultBytes ≤ 0x60000)
    ∧ Meets (.kopen hd) .kn (some .opC) (put W .kn 0 0 0 0x1000000) (fun st _ => (kopenPar st).c = 0)
    ∧ Meets (.kopen hd) .kn (some .opC) (put W .kn 0x10000 0x100000000 0 0x1000000 (fun t => { t with dom := #v[0x100000000, 0x100000000, 0x100000000, 0x100000000, 0x100000000], launch := some 1 })) (fun st s => (kopenPar st).level ≤ 3 ∧ (kopenPar st).ty ≠ 3 ∧ 1 ≤ (kopenPar st).n ∧ (kopenPar st).n ≤ 256 ∧ (kopenPar st).r ≤ 1 ∧ (kopenPar st).fin = false ∧ (kopenPar st).c ≠ 0 ∧ (kopenPar st).rankBase + (kopenPar st).c ≤ (s.self.domReg (kopenPar st).level).toNat / 2 ^ 32 ∧ (s.self.domReg (kopenPar st).level).toNat % 2 ^ 32 < (kopenPar st).rankBase + (kopenPar st).c ∧ ¬((kopenPar st).dstRank < (s.self.domReg 3).toNat / 2 ^ 32))
    ∧ Meets (.kopen hd) .kn (some .opC) (put W .kn 0x10000 1 0 0x1000000 (fun t => { t with dom := #v[0x100000000, 0x100000000, 0x100000000, 0x100000000, 0x100000000], launch := some 1 })) (fun st s => (kopenPar st).level ≤ 3 ∧ (kopenPar st).ty ≠ 3 ∧ 1 ≤ (kopenPar st).n ∧ (kopenPar st).n ≤ 256 ∧ (kopenPar st).r ≤ 1 ∧ (kopenPar st).fin = false ∧ (kopenPar st).c ≠ 0 ∧ (kopenPar st).rankBase + (kopenPar st).c ≤ (s.self.domReg (kopenPar st).level).toNat / 2 ^ 32 ∧ (s.self.domReg (kopenPar st).level).toNat % 2 ^ 32 < (kopenPar st).rankBase + (kopenPar st).c ∧ (kopenPar st).dstRank < (s.self.domReg 3).toNat / 2 ^ 32 ∧ (kopenPar st).off % 4 ≠ 0)
    ∧ Meets (.kopen hd) .kn (some .opC) (put W .kn 0x10000 0x5FFFC 0 0x1000000 (fun t => { t with dom := #v[0x100000000, 0x100000000, 0x100000000, 0x100000000, 0x100000000], launch := some 1 })) (fun st s => (kopenPar st).level ≤ 3 ∧ (kopenPar st).ty ≠ 3 ∧ 1 ≤ (kopenPar st).n ∧ (kopenPar st).n ≤ 256 ∧ (kopenPar st).r ≤ 1 ∧ (kopenPar st).fin = false ∧ (kopenPar st).c ≠ 0 ∧ (kopenPar st).rankBase + (kopenPar st).c ≤ (s.self.domReg (kopenPar st).level).toNat / 2 ^ 32 ∧ (s.self.domReg (kopenPar st).level).toNat % 2 ^ 32 < (kopenPar st).rankBase + (kopenPar st).c ∧ (kopenPar st).off % 4 = 0 ∧ 0x60000 < (kopenPar st).off + (kopenPar st).resultBytes)
    ∧ Meets (.kpart hd) .kn (some .opB) (put W .kn 4 0 0 0) (fun st _ => busBits st.a 31 0 % 4 = 0)
    ∧ Meets (.kattn hd) .kn (some .opB) (put W .kn 6 0 0 0) (fun st _ => busBits st.a 31 0 % 4 ≠ 0)
    ∧ Meets (.kfin hd) .kn (some .opC) (put W .kn 0x5FFF4 0x5FFF4 0 1) (fun st _ => 1 ≤ busBits st.c 8 0 ∧ busBits st.c 8 0 ≤ 256 ∧ busBits st.a 31 0 % 4 = 0 ∧ busBits st.b 31 0 % 4 = 0 ∧ busBits st.a 31 0 + (busBits st.c 14 12 + 1) * (8 + 4 * busBits st.c 8 0) ≤ 0x60000)
    ∧ Meets (.kfin hd) .kn (some .opC) (put W .kn 0 0 0 0) (fun st _ => ¬(1 ≤ busBits st.c 8 0))
    ∧ Meets (.kfin hd) .kn (some .opC) (put W .kn 2 0 0 1) (fun st _ => 1 ≤ busBits st.c 8 0 ∧ ¬(busBits st.a 31 0 % 4 = 0))
    ∧ Meets (.kfin hd) .kn (some .opC) (put W .kn 0x5FFF8 0 0 1) (fun st _ => 1 ≤ busBits st.c 8 0 ∧ 0x60000 < busBits st.a 31 0 + (busBits st.c 14 12 + 1) * (8 + 4 * busBits st.c 8 0))
    ∧ Meets (.kres hd) .kn (some .opA) (put W .kn 0 0 0 0) (fun _ _ => True) :=
  by and_intros <;> exact meets (by decide +kernel)

/-- SyncTriggers: a bell in bank0, one whose timetable leaves its domain, one outside bank0; waits; units aligned and not; `binit` at 1, 4,096, 0 and 4,097. -/
theorem wit_SyncTriggers :
    Meets (.bell hd 4) .sy none (put W .sy 0 0 0 0) (fun st s => st.bank = 0 ∧ ¬((4 : BitVec 3).toNat ≤ 1 ∧ s.self.sendsBeyond 4 = true))
    ∧ Meets (.bell hd 0) .sy none (put W .sy 0 0 0 0 (fun t => { t with armed := some 1, timetables := [{ num := 1, window := 64, sends := [{ off := 0, dc := 2, dr := 0, t := 1, len := 1, addr := 0 }], arrives := [] }] })) (fun st s => st.bank = 0 ∧ (0 : BitVec 3).toNat ≤ 1 ∧ s.self.sendsBeyond 0 = true)
    ∧ Meets (.bell hd 0) .sy none (put W3 .sy 0 0 0 0) (fun st _ => st.bank ≠ 0)
    ∧ Meets (.bellx hd 0) .sy none (put W .sy 0 0 0 0) (fun st _ => st.bank = 0)
    ∧ Meets (.bellx hd 0) .sy none (put W3 .sy 0 0 0 0) (fun st _ => st.bank ≠ 0)
    ∧ Meets (.wany hd { order := .acq, scope := .die }) .sy (some .opA) (put W .sy 0 0 0 0) (fun _ _ => True)
    ∧ Meets (.fence hd { order := .plain, scope := .die }) .sy none (put W .sy 0 0 0 0) (fun _ _ => True)
    ∧ Meets (.tclr hd) .sy (some .opA) (put W .sy 0 0 0 0) (fun _ _ => True)
    ∧ Meets (.trig hd) .sy none (put W .sy 0 0 0 0) (fun _ _ => True)
    ∧ Meets (.sig hd { order := .plain, scope := .die }) .sy (some .opB) (put W .sy 8 0 0 0) (fun st _ => busBits st.a 54 0 % 8 = 0 ∧ True)
    ∧ Meets (.swait hd { order := .plain, scope := .die }) .sy (some .opB) (put W .sy 4 0 0 0) (fun st _ => busBits st.a 54 0 % 8 ≠ 0)
    ∧ Meets (.arrive hd { order := .plain, scope := .die }) .sy (some .opB) (put W .sy 16 0 0 0) (fun st _ => busBits st.a 54 0 % 32 ≠ 0)
    ∧ Meets (.binit hd) .sy (some .opB) (put W .sy 32 0 0 4096) (fun st _ => busBits st.a 54 0 % 32 = 0 ∧ 1 ≤ busBits st.b 31 0 ∧ busBits st.b 31 0 ≤ 4096)
    ∧ Meets (.binit hd) .sy (some .opB) (put W .sy 32 0 0 4097) (fun st _ => busBits st.a 54 0 % 32 = 0 ∧ (busBits st.b 31 0 = 0 ∨ 4096 < busBits st.b 31 0)) :=
  by and_intros <;> exact meets (by decide +kernel)

/-- TaskTriggers: tasked mode and timetabled mode, ids 1, 31, 0 and 32, a kind and a bank of 3, an area at the end of local SRAM, misaligned and beyond. -/
theorem wit_TaskTriggers :
    Meets (.wake hd) .tk (some .opA) (put W .tk 0 0 0 31 (fun t => { t with tasked := true })) (fun st s => s.self.tasked = true ∧ st.bank ∈ [(0 : BitVec 2), 1, 2] ∧ 1 ≤ busBits st.a 31 0 ∧ busBits st.a 31 0 < 32)
    ∧ Meets (.wake hd) .tk (some .opA) (put W .tk 0 0 0 32 (fun t => { t with tasked := true })) (fun st s => s.self.tasked = true ∧ [(0 : BitVec 2), 1, 2].contains st.bank = true ∧ ¬(1 ≤ busBits st.a 31 0 ∧ busBits st.a 31 0 < 32))
    ∧ Meets (.yield hd) .tk none (put W .tk 0 0 0 0) (fun st s => s.self.tasked = false ∨ st.bank ∉ [(1 : BitVec 2), 2])
    ∧ Meets (.prio hd) .tk (some .opB) (put W .tk 0 0 0 0 (fun t => { t with tasked := true })) (fun st s => s.self.tasked = true ∧ st.bank = 0 ∧ ¬(1 ≤ busBits st.a 31 0 ∧ busBits st.a 31 0 < 32))
    ∧ Meets (.resume hd) .tk (some .opB) (put W .tk 1 0 0 3 (fun t => { t with tasked := true })) (fun st s => s.self.tasked = true ∧ st.bank = 0 ∧ busBits st.b 1 0 = 3)
    ∧ Meets (.next hd) .tk none (put W .tk 0 0 0 0 (fun t => { t with tasked := true })) (fun st s => s.self.tasked = true ∧ st.bank = 0)
    ∧ Meets (.tidle hd) .tk none (put W .tk 0 0 0 0 (fun t => { t with tasked := true })) (fun st s => s.self.tasked = true ∧ st.bank ∈ [(0 : BitVec 2)] ∧ True)
    ∧ Meets (.spawn hd) .tk (some .opC) (put W .tk 0 0 0 0x5FEF00000001F (fun t => { t with tasked := true })) (fun st s => s.self.tasked = true ∧ st.bank ∈ [(0 : BitVec 2)] ∧ busBits st.c 4 0 ≠ 0 ∧ busBits st.c 13 12 ≠ 3 ∧ (2 ≤ busBits st.c 13 12 ∨ (busBits st.c 50 32 % 16 = 0 ∧ busBits st.c 50 32 + 272 ≤ 0x60000)))
    ∧ Meets (.spawn hd) .tk (some .opC) (put W .tk 0 0 0 0x3001 (fun t => { t with tasked := true })) (fun st s => s.self.tasked = true ∧ st.bank = 0 ∧ (busBits st.c 4 0 = 0 ∨ busBits st.c 13 12 = 3))
    ∧ Meets (.spawn hd) .tk (some .opC) (put W .tk 0 0 0 0x800000001 (fun t => { t with tasked := true })) (fun st s => s.self.tasked = true ∧ st.bank = 0 ∧ busBits st.c 4 0 ≠ 0 ∧ busBits st.c 13 12 ≤ 1 ∧ busBits st.c 50 32 % 16 ≠ 0)
    ∧ Meets (.spawn hd) .tk (some .opC) (put W .tk 0 0 0 0x5FF0000000001 (fun t => { t with tasked := true })) (fun st s => s.self.tasked = true ∧ st.bank = 0 ∧ busBits st.c 4 0 ≠ 0 ∧ busBits st.c 13 12 ≤ 1 ∧ busBits st.c 50 32 % 16 = 0 ∧ 0x60000 < busBits st.c 50 32 + 272) :=
  by and_intros <;> exact meets (by decide +kernel)

/-- `yield` runs in bank1 or bank2 of a tasked tile. -/
def Wk : State := W.onSelf fun t => { t.setBank 1 { t.bank 0 with } with run := 1, tasked := true }

/-- TaskTriggers: a user task may yield and sleep. -/
theorem wit_TaskTriggers_user :
    Meets (.yield hd) .tk none (put Wk .tk 0 0 0 0) (fun st s => s.self.tasked = true ∧ st.bank ∈ [(1 : BitVec 2), 2] ∧ True)
    ∧ Meets (.sleep hd) .tk (some .opA) (put Wk .tk 0 0 0 0) (fun st s => s.self.tasked = true ∧ st.bank ∈ [(1 : BitVec 2), 2] ∧ True) :=
  by and_intros <;> exact meets (by decide +kernel)

/-- SupervisorOperations: `eret` of forms 0 and 3, reads and writes of `cause`, `asid`, `errst`, `stmr`, `bank`; maps 0 and 1; capture blocks at the last address, misaligned, of bank3. -/
theorem wit_SupervisorOperations :
    Meets (.eret hd) .sv (some .opA) (put W3 .sv 0 0 0 3) (fun st _ => busBits st.a 1 0 = 3)
    ∧ Meets (.eret hd) .sv (some .opA) (put W3 .sv 0 0 0 2) (fun st _ => busBits st.a 1 0 ≠ 3)
    ∧ Meets (.cause hd) .sv (some .opA) (put W3 .sv 0 0 0 3) (fun st _ => st.a.getLsbD 62 = false ∧ busBits st.a 1 0 = (3 : Fin 4))
    ∧ Meets (.cause hd) .sv (some .opA) (put W3 .sv 0 0 0 0x4000000000000000) (fun st _ => st.a.getLsbD 62 = true)
    ∧ Meets (.tlbinv hd { order := .plain, scope := .die }) .sv (some .opB) (put W3 .sv 0 0 0 0) (fun _ _ => True)
    ∧ Meets (.mapfence hd { order := .plain, scope := .die }) .sv (some .opC) (put W3 .sv 0 0 0 0) (fun st _ => busBits st.c 15 0 = 0)
    ∧ Meets (.mapfence hd { order := .plain, scope := .die }) .sv (some .opC) (put W3 .sv 0 0 0 1) (fun st _ => busBits st.c 15 0 ≠ 0)
    ∧ Meets (.asid hd) .sv (some .opA) (put W3 .sv 0 0 0 0x8000000000000000) (fun st _ => st.a.getLsbD 63 = true)
    ∧ Meets (.asid hd) .sv (some .opA) (put W3 .sv 0 0 0 7) (fun st _ => st.a.getLsbD 63 = false)
    ∧ Meets (.errst hd) .sv (some .opA) (put W3 .sv 0 0 0 1) (fun st _ => st.a.getLsbD 0 = true)
    ∧ Meets (.stmr hd) .sv (some .opA) (put W3 .sv 0 0 0 0) (fun st _ => st.a.getLsbD 63 = false)
    ∧ Meets (.bank hd) .sv (some .opB) (put W3 .sv 3 0 0 0) (fun st _ => st.a.setWidth 2 = (3 : BitVec 2) ∨ busBits st.a 4 3 = 3)
    ∧ Meets (.bank hd) .sv (some .opB) (put W3 .sv 0x3E2 0 0 0) (fun st s => (st.a.setWidth 2 = (2 : BitVec 2) ∧ busBits st.a 4 3 = 0 ∧ busBits st.a 9 5 = 31 ∧ st.a.getLsbD 2 = false) ∧ (s.self.badRegs.any fun e => e.1 = 2 ∧ e.2.1 = 0 ∧ e.2.2.1 = 31) = false)
    ∧ Meets (.bank hd) .sv (some .opB) (put W3 .sv 0xF4 0 0 0) (fun st _ => st.a.setWidth 2 = (0 : BitVec 2) ∧ busBits st.a 4 3 = 2 ∧ busBits st.a 9 5 = 7 ∧ st.a.getLsbD 2 = true) :=
  by and_intros <;> exact meets (by decide +kernel)

/-- CaptureBlocks: the last block of local SRAM, a misaligned one, one of bank3; a block that restores its bank. -/
theorem wit_CaptureBlocks :
    Meets (.shcap hd) .sv (some .opB) (put W3 .sv 0x5C000 0 0 2) (fun st _ => captureAddr st = some 0x5C000 ∧ st.b.setWidth 2 = (2 : BitVec 2))
    ∧ Meets (.shcap hd) .sv (some .opB) (put W3 .sv 0x5C040 0 0 0) (fun st _ => captureAddr st = none)
    ∧ Meets (.shset hd) .sv (some .opB) (put W3 .sv 0 0 0 3) (fun st _ => captureAddr st = none) :=
  by and_intros <;> exact meets (by decide +kernel)

/-- ReplayOperations: digest reads of both kinds, and unit words of a die in and out of range. -/
theorem wit_ReplayOperations :
    Meets (.dgrd hd) .rp (some .opA) (put W .rp 0 0 0 0) (fun st s => s.self.unfolded s.tick = false ∧ st.a.getLsbD 0 = false)
    ∧ Meets (.dgrd hd) .rp (some .opA) (put W .rp 0 0 0 1) (fun st s => s.self.unfolded s.tick = false ∧ st.a.getLsbD 0 = true)
    ∧ Meets (.dgclr hd) .rp none (put W .rp 0 0 0 0) (fun _ s => s.self.unfolded s.tick = false)
    ∧ Meets (.gateoff hd) .rp none (put W3 .rp 0 0 0 0) (fun _ _ => True) :=
  by and_intros <;> exact meets (by decide +kernel)

/-! ## States that meet the hypotheses: words, bundles, landings, exceptions -/

theorem wit_encoding : encode (.add hd .a0 .w64) = some 0x00211101 ∧ (Instr.add hd .a0 .w64).wf = true ∧ moveCause false 3 (.add hd .a0 .w64) = none
    ∧ encode (.eret hd) = some 0x00215500 ∧ (Instr.eret hd).wf = true ∧ moveCause false 3 (.eret hd) = some .privilegedPort ∧ touches (.eret hd) = true
    ∧ (Instr.add { hd with src := .li 2 } .a0 .w64).wf = true ∧ moveCause false 2 (.add { hd with src := .li 2 } .a0 .w64) = some .illegalBundle
    ∧ moveCause false 3 (.add { hd with src := .li 2 } .a0 .w64) = none ∧ decodeMove true 0 0x00215500 = .ok (.eret hd)
    ∧ isEvent .bundleIssue = true ∧ encode .bundleIssue = none := by decide +kernel

/-- A tile before its turn, with the bundle `g0 -> a0.a`, with a null bundle of no move, and with an event on the agenda. -/
def R : State := State.reset.withFetchWord 32 0x00201000
def R0 : State := R.onQuad 0 fun q => { q with active := [0, 0] }

theorem wit_StepRunsDecoded : takeAgenda R.tick R.agenda = none ∧ R.due = none ∧ R.turn = [0] ∧ ({ R with turn := [] } : State).hasTurn ({ R with turn := [] } : State).self = true
    ∧ R.inGang = false ∧ R.self.asleep = false ∧ (R.self.bank R.self.run).idle = 0 ∧ R.self.run ≠ 3 ∧ (R.self.bank R.self.run).pc.toNat % 4 = 0
    ∧ headLen (codeWords (R.quadAt 0) R.self 0 0) / 4 ≤ (codeWords (R.quadAt 0) R.self 0 0).length
    ∧ (bundleWords R.self (R.codeTile 0) (headLen (codeWords (R.quadAt 0) R.self 0 0) / 4)).any (R.quadAt 0).badCode.contains = false
    ∧ (decodeBundle false (codeWords (R.quadAt 0) R.self 0 0)).toOption.map (fun b => b.moves) = some [(0, .move (.live { hd with src := .grf 0 } (.opnd .a0 .opA)))]
    ∧ (decodeBundle false (codeWords (R0.quadAt 0) R0.self 0 0)).toOption.map (fun b => b.moves.length) = some 0 ∧ R0.due = none := by decide +kernel

/-- The step of such a tile runs the move: `a0.a` has the value of `g0`. -/
theorem test_step : (match step (R.onSelf fun t => t.onBank 0 fun b => b.setG 0 7) with | .next t => ((t.self.bank 0).sock .a0).a | .fault _ | .refused _ => 0) = 7 := by
  decide +kernel

theorem wit_StepRunsEvents :
    takeAgenda 0 [(5, .bundleIssue, ({} : EvArg)), (0, .scrubRead, ({} : EvArg))] = some ((.scrubRead, ({} : EvArg)), [(5, .bundleIssue, ({} : EvArg))])
    ∧ isEvent .scrubRead = true ∧ takeAgenda State.reset.tick State.reset.agenda = none ∧ State.reset.due = none ∧ State.reset.turn = []
    ∧ (∃ s : State, takeAgenda s.tick s.agenda = none ∧ s.due.isSome = true)
    ∧ (∃ s : State, takeAgenda s.tick s.agenda = none ∧ s.due = none ∧ s.turn = [9] ∧ ({ s with turn := [], cur := 9 } : State).hasTurn ({ s with turn := [], cur := 9 } : State).self = false) :=
  by and_intros <;> first
    | decide +kernel | exact ⟨{ W with tick := 64 }.onSelf fun t => { t with stmr := 64 }, by decide +kernel⟩ | exact ⟨{ State.reset with turn := [9] }, by decide +kernel⟩

theorem w_may : MayIssue W := (fires_of (i := .halt hd) (s := W) (by decide +kernel)).may

theorem wit_GuardAndNull : headOf (.add { hd with guard := { inv := false, sel := 1 } } .a0 .w64) = some ({ hd with guard := { inv := false, sel := 1 } }, none)
    ∧ guardHolds W.atBundle.strand { inv := false, sel := 1 } = false ∧ guardHolds W.atBundle.strand { inv := true, sel := 1 } = true
    ∧ moveCause (W.atBundle.self.run = 3) W.atBundle.self.lis.length (.add { hd with guard := { inv := false, sel := 1 } } .a0 .w64) = none
    ∧ headOf (.eret hd) = some (hd, none) ∧ moveCause (W.atBundle.self.run = 3) W.atBundle.self.lis.length (.eret hd) = some .privilegedPort
    ∧ W.atBundle.self.run ≠ 3 ∧ moveCause true W.atBundle.self.lis.length (.eret hd) = none := by decide +kernel

theorem wit_PlainMoves : Carries (.move (.live hd (.grf 31))) hd (val W) W ∧ Carries (.move (.live hd (.brf 0))) hd (val W) W :=
  ⟨(fires_of (i := .move (.live hd (.grf 31))) (by decide +kernel)).carries, (fires_of (i := .move (.live hd (.brf 0))) (by decide +kernel)).carries⟩

/-- A bundle that reads an empty port of a data-locked socket, a full command queue, an operation that holds the strand. -/
def held1 : DlOp := { id := 0, bank := 0, sock := .sy, a := 0, b := 0, c := 0, origin := 0, seq := 0, asid := 0, born := 0, due := 9, hold := true }
def full (k : Sock) (n : Nat) : State := W.onSelf fun t => { changeMode t k true with queue := (List.range n).map fun i => { held1 with id := i, sock := k, hold := false } }

theorem wit_Stalls : readSrc (full .a0 0).atBundle.self (full .a0 0).atBundle.strand (.resX .a0) = none
    ∧ firesB (.add hd .a0 .w64) (full .a0 8) = true ∧ (full .a0 8).atBundle.self.locked .a0 = true
    ∧ (((full .a0 8).latched hd .a0 (some .opB) (val W)).self).slotFree .a0 false = false
    ∧ (W.onSelf fun t => { t with queue := [held1] }).atBundle.self.held 0 = true
    ∧ (W.onSelf fun t => { t with queue := [held1] }).atBundle.self.canIssue 0 = true := by decide +kernel

/-- A result on its way, one that carries a fault, and two of the same socket that land together. -/
def fl (n : Nat) : Flight := { sock := .fp, res := { x := some 7, s := 3 }, r := n, origin := 0, seq := 0 }
def flT (l : List Flight) : Tile := W.self.onBank 0 fun b => { b with flight := l }
def late1 : Pending := { bank := 0, cause := .dataUncorrectable, kind := .late, origin := 0, seq := 0, since := 0 }

theorem wit_Landings : ((flT [fl 2]).bank 0).flight = [fl 2] ∧ (fl 2).r ≠ 0 ∧ ((flT [fl 0]).bank 0).flight = [fl 0] ∧ (fl 0).r = 0 ∧ (fl 0).late = none
    ∧ ((flT [{ fl 0 with late := some late1 }]).bank 0).flight = [{ fl 0 with late := some late1 }]
    ∧ ((flT [fl 0, fl 0]).bank 0).flight = [fl 0, fl 0] ∧ (fl 0).res.x.isSome = true := by decide +kernel

theorem wit_LayoutsPermute : (0x5FFFF < 0x60000) ∧ (6 ≤ 6 ∧ 0x5FFC0 % 2 ^ 6 = 0 ∧ 63 < 2 ^ 6) := by decide

def mxo (k : MxKind) : MxOp := { bank := 0, locked := false, kind := k, acc := 3, a := 0, b := 0, fmt := 0, origin := 0, seq := 0, occ := 1 }
theorem wit_MatrixEffects : (mxo .mzero).kind = .mzero ∧ (mxo (.mma true)).kind = .mma true ∧ (mxForm true (mxo (.mma true)).nb 0).isSome = true ∧ (2 : BitVec 2) ≠ (mxo .mzero).acc
    ∧ ({} : Acc).rows.getLsbD 15 = true ∧ ({} : Acc).cols.getLsbD 15 = true := by decide +kernel

/-- Causes that are pending together, in bank0 and in bank3. -/
def pend1 (k : BitVec 2) (c : Cause) : Pending := { bank := k, cause := c, kind := .trigger, origin := 8, addr := 4, detail := 2, seq := 1, since := 0 }
def pended (k : BitVec 2) : State := (if k = 3 then W3 else W).onSelf fun t => { t with pend := [pend1 k .debug, pend1 k .misaligned] }

theorem wit_ExceptionEntry :
    firstCause 0 [] = none ∧ firstCause 0 [pend1 0 .debug, pend1 0 .misaligned] = some (pend1 0 .misaligned) ∧ pend1 0 .debug ∈ [pend1 0 .debug]
    ∧ (firstCause 0 (((pended 0).settle 0).tileAt 0).pend).isSome = true ∧ (((pended 0).settle 0).tileAt 0).frozen = false
    ∧ ((((pended 0).settle 0).tileAt 0).bank 0).life = .live ∧ (((pended 0).settle 0).tileAt 0).run ≠ 3
    ∧ (firstCause 3 (((pended 3).settle 0).tileAt 0).pend).isSome = true ∧ (((pended 3).settle 0).tileAt 0).run = 3
    ∧ ((W.settle 0).tileAt 0).takePending W.tick (W.quadAt 0).ganged = none
    ∧ Cause.misaligned ≠ .dataUncorrectable ∧ Cause.misaligned ≠ .datapathCheck := by decide +kernel

/-- The handler of a cause of bank1, with another cause of bank1 pending, and the handler of the entry with cause 0. -/
def handler (c : Dword) (l : List Pending) : State := W3.onSelf fun t => { t with sel := #v[c, 0, 0, 0], pend := l }
theorem wit_ExceptionReturn : (handler 0x401 []).self.run = 3 ∧ ((handler 0x401 []).self.sel[0]).extractLsb' 10 2 = (1 : BitVec 2)
    ∧ ((handler 0x401 []).self.sel[0]).extractLsb' 0 6 ≠ (0 : BitVec 6) ∧ firstCause 1 (handler 0x401 []).self.pend = none
    ∧ firstCause 1 (handler 0x401 [pend1 1 .debug]).self.pend = some (pend1 1 .debug)
    ∧ ((handler 0 []).self.sel[0]).extractLsb' 0 6 = (0 : BitVec 6) ∧ (handler 0 []).self.heldRun = none := by decide +kernel

theorem wit_LeavesAlone : W.atBundle.self.mxq = [] ∧ cellsWf W.self.sram = true ∧ W.inGang = false
    ∧ (∃ t, exec (.add hd .a0 .w64) W = .next t) ∧ (∃ t, exec (.st hd { layout := .lin, natural := true, size := .i32 }) W = .next t) := by
  refine ⟨by decide +kernel, by decide +kernel, by decide +kernel, ?_, ?_⟩
  · cases h : exec (.add hd .a0 .w64) W with
    | next t => exact ⟨t, rfl⟩
    | fault f => exact absurd (show (ran (.add hd .a0 .w64) W).isSome = true by decide +kernel) (by simp [ran, h])
    | refused r => exact absurd (show (ran (.add hd .a0 .w64) W).isSome = true by decide +kernel) (by simp [ran, h])
  · cases h : exec (.st hd { layout := .lin, natural := true, size := .i32 }) W with
    | next t => exact ⟨t, rfl⟩
    | fault f => exact absurd (show (ran (.st hd { layout := .lin, natural := true, size := .i32 }) W).isSome = true by decide +kernel) (by simp [ran, h])
    | refused r => exact absurd (show (ran (.st hd { layout := .lin, natural := true, size := .i32 }) W).isSome = true by decide +kernel) (by simp [ran, h])

theorem wit_memory : cellsWf [(0, 1), (7, 255)] = true ∧ cellsWf ([] : List Host.Cell) = true ∧ cellsWf [(7, 1), (7, 2)] = false ∧ cellsWf [(7, 0)] = false := by decide
theorem wit_MemoryFormKept : State.reset.MemoryForm ∧ ∃ t, step State.reset = .next t :=
  ⟨⟨⟨by decide, by decide, by decide⟩, by decide⟩, by
    cases h : step State.reset with
    | next t => exact ⟨t, rfl⟩
    | fault f => exact absurd (show (match step State.reset with | .next _ => true | .fault _ | .refused _ => false) = true by decide +kernel) (by simp [h])
    | refused r => exact absurd (show (match step State.reset with | .next _ => true | .fault _ | .refused _ => false) = true by decide +kernel) (by simp [h])⟩
/-! ## States that meet the hypotheses: events -/

/-- A module at a stage of bring-up, with an event's arguments. -/
def up (st : Nat) (e : EvArg := {}) : State := { State.reset with boot := { ({} : Boot) with out := decide (2 ≤ st), stage := st }, ev := e }

theorem wit_BootStages : State.reset.boot.out = false ∧ ({ State.reset with boot := { ({} : Boot) with out := true } } : State).boot.stage = 0x01
    ∧ (up 2).boot.port = none ∧ (up 9).boot.stage = 0x09 ∧ (up 9).boot.busy = false ∧ 2 ≤ (up 3).boot.stage
    ∧ (∃ s : State, ¬(s.boot.port = none ∨ s.boot.port = some .p0) ∧ s.ev.port = .p0 ∧ 2 ≤ s.boot.stage)
    ∧ (up 3 { yes := true }).ev.yes = true ∧ ((up 5).keepDies 0x3FFFFF).healthy.length < 23 ∧ 23 ≤ ((up 5).keepDies 0x7FFFFF).healthy.length
    ∧ (up 7 { off := 5 }).ev.off % 4 ≠ 0 ∧ (up 7 { off := 4 }).ev.off % 4 = 0 ∧ (1 : Fin 16) ≠ 0
    ∧ ({ digest := 0, iface := 1, sec := 7, raise := true, owner := 0 } : Jaith).raise = true :=
  by and_intros <;> first | decide +kernel | exact ⟨{ up 9 with boot := { (up 9).boot with port := some .p1 } }, by decide⟩

theorem wit_ReloadTransferReset : (up 9 { yes := true, off := 1 }).ev.off = 1 ∧ ({ up 9 with sch := { ({} : Sched) with standby := true } } : State).sch.standby = true
    ∧ (∃ s : State, s.boot.reloading = true ∧ s.boot.inProgress = 3 ∧ s.ev.cluster = 3 ∧ ∃ q ∈ s.quads, clusterOf q.addr = 3 ∧ q.owner.isSome = true)
    ∧ (∃ s : State, s.boot.reloading = true ∧ s.boot.inProgress = 0 ∧ s.ev.cluster = 0 ∧ ¬∃ q ∈ s.quads, clusterOf q.addr = 0 ∧ q.owner.isSome = true)
    ∧ (up 2 { via := .doe .p1 }).spdmUp = true ∧ cellsWf (up 9).mem = true :=
  ⟨by decide, by decide,
    ⟨{ up 9 { cluster := 3 } with boot := { (up 9).boot with reloading := true, inProgress := 3 }, quads := [{ addr := 3072, owner := some 1 }] }, by decide⟩,
    ⟨{ up 9 with boot := { (up 9).boot with reloading := true, inProgress := 0 } }, by decide⟩, by decide, by decide⟩

/-- A launch queue, a record and a launch. -/
def rcd1 : LRec := { image := 0, tasked := false, prio := 0, pclass := 0, done := false, dep := false, early := false, asid := 1, mask := 0, producer := 0, sem := 0, semVal := 0, shape := 0, limit := 0, args := [] }
def q1 : LQueue := { num := 1, base := 0x10000, depth := 4, maxPrio := 7, weight := 1, device := false, asid := 1, mapped := true, notified := 1 }
def l1 : Launch := { id := 7, queue := 1, index := 0, rcd := rcd1, img := {}, prio := 0 }
/-- A queue table entry for queue 1 at 0x1000: base 0x10000, 16 records, priority 7, weight 1, ASID 1. -/
def tabled : State := (up 9).gWrite 0x1020 (natLe 0x10000 8 ++ [4, 7, 1, 0, 1, 0])
def qs (q : LQueue) (e : EvArg := {}) : State := { up 9 e with sch := { ({} : Sched) with queues := [q] } }

theorem wit_HostEvents :
    barAccepts 0x1002 4 = false ∧ barAccepts 0x8 8 = true ∧ barNamed 0x8 8 = false ∧ barNamed 0x20 8 = true ∧ (barOf 0x20).1.access 0x20 = .rw ∧ (barOf 0x10).1.access 0x10 = .ro
    ∧ (barOf 0x30000).1.access 0 = .wo ∧ (barOf 0x100000).1.early = false ∧ barNamed 0x100000 4 = true ∧ (barOf 0x10000).1 ≠ Bar.power
    ∧ ({ up 9 with capUntil := some 0 } : State).capUntil = some 0
    ∧ reqLegal 4 (.fetchAdd 8 1) = false ∧ reqLegal 8 (.fetchAdd 8 1) = true ∧ (up 2).stagingMapped = true ∧ (up 9).stagingMapped = false ∧ 8 + reqSize (.fetchAdd 8 1) ≤ (up 9).boot.span
    ∧ (up 9).descriptor 1 = none ∧ ({ tabled with sch := { ({} : Sched) with qtbase := 0x1000 } } : State).descriptor 1 = some { q1 with mapped := false, notified := 0 }
    ∧ q1.overlaps { q1 with num := 2 } = true ∧ ({ q1 with base := 0x20000 } : LQueue).overlaps q1 = false ∧ (qs q1).queue? 1 = some q1 ∧ (qs q1).queue? 2 = none
    ∧ (qs { q1 with destroying := true }).dueDestroy = some 1 ∧ oldestIdle [{ q1 with notified := 0 }] = some { q1 with notified := 0 }
    ∧ ({ qs q1 with sch := { ({} : Sched) with launches := [l1] } } : State).launch? 7 = some l1 ∧ l1.result = none ∧ l1.phase ≠ .complete
    ∧ imgField ((qs q1).gRead (q1.base + 128 * (q1.head % q1.size)) 128) 0x78 8 ≠ (q1.head + 1) % 2 ^ 64 := by decide +kernel

/-- A record at index 0 that is marked, with a check field `v`: its first 116 bytes are 0, so that the check holds for one `v` only. -/
def recorded (v : Byte) : State := (qs q1).gWrite (0x10000 + 0x74) [v, 0, 0, 0, 1]
theorem wit_HostEvents_record : ∃ v, imgField ((recorded v).gRead 0x10000 128) 0x78 8 = 1
    ∧ crc32c (((recorded v).gRead 0x10000 128).take 0x74) ≠ BitVec.ofNat 32 (imgField ((recorded v).gRead 0x10000 128) 0x74 4) := by
  have h0 : ((recorded 0).gRead 0x10000 128).take 0x74 = List.replicate 116 0 := by decide +kernel
  have h1 : ((recorded 1).gRead 0x10000 128).take 0x74 = List.replicate 116 0 := by decide +kernel
  have f0 : BitVec.ofNat 32 (imgField ((recorded 0).gRead 0x10000 128) 0x74 4) = 0 := by decide +kernel
  have f1 : BitVec.ofNat 32 (imgField ((recorded 1).gRead 0x10000 128) 0x74 4) = 1 := by decide +kernel
  by_cases hc : crc32c (List.replicate 116 0) = 0
  · exact ⟨1, by decide +kernel, by rw [h1, f1, hc]; decide⟩
  · exact ⟨0, by decide +kernel, by rw [h0, f0]; exact hc⟩

/-- A module with one launch, on tile 0, and one message on the link of leaf 0. -/
def msgd (m : LMsg) (l : Launch := l1) : State :=
  { up 9 with
    sch := { ({} : Sched) with launches := [l], queues := [q1], msgs := [{ cluster := 0, msg := m, launch := 7, due := 0 }] }
    tiles := [{ W.self with launch := some 7 }], quads := [{ W.quadAt 0 with owner := some 7 }] }

theorem wit_LaunchEvents : ((msgd .place).takeMsg .place).isSome = true ∧ (msgd .place).leafCan l1 0 = true ∧ (msgd .place).leafCan { l1 with place := [(0, 0, 0)], img := { cols := 1, rows := 1, dies := 1, map := [0] } } 0 = true
    ∧ ((msgd .nofit).takeMsg .nofit).isSome = true ∧ ((msgd (.placed none)).takeMsg .placed).isSome = true ∧ ((msgd (.halted true)).takeMsg .halted).isSome = true
    ∧ ((msgd (.fault 3 0)).takeMsg .fault).isSome = true ∧ ((msgd (.start 9)).takeMsg .start).isSome = true ∧ ((msgd .preempt { l1 with phase := .preempting }).takeMsg .preempt).isSome = true
    ∧ ((msgd .release).takeMsg .release).isSome = true ∧ (msgd .place).launch? 7 = some l1
    ∧ (msgd .place { l1 with phase := .retired }).dueCompletion = some 7 ∧ l1.slotDone = false ∧ ({ up 9 with sch := { ({} : Sched) with standby := true } } : State).sch.standby = true
    ∧ (msgd .place { l1 with phase := .staged, stage := some { on := 3 } }).tokenMode { l1 with phase := .staged } = false
    ∧ (msgd .place).datumBetween 3 0 1 = false ∧ l1.dies.all ((msgd .place).canSwitch l1 { on := 3 }) = true := by decide +kernel

theorem wit_schedAct : ∃ (s : State) (a : SchedAct), s.schedAct = some a :=
  ⟨qs { q1 with item := some { rcd := rcd1, img := {}, load := some { code := 1 } } }, _, Option.some_get (by decide +kernel : (qs { q1 with item := some { rcd := rcd1, img := {}, load := some { code := 1 } } }).schedAct.isSome = true) |>.symm⟩

theorem wit_stageLaunch :
    ({ msgd .place { l1 with phase := .started } with ev := { queue := 1 } } : State).stageOn q1 { rcd := { rcd1 with dep := true, producer := 7 }, img := {}, load := none }
      = some { l1 with phase := .started } := by decide +kernel

theorem wit_HealthEvents : (23 < 24) ∧ (up 9).sick.getLsbD 23 = false ∧ ({ up 9 with sick := 1 } : State).sick.getLsbD 0 = true
    ∧ logicalRow ((up 9).shiftOf (quadPlace 23 479).1 (quadPlace 23 479).2.2) (quadPlace 23 467).2.1 = some 8 ∧ (quadPlace 23 467).2.1 = 8
    ∧ logicalRow (some 3) 2 = some 2 ∧ logicalRow (some 3) 9 = some 8 ∧ (up 9).holders (columnFrom 0 3 0) = []
    ∧ (msgd .place { l1 with phase := .started }).holders (columnFrom 0 0 0) ≠ [] ∧ ({ up 9 with condemned := [192] } : State).shiftOf 0 0 = none
    ∧ 2 ≤ ({ up 9 with spared := [(0, 2)] } : State).sparesUsed 0 ∧ (up 9).sparesUsed 0 < 2
    ∧ ((msgd .place).tileAtPhys 0 (W.physTile 0)).isSome = true ∧ (W.self.bank 0).life ≠ .halted ∧ (0 % 2 ^ 40 = 0 ∧ ({ up 9 with tick := 2 ^ 40 } : State).halved ≠ 2 ^ 40)
    ∧ ({ msgd .place { l1 with phase := .started, startTick := some 0 } with tiles := [{ (W.self.onBank 0 fun b => { b with life := .halted }) with launch := some 7, banks := (Vector.replicate 4 { life := .halted }) }] } : State).canDrain
        { (W.self.onBank 0 fun b => { b with life := .halted }) with launch := some 7, banks := (Vector.replicate 4 { life := .halted }) } = true := by decide +kernel

/-- An operation of the queue of tile 0, and the tile with it. -/
def op1 : DlOp := { id := 5, bank := 0, sock := .dm, kind := .gst { order := .plain, scope := .die }, wx := false, a := 0, b := 0, c := 0, origin := 0, seq := 0, asid := 0, born := 0, due := 0 }
def opd (o : DlOp) : State := { W.onSelf (fun t => { t with queue := [o] }) with ev := { tile := 0, op := 5, yes := true } }
def mm : MMod := { order := .plain, scope := .die }

theorem wit_TileEvents : (opd op1).op? 0 5 = some op1 ∧ (opd { op1 with st := .performed }).op? 0 5 = some { op1 with st := .performed }
    ∧ ((opd { op1 with sock := .a0, wx := true, res := some {} }).onSelf fun t => changeMode t .a0 true).self.landable 0 { op1 with sock := .a0, wx := true, res := some {} } = true
    ∧ ((W.onSelf fun t => t.onBank 0 fun b => { b with idle := 1 }).self.bank 0).idle = 1 ∧ (W.onSelf fun t => { t with refetch := true }).self.refetch = true
    ∧ W.self.scrubDue ≤ W.tick ∧ (W.onSelf fun t => { t with bad := [0] }).self.scrub ∈ (W.onSelf fun t => { t with bad := [0] }).self.bad
    ∧ wouldIssue (W.onSelf fun t => { t with asleep := true }) = true ∧ (W.onSelf fun t => { t with asleep := true }).self.asleep = true
    ∧ wouldIssue ((State.reset.withFetchWord 32 0x00800420).onSelf fun t => { changeMode t .a0 true with asleep := true }) = false
    ∧ ({ W with tick := 9 }.onSelf fun t => { t with stmr := 9 }).self.stmr ≠ 0 ∧ W.self.frozen = false
    ∧ (opd { op1 with st := .active, walk := 2 }).op? 0 5 = some { op1 with st := .active, walk := 2 }
    ∧ ({ W with faults := [{ id := 3, asid := 1, page := 0, va := 0, access := 0, tile := 0, written := true }] } : State).waitingOn 3 = []
    ∧ ({ W with migs := [{ who := .host, op := 1, dst := 0, step := 3, big := false, oldFrame := 0, newFrame := 1 }] } : State).migs.find? (fun m => m.who = .host) ≠ none
    ∧ regionOf (0 * 2 ^ 16) ≠ .peer 0 ∧ (0 * 2 ^ 16 + 65536 ≤ 1 * 2 ^ 16) ∧ (op1.namesTag 63 = false) := by decide +kernel

theorem wit_UnitEvents : (opd { op1 with sock := .sy, kind := .sig mm }).self.syReady 0 { op1 with sock := .sy, kind := .sig mm } = true
    ∧ ((opd op1).onSelf fun t => { t with queue := [{ op1 with id := 4, sock := .sy, kind := .sig mm }, { op1 with sock := .sy, kind := .sig mm }] }).self.syReady 0 { op1 with sock := .sy, kind := .sig mm } = false
    ∧ (let g : UnitLog := { launch := 7, gate := true, base := 0, z := 1, timeout := 9 }
       ({ up 9 { launch := 7 } with units := [{ die := 0, logs := [g] }] } : State).unit 0 |>.logs.find? fun g => g.launch = 7 ∧ g.active ∧ g.gate ∧ !g.div) = some { launch := 7, gate := true, base := 0, z := 1, timeout := 9 }
    ∧ (let e : EutasOut := { dst := 1, seq := 2, body := .ack, sent := 0 }
       ({ up 9 { dst := 1, seq := 2 } with eutas := { ({} : EutasRegs) with out := [e] } } : State).eutas.out.find? (fun e => e.dst = 1 ∧ e.seq = 2)) = some { dst := 1, seq := 2, body := .ack, sent := 0 }
    ∧ (let a : EutasAsk := { dst := 1, seq := 2, what := .op 0 3 }
       let s : State := { up 9 { src := 1, seq := 4, body := .answer 2 0 0 0 false } with eutas := { ({} : EutasRegs) with asked := [a] } }
       s.ev.src = 1 ∧ (s.ev.src, s.ev.seq) ∉ s.eutas.seen ∧ s.ask? 1 2 = some { dst := 1, seq := 2, what := .op 0 3 } ∧ s.ask? 1 9 = none)
    ∧ (opd { op1 with sock := .sy, kind := .wall mm }).self.waitHolds { op1 with sock := .sy, kind := .wall mm } = true
    ∧ (0b1000 : Dword) &&& 0b1100 ≠ 0 := by decide +kernel

def bell1 : DlOp := { op1 with sock := .sy, kind := .bell 1, wx := false }
def pkt1 : Packet := { id := 1, launch := 7, src := none, dst := 0, zone := 1, off := 0, level := 0, rank := 0, data := [1, 2, 3, 4] }
def part1 : KPart := { child := 1, launch := 7, dom := 0, id := 3, gen := 1, par := { level := 0, op := 0, ty := 0, n := 1, r := 1, fin := false, rankBase := 0, c := 2, dstRank := 0, zone := 0, off := 0 }, depth := 0, idx := 0, val := [0] }
def zone1 : Zone := { isOpen := true, base := 0, size := 64, chunks := [{}] }

theorem wit_ExchangeEvents :
    ((opd { bell1 with st := .waiting, val := 0 }).self.queue.find? fun o => o.bellLevel.isSome && o.st == .waiting && decide (o.val ≤ 0)) = some { bell1 with st := .waiting, val := 0 }
    ∧ (opd bell1).self.ringable 0 bell1 = true ∧ ((opd { bell1 with rung := true }).onSelf fun t => { t with launch := some 7 }).allRung ((opd { bell1 with rung := true }).onSelf fun t => { t with launch := some 7 }).self 1 = true ∧ ((opd bell1).onSelf fun t => { t with launch := some 7 }).allRung ((opd bell1).onSelf fun t => { t with launch := some 7 }).self 1 = false
    ∧ (∃ s : State, (s.tileAt 0).window = some { w := 0, len := 64, tt := 1, ran := true } ∧ 64 ≤ s.tick)
    ∧ (match ({ msgd .place with packets := [pkt1] } : State).tileAt 0 |>.setZone 1 zone1 |>.landPacket 1 0 0 0 pkt1.data with | .accepted _ _ => true | .refused _ => false | _ => false) = true
    ∧ ({ up 9 with kilnAir := [part1], kiln := [{ part1 with idx := 1, child := 2 }] } : State).kiln.find? (fun x => x.sameKey part1 && x.depth == part1.depth && x.idx / 2 == part1.idx / 2) = some { part1 with idx := 1, child := 2 }
    ∧ (up 9).kilnBytes ((up 9).kilnOf part1) + part1.par.resultBytes ≤ 0x8000 :=
  by and_intros <;> first
    | decide +kernel | exact ⟨{ W with tick := 64 }.onSelf fun t => { t with window := some { w := 0, len := 64, tt := 1, ran := true } }, by decide +kernel⟩

theorem wit_TaskEvents : (∃ t : Tile, t.tasks.current = some 5 ∧ t.tasks.raisedCauses ≠ [])
    ∧ (∃ s : State, s.tick = 64 ∧ s.self.tasks.unitTick < 64 ∧ s.self.tasked = true ∧ s.self.frozen = false ∧ (s.self.bank 0).life ≠ .halted)
    ∧ (msgd .place).launchHeld 7 = false ∧ (msgd .place).self.launch = some 7 ∧ (msgd .place).self.haltedAll = false ∧ (up 9).self.launch ≠ some 7
    ∧ ((W.self.tasks).block 31).state = .free ∧ (1700 % 1700 = 0)
    ∧ (W.onSelf fun t => { t with preReq := true }).canPreHalt 0 = true
    ∧ (({ msgd .place { l1 with phase := .preempting } with tiles := [{ (W.self : Tile) with launch := some 7, preHalted := true, frozen := true }], sch := { (msgd .place { l1 with phase := .preempting }).sch with msgs := [] } } : State).canSave { l1 with phase := .preempting } 0) = true :=
  by and_intros <;> first
    | decide +kernel | exact ⟨{ W.self with tasks := { ({} : Tasks) with current := some 5, raisedTimer := true } }, by decide +kernel⟩
    | exact ⟨{ W with tick := 64 }.onSelf fun t => { t with tasked := true }, by decide +kernel⟩

/-! ## States that meet the hypotheses: registers in error, gangs, engines, units, peers -/

/-- GuardAndNull, PlainMoves: the register of a guard, and that of a source, is in error. -/
def hdb : Head := { hd with guard := { inv := false, sel := 1 } }
theorem wit_badReg : (W.onSelf fun t => { t with badRegs := [(0, 2, 1, 0)] }).badReg (guardReg hdb)
    ∧ guardHolds (W.onSelf fun t => { t with badRegs := [(0, 2, 1, 0)] }).atBundle.strand hdb.guard = false
    ∧ W.intact (guardReg hdb) ∧ (W.onSelf fun t => { t with badRegs := [(0, 0, 1, 0)] }).badReg (W.regsOf hd)
    ∧ ¬(W.onSelf fun t => { t with softRegs := [(0, 0, 1, 0)] }).badReg (W.regsOf hd)
    ∧ (W3.onSelf fun t => { t with badRegs := [(2, 1, 31, 0)] }).self.badRegs ≠ [] := by decide +kernel

/-- Gangs: four tiles that wait at their gang bundles, awake, asleep, and one with a trap; a gang whose members may all issue a `split`. -/
def four (f : Tile → Tile) : State := [0, 1, 2, 3].foldl (fun s m => s.onTile m fun t => f { t with role := some 0, gangWait := some 0 }) W
theorem wit_meetGang : (∀ m ∈ (four id).four, ((four id).tileAt m).gangWait = some (four id).tick ∧ ((four id).tileAt m).asleep = false ∧ ((four id).tileAt m).gangTrap = none)
    ∧ (∀ m ∈ (four id).four, ((four fun t => { t with asleep := true, sleepd := 2 }).tileAt m).asleep = true)
    ∧ (((four id).onTile 2 fun t => { t with gangTrap := some { bank := 0, cause := .misaligned, kind := .trigger, origin := 0, seq := 0, since := 0 } }).tileAt 2).gangTrap.isSome = true
    ∧ (∃ m ∈ W.four, (W.tileAt m).gangWait ≠ some W.tick) := by decide +kernel

/-- Tile 0 leads the gang of its quad: all four tiles hold its bundle, `split` from `g1`. -/
def ganged : State := { W with
  tiles := [0, 1, 2, 3].map fun a => { W.self with addr := a, role := some 0, launch := some 7 }
  quads := [{ W.quadAt 0 with ganged := true, owner := some 7 }] }
theorem wit_split : ganged.inGang = true ∧ ∀ m ∈ ganged.four, GangFires (.split hd) hd (val W) ganged m := by
  refine ⟨by decide +kernel, fun m hm => ?_⟩
  have : m = 0 ∨ m = 1 ∨ m = 2 ∨ m = 3 := by simpa [State.four, quadOf, show ganged.cur = 0 from by decide +kernel] using hm
  rcases this with rfl | rfl | rfl | rfl <;> constructor <;> decide +kernel

/-- SyncTriggers: a `tclr`, a `trig` and a fence whose turn it is; a barrier of one participant with none arrived, at phase 0. -/
def syo (k : OpKind) : DlOp := { op1 with sock := .sy, kind := k }
theorem wit_syncOps : ((opd (syo .tclr)).self.queue.find? fun o => o.kind == .tclr && o.st == .queued && (opd (syo .tclr)).self.syReady 0 o) = some (syo .tclr)
    ∧ (opd (syo .trig)).self.dueSync 0 = some (syo .trig) ∧ (opd (syo (.fence mm))).self.dueSync 0 = some (syo (.fence mm)) ∧ 1 ≤ 4096 := by decide +kernel
def barrier1 : State := W.gWrite 0x100 ([1, 0, 0, 0, 1, 0, 0, 0] ++ List.replicate 40 0)
theorem wit_barrier : cellsWf barrier1.mem = true ∧ leNat (barrier1.gRead 0x100 4) = 1 ∧ leNat (barrier1.gRead 0x104 4) = 1 ∧ leNat (barrier1.gRead 0x108 4) + 1 < 2 ^ 32
    ∧ barrier1.setBit? 0x120 0 = false ∧ barrier1.setBit? 0x128 0 = false ∧ barrier1.dwordAt 0x110 = 0
    ∧ (match barrier1.syncOp 0x100 5 0 with | .done _ _ ph _ => ph | .wait => false | .fault _ _ => false) = true
    ∧ (match barrier1.syncOp 0x100 2 0 with | .done _ _ _ _ => true | .wait => false | .fault _ _ => false) = true
    ∧ (match barrier1.syncOp 0x100 7 0 with | .wait => true | .done _ _ _ _ => false | .fault _ _ => false) = true := by decide +kernel

/-- TaskTriggers: an operation at the head of its bank's queue of `tk`, with a task that is selected and one that sleeps. -/
def tko (k : OpKind) (a b : Bus) (task : Option Nat := none) : DlOp := { op1 with sock := .tk, kind := k, a := a, b := b, task := task }
def tasked (o : DlOp) (bl : Block) : State := (opd o).onSelf fun t => { t with tasked := true, tasks := (({} : Tasks).setBlock 5 bl) }
theorem wit_tkTick : (tasked (tko .resume 5 1) { state := .selected }).tkHead 0 = some (tko .resume 5 1)
    ∧ ((tasked (tko .resume 5 1) { state := .selected }).self.tasks.block 5).state = .selected ∧ (tasked (tko .resume 5 1) { state := .selected }).self.resident 1 = none
    ∧ (tasked (tko .wake 5 0) { state := .sleep }).tkHead 0 = some (tko .wake 5 0) ∧ ((tasked (tko .wake 5 0) { state := .sleep }).self.tasks.block 5).state = .sleep
    ∧ (tasked (tko .msgrd 0 0 (some 5)) { state := .running, mail := [(1, 2)] }).tkHead 0 = some (tko .msgrd 0 0 (some 5))
    ∧ (tasked (tko .yield 0 0 (some 5)) { state := .running }).tkHead 0 = some (tko .yield 0 0 (some 5))
    ∧ (tasked (tko .spawn 0 0) {}).tkHead 0 = some (tko .spawn 0 0) := by decide +kernel

/-- HostEvents: a port with a write in the way, a request whose home refuses it, and a queue whose record has been read up to its mark and up to its body. -/
def spare0 : State := { up 9 with sparing := [(0, Config.channelOf 0, 9)] }
theorem wit_HostEvents_order : ({ up 9 with hostQ := [(.registerWrite, {})] } : State).portHeld .p0 = true ∧ (up 9).portHeld .p0 = false
    ∧ spare0.sparedUntil 0 = some 9 ∧ (up 9).windowHint 0 (.read 8) = none
    ∧ (∃ q : LQueue, q.rd = some (4, none) ∧ q.accepted = none) ∧ (∃ q : LQueue, q.rd = some (4, some []) ∧ q.fails = 15)
    ∧ (qs q1).ownLost 0x10000 128 = false ∧ (qs q1).ownBusy 0x10000 128 = none :=
  ⟨by decide +kernel, by decide +kernel, by simp [spare0, State.sparedUntil, regionOf]; decide, by decide +kernel, ⟨{ q1 with rd := some (4, none) }, by decide⟩,
    ⟨{ q1 with rd := some (4, some []), fails := 15 }, by decide⟩, by decide +kernel, by decide +kernel⟩

/-- LaunchEvents: a link with a permit and one whose eight are out; a leaf on whose cluster nothing may be placed. -/
def busyLink : State := { up 9 with sch := { ({} : Sched) with msgs := List.replicate 8 { cluster := 0, msg := .release, launch := 7, due := 1 } } }
theorem wit_permits : (up 9).hasPermit 0 true = true ∧ busyLink.hasPermit 0 true = false ∧ busyLink.hasPermit 0 false = true ∧ busyLink.hasPermit 1 true = true
    ∧ ({ up 9 with draining := [0] } : State).leafCan l1 0 = false := by decide +kernel

/-- UnitEvents: a unit that is free with a request of a tile on HBM; links that change; a peer's read on HBM. -/
def req1 : UnitReq := { src := .tile 0 5 0, launch := none, bank := 0, arrive := 0, pa := 0x100 }
def atUnit : State := { opd (syo (.sig mm)) with units := [{ die := 0, inq := [req1] }], ev := { die := 0 } }
theorem wit_unitTake : (atUnit.unit 0).free ≤ atUnit.tick ∧ (atUnit.unit 0).nextReq 0 = some req1 ∧ atUnit.op? 0 5 = some (syo (.sig mm))
    ∧ atUnit.overtakes 0 (syo (.sig mm)) 0x100 = false ∧ atUnit.watchFull 0 0x100 0 0 = false ∧ (atUnit.unit 0).gated req1 ≠ .diverge
    ∧ atUnit.homeCheck { tile := 0, user := false, asid := 0, acc := .atom } { asid := 0, page := 0, big := false, frame := 0, kind := 0, home := 0, g := false, u := true, r := true, w := true, d := true, rep := false, mig := false } 0x100 8 true = .ok
    ∧ inHbm 0 = true ∧ inHbm (2 ^ 45) = false ∧ (up 9).eutas.links[0]?.isSome = true ∧ (up 9 { off := 1 }).ev.off ≠ 0 := by decide +kernel

/-- ExchangeEvents: a receiver that is away, a tile that has halted for a save, a packet to a peer that is up, a tile at a shared period with a request, a collective whose values never meet. -/
def part2 : KPart := { part1 with child := 2, par := { part1.par with c := 0 } }
theorem wit_ExchangeEvents_more : ({ msgd .place { l1 with phase := .saved } with packets := [pkt1] } : State).absentHint 7 { W.self with launch := none } = some 4096
    ∧ (msgd .place { l1 with phase := .started }).absentHint 7 (msgd .place).self = none
    ∧ ((opd op1).onSelf fun t => { t with preHalted := true }).self.preHalted = true ∧ op1.old = none
    ∧ ({ pkt1 with away := some 1 } : Packet).away = some 1
    ∧ (({ bell1 with kind := .bell 3 } : DlOp).bellLevel = some 3 ∧ 3 ≤ (3 : BitVec 3).toNat) ∧ (W.onSelf fun t => { t with prePeriod := true }).self.prePeriod = true
    ∧ ({ up 9 with kiln := [part2] } : State).kilnStuck part2 = true ∧ ({ up 9 with kiln := [part1] } : State).kilnStuck part1 = false := by decide +kernel

/-- TaskEvents: a cluster whose load is written on the START tick of a launch, and on a multiple of 1,700. -/
theorem wit_loads : (up 9 { yes := true, launch := 7 }).ev.yes = true ∧ (up 9).ev.yes = false ∧ (up 9).tick % 1700 = 0 := by decide +kernel

/-- The units answer: the digest's unit waits never exceed a span that has passed. -/
theorem wit_unitsWait (s : State) (h : s.self.stallFrom = some 0) (ht : s.tick = 600) : unitsWait (some 600) s = false := by
  simp only [unitsWait, h, ht, Option.getD_some, decide_eq_false_iff_not]; omega
theorem wit_unitsWait_free (s : State) (ha : s.self.addr = 0) (h : s.self.stallFrom = some 0) (ht : s.tick = Config.delay 0) : unitsWait none s = false := by
  simp [unitsWait, h, ha, ht]
theorem wit_ReplayOperations_areas : areasOk 0x10000 1 = true ∧ areasOk 0x10001 1 = false ∧ areasOk 0x10000 0 = false ∧ W3.logsOn W3.self.launchId true = false ∧ W3.logsOn W3.self.launchId false = false
    ∧ (W3.startLogs 0 0x10000 1).sameLog 0 0x10000 1 = true ∧ (W3.startLogs 0 0x10000 1).logsOn 0 false = true := by decide +kernel

theorem leNat_zeros (n : Nat) : leNat (List.replicate n (0 : Byte)) = 0 := by
  induction n with
  | zero => rfl
  | succ n ih => simpa [List.replicate_succ, leNat] using ih

theorem zero_entry (n i : Nat) (o : Word) : shadowFrom (List.replicate n 0) o i = .ok none := by
  unfold shadowFrom svField
  rw [if_pos]
  rw [List.drop_replicate, List.take_replicate, leNat_zeros]
  rfl

/-- A capture block of zeros restores a bank; a block with an uncorrectable word is told apart from a sound one. -/
theorem wit_CaptureBlocks_set (b : Strand) : (captureFrom (List.replicate 0x4000 0) b).isSome = true
    ∧ (W3.onSelf fun t => { t with bad := [0] }).self.badWords [0x3FFF, 7] = true ∧ W3.self.badWords [0x3FFF, 7] = false := by
  refine ⟨?_, by decide +kernel, by decide +kernel⟩
  unfold captureFrom
  rw [if_neg]
  · dsimp only
    rw [if_neg]
    · rfl
    · simp only [List.any_map, List.any_eq_true, Function.comp_apply, not_exists, not_and, List.mem_range]
      intro i _
      rw [List.drop_replicate, List.take_replicate, zero_entry]
      exact Bool.false_ne_true
  · simp only [List.any_eq_true, not_exists, not_and, Bool.and_eq_true, bne_iff_ne, ne_eq]
    intro x hx h0
    exact absurd (List.eq_of_mem_replicate (List.fst_mem_of_mem_zipIdx hx)) h0

/-! ## Bundles of several moves -/

/-- The code of tile 0 is `ws`, whose bundle is about to be served; `f` changes the tile. -/
def bundled (ws : List Word) (f : Tile → Tile := id) : State := (R.onQuad 0 fun q => { q with active := ws }).onSelf fun t => f { t with codeLen := 4 * ws.length }

def bundledB (s : State) : Bool := mayB s && decide (s.ev.tile = s.cur ∧ (s.self.bank s.self.run).idle = 0 ∧ s.self.run ≠ 3)

theorem bundle_at {s : State} (h : bundledB s = true) : BundleAt s (s.atBundle.fetch s.cur) :=
  have c := Bool.and_eq_true _ _ ▸ h
  have d := of_decide_eq_true c.2
  { here := d.1, may := may_of c.1, live := d.2.1, code := fun e => absurd e d.2.2, fetched := rfl }

/-- `g0 -> a0.a | g1 -> g2`, `g1 -> a0.add.d | g2 -> a0.a`, `a0.x -> g1 | g1 -> g2` with `a0` data-locked, `g1 -> g2 | g1 -> g2`. -/
def twoMoves : State := bundled [0x03000000, 0x00201000, 0x00210440]
def trigMove : State := bundled [0x03000000, 0x00211101, 0x00221000]
def emptyRead : State := bundled [0x03000000, 0x00800420, 0x00210440] fun t => changeMode t .a0 true
def clashing : State := bundled [0x03000000, 0x00210440, 0x00210440]

/-- The moves, the length and the fault of what a fetch finds. -/
def movesOf : Fetched → List (BitVec 3 × Instr) × Nat
  | .ok acts _ len => (acts.map fun a => (a.1, a.2.1), len)
  | .bad _ _ | .parity => ([], 0)
def faultOf : Fetched → Option (Cause × Option (BitVec 3))
  | .bad c bus => some (c, bus)
  | .ok _ _ _ | .parity => none

theorem wit_bundles : bundledB twoMoves = true ∧ bundledB trigMove = true ∧ bundledB emptyRead = true ∧ bundledB clashing = true
    ∧ movesOf (twoMoves.atBundle.fetch 0) = ([(0, .move (.live { hd with src := .grf 0 } (.opnd .a0 .opA))), (1, .move (.live hd (.grf 2)))], 12)
    ∧ movesOf (trigMove.atBundle.fetch 0) = ([(0, .add hd .a0 .w64), (1, .move (.live { hd with src := .grf 2 } (.opnd .a0 .opA)))], 12)
    ∧ movesOf (emptyRead.atBundle.fetch 0) = ([(0, .move (.live { hd with src := .resX .a0 } (.grf 1))), (1, .move (.live hd (.grf 2)))], 12)
    ∧ faultOf (clashing.atBundle.fetch 0) = some (.portConflict, some 1) := by decide +kernel

/-- The two moves of `twoMoves` read what they name, and so do trigger and operand of `trigMove`; the first move of `emptyRead` finds its port empty. -/
theorem wit_moveReads : MoveReads (twoMoves.reading [] 12) 0 (.move (.live { hd with src := .grf 0 } (.opnd .a0 .opA))) { hd with src := .grf 0 } (some (.opnd .a0 .opA)) (.grf 0) 0
    ∧ MoveReads (twoMoves.reading [] 12) 1 (.move (.live hd (.grf 2))) hd (some (.grf 2)) (.grf 1) 0
    ∧ MoveReads (trigMove.reading [] 12) 0 (.add hd .a0 .w64) hd none (.grf 1) 0
    ∧ readSrc (emptyRead.reading [] 12).self (emptyRead.reading [] 12).strand (.resX .a0) = none :=
  ⟨by constructor <;> decide +kernel, by constructor <;> decide +kernel, by constructor <;> decide +kernel, by decide +kernel⟩

/-- Two moves within the limits of Table 6.2; a second one to the same port is not, nor is a fifth write of general registers. -/
theorem wit_WithinLimits : WithinLimits [.add hd .a0 .w64, .move (.live hd (.opnd .a0 .opA))] ∧ WithinLimits (List.replicate 1 (.move (.live hd (.grf 2))))
    ∧ ¬WithinLimits (List.replicate 1 (.move (.live hd (.grf 2))) ++ [.move (.live hd (.grf 2))])
    ∧ ¬WithinLimits [.add hd .a0 .w64, .sub { hd with src := .grf 3 } .a0 .w64] :=
  ⟨by constructor <;> decide, by constructor <;> decide, fun h => absurd h.ports (by decide), fun h => absurd h.socks (by decide)⟩

/-- Words that are too few, a reserved bit of the header, and words that decode. -/
theorem wit_decodeBundle : busesOf 0x03000000 = [0, 1] ∧ nliOf 0x03000000 = 0 ∧ (0x03000001 : Word).extractLsb' 0 22 ≠ 0
    ∧ decodeMove false 0 0x00211101 = .ok (.add hd .a0 .w64) ∧ decodeMove false 0 0x08005C00 = .error .reservedSocket := by decide +kernel

theorem started {x : Except Stop Issue} (h : x.toBool = true) : ∃ r, x = .ok r := by
  cases x with
  | ok r => exact ⟨r, rfl⟩
  | error e => cases h

/-- PlainMoves: a trigger whose source register is mended, and one whose source register is uncorrectable. -/
theorem wit_mended : ∃ (s u : State) (r : Issue) (x : Except Stop Issue), MayIssue s ∧ ¬s.badReg (s.regsOf hd) ∧ MendedStart (specAdd .a0 .w64) hd (val s) s (.ok r)
    ∧ MayIssue u ∧ u.badReg (u.regsOf hd) ∧ MendedStart (specAdd .a0 .w64) hd (val u) u x ∧ x ≠ .error .stall ∧ x ≠ .error .gangWait := by
  let s : State := W.onSelf fun t => { t with softRegs := [(0, 0, 1, 0)] }
  let u : State := W.onSelf fun t => { t with badRegs := [(0, 0, 1, 0)] }
  have hl : s.atBundle.self.locked .a0 = false ∧ u.atBundle.self.locked .a0 = false := by decide +kernel
  obtain ⟨r, hr⟩ := started (x := (specAdd .a0 .w64).run (s.mendedStarts hd .a0 (some .opB) (val s)) { st := s.mendedLatched hd .a0 (some .opB) (val s) }) (by decide +kernel)
  obtain ⟨q, hq⟩ := started (x := (specAdd .a0 .w64).run (u.mendedStarts hd .a0 (some .opB) (val u)) { st := u.mendedLatched hd .a0 (some .opB) (val u) }) (by decide +kernel)
  refine ⟨s, u, r, .ok q, may_of (by decide +kernel), by decide +kernel, ⟨fun h => ?_, hr⟩, may_of (by decide +kernel), by decide +kernel, ⟨fun h => ?_, hq⟩, nofun, nofun⟩
  · exact absurd (hl.1 ▸ h) (by decide)
  · exact absurd (hl.2 ▸ h) (by decide)

/-- Stalls: an operation of `sv` that has not completed, a full queue of a data-locked `mu`, and a fault of Table 5.7 while the strand is held. -/
theorem wit_Stalls_more : (W3.onSelf fun t => { t with supOp := some { kind := .shcap, a := 0, b := 0, c := 0, bank := 3, born := 0, due := 9 } }).atBundle.self.waits 0 = true
    ∧ firesB (.mul hd .w32) (full .mu 8) = true ∧ (full .mu 8).atBundle.self.locked .mu = true ∧ (((full .mu 8).latched hd .mu (some .opB) (val W)).self).slotFree .mu false = false
    ∧ ((W.onSelf fun t => { t with queue := [held1] }).atBundle.self.takePending 0 false).isNone = true
    ∧ moveCause ((W.onSelf fun t => { t with queue := [held1] }).atBundle.self.run = 3) 3 (.eret hd) = some .privilegedPort := by decide +kernel

/-- MatrixTriggers: a format pair of Table 11.1 whose first ring is not valid, free-running and behind a data-locked operation; a full sequence of a data-locked `mx`. -/
def mxLocked : MxOp := { bank := 0, locked := true, kind := .mzero, acc := 0, a := 0, b := 0, fmt := 0, origin := 0, seq := 0, occ := 9 }
theorem wit_MatrixTriggers_more :
    Meets (.mma hd 0) .mx (some .opB) (put W .mx 0 0 0 1) (fun st s => s.pruned.self.mxq.length < 2 ∧ (st.locked = true → s.pruned.self.mxSlots < 2)
      ∧ ((mxForm false (busBits st.b 15 0) st.fmt).map fun f => ringStop st s.pruned.self (f.claims false (busBits st.b 15 0) st.a)) = some (some 0))
    ∧ Meets (.mzero hd 3) .mx none (put W .mx 0 0 0 0 (fun t => { t with mxq := [mxLocked] })) (fun st s => st.locked = false ∧ s.pruned.self.mxq.length < 2 ∧ (st.locked = true → s.pruned.self.mxSlots < 2) ∧ ∃ o ∈ s.pruned.self.mxq, o.locked = true)
    ∧ Meets (.mzero hd 3) .mx none (put W .mx 0 0 0 0 (fun t => { changeMode t .mx true with mxq := [mxLocked, mxLocked] })) (fun st s => st.locked = true ∧ ¬(s.pruned.self.mxq.length < 2 ∧ (st.locked = true → s.pruned.self.mxSlots < 2))) :=
  by and_intros <;> exact meets (by decide +kernel)

/-- Configuration: a socket that has a mode, and another. -/
theorem wit_modeChange : Sock.a0.noMode = false ∧ Sock.a0.always = false ∧ Sock.a1 ≠ .a0 := by decide

/-- CopyTriggers: a copy whose global address alone is misaligned, one whose local address ends at the end of SRAM, and one beyond. -/
theorem wit_CopyTriggers_ends :
    Meets (.get hd mm) .dm (some .opC) (put W .dm 2 0x100 0 64) (fun st _ => busBits st.a 54 0 % 4 ≠ 0 ∧ busBits st.b 31 0 % 4 = 0)
    ∧ Meets (.put hd mm) .dm (some .opC) (put W .dm 0 0x5FFC0 0 64) (fun st _ => busBits st.b 31 0 + busBits st.c 23 0 = 0x60000)
    ∧ Meets (.put hd mm) .dm (some .opC) (put W .dm 0 0x5FFC4 0 64) (fun st _ => 0x60000 < busBits st.b 31 0 + busBits st.c 23 0) :=
  by and_intros <;> exact meets (by decide +kernel)

/-- SyncTriggers: a result that lands on `sy.x`, and one that has landed and is about to be read. -/
def syDone : DlOp := { op1 with sock := .sy, kind := .swait mm, wx := true, st := .performed, res := some { x := some 3, s := 1 } }
theorem wit_syLanding : syDone.sock = .sy ∧ syDone.old = none ∧ syDone.late = none ∧ syDone.res.isSome = true ∧ syDone.wx = true
    ∧ ((opd { syDone with landed := true }).self.queue.find? fun p => p.bank = (opd syDone).self.run ∧ p.sock = .sy ∧ p.landed) = some { syDone with landed := true }
    ∧ (opd syDone).self.portLocked .sy false = true := by decide +kernel

/-- TaskTriggers: an empty queue, a `tidle` that waits at the head with an operation behind it, tiles in their handler and after the halt of bank0, a bank that is free and one that is not, a `sleep` that its task has asked for. -/
def behind : DlOp := { tko .msgrd 0 0 (some 5) with id := 9 }
def waits_ : State := (opd op1).onSelf fun t => { t with tasked := true, queue := [{ tko .tidle 0 0 with st := .waiting }, behind] }
theorem wit_tkWaits : W.tkHead 0 = none ∧ waits_.tkHead 0 = none ∧ behind ∈ (waits_.tileAt 0).queue ∧ (tko .tidle 0 0).id < behind.id
    ∧ (tasked (tko .tidle 0 0) {}).tkHead 0 = some (tko .tidle 0 0) ∧ (tasked (tko .tidle 0 0) {}).self.tasks.headId = none
    ∧ ((tasked (tko .resume 5 1) { state := .selected }).onSelf fun t => { t with run := 3 }).tkHead 0 = some (tko .resume 5 1)
    ∧ ((tasked (tko .resume 5 1) { state := .selected }).onSelf fun t => t.onBank 0 fun b => { b with life := .halted }).tkHead 0 = some (tko .resume 5 1)
    ∧ (tasked (tko .resume 5 1) { state := .selected }).self.bankFree 0 1 = true
    ∧ ((tasked (tko .resume 5 1) { state := .selected }).onSelf fun t => { t with mxq := [{ mxLocked with bank := 1 }] }).self.bankFree 0 1 = false
    ∧ ((tasked (tko .wake 5 0) { state := .running }).onSelf fun t => { t with tasks := { t.tasks with current := some 5, own := [.sleep] } }).tkHead 0 = some (tko .wake 5 0) := by decide +kernel

/-- ExceptionReturn: a handler, held by the debugger, that runs after the restoration of a tile saved in its handler. -/
theorem wit_heldRun : ∃ x : HeldRun, x.run = 3 ∧ x.debugHeld = true ∧ ((handler 0 []).onSelf fun t => { t with heldRun := some x }).self.heldRun = some x
    ∧ ((handler 0 []).onSelf fun t => { t with heldRun := some x }).self.run = 3 :=
  ⟨{ run := 3, bank3 := {}, sel := #v[0, 0, 0, 0], natAt := none, debugHeld := true, at_ := 0 }, by decide +kernel⟩

/-! ## Events: the boundary values of their clauses -/

/-- BootStages, ReloadTransferReset: a write whose turn it is; a column with its spare free and in use, the row that it has lost; a reload that meets no class other than 0; a standby that is there and one that is not. -/
theorem wit_BootStages_more : (up 3).writes ∧ ¬(up 3 { yes := true }).writes ∧ ¬({ up 9 with hostQ := [(.registerWrite, {})] } : State).writes
    ∧ (up 7).shiftOf 0 0 = none ∧ ({ up 7 with shifts := [(0, 0, 3)] } : State).shiftOf 0 0 = some 3 ∧ logicalRow none 8 = some 8 ∧ logicalRow none 9 = none
    ∧ logicalRow (some 3) 3 = none ∧ logicalRow (some 3) 2 = some 2 ∧ 2 < (([0, 1, 2, 4] : List Nat).filter fun x => x / 4 = 0).length
    ∧ (up 9).sch.standby = false ∧ (up 2 { via := .doe .p1 }).portHeld .p0 = false ∧ (∀ l ∈ (msgd .place).sch.launches, l.rcd.pclass = 0) := by
  unfold State.writes
  decide +kernel

/-- HostEvents: what waits at a port, reads of registers and of a name that is reserved, a fatal stage; a cap that is due, rings that are recent; commands with a reserved field, of operation 0 and of 5; launches that an abort ends and one whose status is written; a notify from a device, one on a misaligned offset, one while the heartbeat is missing; records that are accepted, and out of reach. -/
theorem wit_HostEvents_more : (({ up 9 with hostQ := [(.registerWrite, {})] } : State).hostQ.find? fun x => portOfWrite x.1 x.2 == HostPort.p0) = some (.registerWrite, {})
    ∧ (up 9).hostHint .registerWrite = none ∧ Instr.fqtailWrite ∈ portWrites ∧ (up 9 { req := .write [0] }).ev.req = .write [0] ∧ (up 9 { req := .read 8 }).ev.req = .read 8
    ∧ barAccepts 0x20 8 = true ∧ barNamed 0x20 8 = true ∧ (up 0xF1).boot.stage = 0xF1 ∧ (barOf 0x100000).1.early = false ∧ (barOf 0x20).1.early = true
    ∧ ({ up 9 with tick := 17000000 } : State).allRing = true ∧ ({ up 9 with tick := 17000000 } : State).capAt + 17000000 ≤ 17000000
    ∧ ({ up 9 with capUntil := some 0 } : State).capUntil = some 0
    ∧ bits 0x0100000000010000 55 16 ≠ 0 ∧ bits 0x0100000000000001 55 16 = 0 ∧ bits 0x0000000000000001 63 56 = 0 ∧ 4 < bits 0x0500000000000001 63 56
    ∧ (qs q1).ownBusy ((qs q1).descAt 1) 32 = none ∧ ({ qs q1 with fenced := 1 } : State).ownLost ((qs q1).descAt 1) 32 = true
    ∧ ({ l1 with phase := .started } : Launch).wasLaunched = true ∧ l1.wasLaunched = false ∧ ({ l1 with slotDone := true } : Launch).slotDone = true
    ∧ (msgd .place).launch? l1.id = some l1 ∧ (qs { q1 with faulted := true }).queue? 1 = some { q1 with faulted := true }
    ∧ (qs q1 { off := 4096, path := .aperture, size := 8 }).ev.path = .aperture ∧ q1.device = false ∧ (qs q1 { off := 4100 }).ev.off % 4096 ≠ 0
    ∧ ({ qs q1 with sch := { (qs q1).sch with silent := some 0 } } : State).sch.silent = some 0 ∧ (qs q1).sch.silent = none
    ∧ (∃ q : LQueue, q.accepted = some []) ∧ ({ qs q1 with fenced := 1 } : State).ownLost 0x10000 128 = true ∧ q1.head < q1.notified ∧ q1.mapped = true :=
  by and_intros <;> first | decide +kernel | exact ⟨{ q1 with accepted := some [] }, by decide⟩

/-- LaunchEvents: the status slot of a launch, within reach and not; a semaphore that the scheduler cannot write; a heartbeat that has been missing for 170,000 ticks and for one fewer; a move of a launch that has triggered everywhere, and of one that has not. -/
def moving (tr : List Nat) : Launch := { l1 with place := [(0, 0, 0)], img := { cols := 1, rows := 1, dies := 1, map := [0] }, trig := tr }
theorem wit_LaunchEvents_more : (msgd .place).slotOf l1 = some (0x10000 + 128 * 16) ∧ (msgd .place).ownLost (0x10000 + 128 * 16) 16 = false
    ∧ ({ msgd .place with fenced := 1 } : State).ownLost (0x10000 + 128 * 16) 16 = true ∧ (msgd .place).slotBusy l1 = none ∧ cellsWf (msgd .place).mem = true
    ∧ (match (msgd .place).schedAccess 1 0 8 .wr with | .fault c => decide (c = .translationFault) | .ok _ _ _ _ | .refuse _ => false) = true
    ∧ (match (msgd .place).schedAccess 1 4 8 .wr with | .fault c => decide (c = .misaligned) | .ok _ _ _ _ | .refuse _ => false) = true
    ∧ (0 + 170000 ≤ ({ up 9 with tick := 170000 } : State).tick) ∧ ({ up 9 with tick := 169999 } : State).tick < 0 + 170000
    ∧ (moving []).clusters = [0] ∧ (moving [0]).trig ≠ [] ∧ (∀ c ∈ (moving [0]).clusters, c ∈ (moving [0]).trig) ∧ (∃ c ∈ (moving []).clusters, c ∉ (moving []).trig)
    ∧ (up 9).sch.heldNotes = [] ∧ ((msgd .place).launch? (q1.launchId q1.head)).isNone = true := by decide +kernel

/-- HealthEvents: events that a fence gathers and one that it leaves; the 63rd and the 64th replay, the 15th and the 16th corrected access. -/
theorem wit_HealthEvents_more : (up 9).fenceDue (0, .junctionOvertemp, {}) = true ∧ (up 9).fenceDue (0, .dieFence, {}) = true ∧ (up 9).fenceDue (1, .junctionOvertemp, {}) = false
    ∧ (∀ e ∈ (up 9).agenda, (up 9).fenceDue e = false) ∧ (up 9 { words := 1 }).ev.words = 1
    ∧ ((List.replicate 63 ((0, 1, 0, 0) : Nat × Nat × Nat × Nat)).filter fun r => r.1 == 0 && r.2.1 == 1 && r.2.2.1 == 0 && decide (0 < r.2.2.2 + 2 ^ 24)).length = 63
    ∧ ((List.replicate 62 ((0, 1, 0, 0) : Nat × Nat × Nat × Nat)).filter fun r => r.1 == 0 && r.2.1 == 1 && r.2.2.1 == 0 && decide (0 < r.2.2.2 + 2 ^ 24)).length < 63
    ∧ ((List.replicate 15 ((0, 0, 0) : Nat × Nat × Nat)).filter fun r => r.1 == 0 && r.2.1 == 0 && decide (0 < r.2.2 + 2 ^ 34)).length = 15
    ∧ ((List.replicate 14 ((0, 0, 0) : Nat × Nat × Nat)).filter fun r => r.1 == 0 && r.2.1 == 0 && decide (0 < r.2.2 + 2 ^ 34)).length < 15
    ∧ (msgd .place).self.launch.isSome = true ∧ (up 9).self.launch = none := by decide +kernel

/-- A table for ASID 1 with one leaf for page 0, clean and writable, on frame 4. -/
def paged : State := (((W.gWrite 8 (natLe 0x10001 8)).gWrite 0x10000 (natLe 0x20001 8)).gWrite 0x20000 (natLe 0x30001 8)).gWrite 0x30000 (natLe 0x40027 8)
def leafOf : Walked → Option (Nat × Nat × Bool)
  | .leaf a p b => some (a, p, b)
  | .missing _ | .final | .lost | .busy _ => none
def writer : Who := { tile := 0, user := true, asid := 1, acc := .wr }

/-- TileEvents: a landing before a free-running one that falls due with it; a tile that sleeps and one that rests for a `tidle`; an access that waits on a record; a leaf that a write goes through clean; a page word with a reserved bit; a peer's frame. -/
def twoDue : State := (opd { op1 with sock := .a0, wx := true, st := .performed, res := some { x := some 1 } }).onSelf fun t =>
  (changeMode t .a0 true).onBank 0 fun b => { b with flight := [{ fl 0 with sock := .a0, seq := 4 }] }
def idling (p : Nat) : State := (opd { tko .tidle 0 0 with st := .waiting, prog := p }).onSelf fun t => { t with tasked := true, asleep := decide (p = 1) }
theorem wit_TileEvents_more : twoDue.self.landsFirst 0 ({ op1 with sock := .a0, wx := true, st := .performed, res := some { x := some 1 } }) = true
    ∧ (idling 0).self.stalled < 33 ∧ (idling 0).self.tidleSleeps 0 = true ∧ (idling 1).self.tidleRests = true ∧ (idling 1).self.asleep = true ∧ W.self.tidleRests = false
    ∧ ({ opd { op1 with st := .pending 3 } with faults := [{ id := 3, asid := 1, page := 0, va := 0, access := 0, tile := 0, written := true }] } : State).waitingOn 3 = [(0, { op1 with st := .pending 3 })]
    ∧ leafOf (paged.walk 1 0) = some (0x30000, 0x40027, false) ∧ permCheck writer (entryOf 1 0 0x40027 false) 0x40000 = none ∧ bits 0x40027 9 9 = 0 ∧ cellsWf paged.mem = true
    ∧ bits ((1 : Nat) <<< 39) 47 39 ≠ 0 ∧ bits 0 47 39 = 0 ∧ (∃ (f w : Nat), regionOf (f * 2 ^ 16) = .peer w)
    ∧ ({ opd { op1 with late := some late1 } with tick := 1 } : State).self.queue.length = 1 ∧ (W.onSelf fun t => { t with bad := [0] }).self.scrub ∈ [0] :=
  by and_intros <;> first | decide +kernel | exact ⟨2 ^ 47 / 2 ^ 16, 0, by decide +kernel⟩

/-- UnitEvents: an operation that would overtake an earlier one to its quad word, a full digest buffer, a request of a peer, one of a peer for HBM whose words are good and one for HBM that is lost. -/
def older : DlOp := { syo (.sig mm) with id := 4, st := .active, pa := 0x100 }
theorem wit_unitTake_more : (({ up 9 with tiles := [{ W.self with queue := [older, syo (.sig mm)] }] } : State).overtakes 0 (syo (.sig mm)) 0x100) = true
    ∧ ((opd (syo (.sig mm))).onSelf fun t => { t with queue := [older, syo (.sig mm)], dgbuf := [{ born := 0, sock := 0, opId := 0, idx := 0, pa := 0, data := List.replicate 4096 0 }] }).self.digestFull (syo (.sig mm)) = true
    ∧ atUnit.self.digestFull (syo (.sig mm)) = false ∧ (∃ r : UnitReq, r.src = .peer 2 7)
    ∧ inHbm 0x100 = true ∧ (match (up 9).reqCheck 0 0x100 (.read 8) with | .ok => true | .refuse _ | .fault _ _ => false) = true
    ∧ (match ({ up 9 with fenced := 1 } : State).reqCheck 0 0x100 (.read 8) with | .fault _ _ => true | .refuse _ | .ok => false) = true :=
  by and_intros <;> first | decide +kernel | exact ⟨{ src := .peer 2 7, launch := none, bank := 0, arrive := 0, pa := 0 }, rfl⟩

/-- ExchangeEvents: a window that ends with a fault, one with an uncorrectable word, the bell that ends with it; a timetable of one send and one arrival, its first, middle and last beats; a packet that finds neither mended nor lost words; a launch whose other tile has halted. -/
def tt1 : Timetable := { num := 1, window := 20, sends := [{ off := 0, dc := 1, dr := -1, t := 0, len := 130, addr := 0 }], arrives := [{ off := 12, addr := 0x100 }] }
def beat1 (f l : Bool) : Beat := { at_ := 10, dst := 0, first := f, last := l, data := [(1, true), (2, false)] }
def windowed (f : Option Nat) (b : Bool) : State := { opd { bell1 with st := .active } with tick := 64 }.onSelf fun t => { t with window := some { w := 0, len := 64, tt := 1, ran := true, fault := f, bad := b } }
theorem wit_windows : (windowed (some 3) false).self.window = some { w := 0, len := 64, tt := 1, ran := true, fault := some 3, bad := false }
    ∧ (windowed none true).self.window = some { w := 0, len := 64, tt := 1, ran := true, fault := none, bad := true }
    ∧ ((windowed none false).self.queue.find? fun o => o.bellLevel.isSome && o.st == .active) = some { bell1 with st := .active }
    ∧ (∃ e ∈ tt1.sends, 2 < (e.len + 63) / 64) ∧ (tt1.arrives.find? fun e => e.off = 10 + 2) = some { off := 12, addr := 0x100 } ∧ (∀ e ∈ tt1.arrives, e.off ≠ 11 + 2)
    ∧ (beat1 true false).first = true ∧ (beat1 false true).first = false ∧ W.self.beatUpset = []
    ∧ (W.self.soft = [] ∧ W.self.badWords [0, 1, 2, 3] = false ∧ pkt1.data.length = 4)
    ∧ (∃ s : State, (s.tileAt 0).prePeriod = true ∧ ∀ u ∈ s.tiles, u.launch = (s.tileAt 0).launch → u.prePeriod = true ∨ u.preReq = true)
    ∧ (∃ s : State, ∃ u ∈ s.tiles, u.launch = (s.tileAt 0).launch ∧ u.prePeriod = false ∧ u.preReq = false) ∧ ({ part1 with bad := true } : KPart).soft = false :=
  by and_intros <;> first | decide +kernel | exact ⟨W.onSelf fun t => { t with prePeriod := true }, by decide +kernel⟩ | exact ⟨W, by decide +kernel⟩

/-- TaskEvents: a task that leaves for each cause, with an access pending and without; a `resume` and a `tidle` that wait; ready and sleeping tasks at the boundary of their counts; a save with and without its operation; a load that finds the tile in its handler. -/
def leaving (c : Upcall) (q : List DlOp) : Tile := { W.self with queue := q, tasked := true, tasks := { (({} : Tasks).setBlock 5 { state := .running }) with current := some 5, own := [c] } }
theorem wit_leaveTask : (leaving .yield []).tasks.raisedCauses = [.yield] ∧ (leaving .halt []).tasks.raisedCauses = [.halt] ∧ (leaving .sleep []).tasks.raisedCauses = [.sleep]
    ∧ (leaving .fault []).accessPending 5 = false ∧ (leaving .fault [{ op1 with task := some 5, st := .pending 3 }]).accessPending 5 = true
    ∧ ((leaving .yield [{ tko .resume 5 1 with st := .waiting }]).queue.find? fun o => o.kind == .resume && o.st == .waiting) = some { tko .resume 5 1 with st := .waiting }
    ∧ ((leaving .yield []).tasks.block 5).recorded = [] ∧ (∀ o ∈ (leaving .yield []).queue, o.kind = .tidle → o.st ≠ .waiting) := by decide +kernel
def aged (a : Nat) (d : Option Nat) : Tasks := (({} : Tasks).setBlock 5 { state := .ready, age := a }).setBlock 6 { state := .sleep, deadline := d }
theorem wit_timerUnit : ((aged 4094 none).block 5).state = .ready ∧ ((aged 4094 none).block 5).eprio ≠ 3 ∧ ((aged 4094 none).block 5).age + 1 < 4096 ∧ 4096 ≤ ((aged 4095 none).block 5).age + 1
    ∧ ((aged 0 (some 1)).block 6).deadline = some 1 ∧ ((aged 0 (some 2)).block 6).deadline = some 2 ∧ ((aged 0 none).block 6).state = .sleep := by decide +kernel
def working (w : TkWork) (r : BitVec 2) : State := (opd (tko .resume 6 1)).onSelf fun t => { t with run := r, tasks := { (({} : Tasks).setBlock 5 { state := .saving, kept := .parked }) with work := some w } }
theorem wit_taskWork : (working (.save 5 5 1 0) 0).self.tasks.work = some (.save 5 5 1 0) ∧ ((working (.save 5 5 1 0) 0).self.op? 5).isSome = true ∧ (working (.save 4 5 1 0) 0).self.op? 4 = none
    ∧ ((working (.save 5 5 1 0) 0).self.tasks.block 5).kept = .parked ∧ (6 % 32 ≠ 5 % 32) ∧ (working (.load 5 6 1 0) 3).self.run = 3 ∧ (working (.load 5 6 1 0) 0).self.run ≠ 3
    ∧ (working (.create 5 0) 0).self.tasks.work = some (.create 5 0) := by decide +kernel

/-- A pseudo-channel that is being spared: a scheduler's access to a word of it waits, and so does the read of the unit headers of a gate. -/
def sparedAt (a : Nat) : State := { up 9 with sparing := [(0, Config.channelOf a, 9)] }
theorem wit_spared (a : Nat) (h : a < 2 ^ 36) : (sparedAt a).sparedUntil a = some 9 := by
  have hr : regionOf a = .hbm 0 := by
    unfold regionOf
    rw [if_pos (by omega), Nat.div_eq_of_lt h]
  simp [State.sparedUntil, hr, sparedAt]
  exact (by decide : 0 < 9)
theorem wit_ownBusy : (sparedAt 0x10000).ownBusy 0x10000 8 = some 9 := by
  have h := wit_spared 0x10000 (by decide)
  rw [State.ownBusy, show wordsIn 0x10000 8 = [0x10000] from by decide +kernel]
  simp [h]
theorem wit_headersBusy : (sparedAt 0x10000).headersBusy 0x10000 1 = true := by
  have h := wit_spared 0x10000 (by decide)
  simp only [State.headersBusy, show areasOk 0x10000 1 = true from by decide +kernel, Bool.true_and, List.any_eq_true]
  exact ⟨0, by decide +kernel, by rw [show ({ launch := 0, gate := true, base := 0x10000, z := 1 } : UnitLog).area 0 = 0x10000 from by decide +kernel, h]; rfl⟩

/-- The words of one written bundle. -/
def wordsOfLine (l : String) : Option (List Nat) :=
  match (Pomas.lexLine 80 l.toList).map Pomas.parseLine with
  | some (.ok [.bundle ms]) => (Pomas.bundleWords { equs := [], labels := [] } 1 ms).toOption.map fun ws => ws.map BitVec.toNat
  | _ => none

set_option maxRecDepth 20000 in
/-- Table 5.8, bundle 1 of `addk`. -/
theorem test_pomas_addk : wordsOfLine "g0 -> a0.a | #0x1000 -> a0.add.d // 4,096" = some [0x03400000, 0x00201000, 0x07E01101, 0x1000] := by
  decide +kernel

set_option maxRecDepth 20000 in
/-- Table 5.8, the two further moves. -/
theorem test_pomas_guard_float : wordsOfLine "?!b2 #-1 -> g6 | g3 -> fp.fadd.f32.rz" = some [0x03000000, 0xAFFF04C0, 0x00232105] := by
  decide +kernel

end Sys2Proof.Tests
end

section
/-! PROOF. The step of the module, case by case, and what reset leaves: the statements of the scope family. -/

namespace Sys2Proof.Proofs.Scope

open Sys2Proof.Machine

/-! ## What a step takes -/

/-- A scheduled event whose tick has come goes before all else; an entry that is no event is the model's only fault. -/
theorem step_of_agenda {s : State} {i : Instr} {e : EvArg} {rest : List (Nat × Instr × EvArg)}
    (h : takeAgenda s.tick s.agenda = some ((i, e), rest)) :
    step s = if isEvent i then exec i { s with agenda := rest, ev := e } else .fault .agendaMove := by
  simp only [step, h]

theorem step_of_due {s : State} {i : Instr} {e : EvArg} (ha : takeAgenda s.tick s.agenda = none)
    (hd : s.due = some (i, e)) : step s = exec i { s with ev := e } := by
  simp only [step, ha, hd]

/-- With nothing scheduled and nothing due, the tile in turn is served if it may issue, and passed over if not. -/
theorem step_of_turn {s : State} {a : Nat} {rest : List Nat} (ha : takeAgenda s.tick s.agenda = none)
    (hd : s.due = none) (ht : s.turn = a :: rest) :
    step s = if ({ s with turn := rest, cur := a } : State).hasTurn ({ s with turn := rest, cur := a } : State).self
      then serveTurn { s with turn := rest, cur := a } else .next { s with turn := rest, cur := a } := by
  simp only [step, ha, hd, ht]

theorem step_of_turn_nil {s : State} (ha : takeAgenda s.tick s.agenda = none) (hd : s.due = none) (ht : s.turn = []) :
    step s = .next s.nextTick := by
  simp only [step, ha, hd, ht]

/-- Settles O6, by the four ways in which a step can go. -/
theorem stepRunsEvents : Obligations.StepRunsEvents := by
  refine ⟨fun s i e rest ha hi => ?scheduled, fun s i e ha hd => step_of_due ha hd,
    fun s a rest ha hd ht hturn => ?passed, fun s ha hd ht => step_of_turn_nil ha hd ht⟩
  case scheduled => rw [step_of_agenda ha, if_pos hi]
  case passed => rw [step_of_turn ha hd ht, hturn, if_neg Bool.false_ne_true]

/-! ## The cleared strand and the cleared tile (R84) -/

@[simp] theorem cleared_getG (n : BitVec 5) : ({} : Strand).getG n = 0 := by simp [Strand.getG]

@[simp] theorem cleared_getV (n : BitVec 5) : ({} : Strand).getV n = 0 := by simp [Strand.getV]

theorem cleared_getB {n : BitVec 3} (hn : n ≠ 0) : ({} : Strand).getB n = false := by simpa [Strand.getB] using hn

@[simp] theorem cleared_sock (j : Sock) : ({} : Strand).sock j = {} := by simp [Strand.sock]

@[simp] theorem cleared_bank (a : Nat) (k : BitVec 2) : ({ addr := a } : Tile).bank k = {} := by simp [Tile.bank]

@[simp] theorem cleared_ring (a : Nat) (r : BitVec 3) : ({ addr := a } : Tile).ring r = {} := by simp [Tile.ring]

theorem cleared_zone (a : Nat) (z : Fin 16) : ({ addr := a } : Tile).zones[z] = {} := by simp

theorem cleared_acc (a : Nat) (i : Fin 4) : ({ addr := a } : Tile).acc[i] = {} := by simp

theorem cleared_acc_entry (e : Fin 256) : ({} : Acc).e[e] = 0 := by simp

/-! ## Reset -/

/-- Reset lists no tile, so every address holds the cleared tile. -/
@[simp] theorem reset_tileAt (a : Nat) : State.reset.tileAt a = { addr := a } := rfl

theorem reset_cxl_down (k : Fin 8) : State.reset.cxl[k].up = false := by simp [State.reset]

/-- Settles O60: the registers of the module by the values that reset names, a tile and its strands by those of the cleared tile. -/
theorem resetState : Obligations.ResetState := by
  refine ⟨?module, reset_tileAt, ?strands, ?tile⟩
  case module =>
    rintro s rfl
    exact ⟨rfl, rfl, rfl, rfl, rfl, rfl, rfl, rfl, rfl, rfl, rfl, rfl, rfl, rfl, rfl, rfl, rfl, rfl, rfl, rfl,
      reset_cxl_down, rfl, rfl, rfl, rfl⟩
  case strands =>
    rintro t a k rfl
    rw [cleared_bank]
    exact ⟨cleared_getG, cleared_getV, fun _ => cleared_getB, Laws.getB_zero _, rfl, rfl, rfl, rfl, rfl, rfl, cleared_sock⟩
  case tile =>
    rintro t a rfl
    refine ⟨rfl, rfl, rfl, rfl, rfl, rfl, rfl, rfl, rfl, fun r => ?_, fun z => ?_, rfl, rfl, rfl, fun i => ?_⟩
    · rw [cleared_ring]
    · rw [cleared_zone]
    · rw [cleared_acc]
      exact ⟨rfl, rfl, cleared_acc_entry⟩

end Sys2Proof.Proofs.Scope
end

section
/-! PROOF. Bring-up, reload, transfer of ownership, measurement and reset: the events of the trust family. -/

namespace Sys2Proof.Proofs.BringUp

open Sys2Proof.Machine

/-! ## Error records (R440) -/

/-- A record that finds the queue full is dropped and counted, and the count stays at its greatest value. -/
theorem record_of_full {s : State} (h : 4096 ≤ s.err.head - s.err.tail) (cls : Nat) (c : Cause) (unit who addr : Nat) (l : Dword) :
    s.record cls c unit who addr l = { s with err := { s.err with drop := min (s.err.drop + 1) (2 ^ 32 - 1) } } := if_pos h

theorem fatal_drop_of_full {s : State} (h : 4096 ≤ s.err.head - s.err.tail) (k : Nat) :
    (s.fatal k).err.drop = min (s.err.drop + 1) (2 ^ 32 - 1) := by
  unfold State.fatal
  rw [record_of_full (by exact h)]

/-- Refutes O51: the count of dropped records saturates at 2^32 - 1, so in a state that holds a count above that a fatal boot that finds the error queue full lowers it, where the statement has it never fall. -/
theorem not_bootStages : ¬ Obligations.BootStages := by
  rintro ⟨-, -, -, -, -, hfatal, -⟩
  let s : State := { State.reset with err := { head := 4096, drop := 2 ^ 32 } }
  have hfull : 4096 ≤ s.err.head - s.err.tail := by decide
  obtain ⟨-, -, -, hdrop⟩ := hfatal s 1
  have hle : 2 ^ 32 ≤ min (2 ^ 32 + 1) (2 ^ 32 - 1) := fatal_drop_of_full hfull 1 ▸ hdrop hfull
  omega

/-! ## The writes of the host, in their order (R372) -/

/-- A write that its port does not hold back and no home refuses is performed. -/
theorem inOrder_of_free {s : State} {i : Instr} (hp : s.portHeld (portOfWrite i s.ev) = false) (hh : s.hostHint i = none) :
    s.inOrder i = s.hostPerform i := by
  simp only [State.inOrder, hp, hh, Bool.false_eq_true, if_false]

/-- A write behind earlier ones of its port waits. -/
theorem inOrder_of_held {s : State} {i : Instr} (hp : s.portHeld (portOfWrite i s.ev) = true) : s.inOrder i = s.behind i := by
  simp only [State.inOrder, hp, if_true]

/-! ## Reload (R23 to R25) -/

theorem ready_of_stage {s : State} (h : s.boot.stage = 0x09) : s.ready = true := by simp [State.ready, h]

theorem not_ready_of_stage {s : State} (h : s.boot.stage ≠ 0x09) : s.ready = false := by simp [State.ready, h]

/-- Of the state a claim can change the owner slot alone. -/
theorem claim_eq (s : State) (r : Nat) : ∃ o, s.claim r = { s with boot := { s.boot with owner := o } } := by
  unfold State.claim
  split
  · exact ⟨_, rfl⟩
  · exact ⟨s.boot.owner, rfl⟩

theorem raiseFloor_image (b : Boot) : b.raiseFloor.image = b.image := by
  unfold Boot.raiseFloor
  split
  · split <;> rfl
  · rfl

theorem notify_standby (s : State) (n w : Nat) (device good : Bool) :
    (s.notify n w device good).sch.standby = s.sch.standby := by
  unfold State.notify
  split
  · rfl
  · split
    · rfl
    · dsimp only
      split <;> rfl

/-- The core that was active is no standby after a takeover. -/
theorem takeover_standby (s : State) : s.takeover.sch.standby = false :=
  List.foldlRecOn (motive := fun t : State => t.sch.standby = false) _ _ rfl fun t h _ _ => (notify_standby t _ _ _ _).trans h

theorem exec_fwcmdReload_unit {s : State} (hy : s.ev.yes = true) (h9 : s.boot.stage = 0x09) (hb : s.boot.busy = true) :
    exec .fwcmdReload s = .next (s.reloadStep s.ev.off) := by
  simp only [exec, execFwcmdReload, hy, ready_of_stage h9, hb, and_self, if_true]

/-- The verification of a reload: it fails with its reason, or the staged image is the next one. -/
theorem reloadStep_verify (s : State) :
    if s.verify true = 0 then (s.reloadStep 0).boot.next = some s.stagedJaith
        ∧ (s.reloadStep 0).agenda = s.agenda ++ [(s.tick + 1 + Config.delay s.free, .fwcmdReload, { yes := true, off := 1 })]
      else (s.reloadStep 0).boot.stage = 0xF0 ∧ (s.reloadStep 0).boot.reason = s.verify true := by
  obtain ⟨o, ho⟩ := claim_eq s (s.verify true)
  split
  · next h => simp only [State.reloadStep, h, ne_eq, not_true_eq_false, if_false] at ho ⊢; rw [ho]; exact ⟨rfl, rfl⟩
  · next h => simp only [State.reloadStep, h, ne_eq, not_false_eq_true, if_true]; exact ⟨rfl, rfl⟩

/-- The launches of a cluster that may be pre-empted; there is none where every one of the cluster is of class 0. -/
theorem no_preemptible_in {s : State} {c : Nat} (h : ∀ l ∈ s.sch.launches, c ∈ l.clusters → l.rcd.pclass = 0) :
    (s.sch.launches.filter fun l => l.clusters.contains c ∧ l.rcd.pclass ≠ 0) = [] := by
  simpa [List.filter_eq_nil_iff] using h

/-- Is a quad of the cluster held by a launch? -/
theorem any_held_iff (s : State) (c : Nat) :
    (s.quads.any fun q => clusterOf q.addr = c ∧ q.owner.isSome) = true ↔ ∃ q ∈ s.quads, clusterOf q.addr = c ∧ q.owner.isSome = true := by
  simp [List.any_eq_true]

/-- Holding a cluster adds it to those that are held; of the rest of the boot state nothing changes. -/
theorem holdCluster_boot (s : State) (c : Nat) :
    (s.holdCluster c).boot = { s.boot with held := if s.boot.held.contains c then s.boot.held else c :: s.boot.held } :=
  (apply_ite State.boot _ _ _).trans (ite_self _)

theorem holdCluster_mem (s : State) (c : Nat) : c ∈ (s.holdCluster c).boot.held := by
  rw [holdCluster_boot]
  dsimp only
  split
  · next h => simpa using h
  · exact List.mem_cons_self ..

/-! ## Ownership transfer (R20, R28) -/

/-- Dword 15 is written by setting it. -/
theorem mapIdx_last_eq_set (x : Vector Dword 16) (v : Dword) : (x.mapIdx fun i y => if i = 15 then v else y) = x.set 15 v := by
  ext i hi
  simp [Vector.getElem_set, eq_comm]

theorem hostPerform_transfer {s : State} (h2 : 2 ≤ s.boot.stage) :
    s.hostPerform .transferCommand = ({ s with boot := { s.boot with xfer := s.boot.xfer.set 15 s.ev.val } } : State).submitTransfer := by
  simp only [State.hostPerform, State.transferEvent, h2, if_true, State.xferWrite, mapIdx_last_eq_set]

/-! ## Memory after a reset -/

/-- A part of a memory that is chosen by addresses holds its bytes, and no other. -/
theorem cellsRead_filter_addr (p : Nat → Bool) (a : Nat) :
    ∀ m : List Host.Cell, cellsRead (m.filter fun c => p c.1) a = if p a then cellsRead m a else 0
  | [] => by simp [cellsRead]
  | (b, v) :: r => by
    have ih := cellsRead_filter_addr p a r
    by_cases hb : a = b
    · subst hb
      cases hp : p a <;> simp_all [cellsRead]
    · cases hp : p b <;> simp_all [cellsRead]

/-- Settles O52: the unit of a reload by its number, a cluster by whether a launch holds a quad of it, a transfer command by its port, and a reset by the part of memory that the host keeps. -/
theorem reloadTransferReset : Obligations.ReloadTransferReset := by
  refine ⟨fun s hy h9 hb => ?reload, fun s c hc hr hp => ⟨fun hheld hcls => ?wait, fun hfree => ?load⟩, fun s h2 hp => ?transfer, fun s hup => ?spdm, fun s => ?reset⟩
  case reload =>
    have hunit := exec_fwcmdReload_unit hy h9 hb
    refine ⟨fun h => ?_, fun h => ?_, fun h hs => ?_, fun h hs => ?_, fun h => ?_, fun h => ?_, fun h => ?_⟩
    · exact ⟨_, h ▸ hunit, reloadStep_verify s⟩
    · refine ⟨_, h ▸ hunit, ?_⟩
      split
      · next hv => simp only [State.reloadStep, hv, ne_eq, not_true_eq_false, if_false]; exact ⟨rfl, rfl, rfl, rfl⟩
      · next hv => exact if_pos hv
    · refine ⟨_, h ▸ hunit, ?_⟩
      simp only [State.reloadStep, hs, if_true]
      exact ⟨rfl, takeover_standby s⟩
    · rw [hunit, h]
      simp only [State.reloadStep, hs, Bool.false_eq_true, if_false]
    · rw [hunit, h]; rfl
    · exact ⟨_, h ▸ hunit, rfl⟩
    · obtain ⟨k, hk⟩ : ∃ k, s.ev.off = k + 5 := ⟨s.ev.off - 5, by omega⟩
      exact ⟨_, hk ▸ hunit, raiseFloor_image _, rfl, rfl, rfl⟩
  case wait =>
    have hany := (any_held_iff s c).mpr hheld
    simp only [exec, execClusterReload, hc, hr, hp, hany, no_preemptible_in hcls, List.foldl_nil, Bool.not_true, ne_eq,
      not_true_eq_false, Bool.false_eq_true, or_self, if_true, if_false]
  case load =>
    have hany := mt (any_held_iff s c).mp hfree
    simp only [exec, execClusterReload, hc, hr, hp, hany, Bool.not_true, ne_eq, not_true_eq_false, Bool.false_eq_true, or_self, if_false]
    split
    · exact ⟨_, rfl, rfl⟩
    · refine ⟨_, rfl, holdCluster_mem _ c, ?_⟩
      rw [holdCluster_boot]
      exact ⟨rfl, rfl, rfl⟩
  case transfer =>
    have hexec : exec .transferCommand s = .next _ :=
      congrArg Host.Outcome.next ((inOrder_of_free hp rfl).trans (hostPerform_transfer h2))
    exact ⟨_, _, hexec, rfl, rfl, rfl, rfl, rfl⟩
  case spdm =>
    have hanswer : ∀ name bs, s.spdmAnswer name bs = { s with outbox := s.outbox ++ [.spdm name bs s.free], free := s.free + 1 } :=
      fun _ _ => if_pos hup
    exact ⟨congrArg _ (hanswer ..), congrArg _ (hanswer ..), congrArg _ (hanswer ..), congrArg _ (hanswer ..), congrArg _ (hanswer ..),
      congrArg _ (hanswer ..), congrArg _ (hanswer ..)⟩
  case reset =>
    refine ⟨_, rfl, rfl, rfl, rfl, rfl, rfl, rfl, rfl, rfl, rfl, rfl, rfl, rfl, fun a _ => ?_⟩
    refine (cellsRead_filter_addr (fun a => match regionOf a with | .host => true | _ => false) a s.mem).trans ?_
    cases regionOf a <;> rfl

end Sys2Proof.Proofs.BringUp
end

section
/-! PROOF. The health of the module: fences, condemned quads, links, spares, the debugger. -/

namespace Sys2Proof.Proofs.Health

open Sys2Proof.Machine

/-! ## What a record and a pre-emption can change -/

theorem record_eq (s : State) (cls : Nat) (c : Cause) (unit who addr : Nat) (l : Dword) :
    ∃ m e o, s.record cls c unit who addr l = { s with mem := m, err := e, outbox := o } := by
  unfold State.record
  split
  · exact ⟨s.mem, _, s.outbox, rfl⟩
  · exact ⟨_, _, _, rfl⟩

theorem sendAll_eq (s : State) (cs : List Nat) (l : Dword) (m : LMsg) :
    ∃ c f, s.sendAll cs l m = { s with sch := c, free := f } :=
  List.foldlRecOn (motive := fun t : State => ∃ c f, t = { s with sch := c, free := f }) cs _ ⟨s.sch, s.free, rfl⟩
    fun _ ⟨_, _, h⟩ _ _ => h ▸ ⟨_, _, rfl⟩

theorem dropStaged_eq (s : State) (id : Dword) : ∃ c q, s.dropStaged id = { s with sch := c, quads := q } := by
  unfold State.dropStaged
  split
  · exact ⟨s.sch, s.quads, rfl⟩
  · exact ⟨_, _, rfl⟩

theorem preemptLaunch_eq (s : State) (id : Dword) (same : Bool) :
    ∃ c q f, s.preemptLaunch id same = { s with sch := c, quads := q, free := f } := by
  unfold State.preemptLaunch
  split
  · exact ⟨s.sch, s.quads, s.free, rfl⟩
  · next l _ =>
    split
    · exact ⟨s.sch, s.quads, s.free, rfl⟩
    · split
      · next d _ =>
        obtain ⟨c, q, h⟩ := dropStaged_eq s d.id
        rw [h]
        obtain ⟨c', f, h'⟩ := sendAll_eq (State.putLaunch { s with sch := c, quads := q } { l with phase := .preempting, samePlace := same, savedBy := [], sSaved := [] })
          (State.leavesOf { s with sch := c, quads := q } l) id .preempt
        exact ⟨c', q, f, h'⟩
      · obtain ⟨c, f, h⟩ := sendAll_eq (s.putLaunch { l with phase := .preempting, samePlace := same, savedBy := [], sSaved := [] })
          (s.leavesOf l) id .preempt
        exact ⟨c, s.quads, f, h⟩

theorem clearColumn_eq (s : State) (qs : List Nat) : ∃ c q f, s.clearColumn qs = { s with sch := c, quads := q, free := f } := by
  refine List.foldlRecOn (motive := fun t : State => ∃ c q f, t = { s with sch := c, quads := q, free := f }) _ _
    ⟨s.sch, s.quads, s.free, rfl⟩ ?_
  rintro t ⟨c, q, f, rfl⟩ l _
  split
  · exact ⟨_, _, _, rfl⟩
  · split
    · exact ⟨_, _, _, rfl⟩
    · obtain ⟨c', q', f', h⟩ := preemptLaunch_eq { s with sch := c, quads := q, free := f } l.id true
      exact ⟨c', q', f', h⟩

/-- Replacing a queue and writing its header touches the scheduler and memory. -/
theorem updQueue_eq (s : State) (q : LQueue) : ∃ c m b, s.updQueue q = { s with sch := c, mem := m, badMem := b } := ⟨_, _, _, rfl⟩

/-! ## What happens at tiles and on links -/

/-- From one state to the other only tiles, traffic and counts have changed: the scheduler, the quads and the dies in service are the same. -/
structure TilesOnly (s t : State) : Prop where
  sch : t.sch = s.sch
  sick : t.sick = s.sick
  fenced : t.fenced = s.fenced
  quads : t.quads = s.quads

theorem TilesOnly.rfl {s : State} : TilesOnly s s := ⟨.refl _, .refl _, .refl _, .refl _⟩

theorem TilesOnly.trans {s t u : State} (h : TilesOnly s t) (k : TilesOnly t u) : TilesOnly s u :=
  ⟨k.sch.trans h.sch, k.sick.trans h.sick, k.fenced.trans h.fenced, k.quads.trans h.quads⟩

theorem TilesOnly.of {s t u : State} (k : TilesOnly t u) (sch : t.sch = s.sch) (sick : t.sick = s.sick) (fenced : t.fenced = s.fenced)
    (quads : t.quads = s.quads) : TilesOnly s u := .trans ⟨sch, sick, fenced, quads⟩ k

theorem TilesOnly.foldl {α : Type} {f : State → α → State} (h : ∀ s x, TilesOnly s (f s x)) (l : List α) (s : State) :
    TilesOnly s (l.foldl f s) :=
  List.foldlRecOn (motive := TilesOnly s) l f .rfl fun t ht x _ => ht.trans (h t x)

theorem tilesOnly_record (s : State) (cls : Nat) (c : Cause) (unit who addr : Nat) (l : Dword) :
    TilesOnly s (s.record cls c unit who addr l) := by
  obtain ⟨m, e, o, h⟩ := record_eq s cls c unit who addr l
  rw [h]
  exact ⟨rfl, rfl, rfl, rfl⟩

theorem tilesOnly_noteCause (s : State) (a : Nat) (p : Pending) : TilesOnly s (s.noteCause a p) := by
  unfold State.noteCause
  split
  · refine .trans ?_ (tilesOnly_record ..)
    split <;> exact ⟨rfl, rfl, rfl, rfl⟩
  · exact TilesOnly.of (tilesOnly_record ..) rfl rfl rfl rfl
  all_goals exact .rfl

theorem tilesOnly_lateCause (s : State) (a : Nat) (p : Pending) : TilesOnly s (s.lateCause a p) := by
  refine (tilesOnly_noteCause s a p).trans ?_
  unfold State.lateCause State.bringCause
  split
  · exact ⟨rfl, rfl, rfl, rfl⟩
  · exact tilesOnly_record ..

theorem tilesOnly_engineFault (s : State) (a : Nat) (o : DlOp) (c : Cause) (addr detail : Nat) :
    TilesOnly s (s.engineFault a o c addr detail) := by
  unfold State.engineFault
  dsimp only
  split
  · exact TilesOnly.of ((tilesOnly_noteCause ..).trans (tilesOnly_record ..)) rfl rfl rfl rfl
  · exact TilesOnly.of (tilesOnly_lateCause ..) rfl rfl rfl rfl

theorem tilesOnly_packetDone (s : State) (p : Packet) : TilesOnly s (s.packetDone p) := by
  unfold State.packetDone
  dsimp only
  split <;> exact ⟨rfl, rfl, rfl, rfl⟩

theorem tilesOnly_discardPacket (s : State) (p : Packet) : TilesOnly s (s.discardPacket p) :=
  (tilesOnly_packetDone s p).trans ⟨rfl, rfl, rfl, rfl⟩

theorem tilesOnly_packetRefused (s : State) (p : Packet) (h : Nat) : TilesOnly s (s.packetRefused p h) := by
  unfold State.packetRefused
  dsimp only
  split
  · exact ⟨rfl, rfl, rfl, rfl⟩
  · split
    · split <;> exact ⟨rfl, rfl, rfl, rfl⟩
    · exact ⟨rfl, rfl, rfl, rfl⟩

theorem tilesOnly_zoneRead (s : State) (a n : Nat) (read : List Nat) : TilesOnly s (s.zoneRead a n read) := by
  have hc : TilesOnly s (s.correct a read) := by
    unfold State.correct
    dsimp only
    split
    · exact .rfl
    · exact ⟨rfl, rfl, rfl, rfl⟩
  unfold State.zoneRead
  dsimp only
  split
  · exact hc.trans (tilesOnly_lateCause ..)
  · exact hc

theorem tilesOnly_zoneOverflow (s : State) (a n : Nat) : TilesOnly s (s.zoneOverflow a n) :=
  TilesOnly.of (tilesOnly_lateCause ..) rfl rfl rfl rfl

theorem tilesOnly_packetLands (p : Packet) (s : State) : TilesOnly s (s.packetLands p) := by
  unfold State.packetLands
  dsimp only
  split
  · exact tilesOnly_packetRefused ..
  split
  · exact tilesOnly_discardPacket ..
  split
  · exact tilesOnly_packetRefused ..
  split
  · split
    · exact tilesOnly_discardPacket ..
    · exact tilesOnly_packetRefused ..
  split
  · exact (tilesOnly_zoneRead ..).trans (TilesOnly.of (tilesOnly_packetDone ..) rfl rfl rfl rfl)
  · exact tilesOnly_packetRefused ..
  · exact (tilesOnly_zoneOverflow ..).trans (tilesOnly_packetDone ..)

theorem tilesOnly_asPrev {f : State → State} (hf : ∀ s, TilesOnly s (f s)) (s : State) (a : Nat) (l : Dword) :
    TilesOnly s (s.asPrev a l f) := by
  unfold State.asPrev
  dsimp only
  split
  · exact hf s
  · next v older _ =>
    have h := hf (s.setTile ((s.tileAt a).asLeft v older))
    exact ⟨h.sch, h.sick, h.fenced, h.quads⟩

theorem tilesOnly_endPackets (s : State) (id : Dword) : TilesOnly s (s.endPackets id) := by
  refine .trans (TilesOnly.foldl (fun t p => ?_) _ s) ⟨rfl, rfl, rfl, rfl⟩
  split
  · exact tilesOnly_asPrev (tilesOnly_packetLands p) ..
  · split
    · exact tilesOnly_packetDone ..
    · exact .rfl

/-- The halt of a launch: what happens at tiles and on links, then the end of the launch, if it has not completed. -/
theorem haltLaunch_cases (s : State) (id : Dword) : ∃ t, TilesOnly s t ∧
    ((s.haltLaunch id = t ∧ ∀ l, s.launch? id = some l → l.phase = .complete)
      ∨ ∃ l, s.launch? id = some l ∧ l.phase ≠ .complete ∧ s.haltLaunch id = t.putLaunch { l with phase := .ending, stage := none }) := by
  have h := tilesOnly_endPackets s id
  unfold State.haltLaunch
  dsimp only
  generalize ht : State.dropAsks _ = t
  have hts : TilesOnly s t := ht ▸ ⟨h.sch, h.sick, h.fenced, h.quads⟩
  have hl : t.launch? id = s.launch? id := by simp only [State.launch?, hts.sch]
  refine ⟨t, hts, ?_⟩
  rw [← hl]
  split
  · next l hsome =>
    split
    · next hc => exact .inl ⟨rfl, fun l' h' => Option.some.inj (hsome.symm.trans h') ▸ hc⟩
    all_goals next hc => exact .inr ⟨l, hsome, by simp [hc], rfl⟩
  · next hnone => exact .inl ⟨rfl, fun l h' => by simp [hnone] at h'⟩

/-! ## Fenced dies (R91, R92) -/

/-- No launch holds a quad of the die, and none of them is in a gang. -/
def Freed (d : Nat) (s : State) : Prop := ∀ q ∈ s.quads, dieOf q.addr = d → q.owner = none ∧ q.ganged = false

/-- From one state to the other no die is fenced, and no quad of a freed die is taken. -/
structure KeepsDies (s t : State) : Prop where
  sick : t.sick = s.sick
  fenced : t.fenced = s.fenced
  freed : ∀ d, Freed d s → Freed d t

theorem KeepsDies.rfl {s : State} : KeepsDies s s := ⟨.refl _, .refl _, fun _ => id⟩

theorem KeepsDies.trans {s t u : State} (h : KeepsDies s t) (k : KeepsDies t u) : KeepsDies s u :=
  ⟨k.sick.trans h.sick, k.fenced.trans h.fenced, fun d hd => k.freed d (h.freed d hd)⟩

theorem KeepsDies.of_quads {s t : State} (sick : t.sick = s.sick) (fenced : t.fenced = s.fenced) (quads : t.quads = s.quads) :
    KeepsDies s t := ⟨sick, fenced, fun d h => by unfold Freed; rw [quads]; exact h⟩

theorem TilesOnly.keepsDies {s t : State} (h : TilesOnly s t) : KeepsDies s t := .of_quads h.sick h.fenced h.quads

theorem KeepsDies.of {s t u : State} (k : KeepsDies t u) (sick : t.sick = s.sick) (fenced : t.fenced = s.fenced)
    (quads : t.quads = s.quads) : KeepsDies s u := (of_quads sick fenced quads).trans k

theorem KeepsDies.foldl {α : Type} {f : State → α → State} (h : ∀ s x, KeepsDies s (f s x)) (l : List α) (s : State) :
    KeepsDies s (l.foldl f s) :=
  List.foldlRecOn (motive := KeepsDies s) l f .rfl fun t ht x _ => ht.trans (h t x)

theorem keepsDies_haltLaunch (s : State) (id : Dword) : KeepsDies s (s.haltLaunch id) := by
  obtain ⟨t, ht, ⟨h, -⟩ | ⟨l, -, -, h⟩⟩ := haltLaunch_cases s id <;> rw [h]
  · exact ht.keepsDies
  · exact ht.keepsDies.trans (.of_quads rfl rfl rfl)

theorem keepsDies_endLaunch (s : State) (id : Dword) (status detail role index : Nat) :
    KeepsDies s (s.endLaunch id status detail role index) := by
  unfold State.endLaunch
  split
  · exact .rfl
  · exact KeepsDies.of (keepsDies_haltLaunch ..) rfl rfl rfl

theorem keepsDies_sendAll (s : State) (cs : List Nat) (l : Dword) (m : LMsg) : KeepsDies s (s.sendAll cs l m) := by
  obtain ⟨c, f, h⟩ := sendAll_eq s cs l m
  rw [h]
  exact .of_quads rfl rfl rfl

theorem keepsDies_takeHead (s : State) (l : Launch) : KeepsDies s (s.takeHead l) := by
  have hupd : ∀ (t : State) (q : LQueue), KeepsDies t (t.updQueue q) := fun t q => by
    obtain ⟨c, m, b, h⟩ := updQueue_eq t q
    rw [h]
    exact .of_quads rfl rfl rfl
  unfold State.takeHead
  split
  · exact .rfl
  · split
    · exact (hupd _ _).of rfl rfl rfl
    · exact .rfl

theorem keepsDies_startLaunch (s : State) (l : Launch) : KeepsDies s (s.startLaunch l) := by
  have h : KeepsDies s (if l.restoring then s.moveAll l else s.takeHead l) := by
    split
    · exact .of_quads rfl rfl rfl
    · exact keepsDies_takeHead ..
  unfold State.startLaunch
  dsimp only
  generalize (if l.restoring then s.moveAll l else s.takeHead l) = t at h ⊢
  exact h.trans (.of_quads rfl rfl rfl)

theorem keepsDies_chooseAgain (s : State) (l : Launch) : KeepsDies s (s.chooseAgain l) := by
  refine (keepsDies_sendAll s ((s.leavesOf l).filter l.placed.contains) l.id .release).trans ?_
  unfold State.chooseAgain
  dsimp only
  split
  · exact KeepsDies.of (keepsDies_sendAll ..) rfl rfl rfl
  · split
    · exact .of_quads rfl rfl rfl
    · unfold State.onQueue
      dsimp only
      split <;> exact .of_quads rfl rfl rfl

theorem keepsDies_placeAnswered (s : State) (l : Launch) : KeepsDies s (s.placeAnswered l) := by
  refine .trans (t := s.putLaunch l) (.of_quads rfl rfl rfl) ?_
  unfold State.placeAnswered
  dsimp only
  split
  · exact .rfl
  split
  · exact keepsDies_chooseAgain ..
  split
  · exact (keepsDies_takeHead ..).trans (.of_quads rfl rfl rfl)
  · split
    · exact keepsDies_startLaunch ..
    · exact .rfl

/-- A launch that is dropped gives quads back. -/
theorem keepsDies_dropStaged (s : State) (id : Dword) : KeepsDies s (s.dropStaged id) := by
  unfold State.dropStaged
  split
  · exact .rfl
  · refine ⟨rfl, rfl, fun d h q hq hd => ?_⟩
    obtain ⟨p, hp, rfl⟩ := List.mem_map.mp hq
    have hp' := h p hp (by split at hd <;> exact hd)
    split
    · exact ⟨by simp [hp'.1], hp'.2⟩
    · exact hp'

theorem keepsDies_fenceLaunch (s : State) (d : Nat) (l : Launch) : KeepsDies s (s.fenceLaunch d l) := by
  unfold State.fenceLaunch
  split
  · exact (keepsDies_endLaunch ..).trans (.of_quads rfl rfl rfl)
  · split
    · dsimp only
      split
      · exact .rfl
      · exact keepsDies_placeAnswered ..
    · split
      · exact keepsDies_dropStaged ..
      · exact .rfl
    all_goals exact .rfl

/-- The die has left the healthy set, its range is out of reach, and its quads are free (R91). -/
structure FencedOut (d : Nat) (s : State) : Prop where
  sick : s.sick.getLsbD d = true
  fenced : s.fenced.getLsbD d = true
  freed : Freed d s

/-- A fence of a die that is out, or that there is not, does nothing. -/
theorem fenceDie_of_out {s : State} {d : Nat} (h : 24 ≤ d ∨ s.sick.getLsbD d = true) : s.fenceDie d = s := if_pos h

/-- What a fence adds to the dies that are out, and to the quads that are free. -/
theorem fenceDie_spec {s : State} {d : Nat} (hd : d < 24) (hs : s.sick.getLsbD d = false) :
    (s.fenceDie d).sick = s.sick ||| BitVec.ofNat 24 (2 ^ d) ∧ (s.fenceDie d).fenced = s.fenced ||| BitVec.ofNat 24 (2 ^ d)
      ∧ Freed d (s.fenceDie d) ∧ ∀ e, Freed e s → Freed e (s.fenceDie d) := by
  have hend : ∀ t : State, KeepsDies t (t.sch.launches.foldl (fun s x => match s.launch? x.id with | some l => s.fenceLaunch d l | none => s) t) :=
    fun t => .foldl (fun s x => by
      split
      · exact keepsDies_fenceLaunch ..
      · exact .rfl) _ t
  have hops : ∀ t : State, TilesOnly t (t.fenceOps d) := fun t => .foldl (fun s x => tilesOnly_engineFault ..) _ t
  have hrec := fun t : State => (hops t).trans (tilesOnly_record (t.fenceOps d) 8 .none 3 d 0 0xFFFFFFFFFFFFFFFF)
  have hfold := hend { s with sick := s.sick ||| BitVec.ofNat 24 (2 ^ d), sch := { s.sch with msgs := s.sch.msgs.filter fun m => m.cluster / 4 ≠ d } }
  unfold State.fenceDie
  rw [if_neg (not_or.mpr ⟨by omega, by simp [hs]⟩)]
  dsimp only
  refine ⟨Eq.trans (hrec _).sick hfold.sick, Eq.trans (hrec _).fenced (congrArg (· ||| _) hfold.fenced), fun q hq hqd => ?_, fun e he q hq hqe => ?_⟩
  · rw [(hrec _).quads] at hq
    obtain ⟨p, hp, rfl⟩ := List.mem_map.mp hq
    split
    · exact ⟨rfl, rfl⟩
    · next h => exact absurd (by rwa [if_neg h] at hqd) h
  · rw [(hrec _).quads] at hq
    obtain ⟨p, hp, rfl⟩ := List.mem_map.mp hq
    split
    · exact ⟨rfl, rfl⟩
    · next h => exact hfold.freed e he p hp (by rwa [if_neg h] at hqe)

theorem getLsbD_or_bit {d : Nat} (hd : d < 24) (x : BitVec 24) (e : Nat) :
    (x ||| BitVec.ofNat 24 (2 ^ d)).getLsbD e = (x.getLsbD e || decide (d = e)) := by
  rw [BitVec.getLsbD_or, BitVec.getLsbD_ofNat, Nat.testBit_two_pow]
  by_cases h : d = e
  · subst h
    simp [hd]
  · simp [h]

/-- The fence of a die puts it out. -/
theorem fencedOut_fenceDie {s : State} {d : Nat} (hd : d < 24) (hs : s.sick.getLsbD d = false) : FencedOut d (s.fenceDie d) := by
  obtain ⟨hsick, hfenced, hfree, -⟩ := fenceDie_spec hd hs
  exact ⟨by rw [hsick, getLsbD_or_bit hd]; simp, by rw [hfenced, getLsbD_or_bit hd]; simp, hfree⟩

/-- A die that is out stays out under any further fence. -/
theorem FencedOut.fenceDie {s : State} {d : Nat} (h : FencedOut d s) (e : Nat) : FencedOut d (s.fenceDie e) := by
  by_cases ho : 24 ≤ e ∨ s.sick.getLsbD e = true
  · rw [fenceDie_of_out ho]
    exact h
  · rw [not_or, Bool.not_eq_true] at ho
    obtain ⟨hsick, hfenced, -, hfree⟩ := fenceDie_spec (by omega) ho.2
    exact ⟨by simp [hsick, h.sick], by simp [hfenced, h.fenced], hfree d h.freed⟩

/-- The fence of another die leaves a die in the healthy set. -/
theorem fenceDie_sick_other {s : State} {d e : Nat} (hs : s.sick.getLsbD d = false) (hne : e ≠ d) : (s.fenceDie e).sick.getLsbD d = false := by
  by_cases ho : 24 ≤ e ∨ s.sick.getLsbD e = true
  · rw [fenceDie_of_out ho]
    exact hs
  · rw [not_or, Bool.not_eq_true] at ho
    obtain ⟨hsick, -⟩ := fenceDie_spec (by omega) ho.2
    rw [hsick, getLsbD_or_bit (by omega), hs]
    simp [hne]

/-- Of several fences, one of which is of the die, the die is out. -/
theorem fencedOut_foldl {d : Nat} (hd : d < 24) {ds : List Nat} (hmem : d ∈ ds) {s : State} (hs : s.sick.getLsbD d = false) :
    FencedOut d (ds.foldl State.fenceDie s) := by
  induction ds generalizing s with
  | nil => simp at hmem
  | cons e es ih =>
    by_cases he : e = d
    · subst he
      exact List.foldlRecOn (motive := FencedOut e) es _ (fencedOut_fenceDie hd hs) fun t ht x _ => ht.fenceDie x
    · exact ih ((List.mem_cons.mp hmem).resolve_left (Ne.symm he)) (fenceDie_sick_other hs he)

/-- The fence of a die takes all those with it that are requested on the tick, in ascending die number (R92). -/
theorem fenceWith_eq (s : State) (d : Nat) :
    s.fenceWith d = ((List.range 24).filter fun e => e == d || s.agenda.any fun x => s.fenceDue x && x.2.2.die == e).foldl State.fenceDie
      { s with agenda := s.agenda.filter fun x => !s.fenceDue x } := by
  unfold State.fenceWith
  dsimp only
  congr 1
  refine List.filter_congr fun e _ => ?_
  rw [Bool.eq_iff_iff]
  simp [List.any_eq_true, and_assoc]

/-- With no other fence requested, that of the die alone. -/
theorem fenceWith_of_none {s : State} (d : Nat) (h : ∀ e ∈ s.agenda, s.fenceDue e = false) : s.fenceWith d = s.fenceDie d := by
  have ha : (s.agenda.filter fun x => !s.fenceDue x) = s.agenda := List.filter_eq_self.mpr fun e he => by simp [h e he]
  have hany : (s.agenda.any fun x => s.fenceDue x && x.2.2.die == ·) = fun _ => false := by
    funext e
    simp only [List.any_eq_false]
    exact fun x hx => by simp [h x hx]
  by_cases hd : d < 24
  · have hone : ((List.range 24).filter fun e => e == d) = [d] := by
      rw [List.filter_beq, List.count_eq_one_of_mem (List.nodup_range) (List.mem_range.mpr hd)]
      rfl
    rw [fenceWith_eq, ha]
    simp only [congrFun hany, Bool.or_false, hone, List.foldl_cons, List.foldl_nil]
  · have hnone : ((List.range 24).filter fun e => e == d) = [] := List.filter_eq_nil_iff.mpr fun e he => by
      have := List.mem_range.mp he
      simp; omega
    rw [fenceWith_eq, ha, fenceDie_of_out (.inl (by omega))]
    simp only [congrFun hany, Bool.or_false, hnone, List.foldl_nil]

theorem fencedOut_fenceWith {s : State} {d : Nat} (hd : d < 24) (hs : s.sick.getLsbD d = false) : FencedOut d (s.fenceWith d) := by
  rw [fenceWith_eq]
  exact fencedOut_foldl hd (List.mem_filter.mpr ⟨List.mem_range.mpr hd, by simp⟩) hs

/-- A write of `DIEFENCE` whose turn it is fences from READY on. -/
theorem exec_dieFence_host {s : State} (hw : s.writes) : exec .dieFence s = .next (if s.ready then s.fenceWith s.ev.die else s) := by
  obtain ⟨hy, hp⟩ := hw
  refine congrArg Host.Outcome.next ((if_neg (by simp [hy])).trans ?_)
  exact BringUp.inOrder_of_free hp rfl

theorem FencedOut.not_healthy {s : State} {d : Nat} (h : FencedOut d s) : d ∉ s.healthy := by
  simp [State.healthy, h.sick]

/-! ## Condemned quads (R87) -/

theorem shiftColumn_eq (s : State) (c row col : Nat) :
    ∃ ts qs, s.shiftColumn c row col = { s with tiles := ts, quads := qs, shifts := (c, col, row) :: s.shifts } := by
  have htiles : ∀ (xs : List (Nat × Tile)) (t : State), ∃ ts, xs.foldl (fun s x => s.setTile (x.2.spared x.1)) t = { t with tiles := ts } :=
    fun xs t => List.foldlRecOn (motive := fun u : State => ∃ ts, u = { t with tiles := ts }) xs _ ⟨t.tiles, rfl⟩
      fun _ ⟨_, h⟩ _ _ => h ▸ ⟨_, rfl⟩
  have hquads : ∀ (qs : List Nat) (t : State), ∃ us, qs.foldl (fun s q => s.onQuad q fun u =>
      { u with active := [], store := [], ganged := false, badCode := [], badShadow := [], badStore := [] }) t = { t with quads := us } :=
    fun qs t => List.foldlRecOn (motive := fun u : State => ∃ us, u = { t with quads := us }) qs _ ⟨t.quads, rfl⟩
      fun _ ⟨_, h⟩ _ _ => h ▸ ⟨_, rfl⟩
  unfold State.shiftColumn
  dsimp only
  obtain ⟨ts, ht⟩ := htiles _ s
  rw [ht]
  obtain ⟨us, hu⟩ := hquads _ { s with tiles := ts }
  rw [hu]
  exact ⟨ts, us, rfl⟩

theorem shiftOf_of_head {s : State} {c col row : Nat} {l : List (Nat × Nat × Nat)} (h : s.shifts = (c, col, row) :: l) :
    s.shiftOf c col = some row := by
  simp [State.shiftOf, h]

/-- A quad that is condemned is counted and recorded; then it is lost where the spare of its column is in use, and waits for a shift where it is not. -/
theorem quadCondemn_eq {s : State} {c r col row : Nat} (hp : quadPlace s.ev.die s.ev.quad = (c, r, col))
    (hrow : logicalRow (s.shiftOf c col) r = some row) (hc : columnQuad c row col ∉ s.condemned) (hl : columnQuad c row col ∉ s.lostQuads) :
    ∃ q m e o, exec .quadCondemn s = .next (
      if (s.shiftOf c col).isSome then
        { s with qerr := q, mem := m, err := e, outbox := o, lostQuads := columnQuad c row col :: s.lostQuads }
      else
        (State.clearColumn { s with qerr := q, mem := m, err := e, outbox := o, condemned := columnQuad c row col :: s.condemned }
          (columnFrom c row col)).sched 1 none .columnShift { cluster := c, quad := columnQuad c row col }) := by
  have hrow' : ∀ x, logicalRow (State.shiftOf { s with qerr := x } c col) r = some row := fun _ => hrow
  simp only [exec, execQuadCondemn, hp, hrow']
  generalize putErr _ _ = x
  obtain ⟨m, e, o, h⟩ := record_eq { s with qerr := x } 7 .none 0 (State.mtile { s with qerr := x } (columnQuad c row col)) 0 0xFFFFFFFFFFFFFFFF
  refine ⟨x, m, e, o, ?_⟩
  rw [h, if_neg (by simp [hc, hl])]
  exact (apply_ite Host.Outcome.next _ _ _).symm

/-- The shift of a column that no launch holds: its condemned quads are shifted out or lost. -/
theorem columnShift_eq {s : State} {q c row col : Nat} (hq : s.ev.quad = q) (hc : clusterOf q = c) (hr : bits q 9 6 = row)
    (hl : bits q 5 2 = col) (hmem : q ∈ s.condemned) (hs : s.shiftOf c col = none) (hh : s.holders (columnFrom c row col) = []) :
    ∃ ts qs lost, exec .columnShift s = .next { s with
      tiles := ts, quads := qs, shifts := (c, col, row) :: s.shifts, lostQuads := lost ++ s.lostQuads
      condemned := s.condemned.filter fun x => !(clusterOf x == c && bits x 5 2 == col) } := by
  obtain ⟨ts, qs, h⟩ := shiftColumn_eq s c row col
  simp only [exec, execColumnShift, hq, hc, hr, hl]
  rw [if_neg (by simp [hmem, hs]), if_neg (by simp [hh]), h]
  exact ⟨ts, qs, _, rfl⟩

/-! ## Links (R89) -/

theorem any_pair_iff (l : List (Nat × Nat × Nat)) (a b : Nat) :
    (l.any fun r => r.1 = a ∧ r.2.1 = b) = true ↔ ∃ r ∈ l, r.1 = a ∧ r.2.1 = b := by
  simp only [List.any_eq_true, decide_eq_true_eq]

/-- The repair of a link that does not retrain already: it is held for at most 34,000 ticks. -/
theorem laneRepair_eq {s : State} {e : EvArg} (h : ¬∃ r ∈ s.retrain, r.1 = e.src ∧ r.2.1 = e.dst) :
    ∃ k a m er o, s.laneRepair e = { s with
      free := s.free + 1, kiln := k, kilnAir := a, mem := m, err := er, outbox := o
      retrain := (e.src, e.dst, s.tick + 1 + Config.delay s.free % 34000) :: s.retrain, retrained := (e.src, e.dst) :: s.retrained
      agenda := s.agenda ++ [(s.tick + 1 + Config.delay s.free % 34000, .linkRetrainEnd, { src := e.src, dst := e.dst, yes := e.yes })] } := by
  unfold State.laneRepair
  rw [if_neg (mt (any_pair_iff ..).mp h)]
  dsimp only
  obtain ⟨m, er, o, hr⟩ := record_eq { s with
      free := s.free + 1
      retrain := (e.src, e.dst, s.tick + 1 + Config.delay s.free % 34000) :: s.retrain, retrained := (e.src, e.dst) :: s.retrained
      agenda := s.agenda ++ [(s.tick + 1 + Config.delay s.free % 34000, .linkRetrainEnd, { src := e.src, dst := e.dst, yes := e.yes })] }
    5 .none 7 (e.src * 32 + e.dst) 0 0xFFFFFFFFFFFFFFFF
  rw [hr]
  exact ⟨_, _, m, er, o, rfl⟩

/-- A link that retrains already is left alone. -/
theorem laneRepair_of_mem {s : State} {e : EvArg} (h : ∃ r ∈ s.retrain, r.1 = e.src ∧ r.2.1 = e.dst) : s.laneRepair e = s :=
  if_pos ((any_pair_iff ..).mpr h)

/-- After a repair the link retrains, and the list of replays is as it was. -/
theorem laneRepair_spec (s : State) (e : EvArg) :
    (∃ r ∈ (s.laneRepair e).retrain, r.1 = e.src ∧ r.2.1 = e.dst) ∧ (s.laneRepair e).laneReplays = s.laneReplays := by
  by_cases h : ∃ r ∈ s.retrain, r.1 = e.src ∧ r.2.1 = e.dst
  · rw [laneRepair_of_mem h]
    exact ⟨h, rfl⟩
  · obtain ⟨k, a, m, er, o, hr⟩ := laneRepair_eq h
    rw [hr]
    exact ⟨⟨_, List.mem_cons_self .., rfl, rfl⟩, rfl⟩

/-- An error that is corrected outside the tiles is recorded. -/
theorem corrected_one_eq (s : State) (unit who : Nat) : ∃ m e o, s.corrected 1 unit who = { s with mem := m, err := e, outbox := o } :=
  record_eq s 1 .none unit who 0 0xFFFFFFFFFFFFFFFF

/-! ## Spares (R90) -/

theorem find_putKeyed {α : Type} (k : Nat) (v : α) : ∀ l : List (Nat × α), ((putKeyed k v l).find? fun e => e.1 = k) = some (k, v)
  | [] => by simp [putKeyed]
  | e :: r => by
    have ih := find_putKeyed k v r
    unfold putKeyed
    split
    · simp
    · split
      · simp
      · next h => simpa [List.find?_cons, Ne.symm h] using ih

theorem sparesUsed_putKeyed (s : State) (d n : Nat) : ({ s with spared := putKeyed d n s.spared } : State).sparesUsed d = n := by
  simp only [State.sparesUsed, find_putKeyed]

/-- A channel that is asked for a spare has failed or is being copied, and where it is neither already, by the spares that its stack has left. -/
theorem spareChannel_spec (s : State) (d c : Nat) :
    (d, c) ∈ (s.spareChannel d c).failed ∨ ∃ e ∈ (s.spareChannel d c).sparing, e.1 = d ∧ e.2.1 = c := by
  unfold State.spareChannel
  split
  · next h => simpa using h
  · split
    · exact .inl (List.mem_cons_self ..)
    · exact .inr ⟨_, List.mem_cons_self .., rfl, rfl⟩

/-- Of what comes to the front and what is left of a list, those that count. -/
theorem length_filter_cons_recent {α : Type} {mine recent : α → Bool} {x : α} (hx : mine x = true) (l : List α) :
    ((x :: l.filter recent).filter mine).length = (l.filter fun r => mine r && recent r).length + 1 := by
  rw [List.filter_cons_of_pos hx, List.length_cons, List.filter_filter]

/-- Settles O55: a fence by what no later fence undoes, a link and a channel by the recent errors counted on it, and the other events by their own branches. -/
theorem healthEvents : Obligations.HealthEvents := by
  refine ⟨?fence, ?fenceOut, ?fenceEarly, fenceWith_eq, ?due, ?condemn, ?shift, ?repair, ?replay, ?retrainEnd, ?spare, ?corrected,
    fun _ => rfl, ?halt, ?debugHalt, ?halving, ?cxl, ?drain⟩
  case fence =>
    rintro s d rfl hd hs
    have hout := fencedOut_fenceWith hd hs
    refine ⟨_, fun h => ?_, rfl, fun h => ?_, hout.sick, hout.fenced, hout.freed, hout.not_healthy⟩
    · rcases h with hy | ⟨hw, h9⟩
      · exact congrArg Host.Outcome.next (if_pos hy)
      · rw [exec_dieFence_host hw, BringUp.ready_of_stage h9, if_pos rfl]
    · rw [fenceWith_of_none _ h]
      exact (fenceDie_spec hd hs).1
  case fenceOut =>
    intro s hw hout hnone
    have hself : s.fenceWith s.ev.die = s := (fenceWith_of_none _ hnone).trans (fenceDie_of_out hout)
    rcases hw with hw | hy
    · rw [exec_dieFence_host hw, hself, ite_self]
    · exact congrArg Host.Outcome.next ((if_pos hy).trans hself)
  case fenceEarly =>
    intro s hw h9
    rw [exec_dieFence_host hw, BringUp.not_ready_of_stage h9, if_neg Bool.false_ne_true]
  case due =>
    intro s x hx
    refine ⟨fun hi => by simp [State.fenceDue, hx, hi], fun hi h => ?_⟩
    rcases h with hy | ⟨h9, hp⟩
    · simp [State.fenceDue, hx, hi, hy]
    · simp [State.fenceDue, hx, hi, BringUp.ready_of_stage h9, hp]
  case condemn =>
    intro s row p q hrow hc hl
    obtain ⟨qe, m, e, o, h⟩ := quadCondemn_eq (c := p.1) (r := p.2.1) (col := p.2.2) rfl hrow hc hl
    refine ⟨fun hs => ⟨_, h.trans (congrArg _ (if_pos hs)), rfl, rfl⟩, fun hs => ?_⟩
    refine ⟨_, h.trans (congrArg _ (if_neg (by simp [hs]))), ?_⟩
    obtain ⟨c', q', f', hclear⟩ := clearColumn_eq { s with qerr := qe, mem := m, err := e, outbox := o, condemned := q :: s.condemned } (columnFrom p.1 row p.2.2)
    rw [hclear]
    exact List.mem_cons_self ..
  case shift =>
    intro s q c row col hq hs
    have hcan : ¬((!s.condemned.contains q) = true ∨ (s.shiftOf c col).isSome = true) := by simp [hq, hs]
    refine ⟨fun hh => ?_, fun hh => ?_⟩
    · simp only [exec, execColumnShift]
      rw [if_neg hcan, if_pos (by simpa using hh)]
    · obtain ⟨ts, qs, lost, h⟩ := columnShift_eq rfl rfl rfl rfl hq hs hh
      refine ⟨_, h, rfl, ?_, ?_, fun x hx => List.mem_append_right _ hx⟩
      · exact shiftOf_of_head rfl
      · simp [q]
  case repair =>
    intro s e hw hr
    obtain ⟨k, a, m, er, o, h⟩ := laneRepair_eq (e := e) fun ⟨r, hmem, hlink⟩ => hr r hmem hlink
    have hlt := Nat.mod_lt (Config.delay s.free) (show 0 < 34000 by decide)
    refine ⟨_, s.tick + 1 + Config.delay s.free % 34000, (if_pos hw).trans (congrArg _ h), rfl, by omega, by omega, ?_⟩
    exact List.mem_append_right _ (List.mem_singleton_self _)
  case replay =>
    intro s e recent hw
    let mine : Nat × Nat × Nat × Nat → Bool := fun r => r.1 == e.src && r.2.1 == e.dst && r.2.2.1 == e.channel
    let now := (e.src, e.dst, e.channel, s.tick)
    let late := now :: s.laneReplays.filter fun r => decide (s.tick < r.2.2.2 + 2 ^ 24)
    have hlen : (late.filter mine).length = recent.length + 1 := length_filter_cons_recent (by simp [mine, now]) _
    obtain ⟨m, er, o, hcorr⟩ := corrected_one_eq s 7 (e.src * 32 + e.dst)
    have hexec : exec .laneRepair s = .next (if (late.filter mine).length < 64 then { s with mem := m, err := er, outbox := o, laneReplays := late }
        else State.laneRepair { s with mem := m, err := er, outbox := o, laneReplays := late.filter fun r => !mine r } e) := by
      simp only [exec, execLaneRepair]
      rw [if_neg (by simpa using hw), hcorr]
      exact (apply_ite Host.Outcome.next _ _ _).symm
    by_cases hn : (late.filter mine).length < 64
    · refine ⟨_, hexec.trans (congrArg _ (if_pos hn)), fun _ => ⟨rfl, List.mem_cons_self ..⟩, fun _ => by omega⟩
    · refine ⟨_, hexec.trans (congrArg _ (if_neg hn)), fun _ => by omega, fun _ => ?_⟩
      obtain ⟨hmem, hlate⟩ := laneRepair_spec { s with mem := m, err := er, outbox := o, laneReplays := late.filter fun r => !mine r } e
      refine ⟨hmem, fun r hr hm => ?_⟩
      rw [hlate] at hr
      obtain ⟨h1, h2, h3⟩ := hm
      simpa [mine, h1, h2, h3] using (List.mem_filter.mp hr).2
  case retrainEnd =>
    intro s e
    refine ⟨_, rfl, fun r hr => ?_, fun r hr hne => List.mem_filter.mpr ⟨hr, by simpa [-not_and, not_and_or] using hne⟩, rfl⟩
    simpa [-not_and, not_and_or] using (List.mem_filter.mp hr).2
  case spare =>
    intro s d c hw hf hn
    have hexec : exec .pseudoChannelSpare s = .next (s.spareChannel d c) := if_pos hw
    have hnot : ¬(s.failed.contains (d, c) = true ∨ (s.sparing.any fun e => e.1 = d ∧ e.2.1 = c) = true) := by
      rw [any_pair_iff, not_or]
      exact ⟨by simpa using hf, fun ⟨e, he, heq⟩ => hn e he heq⟩
    rw [hexec, State.spareChannel, if_neg hnot]
    refine ⟨fun h2 => congrArg _ (if_pos h2), fun h2 => ?_⟩
    exact ⟨_, _, congrArg _ (if_neg (by omega)), sparesUsed_putKeyed s d _, rfl, by omega, rfl, rfl⟩
  case corrected =>
    intro s d c recent hw
    let mine : Nat × Nat × Nat → Bool := fun r => r.1 == d && r.2.1 == c
    let late := (d, c, s.tick) :: s.hbmCorr.filter fun r => decide (s.tick < r.2.2 + 2 ^ 34)
    have hlen : (late.filter mine).length = recent.length + 1 := length_filter_cons_recent (by simp [mine]) _
    obtain ⟨m, er, o, hcorr⟩ := corrected_one_eq s 3 d
    have hexec : exec .pseudoChannelSpare s = .next (if (late.filter mine).length < 16 then { s with mem := m, err := er, outbox := o, hbmCorr := late }
        else State.spareChannel { s with mem := m, err := er, outbox := o, hbmCorr := late.filter fun r => !mine r } d c) := by
      simp only [exec, execPseudoChannelSpare]
      rw [if_neg (by simpa using hw), hcorr]
      exact (apply_ite Host.Outcome.next _ _ _).symm
    by_cases hn : (late.filter mine).length < 16
    · exact ⟨_, hexec.trans (congrArg _ (if_pos hn)), fun _ => ⟨rfl, rfl, List.mem_cons_self ..⟩, fun _ => by omega⟩
    · exact ⟨_, hexec.trans (congrArg _ (if_neg hn)), fun _ => by omega, fun _ => spareChannel_spec _ d c⟩
  case halt =>
    intro s t ht hw
    have hhalt : exec .debugHaltRequest s = .next (s.debugHaltAt s.ev.die s.ev.entry) := congrArg Host.Outcome.next (BringUp.inOrder_of_free hw.2 rfl)
    have hrel : exec .debugRelease s = .next (s.debugReleaseAt s.ev.die s.ev.entry) := congrArg Host.Outcome.next (BringUp.inOrder_of_free hw.2 rfl)
    simp only [State.debugHaltAt, State.debugReleaseAt, ht] at hhalt hrel
    refine ⟨fun hl => ?_, fun hl => ?_, hrel⟩
    · rw [hhalt, if_neg (by simpa [Option.isSome_iff_ne_none] using hl)]
    · rw [hhalt, if_pos (by simp [hl])]
  case debugHalt =>
    intro t now hl
    unfold Tile.debugHalt
    rw [if_neg hl]
    exact ⟨_, rfl, rfl, rfl, rfl, rfl, rfl⟩
  case halving =>
    intro s hm hh
    exact if_neg (not_or.mpr ⟨not_not.mpr hm, hh⟩)
  case cxl =>
    intro s
    refine ⟨_, rfl, fun k => ?_⟩
    simp [Vector.getElem_mapIdx]
  case drain =>
    intro s hd
    exact if_pos hd

end Sys2Proof.Proofs.Health
end

section
/-! PROOF. The accesses of the host, the power cap, the commands of the launch queues, notifies and record reads. -/

namespace Sys2Proof.Proofs.HostAccess

open Sys2Proof.Machine BringUp Health

/-! ## Registers of BAR0 (R15, R26, R27) -/

/-- What a write of one half of a register keeps of the other: of a debug control the enable bit alone. -/
def kept (s : State) (b : Bar) (o : Nat) : Nat := match b with | .debug _ => s.reg b o % 2 | _ => s.reg b o

/-- The whole value of a register after a write of `size` bytes, before its width is applied. -/
def merged (off size v old : Nat) : Nat :=
  if size = 8 then v else if off % 8 = 0 then old / 2 ^ 32 * 2 ^ 32 + v % 2 ^ 32 else v % 2 ^ 32 * 2 ^ 32 + old % 2 ^ 32

theorem closed_iff (s : State) (b : Bar) : ((!b.early) = true ∧ (!s.ready) = true) ↔ ¬(b.early = true ∨ s.boot.stage = 0x09) := by
  simp [State.ready]

section
variable {s : State} {p : HostPort} {off size v : Nat} (h2 : 2 ≤ s.boot.stage)
include h2

theorem hostWrite_unsupported (ha : barAccepts off size = false) :
    s.hostWrite p off size v = { s with outbox := s.outbox ++ [.unsupported] } := by
  unfold State.hostWrite
  rw [if_neg (by omega), if_pos (by simp [ha])]

theorem hostWrite_reserved (ha : barAccepts off size = true) (hn : barNamed off size = false) : s.hostWrite p off size v = s.countReserved := by
  unfold State.hostWrite
  rw [if_neg (by omega), if_neg (by simp [ha]), if_pos (by simp [hn])]

/-- A named register outside the regions that answer keeps its value. -/
theorem hostWrite_closed (ha : barAccepts off size = true) (hn : barNamed off size = true)
    (hc : ¬((barOf off).1.early = true ∨ s.boot.stage = 0x09)) : s.hostWrite p off size v = s := by
  unfold State.hostWrite
  rw [if_neg (by omega), if_neg (by simp [ha]), if_neg (by simp [hn])]
  exact if_pos ((closed_iff s _).mpr hc)

/-- A named register that answers is written by its access. -/
theorem hostWrite_open (ha : barAccepts off size = true) (hn : barNamed off size = true)
    (ho : (barOf off).1.early = true ∨ s.boot.stage = 0x09) :
    s.hostWrite p off size v = match (barOf off).1.access ((barOf off).2 / 8 * 8) with
      | .ro => s
      | .wo => if size = 8 then s.regSet p (barOf off).1 ((barOf off).2 / 8 * 8) v else s
      | .rw => s.regSet p (barOf off).1 ((barOf off).2 / 8 * 8)
          (merged off size v (kept s (barOf off).1 ((barOf off).2 / 8 * 8)) % 2 ^ 64) := by
  unfold State.hostWrite
  rw [if_neg (by omega), if_neg (by simp [ha]), if_neg (by simp [hn])]
  dsimp only
  rw [if_neg (mt (closed_iff s _).mp (not_not.mpr ho))]
  rfl

theorem hostRead_unsupported (ha : barAccepts off size = false) :
    s.hostRead off size = { s with outbox := s.outbox ++ [.unsupported] } := by
  unfold State.hostRead
  rw [if_neg (by omega), if_pos (by simp [ha])]

end

/-- The completion of a read of a register of value `v`. -/
def readDone (s : State) (off size v : Nat) : State :=
  { s with outbox := s.outbox ++ [.data (natLe (v / 2 ^ (8 * (off % 8))) size)] }

theorem hostRead_reserved {s : State} {off size : Nat} (h2 : 2 ≤ s.boot.stage) (ha : barAccepts off size = true)
    (hn : barNamed off size = false) : s.hostRead off size = readDone s.countReserved off size 0 := by
  unfold State.hostRead
  rw [if_neg (by omega), if_neg (by simp [ha])]
  simp [hn, readDone]

/-- A sample of the draw leaves the cap and the rest of the state. -/
theorem samplePower_frame (s : State) : s.samplePower.boot = s.boot ∧ s.samplePower.sch = s.sch ∧ s.samplePower.tick = s.tick
    ∧ s.samplePower.pwrcap = s.pwrcap ∧ s.samplePower.capAt = s.capAt := by
  unfold State.samplePower
  exact ⟨rfl, rfl, rfl, rfl, rfl⟩

/-- So does the start of capping, and the sample. -/
theorem capStart_frame (s : State) (due : Nat) : (s.capStart due).boot = s.boot ∧ (s.capStart due).pwrcap = s.pwrcap
    ∧ (s.capStart due).capAt = s.capAt ∧ (s.capStart due).draw = s.draw ∧ (s.capStart due).overCap = s.overCap := ⟨rfl, rfl, rfl, rfl, rfl⟩

/-- A look at the draw samples it, and starts capping where the cap is exceeded and capping has not begun. -/
theorem lookPower_eq (s : State) : ∃ due, s.lookPower =
    if s.samplePower.overCap ∧ s.samplePower.capUntil.isNone then s.samplePower.capStart due else s.samplePower := ⟨_, rfl⟩

theorem lookPower_boot (s : State) : s.lookPower.boot = s.boot := by
  obtain ⟨due, h⟩ := lookPower_eq s
  rw [h]
  split
  · exact (capStart_frame ..).1.trans (samplePower_frame s).1
  · exact (samplePower_frame s).1

/-- What a read of a register looks at: the draw, where it is that of `PWRST`. -/
def looked (s : State) (b : Bar) (o : Nat) : State := if b = .power ∧ o = 8 then s.lookPower else s

theorem looked_boot (s : State) (b : Bar) (o : Nat) : (looked s b o).boot = s.boot := by
  unfold looked
  split
  · exact lookPower_boot s
  · rfl

theorem looked_of_ne {s : State} {b : Bar} (o : Nat) (h : b ≠ .power) : looked s b o = s := if_neg fun hb => h hb.1

theorem hostRead_named {s : State} {off size : Nat} (h2 : 2 ≤ s.boot.stage) (ha : barAccepts off size = true)
    (hn : barNamed off size = true) :
    s.hostRead off size = readDone (looked s (barOf off).1 ((barOf off).2 / 8 * 8)) off size
      (if s.answers (barOf off).1 then (looked s (barOf off).1 ((barOf off).2 / 8 * 8)).reg (barOf off).1 ((barOf off).2 / 8 * 8) else 0) := by
  have hans : (looked s (barOf off).1 ((barOf off).2 / 8 * 8)).answers (barOf off).1 = s.answers (barOf off).1 := by
    simp only [State.answers, State.ready, looked_boot]
  unfold State.hostRead
  rw [if_neg (by omega), if_neg (by simp [ha])]
  dsimp only
  rw [if_neg (by simp [hn])]
  change readDone (looked s _ _) off size _ = _
  congr 1
  change (if (!barNamed off size) = true ∨ (!(looked s _ _).answers _) = true then 0 else (looked s _ _).reg _ _) = _
  rw [hans, hn]
  cases s.answers (barOf off).1 <;> rfl

theorem exec_registerWrite {s : State} (hp : s.portHeld s.ev.port = false) :
    exec .registerWrite s = .next (s.hostWrite s.ev.port s.ev.off s.ev.size s.ev.val.toNat) :=
  congrArg Host.Outcome.next (inOrder_of_free hp rfl)

/-- A write of a register that has an event of its own stands in the order of its port (R372). -/
theorem exec_portWrite {s : State} {i : Instr} (hi : i ∈ portWrites) (hy : s.ev.yes = false) :
    exec i s = .next (s.inOrder i) ∧ portOfWrite i s.ev = s.ev.port := by
  simp only [portWrites, List.mem_cons, List.not_mem_nil, or_false] at hi
  rcases hi with rfl | rfl | rfl | rfl | rfl | rfl | rfl | rfl | rfl | rfl | rfl | rfl | rfl | rfl | rfl | rfl
  all_goals
    refine ⟨?_, rfl⟩
    simp [exec, execRegisterWrite, execPwrcapWrite, execQueueCreate, execQueueDestroy, execQueueResume, execQueueAbort, execFqtailWrite,
      execResolveRewalk, execResolveFail, execTransferCommand, execFwcmdActivate, execFwcmdReload, execFwcmdEndReload, execDieFence,
      execDebugHaltRequest, execDebugRelease, hy]

theorem answers_iff (s : State) (b : Bar) :
    s.answers b = true ↔ b.early = true ∨ s.boot.stage = 0x09 ∨ (s.boot.stage = 0xF1 ∧ b = .errors) := by
  simp [State.answers, State.ready, or_assoc]

/-! ## BAR2 (R19, R29) -/

/-- An access that is no write: it waits while the home of its address refuses it. -/
theorem exec_bar2_other {s : State} (hy : s.ev.yes = false) (hw : s.ev.words ≠ 1) (h2 : 2 ≤ s.boot.stage)
    (hs : s.ev.off + reqSize s.ev.req ≤ s.boot.span) (hl : reqLegal s.ev.off s.ev.req = true) (hn : ¬∃ bs, s.ev.req = .write bs) :
    (s.hostHint .bar2Access = none → exec .bar2Access s = .next s.bar2Perform)
      ∧ ∀ h, s.hostHint .bar2Access = some h →
        exec .bar2Access s = .next { s.countRef with agenda := s.agenda ++ [(s.tick + h, .bar2Access, s.ev)] } := by
  have hopen : ¬(s.boot.stage < 2 ∨ s.boot.span < s.ev.off + reqSize s.ev.req) := by omega
  simp only [exec, execBar2Access, hy, hw, hopen, hl, Bool.false_eq_true, Bool.not_true, if_false]
  refine ⟨fun hh => ?_, fun h hh => ?_⟩
  · split
    · next bs hreq => exact absurd ⟨bs, hreq⟩ hn
    · next heq _ => exact absurd (hh.symm.trans heq) (by simp)
    · rfl
  · split
    · next bs hreq => exact absurd ⟨bs, hreq⟩ hn
    · next heq _ =>
      cases hh.symm.trans heq
      rfl
    · next heq _ => exact absurd (hh.symm.trans heq) (by simp)

/-- A write stands in the order of its port. -/
theorem exec_bar2_write {s : State} (hy : s.ev.yes = false) (hw : s.ev.words ≠ 1) (h2 : 2 ≤ s.boot.stage)
    (hs : s.ev.off + reqSize s.ev.req ≤ s.boot.span) (hl : reqLegal s.ev.off s.ev.req = true) (hwr : ∃ bs, s.ev.req = .write bs) :
    exec .bar2Access s = .next (s.inOrder .bar2Access) := by
  have hopen : ¬(s.boot.stage < 2 ∨ s.boot.span < s.ev.off + reqSize s.ev.req) := by omega
  obtain ⟨bs, hreq⟩ := hwr
  simp only [exec, execBar2Access, hy, hw, hopen, hl, Bool.false_eq_true, Bool.not_true, if_false]
  split
  · rfl
  · next h' => exact absurd hreq (h' bs)
  · next h' => exact absurd hreq (h' bs)

/-- A legal access that nothing hinders is performed. -/
theorem exec_bar2_free {s : State} (hy : s.ev.yes = false) (hw : s.ev.words ≠ 1) (h2 : 2 ≤ s.boot.stage)
    (hs : s.ev.off + reqSize s.ev.req ≤ s.boot.span) (hl : reqLegal s.ev.off s.ev.req = true)
    (hp : (∃ bs, s.ev.req = .write bs) → s.portHeld s.ev.port = false) (hh : s.hostHint .bar2Access = none) :
    exec .bar2Access s = .next s.bar2Perform := by
  by_cases hwr : ∃ bs, s.ev.req = .write bs
  · exact (exec_bar2_write hy hw h2 hs hl hwr).trans (congrArg _ (inOrder_of_free (hp hwr) hh))
  · exact (exec_bar2_other hy hw h2 hs hl hwr).1 hh

/-- A write whose home refuses it waits, and is tried again after the hint. -/
theorem inOrder_of_hint {s : State} {i : Instr} {h : Nat} (hp : s.portHeld (portOfWrite i s.ev) = false) (hh : s.hostHint i = some h) :
    s.inOrder i = (s.behind i).portAgain (portOfWrite i s.ev) h := by
  simp only [State.inOrder, hp, hh, Bool.false_eq_true, if_false]

/-! ## Power (R31, R32) -/

/-- A cap is taken in steps of 50 W between 3 and 8 kW, and one that is such a step already as it is. -/
theorem capOf_spec (v n : Nat) : 3000 ≤ capOf v n ∧ capOf v n ≤ 8000 ∧ capOf v n % 50 = 0
    ∧ (v % 50 = 0 → 3000 ≤ v → v ≤ 8000 → capOf v n = v) := by
  unfold capOf
  dsimp only
  generalize hc : max 3000 (min v 8000) = c
  split
  · omega
  · split <;> omega

/-- What a sample of the draw finds. -/
theorem samplePower_spec (s : State) : s.samplePower.draw ≤ 800 ∧ s.samplePower.overCap = decide (s.samplePower.pwrcap < 10 * s.samplePower.draw)
    ∧ (s.capAt + 17000000 ≤ s.tick → s.allRing = true → s.samplePower.draw ≤ s.pwrcap / 10) := by
  have hlt := Nat.mod_lt (Config.delay s.free) (show 0 < 801 by decide)
  unfold State.samplePower
  dsimp only
  refine ⟨?_, rfl, fun ht hr => ?_⟩
  · split <;> omega
  · rw [if_pos ⟨ht, hr⟩]
    omega

/-- A cap that has been in force for 10 ms is met as long as every launch rings (R32). -/
theorem samplePower_met {s : State} (ht : s.capAt + 17000000 ≤ s.tick) (hr : s.allRing = true) : s.samplePower.overCap = false := by
  obtain ⟨-, hover, hmet⟩ := samplePower_spec s
  obtain ⟨-, -, -, hcap, -⟩ := samplePower_frame s
  have := hmet ht hr
  rw [hover, hcap, decide_eq_false_iff_not]
  omega

/-- A new cap is followed by a sample of the draw; capping starts where that exceeds it. -/
theorem capWrite_eq (s : State) (v : Nat) : ∃ u, u = State.samplePower { s with pwrcap := capOf v s.free, capAt := s.tick, free := s.free + 1 }
    ∧ s.capWrite v = if u.overCap then u.capStart (u.tick + 17000000) else { u with capped := [], capHeld := [], capUntil := none } :=
  ⟨_, rfl, rfl⟩

/-- What a new cap leaves (R31, R32). -/
theorem capWrite_spec (s : State) (v : Nat) : let t := s.capWrite v
    t.capAt = s.tick ∧ t.pwrcap = capOf v s.free ∧ t.draw ≤ 800 ∧ t.overCap = decide (t.pwrcap < 10 * t.draw)
      ∧ (t.overCap = true → t.capUntil = some (s.tick + 17000000) ∧ ∀ d, d ∈ t.capHeld ↔ d ∈ s.busyDies ∧ s.silentOn d = true)
      ∧ (t.overCap = false → t.capped = [] ∧ t.capHeld = [] ∧ t.capUntil = none) := by
  obtain ⟨u, hu, h⟩ := capWrite_eq s v
  obtain ⟨hdraw, hover, -⟩ := hu ▸ samplePower_spec { s with pwrcap := capOf v s.free, capAt := s.tick, free := s.free + 1 }
  obtain ⟨-, hsch, htick, hcap, hat⟩ := hu ▸ samplePower_frame { s with pwrcap := capOf v s.free, capAt := s.tick, free := s.free + 1 }
  rw [h]
  clear hu h
  have hbusy : u.busyDies = s.busyDies := by simp only [State.busyDies, hsch]
  have hsilent : u.silentOn = s.silentOn := by
    funext d
    simp only [State.silentOn, hsch, htick]
  split
  · next h =>
    obtain ⟨-, hcap', hat', hdraw', hover'⟩ := capStart_frame u (u.tick + 17000000)
    refine ⟨hat'.trans hat, hcap'.trans hcap, hdraw' ▸ hdraw, ?_, fun _ => ⟨?_, fun d => ?_⟩, fun h' => ?_⟩
    · rw [hover', hcap', hdraw']
      exact hover
    · exact congrArg (fun k => some (k + 17000000)) htick
    · rw [← hbusy, ← hsilent]
      exact List.mem_filter
    · simp [hover', h] at h'
  · next h => exact ⟨hat, hcap, hdraw, hover, fun h' => absurd h' h, fun _ => ⟨rfl, rfl, rfl⟩⟩

/-! ## Commands of the launch queues (R54, R59, R71, R72) -/

/-- A write of `QCMD` is the register's own effect. -/
theorem exec_registerWrite_qcmd {s : State} (h9 : s.boot.stage = 0x09) (hw : s.writes) (hoff : s.ev.off = 0x100008) (hsize : s.ev.size = 8) :
    exec .registerWrite s = .next (s.qcmd s.ev.val.toNat) := by
  rw [exec_registerWrite hw.2, hoff, hsize, hostWrite_open (by omega) (by decide) (by decide) (.inr h9)]
  rfl

theorem qcmd_reserved {s : State} {v : Nat} (hb : s.sch.cmdBusy = false) (h : bits v 55 16 ≠ 0 ∨ bits v 63 56 = 0 ∨ 4 < bits v 63 56) :
    s.qcmd v = s.cmdDone (v % 2 ^ 16) 1 := by
  unfold State.qcmd
  rw [if_neg (by simp [hb])]
  by_cases hres : bits v 55 16 ≠ 0
  · exact if_pos hres
  · rw [if_neg hres]
    split
    · omega
    · omega
    · omega
    · omega
    · rfl

/-- The fields of a queue command. -/
theorem cmd_fields {op : Nat} (hop : op < 256) (n : Half) :
    bits (op * 2 ^ 56 + n.toNat) 55 16 = 0 ∧ bits (op * 2 ^ 56 + n.toNat) 63 56 = op ∧ (op * 2 ^ 56 + n.toNat) % 2 ^ 16 = n.toNat := by
  have := n.isLt
  unfold bits
  omega

section
variable {s : State} (hw : s.writes) (h9 : s.boot.stage = 0x09) (hb : s.sch.cmdBusy = false)
include h9 hb

theorem qcmdEvent_eq (op : Nat) : op < 256 → qcmdEvent op s = match op with
    | 1 => s.createQueue s.ev.queue.toNat
    | 2 => s.destroyQueue s.ev.queue.toNat
    | 3 => s.resumeQueue s.ev.queue.toNat
    | 4 => s.abortQueue s.ev.queue.toNat
    | _ => s.cmdDone s.ev.queue.toNat 1 := by
  intro hop
  obtain ⟨hres, hcode, hnum⟩ := cmd_fields hop s.ev.queue
  simp only [qcmdEvent, ready_of_stage h9, if_true, State.qcmd, hb, Bool.false_eq_true, if_false, hres, hcode, hnum, ne_eq, not_true_eq_false]
    <;> rfl

include hw

theorem exec_queueCreate_host : exec .queueCreate s = .next (s.createQueue s.ev.queue.toNat) :=
  congrArg Host.Outcome.next ((if_neg (by simp [hw.1])).trans ((inOrder_of_free hw.2 rfl).trans (qcmdEvent_eq h9 hb 1 (by decide))))

theorem exec_queueDestroy : exec .queueDestroy s = .next (s.destroyQueue s.ev.queue.toNat) :=
  congrArg Host.Outcome.next ((inOrder_of_free hw.2 rfl).trans (qcmdEvent_eq h9 hb 2 (by decide)))

theorem exec_queueResume : exec .queueResume s = .next (s.resumeQueue s.ev.queue.toNat) :=
  congrArg Host.Outcome.next ((inOrder_of_free hw.2 rfl).trans (qcmdEvent_eq h9 hb 3 (by decide)))

theorem exec_queueAbort : exec .queueAbort s = .next (s.abortQueue s.ev.queue.toNat) :=
  congrArg Host.Outcome.next ((inOrder_of_free hw.2 rfl).trans (qcmdEvent_eq h9 hb 4 (by decide)))

end

/-- The first element of a key after every element of one key has been replaced. -/
theorem find?_map_replace {α κ : Type} [DecidableEq κ] (key : α → κ) (a : α) (k : κ) (l : List α) :
    ((l.map fun x => if key x = key a then a else x).find? fun x => key x = k)
      = if k = key a then (l.find? fun x => key x = k).map fun _ => a else l.find? fun x => key x = k := by
  induction l with
  | nil => simp
  | cons x xs ih =>
    rw [List.map_cons, List.find?_cons, ih, List.find?_cons]
    by_cases hx : key x = key a
    · rw [if_pos hx, hx]
      by_cases hk : k = key a
      · simp [hk]
      · simp [hk, Ne.symm hk]
    · rw [if_neg hx]
      by_cases hk : k = key a
      · simp [hk, hx]
      · simp [hk]

theorem queue?_num {s : State} {n : Nat} {q : LQueue} (h : s.queue? n = some q) : q.num = n := by
  simpa using List.find?_some h

theorem launch?_id {s : State} {id : Dword} {l : Launch} (h : s.launch? id = some l) : l.id = id := by
  simpa using List.find?_some h

theorem queue?_putQueue (s : State) (q : LQueue) (n : Nat) :
    (s.putQueue q).queue? n = if n = q.num then (s.queue? n).map fun _ => q else s.queue? n :=
  find?_map_replace LQueue.num q n s.sch.queues

theorem queue?_putQueue_self {s : State} {n : Nat} {q x : LQueue} (h : s.queue? n = some q) (hx : x.num = q.num) :
    (s.putQueue x).queue? n = some x := by
  rw [queue?_putQueue, if_pos (hx.trans (queue?_num h)).symm, h]
  rfl

theorem launch?_putLaunch (s : State) (l : Launch) (id : Dword) :
    (s.putLaunch l).launch? id = if id = l.id then (s.launch? id).map fun _ => l else s.launch? id :=
  find?_map_replace Launch.id l id s.sch.launches

/-! ## How a launch ends (R438) -/

/-- A launch whose tiles have been halted, without a save. -/
def stopped (l : Launch) : Launch := if l.phase = .complete then l else { l with phase := .ending, stage := none }

theorem haltLaunch_launch? (s : State) (id j : Dword) :
    (s.haltLaunch id).launch? j = if j = id then (s.launch? j).map stopped else s.launch? j := by
  obtain ⟨t, ht, ⟨h, hc⟩ | ⟨l, hl, hne, h⟩⟩ := haltLaunch_cases s id
  · rw [h, show t.launch? j = s.launch? j by simp only [State.launch?, ht.sch]]
    split
    · next hj =>
      subst hj
      cases hs : s.launch? j with
      | none => rfl
      | some l => exact congrArg some (if_pos (hc l hs)).symm
    · rfl
  · have hid := launch?_id hl
    rw [h, launch?_putLaunch, show t.launch? j = s.launch? j by simp only [State.launch?, ht.sch]]
    by_cases hj : j = id
    · rw [if_pos (hj.trans hid.symm), if_pos hj, hj, hl, Option.map_some, Option.map_some, stopped, if_neg hne]
    · rw [if_neg (hid ▸ hj), if_neg hj]

/-- What the end of a launch leaves of it. -/
def endedBy (status detail role index : Nat) (l : Launch) : Launch := stopped (l.endWith status detail role index)

theorem endWith_id (l : Launch) (status detail role index : Nat) : (l.endWith status detail role index).id = l.id := by
  unfold Launch.endWith
  split <;> rfl

theorem endLaunch_launch? (s : State) (id j : Dword) (status detail role index : Nat) :
    (s.endLaunch id status detail role index).launch? j
      = if j = id then (s.launch? j).map (endedBy status detail role index) else s.launch? j := by
  unfold State.endLaunch
  split
  · next h =>
    split
    · next hj => rw [hj, h]; rfl
    · rfl
  · next l h =>
    rw [haltLaunch_launch?, launch?_putLaunch, endWith_id, launch?_id h]
    split
    · next hj => rw [hj, h]; rfl
    · rfl

theorem stopped_fields (l : Launch) : (stopped l).slotDone = l.slotDone ∧ (stopped l).result = l.result :=
  ⟨(apply_ite Launch.slotDone _ _ _).trans (ite_self _), (apply_ite Launch.result _ _ _).trans (ite_self _)⟩

/-- A launch whose status is fixed keeps it; any other takes the one it ends with. -/
theorem endedBy_result (l : Launch) (status detail role index : Nat) : (endedBy status detail role index l).result
    = if l.slotDone = true ∨ l.result.isSome = true then l.result else some (status, detail, role, index) := by
  rw [endedBy, (stopped_fields _).2, Launch.endWith]
  cases l.slotDone <;> cases hr : l.result <;> simp [hr]

/-- A launch that has not completed is ending then. -/
theorem endedBy_phase {l : Launch} (h : l.phase ≠ .complete) (status detail role index : Nat) :
    (endedBy status detail role index l).phase = .ending := by
  have hp : (l.endWith status detail role index).phase = l.phase := by
    unfold Launch.endWith
    split <;> rfl
  rw [endedBy, stopped, if_neg (hp ▸ h)]

theorem endWith_fixed {l : Launch} (h : l.slotDone = true ∨ l.result.isSome = true) (status detail role index : Nat) :
    l.endWith status detail role index = l := by
  unfold Launch.endWith
  split
  · rfl
  · rfl
  · next hs hr => simp [hs, hr] at h

theorem fixed_endWith (l : Launch) (status detail role index : Nat) :
    (l.endWith status detail role index).slotDone = true ∨ (l.endWith status detail role index).result.isSome = true := by
  unfold Launch.endWith
  split
  · next hs => exact .inl hs
  · next hr _ => exact .inr (by simp [hr])
  · exact .inr rfl

theorem stopped_idem (l : Launch) : stopped (stopped l) = stopped l := by
  by_cases h : l.phase = .complete
  · rw [stopped, stopped, if_pos h, if_pos h]
  · rw [show stopped l = { l with phase := .ending, stage := none } from if_neg h]
    rfl

/-- A launch that has ended stays as it is when it ends again. -/
theorem endedBy_idem (l : Launch) (status detail role index : Nat) :
    endedBy status detail role index (endedBy status detail role index l) = endedBy status detail role index l := by
  obtain ⟨hs, hr⟩ := stopped_fields (l.endWith status detail role index)
  unfold endedBy
  rw [endWith_fixed (by rw [hs, hr]; exact fixed_endWith l status detail role index), stopped_idem]

/-- Of several launches that end, one that is among them ends, and one that is not stays as it is. -/
theorem launch?_foldl_endLaunch {id : Dword} (status detail role index : Nat) (ids : List Dword) :
    ∀ {s : State} {l : Launch}, s.launch? id = some l →
      (ids.foldl (fun s id => s.endLaunch id status detail role index) s).launch? id
        = some (if id ∈ ids then endedBy status detail role index l else l) := by
  induction ids with
  | nil => simp
  | cons a as ih =>
    intro s l h
    have hl := endLaunch_launch? s a id status detail role index
    by_cases ha : id = a
    · rw [List.foldl_cons, ih (l := endedBy status detail role index l) (by rw [hl, if_pos ha, h]; rfl), endedBy_idem, ite_self,
        if_pos (ha ▸ List.mem_cons_self ..)]
    · rw [List.foldl_cons, ih (l := l) (by rw [hl, if_neg ha, h])]
      simp [ha]

theorem not_complete_of_wasLaunched {l : Launch} (h : l.wasLaunched = true) : l.phase ≠ .complete := by
  intro hp
  simp [Launch.wasLaunched, hp] at h

/-- The launches that an abort of a queue ends. -/
def aborted (s : State) (n : Nat) : List Dword := (s.sch.launches.filter fun l => l.queue = n ∧ l.wasLaunched ∧ !l.slotDone).map (·.id)

theorem abortQueue_eq {s : State} {n : Nat} {q : LQueue} (h : s.queue? n = some q) :
    s.abortQueue n = ((aborted s n).foldl (fun s id => s.endLaunch id 6 0 0xFF 0xFFFF) s).cmdDone n 0 := by
  simp only [State.abortQueue, h, aborted]

/-! ## Creating a queue (R54) -/

theorem descriptor_of_lost {s : State} {n : Nat} (h : s.ownLost (s.descAt n) 32 = true) : s.descriptor n = none := if_pos (.inl h)

section
variable {s : State} {n : Nat}

/-- A command that ends with a write to memory. -/
theorem cmdDone_gWrite (s : State) (pa : Nat) (bs : List Byte) (n r : Nat) : ((s.gWrite pa bs).cmdDone n r).mem = cellsWriteAll s.mem pa bs
    ∧ ((s.gWrite pa bs).cmdDone n r).sch = { s.sch with cmdQueue := n, cmdResult := r, cmdBusy := false } := ⟨rfl, rfl⟩

theorem createQueue_busy {u : Nat} (h : s.ownBusy (s.descAt n) 32 = some u) : s.createQueue n = { s.countRef with
    sch := { s.sch with cmdQueue := n, cmdResult := 0, cmdBusy := true }
    agenda := s.agenda ++ [(s.tick + hintOf u s.tick, .queueCreate, { queue := BitVec.ofNat 16 n, yes := true })] } := by
  simp only [State.createQueue, h]

theorem createQueue_bad (h : s.ownBusy (s.descAt n) 32 = none) (hd : s.descriptor n = none) : s.createQueue n = s.cmdDone n 2 := by
  simp only [State.createQueue, h, hd]

theorem createQueue_taken {q : LQueue} (h : s.ownBusy (s.descAt n) 32 = none) (hd : s.descriptor n = some q)
    (hn : (s.queue? n).isSome = true ∨ ∃ p ∈ s.sch.queues, q.overlaps p = true) : s.createQueue n = s.cmdDone n 2 := by
  simp only [State.createQueue, h, hd]
  exact if_pos (hn.imp_right List.any_eq_true.mpr)

theorem createQueue_new {q : LQueue} (h : s.ownBusy (s.descAt n) 32 = none) (hd : s.descriptor n = some q) (hn : s.queue? n = none)
    (ho : ∀ p ∈ s.sch.queues, q.overlaps p = false) :
    s.createQueue n = (State.gWrite { s with sch := { s.sch with
      queues := s.sch.queues ++ [q], journal := s.sch.journal.filter fun e => e.1.toNat / 2 ^ 48 ≠ n } } q.header (List.replicate 64 0)).cmdDone n 0 := by
  simp only [State.createQueue, h, hd]
  refine if_neg (not_or.mpr ⟨by simp [hn], ?_⟩)
  simpa [List.any_eq_true] using ho

end

/-- Of the number of a queue that has been replaced there is only the new one. -/
theorem mem_putQueue {s : State} {q x : LQueue} (hx : x ∈ (s.putQueue q).sch.queues) (hn : x.num = q.num) : x = q := by
  obtain ⟨y, -, rfl⟩ := List.mem_map.mp hx
  by_cases h : y.num = q.num
  · exact if_pos h
  · rw [if_neg h] at hn
    exact absurd hn h

/-- A queue that is destroyed takes no record any more, and the command stays busy (R54). -/
theorem destroyQueue_spec {s : State} {n : Nat} {q : LQueue} (hq : s.queue? n = some q) : (s.destroyQueue n).sch.cmdBusy = true
    ∧ (s.destroyQueue n).sch.cmdQueue = n ∧ ∀ x ∈ (s.destroyQueue n).sch.queues, x.num = n → x.destroying = true := by
  simp only [State.destroyQueue, hq]
  exact ⟨trivial, trivial, fun x hx hxn => by rw [mem_putQueue hx (hxn.trans (queue?_num hq).symm)]⟩

/-! ## Notifies (R55, R56) -/

/-- A notify that the queue refuses is discarded and counted. -/
theorem notify_discarded {s : State} {n w : Nat} {device good : Bool} {q : LQueue} (hq : s.queue? n = some q)
    (h : q.faulted = true ∨ q.head + q.size < w ∨ (device && !q.device) = true ∨ (!good) = true) :
    s.notify n w device good = s.updQueue { q with discards := min (q.discards + 1) (2 ^ 32 - 1) } := by
  simp only [State.notify, hq]
  exact if_pos h

/-- A notify that is applied raises N. -/
theorem notify_applied {s : State} {n w : Nat} {device good : Bool} {q : LQueue} (hq : s.queue? n = some q)
    (h : ¬(q.faulted = true ∨ q.head + q.size < w ∨ (device && !q.device) = true ∨ (!good) = true)) :
    ∃ x, (s.notify n w device good).queue? n = some x ∧ x.notified = max q.notified w ∧ x.lastNotify = s.tick ∧ x.head = q.head
      ∧ x.discards = q.discards ∧ (s.notify n w device good).mem = s.mem := by
  simp only [State.notify, hq]
  rw [if_neg h]
  split
  · exact ⟨_, queue?_putQueue_self hq rfl, rfl, rfl, rfl, rfl, rfl⟩
  · exact ⟨_, queue?_putQueue_self hq rfl, rfl, rfl, rfl, rfl, rfl⟩

/-- Does a notify come from a device, and is it well formed? -/
def byDevice (e : EvArg) : Bool := match e.path with | .aperture => true | .bar4 _ => false
def wellFormed (e : EvArg) : Bool := e.off % 4096 == 0 && (byDevice e || e.size == 8)

theorem byDevice_iff (e : EvArg) : byDevice e = true ↔ e.path = .aperture := by
  unfold byDevice
  cases e.path <;> simp

theorem wellFormed_iff (e : EvArg) : wellFormed e = true ↔ e.off % 4096 = 0 ∧ (e.path = .aperture ∨ e.size = 8) := by
  simp [wellFormed, byDevice_iff]

/-- While the active core is silent a notify is held. -/
theorem notifyArrives_silent {s : State} {t : Nat} (h9 : s.boot.stage = 0x09) (h : s.sch.silent = some t) :
    s.notifyArrives = { s with sch := { s.sch with
      heldNotes := s.sch.heldNotes ++ [(s.ev.off / 4096, s.ev.val.toNat, byDevice s.ev, wellFormed s.ev)] } } := by
  simp only [State.notifyArrives, State.active, ready_of_stage h9, h]
  rfl

/-- While it acts, the notify is applied or discarded. -/
theorem notifyArrives_active {s : State} (h9 : s.boot.stage = 0x09) (h : s.sch.silent = none) :
    s.notifyArrives = s.notify (s.ev.off / 4096) s.ev.val.toNat (byDevice s.ev) (wellFormed s.ev) := by
  simp only [State.notifyArrives, State.active, ready_of_stage h9, h]
  rfl

/-- Before READY a write through BAR4 leaves its value in the page. -/
theorem notifyArrives_early {s : State} (h9 : s.boot.stage ≠ 0x09) (hg : wellFormed s.ev = true) (hd : byDevice s.ev = false) :
    s.notifyArrives = { s with boot := { s.boot with pages := putKeyed (s.ev.off / 4096) s.ev.val.toNat s.boot.pages } } := by
  have hready := not_ready_of_stage h9
  unfold State.notifyArrives
  dsimp only
  rw [if_neg (by simp [State.active, hready]), if_neg (by simp [hready])]
  exact if_pos ⟨hg, by rw [← Bool.not_eq_true'] at hd; exact hd⟩

theorem exec_notifyWrite {s : State} (hy : s.ev.yes = false) (hp : ∀ p, s.ev.path = .bar4 p → s.portHeld p = false) :
    exec .notifyWrite s = .next s.notifyArrives := by
  cases hpath : s.ev.path with
  | aperture => simp only [exec, execNotifyWrite, hpath, hy, Bool.false_eq_true, if_false]
  | bar4 p =>
    have hport : portOfWrite .notifyWrite s.ev = p := by simp only [portOfWrite, hpath]
    simp only [exec, execNotifyWrite, hpath, hy]
    exact congrArg _ (inOrder_of_free (hport ▸ hp p hpath) rfl)

/-! ## Records (R58, R59) -/

section
variable {s : State} {q : LQueue}

/-- What has not arrived is read again within 3,400 ticks. -/
theorem notArrived_spec (h : s.queue? q.num = some q) (from_ : Nat) : ∃ x, (s.notArrived q from_).queue? q.num = some x ∧ x.rd = none
    ∧ x.fails = 0 ∧ x.head = q.head ∧ x.item = q.item ∧ s.tick < x.reread ∧ x.reread ≤ s.tick + 3400 := by
  have hlt := Nat.mod_lt (Config.delay s.free) (show 0 < max 1 (3400 - (s.tick - from_)) by omega)
  exact ⟨_, queue?_putQueue_self h rfl, rfl, rfl, rfl, rfl, by dsimp only; omega, by dsimp only; omega⟩

/-- Does the mark of the head record name it now? What cannot be read names nothing. -/
def markSeen (s : State) (q : LQueue) : Bool :=
  !s.ownLost (q.base + 128 * (q.head % q.size)) 128
    && leNat (s.gRead (q.base + 128 * (q.head % q.size) + 0x78) 8) == (q.head + 1) % 2 ^ 64

/-- A part of the record has been read; the next one is read a free time later. -/
def readOn (s : State) (q : LQueue) (part : Nat × Option (List Byte)) : State :=
  { s.putQueue { q with rd := some part, reread := s.tick + Config.delay s.free % 1700 } with free := s.free + 1 }

theorem readOn_spec (h : s.queue? q.num = some q) (part : Nat × Option (List Byte)) : ∃ x, (readOn s q part).queue? q.num = some x
    ∧ x.rd = some part ∧ x.head = q.head ∧ x.item = q.item ∧ x.fails = q.fails ∧ s.tick ≤ x.reread ∧ x.reread < s.tick + 1700 := by
  have hlt := Nat.mod_lt (Config.delay s.free) (show 0 < 1700 by decide)
  exact ⟨_, queue?_putQueue_self h rfl, rfl, rfl, rfl, rfl, by dsimp only; omega, by dsimp only; omega⟩

theorem recordStep_busy {u : Nat} (h : s.ownBusy (q.base + 128 * (q.head % q.size)) 128 = some u) :
    s.recordStep q = s.countRef.putQueue { q with rd := none, reread := s.tick + hintOf u s.tick } := by
  simp only [State.recordStep, h]

variable (hb : s.ownBusy (q.base + 128 * (q.head % q.size)) 128 = none)
include hb

theorem recordStep_mark (hr : q.rd = none) :
    s.recordStep q = if markSeen s q then readOn s q (s.tick, none) else s.notArrived q s.tick := by
  simp only [State.recordStep, hb, hr]
  rfl

theorem recordStep_body {t0 : Nat} (hr : q.rd = some (t0, none)) :
    s.recordStep q = readOn s q (t0, some (s.gRead (q.base + 128 * (q.head % q.size)) 0x78)) := by
  simp only [State.recordStep, hb, hr]
  rfl

theorem recordStep_end {t0 : Nat} {bs : List Byte} (hr : q.rd = some (t0, some bs)) :
    s.recordStep q = if (!markSeen s q) = true then s.notArrived q t0
      else if crc32c (bs.take 0x74) ≠ BitVec.ofNat 32 (imgField bs 0x74 4) then s.schedBusy.failedSum q
      else s.schedBusy.checkRecord { q with rd := none, fails := 0 } (bs ++ natLe (q.head + 1) 8) := by
  simp only [State.recordStep, hb, hr]
  rfl

end

/-- A queue whose head record may be read: its image is, where it is accepted, and its next part, where it is not. -/
theorem exec_recordRead {s : State} {q : LQueue} (hq : s.queue? s.ev.queue.toNat = some q) (hm : q.mapped = true) (hf : q.faulted = false)
    (hd : q.destroying = false) (hi : q.item = none) (hn : q.head < q.notified) (ht : q.reread ≤ s.tick) :
    (∀ bs, q.accepted = some bs → exec .recordRead s = .next (s.schedBusy.checkImage q bs))
      ∧ (q.accepted = none → exec .recordRead s = .next (s.recordStep q)) := by
  have hgo : ¬((!q.mapped) = true ∨ q.faulted = true ∨ q.destroying = true ∨ q.item.isSome = true ∨ q.notified ≤ q.head ∨ s.tick < q.reread) := by
    simp only [hm, hf, hd, hi]
    simp
    omega
  refine ⟨fun bs ha => ?_, fun ha => ?_⟩
  · simp only [exec, execRecordRead, hq, if_neg hgo, ha]
  · simp only [exec, execRecordRead, hq, if_neg hgo, ha]

/-- Settles O53, event by event: each access is reduced to what its register, home or queue command does, and the draw, the end of a launch and the parts of a record each have their lemma. -/
theorem hostEvents : Obligations.HostEvents := by
  refine ⟨?write, ?waits, ?drain, ?reservedWrite, ?read, ?bar2, ?cap, fun s ht hr => samplePower_met ht hr, ?deadline, ?command,
    ?create, ?onQueue, ?ending, ?destroyed, ?notify, ?page, ?map, ?record⟩
  case write =>
    intro s h2 off size v b o open_ kept' hp
    rw [exec_registerWrite hp]
    refine ⟨fun ha => congrArg _ (hostWrite_unsupported h2 ha), fun ha hn => congrArg _ (hostWrite_reserved h2 ha hn),
      fun ha hn hc => congrArg _ ?_, fun ha hn ho hwo => congrArg _ ?_, fun ha hn ho hrw => ?_⟩
    · by_cases ho : b.early = true ∨ s.boot.stage = 0x09
      · rw [hostWrite_open h2 ha hn ho, hc.resolve_left (not_not.mpr ho)]
      · exact hostWrite_closed h2 ha hn ho
    · rw [hostWrite_open h2 ha hn ho, hwo]
    · have hv : v < 2 ^ 64 := s.ev.val.isLt
      refine ⟨merged off size v (kept s b o) % 2 ^ 64, by omega, by rw [hostWrite_open h2 ha hn ho, hrw], fun h8 => ?_, fun h8 h0 => ?_, fun h8 h0 => ?_⟩
      · rw [merged, if_pos h8]
      · rw [merged, if_neg h8, if_pos h0, show kept' = kept s b o from rfl]
        omega
      · rw [merged, if_neg h8, if_neg h0, show kept' = kept s b o from rfl]
        omega
  case waits =>
    intro s i hi hy hp
    obtain ⟨hexec, hport⟩ := exec_portWrite hi hy
    rw [hexec, inOrder_of_held (hport ▸ hp)]
    rfl
  case drain =>
    intro s p n x hx
    refine ⟨fun hh => ?_, fun h hh => ?_⟩
    · simp only [State.drainPort, hx, hh]
    · simp only [State.drainPort, hx, hh]
  case reservedWrite =>
    intro s bs h2 hreq
    have hexec : exec .reservedAccess s = .next (s.inOrder .reservedAccess) := by simp only [exec, execReservedAccess, hreq]
    have hperf : s.hostPerform .reservedAccess = s.hostWrite s.ev.port s.ev.off bs.length (leNat bs) := by simp only [State.hostPerform, hreq]
    refine ⟨fun hp => ?_, fun hp ha hn => ?_, fun hp ha => ?_⟩
    · rw [hexec, inOrder_of_held hp]
      rfl
    · rw [hexec, inOrder_of_free hp rfl, hperf, hostWrite_reserved h2 ha hn]
    · rw [hexec, inOrder_of_free hp rfl, hperf, hostWrite_unsupported h2 ha]
  case read =>
    intro s n h2 hreq off b o data
    have hexec : exec .reservedAccess s = .next (s.hostRead off n) := by simp only [exec, execReservedAccess, hreq, off]
    rw [hexec]
    refine ⟨fun ha => congrArg _ (hostRead_unsupported h2 ha), fun ha hn => congrArg _ (hostRead_reserved h2 ha hn), fun ha hn ho => ?_,
      fun ha hn he h9 hf => ?_, fun ha hn hf he => ?_⟩
    · rw [hostRead_named h2 ha hn, if_pos ((answers_iff s b).mpr (ho.imp_right .inl))]
      rfl
    · have hpow : b ≠ .power := fun h => by simp [h, Bar.early] at he
      rw [hostRead_named h2 ha hn, if_neg (mt (answers_iff s b).mp (by simp [he, h9, hf])), looked_of_ne _ hpow]
      rfl
    · have hpow : b ≠ .power := fun h => by simp [h] at he
      rw [hostRead_named h2 ha hn, if_pos ((answers_iff s b).mpr (.inr (.inr ⟨hf, he⟩))), looked_of_ne _ hpow]
      rfl
  case bar2 =>
    intro s e
    refine ⟨fun hy hs => ?_, fun hy hw => ?_, fun hy hw h2 hs => ?_⟩
    · simp only [exec, execBar2Access, e, hy, hs, if_true]
    · simp only [exec, execBar2Access, hy, hw, Bool.false_eq_true, if_false, if_true, e]
    · have hopen : ¬(s.boot.stage < 2 ∨ s.boot.span < e.off + reqSize e.req) := by omega
      have hmap : s.stagingMapped = true → s.hostHint .bar2Access = none := fun hm => if_pos hm
      have hwin : s.stagingMapped = false → s.hostHint .bar2Access = s.windowHint e.off e.req := fun hm => if_neg (by simp [hm])
      refine ⟨fun hl => ?_, fun hl hm hp => ?_, fun hl hm hp hh => ?_, fun n hl hm hh => ⟨fun hn => ?_, fun hwr hp => ?_⟩, fun hl hwr hp => ?_⟩
      · simp only [exec, execBar2Access, hy, hw, hopen, hl, Bool.false_eq_true, Bool.not_false, if_false, if_true, e]
      · rw [exec_bar2_free hy hw h2 hs hl hp (hmap hm), State.bar2Perform, if_pos hm]
      · rw [exec_bar2_free hy hw h2 hs hl hp ((hwin hm).trans hh), State.bar2Perform, if_neg (by simp [hm])]
      · exact (exec_bar2_other hy hw h2 hs hl hn).2 n ((hwin hm).trans hh)
      · rw [exec_bar2_write hy hw h2 hs hl hwr, inOrder_of_hint hp ((hwin hm).trans hh)]
        rfl
      · rw [exec_bar2_write hy hw h2 hs hl hwr, inOrder_of_held hp]
        rfl
  case cap =>
    intro s h2 hw
    have hexec : exec .pwrcapWrite s = .next (s.capWrite s.ev.val.toNat) :=
      congrArg Host.Outcome.next ((inOrder_of_free hw.2 rfl).trans (if_pos h2))
    obtain ⟨hat, hcap, hdraw, hover, hon, hoff⟩ := capWrite_spec s s.ev.val.toNat
    obtain ⟨hlo, hhi, hstep, hself⟩ := capOf_spec s.ev.val.toNat s.free
    exact ⟨_, hexec, hat, hdraw, hcap ▸ hlo, hcap ▸ hhi, hcap ▸ hstep, fun hm hl hh => hcap.trans (hself hm hl hh), hover, hon, hoff⟩
  case deadline =>
    intro s d hu ht
    simp only [exec, execCapDeadline, hu, if_neg (not_lt.mpr ht)]
    generalize s.samplePower = u
    by_cases hover : u.overCap = true
    · simp only [hover, Bool.not_true, Bool.false_eq_true, if_false, if_true]
      exact ⟨_, rfl, rfl⟩
    · simp only [hover, Bool.false_eq_true, if_false]
      exact ⟨_, if_pos (by simp), rfl, rfl, rfl⟩
  case command =>
    rintro s v h9 hw hoff hsize rfl
    rw [exec_registerWrite_qcmd h9 hw hoff hsize]
    exact ⟨fun hb => congrArg _ (if_pos hb), fun hb hres => congrArg _ (qcmd_reserved hb hres)⟩
  case create =>
    intro s n hauth
    have hexec : exec .queueCreate s = .next (s.createQueue n) := by
      rcases hauth with hy | ⟨hw, h9, hb⟩
      · exact congrArg Host.Outcome.next (if_pos hy)
      · exact exec_queueCreate_host hw h9 hb
    rw [hexec]
    refine ⟨fun u hu => congrArg _ (createQueue_busy hu), fun hb hd => congrArg _ (createQueue_bad hb hd), descriptor_of_lost,
      fun hb q hd ht => congrArg _ (createQueue_taken hb hd ht), fun hb q hd hn ho => ⟨_, congrArg _ (createQueue_new hb hd hn ho), ?_⟩⟩
    rw [(cmdDone_gWrite ..).2, (cmdDone_gWrite ..).1]
    exact ⟨rfl, rfl, rfl, rfl, rfl⟩
  case onQueue =>
    intro s hw h9 hb n gone
    rw [exec_queueDestroy hw h9 hb, exec_queueResume hw h9 hb, exec_queueAbort hw h9 hb]
    refine ⟨fun hg => ?_, fun q hq => ⟨⟨_, rfl, ?_⟩, fun hf => ?_, fun hf => ?_, ⟨_, rfl, ?_⟩, fun hnone => ?_⟩⟩
    · have hg' : s.queue? s.ev.queue.toNat = none := hg
      simp only [State.destroyQueue, State.resumeQueue, State.abortQueue, hg']
      exact ⟨rfl, rfl, rfl⟩
    · exact destroyQueue_spec hq
    · simp only [State.resumeQueue, n, hq, hf, Bool.false_eq_true, if_false]
    · simp only [State.resumeQueue, n, hq, hf, if_true]
    · rw [abortQueue_eq hq]
      refine ⟨rfl, rfl, fun l hl hln hfirst => ?_⟩
      have hend := launch?_foldl_endLaunch 6 0 0xFF 0xFFFF (aborted s n) hfirst
      refine ⟨fun hwas hslot hres => ⟨_, hend, ?_⟩, fun hfix => ⟨_, hend, ?_⟩⟩
      · have hmem : l.id ∈ aborted s n := List.mem_map.mpr ⟨l, List.mem_filter.mpr ⟨hl, by simp [hln, hwas, hslot]⟩, rfl⟩
        rw [if_pos hmem, endedBy_result, if_neg (by simp [hslot, hres])]
        exact ⟨rfl, endedBy_phase (not_complete_of_wasLaunched hwas) ..⟩
      · split
        · rw [endedBy_result, if_pos hfix]
        · rfl
    · have hids : aborted s n = [] := by
        simp only [aborted, List.map_eq_nil_iff, List.filter_eq_nil_iff]
        exact fun l hl => by simp [hnone l hl]
      rw [abortQueue_eq hq, hids]
      rfl
  case ending =>
    intro s l h hr hs hp
    refine ⟨endedBy 6 0 0xFF 0xFFFF l, by rw [endLaunch_launch?, if_pos rfl, h]; rfl, ?_, endedBy_phase hp ..⟩
    rw [endedBy_result, if_neg (by simp [hr, hs])]
  case destroyed =>
    intro s n h
    simp only [exec, execQueueDestroyComplete, h]
    exact ⟨_, rfl, fun q hq => by simpa using (List.mem_filter.mp hq).2, rfl, rfl, rfl⟩
  case notify =>
    intro s q n device good w hq h9 hy hp
    have hwf : wellFormed s.ev = decide good := by
      rw [Bool.eq_iff_iff, decide_eq_true_iff]
      exact wellFormed_iff _
    have hrefused : (q.faulted = true ∨ q.head + q.size < w ∨ (byDevice s.ev && !q.device) = true ∨ (!wellFormed s.ev) = true)
        ↔ (q.faulted = true ∨ q.head + q.size < w ∨ (device ∧ q.device = false) ∨ ¬good) := by
      rw [Bool.and_eq_true, byDevice_iff, Bool.not_eq_true', Bool.not_eq_true', ← Bool.not_eq_true (wellFormed _), wellFormed_iff]
    rw [exec_notifyWrite hy hp]
    refine ⟨fun t0 h => ⟨byDevice s.ev, ?_, byDevice_iff _⟩, fun h hbad => ?_, fun h hf hle hdev hgood => ?_⟩
    · rw [notifyArrives_silent h9 h, hwf]
    · rw [notifyArrives_active h9 h, notify_discarded hq (hrefused.mpr hbad)]
    · rw [notifyArrives_active h9 h]
      obtain ⟨x, hx⟩ := notify_applied hq (mt hrefused.mp (by
        rintro (h' | h' | ⟨h', hd⟩ | h')
        · simp [hf] at h'
        · omega
        · simp [hdev h'] at hd
        · exact h' hgood))
      exact ⟨_, x, rfl, hx⟩
  case page =>
    intro s p n hpath hoff hsize
    refine ⟨fun q hq h9 hy => ?_, fun h9 hy hp => ?_⟩
    · simp only [exec, execNotifyWrite, hpath, hy]
      rw [show s.queue? (s.ev.off / 4096) = some q from hq]
      simp [hoff, hsize, ready_of_stage h9]
    · have hd : byDevice s.ev = false := by simp [byDevice, hpath]
      rw [exec_notifyWrite hy (fun p' h' => by cases hpath.symm.trans h'; exact hp),
        notifyArrives_early h9 ((wellFormed_iff _).mpr ⟨hoff, .inr hsize⟩) hd]
  case map =>
    intro s q hq hm
    refine ⟨fun h => ?_, fun h p hp => ?_, fun h hp => ?_⟩
    · simp only [exec, execQueueMap, hq, hm, h, Bool.false_eq_true, if_false, if_true]
    · simp only [exec, execQueueMap, hq, hm, if_neg (not_lt.mpr h), hp, Bool.false_eq_true, if_false]
    · simp only [exec, execQueueMap, hq, hm, if_neg (not_lt.mpr h), hp, Bool.false_eq_true, if_false]
  case record =>
    intro s q hq hm hf hd hi hn ht a marked whole goesOn notYet
    obtain ⟨haccepted, hstep⟩ := exec_recordRead hq hm hf hd hi hn ht
    have hself : s.queue? q.num = some q := (queue?_num hq).symm ▸ hq
    have hlater : ∀ from_, exec .recordRead s = .next (s.notArrived q from_) → notYet := fun from_ h => by
      obtain ⟨x, hx, hrd, hfails, hhead, hitem, hlo, hhi⟩ := notArrived_spec hself from_
      exact ⟨_, x, h, hx, hrd, hfails, hhead, hitem.trans hi, hlo, hhi⟩
    have hon : ∀ part, exec .recordRead s = .next (readOn s q part) → goesOn part := fun part h => by
      obtain ⟨x, hx, hrd, hhead, hitem, hfails, hlo, hhi⟩ := readOn_spec hself part
      exact ⟨_, x, h, hx, hrd, hhead, hitem.trans hi, hfails, hlo, hhi⟩
    refine ⟨haccepted, fun ha hb hlost hr => ?_, fun u ha hb => ?_, fun ha hlost hb => ?_⟩
    · have hmark : markSeen s q = false := by simp [markSeen, show s.ownLost (q.base + 128 * (q.head % q.size)) 128 = true from hlost]
      exact hlater s.tick (by rw [hstep ha, recordStep_mark hb hr, hmark, if_neg Bool.false_ne_true])
    · rw [hstep ha, recordStep_busy hb]
    · have hmark : markSeen s q = true ↔ marked := by
        simp [markSeen, marked, a, show s.ownLost (q.base + 128 * (q.head % q.size)) 128 = false from hlost]
      refine ⟨fun hr => ⟨fun hk => ?_, fun hk => ?_⟩, fun t0 hr => ?_, fun t0 bs hr => ?_⟩
      · exact hon _ (by rw [hstep ha, recordStep_mark hb hr, if_pos (hmark.mpr hk)])
      · exact hlater s.tick (by rw [hstep ha, recordStep_mark hb hr, if_neg (mt hmark.mp hk)])
      · exact hon _ (by rw [hstep ha, recordStep_body hb hr])
      · have hend := hstep ha
        rw [recordStep_end hb hr] at hend
        refine ⟨fun hk => ?_, fun hk hw h15 => ?_, fun hk hw h15 => ?_, fun hk hw => ?_⟩
        · exact hlater t0 (hend.trans (congrArg _ (if_pos (by simpa using mt hmark.mp hk))))
        all_goals rw [hend, if_neg (by simpa using hmark.mpr hk)]
        · rw [if_pos hw, State.failedSum, if_pos h15]
        · rw [if_pos hw, State.failedSum, if_neg h15]
          rfl
        · rw [if_neg (not_not.mpr hw)]

end Sys2Proof.Proofs.HostAccess
end

section
/-! PROOF. Launches: the links to the leaves, placement, start, completion, takeover, staging and the switch. -/

namespace Sys2Proof.Proofs.Launches

open Sys2Proof.Machine
open Sys2Proof.Proofs.BringUp Sys2Proof.Proofs.HostAccess

/-! ## Lists and bytes -/

theorem le_foldl_max {α : Type} (f : α → Nat) (l : List α) :
    ∀ d, d ≤ l.foldl (fun d x => max d (f x)) d ∧ ∀ x ∈ l, f x ≤ l.foldl (fun d x => max d (f x)) d := by
  induction l with
  | nil => simp
  | cons y ys ih =>
    intro d
    obtain ⟨hstart, hrest⟩ := ih (max d (f y))
    rw [List.foldl_cons]
    refine ⟨by omega, fun x hx => ?_⟩
    rcases List.mem_cons.mp hx with rfl | hx
    · omega
    · exact hrest x hx

@[simp] theorem natLe_length (n : Nat) : ∀ v, (natLe v n).length = n := by
  induction n with
  | zero => exact fun _ => rfl
  | succ n ih => exact fun v => congrArg (· + 1) (ih (v / 256))

/-- Reading a byte that a write at consecutive addresses has written. -/
theorem cellsRead_writeAll {bs : List Byte} : ∀ {m : List Host.Cell} {a k : Nat}, cellsWf m = true → k < bs.length →
    cellsRead (cellsWriteAll m a bs) (a + k) = bs.getD k 0 := by
  induction bs with
  | nil => exact fun _ hk => absurd hk (Nat.not_lt_zero _)
  | cons x xs ih =>
    intro m a k h hk
    unfold cellsWriteAll
    cases k with
    | zero =>
      rw [Laws.cellsRead_writeAll_other (Laws.cellsWf_write h) (by omega), Laws.cellsRead_write h, if_pos (Nat.add_zero a)]
      rfl
    | succ k =>
      rw [← Nat.add_assoc, Nat.add_right_comm, ih (Laws.cellsWf_write h) (Nat.lt_of_succ_lt_succ hk)]
      rfl

/-! ## Messages (R70) -/

/-- A message that leaves now comes after this tick, and after every message before it on its link. -/
theorem msgDue_spec (s : State) (c : Nat) (down : Bool) :
    s.tick < s.msgDue c down ∧ ∀ x ∈ s.sch.msgs, x.cluster = c → x.msg.down = down → x.due ≤ s.msgDue c down := by
  refine ⟨lt_max_of_lt_right (by omega), fun x hx hc hd => le_max_of_le_left ?_⟩
  exact (le_foldl_max LinkMsg.due _ 0).2 x (List.mem_filter.mpr ⟨hx, by simp [LinkMsg.on, hc, hd]⟩)

theorem sendMsg_of_permit {s : State} {c : Nat} {m : LMsg} (l : Dword) (h : s.hasPermit c m.down = true) :
    (s.sendMsg c l m).sch.msgs = s.sch.msgs ++ [{ cluster := c, msg := m, launch := l, due := s.msgDue c m.down }] := by
  simp only [State.sendMsg, h, if_true]

theorem sendMsg_waits {s : State} {c : Nat} {m : LMsg} (l : Dword) (h : s.hasPermit c m.down = false) :
    (s.sendMsg c l m).sch.msgs = s.sch.msgs ++ [{ cluster := c, msg := m, launch := l, due := 0, waits := true }] := by
  simp only [State.sendMsg, h, Bool.false_eq_true, if_false]

/-! ## Placement (R77, R92) -/

/-- A leaf that drains or is held, or on whose cluster a quad of the launch is unfit, reserves nothing. -/
theorem not_leafCan {s : State} {l : Launch} {c : Nat}
    (h : c ∈ s.draining ∨ c ∈ s.boot.held ∨ ∃ q ∈ l.quads, clusterOf q = c ∧ s.unfit q = true) : s.leafCan l c = false := by
  rw [← Bool.not_eq_true]
  simp only [State.leafCan, Bool.and_eq_true, Bool.not_eq_true', List.contains_eq_mem, decide_eq_false_iff_not, List.all_eq_true,
    List.mem_filter, decide_eq_true_eq]
  rintro ⟨⟨hdrain, hheld⟩, hquads⟩
  obtain h | h | ⟨q, hq, hc, hu⟩ := h
  · exact hdrain h
  · exact hheld h
  · simpa [hu] using hquads q ⟨hq, hc⟩

/-- Once every leaf has answered PLACED and has a permit, START is sent. -/
theorem placeAnswered_all {s : State} {l : Launch} (hphase : l.phase = .placing) (hload : l.load = none)
    (hfit : ∀ c ∈ l.clusters, c ∉ l.nofit) (hplaced : ∀ c ∈ s.leavesOf l, c ∈ l.placed)
    (hpermit : ∀ c ∈ s.leavesOf l, s.hasPermit c true = true) : s.placeAnswered l = (s.putLaunch l).startLaunch l := by
  have hanswered : (((s.putLaunch l).leavesOf l).all fun c => l.placed.contains c || l.nofit.contains c) = true :=
    List.all_eq_true.mpr fun c hc => by simp [hplaced c hc]
  have hrefused : ¬(l.clusters.any l.nofit.contains) = true := by simpa using hfit
  have hready : (((s.putLaunch l).leavesOf l).all fun c => (s.putLaunch l).hasPermit c true) = true := List.all_eq_true.mpr hpermit
  simp only [State.placeAnswered]
  rw [if_neg (not_or.mpr ⟨not_not.mpr hphase, by rw [hanswered]; decide⟩), if_neg hrefused, hload]
  exact if_pos hready

/-! ## Start (R67, R70) -/

theorem takeHead_msgs (s : State) (l : Launch) : (s.takeHead l).sch.msgs = s.sch.msgs := by
  unfold State.takeHead
  split
  · rfl
  · split <;> rfl

/-- The leaves of a launch with the ticks at which they consume START, and the tick that START names. -/
def startDues (s : State) (l : Launch) : List (Nat × Nat) :=
  (s.leavesOf l).zipIdx.map fun x => (x.1, max (s.lastDue x.1 true) (s.tick + 1 + Config.delay (s.free + x.2)))

def startTick (s : State) (l : Launch) : Nat := 1 + (startDues s l).foldl (fun m x => max m x.2) s.tick

/-- A launch starts with one START to each leaf; all name the same tick. -/
theorem startLaunch_msgs (s : State) (l : Launch) : (s.startLaunch l).sch.msgs =
    s.sch.msgs ++ (startDues s l).map fun x => { cluster := x.1, msg := .start (startTick s l), launch := l.id, due := x.2 } := by
  have h : (if l.restoring then s.moveAll l else s.takeHead l).sch.msgs = s.sch.msgs := by
    split
    · rfl
    · exact takeHead_msgs s l
  exact congrArg (· ++ _) h

/-- The tick that START names comes after every leaf has consumed it. -/
theorem due_lt_startTick {s : State} {l : Launch} {x : Nat × Nat} (hx : x ∈ startDues s l) : x.2 < startTick s l :=
  Nat.lt_one_add_iff.mpr ((le_foldl_max Prod.snd _ s.tick).2 x hx)

theorem startAt_frozen (t : Tile) (tick : Nat) : (t.startAt tick).frozen = false := by
  simp only [Tile.startAt]
  split <;> rfl

theorem le_startAt_ready (t : Tile) (tick : Nat) : tick ≤ (t.startAt tick).ready := by
  simp only [Tile.startAt]
  split <;> exact le_max_right ..

/-- A strand that has not started is live from START on. -/
theorem startAt_live {t : Tile} (tick : Nat) (hr : t.role.isSome = true) (hb : (t.bank 0).life = .unstarted) :
    ((t.startAt tick).bank 0).life = .live := by
  unfold Tile.startAt
  rw [if_pos ⟨hr, hb⟩, Laws.bank_onBank]

/-! ## Completion (R68, R448) -/

theorem onUnit_tick (s : State) (d : Nat) (f : AUnit → AUnit) : (s.onUnit d f).tick = s.tick := rfl

theorem gWrite_tick (s : State) (pa : Nat) (bs : List Byte) : (s.gWrite pa bs).tick = s.tick := rfl

theorem logOff_tick (s : State) (id : Dword) : (s.logOff id).tick = s.tick := by
  refine List.foldlRecOn (motive := fun t : State => t.tick = s.tick) _ _ rfl fun t h d _ => ?_
  split
  · split
    · exact h
    · rw [onUnit_tick, gWrite_tick, h]
  · exact h

theorem gateOff_tick (s : State) (id : Dword) : (s.gateOff id).tick = s.tick := by
  refine List.foldlRecOn (motive := fun t : State => t.tick = s.tick) _ _ rfl fun t h d _ => ?_
  split
  · split
    · exact (onUnit_tick ..).trans h
    · exact h
  · exact h

theorem writeStatus_tick (s : State) (l : Launch) (r : Nat × Nat × Nat × Nat) : (s.writeStatus l r).tick = s.tick := by
  unfold State.writeStatus
  split
  · rfl
  · split <;> rfl

/-- A completion first writes the status slot, unless an earlier try has: logging and the gate go off, and the slot is written. -/
def slotWritten (s : State) (l : Launch) (r : Nat × Nat × Nat × Nat) : State :=
  if l.slotDone then s else ((s.logOff l.id).gateOff l.id).writeStatus l r

theorem slotWritten_tick (s : State) (l : Launch) (r : Nat × Nat × Nat × Nat) : (slotWritten s l r).tick = s.tick := by
  unfold slotWritten
  split
  · rfl
  · rw [writeStatus_tick, gateOff_tick, logOff_tick]

section
variable {s : State} {l : Launch} (hdue : s.dueCompletion = some l.id) (hl : s.launch? l.id = some l)
include hdue hl

theorem completionWrite_busy {u : Nat} (hb : s.slotBusy l = some u) :
    exec .completionWrite s = .next (s.countRef.putLaunch { l with due := s.tick + hintOf u s.tick }) := by
  simp only [exec, execCompletionWrite, hdue, hl, hb]

/-- With the slot written, a launch without a semaphore is complete, and one with a semaphore is when its store is done. -/
theorem completionWrite_free (hb : s.slotBusy l = none) :
    let r := l.result.getD (1, 0, 0xFF, 0xFFFF)
    let s1 := slotWritten s l r
    let l1 : Launch := { l with slotDone := true, result := some r }
    exec .completionWrite s = if !l.rcd.done then .next (s1.closeLaunch l1 r.1).schedBusy
      else match s1.schedAccess l.rcd.asid l.rcd.sem 8 .wr with
        | .refuse h => .next (s1.countRef.putLaunch { l1 with due := s1.tick + h })
        | .ok u pa _ _ => .next ((u.semStore pa l.rcd.semVal).closeLaunch l1 r.1).schedBusy
        | .fault c => .next (((match s1.queue? l.queue with | some q => s1.updQueue (q.semFailed l.index c) | none => s1).closeLaunch l1 r.1).schedBusy) := by
  simp only [exec, execCompletionWrite, hdue, hl, hb]
  rfl

end

/-- The status slot of a launch holds the 16 bytes of Table 3.7. -/
theorem byteAt_writeStatus {s : State} {l : Launch} {a k : Nat} (r : Nat × Nat × Nat × Nat) (ha : s.slotOf l = some a)
    (hwf : cellsWf s.mem = true) (hlost : s.ownLost a 16 = false) (hk : k < 16) : (s.writeStatus l r).byteAt (a + k) =
      (natLe l.index 8 ++ natLe r.1 1 ++ natLe r.2.1 1 ++ natLe r.2.2.1 1 ++ [0] ++ natLe r.2.2.2 2 ++ [0, 0]).getD k 0 := by
  simp only [State.writeStatus, ha, hlost, Bool.false_eq_true, if_false]
  exact cellsRead_writeAll hwf (by simpa using hk)

/-! ## Takeover (R69) -/

/-- Of the scheduler a notify can change the queues alone. -/
theorem notify_eq (s : State) (n w : Nat) (device good : Bool) : ∃ qs m b a f,
    s.notify n w device good = { s with sch := { s.sch with queues := qs }, mem := m, badMem := b, agenda := a, free := f } := by
  unfold State.notify
  split
  · exact ⟨s.sch.queues, s.mem, s.badMem, s.agenda, s.free, rfl⟩
  · split
    · exact ⟨_, _, _, s.agenda, s.free, rfl⟩
    · dsimp only
      split
      · exact ⟨_, s.mem, s.badMem, s.agenda, _, rfl⟩
      · exact ⟨_, s.mem, s.badMem, _, _, rfl⟩

theorem takeover_eq (s : State) : ∃ qs m b a f, s.takeover = { s with
    boot := { s.boot with sched := if s.boot.sched = 0 then 2 else 0 }
    sch := { s.sch with takeovers := s.sch.takeovers + 1, standby := false, silent := none, heldNotes := [], queues := qs }
    mem := m, badMem := b, agenda := a, free := f } := by
  refine List.foldlRecOn (motive := fun t : State => ∃ qs m b a f, t = { s with
    boot := { s.boot with sched := if s.boot.sched = 0 then 2 else 0 }
    sch := { s.sch with takeovers := s.sch.takeovers + 1, standby := false, silent := none, heldNotes := [], queues := qs }
    mem := m, badMem := b, agenda := a, free := f }) _ _ ⟨_, s.mem, s.badMem, s.agenda, s.free, rfl⟩ ?_
  rintro t ⟨qs, m, b, a, f, rfl⟩ x _
  obtain ⟨qs', m', b', a', f', h⟩ := notify_eq _ x.1 x.2.1 x.2.2.1 x.2.2.2
  exact ⟨qs', m', b', a', f', h⟩

/-- Without notifies that were held, a head record without a launch is taken again. -/
theorem takeover_queues {s : State} (h : s.sch.heldNotes = []) : s.takeover.sch.queues =
    s.sch.queues.map fun q => if (s.launch? (q.launchId q.head)).isSome then q else q.takenAgain s.tick := by
  simp only [State.takeover, h, List.foldl_nil]

/-- A takeover keeps the index of a queue's head record, so a queue whose head has no launch is one that was taken again. -/
theorem takenAgain_of_mem_takeover {s : State} {q : LQueue} (h : s.sch.heldNotes = []) (hq : q ∈ s.takeover.sch.queues)
    (hn : (s.launch? (q.launchId q.head)).isNone = true) : ∃ p : LQueue, q = p.takenAgain s.tick := by
  rw [takeover_queues h] at hq
  obtain ⟨p, -, rfl⟩ := List.mem_map.mp hq
  split at hn
  · next hp => rw [Option.isNone_iff_eq_none.mp hn] at hp; exact absurd hp Bool.false_ne_true
  · next hp => exact ⟨p, if_neg hp⟩

/-! ## A new place (R64) -/

theorem moveTo_place (l : Launch) (at_ : List (Nat × Nat × Nat)) : (l.moveTo at_).place = at_ := by
  unfold Launch.moveTo
  dsimp only
  split <;> rfl

/-- A launch that has triggered everywhere has at its new place too. -/
theorem moveTo_trig_all {l : Launch} (at_ : List (Nat × Nat × Nat)) (hne : l.trig ≠ []) (hall : ∀ c ∈ l.clusters, c ∈ l.trig) :
    (l.moveTo at_).trig = (l.moveTo at_).clusters := by
  have h : (!l.trig.isEmpty && l.clusters.all l.trig.contains) = true := by simpa [hne] using hall
  simp only [Launch.moveTo, h, if_true]
  rfl

theorem moveTo_trig_some {l : Launch} (at_ : List (Nat × Nat × Nat)) (h : ∃ c ∈ l.clusters, c ∉ l.trig) : (l.moveTo at_).trig = [] := by
  have h : (!l.trig.isEmpty && l.clusters.all l.trig.contains) = false := by simpa using fun _ => h
  simp only [Launch.moveTo, h, Bool.false_eq_true, if_false]

/-! ## Staging (R114) -/

/-- The launch of a head record that is staged on a producer at its place. -/
def dependant (s : State) (q : LQueue) (h : QHead) (producer : Dword) (at_ : List (Nat × Nat × Nat)) : Launch :=
  { s.newLaunch q h at_ with phase := .staged, stage := some { on := producer } }

theorem dependant_place (s : State) (q : LQueue) (h : QHead) (producer : Dword) (at_ : List (Nat × Nat × Nat)) :
    (dependant s q h producer at_).place = at_ := rfl

/-- A staged launch is entered, and its code stands in the shadow halves of its quads. -/
def loadShadow (s : State) (l : Launch) : State :=
  { s with
    sch := { s.sch with launches := s.sch.launches ++ [l], orders := s.sch.orders + 1 }
    quads := s.quads.map fun x => if l.quads.contains x.addr then { x with shadow := quadCode l.img (quadRoles l.seats x.addr), badShadow := [] } else x }

/-- Loading the shadow halves leaves the active halves alone. -/
theorem loadShadow_active (s : State) (l : Launch) : (loadShadow s l).quads.map (·.active) = s.quads.map (·.active) := by
  unfold loadShadow
  rw [List.map_map]
  refine List.map_congr_left fun x _ => ?_
  exact (apply_ite Quad.active _ _ _).trans (ite_self _)

theorem stageLaunch_loaded {s : State} {q : LQueue} {h : QHead} {p : Launch} (hq : s.queue? s.ev.queue.toNat = some q)
    (hi : q.item = some h) (hp : s.stageOn q h = some p) (hg : s.groupBad q h.rcd h.img = false) (he : h.load = none) :
    exec .stageLaunch s = .next (loadShadow s (dependant s q h p.id p.place)).schedBusy := by
  simp only [exec, execStageLaunch, hq, hi, hp, hg, he, Bool.false_eq_true, if_false]
  rfl

/-- Settles O54, event by event: each is its equation, with the lemmas above for what it leaves. -/
theorem launchEvents : Obligations.LaunchEvents := by
  refine ⟨?act, ?place, ?answers, ?placed, ?startMsgs, ?start, ?started, ?send, ?completion, ?status, ?preempt, ?release,
    ?heartbeat, ?takeover, ?moved, ?staged, ?tick, ?token⟩
  case act =>
    intro s a h
    simp only [exec, execLaunchPlacement, h]
  case place =>
    intro s u m l hm hl
    simp only [exec, execPlace, hm, hl]
    refine ⟨not_leafCan, fun hc => ?_, fun hc hr => ?_, fun hc hr e he => ?_, fun hc hr he => ?_⟩
    · simp only [hc, Bool.not_false, if_true]
    · simp only [hc, hr, Bool.not_true, Bool.false_eq_true, if_false, if_true]
    · simp only [hc, hr, he, Bool.not_true, Bool.false_eq_true, if_false]
    · simp only [hc, hr, he, Bool.not_true, Bool.false_eq_true, if_false]
  case answers =>
    intro s u m l hl
    refine ⟨fun hm => ?_, fun hm => ?_, fun hm => ?_, fun hm hk => ?_, fun hm hk => ?_, fun c r hm hk => ?_⟩
    · simp only [exec, execPlaced, hm, hl]
    · simp only [exec, execNofit, hm, hl]
    · simp only [exec, execTriggered, hm, hl]
    · simp only [exec, execHalted, hm, hl, hk]
    · simp only [exec, execHalted, hm, hl, hk]
    · simp only [exec, execFault, hm, hk]
  case placed => exact fun s l => placeAnswered_all
  case startMsgs =>
    intro s l _
    refine ⟨startTick s l, fun m hm hnew => ?_⟩
    rw [startLaunch_msgs, List.mem_append, or_iff_right hnew, List.mem_map] at hm
    obtain ⟨x, hx, rfl⟩ := hm
    exact ⟨rfl, rfl, due_lt_startTick hx⟩
  case start =>
    intro s u m t hm hk
    simp only [exec, execStart, hm, hk]
  case started => exact fun t tick => ⟨startAt_frozen t tick, le_startAt_ready t tick, startAt_live tick⟩
  case send =>
    exact fun s c l m => ⟨fun h => ⟨_, sendMsg_of_permit l h, msgDue_spec s c m.down⟩, fun h => ⟨0, sendMsg_waits l h⟩⟩
  case completion =>
    intro s l hdue hl r s1 l1
    refine ⟨fun u => completionWrite_busy hdue hl, fun hb => ?_⟩
    have hs1 : slotWritten s l r = s1 := rfl
    have htick : s1.tick = s.tick := slotWritten_tick s l r
    have hexec := completionWrite_free hdue hl hb
    simp only [show l.result.getD (1, 0, 0xFF, 0xFFFF) = r from rfl, hs1, htick] at hexec
    rw [hexec]
    refine ⟨fun hd => ?_, fun hd u pa k d ha => ?_, fun hd h ha => ?_, fun hd c q ha hq => ?_⟩
    · rw [hd]
      rfl
    · rw [hd, ha]
      rfl
    · rw [hd, ha]
      rfl
    · rw [hd, ha, hq]
      rfl
  case status =>
    intro s l a r ha hwf
    refine ⟨fun h => ?_, fun h k => byteAt_writeStatus r ha hwf h⟩
    simp only [State.writeStatus, ha, h, if_true]
  case preempt =>
    intro s u m l hm hl hp
    simp only [exec, execPreempt, hm, hl, hp, ne_eq, not_true_eq_false, if_false]
  case release =>
    intro s u m hm hl
    simp only [exec, execRelease, hm, hl]
  case heartbeat =>
    refine fun s => ⟨fun hy hs h9 => ?_, fun t hy hs h9 => ⟨fun hb ht => ?_, fun h => ?_⟩⟩
    · simp only [exec, execSchedulerTakeover, hy, hs, ready_of_stage h9, if_true]
    · simp only [exec, execSchedulerTakeover, hy, hs, ready_of_stage h9, hb, ht, and_self, if_true]
    · simp only [exec, execSchedulerTakeover, hy, hs]
      rw [if_neg]
      rintro ⟨-, hb, ht⟩
      rcases h with h | h
      · simp [hb] at h
      · omega
  case takeover =>
    intro s
    obtain ⟨qs, m, b, a, f, h⟩ := takeover_eq s
    refine ⟨by rw [h], by rw [h], by rw [h], by rw [h], by rw [h], by rw [h], by rw [h], fun hn q hq hl => ?_⟩
    obtain ⟨p, rfl⟩ := takenAgain_of_mem_takeover hn hq hl
    exact ⟨rfl, rfl, rfl, rfl⟩
  case moved => exact fun l at_ => ⟨moveTo_place l at_, moveTo_trig_all at_, moveTo_trig_some at_⟩
  case staged =>
    intro s q h p hq hi hp
    refine ⟨fun hg => ?_, fun e hg he => ?_, fun hg he => ?_⟩
    · simp only [exec, execStageLaunch, hq, hi, hp, hg, if_true]
    · simp only [exec, execStageLaunch, hq, hi, hp, hg, he, Bool.false_eq_true, if_false]
    · exact ⟨_, _, stageLaunch_loaded hq hi hp hg he, rfl, rfl, rfl, dependant_place .., rfl, loadShadow_active s _⟩
  case tick =>
    intro s l g hl hp hg ht
    simp only [exec, execSwitchTick, hl, hp, hg, ht, Bool.false_eq_true, if_false]
    refine ⟨fun hn hc => ⟨_, Nat.le_add_right _ (Config.delay s.free), ?_⟩, fun T hT hle hc => ?_, fun T hT hle hc => ?_⟩
    · simp only [hn, hc, if_true]
    · simp only [hT, hc, if_neg (not_lt.mpr hle), if_true]
    · simp only [hT, hc, if_neg (not_lt.mpr hle), Bool.false_eq_true, if_false]
  case token =>
    intro s l g hl hp hg
    simp only [exec, execSwitchToken, hl, hp, hg]
    refine ⟨fun hy hd => ?_, fun hy ht hd hn hc hall => ?_⟩
    · simp only [hy, hd, Bool.false_eq_true, if_false]
    · rw [if_pos hy, if_pos ⟨ht, by simpa using hd, by simpa using hn, hc, by simpa [or_iff_not_imp_left] using hall⟩]

end Sys2Proof.Proofs.Launches
end

section
/-! PROOF. Move words: what the encoder writes decodes to its move, and what decodes is what the encoder writes (section 5). -/

namespace Sys2Proof.Proofs.Encoding

open Sys2Proof Sys2Proof.Machine Sys2Proof.Laws.Encoding

/-! ## Trigger ports name their instructions (Table 5.6) -/

/-- The port builds instructions of the form that Table 5.6 gives for port `p` of socket `s`. -/
def Names (s : Sock) (p : BitVec 5) : TrigPort → Prop
  | .z mk => ∀ h, (mk h).form = .trig h s p .z
  | .w mk => ∀ h w, (mk h w).form = .trig h s p (.w w)
  | .t mk => ∃ set, ∀ h m, (mk h m).form = .trig h s p (.t set m)
  | .c mk => ∀ h m, (mk h m).form = .trig h s p (.c m)
  | .l mk => ∃ b, ∀ h m, (mk h m).form = .trig h s p (.l b m)
  | .lv mk => ∀ h l, (mk h l).form = .trig h s p (.lv l)
  | .m mk => ∃ set, ∀ h m, (mk h m).form = .trig h s p (.m set m)
  | .d mk => ∀ h v, (mk h v).form = .trig h s p (.d v)
  | .k mk => ∃ lim, ∀ h v, (mk h v).form = .trig h s p (.k lim v)
  | .p mk => ∀ h v, (mk h v).form = .trig h s p (.p v)
  | .r mk => ∀ h v, (mk h v).form = .trig h s p (.r v)
  | .a mk => ∀ h v, (mk h v).form = .trig h s p (.a v)

theorem names_of_trigPort {s : Sock} {n : Nat} {q : TrigPort} (hq : trigPort s n = some q) : Names s (BitVec.ofNat 5 n) q := by
  cases s
  all_goals
    simp only [trigPort, trigCtl, trigAlu, trigSh, trigMu, trigFp, trigSf, trigVu, trigVx, trigLs, trigAg, trigMx, trigDm, trigNt, trigKn,
      trigSy, trigTk, trigCf, trigSv, trigRp] at hq
    split at hq <;> cases hq
  all_goals first
    | exact fun _ => rfl
    | exact fun _ _ => rfl
    | exact ⟨_, fun _ _ => rfl⟩

/-! ## Modifier codes read back (Tables 5.4 and 5.5) -/

theorem encodeMod_decodeT (set : TypeSet) (v : BitVec 5) : encodeMod (.t set (decodeT v)) = v := by
  revert v; cases set <;> decide

theorem encodeMod_decodeC (v : BitVec 5) :
    encodeMod (.c { ty := decodeCType (v.extractLsb' 1 4).toNat, sat := v.getLsbD 0 }) = v := by
  revert v; decide

theorem encodeMod_decodeL (b : Bool) (v : BitVec 5) : 
    encodeMod (.l b { layout := decodeLayout (v.extractLsb' 3 2), natural := v.getLsbD 2, size := decodeSize (v.extractLsb' 0 2) }) = v := by
  revert v; cases b <;> decide

theorem encodeMod_decodeLayout {v : BitVec 5} (h : v.extractLsb' 0 3 = 0) :
    encodeMod (.lv (decodeLayout (v.extractLsb' 3 2))) = v := by
  revert v; decide

theorem encodeMod_decodeM (set : OrderSet) {v : BitVec 5} {sc : Scope} (h : decodeScope (v.extractLsb' 0 3).toNat = some sc) :
    encodeMod (.m set { order := decodeOrder (v.extractLsb' 3 2), scope := sc }) = v := by
  revert sc v; cases set <;> decide

theorem setWidth_low3 {v : BitVec 5} (h : v.extractLsb' 3 2 = 0) : (v.extractLsb' 0 3).setWidth 5 = v := by revert v; decide
theorem setWidth_low4 {v : BitVec 5} (h : v.extractLsb' 4 1 = 0) : (v.extractLsb' 0 4).setWidth 5 = v := by revert v; decide
theorem setWidth_low2 {v : BitVec 5} (h : v.extractLsb' 2 3 = 0) : (v.extractLsb' 0 2).setWidth 5 = v := by revert v; decide

/-- What a port builds from a modifier code has the form of the port, with a modifier of that code. -/
theorem Names.form_of_build {s : Sock} {p v : BitVec 5} {q : TrigPort} {h : Head} {i : Instr} (hq : Names s p q)
    (hb : q.build h v = some i) : ∃ md, i.form = .trig h s p md ∧ encodeMod md = v := by
  cases q with
  | z mk =>
    obtain ⟨rfl, rfl⟩ : v = 0 ∧ mk h = i := by simpa [TrigPort.build] using hb
    exact ⟨_, hq h, rfl⟩
  | w mk =>
    simp only [TrigPort.build] at hb
    split at hb
    · cases hb; exact ⟨_, hq h _, by simp [encodeMod, *]⟩
    · split at hb
      · cases hb; exact ⟨_, hq h _, by simp [encodeMod, *]⟩
      · cases hb
  | t mk =>
    obtain ⟨set, hq⟩ := hq
    cases hb
    exact ⟨_, hq h _, encodeMod_decodeT set v⟩
  | c mk => cases hb; exact ⟨_, hq h _, encodeMod_decodeC v⟩
  | l mk =>
    obtain ⟨b, hq⟩ := hq
    cases hb
    exact ⟨_, hq h _, encodeMod_decodeL b v⟩
  | lv mk =>
    obtain ⟨hv, rfl⟩ : v.extractLsb' 0 3 = 0 ∧ mk h _ = i := by simpa [TrigPort.build] using hb
    exact ⟨_, hq h _, encodeMod_decodeLayout hv⟩
  | m mk =>
    obtain ⟨set, hq⟩ := hq
    simp only [TrigPort.build] at hb
    split at hb
    next sc hsc => cases hb; exact ⟨_, hq h _, encodeMod_decodeM set hsc⟩
    next => cases hb
  | d mk =>
    obtain ⟨hv, rfl⟩ : v.extractLsb' 3 2 = 0 ∧ mk h _ = i := by simpa [TrigPort.build] using hb
    exact ⟨_, hq h _, setWidth_low3 hv⟩
  | k mk =>
    obtain ⟨lim, hq⟩ := hq
    obtain ⟨hv, rfl⟩ : v.extractLsb' 4 1 = 0 ∧ mk h _ = i := by simpa [TrigPort.build] using hb
    exact ⟨_, hq h _, setWidth_low4 hv⟩
  | p mk => cases hb; exact ⟨_, hq h _, rfl⟩
  | r mk =>
    obtain ⟨hv, rfl⟩ : v.extractLsb' 3 2 = 0 ∧ mk h _ = i := by simpa [TrigPort.build] using hb
    exact ⟨_, hq h _, setWidth_low3 hv⟩
  | a mk =>
    obtain ⟨hv, rfl⟩ : v.extractLsb' 2 3 = 0 ∧ mk h _ = i := by simpa [TrigPort.build] using hb
    exact ⟨_, hq h _, setWidth_low2 hv⟩

/-! ## Sources and destinations read back (R103, R107) -/

theorem num_of_sockOf {n : Nat} {s : Sock} (h : sockOf n = some s) : n = s.num := by
  unfold sockOf at h
  split at h <;> first | (cases h; rfl) | cases h


theorem eq_ofNat_num {a : BitVec 6} {s : Sock} (h : sockOf a.toNat = some s) : a = BitVec.ofNat 6 s.num := by
  rw [← num_of_sockOf h, BitVec.ofNat_toNat, BitVec.setWidth_eq]

theorem setWidth_brf {p : BitVec 5} (h : p.toNat < 8) : (p.setWidth 3).setWidth 5 = p := by revert p; decide
theorem setWidth_li {p : BitVec 5} (h : p.toNat < 3) : (p.setWidth 2).toNat < 3 ∧ (p.setWidth 2).setWidth 5 = p := by revert p; decide

theorem encodeSrc_sourceOf {a : BitVec 6} {p : BitVec 5} {s : Src} (h : sourceOf a p = some s) :
    s.wf = true ∧ encodeSrc s = (false, a ++ p) := by
  unfold sourceOf at h
  split at h
  next ha => cases h; rw [BitVec.eq_of_toNat_eq (y := 1#6) ha]; exact ⟨rfl, rfl⟩
  next ha => cases h; rw [BitVec.eq_of_toNat_eq (y := 2#6) ha]; exact ⟨rfl, rfl⟩
  next ha =>
    obtain ⟨hp, rfl⟩ : p.toNat < 8 ∧ Src.brf (p.setWidth 3) = s := by simpa using h
    rw [BitVec.eq_of_toNat_eq (y := 3#6) ha]
    exact ⟨rfl, by rw [encodeSrc, setWidth_brf hp]⟩
  next ha =>
    obtain ⟨hp, rfl⟩ : p.toNat < 3 ∧ Src.li (p.setWidth 2) = s := by simpa using h
    rw [BitVec.eq_of_toNat_eq (y := 0x3F#6) ha]
    exact ⟨decide_eq_true (setWidth_li hp).1, by rw [encodeSrc, (setWidth_li hp).2]⟩
  next =>
    split at h
    next => cases h
    next k hk =>
      rw [eq_ofNat_num hk]
      split at h
      next hp => cases h; rw [BitVec.eq_of_toNat_eq (y := 0#5) hp]; exact ⟨rfl, rfl⟩
      next hp => cases h; rw [BitVec.eq_of_toNat_eq (y := 1#5) hp]; exact ⟨rfl, rfl⟩
      next hp => cases h; rw [BitVec.eq_of_toNat_eq (y := 2#5) hp]; exact ⟨rfl, rfl⟩
      next => cases h

/-- A destination port is a plain one that its codes encode, or a trigger port of its socket. -/
theorem destOf_cases {a : BitVec 6} {p : BitVec 5} {q : DestPort} (h : destOf a p = some q) :
    (∃ d, q = .plain d ∧ encodeDst d = (a, p))
      ∨ ∃ s t, q = .trig t ∧ a = BitVec.ofNat 6 s.num ∧ trigPort s p.toNat = some t := by
  unfold destOf at h
  split at h
  next ha => cases h; rw [BitVec.eq_of_toNat_eq (y := 1#6) ha]; exact .inl ⟨_, rfl, rfl⟩
  next ha => cases h; rw [BitVec.eq_of_toNat_eq (y := 2#6) ha]; exact .inl ⟨_, rfl, rfl⟩
  next ha =>
    obtain ⟨hp, rfl⟩ : p.toNat < 8 ∧ DestPort.plain (.brf (p.setWidth 3)) = q := by simpa using h
    rw [BitVec.eq_of_toNat_eq (y := 3#6) ha]
    exact .inl ⟨_, rfl, by rw [encodeDst, setWidth_brf hp]; rfl⟩
  next =>
    split at h
    next => cases h
    next k hk =>
      have ha := eq_ofNat_num hk
      split at h
      next hp => cases h; exact .inl ⟨_, rfl, by rw [ha, BitVec.eq_of_toNat_eq (y := 0#5) hp]; rfl⟩
      next hp => cases h; exact .inl ⟨_, rfl, by rw [ha, BitVec.eq_of_toNat_eq (y := 1#5) hp]; rfl⟩
      next hp => cases h; exact .inl ⟨_, rfl, by rw [ha, BitVec.eq_of_toNat_eq (y := 2#5) hp]; rfl⟩
      next =>
        obtain ⟨t, ht, rfl⟩ := Option.map_eq_some_iff.mp h
        exact .inr ⟨k, t, rfl, ha, ht⟩

/-! ## The destination of a move, and its code -/

theorem reservedSock_num (s : Sock) : reservedSock (BitVec.ofNat 6 s.num) = false ∧ BitVec.ofNat 6 s.num ≠ 0x3F := by cases s <;> decide


theorem brf_setWidth (n : BitVec 3) : (n.setWidth 5).toNat < 8 ∧ (n.setWidth 5).setWidth 3 = n := by revert n; decide

theorem destOf_encodeDst (d : Dst) : destOf (encodeDst d).1 (encodeDst d).2 = some (.plain d) := by
  cases d with
  | grf n => rfl
  | vrf n => rfl
  | brf n =>
    show (if (n.setWidth 5).toNat < 8 then some (DestPort.plain (.brf ((n.setWidth 5).setWidth 3))) else none) = _
    rw [if_pos (brf_setWidth n).1, (brf_setWidth n).2]
  | opnd s o => cases s <;> cases o <;> rfl

theorem trigPort_of_operand (s : Sock) {n : Nat} (h : n < 3) : trigPort s n = none := by
  obtain rfl | rfl | rfl : n = 0 ∨ n = 1 ∨ n = 2 := by omega
  all_goals cases s <;> rfl

theorem destOf_trig {s : Sock} {p : BitVec 5} {t : TrigPort} (h : trigPort s p.toNat = some t) :
    destOf (BitVec.ofNat 6 s.num) p = some (.trig t) := by
  have hk := sockOf_num s
  have hp : ¬p.toNat < 3 := fun hp => by rw [trigPort_of_operand s hp] at h; cases h
  unfold destOf
  split
  next ha => rw [ha] at hk; cases hk
  next ha => rw [ha] at hk; cases hk
  next ha => rw [ha] at hk; cases hk
  next =>
    rw [hk]
    dsimp only
    split
    · omega
    · omega
    · omega
    · rw [h]; rfl

/-! ## One move word -/

theorem guardBits (g : Guard) : (BitVec.ofBool g.inv ++ g.sel).getLsbD 3 = g.inv
    ∧ (BitVec.ofBool g.inv ++ g.sel).extractLsb' 0 3 = g.sel ∧ (g.live = true → BitVec.ofBool g.inv ++ g.sel ≠ 8) := by
  obtain ⟨i, n⟩ := g
  revert n
  cases i <;> decide

theorem guard_of_bits (g : BitVec 4) : BitVec.ofBool (g.getLsbD 3) ++ g.extractLsb' 0 3 = g
    ∧ (g ≠ 8 → ({ inv := g.getLsbD 3, sel := g.extractLsb' 0 3 } : Guard).live = true) := by revert g; decide

theorem reservedSock_src (x : Src) : (!(encodeSrc x).1 && reservedSock ((encodeSrc x).2.extractLsb' 5 6)) = false := by
  cases x with
  | imm v => rfl
  | grf n => rw [show (encodeSrc (.grf n)).2 = 0x01#6 ++ n from rfl, (extract_append _ _).1]; rfl
  | vrf n => rw [show (encodeSrc (.vrf n)).2 = 0x02#6 ++ n from rfl, (extract_append _ _).1]; rfl
  | brf n => rw [show (encodeSrc (.brf n)).2 = 0x03#6 ++ n.setWidth 5 from rfl, (extract_append _ _).1]; rfl
  | resX k => cases k <;> decide
  | resY k => cases k <;> decide
  | resS k => cases k <;> decide
  | li j => revert j; decide

/-- The source that the fields of a move name (R103). -/
def srcOf (f : Fields) : Option Src :=
  if f.isImm then some (.imm f.sval) else sourceOf (f.sval.extractLsb' 5 6) (f.sval.extractLsb' 0 5)

/-- The guard that they name (R102). -/
def guardOf (f : Fields) : Guard := { inv := f.guard.getLsbD 3, sel := f.guard.extractLsb' 0 3 }

theorem srcOf_encodeFields {h : Head} (hs : h.src.wf = true) (ds : BitVec 6) (dp md : BitVec 5) :
    srcOf (encodeFields h ds dp md) = some h.src := by
  by_cases hx : ∃ v, h.src = .imm v
  · obtain ⟨v, hv⟩ := hx
    unfold srcOf encodeFields
    rw [hv]
    rfl
  · have hi : (encodeSrc h.src).1 = false := by
      cases hc : h.src with
      | imm v => exact absurd ⟨v, hc⟩ hx
      | grf _ | vrf _ | brf _ | resX _ | resY _ | resS _ | li _ => rfl
    unfold srcOf encodeFields
    dsimp only
    rw [hi, if_neg Bool.false_ne_true, sourceOf_encode h.src hs fun v hv => hx ⟨v, hv⟩]

theorem guardOf_encodeFields (h : Head) (ds : BitVec 6) (dp md : BitVec 5) : guardOf (encodeFields h ds dp md) = h.guard := by
  obtain ⟨hinv, hsel, -⟩ := guardBits h.guard
  unfold guardOf encodeFields
  dsimp only
  rw [hinv, hsel]

/-- A live word whose ports exist, with a modifier that the instruction accepts, is checked for its long immediate and for its ports (checks 3d and 3f). -/
theorem decodeMove_live (sup : Bool) (nli : Nat) {w : Word} {f : Fields} {x : Src} {q : DestPort} {i : Instr} (hf : Fields.split w = f)
    (hg : f.guard ≠ 8) (hs : (!f.isImm && reservedSock (f.sval.extractLsb' 5 6)) = false) (hr : reservedSock f.dsock = false)
    (hd : f.dsock ≠ 0x3F) (hx : srcOf f = some x) (hq : destOf f.dsock f.dport = some q)
    (hb : buildMove q { guard := guardOf f, src := x } f.md = some i) :
    decodeMove sup nli w = if liBeyond x nli then .error .illegalBundle
      else if !sup && touchesSupervisor f then .error .privilegedPort else .ok i := by
  unfold srcOf at hx
  unfold guardOf at hb
  unfold decodeMove
  simp only [hf, hg, hs, hr, hd, hx, hq, hb, if_false, Bool.or_false, Bool.false_eq_true]

/-- A word that decodes is a null move, or a live one that passes all checks. -/
theorem decodeMove_ok {sup : Bool} {nli : Nat} {w : Word} {i : Instr} (h : decodeMove sup nli w = .ok i) :
    (w.extractLsb' 28 4 = 8 ∧ i = .move (.null (w.extractLsb' 0 28)))
      ∨ ∃ x q, (Fields.split w).guard ≠ 8 ∧ srcOf (Fields.split w) = some x
        ∧ destOf (Fields.split w).dsock (Fields.split w).dport = some q ∧ liBeyond x nli = false
        ∧ buildMove q { guard := guardOf (Fields.split w), src := x } (Fields.split w).md = some i
        ∧ (!sup && touchesSupervisor (Fields.split w)) = false := by
  unfold decodeMove at h
  dsimp only at h
  split at h
  next hg => cases h; exact .inl ⟨hg, rfl⟩
  next hg =>
    right
    split at h
    · cases h
    split at h
    · cases h
    split at h
    next x q hx hq =>
      split at h
      · cases h
      next hli =>
        split at h
        · cases h
        next hb =>
          split at h
          · cases h
          next hsv =>
            cases h
            exact ⟨x, q, hg, hx, hq, Bool.eq_false_iff.mpr hli, hb, Bool.eq_false_iff.mpr hsv⟩
    · cases h

/-- The word of a well-formed head and of an instruction that its destination `q` builds. -/
theorem decodeMove_join {h : Head} {ds : BitVec 6} {dp md : BitVec 5} {q : DestPort} {i : Instr} (sup : Bool) (nli : Nat)
    (hw : h.wf = true) (hr : reservedSock ds = false) (hd : ds ≠ 0x3F) (hq : destOf ds dp = some q) (hb : buildMove q h md = some i) :
    decodeMove sup nli (encodeFields h ds dp md).join =
      if liBeyond h.src nli then .error .illegalBundle
      else if !sup && touchesSupervisor (encodeFields h ds dp md) then .error .privilegedPort else .ok i := by
  obtain ⟨hg, hs⟩ : h.guard.live = true ∧ h.src.wf = true := by simpa [Head.wf] using hw
  refine decodeMove_live sup nli (split_join _) ((guardBits h.guard).2.2 hg) (reservedSock_src h.src) hr hd
    (srcOf_encodeFields hs ds dp md) hq ?_
  rw [guardOf_encodeFields]
  exact hb

/-! ## Supervisor ports, by the fields and by the move (R104) -/

/-- Does the source, or the operand port, lie in `sv`? -/
def fromSv : Src → Bool
  | .resX .sv | .resY .sv | .resS .sv => true
  | _ => false

def intoSv : Dst → Bool
  | .opnd .sv _ => true
  | _ => false

theorem touches_live {i : Instr} {h : Head} {d : Dst} (hi : i.form = .move (.live h d)) : touches i = (fromSv h.src || intoSv d) := by
  unfold touches
  rw [hi]
  rfl

theorem touches_trig {i : Instr} {h : Head} {k : Sock} {p : BitVec 5} {md : Mod} (hi : i.form = .trig h k p md) :
    touches i = (fromSv h.src || k == .sv || (k == .rp && decide (10 ≤ p.toNat ∧ p.toNat ≤ 13))) := by
  unfold touches
  rw [hi]
  rfl

theorem fromSv_encodeSrc (x : Src) : (!(encodeSrc x).1 && (encodeSrc x).2.extractLsb' 5 6 == 0x15) = fromSv x := by
  cases x with
  | imm v => rfl
  | grf n => rw [show (encodeSrc (.grf n)).2 = 0x01#6 ++ n from rfl, (extract_append _ _).1]; rfl
  | vrf n => rw [show (encodeSrc (.vrf n)).2 = 0x02#6 ++ n from rfl, (extract_append _ _).1]; rfl
  | brf n => rw [show (encodeSrc (.brf n)).2 = 0x03#6 ++ n.setWidth 5 from rfl, (extract_append _ _).1]; rfl
  | resX k => cases k <;> decide
  | resY k => cases k <;> decide
  | resS k => cases k <;> decide
  | li j => revert j; decide

theorem touchesSupervisor_live (h : Head) (d : Dst) (md : BitVec 5) :
    touchesSupervisor (encodeFields h (encodeDst d).1 (encodeDst d).2 md) = (fromSv h.src || intoSv d) := by
  unfold touchesSupervisor encodeFields
  dsimp only
  rw [fromSv_encodeSrc, Bool.or_assoc]
  congr 1
  cases d with
  | grf n => rfl
  | vrf n => rfl
  | brf n => rfl
  | opnd k o => cases k <;> cases o <;> rfl

theorem touchesSupervisor_trig (h : Head) (k : Sock) (p md : BitVec 5) :
    touchesSupervisor (encodeFields h (BitVec.ofNat 6 k.num) p md)
      = (fromSv h.src || k == .sv || (k == .rp && decide (10 ≤ p.toNat ∧ p.toNat ≤ 13))) := by
  unfold touchesSupervisor encodeFields
  dsimp only
  rw [fromSv_encodeSrc]
  cases k <;> rfl

/-! ## Every instruction and its word -/

theorem statement_of_instr (i : Instr) : Statement i := by
  cases i
  case move m => exact Laws.Encoding.move m
  all_goals first
    | exact rfl
    | (refine fun _ => ⟨_, rfl, ?_⟩
       with_reducible first
        | exact build_z ..
        | exact build_t ..
        | exact build_m ..
        | exact build_w ..
        | exact build_c ..
        | exact build_l ..
        | exact build_lv ..
        | exact build_d ..
        | exact build_k ..
        | exact build_p ..
        | exact build_r ..
        | exact build_a ..)
    | (rename_i u _; cases u <;> exact fun _ => ⟨_, rfl, build_w ..⟩)

/-- The port that the encoder writes for a trigger builds it again from the modifier code that it writes. -/
theorem port_of_trig {i : Instr} {h : Head} {k : Sock} {p : BitVec 5} {md : Mod} (hi : i.form = .trig h k p md)
    (ha : md.accepted = true) : ∃ q, trigPort k p.toNat = some q ∧ q.build h (encodeMod md) = some i := by
  have := statement_of_instr i
  unfold Statement at this
  rw [hi] at this
  exact this ha

theorem eq_move_of_form {i : Instr} {m : Transport} (hi : i.form = .move m) : i = .move m := by
  cases i <;> cases hi; rfl

theorem encode_none_iff (i : Instr) : encode i = none ↔ isEvent i = true := by
  unfold encode isEvent
  split <;> simp [*]

/-- The checks 3d and 3f of a decoded word are those of its move. -/
theorem moveCause_of_wf (sup : Bool) (nli : Nat) {i : Instr} {h : Head} {d : Option Dst} (hi : headOf i = some (h, d)) (hw : i.wf = true) :
    moveCause sup nli i = if liBeyond h.src nli then some .illegalBundle else if !sup && touches i then some .privilegedPort else none := by
  unfold headOf at hi
  unfold moveCause
  rw [hw]
  split at hi
  · cases hi
  · cases hi
  · cases hi; simp
  · cases hi; simp

theorem wf_live {h : Head} {d : Dst} : (Instr.move (.live h d)).wf = h.wf := rfl

theorem wf_trig {i : Instr} {h : Head} {k : Sock} {p : BitVec 5} {md : Mod} (hi : i.form = .trig h k p md) :
    i.wf = (h.wf && md.accepted) := by
  unfold Instr.wf
  rw [hi]

theorem encode_live (h : Head) (d : Dst) :
    encode (.move (.live h d)) = some (encodeFields h (encodeDst d).1 (encodeDst d).2 0).join := rfl

theorem encode_trig {i : Instr} {h : Head} {k : Sock} {p : BitVec 5} {md : Mod} (hi : i.form = .trig h k p md) :
    encode i = some (encodeFields h (BitVec.ofNat 6 k.num) p (encodeMod md)).join := by
  unfold encode
  rw [hi]

theorem reservedSock_dst (d : Dst) : reservedSock (encodeDst d).1 = false ∧ (encodeDst d).1 ≠ 0x3F := by
  cases d with
  | grf n => exact ⟨rfl, show (0x01#6) ≠ 0x3F by decide⟩
  | vrf n => exact ⟨rfl, show (0x02#6) ≠ 0x3F by decide⟩
  | brf n => exact ⟨rfl, show (0x03#6) ≠ 0x3F by decide⟩
  | opnd k o => cases o <;> exact reservedSock_num k

/-- THE WORD OF A MOVE decodes to it, unless one of the checks 3d and 3f stops it. -/
theorem decodeMove_encode {i : Instr} {h : Head} {d : Option Dst} {w : Word} (sup : Bool) (nli : Nat) (hi : headOf i = some (h, d))
    (hw : i.wf = true) (he : encode i = some w) : decodeMove sup nli w =
      if liBeyond h.src nli then .error .illegalBundle else if !sup && touches i then .error .privilegedPort else .ok i := by
  unfold headOf at hi
  split at hi
  · cases hi
  · cases hi
  next h' d' hf =>
    cases hi
    obtain rfl := eq_move_of_form hf
    rw [encode_live] at he
    cases he
    have hr := reservedSock_dst d'
    rw [touches_live hf, ← touchesSupervisor_live h d' 0]
    exact decodeMove_join sup nli (wf_live ▸ hw) hr.1 hr.2 (destOf_encodeDst d') rfl
  next h' k p md hf =>
    cases hi
    rw [encode_trig hf] at he
    cases he
    obtain ⟨hh, ha⟩ : h.wf = true ∧ md.accepted = true := by rw [wf_trig hf] at hw; simpa using hw
    obtain ⟨q, hq, hb⟩ := port_of_trig hf ha
    have hr := reservedSock_num k
    rw [touches_trig hf, ← touchesSupervisor_trig h k p (encodeMod md)]
    refine decodeMove_join sup nli hh hr.1 hr.2 (destOf_trig hq) ?_
    unfold buildMove
    dsimp only
    rw [hb]
    exact if_pos hw

theorem null_extract (r : BitVec 28) : (8#4 ++ r).extractLsb' 28 4 = 8 ∧ (8#4 ++ r).extractLsb' 0 28 = r := extract_append 8#4 r

theorem decodeMove_null (r : BitVec 28) (sup : Bool) (nli : Nat) : decodeMove sup nli (8#4 ++ r) = .ok (.move (.null r)) := by
  obtain ⟨hg, hr⟩ := null_extract r
  unfold decodeMove
  rw [hr]
  exact if_pos hg

/-- Settles O1, by the form of the instruction: the word of a null move, of a plain move and of a trigger. -/
theorem decodeEncode : Obligations.DecodeEncode := by
  refine ⟨encode_none_iff, fun i w sup nli hw he => ?_⟩
  cases hh : headOf i with
  | some hd =>
    obtain ⟨h, d⟩ := hd
    rw [moveCause_of_wf sup nli hh hw, decodeMove_encode sup nli hh hw he]
    split
    · simp
    · split <;> simp
  | none =>
    unfold headOf at hh
    split at hh
    next hf =>
      have := (encode_none_iff i).mpr (by unfold isEvent; rw [hf])
      rw [this] at he
      cases he
    next r hf =>
      obtain rfl := eq_move_of_form hf
      cases he
      rw [Laws.moveCause_null, decodeMove_null]
      simp
    · cases hh
    · cases hh

theorem join_split (w : Word) : (Fields.split w).join = w := by
  have hbit : BitVec.ofBool (w.getLsbD 27) = w.extractLsb' 27 1 := by
    ext k hk
    obtain rfl : k = 0 := by omega
    simp
  unfold Fields.join Fields.split
  dsimp only
  rw [hbit, BitVec.extractLsb'_append_extractLsb'_eq_extractLsb' (start₂ := 28) rfl, BitVec.extractLsb'_append_extractLsb'_eq_extractLsb' (start₂ := 27) (start₁ := 16) rfl,
    BitVec.extractLsb'_append_extractLsb'_eq_extractLsb' (start₂ := 16) (start₁ := 10) rfl,
    BitVec.extractLsb'_append_extractLsb'_eq_extractLsb' (start₂ := 10) (start₁ := 5) rfl, BitVec.extractLsb'_append_extractLsb'_eq_extractLsb' (start₂ := 5) rfl]
  exact extract_self w

theorem encodeSrc_srcOf {f : Fields} {x : Src} (h : srcOf f = some x) : x.wf = true ∧ encodeSrc x = (f.isImm, f.sval) := by
  unfold srcOf at h
  split at h
  next hi => cases h; rw [hi]; exact ⟨rfl, rfl⟩
  next hi =>
    obtain ⟨hw, he⟩ := encodeSrc_sourceOf h
    rw [he, Bool.eq_false_iff.mpr hi]
    exact ⟨hw, congrArg _ (BitVec.extractLsb'_append_extractLsb' ..)⟩

/-- The fields of a word, from its head, its destination and its modifier code. -/
theorem encodeFields_of {f : Fields} {x : Src} (hx : srcOf f = some x) :
    encodeFields { guard := guardOf f, src := x } f.dsock f.dport f.md = f := by
  obtain ⟨-, he⟩ := encodeSrc_srcOf hx
  unfold encodeFields guardOf
  dsimp only
  rw [he, (guard_of_bits f.guard).1]

theorem wf_of_fields {f : Fields} {x : Src} (hg : f.guard ≠ 8) (hx : srcOf f = some x) : ({ guard := guardOf f, src := x } : Head).wf = true := by
  unfold Head.wf
  rw [(encodeSrc_srcOf hx).1, Bool.and_true]
  exact (guard_of_bits f.guard).2 hg

/-- What a destination builds is well-formed, has the head that was read, and the word of the fields. -/
theorem buildMove_spec {f : Fields} {x : Src} {q : DestPort} {i : Instr} (hg : f.guard ≠ 8) (hx : srcOf f = some x)
    (hq : destOf f.dsock f.dport = some q) (hb : buildMove q { guard := guardOf f, src := x } f.md = some i) :
    i.wf = true ∧ encode i = some f.join ∧ (∃ d, headOf i = some ({ guard := guardOf f, src := x }, d)) ∧ touches i = touchesSupervisor f := by
  have hf := encodeFields_of hx
  obtain ⟨d, rfl, hd⟩ | ⟨k, t, rfl, hk, ht⟩ := destOf_cases hq
  · obtain ⟨hm, rfl⟩ : f.md = 0 ∧ Instr.move (.live _ d) = i := by simpa [buildMove] using hb
    rw [hm] at hf
    refine ⟨wf_of_fields hg hx, ?_, ⟨_, rfl⟩, ?_⟩
    · rw [encode_live, hd]; exact congrArg (fun f => some f.join) hf
    · rw [touches_live rfl, ← touchesSupervisor_live _ d 0, hd]; exact congrArg touchesSupervisor hf
  · unfold buildMove at hb
    dsimp only at hb
    split at hb
    next j hj =>
      split at hb
      next hw =>
        cases hb
        have hn := names_of_trigPort ht
        rw [BitVec.ofNat_toNat, BitVec.setWidth_eq] at hn
        obtain ⟨md, hi, hmd⟩ := hn.form_of_build hj
        rw [hk, ← hmd] at hf
        refine ⟨hw, ?_, ⟨none, by unfold headOf; rw [hi]⟩, ?_⟩
        · rw [encode_trig hi]; exact congrArg (fun f => some f.join) hf
        · rw [touches_trig hi, ← touchesSupervisor_trig _ k f.dport (encodeMod md)]; exact congrArg touchesSupervisor hf
      next => cases hb
    next => cases hb

/-- Settles O2, by what the word has passed when it decodes. -/
theorem encodeDecode : Obligations.EncodeDecode := by
  intro i w sup nli h
  obtain ⟨hg, rfl⟩ | ⟨x, q, hg, hx, hq, hli, hb, hsv⟩ := decodeMove_ok h
  · refine ⟨rfl, congrArg some ?_, Laws.moveCause_null ..⟩
    rw [show (8#4 : BitVec 4) = w.extractLsb' 28 4 from hg.symm, BitVec.extractLsb'_append_extractLsb'_eq_extractLsb' (start₂ := 28) rfl]
    exact extract_self w
  · obtain ⟨hw, he, ⟨d, hd⟩, ht⟩ := buildMove_spec hg hx hq hb
    refine ⟨hw, by rw [he, join_split], ?_⟩
    rw [moveCause_of_wf sup nli hd hw, hli, ht, hsv]
    rfl

end Sys2Proof.Proofs.Encoding
end

section
/-! PROOF. The issue of a bundle: what its moves read, when they take effect, and what a bundle of one move and of several does (section 5, R97 to R140). -/

namespace Sys2Proof.Proofs.Bundles

open Sys2Proof Sys2Proof.Machine Sys2Proof.Laws

/-! ## The meaning of every trigger (Table 5.6) -/

theorem exec_of_spec {i : Instr} {sp : Spec} (h : specOf i = some sp) (s : State) : exec i s = issueOne i sp s := by
  cases i <;> first | (cases h; rfl) | cases h

theorem spec_of_form {i : Instr} {sp : Spec} {h : Head} {k : Sock} {p : BitVec 5} {md : Mod} (hs : specOf i = some sp)
    (hi : i.form = .trig h k p md) : sp.sock = k ∧ sp.opnd = trigOpnd k p.toNat := by
  cases i <;> cases hs <;> cases hi <;> first | exact ⟨rfl, rfl⟩ | (rename_i u _; cases u <;> exact ⟨rfl, rfl⟩)

theorem specOf_none_iff (i : Instr) : specOf i = none ↔ isEvent i = true ∨ ∃ m, i = .move m := by
  constructor
  · intro h
    cases i <;> first | exact .inl rfl | exact .inr ⟨_, rfl⟩ | cases h
  · rintro (h | ⟨m, rfl⟩)
    · cases i <;> first | rfl | cases h
    · rfl

/-! ## The read phase (R121) -/

theorem badRead_iff {t : Tile} {k : BitVec 2} {x : Src} :
    badRead t k x = true ↔ ∃ r ∈ (regPlace x).toList, regListed t.badRegs k r.1 r.2 = true := by
  unfold badRead
  cases regPlace x with
  | none => simp
  | some p => simp

/-- A move whose guard holds and whose source drives a value joins the moves read, and marks an uncorrectable register that it meets. -/
theorem readPhase_cons {t : Tile} {bus : BitVec 3} {i : Instr} {sp : Option Spec} {h : Head} {d : Option Dst} {v : Bus} {r : List Act}
    (hi : headOf i = some (h, d)) (hg : guardHolds (t.bank t.run) h.guard = true)
    (hv : readSrc t (t.bank t.run) (staggerSrc (t.bank t.run) bus h.src) = some v) :
    readPhase t ((bus, i, sp) :: r) = { readPhase t r with
      gots := { bus := bus, src := staggerSrc (t.bank t.run) bus h.src, val := v, dst := d.map (staggerDst (t.bank t.run) bus), spec := sp } :: (readPhase t r).gots
      bad := if badGuard t t.run h.guard || badRead t t.run (staggerSrc (t.bank t.run) bus h.src) then some bus else (readPhase t r).bad } := by
  simp only [readPhase, hi, hg, if_true, hv]
  cases badGuard t t.run h.guard <;> cases badRead t t.run (staggerSrc (t.bank t.run) bus h.src) <;> rfl

theorem regsRead_cons {t : Tile} {bus : BitVec 3} {i : Instr} {sp : Option Spec} {h : Head} {d : Option Dst} {r : List Act}
    (hi : headOf i = some (h, d)) (hg : guardHolds (t.bank t.run) h.guard = true) :
    regsRead t ((bus, i, sp) :: r) = guardReg h ++ (regPlace (staggerSrc (t.bank t.run) bus h.src)).toList ++ regsRead t r := by
  simp only [regsRead, hi, hg, if_true]
  rfl

/-- A move whose guard does not hold reads its guard only. -/
theorem readPhase_idle {t : Tile} {bus : BitVec 3} {i : Instr} {sp : Option Spec} {h : Head} {d : Option Dst} {r : List Act}
    (hi : headOf i = some (h, d)) (hg : guardHolds (t.bank t.run) h.guard = false) :
    readPhase t ((bus, i, sp) :: r) = { readPhase t r with bad := if badGuard t t.run h.guard then some bus else (readPhase t r).bad } := by
  simp only [readPhase, hi, hg, Bool.false_eq_true, if_false]

/-! ## The outcome of a bundle (R121, R128, R135) -/

/-- Every move passes the checks of Table 5.7 that its decoding left to the issue, and no operation holds the strand. -/
structure Passes (acts : List Act) (s : State) : Prop where
  legal : ∀ a ∈ acts, moveCause (s.self.run = 3) s.self.lis.length a.2.1 = none
  free : s.self.waits s.tick = false

/-- The cause of an uncorrectable register word read on a bus (R140). -/
def regFault (s : State) (bus : BitVec 3) : Pending :=
  let b := s.self.bank s.self.run
  { bank := s.self.run, cause := .dataUncorrectable, kind := .trigger, bus := some bus, origin := b.pc, addr := 0, detail := 1, seq := b.seq, since := s.tick }

/-- The state in which phase 3 starts, and its outcome. -/
def afterWrites (acts : List Act) (s : State) : State :=
  (s.regCorrect s.self.run (regsRead s.self acts)).onSelf (writePhase (readPhase s.self acts).gots)

def started (acts : List Act) (len : Nat) (s : State) : Trigs :=
  startAll s.self (s.self.bank s.self.run).pc ((s.self.bank s.self.run).pc + BitVec.ofNat 32 len) (readPhase s.self acts).gots
    (afterWrites acts s)

section
variable {acts : List Act} {len : Nat} {s : State} (hp : Passes acts s) (hr : (readPhase s.self acts).stall = false)
  (hs : (started acts len s).stall = false) (hw : (started acts len s).wait = false)
include hp

theorem findSome_legal : (acts.findSome? fun a => (moveCause (s.self.run = 3) s.self.lis.length a.2.1).map fun c => (a.1, c)) = none := by
  rw [List.findSome?_eq_none_iff]
  intro a ha
  rw [hp.legal a ha]
  rfl

/-- An empty port stalls the bundle (R128). -/
theorem prepare_stall (hr : (readPhase s.self acts).stall = true) : prepare acts len s = .stall := by
  unfold prepare
  simp only [findSome_legal hp, hp.free, hr, if_true, Bool.false_eq_true, if_false]

include hr hs hw

/-- The bundle issues when nothing stands against it. -/
theorem prepare_ok (hb : (readPhase s.self acts).bad = none) (ht : (started acts len s).trap = none) :
    prepare acts len s = .ok (started acts len s).out := by
  unfold started afterWrites at *
  unfold prepare
  simp only [findSome_legal hp, hp.free, hr, hs, hw, hb, ht, Bool.false_eq_true, if_false]

/-- An uncorrectable register word faults, unless a trigger on a lower bus traps (R135, R140). -/
theorem prepare_bad {bus : BitVec 3} (hb : (readPhase s.self acts).bad = some bus)
    (ht : ∀ x, (started acts len s).trap = some x → bus.toNat ≤ x.1.toNat) : prepare acts len s = .fault (regFault s bus) := by
  unfold started afterWrites at *
  unfold prepare
  simp only [findSome_legal hp, hp.free, hr, hs, hw, hb, Bool.false_eq_true, if_false]
  generalize startAll s.self _ _ _ _ = r at ht
  obtain ⟨out, stall, wait, trap⟩ := r
  cases trap with
  | none => rfl
  | some x => simp only [if_neg (not_lt.mpr (ht x rfl))]; rfl

end

/-! ## A bundle without a trigger -/

/-- Moves that are no triggers start nothing. -/
theorem trigPhase_plain (t0 : Tile) (o n : Word) : ∀ {gs : List Got} (r : Trigs), (∀ g ∈ gs, g.spec = none) → trigPhase t0 o n gs r = r
  | [], _, _ => rfl
  | g :: gs, r, h => by
    unfold trigPhase
    rw [h g List.mem_cons_self]
    exact trigPhase_plain t0 o n r fun x hx => h x (List.mem_cons_of_mem _ hx)

theorem mem_insertGot {key : Got → Nat} {g x : Got} : ∀ {gs : List Got}, x ∈ insertGot key g gs → x = g ∨ x ∈ gs
  | [], h => .inl (List.mem_singleton.mp h)
  | y :: gs, h => by
    unfold insertGot at h
    split at h
    · exact List.mem_cons.mp h
    · obtain rfl | h := List.mem_cons.mp h
      · exact .inr List.mem_cons_self
      · exact (mem_insertGot h).imp_right (List.mem_cons_of_mem _)

theorem mem_of_mem_bySocket {b : Bool} {x : Got} : ∀ {gs : List Got}, x ∈ bySocket b gs → x ∈ gs
  | [], h => h
  | g :: gs, h => by
    obtain rfl | h := mem_insertGot h
    · exact List.mem_cons_self
    · exact List.mem_cons_of_mem _ (mem_of_mem_bySocket h)

theorem orderChoice_of_no_ls {gs : List Got} {s : State} (h : gs.any (·.starts .ls) = false) : orderChoice gs s = (false, s) := by
  unfold orderChoice
  rw [h]
  rfl

theorem starts_plain {g : Got} (h : g.spec = none) (k : Sock) : g.starts k = false := by unfold Got.starts; rw [h]
theorem isMx_plain {g : Got} (h : g.spec = none) : g.isMx = false := by unfold Got.isMx; rw [h]

theorem startAll_plain {t0 : Tile} {o n : Word} {gs : List Got} {s : State} (h : ∀ g ∈ gs, g.spec = none) :
    startAll t0 o n gs s = { out := { st := s.mxIssueCycle s.cur t0.run } } := by
  have hls : gs.any (·.starts .ls) = false := List.any_eq_false.mpr fun g hg => by rw [starts_plain (h g hg)]; exact Bool.false_ne_true
  unfold startAll
  dsimp only
  rw [trigPhase_plain t0 o n _ fun g hg => h g (List.mem_of_mem_filter hg)]
  rw [orderChoice_of_no_ls hls, trigPhase_plain t0 o n _ fun g hg => h g (List.mem_of_mem_filter (mem_of_mem_bySocket hg))]

theorem regCorrect_cur (s : State) (k : BitVec 2) (ps : List (Nat × Nat)) : (s.regCorrect k ps).cur = s.cur := by
  unfold State.regCorrect
  dsimp only
  split <;> rfl

theorem started_plain {acts : List Act} {s : State} (len : Nat) (h : ∀ g ∈ (readPhase s.self acts).gots, g.spec = none) :
    started acts len s = { out := { st := (afterWrites acts s).mxIssueCycle s.cur s.self.run } } := by
  have hc : (afterWrites acts s).cur = s.cur := regCorrect_cur ..
  unfold started
  rw [startAll_plain h, hc]

/-! ## A bundle of one move, from the outcome of its phases -/

section
variable {i : Instr} {sp : Option Spec} {s : State} (hm : MayIssue s)
include hm

theorem issue_of_ok {j : Issue} (hp : prepare [((s.self).bus, i, sp)] (s.self).blen s.atBundle = .ok j) :
    issue [((s.self).bus, i, sp)] (s.self).blen s = s.ended j := by
  rw [issue_ready hm]
  unfold issueSingle
  rw [hp]
  unfold State.ended
  obtain ⟨st, ctl, er, asid⟩ := j
  cases ctl <;> rfl

theorem issue_of_fault {p : Pending} (hp : prepare [((s.self).bus, i, sp)] (s.self).blen s.atBundle = .fault p) :
    issue [((s.self).bus, i, sp)] (s.self).blen s = s.trapped p := by
  rw [issue_ready hm]
  unfold issueSingle
  rw [hp]
  rfl

theorem passes_one (hl : moveCause (s.atBundle.self.run = 3) s.atBundle.self.lis.length i = none) :
    Passes [((s.self).bus, i, sp)] s.atBundle :=
  ⟨fun a ha => by obtain rfl := List.mem_singleton.mp ha; exact hl, hm.free⟩

end

/-! ## Guards and null moves (R102, R140) -/

theorem exec_null (rest : BitVec 28) {s : State} (hm : MayIssue s) : exec (.move (.null rest)) s = .next s.quiet := by
  have hp : Passes [((s.self).bus, .move (.null rest), none)] s.atBundle := passes_one hm (moveCause_null ..)
  refine congrArg _ (issue_of_ok hm ?_)
  have hst := started_plain (acts := [((s.self).bus, .move (.null rest), none)]) (s := s.atBundle) (s.self).blen (by rintro g ⟨⟩)
  rw [prepare_ok hp rfl (by rw [hst]) (by rw [hst]) rfl (by rw [hst]), hst]
  unfold afterWrites
  rw [regCorrect_clean (ps := regsRead s.atBundle.self _) (by rintro r ⟨⟩)]
  rfl

theorem exec_badGuard {i : Instr} {h : Head} {d : Option Dst} {s : State} (hi : headOf i = some (h, d)) (hm : MayIssue s)
    (hl : moveCause (s.atBundle.self.run = 3) s.atBundle.self.lis.length i = none)
    (hg : guardHolds s.atBundle.strand h.guard = false) (hb : s.badReg (guardReg h)) :
    exec i s = .next (s.trapped (s.trapOf .dataUncorrectable 0 1)) := by
  obtain ⟨sp, he⟩ := exec_issue i h d hi s
  have hp : Passes [((s.self).bus, i, sp)] s.atBundle := passes_one hm hl
  have hbad : badGuard s.atBundle.self s.atBundle.self.run h.guard = true := badRead_iff.mpr hb
  have hread := readPhase_idle (r := []) (bus := s.self.bus) (sp := sp) hi hg
  have hst := started_plain (acts := [((s.self).bus, i, sp)]) (s := s.atBundle) (s.self).blen (by rw [hread]; rintro g ⟨⟩)
  rw [he, issue_of_fault hm (prepare_bad hp (by rw [hread]; rfl) (by rw [hst]) (by rw [hst]) (by rw [hread, hbad]; rfl)
    (by rw [hst]; rintro x ⟨⟩))]
  rfl

/-- Settles O8, by what the bundle reads: nothing for a null move, the guard alone for a move whose guard is false. -/
theorem guardAndNull : Obligations.GuardAndNull :=
  ⟨fun rest sup nli => Encoding.decodeMove_null rest sup nli, fun rest _ hm => exec_null rest hm,
    fun _ _ _ _ hi hm hl hg hs => exec_quiet hi hm hl hg hs, fun _ _ _ _ hi hm hl hg hb => exec_badGuard hi hm hl hg hb,
    fun _ _ _ _ _ hi hm hl => exec_decodeFault hi hm hl, fun _ _ => rfl⟩

/-! ## Plain moves (R103, R120, R121, R123, R128, R140, R149) -/

/-- A move that is checked, whose guard holds and whose source drives `v`. -/
structure Ready (i : Instr) (h : Head) (d : Option Dst) (v : Bus) (s : State) : Prop where
  head : headOf i = some (h, d)
  may : MayIssue s
  legal : moveCause (s.atBundle.self.run = 3) s.atBundle.self.lis.length i = none
  guard : guardHolds s.atBundle.strand h.guard = true
  value : readSrc s.atBundle.self s.atBundle.strand (s.srcOf h) = some v

/-- The move as the bundle has read it. -/
def gotFrom (s : State) (h : Head) (d : Option Dst) (v : Bus) (sp : Option Spec) : Got :=
  { bus := (s.self).bus, src := s.srcOf h, val := v, dst := d.map (staggerDst s.atBundle.strand (s.self).bus), spec := sp }

theorem badReg_iff {s : State} {h : Head} : s.badReg (s.regsOf h) ↔
    (badGuard s.atBundle.self s.atBundle.self.run h.guard || badRead s.atBundle.self s.atBundle.self.run (s.srcOf h)) = true := by
  rw [Bool.or_eq_true, badGuard, badRead_iff, badRead_iff]
  unfold State.badReg State.regsOf guardReg
  simp only [List.mem_append, or_and_right, exists_or]

section
variable {i : Instr} {h : Head} {d : Option Dst} {v : Bus} {s : State} {sp : Option Spec} (hr : Ready i h d v s)
include hr

theorem readPhase_ready : (readPhase s.atBundle.self [((s.self).bus, i, sp)]).gots = [gotFrom s h d v sp]
    ∧ (readPhase s.atBundle.self [((s.self).bus, i, sp)]).stall = false
    ∧ (¬s.badReg (s.regsOf h) → (readPhase s.atBundle.self [((s.self).bus, i, sp)]).bad = none)
    ∧ (s.badReg (s.regsOf h) → (readPhase s.atBundle.self [((s.self).bus, i, sp)]).bad = some (s.self).bus) := by
  rw [readPhase_cons (r := []) hr.head hr.guard hr.value, badReg_iff]
  exact ⟨rfl, rfl, fun hb => if_neg hb, fun hb => if_pos hb⟩

theorem regsRead_ready : regsRead s.atBundle.self [((s.self).bus, i, sp)] = s.regsOf h :=
  (regsRead_cons (r := []) hr.head hr.guard).trans (List.append_nil _)

theorem afterWrites_ready : afterWrites [((s.self).bus, i, sp)] s.atBundle = (s.mended h).onSelf (writePhase [gotFrom s h d v sp]) := by
  unfold afterWrites
  rw [regsRead_ready hr, (readPhase_ready hr).1]
  rfl

end

/-- A plain move whose registers hold no uncorrectable error, from the registers as it has corrected them. -/
theorem exec_move {h : Head} {d : Dst} {v : Bus} {s : State} (hr : Ready (.move (.live h d)) h (some d) v s) (hb : ¬s.badReg (s.regsOf h)) :
    exec (.move (.live h d)) s = .next (s.ended { st := ((s.mended h).onSelf fun t =>
      writeDst (emptyPort t (s.srcOf h)) v (staggerDst s.atBundle.strand (s.self).bus d)).mxIssueCycle s.cur s.atBundle.self.run }) := by
  obtain ⟨hg, hstall, hbad, -⟩ := readPhase_ready (sp := none) hr
  have hst := started_plain (acts := [((s.self).bus, .move (.live h d), none)]) (s := s.atBundle) (s.self).blen
    (by rw [hg]; intro g hg; obtain rfl := List.mem_singleton.mp hg; rfl)
  refine congrArg _ (issue_of_ok hr.may ?_)
  rw [prepare_ok (passes_one hr.may hr.legal) hstall (by rw [hst]) (by rw [hst]) (hbad hb) (by rw [hst]), hst, afterWrites_ready hr]
  rfl

theorem exec_move_bad {h : Head} {d : Dst} {v : Bus} {s : State} (hr : Ready (.move (.live h d)) h (some d) v s) (hb : s.badReg (s.regsOf h)) :
    exec (.move (.live h d)) s = .next (s.trapped (s.trapOf .dataUncorrectable 0 1)) := by
  obtain ⟨hg, hstall, -, hbad⟩ := readPhase_ready (sp := none) hr
  have hst := started_plain (acts := [((s.self).bus, .move (.live h d), none)]) (s := s.atBundle) (s.self).blen
    (by rw [hg]; intro g hg; obtain rfl := List.mem_singleton.mp hg; rfl)
  refine congrArg _ (issue_of_fault hr.may ?_)
  exact prepare_bad (passes_one hr.may hr.legal) hstall (by rw [hst]) (by rw [hst]) (hbad hb) (by rw [hst]; rintro x ⟨⟩)

/-- What the correction of registers changes (R140). -/
theorem regCorrect_spec (s : State) (k : BitVec 2) (ps : List (Nat × Nat)) : let t := (s.regCorrect k ps).self
    t.banks = (s.self).banks ∧ t.badRegs = (s.self).badRegs
      ∧ ∀ e, e ∈ t.softRegs ↔ e ∈ (s.self).softRegs ∧ ¬(e.1 = k.toNat ∧ (e.2.1, e.2.2.1) ∈ ps) := by
  unfold State.regCorrect
  dsimp only
  split
  next =>
    have hself : ∀ (u : State) (a : Nat) (f : QuadErr → QuadErr), (u.countErr a f).self = u.self := fun _ _ _ => rfl
    rw [hself, self_onSelf]
    refine ⟨rfl, rfl, fun e => ?_⟩
    show e ∈ List.filter _ _ ↔ _
    simp [imp_iff_not_or]
  next hn =>
    refine ⟨rfl, rfl, fun e => ⟨fun he => ⟨he, fun hk => hn ?_⟩, And.left⟩⟩
    exact List.any_eq_true.mpr ⟨e, he, by simpa using hk⟩

/-! ## A bundle with one trigger (R121, R123) -/

/-- The trigger operand is latched (R123). -/
def latchOperand (k : BitVec 2) (sp : Spec) (v : Bus) (s : State) : State :=
  match sp.opnd with
  | some o => s.onSelf fun t => t.onBank k fun b => b.onSock sp.sock fun c => c.setLatch o v
  | none => s

/-- What a trigger on bus `bus` finds in the state `u` (R121). -/
def startOf (t0 : Tile) (origin next : Word) (bus : BitVec 3) (v : Bus) (sp : Spec) (u : State) : Start :=
  let c := ((u.self).bank t0.run).sock sp.sock
  let b0 := t0.bank t0.run
  { sock := sp.sock, bank := t0.run, a := c.a, b := c.b, c := c.c, v := v, origin := origin, next := next, seq := b0.seq, bus := bus, locked := t0.locked sp.sock, fmt := b0.fmt }

theorem startOne_eq {t0 : Tile} {o n : Word} {g : Got} {sp : Spec} {u w : State} (hw : latchOperand t0.run sp g.val u = w)
    (hslot : t0.locked sp.sock = true → sp.sock ≠ .mx → sp.sock ≠ .mu → (w.self).slotFree sp.sock false = true) :
    startOne t0 o n g sp { st := u } = sp.run (startOf t0 o n g.bus g.val sp w) { st := w } := by
  have hc : ¬(t0.locked sp.sock && sp.sock != .mx && sp.sock != .mu && !(w.self).slotFree sp.sock false) = true := by
    simp only [Bool.and_eq_true, bne_iff_ne, ne_eq, Bool.not_eq_true']
    rintro ⟨⟨⟨hl, hmx⟩, hmu⟩, hf⟩
    rw [hslot hl hmx hmu] at hf
    cases hf
  subst hw
  unfold startOne latchOperand at *
  exact if_neg hc

theorem orderChoice_single {sp : Spec} {gs : List Got} (h : ∀ g ∈ gs, g.spec = none ∨ g.spec = some sp) (s : State) :
    orderChoice gs s = (false, s) := by
  have key : ∀ k, sp.sock ≠ k → gs.any (·.starts k) = false := fun k hk => List.any_eq_false.mpr fun g hg => by
    unfold Got.starts
    obtain hn | hs := h g hg
    · rw [hn]; exact Bool.false_ne_true
    · rw [hs]; simpa using hk
  unfold orderChoice
  by_cases hk : sp.sock = .ls
  · rw [key .ag (by rw [hk]; decide), Bool.and_false]; rfl
  · rw [key .ls hk, Bool.false_and]; rfl

/-- The one trigger of a bundle, of any socket but `mx`, starts after the cycle of the `mx` sequence. -/
theorem startAll_single {t0 : Tile} {o n : Word} {gs : List Got} {sp : Spec} {s : State} (h : ∀ g ∈ gs, g.spec = none ∨ g.spec = some sp)
    (hk : sp.sock ≠ .mx) :
    startAll t0 o n gs s = trigPhase t0 o n (bySocket false gs) { out := { st := s.mxIssueCycle s.cur t0.run } } := by
  have hmx : ∀ g ∈ gs, g.isMx = false := fun g hg => by
    unfold Got.isMx
    obtain hn | hs := h g hg
    · rw [hn]
    · rw [hs]; simpa using hk
  have hf : gs.filter Got.isMx = [] := List.filter_eq_nil_iff.mpr fun g hg => by rw [hmx g hg]; exact Bool.false_ne_true
  have hf' : (gs.filter fun g => !g.isMx) = gs := List.filter_eq_self.mpr fun g hg => by rw [hmx g hg]; rfl
  unfold startAll
  dsimp only
  rw [hf, hf', orderChoice_single h]
  rfl

/-- The cycle of the `mx` sequence follows a trigger of `mx`; it comes before that of any other socket (R228, R248). -/
def mxAfter (k : Sock) (cur : Nat) (run : BitVec 2) (r : Trigs) : Trigs :=
  if k = .mx then { r with out := { r.out with st := r.out.st.mxIssueCycle cur run } } else r

theorem mxAfter_marks (k : Sock) (cur : Nat) (run : BitVec 2) (r : Trigs) :
    (mxAfter k cur run r).stall = r.stall ∧ (mxAfter k cur run r).wait = r.wait ∧ (mxAfter k cur run r).trap = r.trap := by
  unfold mxAfter
  split <;> exact ⟨rfl, rfl, rfl⟩

/-- A trigger of `mx` starts before the cycle of its sequence. -/
theorem startAll_single_mx {t0 : Tile} {o n : Word} {g : Got} {sp : Spec} {s : State} (hg : g.spec = some sp) (hk : sp.sock = .mx) :
    startAll t0 o n [g] s = mxAfter sp.sock s.cur t0.run (trigPhase t0 o n [g] { out := { st := s } }) := by
  have hm : g.isMx = true := by unfold Got.isMx; rw [hg]; simp [hk]
  unfold startAll mxAfter
  simp only [List.filter_cons, hm, List.filter_nil, if_true, Bool.not_true, Bool.false_eq_true, if_false, orderChoice_one, hk]
  rfl

/-- What phase 3 makes of the one trigger of a bundle. -/
def trigsOf (bus : BitVec 3) (u : State) : Except Stop Issue → Trigs
  | .ok j => { out := j }
  | .error .stall => { out := { st := u }, stall := true }
  | .error .gangWait => { out := { st := u }, wait := true }
  | .error (.trap c a d) => { out := { st := u }, trap := some (bus, c, a, d) }

theorem trigPhase_single {t0 : Tile} {o n : Word} {g : Got} {sp : Spec} {u : State} (hg : g.spec = some sp) :
    trigPhase t0 o n [g] { out := { st := u } } = trigsOf g.bus u (startOne t0 o n g sp { st := u }) := by
  unfold trigPhase
  rw [hg]
  dsimp only
  cases startOne t0 o n g sp { st := u } with
  | ok j => rfl
  | error e => cases e <;> rfl

theorem mendedLatched_eq (s : State) (h : Head) (sp : Spec) (v : Bus) : s.mendedLatched h sp.sock sp.opnd v =
    latchOperand s.atBundle.self.run sp v (let s1 := (s.mended h).onSelf fun t => emptyPort t (s.srcOf h)
      if sp.sock = .mx then s1 else s1.mxIssueCycle s1.cur s.atBundle.self.run) := by
  unfold latchOperand State.mendedLatched
  cases sp.opnd <;> rfl

section
variable {i : Instr} {h : Head} {v : Bus} {s : State} {sp : Spec} {x : Except Stop Issue} (hr : Ready i h none v s)
  (hx : MendedStart sp h v s x)
include hr hx

/-- Phase 3 of a trigger, from what its registers hold once they are corrected. -/
theorem started_mended : ∃ u, started [((s.self).bus, i, some sp)] (s.self).blen s.atBundle =
    mxAfter sp.sock s.cur s.atBundle.self.run (trigsOf (s.self).bus u x) := by
  obtain ⟨hslot, hrun⟩ := hx
  have hg := (readPhase_ready (sp := some sp) hr).1
  have hw : afterWrites [((s.self).bus, i, some sp)] s.atBundle = (s.mended h).onSelf fun t => emptyPort t (s.srcOf h) := afterWrites_ready hr
  have hc : ((s.mended h).onSelf fun t => emptyPort t (s.srcOf h)).cur = s.cur := regCorrect_cur ..
  have hstart : ∀ u, latchOperand s.atBundle.self.run sp v u = s.mendedLatched h sp.sock sp.opnd v →
      startOne s.atBundle.self s.atBundle.strand.pc (s.atBundle.strand.pc + BitVec.ofNat 32 (s.self).blen) (gotFrom s h none v (some sp)) sp { st := u } = x :=
    fun u hu => (startOne_eq (g := gotFrom s h none v (some sp)) hu hslot).trans hrun
  have hu := mendedLatched_eq s h sp v
  unfold started
  rw [hg, hw]
  by_cases hk : sp.sock = .mx
  · rw [startAll_single_mx rfl hk, trigPhase_single rfl, hc]
    simp only [if_pos hk] at hu
    exact ⟨_, congrArg (fun y => mxAfter _ _ _ (trigsOf _ _ y)) (hstart _ hu.symm)⟩
  · unfold mxAfter
    simp only [if_neg hk] at hu ⊢
    rw [startAll_single (sp := sp) (by intro g hg; obtain rfl := List.mem_singleton.mp hg; exact .inr rfl) hk, bySocket_one,
      trigPhase_single rfl]
    exact ⟨_, congrArg (trigsOf _ _) (hstart _ hu.symm)⟩

end

/-- A trigger whose registers hold no uncorrectable error starts from what they hold once corrected. -/
theorem exec_trigger {i : Instr} {h : Head} {v : Bus} {s : State} {sp : Spec} {r : Issue} (hs : specOf i = some sp) (hr : Ready i h none v s)
    (hb : ¬s.badReg (s.regsOf h)) (hx : MendedStart sp h v s (.ok r)) :
    exec i s = .next (s.ended (if sp.sock = .mx then { r with st := (r.st).mxIssueCycle s.cur s.atBundle.self.run } else r)) := by
  obtain ⟨-, hstall, hbad, -⟩ := readPhase_ready (sp := some sp) hr
  obtain ⟨u, hst⟩ := started_mended hr hx
  have hp := prepare_ok (len := (s.self).blen) (passes_one (sp := some sp) hr.may hr.legal) hstall
    (by rw [hst]; exact (mxAfter_marks ..).1) (by rw [hst]; exact (mxAfter_marks ..).2.1) (hbad hb) (by rw [hst]; exact (mxAfter_marks ..).2.2)
  rw [exec_of_spec hs]
  refine congrArg _ (issue_of_ok hr.may ?_)
  rw [hp, hst]
  unfold mxAfter
  split <;> rfl

/-- One that meets an uncorrectable error faults, whatever else would become of it but a stall (R135, R140). -/
theorem exec_trigger_bad {i : Instr} {h : Head} {v : Bus} {s : State} {sp : Spec} {x : Except Stop Issue} (hs : specOf i = some sp)
    (hr : Ready i h none v s) (hb : s.badReg (s.regsOf h)) (hx : MendedStart sp h v s x) (h1 : x ≠ .error .stall) (h2 : x ≠ .error .gangWait) :
    exec i s = .next (s.trapped (s.trapOf .dataUncorrectable 0 1)) := by
  obtain ⟨-, hstall, -, hbad⟩ := readPhase_ready (sp := some sp) hr
  obtain ⟨u, hst⟩ := started_mended hr hx
  have hx' : (trigsOf (s.self).bus u x).stall = false ∧ (trigsOf (s.self).bus u x).wait = false
      ∧ ∀ y, (trigsOf (s.self).bus u x).trap = some y → y.1 = (s.self).bus := by
    cases x with
    | ok j => exact ⟨rfl, rfl, by rintro y ⟨⟩⟩
    | error e =>
      cases e with
      | stall => exact absurd rfl h1
      | gangWait => exact absurd rfl h2
      | trap c a d => exact ⟨rfl, rfl, by rintro y ⟨⟩; rfl⟩
  obtain ⟨hxs, hxw, hxt⟩ := hx'
  have hp := prepare_bad (len := (s.self).blen) (passes_one (sp := some sp) hr.may hr.legal) hstall
    (by rw [hst, (mxAfter_marks ..).1]; exact hxs) (by rw [hst, (mxAfter_marks ..).2.1]; exact hxw) (hbad hb)
    (by rw [hst, (mxAfter_marks ..).2.2]; exact fun y hy => hxt y hy ▸ le_rfl)
  rw [exec_of_spec hs]
  exact congrArg _ (issue_of_fault hr.may hp)

/-- Settles O9: a plain move and a trigger, each with and without an uncorrectable register. -/
theorem plainMoves : Obligations.PlainMoves := by
  refine ⟨fun h d v s hm hc => ?carries, fun h d v s hm hl hg hv => ⟨fun hb => exec_move ⟨rfl, hm, hl, hg, hv⟩ hb, fun hb => exec_move_bad ⟨rfl, hm, hl, hg, hv⟩ hb⟩,
    regCorrect_spec, fun i sp h v s hs hi hm hl hg hv => ⟨fun r hb hx => exec_trigger hs ⟨hi, hm, hl, hg, hv⟩ hb hx,
      fun x hb hx h1 h2 => exec_trigger_bad hs ⟨hi, hm, hl, hg, hv⟩ hb hx h1 h2⟩⟩
  obtain ⟨hl, hg, hv, hsound⟩ := hc
  have hb : ¬s.badReg (s.regsOf h) := fun ⟨r, hr, hbad⟩ => by rw [(hsound r hr).1] at hbad; cases hbad
  have hclean : s.mended h = s.atBundle := regCorrect_clean fun r hr => (hsound r hr).2
  rw [exec_move ⟨rfl, hm, hl, hg, hv⟩ hb, hclean]
  rfl

/-- Settles O10: an immediate, a register or a port each by its definition; a port may be empty under the rules of data-locked sockets. -/
theorem sourceValues : Obligations.SourceValues := by
  intro t b
  refine ⟨fun _ => rfl, fun _ => rfl, fun _ => rfl, fun _ => rfl, fun _ => rfl, fun _ => rfl, fun k => ?x, fun k => ?y⟩
  case x => simp [readSrc, Tile.portLocked]
  case y =>
    by_cases hk : k = .mu
    · simp [readSrc, Tile.portLocked, hk]
    · simp [readSrc, Tile.portLocked, hk]

/-! ## Supervisor ports (R104) -/

theorem headOf_of_touches {i : Instr} (h : touches i = true) : ∃ hd d, headOf i = some (hd, d) := by
  unfold touches at h
  unfold headOf
  split at h
  · cases h
  · cases h
  · exact ⟨_, _, rfl⟩
  · exact ⟨_, _, rfl⟩

theorem liBeyond_of_wf {x : Src} (h : x.wf = true) : liBeyond x 3 = false := by
  cases x with
  | li j => revert j; decide
  | imm _ | grf _ | vrf _ | brf _ | resX _ | resY _ | resS _ => rfl

theorem src_wf_of_head {i : Instr} {h : Head} {d : Option Dst} (hi : headOf i = some (h, d)) (hw : i.wf = true) : h.src.wf = true := by
  unfold headOf at hi
  unfold Instr.wf at hw
  have key : ∀ g : Head, g.wf = true → g.src.wf = true := fun g hg => (Bool.and_eq_true_iff.mp hg).2
  split at hi
  · cases hi
  · cases hi
  next hf => cases hi; rw [hf] at hw; exact key h hw
  next hf => cases hi; rw [hf] at hw; exact key h (Bool.and_eq_true_iff.mp hw).1

/-- A move that a supervisor strand may perform and that touches a supervisor port is one that a user strand may not. -/
theorem moveCause_user {i : Instr} {nli : Nat} (ht : touches i = true) (h : moveCause true nli i = none) :
    moveCause false nli i = some .privilegedPort := by
  unfold moveCause at h ⊢
  split at h <;> simp_all

theorem moveCause_supervisor (i : Instr) (nli : Nat) : moveCause true nli i ≠ some .privilegedPort := by
  unfold moveCause
  dsimp only
  split <;> simp

/-- A `cf.mode` write of a socket whose mode is locked, outside the supervisor strand (R104, R420). -/
theorem specMode_locked {st : Start} {s : State} (hw : st.a.getLsbD 63 = false) (hb : st.bank ≠ 3) (hn : bits st.a.toNat 13 8 < 23)
    (hl : s.self.lock.getLsbD (bits st.a.toNat 13 8) = true) :
    specMode.run st { st := s } = .error (.trap .privilegedPort 0 (BitVec.ofNat 64 (bits st.a.toNat 13 8))) := by
  unfold specMode
  dsimp only
  rw [hw, if_neg Bool.false_ne_true, if_pos ⟨hb, hn, hl⟩]

/-- Settles O4: the word by its decoding, the move at the issue by its decode fault, the mode write by its own check. -/
theorem privilegedPorts : Obligations.PrivilegedPorts := by
  refine ⟨fun i w hw he ht => ?word, fun i h d s hi ht hm hr hl => ?issue, fun i => moveCause_supervisor i 3, fun h => ?mode⟩
  case word =>
    obtain ⟨h, d, hi⟩ := headOf_of_touches ht
    have hli := liBeyond_of_wf (src_wf_of_head hi hw)
    rw [Encoding.decodeMove_encode true 3 hi hw he, Encoding.decodeMove_encode false 3 hi hw he, hli, ht]
    exact ⟨rfl, rfl⟩
  case issue =>
    refine exec_decodeFault hi hm ?_
    rw [decide_eq_false hr]
    exact moveCause_user ht hl
  case mode =>
    exact traps_of (sp := specMode) (fun _ => rfl) rfl rfl rfl (by decide) fun st s _ _ ⟨hw, hb, hn, hl⟩ => specMode_locked hw hb hn hl

/-! ## A step of a tile in turn (R99, R108, R121) -/

/-- The fetch of a bundle whose words stand in the code, hold no parity error and decode. -/
theorem fetch_of_decode {s : State} {m : Nat} {b : Bundle} (ha : ((s.tileAt m).bank (s.tileAt m).run).pc.toNat % 4 = 0)
    (hl : headLen (codeWords (s.quadAt m) (s.codeTile m) (s.tileAt m).run ((s.tileAt m).bank (s.tileAt m).run).pc.toNat) / 4
      ≤ (codeWords (s.quadAt m) (s.codeTile m) (s.tileAt m).run ((s.tileAt m).bank (s.tileAt m).run).pc.toNat).length)
    (hp : (bundleWords (s.tileAt m) (s.codeTile m)
      (headLen (codeWords (s.quadAt m) (s.codeTile m) (s.tileAt m).run ((s.tileAt m).bank (s.tileAt m).run).pc.toNat) / 4)).any
        (if (s.tileAt m).run = 3 then (s.quadAt m).badStore else (s.quadAt m).badCode).contains = false)
    (hd : decodeBundle ((s.tileAt m).run = 3)
      (codeWords (s.quadAt m) (s.codeTile m) (s.tileAt m).run ((s.tileAt m).bank (s.tileAt m).run).pc.toNat) = .ok b) :
    s.fetch m = .ok (b.moves.map fun m => (m.1, m.2, specOf m.2)) b.lis b.len := by
  unfold State.fetch
  simp only [ha, ne_eq, not_true, if_false, Nat.not_lt.mpr hl, hp, Bool.false_eq_true, hd]

/-- The turn of a tile that is awake, idles no cycle and has code, by the bundle that it fetches. -/
theorem serveTurn_of_fetch {s : State} {acts : List Act} {lis : List Word} {len : Nat} (ha : s.self.asleep = false)
    (hi : (s.self.bank s.self.run).idle = 0) (hs : s.self.run = 3 → (s.quadAt s.cur).store ≠ [])
    (hf : s.fetch s.issuer = .ok acts lis len) :
    (∀ bus i sp, acts = [(bus, i, sp)] → serveTurn s = exec i (s.latch lis len bus))
      ∧ (acts.length ≠ 1 → serveTurn s = exec .bundleIssue { s with ev := { tile := s.cur } }) := by
  have hstore : ¬((s.self.bank s.self.run).idle ≠ 0 ∨ (s.self.run = 3 ∧ (s.quadAt s.cur).store = [])) := by
    rintro (h | ⟨h3, h⟩)
    · exact h hi
    · exact hs h3 h
  unfold serveTurn
  simp only [ha, hi, Bool.false_eq_true, if_false, Nat.zero_ne_one, if_neg (hi ▸ hstore), hf]
  refine ⟨fun bus i sp h => by subst h; rfl, fun h => ?_⟩
  split
  next he => cases he; exact absurd rfl h
  all_goals rfl

/-- Settles O5, by the fetch of the decoded words and the turn of the tile. -/
theorem stepRunsDecoded : Obligations.StepRunsDecoded := by
  intro s a rest b hag hdue hturn s0 m t c ws hhas hasleep hidle hstore halign hlen hparity hdec
  have hfetch : s0.fetch s0.issuer = .ok (b.moves.map fun m => (m.1, m.2, specOf m.2)) b.lis b.len :=
    fetch_of_decode (m := m) halign hlen hparity hdec
  have hstep : step s = serveTurn s0 := (Scope.step_of_turn hag hdue hturn).trans (if_pos hhas)
  obtain ⟨hone, hmany⟩ := serveTurn_of_fetch hasleep hidle hstore hfetch
  rw [hstep]
  refine ⟨fun bus i hb => hone bus i (specOf i) (by rw [hb]; rfl), fun hb => hmany (by rwa [List.length_map])⟩

end Sys2Proof.Proofs.Bundles
end

section
/-! PROOF. The events of a tile: landings, agents, refetch, scrubber, sleep, timer, the steps of global accesses, records that are resolved, migration. -/

namespace Sys2Proof.Proofs.TileEvents

open Sys2Proof Sys2Proof.Machine Sys2Proof.Laws

/-! ## Agents of a tile -/

theorem agent_here {s : State} (h : s.ev.yes = false) (f : State → State) : s.agent f = f s := by
  simp [State.agent, h]

theorem agent_prev {s : State} (h : s.ev.yes = true) (f : State → State) : s.agent f = s.asPrev s.ev.tile s.ev.launch f := by
  simp [State.agent, h]

/-- What is done to a tile as a launch left it depends only on what it does to the states with the same event. -/
theorem asPrev_congr (s : State) (a : Nat) (l : Dword) {f g : State → State} (h : ∀ u : State, u.ev = s.ev → f u = g u) :
    s.asPrev a l f = s.asPrev a l g := by
  unfold State.asPrev
  dsimp only
  split
  · exact h s rfl
  · next v older _ => rw [h (s.setTile ((s.tileAt a).asLeft v older)) rfl]

theorem agents (s : State) : let a := s.ev.tile
    exec .freeRunningLanding s = .next (s.onTile a fun t => t.landBank t.run)
      ∧ exec .loopPassEnd s = .next (s.onTile a fun t => t.passBank (s.quadAt a) (s.codeTile a) t.run)
      ∧ exec .fmtTakesEffect s = .next (s.onTile a fun t => t.onBank t.run Strand.fmtNow)
      ∧ (s.ev.yes = false → exec .fillerCommit s = .next (s.fillerStep a s.ev.ring)
        ∧ exec .mxOpStart s = .next (s.mxStart a) ∧ exec .mxOpEnd s = .next (s.mxTick a true))
      ∧ (s.ev.yes = true → exec .fillerCommit s = .next (s.asPrev a s.ev.launch fun s => s.fillerStep a s.ev.ring)
        ∧ exec .mxOpStart s = .next (s.asPrev a s.ev.launch fun s => s.mxStart a)
        ∧ exec .mxOpEnd s = .next (s.asPrev a s.ev.launch fun s => s.mxTick a true)) := by
  refine ⟨rfl, rfl, rfl, fun h => ?_, fun h => ?_⟩
  · exact ⟨congrArg _ (agent_here h _), congrArg _ (agent_here h _), congrArg _ (agent_here h _)⟩
  · refine ⟨congrArg _ ((agent_prev h _).trans (asPrev_congr s _ _ fun u hu => ?_)),
      congrArg _ ((agent_prev h _).trans (asPrev_congr s _ _ fun u hu => ?_)),
      congrArg _ ((agent_prev h _).trans (asPrev_congr s _ _ fun u hu => ?_))⟩
    all_goals rw [hu]

theorem fmtNow_spec (b : Strand) :
    (b.fmtDue = true → b.fmtNow.fmt = b.fmtPend ∧ b.fmtNow.fmtDue = false) ∧ (b.fmtDue = false → b.fmtNow = b) :=
  ⟨fun h => by simp [Strand.fmtNow, h], fun h => by simp [Strand.fmtNow, h]⟩

/-! ## Landings -/

theorem dataLockedLanding_spec (s : State) (o : DlOp) (hf : ((s.tileAt s.ev.tile).queue.find? fun o => o.id = s.ev.op) = some o)
    (hl : (s.tileAt s.ev.tile).landable s.tick o = true ∨ (s.tileAt s.ev.tile).landsFirst s.tick o = true) :
    let v := s.onTile s.ev.tile fun t => t.landOp o
    (∀ p, o.late = some p → o.old = none → exec .dataLockedLanding s = .next (v.bringCause s.ev.tile { p with since := s.tick, task := o.task }))
      ∧ ((o.late = none ∨ o.old.isSome = true) → exec .dataLockedLanding s = .next v) := by
  have he : exec .dataLockedLanding s = execDataLockedLanding s := rfl
  have hl' : ((s.tileAt s.ev.tile).landable s.tick o || (s.tileAt s.ev.tile).landsFirst s.tick o) = true := by simpa using hl
  rw [he]
  unfold execDataLockedLanding
  simp only [hf]
  rw [if_pos hl']
  refine ⟨fun p hp ho => by rw [hp, ho]; rfl, fun h => ?_⟩
  cases hp : o.late with
  | none => rfl
  | some p =>
    cases ho : o.old with
    | none => simp [hp, ho] at h
    | some l => rfl

theorem landRes_fullX (b : Strand) (k : Sock) {r : Res} {x : Bus} (h : r.x = some x) : ((landRes b k true r).sock k).fullX = true := by
  obtain ⟨rx, ry, rs, rf⟩ := r
  cases h
  refine (congrArg SockCtx.fullX (sock_setSock b k _)).trans ?_
  cases ry <;> exact Bool.or_true _

theorem landRes_g (b : Strand) (k : Sock) (full : Bool) (r : Res) : (landRes b k full r).g = b.g := rfl

theorem landOp_landed {t : Tile} {o : DlOp} {r : Res} (ho : o.old = none) (hl : o.late = none) (hr : o.res = some r) (hw : o.wx = true) :
    ∃ u : Tile, t.landOp o = u.onBank o.bank (fun b => landRes b o.sock true (if statusAtFree o.sock then { r with s := (b.sock o.sock).s } else r))
      ∧ u.banks = t.banks ∧ u.sram = t.sram ∧ u.queue = t.queue.map fun p => if p.id = o.id then { p with landed := true } else p := by
  unfold Tile.landOp
  simp only [ho, hl, hr, hw, Option.isSome_none, Bool.false_eq_true, if_false, if_true, Bool.true_and]
  by_cases hk : o.sock = .kn
  · rw [if_pos hk]; exact ⟨_, rfl, rfl, rfl, rfl⟩
  · rw [if_neg hk]; exact ⟨_, rfl, rfl, rfl, rfl⟩

theorem landOp_spec (t : Tile) (o : DlOp) (r : Res) (ho : o.old = none) (hl : o.late = none) (hr : o.res = some r) (hw : o.wx = true) :
    let u := t.landOp o
    (∀ x, r.x = some x → ((u.bank o.bank).sock o.sock).x = x ∧ ((u.bank o.bank).sock o.sock).fullX = true)
      ∧ ((u.bank o.bank).sock o.sock).s = (if o.sock = .sy ∨ o.sock = .tk then ((t.bank o.bank).sock o.sock).s else r.s) ∧ (u.bank o.bank).flags = (t.bank o.bank).flags ||| r.flags
      ∧ (u.bank o.bank).g = (t.bank o.bank).g ∧ u.sram = t.sram ∧ u.queue.length = t.queue.length := by
  obtain ⟨u, hu, hb, hs, hq⟩ := landOp_landed (t := t) ho hl hr hw
  have hbank : u.bank o.bank = t.bank o.bank := by simp only [Tile.bank, hb]
  have hst : statusAtFree o.sock = true ↔ o.sock = .sy ∨ o.sock = .tk := by cases o.sock <;> decide
  intro w
  have hw' : w.bank o.bank = landRes (t.bank o.bank) o.sock true
      (if statusAtFree o.sock then { r with s := ((t.bank o.bank).sock o.sock).s } else r) := by
    show (t.landOp o).bank o.bank = _
    rw [hu, bank_onBank, hbank]
  have hx : (if statusAtFree o.sock then { r with s := ((t.bank o.bank).sock o.sock).s } else r).x = r.x := by split <;> rfl
  have hf : (if statusAtFree o.sock then { r with s := ((t.bank o.bank).sock o.sock).s } else r).flags = r.flags := by split <;> rfl
  obtain ⟨h1, h2, h3, h4⟩ := landRes_spec (t.bank o.bank) o.sock true
    (if statusAtFree o.sock then { r with s := ((t.bank o.bank).sock o.sock).s } else r)
  rw [hw']
  refine ⟨fun x hrx => ⟨?_, landRes_fullX _ _ (hx.trans hrx)⟩, ?_, ?_, rfl, ?_, ?_⟩
  · rw [h1, hx, hrx]; rfl
  · rw [h3]
    by_cases h : statusAtFree o.sock = true
    · rw [if_pos h, if_pos (hst.mp h)]
    · rw [if_neg h, if_neg fun h' => h (hst.mpr h')]
  · rw [h4, hf]
  · show (t.landOp o).sram = _
    rw [hu]; exact hs
  · show (t.landOp o).queue.length = _
    rw [hu, onBank_queue, hq, List.length_map]

/-! ## Idle cycles, refetch, scrubber -/

theorem idleEnd_spec (s : State) (h : ((s.tileAt s.ev.tile).bank (s.tileAt s.ev.tile).run).idle = 1) :
    exec .idleEnd s = .next { idleCycle { s with cur := s.ev.tile } with cur := s.cur } := if_pos h

theorem errAdd_get (t : Tile) (i : Fin 5) (n cap : Nat) : (t.errAdd i n cap).errs[i] = min (t.errs[i] + n) cap := by
  simp [Tile.errAdd]

/-- The words that a refetch has loaded are in error no more. -/
def refetched (s : State) (a : Nat) (q : Quad) : Quad :=
  let t := s.tileAt a
  let ws := bundleWords t (s.codeTile a) (headLen (codeWords (s.quadAt a) (s.codeTile a) t.run (t.bank t.run).pc.toNat) / 4)
  let clear (l : List Nat) : List Nat := l.filter fun w => !(linesOf ws).contains (w / 16)
  if t.run = 3 then { q with badStore := clear q.badStore } else { q with badCode := clear q.badCode }

theorem parityRefetch_reload {s : State} (h : (s.tileAt s.ev.tile).refetch = true) (hy : s.ev.yes = false) :
    exec .parityRefetch s = .next (((s.onTile s.ev.tile fun t => { (t.errAdd 2 1 0xFFFF) with refetch := false, ready := max t.ready s.tick }).countErr
      s.ev.tile fun e => { e with corr := e.corr + 1 }).onQuad s.ev.tile (refetched s s.ev.tile)) := by
  have he : exec .parityRefetch s = execParityRefetch s := rfl
  rw [he]
  unfold execParityRefetch
  simp only [h, Bool.not_true, Bool.false_eq_true, if_false]
  exact if_neg (by simp [hy])

theorem parityRefetch_fault {s : State} (h : (s.tileAt s.ev.tile).refetch = true) (hy : s.ev.yes = true) :
    exec .parityRefetch s = .next { decodeFault .dataUncorrectable none 2 { s.onTile s.ev.tile fun t =>
      { (t.errAdd 2 1 0xFFFF) with refetch := false, ready := max t.ready s.tick } with cur := s.ev.tile } with cur := s.cur } := by
  have he : exec .parityRefetch s = execParityRefetch s := rfl
  rw [he]
  unfold execParityRefetch
  simp only [h, Bool.not_true, Bool.false_eq_true, if_false]
  exact if_pos hy

@[simp] theorem tileAt_onQuad (s : State) (a b : Nat) (f : Quad → Quad) : (s.onQuad a f).tileAt b = s.tileAt b := rfl

@[simp] theorem tileAt_countErr (s : State) (a b : Nat) (f : QuadErr → QuadErr) : (s.countErr a f).tileAt b = s.tileAt b := rfl

theorem tileAt_record (s : State) (cls : Nat) (c : Cause) (unit who addr : Nat) (l : Dword) (b : Nat) :
    (s.record cls c unit who addr l).tileAt b = s.tileAt b := by
  obtain ⟨m, e, o, h⟩ := Health.record_eq s cls c unit who addr l
  rw [h]; rfl

@[simp] theorem tileAt_tileRecord (s : State) (cls a : Nat) (c : Cause) (d addr : Nat) (l : Dword) (b : Nat) :
    (s.tileRecord cls a c d addr l).tileAt b = s.tileAt b := tileAt_record ..

theorem parityRefetch_spec (s : State) (h : (s.tileAt s.ev.tile).refetch = true) (hy : s.ev.yes = false) :
    ∃ t, exec .parityRefetch s = .next t ∧ (t.tileAt s.ev.tile).refetch = false
      ∧ (t.tileAt s.ev.tile).errs[2] = min ((s.tileAt s.ev.tile).errs[2] + 1) 0xFFFF ∧ (t.tileAt s.ev.tile).banks = (s.tileAt s.ev.tile).banks := by
  refine ⟨_, parityRefetch_reload h hy, ?_⟩
  rw [tileAt_onQuad, tileAt_countErr, tileAt_onTile]
  exact ⟨rfl, errAdd_get _ 2 1 _, rfl⟩

theorem tileAt_onTile_same {s : State} {a : Nat} {f : Tile → Tile} (h : (f (s.tileAt a)).addr = a) : (s.onTile a f).tileAt a = f (s.tileAt a) := by
  have he : ∀ t : Tile, t.addr = a → { t with addr := a } = t := fun t ht => by subst ht; rfl
  rw [tileAt_onTile, he _ h]

/-- A correction changes in its tile only the words in error and the count of errors, and nothing of global memory. -/
theorem correct_eq (s : State) (a : Nat) (ps : List Nat) :
    (∃ l e, (s.correct a ps).tileAt a = { s.tileAt a with soft := l, errs := e }) ∧ (s.correct a ps).mem = s.mem := by
  unfold State.correct
  dsimp only
  split
  · exact ⟨⟨_, _, rfl⟩, rfl⟩
  · rw [tileAt_countErr, tileAt_onTile_same]
    rotate_left
    · exact tileAt_addr s a
    exact ⟨⟨_, _, rfl⟩, rfl⟩

/-- What the scrubber does at its tile before it looks at the word. -/
def scrubbed (s : State) (a : Nat) : State :=
  { s.onTile a fun t => { t with scrub := ((s.tileAt a).scrub + 1) % 0xC000, scrubDue := s.tick + 256 + Config.delay s.free } with free := s.free + 1 }

theorem tileAt_scrubbed (s : State) (a : Nat) : (scrubbed s a).tileAt a
    = { s.tileAt a with scrub := ((s.tileAt a).scrub + 1) % 0xC000, scrubDue := s.tick + 256 + Config.delay s.free } :=
  tileAt_onTile_same (f := fun t => { t with scrub := ((s.tileAt a).scrub + 1) % 0xC000, scrubDue := s.tick + 256 + Config.delay s.free }) (tileAt_addr s a)

theorem scrubRead_bad {s : State} (h : (s.tileAt s.ev.tile).scrubDue ≤ s.tick) (hb : (s.tileAt s.ev.tile).scrub ∈ (s.tileAt s.ev.tile).bad) :
    ∃ d l, exec .scrubRead s = .next ((((scrubbed s s.ev.tile).onTile s.ev.tile fun t => t.errAdd 3 1 0xFF).countErr s.ev.tile
      fun e => { e with unc := e.unc + 1 }).tileRecord 3 s.ev.tile .dataUncorrectable 0 d l) := by
  have he : exec .scrubRead s = execScrubRead s := rfl
  have hb' : (s.tileAt s.ev.tile).bad.contains (s.tileAt s.ev.tile).scrub = true := List.contains_iff_mem.mpr hb
  refine ⟨8 * (s.tileAt s.ev.tile).scrub, (s.tileAt s.ev.tile).launchId, ?_⟩
  rw [he]
  unfold execScrubRead
  rw [if_neg (by omega)]
  exact if_pos hb'

theorem scrubRead_good {s : State} (h : (s.tileAt s.ev.tile).scrubDue ≤ s.tick) (hb : (s.tileAt s.ev.tile).scrub ∉ (s.tileAt s.ev.tile).bad) :
    exec .scrubRead s = .next ((scrubbed s s.ev.tile).correct s.ev.tile [8 * (s.tileAt s.ev.tile).scrub]) := by
  have he : exec .scrubRead s = execScrubRead s := rfl
  have hb' : ¬(s.tileAt s.ev.tile).bad.contains (s.tileAt s.ev.tile).scrub = true := fun h => hb (List.contains_iff_mem.mp h)
  rw [he]
  unfold execScrubRead
  rw [if_neg (by omega)]
  exact if_neg hb'

theorem scrubRead_spec (s : State) : let a := s.ev.tile
    let t := s.tileAt a
    t.scrubDue ≤ s.tick → ∃ u, exec .scrubRead s = .next u ∧ (u.tileAt a).scrub = (t.scrub + 1) % 0xC000 ∧ s.tick + 256 ≤ (u.tileAt a).scrubDue
      ∧ (u.tileAt a).sram = t.sram ∧ (t.scrub ∈ t.bad → (u.tileAt a).errs[3] = min (t.errs[3] + 1) 0xFF) ∧ (t.scrub ∉ t.bad → u.mem = s.mem) := by
  intro a t h
  by_cases hb : t.scrub ∈ t.bad
  · obtain ⟨d, l, he⟩ := scrubRead_bad h hb
    refine ⟨_, he, ?_⟩
    rw [tileAt_tileRecord, tileAt_countErr, tileAt_onTile, tileAt_scrubbed]
    exact ⟨rfl, Nat.le_add_right _ _, rfl, fun _ => errAdd_get _ 3 1 _, fun hn => absurd hb hn⟩
  · obtain ⟨⟨l, e, hc⟩, hm⟩ := correct_eq (scrubbed s a) a [8 * t.scrub]
    refine ⟨_, scrubRead_good h hb, ?_⟩
    rw [hc, hm, tileAt_scrubbed]
    exact ⟨rfl, Nat.le_add_right _ _, rfl, fun hn => absurd hn hb, fun _ => rfl⟩

/-! ## Sleep, wake, timer -/

theorem onTile_congr {s : State} {a : Nat} {f g : Tile → Tile} (h : f (s.tileAt a) = g (s.tileAt a)) : s.onTile a f = s.onTile a g := by
  unfold State.onTile
  rw [h]

/-- Every `tidle` that waits has been slept for. -/
def tidleSlept (o : DlOp) : DlOp := if o.kind == .tidle && o.st == .waiting then { o with prog := 1 } else o

theorem tidleSlept_rests (now : Nat) (o : DlOp) : ((tidleSlept o).kind == .tidle && (tidleSlept o).st == .waiting && (tidleSlept o).prog == 0
    && decide ((tidleSlept o).due ≤ now)) = false := by
  unfold tidleSlept
  by_cases h : (o.kind == .tidle && o.st == .waiting) = true
  · rw [if_pos h]; simp
  · rw [if_neg h]; simp [h]

theorem tileSleep_stalled {s : State} (h : 33 ≤ (s.tileAt s.ev.tile).stalled) :
    exec .tileSleep s = .next (s.onTile s.ev.tile fun t => { t with asleep := true }) :=
  congrArg Host.Outcome.next (onTile_congr (if_pos h))

theorem tileSleep_tidle {s : State} (h : (s.tileAt s.ev.tile).stalled < 33) (ht : (s.tileAt s.ev.tile).tidleSleeps s.tick = true) :
    exec .tileSleep s = .next (s.onTile s.ev.tile fun t => { t with asleep := true, queue := t.queue.map tidleSlept }) :=
  congrArg Host.Outcome.next (onTile_congr ((if_neg (by omega)).trans (if_pos ht)))

theorem tileSleep_spec (s : State) : let a := s.ev.tile
    let t := s.tileAt a
    (33 ≤ t.stalled → exec .tileSleep s = .next (s.onTile a fun t => { t with asleep := true }))
      ∧ (t.stalled < 33 → t.tidleSleeps s.tick = true → ∃ u, exec .tileSleep s = .next u ∧ (u.tileAt a).asleep = true ∧ (u.tileAt a).tidleSleeps s.tick = false
        ∧ (u.tileAt a).banks = t.banks ∧ (u.tileAt a).sram = t.sram ∧ (u.tileAt a).ready = t.ready) := by
  refine ⟨tileSleep_stalled, fun h ht => ⟨_, tileSleep_tidle h ht, ?_⟩⟩
  rw [tileAt_onTile]
  refine ⟨rfl, ?_, rfl, rfl, rfl⟩
  have hq : ((s.tileAt s.ev.tile).queue.map tidleSlept).any (fun o => o.kind == .tidle && o.st == .waiting && o.prog == 0 && decide (o.due ≤ s.tick)) = false := by
    rw [List.any_map, List.any_eq_false]
    intro o _
    exact Bool.eq_false_iff.mp (tidleSlept_rests s.tick o)
  exact (congrArg (((s.tileAt s.ev.tile).run == 0) && ·) hq).trans (Bool.and_false _)

theorem tileWake_spec (s : State) (h : (s.tileAt s.ev.tile).asleep = true) : let s' : State := { s with cur := s.ev.tile }
    s'.inGang = false →
      (wouldIssue s' = true → (s.tileAt s.ev.tile).tidleRests = true → exec .tileWake s = .next s)
      ∧ (wouldIssue s' = true → (s.tileAt s.ev.tile).tidleRests = false → exec .tileWake s = .next (s.onTile s.ev.tile fun t => t.wake s.tick))
      ∧ (wouldIssue s' = false → exec .tileWake s = .next { sleepTick s' with cur := s.cur }) := by
  intro s' hg
  have he : exec .tileWake s = execTileWake s := rfl
  have hself : s'.self = s.tileAt s.ev.tile := rfl
  rw [he]
  unfold execTileWake
  dsimp only
  rw [if_neg (by rw [hself, h]; decide), hself]
  refine ⟨fun hw ht => if_pos ⟨ht, hw⟩, fun hw ht => ?_, fun hw => ?_⟩
  · rw [if_neg (by rw [ht]; exact fun h => Bool.false_ne_true h.1), if_pos hw, if_neg (by rw [hg]; decide)]
    rfl
  · rw [if_neg (by rw [hw]; exact fun h => Bool.false_ne_true h.2), if_neg (by rw [hw]; decide)]

theorem wake_spec (t : Tile) (now : Nat) (h : t.asleep = true) :
    (t.wake now).asleep = false ∧ (t.wake now).ready = max t.ready now + wakeDelay t.sleepd := by
  unfold Tile.wake
  rw [if_pos h]
  exact ⟨rfl, rfl⟩

theorem supervisorTimerExpiry_spec (s : State) : let t := s.tileAt s.ev.tile
    t.stmr ≠ 0 → t.stmr ≤ s.tick → t.frozen = false → exec .supervisorTimerExpiry s = .next (s.onTile s.ev.tile fun t => t.timerExpiry s.tick) := by
  intro t h0 hd hf
  refine if_neg ?_
  rintro (h | h | h)
  · exact h0 h
  · exact absurd hd (Nat.not_le.mpr h)
  · exact absurd (hf.symm.trans h) Bool.false_ne_true

theorem timerExpiry_spec (t : Tile) (now : Nat) :
    (t.timerExpiry now).stmr = 0 ∧ ((t.bank 0).life ≠ .halted → (t.timerExpiry now).asleep = false ∧ ∃ p, (t.timerExpiry now).pend = t.pend ++ [p]
      ∧ p.cause = .preempt ∧ p.detail = 1 ∧ p.kind = .async ∧ p.bank = (if t.run = 3 then (t.sel[0]).extractLsb' 10 2 else t.run))
      ∧ ((t.bank 0).life = .halted → (t.timerExpiry now).pend = t.pend) := by
  by_cases h : (t.bank 0).life = .halted
  · have he : t.timerExpiry now = { t with stmr := 0 } := if_pos h
    rw [he]
    exact ⟨rfl, fun hn => absurd h hn, fun _ => rfl⟩
  · have he : t.timerExpiry now = _ := if_neg h
    rw [he]
    exact ⟨rfl, fun _ => ⟨rfl, _, rfl, rfl, rfl, rfl, rfl⟩, fun hn => absurd hn h⟩

/-! ## The engine's own events -/

theorem execDmCompletion_run {s : State} {o : DlOp} (h : s.op? s.ev.tile s.ev.op = some o) (ho : o.st = .queued ∨ o.st = .active) :
    exec .dmCompletion s = .next (s.dmStep s.ev.tile o) := by
  have he : exec .dmCompletion s = execDmCompletion s := rfl
  rw [he]
  unfold execDmCompletion
  rcases ho with ho | ho <;> simp only [h, ho]

theorem execDmCompletion_end {s : State} {o : DlOp} (h : s.op? s.ev.tile s.ev.op = some o) (ho : o.st = .performed) (hx : o.wx = false)
    (hk : o.sock = .dm) (hd : o.due ≤ s.tick) : exec .dmCompletion s = .next (s.onTile s.ev.tile fun t => t.dmFinish o) := by
  have he : exec .dmCompletion s = execDmCompletion s := rfl
  rw [he]
  unfold execDmCompletion
  simp only [h, ho]
  exact if_pos (by simp [hx, hk, hd])

theorem execWalk {s : State} {o : DlOp} (h : s.op? s.ev.tile s.ev.op = some o) (hw : o.walk = 2) (ho : o.st = .active) :
    exec .translationWalk s = .next (s.coreAnswer s.ev.tile o (o.access ≠ .rd)) ∧ exec .dUpdate s = .next (s.coreAnswer s.ev.tile o true) := by
  have h1 : exec .translationWalk s = execTranslationWalk s := rfl
  have h2 : exec .dUpdate s = execDUpdate s := rfl
  rw [h1, h2]
  unfold execTranslationWalk execDUpdate
  simp only [h]
  exact ⟨if_pos ⟨hw, ho⟩, if_pos ⟨hw, ho⟩⟩

theorem execAccessRetry_due {s : State} {o : DlOp} (h : s.op? s.ev.tile s.ev.op = some o) {u : Nat} (ho : o.st = .refused u) (hu : u ≤ s.tick) :
    exec .accessRetry s = .next ((s.putOp s.ev.tile { o with st := .active, walk := 0 }).tryAccess s.ev.tile
      { o with st := .active, walk := 0 } (if o.sock = .dm then .dmCompletion else .atomicArrival)) := by
  have he : exec .accessRetry s = execAccessRetry s := rfl
  rw [he]
  unfold execAccessRetry
  simp only [h, ho]
  exact if_neg (Nat.not_lt.mpr hu)

theorem engineEvents (s : State) (o : DlOp) (h : s.op? s.ev.tile s.ev.op = some o) :
    ((o.st = .queued ∨ o.st = .active) → exec .dmCompletion s = .next (s.dmStep s.ev.tile o))
      ∧ (o.st = .performed → o.wx = false → o.sock = .dm → o.due ≤ s.tick → exec .dmCompletion s = .next (s.onTile s.ev.tile fun t => t.dmFinish o))
      ∧ (o.walk = 2 → o.st = .active → exec .translationWalk s = .next (s.coreAnswer s.ev.tile o (o.access ≠ .rd)) ∧ exec .dUpdate s = .next (s.coreAnswer s.ev.tile o true))
      ∧ (∀ u, o.st = .refused u → u ≤ s.tick → exec .accessRetry s = .next ((s.putOp s.ev.tile { o with st := .active, walk := 0 }).tryAccess s.ev.tile
          { o with st := .active, walk := 0 } (if o.sock = .dm then .dmCompletion else .atomicArrival))) :=
  ⟨execDmCompletion_run h, execDmCompletion_end h, execWalk h, fun _ => execAccessRetry_due h⟩

theorem dropOp_queue_ne {t : Tile} {i : Nat} {x : DlOp} (h : x ∈ (t.dropOp i).queue) : x.id ≠ i :=
  of_decide_eq_true (List.mem_filter.mp h).2

theorem mem_dropOp {t : Tile} {i : Nat} {x : DlOp} (h : x ∈ t.queue) (hi : x.id ≠ i) : x ∈ (t.dropOp i).queue :=
  List.mem_filter.mpr ⟨h, decide_eq_true hi⟩

theorem tagBit_getLsbD (n : BitVec 6) (k : Nat) : (tagBit n.toNat).getLsbD k = decide (k = n.toNat) := by
  have hn := n.isLt
  rw [tagBit, Nat.mod_eq_of_lt hn, BitVec.getLsbD_shiftLeft]
  by_cases hk : k = n.toNat
  · subst hk; simp [hn]
  · by_cases hlt : k < n.toNat
    · simp [hlt, hk]
    · have : k - n.toNat ≠ 0 := by omega
      simp [hk, BitVec.getLsbD_one, this]

theorem setTag_getLsbD (t : Tile) (n : BitVec 6) (k : Nat) : (t.setTag n.toNat).tags.getLsbD k = (t.tags.getLsbD k || decide (k = n.toNat)) := by
  rw [← tagBit_getLsbD]
  exact BitVec.getLsbD_or

/-- A tag that no operation names any more, none of them stopped, is set (R281). -/
theorem dmTag_free {t : Tile} {n : Nat} (h : ∀ x ∈ t.queue, x.namesTag n = false) (hs : t.tagStop.getLsbD n = false) : t.dmTag n = t.setTag n := by
  have ha : t.queue.any (fun o => o.namesTag n) = false := List.any_eq_false.mpr fun x hx => Bool.eq_false_iff.mp (h x hx)
  exact if_neg (by rw [ha, hs]; decide)

theorem dmFinish_eq {t : Tile} {o : DlOp} {r : Res} {n : BitVec 6} (ho : o.old = none) (hr : o.res = some r) (ht : o.tag = some n) :
    t.dmFinish o = (((t.dropOp o.id).onBank o.bank fun b => b.onSock .dm fun c => { c with s := r.s }).dmTag n.toNat) := by
  unfold Tile.dmFinish
  simp only [ho, hr, ht]
  rfl

theorem dmFinish_spec (t : Tile) (o : DlOp) (r : Res) (n : BitVec 6) (ho : o.old = none) (hr : o.res = some r) (ht : o.tag = some n)
    (hs : t.tagStop.getLsbD n.toNat = false) (hq : ∀ x ∈ t.queue, x.id ≠ o.id → x.namesTag n.toNat = false) :
    let u := t.dmFinish o
    (∀ x ∈ u.queue, x.id ≠ o.id) ∧ (∀ x ∈ t.queue, x.id ≠ o.id → x ∈ u.queue) ∧ ((u.bank o.bank).sock .dm).s = r.s ∧ u.tags.getLsbD n.toNat = true
      ∧ ∀ k, k ≠ n.toNat → u.tags.getLsbD k = t.tags.getLsbD k := by
  intro u
  have hu : u = ((t.dropOp o.id).onBank o.bank fun b => b.onSock .dm fun c => { c with s := r.s }).setTag n.toNat :=
    (dmFinish_eq ho hr ht).trans (dmTag_free (fun x hx => hq x (List.mem_filter.mp hx).1 (dropOp_queue_ne hx)) hs)
  rw [hu]
  refine ⟨fun x hx => dropOp_queue_ne hx, fun x hx hi => mem_dropOp hx hi, ?_, ?_, fun k hk => ?_⟩
  · have hb : (((t.dropOp o.id).onBank o.bank fun b => b.onSock .dm fun c => { c with s := r.s }).setTag n.toNat).bank o.bank
        = (t.bank o.bank).onSock .dm fun c => { c with s := r.s } :=
      bank_onBank (t.dropOp o.id) o.bank fun b => b.onSock .dm fun c => { c with s := r.s }
    rw [hb]
    exact congrArg SockCtx.s (sock_setSock (t.bank o.bank) .dm _)
  · rw [setTag_getLsbD]; simp
  · rw [setTag_getLsbD, decide_eq_false hk, Bool.or_false]; rfl

/-! ## A record that is resolved (R276) -/

/-- An operation whose access is walked by the core. -/
def walking (o : DlOp) : DlOp := { o with st := .active, walk := 2 }

/-- The access of an operation goes to the core again. -/
def rewalk (s : State) (x : Nat × DlOp) : State :=
  (s.putOp x.1 (walking x.2)).sched 1 none .translationWalk { tile := x.1, op := x.2.id }

/-- An operation of the tile has the number. -/
def HasOp (s : State) (a i : Nat) : Prop := ∃ o ∈ (s.tileAt a).queue, o.id = i

/-- The operation waits for a walk, and the walk is on the agenda. -/
structure Walks (s : State) (a i : Nat) : Prop where
  op : ∃ o ∈ (s.tileAt a).queue, o.id = i ∧ o.st = .active ∧ o.walk = 2
  ev : ∃ e ∈ s.agenda, e.2.1 = .translationWalk ∧ e.2.2.tile = a ∧ e.2.2.op = i

theorem tileAt_rewalk (s : State) (x : Nat × DlOp) : ((rewalk s x).tileAt x.1).queue
    = (s.tileAt x.1).queue.map fun p => if p.id = x.2.id then walking x.2 else p :=
  congrArg Tile.queue (tileAt_onTile s x.1 fun t => t.putOp (walking x.2))

theorem tileAt_rewalk_other (s : State) (x : Nat × DlOp) {a : Nat} (h : a ≠ x.1) : (rewalk s x).tileAt a = s.tileAt a :=
  tileAt_onTile_other s (fun t => t.putOp (walking x.2)) h

theorem agenda_rewalk (s : State) (x : Nat × DlOp) {e : Nat × Instr × EvArg} (h : e ∈ s.agenda) : e ∈ (rewalk s x).agenda :=
  List.mem_append_left _ h

theorem hasOp_rewalk {s : State} {a i : Nat} (h : HasOp s a i) (x : Nat × DlOp) : HasOp (rewalk s x) a i := by
  obtain ⟨o, ho, hi⟩ := h
  by_cases ha : a = x.1
  · subst ha
    refine ⟨_, by rw [tileAt_rewalk]; exact List.mem_map_of_mem ho, ?_⟩
    by_cases hx : o.id = x.2.id
    · rw [if_pos hx]; exact hx.symm.trans hi
    · rw [if_neg hx]; exact hi
  · exact ⟨o, by rwa [tileAt_rewalk_other s x ha], hi⟩

theorem walks_kept {s : State} {a i : Nat} (h : Walks s a i) (x : Nat × DlOp) : Walks (rewalk s x) a i := by
  obtain ⟨⟨o, ho, hi, hst, hw⟩, e, he, hev⟩ := h
  refine ⟨?_, e, agenda_rewalk s x he, hev⟩
  by_cases ha : a = x.1
  · subst ha
    refine ⟨_, by rw [tileAt_rewalk]; exact List.mem_map_of_mem ho, ?_⟩
    by_cases hx : o.id = x.2.id
    · rw [if_pos hx]; exact ⟨hx.symm.trans hi, rfl, rfl⟩
    · rw [if_neg hx]; exact ⟨hi, hst, hw⟩
  · exact ⟨o, by rwa [tileAt_rewalk_other s x ha], hi, hst, hw⟩

theorem walks_rewalk {s : State} {x : Nat × DlOp} (h : HasOp s x.1 x.2.id) : Walks (rewalk s x) x.1 x.2.id := by
  obtain ⟨o, ho, hi⟩ := h
  refine ⟨⟨_, by rw [tileAt_rewalk]; exact List.mem_map_of_mem ho, ?_⟩, _, List.mem_append_right _ (List.mem_singleton_self _), rfl, rfl, rfl⟩
  rw [if_pos hi]
  exact ⟨rfl, rfl, rfl⟩

theorem walks_kept_foldl {a i : Nat} : ∀ (xs : List (Nat × DlOp)) {s : State}, Walks s a i → Walks (xs.foldl rewalk s) a i
  | [], _, h => h
  | x :: xs, _, h => walks_kept_foldl xs (walks_kept h x)

theorem walks_foldl {xs : List (Nat × DlOp)} {x : Nat × DlOp} (hx : x ∈ xs) :
    ∀ {s : State}, HasOp s x.1 x.2.id → Walks (xs.foldl rewalk s) x.1 x.2.id := by
  induction xs with
  | nil => cases hx
  | cons y ys ih =>
    intro s h
    rcases List.mem_cons.mp hx with rfl | hx
    · exact walks_kept_foldl ys (walks_rewalk h)
    · exact ih hx (hasOp_rewalk h y)

theorem faults_foldl : ∀ (xs : List (Nat × DlOp)) (s : State), (xs.foldl rewalk s).faults = s.faults
  | [], _ => rfl
  | x :: xs, s => (faults_foldl xs (rewalk s x)).trans rfl

theorem exec_hostWrite {s : State} {i : Instr} (hi : i ∈ portWrites) (hh : s.hostHint i = none) (hw : s.writes) : exec i s = .next (s.hostPerform i) := by
  obtain ⟨he, hp⟩ := HostAccess.exec_portWrite hi hw.1
  rw [he, BringUp.inOrder_of_free (by rw [hp]; exact hw.2) hh]

theorem anyFault_iff (s : State) (id : Word) : (s.faults.any fun r => r.id = id) = true ↔ ∃ r ∈ s.faults, r.id = id := by
  simp

theorem resolve_hit (s : State) (hf : ∃ r ∈ s.faults, r.id = s.ev.id) :
    s.writes → (∃ t, exec .resolveRewalk s = .next t ∧ (∀ r ∈ t.faults, r.id ≠ s.ev.id)
        ∧ ∀ x ∈ s.waitingOn s.ev.id, x.2 ∈ (s.tileAt x.1).queue →
          (∃ o ∈ (t.tileAt x.1).queue, o.id = x.2.id ∧ o.st = .active ∧ o.walk = 2) ∧ ∃ e ∈ t.agenda, e.2.1 = .translationWalk ∧ e.2.2.tile = x.1 ∧ e.2.2.op = x.2.id)
      ∧ exec .resolveFail s = .next ((s.waitingOn s.ev.id).foldl (fun s x => (s.engineFault x.1 x.2 .translationFault (s.nextVa x.1 x.2) 0).pendNotice x.1 x.2)
          { s with faults := s.faults.filter fun r => r.id ≠ s.ev.id }) := by
  intro hw
  have ha := (anyFault_iff s s.ev.id).mpr hf
  have h1 : s.hostPerform .resolveRewalk = (s.waitingOn s.ev.id).foldl rewalk { s with faults := s.faults.filter fun r => r.id ≠ s.ev.id } := if_pos ha
  refine ⟨⟨_, (exec_hostWrite (by decide) rfl hw).trans (congrArg _ h1), fun r hr => ?_, fun x hx hq => ?_⟩, ?_⟩
  · rw [faults_foldl] at hr
    exact of_decide_eq_true (List.mem_filter.mp hr).2
  · obtain ⟨ho, he⟩ := walks_foldl hx (s := { s with faults := s.faults.filter fun r => r.id ≠ s.ev.id }) ⟨x.2, hq, rfl⟩
    exact ⟨ho, he⟩
  · exact (exec_hostWrite (by decide) rfl hw).trans (congrArg Host.Outcome.next (if_pos ha))

theorem resolve_miss (s : State) (hw : s.writes) (hf : ∀ r ∈ s.faults, r.id ≠ s.ev.id) : exec .resolveRewalk s = .next s ∧ exec .resolveFail s = .next s := by
  have ha : ¬(s.faults.any fun r => r.id = s.ev.id) = true := fun h => by
    obtain ⟨r, hr, hi⟩ := (anyFault_iff s s.ev.id).mp h
    exact hf r hr hi
  exact ⟨(exec_hostWrite (by decide) rfl hw).trans (congrArg Host.Outcome.next (if_neg ha)),
    (exec_hostWrite (by decide) rfl hw).trans (congrArg Host.Outcome.next (if_neg ha))⟩

theorem fqtailWrite_spec (s : State) : let v := s.ev.val.toNat
    s.writes → (v < s.tr.fqTail ∨ s.tr.fqHead < v → exec .fqtailWrite s = .next s)
        ∧ (s.tr.fqTail ≤ v → v ≤ s.tr.fqHead →
          exec .fqtailWrite s = .next ((s.faults.filter fun r => !r.written).foldl State.writeFault { s with tr := { s.tr with fqTail := v } }))
        ∧ (s.tr.fqTail ≤ v → v ≤ s.tr.fqHead → (∀ r ∈ s.faults, r.written = true) → exec .fqtailWrite s = .next { s with tr := { s.tr with fqTail := v } }) := by
  intro v hw
  have he : exec .fqtailWrite s = .next (s.fqTailWrite v) := exec_hostWrite (by decide) rfl hw
  have room : s.tr.fqTail ≤ v → v ≤ s.tr.fqHead →
      exec .fqtailWrite s = .next ((s.faults.filter fun r => !r.written).foldl State.writeFault { s with tr := { s.tr with fqTail := v } }) := fun hl hh =>
    he.trans (congrArg Host.Outcome.next (if_neg (by omega)))
  refine ⟨fun h => he.trans (congrArg Host.Outcome.next (if_pos h)), room, fun hl hh hr => ?_⟩
  have hn : (s.faults.filter fun r => !r.written) = [] := List.filter_eq_nil_iff.mpr fun r hm => by simp [hr r hm]
  rw [room hl hh, hn]
  rfl

/-! ## A final fault of an operation (R277, R281) -/

theorem fold_spec (n : Nat) : ∀ t : Tile, (Tile.fold n t).queue = t.queue ∧ (Tile.fold n t).tags = t.tags := by
  induction n with
  | zero => exact fun t => ⟨rfl, rfl⟩
  | succ n ih =>
    intro t
    unfold Tile.fold
    split
    · exact ⟨rfl, rfl⟩
    · split
      · exact ih _
      · exact ⟨rfl, rfl⟩

theorem setRingOf_spec (t : Tile) (o : DlOp) (x : Ring) : (t.setRingOf o x).queue = t.queue ∧ (t.setRingOf o x).tags = t.tags := by
  unfold Tile.setRingOf
  split <;> exact ⟨rfl, rfl⟩

theorem stopFill_spec (t : Tile) (o : DlOp) : (t.stopFill o).queue = t.queue ∧ (t.stopFill o).tags = t.tags := by
  unfold Tile.stopFill
  split
  · split
    · exact setRingOf_spec ..
    · exact ⟨rfl, rfl⟩
  · exact ⟨rfl, rfl⟩

theorem failStatus_spec (t : Tile) (o : DlOp) : (t.failStatus o).queue = t.queue ∧ (t.failStatus o).tags = t.tags := by
  unfold Tile.failStatus
  split <;> exact ⟨rfl, rfl⟩

/-- The operation leaves the queue, and a `dm` tag that it names is marked. -/
def dropStopped (t : Tile) (o : DlOp) : Tile :=
  match o.tag with
  | some n => { (t.dropOp o.id) with tagStop := if o.sock = Sock.dm then t.tagStop ||| tagBit n.toNat else t.tagStop }
  | none => t.dropOp o.id

theorem dropStopped_spec (t : Tile) (o : DlOp) : (dropStopped t o).queue = (t.dropOp o.id).queue ∧ (dropStopped t o).tags = t.tags := by
  unfold dropStopped
  split <;> exact ⟨rfl, rfl⟩

/-- A tile in which an operation has been stopped. -/
def stopped (o : DlOp) (t : Tile) : Tile := (((dropStopped t o).foldAll).stopFill o).failStatus o

theorem stopped_spec (o : DlOp) (t : Tile) : (stopped o t).queue = (t.dropOp o.id).queue ∧ (stopped o t).tags = t.tags := by
  obtain ⟨q1, t1⟩ := dropStopped_spec t o
  obtain ⟨q2, t2⟩ := fold_spec (dropStopped t o).dgbuf.length (dropStopped t o)
  obtain ⟨q3, t3⟩ := stopFill_spec (dropStopped t o).foldAll o
  obtain ⟨q4, t4⟩ := failStatus_spec ((dropStopped t o).foldAll.stopFill o) o
  exact ⟨q4.trans (q3.trans (q2.trans q1)), t4.trans (t3.trans (t2.trans t1))⟩

theorem engineFault_old {o : DlOp} {l : Dword} (h : o.old = some l) (s : State) (a : Nat) (c : Cause) (va d : Nat) :
    s.engineFault a o c va d
      = ((s.onTile a (stopped o)).noteCause a (o.pending c va d s.tick)).tileRecord 10 a c d (o.pending c va d s.tick).where_ l := by
  unfold State.engineFault
  simp only [h]
  rfl

theorem engineFault_live {o : DlOp} (h : o.old = none) (s : State) (a : Nat) (c : Cause) (va d : Nat) :
    s.engineFault a o c va d = (s.onTile a (stopped o)).lateCause a (o.pending c va d s.tick) := by
  unfold State.engineFault
  simp only [h]
  rfl

/-- What a cause changes in the queue and the tags of its tile: nothing. -/
structure SameQueue (s t : State) (a : Nat) : Prop where
  queue : (t.tileAt a).queue = (s.tileAt a).queue
  tags : (t.tileAt a).tags = (s.tileAt a).tags

theorem SameQueue.of_tile {s t : State} {a : Nat} (h : t.tileAt a = s.tileAt a) : SameQueue s t a := ⟨congrArg _ h, congrArg _ h⟩

theorem SameQueue.trans {s t u : State} {a : Nat} (h : SameQueue s t a) (k : SameQueue t u a) : SameQueue s u a :=
  ⟨k.queue.trans h.queue, k.tags.trans h.tags⟩

theorem sameQueue_onTile {s : State} {a : Nat} {f : Tile → Tile} (hq : (f (s.tileAt a)).queue = (s.tileAt a).queue)
    (ht : (f (s.tileAt a)).tags = (s.tileAt a).tags) : SameQueue s (s.onTile a f) a :=
  ⟨(congrArg Tile.queue (tileAt_onTile s a f)).trans hq, (congrArg Tile.tags (tileAt_onTile s a f)).trans ht⟩

theorem sameQueue_errAdd (s : State) (a : Nat) (i : Fin 5) (n cap : Nat) : SameQueue s (s.onTile a fun t => t.errAdd i n cap) a :=
  sameQueue_onTile rfl rfl

theorem sameQueue_noteCause (s : State) (a : Nat) (p : Pending) : SameQueue s (s.noteCause a p) a := by
  unfold State.noteCause
  split
  · refine (sameQueue_errAdd s a 3 1 0xFF).trans (SameQueue.of_tile ((tileAt_tileRecord ..).trans ?_))
    split <;> rfl
  · exact (sameQueue_errAdd s a 4 1 0xFF).trans (SameQueue.of_tile (tileAt_tileRecord ..))
  all_goals exact SameQueue.of_tile rfl

theorem giveCause_spec (t : Tile) (p : Pending) : (t.giveCause p).queue = t.queue ∧ (t.giveCause p).tags = t.tags := by
  unfold Tile.giveCause
  split
  · split <;> exact ⟨rfl, rfl⟩
  · exact ⟨rfl, rfl⟩

theorem sameQueue_lateCause (s : State) (a : Nat) (p : Pending) : SameQueue s (s.lateCause a p) a := by
  refine (sameQueue_noteCause s a p).trans ?_
  unfold State.lateCause State.bringCause
  split
  · exact sameQueue_onTile (giveCause_spec _ p).1 (giveCause_spec _ p).2
  · exact SameQueue.of_tile (tileAt_tileRecord ..)

theorem sameQueue_engineFault (s : State) (a : Nat) (o : DlOp) (c : Cause) (va d : Nat) :
    SameQueue (s.onTile a (stopped o)) (s.engineFault a o c va d) a := by
  cases ho : o.old with
  | some l =>
    rw [engineFault_old ho]
    exact (sameQueue_noteCause ..).trans (SameQueue.of_tile (tileAt_tileRecord ..))
  | none =>
    rw [engineFault_live ho]
    exact sameQueue_lateCause ..

theorem engineFault_spec (s : State) (a : Nat) (o : DlOp) (c : Cause) (va d : Nat) : let t := s.engineFault a o c va d
    (∀ x ∈ (t.tileAt a).queue, x.id ≠ o.id) ∧ (∀ x ∈ (s.tileAt a).queue, x.id ≠ o.id → x ∈ (t.tileAt a).queue) ∧ (t.tileAt a).tags = (s.tileAt a).tags := by
  intro t
  obtain ⟨hq, ht⟩ := sameQueue_engineFault s a o c va d
  obtain ⟨hq', ht'⟩ := stopped_spec o (s.tileAt a)
  have h : (t.tileAt a).queue = ((s.tileAt a).dropOp o.id).queue := hq.trans ((congrArg Tile.queue (tileAt_onTile s a _)).trans hq')
  rw [h]
  exact ⟨fun x hx => dropOp_queue_ne hx, fun x hx hi => mem_dropOp hx hi, ht.trans ((congrArg Tile.tags (tileAt_onTile s a _)).trans ht')⟩

/-! ## The core fills the TLBs (R268, R272) -/

theorem cellsReadAll_writeAll {bs : List Byte} : ∀ {m : List Host.Cell} {a : Nat}, cellsWf m = true →
    cellsReadAll (cellsWriteAll m a bs) a bs.length = bs := by
  induction bs with
  | nil => exact fun _ => rfl
  | cons x xs ih =>
    intro m a h
    have hw := cellsWf_write (a := a) (v := x) h
    simp only [cellsWriteAll, List.length_cons, cellsReadAll]
    rw [ih hw, cellsRead_writeAll_other hw (.inl (Nat.lt_succ_self a)), cellsRead_write h, if_pos rfl]

theorem leNat_natLe (n : Nat) : ∀ v, leNat (natLe v n) = v % 256 ^ n := by
  induction n with
  | zero => exact fun v => (Nat.mod_one v).symm
  | succ n ih =>
    intro v
    simp only [natLe, leNat]
    have hv := Nat.mod_mul (a := 256) (b := 256 ^ n) (x := v)
    rw [← Nat.pow_succ'] at hv
    rw [ih, BitVec.toNat_ofNat]
    exact hv.symm

theorem dwordAt_gWrite {s : State} (h : cellsWf s.mem = true) (a v : Nat) : (s.gWrite a (natLe v 8)).dwordAt a = v % 2 ^ 64 := by
  have hr : cellsReadAll (cellsWriteAll s.mem a (natLe v 8)) a 8 = natLe v 8 := by
    simpa using cellsReadAll_writeAll (bs := natLe v 8) (a := a) h
  exact (congrArg leNat hr).trans (leNat_natLe 8 v)

theorem coreFill_spec (s : State) (w : Who) (va at_ pte : Nat) (big : Bool) : let e := entryOf w.asid va pte big
    cellsWf s.mem = true → s.walk w.asid va = .leaf at_ pte big → permCheck w e (e.pa va) = none → bits pte 9 9 = 0 →
      ∃ t, s.coreFill w va true = .filled t ∧ t.dwordAt at_ = (pte ||| 24) % 2 ^ 64 ∧ ∀ a, (a < at_ ∨ at_ + 8 ≤ a) → t.byteAt a = s.byteAt a := by
  intro e hm hl hp hb
  have hmig : ¬bits pte 9 9 = 1 := by omega
  have hf : ∃ t : State, s.coreFill w va true = .filled t ∧ t.mem = (s.gWrite at_ (natLe (pte ||| 24) 8)).mem := by
    unfold State.coreFill
    simp only [hl]
    rw [hp]
    dsimp only
    rw [if_neg hmig]
    exact ⟨_, rfl, rfl⟩
  obtain ⟨t, ht, hmem⟩ := hf
  refine ⟨t, ht, ?_, fun a ha => ?_⟩
  · exact (congrArg (fun m => leNat (cellsReadAll m at_ 8)) hmem).trans (dwordAt_gWrite hm at_ _)
  · exact (congrArg (fun m => cellsRead m a) hmem).trans (cellsRead_writeAll_other hm (by simpa using ha))

/-! ## Migration (R292 to R294) -/

theorem migCheck_spec (s : State) (m : MigSlot) (op : Nat) : (bits m.page.toNat 47 39 ≠ 0 → ∃ st, s.migCheck m op = .ends st ∧ st = 5)
      ∧ (bits m.page.toNat 47 39 = 0 → ∀ u, s.walk (BitVec.ofNat 16 (m.page.toNat / 2 ^ 48)) (bits m.page.toNat 38 0 * 2 ^ 16) = .busy u → ∃ v, s.migCheck m op = .busy v ∧ v = u) := by
  refine ⟨fun h => ⟨5, if_pos h, rfl⟩, fun h u hu => ⟨u, ?_, rfl⟩⟩
  unfold State.migCheck
  dsimp only
  rw [if_neg (not_not.mpr h), hu]

theorem migrationStep_spec (s : State) (m : MigReq) (h : (s.migs.find? fun m => m.who = s.ev.who) = some m) :
    exec .migrationStep s = .next (match m.step with
        | 1 => s.migLock m | 2 => s.migFence m (if m.op = 3 then 4 else if m.op = 2 then 7 else 3) | 3 => s.migCopy m
        | 4 => s.migMove m | 5 => s.migFence m 6 | 6 => s.migUnlock m | 7 => s.migReplicas m | _ => s.migRep m) := by
  have he : exec .migrationStep s = execMigrationStep s := rfl
  rw [he]
  unfold execMigrationStep
  simp only [h]
  generalize m.step = k
  match k with
  | 0 | 1 | 2 | 3 | 4 | 5 | 6 | 7 => rfl
  | n + 8 => rfl

theorem migCopy_own {s : State} {m : MigReq} (h : ∀ w, regionOf (m.oldFrame * 2 ^ 16) ≠ .peer w) :
    s.migCopy m = (s.copyFrame m.oldFrame m.newFrame (pageBytes m.big)).migNext m 4 := by
  unfold State.migCopy
  dsimp only
  split
  · next w hw => exact absurd hw (h w)
  all_goals rfl

theorem migCopy_peer {s : State} {m : MigReq} {w p : Nat} (hr : regionOf (m.oldFrame * 2 ^ 16) = .peer w) (hp : s.peerOf w = some p)
    (hu : s.peerUp p = true) (ha : m.asked = false) :
    s.migCopy m = (s.putMig { m with asked := true }).eutasSend p (.request (m.oldFrame * 2 ^ 16 % 2 ^ 41) (.read (pageBytes m.big))) (some (.copy m.who)) := by
  unfold State.migCopy
  dsimp only
  rw [hr]
  dsimp only
  rw [if_neg (by rw [ha]; decide), hp]
  exact if_pos hu

/-- Cells written at a distance from where they stood. -/
def moved (o d : Nat) (cells : List Host.Cell) : List (Nat × Byte) := cells.map fun c => (c.1 - o + d, c.2)

def written (ws : List (Nat × Byte)) (m : List Host.Cell) : List Host.Cell := ws.foldl (fun m w => cellsWrite m w.1 w.2) m

theorem cellsFrom_le {c : Host.Cell} : ∀ {l : List Host.Cell} {lo : Nat}, cellsFrom lo l = true → c ∈ l → lo ≤ c.1
  | (b, v) :: r, lo, h, hc => by
    simp only [cellsFrom, Bool.and_eq_true, decide_eq_true_eq] at h
    obtain ⟨⟨hlo, -⟩, hr⟩ := h
    rcases List.mem_cons.mp hc with rfl | hc
    · exact hlo
    · exact (Nat.le_succ_of_le hlo).trans (cellsFrom_le hr hc)

/-- A moved byte is read where it went; where no cell was moved to, what was there before. -/
theorem cellsRead_moved {o d k : Nat} (hk : o ≤ k) : ∀ {cells m : List Host.Cell} {lo : Nat}, cellsFrom lo cells = true → cellsWf m = true →
    (∀ c ∈ cells, o ≤ c.1) → cellsRead m (k - o + d) = 0 → cellsRead (written (moved o d cells) m) (k - o + d) = cellsRead cells k
  | [], _, _, _, _, _, h0 => h0
  | (b, v) :: r, m, lo, hc, hm, hb, h0 => by
    simp only [cellsFrom, Bool.and_eq_true, decide_eq_true_eq] at hc
    obtain ⟨-, hr⟩ := hc
    have hob : o ≤ b := hb (b, v) (List.mem_cons_self ..)
    have hrest : ∀ c ∈ r, o ≤ c.1 := fun c h => hb c (List.mem_cons_of_mem _ h)
    show cellsRead (written (moved o d r) (cellsWrite m (b - o + d) v)) (k - o + d) = if k = b then v else cellsRead r k
    by_cases he : k = b
    · subst he
      rw [if_pos rfl]
      have hne : ∀ w ∈ moved o d r, w.1 ≠ k - o + d := by
        intro w hw
        obtain ⟨c, hcr, rfl⟩ := List.mem_map.mp hw
        have : k + 1 ≤ c.1 := cellsFrom_le hr hcr
        show c.1 - o + d ≠ k - o + d
        omega
      exact (cellsRead_writes_other (cellsWf_write hm) hne).trans ((cellsRead_write hm).trans (if_pos rfl))
    · rw [if_neg he]
      exact cellsRead_moved hk hr (cellsWf_write hm) hrest ((cellsRead_write hm).trans ((if_neg (by omega)).trans h0))

/-- A memory in which the `n` bytes from `o` on have been copied to `d`. -/
def copyCells (o d n : Nat) (m : List Host.Cell) : List Host.Cell :=
  let cells := m.filter fun c => decide (o ≤ c.1) && decide (c.1 < o + n)
  let rest := m.filter fun c => !(decide (d ≤ c.1) && decide (c.1 < d + n))
  cells.foldl (fun m c => cellsWrite m (c.1 - o + d) c.2) rest

theorem copyFrame_mem (s : State) (old new n : Nat) : (s.copyFrame old new n).mem = copyCells (old * 2 ^ 16) (new * 2 ^ 16) n s.mem := rfl

theorem copyCells_eq (o d n : Nat) (m : List Host.Cell) : copyCells o d n m
    = written (moved o d (m.filter fun c => decide (o ≤ c.1) && decide (c.1 < o + n)))
      (m.filter fun c => !(decide (d ≤ c.1) && decide (c.1 < d + n))) := by
  unfold copyCells written moved
  rw [List.foldl_map]

theorem cellsRead_copyCells (o d n a : Nat) {m : List Host.Cell} (hm : cellsWf m = true) :
    (a < n → cellsRead (copyCells o d n m) (d + a) = cellsRead m (o + a))
      ∧ ((a < d ∨ d + n ≤ a) → cellsRead (copyCells o d n m) a = cellsRead m a) := by
  have hin : ∀ c ∈ m.filter fun c => decide (o ≤ c.1) && decide (c.1 < o + n), o ≤ c.1 ∧ c.1 < o + n := fun c hc => by
    simpa using (List.mem_filter.mp hc).2
  have hrest : ∀ x, cellsRead (m.filter fun c => !(decide (d ≤ c.1) && decide (c.1 < d + n))) x
      = if (!(decide (d ≤ x) && decide (x < d + n))) = true then cellsRead m x else 0 := fun x =>
    BringUp.cellsRead_filter_addr (fun x => !(decide (d ≤ x) && decide (x < d + n))) x m
  rw [copyCells_eq]
  refine ⟨fun ha => ?_, fun ha => ?_⟩
  · have h0 := (hrest (d + a)).trans (if_neg (by simp; omega))
    have hk : o + a - o + d = d + a := by omega
    have hr := cellsRead_moved (o := o) (d := d) (k := o + a) (by omega) (cellsWf_filter hm) (cellsWf_filter hm) (fun c hc => (hin c hc).1) (hk ▸ h0)
    rw [hk] at hr
    rw [hr]
    exact (BringUp.cellsRead_filter_addr (fun x => decide (o ≤ x) && decide (x < o + n)) (o + a) m).trans (if_pos (by simpa using ha))
  · have hne : ∀ w ∈ moved o d (m.filter fun c => decide (o ≤ c.1) && decide (c.1 < o + n)), w.1 ≠ a := by
      intro w hw
      obtain ⟨c, hc, rfl⟩ := List.mem_map.mp hw
      have := hin c hc
      show c.1 - o + d ≠ a
      omega
    exact (cellsRead_writes_other (cellsWf_filter hm) hne).trans ((hrest a).trans (if_pos (by simp; omega)))

theorem copyFrame_spec (s : State) (old new n a : Nat) (hm : cellsWf s.mem = true) :
    (a < n → (s.copyFrame old new n).byteAt (new * 2 ^ 16 + a) = s.byteAt (old * 2 ^ 16 + a))
      ∧ ((a < new * 2 ^ 16 ∨ new * 2 ^ 16 + n ≤ a) → (s.copyFrame old new n).byteAt a = s.byteAt a) := by
  unfold State.byteAt
  rw [copyFrame_mem]
  exact cellsRead_copyCells _ _ n a hm

/-- Settles O56: an event runs what the rule names when its condition holds; the frames come from what each part of it keeps of the queue, the tags and the memory. -/
theorem tileEvents : Obligations.TileEvents :=
  ⟨fun _ => rfl, agents, fmtNow_spec, dataLockedLanding_spec, fun t _ o r _ ho hl hr hw => landOp_spec t o r ho hl hr hw, idleEnd_spec,
    parityRefetch_spec, fun _ => parityRefetch_fault, scrubRead_spec, tileSleep_spec, tileWake_spec, wake_spec, supervisorTimerExpiry_spec,
    timerExpiry_spec, engineEvents, dmFinish_spec, resolve_hit, engineFault_spec, coreFill_spec, resolve_miss, fqtailWrite_spec,
    fun _ => ⟨rfl, rfl, rfl⟩, migCheck_spec, migrationStep_spec, fun _ _ => migCopy_own, fun _ _ _ _ => migCopy_peer,
    fun s old new n a hm _ => copyFrame_spec s old new n a hm⟩

end Sys2Proof.Proofs.TileEvents
end

section
/-! PROOF. Bundles of several moves: what their issue keeps of the tile served, their phases, the limits of Table 6.2 and the order of the decode faults. Settles O7. -/

namespace Sys2Proof.Proofs.WholeBundles

open Sys2Proof Sys2Proof.Machine Sys2Proof.Laws

/-! ## What an issue keeps: the tile served, and that no tile begins to wait for a refetch -/

structure Steady (s t : State) : Prop where
  cur : t.cur = s.cur
  sound : ∀ a, (s.tileAt a).refetch = false → (t.tileAt a).refetch = false

theorem Steady.refl (s : State) : Steady s s := ⟨rfl, fun _ h => h⟩

theorem Steady.trans {s t u : State} (h : Steady s t) (k : Steady t u) : Steady s u :=
  ⟨k.cur.trans h.cur, fun a ha => k.sound a (h.sound a ha)⟩

/-- A change of anything but the tiles and the tile served. -/
theorem Steady.of_tiles {s t : State} (hc : t.cur = s.cur) (ht : t.tiles = s.tiles) : Steady s t :=
  ⟨hc, fun a h => by rwa [State.tileAt, ht]⟩

theorem steady_onTile (s : State) (a : Nat) {f : Tile → Tile} (hf : (f (s.tileAt a)).refetch = (s.tileAt a).refetch) : Steady s (s.onTile a f) := by
  refine ⟨rfl, fun b hb => ?_⟩
  by_cases h : b = a
  · subst h
    rw [tileAt_onTile]
    exact hf.trans hb
  · rwa [tileAt_onTile_other s f h]

theorem Steady.onTile {s u : State} (h : Steady s u) {a : Nat} {f : Tile → Tile} (hf : (f (u.tileAt a)).refetch = (u.tileAt a).refetch) :
    Steady s (u.onTile a f) := h.trans (steady_onTile u a hf)

theorem steady_foldl {α : Type} {f : State → α → State} (hf : ∀ s x, Steady s (f s x)) : ∀ (l : List α) (s : State), Steady s (l.foldl f s)
  | [], s => .refl s
  | x :: l, s => (hf s x).trans (steady_foldl hf l (f s x))

/-! ## Errors and records -/

theorem steady_record (s : State) (cls : Nat) (c : Cause) (unit who addr : Nat) (l : Dword) : Steady s (s.record cls c unit who addr l) := by
  obtain ⟨m, e, o, h⟩ := Health.record_eq s cls c unit who addr l
  rw [h]
  exact .of_tiles rfl rfl

theorem steady_tileRecord (s : State) (cls a : Nat) (c : Cause) (d addr : Nat) (l : Dword) : Steady s (s.tileRecord cls a c d addr l) :=
  steady_record ..

theorem steady_countErr (s : State) (a : Nat) (f : QuadErr → QuadErr) : Steady s (s.countErr a f) := .of_tiles rfl rfl

theorem steady_noteCause (s : State) (a : Nat) (p : Pending) : Steady s (s.noteCause a p) := by
  unfold State.noteCause
  split
  · refine (steady_onTile s a (f := fun t => t.errAdd 3 1 0xFF) rfl).trans (.trans ?_ (steady_tileRecord ..))
    split
    · exact .refl _
    · exact steady_countErr ..
  · exact (steady_onTile s a (f := fun t => t.errAdd 4 1 0xFF) rfl).trans ((steady_countErr ..).trans (steady_tileRecord ..))
  all_goals exact .refl _

theorem giveCause_refetch (t : Tile) (p : Pending) : (t.giveCause p).refetch = t.refetch := by
  unfold Tile.giveCause
  split
  · split <;> rfl
  · rfl

theorem steady_lateCause (s : State) (a : Nat) (p : Pending) : Steady s (s.lateCause a p) := by
  refine (steady_noteCause s a p).trans ?_
  unfold State.lateCause State.bringCause
  split
  · exact steady_onTile _ a (giveCause_refetch _ p)
  · exact steady_tileRecord ..

theorem steady_correct (s : State) (a : Nat) (ps : List Nat) : Steady s (s.correct a ps) := by
  unfold State.correct
  dsimp only
  split
  · exact .refl s
  · exact (steady_onTile s a (by rfl)).trans (steady_countErr ..)

theorem steady_sramRead (s : State) (a : Nat) (ps : List Nat) : Steady s (s.sramRead a ps).2 := by
  unfold State.sramRead
  dsimp only
  split
  · exact (steady_correct s a ps).trans (.of_tiles rfl rfl)
  · exact steady_correct s a ps

theorem steady_regCorrect (s : State) (k : BitVec 2) (ps : List (Nat × Nat)) : Steady s (s.regCorrect k ps) := by
  unfold State.regCorrect
  dsimp only
  split
  · exact (steady_onTile s s.cur (by rfl)).trans (steady_countErr ..)
  · exact .refl s

/-! ## Tiles -/

theorem sramWrite_refetch (t : Tile) (ws : List (Nat × Byte)) : (t.sramWrite ws).refetch = t.refetch := rfl

theorem engineWrite_refetch (t : Tile) (ws : List (Nat × Byte)) : (t.engineWrite ws).refetch = t.refetch := by
  unfold Tile.engineWrite
  split <;> rfl

theorem touchZones_refetch (t : Tile) (ps : List Nat) : (t.touchZones ps).refetch = t.refetch := by
  unfold Tile.touchZones
  split <;> rfl

theorem pushLine_refetch (t : Tile) (r : BitVec 3) (bs : List Byte) : (t.pushLine r bs).refetch = t.refetch := engineWrite_refetch ..

theorem pushLines_refetch (r : BitVec 3) : ∀ (n : Nat) (t : Tile) (bs : List Byte), (t.pushLines r bs n).refetch = t.refetch
  | 0, _, _ => rfl
  | n + 1, t, bs => (pushLines_refetch r n (t.pushLine r (bs.take 64)) (bs.drop 64)).trans (pushLine_refetch t r _)

theorem fillerEnd_refetch (t : Tile) (n : BitVec 3) (f : Filler) : (t.fillerEnd n f).refetch = t.refetch := by
  unfold Tile.fillerEnd
  dsimp only
  split
  · split
    · split <;> split <;> rfl
    · split <;> rfl
  · rfl

theorem fillerPush_refetch (t : Tile) (now d : Nat) (n : BitVec 3) (f : Filler) : (t.fillerPush now d n f).refetch = t.refetch := by
  unfold Tile.fillerPush
  dsimp only
  split
  · exact fillerEnd_refetch ..
  · split
    · rfl
    · split
      · split
        · exact (fillerEnd_refetch ..).trans (pushLines_refetch ..)
        · exact pushLines_refetch ..
      · rfl

theorem bankWrite_refetch (t : Tile) (k : BitVec 2) (f n : Nat) (v : Bus) : (t.bankWrite k f n v).refetch = t.refetch := rfl

theorem setTrapOff_refetch (t : Tile) (v : Word) : (t.setTrapOff v).refetch = t.refetch := by
  unfold Tile.setTrapOff
  dsimp only
  split <;> rfl

/-! ## Fillers and the `mx` sequence -/

theorem steady_fillerGather (s : State) (a : Nat) (n : BitVec 3) (f : Filler) : Steady s (s.fillerGather a n f).1 := by
  unfold State.fillerGather
  dsimp only
  split
  · exact ((steady_correct ..).trans (steady_onTile _ a (by rfl))).trans (steady_lateCause ..)
  · exact (steady_sramRead ..).trans (.of_tiles rfl rfl)

theorem steady_fillerPush (s : State) (a : Nat) (n : BitVec 3) (f : Filler) : Steady s (s.fillerPush a n f) :=
  (steady_onTile s a (f := fun t => t.fillerPush s.tick (Config.delay s.free) n f) (fillerPush_refetch ..)).trans (.of_tiles rfl rfl)

theorem steady_fillerStep (s : State) (a : Nat) (n : BitVec 3) : Steady s (s.fillerStep a n) := by
  unfold State.fillerStep
  split
  · exact .refl s
  · next f _ =>
    split
    · exact .refl s
    · split
      · have h := steady_fillerGather s a n f
        split
        next u hu => rw [hu] at h; exact h
        next u g hu => rw [hu] at h; exact h.trans (steady_fillerPush ..)
      · exact steady_fillerPush ..

theorem steady_mxAbandon (s : State) (a : Nat) (o : MxOp) (c : Cause) (d : Dword) : Steady s (s.mxAbandon a o c d) := by
  unfold State.mxAbandon
  exact Steady.onTile (steady_lateCause ..) rfl

theorem steady_mxReadLine (s : State) (a : Nat) (o : MxOp) (ps : List Nat) (keep : MxOp → Bus → MxOp) : Steady s (s.mxReadLine a o ps keep) := by
  unfold State.mxReadLine
  split
  · exact (steady_correct ..).trans (steady_mxAbandon ..)
  · exact (steady_sramRead ..).trans (steady_onTile _ a (by rfl))

theorem mxRow_refetch (t : Tile) (now : Nat) (o : MxOp) : (t.mxRow now o).refetch = t.refetch := by
  unfold Tile.mxRow
  dsimp only
  split <;> rfl

theorem mxWord_refetch (t : Tile) (now : Nat) (st : Start) (v : Dword) : (t.mxWord now st v).refetch = t.refetch := by
  unfold Tile.mxWord
  split <;> rfl

theorem popClaims_refetch : ∀ (cs : List (BitVec 3 × Nat)) (t : Tile),
    (cs.foldl (fun (t : Tile) c => t.setRing c.1 ((t.ring c.1).popped c.2)) t).refetch = t.refetch
  | [], _ => rfl
  | _ :: cs, _ => (popClaims_refetch cs _).trans rfl

theorem mxCommit_refetch (t : Tile) (now : Nat) (o : MxOp) : (t.mxCommit now o).refetch = t.refetch := by
  unfold Tile.mxCommit
  dsimp only
  split
  · split
    · exact mxWord_refetch ..
    · exact (mxWord_refetch ..).trans (popClaims_refetch ..)
  · exact mxWord_refetch ..
  · exact mxWord_refetch ..
  · exact mxWord_refetch ..
  · exact mxWord_refetch ..
  · rfl

theorem setHead_refetch (t : Tile) (o : MxOp) : (t.setHead o).refetch = t.refetch := rfl

/-- A row of an accumulator is stored, or the operation is abandoned. -/
theorem steady_rowWrite (s : State) (a : Nat) (o : MxOp) : Steady s (if (s.tileAt a).writable (o.rowSpan o.cyc) then
    s.onTile a fun t => (t.sramWrite ((o.rowSpan o.cyc).zip (bytesOf (o.linesA.getD o.cyc 0)))).setHead o
    else s.mxAbandon a o .dataUncorrectable 0) := by
  split
  · exact steady_onTile s a ((setHead_refetch _ o).trans (sramWrite_refetch _ _))
  · exact steady_mxAbandon ..

theorem steady_mxAccess (s : State) (a : Nat) (o : MxOp) : Steady s (s.mxAccess a o) := by
  unfold State.mxAccess
  split
  · split
    · exact .refl s
    · split
      · exact .refl s
      · split
        · exact .refl s
        all_goals exact steady_mxReadLine ..
  · exact .refl s
  · exact .refl s
  · split
    · exact steady_mxAbandon ..
    · exact steady_onTile s a (mxRow_refetch ..)
  · dsimp only
    split
    · exact steady_mxAbandon ..
    · exact steady_rowWrite s a _
  · exact steady_mxReadLine ..

theorem steady_mxCycle (s : State) (a : Nat) (o : MxOp) : Steady s (s.mxCycle a o) := by
  unfold State.mxCycle
  refine (steady_mxAccess s a o).trans ?_
  dsimp only
  split
  · exact .refl _
  · split
    · exact (steady_onTile _ a (by rfl)).trans (steady_mxAbandon ..)
    · split
      · exact steady_onTile _ a (mxCommit_refetch ..)
      · exact steady_onTile _ a (by rfl)

theorem steady_mxIssueCycle (s : State) (a : Nat) (k : BitVec 2) : Steady s (s.mxIssueCycle a k) := by
  unfold State.mxIssueCycle
  refine (steady_onTile s a (f := fun t => t.mxPrune s.tick) rfl).trans ?_
  dsimp only
  split
  · exact .refl _
  · split
    · next o _ _ _ =>
      have h := (steady_onTile (s.onTile a fun t => t.mxPrune s.tick) a (f := fun t => t.setHead { o with started := true }) rfl).trans
        (steady_mxCycle _ a { o with started := true })
      split
      · exact h.trans (steady_foldl (fun s n => steady_fillerStep s a n) ringNumbers _)
      · exact h
    · exact .refl _

theorem Steady.onSelf {s u : State} (h : Steady s u) {f : Tile → Tile} (hf : ∀ t, (f t).refetch = t.refetch) : Steady s (u.onSelf f) :=
  Steady.onTile h (hf _)

theorem Steady.free {s u : State} (h : Steady s u) (n : Nat) : Steady s { u with free := n } := h.trans (.of_tiles rfl rfl)

/-! ## Triggers -/

/-- An outcome that is no stall and no trap keeps what an issue keeps. -/
structure Keeps (s : State) (x : Except Stop Issue) : Prop where
  steady : ∀ r, x = .ok r → Steady s r.st

def SpecKeeps (sp : Spec) : Prop := ∀ st i, Keeps i.st (sp.run st i)

theorem keeps_error (s : State) (e : Stop) : Keeps s (.error e) := ⟨fun _ h => nomatch h⟩

/-- A check that may stop the trigger. -/
theorem keeps_check {s : State} {p : Prop} [Decidable p] {e : Stop} {x : Except Stop Issue} (h : Keeps s x) :
    Keeps s (if p then .error e else x) := by
  split
  · exact keeps_error ..
  · exact h

section
variable {s t : State} (h : Steady s t) {c : CtlAct} {e : Option Nat} {n : Option Half} {m : Option (Sock × Bool)}
include h

theorem keeps_ok : Keeps s (.ok ⟨t, c, e, n, m⟩) := ⟨fun q hq => by cases hq; exact h⟩

theorem steady_landNext (st : Start) (r : Res) : Steady s (landNext st r ⟨t, c, e, n, m⟩).st := by
  unfold landNext
  dsimp only
  exact h.onSelf fun _ => by rfl

theorem keeps_landNext (st : Start) (r : Res) : Keeps s (.ok (landNext st r ⟨t, c, e, n, m⟩)) :=
  ⟨fun q hq => by cases hq; exact steady_landNext h st r⟩

theorem keeps_deliver (st : Start) (dv : Bool) (lat : Nat) (r : Res) (late : Option Pending) :
    Keeps s (deliver st dv lat r late ⟨t, c, e, n, m⟩) := by
  unfold deliver
  dsimp only
  split
  · split
    · exact keeps_ok (.free (h.onSelf fun _ => by rfl) _)
    · exact keeps_error ..
  · exact keeps_ok (h.onSelf fun _ => by rfl)

theorem keeps_performNow (st : Start) (r : Res) : Keeps s (performNow st r ⟨t, c, e, n, m⟩) := by
  unfold performNow
  dsimp only
  split
  · split
    · exact keeps_ok (.free (h.onSelf fun _ => by rfl) _)
    · exact keeps_error ..
  · exact keeps_ok (h.onSelf fun _ => by rfl)

end

theorem keeps_compute (k : Sock) (o : Option Opnd) (lat : Nat) (f : Start → Res) : SpecKeeps (compute k o lat f) :=
  fun _ _ => keeps_deliver (.refl _) ..

theorem keeps_div (x : Instr) (sg rm : Bool) (w : Width) : SpecKeeps (divSpec x sg rm w) := fun _ _ => keeps_deliver (.refl _) ..

/-! ### Local accesses, streams and rings -/

theorem keeps_lsRead (st : Start) (i : Issue) (sz : Nat) (es ps : List Nat) (f : List Byte → Res) : Keeps i.st (lsRead st i sz es ps f) := by
  unfold lsRead
  split
  · exact keeps_error ..
  · dsimp only
    split
    · exact keeps_deliver ((steady_correct ..).trans (steady_noteCause ..)) ..
    · exact keeps_deliver (steady_sramRead ..) ..

theorem write_refetch (t : Tile) (ws : List (Nat × Byte)) (ps : List Nat) : ((t.sramWrite ws).touchZones ps).refetch = t.refetch :=
  (touchZones_refetch ..).trans (sramWrite_refetch ..)

theorem keeps_lsWrite (st : Start) (i : Issue) (sz : Nat) (es : List Nat) (ws : List (List (Nat × Byte))) : Keeps i.st (lsWrite st i sz es ws) := by
  unfold lsWrite
  split
  · exact keeps_error ..
  · dsimp only
    split
    · exact keeps_performNow (.onSelf (.refl _) fun _ => write_refetch ..) ..
    · exact keeps_error ..

theorem keeps_ld (m : LMod) : SpecKeeps (specLd m) := by
  intro st i
  unfold specLd
  dsimp only
  exact keeps_lsRead ..

theorem keeps_vld (l : Layout) : SpecKeeps (specVld l) := by
  intro st i
  unfold specVld
  dsimp only
  exact keeps_lsRead ..

theorem keeps_vldl (l : Layout) : SpecKeeps (specVldl l) := by
  intro st i
  unfold specVldl
  dsimp only
  exact keeps_lsRead ..

theorem keeps_vgat (m : LMod) : SpecKeeps (specVgat m) := by
  intro st i
  unfold specVgat
  dsimp only
  exact keeps_lsRead ..

theorem keeps_st (m : LMod) : SpecKeeps (specSt m) := fun st i => keeps_lsWrite st i ..

theorem keeps_vst (l : Layout) : SpecKeeps (specVst l) := fun st i => keeps_lsWrite st i ..

theorem keeps_vstl (l : Layout) : SpecKeeps (specVstl l) := fun st i => keeps_lsWrite st i ..

theorem keeps_vsct (m : LMod) : SpecKeeps (specVsct m) := fun st i => keeps_lsWrite st i ..

theorem keeps_lsAtomic (o : Opnd) (m : LMod) (sg : Bool) (f : AtomicFn) : SpecKeeps (lsAtomic o m sg f) := by
  intro st i
  unfold lsAtomic
  dsimp only
  split
  · exact keeps_error ..
  · split
    · exact keeps_error ..
    · refine keeps_deliver ?_ ..
      have hr := steady_sramRead i.st i.st.cur (layoutSpan m.layout (lsAddr st) (isizeBytes m.size))
      split
      · exact hr.onSelf fun _ => write_refetch ..
      · exact hr

theorem keeps_sopen (p : BitVec 5) : SpecKeeps (specSopen p) := by
  intro st i
  unfold specSopen
  dsimp only
  split
  · exact keeps_error ..
  · exact keeps_performNow (.onSelf (.refl _) fun _ => by rfl) ..

theorem keeps_sstep : SpecKeeps specSstep := by
  intro st i
  unfold specSstep
  dsimp only
  split
  · exact keeps_error ..
  · split
    · exact keeps_deliver (.refl _) ..
    · exact keeps_deliver (.onSelf (.refl _) fun _ => by rfl) ..

theorem keeps_rinit (n : BitVec 3) : SpecKeeps (specRinit n) :=
  fun _ _ => keeps_check (keeps_check (keeps_performNow (.onSelf (.refl _) fun _ => by rfl) ..))

theorem keeps_rpush (n : BitVec 3) : SpecKeeps (specRpush n) :=
  fun _ _ => keeps_check (keeps_check (keeps_performNow (.onSelf (.refl _) fun _ => pushLine_refetch ..) ..))

theorem keeps_rpop (n : BitVec 3) : SpecKeeps (specRpop n) := by
  intro st i
  refine keeps_check (keeps_check ?_)
  dsimp only
  split
  · exact keeps_deliver (((steady_correct ..).trans (steady_noteCause ..)).onSelf fun _ => by rfl) ..
  · exact keeps_deliver ((steady_sramRead ..).onSelf fun _ => by rfl) ..

theorem keeps_rdrop (n : BitVec 3) : SpecKeeps (specRdrop n) := by
  intro st i
  refine keeps_check ?_
  split
  · exact keeps_performNow (.refl _) ..
  · exact keeps_check (keeps_performNow (.onSelf (.refl _) fun _ => by rfl) ..)

theorem keeps_rstat (n : BitVec 3) : SpecKeeps (specRstat n) := fun _ _ => keeps_deliver (.refl _) ..

theorem keeps_rfill (n : BitVec 3) : SpecKeeps (specRfill n) := by
  intro st i
  refine keeps_check ?_
  split
  · exact keeps_error ..
  · exact keeps_check (keeps_check (keeps_check (keeps_performNow (.free (.onSelf (.refl _) fun _ => by rfl) _) ..)))

/-! ### Engines -/

theorem steady_enqueue (st : Start) (s : State) (o : DlOp) : Steady s (enqueue st s o) := .onSelf (.refl _) fun _ => by rfl

theorem steady_sched (s : State) (lo : Nat) (span : Option Nat) (i : Instr) (e : EvArg) : Steady s (s.sched lo span i e) := .of_tiles rfl rfl

theorem keeps_enqueue (st : Start) (i : Issue) (o : DlOp) : Keeps i.st (.ok { i with st := enqueue st i.st o }) := keeps_ok (steady_enqueue ..)

theorem keeps_dmQueue (st : Start) (i : Issue) (o : DlOp) : Keeps i.st (dmQueue st i o) := by
  unfold dmQueue
  refine keeps_ok ?_
  have hn : Steady i.st (match o.tag with | some n => i.st.onSelf fun t => t.nameTag n.toNat | none => i.st) := by
    split
    · exact .onSelf (.refl _) fun _ => by rfl
    · exact .refl _
  split
  · exact hn.trans (steady_enqueue ..)
  · exact (hn.trans (steady_enqueue ..)).trans (steady_sched ..)

theorem keeps_ntQueue (st : Start) (i : Issue) (o : DlOp) : Keeps i.st (ntQueue st i o) := by
  unfold ntQueue
  refine keeps_ok ?_
  have hn : Steady i.st (match o.tag with | some n => i.st.onSelf fun t => t.clearTag n.toNat | none => i.st) := by
    split
    · exact .onSelf (.refl _) fun _ => by rfl
    · exact .refl _
  split
  · exact (hn.trans (steady_enqueue ..)).trans (steady_sched ..)
  · exact (hn.trans (steady_enqueue ..)).trans (steady_sched ..)
  · exact (hn.trans (steady_enqueue ..)).trans (steady_sched ..)
  · exact hn.trans (steady_enqueue ..)

theorem keeps_unitQueue (st : Start) (i : Issue) (o : DlOp) : Keeps i.st (unitQueue st i o) :=
  keeps_ok ((steady_enqueue ..).trans (steady_sched ..))

theorem keeps_copy (k : OpKind) : SpecKeeps (copySpec k) := fun _ _ => keeps_check (keeps_check (keeps_dmQueue ..))

theorem keeps_patCopy (k : OpKind) : SpecKeeps (patCopySpec k) := by
  intro st i
  unfold patCopySpec
  dsimp only
  split
  · exact keeps_error ..
  · exact keeps_check (keeps_check (keeps_dmQueue ..))

theorem keeps_fill (m : MMod) : SpecKeeps (specFill m) := by
  intro st i
  refine keeps_check ?_
  split
  · exact keeps_error ..
  · refine keeps_check ?_
    split <;> exact keeps_dmQueue ..

theorem keeps_scalar (k : OpKind) (o : Opnd) (wx : Bool) (ns : List Nat) : SpecKeeps (scalarSpec k o wx ns) :=
  fun _ _ => keeps_check (keeps_dmQueue ..)

theorem keeps_ttarm (k : BitVec 4) : SpecKeeps (specTtarm k) := fun _ _ => keeps_check (keeps_ntQueue ..)

theorem keeps_lclose : SpecKeeps specLclose := by
  intro st i
  unfold specLclose
  dsimp only
  exact keeps_ntQueue ..

theorem keeps_push (pat : Bool) : SpecKeeps (pushSpec pat) := by
  intro st i
  refine keeps_check (keeps_check (keeps_check (keeps_check (keeps_check ?_))))
  split
  · exact keeps_error ..
  · exact keeps_ntQueue ..

theorem keeps_land : SpecKeeps specLand := fun _ _ => keeps_check (keeps_check (keeps_check (keeps_ntQueue ..)))

theorem keeps_msg : SpecKeeps specMsg := by
  intro st i
  refine keeps_check ?_
  split
  · exact keeps_error ..
  · exact keeps_ntQueue ..

theorem keeps_mig : SpecKeeps specMig := by
  intro st i
  refine keeps_check (keeps_check (keeps_check ?_))
  split
  · exact keeps_error ..
  · exact keeps_ntQueue ..

theorem keeps_kopen : SpecKeeps specKopen := fun _ _ => keeps_check (keeps_check (keeps_check (keeps_check (keeps_enqueue ..))))

theorem keeps_contrib (attn : Bool) : SpecKeeps (contribSpec attn) := fun _ _ => keeps_check (keeps_enqueue ..)

theorem keeps_kfin : SpecKeeps specKfin := fun _ _ => keeps_check (keeps_check (keeps_check (keeps_enqueue ..)))

theorem keeps_bell (k : OpKind) (lev : BitVec 3) (run : Bool) : SpecKeeps (bellSpec k lev run) :=
  fun _ _ => keeps_check (keeps_check (keeps_enqueue ..))

theorem keeps_sem (k : OpKind) (wx : Bool) : SpecKeeps (semSpec k wx) := fun _ _ => keeps_check (keeps_unitQueue ..)

theorem keeps_bar (k : OpKind) (wx : Bool) : SpecKeeps (barSpec k wx) := fun _ _ => keeps_check (keeps_check (keeps_unitQueue ..))

theorem keeps_tk (k : OpKind) (o : Option Opnd) (wx : Bool) (bs : List (BitVec 2)) (c : Start → Option Stop) : SpecKeeps (tkSpec k o wx bs c) := by
  intro st i
  refine keeps_check ?_
  split
  · exact keeps_error ..
  · exact keeps_enqueue ..

theorem keeps_next : SpecKeeps specNext := fun _ _ => keeps_check (keeps_enqueue ..)

/-! ### Control and configuration -/

theorem keeps_transfer (call : Bool) : SpecKeeps (transfer call) := by
  intro st i
  refine keeps_ok ?_
  cases call
  · exact .refl _
  · exact steady_landNext (.refl _) ..

theorem keeps_loop : SpecKeeps specLoop := by
  intro st i
  refine keeps_check (keeps_check ?_)
  split <;> exact keeps_ok (.refl _)

theorem keeps_brk : SpecKeeps specBrk := by
  intro st i
  unfold specBrk
  dsimp only
  split <;> exact keeps_ok (.refl _)

theorem keeps_gang : SpecKeeps specGang := by
  intro st i
  unfold specGang
  dsimp only
  split
  · exact keeps_error ..
  · split
    · exact keeps_ok (.refl _)
    · split
      · exact keeps_error ..
      · split
        · exact keeps_ok (.refl _)
        · exact keeps_error ..

theorem keeps_split : SpecKeeps specSplit := by
  intro st i
  unfold specSplit
  dsimp only
  split <;> exact keeps_ok (.refl _)

theorem keeps_cfRead (f : Start → State → Bus) : SpecKeeps (cfRead f) := fun _ _ => keeps_landNext (.refl _) ..

theorem keeps_fmt : SpecKeeps specFmt := by
  intro st i
  unfold specFmt
  dsimp only
  split
  · exact keeps_landNext (.refl _) ..
  · exact keeps_ok ((steady_landNext (.refl _) ..).onSelf fun _ => by rfl)

theorem keeps_mode : SpecKeeps specMode := by
  intro st i
  unfold specMode
  dsimp only
  split
  · exact keeps_landNext (.refl _) ..
  · split
    · exact keeps_error ..
    · split
      · exact keeps_landNext (.refl _) ..
      · split
        · exact keeps_landNext (.refl _) ..
        · exact keeps_ok (steady_landNext (.refl _) ..)

theorem keeps_flags : SpecKeeps specFlags := fun _ _ => keeps_ok ((steady_landNext (.refl _) ..).onSelf fun _ => by rfl)

theorem keeps_sleepd : SpecKeeps specSleepd := by
  intro st i
  unfold specSleepd
  dsimp only
  split
  · exact keeps_landNext (.refl _) ..
  · split
    · exact keeps_landNext (.refl _) ..
    · exact keeps_ok ((steady_landNext (.refl _) ..).onSelf fun _ => by rfl)

/-! ### The supervisor's operations -/

/-- An operation's value, whether it was accepted, and a state that keeps what an issue keeps. -/
structure Answers (s : State) (r : Option Bus × Bool × State) : Prop where
  steady : Steady s r.2.2

theorem answers {s t : State} (h : Steady s t) (x : Option Bus) (b : Bool) : Answers s (x, b, t) := ⟨h⟩

theorem keeps_sv (o : Opnd) {f : Start → State → Option Bus × Bool × State} (hf : ∀ st s, Answers s (f st s)) : SpecKeeps (svSpec o f) :=
  fun st i => keeps_landNext (hf st i.st).steady ..

theorem steady_supStart (s : State) (st : Start) (k : SupKind) (lo : Nat) (span : Option Nat) : Steady s (s.supStart st k lo span) := by
  unfold State.supStart
  exact .free (.onSelf (.refl _) fun _ => by rfl) _

theorem keeps_eret : SpecKeeps specEret := by
  intro st i
  unfold specEret
  dsimp only
  split
  · exact keeps_landNext (.refl _) ..
  · exact keeps_ok (steady_landNext (.refl _) ..)

theorem keeps_asid : SpecKeeps specAsid := by
  intro st i
  unfold specAsid
  dsimp only
  split
  · exact keeps_landNext (.refl _) ..
  · exact keeps_ok (steady_landNext (.refl _) ..)

theorem keeps_cause : SpecKeeps specCause := keeps_sv _ fun st s => by
  dsimp only
  split
  · exact answers (.onSelf (.refl _) fun _ => setTrapOff_refetch ..) ..
  · exact answers (.refl _) ..

theorem keeps_tlbinv (m : MMod) : SpecKeeps (specTlbinv m) := keeps_sv _ fun _ _ => answers (steady_supStart ..) ..

theorem keeps_tlbinvas (m : MMod) : SpecKeeps (specTlbinvas m) := keeps_sv _ fun _ _ => answers (steady_supStart ..) ..

theorem keeps_mapfence (m : MMod) : SpecKeeps (specMapfence m) := keeps_sv _ fun st s => by
  split
  · exact answers (.refl _) ..
  · exact answers (steady_supStart ..) ..

theorem keeps_bank : SpecKeeps specBank := by
  intro st i
  unfold specBank
  dsimp only
  split
  · exact keeps_landNext (.refl _) ..
  · split
    · exact keeps_landNext (.onSelf (.refl _) fun _ => bankWrite_refetch ..) ..
    · split
      · exact keeps_error ..
      · exact keeps_landNext (.free (steady_regCorrect ..) _) ..

theorem capture_refetch (t : Tile) (ws : List (Nat × Byte)) (ps : List Nat) : ((t.engineWrite ws).touchZones ps).refetch = t.refetch :=
  (touchZones_refetch ..).trans (engineWrite_refetch ..)

theorem keeps_shcap : SpecKeeps specShcap := keeps_sv _ fun st s => by
  split
  · exact answers (.refl _) ..
  · exact answers ((Steady.onSelf (.refl _) fun _ => capture_refetch ..).trans (steady_supStart ..)) ..

theorem keeps_shset : SpecKeeps specShset := keeps_sv _ fun st s => by
  split
  · exact answers (.refl _) ..
  · dsimp only
    split
    · exact answers (steady_lateCause ..) ..
    · split
      · exact answers (steady_sramRead ..) ..
      · exact answers (((steady_sramRead ..).onSelf fun _ => by rfl).trans (steady_supStart ..)) ..

theorem keeps_errst : SpecKeeps specErrst := keeps_sv _ fun st s => by
  refine answers ?_ ..
  split
  · exact .onSelf (.refl _) fun _ => by rfl
  · exact .refl _

theorem keeps_stmr : SpecKeeps specStmr := keeps_sv _ fun st s => by
  refine answers ?_ ..
  split
  · exact .refl _
  · exact .onSelf (.refl _) fun _ => by rfl

/-! ### Replay -/

theorem keeps_rp (o : Option Opnd) (wait : Start → State → Bool) {f : Start → State → Option Bus × Bool × State} (hf : ∀ st s, Answers s (f st s)) :
    SpecKeeps (rpSpec o wait f) := fun st i => keeps_check (keeps_landNext (hf st i.st).steady ..)

theorem steady_onUnit (s : State) (d : Nat) (f : AUnit → AUnit) : Steady s (s.onUnit d f) := .of_tiles rfl rfl

theorem steady_gWrite (s : State) (pa : Nat) (bs : List Byte) : Steady s (s.gWrite pa bs) := .of_tiles rfl rfl

theorem steady_logOn (s : State) (l : Dword) (base z : Nat) : Steady s (s.logOn l base z).2 := by
  unfold State.logOn
  split
  · exact .refl _
  · split
    · exact .refl _
    · split
      · exact .refl _
      · exact steady_foldl (fun _ _ => (steady_gWrite ..).trans (steady_onUnit ..)) _ _

theorem steady_logOff (s : State) (l : Dword) : Steady s (s.logOff l) := by
  unfold State.logOff
  refine steady_foldl (fun u d => ?_) _ _
  split
  · split
    · exact .refl _
    · exact (steady_gWrite ..).trans (steady_onUnit ..)
  · exact .refl _

theorem steady_gateOn (s : State) (l : Dword) (base z n : Nat) : Steady s (s.gateOn l base z n).2 := by
  unfold State.gateOn
  split
  · exact .refl _
  · exact steady_foldl (fun _ _ => steady_onUnit ..) _ _

theorem steady_gateOff (s : State) (l : Dword) : Steady s (s.gateOff l) := by
  unfold State.gateOff
  refine steady_foldl (fun u d => ?_) _ _
  split
  · split
    · exact steady_onUnit ..
    · exact .refl _
  · exact .refl _

theorem keeps_dgrd : SpecKeeps specDgrd := keeps_rp _ _ fun _ _ => answers (.refl _) ..

theorem keeps_dgclr : SpecKeeps specDgclr := keeps_rp _ _ fun _ _ => answers (.onSelf (.refl _) fun _ => by rfl) ..

theorem keeps_logon : SpecKeeps specLogon := keeps_rp _ _ fun _ _ => answers (steady_logOn ..) ..

theorem keeps_logoff : SpecKeeps specLogoff := keeps_rp _ _ fun _ _ => answers (steady_logOff ..) ..

theorem keeps_gateon : SpecKeeps specGateon := keeps_rp _ _ fun _ _ => answers (steady_gateOn ..) ..

theorem keeps_gateoff : SpecKeeps specGateoff := keeps_rp _ _ fun _ _ => answers (steady_gateOff ..) ..

theorem keeps_logst : SpecKeeps specLogst := keeps_rp _ _ fun st s => by
  dsimp only
  split <;> exact answers (.refl _) ..

/-! ### Every trigger -/

/-- Every trigger of any socket but `mx` keeps what an issue keeps. -/
theorem specKeeps_of_spec {i : Instr} {sp : Spec} (h : specOf i = some sp) (hk : sp.sock ≠ .mx) : SpecKeeps sp := by
  cases i with
  | add | sub | and | or | xor | andn | orn | min | max | minn | maxn | abs | neg | ceq | cne | clt | cle | cltn | clen | sel | lea | addsat | subsat
  | tst | shl | shr | sar | rol | ror | clz | ctz | popc | brev | bswap | extz | exts | ins | crc | mul | mulh | mulhn | mac | fadd | fsub | fmul
  | fma | fnma | fmin | fmax | fabs | fneg | fcpsgn | fceq | fclt | fcle | fclass | fcvt | fcvtsi | fcvtis | ex2 | lg2 | rcp | rsq | sqrt | fdiv
  | ex2Vec | lg2Vec | rcpVec | rsqVec | sqrtVec | fdivVec | vadd | vsub | vmul | vfma | vfnma | vmin | vmax | vabs | vneg | vceq | vclt | vcle | vsel
  | vand | vor | vxor | vshl | vshr | vsar | vsum | vhmax | vscale | vperm | vshuf | vbcast | vext | vins | vcvt | vpack | vunpk | vcmprs | vlane
  | vrot | vmerge | vmask => cases h; exact keeps_compute _ _ _ _
  | div | divn | rem | remn => cases h; exact keeps_div _ _ _ _
  | jmp | jmpr | call | callr | ret => cases h; exact keeps_transfer _
  | loop => cases h; exact keeps_loop
  | loopx | idle | halt | trap => cases h; exact fun _ _ => keeps_ok (.refl _)
  | brk => cases h; exact keeps_brk
  | gang => cases h; exact keeps_gang
  | split => cases h; exact keeps_split
  | rdcyc | dom | tid => cases h; exact keeps_cfRead _
  | fmt => cases h; exact keeps_fmt
  | mode => cases h; exact keeps_mode
  | flags => cases h; exact keeps_flags
  | sleepd => cases h; exact keeps_sleepd
  | ld => cases h; exact keeps_ld _
  | vld => cases h; exact keeps_vld _
  | vldl => cases h; exact keeps_vldl _
  | vgat => cases h; exact keeps_vgat _
  | st => cases h; exact keeps_st _
  | vst => cases h; exact keeps_vst _
  | vstl => cases h; exact keeps_vstl _
  | vsct => cases h; exact keeps_vsct _
  | aadd | aswp | acas | amin | amax | aor | aand => cases h; exact keeps_lsAtomic _ _ _ _
  | sopen => cases h; exact keeps_sopen _
  | sstep => cases h; exact keeps_sstep
  | rinit => cases h; exact keeps_rinit _
  | rpush => cases h; exact keeps_rpush _
  | rpop => cases h; exact keeps_rpop _
  | rfill => cases h; exact keeps_rfill _
  | rstat => cases h; exact keeps_rstat _
  | rdrop => cases h; exact keeps_rdrop _
  | get | put => cases h; exact keeps_copy _
  | getp | putp => cases h; exact keeps_patCopy _
  | fill => cases h; exact keeps_fill _
  | mfence => cases h; exact fun _ _ => keeps_dmQueue ..
  | gld | gst | gadd | gswp | gcas | gmin | gmax | gand | gor | gxor => cases h; exact keeps_scalar _ _ _ _
  | ttarm => cases h; exact keeps_ttarm _
  | land => cases h; exact keeps_land
  | lclose => cases h; exact keeps_lclose
  | push | pushp => cases h; exact keeps_push _
  | msg => cases h; exact keeps_msg
  | mig => cases h; exact keeps_mig
  | kopen => cases h; exact keeps_kopen
  | kpart | kattn => cases h; exact keeps_contrib _
  | kfin => cases h; exact keeps_kfin
  | kres | wany | wall | wffr | tclr | trig | fence => cases h; exact fun _ _ => keeps_enqueue ..
  | bell | bellx => cases h; exact keeps_bell _ _ _
  | sig | swait | sdec => cases h; exact keeps_sem _ _
  | binit | arrive | drop | bwait => cases h; exact keeps_bar _ _
  | spawn | yield | sleep | wake | prio | timer | resume | msgrd | cload | tidle => cases h; exact keeps_tk _ _ _ _ _
  | next => cases h; exact keeps_next
  | eret => cases h; exact keeps_eret
  | cause => cases h; exact keeps_cause
  | tlbinv => cases h; exact keeps_tlbinv _
  | tlbinvas => cases h; exact keeps_tlbinvas _
  | mapfence => cases h; exact keeps_mapfence _
  | asid => cases h; exact keeps_asid
  | bank => cases h; exact keeps_bank
  | shcap => cases h; exact keeps_shcap
  | shset => cases h; exact keeps_shset
  | errst => cases h; exact keeps_errst
  | stmr => cases h; exact keeps_stmr
  | dgrd => cases h; exact keeps_dgrd
  | dgclr => cases h; exact keeps_dgclr
  | logon => cases h; exact keeps_logon
  | logoff => cases h; exact keeps_logoff
  | gateon => cases h; exact keeps_gateon
  | gateoff => cases h; exact keeps_gateoff
  | logst => cases h; exact keeps_logst
  | mma | mmas | mzero | mrd | mst | mld | mmask => cases h; exact absurd rfl hk
  | _ => cases h

/-! ## The end of an issue cycle -/

theorem afterHalt_refetch (t : Tile) (now : Nat) (k : BitVec 2) : (t.afterHalt now k).refetch = t.refetch := by
  unfold Tile.afterHalt
  split
  · rfl
  · split <;> rfl

theorem landBank_refetch (t : Tile) (k : BitVec 2) : (t.landBank k).refetch = t.refetch := by
  unfold Tile.landBank
  dsimp only
  split <;> rfl

theorem haltBank_refetch (t : Tile) (now : Nat) (k : BitVec 2) : (t.haltBank now k).refetch = t.refetch :=
  (afterHalt_refetch ..).trans (landBank_refetch t k)

theorem taskCycle_refetch (t : Tile) : t.taskCycle.refetch = t.refetch := by
  unfold Tile.taskCycle
  split <;> rfl

theorem enter_refetch (t : Tile) (now : Nat) (gang : Bool) (p : Pending) (off : Word) : (t.enter now gang p off).refetch = false := rfl

/-- Leaving the supervisor may enter it again, which ends a refetch. -/
theorem leave_refetch {t : Tile} (h : t.refetch = false) (now : Nat) (gang : Bool) (form : Nat) : (t.leave now gang form).refetch = false := by
  unfold Tile.leave
  dsimp only
  split
  · split
    · split
      · split <;> exact h
      · exact h
    · split
      · rfl
      · exact h
  · split
    · exact (afterHalt_refetch ..).trans h
    · split <;> exact h

theorem raiseNow_refetch {t : Tile} (h : t.refetch = false) (now : Nat) (gang : Bool) (p : Pending) : (t.raiseNow now gang p).refetch = false := by
  unfold Tile.raiseNow
  split
  · exact h
  · exact enter_refetch ..

/-! ## What becomes of the served tile -/

/-- The tile served stays the same, and does not begin to wait for a refetch. -/
structure Serves (s t : State) : Prop where
  cur : t.cur = s.cur
  sound : s.self.refetch = false → t.self.refetch = false

theorem Steady.serves {s t : State} (h : Steady s t) : Serves s t :=
  ⟨h.cur, fun hs => by unfold State.self; rw [h.cur]; exact h.sound _ hs⟩

theorem Serves.trans {s t u : State} (h : Serves s t) (k : Serves t u) : Serves s u := ⟨k.cur.trans h.cur, fun hs => k.sound (h.sound hs)⟩

theorem serves_setTile (s : State) {t : Tile} (h : s.self.refetch = false → t.refetch = false) : Serves s (s.setTile t) := by
  refine ⟨rfl, fun hs => ?_⟩
  show ((s.setTile t).tileAt s.cur).refetch = false
  by_cases ha : s.cur = t.addr
  · rw [ha, tileAt_setTile]
    exact h hs
  · rw [tileAt_setTile_other s t ha]
    exact hs

/-- A tile after the parts of its issue cycle that only some triggers have: a change of mode, a cause, a halt, a return, an address space. -/
def modeStep (t : Tile) : Option (Sock × Bool) → Tile
  | some (x, m) => changeMode t x m
  | none => t

def ctlStep (now : Nat) (k : BitVec 2) (t : Tile) : CtlAct → Tile
  | .raise p => t.addCause p
  | .halt => t.haltBank now k
  | .none | .jump _ _ | .skip _ | .openLevel _ | .loopx | .idle _ | .gang | .split => t

def leaveStep (now : Nat) (gang : Bool) (t : Tile) : Option Nat → Tile
  | some f => t.leave now gang f
  | none => t

def asidStep (t : Tile) : Option Half → Tile
  | some n => t.bindAsid n
  | none => t

theorem modeStep_refetch (t : Tile) (m : Option (Sock × Bool)) : (modeStep t m).refetch = t.refetch := by
  cases m <;> rfl

theorem ctlStep_refetch (now : Nat) (k : BitVec 2) (t : Tile) (c : CtlAct) : (ctlStep now k t c).refetch = t.refetch := by
  cases c with
  | halt => exact haltBank_refetch ..
  | _ => rfl

theorem leaveStep_refetch {now : Nat} {gang : Bool} {t : Tile} (h : t.refetch = false) (o : Option Nat) : (leaveStep now gang t o).refetch = false := by
  cases o with
  | some f => exact leave_refetch h ..
  | none => exact h

theorem asidStep_refetch (t : Tile) (o : Option Half) : (asidStep t o).refetch = t.refetch := by
  cases o <;> rfl

theorem Serves.cnt {s u : State} (h : Serves s u) (n : Counters) : Serves s { u with cnt := n } := ⟨h.cur, h.sound⟩

/-- The served tile once control has moved on. -/
def issuedTile (len : Nat) (i : Issue) : Tile :=
  { (i.st.self.setBank i.st.self.run (nextStrand i.st len i.ctl).1) with
    ready := i.st.tick + (nextStrand i.st len i.ctl).2, stalled := 0, stallFrom := none, gangWait := none, gangGo := false }

/-- The served tile at the end of its issue cycle, but for the count of its tasks. -/
def endedTile (len : Nat) (i : Issue) : Tile :=
  asidStep (leaveStep i.st.tick (i.st.quadAt i.st.cur).ganged (ctlStep i.st.tick i.st.self.run (modeStep (issuedTile len i) i.mode) i.ctl) i.eret) i.asid

theorem finish_eq (len : Nat) (i : Issue) : finish len i =
    { i.st.setTile (if i.st.self.run = 3 then endedTile len i else (endedTile len i).taskCycle) with cnt := { i.st.cnt with issue := i.st.cnt.issue + 1 } } := rfl

theorem endedTile_refetch (len : Nat) {i : Issue} (h : i.st.self.refetch = false) : (endedTile len i).refetch = false := by
  unfold endedTile
  rw [asidStep_refetch]
  refine leaveStep_refetch ?_ _
  rw [ctlStep_refetch, modeStep_refetch]
  exact h

theorem serves_finish (len : Nat) (i : Issue) : Serves i.st (finish len i) := by
  rw [finish_eq]
  refine .cnt (serves_setTile _ fun h => ?_) _
  split
  · exact endedTile_refetch len h
  · exact (taskCycle_refetch _).trans (endedTile_refetch len h)

theorem serves_stallTick (s : State) : Serves s (stallTick s) := by
  unfold stallTick
  exact .cnt (steady_onTile s s.cur (by rfl)).serves _

theorem serves_trap (s : State) (p : Pending) : Serves s ((s.noteCause s.cur p).onSelf fun t => t.raiseNow s.tick false p) := by
  refine (steady_noteCause s s.cur p).serves.trans (serves_setTile _ fun h => ?_)
  exact raiseNow_refetch h ..

/-! ## A bundle of any number of moves (R99, R121) -/

/-- What becomes of the bundle fetched. -/
def bundleOn (s : State) : Fetched → State
  | .parity => startRefetch s
  | .bad c bus => decodeFault c bus 0 s
  | .ok acts lis len => if (s.latch lis len 0).inGang then issueGang acts len (s.latch lis len 0) else issueSingle acts len (s.latch lis len 0)

theorem atBundle_alone {s : State} (h : MayIssue s) : s.atBundle.inGang = false := (settle_inGang s).trans h.alone

theorem atBundle_refetch {s : State} (h : MayIssue s) : s.atBundle.self.refetch = false := by
  have ha := h.able
  unfold Tile.canIssue at ha
  simp only [Bool.and_eq_true, Bool.not_eq_true'] at ha
  obtain ⟨⟨⟨⟨⟨-, hr⟩, -⟩, -⟩, -⟩, -⟩ := ha
  exact hr

theorem latch_alone {s : State} (h : s.inGang = false) (lis : List Word) (len : Nat) (bus : BitVec 3) :
    s.latch lis len bus = s.onSelf fun t => { t with lis := lis, blen := len, bus := bus } := by
  unfold State.latch
  rw [h]
  rfl

theorem latch_inGang {s : State} (h : s.inGang = false) (lis : List Word) (len : Nat) (bus : BitVec 3) : (s.latch lis len bus).inGang = false := by
  rw [latch_alone h]
  unfold State.inGang at h ⊢
  rw [self_onSelf]
  exact h

theorem countRefetch_idle {a : Nat} {s : State} (h : (s.tileAt a).refetch = false) : countRefetch a s = s := by
  unfold countRefetch
  rw [h]
  rfl

/-- The served tile runs what the fetch finds, and the tick counts no refetch. -/
theorem exec_bundle {s x : State} {f : Fetched} (hb : BundleAt s f) (hx : bundleOn s.atBundle f = x) (hs : Serves s.atBundle x) :
    exec .bundleIssue s = .next x := by
  obtain ⟨hev, hm, hidle, hstore, hf⟩ := hb
  have hc : x.cur = s.cur := hs.cur
  have hi : s.issuer = s.cur := by
    unfold State.issuer
    rw [hm.alone]
    rfl
  have hfetch : s.atBundle.issuer = s.cur := by
    unfold State.issuer
    rw [atBundle_alone hm]
    rfl
  have hserve : serve s = countRefetch s.issuer (whenReady (fun s => bundleOn s (s.fetch s.issuer)) s) := by
    unfold serve
    rw [if_neg (by rw [hidle]; decide), if_neg fun h => hstore h.1 h.2]
    rfl
  have hserved : serve s = x := by
    rw [hserve, whenReady_mayIssue hm, hfetch, hf, hx, hi]
    exact countRefetch_idle (hc ▸ hs.sound (atBundle_refetch hm))
  show Host.Outcome.next { serve { s with cur := s.ev.tile } with cur := s.cur } = _
  rw [hev, show ({ s with cur := s.cur } : State) = s from rfl, hserved, ← hc]

theorem serves_latch {s : State} (h : s.inGang = false) (lis : List Word) (len : Nat) (bus : BitVec 3) : Serves s (s.latch lis len bus) := by
  rw [latch_alone h]
  exact (steady_onTile s s.cur rfl).serves

/-- A bundle that decodes issues from the state in which its long immediates are latched. -/
theorem exec_acts {s x : State} {acts : List Act} {lis : List Word} {len : Nat} (hb : BundleAt s (.ok acts lis len))
    (hx : issueSingle acts len (s.reading lis len) = x) (hs : Serves (s.reading lis len) x) : exec .bundleIssue s = .next x := by
  have hg := atBundle_alone hb.may
  refine exec_bundle hb ?_ ((serves_latch hg lis len 0).trans hs)
  unfold bundleOn
  dsimp only
  rw [latch_inGang hg]
  exact hx

theorem reading_free {s : State} {f : Fetched} (hb : BundleAt s f) (lis : List Word) (len : Nat) : (s.reading lis len).self.waits (s.reading lis len).tick = false := by
  unfold State.reading
  rw [latch_alone (atBundle_alone hb.may), self_onSelf]
  exact hb.may.free

/-- One empty port stalls the whole bundle. -/
theorem exec_stall {s : State} {acts : List Act} {lis : List Word} {len : Nat} (hb : BundleAt s (.ok acts lis len))
    (hl : ∀ a ∈ acts, moveCause ((s.reading lis len).self.run = 3) (s.reading lis len).self.lis.length a.2.1 = none)
    (hr : (readPhase (s.reading lis len).self acts).stall = true) : exec .bundleIssue s = .next (stallTick (s.reading lis len)) := by
  refine exec_acts hb ?_ (serves_stallTick _)
  unfold issueSingle
  rw [Bundles.prepare_stall ⟨hl, reading_free hb lis len⟩ hr]

/-- A bundle with a fault of Table 5.7 takes it at once. -/
theorem exec_bad {s : State} {c : Cause} {bus : Option (BitVec 3)} (hb : BundleAt s (.bad c bus)) :
    exec .bundleIssue s = .next (s.trapped { s.trapOf c 0 0 with kind := .decode, bus := bus }) := by
  refine exec_bundle hb ?_ (serves_trap s.atBundle _)
  unfold bundleOn decodeFault State.trapped State.onSelf
  rw [atBundle_alone hb.may, (steady_noteCause ..).cur]
  rfl

/-- A bundle that stalls or faults nowhere issues. -/
theorem exec_ok {s : State} {acts : List Act} {lis : List Word} {len : Nat} {r : Issue} (hb : BundleAt s (.ok acts lis len))
    (hp : prepare acts len (s.reading lis len) = .ok r) (hk : Serves (s.reading lis len) r.st) (hc : r.ctl ≠ .gang) :
    exec .bundleIssue s = .next (finish len r) := by
  refine exec_acts hb ?_ (hk.trans (serves_finish len r))
  unfold issueSingle
  rw [hp]
  obtain ⟨t, c, e, n, m⟩ := r
  cases c with
  | gang => exact absurd rfl hc
  | _ => rfl

theorem emptyPort_refetch (t : Tile) (x : Src) : (emptyPort t x).refetch = t.refetch := by
  unfold emptyPort
  split
  · split <;> rfl
  · split
    · dsimp only
      split <;> rfl
    · rfl
  all_goals rfl

theorem writeDst_refetch (t : Tile) (v : Bus) (d : Dst) : (writeDst t v d).refetch = t.refetch := by
  cases d <;> rfl

/-! ### The moves of a bundle, read -/

/-- A move as the bundle has read it. -/
def gotAt (w : State) (b : BitVec 3) (d : Option Dst) (x : Src) (v : Bus) (sp : Option Spec) : Got :=
  { bus := b, src := x, val := v, dst := d.map (staggerDst w.strand b), spec := sp }

section
variable {w : State} {b : BitVec 3} {i : Instr} {h : Head} {d : Option Dst} {x : Src} {v : Bus} (hm : MoveReads w b i h d x v)
include hm

theorem badGuard_reads : badGuard w.self w.self.run h.guard = false := by
  refine Bool.eq_false_iff.mpr fun hb => ?_
  obtain ⟨r, hr, hl⟩ := Bundles.badRead_iff.mp hb
  exact Bool.false_ne_true ((hm.sound r (List.mem_append_left _ hr)).1.symm.trans hl)

theorem badRead_reads : badRead w.self w.self.run x = false := by
  refine Bool.eq_false_iff.mpr fun hb => ?_
  obtain ⟨r, hr, hl⟩ := Bundles.badRead_iff.mp hb
  exact Bool.false_ne_true ((hm.sound r (List.mem_append_right _ hr)).1.symm.trans hl)

theorem readPhase_reads {sp : Option Spec} {acts : List Act} :
    readPhase w.self ((b, i, sp) :: acts) = { readPhase w.self acts with gots := gotAt w b d x v sp :: (readPhase w.self acts).gots } := by
  have hg := badGuard_reads hm
  have hs := badRead_reads hm
  obtain ⟨hhead, -, hguard, rfl, hvalue, -⟩ := hm
  unfold State.strand at *
  rw [Bundles.readPhase_cons hhead hguard hvalue, hg, hs]
  rfl

theorem regsRead_reads {sp : Option Spec} {acts : List Act} :
    regsRead w.self ((b, i, sp) :: acts) = guardReg h ++ (regPlace x).toList ++ regsRead w.self acts := by
  obtain ⟨hhead, -, hguard, rfl, -, -⟩ := hm
  exact Bundles.regsRead_cons hhead hguard

end

section
variable {w : State} {b1 b2 : BitVec 3} {i1 i2 : Instr} {h1 h2 : Head} {d1 d2 : Option Dst} {x1 x2 : Src} {v1 v2 : Bus}
  (hm1 : MoveReads w b1 i1 h1 d1 x1 v1) (hm2 : MoveReads w b2 i2 h2 d2 x2 v2) (sp1 sp2 : Option Spec)
include hm1 hm2

theorem readPhase_two : readPhase w.self [(b1, i1, sp1), (b2, i2, sp2)] = { gots := [gotAt w b1 d1 x1 v1 sp1, gotAt w b2 d2 x2 v2 sp2] } := by
  rw [readPhase_reads hm1, readPhase_reads hm2]
  rfl

/-- Two moves that read sound registers correct none. -/
theorem afterWrites_two : Bundles.afterWrites [(b1, i1, sp1), (b2, i2, sp2)] w =
    w.onSelf (writePhase [gotAt w b1 d1 x1 v1 sp1, gotAt w b2 d2 x2 v2 sp2]) := by
  unfold Bundles.afterWrites
  rw [readPhase_two hm1 hm2, regCorrect_clean]
  intro r hr
  rw [regsRead_reads hm1, regsRead_reads hm2] at hr
  obtain hr | hr := List.mem_append.mp hr
  · exact (hm1.sound r hr).2
  · obtain hr | hr := List.mem_append.mp hr
    · exact (hm2.sound r hr).2
    · cases hr

theorem passes_two (hw : w.self.waits w.tick = false) : Bundles.Passes [(b1, i1, sp1), (b2, i2, sp2)] w := by
  refine ⟨fun a ha => ?_, hw⟩
  obtain rfl | ha := List.mem_cons.mp ha
  · exact hm1.legal
  · obtain rfl := List.mem_singleton.mp ha
    exact hm2.legal

/-- Two moves of which none stalls, waits or traps issue. -/
theorem prepare_two {len : Nat} {j : Issue} (hw : w.self.waits w.tick = false)
    (hst : Bundles.started [(b1, i1, sp1), (b2, i2, sp2)] len w = { out := j }) : prepare [(b1, i1, sp1), (b2, i2, sp2)] len w = .ok j := by
  have hr := readPhase_two hm1 hm2 sp1 sp2
  rw [Bundles.prepare_ok (len := len) (passes_two hm1 hm2 sp1 sp2 hw) (by rw [hr]) (by rw [hst]) (by rw [hst]) (by rw [hr]) (by rw [hst]), hst]

end

/-- Two plain moves: both read before either writes, and the higher bus writes last. -/
theorem exec_two_moves {s : State} {b1 b2 : BitVec 3} {h1 h2 : Head} {d1 d2 : Dst} {lis : List Word} {len : Nat} {x1 x2 : Src} {v1 v2 : Bus}
    (hb : BundleAt s (.ok [(b1, .move (.live h1 d1), none), (b2, .move (.live h2 d2), none)] lis len))
    (hm1 : MoveReads (s.reading lis len) b1 (.move (.live h1 d1)) h1 (some d1) x1 v1)
    (hm2 : MoveReads (s.reading lis len) b2 (.move (.live h2 d2)) h2 (some d2) x2 v2) :
    exec .bundleIssue s = .next (finish len { st := ((s.reading lis len).onSelf fun t =>
      writeDst (writeDst (emptyPort (emptyPort t x1) x2) v1 (staggerDst (s.reading lis len).strand b1 d1)) v2
        (staggerDst (s.reading lis len).strand b2 d2)).mxIssueCycle (s.reading lis len).cur (s.reading lis len).self.run }) := by
  have hst := Bundles.started_plain (acts := [(b1, .move (.live h1 d1), none), (b2, .move (.live h2 d2), none)]) (s := s.reading lis len) len
    (by rw [readPhase_two hm1 hm2]; rintro g (_ | ⟨_, _ | ⟨_, ⟨⟩⟩⟩) <;> rfl)
  rw [afterWrites_two hm1 hm2] at hst
  have hk : Steady (s.reading lis len) ((s.reading lis len).onSelf (writePhase
      [gotAt (s.reading lis len) b1 (some d1) x1 v1 none, gotAt (s.reading lis len) b2 (some d2) x2 v2 none])) := .onSelf (.refl _) fun t => by
    exact (writeDst_refetch ..).trans ((writeDst_refetch ..).trans ((emptyPort_refetch ..).trans (emptyPort_refetch t x1)))
  exact exec_ok hb (prepare_two hm1 hm2 none none (reading_free hb lis len) hst) (hk.trans (steady_mxIssueCycle ..)).serves (by rintro ⟨⟩)

/-! ### A trigger and a plain move -/

/-- A move that starts nothing may stand before or after the trigger. -/
theorem trigPhase_bySocket {t0 : Tile} {o n : Word} {g1 g2 : Got} {sp : Spec} (h1 : g1.spec = some sp) (h2 : g2.spec = none) (r : Trigs) :
    trigPhase t0 o n (bySocket false [g1, g2]) r = trigPhase t0 o n [g1] r := by
  have hor : bySocket false [g1, g2] = [g1, g2] ∨ bySocket false [g1, g2] = [g2, g1] := by
    show insertGot _ g1 [g2] = _ ∨ insertGot _ g1 [g2] = _
    unfold insertGot
    split
    · exact .inl rfl
    · exact .inr rfl
  obtain h | h := hor
  · simp only [h, trigPhase, h1, h2]
  · rw [h, trigPhase, h2]

/-- The state in which the trigger of the bundle starts. -/
def besides (w : State) (sp : Spec) (x1 x2 : Src) (v1 v2 : Bus) (o : Opnd) : State :=
  Bundles.latchOperand w.self.run sp v1
    ((w.onSelf fun t => writeDst (emptyPort (emptyPort t x1) x2) v2 (.opnd sp.sock o)).mxIssueCycle w.cur w.self.run)

theorem steady_besides (w : State) (sp : Spec) (x1 x2 : Src) (v1 v2 : Bus) (o : Opnd) : Steady w (besides w sp x1 x2 v1 v2 o) := by
  have h : Steady w ((w.onSelf fun t => writeDst (emptyPort (emptyPort t x1) x2) v2 (.opnd sp.sock o)).mxIssueCycle w.cur w.self.run) :=
    Steady.trans (.onSelf (.refl w) fun t => by
      exact (writeDst_refetch ..).trans ((emptyPort_refetch ..).trans (emptyPort_refetch t x1))) (steady_mxIssueCycle ..)
  unfold besides Bundles.latchOperand
  split
  · exact h.onSelf fun _ => by rfl
  · exact h

section
variable {w : State} {b1 b2 : BitVec 3} {i : Instr} {sp : Spec} {h1 h2 : Head} {o : Opnd} {len : Nat} {x1 x2 : Src} {v1 v2 : Bus} {r : Issue}

theorem started_beside (hk : sp.sock ≠ .mx) (hm1 : MoveReads w b1 i h1 none x1 v1)
    (hm2 : MoveReads w b2 (.move (.live h2 (.opnd sp.sock o))) h2 (some (.opnd sp.sock o)) x2 v2)
    (hslot : w.self.locked sp.sock = true → sp.sock ≠ .mu → (besides w sp x1 x2 v1 v2 o).self.slotFree sp.sock false = true)
    (hrun : sp.run (Bundles.startOf w.self w.strand.pc (w.strand.pc + BitVec.ofNat 32 len) b1 v1 sp (besides w sp x1 x2 v1 v2 o))
      { st := besides w sp x1 x2 v1 v2 o } = .ok r) :
    Bundles.started [(b1, i, some sp), (b2, .move (.live h2 (.opnd sp.sock o)), none)] len w = { out := r } := by
  unfold Bundles.started
  rw [readPhase_two hm1 hm2, afterWrites_two hm1 hm2, Bundles.startAll_single (sp := sp) (by rintro g (_ | ⟨_, _ | ⟨_, ⟨⟩⟩⟩); exacts [.inr rfl, .inl rfl]) hk,
    trigPhase_bySocket rfl rfl, Bundles.trigPhase_single rfl]
  have hstart := (Bundles.startOne_eq (t0 := w.self) (o := w.strand.pc) (n := w.strand.pc + BitVec.ofNat 32 len) (g := gotAt w b1 none x1 v1 (some sp)) rfl
    fun hl _ hmu => hslot hl hmu).trans hrun
  exact congrArg (Bundles.trigsOf b1 _) hstart

/-- The trigger finds the operand that the plain move of its bundle writes. -/
theorem exec_trigger_and_move {s : State} {lis : List Word} {st : Start} (hw : s.reading lis len = w)
    (hb : BundleAt s (.ok [(b1, i, some sp), (b2, .move (.live h2 (.opnd sp.sock o)), none)] lis len)) (hs : specOf i = some sp) (hk : sp.sock ≠ .mx)
    (hslot : w.self.locked sp.sock = true → sp.sock ≠ .mu → (besides w sp x1 x2 v1 v2 o).self.slotFree sp.sock false = true)
    (hm1 : MoveReads w b1 i h1 none x1 v1)
    (hm2 : MoveReads w b2 (.move (.live h2 (.opnd sp.sock o))) h2 (some (.opnd sp.sock o)) x2 v2)
    (hst : st = Bundles.startOf w.self w.strand.pc (w.strand.pc + BitVec.ofNat 32 len) b1 v1 sp (besides w sp x1 x2 v1 v2 o))
    (hrun : sp.run st { st := besides w sp x1 x2 v1 v2 o } = .ok r) (hc : r.ctl ≠ .gang) : exec .bundleIssue s = .next (finish len r) := by
  subst hw hst
  exact exec_ok hb (prepare_two hm1 hm2 _ _ (reading_free hb lis len) (started_beside hk hm1 hm2 hslot hrun))
    ((steady_besides ..).trans ((specKeeps_of_spec hs hk _ _).steady r hrun)).serves hc

end

/-! ### An empty port -/

theorem readPhase_stall {t : Tile} {acts : List Act} (h : ∃ a ∈ acts, ∃ h d, headOf a.2.1 = some (h, d) ∧ guardHolds (t.bank t.run) h.guard = true
    ∧ readSrc t (t.bank t.run) (staggerSrc (t.bank t.run) a.1 h.src) = none) : (readPhase t acts).stall = true := by
  obtain ⟨a, ha, hd, d, hi, hg, hv⟩ := h
  induction acts with
  | nil => cases ha
  | cons b acts ih =>
    obtain ⟨bus, i, sp⟩ := b
    obtain rfl | ha := List.mem_cons.mp ha
    · simp only [readPhase, hi, hg, if_true, hv]
    · have hr := ih ha
      unfold readPhase
      dsimp only
      split
      · exact hr
      · split
        · split
          · rfl
          · exact hr
        · exact hr

/-! ## The limits of a bundle (R123, R137, R138, Table 6.2) -/

/-! ## The limits of a bundle (R123, R137, R138, Table 6.2) -/

/-- The counts with one more move, whether or not it fits. -/
def plus (c : Caps) (i : Instr) : Caps :=
  { grfW := c.grfW + (writesG i).toNat, vrfW := c.vrfW + (writesV i).toNat, vrfR := c.vrfR + (readsV i).toNat, brfW := c.brfW + (writesB i).toNat,
    dsts := (namedPort i).toList ++ c.dsts, socks := (triggered i).toList ++ c.socks }

/-- The counts of the moves of a bundle. -/
def capsOf (is : List Instr) : Caps :=
  { grfW := (is.filter writesG).length, vrfW := (is.filter writesV).length, vrfR := (is.filter readsV).length, brfW := (is.filter writesB).length,
    dsts := (is.filterMap namedPort).reverse, socks := (is.filterMap triggered).reverse }

/-- The counts are within the limits of Table 6.2. -/
def Fits (c : Caps) : Prop := c.grfW ≤ 4 ∧ c.vrfW ≤ 2 ∧ c.vrfR ≤ 4 ∧ c.brfW ≤ 2

/-- The move names no port and triggers no socket that stands among the counts. -/
structure Fresh (c : Caps) (i : Instr) : Prop where
  port : ∀ d, namedPort i = some d → d ∉ c.dsts
  sock : ∀ k, triggered i = some k → k ∉ c.socks

theorem filter_length_concat {α : Type} (p : α → Bool) (l : List α) (x : α) : ((l ++ [x]).filter p).length = (l.filter p).length + (p x).toNat := by
  rw [List.filter_append, List.length_append]
  cases h : p x <;> simp [h]

theorem filterMap_concat_reverse {α β : Type} (f : α → Option β) (l : List α) (x : α) :
    ((l ++ [x]).filterMap f).reverse = (f x).toList ++ (l.filterMap f).reverse := by
  rw [List.filterMap_append, List.reverse_append]
  cases h : f x <;> simp [h]

theorem capsOf_concat (is : List Instr) (i : Instr) : capsOf (is ++ [i]) = plus (capsOf is) i := by
  unfold capsOf plus
  simp only [filter_length_concat, filterMap_concat_reverse]

theorem withinLimits_iff (is : List Instr) : WithinLimits is ↔ Fits (capsOf is) ∧ (capsOf is).dsts.Nodup ∧ (capsOf is).socks.Nodup := by
  constructor
  · rintro ⟨g, v, b, r, p, k⟩
    exact ⟨⟨g, v, r, b⟩, List.nodup_reverse.mpr p, List.nodup_reverse.mpr k⟩
  · rintro ⟨⟨g, v, r, b⟩, p, k⟩
    exact ⟨g, v, b, r, List.nodup_reverse.mp p, List.nodup_reverse.mp k⟩

theorem nodup_option_append {α : Type} (o : Option α) (l : List α) : (o.toList ++ l).Nodup ↔ (∀ x, o = some x → x ∉ l) ∧ l.Nodup := by
  cases o with
  | none => simp
  | some x => simp

/-- One more move is within the limits when it is fresh and its counts fit. -/
theorem withinLimits_concat {is : List Instr} (h : WithinLimits is) (i : Instr) :
    WithinLimits (is ++ [i]) ↔ Fresh (capsOf is) i ∧ Fits (plus (capsOf is) i) := by
  obtain ⟨-, hp, hk⟩ := (withinLimits_iff is).mp h
  rw [withinLimits_iff, capsOf_concat]
  unfold plus
  simp only [nodup_option_append]
  constructor
  · rintro ⟨hf, ⟨hd, -⟩, hs, -⟩
    exact ⟨⟨hd, hs⟩, hf⟩
  · rintro ⟨⟨hd, hs⟩, hf⟩
    exact ⟨hf, ⟨hd, hp⟩, hs, hk⟩

/-- A count of an operation that names no port again (R137). -/
def within (c : Caps) : Option Caps := if c.grfW ≤ 4 ∧ c.vrfW ≤ 2 ∧ c.vrfR ≤ 4 ∧ c.brfW ≤ 2 then some c else none

theorem within_eq_some {c : Caps} (h : Fits c) : within c = some c := if_pos h
theorem within_eq_none {c : Caps} (h : ¬Fits c) : within c = none := if_neg h

section
variable {c : Caps} {i : Instr}

theorem add_plain {h : Head} {d : Dst} (hi : i.form = .move (.live h d)) : c.add i = if d ∈ c.dsts then none else within (plus c i) := by
  unfold Caps.add within plus writesG writesV writesB readsV namedPort triggered headOf
  simp only [hi]
  cases d <;> cases h.src <;> rfl

theorem add_trigger {h : Head} {k : Sock} {p : BitVec 5} {md : Mod} (hi : i.form = .trig h k p md) :
    c.add i = if k ∈ c.socks ∨ ∃ o, trigOpnd k p.toNat = some o ∧ Dst.opnd k o ∈ c.dsts then none else within (plus c i) := by
  unfold Caps.add within plus writesG writesV writesB readsV namedPort triggered headOf
  simp only [hi]
  split
  · simp [*]
  · cases trigOpnd k p.toNat <;> cases h.src <;> simp [*]

/-- A null move, and what is no move, is not counted. -/
theorem add_idle (hi : i.form = .event ∨ ∃ n, i.form = .move (.null n)) : c.add i = some (plus c i) := by
  unfold Caps.add plus writesG writesV writesB readsV namedPort triggered headOf
  obtain hi | ⟨n, hi⟩ := hi <;> simp only [hi] <;> rfl

theorem fresh_plain {h : Head} {d : Dst} (hi : i.form = .move (.live h d)) : Fresh c i ↔ d ∉ c.dsts := by
  have hp : namedPort i = some d := by unfold namedPort; rw [hi]
  have ht : triggered i = none := by unfold triggered; rw [hi]
  exact ⟨fun hf => hf.port d hp, fun hd => ⟨fun x hx => Option.some.inj (hp.symm.trans hx) ▸ hd, fun k hk => nomatch ht.symm.trans hk⟩⟩

theorem fresh_trigger {h : Head} {k : Sock} {p : BitVec 5} {md : Mod} (hi : i.form = .trig h k p md) :
    Fresh c i ↔ ¬(k ∈ c.socks ∨ ∃ o, trigOpnd k p.toNat = some o ∧ Dst.opnd k o ∈ c.dsts) := by
  have hp : namedPort i = (trigOpnd k p.toNat).map (Dst.opnd k) := by unfold namedPort; rw [hi]
  have ht : triggered i = some k := by unfold triggered; rw [hi]
  constructor
  · rintro ⟨hd, hs⟩ (hk | ⟨o, ho, hm⟩)
    · exact hs k ht hk
    · exact hd _ (by rw [hp, ho]; rfl) hm
  · intro hn
    refine ⟨fun d hd hm => hn (.inr ?_), fun q hq hm => hn (.inl (Option.some.inj (ht.symm.trans hq) ▸ hm))⟩
    rw [hp, Option.map_eq_some_iff] at hd
    obtain ⟨o, ho, rfl⟩ := hd
    exact ⟨o, ho, hm⟩

theorem fresh_idle (hi : i.form = .event ∨ ∃ n, i.form = .move (.null n)) : Fresh c i := by
  have hp : namedPort i = none := by unfold namedPort; obtain hi | ⟨n, hi⟩ := hi <;> rw [hi]
  have ht : triggered i = none := by unfold triggered; obtain hi | ⟨n, hi⟩ := hi <;> rw [hi]
  exact ⟨fun d hd => (nomatch hp.symm.trans hd), fun k hk => (nomatch ht.symm.trans hk)⟩

theorem plus_idle (hi : i.form = .event ∨ ∃ n, i.form = .move (.null n)) : plus c i = c := by
  unfold plus writesG writesV writesB readsV namedPort triggered headOf
  obtain hi | ⟨n, hi⟩ := hi <;> simp only [hi] <;> rfl

theorem form_cases (i : Instr) : (i.form = .event ∨ ∃ n, i.form = .move (.null n)) ∨ (∃ h d, i.form = .move (.live h d))
    ∨ ∃ h k p md, i.form = .trig h k p md := by
  cases i.form with
  | event => exact .inl (.inl rfl)
  | move m =>
    cases m with
    | null n => exact .inl (.inr ⟨n, rfl⟩)
    | live h d => exact .inr (.inl ⟨h, d, rfl⟩)
  | trig h k p md => exact .inr (.inr ⟨h, k, p, md, rfl⟩)

/-- A fresh move that fits is counted. -/
theorem add_eq_some (hn : Fresh c i) (hp : Fits (plus c i)) : c.add i = some (plus c i) := by
  obtain hi | ⟨h, d, hi⟩ | ⟨h, k, p, md, hi⟩ := form_cases i
  · exact add_idle hi
  · rw [add_plain hi, if_neg ((fresh_plain hi).mp hn), within_eq_some hp]
  · rw [add_trigger hi, if_neg ((fresh_trigger hi).mp hn), within_eq_some hp]

/-- Any other is the one over a limit. -/
theorem add_eq_none (hf : Fits c) (hn : ¬(Fresh c i ∧ Fits (plus c i))) : c.add i = none := by
  obtain hi | ⟨h, d, hi⟩ | ⟨h, k, p, md, hi⟩ := form_cases i
  · exact absurd ⟨fresh_idle hi, by rwa [plus_idle hi]⟩ hn
  · rw [add_plain hi]
    split
    · rfl
    next hd => exact within_eq_none fun hp => hn ⟨(fresh_plain hi).mpr hd, hp⟩
  · rw [add_trigger hi]
    split
    · rfl
    next hd => exact within_eq_none fun hp => hn ⟨(fresh_trigger hi).mpr hd, hp⟩

end

theorem withinLimits_left {l m : List Instr} (h : WithinLimits (l ++ m)) : WithinLimits l := by
  obtain ⟨g, v, b, r, p, k⟩ := h
  simp only [List.filter_append, List.length_append, List.filterMap_append] at g v b r p k
  exact ⟨by omega, by omega, by omega, by omega, (List.nodup_append.mp p).1, (List.nodup_append.mp k).1⟩

/-- The moves of a bundle up to the limits are counted. -/
theorem checkCaps_append {is : List Instr} {pre ms : List (BitVec 3 × Instr)} (h : WithinLimits (is ++ pre.map (·.2))) :
    checkCaps (capsOf is) (pre ++ ms) = checkCaps (capsOf (is ++ pre.map (·.2))) ms := by
  induction pre generalizing is with
  | nil => rw [List.map_nil, List.append_nil, List.nil_append]
  | cons m pre ih =>
    obtain ⟨b, i⟩ := m
    rw [List.map_cons, List.append_cons] at h ⊢
    have hi := withinLimits_left h
    obtain ⟨hn, hp⟩ := (withinLimits_concat (withinLimits_left hi) i).mp hi
    rw [← ih h, capsOf_concat]
    show checkCaps _ ((b, i) :: (pre ++ ms)) = _
    rw [checkCaps, add_eq_some hn hp]

/-- The first move over a limit is the one found. -/
theorem checkCaps_first {is : List Instr} {b : BitVec 3} {i : Instr} {post : List (BitVec 3 × Instr)} (h : WithinLimits is)
    (hn : ¬WithinLimits (is ++ [i])) : checkCaps (capsOf is) ((b, i) :: post) = some b := by
  rw [checkCaps, add_eq_none ((withinLimits_iff is).mp h).1 ((withinLimits_concat h i).not.mp hn)]

theorem withinLimits_of_checkCaps {is : List Instr} {ms : List (BitVec 3 × Instr)} (h : WithinLimits is) (hc : checkCaps (capsOf is) ms = none) :
    WithinLimits (is ++ ms.map (·.2)) := by
  induction ms generalizing is with
  | nil => rwa [List.map_nil, List.append_nil]
  | cons m ms ih =>
    obtain ⟨b, i⟩ := m
    by_cases hi : WithinLimits (is ++ [i])
    · obtain ⟨hn, hp⟩ := (withinLimits_concat h i).mp hi
      rw [checkCaps, add_eq_some hn hp] at hc
      rw [List.map_cons, List.append_cons]
      exact ih hi (by rw [capsOf_concat]; exact hc)
    · rw [checkCaps_first h hi] at hc
      cases hc

theorem withinLimits_nil : WithinLimits [] := ⟨by decide, by decide, by decide, by decide, List.nodup_nil, List.nodup_nil⟩

theorem checkCaps_none_iff (ms : List (BitVec 3 × Instr)) : checkCaps {} ms = none ↔ WithinLimits (ms.map (·.2)) := by
  refine ⟨fun h => withinLimits_of_checkCaps withinLimits_nil h, fun h => ?_⟩
  have hc := checkCaps_append (is := []) (ms := []) h
  rw [List.append_nil] at hc
  exact hc

theorem checkCaps_offender {pre post : List (BitVec 3 × Instr)} {b : BitVec 3} {i : Instr} (h : WithinLimits (pre.map (·.2)))
    (hn : ¬WithinLimits (pre.map (·.2) ++ [i])) : checkCaps {} (pre ++ (b, i) :: post) = some b :=
  (checkCaps_append (is := []) h).trans (checkCaps_first h hn)

/-! ## The order of the decode faults (Table 5.7) -/

section
variable {sup : Bool} {nli : Nat}

/-- The first word with a fault of step 3. -/
theorem decodeMoves_error {bs : List (BitVec 3)} {ws : List Word} {k : Nat} {b : BitVec 3} {e : DecodeError} (hl : bs.length ≤ ws.length)
    (hb : bs[k]? = some b) (hj : ∀ j, j < k → ∃ i, decodeMove sup nli (ws.getD j 0) = .ok i) (he : decodeMove sup nli (ws.getD k 0) = .error e) :
    decodeMoves sup nli bs ws = .error (e, some b) := by
  induction bs generalizing ws k with
  | nil => cases hb
  | cons c bs ih =>
    cases ws with
    | nil => cases hl
    | cons w ws =>
      cases k with
      | zero =>
        obtain rfl := Option.some.inj hb
        replace he : decodeMove sup nli w = .error e := he
        rw [decodeMoves, he]
      | succ k =>
        obtain ⟨i, hi⟩ := hj 0 (Nat.succ_pos k)
        replace hi : decodeMove sup nli w = .ok i := hi
        rw [decodeMoves, hi]
        dsimp only
        rw [ih (Nat.le_of_succ_le_succ hl) hb (fun j h => hj (j + 1) (Nat.succ_lt_succ h)) he]

theorem decodeMoves_ok {bs : List (BitVec 3)} {ws : List Word} {is : List Instr} (hl : bs.length ≤ ws.length) (hi : is.length = bs.length)
    (hd : ∀ (k : Nat) (i : Instr), is[k]? = some i → decodeMove sup nli (ws.getD k 0) = .ok i) : decodeMoves sup nli bs ws = .ok (bs.zip is) := by
  induction bs generalizing ws is with
  | nil => cases ws <;> rfl
  | cons c bs ih =>
    cases ws with
    | nil => cases hl
    | cons w ws =>
      cases is with
      | nil => cases hi
      | cons i is =>
        have h0 : decodeMove sup nli w = .ok i := hd 0 i rfl
        rw [decodeMoves, h0]
        dsimp only
        rw [ih (Nat.le_of_succ_le_succ hl) (Nat.succ.inj hi) fun k j hk => hd (k + 1) j hk]
        rfl

end

section
variable {sup : Bool} {hd : Word} {rest : List Word}

theorem decodeBundle_short (h : rest.length < (busesOf hd).length + nliOf hd) : decodeBundle sup (hd :: rest) = .error (.illegalBundle, none) := by
  unfold decodeBundle
  exact if_pos h

theorem decodeBundle_reserved (hl : (busesOf hd).length + nliOf hd ≤ rest.length) (h : hd.extractLsb' 0 22 ≠ 0) :
    decodeBundle sup (hd :: rest) = .error (.illegalBundle, none) := by
  unfold decodeBundle
  dsimp only
  rw [if_neg (Nat.not_lt.mpr hl), if_pos h]

section
variable (hl : (busesOf hd).length + nliOf hd ≤ rest.length) (hz : hd.extractLsb' 0 22 = 0)
include hl hz

theorem decodeBundle_of_error {x : DecodeError × Option (BitVec 3)} (h : decodeMoves sup (nliOf hd) (busesOf hd) rest = .error x) :
    decodeBundle sup (hd :: rest) = .error x := by
  unfold decodeBundle
  dsimp only
  rw [if_neg (Nat.not_lt.mpr hl), if_neg (not_not.mpr hz), h]

theorem decodeBundle_of_conflict {ms : List (BitVec 3 × Instr)} {b : BitVec 3} (h : decodeMoves sup (nliOf hd) (busesOf hd) rest = .ok ms)
    (hc : checkCaps {} ms = some b) : decodeBundle sup (hd :: rest) = .error (.portConflict, some b) := by
  unfold decodeBundle
  dsimp only
  rw [if_neg (Nat.not_lt.mpr hl), if_neg (not_not.mpr hz), h]
  dsimp only
  rw [hc]

theorem decodeBundle_of_limits {ms : List (BitVec 3 × Instr)} (h : decodeMoves sup (nliOf hd) (busesOf hd) rest = .ok ms)
    (hc : checkCaps {} ms = none) : decodeBundle sup (hd :: rest) =
      .ok { moves := ms, lis := (rest.drop (busesOf hd).length).take (nliOf hd), len := 4 * (1 + (busesOf hd).length + nliOf hd) } := by
  unfold decodeBundle
  dsimp only
  rw [if_neg (Nat.not_lt.mpr hl), if_neg (not_not.mpr hz), h]
  dsimp only
  rw [hc]

end

end

/-- A trigger's start, from what it finds. -/
theorem start_eq {x y : Start} (hk : x.sock = y.sock) (hb : x.bank = y.bank) (ha : x.a = y.a) (hbb : x.b = y.b) (hc : x.c = y.c) (hv : x.v = y.v)
    (ho : x.origin = y.origin) (hn : x.next = y.next) (hq : x.seq = y.seq) (hbus : x.bus = y.bus) (hl : x.locked = y.locked) (hf : x.fmt = y.fmt) :
    x = y := by
  cases x
  cases y
  cases hk; cases hb; cases ha; cases hbb; cases hc; cases hv; cases ho; cases hn; cases hq; cases hbus; cases hl; cases hf
  rfl

/-- Settles O7, clause by clause: the phases of a bundle from its reads, the limits by counting its moves, and the decode faults in the order of Table 5.7. -/
theorem bundleMeansMoves : Obligations.BundleMeansMoves := by
  refine ⟨fun i => ⟨fun sp h s => Bundles.exec_of_spec h s, fun sp h k p md hs hi => Bundles.spec_of_form hs hi, Bundles.specOf_none_iff i⟩,
    fun s b1 b2 h1 h2 d1 d2 lis len x1 x2 v1 v2 hb hm1 hm2 => exec_two_moves hb hm1 hm2, ?beside,
    fun s acts lis len hb hl hr => exec_stall hb hl (readPhase_stall hr), fun s c bus hb => exec_bad hb,
    fun ms => ⟨checkCaps_none_iff ms, ?offender⟩, ?decode⟩
  case beside =>
    intro s b1 b2 i sp h1 h2 o lis len x1 x2 v1 v2 st r w u0 u hb hs hk hslot hm1 hm2 e1 e2 e3 e4 e5 e6 e7 e8 e9 e10 e11 e12 hrun hc
    refine exec_trigger_and_move rfl hb hs hk hslot hm1 hm2 (st := st) ?_ hrun hc
    exact start_eq e1 e2 e3 e4 e5 e6 e7 e8 e9 e10 e11 e12
  case offender =>
    rintro pre post b i rfl h hn
    exact checkCaps_offender h hn
  case decode =>
    intro sup hd rest bs
    refine ⟨decodeBundle_short, decodeBundle_reserved, fun hl hz => ⟨fun k b e hk hj he => ?_, fun is hi hd => ?_⟩⟩
    · exact decodeBundle_of_error hl hz (decodeMoves_error (le_trans (Nat.le_add_right _ _) hl) hk hj he)
    · have hm := decodeMoves_ok (le_trans (Nat.le_add_right _ _) hl) hi hd
      refine ⟨fun b hc => decodeBundle_of_conflict hl hz hm hc, fun hw => decodeBundle_of_limits hl hz hm ?_⟩
      rw [checkCaps_none_iff, List.map_snd_zip (le_of_eq hi)]
      exact hw

end Sys2Proof.Proofs.WholeBundles
end

section
/-! PROOF. The transport of values: the four banks of registers, the ticks on which a bundle stalls whole, and the landing of free-running results. -/

namespace Sys2Proof.Proofs.Transport

open Sys2Proof Sys2Proof.Machine Sys2Proof.Laws

/-! ## Registers (R139) -/

@[simp] theorem bank_clearBad (t : Tile) (file reg : Nat) (k : BitVec 2) : (clearBad t file reg).bank k = t.bank k := rfl

/-- A plain write changes a bank of the served tile only where it is the bank that runs. -/
theorem writeDst_bank_other (t : Tile) (d : Dst) (v : Bus) {k : BitVec 2} (h : k ≠ t.run) : (writeDst t v d).bank k = t.bank k := by
  cases d with
  | grf n => exact (bank_clearBad ..).trans (bank_onBank_other t _ h)
  | vrf n => exact (bank_clearBad ..).trans (bank_onBank_other t _ h)
  | brf n => exact (bank_clearBad ..).trans (bank_onBank_other t _ h)
  | opnd s o => exact bank_onBank_other t _ h

theorem writeDst_bank_grf (t : Tile) (v : Bus) (n : BitVec 5) : (writeDst t v (.grf n)).bank t.run = (t.bank t.run).setG n (Bus.low v) :=
  (bank_clearBad ..).trans (bank_onBank t t.run _)

theorem writeDst_bank_vrf (t : Tile) (v : Bus) (n : BitVec 5) : (writeDst t v (.vrf n)).bank t.run = (t.bank t.run).setV n v :=
  (bank_clearBad ..).trans (bank_onBank t t.run _)

theorem writeDst_bank_brf (t : Tile) (v : Bus) (n : BitVec 3) : (writeDst t v (.brf n)).bank t.run = (t.bank t.run).setB n (v.getLsbD 0) :=
  (bank_clearBad ..).trans (bank_onBank t t.run _)

theorem getG_setG_eq (b : Strand) (m n : BitVec 5) (v : Dword) : (b.setG n v).getG m = if m = n then v else b.getG m := by
  by_cases h : m = n
  · rw [if_pos h, h, getG_setG]
  · rw [if_neg h, getG_setG_other b v h]

theorem getV_setV_eq (b : Strand) (m n : BitVec 5) (v : Bus) : (b.setV n v).getV m = if m = n then v else b.getV m := by
  by_cases h : m = n
  · rw [if_pos h, h, getV_setV]
  · rw [if_neg h, getV_setV_other b v h]

/-- Settles O11: reads after writes for each register file, then the bank that a plain write reaches. -/
theorem registerBanks : Obligations.RegisterBanks :=
  ⟨getG_setG_eq, getV_setV_eq, getB_setB, fun b v => ⟨getB_zero b, setB_zero b v⟩, fun t d v _ h => writeDst_bank_other t d v h,
    writeDst_bank_grf, writeDst_bank_vrf, writeDst_bank_brf⟩

/-! ## Stalls (R128, R129, R348, R421) -/

/-- What is due is settled before the bundle of a tile that issues by itself, whether an operation holds its strand or not. -/
theorem issue_alone {s : State} (ha : s.inGang = false) (hc : s.atBundle.self.takePending s.tick false = none)
    (hi : s.atBundle.self.canIssue s.tick = true) (acts : List Act) (len : Nat) : issue acts len s = issueSingle acts len s.atBundle := by
  have hg : s.atBundle.inGang = false := (settle_inGang s).trans ha
  unfold State.atBundle at *
  unfold issue whenReady
  simp only [ha, hg, Bool.false_eq_true, if_false, settle_tick, hc, hi, if_true]

section
variable {i : Instr} {h : Head} {d : Option Dst} {s : State} (hi : headOf i = some (h, d)) (ha : s.inGang = false)
  (hc : s.atBundle.self.takePending s.tick false = none) (hs : s.atBundle.self.canIssue s.tick = true)
include hi ha hc hs

/-- A bundle that passes the checks of Table 5.7 stalls while an operation holds the strand or one of `sv` is under way. -/
theorem exec_held (hl : moveCause (s.atBundle.self.run = 3) s.atBundle.self.lis.length i = none)
    (hw : s.atBundle.self.waits s.tick = true) : exec i s = .next (stallTick s.atBundle) := by
  obtain ⟨sp, he⟩ := exec_issue i h d hi s
  have hw' : s.atBundle.self.waits s.atBundle.tick = true := hw
  have hp : prepare [((s.self).bus, i, sp)] (s.self).blen s.atBundle = .stall := by
    unfold prepare
    simp only [List.findSome?_cons, List.findSome?_nil, hl, Option.map_none, hw', if_true]
  rw [he, issue_alone ha hc hs]
  unfold issueSingle
  rw [hp]

/-- A fault of Table 5.7 does not wait for them. -/
theorem exec_decode_trapped {c : Cause} (hl : moveCause (s.atBundle.self.run = 3) s.atBundle.self.lis.length i = some c) :
    exec i s = .next (s.trapped { s.trapOf c 0 0 with kind := .decode }) := by
  obtain ⟨sp, he⟩ := exec_issue i h d hi s
  have hp : prepare [((s.self).bus, i, sp)] (s.self).blen s.atBundle = .fault { s.trapOf c 0 0 with kind := .decode } := by
    unfold prepare
    simp only [List.findSome?_cons, hl, Option.map_some]
    rfl
  rw [he, issue_alone ha hc hs]
  unfold issueSingle
  rw [hp]
  rfl

end

/-- A trigger does not start on a tick when the command queue of its socket is full (R129). -/
theorem startOne_full {t0 : Tile} {o n : Word} {g : Got} {sp : Spec} {u w : State} (hu : Bundles.latchOperand t0.run sp g.val u = w)
    (hx : sp.sock ≠ .mx) (hm : sp.sock ≠ .mu) (hl : t0.locked sp.sock = true) (hs : w.self.slotFree sp.sock false = false) :
    startOne t0 o n g sp { st := u } = .error .stall := by
  subst hu
  unfold startOne Bundles.latchOperand at *
  exact if_pos (by simpa [hx, hm, hl] using hs)

/-- A trigger of any socket but `mx` and `mu` stalls at a full command queue. -/
theorem exec_queueFull {i : Instr} {h : Head} {v : Bus} {s : State} {sp : Spec} (hsp : specOf i = some sp) (hi : headOf i = some (h, none))
    (hf : Fires i h v s) (hx : sp.sock ≠ .mx) (hm : sp.sock ≠ .mu) (hl : s.atBundle.self.locked sp.sock = true)
    (hs : ((s.latched h sp.sock sp.opnd v).self).slotFree sp.sock false = false) : exec i s = .next (stallTick s.atBundle) := by
  have hst : startOne s.atBundle.self s.atBundle.strand.pc (s.atBundle.strand.pc + BitVec.ofNat 32 (s.self).blen)
      (gotOf s h v sp) sp { st := s.passed h sp.sock } = .error .stall := startOne_full rfl hx hm hl hs
  have hp : prepare [((s.self).bus, i, some sp)] (s.self).blen s.atBundle = .stall := by
    rw [prepare_one hf hi, startAll_one hx, trigPhase_stall rfl hst]
    rfl
  rw [Bundles.exec_of_spec hsp]
  unfold issueOne
  rw [issue_mayIssue hf.may]
  unfold issueSingle
  rw [hp]

/-- The queue that a result would join is full. -/
theorem deliver_full {st : Start} {lat : Nat} {r : Res} {late : Option Pending} {j : Issue} (hl : st.locked = true)
    (hs : j.st.self.slotFree st.sock false = false) : deliver st false lat r late j = .error .stall := by
  unfold deliver
  dsimp only
  rw [hl, hs]
  rfl

/-- A multiplication puts its result on its way through the queue of `mu` (Table 7.9). -/
theorem multiplication_computes {h : Head} {w : Width} {i : Instr} {o : Opnd}
    (hi : (i = .mul h w ∨ i = .mulh h w ∨ i = .mulhn h w) ∧ o = .opB ∨ i = .mac h w ∧ o = .opC) :
    headOf i = some (h, none) ∧ ∃ f, specOf i = some (compute .mu (some o) 3 f) := by
  obtain ⟨rfl | rfl | rfl, rfl⟩ | ⟨rfl, rfl⟩ := hi <;> exact ⟨rfl, _, rfl⟩

theorem exec_multiplication_full {i : Instr} {h : Head} {o : Opnd} {v : Bus} {s : State} {f : Start → Res} (hi : headOf i = some (h, none))
    (hsp : specOf i = some (compute .mu (some o) 3 f)) (hf : Fires i h v s) (hl : s.atBundle.self.locked .mu = true)
    (hs : ((s.latched h .mu (some o) v).self).slotFree .mu false = false) : exec i s = .next (stallTick s.atBundle) := by
  rw [Bundles.exec_of_spec hsp]
  exact issueOne_stalls hf hi Sock.noConfusion (fun _ _ hm => absurd rfl hm) (deliver_full hl hs)

/-- Settles O12: an empty port, a full queue, a strand that is held, a full queue of `mu`, and the fault that comes before all of them. -/
theorem stalls : Obligations.Stalls :=
  ⟨fun _ _ _ _ hi hm hl hg hv => exec_stall hi hm hl hg hv,
    fun _ _ _ _ _ hsp hi hf hx hm hl hs => exec_queueFull hsp hi hf hx hm hl hs,
    fun _ _ _ _ hi ha hc hs hl hw => exec_held hi ha hc hs hl hw,
    fun _ _ _ _ _ _ hi hf hl hs => by
      obtain ⟨hh, f, hsp⟩ := multiplication_computes hi
      exact exec_multiplication_full hh hsp hf hl hs,
    fun _ _ _ _ _ hi ha hc hs hl => exec_decode_trapped hi ha hc hs hl⟩

/-! ## Landings (R125, R126, R135) -/

theorem advance_flight (b : Strand) : b.advance.flight = b.flight.map fun f => { f with r := f.r - 1 } := rfl

/-- One operation in flight after `n` issue cycles. -/
theorem advance_iterate {f : Flight} : ∀ (n : Nat) {b : Strand}, b.flight = [f] → (Strand.advance^[n] b).flight = [{ f with r := f.r - n }]
  | 0, _, h => h
  | n + 1, b, h => by
    have ih := advance_iterate n h
    rw [Function.iterate_succ_apply', advance_flight, ih, List.map_singleton, Nat.sub_sub]

/-- Flights whose latency has passed and that carry no cause land in their order. -/
theorem landFlights_sound (lk : Sock → Bool) : ∀ {fs : List Flight} (b : Strand) (ps : List Pending), (∀ f ∈ fs, f.r = 0 ∧ f.late = none) →
    landFlights lk fs b ps = (fs.foldl (fun b f => landRes b f.sock (lk f.sock) f.res) b, ps)
  | [], _, _, _ => rfl
  | f :: fs, b, ps, h => by
    obtain ⟨hr, hl⟩ := h f List.mem_cons_self
    unfold landFlights
    rw [if_pos hr, hl]
    exact landFlights_sound lk _ ps fun x hx => h x (List.mem_cons_of_mem _ hx)

section
variable {t : Tile} {k : BitVec 2}

/-- Nothing lands before the latency of any operation has passed. -/
theorem landBank_early (h : ∀ f ∈ (t.bank k).flight, f.r ≠ 0) : t.landBank k = t := by
  unfold Tile.landBank
  exact if_neg (by simpa using h)

/-- What lands, and what is raised, where the latency of some operation has passed. -/
theorem landBank_due {b : Strand} {ps : List Pending} (h : ∃ f ∈ (t.bank k).flight, f.r = 0)
    (hl : landFlights t.locked (t.bank k).flight (t.bank k) [] = (b, ps)) :
    (t.landBank k).bank k = { b with flight := (t.bank k).flight.filter fun f => f.r ≠ 0 } ∧ (t.landBank k).pend = t.pend ++ ps := by
  obtain ⟨f, hf, hr⟩ := h
  unfold Tile.landBank
  dsimp only
  rw [if_pos (List.any_eq_true.mpr ⟨f, hf, decide_eq_true hr⟩), hl]
  exact ⟨bank_setBank t k _, rfl⟩

/-- All that is in flight lands, in its order. -/
theorem landBank_sound (h : ∀ f ∈ (t.bank k).flight, f.r = 0 ∧ f.late = none) :
    (t.landBank k).bank k = { (t.bank k).flight.foldl (fun b f => landRes b f.sock (t.locked f.sock) f.res) (t.bank k) with flight := [] }
      ∧ (t.landBank k).pend = t.pend := by
  by_cases hn : (t.bank k).flight = []
  · rw [landBank_early (by rw [hn]; rintro f ⟨⟩), hn]
    exact ⟨by rw [List.foldl_nil, ← hn], rfl⟩
  · obtain ⟨f, hf⟩ := List.exists_mem_of_ne_nil _ hn
    obtain ⟨hb, hp⟩ := landBank_due ⟨f, hf, (h f hf).1⟩ (landFlights_sound t.locked (t.bank k) [] h)
    have hd : (t.bank k).flight.filter (fun f => f.r ≠ 0) = [] := List.filter_eq_nil_iff.mpr fun f hf => by simp [(h f hf).1]
    rw [hd] at hb
    exact ⟨hb, hp.trans (List.append_nil _)⟩

/-- The one operation in flight raises the cause it carries in place of its landing. -/
theorem landBank_late {f : Flight} {p : Pending} (hf : (t.bank k).flight = [f]) (hr : f.r = 0) (hl : f.late = some p) :
    (t.landBank k).pend = t.pend ++ [p] ∧ ((t.landBank k).bank k).socks = (t.bank k).socks := by
  have hg : landFlights t.locked (t.bank k).flight (t.bank k) [] = (t.bank k, [p]) := by
    rw [hf]
    simp only [landFlights, hr, hl, if_true, List.nil_append]
  obtain ⟨hb, hp⟩ := landBank_due ⟨f, by rw [hf]; exact List.mem_singleton_self f, hr⟩ hg
  exact ⟨hp, by rw [hb]⟩

end

/-- Settles O13: an operation lands when its latency has passed, by what a landing writes; the later of two wins. -/
theorem landings : Obligations.Landings := by
  refine ⟨fun _ _ n h => advance_iterate n h, fun t k f hf hr => landBank_early ?early, fun t k f hf hr hl => ?one,
    fun t k f p hf hr hl => landBank_late hf hr hl, fun t k f g hf hr hr' hl hl' hs hx hy => ?two⟩
  case early => rw [hf]; simpa using hr
  case one =>
    obtain ⟨hb, hp⟩ := landBank_sound (t := t) (k := k) (by rw [hf]; simp [hr, hl])
    rw [hf, List.foldl_cons, List.foldl_nil] at hb
    obtain ⟨hx, hy, hs, hfl⟩ := landRes_spec (t.bank k) f.sock (t.locked f.sock) f.res
    dsimp only
    rw [hb]
    exact ⟨rfl, hx, hy, hs, hfl, fun r h => landRes_other _ _ _ _ h, rfl, rfl, rfl, hp⟩
  case two =>
    obtain ⟨hb, -⟩ := landBank_sound (t := t) (k := k) (by rw [hf]; simp [hr, hl, hr', hl'])
    rw [hf, List.foldl_cons, List.foldl_cons, List.foldl_nil] at hb
    obtain ⟨x, hx'⟩ := Option.isSome_iff_exists.mp hy
    rw [hb]
    refine (landRes_spec _ g.sock _ g.res).1.trans ?_
    rw [hx']
    rfl

end Sys2Proof.Proofs.Transport
end

section
/-! PROOF. What a trigger leaves alone: registers, memories, engines, special registers, the other banks and the rest of the module. -/

namespace Sys2Proof.Proofs.Frames

open Sys2Proof Sys2Proof.Machine Sys2Proof.Laws

/-! ## Strands and tiles -/

/-- The register files of a strand are the same. -/
def SameFiles (b c : Strand) : Prop := c.g = b.g ∧ c.v = b.v ∧ c.b = b.b

theorem SameFiles.refl (b : Strand) : SameFiles b b := ⟨rfl, rfl, rfl⟩

theorem landRes_files (b : Strand) (k : Sock) (full : Bool) (r : Res) : SameFiles b (landRes b k full r) := ⟨rfl, rfl, rfl⟩

theorem landFlights_files (lk : Sock → Bool) : ∀ (fs : List Flight) (b : Strand) (ps : List Pending), SameFiles b (landFlights lk fs b ps).1
  | [], b, _ => .refl b
  | f :: fs, b, ps => by
    unfold landFlights
    split
    · split
      · exact landFlights_files lk fs b _
      · exact landFlights_files lk fs (landRes b f.sock (lk f.sock) f.res) ps
    · exact landFlights_files lk fs b ps

theorem fmtNow_files (b : Strand) : SameFiles b b.fmtNow := by
  unfold Strand.fmtNow
  split <;> exact ⟨rfl, rfl, rfl⟩

theorem sameUnits_refl (t : Tile) : SameUnits t t := ⟨rfl, rfl, rfl, rfl, rfl, rfl, rfl, rfl, rfl, rfl, rfl⟩

theorem sameUnits_trans {t u w : Tile} (h : SameUnits t u) (k : SameUnits u w) : SameUnits t w := by
  unfold SameUnits at *
  grind

theorem sameSpecial_refl (t : Tile) : SameSpecial t t := ⟨rfl, rfl, rfl, rfl, rfl, rfl, rfl, rfl, rfl, rfl, rfl, rfl, rfl⟩

theorem sameSpecial_trans {t u w : Tile} (h : SameSpecial t u) (k : SameSpecial u w) : SameSpecial t w := by
  unfold SameSpecial at *
  grind

theorem sameRegs_trans {t u w : Tile} (h : SameRegs t u) (k : SameRegs u w) : SameRegs t w := fun i => by
  obtain ⟨hg, hv, hb⟩ := h i
  obtain ⟨kg, kv, kb⟩ := k i
  exact ⟨hg.trans kg, hv.trans kv, hb.trans kb⟩

theorem sameRegs_of_banks {t u : Tile} (h : u.banks = t.banks) : SameRegs t u := fun k => by
  unfold Tile.bank
  rw [h]
  exact ⟨rfl, rfl, rfl⟩

/-- The registers, the local memory and the engines of the tile and its other banks are the same, and the same bank runs; ports, queues, pending causes and the place in the code may differ. -/
structure Apart (t u : Tile) : Prop where
  regs : SameRegs t u
  units : SameUnits t u
  banks : SameBanks t.run t u
  run : u.run = t.run

theorem Apart.refl (t : Tile) : Apart t t :=
  ⟨sameRegs_of_banks rfl, sameUnits_refl t, fun _ _ => rfl, rfl⟩

theorem Apart.trans {t u w : Tile} (h : Apart t u) (k : Apart u w) : Apart t w :=
  ⟨sameRegs_trans h.regs k.regs, sameUnits_trans h.units k.units, fun i hi => (h.banks i hi).trans (k.banks i (by rwa [h.run])), k.run.trans h.run⟩

/-- Queues, pending causes, stalled ticks and the counts of tasks are no part of it. -/
theorem Apart.update {t u : Tile} (h : Apart t u) (a : Nat) (q : List DlOp) (n : Nat) (ps : List Pending) (r st : Nat) (sf gw : Option Nat) (gg : Bool)
    (k : Tasks) : Apart t { u with addr := a, queue := q, nextOp := n, pend := ps, ready := r, stalled := st, stallFrom := sf, gangWait := gw,
                                   gangGo := gg, tasks := k } := ⟨h.regs, h.units, h.banks, h.run⟩

theorem apart_setBank {t : Tile} {k : BitVec 2} {b : Strand} (hk : t.run = k) (h : SameFiles (t.bank k) b) : Apart t (t.setBank k b) := by
  subst hk
  refine ⟨fun i => ?_, sameUnits_refl t, fun i hi => (bank_setBank_other t b hi).symm, rfl⟩
  by_cases hi : i = t.run
  · subst hi
    obtain ⟨hg, hv, hb⟩ := h
    rw [bank_setBank]
    exact ⟨hg.symm, hv.symm, hb.symm⟩
  · rw [bank_setBank_other t b hi]
    exact ⟨rfl, rfl, rfl⟩

theorem apart_onBank {t : Tile} {k : BitVec 2} {f : Strand → Strand} (hk : t.run = k) (h : ∀ b, SameFiles b (f b)) : Apart t (t.onBank k f) :=
  apart_setBank hk (h _)

theorem apart_foldl {α : Type} {k : BitVec 2} {f : Tile → α → Tile} (hf : ∀ t x, t.run = k → Apart t (f t x)) :
    ∀ (l : List α) {t : Tile}, t.run = k → Apart t (l.foldl f t)
  | [], t, _ => .refl t
  | x :: l, t, h => (hf t x h).trans (apart_foldl hf l ((hf t x h).run.trans h))

/-! ## What is due before a bundle (R125, R132, R148, R169) -/

section
variable {t : Tile} {k : BitVec 2} (hk : t.run = k)
include hk

theorem apart_landBank : Apart t (t.landBank k) := by
  unfold Tile.landBank
  dsimp only
  split
  · have h := landFlights_files t.locked (t.bank k).flight (t.bank k) []
    refine .update (apart_setBank hk ?_) ..
    exact h
  · exact .refl t

theorem apart_landQueued (now : Nat) : Apart t (t.landQueued now k) := by
  unfold Tile.landQueued
  dsimp only
  split
  · refine (Apart.update (.refl t) ..).trans (apart_foldl (fun u o hu => ?_) _ hk)
    split
    · exact .update (.refl u) ..
    · exact apart_onBank hu fun b => landRes_files ..
    · exact .refl u
  · exact .refl t

theorem apart_passBank (q : Quad) (c : Tile) : Apart t (t.passBank q c k) := by
  unfold Tile.passBank
  dsimp only
  split
  · exact apart_setBank hk ⟨rfl, rfl, rfl⟩
  · exact .refl t

end

theorem apart_settle (s : State) (a : Nat) : Apart (s.tileAt a) ((s.settle a).tileAt a) := by
  unfold State.settle
  rw [tileAt_onTile]
  have h1 := apart_landBank (t := s.tileAt a) rfl
  have h2 := h1.trans (apart_landQueued h1.run s.tick)
  have h3 := h2.trans (apart_passBank h2.run (s.quadAt a) (s.codeTile a))
  exact .update (h3.trans (apart_onBank h3.run fmtNow_files)) ..

theorem settle_rest (s : State) : SameRest s s.atBundle :=
  ⟨fun _ h => tileAt_onTile_other s _ h, rfl, rfl, rfl, rfl, rfl, rfl, rfl, rfl, rfl, rfl⟩

/-! ## The whole module -/

/-- As `Apart`, of the whole module, and the special registers are the same. -/
structure Frame (s t : State) : Prop where
  cur : t.cur = s.cur
  tile : Apart s.self t.self
  special : SameSpecial s.self t.self
  rest : SameRest s t

theorem sameRest_trans {s t u : State} (hc : t.cur = s.cur) (h : SameRest s t) (k : SameRest t u) : SameRest s u := by
  unfold SameRest at *
  grind

theorem Frame.trans {s t u : State} (h : Frame s t) (k : Frame t u) : Frame s u :=
  ⟨k.cur.trans h.cur, h.tile.trans k.tile, sameSpecial_trans h.special k.special, sameRest_trans h.cur h.rest k.rest⟩

theorem Frame.counters {s t : State} (h : Frame s t) (n : Nat) (c : Counters) : Frame s { t with free := n, cnt := c } :=
  ⟨h.cur, h.tile, h.special, h.rest⟩

theorem frame_setTile {s : State} {t : Tile} (hc : t.addr = s.cur) (ht : Apart s.self t) (hs : SameSpecial s.self t) : Frame s (s.setTile t) := by
  have he : (s.setTile t).self = t := self_setTile s t hc
  refine ⟨rfl, by rwa [he], by rwa [he], fun a ha => ?_, rfl, rfl, rfl, rfl, rfl, rfl, rfl, rfl, rfl, rfl⟩
  exact tileAt_setTile_other s t (by rwa [hc])

theorem frame_onSelf {s : State} {f : Tile → Tile} (ht : Apart s.self (f s.self)) (hs : SameSpecial s.self (f s.self)) : Frame s (s.onSelf f) :=
  frame_setTile rfl (.update ht ..) hs

theorem Frame.leaves {s t : State} (h : Frame s.atBundle t) : Leaves s t := ⟨h.tile.regs, h.tile.units, h.special, h.tile.banks, h.rest⟩

theorem frame_onBank (s : State) {k : BitVec 2} {f : Strand → Strand} (hk : s.self.run = k) (hf : ∀ b, SameFiles b (f b)) :
    Frame s (s.onSelf fun t => t.onBank k f) := frame_onSelf (apart_onBank hk hf) (sameSpecial_refl _)

/-! ## Up to the start of a trigger (R121, R123, R128) -/

theorem apart_emptyPort (t : Tile) (x : Src) : Apart t (emptyPort t x) ∧ SameSpecial t (emptyPort t x) := by
  unfold emptyPort
  split
  · split
    · exact ⟨.update (apart_onBank rfl (by exact fun _ => ⟨rfl, rfl, rfl⟩)) .., sameSpecial_refl t⟩
    · exact ⟨.refl t, sameSpecial_refl t⟩
  · split
    · dsimp only
      split
      · exact ⟨.update (apart_onBank rfl (by exact fun _ => ⟨rfl, rfl, rfl⟩)) .., sameSpecial_refl t⟩
      · exact ⟨apart_onBank rfl fun b => ⟨rfl, rfl, rfl⟩, sameSpecial_refl t⟩
    · exact ⟨.refl t, sameSpecial_refl t⟩
  all_goals exact ⟨.refl t, sameSpecial_refl t⟩

theorem mxPrune_empty {t : Tile} (h : t.mxq = []) (now : Nat) : t.mxPrune now = t := by
  unfold Tile.mxPrune
  rw [h, List.filter_nil, ← h]

/-- An issue cycle passes for an empty `mx` sequence. -/
theorem frame_mxIssueCycle {s : State} (h : s.self.mxq = []) (k : BitVec 2) : Frame s (s.mxIssueCycle s.cur k) := by
  have hp := mxPrune_empty h s.tick
  have he : s.mxIssueCycle s.cur k = s.onSelf fun t => t.mxPrune s.tick := by
    have hq : ((s.onTile s.cur fun t => t.mxPrune s.tick).tileAt s.cur).mxq = [] := by
      rw [tileAt_onTile]
      exact (congrArg Tile.mxq hp).trans h
    unfold State.mxIssueCycle
    dsimp only
    rw [hq]
    rfl
  rw [he]
  exact frame_onSelf (by rw [hp]; exact .refl _) (by rw [hp]; exact sameSpecial_refl _)

section
variable {s : State} (hm : s.atBundle.self.mxq = [])
include hm

theorem frame_passed (h : Head) (k : Sock) : Frame s.atBundle (s.passed h k) := by
  obtain ⟨ha, hs⟩ := apart_emptyPort s.atBundle.self (s.srcOf h)
  have h1 : Frame s.atBundle (s.atBundle.onSelf fun t => emptyPort t (s.srcOf h)) := frame_onSelf ha hs
  unfold State.passed
  dsimp only
  split
  · exact h1
  · obtain ⟨-, -, -, hq, -⟩ := h1.tile.units
    exact h1.trans (frame_mxIssueCycle (hq.symm.trans hm) _)

theorem frame_latched (h : Head) (k : Sock) (o : Option Opnd) (v : Bus) : Frame s.atBundle (s.latched h k o v) := by
  have h1 := frame_passed hm h k
  cases o with
  | none => exact h1
  | some o => exact h1.trans (frame_onBank _ h1.tile.run fun b => ⟨rfl, rfl, rfl⟩)

theorem latched_run (h : Head) (k : Sock) (o : Option Opnd) (v : Bus) : (s.starts h k o v).bank = (s.latched h k o v).self.run :=
  (frame_latched hm h k o v).tile.run.symm

end

/-! ## Results on their way, and the end of the issue cycle (R125, R129, R131, R144) -/

theorem frame_queue (s : State) (q : Tile → List DlOp) (n : Tile → Nat) : Frame s (s.onSelf fun t => { t with queue := q t, nextOp := n t }) :=
  frame_onSelf (.update (.refl _) ..) (sameSpecial_refl _)

theorem frame_delivered {s : State} {st : Start} (hb : st.bank = s.self.run) (lat : Nat) (r : Res) (late : Option Pending) :
    Frame s (s.delivered st lat r late) := by
  unfold State.delivered
  split
  · exact (frame_queue s _ _).counters ..
  · exact frame_onBank s hb.symm fun b => ⟨rfl, rfl, rfl⟩

theorem frame_performedNow {s : State} {st : Start} (hb : st.bank = s.self.run) (r : Res) : Frame s (s.performedNow st r) := by
  unfold State.performedNow
  split
  · exact (frame_queue s _ _).counters ..
  · exact frame_onBank s hb.symm fun b => ⟨rfl, rfl, rfl⟩

theorem frame_divided (s : State) (st : Start) (lat : Nat) (r : Res) : Frame s (s.divided st lat r) := frame_queue s _ _

/-- The end of an issue cycle moves control and counts. -/
theorem frame_ended (s u : State) : Frame u (s.ended { st := u }) := by
  let w := WholeBundles.issuedTile s.self.blen { st := u }
  have hc : w.addr = u.cur := tileAt_addr u u.cur
  have ha : Apart u.self w := .update (apart_setBank rfl (by exact ⟨rfl, rfl, rfl⟩)) ..
  have hs : SameSpecial u.self w := sameSpecial_refl u.self
  have he : s.ended { st := u } = { u.setTile (if u.self.run = 3 then w else w.taskCycle) with cnt := { u.cnt with issue := u.cnt.issue + 1 } } := rfl
  rw [he]
  refine Frame.counters ?_ _ _
  split
  · exact frame_setTile hc ha hs
  · obtain ⟨k, hk⟩ := taskCycle_is w
    rw [hk]
    exact frame_setTile hc (.update ha ..) hs

/-- A computing trigger, from its completion. -/
theorem computes_leaves {i : Instr} {h : Head} {k : Sock} {o : Option Opnd} {lat : Nat} {f : Start → Res} (hc : Computes i h k o lat f)
    {s t : State} {v : Bus} (hf : Fires i h v s) (ha : Admits h k o v s) (hm : s.atBundle.self.mxq = []) (ht : exec i s = .next t) : Leaves s t := by
  cases (hc s v hf ha).symm.trans ht
  exact (((frame_latched hm h k o v).trans (frame_delivered (latched_run hm h k o v) ..)).trans (frame_ended ..)).leaves

/-- A division, from its completion. -/
theorem divides_leaves {i : Instr} {h : Head} {w : Width} {sg rm : Bool} (hd : Divides i h w sg rm) {s t : State} {v : Bus} (hf : Fires i h v s)
    (hs : ((s.latched h .mu (some .opB) v).self).slotFree .mu true = true) (hm : s.atBundle.self.mxq = []) (ht : exec i s = .next t) : Leaves s t := by
  cases (hd.1 s v hf hs).symm.trans ht
  exact (((frame_latched hm h .mu (some .opB) v).trans (frame_divided ..)).trans (frame_ended ..)).leaves

/-! ## Registers and bytes -/

/-- No register and no byte has changed but the bytes of local memory at `ps`. -/
structure Stores (ps : List Nat) (s t : State) : Prop where
  regs : SameRegs s.self t.self
  mem : t.mem = s.mem
  bytes : ∀ a, a ∉ ps → t.self.byteAt a = s.self.byteAt a

theorem Stores.trans {ps : List Nat} {s t u : State} (h : Stores ps s t) (k : Stores ps t u) : Stores ps s u :=
  ⟨sameRegs_trans h.regs k.regs, k.mem.trans h.mem, fun a ha => (k.bytes a ha).trans (h.bytes a ha)⟩

/-- No register and no byte has changed. -/
structure Spares (s t : State) : Prop where
  regs : SameRegs s.self t.self
  sram : t.self.sram = s.self.sram
  mem : t.mem = s.mem

theorem Spares.trans {s t u : State} (h : Spares s t) (k : Spares t u) : Spares s u :=
  ⟨sameRegs_trans h.regs k.regs, k.sram.trans h.sram, k.mem.trans h.mem⟩

theorem Spares.stores {s t : State} (h : Spares s t) (ps : List Nat) : Stores ps s t :=
  ⟨h.regs, h.mem, fun a _ => by unfold Tile.byteAt; rw [h.sram]⟩

theorem Frame.spares {s t : State} (h : Frame s t) : Spares s t := by
  obtain ⟨hs, -⟩ := h.tile.units
  obtain ⟨-, hm, -⟩ := h.rest
  exact ⟨h.tile.regs, hs.symm, hm⟩

theorem spares_atBundle (s : State) : Spares s s.atBundle := by
  obtain ⟨hs, -⟩ := (apart_settle s s.cur).units
  exact ⟨(apart_settle s s.cur).regs, hs.symm, rfl⟩

theorem spares_of_sameButErrors {s t : State} (h : SameButErrors s t) : Spares s t := ⟨sameRegs_of_banks h.banks, h.sram, h.mem⟩

/-- What a trigger finds, when it starts, of registers and bytes. -/
theorem spares_latched {s : State} (hm : s.atBundle.self.mxq = []) (h : Head) (k : Sock) (o : Option Opnd) (v : Bus) : Spares s (s.latched h k o v) :=
  (spares_atBundle s).trans (frame_latched hm h k o v).spares

theorem spares_delivered_ended (s : State) {u : State} {st : Start} (hb : st.bank = u.self.run) (lat : Nat) (r : Res) :
    Spares u (s.ended { st := u.delivered st lat r }) := ((frame_delivered hb lat r none).trans (frame_ended s _)).spares

/-! ## Local accesses (R216, R220, R221, R225) -/

theorem touchZones_frame (t : Tile) (ps : List Nat) : (t.touchZones ps).banks = t.banks ∧ (t.touchZones ps).sram = t.sram ∧ (t.touchZones ps).run = t.run := by
  unfold Tile.touchZones
  split <;> exact ⟨rfl, rfl, rfl⟩

/-- A store writes the bytes that it names. -/
theorem stores_write {s : State} {ps qs : List Nat} {ws : List (Nat × Byte)} (hw : cellsWf s.self.sram = true) (hp : ∀ w ∈ ws, w.1 ∈ ps) :
    Stores ps s (s.onSelf fun t => (t.sramWrite ws).touchZones qs) ∧ (s.onSelf fun t => (t.sramWrite ws).touchZones qs).self.run = s.self.run := by
  obtain ⟨hb, hs, hr⟩ := touchZones_frame (s.self.sramWrite ws) qs
  rw [self_onSelf]
  refine ⟨⟨?_, rfl, fun a ha => ?_⟩, hr⟩
  · rw [self_onSelf]
    exact sameRegs_of_banks hb
  · rw [self_onSelf]
    refine (congrArg (cellsRead · a) hs).trans (cellsRead_writes_other hw fun w hm he => ha ?_)
    exact he ▸ hp w hm

section
variable {i : Instr} {h : Head} {o : Opnd} {s t : State} {v : Bus} (hf : Fires i h v s) (ha : Admits h .ls (some o) v s)
  (hm : s.atBundle.self.mxq = []) (ht : exec i s = .next t)
include hf ha hm ht

theorem load_spares {sz : Nat} {elems ps : Start → List Nat} {f : Start → List Byte → Res} (hl : LoadsLocal i h o sz elems ps f)
    (he : firstOut sz (elems (s.starts h .ls (some o) v)) = none)
    (hb : (s.latched h .ls (some o) v).self.badWords (ps (s.starts h .ls (some o) v)) = false) : Spares s t := by
  cases (hl.1 s v hf ha ⟨he, hb⟩).symm.trans ht
  have hr := sramRead_frame (s.latched h .ls (some o) v) (ps (s.starts h .ls (some o) v))
  refine ((spares_latched hm h .ls (some o) v).trans (spares_of_sameButErrors hr)).trans (spares_delivered_ended s ?_ 3 _)
  exact (latched_run hm h .ls (some o) v).trans hr.run.symm

theorem store_stores {sz : Nat} {elems : Start → List Nat} {ws : Start → List (List (Nat × Byte))} (hl : StoresLocal i h o sz elems ws)
    (hc : cellsWf s.self.sram = true) (he : firstOut sz (elems (s.starts h .ls (some o) v)) = none)
    (hw : ∀ w ∈ ws (s.starts h .ls (some o) v), (s.latched h .ls (some o) v).self.writable (w.map (·.1)) = true) :
    Stores ((ws (s.starts h .ls (some o) v)).flatten.map (·.1)) s t := by
  cases (hl.1 s v hf ha ⟨he, hw⟩).symm.trans ht
  have h1 := spares_latched hm h .ls (some o) v
  obtain ⟨h2, hr⟩ := stores_write (s := s.latched h .ls (some o) v) (qs := (ws (s.starts h .ls (some o) v)).flatten.map (·.1))
    (by rw [h1.sram]; exact hc) fun w hw => List.mem_map_of_mem hw
  refine ((h1.stores _).trans h2).trans (Spares.stores ?_ _)
  exact ((frame_performedNow ((latched_run hm h .ls (some o) v).trans hr.symm) {}).trans (frame_ended s _)).spares

/-- What an atomic writes of its old value, if anything. -/
theorem atomic_stores {m : LMod} {sg : Bool} {f : Nat → Nat → Nat → Option Nat × Bool} (hl : AtomicLocal i h o m sg f)
    (hc : cellsWf s.self.sram = true) (he : firstOut (isizeBytes m.size) [lsAddr (s.starts h .ls (some o) v)] = none)
    (hb : (s.latched h .ls (some o) v).self.badWords (layoutSpan m.layout (lsAddr (s.starts h .ls (some o) v)) (isizeBytes m.size)) = false) :
    Stores (layoutSpan m.layout (lsAddr (s.starts h .ls (some o) v)) (isizeBytes m.size)) s t := by
  cases (hl.1 s v hf ha ⟨he, hb⟩).symm.trans ht
  have hr := sramRead_frame (s.latched h .ls (some o) v) (layoutSpan m.layout (lsAddr (s.starts h .ls (some o) v)) (isizeBytes m.size))
  have h1 := (spares_latched hm h .ls (some o) v).trans (spares_of_sameButErrors hr)
  have hbank := (latched_run hm h .ls (some o) v).trans hr.run.symm
  dsimp only
  split
  · obtain ⟨h2, hrun⟩ := stores_write (qs := layoutSpan m.layout (lsAddr (s.starts h .ls (some o) v)) (isizeBytes m.size))
      (by rw [h1.sram]; exact hc) fun w hw => (List.of_mem_zip hw).1
    exact ((h1.stores _).trans h2).trans ((spares_delivered_ended s (hbank.trans hrun.symm) 3 _).stores _)
  · exact (h1.trans (spares_delivered_ended s hbank 3 _)).stores _

end

/-! ## Engines (R129) -/

theorem spares_of_queued {st : Start} {s t : State} {o : DlOp} {named : Tile → Tile} {ev : List (Instr × EvArg)} (h : Queued st s t o named ev)
    (hn : SameRegs s.self (named s.self) ∧ (named s.self).sram = s.self.sram) : Spares s t := by
  obtain ⟨-, hm, -⟩ := h.rest
  refine ⟨?_, ?_, hm⟩
  · rw [h.tile]; exact hn.1
  · rw [h.tile]; exact hn.2

theorem queues_spares {i : Instr} {h : Head} {k : Sock} {o : Option Opnd} {ok : Start → State → Prop} {op : Start → State → DlOp}
    {named : DlOp → Tile → Tile} {ev : DlOp → EvArg → List (Instr × EvArg)} (hq : Queues i h k o ok op named ev)
    (hn : ∀ d t, SameRegs t (named d t) ∧ (named d t).sram = t.sram) {s t : State} {v : Bus} (hf : Fires i h v s) (ha : Admits h k o v s)
    (hm : s.atBundle.self.mxq = []) (hok : ok (s.starts h k o v) (s.latched h k o v)) (ht : exec i s = .next t) : Spares s t := by
  obtain ⟨u, hu, hqu⟩ := hq s v hf ha hok
  cases hu.symm.trans ht
  exact ((spares_latched hm h k o v).trans (spares_of_queued hqu (hn _ _))).trans (frame_ended s u).spares

/-- Settles O48: what is due before a bundle, a trigger that computes, a division, a load, a store, an atomic and a trigger of an engine, each by what its parts leave alone. -/
theorem leavesAlone : Obligations.LeavesAlone := by
  refine ⟨fun s => ?due, fun _ _ _ _ _ _ hc _ _ _ hf ha hm ht => computes_leaves hc hf ha hm ht,
    fun _ _ _ _ _ hd _ _ _ hf hs hm ht => divides_leaves hd hf hs hm ht, fun _ _ _ _ _ _ _ hl _ _ _ hf ha hm he hb ht => ?load,
    fun _ _ _ _ _ _ hl _ _ _ hf ha hm hc he hw ht => ?store, fun _ _ _ _ _ _ hl _ _ _ hf ha hm hc he hb ht => ?atomic,
    fun _ _ _ _ _ _ _ _ hq hn _ _ _ hf ha hm hok ht => ?engine⟩
  case due =>
    have h := apart_settle s s.cur
    exact ⟨h.regs, h.units, settle_rest s, h.banks⟩
  case load =>
    have h := load_spares hf ha hm ht hl he hb
    exact ⟨h.regs, h.sram, h.mem⟩
  case store =>
    have h := store_stores hf ha hm ht hl hc he hw
    exact ⟨h.regs, h.mem, h.bytes⟩
  case atomic =>
    have h := atomic_stores hf ha hm ht hl hc he hb
    exact ⟨h.regs, h.mem, h.bytes⟩
  case engine =>
    have h := queues_spares hq hn hf ha hm hok ht
    exact ⟨h.regs, h.sram, h.mem⟩

end Sys2Proof.Proofs.Frames
end

section
/-! PROOF. The integer sockets `a0`, `a1`, `sh` and `mu`: results, status words and division (R131, R159 to R166, Tables 7.6 to 7.9). -/

namespace Sys2Proof.Proofs.Integers

open Sys2Proof Sys2Proof.Machine Sys2Proof.Laws

/-! ## Operations that only compute (R125, R129, R130) -/

/-- A trigger that computes puts its result on its way whenever it fires and its queue admits it. -/
theorem computes_of_spec {i : Instr} {h : Head} {k : Sock} {o : Option Opnd} {lat : Nat} {f : Start → Res}
    (hs : specOf i = some (compute k o lat f)) (hi : headOf i = some (h, none)) (hk : k ≠ .mx) : Computes i h k o lat f := fun s _ hf ha =>
  (Bundles.exec_of_spec hs s).trans (issueOne_compute hf hi hk ha)

theorem alu_sock_ne_mx (u : Alu) : u.sock ≠ .mx := by cases u <;> exact Sock.noConfusion

/-! ## The result and the status word of an integer operation (R159, R160, Table 7.6) -/

/-- The bits of a status word, lowest first. -/
theorem statusWord_bits : ∀ z n cy ov sat dz od : Bool,
    let s := BitVec.ofNat 64 (z.toNat + 2 * n.toNat + 4 * cy.toNat + 8 * ov.toNat + 16 * sat.toNat + 32 * dz.toNat + 64 * od.toNat)
    s.getLsbD 0 = z ∧ s.getLsbD 1 = n ∧ s.getLsbD 2 = cy ∧ s.getLsbD 3 = ov ∧ s.getLsbD 4 = sat ∧ s.getLsbD 5 = dz ∧ s.getLsbD 6 = od
      ∧ s.toNat < 128 := by decide

section
variable {w r : Nat} (hw : w = 32 ∨ w = 64) (hr : r < 2 ^ w)
include hw hr

/-- N is the sign bit. -/
theorem signBit_eq : r / 2 ^ (w - 1) % 2 = (decide (2 ^ (w - 1) ≤ r)).toNat := by
  by_cases h : 2 ^ (w - 1) ≤ r
  · rw [decide_eq_true h]
    obtain rfl | rfl := hw <;> norm_num at h hr ⊢ <;> omega
  · rw [decide_eq_false h, Nat.div_eq_of_lt (not_le.mp h)]
    rfl

theorem signExt_of_lt : signExt r w = if r < 2 ^ (w - 1) then (r : Int) else (r : Int) - 2 ^ w := by
  have h0 : w ≠ 0 := by omega
  unfold signExt
  rw [if_neg h0, Nat.mod_eq_of_lt hr]
  push_cast
  rfl

theorem intRes_bits (f : IntFlags) :
    (intRes w r f).x = some ((BitVec.ofInt 64 (if r < 2 ^ (w - 1) then (r : Int) else (r : Int) - 2 ^ w)).setWidth 512) ∧ (intRes w r f).y = none
      ∧ (intRes w r f).flags = 0 ∧ (intRes w r f).s.getLsbD 0 = decide (r = 0) ∧ (intRes w r f).s.getLsbD 1 = decide (2 ^ (w - 1) ≤ r)
      ∧ (intRes w r f).s.getLsbD 2 = f.cy ∧ (intRes w r f).s.getLsbD 3 = f.ov ∧ (intRes w r f).s.getLsbD 4 = f.sat
      ∧ (intRes w r f).s.getLsbD 5 = f.dz ∧ (intRes w r f).s.getLsbD 6 = f.ovfDiv ∧ (intRes w r f).s.toNat < 128 := by
  refine ⟨?value, rfl, rfl, ?status⟩
  case value => rw [← signExt_of_lt hw hr]; rfl
  case status =>
    have hs : (intRes w r f).s = intStatus w r f := rfl
    rw [hs, intStatus, signBit_eq hw hr]
    exact statusWord_bits (decide (r = 0)) (decide (2 ^ (w - 1) ≤ r)) f.cy f.ov f.sat f.dz f.ovfDiv

end

/-- Settles O14: each operation computes, and the bits of a result and its status. -/
theorem aluResults : Obligations.AluResults := by
  refine ⟨fun h u w => ?operations, fun w r f hw hr => intRes_bits hw hr f⟩
  case operations =>
    have hk := alu_sock_ne_mx u
    and_intros
    all_goals exact computes_of_spec rfl rfl hk

/-- Settles O15: each operation computes. -/
theorem shiftResults : Obligations.ShiftResults := by
  intro h w
  and_intros
  all_goals exact computes_of_spec rfl rfl Sock.noConfusion

/-! ## Division (R131, R165, R166) -/

/-- A division joins the queue of the divider when that has a slot. -/
theorem deliver_divided {st : Start} {s : State} (hk : st.sock = .mu) (hs : s.self.slotFree .mu true = true) (lat : Nat) (r : Res) :
    deliver st true lat r none { st := s } = .ok { st := s.divided st lat r } := by
  unfold deliver
  simp only [hk, hs, Bool.or_true, if_true]
  rfl

theorem deliver_divider_taken {st : Start} {s : State} (hk : st.sock = .mu) (hs : s.self.slotFree .mu true = false) (lat : Nat) (r : Res) :
    deliver st true lat r none { st := s } = .error .stall := by
  unfold deliver
  simp only [hk, hs, Bool.or_true, if_true]
  rfl

/-- A trigger of the divider completes when its queue is free, and stalls when it is not. -/
theorem divides_of_spec {i : Instr} {h : Head} {w : Width} {sg rm : Bool} (hs : specOf i = some (divSpec i sg rm w))
    (hi : headOf i = some (h, none)) : Divides i h w sg rm := by
  have hx : (divSpec i sg rm w).sock ≠ .mx := Sock.noConfusion
  refine ⟨fun s v hf hq => ?completes, fun s v hf hq => ?stalls⟩
  all_goals rw [Bundles.exec_of_spec hs]
  case completes =>
    refine issueOne_runs hf hi hx (fun _ _ hm => absurd rfl hm) ((deliver_divided rfl hq _ _).trans ?_)
    cases w <;> rfl
  case stalls => exact issueOne_stalls hf hi hx (fun _ _ hm => absurd rfl hm) (deliver_divider_taken rfl hq _ _)

section
variable {st : Start} {w : Nat}

theorem divide_by_zero (sg : Bool) (hb : st.natB w = 0) : divide sg w st = (2 ^ w - 1, st.natA w, { dz := true }) := if_pos hb

theorem divide_natural (hb : st.natB w ≠ 0) : divide false w st = (st.natA w / st.natB w, st.natA w % st.natB w, {}) := if_neg hb

theorem divide_overflow (hb : st.natB w ≠ 0) (ha : st.intA w = -(2 ^ (w - 1) : Int)) (hm : st.intB w = -1) :
    divide true w st = (st.natA w, 0, { ovfDiv := true }) := by
  unfold divide
  simp [hb, ha, hm]

theorem divide_signed (hb : st.natB w ≠ 0) (ho : ¬(st.intA w = -(2 ^ (w - 1) : Int) ∧ st.intB w = -1)) :
    divide true w st = (wrap w ((st.intA w).tdiv (st.intB w)), wrap w ((st.intA w).tmod (st.intB w)), {}) := by
  unfold divide
  simp only [hb, if_false, Bool.true_and, Bool.and_eq_true, beq_iff_eq, ho, if_true, Int.tmod_def]

end

/-- Settles O16: the products compute, the divisions go through the divider's queue, and the cases of a division. -/
theorem multiplyAndDivide : Obligations.MultiplyAndDivide := by
  refine ⟨fun h w => ?products, fun h w => ⟨divides_of_spec rfl rfl, divides_of_spec rfl rfl, divides_of_spec rfl rfl, divides_of_spec rfl rfl⟩,
    fun _ _ sg hb => divide_by_zero sg hb, fun st w hb => ?natural, fun _ _ hb ho => divide_signed hb ho,
    fun _ _ hb ha hm => divide_overflow hb ha hm⟩
  case products =>
    and_intros
    all_goals exact computes_of_spec rfl rfl Sock.noConfusion
  case natural =>
    rw [divide_natural hb]
    exact ⟨(Nat.div_add_mod' _ _).symm, Nat.mod_lt _ (Nat.pos_of_ne_zero hb), rfl⟩

end Sys2Proof.Proofs.Integers
end

section
/-! PROOF. The socket `ctl` on a tile by itself: what the end of an issue cycle makes of each request for control, transfers, levels, idling, halting, trapping (R134, R144 to R155, R442, Tables 7.1 and 7.2). -/

namespace Sys2Proof.Proofs.Control

open Sys2Proof Sys2Proof.Machine Sys2Proof.Laws Sys2Proof.Proofs.WholeBundles

/-! ## The served tile at the end of its issue cycle (R144) -/

theorem landBank_addr (t : Tile) (k : BitVec 2) : (t.landBank k).addr = t.addr := by
  unfold Tile.landBank
  dsimp only
  split <;> rfl

theorem afterHalt_rest (t : Tile) (now : Nat) (k : BitVec 2) : (t.afterHalt now k).banks = t.banks ∧ (t.afterHalt now k).addr = t.addr := by
  unfold Tile.afterHalt
  split
  · exact ⟨rfl, rfl⟩
  · split <;> exact ⟨rfl, rfl⟩

theorem haltBank_addr (t : Tile) (now : Nat) (k : BitVec 2) : (t.haltBank now k).addr = t.addr :=
  (afterHalt_rest ..).2.trans (landBank_addr t k)

theorem modeStep_addr (t : Tile) (m : Option (Sock × Bool)) : (modeStep t m).addr = t.addr := by cases m <;> rfl

theorem ctlStep_addr (now : Nat) (k : BitVec 2) (t : Tile) (c : CtlAct) : (ctlStep now k t c).addr = t.addr := by
  cases c with
  | halt => exact haltBank_addr ..
  | _ => rfl

/-- The served tile once control has moved on, the mode has changed, and the cause is pending or the strand has halted. -/
def controlledTile (len : Nat) (i : Issue) : Tile := ctlStep i.st.tick i.st.self.run (modeStep (issuedTile len i) i.mode) i.ctl

theorem controlledTile_addr (len : Nat) (i : Issue) : (controlledTile len i).addr = i.st.cur :=
  (ctlStep_addr ..).trans ((modeStep_addr ..).trans (tileAt_addr i.st i.st.cur))

/-- The end of an issue cycle that leaves no supervisor and binds no address space changes that tile, the counts of its tasks and that of the bundles. -/
theorem finish_tile (len : Nat) {i : Issue} (he : i.eret = none) (ha : i.asid = none) :
    ∃ k n, finish len i = { i.st.setTile { controlledTile len i with tasks := k } with cnt := n } := by
  have hw : endedTile len i = controlledTile len i := by unfold endedTile controlledTile; rw [he, ha]; rfl
  rw [finish_eq, hw]
  split
  · exact ⟨(controlledTile len i).tasks, _, rfl⟩
  · obtain ⟨k, hk⟩ := taskCycle_is (controlledTile len i)
    exact ⟨k, _, by rw [hk]⟩

theorem ended_self (s : State) {i : Issue} (hc : i.ctl ≠ .gang) (he : i.eret = none) (ha : i.asid = none) :
    ∃ k, (s.ended i).self = { controlledTile s.self.blen i with tasks := k } := by
  have hend : s.ended i = finish s.self.blen i := by
    unfold State.ended
    split
    · next h => exact absurd h hc
    all_goals rfl
  obtain ⟨k, n, h⟩ := finish_tile s.self.blen he ha
  rw [hend, h]
  exact ⟨k, self_setTile i.st _ (controlledTile_addr ..)⟩

/-- The strand that issued, and the tick of its next bundle, as control leaves them; a cause that the bundle raises changes neither. -/
theorem ended_strand (s u : State) {c : CtlAct} (hg : c ≠ .gang) (hh : c ≠ .halt) :
    (s.ended { st := u, ctl := c }).self.bank u.self.run = (nextStrand u s.self.blen c).1
      ∧ (s.ended { st := u, ctl := c }).self.ready = u.tick + (nextStrand u s.self.blen c).2 := by
  obtain ⟨k, hk⟩ := ended_self s (i := { st := u, ctl := c }) hg rfl rfl
  rw [hk]
  cases c with
  | halt => exact absurd rfl hh
  | _ => exact ⟨bank_setBank u.self u.self.run _, rfl⟩

/-- A halt (R134, R154). -/
theorem ended_halt (s u : State) : ∃ b : Strand, (s.ended { st := u, ctl := .halt }).self.bank u.self.run = b.halt := by
  obtain ⟨k, hk⟩ := ended_self s (i := { st := u, ctl := .halt }) CtlAct.noConfusion rfl rfl
  let w := (issuedTile s.self.blen { st := u, ctl := .halt }).landBank u.self.run
  refine ⟨w.bank u.self.run, ?_⟩
  have hb := (afterHalt_rest ((w.onBank u.self.run Strand.halt).mxHalt u.self.run) u.tick u.self.run).1
  rw [hk]
  refine (congrArg (fun v : Vector Strand 4 => v[u.self.run.toNat]'u.self.run.isLt) hb).trans ?_
  exact bank_onBank w u.self.run Strand.halt

/-- The cause that a bundle raises becomes pending after its other moves (R155, R413). -/
theorem ended_raise (s u : State) (p : Pending) : (s.ended { st := u, ctl := .raise p }).self.pend = u.self.pend ++ [p] := by
  obtain ⟨k, hk⟩ := ended_self s (i := { st := u, ctl := .raise p }) CtlAct.noConfusion rfl rfl
  rw [hk]
  rfl

/-! ## Transfers (R144, R146, R152) -/

/-- Settles O30: each transfer asks for its jump, and a jump moves the strand and discards its levels. -/
theorem transfers : Obligations.Transfers := by
  refine ⟨fun h => ?operations, fun s u target call => ?jump⟩
  case operations =>
    and_intros
    all_goals exact runs_of (fun _ => rfl) rfl rfl rfl Sock.noConfusion fun _ _ _ _ _ => rfl
  case jump =>
    obtain ⟨hb, hr⟩ := ended_strand s u (c := .jump target call) CtlAct.noConfusion CtlAct.noConfusion
    dsimp only
    rw [hb, hr]
    exact ⟨rfl, rfl, rfl, rfl⟩

/-! ## Levels (R148, R150, R151) -/

/-- Offset of the first bundle after the body of a level. -/
def bodyEnd (s : State) (st : Start) (l : Level) : Nat := afterBundles (s.quadAt s.cur) (s.codeTile s.cur) st.bank l.len l.start.toNat

/-- What `ctl.loop` asks of its operands and of the levels that are open (R148, R152). -/
structure LoopFits (st : Start) (s : State) : Prop where
  some_body : 1 ≤ (levelOf st).len
  short_body : (levelOf st).len ≤ 16
  room : (s.self.bank st.bank).levels.length < 2
  inside : ∀ o, (s.self.bank st.bank).levels.getLast? = some o → bodyEnd s st (levelOf st) ≤ bodyEnd s st o

theorem loopFits_iff (st : Start) (s : State) : LoopFits st s ↔ 1 ≤ (levelOf st).len ∧ (levelOf st).len ≤ 16 ∧ (s.self.bank st.bank).levels.length < 2
    ∧ ∀ o, (s.self.bank st.bank).levels.getLast? = some o → bodyEnd s st (levelOf st) ≤ bodyEnd s st o :=
  ⟨fun ⟨h1, h2, h3, h4⟩ => ⟨h1, h2, h3, h4⟩, fun ⟨h1, h2, h3, h4⟩ => ⟨h1, h2, h3, h4⟩⟩

/-- Does the body end after that of the innermost open level? -/
def beyond (st : Start) (s : State) : Bool :=
  match (s.self.bank st.bank).levels.getLast? with
  | some o => decide (bodyEnd s st o < bodyEnd s st (levelOf st))
  | none => false

theorem beyond_eq_false_iff (st : Start) (s : State) :
    beyond st s = false ↔ ∀ o, (s.self.bank st.bank).levels.getLast? = some o → bodyEnd s st (levelOf st) ≤ bodyEnd s st o := by
  unfold beyond
  cases (s.self.bank st.bank).levels.getLast? with
  | none => simp
  | some o => simp

theorem loop_run (st : Start) (s : State) : specLoop.run st { st := s } =
    if (levelOf st).len = 0 ∨ 16 < (levelOf st).len then .error (.trap .loopNest 0 0)
    else if 2 ≤ (s.self.bank st.bank).levels.length ∨ beyond st s then .error (.trap .loopNest 0 0)
    else if (levelOf st).bound = 0 then .ok { st := s, ctl := .skip (BitVec.ofNat 32 (bodyEnd s st (levelOf st))) }
    else .ok { st := s, ctl := .openLevel (levelOf st) } := rfl

theorem loop_run_of_fits {st : Start} {s : State} (h : LoopFits st s) : specLoop.run st { st := s } =
    if (levelOf st).bound = 0 then .ok { st := s, ctl := .skip (BitVec.ofNat 32 (bodyEnd s st (levelOf st))) }
    else .ok { st := s, ctl := .openLevel (levelOf st) } := by
  obtain ⟨h1, h2, h3, h4⟩ := h
  rw [loop_run, (beyond_eq_false_iff st s).mpr h4, if_neg (by omega), if_neg (by simp only [Bool.false_eq_true, or_false]; omega)]

theorem loop_run_of_not_fits {st : Start} {s : State} (h : ¬LoopFits st s) : specLoop.run st { st := s } = .error (.trap .loopNest 0 0) := by
  rw [loop_run]
  split
  · rfl
  · next hl =>
    refine if_pos ?_
    by_contra hn
    rw [not_or, Bool.not_eq_true] at hn
    exact h ⟨by omega, by omega, by omega, (beyond_eq_false_iff st s).mp hn.2⟩

section
variable {endOf : Level → Nat} {l : Level} {next : Nat} (outer : List Level)

/-- No pass of the innermost level ends here. -/
theorem evalLevels_inside (h : endOf l ≠ next) : evalLevels endOf (l :: outer) next = (l :: outer, next) := if_pos h

section
variable (h : endOf l = next)
include h

theorem evalLevels_marked (hx : l.loopx = true) : evalLevels endOf (l :: outer) next = evalLevels endOf outer next := by
  rw [evalLevels, if_neg (by simp [h]), if_pos hx]

variable (hx : l.loopx = false)
include hx

theorem evalLevels_counted (hs : 0 < l.step) : evalLevels endOf (l :: outer) next = if l.count + l.step.toNat ≥ l.bound then evalLevels endOf outer next
    else ({ l with count := l.count + l.step.toNat, pass := l.pass + 1 } :: outer, l.start.toNat) := by
  rw [evalLevels, if_neg (by simp [h]), if_neg (by simp [hx]), if_pos hs]

theorem evalLevels_endless (hs : l.step ≤ 0) :
    evalLevels endOf (l :: outer) next = ({ l with pass := l.pass + 1 } :: outer, l.start.toNat) := by
  rw [evalLevels, if_neg (by simp [h]), if_neg (by simp [hx]), if_neg (by omega)]

theorem evalLevels_goes_on (hs : 0 < l.step) (hb : (l.count : Int) + l.step < l.bound) :
    evalLevels endOf (l :: outer) next = ({ l with count := l.count + l.step.toNat, pass := l.pass + 1 } :: outer, l.start.toNat) := by
  rw [evalLevels_counted outer h hx hs, if_neg (by omega)]

end

/-- A level closes when it is marked, or when its count reaches its bound. -/
theorem evalLevels_closes (h : endOf l = next) (hc : l.loopx = true ∨ (0 < l.step ∧ (l.bound : Int) ≤ l.count + l.step)) :
    evalLevels endOf (l :: outer) next = evalLevels endOf outer next := by
  cases hx : l.loopx with
  | true => exact evalLevels_marked outer h hx
  | false =>
    obtain hm | ⟨hs, hb⟩ := hc
    · rw [hx] at hm; cases hm
    · rw [evalLevels_counted outer h hx hs, if_pos (by omega)]

end

/-- Settles O31: the checks of `loop`, what opens and what is skipped, and the evaluation of a level at the end of a pass. -/
theorem loops : Obligations.Loops := by
  refine ⟨fun h => ⟨?opens, ?skips, ?traps⟩, fun s u l => ?opened, fun s u target => ?skipped,
    fun _ _ outer _ he => ⟨evalLevels_closes outer he, fun ⟨hx, hs, hb⟩ => evalLevels_goes_on outer he hx hs hb,
      fun ⟨hx, hs⟩ => evalLevels_endless outer he hx hs⟩, fun _ _ outer _ hn => evalLevels_inside outer hn⟩
  case opens =>
    refine runs_of (fun _ => rfl) rfl rfl rfl Sock.noConfusion fun st s _ _ hok => ?_
    obtain ⟨hf, hb⟩ := hok
    exact (loop_run_of_fits ((loopFits_iff st s).mpr hf)).trans (if_neg hb)
  case skips =>
    refine runs_of (fun _ => rfl) rfl rfl rfl Sock.noConfusion fun st s _ _ hok => ?_
    obtain ⟨hf, hb⟩ := hok
    exact (loop_run_of_fits ((loopFits_iff st s).mpr hf)).trans (if_pos hb)
  case traps =>
    refine traps_of (fun _ => rfl) rfl rfl rfl Sock.noConfusion fun st s _ _ hf => ?_
    exact loop_run_of_not_fits fun h => hf ((loopFits_iff st s).mp h)
  case opened =>
    obtain ⟨hb, hr⟩ := ended_strand s u (c := .openLevel l) CtlAct.noConfusion CtlAct.noConfusion
    dsimp only
    rw [hb, hr]
    exact ⟨rfl, rfl, rfl⟩
  case skipped =>
    obtain ⟨hb, -⟩ := ended_strand s u (c := .skip target) CtlAct.noConfusion CtlAct.noConfusion
    dsimp only
    rw [hb]
    exact ⟨rfl, rfl⟩

/-- The destination field and the modifier of a trigger of class Z (Tables 5.2 and 5.5). -/
theorem word_of_trig {i : Instr} {h : Head} {k : Sock} {p : BitVec 5} {w : Word} (hi : i.form = .trig h k p .z) (he : encode i = some w) :
    w.extractLsb' 5 11 = BitVec.ofNat 6 k.num ++ p ∧ w.extractLsb' 0 5 = 0 := by
  rw [Encoding.encode_trig hi] at he
  cases he
  have hf := Laws.Encoding.split_join (encodeFields h (BitVec.ofNat 6 k.num) p (encodeMod .z))
  have hd := congrArg Fields.dsock hf
  have hp := congrArg Fields.dport hf
  refine ⟨?_, congrArg Fields.md hf⟩
  have happ := BitVec.extractLsb'_append_extractLsb'_eq_extractLsb' (x := (encodeFields h (BitVec.ofNat 6 k.num) p (encodeMod .z)).join)
    (start₁ := 5) (len₁ := 5) (start₂ := 10) (len₂ := 6) rfl
  exact happ.symm.trans (congrArg₂ (· ++ ·) hd hp)

theorem markLoopx_append (l : Level) : ∀ outer : List Level, markLoopx (outer ++ [l]) = outer ++ [{ l with loopx := true }]
  | [] => rfl
  | [_] => rfl
  | x :: y :: r => congrArg (x :: ·) (markLoopx_append l (y :: r))

/-- A second mark changes nothing. -/
theorem markLoopx_idem (ls : List Level) : markLoopx (markLoopx ls) = markLoopx ls := by
  obtain rfl | ⟨outer, l, rfl⟩ := List.eq_nil_or_concat ls
  · rfl
  · rw [List.concat_eq_append, markLoopx_append, markLoopx_append]

/-- Settles O32: the word of `loopx`, its mark on the innermost level, and the close of a marked level. -/
theorem loopExit : Obligations.LoopExit := by
  refine ⟨fun h w he => word_of_trig (i := .loopx h) rfl he, fun h => runs_of (fun _ => rfl) rfl rfl rfl Sock.noConfusion fun _ _ _ _ _ => rfl,
    fun _ _ _ _ => rfl, fun s u => ?mark, fun outer l => markLoopx_append l outer, rfl, markLoopx_idem,
    fun _ _ outer _ he hx => evalLevels_marked outer he hx⟩
  obtain ⟨hb, hr⟩ := ended_strand s u (c := .loopx) CtlAct.noConfusion CtlAct.noConfusion
  dsimp only
  rw [hb, hr]
  exact ⟨rfl, rfl, rfl⟩

/-! ## Idling, halting and trapping (R134, R153 to R155, R442) -/

/-- Settles O33: what each asks of the end of the cycle, and what the end of the cycle makes of it. -/
theorem idleHaltTrap : Obligations.IdleHaltTrap := by
  refine ⟨fun h => ⟨?idle, ?halt, ?trap, ?debug, ?noDebug⟩, fun _ _ _ => ⟨rfl, rfl, rfl, rfl, rfl⟩, fun s u n => ?idles, fun s u => ?halts,
    fun s u p => ?raises⟩
  case idle => exact runs_of (fun _ => rfl) rfl rfl rfl Sock.noConfusion fun _ _ _ _ _ => rfl
  case halt => exact runs_of (fun _ => rfl) rfl rfl rfl Sock.noConfusion fun _ _ _ _ _ => rfl
  case trap => exact runs_of (fun _ => rfl) rfl rfl rfl Sock.noConfusion fun _ _ _ _ _ => rfl
  case debug => exact runs_of (fun _ => rfl) rfl rfl rfl Sock.noConfusion fun _ _ _ _ hd => if_pos hd
  case noDebug => exact runs_of (fun _ => rfl) rfl rfl rfl Sock.noConfusion fun _ _ _ _ hd => if_neg (Bool.eq_false_iff.mp hd)
  case idles =>
    obtain ⟨hb, -⟩ := ended_strand s u (c := .idle n) CtlAct.noConfusion CtlAct.noConfusion
    dsimp only
    rw [hb]
    exact ⟨rfl, rfl⟩
  case halts =>
    obtain ⟨b, hb⟩ := ended_halt s u
    dsimp only
    rw [hb]
    exact ⟨rfl, rfl, rfl⟩
  case raises =>
    obtain ⟨hb, -⟩ := ended_strand s u (c := .raise p) CtlAct.noConfusion CtlAct.noConfusion
    dsimp only
    rw [hb]
    exact ⟨ended_raise s u p, rfl⟩

end Sys2Proof.Proofs.Control
end

section
/-! PROOF. The socket `cf`: the tick counter, the format, the modes, place and task identifiers, sticky flags, the depth of sleep (R35, R132, R167 to R173). -/

namespace Sys2Proof.Proofs.Configuration

open Sys2Proof Sys2Proof.Machine Sys2Proof.Laws Sys2Proof.Proofs.WholeBundles Sys2Proof.Proofs.Control

/-! ## The tick counter (R168) -/

/-- Settles O35: the word of `rdcyc`, and the counter that it lands. -/
theorem readsTickCounter : Obligations.ReadsTickCounter :=
  ⟨fun h _ he => word_of_trig (i := .rdcyc h) rfl he, fun _ => runs_of (fun _ => rfl) rfl rfl rfl Sock.noConfusion fun _ _ _ _ _ => rfl,
    fun _ _ _ _ => rfl⟩

/-! ## A change of mode (R35, R132, R170) -/

/-- The mode bits after a change: that of the socket named is the new mode, and no other has changed. -/
theorem changeMode_bit (t : Tile) (k j : Sock) (b : Bool) :
    (changeMode t k b).mode.getLsbD j.num = if j = k then b else t.mode.getLsbD j.num := by
  have hone : (1#23 <<< k.num).getLsbD j.num = decide (j = k) := by
    have h := BitVec.getLsbD_twoPow (w := 23) k.num j.num
    rw [decide_eq_true (sock_num_lt k), Bool.true_and] at h
    refine h.trans ?_
    by_cases hj : j = k
    · subst hj; simp
    · have hn : k.num ≠ j.num := fun e => hj (sock_num_inj e.symm)
      simp [hj, hn]
  have hmode : (changeMode t k b).mode = if b then t.mode ||| (1#23 <<< k.num) else t.mode &&& ~~~(1#23 <<< k.num) := rfl
  rw [hmode]
  cases b with
  | true =>
    rw [if_pos rfl, BitVec.getLsbD_or, hone]
    by_cases hj : j = k <;> simp [hj]
  | false =>
    rw [if_neg Bool.false_ne_true, BitVec.getLsbD_and, BitVec.getLsbD_not, hone, decide_eq_true (sock_num_lt j)]
    by_cases hj : j = k <;> simp [hj]

/-- A socket whose mode may be written takes the new mode, and the others keep theirs. -/
theorem changeMode_locked (t : Tile) {k : Sock} (b : Bool) (hn : k.noMode = false) (ha : k.always = false) :
    (changeMode t k b).locked k = b ∧ ∀ j, j ≠ k → (changeMode t k b).locked j = t.locked j := by
  refine ⟨?_, fun j hj => ?_⟩
  · unfold Tile.locked
    rw [changeMode_bit, if_pos rfl, hn, ha]
    rfl
  · unfold Tile.locked
    rw [changeMode_bit, if_neg hj]

/-- The mode that a bundle writes changes at the end of its issue cycle. -/
theorem ended_mode (s u : State) (k : Sock) (b : Bool) (j : Sock) :
    (s.ended { st := u, mode := some (k, b) }).self.locked j = (changeMode u.self k b).locked j := by
  obtain ⟨n, hn⟩ := ended_self s (i := { st := u, mode := some (k, b) }) CtlAct.noConfusion rfl rfl
  rw [hn]
  rfl

/-! ## `cf.mode` (R170) -/

section
variable {st : Start} {s : State}

theorem mode_run_read (h : st.a.getLsbD 63 = true) :
    specMode.run st { st := s } = .ok (landNext st { x := some (BitVec.ofNat 512 (modeByte s.self (bits st.a.toNat 13 8))) } { st := s }) := if_pos h

variable (h : st.a.getLsbD 63 = false)
  (hp : ¬(st.bank ≠ 3 ∧ bits st.a.toNat 13 8 < 23 ∧ s.self.lock.getLsbD (bits st.a.toNat 13 8) = true))
include h hp

/-- A socket without a mode that may be written refuses. -/
theorem mode_run_refused (hm : modeSock (bits st.a.toNat 13 8) = none) : specMode.run st { st := s } =
    .ok (landNext st { x := some (BitVec.ofNat 512 (modeByte s.self (bits st.a.toNat 13 8))), s := 1 } { st := s }) := by
  unfold specMode
  dsimp only
  rw [if_neg (Bool.eq_false_iff.mp h), if_neg hp, hm]

theorem mode_run_write {k : Sock} (hm : modeSock (bits st.a.toNat 13 8) = some k) : specMode.run st { st := s } =
    if s.self.locked k = st.a.getLsbD 0 then
      .ok (landNext st { x := some (BitVec.ofNat 512 (modeByte s.self (bits st.a.toNat 13 8))) } { st := s })
    else .ok { landNext st { x := some (BitVec.ofNat 512 (modeByte s.self (bits st.a.toNat 13 8))) } { st := s } with
      mode := some (k, st.a.getLsbD 0) } := by
  unfold specMode
  dsimp only
  rw [if_neg (Bool.eq_false_iff.mp h), if_neg hp, hm]

end

/-! ## `cf.sleepd` (R173) -/

section
variable {st : Start} (s : State)

theorem sleepd_run_read (h : st.a.getLsbD 63 = true) :
    specSleepd.run st { st := s } = .ok (landNext st { x := some (s.self.sleepd.setWidth 512) } { st := s }) := if_pos h

variable (h : st.a.getLsbD 63 = false)
include h

/-- There is no depth 3. -/
theorem sleepd_run_refused (hd : bits st.a.toNat 1 0 = 3) :
    specSleepd.run st { st := s } = .ok (landNext st { x := some (s.self.sleepd.setWidth 512), s := 1 } { st := s }) :=
  (if_neg (Bool.eq_false_iff.mp h)).trans (if_pos hd)

theorem sleepd_run_write (hd : bits st.a.toNat 1 0 ≠ 3) : specSleepd.run st { st := s } =
    .ok (leaves ((landNext st { x := some (s.self.sleepd.setWidth 512) } { st := s }).st.onSelf fun t => { t with sleepd := st.a.setWidth 2 })) :=
  (if_neg (Bool.eq_false_iff.mp h)).trans (if_neg hd)

end

/-! ## Place and task identifiers (R171) -/

/-- A part of the tile's place. -/
theorem dom_run (st : Start) {s : State} {lev : BitVec 3} {v : Dword} (hv : s.self.dom.toList[lev.toNat]? = some v) :
    (specDom lev).run st { st := s } = .ok (landNext st { x := some (v.setWidth 512) } { st := s }) := by
  unfold specDom cfRead
  dsimp only
  rw [hv]

theorem tid_run (st : Start) {s : State} {k : BitVec 4} {v : Dword} (hv : s.self.tid.toList[k.toNat]? = some v) :
    (specTid k).run st { st := s } = .ok (landNext st { x := some (v.setWidth 512) } { st := s }) := by
  unfold specTid cfRead
  dsimp only
  rw [hv]

/-- A trigger of `cf` completes as its meaning runs. -/
theorem runs_cf {i : Instr} {sp : Spec} {h : Head} {o : Option Opnd} {ok : Start → State → Prop} {f : Start → State → Issue}
    (hs : specOf i = some sp) (hi : headOf i = some (h, none)) (hk : sp.sock = .cf) (ho : sp.opnd = o)
    (hr : ∀ st s, ok st s → sp.run st { st := s } = .ok (f st s)) : Runs i h .cf o ok f :=
  runs_of (Bundles.exec_of_spec hs) hi hk ho Sock.noConfusion fun st s _ _ hok => hr st s hok

/-- Settles O36: each operation of `cf` by the branch of its meaning that its operand takes, and the mode at the end of the bundle. -/
theorem configuration : Obligations.Configuration := by
  refine ⟨fun h => ⟨?fmtRead, ?fmtWrite⟩, fun h => ⟨?modeRead, ?modeRefused, fun k => ⟨?modeSame, ?modeWrite⟩⟩, fun s u k b hn ha => ?modeEnds,
    fun h lev v _ => ?dom, fun h k v _ => ?tid, fun h => ?flags, fun h => ⟨?sleepdRead, ?sleepdRefused, ?sleepdWrite⟩,
    fun t _ b hn ha => changeMode_locked t b hn ha⟩
  case fmtRead => exact runs_cf rfl rfl rfl rfl fun _ _ h63 => if_pos h63
  case fmtWrite => exact runs_cf rfl rfl rfl rfl fun _ _ h63 => if_neg (Bool.eq_false_iff.mp h63)
  case modeRead => exact runs_cf rfl rfl rfl rfl fun _ _ h63 => mode_run_read h63
  case modeRefused => exact runs_cf rfl rfl rfl rfl fun _ _ ⟨⟨h63, hp⟩, hm⟩ => mode_run_refused h63 hp hm
  case modeSame => exact runs_cf rfl rfl rfl rfl fun _ _ ⟨⟨h63, hp⟩, hm, he⟩ => (mode_run_write h63 hp hm).trans (if_pos he)
  case modeWrite => exact runs_cf rfl rfl rfl rfl fun _ _ ⟨⟨h63, hp⟩, hm, he⟩ => (mode_run_write h63 hp hm).trans (if_neg he)
  case modeEnds =>
    obtain ⟨hk, hj⟩ := changeMode_locked u.self b hn ha
    exact ⟨(ended_mode s u k b k).trans hk, fun j hne => (ended_mode s u k b j).trans (hj j hne)⟩
  case dom => exact runs_cf rfl rfl rfl rfl fun st _ hv => dom_run st hv
  case tid => exact runs_cf rfl rfl rfl rfl fun st _ hv => tid_run st hv
  case flags => exact runs_cf rfl rfl rfl rfl fun _ _ _ => rfl
  case sleepdRead => exact runs_cf rfl rfl rfl rfl fun _ s h63 => sleepd_run_read s h63
  case sleepdRefused => exact runs_cf rfl rfl rfl rfl fun _ s ⟨h63, hd⟩ => sleepd_run_refused s h63 hd
  case sleepdWrite => exact runs_cf rfl rfl rfl rfl fun _ s ⟨h63, hd⟩ => sleepd_run_write s h63 hd

end Sys2Proof.Proofs.Configuration
end

section
/-! PROOF. What the issue of a bundle on one tile keeps: every other tile, the quads, and of its own tile the running bank, the code and the lives of the strands. -/

namespace Sys2Proof.Proofs.OneTile

open Sys2Proof Sys2Proof.Machine Sys2Proof.Laws

/-! ## Of a tile -/

/-- Which bank of a tile runs, where its code stands, and which of its strands live. -/
structure Course where
  run : BitVec 2
  start : Nat
  len : Nat
  lives : Vector Life 4

def course (t : Tile) : Course := { run := t.run, start := t.codeStart, len := t.codeLen, lives := t.banks.map (·.life) }

theorem life_of_course {t u : Tile} (h : course u = course t) (k : BitVec 2) : (u.bank k).life = (t.bank k).life := by
  have hl := congrArg (fun c : Course => c.lives[k.toNat]'k.isLt) h
  simpa [course, Tile.bank] using hl

theorem course_setBank {t : Tile} {k : BitVec 2} {b : Strand} (h : b.life = (t.bank k).life) : course (t.setBank k b) = course t := by
  have hl : (t.banks.set k.toNat b k.isLt).map (·.life) = t.banks.map (·.life) := by
    ext i hi
    rw [Vector.getElem_map, Vector.getElem_map, Vector.getElem_set]
    split
    · next e => subst e; exact h
    · rfl
  unfold course Tile.setBank
  dsimp only
  rw [hl]

theorem course_onBank (t : Tile) (k : BitVec 2) {f : Strand → Strand} (h : ∀ b, (f b).life = b.life) : course (t.onBank k f) = course t :=
  course_setBank (h _)

theorem giveCause_course (t : Tile) (p : Pending) : course (t.giveCause p) = course t := by
  unfold Tile.giveCause
  split
  · split <;> rfl
  · rfl

theorem course_onSock (t : Tile) (k : BitVec 2) (s : Sock) (f : SockCtx → SockCtx) : course (t.onBank k fun b => b.onSock s f) = course t :=
  course_onBank t k fun _ => rfl

theorem emptyPort_course (t : Tile) (x : Src) : course (emptyPort t x) = course t := by
  unfold emptyPort
  split
  next k =>
    split
    · exact course_onSock t t.run k fun c => { c with fullX := false, s := t.freedStatus k c.s }
    · rfl
  next k =>
    split
    · dsimp only
      split <;> exact course_onSock t t.run k fun c => { c with fullY := false }
    · rfl
  all_goals rfl

/-! ### Rings, fillers and the sequence of `mx` -/

theorem engineWrite_course (t : Tile) (ws : List (Nat × Byte)) : course (t.engineWrite ws) = course t := by
  unfold Tile.engineWrite
  split <;> rfl

theorem pushLines_course (r : BitVec 3) : ∀ (n : Nat) (t : Tile) (bs : List Byte), course (t.pushLines r bs n) = course t
  | 0, _, _ => rfl
  | n + 1, t, bs => (pushLines_course r n (t.pushLine r (bs.take 64)) (bs.drop 64)).trans (engineWrite_course t _)

theorem fillerEnd_course (t : Tile) (n : BitVec 3) (f : Filler) : course (t.fillerEnd n f) = course t := by
  unfold Tile.fillerEnd
  dsimp only
  split
  · split
    next o _ =>
      split
      · split <;> exact course_onSock (t.setRing n { t.ring n with filler := none }) o.bank .dm fun c => { c with s := dmStatus o }
      · split <;> rfl
    next => split <;> rfl
  · rfl

theorem fillerPush_course (t : Tile) (now d : Nat) (n : BitVec 3) (f : Filler) : course (t.fillerPush now d n f) = course t := by
  unfold Tile.fillerPush
  dsimp only
  split
  · exact fillerEnd_course ..
  · split
    · rfl
    · split
      · split
        · exact (fillerEnd_course ..).trans (pushLines_course ..)
        · exact pushLines_course ..
      · rfl

theorem mxRow_course (t : Tile) (now : Nat) (o : MxOp) : course (t.mxRow now o) = course t := by
  unfold Tile.mxRow
  dsimp only
  split
  · rfl
  · exact course_onBank t o.bank (by exact fun _ => rfl)

theorem mxWord_course (t : Tile) (now : Nat) (st : Start) (v : Dword) : course (t.mxWord now st v) = course t := by
  unfold Tile.mxWord
  split
  · rfl
  · exact course_onBank t st.bank (by exact fun _ => rfl)

theorem popClaims_course : ∀ (cs : List (BitVec 3 × Nat)) (t : Tile),
    course (cs.foldl (fun (t : Tile) c => t.setRing c.1 ((t.ring c.1).popped c.2)) t) = course t
  | [], _ => rfl
  | _ :: cs, _ => (popClaims_course cs _).trans rfl

theorem mxCommit_course (t : Tile) (now : Nat) (o : MxOp) : course (t.mxCommit now o) = course t := by
  unfold Tile.mxCommit
  dsimp only
  split
  · split
    · exact mxWord_course ..
    · exact (mxWord_course ..).trans (popClaims_course ..)
  · exact mxWord_course ..
  · exact mxWord_course ..
  · exact mxWord_course ..
  · exact mxWord_course ..
  · rfl

/-! ## Of the module -/

/-- Tile `a` keeps its course; every other tile, the quads and the tick are the same. -/
structure InTile (a : Nat) (s t : State) : Prop where
  cur : t.cur = s.cur
  tick : t.tick = s.tick
  quads : t.quads = s.quads
  others : ∀ b, b ≠ a → t.tileAt b = s.tileAt b
  tile : course (t.tileAt a) = course (s.tileAt a)

theorem InTile.refl (a : Nat) (s : State) : InTile a s s := ⟨rfl, rfl, rfl, fun _ _ => rfl, rfl⟩

theorem InTile.trans {a : Nat} {s t u : State} (h : InTile a s t) (k : InTile a t u) : InTile a s u :=
  ⟨k.cur.trans h.cur, k.tick.trans h.tick, k.quads.trans h.quads, fun b hb => (k.others b hb).trans (h.others b hb), k.tile.trans h.tile⟩

/-- A change of anything but the tiles, the quads and the tick. -/
theorem InTile.of_tiles (a : Nat) {s t : State} (hc : t.cur = s.cur) (hk : t.tick = s.tick) (hq : t.quads = s.quads) (ht : t.tiles = s.tiles) : InTile a s t := by
  have h : ∀ b, t.tileAt b = s.tileAt b := fun b => by unfold State.tileAt; rw [ht]
  exact ⟨hc, hk, hq, fun b _ => h b, congrArg course (h a)⟩

theorem inTile_onTile (s : State) (a : Nat) {f : Tile → Tile} (hf : course (f (s.tileAt a)) = course (s.tileAt a)) : InTile a s (s.onTile a f) :=
  ⟨rfl, rfl, rfl, fun _ hb => tileAt_onTile_other s f hb, (congrArg course (tileAt_onTile s a f)).trans hf⟩

theorem InTile.at {a b : Nat} {s t : State} (h : InTile a s t) (e : a = b) : InTile b s t := e ▸ h

/-- A change of the served tile that keeps its course. -/
theorem InTile.onSelf {s u : State} (h : InTile s.cur s u) {f : Tile → Tile} (hf : course (f u.self) = course u.self) : InTile s.cur s (u.onSelf f) :=
  h.trans ((inTile_onTile u u.cur hf).at h.cur)

theorem inTile_foldl {α : Type} {a : Nat} {f : State → α → State} (hf : ∀ s x, InTile a s (f s x)) : ∀ (l : List α) (s : State), InTile a s (l.foldl f s)
  | [], s => .refl a s
  | x :: l, s => (hf s x).trans (inTile_foldl hf l (f s x))

/-! ### Errors and records -/

theorem inTile_record (a : Nat) (s : State) (cls : Nat) (c : Cause) (unit who addr : Nat) (l : Dword) : InTile a s (s.record cls c unit who addr l) := by
  obtain ⟨m, e, o, h⟩ := Health.record_eq s cls c unit who addr l
  rw [h]
  exact .of_tiles a rfl rfl rfl rfl

theorem inTile_countErr (a : Nat) (s : State) (b : Nat) (f : QuadErr → QuadErr) : InTile a s (s.countErr b f) := .of_tiles a rfl rfl rfl rfl

theorem inTile_tileRecord (s : State) (cls a : Nat) (c : Cause) (d addr : Nat) (l : Dword) : InTile a s (s.tileRecord cls a c d addr l) :=
  inTile_record ..

theorem inTile_noteCause (s : State) (a : Nat) (p : Pending) : InTile a s (s.noteCause a p) := by
  unfold State.noteCause
  split
  · refine (inTile_onTile s a (f := fun t => t.errAdd 3 1 0xFF) rfl).trans (.trans ?_ (inTile_tileRecord ..))
    split
    · exact .refl ..
    · exact inTile_countErr ..
  · exact (inTile_onTile s a (f := fun t => t.errAdd 4 1 0xFF) rfl).trans ((inTile_countErr ..).trans (inTile_tileRecord ..))
  all_goals exact .refl ..

theorem inTile_lateCause (s : State) (a : Nat) (p : Pending) : InTile a s (s.lateCause a p) := by
  refine (inTile_noteCause s a p).trans ?_
  unfold State.lateCause State.bringCause
  split
  · exact inTile_onTile _ a (giveCause_course _ p)
  · exact inTile_tileRecord ..

theorem inTile_correct (s : State) (a : Nat) (ps : List Nat) : InTile a s (s.correct a ps) := by
  unfold State.correct
  dsimp only
  split
  · exact .refl a s
  · exact (inTile_onTile s a (by rfl)).trans (inTile_countErr ..)

theorem inTile_sramRead (s : State) (a : Nat) (ps : List Nat) : InTile a s (s.sramRead a ps).2 := by
  unfold State.sramRead
  dsimp only
  split
  · exact (inTile_correct s a ps).trans (.of_tiles a rfl rfl rfl rfl)
  · exact inTile_correct s a ps

theorem inTile_regCorrect (s : State) (k : BitVec 2) (ps : List (Nat × Nat)) : InTile s.cur s (s.regCorrect k ps) := by
  unfold State.regCorrect
  dsimp only
  split
  · exact (inTile_onTile s s.cur (by rfl)).trans (inTile_countErr ..)
  · exact .refl ..

/-! ### Fillers and the sequence of `mx` -/

theorem inTile_fillerGather (s : State) (a : Nat) (n : BitVec 3) (f : Filler) : InTile a s (s.fillerGather a n f).1 := by
  unfold State.fillerGather
  dsimp only
  split
  · exact ((inTile_correct ..).trans (inTile_onTile _ a (by rfl))).trans (inTile_lateCause ..)
  · exact (inTile_sramRead ..).trans (.of_tiles a rfl rfl rfl rfl)

theorem inTile_fillerPush (s : State) (a : Nat) (n : BitVec 3) (f : Filler) : InTile a s (s.fillerPush a n f) :=
  (inTile_onTile s a (f := fun t => t.fillerPush s.tick (Config.delay s.free) n f) (fillerPush_course ..)).trans (.of_tiles a rfl rfl rfl rfl)

theorem inTile_fillerStep (s : State) (a : Nat) (n : BitVec 3) : InTile a s (s.fillerStep a n) := by
  unfold State.fillerStep
  split
  · exact .refl a s
  · next f _ =>
    split
    · exact .refl a s
    · split
      · have h := inTile_fillerGather s a n f
        split
        next u hu => rw [hu] at h; exact h
        next u g hu => rw [hu] at h; exact h.trans (inTile_fillerPush ..)
      · exact inTile_fillerPush ..

theorem inTile_mxAbandon (s : State) (a : Nat) (o : MxOp) (c : Cause) (d : Dword) : InTile a s (s.mxAbandon a o c d) := by
  unfold State.mxAbandon
  exact (inTile_lateCause ..).trans (inTile_onTile _ a rfl)

theorem inTile_mxReadLine (s : State) (a : Nat) (o : MxOp) (ps : List Nat) (keep : MxOp → Bus → MxOp) : InTile a s (s.mxReadLine a o ps keep) := by
  unfold State.mxReadLine
  split
  · exact (inTile_correct ..).trans (inTile_mxAbandon ..)
  · exact (inTile_sramRead ..).trans (inTile_onTile _ a (by rfl))

/-- A row of an accumulator is stored, or the operation is abandoned. -/
theorem inTile_rowWrite (s : State) (a : Nat) (o : MxOp) : InTile a s (if (s.tileAt a).writable (o.rowSpan o.cyc) then
    s.onTile a fun t => (t.sramWrite ((o.rowSpan o.cyc).zip (bytesOf (o.linesA.getD o.cyc 0)))).setHead o
    else s.mxAbandon a o .dataUncorrectable 0) := by
  have hw : ∀ ws, course (((s.tileAt a).sramWrite ws).setHead o) = course (s.tileAt a) := fun _ => rfl
  split
  · exact inTile_onTile s a (hw _)
  · exact inTile_mxAbandon ..

theorem inTile_mxAccess (s : State) (a : Nat) (o : MxOp) : InTile a s (s.mxAccess a o) := by
  unfold State.mxAccess
  split
  · split
    · exact .refl a s
    · split
      · exact .refl a s
      · split
        · exact .refl a s
        all_goals exact inTile_mxReadLine ..
  · exact .refl a s
  · exact .refl a s
  · split
    · exact inTile_mxAbandon ..
    · exact inTile_onTile s a (mxRow_course ..)
  · dsimp only
    split
    · exact inTile_mxAbandon ..
    · exact inTile_rowWrite s a _
  · exact inTile_mxReadLine ..

theorem inTile_mxCycle (s : State) (a : Nat) (o : MxOp) : InTile a s (s.mxCycle a o) := by
  unfold State.mxCycle
  refine (inTile_mxAccess s a o).trans ?_
  dsimp only
  split
  · exact .refl ..
  · split
    · exact (inTile_onTile _ a (by rfl)).trans (inTile_mxAbandon ..)
    · split
      · exact inTile_onTile _ a (mxCommit_course ..)
      · exact inTile_onTile _ a (by rfl)

/-- An issue cycle of the sequence of a tile, with the fillers that find room after it, stays in the tile. -/
theorem inTile_mxIssueCycle (s : State) (a : Nat) (k : BitVec 2) : InTile a s (s.mxIssueCycle a k) := by
  unfold State.mxIssueCycle
  refine (inTile_onTile s a (f := fun t => t.mxPrune s.tick) rfl).trans ?_
  dsimp only
  split
  · exact .refl ..
  · split
    · next o _ _ _ =>
      have h := (inTile_onTile (s.onTile a fun t => t.mxPrune s.tick) a (f := fun t => t.setHead { o with started := true }) rfl).trans
        (inTile_mxCycle _ a { o with started := true })
      split
      · exact h.trans (inTile_foldl (fun s n => inTile_fillerStep s a n) ringNumbers _)
      · exact h
    · exact .refl ..

end Sys2Proof.Proofs.OneTile
end

section
/-! PROOF. Gangs: the four tiles of a quad meet at their gang bundles, form a gang and leave it (R110 to R113, R156 to R158). -/

namespace Sys2Proof.Proofs.Gangs

open Sys2Proof Sys2Proof.Machine Sys2Proof.Laws Sys2Proof.Proofs.OneTile

/-! ## The four tiles of a quad -/

theorem mem_four_iff {s : State} {m : Nat} : m ∈ s.four ↔ quadOf m = quadOf s.cur := by
  simp only [State.four, List.mem_cons, List.not_mem_nil, or_false, quadOf]
  omega

theorem four_nodup (s : State) : s.four.Nodup := by
  simp [State.four]

theorem cur_mem_four (s : State) : s.cur ∈ s.four := mem_four_iff.mpr rfl

theorem lead_mem_four (s : State) : quadOf s.cur ∈ s.four := List.mem_cons_self

theorem quadOf_quadOf (a : Nat) : quadOf (quadOf a) = quadOf a := by unfold quadOf; omega

/-- Something done to one tile after another, each as it stood at first: what it does to the state stays true, and it does to each tile what it does to it alone. -/
theorem foldl_tiles {f : State → Nat → State} {s : State} {G : State → Prop} : ∀ {l : List Nat} (u : State), l.Nodup → G u →
    (∀ a ∈ l, u.tileAt a = s.tileAt a) →
    (∀ w, G w → ∀ a ∈ l, w.tileAt a = s.tileAt a → G (f w a) ∧ ∀ b, b ≠ a → (f w a).tileAt b = w.tileAt b) →
    G (l.foldl f u) ∧ (∀ b, b ∉ l → (l.foldl f u).tileAt b = u.tileAt b)
      ∧ ∀ m ∈ l, ∃ w, G w ∧ w.tileAt m = s.tileAt m ∧ (l.foldl f u).tileAt m = (f w m).tileAt m
  | [], _, _, hu, _, _ => ⟨hu, fun _ _ => rfl, fun _ hm => absurd hm List.not_mem_nil⟩
  | a :: l, u, hn, hu, ht, hf => by
    obtain ⟨ha, hl⟩ := List.nodup_cons.mp hn
    have hta := ht a List.mem_cons_self
    obtain ⟨hg, ho⟩ := hf u hu a List.mem_cons_self hta
    have hne : ∀ b ∈ l, b ≠ a := fun b hb e => ha (e ▸ hb)
    obtain ⟨h1, h2, h3⟩ := foldl_tiles (f u a) hl hg (fun b hb => (ho b (hne b hb)).trans (ht b (List.mem_cons_of_mem _ hb)))
      fun w hw b hb => hf w hw b (List.mem_cons_of_mem _ hb)
    refine ⟨h1, fun b hb => ?_, fun m hm => ?_⟩
    · rw [List.mem_cons, not_or] at hb
      exact (h2 b hb.2).trans (ho b hb.1)
    · obtain rfl | hm := List.mem_cons.mp hm
      · exact ⟨u, hu, hta, h2 m ha⟩
      · exact h3 m hm

/-- The same for an update of each tile. -/
theorem foldl_onTile {s : State} {G : State → Prop} (hs : G s) {l : List Nat} (hn : l.Nodup) (g : State → Nat → Tile → Tile)
    (hg : ∀ w a h, G w → G (w.onTile a h)) : G (l.foldl (fun u m => u.onTile m (g u m)) s)
      ∧ ∀ m ∈ l, ∃ w, G w ∧ (l.foldl (fun u m => u.onTile m (g u m)) s).tileAt m = { g w m (s.tileAt m) with addr := m } := by
  obtain ⟨h1, -, h2⟩ := foldl_tiles (f := fun u m => u.onTile m (g u m)) (G := G) s hn hs (fun _ _ => rfl)
    fun w hw a _ _ => ⟨hg w a _ hw, fun b hb => tileAt_onTile_other w _ hb⟩
  refine ⟨h1, fun m hm => ?_⟩
  obtain ⟨w, hw, ht, h⟩ := h2 m hm
  refine ⟨w, hw, ?_⟩
  rw [h, tileAt_onTile, ht]

/-! ## `ctl.gang` (R156, R158) -/

/-- A gang may form here: timetabled bank0 of a quad without a tile of role none. -/
structure GangLegal (st : Start) (s : State) : Prop where
  timetabled : s.self.tasked = false
  bank : st.bank = 0
  role : s.self.role.isSome = true
  roles : ∀ m ∈ quadMates s, (s.tileAt m).role.isSome = true

theorem gangLegal_iff (st : Start) (s : State) : GangLegal st s ↔ s.self.tasked = false ∧ st.bank = 0 ∧ s.self.role.isSome = true
    ∧ ∀ m ∈ quadMates s, (s.tileAt m).role.isSome = true := ⟨fun ⟨h1, h2, h3, h4⟩ => ⟨h1, h2, h3, h4⟩, fun ⟨h1, h2, h3, h4⟩ => ⟨h1, h2, h3, h4⟩⟩

/-- The check of `specGang`. -/
theorem gang_illegal_iff (st : Start) (s : State) :
    (s.self.tasked = true ∨ st.bank ≠ 0 ∨ s.self.role.isNone = true ∨ ((quadMates s).any fun m => (s.tileAt m).role.isNone) = true) ↔ ¬GangLegal st s := by
  have hn : ∀ o : Option Nat, o.isNone = true ↔ ¬o.isSome = true := fun o => by cases o <;> simp
  rw [gangLegal_iff, List.any_eq_true]
  simp only [hn, ← Bool.not_eq_true]
  constructor
  · rintro (h | h | h | ⟨m, hm, h⟩) ⟨h1, h2, h3, h4⟩
    · exact h1 h
    · exact h h2
    · exact h h3
    · exact h (h4 m hm)
  · intro h
    by_contra hc
    simp only [not_or, not_not, not_exists, not_and] at hc
    obtain ⟨h1, h2, h3, h4⟩ := hc
    exact h ⟨h1, h2, h3, h4⟩

section
variable {st : Start} {s : State}

theorem gang_run_illegal (h : ¬GangLegal st s) : specGang.run st { st := s } = .error (.trap .illegalBundle 0 0) :=
  if_pos ((gang_illegal_iff st s).mpr h)

section
variable (h : GangLegal st s) (hq : (s.quadAt s.cur).ganged = false)
include h hq

theorem gang_run_alone : specGang.run st { st := s } =
    if (quadMates s).any fun m => ((s.tileAt m).bank 0).life == .halted then .error (.trap .illegalBundle 0 0)
    else if s.self.gangGo then .ok { st := s, ctl := .gang } else .error .gangWait :=
  (if_neg fun hi => (gang_illegal_iff st s).mp hi h).trans (if_neg (Bool.eq_false_iff.mp hq))

theorem gang_run_halted (hh : ∃ m ∈ quadMates s, ((s.tileAt m).bank 0).life = .halted) :
    specGang.run st { st := s } = .error (.trap .illegalBundle 0 0) := by
  obtain ⟨m, hm, hl⟩ := hh
  have ha : ((quadMates s).any fun m => ((s.tileAt m).bank 0).life == .halted) = true := List.any_eq_true.mpr ⟨m, hm, by rw [hl]; rfl⟩
  exact (gang_run_alone h hq).trans (if_pos ha)

variable (hh : ∀ m ∈ quadMates s, ((s.tileAt m).bank 0).life ≠ .halted)
include hh

theorem gang_run_calm : specGang.run st { st := s } = if s.self.gangGo then .ok { st := s, ctl := .gang } else .error .gangWait :=
  (gang_run_alone h hq).trans (if_neg fun ha => by
    obtain ⟨m, hm, hl⟩ := List.any_eq_true.mp ha
    exact hh m hm (beq_iff_eq.mp hl))

end
end

/-- A bundle of one trigger that waits for the other tiles of the quad. -/
theorem issueOne_waits {i : Instr} {h : Head} {v : Bus} {s : State} {sp : Spec} (hf : Fires i h v s) (hi : headOf i = some (h, none))
    (hk : sp.sock ≠ .mx) (hr : s.atBundle.self.locked sp.sock = true → sp.sock ≠ .mx → sp.sock ≠ .mu →
      ((s.latched h sp.sock sp.opnd v).self).slotFree sp.sock false = true)
    (hrun : sp.run (s.starts h sp.sock sp.opnd v) { st := s.latched h sp.sock sp.opnd v } = .error .gangWait) :
    issueOne i sp s = .next (gangStall none s.atBundle) := by
  have hp : prepare [((s.self).bus, i, some sp)] (s.self).blen s.atBundle = .wait none := by
    rw [prepare_one hf hi, startAll_one hk, Bundles.trigPhase_single rfl, (startOne_latched .none none hr).trans hrun]
    rfl
  unfold issueOne
  rw [issue_mayIssue hf.may]
  unfold issueSingle
  rw [hp]

/-! ## The four tiles meet (R156, R401) -/

theorem meetGang_early {s : State} (h : ∃ m ∈ s.four, (s.tileAt m).gangWait ≠ some s.tick) : meetGang s = s := by
  obtain ⟨m, hm, hw⟩ := h
  refine if_neg fun ha => hw ?_
  exact beq_iff_eq.mp (List.all_eq_true.mp ha m hm)

theorem raiseNow_run (t : Tile) (now : Nat) (gang : Bool) (p : Pending) : (t.raiseNow now gang p).run = 3 := by
  unfold Tile.raiseNow
  split
  · assumption
  · rfl

/-- The largest of some numbers. -/
theorem foldl_max_eq {l : List Nat} {v : Nat} (hv : v ∈ l) (hle : ∀ x ∈ l, x ≤ v) : l.foldl max 0 = v := by
  have h : (0 :: l).max? = some v := List.max?_eq_some_iff.mpr ⟨List.mem_cons_of_mem _ hv, List.forall_mem_cons.mpr ⟨Nat.zero_le v, hle⟩⟩
  rw [List.max?_cons'] at h
  exact Option.some.inj h

section
variable {s : State} (hw : ∀ m ∈ s.four, (s.tileAt m).gangWait = some s.tick)
include hw

theorem all_wait : (s.four.all fun m => (s.tileAt m).gangWait == some s.tick) = true :=
  List.all_eq_true.mpr fun m hm => beq_iff_eq.mpr (hw m hm)

/-- The four issue on this tick, which is a stalled one for none of them. -/
theorem meetGang_goes (ha : ∀ m ∈ s.four, (s.tileAt m).asleep = false) (ht : ∀ m ∈ s.four, (s.tileAt m).gangTrap = none) :
    (meetGang s).turn = s.four ++ s.turn ∧ (meetGang s).cnt.stall = s.cnt.stall - 4
      ∧ ∀ m ∈ s.four, ((meetGang s).tileAt m).gangGo = true ∧ ((meetGang s).tileAt m).ready = s.tick
        ∧ ((meetGang s).tileAt m).stalled = (s.tileAt m).stalled - 1 := by
  have hna : (s.four.any fun m => (s.tileAt m).asleep) = false := List.any_eq_false.mpr fun m hm => by rw [ha m hm]; exact Bool.false_ne_true
  have hnt : (s.four.any fun m => (s.tileAt m).gangTrap.isSome) = false := List.any_eq_false.mpr fun m hm => by rw [ht m hm]; exact Bool.false_ne_true
  obtain ⟨⟨-, hturn, hcnt⟩, h⟩ := foldl_onTile (s := s) (G := fun u => u.tick = s.tick ∧ u.turn = s.turn ∧ u.cnt = s.cnt) ⟨rfl, rfl, rfl⟩
    (four_nodup s) (fun u _ t => { t with gangGo := true, ready := u.tick, stalled := t.stalled - 1 }) fun _ _ _ hu => hu
  have he : meetGang s = (let u := s.four.foldl (fun u m => u.onTile m fun t => { t with gangGo := true, ready := u.tick, stalled := t.stalled - 1 }) s
      { u with turn := s.four ++ u.turn, cnt := { u.cnt with stall := u.cnt.stall - 4 } }) :=
    (if_pos (all_wait hw)).trans ((if_neg (Bool.eq_false_iff.mp hna)).trans (if_neg (Bool.eq_false_iff.mp hnt)))
  rw [he]
  refine ⟨congrArg (s.four ++ ·) hturn, congrArg (fun c : Counters => c.stall - 4) hcnt, fun m hm => ?_⟩
  obtain ⟨w, ⟨htick, -, -⟩, hm⟩ := h m hm
  have hx : ∀ (u : State) (l : List Nat) (c : Counters), ({ u with turn := l, cnt := c } : State).tileAt m = u.tileAt m := fun _ _ _ => rfl
  dsimp only
  rw [hx, hm]
  exact ⟨rfl, htick, rfl⟩

/-- Each of them whose bundle would fault takes its fault. -/
theorem meetGang_traps (ha : ∀ m ∈ s.four, (s.tileAt m).asleep = false) {m : Nat} (hm : m ∈ s.four) (ht : (s.tileAt m).gangTrap.isSome = true) :
    ((meetGang s).tileAt m).run = 3 := by
  let f := fun (u : State) (m : Nat) => match (u.tileAt m).gangTrap with
    | some p => (u.noteCause m p).onTile m fun t => t.raiseNow u.tick false p
    | none => u
  have hna : (s.four.any fun m => (s.tileAt m).asleep) = false := List.any_eq_false.mpr fun m hm => by rw [ha m hm]; exact Bool.false_ne_true
  have he : meetGang s = s.four.foldl f s :=
    (if_pos (all_wait hw)).trans ((if_neg (Bool.eq_false_iff.mp hna)).trans (if_pos (List.any_eq_true.mpr ⟨m, hm, ht⟩)))
  obtain ⟨-, -, h⟩ := foldl_tiles (f := f) (G := fun _ => True) s (four_nodup s) trivial (fun _ _ => rfl) fun w _ a _ _ => ⟨trivial, fun b hb => by
    show (f w a).tileAt b = _
    unfold f
    split
    · exact (tileAt_onTile_other _ _ hb).trans ((inTile_noteCause w a _).others b hb)
    · rfl⟩
  obtain ⟨w, -, hwm, h⟩ := h m hm
  obtain ⟨p, hp⟩ := Option.isSome_iff_exists.mp ht
  have hf : f w m = (w.noteCause m p).onTile m fun t => t.raiseNow w.tick false p := by unfold f; rw [hwm, hp]
  rw [he, h, hf, tileAt_onTile]
  exact raiseNow_run ..

/-- Where some of them sleep, all wait for the longest wake delay. -/
theorem meetGang_wakes {x : Nat} (hx : x ∈ s.four) (ha : (s.tileAt x).asleep = true)
    (hmax : ∀ y ∈ s.four, (s.tileAt y).asleep = true → wakeDelay (s.tileAt y).sleepd ≤ wakeDelay (s.tileAt x).sleepd) {m : Nat} (hm : m ∈ s.four) :
    ((meetGang s).tileAt m).asleep = false ∧ ((meetGang s).tileAt m).gangWait = none
      ∧ ((meetGang s).tileAt m).ready = s.tick + wakeDelay (s.tileAt x).sleepd := by
  let d := (s.four.map fun m => if (s.tileAt m).asleep then wakeDelay (s.tileAt m).sleepd else 0).foldl max 0
  have hd : d = wakeDelay (s.tileAt x).sleepd := foldl_max_eq (List.mem_map.mpr ⟨x, hx, if_pos ha⟩) fun n hn => by
    obtain ⟨y, hy, rfl⟩ := List.mem_map.mp hn
    split
    · next hs => exact hmax y hy hs
    · exact Nat.zero_le _
  have he : meetGang s = s.four.foldl (fun u m => u.onTile m fun t => { t with asleep := false, stalled := 0, ready := u.tick + d, gangWait := none }) s :=
    (if_pos (all_wait hw)).trans (if_pos (List.any_eq_true.mpr ⟨x, hx, ha⟩))
  obtain ⟨-, h⟩ := foldl_onTile (s := s) (G := fun u => u.tick = s.tick) rfl (four_nodup s)
    (fun u _ t => { t with asleep := false, stalled := 0, ready := u.tick + d, gangWait := none }) fun _ _ _ hu => hu
  obtain ⟨w, htick, h⟩ := h m hm
  rw [he, h]
  exact ⟨rfl, rfl, by rw [← hd, ← htick]⟩

end

/-! ## A gang forms (R156, R157) -/

theorem findQuad_putQuad (q : Quad) : ∀ l : List Quad, findQuad q.addr (putQuad q l) = q
  | [] => by simp [putQuad, findQuad]
  | u :: r => by
    have ih := findQuad_putQuad q r
    unfold putQuad
    split
    · simp [findQuad]
    · split
      · simp [findQuad]
      · next hne =>
        rw [findQuad, if_neg (Ne.symm hne)]
        exact ih

theorem quadAt_onQuad (s : State) {a b : Nat} (h : quadOf b = quadOf a) (f : Quad → Quad) : (s.onQuad a f).quadAt b = { f (s.quadAt a) with addr := quadOf a } := by
  unfold State.quadAt
  rw [h]
  exact findQuad_putQuad { f (s.quadAt a) with addr := quadOf a } s.quads

/-- A member of a gang that forms or dissolves, sent on to its target. -/
def sentOn (target : Word) (ready : Nat) (t : Tile) : Tile :=
  { t.onBank 0 (fun b => { b with pc := target, levels := [], passEnd := false }) with ready := ready, gangHold := false, gangSplit := false }

theorem sentOn_bank (target : Word) (ready a : Nat) (t : Tile) :
    ({ sentOn target ready t with addr := a } : Tile).bank 0 = { t.bank 0 with pc := target, levels := [], passEnd := false } :=
  bank_onBank t 0 fun b => { b with pc := target, levels := [], passEnd := false }

/-- The last of the four to issue its gang bundle forms the gang: all go on at the leader's target. -/
theorem formGang_forms {s : State} (hg : ∀ m ∈ s.four, (s.tileAt m).gangGo = false) :
    ((formGang s).quadAt s.cur).ganged = true ∧ ∀ m ∈ s.four,
      (((formGang s).tileAt m).bank 0).pc = (((s.tileAt (quadOf s.cur)).bank 0).sock .ctl).a.setWidth 32 ∧ (((formGang s).tileAt m).bank 0).levels = [] := by
  let target : Word := (((s.tileAt (quadOf s.cur)).bank 0).sock .ctl).a.setWidth 32
  let ticks := transferTicks (s.quadAt (quadOf s.cur)) (s.tileAt (quadOf s.cur)) 0 target.toNat
  have hn : (s.four.any fun m => (s.tileAt m).gangGo) = false := List.any_eq_false.mpr fun m hm => by rw [hg m hm]; exact Bool.false_ne_true
  have he : formGang s = (s.four.foldl (fun u m => u.onTile m (sentOn target (u.tick + ticks))) s).onQuad (quadOf s.cur) fun q => { q with ganged := true } :=
    if_neg (Bool.eq_false_iff.mp hn)
  obtain ⟨-, h⟩ := foldl_onTile (s := s) (G := fun _ => True) trivial (four_nodup s) (fun u _ => sentOn target (u.tick + ticks)) fun _ _ _ hu => hu
  rw [he]
  refine ⟨by rw [quadAt_onQuad _ (quadOf_quadOf _).symm], fun m hm => ?_⟩
  obtain ⟨w, -, h⟩ := h m hm
  rw [TileEvents.tileAt_onQuad, h, sentOn_bank]
  exact ⟨rfl, rfl⟩

/-! ## The end of an issue cycle of one tile among the four (R144) -/

theorem nextStrand_keeps (u : State) (len : Nat) (c : CtlAct) : (nextStrand u len c).1.socks = (u.self.bank u.self.run).socks
    ∧ (nextStrand u len c).1.life = (u.self.bank u.self.run).life := by cases c <;> exact ⟨rfl, rfl⟩

section
variable (len : Nat) (u : State) {c : CtlAct} (hh : c ≠ .halt) (hr : ∀ p, c ≠ .raise p)
include hh hr

/-- It stays in its tile, which keeps its ports and is at no gang bundle. -/
theorem finish_inTile : InTile u.cur u (finish len { st := u, ctl := c }) ∧ (finish len { st := u, ctl := c }).self.gangGo = false
    ∧ ∀ k, ((finish len { st := u, ctl := c }).self.bank k).socks = (u.self.bank k).socks := by
  obtain ⟨n, m, hf⟩ := Control.finish_tile len (i := { st := u, ctl := c }) rfl rfl
  obtain ⟨hsocks, hlife⟩ := nextStrand_keeps u len c
  have ht : Control.controlledTile len { st := u, ctl := c } = WholeBundles.issuedTile len { st := u, ctl := c } := by
    cases c with
    | halt => exact absurd rfl hh
    | raise p => exact absurd rfl (hr p)
    | _ => rfl
  have haddr := Control.controlledTile_addr len { st := u, ctl := c }
  have hself : (finish len { st := u, ctl := c }).self = { WholeBundles.issuedTile len { st := u, ctl := c } with tasks := n } := by
    rw [hf, ← ht]
    exact self_setTile u _ haddr
  refine ⟨⟨rfl, rfl, rfl, fun b hb => ?others, (congrArg course hself).trans (course_setBank hlife)⟩, congrArg Tile.gangGo hself, fun k => ?ports⟩
  case others =>
    rw [hf]
    exact tileAt_setTile_other u _ (by rw [← haddr] at hb; exact hb)
  case ports =>
    rw [hself]
    show ((u.self.setBank u.self.run (nextStrand u len c).1).bank k).socks = _
    by_cases hk : k = u.self.run
    · subst hk
      rw [bank_setBank, hsocks]
    · rw [bank_setBank_other _ _ hk]

end

/-- The end of the cycle of a gang bundle forms the gang, the other three having issued theirs. -/
theorem ended_gang (s u : State) (hg : ∀ m, quadOf m = quadOf u.cur → m ≠ u.cur → (u.tileAt m).gangGo = false) :
    ((s.ended { st := u, ctl := .gang }).quadAt u.cur).ganged = true ∧ ∀ m, quadOf m = quadOf u.cur →
      (((s.ended { st := u, ctl := .gang }).tileAt m).bank 0).pc = (((u.tileAt (quadOf u.cur)).bank 0).sock .ctl).a.setWidth 32
        ∧ (((s.ended { st := u, ctl := .gang }).tileAt m).bank 0).levels = [] := by
  obtain ⟨hin, hgo, hsocks⟩ := finish_inTile s.self.blen u (c := .gang) CtlAct.noConfusion fun _ => CtlAct.noConfusion
  let f := finish s.self.blen { st := u, ctl := .gang }
  have hall : ∀ m ∈ f.four, (f.tileAt m).gangGo = false := fun m hm => by
    by_cases he : m = u.cur
    · subst he
      exact hgo
    · rw [hin.others m he]
      exact hg m (mem_four_iff.mp hm) he
  have hlead : ((f.tileAt (quadOf u.cur)).bank 0).socks = ((u.tileAt (quadOf u.cur)).bank 0).socks := by
    by_cases he : quadOf u.cur = u.cur
    · rw [he]
      exact hsocks 0
    · rw [hin.others _ he]
  obtain ⟨hq, hm⟩ := formGang_forms hall
  refine ⟨hq, fun m h => ?_⟩
  obtain ⟨hpc, hlv⟩ := hm m (mem_four_iff.mpr h)
  refine ⟨hpc.trans ?_, hlv⟩
  show (Strand.sock ((f.tileAt (quadOf u.cur)).bank 0) .ctl).a.setWidth 32 = _
  unfold Strand.sock
  rw [hlead]

/-! ## A member of a gang issues its `split` (R112, R157) -/

/-- The served tile may issue a `split` that carries `v`, and its quad is a gang. -/
structure SplitReady (w : State) (bus : BitVec 3) (h : Head) (v : Bus) : Prop where
  legal : moveCause (w.self.run = 3) w.self.lis.length (.split h) = none
  free : w.self.waits w.tick = false
  guard : guardHolds (w.self.bank w.self.run) h.guard = true
  value : readSrc w.self (w.self.bank w.self.run) (staggerSrc (w.self.bank w.self.run) bus h.src) = some v
  sound : ∀ r ∈ guardReg h ++ (regPlace (staggerSrc (w.self.bank w.self.run) bus h.src)).toList, regListed w.self.badRegs w.self.run r.1 r.2 = false
  ganged : (w.quadAt w.cur).ganged = true

section
variable {w : State} {bus : BitVec 3} {h : Head} {v : Bus} (hw : SplitReady w bus h v)
include hw

/-- The read phase of the `split`. -/
theorem readPhase_split : ∃ g : Got, readPhase w.self [(bus, .split h, some specSplit)] = { gots := [g] } ∧ g.val = v ∧ g.spec = some specSplit ∧ g.dst = none := by
  have hb : (badGuard w.self w.self.run h.guard || badRead w.self w.self.run (staggerSrc (w.self.bank w.self.run) bus h.src)) = false := by
    rw [Bool.or_eq_false_iff]
    refine ⟨Bool.eq_false_iff.mpr fun hb => ?_, Bool.eq_false_iff.mpr fun hb => ?_⟩
    · obtain ⟨r, hr, hl⟩ := Bundles.badRead_iff.mp hb
      rw [hw.sound r (List.mem_append_left _ hr)] at hl
      cases hl
    · obtain ⟨r, hr, hl⟩ := Bundles.badRead_iff.mp hb
      rw [hw.sound r (List.mem_append_right _ hr)] at hl
      cases hl
  refine ⟨{ bus := bus, src := staggerSrc (w.self.bank w.self.run) bus h.src, val := v, dst := none, spec := some specSplit }, ?_, rfl, rfl, rfl⟩
  rw [Bundles.readPhase_cons (r := []) rfl hw.guard hw.value, hb]
  rfl

/-- The bundle of the member up to the end of phase 3 (R121). -/
theorem prepare_split (len : Nat) : ∃ u, prepare [(bus, .split h, some specSplit)] len w = .ok { st := u, ctl := .split } ∧ InTile w.cur w u
    ∧ ((u.self.bank w.self.run).sock .ctl).a = v := by
  obtain ⟨g, hread, hv, hsp, hdst⟩ := readPhase_split hw
  let acts : List Act := [(bus, .split h, some specSplit)]
  let aw := Bundles.afterWrites acts w
  let mw := aw.mxIssueCycle aw.cur w.self.run
  let u := Bundles.latchOperand w.self.run specSplit g.val mw
  have haw : InTile w.cur w aw := by
    have hwrite : ∀ t, writePhase (readPhase w.self acts).gots t = emptyPort t g.src := fun t => by
      rw [hread]
      unfold writePhase
      simp only [List.foldl_cons, List.foldl_nil, hdst]
    refine (inTile_regCorrect w w.self.run (regsRead w.self acts)).onSelf ?_
    rw [hwrite]
    exact emptyPort_course ..
  have hmw : InTile w.cur w mw := haw.trans ((inTile_mxIssueCycle aw aw.cur w.self.run).at haw.cur)
  have hu : InTile w.cur w u := hmw.onSelf (course_onSock _ _ .ctl fun c => c.setLatch .opA g.val)
  have hlatch : ((u.self.bank w.self.run).sock .ctl).a = v := by
    show (((mw.onSelf fun t => t.onBank w.self.run fun b => b.onSock .ctl fun c => c.setLatch .opA g.val).self.bank w.self.run).sock .ctl).a = v
    rw [self_onSelf]
    refine (congrArg (fun b : Strand => (b.sock .ctl).a) (bank_onBank mw.self w.self.run fun b => b.onSock .ctl fun c => c.setLatch .opA g.val)).trans ?_
    refine (congrArg SockCtx.a (sock_setSock (mw.self.bank w.self.run) .ctl _)).trans ?_
    exact hv
  have hganged : (u.quadAt u.cur).ganged = true := by
    unfold State.quadAt
    rw [hu.quads, hu.cur]
    exact hw.ganged
  have hrun : ∀ o n, startOne w.self o n g specSplit { st := mw } = .ok { st := u, ctl := .split } := fun o n =>
    (Bundles.startOne_eq rfl fun hl => Bool.noConfusion hl).trans (if_pos hganged)
  have hstarted : Bundles.started acts len w = { out := { st := u, ctl := .split } } := by
    unfold Bundles.started
    rw [hread, Bundles.startAll_single (sp := specSplit) (by intro x hx; obtain rfl := List.mem_singleton.mp hx; exact .inr hsp) Sock.noConfusion,
      bySocket_one, Bundles.trigPhase_single hsp]
    exact congrArg (Bundles.trigsOf _ _) (hrun _ _)
  have hpass : Bundles.Passes acts w := ⟨by intro a ha; obtain rfl := List.mem_singleton.mp ha; exact hw.legal, hw.free⟩
  refine ⟨u, ?_, hu, hlatch⟩
  rw [Bundles.prepare_ok hpass (by rw [hread]) (by rw [hstarted]) (by rw [hstarted]) (by rw [hread]) (by rw [hstarted]), hstarted]

end

end Sys2Proof.Proofs.Gangs
end

section
/-! PROOF. A gang issues its `split` and dissolves: the parts of its members, the bundle of the gang, and the statement about gangs (R111, R112, R157). -/

namespace Sys2Proof.Proofs.Gangs

open Sys2Proof Sys2Proof.Machine Sys2Proof.Laws Sys2Proof.Proofs.OneTile

/-- The others in the gang issue the `split` too (R112). -/
theorem memberActs_split (bus : BitVec 3) (h : Head) : memberActs [(bus, .split h, some specSplit)] = [(bus, .split h, some specSplit)] := rfl

/-- A member that has completed its part. -/
def holding (t : Tile) : Tile := { t with gangHold := true }

/-- The part of a member: it completes its `split`, stays in its tile, and holds with the target on its latch. -/
theorem gangPart_split {x : State} {m : Nat} {bus : BitVec 3} {h : Head} {v : Bus} (hx : SplitReady { x with cur := m } bus h v) (len : Nat) (ret : Word)
    (hlead : ((x.tileAt (quadOf m)).bank 0).life ≠ .halted) (hrun : (x.tileAt m).run = 0) :
    InTile m x (gangPart [(bus, .split h, some specSplit)] len false ret x m)
      ∧ ((gangPart [(bus, .split h, some specSplit)] len false ret x m).tileAt m).gangHold = true
      ∧ ((((gangPart [(bus, .split h, some specSplit)] len false ret x m).tileAt m).bank 0).sock .ctl).a = v := by
  obtain ⟨u, hp, hin, hlatch⟩ := prepare_split hx len
  obtain ⟨c, hh, hr, hpart⟩ : ∃ c : CtlAct, c ≠ .halt ∧ (∀ p, c ≠ .raise p) ∧ gangPart [(bus, .split h, some specSplit)] len false ret x m
      = { (finish len { st := u, ctl := c }).onTile m holding with cur := x.cur } := by
    unfold gangPart
    simp only [memberActs_split, ite_self, hp, Bool.false_eq_true, false_and, if_false]
    by_cases hm : m = quadOf m
    · exact ⟨.split, CtlAct.noConfusion, fun _ => CtlAct.noConfusion, by rw [if_pos hm]; rfl⟩
    · refine ⟨.none, CtlAct.noConfusion, fun _ => CtlAct.noConfusion, ?_⟩
      rw [if_neg hm, if_neg (by simpa using hlead)]
      rfl
  have hcur : u.cur = m := hin.cur
  obtain ⟨hfin, -, hsocks⟩ := finish_inTile len u hh hr
  let f := finish len { st := u, ctl := c }
  have hall : InTile m { x with cur := m } (f.onTile m holding) := (hin.trans (hfin.at hcur)).trans (inTile_onTile f m rfl)
  have htile : (gangPart [(bus, .split h, some specSplit)] len false ret x m).tileAt m = { holding (f.tileAt m) with addr := m } := by
    rw [hpart]
    exact tileAt_onTile f m holding
  rw [htile]
  refine ⟨?inside, rfl, ?latch⟩
  case inside =>
    rw [hpart]
    exact ⟨rfl, hall.tick, hall.quads, hall.others, hall.tile⟩
  case latch =>
    have hs : ((f.tileAt m).bank 0).socks = (u.self.bank 0).socks := by
      rw [← hcur]
      exact hsocks 0
    have hrun' : ({ x with cur := m } : State).self.run = 0 := hrun
    rw [hrun'] at hlatch
    show (Strand.sock ((f.tileAt m).bank 0) .ctl).a = v
    unfold Strand.sock at hlatch ⊢
    rw [hs]
    exact hlatch

/-! ## What is due before the bundle of a gang (R110, R125) -/

theorem landQueued_code (t : Tile) (now : Nat) (k : BitVec 2) : (t.landQueued now k).codeStart = t.codeStart ∧ (t.landQueued now k).codeLen = t.codeLen := by
  unfold Tile.landQueued
  dsimp only
  split
  · exact List.foldlRecOn (motive := fun u : Tile => u.codeStart = t.codeStart ∧ u.codeLen = t.codeLen) _ _ ⟨rfl, rfl⟩ fun u hu o _ => by
      split <;> exact hu
  · exact ⟨rfl, rfl⟩

theorem landBank_code (t : Tile) (k : BitVec 2) : (t.landBank k).codeStart = t.codeStart ∧ (t.landBank k).codeLen = t.codeLen := by
  unfold Tile.landBank
  dsimp only
  split <;> exact ⟨rfl, rfl⟩

theorem passBank_code (t : Tile) (q : Quad) (c : Tile) (k : BitVec 2) : (t.passBank q c k).codeStart = t.codeStart ∧ (t.passBank q c k).codeLen = t.codeLen := by
  unfold Tile.passBank
  dsimp only
  split <;> exact ⟨rfl, rfl⟩

theorem settle_code (s : State) (a : Nat) : ((s.settle a).tileAt a).codeStart = (s.tileAt a).codeStart ∧ ((s.settle a).tileAt a).codeLen = (s.tileAt a).codeLen := by
  have h1 := landBank_code (s.tileAt a) (s.tileAt a).run
  have h2 := landQueued_code ((s.tileAt a).landBank (s.tileAt a).run) s.tick (s.tileAt a).run
  have h3 := passBank_code (((s.tileAt a).landBank (s.tileAt a).run).landQueued s.tick (s.tileAt a).run) (s.quadAt a) (s.codeTile a) (s.tileAt a).run
  unfold State.settle
  rw [tileAt_onTile]
  exact ⟨h3.1.trans (h2.1.trans h1.1), h3.2.trans (h2.2.trans h1.2)⟩

/-- The four tiles settle in turn. -/
theorem atGang_spec (s : State) : (s.atGang.cur = s.cur ∧ s.atGang.tick = s.tick ∧ s.atGang.quads = s.quads)
    ∧ ∀ m ∈ s.four, (s.atGang.tileAt m).codeStart = (s.tileAt m).codeStart ∧ (s.atGang.tileAt m).codeLen = (s.tileAt m).codeLen := by
  obtain ⟨h1, -, h2⟩ := foldl_tiles (f := State.settle) (s := s) (G := fun u => u.cur = s.cur ∧ u.tick = s.tick ∧ u.quads = s.quads) s (four_nodup s)
    ⟨rfl, rfl, rfl⟩ (fun _ _ => rfl) fun w hw a _ _ => ⟨hw, fun b hb => tileAt_onTile_other w _ hb⟩
  refine ⟨h1, fun m hm => ?_⟩
  obtain ⟨w, -, ht, h⟩ := h2 m hm
  have hc := settle_code w m
  rw [ht] at hc
  unfold State.atGang
  rw [h]
  exact hc

/-- The gang may go on: no tile of it has a cause to take, and each may issue. -/
theorem whenReady_gang {s : State} (act : State → State) (hg : s.inGang = true)
    (hc : ∀ m ∈ s.four, (s.atGang.tileAt m).takePending s.tick true = none)
    (hm : ∀ m ∈ s.four, (s.atGang.tileAt m).run = 0 ∧ (s.atGang.tileAt m).canIssue s.tick = true) : whenReady act s = act s.atGang := by
  obtain ⟨⟨-, htick, -⟩, -⟩ := atGang_spec s
  have hnone : (s.four.findSome? fun m => (s.atGang.tileAt m).takePending s.atGang.tick true) = none := by
    rw [List.findSome?_eq_none_iff, htick]
    exact hc
  have hall : (s.four.all fun m => !((s.atGang.tileAt m).run == 3) && !(s.atGang.tileAt m).frozen
      && ((s.atGang.tileAt m).gangHold || (s.atGang.tileAt m).canIssue s.atGang.tick)) = true := by
    rw [List.all_eq_true, htick]
    intro m hmem
    obtain ⟨hr, hi⟩ := hm m hmem
    have hf : (s.atGang.tileAt m).frozen = false := by
      unfold Tile.canIssue at hi
      simp only [Bool.and_eq_true, Bool.not_eq_true'] at hi
      obtain ⟨⟨⟨⟨-, hf⟩, -⟩, -⟩, -⟩ := hi
      exact hf
    rw [hr, hf, hi, Bool.or_true]
    rfl
  unfold whenReady
  rw [if_pos hg]
  show (match s.four.findSome? fun m => (s.atGang.tileAt m).takePending s.atGang.tick true with
    | some t => s.atGang.setTile t
    | none => if _ then act s.atGang else s.atGang) = _
  rw [hnone]
  exact if_pos hall

/-! ## The bundle of the gang (R111, R112, R157) -/

/-- All four complete their `split`, and the gang dissolves. -/
theorem issueGang_split {s : State} {acts : List Act} {len : Nat} (hg : (s.quadAt s.cur).ganged = true)
    (hold : ∀ m ∈ s.four, (s.tileAt m).gangHold = false)
    (hp : ∀ m ∈ s.four, ∃ u, prepare (if m = quadOf s.cur then acts else memberActs acts) len { s with cur := m } = .ok { st := u, ctl := .split })
    (hd : ∀ ret, ∀ m ∈ s.four, ((s.four.foldl (gangPart acts len false ret) s).tileAt m).gangHold = true) :
    ∃ ret, issueGang acts len s = gangDone (quadOf s.cur) s.four true (s.four.foldl (gangPart acts len false ret) s) := by
  have hmem : s.members s.cur = s.four := if_pos hg
  have hpend : s.pendingMembers = s.four := by
    unfold State.pendingMembers
    rw [hmem, List.filter_eq_self]
    intro m hm
    rw [hold m hm]
    rfl
  obtain ⟨u, hlead⟩ := hp (quadOf s.cur) (lead_mem_four s)
  have hfind : ((s.four.map fun m => (m, prepare (if m = quadOf s.cur then acts else memberActs acts) len { s with cur := m })).find? fun p => p.1 = quadOf s.cur)
      = some (quadOf s.cur, .ok { st := u, ctl := .split }) := by
    unfold State.four
    rw [List.map_cons, List.find?_cons_of_pos (by simp), hlead]
  have hstall : ((s.four.map fun m => (m, prepare (if m = quadOf s.cur then acts else memberActs acts) len { s with cur := m })).any
      fun p => match p.2 with | .stall | .wait _ => true | .ok _ | .fault _ => false) = false := by
    rw [List.any_eq_false]
    intro p hpm
    obtain ⟨m, hm, rfl⟩ := List.mem_map.mp hpm
    obtain ⟨x, hx⟩ := hp m hm
    dsimp only
    rw [hx]
    exact Bool.false_ne_true
  have hrest : (s.four.filter fun m => !s.four.contains m) = [] := by
    rw [List.filter_eq_nil_iff]
    intro m hm
    simpa using hm
  refine ⟨((s.tileAt (quadOf s.cur)).bank 0).pc + BitVec.ofNat 32 len, ?_⟩
  unfold issueGang
  dsimp only
  rw [hpend, hmem]
  refine (if_neg fun hs => Bool.false_ne_true (hstall.symm.trans hs)).trans ?_
  rw [hfind]
  dsimp only
  rw [hrest, List.foldl_nil, Bool.or_true]
  exact if_pos (List.all_eq_true.mpr (hd _))

theorem transferTicks_code {t u : Tile} (hs : u.codeStart = t.codeStart) (hl : u.codeLen = t.codeLen) (q : Quad) (k : BitVec 2) (off : Nat) :
    transferTicks q u k off = transferTicks q t k off := by
  unfold transferTicks codeWords
  rw [hs, hl]

/-- The target that a member of a gang has on its latch. -/
def ownTarget (t : Tile) : Word := ((t.bank 0).sock .ctl).a.setWidth 32

/-- A gang that dissolves: each member goes on at its own target (R157). -/
theorem gangDone_split {s : State} {lead : Nat} {all : List Nat} (hn : all.Nodup) :
    ((gangDone lead all true s).quadAt lead).ganged = false ∧ ∀ m ∈ all,
      (((gangDone lead all true s).tileAt m).bank 0).pc = ownTarget (s.tileAt m) ∧ (((gangDone lead all true s).tileAt m).bank 0).levels = []
        ∧ ((gangDone lead all true s).tileAt m).gangHold = false
        ∧ ((gangDone lead all true s).tileAt m).ready = s.tick + transferTicks (s.quadAt m) (s.tileAt m) 0 (ownTarget (s.tileAt m)).toNat := by
  let g := fun (u : State) (m : Nat) (t : Tile) => sentOn (ownTarget t) (u.tick + transferTicks (u.quadAt m) t 0 (ownTarget t).toNat) t
  obtain ⟨-, h⟩ := foldl_onTile (s := s) (G := fun u => u.tick = s.tick ∧ u.quads = s.quads) ⟨rfl, rfl⟩ hn g fun _ _ _ hu => hu
  have he : gangDone lead all true s = (all.foldl (fun u m => u.onTile m (g u m)) s).onQuad lead fun q => { q with ganged := false } := rfl
  rw [he]
  refine ⟨by rw [quadAt_onQuad _ rfl], fun m hm => ?_⟩
  obtain ⟨w, ⟨htick, hquads⟩, h⟩ := h m hm
  have hq : w.quadAt m = s.quadAt m := by unfold State.quadAt; rw [hquads]
  rw [TileEvents.tileAt_onQuad, h, sentOn_bank]
  refine ⟨rfl, rfl, rfl, ?_⟩
  show w.tick + transferTicks (w.quadAt m) (s.tileAt m) 0 _ = _
  rw [htick, hq]

theorem ganged_of_inGang {s : State} (hg : s.inGang = true) : (s.quadAt s.cur).ganged = true := (Bool.and_eq_true_iff.mp hg).1

section
variable {h : Head} {s : State} {v : Nat → Bus} (hg : s.inGang = true) (hf : ∀ m ∈ s.four, GangFires (.split h) h (v m) s m)
include hg hf

/-- Each member of a gang that fires its `split` is ready for it, wherever the others are. -/
theorem splitReady_of_fires {u : State} (ht : u.tick = s.tick) (hq : u.quads = s.quads) {m : Nat} (hm : m ∈ s.four)
    (hum : u.tileAt m = s.atGang.tileAt m) : SplitReady { u with cur := m } s.self.bus h (v m) := by
  obtain ⟨hbank, -, -, -, hfree, hlegal, hguard, hvalue, hsound⟩ := hf m hm
  have hself : ({ u with cur := m } : State).self = s.atGang.tileAt m := hum
  refine ⟨?_, ?_, ?_, ?_, ?_, ?_⟩
  · rw [hself, hbank]; exact hlegal
  · rw [hself]
    show (s.atGang.tileAt m).waits u.tick = false
    unfold Tile.waits
    rw [ht, hfree, hbank]
    rfl
  · rw [hself, hbank]; exact hguard
  · rw [hself, hbank]; exact hvalue
  · rw [hself, hbank]; exact hsound
  · show (findQuad (quadOf m) u.quads).ganged = true
    rw [hq, mem_four_iff.mp hm]
    exact ganged_of_inGang hg

end

/-! ## A gang dissolves (R112, R157) -/

/-- What stays the same while the members of a gang complete their parts: the clock, the quads, and a leader that has not halted. -/
structure Parting (s u : State) : Prop where
  cur : u.cur = s.cur
  tick : u.tick = s.tick
  quads : u.quads = s.quads
  lead : ((u.tileAt (quadOf s.cur)).bank 0).life ≠ .halted

theorem atGang_parting {h : Head} {s : State} {v : Nat → Bus} (hf : ∀ m ∈ s.four, GangFires (.split h) h (v m) s m) : Parting s s.atGang := by
  obtain ⟨⟨hcur, htick, hquads⟩, -⟩ := atGang_spec s
  refine ⟨hcur, htick, hquads, fun hl => ?_⟩
  have hlead := hf _ (lead_mem_four s)
  have hlive := hlead.able
  unfold Tile.canIssue at hlive
  rw [hlead.bank, hl] at hlive
  simp at hlive

section
variable {h : Head} {s : State} {v : Nat → Bus} (hg : s.inGang = true) (hf : ∀ m ∈ s.four, GangFires (.split h) h (v m) s m)
include hg hf

/-- The part of one member. -/
theorem part_spec {u : State} (hu : Parting s u) {m : Nat} (hm : m ∈ s.four) (hum : u.tileAt m = s.atGang.tileAt m) (ret : Word) :
    let w := gangPart [(s.self.bus, .split h, some specSplit)] s.self.blen false ret u m
    InTile m u w ∧ (w.tileAt m).gangHold = true ∧ (((w.tileAt m).bank 0).sock .ctl).a = v m :=
  gangPart_split (splitReady_of_fires hg hf hu.tick hu.quads hm hum) s.self.blen ret
    (by rw [mem_four_iff.mp hm]; exact hu.lead) (by rw [hum]; exact (hf m hm).bank)

/-- The parts of all four. -/
theorem parts_spec (ret : Word) : let w := s.four.foldl (gangPart [(s.self.bus, .split h, some specSplit)] s.self.blen false ret) s.atGang
    Parting s w ∧ ∀ m ∈ s.four, (w.tileAt m).gangHold = true ∧ ownTarget (w.tileAt m) = (v m).setWidth 32
      ∧ (w.tileAt m).codeStart = (s.tileAt m).codeStart ∧ (w.tileAt m).codeLen = (s.tileAt m).codeLen := by
  obtain ⟨h1, -, h2⟩ := foldl_tiles (f := gangPart [(s.self.bus, .split h, some specSplit)] s.self.blen false ret) (G := Parting s) s.atGang (four_nodup s)
    (atGang_parting hf) (fun _ _ => rfl) fun u hu a ha hua => by
      obtain ⟨hin, -, -⟩ := part_spec hg hf hu ha hua ret
      refine ⟨⟨hin.cur.trans hu.cur, hin.tick.trans hu.tick, hin.quads.trans hu.quads, ?_⟩, hin.others⟩
      by_cases he : quadOf s.cur = a
      · rw [he, life_of_course hin.tile, ← he]
        exact hu.lead
      · rw [hin.others _ he]
        exact hu.lead
  refine ⟨h1, fun m hm => ?_⟩
  obtain ⟨u, hu, hum, he⟩ := h2 m hm
  obtain ⟨hin, hhold, hlatch⟩ := part_spec hg hf hu hm hum ret
  obtain ⟨hs, hl⟩ := (atGang_spec s).2 m hm
  have hcourse := hin.tile
  rw [hum] at hcourse
  rw [he]
  exact ⟨hhold, congrArg (·.setWidth 32) hlatch, (congrArg Course.start hcourse).trans hs, (congrArg Course.len hcourse).trans hl⟩

/-- The gang issues its `split` and dissolves. -/
theorem exec_split : ∃ ret, exec (.split h) s = .next (gangDone (quadOf s.cur) s.four true
    (s.four.foldl (gangPart [(s.self.bus, .split h, some specSplit)] s.self.blen false ret) s.atGang)) := by
  have hA := atGang_parting hf
  have hfour : s.atGang.four = s.four := by unfold State.four; rw [hA.cur]
  have hganged : (s.atGang.quadAt s.atGang.cur).ganged = true := by
    unfold State.quadAt
    rw [hA.quads, hA.cur]
    exact ganged_of_inGang hg
  have hrun : s.atGang.self.run = 0 := by
    unfold State.self
    rw [hA.cur]
    exact (hf _ (cur_mem_four s)).bank
  have hin : s.atGang.inGang = true := by
    unfold State.inGang
    rw [hganged, hrun]
    rfl
  have hwhen := whenReady_gang (fun s' => if s'.inGang then issueGang [(s.self.bus, .split h, some specSplit)] s.self.blen s'
    else issueSingle [(s.self.bus, .split h, some specSplit)] s.self.blen s') hg (fun m hm => (hf m hm).calm) fun m hm => ⟨(hf m hm).bank, (hf m hm).able⟩
  obtain ⟨ret, hi⟩ := issueGang_split (acts := [(s.self.bus, .split h, some specSplit)]) (len := s.self.blen) hganged
    (fun m hm => (hf m (hfour ▸ hm)).part)
    (fun m hm => by
      rw [memberActs_split, ite_self]
      obtain ⟨u, hu, -⟩ := prepare_split (splitReady_of_fires hg hf hA.tick hA.quads (hfour ▸ hm) rfl) s.self.blen
      exact ⟨u, hu⟩)
    fun ret m hm => by
      rw [hfour] at hm ⊢
      exact ((parts_spec hg hf ret).2 m hm).1
  refine ⟨ret, ?_⟩
  rw [Bundles.exec_of_spec (sp := specSplit) rfl]
  refine congrArg Host.Outcome.next (hwhen.trans ((if_pos hin).trans ?_))
  rw [hi, hfour, hA.cur]

/-- Each goes on at its own target. -/
theorem split_dissolves : ∃ t, exec (.split h) s = .next t ∧ (t.quadAt s.cur).ganged = false ∧ ∀ m ∈ s.four, ((t.tileAt m).bank 0).pc = (v m).setWidth 32
    ∧ ((t.tileAt m).bank 0).levels = [] ∧ (t.tileAt m).gangHold = false
    ∧ (t.tileAt m).ready = s.tick + transferTicks (s.quadAt m) (s.tileAt m) 0 ((v m).setWidth 32).toNat := by
  obtain ⟨ret, hx⟩ := exec_split hg hf
  obtain ⟨hw, hparts⟩ := parts_spec hg hf ret
  obtain ⟨hganged, hdone⟩ := gangDone_split (s := s.four.foldl (gangPart [(s.self.bus, .split h, some specSplit)] s.self.blen false ret) s.atGang)
    (lead := quadOf s.cur) (four_nodup s)
  refine ⟨_, hx, ?_, fun m hm => ?_⟩
  · unfold State.quadAt at hganged ⊢
    rw [quadOf_quadOf] at hganged
    exact hganged
  · obtain ⟨hpc, hlv, hhold, hready⟩ := hdone m hm
    obtain ⟨-, htarget, hstart, hlen⟩ := hparts m hm
    refine ⟨hpc.trans htarget, hlv, hhold, ?_⟩
    rw [hready, htarget, hw.tick, transferTicks_code hstart hlen]
    unfold State.quadAt
    rw [hw.quads]

end

/-- Settles O34: `gang` and `split` outside a gang by the cases of their two functions, the meeting of the four tiles by the branches of `meetGang`, and a gang that dissolves by its members' parts, none of which leaves its tile. -/
theorem gangs : Obligations.Gangs := by
  unfold Obligations.Gangs
  refine ⟨fun h => ⟨?illegal, ?halted, ?forms, ?waits, ?alone⟩, fun s hm => meetGang_early hm,
    fun s hw => ⟨fun hc => meetGang_goes hw (fun m hm => (hc m hm).1) fun m hm => (hc m hm).2,
      fun ha m hm ht => meetGang_traps hw ha hm ht, fun x hx ha hmax m hm => meetGang_wakes hw hx ha hmax hm⟩,
    fun h s v hg hf => split_dissolves hg hf, fun s u hg => ended_gang s u hg⟩
  case illegal =>
    exact traps_of (fun _ => rfl) rfl rfl rfl Sock.noConfusion fun st s _ _ hl => gang_run_illegal fun hg => hl ((gangLegal_iff st s).mp hg)
  case halted =>
    exact traps_of (fun _ => rfl) rfl rfl rfl Sock.noConfusion fun st s _ _ ⟨hl, hq, hh⟩ => gang_run_halted ((gangLegal_iff st s).mpr hl) hq hh
  case forms =>
    exact runs_of (fun _ => rfl) rfl rfl rfl Sock.noConfusion fun st s _ _ ⟨⟨hl, hq, hh⟩, hgo⟩ =>
      (gang_run_calm ((gangLegal_iff st s).mpr hl) hq hh).trans (if_pos hgo)
  case waits =>
    intro s v hf ha ⟨hl, hq, hh⟩ hgo
    exact (Bundles.exec_of_spec (sp := specGang) rfl s).trans (issueOne_waits hf rfl Sock.noConfusion (fun hlock _ _ => ha hlock)
      ((gang_run_calm ((gangLegal_iff _ _).mpr hl) hq hh).trans (if_neg (Bool.eq_false_iff.mp hgo))))
  case alone =>
    exact runs_of (fun _ => rfl) rfl rfl rfl Sock.noConfusion fun _ _ _ _ hq => if_neg (Bool.eq_false_iff.mp hq)

end Sys2Proof.Proofs.Gangs
end

section
/-! PROOF. The float and vector sockets `fp`, `sf`, `vu` and `vx`: every operation of them only computes, and its result lands after the latency of its socket (R193 to R212, Table 6.1). -/

namespace Sys2Proof.Proofs.Floats

open Sys2Proof Sys2Proof.Machine Sys2Proof.Proofs.Integers

/-- Settles O17: the meaning of each operation of `fp` is one computation, of four issue cycles or of `fpLat`. -/
theorem scalarFloatResults : Obligations.ScalarFloatResults := by
  intro h m
  have hk : Sock.fp ≠ .mx := Sock.noConfusion
  and_intros
  all_goals exact computes_of_spec rfl rfl hk

/-- Settles O18: the meaning of each operation of `sf`, on a scalar or on every lane, is one computation of eight issue cycles. -/
theorem specialFunctionResults : Obligations.SpecialFunctionResults := by
  intro h m
  have hk : Sock.sf ≠ .mx := Sock.noConfusion
  and_intros
  all_goals exact computes_of_spec rfl rfl hk

/-- Settles O19: the meaning of each operation of `vu` is one computation, of `vuLat` by the width of its lanes, and of four issue cycles for the three that have none. -/
theorem vectorResults : Obligations.VectorResults := by
  intro h m
  have hk : Sock.vu ≠ .mx := Sock.noConfusion
  and_intros
  all_goals exact computes_of_spec rfl rfl hk

/-- Settles O20: the meaning of each operation of `vx` is one computation of two issue cycles. -/
theorem laneMoveResults : Obligations.LaneMoveResults := by
  intro h m c
  have hk : Sock.vx ≠ .mx := Sock.noConfusion
  and_intros
  all_goals exact computes_of_spec rfl rfl hk

end Sys2Proof.Proofs.Floats
end

section
/-! PROOF. Local memory: loads, stores and atomics of `ls`, the layouts, streams and rings of `ag`, and what memory reads back (R216 to R235, Tables 10.1, 10.6 and 10.7). -/

namespace Sys2Proof.Proofs.LocalMemory

open Sys2Proof Sys2Proof.Machine Sys2Proof.Laws

/-! ## Memory cells (R216, R262) -/

theorem cellsFrom_cons {lo a : Nat} {v : Byte} {r : List Host.Cell} :
    cellsFrom lo ((a, v) :: r) = true ↔ lo ≤ a ∧ v ≠ 0 ∧ cellsFrom (a + 1) r = true := by
  simp only [cellsFrom, Bool.and_eq_true, decide_eq_true_eq, and_assoc]

theorem cellsRead_head (a : Nat) (v : Byte) (r : List Host.Cell) : cellsRead ((a, v) :: r) a = v := if_pos rfl

theorem cellsRead_tail {a b : Nat} (h : b ≠ a) (v : Byte) (r : List Host.Cell) : cellsRead ((a, v) :: r) b = cellsRead r b := if_neg h

/-- Two memories in canonical form that read alike list the same address first. -/
theorem first_le_of_read {lo a b : Nat} {v w : Byte} {q r : List Host.Cell} (hm : cellsFrom lo ((a, v) :: r) = true) (hn : cellsFrom lo ((b, w) :: q) = true)
    (he : ∀ x, cellsRead ((a, v) :: r) x = cellsRead ((b, w) :: q) x) : b ≤ a := by
  obtain ⟨-, hv, -⟩ := cellsFrom_cons.mp hm
  by_contra hlt
  have hz : cellsFrom b ((b, w) :: q) = true := cellsFrom_cons.mpr ⟨le_refl b, (cellsFrom_cons.mp hn).2⟩
  exact hv ((cellsRead_head a v r).symm.trans ((he a).trans (cellsRead_below (by omega) hz)))

theorem cells_ext {lo : Nat} {m n : List Host.Cell} (hm : cellsFrom lo m = true) (hn : cellsFrom lo n = true)
    (he : ∀ a, cellsRead m a = cellsRead n a) : m = n := by
  have not_nil : ∀ {a : Nat} {v : Byte} {r : List Host.Cell}, cellsFrom lo ((a, v) :: r) = true → ¬∀ x, cellsRead ((a, v) :: r) x = cellsRead [] x :=
    fun h he => (cellsFrom_cons.mp h).2.1 ((cellsRead_head ..).symm.trans (he _))
  induction m generalizing lo n with
  | nil =>
    cases n with
    | nil => rfl
    | cons d q => exact absurd (fun x => (he x).symm) (not_nil hn)
  | cons c r ih =>
    cases n with
    | nil => exact absurd he (not_nil hm)
    | cons d q =>
      obtain ⟨a, v⟩ := c
      obtain ⟨b, w⟩ := d
      obtain rfl : a = b := le_antisymm (first_le_of_read hn hm fun x => (he x).symm) (first_le_of_read hm hn he)
      have hv : v = w := by have := he a; rwa [cellsRead_head, cellsRead_head] at this
      obtain ⟨-, -, hr⟩ := cellsFrom_cons.mp hm
      obtain ⟨-, -, hq⟩ := cellsFrom_cons.mp hn
      have ht : ∀ x, cellsRead r x = cellsRead q x := fun x => by
        by_cases hx : x = a
        · rw [cellsRead_below (by omega) hr, cellsRead_below (by omega) hq]
        · have := he x
          rwa [cellsRead_tail hx, cellsRead_tail hx] at this
      rw [hv, ih hr hq ht fun h he => (cellsFrom_cons.mp h).2.1 ((cellsRead_head ..).symm.trans (he _))]

theorem leNat_natLe (v n : Nat) : leNat (natLe v n) = v % 2 ^ (8 * n) := by
  induction n generalizing v with
  | zero => simp [natLe, leNat, Nat.mod_one]
  | succ n ih =>
    have h8 : 2 ^ (8 * (n + 1)) = 256 * 2 ^ (8 * n) := by rw [Nat.mul_succ, Nat.pow_add]; omega
    simp only [natLe, leNat, ih, BitVec.toNat_ofNat, h8]
    exact (Nat.mod_mul ..).symm

theorem wf_sramWrite {t : Tile} (h : cellsWf t.sram = true) (ws : List (Nat × Byte)) : cellsWf (t.sramWrite ws).sram = true := cellsWf_writes h

theorem wf_engineWrite {t : Tile} (h : cellsWf t.sram = true) (ws : List (Nat × Byte)) : cellsWf (t.engineWrite ws).sram = true := by
  unfold Tile.engineWrite
  split
  · exact wf_sramWrite h ws
  · exact wf_sramWrite h _

theorem memWf_gWrite {s : State} (h : s.memWf) (a : Nat) (bs : List Byte) : (s.gWrite a bs).memWf := by
  obtain ⟨hm, hs, ht⟩ := h
  exact ⟨cellsWf_writeAll hm, hs, ht⟩

/-- Settles O49: reads after writes by the position of the address, equality by the first address that each memory lists, and the form by what each write does to the cells. -/
theorem memoryReadsBack : Obligations.MemoryReadsBack :=
  ⟨fun _ _ _ _ h => ⟨cellsWf_write h, cellsRead_write h⟩, fun _ _ _ h => ⟨TileEvents.cellsReadAll_writeAll h, fun _ => cellsRead_writeAll_other h⟩,
    fun _ _ => cells_ext, leNat_natLe, fun _ ws h => ⟨wf_sramWrite h ws, wf_engineWrite h ws⟩, fun _ a bs h => memWf_gWrite h a bs,
    rfl, rfl, fun _ h => absurd h List.not_mem_nil⟩

/-! ## Layouts (R217 to R219, Table 10.1) -/

/-- The layouts `.sw64` and `.sw128`: bits [n+2:n] of an address select which of eight blocks of `c` bytes it goes to. -/
def swizzle (n c a : Nat) : Nat := a ^^^ (a / 2 ^ n % 8 * c)

theorem layoutMap_sw64 (a : Nat) : layoutMap .sw64 a = swizzle 9 64 a := rfl
theorem layoutMap_sw128 (a : Nat) : layoutMap .sw128 a = swizzle 10 128 a := rfl

theorem xor_div_of_lt {a y n : Nat} (h : y < 2 ^ n) : (a ^^^ y) / 2 ^ n = a / 2 ^ n := by
  rw [Nat.xor_div_two_pow, Nat.div_eq_of_lt h, Nat.xor_zero]

section
variable {n c : Nat} (hc : 8 * c ≤ 2 ^ n) (hp : 0 < c)
include hc hp

theorem swizzle_shift_lt (a : Nat) : a / 2 ^ n % 8 * c < 2 ^ n :=
  lt_of_lt_of_le (Nat.mul_lt_mul_of_pos_right (Nat.mod_lt _ (by decide)) hp) hc

/-- The bits that select the block, and those above, stay. -/
theorem swizzle_div (a : Nat) : swizzle n c a / 2 ^ n = a / 2 ^ n := xor_div_of_lt (swizzle_shift_lt hc hp a)

theorem swizzle_swizzle (a : Nat) : swizzle n c (swizzle n c a) = a := by
  have h := swizzle_div hc hp a
  unfold swizzle at h ⊢
  rw [h, Nat.xor_assoc, Nat.xor_self, Nat.xor_zero]

theorem swizzle_lt {a m : Nat} (h : a < m * 2 ^ n) : swizzle n c a < m * 2 ^ n := by
  rw [← Nat.div_lt_iff_lt_mul (Nat.two_pow_pos n), swizzle_div hc hp, Nat.div_lt_iff_lt_mul (Nat.two_pow_pos n)]
  exact h

omit hc hp in
/-- Within a line the order of the bytes stays: only the number of the line changes. -/
theorem swizzle_line (q a : Nat) : swizzle n (64 * q) a = 64 * ((a / 64) ^^^ (a / 2 ^ n % 8 * q)) + a % 64 := by
  have hx : swizzle n (64 * q) a = a ^^^ (a / 2 ^ n % 8 * q * 2 ^ 6) := by unfold swizzle; ring_nf
  rw [hx, ← Nat.div_add_mod (a ^^^ _) (2 ^ 6), Nat.xor_div_two_pow, Nat.xor_mod_two_pow, Nat.mul_div_cancel _ (by decide), Nat.mul_mod_left, Nat.xor_zero]
  rfl

end

/-- The bytes of an aligned access of up to 64 bytes lie in one line, in order. -/
theorem aligned_line {a j k : Nat} (hj : j ≤ 6) (ha : a % 2 ^ j = 0) (hk : k < 2 ^ j) : (a + k) / 64 = a / 64 ∧ (a + k) % 64 = a % 64 + k := by
  interval_cases j <;> omega

theorem swizzle_aligned {n q a j k : Nat} (hn : 6 ≤ n) (hj : j ≤ 6) (ha : a % 2 ^ j = 0) (hk : k < 2 ^ j) :
    swizzle n (64 * q) (a + k) = swizzle n (64 * q) a + k ∧ swizzle n (64 * q) (a + k) / 64 = swizzle n (64 * q) a / 64 := by
  obtain ⟨hdiv, hmod⟩ := aligned_line hj ha hk
  have hsel : (a + k) / 2 ^ n = a / 2 ^ n := by
    obtain ⟨d, rfl⟩ := Nat.exists_eq_add_of_le hn
    rw [Nat.pow_add, ← Nat.div_div_eq_div_mul, ← Nat.div_div_eq_div_mul]
    exact congrArg (· / 2 ^ d) hdiv
  have hlt : (a + k) % 64 < 64 := Nat.mod_lt _ (by decide)
  rw [swizzle_line, swizzle_line, hdiv, hsel, hmod]
  omega

/-- `.trn` swaps two digits of an address to the base 16. -/
theorem layoutMap_trn (q d e r : Nat) (hd : d < 16) (he : e < 16) (hr : r < 4) :
    layoutMap .trn (q * 1024 + d * 64 + e * 4 + r) = q * 1024 + e * 64 + d * 4 + r := by
  have hq : (q * 1024 + d * 64 + e * 4 + r) / 1024 = q := by omega
  have h4 : (q * 1024 + d * 64 + e * 4 + r) / 2 ^ 2 % 2 ^ (5 + 1 - 2) = e := by norm_num; omega
  have h64 : (q * 1024 + d * 64 + e * 4 + r) / 2 ^ 6 % 2 ^ (9 + 1 - 6) = d := by norm_num; omega
  have hr' : (q * 1024 + d * 64 + e * 4 + r) % 4 = r := by omega
  simp only [layoutMap, bits, hq, h4, h64, hr']

theorem digits_trn (a : Nat) : ∃ q d e r, a = q * 1024 + d * 64 + e * 4 + r ∧ d < 16 ∧ e < 16 ∧ r < 4 :=
  ⟨a / 1024, a / 64 % 16, a / 4 % 16, a % 4, by omega, by omega, by omega, by omega⟩

theorem layoutMap_layoutMap (l : Layout) (a : Nat) : layoutMap l (layoutMap l a) = a := by
  cases l with
  | lin => rfl
  | sw64 => exact swizzle_swizzle (by decide) (by decide) a
  | sw128 => exact swizzle_swizzle (by decide) (by decide) a
  | trn =>
    obtain ⟨q, d, e, r, rfl, hd, he, hr⟩ := digits_trn a
    rw [layoutMap_trn q d e r hd he hr, layoutMap_trn q e d r he hd hr]

theorem layoutMap_lt (l : Layout) {a : Nat} (h : a < 0x60000) : layoutMap l a < 0x60000 := by
  cases l with
  | lin => exact h
  | sw64 => exact swizzle_lt (n := 9) (c := 64) (m := 768) (by decide) (by decide) h
  | sw128 => exact swizzle_lt (n := 10) (c := 128) (m := 384) (by decide) (by decide) h
  | trn =>
    obtain ⟨q, d, e, r, rfl, hd, he, hr⟩ := digits_trn a
    rw [layoutMap_trn q d e r hd he hr]
    omega

theorem layoutMap_injective (l : Layout) : Function.Injective (layoutMap l) := Function.Involutive.injective (layoutMap_layoutMap l)

/-- Settles O24: `.sw64` and `.sw128` by what a swizzle keeps of an address, `.trn` by its arithmetic. -/
theorem layoutsPermute : Obligations.LayoutsPermute := by
  refine ⟨fun l a h => ⟨layoutMap_lt l h, layoutMap_layoutMap l a⟩, ?_⟩
  rintro l a j (rfl | rfl) hj ha k hk
  · exact swizzle_aligned (n := 9) (q := 1) (by decide) hj ha hk
  · exact swizzle_aligned (n := 10) (q := 2) (by decide) hj ha hk

/-! ## Loads, stores and atomics (R216, R220 to R225) -/

section
variable {i : Instr} {sp : Spec} {h : Head} {o : Opnd} {sz : Nat} {elems ps : Start → List Nat}

/-- The first element at fault stops the access. -/
theorem checksElements_of (hs : specOf i = some sp) (hi : headOf i = some (h, none)) (hk : sp.sock = .ls) (ho : sp.opnd = some o)
    (hc : ∀ st s e, lsCheck sz (elems st) = .error e → sp.run st { st := s } = .error e) : ChecksElements i h o sz elems := by
  have first : ∀ {p : Nat → Bool} {x : Option Nat}, x.any p = true → ∃ a, x = some a ∧ p a = true := by
    rintro p (_ | a) ha
    · cases ha
    · exact ⟨a, rfl, ha⟩
  refine ⟨traps_of (Bundles.exec_of_spec hs) hi hk ho Sock.noConfusion fun st s _ _ ha => hc st s _ ?_,
    traps_of (Bundles.exec_of_spec hs) hi hk ho Sock.noConfusion fun st s _ _ ha => hc st s _ ?_⟩
  · obtain ⟨a, hf, hm⟩ := first ha
    rw [lsCheck_bad hf, if_pos (of_decide_eq_true hm), hf]
    rfl
  · obtain ⟨a, hf, hm⟩ := first ha
    rw [lsCheck_bad hf, if_neg (not_not.mpr (of_decide_eq_true hm)), hf]
    rfl

/-- The record of an uncorrectable word that a read meets leaves the command queue and the running bank. -/
theorem queue_noteCause_correct (s : State) (qs : List Nat) (p : Pending) :
    ((s.correct s.cur qs).noteCause s.cur p).self.queue = s.self.queue ∧ ((s.correct s.cur qs).noteCause s.cur p).self.run = s.self.run := by
  have hc := correct_frame s qs
  obtain ⟨hq, hr, -⟩ := noteCause_queue (s.correct s.cur qs) p
  rw [hc.cur] at hq hr
  exact ⟨hq.trans hc.queue, hr.trans hc.run⟩

theorem slotFree_sramRead (s : State) (qs : List Nat) (k : Sock) (dv : Bool) : (s.sramRead s.cur qs).2.self.slotFree k dv = s.self.slotFree k dv :=
  slotFree_queue (sramRead_frame s qs).queue (sramRead_frame s qs).run k dv

theorem slotFree_onSelf {s : State} {f : Tile → Tile} (hq : ∀ t, (f t).queue = t.queue) (hr : ∀ t, (f t).run = t.run) (k : Sock) (dv : Bool) :
    (s.onSelf f).self.slotFree k dv = s.self.slotFree k dv := by
  rw [self_onSelf]
  exact slotFree_queue (hq s.self) (hr s.self) k dv

/-- A LOAD, from the run of its meaning. -/
theorem loadsLocal_of {f : Start → List Byte → Res} (hs : specOf i = some sp) (hi : headOf i = some (h, none)) (hk : sp.sock = .ls)
    (ho : sp.opnd = some o) (hr : ∀ st s, sp.run st { st := s } = lsRead st { st := s } sz (elems st) (ps st) (f st)) :
    LoadsLocal i h o sz elems ps f := by
  refine ⟨runs_of (Bundles.exec_of_spec hs) hi hk ho Sock.noConfusion fun st s hst hq ⟨he, hb⟩ => ?sound,
    runs_of (Bundles.exec_of_spec hs) hi hk ho Sock.noConfusion fun st s hst hq ⟨he, hb⟩ => ?bad,
    checksElements_of hs hi hk ho fun st s e hc => ?fault⟩
  case sound =>
    rw [hr, lsRead, lsCheck_ok he]
    dsimp only
    rw [if_neg (Bool.eq_false_iff.mp hb)]
    exact deliver_spec fun hl => by rw [slotFree_sramRead, hst]; exact hq hl
  case bad =>
    rw [hr, lsRead, lsCheck_ok he]
    dsimp only
    rw [if_pos hb]
    obtain ⟨hqueue, hrun⟩ := queue_noteCause_correct s (ps st) (lateBad st s.tick)
    exact deliver_spec fun hl => by rw [slotFree_queue hqueue hrun, hst]; exact hq hl
  case fault => rw [hr, lsRead, hc]

theorem queue_write (t : Tile) (ws : List (Nat × Byte)) (qs : List Nat) :
    ((t.sramWrite ws).touchZones qs).queue = t.queue ∧ ((t.sramWrite ws).touchZones qs).run = t.run := by
  unfold Tile.touchZones
  split <;> exact ⟨rfl, rfl⟩

/-- A STORE, from the run of its meaning. -/
theorem storesLocal_of {ws : Start → List (List (Nat × Byte))} (hs : specOf i = some sp) (hi : headOf i = some (h, none)) (hk : sp.sock = .ls)
    (ho : sp.opnd = some o) (hr : ∀ st s, sp.run st { st := s } = lsWrite st { st := s } sz (elems st) (ws st)) : StoresLocal i h o sz elems ws := by
  refine ⟨runs_of (Bundles.exec_of_spec hs) hi hk ho Sock.noConfusion fun st s hst hq ⟨he, hw⟩ => ?sound,
    traps_of (Bundles.exec_of_spec hs) hi hk ho Sock.noConfusion fun st s _ _ ⟨he, w, hm, hw⟩ => ?bad,
    checksElements_of hs hi hk ho fun st s e hc => ?fault⟩
  case sound =>
    rw [hr, lsWrite, lsCheck_ok he]
    dsimp only
    rw [if_pos (List.all_eq_true.mpr hw)]
    refine performNow_spec fun hl => ?_
    rw [slotFree_onSelf (fun t => (queue_write t _ _).1) (fun t => (queue_write t _ _).2), hst]
    exact hq hl
  case bad =>
    rw [hr, lsWrite, lsCheck_ok he]
    dsimp only
    rw [if_neg fun ha => Bool.eq_false_iff.mp hw (List.all_eq_true.mp ha w hm)]
  case fault => rw [hr, lsWrite, hc]

/-- A LOCAL ATOMIC, from its meaning. -/
theorem atomicLocal_of {m : LMod} {sg : Bool} {f : AtomicFn} (hs : specOf i = some (lsAtomic o m sg f)) (hi : headOf i = some (h, none)) :
    AtomicLocal i h o m sg f := by
  refine ⟨runs_of (Bundles.exec_of_spec hs) hi rfl rfl Sock.noConfusion fun st s hst hq ⟨he, hb⟩ => ?sound,
    traps_of (Bundles.exec_of_spec hs) hi rfl rfl Sock.noConfusion fun st s _ _ ⟨he, hb⟩ => ?bad,
    checksElements_of hs hi rfl rfl fun st s e hc => ?fault⟩
  case sound =>
    dsimp only [lsAtomic]
    rw [lsCheck_ok he]
    dsimp only
    rw [if_neg (Bool.eq_false_iff.mp hb)]
    refine deliver_spec fun hl => ?_
    have hfree : (s.sramRead s.cur (layoutSpan m.layout (lsAddr st) (isizeBytes m.size))).2.self.slotFree st.sock false = true := by
      rw [slotFree_sramRead, hst]; exact hq hl
    dsimp only
    split
    · rw [slotFree_onSelf (fun t => (queue_write t _ _).1) (fun t => (queue_write t _ _).2)]
      exact hfree
    · exact hfree
  case bad =>
    dsimp only [lsAtomic]
    rw [lsCheck_ok he]
    exact if_pos hb
  case fault =>
    dsimp only [lsAtomic]
    rw [hc]

end

/-- Bytes that are sound and specified read as they are stored, and the read changes nothing (R216). -/
theorem sramRead_sound {s : State} {a : Nat} {ps : List Nat} (hs : ∀ p ∈ ps, (s.tileAt a).soft.contains (p / 8) = false)
    (hu : ∀ p ∈ ps, (s.tileAt a).isUnspec p = false) : s.sramRead a ps = (ps.map (cellsRead (s.tileAt a).sram), s) := by
  have hcorrect : s.correct a ps = s := by
    have hnone : (wordsOf ps).filter (s.tileAt a).soft.contains = [] := by
      rw [List.filter_eq_nil_iff]
      intro w hw
      obtain ⟨p, hp, rfl⟩ := List.mem_map.mp (List.mem_eraseDups.mp hw)
      rw [hs p hp]
      exact Bool.false_ne_true
    unfold State.correct
    dsimp only
    rw [hnone]
    rfl
  have hspec : ps.any (s.tileAt a).isUnspec = false := List.any_eq_false.mpr fun p hp => by rw [hu p hp]; exact Bool.false_ne_true
  unfold State.sramRead
  dsimp only
  rw [hspec, hcorrect]
  rfl

theorem gatherLanes_width (m : LMod) : (gatherLanes m).2 = if isizeBytes m.size ≤ 4 then 32 else 64 := by
  unfold gatherLanes
  split <;> rfl

/-- Settles O21: each load is one read of the bytes of its elements, and sound bytes read as they are stored. -/
theorem localLoads : Obligations.LocalLoads := by
  refine ⟨fun h m => ⟨loadsLocal_of rfl rfl rfl rfl fun _ _ => rfl, loadsLocal_of rfl rfl rfl rfl fun st s => ?gather⟩,
    fun h l => ⟨loadsLocal_of rfl rfl rfl rfl fun _ _ => rfl, loadsLocal_of rfl rfl rfl rfl fun _ _ => rfl⟩, fun _ _ _ => sramRead_sound⟩
  case gather => rw [← gatherLanes_width]; rfl

/-- The last write to an address decides what it reads (R216). -/
theorem cellsRead_writes {ws : List (Nat × Byte)} {p : Nat} : ∀ {m : List Host.Cell}, cellsWf m = true →
    cellsRead (ws.foldl (fun m w => cellsWrite m w.1 w.2) m) p = ((ws.reverse.find? fun w => w.1 == p).map (·.2)).getD (cellsRead m p) := by
  induction ws with
  | nil => intro m _; rfl
  | cons w ws ih =>
    intro m h
    rw [List.foldl_cons, ih (cellsWf_write h), List.reverse_cons, List.find?_append, cellsRead_write h]
    cases ws.reverse.find? (fun w => w.1 == p) with
    | some x => rfl
    | none =>
      by_cases hp : w.1 = p
      · simp [hp]
      · simp [hp, Ne.symm hp]

/-- A write clears the error of a word that it covers whole, and of no other (R216). -/
theorem sramWrite_bad (t : Tile) (ws : List (Nat × Byte)) (w : Nat) : (t.sramWrite ws).bad.contains w =
    (t.bad.contains w && !(List.range 8).all fun k => (ws.map (·.1)).contains (8 * w + k)) := by
  have hmem : ((List.range 8).all fun k => (ws.map (·.1)).contains (8 * w + k)) = true → w ∈ wordsOf (ws.map (·.1)) := by
    intro hall
    have h0 := List.all_eq_true.mp hall 0 (by decide)
    exact List.mem_eraseDups.mpr (List.mem_map.mpr ⟨8 * w + 0, List.contains_iff_mem.mp h0, by omega⟩)
  have hcov : ((wordsOf (ws.map (·.1))).filter fun w => (List.range 8).all fun k => (ws.map (·.1)).contains (8 * w + k)).contains w
      = (List.range 8).all fun k => (ws.map (·.1)).contains (8 * w + k) := by
    rw [Bool.eq_iff_iff, List.contains_iff_mem, List.mem_filter]
    exact ⟨And.right, fun hall => ⟨hmem hall, hall⟩⟩
  rw [← hcov, Bool.eq_iff_iff, Bool.and_eq_true, List.contains_iff_mem, List.contains_iff_mem]
  exact List.mem_filter

/-- Settles O22: each store is one write of the bytes of its elements; what is read after it, and which errors it clears, by the addresses that it names. -/
theorem localStores : Obligations.LocalStores := by
  refine ⟨fun h m => ⟨storesLocal_of rfl rfl rfl rfl fun _ _ => rfl, storesLocal_of rfl rfl rfl rfl fun st s => ?scatter⟩,
    fun h l => ⟨storesLocal_of rfl rfl rfl rfl fun _ _ => rfl, storesLocal_of rfl rfl rfl rfl fun _ _ => rfl⟩,
    fun _ _ _ => cellsRead_writes, sramWrite_bad⟩
  case scatter => rw [← gatherLanes_width]; rfl

/-- Settles O23: the meaning of each is the local atomic of its function. -/
theorem localAtomics : Obligations.LocalAtomics := fun _ _ =>
  ⟨atomicLocal_of rfl rfl, atomicLocal_of rfl rfl, atomicLocal_of rfl rfl, atomicLocal_of rfl rfl, atomicLocal_of rfl rfl, atomicLocal_of rfl rfl,
    atomicLocal_of rfl rfl⟩

end Sys2Proof.Proofs.LocalMemory
end

section
/-! PROOF. Streams, rings and fillers of `ag`: what opens, steps, pushes, pops and waits, and which checks trap (R226 to R235, Table 10.6). -/

namespace Sys2Proof.Proofs.LocalMemory

open Sys2Proof Sys2Proof.Machine Sys2Proof.Laws

/-! ## Triggers of `ag` -/

theorem ringFault_eq (n : BitVec 3) : ringFault n = .trap .ringFault 0 (n.setWidth 64) := by
  rw [ringFault, BitVec.ofNat_toNat]

theorem patternFault_eq (p : BitVec 5) : patternFault p.toNat = .trap .ringFault 0 (0x8000 + p.setWidth 64 * 256) := by
  have h : BitVec.ofNat 64 (0x8000 + p.toNat * 256) = 0x8000 + p.setWidth 64 * 256 := by
    rw [← BitVec.ofNat_toNat, BitVec.ofNat_add, BitVec.ofNat_mul]
    rfl
  rw [patternFault, h]

section
variable {st : Start} {s u : State} (hst : st.sock = .ag) (hq : st.locked = true → s.self.slotFree .ag false = true)
include hst hq

/-- A result on `.x` is put on its way where the queue of the tile has stayed. -/
theorem deliver_queue (lat : Nat) (r : Res) (late : Option Pending) (hu : u.self.queue = s.self.queue ∧ u.self.run = s.self.run) :
    deliver st false lat r late { st := u } = .ok (leaves (u.delivered st lat r late)) :=
  deliver_spec fun hl => by rw [slotFree_queue hu.1 hu.2, hst]; exact hq hl

theorem performNow_queue (r : Res) (hu : u.self.queue = s.self.queue ∧ u.self.run = s.self.run) :
    performNow st r { st := u } = .ok (leaves (u.performedNow st r)) :=
  performNow_spec fun hl => by rw [slotFree_queue hu.1 hu.2, hst]; exact hq hl

end

/-- An update of the served tile that leaves its command queue and its running bank. -/
theorem onSelf_queue (s : State) {f : Tile → Tile} (hf : (f s.self).queue = s.self.queue ∧ (f s.self).run = s.self.run) :
    (s.onSelf f).self.queue = s.self.queue ∧ (s.onSelf f).self.run = s.self.run := by
  rw [self_onSelf]
  exact hf

theorem setRing_queue {s u : State} (hu : u.self.queue = s.self.queue ∧ u.self.run = s.self.run) (n : BitVec 3) (g : Tile → Ring) :
    (u.onSelf fun t => t.setRing n (g t)).self.queue = s.self.queue ∧ (u.onSelf fun t => t.setRing n (g t)).self.run = s.self.run := by
  rw [self_onSelf]
  exact hu

/-- A RING CONDITION THAT IS NOT MET, from the run of the trigger's meaning (R229). -/
theorem ringWaits_of {i : Instr} {sp : Spec} {h : Head} {o : Option Opnd} {n : BitVec 3} {no : Start → State → Prop} (hs : specOf i = some sp)
    (hi : headOf i = some (h, none)) (hk : sp.sock = .ag) (ho : sp.opnd = o)
    (hr : ∀ st s, no st s → sp.run st { st := s } = .error (ringWait st n)) : RingWaits i h o n no := by
  refine ⟨traps_of (Bundles.exec_of_spec hs) hi hk ho Sock.noConfusion fun st s _ _ ⟨hno, hl⟩ => ?_,
    stalls_of (Bundles.exec_of_spec hs) hi hk ho Sock.noConfusion fun st s _ hl hno => ?_⟩
  · rw [hr st s hno, ringWait, hl, if_neg Bool.false_ne_true, ringFault_eq]
  · rw [hr st s hno, ringWait, hl, if_pos rfl]

/-! ## Streams (R230, R231) -/

/-- The addresses of a pattern of one dimension. -/
theorem addr_of_one_dim {p : Pattern} {b0 len : Nat} {stride : Int} {i : Nat} (hp : p.dims = [(len, stride)]) (hi : i < len) :
    p.count = len ∧ p.addr b0 i = ((((b0 + p.base : Nat) : Int) + i * stride).emod (2 ^ 64 : Nat)).toNat := by
  have hoff : elemOffset [(len, stride)] i = i * stride := by
    rw [elemOffset, if_neg (by omega), Nat.mod_eq_of_lt hi]
    exact add_zero _
  exact ⟨by rw [Pattern.count, hp]; exact Nat.one_mul len, by rw [Pattern.addr, hp, hoff]⟩

section
variable {st : Start} {s : State}

theorem sopen_run {p : BitVec 5} {x : Pattern} {c : BitVec 2} (hc : st.b.setWidth 2 = c) (hx : s.self.pattern p.toNat = some x) :
    (specSopen p).run st { st := s } =
      performNow st { y := some (BitVec.ofNat 512 (cap64 x.count)), s := if x.count = 0 then 8 else 0 }
        { st := s.onSelf fun t => { t with cursors := t.cursors.set c.toNat (some { pat := x, base := st.natA 64, idx := 0 }) c.isLt } } := by
  subst hc
  unfold specSopen
  dsimp only
  rw [hx]
  rfl

theorem sopen_run_none {p : BitVec 5} (hx : s.self.pattern p.toNat = none) : (specSopen p).run st { st := s } = .error (patternFault p.toNat) := by
  unfold specSopen
  dsimp only
  rw [hx]

theorem sstep_run_none {c : BitVec 2} (hc : st.a.setWidth 2 = c) (hu : s.self.cursors[c.toNat]'c.isLt = none) :
    specSstep.run st { st := s } = .error (.trap .ringFault 0 0) := by
  subst hc
  unfold specSstep
  dsimp only
  rw [hu]

theorem sstep_run {c : BitVec 2} {u : Cursor} (hc : st.a.setWidth 2 = c) (hu : s.self.cursors[c.toNat]'c.isLt = some u) :
    specSstep.run st { st := s } =
      if u.idx ≥ u.pat.count then deliver st false 1 (scalar 0 agEnd) none { st := s }
      else deliver st false 1 (scalar (BitVec.ofNat 64 (u.pat.addr u.base u.idx)) (if u.idx + 1 = u.pat.count then 4 else 0)) none
        { st := s.onSelf fun t => { t with cursors := t.cursors.set c.toNat (some { u with idx := u.idx + 1 }) c.isLt } } := by
  subst hc
  unfold specSstep
  dsimp only
  rw [hu]
  rfl

end

/-- Settles O25: `sopen` by whether its pattern is there, `sstep` by what stands in its cursor. -/
theorem streams : Obligations.Streams := by
  have hm : Sock.ag ≠ .mx := Sock.noConfusion
  refine ⟨fun h p x => runs_of (fun _ => rfl) rfl rfl rfl hm fun st s hst hq hx => ?opens,
    fun h p => traps_of (fun _ => rfl) rfl rfl rfl hm fun st s _ _ hx => ?noPattern,
    fun h c u => ⟨runs_of (fun _ => rfl) rfl rfl rfl hm fun st s hst hq ⟨hc, hu, he⟩ => ?ended,
      runs_of (fun _ => rfl) rfl rfl rfl hm fun st s hst hq ⟨hc, hu, he⟩ => ?steps,
      traps_of (fun _ => rfl) rfl rfl rfl hm fun _ _ _ _ ⟨hc, hu⟩ => sstep_run_none hc hu⟩,
    fun _ _ _ _ _ => addr_of_one_dim⟩
  case opens => exact (sopen_run rfl hx).trans (performNow_queue hst hq _ (onSelf_queue s ⟨rfl, rfl⟩))
  case noPattern => exact (sopen_run_none hx).trans (by rw [patternFault_eq])
  case ended => exact (sstep_run hc hu).trans ((if_pos he).trans (deliver_queue hst hq 1 _ none ⟨rfl, rfl⟩))
  case steps => exact (sstep_run hc hu).trans ((if_neg (by omega)).trans (deliver_queue hst hq 1 _ none (onSelf_queue s ⟨rfl, rfl⟩)))

/-! ## Rings (R226, R227, R229, R232, R233, R235) -/

/-- A ring that is not valid faults in both modes (R229). -/
theorem ringInvalid_traps {i : Instr} {h : Head} {o : Option Opnd} {n : BitVec 3} {sp : Spec} (hs : specOf i = some sp) (hi : headOf i = some (h, none))
    (hk : sp.sock = .ag) (ho : sp.opnd = o) (hr : ∀ st s, (s.self.ring n).valid = false → sp.run st { st := s } = .error (ringFault n)) :
    Traps i h .ag o (fun _ s => (s.self.ring n).valid = false) .ringFault (fun _ => 0) (fun _ => n.setWidth 64) :=
  traps_of (Bundles.exec_of_spec hs) hi hk ho Sock.noConfusion fun st s _ _ hv => (hr st s hv).trans (by rw [ringFault_eq])

section
variable {st : Start} {s : State} {n : BitVec 3}

/-- The check that comes first in every operation on a ring but `rinit` and `rstat`. -/
theorem ring_valid {x : Except Stop Issue} (hv : (s.self.ring n).valid = true) :
    (if !(s.self.ring n).valid then Except.error (ringFault n) else x) = x := by rw [hv]; rfl

theorem ring_invalid {x : Except Stop Issue} (hv : (s.self.ring n).valid = false) :
    (if !(s.self.ring n).valid then Except.error (ringFault n) else x) = .error (ringFault n) := by rw [hv]; rfl

theorem rinit_waits (hw : (s.self.ring n).filler.isSome = true ∨ s.self.ringBound n = true) :
    (specRinit n).run st { st := s } = .error (ringWait st n) := if_pos (Bool.or_eq_true_iff.mpr hw)

theorem rinit_free {x y : Except Stop Issue} (hf : (s.self.ring n).filler = none) (hb : s.self.ringBound n = false) :
    (if (s.self.ring n).filler.isSome || s.self.ringBound n then x else y) = y := by rw [hf, hb]; rfl

theorem rpush_waits (hv : (s.self.ring n).valid = true)
    (hw : (s.self.ring n).filler.isSome = true ∨ (s.self.ring n).lines < (s.self.ring n).count + 1) :
    (specRpush n).run st { st := s } = .error (ringWait st n) :=
  (ring_valid hv).trans (if_pos (Bool.or_eq_true_iff.mpr (hw.imp_right decide_eq_true)))

theorem rpush_runs (hv : (s.self.ring n).valid = true) (hf : (s.self.ring n).filler = none) (hl : (s.self.ring n).count + 1 ≤ (s.self.ring n).lines) :
    (specRpush n).run st { st := s } = performNow st { s := ringStatus ((s.self.pushLine n (bytesOf st.a)).ring n) }
      { st := s.onSelf fun t => t.pushLine n (bytesOf st.a) } := by
  refine (ring_valid hv).trans ((if_neg ?_).trans ?_)
  · rw [hf, decide_eq_false (Nat.not_lt.mpr hl)]
    exact Bool.false_ne_true
  · dsimp only
    rw [self_onSelf]
    rfl

theorem rpop_waits (hv : (s.self.ring n).valid = true) (hw : (s.self.ring n).count = 0 ∨ s.self.ringBound n = true) :
    (specRpop n).run st { st := s } = .error (ringWait st n) :=
  (ring_valid hv).trans (if_pos (Bool.or_eq_true_iff.mpr (hw.imp_left decide_eq_true)))

theorem rpop_ready {x y : Except Stop Issue} (hc : (s.self.ring n).count ≠ 0) (hb : s.self.ringBound n = false) :
    (if (s.self.ring n).count = 0 || s.self.ringBound n then x else y) = y := by rw [hb, decide_eq_false hc]; rfl

theorem rdrop_waits (hv : (s.self.ring n).valid = true) (hk : st.natA 32 ≠ 0) (hw : (s.self.ring n).count < st.natA 32 ∨ s.self.ringBound n = true) :
    (specRdrop n).run st { st := s } = .error (ringWait st n) :=
  (ring_valid hv).trans ((if_neg hk).trans (if_pos (Bool.or_eq_true_iff.mpr (hw.imp_left decide_eq_true))))

end

theorem engineWrite_queue (t : Tile) (ws : List (Nat × Byte)) : (t.engineWrite ws).queue = t.queue ∧ (t.engineWrite ws).run = t.run := by
  unfold Tile.engineWrite
  split <;> exact ⟨rfl, rfl⟩

/-! ## What a push stores (R226, R227) -/

theorem engineWrite_sound {t : Tile} {ws : List (Nat × Byte)} (hb : t.badWords (ws.map (·.1)) = false) : t.engineWrite ws = t.sramWrite ws := by
  unfold Tile.engineWrite
  split
  · rfl
  · dsimp only
    refine congrArg t.sramWrite (List.filter_eq_self.mpr fun w hw => ?_)
    have hsound : t.bad.contains (w.1 / 8) = false := by
      simpa using List.any_eq_false.mp hb w.1 (List.mem_map_of_mem hw)
    rw [hsound]
    rfl

/-- Writes to different addresses read back. -/
theorem cellsRead_writes_mem {p : Nat} {v : Byte} {ws : List (Nat × Byte)} : ∀ {m : List Host.Cell}, cellsWf m = true → (ws.map (·.1)).Nodup →
    (p, v) ∈ ws → cellsRead (ws.foldl (fun m w => cellsWrite m w.1 w.2) m) p = v := by
  induction ws with
  | nil => intro m _ _ h; cases h
  | cons w ws ih =>
    intro m hm hn hw
    rw [List.map_cons, List.nodup_cons] at hn
    obtain ⟨hnot, hn⟩ := hn
    rw [List.foldl_cons]
    obtain rfl | hw := List.mem_cons.mp hw
    · rw [cellsRead_writes_other (cellsWf_write hm) fun x hx he => hnot (List.mem_map.mpr ⟨x, hx, he⟩), cellsRead_write hm, if_pos rfl]
    · exact ih (cellsWf_write hm) hn hw

theorem length_layoutSpan (l : Layout) (a n : Nat) : (layoutSpan l a n).length = n := by rw [layoutSpan, List.length_map, List.length_range]

theorem mem_layoutSpan {l : Layout} {a n p : Nat} : p ∈ layoutSpan l a n ↔ ∃ k < n, layoutMap l (a + k) = p := by
  simp [layoutSpan]

theorem layoutSpan_nodup (l : Layout) (a n : Nat) : (layoutSpan l a n).Nodup :=
  List.nodup_range.map fun _ _ h => Nat.add_left_cancel (layoutMap_injective l h)

section
variable {t : Tile} {n : BitVec 3} {bs : List Byte} (hl : bs.length = 64)
include hl

theorem pushLine_span : ((((t.ring n).lineSpan (t.ring n).tail).zip bs).map (·.1)) = (t.ring n).lineSpan (t.ring n).tail :=
  List.map_fst_zip (by rw [hl]; exact (length_layoutSpan ..).le)

theorem pushLine_sound (hb : t.badWords ((t.ring n).lineSpan (t.ring n).tail) = false) :
    t.pushLine n bs = (t.sramWrite (((t.ring n).lineSpan (t.ring n).tail).zip bs)).setRing n (t.ring n).pushed := by
  unfold Tile.pushLine
  dsimp only
  rw [engineWrite_sound (by rw [pushLine_span hl]; exact hb)]

end

theorem ring_setRing (t : Tile) (n : BitVec 3) (r : Ring) : (t.setRing n r).ring n = r := by simp [Tile.ring, Tile.setRing]

theorem ring_setRing_other (t : Tile) {m n : BitVec 3} (r : Ring) (h : m ≠ n) : (t.setRing n r).ring m = t.ring m := by
  simp only [Tile.ring, Tile.setRing]
  rw [Vector.getElem_set_ne]
  exact fun e => h (BitVec.eq_of_toNat_eq e.symm)

/-- What a line pushed on sound words leaves: its bytes at the tail, the ring one line longer, and the rest. -/
theorem pushLine_spec {t : Tile} {n : BitVec 3} {bs : List Byte} {k : Nat} (hw : cellsWf t.sram = true) (hl : bs.length = 64) (hk : k < 64)
    (hb : t.badWords ((t.ring n).lineSpan (t.ring n).tail) = false) :
    let r := t.ring n
    let u := t.pushLine n bs
    cellsRead u.sram (layoutMap r.layout (r.base + 64 * r.tail + k)) = bs.getD k 0
      ∧ (u.ring n).tail = (r.tail + 1) % max r.lines 1 ∧ (u.ring n).count = r.count + 1 ∧ (u.ring n).head = r.head
      ∧ (∀ p, (∀ j, j < 64 → p ≠ layoutMap r.layout (r.base + 64 * r.tail + j)) → cellsRead u.sram p = cellsRead t.sram p)
      ∧ (∀ m, m ≠ n → u.ring m = t.ring m) ∧ u.banks = t.banks := by
  intro r u
  have hu : u = (t.sramWrite ((r.lineSpan r.tail).zip bs)).setRing n r.pushed := pushLine_sound hl hb
  have hring : u.ring n = r.pushed := by rw [hu, ring_setRing]
  refine ⟨?stored, by rw [hring]; rfl, by rw [hring]; rfl, by rw [hring]; rfl, fun p hp => ?others,
    fun m hm => by rw [hu, ring_setRing_other _ _ hm]; rfl, by rw [hu]; rfl⟩
  case stored =>
    have hlen : k < (r.lineSpan r.tail).length := by rw [Ring.lineSpan, length_layoutSpan]; exact hk
    have hmem : (layoutMap r.layout (r.base + 64 * r.tail + k), bs.getD k 0) ∈ (r.lineSpan r.tail).zip bs := by
      have hz : k < ((r.lineSpan r.tail).zip bs).length := by rw [List.length_zip]; omega
      have := List.getElem_mem hz
      rw [List.getElem_zip] at this
      simpa [Ring.lineSpan, layoutSpan, List.getD_eq_getElem, hl, hk] using this
    rw [hu]
    exact cellsRead_writes_mem hw (by rw [pushLine_span hl]; exact layoutSpan_nodup ..) hmem
  case others =>
    rw [hu]
    refine cellsRead_writes_other hw fun w hm he => ?_
    obtain ⟨j, hj, hp'⟩ := mem_layoutSpan.mp (List.of_mem_zip hm).1
    exact hp j hj (he.symm.trans hp'.symm)

/-- Settles O26: each operation by the checks that it passes or fails, a pushed line by the addresses of its bytes, which are all different. -/
theorem rings : Obligations.Rings := by
  have hm : Sock.ag ≠ .mx := Sock.noConfusion
  refine ⟨fun h n => ⟨?inits, ?badExtent, ?initWaits⟩, fun h n => ⟨?pushes, ?pushWaits⟩, fun h n => ⟨?pops, ?popsBad, ?popWaits⟩,
    fun h n => ⟨?dropsNone, ?drops, ?dropWaits⟩, fun h n => ?stat, fun h n => ⟨?pushInvalid, ?popInvalid, ?dropInvalid, ?fillInvalid⟩,
    fun _ _ _ _ => pushLine_spec, fun _ _ => ⟨rfl, rfl, rfl⟩, fun _ => rfl⟩
  case inits =>
    refine runs_of (fun _ => rfl) rfl rfl rfl hm fun st s hst hq ⟨hf, hb, hv⟩ => (rinit_free hf hb).trans ((if_neg fun hbad => ?_).trans ?_)
    · obtain ⟨hvalid, hbad⟩ := Bool.and_eq_true_iff.mp hbad
      exact Bool.eq_false_iff.mp (hv hvalid) hbad
    · exact performNow_queue hst hq _ (onSelf_queue s ⟨rfl, rfl⟩)
  case badExtent =>
    exact traps_of (fun _ => rfl) rfl rfl rfl hm fun st s _ _ ⟨hf, hb, hv, hbad⟩ =>
      (rinit_free hf hb).trans ((if_pos (Bool.and_eq_true_iff.mpr ⟨hv, hbad⟩)).trans (by rw [ringFault_eq]))
  case initWaits => exact ringWaits_of rfl rfl rfl rfl fun _ _ => rinit_waits
  case pushes =>
    exact runs_of (fun _ => rfl) rfl rfl rfl hm fun st s hst hq ⟨hv, hf, hl⟩ =>
      (rpush_runs hv hf hl).trans (performNow_queue hst hq _ (onSelf_queue s (engineWrite_queue ..)))
  case pushWaits => exact ringWaits_of rfl rfl rfl rfl fun _ _ ⟨hv, hw⟩ => rpush_waits hv hw
  case pops =>
    refine runs_of (fun _ => rfl) rfl rfl rfl hm fun st s hst hq ⟨⟨hv, hc, hb⟩, hbad⟩ => (ring_valid hv).trans ((rpop_ready hc hb).trans ?_)
    have hr := sramRead_frame s ((s.self.ring n).lineSpan (s.self.ring n).head)
    exact (if_neg (Bool.eq_false_iff.mp hbad)).trans (deliver_queue hst hq 1 _ none (setRing_queue ⟨hr.queue, hr.run⟩ n _))
  case popsBad =>
    refine runs_of (fun _ => rfl) rfl rfl rfl hm fun st s hst hq ⟨⟨hv, hc, hb⟩, hbad⟩ => (ring_valid hv).trans ((rpop_ready hc hb).trans ?_)
    exact (if_pos hbad).trans (deliver_queue hst hq 1 _ _ (setRing_queue (queue_noteCause_correct s _ _) n _))
  case popWaits => exact ringWaits_of rfl rfl rfl rfl fun _ _ ⟨hv, hw⟩ => rpop_waits hv hw
  case dropsNone =>
    exact runs_of (fun _ => rfl) rfl rfl rfl hm fun st s hst hq ⟨hv, hk⟩ =>
      (ring_valid hv).trans ((if_pos hk).trans (performNow_queue hst hq _ ⟨rfl, rfl⟩))
  case drops =>
    refine runs_of (fun _ => rfl) rfl rfl rfl hm fun st s hst hq ⟨hv, hk, hc, hb⟩ => (ring_valid hv).trans ((if_neg hk).trans ((if_neg ?_).trans ?_))
    · rw [hb, decide_eq_false (Nat.not_lt.mpr hc)]
      exact Bool.false_ne_true
    · exact performNow_queue hst hq _ (onSelf_queue s ⟨rfl, rfl⟩)
  case dropWaits => exact ringWaits_of rfl rfl rfl rfl fun _ _ ⟨hv, hk, hw⟩ => rdrop_waits hv hk hw
  case stat => exact runs_of (fun _ => rfl) rfl rfl rfl hm fun st s hst hq _ => deliver_queue hst hq 1 _ none ⟨rfl, rfl⟩
  case pushInvalid => exact ringInvalid_traps rfl rfl rfl rfl fun _ _ => ring_invalid
  case popInvalid => exact ringInvalid_traps rfl rfl rfl rfl fun _ _ => ring_invalid
  case dropInvalid => exact ringInvalid_traps rfl rfl rfl rfl fun _ _ => ring_invalid
  case fillInvalid => exact ringInvalid_traps rfl rfl rfl rfl fun _ _ => ring_invalid

/-! ## Fillers (R234) -/

theorem clearTag_getLsbD (t : Tile) {n m : Nat} (hn : n < 64) (hm : m < 64) : (t.clearTag n).tags.getLsbD m = (t.tags.getLsbD m && m != n) := by
  have hbit : (tagBit n).getLsbD m = (m == n) := by
    rw [tagBit, Nat.mod_eq_of_lt hn, BitVec.getLsbD_shiftLeft, BitVec.getLsbD_one]
    obtain h | h | h := lt_trichotomy m n
    · simp [h, h.ne]
    · simp [h, hn]
    · have hd : m - n ≠ 0 := by omega
      simp [hd, h.ne', hm, h.not_gt]
  rw [Tile.clearTag, BitVec.getLsbD_and, BitVec.getLsbD_not, hbit]
  simp [hm, bne]

/-- The filler that `rfill` starts, and the state with it as the producer of its ring. -/
def fillerOf (st : Start) (s : State) (p : Pattern) : Filler :=
  { pat := p, base := st.natA 64, idx := 0, stage := [], tag := BitVec.ofNat 6 (busBits st.b 13 8), isGlobal := false, scope := .tile,
    asid := s.self.asid, bank := st.bank, origin := st.origin, seq := st.seq, task := s.self.taskIn st.bank,
    due := s.tick + 1 + (if p.count = 0 then 0 else Config.delay s.free), commitAt := s.tick + 3 + Config.delay (s.free + 1), opId := 0 }

def filling (st : Start) (s : State) (n : BitVec 3) (p : Pattern) : State :=
  { s.onSelf fun t => (t.clearTag (busBits st.b 13 8 % 64)).setRing n { t.ring n with filler := some (fillerOf st s p) } with free := s.free + 2 }

theorem filling_queue (st : Start) (s : State) (n : BitVec 3) (p : Pattern) :
    (filling st s n p).self.queue = s.self.queue ∧ (filling st s n p).self.run = s.self.run :=
  onSelf_queue s (f := fun t => (t.clearTag (busBits st.b 13 8 % 64)).setRing n { t.ring n with filler := some (fillerOf st s p) }) ⟨rfl, rfl⟩

section
variable {st : Start} {s : State} {n : BitVec 3} (hv : (s.self.ring n).valid = true)
include hv

theorem rfill_noPattern (hp : s.self.pattern (busBits st.b 4 0) = none) :
    (specRfill n).run st { st := s } = .error (patternFault (busBits st.b 4 0)) := by
  refine (ring_valid hv).trans ?_
  dsimp only
  rw [hp]

variable {p : Pattern} (hp : s.self.pattern (busBits st.b 4 0) = some p)
include hp

theorem rfill_misaligned (hc : p.count ≠ 0) (ha : p.aligned (st.natA 64) = false) :
    (specRfill n).run st { st := s } = .error (.trap .misaligned (BitVec.ofNat 64 (st.natA 64 + p.base)) 0) := by
  refine (ring_valid hv).trans ?_
  dsimp only
  rw [hp]
  exact if_pos ⟨hc, by rw [ha]; rfl⟩

theorem rfill_outside (hc : p.count ≠ 0) (ha : p.aligned (st.natA 64) = true) (hl : p.inLocal (st.natA 64) = false) :
    (specRfill n).run st { st := s } = .error (.trap .localRange (BitVec.ofNat 64 (st.natA 64 + p.base)) 0) := by
  refine (ring_valid hv).trans ?_
  dsimp only
  rw [hp]
  exact (if_neg fun hx => by rw [ha] at hx; exact absurd hx.2 (by decide)).trans (if_pos ⟨hc, by rw [hl]; rfl⟩)

/-- Elements that are aligned and lie in local SRAM, or none, pass the checks of the pattern. -/
theorem rfill_sound (hs : p.count = 0 ∨ (p.aligned (st.natA 64) = true ∧ p.inLocal (st.natA 64) = true)) :
    (specRfill n).run st { st := s } = if (s.self.ring n).filler.isSome then .error (ringWait st n) else
      performNow st { y := some (BitVec.ofNat 512 (cap64 (p.count * 2 ^ p.esize))), s := ringStatus (s.self.ring n) }
        { st := filling st s n p } := by
  refine (ring_valid hv).trans ?_
  dsimp only
  rw [hp]
  refine (if_neg fun hx => ?_).trans ((if_neg fun hx => ?_).trans rfl)
  · obtain h0 | ⟨ha, -⟩ := hs
    · exact hx.1 h0
    · rw [ha] at hx; exact absurd hx.2 (by decide)
  · obtain h0 | ⟨-, hl⟩ := hs
    · exact hx.1 h0
    · rw [hl] at hx; exact absurd hx.2 (by decide)

end

/-- Settles O27: `rfill` by the checks of its pattern, in their order, and by whether the ring has a filler. -/
theorem fillerStarts : Obligations.FillerStarts := by
  have hm : Sock.ag ≠ .mx := Sock.noConfusion
  refine ⟨fun h n p => ⟨?starts, ?misaligned, ?outside, ?waits⟩, fun h n q => ?noPattern, fun t _ _ hn hm => clearTag_getLsbD t hn hm⟩
  case starts =>
    refine runs_of (fun _ => rfl) rfl rfl rfl hm fun st s hst hq ⟨⟨hv, hp⟩, hs, hf⟩ => (rfill_sound hv hp hs).trans ((if_neg ?_).trans ?_)
    · rw [hf]
      exact Bool.false_ne_true
    · exact performNow_queue hst hq _ (filling_queue st s n p)
  case misaligned => exact traps_of (fun _ => rfl) rfl rfl rfl hm fun _ _ _ _ ⟨⟨hv, hp⟩, hc, ha⟩ => rfill_misaligned hv hp hc ha
  case outside => exact traps_of (fun _ => rfl) rfl rfl rfl hm fun _ _ _ _ ⟨⟨hv, hp⟩, hc, ha, hl⟩ => rfill_outside hv hp hc ha hl
  case waits => exact ringWaits_of rfl rfl rfl rfl fun _ _ ⟨⟨hv, hp⟩, hs, hf⟩ => (rfill_sound hv hp hs).trans (if_pos hf)
  case noPattern =>
    exact traps_of (fun _ => rfl) rfl rfl rfl hm fun st s _ _ ⟨hv, hq, hp⟩ =>
      (rfill_noPattern hv (hq ▸ hp)).trans (by rw [hq, patternFault_eq])

end Sys2Proof.Proofs.LocalMemory
end

section
/-! PROOF. The canonical form of the memories: what keeps it in a tile and in the module, up to the issue of a bundle (R216, R262; DESIGN CHOICE, log 1). -/

namespace Sys2Proof.Proofs.MemoryForms

open Sys2Proof Sys2Proof.Machine Sys2Proof.Laws

/-! ## The form, by the parts of the state that hold memories -/

/-- The local memory of a tile has its canonical form. -/
def Sound (t : Tile) : Prop := cellsWf t.sram = true

/-- So have those that a pre-emption of the launch has saved. -/
def SavedSound (l : Launch) : Prop := ∀ t ∈ l.saved, Sound t

structure Forms (mem staging : List Host.Cell) (tiles : List Tile) (launches : List Launch) : Prop where
  mem : cellsWf mem = true
  staging : cellsWf staging = true
  tiles : ∀ t ∈ tiles, Sound t
  saved : ∀ l ∈ launches, SavedSound l

/-- The form of every memory, as a property of the four fields that hold them: an update of any other field keeps it by its very definition. -/
def Formed (s : State) : Prop := Forms s.mem s.staging s.tiles s.sch.launches

theorem formed_iff (s : State) : Formed s ↔ s.MemoryForm :=
  ⟨fun ⟨hm, hg, ht, hl⟩ => ⟨⟨hm, hg, ht⟩, hl⟩, fun ⟨⟨hm, hg, ht⟩, hl⟩ => ⟨hm, hg, ht, hl⟩⟩

/-! ## Updates of the module -/

theorem sound_cleared (a : Nat) : Sound { addr := a } := rfl

theorem sound_findTile {a : Nat} {l : List Tile} (h : ∀ t ∈ l, Sound t) : Sound (findTile a l) := by
  obtain he | hm := findTile_mem (a := a) (l := l)
  · rw [he]
    exact sound_cleared a
  · exact h _ hm

section
variable {s : State}

theorem formed_tileAt (h : Formed s) (a : Nat) : Sound (s.tileAt a) := sound_findTile h.tiles

theorem formed_self (h : Formed s) : Sound s.self := formed_tileAt h s.cur

theorem formed_tiles {ts : List Tile} (h : Formed s) (ht : ∀ t ∈ ts, Sound t) : Formed { s with tiles := ts } := ⟨h.mem, h.staging, ht, h.saved⟩

theorem formed_setTile {t : Tile} (h : Formed s) (ht : Sound t) : Formed (s.setTile t) :=
  formed_tiles h fun u hu => (putTile_mem hu).elim (fun e => e ▸ ht) (h.tiles u)

theorem formed_onTile {a : Nat} {f : Tile → Tile} (h : Formed s) (hf : ∀ t, Sound t → Sound (f t)) : Formed (s.onTile a f) :=
  formed_setTile h (hf _ (formed_tileAt h a))

theorem formed_onSelf {f : Tile → Tile} (h : Formed s) (hf : ∀ t, Sound t → Sound (f t)) : Formed (s.onSelf f) := formed_onTile h hf

/-- An update of a tile that leaves its local memory as it is. -/
theorem formed_onTile_of_sram {a : Nat} {f : Tile → Tile} (h : Formed s) (hf : ∀ t, (f t).sram = t.sram) : Formed (s.onTile a f) :=
  formed_onTile h fun t ht => (congrArg cellsWf (hf t)).trans ht

theorem formed_onSelf_of_sram {f : Tile → Tile} (h : Formed s) (hf : ∀ t, (f t).sram = t.sram) : Formed (s.onSelf f) := formed_onTile_of_sram h hf

theorem formed_mapTiles {f : Tile → Tile} (h : Formed s) (hf : ∀ t, Sound t → Sound (f t)) : Formed { s with tiles := s.tiles.map f } :=
  formed_tiles h fun u hu => by
    obtain ⟨t, ht, rfl⟩ := List.mem_map.mp hu
    exact hf t (h.tiles t ht)

theorem formed_mem {m : List Host.Cell} (h : Formed s) (hm : cellsWf m = true) : Formed { s with mem := m } := ⟨hm, h.staging, h.tiles, h.saved⟩

theorem formed_gWrite {pa : Nat} {bs : List Byte} (h : Formed s) : Formed (s.gWrite pa bs) := ⟨cellsWf_writeAll h.mem, h.staging, h.tiles, h.saved⟩

theorem formed_launches {ls : List Launch} (h : Formed s) (hl : ∀ l ∈ ls, SavedSound l) : Formed { s with sch := { s.sch with launches := ls } } :=
  ⟨h.mem, h.staging, h.tiles, hl⟩

end

theorem formed_foldl {α : Type} {f : State → α → State} {l : List α} {s : State} (hf : ∀ s x, Formed s → Formed (f s x)) (h : Formed s) :
    Formed (l.foldl f s) := List.foldlRecOn l f h fun s hs x _ => hf s x hs

theorem sound_foldl {α : Type} {f : Tile → α → Tile} {l : List α} {t : Tile} (hf : ∀ t x, Sound t → Sound (f t x)) (h : Sound t) :
    Sound (l.foldl f t) := List.foldlRecOn l f h fun t ht x _ => hf t x ht

/-- Updates of other fields, for use under a further update. -/
theorem formed_free {s : State} {n : Nat} (h : Formed s) : Formed { s with free := n } := h
theorem formed_sched {s : State} {lo : Nat} {span : Option Nat} {i : Instr} {e : EvArg} (h : Formed s) : Formed (s.sched lo span i e) := h
theorem formed_countErr {s : State} {a : Nat} {f : QuadErr → QuadErr} (h : Formed s) : Formed (s.countErr a f) := h
theorem sound_setHead {t : Tile} {o : MxOp} (h : Sound t) : Sound (t.setHead o) := h

/-! ## Errors and records -/

section
variable {s : State}

theorem formed_record {cls : Nat} {c : Cause} {unit who addr : Nat} {l : Dword} (h : Formed s) : Formed (s.record cls c unit who addr l) := by
  unfold State.record
  split
  · exact h
  · exact formed_mem h (cellsWf_writeAll h.mem)

theorem formed_corrected {n unit who : Nat} (h : Formed s) : Formed (s.corrected n unit who) := formed_foldl (fun _ _ h => formed_record h) h

theorem formed_noteCause {a : Nat} {p : Pending} (h : Formed s) : Formed (s.noteCause a p) := by
  have herr : ∀ i, Formed (s.onTile a fun t => t.errAdd i 1 0xFF) := fun i => formed_onTile_of_sram h fun _ => rfl
  unfold State.noteCause
  split
  · refine formed_record ?_
    split <;> exact herr 3
  · exact formed_record (herr 4)
  all_goals exact h

end

section
variable {t : Tile}

theorem sound_giveCause {p : Pending} (h : Sound t) : Sound (t.giveCause p) := by
  unfold Tile.giveCause
  split
  · split <;> exact h
  · exact h

theorem sound_landBank {k : BitVec 2} (h : Sound t) : Sound (t.landBank k) := by
  unfold Tile.landBank
  dsimp only
  split <;> exact h

theorem sound_passBank {q : Quad} {c : Tile} {k : BitVec 2} (h : Sound t) : Sound (t.passBank q c k) := by
  unfold Tile.passBank
  dsimp only
  split <;> exact h

theorem sound_raiseNow {now : Nat} {gang : Bool} {p : Pending} (h : Sound t) : Sound (t.raiseNow now gang p) := by
  unfold Tile.raiseNow
  split <;> exact h

theorem sound_takePending {now : Nat} {gang : Bool} {u : Tile} (h : Sound t) (hu : t.takePending now gang = some u) : Sound u := by
  unfold Tile.takePending at hu
  split at hu
  · cases hu
  · split at hu
    · cases hu
    · dsimp only at hu
      split at hu <;> (cases hu; exact h)

end

section
variable {s : State} {a : Nat}

theorem formed_bringCause {p : Pending} (h : Formed s) : Formed (s.bringCause a p) := by
  unfold State.bringCause
  split
  · exact formed_onTile h fun _ => sound_giveCause
  · exact formed_record h

theorem formed_lateCause {p : Pending} (h : Formed s) : Formed (s.lateCause a p) := formed_bringCause (formed_noteCause h)

/-! ## Local memory (R216) -/

theorem formed_correct {ps : List Nat} (h : Formed s) : Formed (s.correct a ps) := by
  unfold State.correct
  dsimp only
  split
  · exact h
  · exact formed_countErr (formed_onTile_of_sram h fun _ => rfl)

theorem formed_sramRead {ps : List Nat} (h : Formed s) : Formed (s.sramRead a ps).2 := by
  unfold State.sramRead
  dsimp only
  split <;> exact formed_correct h

end

section
variable {t : Tile}

theorem sound_sramWrite {ws : List (Nat × Byte)} (h : Sound t) : Sound (t.sramWrite ws) := LocalMemory.wf_sramWrite h ws

theorem sound_engineWrite {ws : List (Nat × Byte)} (h : Sound t) : Sound (t.engineWrite ws) := LocalMemory.wf_engineWrite h ws

theorem sound_touchZones {ps : List Nat} (h : Sound t) : Sound (t.touchZones ps) := by
  unfold Tile.touchZones
  split <;> exact h

theorem sound_pushLine {r : BitVec 3} {bs : List Byte} (h : Sound t) : Sound (t.pushLine r bs) := sound_engineWrite h

theorem sound_pushLines {r : BitVec 3} {n : Nat} {bs : List Byte} (h : Sound t) : Sound (t.pushLines r bs n) := by
  induction n generalizing t bs with
  | zero => exact h
  | succ n ih => exact ih (sound_pushLine h)

/-! ## Fillers and the `mx` sequence -/

theorem sound_fillerEnd {n : BitVec 3} {f : Filler} (h : Sound t) : Sound (t.fillerEnd n f) := by
  unfold Tile.fillerEnd
  dsimp only
  split
  · split
    · split <;> split <;> exact h
    · split <;> exact h
  · exact h

theorem sound_fillerPush {now d : Nat} {n : BitVec 3} {f : Filler} (h : Sound t) : Sound (t.fillerPush now d n f) := by
  unfold Tile.fillerPush
  dsimp only
  split
  · exact sound_fillerEnd h
  · split
    · exact h
    · split
      · split
        · exact sound_fillerEnd (sound_pushLines h)
        · exact sound_pushLines h
      · exact h

theorem sound_mxWord {now : Nat} {st : Start} {v : Dword} (h : Sound t) : Sound (t.mxWord now st v) := by
  unfold Tile.mxWord
  split <;> exact h

theorem sound_mxRow {now : Nat} {o : MxOp} (h : Sound t) : Sound (t.mxRow now o) := by
  unfold Tile.mxRow
  dsimp only
  split <;> exact h

theorem sound_mxCommit {now : Nat} {o : MxOp} (h : Sound t) : Sound (t.mxCommit now o) := by
  unfold Tile.mxCommit
  dsimp only
  split
  · split
    · exact sound_mxWord h
    · exact sound_mxWord (sound_setHead (sound_foldl (fun _ _ h => h) h))
  · exact sound_mxWord h
  · exact sound_mxWord h
  · exact sound_mxWord h
  · exact sound_mxWord h
  · exact h

end

section
variable {s : State} {a : Nat}

theorem formed_fillerGather {n : BitVec 3} {f : Filler} (h : Formed s) : Formed (s.fillerGather a n f).1 := by
  unfold State.fillerGather
  dsimp only
  split
  · exact formed_lateCause (formed_onTile_of_sram (formed_correct h) fun _ => rfl)
  · exact formed_free (formed_sramRead h)

theorem formed_fillerPush {n : BitVec 3} {f : Filler} (h : Formed s) : Formed (s.fillerPush a n f) :=
  formed_free (formed_onTile h fun _ => sound_fillerPush)

theorem formed_fillerStep {n : BitVec 3} (h : Formed s) : Formed (s.fillerStep a n) := by
  unfold State.fillerStep
  split
  · exact h
  · next f _ =>
    split
    · exact h
    · split
      · have hg := formed_fillerGather h (a := a) (n := n) (f := f)
        split
        next u hu => rw [hu] at hg; exact hg
        next u g hu => rw [hu] at hg; exact formed_fillerPush hg
      · exact formed_fillerPush h

theorem formed_mxAbandon {o : MxOp} {c : Cause} {d : Dword} (h : Formed s) : Formed (s.mxAbandon a o c d) :=
  formed_onTile_of_sram (formed_lateCause h) fun _ => rfl

theorem formed_mxReadLine {o : MxOp} {ps : List Nat} {keep : MxOp → Bus → MxOp} (h : Formed s) : Formed (s.mxReadLine a o ps keep) := by
  unfold State.mxReadLine
  split
  · exact formed_mxAbandon (formed_correct h)
  · exact formed_onTile_of_sram (formed_sramRead h) fun _ => rfl

/-- A row of an accumulator is stored, or the operation is abandoned. -/
theorem formed_rowWrite {o : MxOp} (h : Formed s) : Formed (if (s.tileAt a).writable (o.rowSpan o.cyc) then
    s.onTile a fun t => (t.sramWrite ((o.rowSpan o.cyc).zip (bytesOf (o.linesA.getD o.cyc 0)))).setHead o
    else s.mxAbandon a o .dataUncorrectable 0) := by
  split
  · exact formed_onTile h fun _ ht => sound_setHead (sound_sramWrite ht)
  · exact formed_mxAbandon h

theorem formed_mxAccess {o : MxOp} (h : Formed s) : Formed (s.mxAccess a o) := by
  unfold State.mxAccess
  split
  · split
    · exact h
    · split
      · exact h
      · split
        · exact h
        all_goals exact formed_mxReadLine h
  · exact h
  · exact h
  · split
    · exact formed_mxAbandon h
    · exact formed_onTile h fun _ => sound_mxRow
  · dsimp only
    split
    · exact formed_mxAbandon h
    · exact formed_rowWrite h
  · exact formed_mxReadLine h

theorem formed_mxCycle {o : MxOp} (h : Formed s) : Formed (s.mxCycle a o) := by
  have hx : Formed (s.mxAccess a o) := formed_mxAccess h
  unfold State.mxCycle
  dsimp only
  split
  · exact hx
  · split
    · exact formed_mxAbandon (formed_onTile_of_sram hx fun _ => rfl)
    · split
      · exact formed_onTile hx fun _ => sound_mxCommit
      · exact formed_onTile_of_sram hx fun _ => rfl

theorem formed_mxStart (h : Formed s) : Formed (s.mxStart a) := by
  unfold State.mxStart
  split
  · exact h
  · split
    · exact formed_mxCycle (formed_onTile_of_sram h fun _ => rfl)
    · exact h

theorem formed_mxTick {last : Bool} (h : Formed s) : Formed (s.mxTick a last) := by
  unfold State.mxTick
  split
  · exact h
  · split
    · exact formed_mxCycle h
    · exact h

theorem formed_mxIssueCycle {k : BitVec 2} (h : Formed s) : Formed (s.mxIssueCycle a k) := by
  have hp : Formed (s.onTile a fun t => t.mxPrune s.tick) := formed_onTile_of_sram h fun _ => rfl
  unfold State.mxIssueCycle
  dsimp only
  split
  · exact hp
  · split
    · split
      · exact formed_foldl (fun _ _ h => formed_fillerStep h) (formed_mxCycle (formed_onTile_of_sram hp fun _ => rfl))
      · exact formed_mxCycle (formed_onTile_of_sram hp fun _ => rfl)
    · exact hp

theorem formed_regCorrect {k : BitVec 2} {ps : List (Nat × Nat)} (h : Formed s) : Formed (s.regCorrect k ps) := by
  unfold State.regCorrect
  dsimp only
  split
  · exact formed_countErr (formed_onSelf_of_sram h fun _ => rfl)
  · exact h

end
end Sys2Proof.Proofs.MemoryForms
end

section
/-! PROOF. The canonical form of the memories over the issue of a bundle: its phases, the end of an issue cycle, gangs, and the bundle served (R110 to R135, R216). -/

namespace Sys2Proof.Proofs.MemoryForms

open Sys2Proof Sys2Proof.Machine Sys2Proof.Laws

/-! ## Tiles -/

section
variable {t : Tile} {now : Nat}

theorem sound_onBank {k : BitVec 2} {f : Strand → Strand} (h : Sound t) : Sound (t.onBank k f) := h
theorem sound_mxHalt {k : BitVec 2} (h : Sound t) : Sound (t.mxHalt k) := h
theorem sound_onTasks {f : Tasks → Tasks} (h : Sound t) : Sound (t.onTasks f) := h

theorem sound_wake (h : Sound t) : Sound (t.wake now) := by
  unfold Tile.wake
  split <;> exact h

theorem sound_tidleEnd {c : Upcall} {id : Nat} (h : Sound t) : Sound (t.tidleEnd now c id) := by
  unfold Tile.tidleEnd
  split
  · exact sound_wake h
  · exact h

theorem sound_makeReady {i : Nat} {head : Bool} (h : Sound t) : Sound (t.makeReady now i head) := by
  unfold Tile.makeReady
  dsimp only
  refine sound_tidleEnd ?_
  split
  · split <;> exact h
  · exact h

theorem sound_wakeTask {i : Nat} {w : Wake} (h : Sound t) : Sound (t.wakeTask now i w).1 := by
  have hr : Sound (t.makeReady now i false) := sound_makeReady h
  unfold Tile.wakeTask
  dsimp only
  split
  · split
    · exact h
    · exact hr
  · split
    · exact h
    · exact hr
  · exact h
  · exact h
  · split
    · exact hr
    · split <;> exact h
  · split
    · exact h
    · split <;> exact h
  · split <;> exact h
  · exact h
  · exact h

theorem sound_applyWakes {i : Nat} (h : Sound t) : Sound (t.applyWakes now i) := sound_foldl (fun _ _ => sound_wakeTask) (sound_onTasks h)

theorem sound_taskCycle (h : Sound t) : Sound t.taskCycle := by
  unfold Tile.taskCycle
  split <;> exact h

theorem sound_afterHalt {k : BitVec 2} (h : Sound t) : Sound (t.afterHalt now k) := by
  unfold Tile.afterHalt
  split
  · exact h
  · split <;> exact h

theorem sound_haltBank {k : BitVec 2} (h : Sound t) : Sound (t.haltBank now k) := sound_afterHalt (sound_mxHalt (sound_onBank (sound_landBank h)))

theorem sound_leave {gang : Bool} {form : Nat} (h : Sound t) : Sound (t.leave now gang form) := by
  unfold Tile.leave
  dsimp only
  split
  · split
    · split
      · split <;> exact h
      · exact h
    · split <;> exact h
  · split
    · exact sound_afterHalt (sound_mxHalt (sound_onBank h))
    · split <;> exact h

theorem sound_emptyPort {x : Src} (h : Sound t) : Sound (emptyPort t x) := by
  unfold emptyPort
  split
  · split <;> exact h
  · split
    · dsimp only
      split <;> exact h
    · exact h
  all_goals exact h

theorem sound_writeDst {v : Bus} {d : Dst} (h : Sound t) : Sound (writeDst t v d) := by
  cases d <;> exact h

theorem sound_writePhase {gots : List Got} (h : Sound t) : Sound (writePhase gots t) := by
  refine sound_foldl (fun u g hu => ?_) (sound_foldl (fun _ _ => sound_emptyPort) h)
  split
  · exact sound_writeDst hu
  · exact hu

theorem sound_landQueued {k : BitVec 2} (h : Sound t) : Sound (t.landQueued now k) := by
  unfold Tile.landQueued
  dsimp only
  split
  · refine sound_foldl (fun u o hu => ?_) h
    split <;> exact hu
  · exact h

end

theorem formed_ite {p : Prop} [Decidable p] {s u : State} (hs : Formed s) (hu : Formed u) : Formed (if p then s else u) := by
  split
  · exact hs
  · exact hu

/-! ## Triggers -/

/-- An outcome that is no stall and no trap has formed memories. -/
def FormedIssue (x : Except Stop Issue) : Prop := ∀ j, x = .ok j → Formed j.st

/-- A trigger keeps the form of the memories. -/
def FormedSpec (sp : Spec) : Prop := ∀ st i, Formed i.st → FormedIssue (sp.run st i)

theorem formedIssue_error {e : Stop} : FormedIssue (.error e) := fun _ he => nomatch he

theorem formedIssue_ok {j : Issue} (h : Formed j.st) : FormedIssue (.ok j) := fun _ he => by
  cases he
  exact h

/-- A check that may stop the trigger. -/
theorem formedIssue_check {p : Prop} [Decidable p] {e : Stop} {x : Except Stop Issue} (h : FormedIssue x) : FormedIssue (if p then .error e else x) := by
  split
  · exact formedIssue_error
  · exact h

section
variable {t0 : Tile} {origin next : Word} {s : State}

theorem formed_startOne {g : Got} {sp : Spec} {i : Issue} (hsp : FormedSpec sp) (h : Formed i.st) : FormedIssue (startOne t0 origin next g sp i) := by
  refine formedIssue_check (hsp _ _ ?_)
  dsimp only
  split
  · exact formed_onSelf_of_sram h fun _ => rfl
  · exact h

theorem formed_trigPhase {gs : List Got} {r : Trigs} (hgs : ∀ g ∈ gs, ∀ sp, g.spec = some sp → FormedSpec sp) (h : Formed r.out.st) :
    Formed (trigPhase t0 origin next gs r).out.st := by
  induction gs generalizing r with
  | nil => exact h
  | cons g gs ih =>
    have hrest : ∀ q : Trigs, Formed q.out.st → Formed (trigPhase t0 origin next gs q).out.st :=
      fun q hq => ih (fun x hx => hgs x (List.mem_cons_of_mem _ hx)) hq
    unfold trigPhase
    split
    · exact hrest r h
    · next sp hsp =>
      have hone := formed_startOne (t0 := t0) (origin := origin) (next := next) (hgs g List.mem_cons_self sp hsp) h (g := g)
      split
      · next i hi => exact hrest _ (hone i hi)
      all_goals exact hrest _ h

theorem formed_orderChoice {gs : List Got} (h : Formed s) : Formed (orderChoice gs s).2 := by
  unfold orderChoice
  split <;> exact h

theorem formed_startAll {gots : List Got} (hgs : ∀ g ∈ gots, ∀ sp, g.spec = some sp → FormedSpec sp) (h : Formed s) :
    Formed (startAll t0 origin next gots s).out.st := by
  have hmx : Formed (trigPhase t0 origin next (gots.filter Got.isMx) { out := { st := s } }).out.st :=
    formed_trigPhase (fun g hg => hgs g (List.mem_of_mem_filter hg)) h
  exact formed_trigPhase (fun g hg => hgs g (List.mem_of_mem_filter (Bundles.mem_of_mem_bySocket hg))) (formed_orderChoice (formed_mxIssueCycle hmx))

/-- What a bundle reads carries the triggers of its moves. -/
theorem spec_of_mem_readPhase {t : Tile} {acts : List Act} {g : Got} (hg : g ∈ (readPhase t acts).gots) : ∃ a ∈ acts, a.2.2 = g.spec := by
  induction acts with
  | nil => cases hg
  | cons a acts ih =>
    obtain ⟨bus, i, sp⟩ := a
    have hrest : g ∈ (readPhase t acts).gots → ∃ a ∈ (bus, i, sp) :: acts, a.2.2 = g.spec := fun hm => by
      obtain ⟨a, ha, he⟩ := ih hm
      exact ⟨a, List.mem_cons_of_mem _ ha, he⟩
    unfold readPhase at hg
    dsimp only at hg
    split at hg
    · exact hrest hg
    · split at hg
      · split at hg
        · exact hrest hg
        · obtain rfl | hm := List.mem_cons.mp hg
          · exact ⟨_, List.mem_cons_self, rfl⟩
          · exact hrest hm
      · exact hrest hg

/-- Every trigger of the bundle keeps the form. -/
def FormedActs (acts : List Act) : Prop := ∀ a ∈ acts, ∀ sp, a.2.2 = some sp → FormedSpec sp

variable {acts : List Act} {len : Nat}

theorem formed_prepare {i : Issue} (ha : FormedActs acts) (h : Formed s) (hp : prepare acts len s = .ok i) : Formed i.st := by
  have hall : Formed (Bundles.started acts len s).out.st := formed_startAll (fun g hg sp hsp => by
    obtain ⟨a, hm, he⟩ := spec_of_mem_readPhase hg
    exact ha a hm sp (he.trans hsp)) (formed_onSelf (formed_regCorrect h) fun _ => sound_writePhase)
  unfold prepare at hp
  dsimp only at hp
  split at hp
  · cases hp
  · split at hp
    · cases hp
    · split at hp
      · cases hp
      · split at hp
        · cases hp
        · split at hp
          · cases hp
          · split at hp
            · cases hp
            · cases hp
              exact hall

/-! ## The end of an issue cycle -/

theorem sound_changeMode {t : Tile} {x : Sock} {locked : Bool} (h : Sound t) : Sound (changeMode t x locked) :=
  sound_onBank (sound_onBank (sound_onBank (sound_onBank h)))

theorem sound_modeStep {t : Tile} {m : Option (Sock × Bool)} (h : Sound t) : Sound (WholeBundles.modeStep t m) := by
  cases m with
  | some x => exact sound_changeMode h
  | none => exact h

theorem sound_ctlStep {t : Tile} {now : Nat} {k : BitVec 2} {c : CtlAct} (h : Sound t) : Sound (WholeBundles.ctlStep now k t c) := by
  cases c with
  | halt => exact sound_haltBank h
  | _ => exact h

theorem sound_leaveStep {t : Tile} {now : Nat} {gang : Bool} {o : Option Nat} (h : Sound t) : Sound (WholeBundles.leaveStep now gang t o) := by
  cases o with
  | some f => exact sound_leave h
  | none => exact h

theorem sound_asidStep {t : Tile} {o : Option Half} (h : Sound t) : Sound (WholeBundles.asidStep t o) := by
  cases o <;> exact h

theorem formed_finish {i : Issue} (h : Formed i.st) : Formed (finish len i) := by
  have ht : Sound (WholeBundles.endedTile len i) :=
    sound_asidStep (sound_leaveStep (sound_ctlStep (sound_modeStep (t := WholeBundles.issuedTile len i) (formed_self h))))
  rw [WholeBundles.finish_eq]
  show Formed (i.st.setTile _)
  refine formed_setTile h ?_
  split
  · exact ht
  · exact sound_taskCycle ht

theorem formed_cnt {c : Counters} (h : Formed s) : Formed { s with cnt := c } := h
theorem formed_turn {l : List Nat} {c : Counters} (h : Formed s) : Formed { s with turn := l, cnt := c } := h
theorem formed_cur {a : Nat} (h : Formed s) : Formed { s with cur := a } := h

theorem formed_stallTick (h : Formed s) : Formed (stallTick s) := formed_cnt (formed_onSelf_of_sram h fun _ => rfl)

theorem formed_settle {a : Nat} (h : Formed s) : Formed (s.settle a) :=
  formed_onTile h fun _ ht => sound_onBank (sound_passBank (sound_landQueued (sound_landBank ht)))

/-- A cause of a tile that its next bundle takes. -/
theorem formed_raise {a now : Nat} {gang : Bool} {p : Pending} (h : Formed s) : Formed ((s.noteCause a p).onTile a fun t => t.raiseNow now gang p) :=
  formed_onTile (formed_noteCause h) fun _ => sound_raiseNow

/-! ## Gangs -/

theorem formed_onQuad {a : Nat} {f : Quad → Quad} (h : Formed s) : Formed (s.onQuad a f) := h

theorem formed_formGang (h : Formed s) : Formed (formGang s) := by
  unfold formGang
  dsimp only
  split
  · exact h
  · exact formed_onQuad (formed_foldl (fun _ _ hs => formed_onTile_of_sram hs fun _ => rfl) h)

theorem formed_meetGang (h : Formed s) : Formed (meetGang s) := by
  unfold meetGang
  dsimp only
  split
  · split
    · exact formed_foldl (fun _ _ hs => formed_onTile_of_sram hs fun _ => rfl) h
    · split
      · refine formed_foldl (fun s m hs => ?_) h
        split
        · exact formed_raise hs
        · exact hs
      · exact formed_turn (formed_foldl (fun _ _ hs => formed_onTile_of_sram hs fun _ => rfl) h)
  · exact h

theorem formed_gangStall {p : Option Pending} (h : Formed s) : Formed (gangStall p s) :=
  formed_meetGang (formed_stallTick (formed_onSelf_of_sram h fun _ => rfl))

theorem formed_issueSingle (ha : FormedActs acts) (h : Formed s) : Formed (issueSingle acts len s) := by
  unfold issueSingle
  split
  · next i hp =>
    have hf : Formed (finish len i) := formed_finish (formed_prepare ha h hp)
    dsimp only
    split
    · exact formed_formGang hf
    all_goals exact hf
  · exact formed_stallTick h
  · exact formed_gangStall h
  · exact formed_onSelf (formed_noteCause h) fun _ => sound_raiseNow

theorem formedActs_member (ha : FormedActs acts) : FormedActs (memberActs acts) := fun a hm => ha a (List.mem_of_mem_filter hm)

theorem sound_gangCall {t : Tile} {r : Nat} {ret : Word} (h : Sound t) : Sound (t.gangCall r ret) := h

theorem formed_gangPart {call : Bool} {ret : Word} {m : Nat} (ha : FormedActs acts) (h : Formed s) : Formed (gangPart acts len call ret s m) := by
  have hpush : ∀ {u : State}, Formed u → Formed (if call ∧ m ≠ quadOf m then u.onTile m fun t => t.gangCall 1 ret else u) := fun hu => by
    split
    · exact formed_onTile hu fun _ => sound_gangCall
    · exact hu
  have hacts : FormedActs (if m = quadOf m then acts else memberActs acts) := by
    split
    · exact ha
    · exact formedActs_member ha
  unfold gangPart
  dsimp only
  split
  · next i hp =>
    have hi : Formed i.st := formed_prepare hacts (formed_cur h) hp
    refine formed_cur (formed_onTile_of_sram (formed_finish ?_) fun _ => rfl)
    split
    · exact hi
    · exact hpush hi
  · exact hpush (formed_raise h)
  · exact h
  · exact h

theorem formed_gangDone {lead : Nat} {all : List Nat} {split : Bool} (h : Formed s) : Formed (gangDone lead all split s) := by
  unfold gangDone
  dsimp only
  split
  · exact formed_onQuad (formed_foldl (fun _ _ hs => formed_onTile_of_sram hs fun _ => rfl) h)
  · exact formed_foldl (fun _ _ hs => formed_onTile_of_sram hs fun _ => rfl) h

/-- The members that have completed their part follow the return address and the halt of the leader. -/
theorem sound_follow {t : Tile} {call : Bool} {ret : Word} {now : Nat} {c : CtlAct} (h : Sound t) :
    Sound (match c with
      | .halt => (if call then t.gangCall 0 ret else t).haltBank now 0
      | .none | .jump _ _ | .skip _ | .openLevel _ | .loopx | .idle _ | .raise _ | .gang | .split => if call then t.gangCall 0 ret else t) := by
  have hc : Sound (if call then t.gangCall 0 ret else t) := by
    split
    · exact sound_gangCall h
    · exact h
  cases c with
  | halt => exact sound_haltBank hc
  | _ => exact hc

theorem formed_issueGang (ha : FormedActs acts) (h : Formed s) : Formed (issueGang acts len s) := by
  unfold issueGang
  extract_lets lead all ms preps stalled leadAct call ret s1 s2 split
  split
  · exact formed_foldl (fun _ _ hs => formed_cur (formed_stallTick (formed_cur hs))) h
  · have hparts := fun call ret => formed_foldl (l := s.pendingMembers) (fun _ m hs => formed_gangPart (m := m) (len := len) (call := call) (ret := ret) ha hs) h
    have hall := fun call ret (c : CtlAct) (l : List Nat) => formed_foldl (l := l) (fun _ m hs => formed_onTile (a := m) hs fun _ ht => sound_follow (c := c) (call := call) (ret := ret) (now := s.tick) ht) (hparts call ret)
    split
    · exact formed_gangDone (hall ..)
    · split
      · refine formed_foldl (fun u m hs => ?_) (formed_onTile_of_sram (hall ..) fun _ => rfl)
        split
        · exact formed_onTile_of_sram hs fun _ => rfl
        · exact hs
      · refine formed_foldl (fun u m hs => ?_) (formed_onTile_of_sram (hall ..) fun _ => rfl)
        split
        · exact formed_onTile_of_sram hs fun _ => rfl
        · exact hs

theorem formed_whenReady {act : State → State} (hact : ∀ u, Formed u → Formed (act u)) (h : Formed s) : Formed (whenReady act s) := by
  unfold whenReady
  dsimp only
  split
  · have hs : Formed ([quadOf s.cur, quadOf s.cur + 1, quadOf s.cur + 2, quadOf s.cur + 3].foldl State.settle s) :=
      formed_foldl (fun _ _ => formed_settle) h
    split
    · next t ht =>
      obtain ⟨m, -, hm⟩ := List.exists_of_findSome?_eq_some ht
      exact formed_setTile hs (sound_takePending (formed_tileAt hs m) hm)
    · split
      · exact hact _ hs
      · exact hs
  · have hs : Formed (s.settle s.cur) := formed_settle h
    split
    · next t ht => exact formed_setTile hs (sound_takePending (formed_self hs) ht)
    · split
      · exact hact _ hs
      · exact hs

theorem formed_issue (ha : FormedActs acts) (h : Formed s) : Formed (issue acts len s) :=
  formed_whenReady (fun u hu => by
    split
    · exact formed_issueGang ha hu
    · exact formed_issueSingle ha hu) h

/-! ## The bundle served -/

theorem formed_latch {lis : List Word} {bus : BitVec 3} (h : Formed s) : Formed (s.latch lis len bus) :=
  formed_foldl (fun _ _ hs => formed_onTile_of_sram hs fun _ => rfl) h

theorem formed_decodeFault {c : Cause} {bus : Option (BitVec 3)} {d : Dword} (h : Formed s) : Formed (decodeFault c bus d s) :=
  formed_foldl (fun _ _ hs => formed_raise hs) h

theorem formed_idleOne {a : Nat} (h : Formed s) : Formed (idleOne s a) := formed_onTile (formed_mxIssueCycle h) fun _ ht => sound_taskCycle ht

theorem formed_idleCycle (h : Formed s) : Formed (idleCycle s) := by
  have hr : Formed (whenReady id s) := formed_whenReady (fun _ => id) h
  exact formed_ite (formed_foldl (fun _ _ => formed_idleOne) hr) hr

theorem formed_startRefetch (h : Formed s) : Formed (startRefetch s) := formed_sched (formed_onSelf_of_sram h fun _ => rfl)

theorem formed_countRefetch {a : Nat} (h : Formed s) : Formed (countRefetch a s) := by
  unfold countRefetch
  split <;> exact h

end
end Sys2Proof.Proofs.MemoryForms
end

section
/-! PROOF. The canonical form of the memories over the triggers of every socket (R123, R216). -/

namespace Sys2Proof.Proofs.MemoryForms

open Sys2Proof Sys2Proof.Machine Sys2Proof.Laws

/-! ## The outcomes of a trigger -/

section
variable {st : Start} {t : State} {c : CtlAct} {e : Option Nat} {n : Option Half} {m : Option (Sock × Bool)} {r : Res} {dv : Bool} {lat : Nat}
  {late : Option Pending} (h : Formed t)
include h

theorem formed_landNext : Formed (landNext st r ⟨t, c, e, n, m⟩).st := formed_onSelf_of_sram h fun _ => rfl

theorem formedIssue_landNext : FormedIssue (.ok (landNext st r ⟨t, c, e, n, m⟩)) := formedIssue_ok (formed_landNext h)

theorem formedIssue_deliver : FormedIssue (deliver st dv lat r late ⟨t, c, e, n, m⟩) := by
  unfold deliver
  dsimp only
  split
  · split
    · exact formedIssue_ok (formed_free (formed_onSelf_of_sram h fun _ => rfl))
    · exact formedIssue_error
  · exact formedIssue_ok (formed_onSelf_of_sram h fun _ => rfl)

theorem formedIssue_performNow : FormedIssue (performNow st r ⟨t, c, e, n, m⟩) := by
  unfold performNow
  dsimp only
  split
  · split
    · exact formedIssue_ok (formed_free (formed_onSelf_of_sram h fun _ => rfl))
    · exact formedIssue_error
  · exact formedIssue_ok (formed_onSelf_of_sram h fun _ => rfl)

end

section
variable {st : Start} {i : Issue}

theorem formedSpec_compute {k : Sock} {o : Option Opnd} {lat : Nat} {f : Start → Res} : FormedSpec (compute k o lat f) := fun _ _ h => formedIssue_deliver h

theorem formedSpec_div {x : Instr} {sg rm : Bool} {w : Width} : FormedSpec (divSpec x sg rm w) := fun _ _ h => formedIssue_deliver h

/-! ## Local accesses, streams and rings -/

theorem formedIssue_lsRead {sz : Nat} {es ps : List Nat} {f : List Byte → Res} (h : Formed i.st) : FormedIssue (lsRead st i sz es ps f) := by
  unfold lsRead
  split
  · exact formedIssue_error
  · dsimp only
    split
    · exact formedIssue_deliver (formed_noteCause (formed_correct h))
    · exact formedIssue_deliver (formed_sramRead h)

theorem formedSpec_ld {m : LMod} : FormedSpec (specLd m) := by
  intro st i h
  unfold specLd
  dsimp only
  exact formedIssue_lsRead h

theorem formedSpec_vld {l : Layout} : FormedSpec (specVld l) := by
  intro st i h
  unfold specVld
  dsimp only
  exact formedIssue_lsRead h

theorem formedSpec_vldl {l : Layout} : FormedSpec (specVldl l) := by
  intro st i h
  unfold specVldl
  dsimp only
  exact formedIssue_lsRead h

theorem formedSpec_vgat {m : LMod} : FormedSpec (specVgat m) := by
  intro st i h
  unfold specVgat
  dsimp only
  exact formedIssue_lsRead h

theorem sound_store {t : Tile} {ws : List (Nat × Byte)} {ps : List Nat} (h : Sound t) : Sound ((t.sramWrite ws).touchZones ps) :=
  sound_touchZones (sound_sramWrite h)

theorem formedIssue_lsWrite {sz : Nat} {es : List Nat} {ws : List (List (Nat × Byte))} (h : Formed i.st) : FormedIssue (lsWrite st i sz es ws) := by
  unfold lsWrite
  split
  · exact formedIssue_error
  · dsimp only
    split
    · exact formedIssue_performNow (formed_onSelf h fun _ => sound_store)
    · exact formedIssue_error

theorem formedSpec_lsAtomic {o : Opnd} {m : LMod} {sg : Bool} {f : AtomicFn} : FormedSpec (lsAtomic o m sg f) := by
  intro st i h
  unfold lsAtomic
  dsimp only
  split
  · exact formedIssue_error
  · refine formedIssue_check (formedIssue_deliver ?_)
    split
    · exact formed_onSelf (formed_sramRead h) fun _ => sound_store
    · exact formed_sramRead h

theorem formedSpec_sopen {p : BitVec 5} : FormedSpec (specSopen p) := by
  intro st i h
  unfold specSopen
  dsimp only
  split
  · exact formedIssue_error
  · exact formedIssue_performNow (formed_onSelf_of_sram h fun _ => rfl)

theorem formedSpec_sstep : FormedSpec specSstep := by
  intro st i h
  unfold specSstep
  dsimp only
  split
  · exact formedIssue_error
  · split
    · exact formedIssue_deliver h
    · exact formedIssue_deliver (formed_onSelf_of_sram h fun _ => rfl)

theorem formedSpec_rinit {n : BitVec 3} : FormedSpec (specRinit n) :=
  fun _ _ h => formedIssue_check (formedIssue_check (formedIssue_performNow (formed_onSelf_of_sram h fun _ => rfl)))

theorem formedSpec_rpush {n : BitVec 3} : FormedSpec (specRpush n) :=
  fun _ _ h => formedIssue_check (formedIssue_check (formedIssue_performNow (formed_onSelf h fun _ => sound_pushLine)))

theorem formedSpec_rpop {n : BitVec 3} : FormedSpec (specRpop n) := by
  refine fun st i h => formedIssue_check (formedIssue_check ?_)
  dsimp only
  split
  · exact formedIssue_deliver (formed_onSelf_of_sram (formed_noteCause (formed_correct h)) fun _ => rfl)
  · exact formedIssue_deliver (formed_onSelf_of_sram (formed_sramRead h) fun _ => rfl)

theorem formedSpec_rdrop {n : BitVec 3} : FormedSpec (specRdrop n) := by
  refine fun st i h => formedIssue_check ?_
  split
  · exact formedIssue_performNow h
  · exact formedIssue_check (formedIssue_performNow (formed_onSelf_of_sram h fun _ => rfl))

theorem formedSpec_rfill {n : BitVec 3} : FormedSpec (specRfill n) := by
  refine fun st i h => formedIssue_check ?_
  split
  · exact formedIssue_error
  · exact formedIssue_check (formedIssue_check (formedIssue_check (formedIssue_performNow (formed_free (formed_onSelf_of_sram h fun _ => rfl)))))

/-! ## The matrix unit -/

theorem formed_mxPrune {s : State} {now : Nat} (h : Formed s) : Formed (s.onSelf fun t => t.mxPrune now) := formed_onSelf_of_sram h fun _ => rfl

theorem formed_mxRefuse {v : Dword} (h : Formed i.st) : Formed (mxRefuse st v i).st := formed_onSelf h fun _ => sound_mxWord

theorem formedIssue_mxAdmit {acc : BitVec 2} {sp : Bool} {k : Issue → Except Stop Issue} (hk : ∀ j, Formed j.st → FormedIssue (k j)) (h : Formed i.st) :
    FormedIssue (mxAdmit st acc sp i k) := by
  unfold mxAdmit
  dsimp only
  split
  · exact formedIssue_check (hk _ (formed_mxPrune h))
  · split
    · exact formedIssue_ok (formed_mxRefuse h)
    · exact hk _ (formed_mxPrune h)

theorem formed_mxEnqueue {kind : MxKind} {acc : BitVec 2} {occ : Nat} {cs : List (BitVec 3 × Nat)} (h : Formed i.st) :
    Formed (mxEnqueue st kind acc occ cs i).st := by
  refine formed_mxStart (s := ite _ _ _) ?_
  split
  · exact formed_onSelf_of_sram (formed_onSelf_of_sram h fun _ => rfl) fun _ => rfl
  · exact formed_onSelf_of_sram h fun _ => rfl

theorem formedSpec_mma {sp : Bool} {acc : BitVec 2} : FormedSpec (mxMma sp acc) := by
  intro st i h
  unfold mxMma
  dsimp only
  refine formedIssue_mxAdmit (fun j hj => ?_) h
  split
  · exact formedIssue_ok (formed_mxRefuse hj)
  · split
    · exact formedIssue_error
    · exact formedIssue_ok (formed_mxEnqueue hj)

theorem formedSpec_mxOne {k : Sock} {o : Option Opnd} {acc : BitVec 2} {kind : MxKind} : FormedSpec
    { sock := k, opnd := o, run := fun st i => mxAdmit st acc false i fun i => .ok (mxEnqueue st kind acc 1 [] i) } :=
  fun _ _ h => formedIssue_mxAdmit (fun _ hj => formedIssue_ok (formed_mxEnqueue hj)) h

theorem formedSpec_mxBlockOp {acc : BitVec 2} {kind : MxKind} : FormedSpec (mxBlockOp kind acc) := by
  intro st i h
  unfold mxBlockOp
  dsimp only
  refine formedIssue_mxAdmit (fun j hj => ?_) h
  exact formedIssue_check (formedIssue_check (formedIssue_ok (formed_mxEnqueue hj)))

/-! ## Engines -/

theorem formed_enqueue {s : State} {o : DlOp} (h : Formed s) : Formed (enqueue st s o) := formed_onSelf_of_sram h fun _ => rfl

theorem formedIssue_enqueue {o : DlOp} (h : Formed i.st) : FormedIssue (.ok { i with st := enqueue st i.st o }) := formedIssue_ok (formed_enqueue h)

theorem formedIssue_dmQueue {o : DlOp} (h : Formed i.st) : FormedIssue (dmQueue st i o) := by
  have hn : Formed (match o.tag with | some n => i.st.onSelf fun t => t.nameTag n.toNat | none => i.st) := by
    split
    · exact formed_onSelf_of_sram h fun _ => rfl
    · exact h
  refine formedIssue_ok ?_
  dsimp only
  split
  · exact formed_enqueue hn
  · exact formed_sched (formed_enqueue hn)

theorem formedIssue_ntQueue {o : DlOp} (h : Formed i.st) : FormedIssue (ntQueue st i o) := by
  have hn : Formed (match o.tag with | some n => i.st.onSelf fun t => t.clearTag n.toNat | none => i.st) := by
    split
    · exact formed_onSelf_of_sram h fun _ => rfl
    · exact h
  refine formedIssue_ok ?_
  dsimp only
  split
  · exact formed_sched (formed_enqueue hn)
  · exact formed_sched (formed_enqueue hn)
  · exact formed_sched (formed_enqueue hn)
  · exact formed_enqueue hn

theorem formedIssue_unitQueue {o : DlOp} (h : Formed i.st) : FormedIssue (unitQueue st i o) := formedIssue_ok (formed_sched (formed_enqueue h))

theorem formedSpec_copy {k : OpKind} : FormedSpec (copySpec k) := fun _ _ h => formedIssue_check (formedIssue_check (formedIssue_dmQueue h))

theorem formedSpec_patCopy {k : OpKind} : FormedSpec (patCopySpec k) := by
  intro st i h
  unfold patCopySpec
  dsimp only
  split
  · exact formedIssue_error
  · exact formedIssue_check (formedIssue_check (formedIssue_dmQueue h))

theorem formedSpec_fill {m : MMod} : FormedSpec (specFill m) := by
  refine fun st i h => formedIssue_check ?_
  split
  · exact formedIssue_error
  · refine formedIssue_check ?_
    split <;> exact formedIssue_dmQueue h

theorem formedSpec_scalar {k : OpKind} {o : Opnd} {wx : Bool} {ns : List Nat} : FormedSpec (scalarSpec k o wx ns) :=
  fun _ _ h => formedIssue_check (formedIssue_dmQueue h)

theorem formedSpec_ttarm {k : BitVec 4} : FormedSpec (specTtarm k) := fun _ _ h => formedIssue_check (formedIssue_ntQueue h)

theorem formedSpec_push {pat : Bool} : FormedSpec (pushSpec pat) := by
  refine fun st i h => formedIssue_check (formedIssue_check (formedIssue_check (formedIssue_check (formedIssue_check ?_))))
  split
  · exact formedIssue_error
  · exact formedIssue_ntQueue h

theorem formedSpec_land : FormedSpec specLand := fun _ _ h => formedIssue_check (formedIssue_check (formedIssue_check (formedIssue_ntQueue h)))

theorem formedSpec_lclose : FormedSpec specLclose := by
  intro st i h
  unfold specLclose
  dsimp only
  exact formedIssue_ntQueue h

theorem formedSpec_msg : FormedSpec specMsg := by
  refine fun st i h => formedIssue_check ?_
  split
  · exact formedIssue_error
  · exact formedIssue_ntQueue h

theorem formedSpec_mig : FormedSpec specMig := by
  refine fun st i h => formedIssue_check (formedIssue_check (formedIssue_check ?_))
  split
  · exact formedIssue_error
  · exact formedIssue_ntQueue h

theorem formedSpec_kopen : FormedSpec specKopen :=
  fun _ _ h => formedIssue_check (formedIssue_check (formedIssue_check (formedIssue_check (formedIssue_enqueue h))))

theorem formedSpec_contrib {attn : Bool} : FormedSpec (contribSpec attn) := fun _ _ h => formedIssue_check (formedIssue_enqueue h)

theorem formedSpec_kfin : FormedSpec specKfin := fun _ _ h => formedIssue_check (formedIssue_check (formedIssue_check (formedIssue_enqueue h)))

theorem formedSpec_bell {k : OpKind} {lev : BitVec 3} {run : Bool} : FormedSpec (bellSpec k lev run) :=
  fun _ _ h => formedIssue_check (formedIssue_check (formedIssue_enqueue h))

theorem formedSpec_sem {k : OpKind} {wx : Bool} : FormedSpec (semSpec k wx) := fun _ _ h => formedIssue_check (formedIssue_unitQueue h)

theorem formedSpec_bar {k : OpKind} {wx : Bool} : FormedSpec (barSpec k wx) := fun _ _ h => formedIssue_check (formedIssue_check (formedIssue_unitQueue h))

theorem formedSpec_tk {k : OpKind} {o : Option Opnd} {wx : Bool} {bs : List (BitVec 2)} {c : Start → Option Stop} : FormedSpec (tkSpec k o wx bs c) := by
  refine fun st i h => formedIssue_check ?_
  split
  · exact formedIssue_error
  · exact formedIssue_enqueue h

theorem formedSpec_next : FormedSpec specNext := fun _ _ h => formedIssue_check (formedIssue_enqueue h)

/-! ## Control and configuration -/

theorem formedSpec_transfer {call : Bool} : FormedSpec (transfer call) := by
  refine fun st i h => formedIssue_ok ?_
  cases call
  · exact h
  · exact formed_landNext h

theorem formedSpec_loop : FormedSpec specLoop := by
  refine fun st i h => formedIssue_check (formedIssue_check ?_)
  split <;> exact formedIssue_ok h

theorem formedSpec_brk : FormedSpec specBrk := by
  intro st i h
  unfold specBrk
  dsimp only
  split <;> exact formedIssue_ok h

theorem formedSpec_gang : FormedSpec specGang := by
  intro st i h
  unfold specGang
  dsimp only
  split
  · exact formedIssue_error
  · split
    · exact formedIssue_ok h
    · split
      · exact formedIssue_error
      · split
        · exact formedIssue_ok h
        · exact formedIssue_error

theorem formedSpec_split : FormedSpec specSplit := by
  intro st i h
  unfold specSplit
  dsimp only
  split <;> exact formedIssue_ok h

theorem formedSpec_cfRead {f : Start → State → Bus} : FormedSpec (cfRead f) := fun _ _ h => formedIssue_landNext h

theorem formedSpec_fmt : FormedSpec specFmt := by
  intro st i h
  unfold specFmt
  dsimp only
  split
  · exact formedIssue_landNext h
  · exact formedIssue_ok (formed_onSelf_of_sram (formed_landNext h) fun _ => rfl)

theorem formedSpec_mode : FormedSpec specMode := by
  intro st i h
  unfold specMode
  dsimp only
  split
  · exact formedIssue_landNext h
  · refine formedIssue_check ?_
    split
    · exact formedIssue_landNext h
    · split
      · exact formedIssue_landNext h
      · exact formedIssue_ok (formed_landNext h)

theorem formedSpec_flags : FormedSpec specFlags := fun _ _ h => formedIssue_ok (formed_onSelf_of_sram (formed_landNext h) fun _ => rfl)

theorem formedSpec_sleepd : FormedSpec specSleepd := by
  intro st i h
  unfold specSleepd
  dsimp only
  split
  · exact formedIssue_landNext h
  · split
    · exact formedIssue_landNext h
    · exact formedIssue_ok (formed_onSelf_of_sram (formed_landNext h) fun _ => rfl)

/-! ## The supervisor's operations -/

theorem formed_supStart {s : State} {k : SupKind} {lo : Nat} {span : Option Nat} (h : Formed s) : Formed (s.supStart st k lo span) :=
  formed_free (formed_onSelf_of_sram h fun _ => rfl)

theorem formed_answer {x : Option Bus} {b : Bool} {s : State} (h : Formed s) : Formed (x, b, s).2.2 := h

/-- An operation of `sv` or `rp` keeps the form where the state in its answer has it. -/
theorem formedSpec_sv {o : Opnd} {f : Start → State → Option Bus × Bool × State} (hf : ∀ st s, Formed s → Formed (f st s).2.2) : FormedSpec (svSpec o f) :=
  fun st i h => formedIssue_landNext (hf st i.st h)

theorem formedSpec_rp {o : Option Opnd} {wait : Start → State → Bool} {f : Start → State → Option Bus × Bool × State}
    (hf : ∀ st s, Formed s → Formed (f st s).2.2) : FormedSpec (rpSpec o wait f) := fun st i h => formedIssue_check (formedIssue_landNext (hf st i.st h))

theorem formedSpec_eret : FormedSpec specEret := by
  intro st i h
  unfold specEret
  dsimp only
  split
  · exact formedIssue_landNext h
  · exact formedIssue_ok (formed_landNext h)

theorem formedSpec_asid : FormedSpec specAsid := by
  intro st i h
  unfold specAsid
  dsimp only
  split
  · exact formedIssue_landNext h
  · exact formedIssue_ok (formed_landNext h)

theorem sound_setTrapOff {t : Tile} {v : Word} (h : Sound t) : Sound (t.setTrapOff v) := by
  unfold Tile.setTrapOff
  dsimp only
  split <;> exact h

theorem formedSpec_cause : FormedSpec specCause := formedSpec_sv fun st s h => by
  dsimp only
  split
  · exact formed_onSelf h fun _ => sound_setTrapOff
  · exact h

theorem formedSpec_tlbinv {m : MMod} : FormedSpec (specTlbinv m) := formedSpec_sv fun _ _ h => formed_answer (formed_supStart h)

theorem formedSpec_tlbinvas {m : MMod} : FormedSpec (specTlbinvas m) := formedSpec_sv fun _ _ h => formed_answer (formed_supStart h)

theorem formedSpec_mapfence {m : MMod} : FormedSpec (specMapfence m) := formedSpec_sv fun _ s h => by
  split
  · exact h
  · exact formed_answer (formed_supStart h)

theorem formedSpec_bank : FormedSpec specBank := by
  intro st i h
  unfold specBank
  dsimp only
  split
  · exact formedIssue_landNext h
  · split
    · exact formedIssue_landNext (formed_onSelf_of_sram h fun _ => rfl)
    · exact formedIssue_check (formedIssue_landNext (formed_free (formed_regCorrect h)))

theorem formedSpec_shcap : FormedSpec specShcap := formedSpec_sv fun _ s h => by
  split
  · exact h
  · exact formed_answer (formed_supStart (formed_onSelf h fun _ ht => sound_touchZones (sound_engineWrite ht)))

theorem formedSpec_shset : FormedSpec specShset := formedSpec_sv fun _ s h => by
  split
  · exact h
  · dsimp only
    split
    · exact formed_answer (formed_lateCause h)
    · split
      · exact formed_answer (formed_sramRead h)
      · exact formed_answer (formed_supStart (formed_onSelf_of_sram (formed_sramRead h) fun _ => rfl))

theorem formedSpec_errst : FormedSpec specErrst := formedSpec_sv fun _ s h => by
  dsimp only
  split
  · exact formed_onSelf_of_sram h fun _ => rfl
  · exact h

theorem formedSpec_stmr : FormedSpec specStmr := formedSpec_sv fun _ s h => by
  dsimp only
  split
  · exact h
  · exact formed_onSelf_of_sram h fun _ => rfl

/-! ## Replay -/

theorem formed_onUnit {s : State} {d : Nat} {f : AUnit → AUnit} (h : Formed s) : Formed (s.onUnit d f) := h

variable {s : State} {l : Dword} {base z : Nat}

theorem formed_logOn (h : Formed s) : Formed (s.logOn l base z).2 := by
  unfold State.logOn
  split
  · exact h
  · split
    · exact h
    · split
      · exact h
      · exact formed_foldl (fun _ _ hs => formed_onUnit (formed_gWrite hs)) h

theorem formed_logOff (h : Formed s) : Formed (s.logOff l) := by
  refine formed_foldl (fun u d hu => ?_) h
  split
  · split
    · exact hu
    · exact formed_onUnit (formed_gWrite hu)
  · exact hu

theorem formed_gateOn {n : Nat} (h : Formed s) : Formed (s.gateOn l base z n).2 := by
  unfold State.gateOn
  split
  · exact h
  · exact formed_foldl (fun _ _ hs => formed_onUnit hs) h

theorem formed_gateOff (h : Formed s) : Formed (s.gateOff l) := by
  refine formed_foldl (fun u d hu => ?_) h
  split
  · split
    · exact formed_onUnit hu
    · exact hu
  · exact hu

theorem formedSpec_logst : FormedSpec specLogst := formedSpec_rp fun _ s h => by
  dsimp only
  split <;> exact h

end

/-! ## Every trigger -/

/-- Every trigger keeps the form of the memories. -/
theorem formedSpec_of_spec {i : Instr} {sp : Spec} (h : specOf i = some sp) : FormedSpec sp := by
  cases i with
  | add | sub | and | or | xor | andn | orn | min | max | minn | maxn | abs | neg | ceq | cne | clt | cle | cltn | clen | sel | lea | addsat | subsat
  | tst | shl | shr | sar | rol | ror | clz | ctz | popc | brev | bswap | extz | exts | ins | crc | mul | mulh | mulhn | mac | fadd | fsub | fmul
  | fma | fnma | fmin | fmax | fabs | fneg | fcpsgn | fceq | fclt | fcle | fclass | fcvt | fcvtsi | fcvtis | ex2 | lg2 | rcp | rsq | sqrt | fdiv
  | ex2Vec | lg2Vec | rcpVec | rsqVec | sqrtVec | fdivVec | vadd | vsub | vmul | vfma | vfnma | vmin | vmax | vabs | vneg | vceq | vclt | vcle | vsel
  | vand | vor | vxor | vshl | vshr | vsar | vsum | vhmax | vscale | vperm | vshuf | vbcast | vext | vins | vcvt | vpack | vunpk | vcmprs | vlane
  | vrot | vmerge | vmask => cases h; exact formedSpec_compute
  | div | divn | rem | remn => cases h; exact formedSpec_div
  | jmp | jmpr | call | callr | ret => cases h; exact formedSpec_transfer
  | loop => cases h; exact formedSpec_loop
  | loopx | idle | halt | trap => cases h; exact fun _ _ h => formedIssue_ok h
  | brk => cases h; exact formedSpec_brk
  | gang => cases h; exact formedSpec_gang
  | split => cases h; exact formedSpec_split
  | rdcyc | dom | tid => cases h; exact formedSpec_cfRead
  | fmt => cases h; exact formedSpec_fmt
  | mode => cases h; exact formedSpec_mode
  | flags => cases h; exact formedSpec_flags
  | sleepd => cases h; exact formedSpec_sleepd
  | ld => cases h; exact formedSpec_ld
  | vld => cases h; exact formedSpec_vld
  | vldl => cases h; exact formedSpec_vldl
  | vgat => cases h; exact formedSpec_vgat
  | st | vst | vstl | vsct => cases h; exact fun _ _ h => formedIssue_lsWrite h
  | aadd | aswp | acas | amin | amax | aor | aand => cases h; exact formedSpec_lsAtomic
  | sopen => cases h; exact formedSpec_sopen
  | sstep => cases h; exact formedSpec_sstep
  | rinit => cases h; exact formedSpec_rinit
  | rpush => cases h; exact formedSpec_rpush
  | rpop => cases h; exact formedSpec_rpop
  | rfill => cases h; exact formedSpec_rfill
  | rstat => cases h; exact fun _ _ h => formedIssue_deliver h
  | rdrop => cases h; exact formedSpec_rdrop
  | mma | mmas => cases h; exact formedSpec_mma
  | mzero | mrd | mmask => cases h; exact formedSpec_mxOne
  | mst | mld => cases h; exact formedSpec_mxBlockOp
  | get | put => cases h; exact formedSpec_copy
  | getp | putp => cases h; exact formedSpec_patCopy
  | fill => cases h; exact formedSpec_fill
  | mfence => cases h; exact fun _ _ h => formedIssue_dmQueue h
  | gld | gst | gadd | gswp | gcas | gmin | gmax | gand | gor | gxor => cases h; exact formedSpec_scalar
  | ttarm => cases h; exact formedSpec_ttarm
  | land => cases h; exact formedSpec_land
  | lclose => cases h; exact formedSpec_lclose
  | push | pushp => cases h; exact formedSpec_push
  | msg => cases h; exact formedSpec_msg
  | mig => cases h; exact formedSpec_mig
  | kopen => cases h; exact formedSpec_kopen
  | kpart | kattn => cases h; exact formedSpec_contrib
  | kfin => cases h; exact formedSpec_kfin
  | kres | wany | wall | wffr | tclr | trig | fence => cases h; exact fun _ _ h => formedIssue_enqueue h
  | bell | bellx => cases h; exact formedSpec_bell
  | sig | swait | sdec => cases h; exact formedSpec_sem
  | binit | arrive | drop | bwait => cases h; exact formedSpec_bar
  | spawn | yield | sleep | wake | prio | timer | resume | msgrd | cload | tidle => cases h; exact formedSpec_tk
  | next => cases h; exact formedSpec_next
  | eret => cases h; exact formedSpec_eret
  | cause => cases h; exact formedSpec_cause
  | tlbinv => cases h; exact formedSpec_tlbinv
  | tlbinvas => cases h; exact formedSpec_tlbinvas
  | mapfence => cases h; exact formedSpec_mapfence
  | asid => cases h; exact formedSpec_asid
  | bank => cases h; exact formedSpec_bank
  | shcap => cases h; exact formedSpec_shcap
  | shset => cases h; exact formedSpec_shset
  | errst => cases h; exact formedSpec_errst
  | stmr => cases h; exact formedSpec_stmr
  | dgrd => cases h; exact formedSpec_rp fun _ _ => id
  | dgclr => cases h; exact formedSpec_rp fun _ _ hs => formed_onSelf_of_sram hs fun _ => rfl
  | logon => cases h; exact formedSpec_rp fun _ _ => formed_logOn
  | logoff => cases h; exact formedSpec_rp fun _ _ => formed_logOff
  | gateon => cases h; exact formedSpec_rp fun _ _ => formed_gateOn
  | gateoff => cases h; exact formedSpec_rp fun _ _ => formed_gateOff
  | logst => cases h; exact formedSpec_logst
  | _ => cases h

theorem formed_issueOne {i : Instr} {sp : Spec} {s t : State} (hsp : FormedSpec sp) (h : Formed s) (ht : issueOne i sp s = .next t) : Formed t := by
  cases ht
  refine formed_issue (fun a ha q hq => ?_) h
  obtain rfl := List.mem_singleton.mp ha
  cases hq
  exact hsp

theorem formed_issueMove {i : Instr} {s t : State} (h : Formed s) (ht : issueMove i s = .next t) : Formed t := by
  cases ht
  refine formed_issue (fun a ha q hq => ?_) h
  obtain rfl := List.mem_singleton.mp ha
  cases hq

end Sys2Proof.Proofs.MemoryForms
end

section
/-! PROOF. The canonical form of the memories over translation, the operations of the engines and the atomic units (R262 to R291, R352 to R359). -/

namespace Sys2Proof.Proofs.MemoryForms

open Sys2Proof Sys2Proof.Machine Sys2Proof.Laws

/-! ## Outcomes of an event -/

/-- Where a step leads on, the memories have their form. -/
def FormedNext (o : Host.Outcome State Fault Refusal) : Prop := ∀ t, o = .next t → Formed t

theorem formedNext {t : State} (h : Formed t) : FormedNext (.next t) := fun _ he => by
  cases he
  exact h

theorem formedNext_ite {p : Prop} [Decidable p] {x y : Host.Outcome State Fault Refusal} (hx : FormedNext x) (hy : FormedNext y) :
    FormedNext (if p then x else y) := by
  split
  · exact hx
  · exact hy

/-! ## Updates of other fields, for use under a further update -/

section
variable {s : State}

theorem formed_agenda {l : List (Nat × Instr × EvArg)} (h : Formed s) : Formed { s with agenda := l } := h
theorem formed_tr {x : TransRegs} (h : Formed s) : Formed { s with tr := x } := h
theorem formed_tr_faults {x : TransRegs} {l : List FaultRec} (h : Formed s) : Formed { s with tr := x, faults := l } := h
theorem formed_faults {l : List FaultRec} (h : Formed s) : Formed { s with faults := l } := h
theorem formed_ctlb {l : List (Nat × List TlbEntry)} (h : Formed s) : Formed { s with ctlb := l } := h
theorem formed_outbox {l : List HostMsg} (h : Formed s) : Formed { s with outbox := l } := h
theorem formed_migSlots {l : List MigSlot} (h : Formed s) : Formed { s with migSlots := l } := h

theorem formed_tileRecord {cls a : Nat} {c : Cause} {d addr : Nat} {l : Dword} (h : Formed s) : Formed (s.tileRecord cls a c d addr l) := formed_record h

theorem formed_countG {n : Nat} (h : Formed s) : Formed (s.countG n) := h
theorem formed_countRef (h : Formed s) : Formed s.countRef := h
theorem formed_countAtom (h : Formed s) : Formed s.countAtom := h
theorem formed_unitBusy {d n : Nat} (h : Formed s) : Formed (s.unitBusy d n) := h
theorem formed_unitDone {d n : Nat} (h : Formed s) : Formed (s.unitDone d n) := h
theorem formed_eutasSend {m : Nat} {b : EutasBody} {w : Option AskFor} (h : Formed s) : Formed (s.eutasSend m b w) := h
theorem formed_unitSend {d : Nat} {r : UnitReq} (h : Formed s) : Formed (s.unitSend d r) := h

end

/-! ## Operations of an engine -/

section
variable {t : Tile} {o : DlOp}

theorem sound_fold {n : Nat} (h : Sound t) : Sound (t.fold n) := by
  induction n generalizing t with
  | zero => exact h
  | succ n ih =>
    unfold Tile.fold
    split
    · exact h
    · split
      · exact ih h
      · exact h

theorem sound_foldAll (h : Sound t) : Sound t.foldAll := sound_fold h
theorem sound_putOp (h : Sound t) : Sound (t.putOp o) := h

theorem sound_addRec {k pa : Nat} {bs : List Byte} (h : Sound t) : Sound (t.addRec o k pa bs) := by
  unfold Tile.addRec
  split <;> exact h

theorem sound_unitRecs {u pa : Nat} {bs : List Byte} (h : Sound t) : Sound (t.unitRecs o u pa bs) := sound_foldl (fun _ _ => sound_addRec) h

theorem sound_setRingOf {x : Ring} (h : Sound t) : Sound (t.setRingOf o x) := by
  unfold Tile.setRingOf
  split <;> exact h

theorem sound_stopFill (h : Sound t) : Sound (t.stopFill o) := by
  unfold Tile.stopFill
  split
  · split
    · exact sound_setRingOf h
    · exact h
  · exact h

theorem sound_failStatus (h : Sound t) : Sound (t.failStatus o) := by
  unfold Tile.failStatus
  split <;> exact h

/-- The tile of an operation that ends with a fault. -/
theorem sound_faulted (h : Sound t) : Sound ((match o.tag with
     | some n => { (t.dropOp o.id) with tagStop := if o.sock = Sock.dm then t.tagStop ||| tagBit n.toNat else t.tagStop }
     | none => t.dropOp o.id).foldAll.stopFill o |>.failStatus o) := by
  refine sound_failStatus (sound_stopFill (sound_foldAll ?_))
  split <;> exact h

theorem sound_dmTag {n : Nat} (h : Sound t) : Sound (t.dmTag n) := by
  unfold Tile.dmTag
  split <;> exact h

theorem sound_dmFinish (h : Sound t) : Sound (t.dmFinish o) := by
  unfold Tile.dmFinish
  dsimp only
  split
  · exact h
  · have hr : Sound (match o.res with
      | some r => (t.dropOp o.id).onBank o.bank fun b => b.onSock .dm fun c => { c with s := r.s }
      | none => t.dropOp o.id) := by
      split <;> exact h
    split
    · exact sound_dmTag hr
    · exact hr

end

section
variable {s : State} {a : Nat} {o : DlOp}

theorem formed_putOp (h : Formed s) : Formed (s.putOp a o) := formed_onTile_of_sram h fun _ => rfl
theorem formed_dropOp {id : Nat} (h : Formed s) : Formed (s.dropOp a id) := formed_onTile_of_sram h fun _ => rfl
theorem formed_addRec {k pa : Nat} {bs : List Byte} (h : Formed s) : Formed (s.onTile a fun t => t.addRec o k pa bs) := formed_onTile h fun _ => sound_addRec

theorem formed_perform {r : Res} (h : Formed s) : Formed (s.perform a o r) := formed_free (formed_onTile h fun _ ht => sound_foldAll (sound_putOp ht))

theorem formed_engineFault {c : Cause} {addr d : Nat} (h : Formed s) : Formed (s.engineFault a o c addr d) := by
  have ht := formed_onTile h (a := a) fun _ => sound_faulted (o := o)
  unfold State.engineFault
  dsimp only
  split
  · exact formed_tileRecord (formed_noteCause ht)
  · exact formed_lateCause ht

theorem formed_refuse {n : Nat} {i : Instr} (h : Formed s) : Formed (s.refuse a o n i) := formed_agenda (formed_countRef (formed_putOp h))

theorem formed_pendUpcall (h : Formed s) : Formed (s.pendUpcall a o) := by
  unfold State.pendUpcall
  split
  · exact h
  · refine formed_onTile h fun t ht => ?_
    split
    · exact ht
    · split <;> exact ht

theorem formed_pendNotice (h : Formed s) : Formed (s.pendNotice a o) := by
  unfold State.pendNotice
  split <;> exact h

theorem formed_writeFault {r : FaultRec} (h : Formed s) : Formed (s.writeFault r) := by
  unfold State.writeFault
  split
  · exact formed_tr_faults (formed_gWrite h)
  · exact h

theorem formed_pend {va : Nat} {acc : Access} (h : Formed s) : Formed (s.pend a o va acc) := by
  have hput : ∀ {u : State} {id : Word}, Formed u →
      Formed (if o.notice then u.putOp a { o with st := .pending id, walk := 0, tr := [], stage := [], notice := true }
        else (u.putOp a { o with st := .pending id, walk := 0, tr := [], stage := [], notice := true }).pendUpcall a o) :=
    fun hu => formed_ite (formed_putOp hu) (formed_pendUpcall (formed_putOp hu))
  unfold State.pend
  split
  next id u he =>
    refine hput ?_
    split at he
    · cases he
      exact h
    · cases he
      exact formed_writeFault (formed_tr_faults h)

/-! ## Translation -/

theorem formed_fillTlbs {e : TlbEntry} (h : Formed s) : Formed (s.fillTlbs a e) := formed_free (formed_onTile_of_sram (formed_ctlb h) fun _ => rfl)

theorem formed_fillUtlb {e : TlbEntry} (h : Formed s) : Formed (s.fillUtlb a e) := formed_free (formed_onTile_of_sram h fun _ => rfl)

theorem formed_dropTlb {sc : Scope} {p : TlbEntry → Bool} (h : Formed s) : Formed (s.dropTlb sc a p) := by
  refine formed_ctlb (formed_mapTiles h fun t ht => ?_)
  split <;> exact ht

theorem formed_coreFill {w : Who} {va : Nat} {setD : Bool} {u : State} (h : Formed s) (hu : s.coreFill w va setD = .filled u) : Formed u := by
  unfold State.coreFill at hu
  dsimp only at hu
  split at hu
  · cases hu
  · cases hu
  · cases hu
  · cases hu
  · split at hu
    · cases hu
    · split at hu
      · cases hu
      · cases hu
        exact formed_fillTlbs (formed_cnt (formed_gWrite h))

end

/-! ## Atomic units (R286 to R291, R352 to R359) -/

section
variable {s : State} {a d pa : Nat}

theorem formed_putBit {base i : Nat} (h : Formed s) : Formed (s.putBit base i) := formed_gWrite h

theorem formed_phaseEnd {n : Nat} (h : Formed s) : Formed (s.phaseEnd pa n).1 := by
  unfold State.phaseEnd
  dsimp only
  split
  · exact formed_gWrite (formed_gWrite (formed_gWrite h))
  · exact h

/-- Memory after a semaphore or barrier operation that is performed. -/
def FormedSync (o : SyncOut) : Prop := ∀ u x ph new, o = .done u x ph new → Formed u

theorem formedSync_done {u : State} {x : Nat} {ph : Bool} {new : Option Nat} (h : Formed u) : FormedSync (.done u x ph new) := fun _ _ _ _ he => by
  cases he
  exact h

theorem formedSync_wait : FormedSync .wait := fun _ _ _ _ he => nomatch he
theorem formedSync_fault {c : Cause} {n : Nat} : FormedSync (.fault c n) := fun _ _ _ _ he => nomatch he

theorem formedSync_ite {p : Prop} [Decidable p] {x y : SyncOut} (hx : FormedSync x) (hy : FormedSync y) : FormedSync (if p then x else y) := by
  split
  · exact hx
  · exact hy

theorem formedSync_syncOp {op v : Nat} (h : Formed s) : FormedSync (s.syncOp pa op v) := by
  have hdec : Formed (if v = 0 then s else s.gWrite pa (natLe (s.dwordAt pa - v) 8)) := formed_ite h (formed_gWrite h)
  exact formedSync_ite (formedSync_ite formedSync_fault (formedSync_done (formed_gWrite h)))
    (formedSync_ite (formedSync_ite (formedSync_done h) formedSync_wait)
      (formedSync_ite (formedSync_ite formedSync_fault (formedSync_done hdec))
        (formedSync_ite (formedSync_done (formed_gWrite h))
          (formedSync_ite formedSync_fault
            (formedSync_ite (formedSync_ite (formedSync_done h) formedSync_wait)
              (formedSync_ite formedSync_fault
                (formedSync_ite (formedSync_done (formed_phaseEnd (formed_gWrite (formed_putBit h))))
                  (formedSync_done (formed_phaseEnd (formed_gWrite (formed_putBit h)))))))))))

theorem formedSync_watchLook {op v : Nat} (h : Formed s) : FormedSync (s.watchLook d pa op v) := by
  unfold State.watchLook
  split
  · exact formedSync_wait
  · exact formedSync_fault
  · exact formedSync_syncOp h

theorem formed_cnt_onUnit {c : Counters} {f : AUnit → AUnit} (h : Formed s) : Formed { s.onUnit d f with cnt := c } := h

theorem formed_takeLog {r : UnitReq} (h : Formed s) : Formed (s.takeLog d r) := by
  unfold State.takeLog
  split
  · exact h
  · dsimp only
    split
    · exact formed_onUnit h
    · split
      · exact h
      · split
        · exact formed_cnt_onUnit h
        · exact formed_onUnit (formed_gWrite h)

theorem formed_diverge {r : UnitReq} (h : Formed s) : Formed (s.diverge d r) := by
  unfold State.diverge
  dsimp only
  split
  · split
    · exact formed_engineFault (formed_cnt_onUnit h)
    · exact formed_cnt_onUnit h
  · exact formed_cnt_onUnit h
  · exact formed_cnt_onUnit h

theorem formed_watchAdd {r : UnitReq} (h : Formed s) : Formed (s.watchAdd d r) := h

variable {o : DlOp}

theorem formed_answerSync {x : Nat} {ph : Bool} {new : Option Nat} (h : Formed s) : Formed (s.answerSync a o pa x ph new) := by
  unfold State.answerSync
  refine formed_perform ?_
  split
  · exact formed_addRec h
  · exact h

theorem formed_watchCheck {e : Nat × Nat × UnitReq} (h : Formed s) : Formed (s.watchCheck d e) := by
  have hl : ∀ pa op v u x ph new, s.watchLook d pa op v = .done u x ph new → Formed u := fun _ _ _ => formedSync_watchLook h
  unfold State.watchCheck
  dsimp only
  split
  · split
    · exact formed_onUnit h
    · split
      · next hd => exact formed_countAtom (formed_answerSync (formed_onUnit (hl _ _ _ _ _ _ _ hd)))
      · exact formed_onUnit h
      · exact formed_engineFault (formed_onUnit h)
  · split
    · split
      · next hd => exact formed_countAtom (formed_eutasSend (formed_onUnit (hl _ _ _ _ _ _ _ hd)))
      · exact h
      · exact formed_eutasSend (formed_onUnit h)
    all_goals exact formed_onUnit h
  · exact formed_onUnit h

theorem formed_watchAll (h : Formed s) : Formed (s.watchAll d pa) := formed_foldl (fun _ _ => formed_watchCheck) h

theorem formed_unitAtom {cas : Bool} {f : AtomFn} (h : Formed s) : Formed (s.unitAtom d a o pa cas f) := by
  have hw : ∀ {p : Prop} [Decidable p] {bs : List Byte}, Formed (if p then s.gWrite pa bs else s) := formed_ite (formed_gWrite h) h
  exact formed_unitDone (formed_perform (formed_cnt (formed_ite (formed_addRec hw) hw)))

theorem formed_unitSync {r : UnitReq} (h : Formed s) : Formed (s.unitSync d a o r) := by
  unfold State.unitSync
  split
  · next hd => exact formed_watchAll (formed_unitDone (formed_answerSync (formedSync_syncOp h _ _ _ _ hd)))
  · exact formed_unitBusy (formed_watchAdd h)
  · exact formed_unitBusy (formed_engineFault h)

theorem formed_unitTile {r : UnitReq} (h : Formed s) : Formed (s.unitTile d a o r) := by
  unfold State.unitTile
  split
  · exact formed_unitBusy (formed_eutasSend h)
  all_goals
    split
    · exact formed_watchAll (formed_unitAtom h)
    · exact formed_watchAll (formed_unitAtom h)
    · exact formed_unitSync h

theorem formed_memReq {req : MemReq} (h : Formed s) : Formed (s.memReq pa req).2 := by
  unfold State.memReq
  dsimp only
  split
  · exact h
  · exact formed_gWrite h
  · exact formed_gWrite h
  · exact formed_gWrite h
  · split
    · exact formed_gWrite h
    · exact h
  · exact formed_gWrite h
  · exact h

theorem formed_unitPeer {m n : Nat} {r : UnitReq} (h : Formed s) : Formed (s.unitPeer d m n r) := by
  unfold State.unitPeer
  split
  · exact formed_eutasSend (formed_countRef h)
  · exact formed_eutasSend h
  · split
    · split
      · exact formed_eutasSend (formed_countRef h)
      · split
        · next hd => exact formed_watchAll (formed_unitDone (formed_eutasSend (formedSync_syncOp h _ _ _ _ hd)))
        · exact formed_unitBusy (formed_watchAdd h)
        · exact formed_unitBusy (formed_eutasSend h)
    all_goals exact formed_watchAll (formed_unitDone (formed_eutasSend (formed_memReq h)))

theorem formed_unitTake (h : Formed s) : Formed (s.unitTake d) := by
  unfold State.unitTake
  dsimp only
  split
  · exact h
  · split
    · exact h
    · next r hr =>
      have hin : Formed (s.onUnit d fun u => { u with inq := u.inq.filter fun q => !(q == r) }) := formed_onUnit h
      split
      · split
        · exact hin
        · split
          · exact formed_sched (formed_putOp hin)
          · split
            · exact formed_refuse hin
            · exact formed_engineFault hin
            · exact formed_ite (formed_refuse hin) (formed_ite (formed_diverge hin) (formed_unitTile (formed_takeLog hin)))
      · split
        · exact formed_onUnit (formed_countRef hin)
        · exact formed_outbox hin
        · exact formed_watchAll (formed_unitDone (formed_outbox (formed_memReq hin)))
      · exact formed_unitPeer hin

theorem formed_opToUnit (h : Formed s) : Formed (s.opToUnit a o d pa) := formed_unitSend (formed_putOp h)

theorem formedNext_gateTimeout (h : Formed s) : FormedNext (execGateTimeout s) := by
  unfold execGateTimeout
  dsimp only
  split
  · exact formedNext h
  · split
    · exact formedNext (formed_foldl (fun _ _ => formed_diverge) (formed_onUnit h))
    · exact formedNext h

theorem formedNext_watchRecheck (h : Formed s) : FormedNext (execWatchRecheck s) := by
  unfold execWatchRecheck
  dsimp only
  split
  · exact formedNext h
  · split
    · exact formedNext (formed_sched (formed_watchCheck h))
    · exact formedNext (formed_watchCheck h)

end
end Sys2Proof.Proofs.MemoryForms
end

section
/-! PROOF. The canonical form of the memories over the copy engine, translation events, the supervisor and the synchronisation events (R262 to R291, R345 to R361, R421 to R432). -/

namespace Sys2Proof.Proofs.MemoryForms

open Sys2Proof Sys2Proof.Machine Sys2Proof.Laws

/-! ## The copy engine (R280 to R288) -/

section
variable {s : State} {a : Nat} {o : DlOp}

theorem formed_again (h : Formed s) : Formed (s.again a o) := formed_ite (formed_sched h) (formed_sched h)

theorem formed_migCommand {w : Requester} {cmd : Dword} (h : Formed s) : Formed (s.migCommand w cmd) :=
  formed_ite h (formed_ite (formed_migSlots h) (formed_sched (formed_migSlots h)))

theorem formed_doGst {pa home : Nat} (h : Formed s) : Formed (s.doGst a o pa home) := by
  unfold State.doGst
  dsimp only
  split
  · exact formed_sched (formed_putOp h)
  · split
    · exact formed_perform (formed_countG (formed_migSlots h))
    · exact formed_perform (formed_countG (formed_migCommand h))
  · exact formed_eutasSend (formed_putOp h)
  all_goals exact formed_perform (formed_countG (formed_addRec (formed_gWrite h)))

theorem formed_doGld {pa home : Nat} (h : Formed s) : Formed (s.doGld a o pa home) := by
  unfold State.doGld
  dsimp only
  split
  · exact formed_perform (formed_countG h)
  · exact formed_eutasSend (formed_putOp h)
  all_goals exact formed_perform (formed_countG h)

theorem formed_copyOn {rest : List Nat} (h : Formed s) : Formed (s.copyOn a o rest) :=
  formed_ite (formed_perform (formed_free h)) (formed_again (formed_putOp (formed_free h)))

theorem formed_runDone {run : List Nat} (h : Formed s) : Formed (s.runDone a o run) := formed_copyOn (formed_countG h)

theorem formed_landBytes {bs : List Byte} (h : Formed s) : Formed (s.landBytes a o bs) :=
  formed_copyOn (formed_countG (formed_onTile h fun _ => sound_engineWrite))

theorem formed_writeRun {e : TlbEntry} {run : List Nat} {bs : List Byte} (h : Formed s) : Formed (s.writeRun a o e run bs) :=
  formed_foldl (fun _ _ hs => formed_onTile (formed_gWrite hs) fun _ => sound_unitRecs) h

theorem formed_peerRead {e : TlbEntry} {m u n : Nat} (h : Formed s) : Formed (s.peerRead a o e m u n) := formed_eutasSend (formed_putOp h)

theorem formed_doRun {e : TlbEntry} {run : List Nat} {toLocal : Bool} (h : Formed s) : Formed (s.doRun a o e run toLocal) := by
  unfold State.doRun
  extract_lets va0
  generalize s.runCheck (o.who a) e o toLocal run = r, s.peerPage e va0 = p
  obtain ⟨_ | n | ⟨c, d⟩, u⟩ := r
  · cases toLocal with
    | true =>
      cases p with
      | none => exact formed_landBytes h
      | some m => exact formed_peerRead h
    | false =>
      cases p with
      | none => exact formed_ite (formed_engineFault h) (formed_runDone (formed_writeRun (formed_sramRead h)))
      | some m => exact formed_ite (formed_engineFault h) (formed_eutasSend (formed_putOp (formed_sramRead h)))
  · exact formed_refuse h
  · exact formed_engineFault h

theorem formed_startFill (h : Formed s) : Formed (s.startFill a o) := by
  unfold State.startFill
  split
  · exact formed_again (formed_putOp (formed_onTile h fun _ => sound_setRingOf))
  · exact formed_again h

theorem formed_fillLand {f : Filler} {n : Nat} {bs : List Byte} (h : Formed s) : Formed (s.fillLand a o f n bs) :=
  formed_again (formed_putOp (formed_countG (formed_onTile h fun _ => sound_setRingOf)))

theorem formed_fillRun {f : Filler} {e : TlbEntry} {run : List Nat} (h : Formed s) : Formed (s.fillRun a o f e run) := by
  unfold State.fillRun
  extract_lets va0
  generalize s.runCheck (o.who a) e o true run = r, s.peerPage e va0 = p
  obtain ⟨_ | n | ⟨c, d⟩, u⟩ := r
  · cases p with
    | none => exact formed_fillLand h
    | some m => exact formed_peerRead h
  · exact formed_refuse h
  · exact formed_engineFault h

theorem formed_served {va : Nat} {e : TlbEntry} (h : Formed s) : Formed (s.served a o va e) := by
  unfold State.served
  dsimp only
  refine formed_ite (formed_again (formed_putOp h)) ?_
  split
  · exact formed_doRun h
  · exact formed_doRun h
  · exact formed_doRun h
  · exact formed_doRun h
  · split
    · exact formed_fillRun h
    · exact h
  · split
    · exact formed_refuse h
    · exact formed_engineFault h
    · exact formed_doGld h
  · split
    · exact formed_refuse h
    · exact formed_engineFault h
    · exact formed_doGst h
  · exact formed_ite (formed_opToUnit h) (formed_again (formed_putOp h))

theorem formed_tryAccess {i : Instr} (h : Formed s) : Formed (s.tryAccess a o i) := by
  unfold State.tryAccess
  dsimp only
  split
  · exact formed_served h
  · split
    · refine formed_served ?_
      split
      · exact h
      · exact formed_fillUtlb h
    · exact formed_agenda (formed_putOp h)
    · exact formed_sched (formed_putOp h)
    · exact formed_sched (formed_putOp h)
    · exact formed_refuse h
    · exact formed_engineFault h

theorem formed_dmStep (h : Formed s) : Formed (s.dmStep a o) :=
  formed_ite (formed_again h) (formed_ite (formed_perform h) (formed_ite (formed_startFill h) (formed_ite (formed_again h) (formed_tryAccess h))))

theorem formedNext_dmCompletion (h : Formed s) : FormedNext (execDmCompletion s) := by
  unfold execDmCompletion
  dsimp only
  split
  · exact formedNext h
  · split
    · exact formedNext (formed_dmStep h)
    · exact formedNext (formed_dmStep h)
    · exact formedNext_ite (formedNext (formed_onTile h fun _ => sound_dmFinish)) (formedNext h)
    all_goals exact formedNext h

/-! ## Translation (R268 to R278) -/

theorem formed_coreAnswer {setD : Bool} (h : Formed s) : Formed (s.coreAnswer a o setD) := by
  have told : ∀ {u : State} {p : DlOp}, Formed u → Formed (if o.notice then u.pendNotice a p else u) := fun hu => formed_ite (formed_pendNotice hu) hu
  have hw := formed_tr (x := { s.tr with walks := s.tr.walks + 1 }) h
  unfold State.coreAnswer
  dsimp only
  split
  · next hu => exact told (formed_tryAccess (formed_putOp (formed_coreFill hw hu)))
  · exact formed_pend hw
  · exact told (formed_engineFault hw)
  · exact told (formed_engineFault hw)
  · exact told (formed_refuse hw)
  · exact told (formed_engineFault hw)

theorem formedNext_translationWalk (h : Formed s) : FormedNext (execTranslationWalk s) := by
  unfold execTranslationWalk
  split
  · exact formedNext h
  · exact formedNext_ite (formedNext (formed_coreAnswer h)) (formedNext h)

theorem formedNext_dUpdate (h : Formed s) : FormedNext (execDUpdate s) := by
  unfold execDUpdate
  split
  · exact formedNext h
  · exact formedNext_ite (formedNext (formed_coreAnswer h)) (formedNext h)

theorem formed_resolveRewalk {id : Word} (h : Formed s) : Formed (s.resolveRewalk id) :=
  formed_ite (formed_foldl (fun _ _ hs => formed_sched (formed_putOp hs)) (formed_faults h)) h

theorem formed_resolveFail {id : Word} (h : Formed s) : Formed (s.resolveFail id) :=
  formed_ite (formed_foldl (fun _ _ hs => formed_pendNotice (formed_engineFault hs)) (formed_faults h)) h

theorem formed_fqTailWrite {v : Nat} (h : Formed s) : Formed (s.fqTailWrite v) :=
  formed_ite h (formed_foldl (fun _ _ => formed_writeFault) (formed_tr h))

theorem formedNext_accessRetry (h : Formed s) : FormedNext (execAccessRetry s) := by
  unfold execAccessRetry
  split
  · exact formedNext h
  · split
    · exact formedNext_ite (formedNext h) (formedNext (formed_tryAccess (formed_putOp h)))
    all_goals exact formedNext h

theorem sound_peerRecs {t : Tile} {old : Nat} (h : Sound t) : Sound (t.peerRecs o old) := by
  unfold Tile.peerRecs
  dsimp only
  split
  · exact sound_addRec h
  · exact sound_addRec h
  · split
    · exact sound_addRec h
    · exact h
  · exact sound_foldl (fun _ _ => sound_unitRecs) h
  · exact sound_foldl (fun _ _ => sound_unitRecs) h
  · exact sound_addRec h
  · exact sound_addRec h
  · exact h

theorem formed_peerAnswer {id old fault detail : Nat} {ph : Bool} (h : Formed s) : Formed (s.peerAnswer a id old fault detail ph) := by
  unfold State.peerAnswer
  split
  · exact h
  · next o ho =>
    have hr : Formed (s.onTile a fun t => t.peerRecs o old) := formed_onTile h fun _ => sound_peerRecs
    refine formed_ite h (formed_ite (formed_engineFault h) ?_)
    dsimp only
    split
    · exact formed_landBytes hr
    · exact formed_landBytes hr
    · split
      · exact formed_fillLand hr
      · exact hr
    · exact formed_runDone hr
    · exact formed_runDone hr
    · exact formed_perform (formed_countG hr)
    · exact formed_perform (formed_countG hr)
    · exact formed_perform (formed_countG hr)
    · exact formed_perform (formed_countG hr)
    · exact formed_answerSync hr

/-! ## The supervisor (R421 to R432) -/

theorem formed_supTick (h : Formed s) : Formed (s.supTick a) := by
  have fin : ∀ {u : State}, Formed u → Formed (u.onTile a fun t => { t with supOp := none }) := fun hu => formed_onTile_of_sram hu fun _ => rfl
  unfold State.supTick
  dsimp only
  split
  · exact h
  · refine formed_ite h ?_
    split
    · exact fin (formed_dropTlb h)
    · exact fin (formed_dropTlb h)
    · refine formed_ite (formed_ite (formed_ite (fin (formed_dropTlb h)) ?_) h) (formed_ite h (fin h))
      exact formed_onTile_of_sram (formed_dropTlb h) fun _ => rfl
    · exact fin h
    · exact fin h

theorem sound_timerExpiry {t : Tile} {now : Nat} (h : Sound t) : Sound (t.timerExpiry now) := by
  unfold Tile.timerExpiry
  dsimp only
  split <;> exact h

theorem formedNext_supervisorTimerExpiry (h : Formed s) : FormedNext (execSupervisorTimerExpiry s) :=
  formedNext_ite (formedNext h) (formedNext (formed_onTile h fun _ => sound_timerExpiry))

theorem formed_dieRecord (h : Formed s) : Formed (s.dieRecord a) := h

theorem formed_replayRequest (h : Formed s) : Formed (s.replayRequest a) := formed_ite (formed_logOn h) (formed_ite (formed_gateOn h) h)

theorem formed_supBegin (h : Formed s) : Formed (s.supBegin a) := by
  have hn : Formed (s.onTile a fun t => { t with natAt := some (s.tick + Config.delay s.free % 1190), debugHeld := (s.tileAt a).causeNow = 0x17 }) :=
    formed_onTile_of_sram h fun _ => rfl
  exact formed_ite (formed_migCommand (formed_migSlots (formed_free hn))) (formed_free hn)

theorem formed_supEnd (h : Formed s) : Formed (s.supEnd a).1 := by
  unfold State.supEnd
  dsimp only
  split
  · split
    · refine formed_replayRequest (formed_ite h ?_)
      exact formed_onTile_of_sram h fun _ => rfl
    · exact h
  · split
    · exact formed_onTile h fun _ => sound_setTrapOff
    · split
      · exact h
      · split
        · exact h
        · exact formed_dieRecord h

theorem formed_shippedSupervisor (h : Formed s) : Formed (s.shippedSupervisor a) := by
  unfold State.shippedSupervisor
  refine formed_ite h ?_
  split
  · exact formed_supBegin h
  · exact formed_ite h (formed_onTile (formed_supEnd h) fun _ ht => sound_leave ht)

/-! ## Synchronisation (R345 to R361) -/

theorem formedNext_atomicArrival (h : Formed s) : FormedNext (execAtomicArrival s) := by
  unfold execAtomicArrival
  refine formedNext_ite ?_ (formedNext (formed_unitTake h))
  dsimp only
  split
  · exact formedNext h
  · split
    · exact formedNext_ite (formedNext (formed_tryAccess h)) (formedNext (formed_sched h))
    · exact formedNext_ite (formedNext (formed_tryAccess h)) (formedNext (formed_sched h))
    all_goals exact formedNext h

theorem sound_waitDone {t : Tile} {now : Nat} (h : Sound t) : Sound (t.waitDone now o) := by
  unfold Tile.waitDone
  dsimp only
  refine sound_putOp ?_
  split
  · exact h
  · split <;> exact h
  · exact h

theorem formedNext_tagWaitComplete (h : Formed s) : FormedNext (execTagWaitComplete s) := by
  unfold execTagWaitComplete
  split
  · exact formedNext h
  · exact formedNext_ite (formedNext (formed_onTile h fun _ => sound_waitDone)) (formedNext h)

theorem sound_tclrTick {t : Tile} {now : Nat} (h : Sound t) : Sound (t.tclrTick now) := by
  unfold Tile.tclrTick
  split <;> exact h

theorem sound_syncDone {t : Tile} {now : Nat} (h : Sound t) : Sound (t.syncDone now o) := by
  unfold Tile.syncDone
  refine sound_putOp ?_
  split
  · split <;> exact h
  · exact h

theorem formed_mapLaunches {f : Launch → Launch} (h : Formed s) (hf : ∀ l, SavedSound l → SavedSound (f l)) :
    Formed { s with sch := { s.sch with launches := s.sch.launches.map f } } := formed_launches h fun l hl => by
  obtain ⟨k, hk, rfl⟩ := List.mem_map.mp hl
  exact hf k (h.saved k hk)

theorem formed_noteRing {t : Tile} (h : Formed s) : Formed (s.noteRing t) := formed_mapLaunches h fun l hl => by
  split <;> exact hl

theorem formedNext_bellRing (h : Formed s) : FormedNext (execBellRing s) := by
  unfold execBellRing
  dsimp only
  split
  · exact formedNext h
  · exact formedNext_ite (formedNext (formed_noteRing (formed_putOp h))) (formedNext h)

theorem formed_periodEnd (h : Formed s) : Formed (s.periodEnd a o) := by
  refine formed_ite (formed_mapTiles ?_ fun t ht => ?_) h
  · exact formed_onTile_of_sram h fun _ => rfl
  · split <;> exact ht

theorem formedNext_bellRelease (h : Formed s) : FormedNext (execBellRelease s) := by
  unfold execBellRelease
  dsimp only
  split
  · exact formedNext h
  · split
    · exact formedNext h
    · refine formedNext_ite (formedNext h) (formedNext (formed_free (formed_foldl (fun u t hu => ?_) h)))
      split
      · exact formed_putOp hu
      · exact hu

end
end Sys2Proof.Proofs.MemoryForms
end

section
/-! PROOF. The canonical form of the memories over transfers, zones, the exchange and EUTAS (R297 to R325, R368 to R390). -/

namespace Sys2Proof.Proofs.MemoryForms

open Sys2Proof Sys2Proof.Machine Sys2Proof.Laws

/-! ## Zones (R307 to R312) -/

section
variable {t : Tile} {z : Zone}

theorem sound_zoneDone {n : Nat} (h : Sound t) : Sound (t.zoneDone n) := by
  unfold Tile.zoneDone
  dsimp only
  split <;> exact h

theorem sound_zoneApply {first : Bool} {off : Nat} {bs : List Byte} (h : Sound t) : Sound (t.zoneApply z first off bs).1 := by
  unfold Tile.zoneApply
  dsimp only
  split <;> exact sound_engineWrite h

/-- Held packets of a rank are applied in turn. -/
theorem sound_applyHeld {l : List (Nat × Nat × List Byte)} {read : List Nat} (h : Sound t) : Sound (l.foldl (fun (x : Tile × List Nat) q =>
    let y := x.1.zoneApply z false q.2.1 q.2.2; (y.1, x.2 ++ y.2)) (t, read)).1 :=
  List.foldlRecOn (motive := fun x : Tile × List Nat => Sound x.1) l _ h fun _ hx _ _ => sound_zoneApply hx

theorem sound_zoneAdvance {len fuel : Nat} {read : List Nat} {c : Chunk} (h : Sound t) : Sound (t.zoneAdvance z len read fuel c).1 := by
  induction fuel generalizing t read c with
  | zero => exact h
  | succ n ih =>
    unfold Tile.zoneAdvance
    split
    · exact ih (sound_applyHeld h)
    · exact h

theorem sound_setZone {n : Nat} (h : Sound t) : Sound (t.setZone n z) := h

/-- The tile after a packet that its zone accepts. -/
def SoundLanding (x : Landing) : Prop := ∀ u read, x = .accepted u read → Sound u

theorem soundLanding_overflow : SoundLanding .overflow := fun _ _ he => nomatch he
theorem soundLanding_refused {n : Nat} : SoundLanding (.refused n) := fun _ _ he => nomatch he

theorem soundLanding_accepted {read : List Nat} (h : Sound t) : SoundLanding (.accepted t read) := fun _ _ he => by
  cases he
  exact h

theorem soundLanding_ite {p : Prop} [Decidable p] {x y : Landing} (hx : SoundLanding x) (hy : SoundLanding y) : SoundLanding (if p then x else y) := by
  split
  · exact hx
  · exact hy

theorem soundLanding_landPacket {n level rank off : Nat} {bs : List Byte} (h : Sound t) : SoundLanding (t.landPacket n level rank off bs) :=
  soundLanding_ite soundLanding_overflow
    (soundLanding_ite (soundLanding_ite soundLanding_overflow (soundLanding_accepted (sound_zoneDone (sound_setZone (sound_engineWrite h)))))
      (soundLanding_ite soundLanding_overflow
        (soundLanding_ite soundLanding_overflow
          (soundLanding_ite (soundLanding_accepted (sound_zoneDone (sound_setZone (sound_zoneAdvance (sound_zoneApply h)))))
            (soundLanding_ite soundLanding_refused (soundLanding_accepted (sound_setZone h)))))))

end

/-! ## Updates of other fields, for use under a further update -/

section
variable {s : State}

theorem formed_eutas {x : EutasRegs} (h : Formed s) : Formed { s with eutas := x } := h
theorem formed_nextPacket {l : List Packet} {n : Nat} (h : Formed s) : Formed { s with packets := l, nextPacket := n } := h
theorem formed_packets_eutas {l : List Packet} {x : EutasRegs} (h : Formed s) : Formed { s with packets := l, eutas := x } := h
theorem formed_eutas_agenda {x : EutasRegs} {l : List (Nat × Instr × EvArg)} (h : Formed s) : Formed { s with eutas := x, agenda := l } := h
theorem formed_badMem {l : List Nat} (h : Formed s) : Formed { s with badMem := l } := h

end

/-! ## Packets (R308 to R325) -/

section
variable {s : State} {a : Nat} {p : Packet} {o : DlOp}

theorem formed_zoneOverflow {n : Nat} (h : Formed s) : Formed (s.zoneOverflow a n) := by
  refine formed_lateCause (formed_eutas ?_)
  exact formed_onTile_of_sram h fun _ => rfl

theorem formed_dropPacket {id : Nat} (h : Formed s) : Formed (s.dropPacket id) := h

theorem formed_packetDone (h : Formed s) : Formed (s.packetDone p) := by
  unfold State.packetDone
  dsimp only
  split
  · exact formed_eutasSend (formed_dropPacket h)
  · exact formed_dropPacket h

theorem formed_packetRefused {n : Nat} (h : Formed s) : Formed (s.packetRefused p n) := by
  unfold State.packetRefused
  dsimp only
  split
  · exact formed_eutasSend (formed_dropPacket (formed_countRef h))
  · refine formed_agenda ?_
    split
    · split
      · exact formed_putOp (formed_countRef h)
      · exact formed_countRef h
    · exact formed_countRef h

theorem formed_discardPacket (h : Formed s) : Formed (s.discardPacket p) := formed_cnt (formed_packetDone h)

theorem formed_sendPacket (h : Formed s) : Formed (s.sendPacket p) := h

/-- What is done to a tile as an earlier launch left it there (R118). -/
theorem formed_asPrev {l : Dword} {f : State → State} (h : Formed s) (hf : ∀ u, Formed u → Formed (f u)) : Formed (s.asPrev a l f) := by
  unfold State.asPrev
  dsimp only
  split
  · exact hf s h
  · next v older _ =>
    have hu : Formed (f (s.setTile ((s.tileAt a).asLeft v older))) := hf _ (formed_setTile h (formed_tileAt h a))
    refine formed_setTile hu ?_
    exact formed_tileAt hu a

theorem formed_agent {f : State → State} (h : Formed s) (hf : ∀ u, Formed u → Formed (f u)) : Formed (s.agent f) :=
  formed_ite (formed_asPrev h hf) (hf s h)

theorem formed_zoneRead {n : Nat} {read : List Nat} (h : Formed s) : Formed (s.zoneRead a n read) :=
  formed_ite (formed_lateCause (formed_correct h)) (formed_correct h)

theorem formed_packetLands (h : Formed s) : Formed (State.packetLands p s) := by
  unfold State.packetLands
  dsimp only
  split
  · exact formed_packetRefused h
  · refine formed_ite (formed_discardPacket h) (formed_ite (formed_packetRefused h) (formed_ite (formed_ite (formed_discardPacket h) (formed_packetRefused h)) ?_))
    split
    · next read _ =>
      have hz : Formed (s.zoneRead p.dst p.zone read) := formed_zoneRead h
      refine formed_packetDone (formed_cnt (formed_setTile hz ?_))
      split
      · next hu => exact soundLanding_landPacket (formed_tileAt hz p.dst) _ _ hu
      · exact formed_tileAt hz p.dst
      · exact formed_tileAt hz p.dst
    · exact formed_packetRefused h
    · exact formed_packetDone (formed_zoneOverflow h)

theorem formedNext_packetArrival (h : Formed s) : FormedNext (execPacketArrival s) := by
  unfold execPacketArrival
  split
  · exact formedNext h
  · exact formedNext (formed_asPrev h fun _ => formed_packetLands)

theorem sound_setTags {t : Tile} {tag : Option (BitVec 6)} (h : Sound t) : Sound (match tag with | some n => t.setTag n.toNat | none => t) := by
  split <;> exact h

theorem formed_pushDone (h : Formed s) : Formed (s.pushDone a o) := formed_putOp (formed_onTile h fun _ => sound_setTags)

theorem formed_awaySend {m : Nat} (h : Formed s) : Formed (s.awaySend p m) := formed_eutasSend h

theorem formed_rankSend {rank : Nat} (h : Formed s) : Formed (s.rankSend a o rank p) := by
  unfold State.rankSend
  dsimp only
  split
  · exact formed_sendPacket h
  · exact formed_awaySend (formed_nextPacket h)

theorem formed_pushSend {start : Nat} {bs : List Byte} (h : Formed s) : Formed (s.pushSend a o start bs) := formed_rankSend h

theorem formed_pushStep (h : Formed s) : Formed (s.pushStep a o) := by
  unfold State.pushStep
  dsimp only
  refine formed_ite (formed_pushDone h) (formed_ite (formed_sched h) ?_)
  split
  · exact formed_pushDone h
  · refine formed_ite (formed_sched h) ?_
    split
    · exact formed_engineFault h
    · have hs := fun ps start bs => formed_pushSend (a := a) (o := o) (start := start) (bs := bs) (formed_sramRead (a := a) (ps := ps) h)
      exact formed_ite (formed_engineFault h) (formed_ite (formed_pushDone (hs ..)) (formed_sched (formed_putOp (hs ..))))

theorem formed_msgStep (h : Formed s) : Formed (s.msgStep a o) := by
  unfold State.msgStep
  dsimp only
  refine formed_ite (formed_sched h) ?_
  split
  · exact formed_engineFault h
  · refine formed_ite (formed_rankSend (formed_putOp h)) (formed_ite (formed_engineFault h) ?_)
    exact formed_rankSend (formed_putOp (formed_onTile (formed_sramRead h) fun _ => sound_setTags))

theorem formed_msgAccepted (h : Formed s) : Formed (s.msgAccepted p) := by
  have hd : Formed (s.packetDone p) := formed_packetDone h
  unfold State.msgAccepted
  dsimp only
  split
  · split
    · exact formed_putOp hd
    · exact hd
  · exact hd

theorem formed_ntTick (h : Formed s) : Formed (s.ntTick a) := by
  unfold State.ntTick
  dsimp only
  split
  · exact h
  · split
    · exact formed_onTile_of_sram h fun _ => rfl
    · refine formed_ite (formed_engineFault h) ?_
      exact formed_onTile_of_sram h fun _ => rfl
    · split
      · exact formed_onTile_of_sram h fun _ => rfl
      · exact formed_onTile_of_sram h fun _ => rfl

/-! ## The exchange (R297 to R301) -/

theorem formed_kilnHinder {f : KPart → Bool} (h : Formed s) : Formed (s.kilnHinder f) := h

theorem formedNext_windowStart (h : Formed s) : FormedNext (execWindowStart s) := by
  unfold execWindowStart
  dsimp only
  split
  · exact formedNext h
  · split
    · refine formedNext (formed_kilnHinder ?_)
      exact formed_onTile_of_sram h fun _ => rfl
    · exact formedNext (formed_periodEnd (formed_putOp h))

theorem sound_ingressBeat {tt : Timetable} {τ : Nat} {b : Beat} {g : Ingress} {t : Tile} (h : Sound t) : Sound (ingressBeat tt τ b g t).2 := by
  unfold ingressBeat
  dsimp only
  split
  · split
    · exact sound_engineWrite h
    · exact h
  · split
    · exact sound_engineWrite h
    · exact h

theorem formed_exchTick {x : Exch} {ms : List (Nat × Timetable)} {τ : Nat} (h : Formed x.st) : Formed (x.tick ms τ).st :=
  List.foldlRecOn (motive := fun x : Exch => Formed x.st) _ _ h fun _ hx _ _ => formed_setTile hx
    (List.foldlRecOn (motive := fun y : Ingress × Tile => Sound y.2) _ _ (formed_tileAt hx _) fun _ hy _ _ => sound_ingressBeat hy)

theorem formed_exchRun {ms : List (Nat × Timetable)} {n τ : Nat} {x : Exch} (h : Formed x.st) : Formed (Exch.run ms n τ x).st := by
  induction n generalizing τ x with
  | zero => exact h
  | succ n ih => exact ih (formed_exchTick h)

theorem formed_countExch (h : Formed s) : Formed (s.countExch a) := formed_record (formed_countErr (formed_eutas h))

theorem formed_exchange {w die : Nat} (h : Formed s) : Formed (s.exchange w die) := by
  refine formed_foldl (fun _ _ => formed_countExch) (formed_foldl (fun u m hu => ?_) (formed_exchRun h))
  have hc := fun n : Nat => formed_corrected (n := n) (unit := 6) (who := u.mtile m.1) (formed_countErr (a := m.1) (f := fun e => { e with corr := e.corr + n }) hu)
  exact formed_onTile_of_sram (formed_ite hu (hc _)) fun _ => rfl

theorem formedNext_windowEnd (h : Formed s) : FormedNext (execWindowEnd s) := by
  unfold execWindowEnd
  extract_lets a
  split
  · exact formedNext h
  · refine formedNext_ite (formedNext h) ?_
    extract_lets s1 x t
    have h1 : Formed s1 := formed_ite h (formed_exchange h)
    split
    · exact formedNext (formed_onTile_of_sram h1 fun _ => rfl)
    · next o _ =>
      extract_lets s2 s3 s4 s5
      have h2 : Formed s2 := formed_onTile_of_sram h1 fun _ => rfl
      have h3 : Formed s3 := formed_periodEnd h2
      have h4 : Formed s4 := formed_countExch h3
      have h5 : Formed s5 := by
        dsimp only [s5]
        split
        · exact h3
        · exact formed_ite h4 (formed_lateCause h4)
      exact formedNext (formed_ite (formed_lateCause h5) h5)

/-! ## Migration by copy, peers (R368 to R390) -/

theorem formed_migEnd {w : Requester} {n : Nat} (h : Formed s) : Formed (s.migEnd w n) := h
theorem formed_migNext {m : MigReq} {n : Nat} (h : Formed s) : Formed (s.migNext m n) := h
theorem formed_putMig {m : MigReq} (h : Formed s) : Formed (s.putMig m) := h

theorem formed_copyBytes {w : Requester} {x : Nat} (h : Formed s) : Formed (s.copyBytes w x) := by
  unfold State.copyBytes
  split
  · exact h
  · exact formed_migNext (formed_gWrite h)

theorem formed_copyLost {w : Requester} (h : Formed s) : Formed (s.copyLost w) := by
  unfold State.copyLost
  dsimp only
  split
  · exact h
  · exact formed_migNext (formed_badMem h)

theorem formed_lostPacket (h : Formed s) : Formed (s.lostPacket p) := by
  unfold State.lostPacket
  split
  · split
    · split
      · exact formed_engineFault h
      · exact formed_lateCause h
    · exact formed_ite (formed_tileRecord (formed_noteCause h)) h
  · exact h

theorem formed_lostOp {m : Nat} {e : EutasAsk} (h : Formed s) : Formed (State.lostOp m s e) := by
  unfold State.lostOp
  split
  · split
    · exact formed_ite (formed_engineFault h) h
    · exact h
  · exact h
  · exact formed_copyLost h

theorem formed_dropPeer {m : Nat} (h : Formed s) : Formed (s.dropPeer m) := formed_mapTiles (formed_dropTlb h) fun _ => id

theorem formed_peerGone {m : Nat} (h : Formed s) : Formed (s.peerGone m) :=
  formed_foldl (fun _ _ => formed_lostPacket) (formed_foldl (fun _ _ => formed_lostOp)
    (formed_foldl (fun _ _ => formed_engineFault) (formed_packets_eutas (formed_dropPeer h))))

theorem formed_peerLoss {m : Nat} (h : Formed s) : Formed (s.peerLoss m) := formed_peerGone (formed_eutas h)

theorem formed_linksChanged {b : State} (h : Formed s) : Formed (State.linksChanged b s) :=
  formed_foldl (fun _ _ hs => formed_ite (formed_peerGone hs) (formed_ite (formed_dropPeer hs) hs)) h

theorem formed_setLinks {mask : Nat} {up : Bool} (h : Formed s) : Formed (s.setLinks mask up) := h

theorem formedNext_peerLoss (h : Formed s) : FormedNext (execPeerLoss s) :=
  formedNext (formed_ite (formed_peerLoss h) (formed_linksChanged (formed_setLinks h)))

theorem formed_asOwner {f : State → DlOp → State} (h : Formed s) (hf : ∀ u o, Formed u → Formed (f u o)) : Formed (s.asOwner a o f) := by
  unfold State.asOwner
  split
  · exact hf s o h
  · refine formed_asPrev h fun u hu => ?_
    split
    · exact hf u _ hu
    · exact hu

theorem formedNext_packetRetry (h : Formed s) : FormedNext (execPacketRetry s) := by
  unfold execPacketRetry
  refine formedNext_ite ?_ (formedNext_ite ?_ ?_)
  · dsimp only
    split
    · exact formedNext h
    · refine formedNext_ite (formedNext (formed_sched h)) (formedNext (formed_asOwner h fun u o hu => ?_))
      split
      · exact formed_pushStep hu
      · exact formed_pushStep hu
      · exact formed_msgStep hu
      · exact formed_msgStep hu
      · exact hu
  · split
    · exact formedNext h
    · exact formedNext_ite (formedNext (formed_sched h)) (formedNext (formed_sched h))
  · split
    · exact formedNext h
    · refine formedNext_ite (formedNext (formed_sched h)) ?_
      split
      · exact formedNext (formed_ite (formed_awaySend h) (formed_lostPacket (formed_dropPacket h)))
      · exact formedNext (formed_sched h)

theorem formed_peerPacket {asid : Half} {rank : Nat} (h : Formed s) : Formed (s.peerPacket asid rank p) := by
  unfold State.peerPacket
  split
  · exact formed_sendPacket h
  · exact formed_ite (formed_packetRefused (formed_free h)) (formed_discardPacket (formed_free h))

theorem formed_peerRequest {m n pa : Nat} {req : MemReq} (h : Formed s) : Formed (s.peerRequest m n pa req) := by
  unfold State.peerRequest
  refine formed_ite (formed_eutasSend h) ?_
  split
  · split
    · exact formed_eutasSend (formed_countRef h)
    · exact formed_eutasSend h
    · exact formed_eutasSend (formed_memReq h)
  · split
    · exact formed_eutasSend (formed_countRef h)
    · exact formed_eutasSend h
    · exact formed_eutasSend (formed_memReq h)
  all_goals exact formed_unitSend h

theorem formed_acked {m n : Nat} (h : Formed s) : Formed (s.acked m n) := h

theorem formed_answered {m seq old fault detail : Nat} {ph : Bool} (h : Formed s) : Formed (s.answered m seq old fault detail ph) := by
  unfold State.answered
  dsimp only
  split
  · exact h
  · split
    · exact formed_peerAnswer (formed_eutas h)
    · exact formed_ite (formed_copyBytes (formed_eutas h)) (formed_copyLost (formed_eutas h))
    · split
      · exact formed_eutas h
      · exact formed_ite (formed_msgAccepted (formed_eutas h)) (formed_dropPacket (formed_eutas h))

theorem formed_migs_agenda {l : List MigReq} {q : List (Nat × Instr × EvArg)} (h : Formed s) : Formed { s with migs := l, agenda := q } := h

theorem formed_refusedBy {m seq hint : Nat} (h : Formed s) : Formed (s.refusedBy m seq hint) := by
  unfold State.refusedBy
  dsimp only
  split
  · exact h
  · split
    · split
      · exact formed_refuse (formed_eutas h)
      · exact formed_eutas h
    · exact formed_migs_agenda (formed_countRef (formed_eutas h))
    · split
      · exact formed_eutas h
      · exact formed_packetRefused (formed_eutas h)

theorem formed_deliver {m n : Nat} {b : EutasBody} (h : Formed s) : Formed (s.deliver m n b) := by
  unfold State.deliver
  dsimp only
  split
  · exact h
  · exact formed_peerPacket h
  · exact formed_peerPacket h
  · exact formed_peerRequest h
  · exact formed_answered h
  · exact formed_refusedBy h

theorem formed_replayed {k n : Nat} (h : Formed s) : Formed (s.replayed k n) := formed_eutas (formed_corrected h)

theorem formedNext_eutasPacketReceive (h : Formed s) : FormedNext (execEutasPacketReceive s) :=
  formedNext_ite (formedNext (formed_acked (formed_replayed h)))
    (formedNext_ite (formedNext (formed_outbox (formed_replayed h))) (formedNext (formed_deliver (formed_eutas (formed_outbox (formed_replayed h))))))

theorem formedNext_eutasRetransmit (h : Formed s) : FormedNext (execEutasRetransmit s) := by
  unfold execEutasRetransmit
  split
  · exact formedNext h
  · exact formedNext_ite (formedNext h) (formedNext_ite (formedNext (formed_peerLoss h)) (formedNext (formed_eutas_agenda h)))

theorem formedNext_peerReachableAgain (h : Formed s) : FormedNext (execPeerReachableAgain s) :=
  formedNext_ite (formedNext (formed_dropPeer (formed_eutas h))) (formedNext (formed_linksChanged (formed_setLinks h)))

end
end Sys2Proof.Proofs.MemoryForms
end

section
/-! PROOF. The canonical form of the memories over collective operations and tasks (R323 to R338, R392 to R411). -/

namespace Sys2Proof.Proofs.MemoryForms

open Sys2Proof Sys2Proof.Machine Sys2Proof.Laws

theorem sound_ite {p : Prop} [Decidable p] {t u : Tile} (ht : Sound t) (hu : Sound u) : Sound (if p then t else u) := by
  split
  · exact ht
  · exact hu

/-! ## Collective operations (R323 to R338) -/

section
variable {s : State} {a : Nat} {k : KPart} {o : DlOp}

theorem formed_kiln_air {l m : List KPart} (h : Formed s) : Formed { s with kiln := l, kilnAir := m } := h
theorem formed_kilnAir_child {l : List KPart} {n : Nat} (h : Formed s) : Formed { s with kilnAir := l, nextChild := n } := h

theorem formed_sendWithin {b : Option Nat} {p : Packet} (h : Formed s) : Formed (s.sendWithin b p) := h

theorem formed_kilnSend (h : Formed s) : Formed (s.kilnSend k) := by
  unfold State.kilnSend
  dsimp only
  split
  · exact h
  · exact formed_foldl (fun _ _ => formed_sendWithin) h

theorem formed_abortAt {c : Cause} {unit : Nat} {skip : Bool} (h : Formed s) : Formed (s.abortAt a k c unit skip) := by
  unfold State.abortAt
  dsimp only
  split
  · next x _ =>
    have hs : Formed (s.onTile a fun t => { t with kslots := t.kslots.map fun y => if y.isOf k then { y with abort := some c } else y }) :=
      formed_onTile_of_sram h fun _ => rfl
    exact formed_ite hs (formed_onTile hs fun _ => sound_giveCause)
  · refine formed_ite h ?_
    exact formed_onTile_of_sram h fun _ => rfl

theorem formed_kilnBad (h : Formed s) : Formed (s.kilnBad k) := formed_tileRecord (formed_ite h (formed_countErr h))

theorem formed_kilnSoft (h : Formed s) : Formed (s.kilnSoft k) := formed_ite h (formed_corrected (formed_ite h (formed_countErr h)))

theorem formed_abort {c : Cause} {unit : Nat} {skip : Option Nat} (h : Formed s) : Formed (s.abort k c unit skip) :=
  formed_foldl (fun _ _ hs => formed_asPrev hs fun _ => formed_abortAt) (formed_kiln_air h)

theorem formed_kilnHop (h : Formed s) : Formed (s.kilnHop k) := formed_sched h

theorem formed_kilnClock (h : Formed s) : Formed (s.kilnClock k) := formed_ite (formed_agenda (formed_kiln_air h)) h

theorem formed_kilnGo (h : Formed s) : Formed (s.kilnGo k) :=
  formed_ite (formed_ite (formed_abort (formed_kilnBad h)) (formed_kilnSend h)) (formed_kilnHop (formed_kilnAir_child h))

theorem sound_knLate {t : Tile} {id : Nat} (h : Sound t) : Sound (t.knLate id) := by
  unfold Tile.knLate
  split <;> exact h

theorem formed_childRefused (h : Formed s) : Formed (s.childRefused k) := by
  refine formed_agenda (formed_countRef (formed_kilnHinder ?_))
  split
  · split
    · exact formed_putOp h
    · exact formed_onTile h fun _ => sound_knLate
  · exact h

theorem formedNext_kilnChildArrival (h : Formed s) : FormedNext (execKilnChildArrival s) := by
  unfold execKilnChildArrival
  dsimp only
  split
  · exact formedNext h
  · next k _ =>
    have hk : Formed (s.kilnSoft k) := formed_kilnSoft h
    split
    · exact formedNext_ite (formedNext (formed_abort hk))
        (formedNext_ite (formedNext (formed_abort (formed_kilnBad hk))) (formedNext (formed_kilnGo (formed_kiln_air hk))))
    · exact formedNext_ite (formedNext (formed_childRefused hk)) (formedNext (formed_ite (formed_abort (formed_kiln_air hk)) (formed_kiln_air hk)))

theorem formed_kopenAt (h : Formed s) : Formed (s.kopenAt a o) := by
  refine formed_ite (formed_engineFault h) ?_
  dsimp only
  split
  · refine formed_onTile ?_ fun _ => sound_giveCause
    exact formed_onTile_of_sram h fun _ => rfl
  · exact formed_onTile_of_sram h fun _ => rfl

theorem formed_contribBegin {size : Nat} (h : Formed s) : Formed (s.contribBegin a o size) := formed_ite (formed_putOp h) h

theorem formed_contribAt (h : Formed s) : Formed (s.contribAt a o) := by
  unfold State.contribAt
  dsimp only
  split
  · exact formed_engineFault h
  · refine formed_ite (formed_engineFault h) (formed_ite (formed_engineFault h) (formed_contribBegin (formed_onTile h fun t ht => sound_putOp ?_)))
    split <;> exact ht

theorem formed_contribRead (h : Formed s) : Formed (s.contribRead a o) := by
  unfold State.contribRead
  extract_lets t
  split
  · exact formed_dropOp h
  · extract_lets ps leaf r s1 s2
    refine formed_ite (formed_abort (formed_engineFault h)) ?_
    have h1 : Formed s1 := formed_onTile_of_sram (formed_sramRead h) fun _ => rfl
    have h2 : Formed s2 := formed_kilnGo (formed_kilnClock h1)
    exact formed_ite h1 (formed_ite (formed_abort h2) h2)

theorem formed_kfinEnd (h : Formed s) : Formed (s.kfinEnd a o) := by
  refine formed_ite (formed_engineFault h) (formed_onTile (formed_sramRead h) fun t ht => ?_)
  exact sound_putOp (sound_setTags (sound_engineWrite ht))

theorem formed_kresAt (h : Formed s) : Formed (s.kresAt a o) := by
  have hf : ∀ {x : KSlot} {r : Bool} {v : Option Bus} {st : Dword}, Formed (s.onTile a fun t => (t.putSlot { x with released := r }).knDone o s.tick v st) :=
    formed_onTile_of_sram h fun _ => rfl
  unfold State.kresAt
  dsimp only
  split
  · exact formed_onTile_of_sram h fun _ => rfl
  · exact formed_ite hf (formed_ite (formed_ite hf h) hf)

theorem formed_knTick (h : Formed s) : Formed (s.knTick a) := by
  have hactive : ∀ {o : DlOp}, Formed (if (s.tileAt a).preHalted then s
      else if o.prog = 0 then
        (match (s.tileAt a).kslots.find? fun x => x.id = busBits o.b 7 0 ∧ x.contributed ∧ !x.tagSet with
         | some x => s.contribBegin a o x.par.resultBytes
         | none => s.onTile a fun t => t.dropOp o.id)
      else if o.due ≤ s.tick then s.contribRead a o else s) := by
    refine formed_ite h (formed_ite ?_ (formed_ite (formed_contribRead h) h))
    split
    · exact formed_contribBegin h
    · exact formed_dropOp h
  unfold State.knTick
  dsimp only
  split
  · exact h
  · split
    · exact formed_kopenAt h
    · exact formed_ite h (formed_contribAt h)
    · exact formed_ite h (formed_contribAt h)
    · exact hactive
    · exact hactive
    · refine formed_onTile h fun t ht => sound_putOp ?_
      split <;> exact ht
    · exact formed_ite (formed_kfinEnd h) h
    · exact formed_kresAt h
    · exact h

theorem formed_kilnHalt (h : Formed s) : Formed (s.kilnHalt a) := by
  refine formed_foldl (fun _ _ => formed_abort) ?_
  exact formed_onTile_of_sram h fun _ => rfl

end

/-! ## Tasks (R392 to R411) -/

section
variable {t : Tile} {now : Nat} {o : DlOp}

theorem sound_tkDone {due : Nat} {x : Option Bus} {st : Dword} (h : Sound t) : Sound (t.tkDone o due x st) := h

theorem sound_switchTo {i : Nat} (h : Sound t) : Sound (t.switchTo now i) := h

theorem sound_resumeEnd {w : Nat} (h : Sound t) : Sound (t.resumeEnd now w) := by
  unfold Tile.resumeEnd
  split <;> exact h

theorem sound_afterLeave {u : Nat} {c : Upcall} (h : Sound t) : Sound (t.afterLeave now u c) := by
  cases c with
  | fault => exact sound_ite h h
  | _ => exact h

theorem sound_parkLeft {u : Nat} (h : Sound t) : Sound (t.parkLeft u) := by
  unfold Tile.parkLeft
  split
  · exact sound_ite h h
  · exact sound_ite h h
  all_goals exact h

theorem sound_leaveTask (h : Sound t) : Sound (t.leaveTask now) := by
  unfold Tile.leaveTask
  split
  · extract_lets last t1 t2 t3 d
    have h3 : Sound t3 := sound_resumeEnd (sound_applyWakes (sound_onTasks (sound_parkLeft (sound_afterLeave (sound_onBank h)))))
    clear_value t3
    exact h3
  · exact h

theorem formedNext_taskSwitchOut {s : State} (h : Formed s) : FormedNext (execTaskSwitchOut s) :=
  formedNext (formed_onTile h fun _ ht => sound_ite (sound_leaveTask ht) ht)

theorem sound_takePend {w : Nat} {u : Tile} (h : Sound t) (hu : t.takePend = some (w, u)) : Sound u := by
  unfold Tile.takePend at hu
  split at hu
  · cases hu
  · cases hu
    exact h

theorem sound_doSpawn (h : Sound t) : Sound (t.doSpawn now o) :=
  sound_ite (sound_ite h h) (sound_ite (sound_ite h h) (sound_ite h h))

theorem sound_doSleep (h : Sound t) : Sound (t.doSleep now o) := by
  unfold Tile.doSleep
  dsimp only
  split
  · exact h
  · refine sound_ite h (sound_tkDone (sound_ite h ?_))
    split <;> exact h

theorem sound_doPrio (h : Sound t) : Sound (t.doPrio now o) := sound_ite h (sound_ite h (sound_tkDone (sound_ite h h)))

theorem sound_doNext (h : Sound t) : Sound (t.doNext now o) := by
  unfold Tile.doNext
  split
  · exact h
  · exact sound_tkDone (sound_ite h h)

theorem sound_startLoad {op id e : Nat} {k : BitVec 2} (h : Sound t) : Sound (t.startLoad op id k e) := h

theorem sound_doResume (h : Sound t) : Sound (t.doResume now o) := by
  unfold Tile.doResume
  dsimp only
  split
  · next hu => exact sound_tkDone (sound_takePend h hu)
  · refine sound_ite h (sound_ite h (sound_ite h (sound_ite h (sound_ite h ?_))))
    split
    · exact sound_ite h h
    · exact sound_ite h h

theorem sound_doMsgrd (h : Sound t) : Sound (t.doMsgrd now o) := by
  unfold Tile.doMsgrd
  dsimp only
  split <;> exact h

theorem sound_doTidle (h : Sound t) : Sound (t.doTidle now o) := by
  unfold Tile.doTidle
  split
  · next hu => exact sound_tkDone (sound_takePend h hu)
  · split
    · exact h
    · exact sound_ite h h

theorem sound_clearBank {k : BitVec 2} {b : Strand} (h : Sound t) : Sound (t.clearBank k b) := h
theorem sound_loadCauses {k : BitVec 2} {u : Nat} (h : Sound t) : Sound (t.loadCauses k u) := h
theorem sound_storeCauses {k : BitVec 2} {u : Nat} (h : Sound t) : Sound (t.storeCauses k u) := h

theorem sound_rouse (h : Sound t) : Sound (t.rouse now) := sound_wake h

theorem sound_ageTask {i : Nat} (h : Sound t) : Sound (t.ageTask now i) :=
  sound_ite h (sound_ite h (sound_makeReady (sound_onTasks h)))

theorem sound_endDeadline {i : Nat} (h : Sound t) : Sound (t.endDeadline now i) := by
  unfold Tile.endDeadline
  split
  · exact h
  · exact sound_ite h (sound_wakeTask (sound_onTasks h))

end

section
variable {s : State} {a : Nat}

theorem formedNext_spawnCreateEnd (h : Formed s) : FormedNext (execSpawnCreateEnd s) := by
  unfold execSpawnCreateEnd
  dsimp only
  split
  · refine formedNext_ite (formedNext h) ?_
    split
    · exact formedNext (formed_onTile_of_sram h fun _ => rfl)
    · exact formedNext (formed_onTile h fun _ ht => sound_tkDone (sound_makeReady (sound_onTasks (sound_engineWrite ht))))
  all_goals exact formedNext h

theorem formedNext_taskSaveEnd (h : Formed s) : FormedNext (execTaskSaveEnd s) := by
  unfold execTaskSaveEnd
  dsimp only
  split
  · refine formedNext_ite (formedNext h) (formedNext (formed_onTile h fun t ht => ?_))
    have hw := fun {k : BitVec 2} {u : Nat} {f : Tasks → Tasks} {ws : List (Nat × Byte)} =>
      sound_onTasks (f := f) (sound_clearBank (k := k) (b := {}) (sound_storeCauses (k := k) (u := u) (sound_engineWrite (ws := ws) ht)))
    split
    · exact sound_startLoad (sound_applyWakes (sound_ite (sound_onTasks hw) hw))
    · exact sound_applyWakes (sound_ite (sound_onTasks hw) hw)
  all_goals exact formedNext h

theorem formedNext_taskLoadEnd (h : Formed s) : FormedNext (execTaskLoadEnd s) := by
  unfold execTaskLoadEnd
  dsimp only
  split
  · exact formedNext_ite (formedNext h) (formedNext (formed_onTile (formed_sramRead h) fun _ ht =>
      sound_switchTo (sound_applyWakes (sound_loadCauses (sound_onTasks (sound_clearBank ht))))))
  all_goals exact formedNext h

theorem formed_tkTick (h : Formed s) : Formed (s.tkTick a) := by
  unfold State.tkTick
  refine formed_ite h ?_
  split
  · exact h
  · split
    · exact formed_onTile h fun _ => sound_doSpawn
    · exact formed_onTile h fun _ ht => sound_tkDone (sound_ite ht ht)
    · exact formed_onTile h fun _ => sound_doSleep
    · exact formed_onTile h fun _ ht => sound_tkDone (sound_wakeTask ht)
    · exact formed_onTile h fun _ => sound_doPrio
    · exact formed_onTile_of_sram h fun _ => rfl
    · exact formed_onTile h fun _ => sound_doNext
    · exact formed_onTile h fun _ => sound_doResume
    · exact formed_onTile h fun _ => sound_doMsgrd
    · exact formed_onTile_of_sram h fun _ => rfl
    · exact formed_onTile h fun _ => sound_doTidle
    · exact h

theorem formedNext_timerUnit (h : Formed s) : FormedNext (execTimerUnit s) := by
  refine formedNext_ite (formedNext h) (formedNext (formed_onTile h fun t ht => ?_))
  have ha := sound_foldl (l := List.range 32) (fun _ i => sound_ageTask (i := i) (now := s.tick))
    (sound_onTasks (f := fun k => { k with unitTick := s.tick }) ht)
  have hd := fun f : Tasks → Tasks => fun p : Prop => fun _ : Decidable p =>
    sound_foldl (l := List.range 32) (fun _ i => sound_endDeadline (i := i) (now := s.tick)) (sound_ite (p := p) (sound_onTasks (f := f) ha) ha)
  exact sound_ite (sound_rouse (hd ..)) (hd ..)

theorem formedNext_messageAccept (h : Formed s) : FormedNext (execMessageAccept s) := by
  unfold execMessageAccept
  dsimp only
  split
  · exact formedNext h
  · split
    · exact formedNext (formed_packetRefused h)
    · refine formedNext_ite (formedNext (formed_cnt (formed_msgAccepted h))) (formedNext_ite (formedNext (formed_packetRefused h))
        (formedNext_ite (formedNext (formed_msgAccepted h)) (formedNext_ite (formedNext (formed_packetRefused h))
          (formedNext (formed_msgAccepted (formed_onTile (formed_onTile h fun t ht => ?_) fun _ => sound_rouse))))))
      exact sound_ite (sound_ite (sound_onTasks (sound_onTasks ht)) (sound_tidleEnd (sound_onTasks ht))) (sound_wakeTask (sound_onTasks ht))

theorem formedNext_contextArrival (h : Formed s) : FormedNext (execContextArrival s) := by
  unfold execContextArrival
  dsimp only
  split
  · exact formedNext h
  · split
    · exact formedNext (formed_packetRefused h)
    · refine formedNext_ite (formedNext (formed_cnt (formed_msgAccepted h))) (formedNext_ite (formedNext (formed_packetRefused h)) ?_)
      split
      · exact formedNext_ite (formedNext (formed_msgAccepted h)) (formedNext (formed_packetRefused h))
      · exact formedNext (formed_msgAccepted (formed_onTile h fun _ ht => sound_rouse (sound_makeReady (sound_onTasks (sound_engineWrite ht)))))

theorem formedNext_completionNotice (h : Formed s) : FormedNext (execCompletionNotice s) := formedNext (formed_onTile h fun _ => sound_wakeTask)

theorem formed_writeLoad {l : Dword} {c : Nat} (h : Formed s) : Formed (s.writeLoad l c) := by
  unfold State.writeLoad
  dsimp only
  split <;> exact h

theorem formedNext_clusterLoadWrite (h : Formed s) : FormedNext (execClusterLoadWrite s) :=
  formedNext_ite (formedNext (formed_writeLoad h)) (formedNext_ite (formedNext h) (formedNext (formed_foldl (fun _ _ => formed_writeLoad) h)))

end
end Sys2Proof.Proofs.MemoryForms
end

section
/-! PROOF. The canonical form of the memories over the bundle served, landings, sleep and the queues of launches (R50 to R60, R95 to R135, R392 to R401). -/

namespace Sys2Proof.Proofs.MemoryForms

open Sys2Proof Sys2Proof.Machine Sys2Proof.Laws

/-! ## The bundle served -/

section
variable {s : State} {a : Nat}

/-- A bundle that the fetch finds holds decoded triggers. -/
theorem formedActs_fetch {acts : List Act} {lis : List Word} {len : Nat} (hf : s.fetch a = .ok acts lis len) : FormedActs acts := by
  have hspec : ∀ ms : List (BitVec 3 × Instr), FormedActs (ms.map fun m => (m.1, m.2, specOf m.2)) := fun ms x hx sp hsp => by
    obtain ⟨m, -, rfl⟩ := List.mem_map.mp hx
    exact formedSpec_of_spec hsp
  unfold State.fetch at hf
  dsimp only at hf
  split at hf
  · cases hf
  · split at hf
    · cases hf
    · generalize (bundleWords (s.tileAt a) (s.codeTile a) _).any _ = p at hf
      cases p with
      | true => cases hf
      | false =>
        rw [if_neg Bool.false_ne_true] at hf
        split at hf
        · cases hf
        · cases hf
          exact hspec _

theorem formed_serve (h : Formed s) : Formed (serve s) := by
  refine formed_ite (formed_idleCycle h) (formed_ite (formed_shippedSupervisor h) (formed_countRefetch (formed_whenReady (fun u hu => ?_) h)))
  split
  · exact formed_startRefetch hu
  · exact formed_decodeFault hu
  · next hf =>
    have hacts := formedActs_fetch hf
    exact formed_ite (formed_issueGang hacts (formed_latch hu)) (formed_issueSingle hacts (formed_latch hu))

theorem formedNext_bundleIssue (h : Formed s) : FormedNext (execBundleIssue s) := formedNext (formed_cur (formed_serve (formed_cur h)))

theorem formedNext_parityRefetch (h : Formed s) : FormedNext (execParityRefetch s) := by
  have ht : Formed (s.onTile s.ev.tile fun t => { (t.errAdd 2 1 0xFFFF) with refetch := false, ready := max t.ready s.tick }) := formed_onTile_of_sram h fun _ => rfl
  refine formedNext_ite (formedNext h) (formedNext_ite (formedNext (formed_cur (formed_decodeFault (formed_cur ht)))) (formedNext ?_))
  exact formed_onQuad (formed_countErr ht)

theorem formedNext_idleEnd (h : Formed s) : FormedNext (execIdleEnd s) :=
  formedNext_ite (formedNext (formed_cur (formed_idleCycle (formed_cur h)))) (formedNext h)

/-! ## Landings, rings, the scrubber and the matrix unit -/

theorem formedNext_freeRunningLanding (h : Formed s) : FormedNext (execFreeRunningLanding s) := formedNext (formed_onTile h fun _ => sound_landBank)

theorem formedNext_loopPassEnd (h : Formed s) : FormedNext (execLoopPassEnd s) := formedNext (formed_onTile h fun _ => sound_passBank)

theorem formedNext_fmtTakesEffect (h : Formed s) : FormedNext (execFmtTakesEffect s) := formedNext (formed_onTile_of_sram h fun _ => rfl)

theorem sound_landOp {t : Tile} {o : DlOp} (h : Sound t) : Sound (t.landOp o) := by
  unfold Tile.landOp
  dsimp only
  split
  · exact h
  · split
    · exact h
    · exact sound_onBank (sound_ite h h)
    · exact h

theorem formedNext_dataLockedLanding (h : Formed s) : FormedNext (execDataLockedLanding s) := by
  unfold execDataLockedLanding
  dsimp only
  split
  · exact formedNext h
  · refine formedNext_ite (formedNext ?_) (formedNext h)
    split
    · exact formed_bringCause (formed_onTile h fun _ => sound_landOp)
    · exact formed_onTile h fun _ => sound_landOp

theorem formedNext_fillerCommit (h : Formed s) : FormedNext (execFillerCommit s) := formedNext (formed_agent h fun _ => formed_fillerStep)

theorem formedNext_scrubRead (h : Formed s) : FormedNext (execScrubRead s) := by
  unfold execScrubRead
  extract_lets a t w s1 s2 s3 s4
  have h1 : Formed s1 := formed_onTile_of_sram h fun _ => rfl
  have h2 : Formed s2 := formed_free h1
  have h3 : Formed s3 := formed_onTile_of_sram h2 fun _ => rfl
  have h4 : Formed s4 := formed_countErr h3
  exact formedNext_ite (formedNext h) (formedNext_ite (formedNext (formed_tileRecord h4)) (formedNext (formed_correct h2)))

theorem formedNext_mxOpStart (h : Formed s) : FormedNext (execMxOpStart s) := formedNext (formed_agent h fun _ => formed_mxStart)

theorem formedNext_mxOpEnd (h : Formed s) : FormedNext (execMxOpEnd s) := formedNext (formed_agent h fun _ => formed_mxTick)

/-! ## Sleep (R401) -/

theorem formedNext_supervisorEntry (h : Formed s) : FormedNext (execSupervisorEntry s) := by
  have hs : Formed (s.settle s.ev.tile) := formed_settle h
  unfold execSupervisorEntry
  dsimp only
  split
  · next hu => exact formedNext (formed_setTile hs (sound_takePending (formed_tileAt hs _) hu))
  · exact formedNext h

theorem formedNext_tileSleep (h : Formed s) : FormedNext (execTileSleep s) := formedNext (formed_onTile h fun _ ht => sound_ite ht (sound_ite ht ht))

theorem formed_sleepTick (h : Formed s) : Formed (sleepTick s) := by
  unfold sleepTick
  split
  · split
    · exact formed_gangStall h
    all_goals exact formed_stallTick h
  · exact formed_stallTick h
  · exact formed_stallTick h

theorem formedNext_tileWake (h : Formed s) : FormedNext (execTileWake s) := by
  have hc := formed_cur (a := s.ev.tile) h
  refine formedNext_ite (formedNext h) (formedNext_ite (formedNext h) (formedNext_ite (formedNext (formed_cur ?_)) (formedNext (formed_cur (formed_sleepTick hc)))))
  exact formed_foldl (fun _ _ hs => formed_onTile hs fun _ => sound_wake) hc

end

/-! ## Launches and queues -/

section
variable {s : State}

/-- An update of the scheduler that leaves the launches as they are. -/
theorem formed_sch {x : Sched} (h : Formed s) (hx : x.launches = s.sch.launches) : Formed { s with sch := x } := ⟨h.mem, h.staging, h.tiles, fun l hl => h.saved l (hx ▸ hl)⟩

theorem formed_sch_free {x : Sched} {n : Nat} (h : Formed s) (hx : x.launches = s.sch.launches) : Formed { s with sch := x, free := n } := formed_free (formed_sch h hx)

theorem formed_sch_agenda {x : Sched} {l : List (Nat × Instr × EvArg)} (h : Formed s) (hx : x.launches = s.sch.launches) :
    Formed { s with sch := x, agenda := l } := formed_agenda (formed_sch h hx)

theorem savedSound_launch {id : Dword} {l : Launch} (h : Formed s) (hl : s.launch? id = some l) : SavedSound l := h.saved l (List.mem_of_find?_eq_some hl)

theorem savedSound_new {l : Launch} (h : l.saved = []) : SavedSound l := fun t ht => by
  rw [h] at ht
  cases ht

theorem savedSound_endWith {l : Launch} {a b c d : Nat} (h : SavedSound l) : SavedSound (l.endWith a b c d) := by
  unfold Launch.endWith
  split <;> exact h

theorem formed_putLaunch {l : Launch} (h : Formed s) (hl : SavedSound l) : Formed (s.putLaunch l) := formed_mapLaunches h fun k hk => by
  split
  · exact hl
  · exact hk

theorem formed_addLaunch {l : Launch} (h : Formed s) (hl : SavedSound l) : Formed { s with sch := { s.sch with launches := s.sch.launches ++ [l] } } :=
  formed_launches h fun k hk => (List.mem_append.mp hk).elim (h.saved k) fun he => List.mem_singleton.mp he ▸ hl

theorem formed_filterLaunches {p : Launch → Bool} (h : Formed s) : Formed { s with sch := { s.sch with launches := s.sch.launches.filter p } } :=
  formed_launches h fun k hk => h.saved k (List.mem_of_mem_filter hk)

variable {q : LQueue} {n : Nat}

theorem formed_putQueue (h : Formed s) : Formed (s.putQueue q) := formed_sch h rfl

theorem formed_onQueue {f : LQueue → LQueue} (h : Formed s) : Formed (s.onQueue n f) := by
  unfold State.onQueue
  split
  · exact formed_putQueue h
  · exact h

theorem formed_updQueue (h : Formed s) : Formed (s.updQueue q) := formed_gWrite (formed_putQueue h)

theorem formed_cmdDone {r : Nat} (h : Formed s) : Formed (s.cmdDone n r) := formed_sch h rfl

theorem formed_createQueue (h : Formed s) : Formed (s.createQueue n) := by
  unfold State.createQueue
  split
  · exact formed_sch_agenda (formed_countRef h) rfl
  · exact formed_cmdDone h
  · exact formed_ite (formed_cmdDone h) (formed_cmdDone (formed_gWrite (formed_sch h rfl)))

theorem formed_destroyQueue (h : Formed s) : Formed (s.destroyQueue n) := by
  unfold State.destroyQueue
  split
  · exact formed_cmdDone h
  · exact formed_sch (formed_putQueue h) rfl

theorem formed_resumeQueue (h : Formed s) : Formed (s.resumeQueue n) := by
  unfold State.resumeQueue
  split
  · exact formed_cmdDone h
  · exact formed_ite (formed_cmdDone (formed_updQueue h)) (formed_cmdDone h)

theorem sound_endTile {t : Tile} (h : Sound t) : Sound (s.endTile t) := h
theorem sound_endLeft {t : Tile} {id : Dword} (h : Sound t) : Sound (s.endLeft id t) := h

theorem formed_packets_free {l : List Packet} {n : Nat} (h : Formed s) : Formed { s with packets := l, free := n } := h

theorem formed_endPackets {id : Dword} (h : Formed s) : Formed (s.endPackets id) :=
  formed_packets_free (formed_foldl (fun _ _ hs => formed_ite (formed_asPrev hs fun _ => formed_packetLands) (formed_ite (formed_packetDone hs) hs)) h)

theorem formed_dropAsks (h : Formed s) : Formed s.dropAsks := h

theorem formed_kiln_air_free {l m : List KPart} {n : Nat} (h : Formed s) : Formed { s with kiln := l, kilnAir := m, free := n } := h
theorem formed_units {l : List AUnit} (h : Formed s) : Formed { s with units := l } := h

theorem formed_haltLaunch {id : Dword} (h : Formed s) : Formed (s.haltLaunch id) := by
  unfold State.haltLaunch
  extract_lets s1 s2 s3 s4
  have h1 : Formed s1 := formed_endPackets h
  have h2 : Formed s2 := formed_kiln_air_free (formed_mapTiles h1 fun _ ht => sound_ite (sound_endTile ht) (sound_endLeft ht))
  have h4 : Formed s4 := formed_dropAsks (formed_units h2)
  split
  · next l hl =>
    have hs : SavedSound l := savedSound_launch h4 hl
    have hput : Formed (s4.putLaunch { l with phase := .ending, stage := none }) := formed_putLaunch h4 hs
    split
    · exact h4
    all_goals exact hput
  · exact h4

theorem formed_endLaunch {id : Dword} {a b c d : Nat} (h : Formed s) : Formed (s.endLaunch id a b c d) := by
  unfold State.endLaunch
  split
  · exact h
  · next hl => exact formed_haltLaunch (formed_putLaunch h (savedSound_endWith (savedSound_launch h hl)))

theorem formed_abortQueue (h : Formed s) : Formed (s.abortQueue n) := by
  unfold State.abortQueue
  split
  · exact formed_cmdDone h
  · exact formed_cmdDone (formed_foldl (fun _ _ => formed_endLaunch) h)

theorem formed_qcmd {v : Nat} (h : Formed s) : Formed (s.qcmd v) := by
  refine formed_ite h (formed_ite (formed_cmdDone h) ?_)
  split
  · exact formed_createQueue h
  · exact formed_destroyQueue h
  · exact formed_resumeQueue h
  · exact formed_abortQueue h
  · exact formed_cmdDone h

theorem formed_qcmdEvent {op : Nat} (h : Formed s) : Formed (qcmdEvent op s) := formed_ite (formed_qcmd h) h

theorem formedNext_queueDestroyComplete (h : Formed s) : FormedNext (execQueueDestroyComplete s) := by
  unfold execQueueDestroyComplete
  split
  · exact formedNext h
  · exact formedNext (formed_cmdDone (formed_sch h rfl))

theorem formed_notify {w : Nat} {device good : Bool} (h : Formed s) : Formed (s.notify n w device good) := by
  unfold State.notify
  split
  · exact h
  · exact formed_ite (formed_updQueue h) (formed_ite (formed_free (formed_putQueue h)) (formed_sched (formed_free (formed_putQueue h))))

theorem formed_notifyStored (h : Formed s) : Formed s.notifyStored := by
  unfold State.notifyStored
  split
  · exact formed_ite (formed_perform (formed_countG h)) h
  · exact h

theorem formed_boot {b : Boot} (h : Formed s) : Formed { s with boot := b } := h

theorem formed_notifyArrives (h : Formed s) : Formed s.notifyArrives :=
  formed_ite (formed_notify h) (formed_ite (formed_sch h rfl) (formed_ite (formed_boot h) h))

theorem formed_mapQueue (h : Formed s) : Formed (s.mapQueue q) := by
  unfold State.mapQueue
  dsimp only
  split
  · exact formed_notify (formed_putQueue h)
  · exact formed_putQueue h

theorem formedNext_queueMap (h : Formed s) : FormedNext (execQueueMap s) := by
  unfold execQueueMap
  split
  · exact formedNext h
  · refine formedNext_ite (formedNext h) (formedNext_ite (formedNext (formed_mapQueue h)) ?_)
    split
    · exact formedNext (formed_mapQueue (formed_putQueue h))
    · exact formedNext (formed_putQueue h)

/-! ## Records and images (R57 to R60) -/

theorem formed_schedAccess {asid : Half} {va m : Nat} {acc : Access} {u : State} {pa kind home : Nat} (h : Formed s)
    (hu : s.schedAccess asid va m acc = .ok u pa kind home) : Formed u := by
  unfold State.schedAccess at hu
  dsimp only at hu
  split at hu
  · cases hu
  · split at hu
    · cases hu
    · cases hu
    · cases hu
    · cases hu
    · split at hu
      · cases hu
      · split at hu
        · cases hu
        · split at hu
          · cases hu
          · cases hu
          · cases hu
            exact formed_gWrite h

theorem formed_readIn {asid : Half} {k va m : Nat} {u : State} {bs : List Byte} (h : Formed s) (hu : State.readIn asid k va m s = .ok u bs) : Formed u := by
  induction k generalizing va m s u bs with
  | zero =>
    cases hu
    exact h
  | succ k ih =>
    unfold State.readIn at hu
    dsimp only at hu
    split at hu
    · cases hu
      exact h
    · split at hu
      · cases hu
      · cases hu
      · next ha =>
        split at hu
        · next hr =>
          cases hu
          exact ih (formed_schedAccess h ha) hr
        · cases hu
        · cases hu

theorem formed_readImage {asid : Half} {va : Nat} {u : State} {bs : List Byte} (h : Formed s) (hu : s.readImage asid va = .ok u bs) : Formed u := by
  unfold State.readImage at hu
  split at hu
  · next hr =>
    have hh := formed_readIn h hr
    split at hu
    · exact formed_readIn hh hu
    · cases hu
      exact hh
  · cases hu
  · cases hu

variable {r : LRec} {bs : List Byte}

theorem formed_refuseHead {a b c d : Nat} (h : Formed s) : Formed (s.refuseHead q r a b c d) := formed_updQueue (formed_addLaunch h (savedSound_new rfl))

theorem formed_countTurn {p : Nat} (h : Formed s) : Formed (s.countTurn p n) := formed_sch h rfl

theorem formed_refuseRecord {a b c d : Nat} (h : Formed s) : Formed (s.refuseRecord q r a b c d) := formed_refuseHead (formed_countTurn h)

theorem formed_checkImage (h : Formed s) : Formed (s.checkImage q bs) := by
  unfold State.checkImage
  dsimp only
  split
  · exact formed_refuseRecord h
  · exact formed_putQueue (formed_countRef h)
  · next hi =>
    have hu := formed_readImage h hi
    split
    · exact formed_refuseRecord hu
    · split
      · exact formed_refuseRecord hu
      · exact formed_putQueue hu

theorem formed_checkRecord (h : Formed s) : Formed (s.checkRecord q bs) :=
  formed_ite (formed_refuseRecord h) (formed_ite (formed_refuseRecord h) (formed_ite (formed_refuseRecord h) (formed_checkImage h)))

theorem formed_schedBusy (h : Formed s) : Formed s.schedBusy := formed_sch_free h rfl

theorem formed_notArrived (h : Formed s) : Formed (s.notArrived q n) := formed_free (formed_putQueue h)

theorem formed_failedSum (h : Formed s) : Formed (s.failedSum q) := formed_ite (formed_updQueue h) (formed_putQueue h)

theorem formed_recordStep (h : Formed s) : Formed (s.recordStep q) := by
  unfold State.recordStep
  dsimp only
  split
  · exact formed_putQueue (formed_countRef h)
  · exact formed_ite (formed_free (formed_putQueue h)) (formed_notArrived h)
  · exact formed_free (formed_putQueue h)
  · exact formed_ite (formed_notArrived h) (formed_ite (formed_failedSum (formed_schedBusy h)) (formed_checkRecord (formed_schedBusy h)))

theorem formedNext_recordRead (h : Formed s) : FormedNext (execRecordRead s) := by
  unfold execRecordRead
  split
  · exact formedNext h
  · refine formedNext_ite (formedNext h) ?_
    split
    · exact formedNext (formed_checkImage (formed_schedBusy h))
    · exact formedNext (formed_recordStep h)

end
end Sys2Proof.Proofs.MemoryForms
end

section
/-! PROOF. The canonical form of the memories over the placement of launches, their end, pre-emption and health (R61 to R93, R113 to R119, R430 to R445). -/

namespace Sys2Proof.Proofs.MemoryForms

open Sys2Proof Sys2Proof.Machine Sys2Proof.Laws

/-! ## Messages and leaves (R63 to R70) -/

section
variable {s : State} {c : Nat} {l : Launch}

theorem formed_sendMsg {id : Dword} {m : LMsg} (h : Formed s) : Formed (s.sendMsg c id m) := formed_sch_free h rfl

theorem formed_sendAll {cs : List Nat} {id : Dword} {m : LMsg} (h : Formed s) : Formed (s.sendAll cs id m) := formed_foldl (fun _ _ => formed_sendMsg) h

theorem formed_permitBack {down : Bool} (h : Formed s) : Formed (s.permitBack c down) := by
  unfold State.permitBack
  split
  · exact h
  · exact formed_sch_free h rfl

theorem formed_takeMsg {k : LKind} {m : LinkMsg} {u : State} (h : Formed s) (hu : s.takeMsg k = some (m, u)) : Formed u := by
  unfold State.takeMsg at hu
  split at hu
  · split at hu
    · cases hu
      exact formed_permitBack (formed_sch h rfl)
    · cases hu
  · cases hu

/-- The data of a role is written to a tile as it is bound. -/
theorem sound_writeData {t : Tile} {ds : List (Nat × List Byte)} (h : Sound t) :
    Sound (ds.foldl (fun t d => t.engineWrite (((List.range d.2.length).map (d.1 + ·)).zip d.2)) t) := sound_foldl (fun _ _ => sound_engineWrite) h

theorem sound_bindTile {t : Tile} {xs : List Seat} {x : Seat} (h : Sound t) : Sound (s.bindTile l xs x t) := by
  refine sound_writeData ?_
  exact h

theorem sound_tileCleared {t : Tile} : Sound t.cleared := rfl

theorem sound_placementEntry {t : Tile} {limit n : Nat} (h : Sound t) : Sound (t.placementEntry limit n) := h

theorem formed_placeTile {xs : List Seat} {x : Seat} (h : Formed s) : Formed (s.placeTile l xs x) :=
  formed_free (formed_setTile h (sound_placementEntry (sound_bindTile (sound_ite sound_tileCleared (formed_tileAt h x.addr)))))

theorem formed_reserveQuad {xs : List Seat} {q : Nat} (h : Formed s) : Formed (s.reserveQuad l xs q) := formed_onQuad h

theorem formed_leafReserve (h : Formed s) : Formed (s.leafReserve l c) := formed_foldl (fun _ _ => formed_reserveQuad) h

theorem formed_leafPlace (h : Formed s) : Formed (s.leafPlace l c) := formed_foldl (fun _ _ => formed_placeTile) (formed_leafReserve h)

theorem formedNext_place (h : Formed s) : FormedNext (execPlace s) := by
  unfold execPlace
  split
  · exact formedNext h
  · next hm =>
    have hu := formed_takeMsg h hm
    split
    · exact formedNext hu
    · refine formedNext_ite (formedNext (formed_sendMsg hu)) (formedNext_ite (formedNext (formed_sched (formed_leafReserve hu))) ?_)
      split
      · exact formedNext (formed_sendMsg (formed_leafReserve hu))
      · exact formedNext (formed_leafPlace hu)

theorem sound_startAt {t : Tile} {n : Nat} (h : Sound t) : Sound (t.startAt n) := sound_ite h h

theorem formed_resumeOps {a : Nat} (h : Formed s) : Formed (s.resumeOps a) := by
  refine formed_foldl (fun u o hu => formed_ite (formed_again hu) (formed_ite (formed_sched hu) ?_)) h
  split
  case h_5 => exact hu
  all_goals exact formed_sched hu

theorem formedNext_start (h : Formed s) : FormedNext (execStart s) := by
  unfold execStart
  dsimp only
  split
  · exact formedNext h
  · next hm =>
    have hu := formed_takeMsg h hm
    split
    · exact formedNext (formed_agenda (formed_foldl (fun _ _ hs => formed_resumeOps (formed_onTile hs fun _ => sound_startAt)) hu))
    · exact formedNext hu

theorem formedNext_tileDrained (h : Formed s) : FormedNext (execTileDrained s) := by
  refine formedNext_ite (formedNext ?_) (formedNext h)
  exact formed_onTile_of_sram h fun _ => rfl

theorem sound_released {t : Tile} (h : Sound t) : Sound t.released := h

theorem formed_quads_cloads {qs : List Quad} {cl : List (Dword × Nat × Dword × Nat)} (h : Formed s) : Formed { s with quads := qs, cloads := cl } := h

theorem formed_leafRelease {id : Dword} (h : Formed s) : Formed (s.leafRelease id c) := by
  refine formed_dropAsks (formed_quads_cloads (formed_mapTiles h fun t ht => ?_))
  exact sound_ite ht (sound_ite (sound_released ht) ht)

theorem savedSound_ite {p : Prop} [Decidable p] {k : Launch} (hl : SavedSound l) (hk : SavedSound k) : SavedSound (if p then l else k) := by
  split
  · exact hl
  · exact hk

theorem formed_leafReport (h : Formed s) (hl : SavedSound l) : Formed (s.leafReport l c) := by
  unfold State.leafReport
  split
  · exact formed_ite h (formed_ite (formed_sendMsg (formed_putLaunch (formed_leafRelease h) hl)) (formed_ite (formed_sendMsg (formed_putLaunch h hl)) h))
  case h_2 | h_3 =>
    extract_lets ts trig l1 u gone
    have hl1 : SavedSound l1 := savedSound_ite hl hl
    have hu : Formed u := formed_ite (formed_sendMsg (formed_putLaunch h hl1)) h
    exact formed_ite h (formed_ite (formed_sendMsg (formed_putLaunch hu hl1)) hu)
  all_goals exact h

theorem formed_leafFaults (h : Formed s) (hl : SavedSound l) : Formed (s.leafFaults l) := by
  unfold State.leafFaults
  dsimp only
  split
  · exact h
  · refine formed_sendMsg (formed_foldl (fun u t hu => ?_) (formed_putLaunch h (savedSound_endWith hl)))
    refine formed_onTile_of_sram (formed_ite ?_ (formed_dieRecord ?_)) fun _ => rfl
    all_goals
      split
      · exact formed_tileRecord hu
      all_goals exact hu

theorem formed_undrain (h : Formed s) : Formed s.undrain := formed_mapTiles h fun _ ht => sound_ite ht ht

theorem formed_leafTick (h : Formed s) : Formed s.leafTick := by
  have hfaults := formed_foldl (l := s.undrain.sch.launches) (f := fun s x => match s.launch? x.id with | some l => s.leafFaults l | none => s)
    (fun u x hu => by
      split
      · next hl => exact formed_leafFaults hu (savedSound_launch hu hl)
      · exact hu) (formed_undrain h)
  refine formed_foldl (fun u x hu => formed_foldl (fun v c hv => ?_) hu) hfaults
  split
  · next hl => exact formed_leafReport hv (savedSound_launch hv hl)
  · exact hv

theorem formed_sch_kiln {x : Sched} {k a : List KPart} (h : Formed s) (hx : ∀ l ∈ x.launches, l ∈ s.sch.launches) :
    Formed { s with sch := x, kiln := k, kilnAir := a } := ⟨h.mem, h.staging, h.tiles, fun l hl => h.saved l (hx l hl)⟩

theorem formedNext_release (h : Formed s) : FormedNext (execRelease s) := by
  unfold execRelease
  dsimp only
  split
  · exact formedNext h
  · next m u hm =>
    have hu : Formed (u.leafRelease m.launch m.cluster) := formed_leafRelease (formed_takeMsg h hm)
    split
    · exact formedNext hu
    · next l hl =>
      have hs : SavedSound l := savedSound_launch hu hl
      exact formedNext_ite (formedNext hu) (formedNext_ite (formedNext (formed_sch_kiln hu fun _ => List.mem_of_mem_filter)) (formedNext (formed_putLaunch hu hs)))

/-! ## The scheduler (R61 to R68) -/

theorem formed_fixTurn {p n k : Nat} (h : Formed s) : Formed (s.fixTurn p n k) := formed_sch h rfl

theorem formed_sch_quads {x : Sched} {qs : List Quad} (h : Formed s) (hx : ∀ l ∈ x.launches, l ∈ s.sch.launches) :
    Formed { s with sch := x, quads := qs } := ⟨h.mem, h.staging, h.tiles, fun l hl => h.saved l (hx l hl)⟩

theorem formed_dropStaged {id : Dword} (h : Formed s) : Formed (s.dropStaged id) := by
  unfold State.dropStaged
  split
  · exact h
  · exact formed_sch_quads h fun _ => List.mem_of_mem_filter

theorem formed_cancelHead {n st : Nat} (h : Formed s) : Formed (s.cancelHead n st) := by
  unfold State.cancelHead
  split
  · exact h
  · split
    · exact h
    · exact formed_free (formed_refuseHead (formed_countTurn (formed_dropStaged h)))

theorem formed_preemptLaunch {id : Dword} {b : Bool} (h : Formed s) : Formed (s.preemptLaunch id b) := by
  unfold State.preemptLaunch
  split
  · exact h
  · next l hl =>
    have hs : SavedSound l := savedSound_launch h hl
    refine formed_ite h (formed_sendAll (formed_putLaunch ?_ hs))
    split
    · exact formed_dropStaged h
    · exact h

theorem savedSound_moveTo {at_ : List (Nat × Nat × Nat)} (hl : SavedSound l) : SavedSound (l.moveTo at_) := by
  unfold Launch.moveTo
  dsimp only
  split <;> exact hl

theorem formed_newLaunches {x : Sched} (h : Formed s) (hx : ∀ l ∈ x.launches, SavedSound l) : Formed { s with sch := x } := ⟨h.mem, h.staging, h.tiles, hx⟩

theorem savedSound_snoc {ls : List Launch} (h : ∀ k ∈ ls, SavedSound k) (hl : SavedSound l) : ∀ k ∈ ls ++ [l], SavedSound k :=
  fun k hk => (List.mem_append.mp hk).elim (h k) fun he => List.mem_singleton.mp he ▸ hl

theorem formed_doAct {a : SchedAct} (h : Formed s) : Formed (s.doAct a) := by
  unfold State.doAct
  split
  · exact formed_cancelHead h
  · split
    · exact h
    · split
      · exact h
      · exact formed_ite (formed_refuseRecord (formed_fixTurn h)) (formed_sendAll (formed_newLaunches (formed_fixTurn h) (savedSound_snoc h.saved (savedSound_new rfl))))
  · split
    · exact h
    · next l hl =>
      have hs : ∀ p, SavedSound (l.moveTo p) := fun p => savedSound_moveTo (savedSound_launch h hl)
      exact formed_sendAll (formed_putLaunch h (hs _))
  · exact formed_preemptLaunch h
  · exact formed_endLaunch h

theorem formedNext_launchPlacement (h : Formed s) : FormedNext (execLaunchPlacement s) := by
  unfold execLaunchPlacement
  split
  · exact formedNext h
  · exact formedNext (formed_schedBusy (formed_doAct h))

theorem formed_takeHead (h : Formed s) : Formed (s.takeHead l) := by
  unfold State.takeHead
  split
  · exact h
  · exact formed_ite (formed_updQueue (formed_countTurn h)) h

theorem formed_moveAll (h : Formed s) : Formed (s.moveAll l) := h

theorem formed_startLaunch (h : Formed s) : Formed (s.startLaunch l) :=
  formed_sch_free (formed_putLaunch (formed_ite (formed_moveAll h) (formed_takeHead h)) (savedSound_new rfl)) rfl

theorem formed_loadRejected {e : LoadErr} (h : Formed s) (hl : SavedSound l) : Formed (s.loadRejected l e) := by
  refine formed_putLaunch (formed_takeHead h) ?_
  exact savedSound_endWith (a := 2) (b := e.code) (c := e.role) (d := e.index) hl

theorem formed_chooseAgain (h : Formed s) (hl : SavedSound l) : Formed (s.chooseAgain l) := by
  have hs : ∀ {cs : List Nat} {m : LMsg}, Formed (s.sendAll cs l.id m) := formed_sendAll h
  have hm : ∀ p, SavedSound (l.moveTo p) := fun p => savedSound_moveTo hl
  unfold State.chooseAgain
  dsimp only
  split
  · exact formed_sendAll (formed_putLaunch hs (hm _))
  · exact formed_ite (formed_putLaunch hs hl) (formed_onQueue (formed_filterLaunches hs))

theorem formed_placeAnswered (h : Formed s) (hl : SavedSound l) : Formed (s.placeAnswered l) := by
  have hp : Formed (s.putLaunch l) := formed_putLaunch h hl
  refine formed_ite hp (formed_ite (formed_chooseAgain hp hl) ?_)
  split
  · exact formed_loadRejected hp hl
  · exact formed_ite (formed_startLaunch hp) hp

/-- An answer to the launch it names. -/
theorem formedNext_answer {k : LKind} {f : LinkMsg → State → Launch → State} (h : Formed s) (hf : ∀ m u l, Formed u → SavedSound l → Formed (f m u l)) :
    FormedNext (match s.takeMsg k with
      | none => .next s
      | some (m, s) => match s.launch? m.launch with | none => .next s | some l => .next (f m s l)) := by
  split
  · exact formedNext h
  · next hm =>
    have hu := formed_takeMsg h hm
    split
    · exact formedNext hu
    · next hl => exact formedNext (hf _ _ _ hu (savedSound_launch hu hl))

theorem formedNext_placed (h : Formed s) : FormedNext (execPlaced s) :=
  formedNext_answer (f := fun m s l => s.placeAnswered { l with placed := m.cluster :: l.placed }) h fun _ _ _ hu hl => formed_placeAnswered hu hl

theorem formedNext_nofit (h : Formed s) : FormedNext (execNofit s) :=
  formedNext_answer (f := fun m s l => s.placeAnswered { l with nofit := m.cluster :: l.nofit }) h fun _ _ _ hu hl => formed_placeAnswered hu hl

theorem formedNext_triggered (h : Formed s) : FormedNext (execTriggered s) :=
  formedNext_answer (f := fun m s l => s.putLaunch { l with trig := m.cluster :: l.trig }) h fun _ _ _ hu hl => formed_putLaunch hu hl

theorem formed_haltAnswered (h : Formed s) (hl : SavedSound l) : Formed (s.haltAnswered l) :=
  formed_ite (formed_putLaunch h hl) (formed_ite (formed_putLaunch h hl) (formed_putLaunch h hl))

theorem formedNext_halted (h : Formed s) : FormedNext (execHalted s) := by
  unfold execHalted
  split
  · exact formedNext h
  · next hm =>
    have hu := formed_takeMsg h hm
    split
    · next hl _ =>
      have hs := savedSound_launch hu hl
      exact formedNext (formed_haltAnswered hu hs)
    · next hl _ =>
      have hs := savedSound_launch hu hl
      exact formedNext (formed_haltAnswered hu hs)
    · exact formedNext hu

theorem formedNext_fault (h : Formed s) : FormedNext (execFault s) := by
  unfold execFault
  split
  · exact formedNext h
  · next hm =>
    have hu := formed_takeMsg h hm
    split
    · exact formedNext (formed_endLaunch hu)
    · exact formedNext hu

theorem formed_writeStatus {r : Nat × Nat × Nat × Nat} (h : Formed s) : Formed (s.writeStatus l r) := by
  unfold State.writeStatus
  split
  · exact h
  · exact formed_ite h (formed_gWrite h)

theorem formed_semStore {pa : Nat} {v : Dword} (h : Formed s) : Formed (s.semStore pa v) := by
  unfold State.semStore
  split
  · exact formed_sched h
  · exact formed_eutasSend h
  all_goals exact formed_gWrite h

theorem formed_sch_cnt {x : Sched} {k : Counters} (h : Formed s) (hx : x.launches = s.sch.launches) : Formed { s with sch := x, cnt := k } := formed_cnt (formed_sch h hx)

theorem formed_closeLaunch {st : Nat} (h : Formed s) (hl : SavedSound l) : Formed (s.closeLaunch l st) :=
  formed_ite (formed_filterLaunches (formed_sch_cnt h rfl)) (formed_sendAll (formed_putLaunch (formed_sch_cnt h rfl) hl))

theorem formedNext_completionWrite (h : Formed s) : FormedNext (execCompletionWrite s) := by
  unfold execCompletionWrite
  split
  · exact formedNext h
  · split
    · exact formedNext h
    · next l hl =>
      have hs : SavedSound l := savedSound_launch h hl
      split
      · exact formedNext (formed_putLaunch (formed_countRef h) hs)
      · extract_lets r s1 l1
        have h1 : Formed s1 := formed_ite h (formed_writeStatus (formed_gateOff (formed_logOff h)))
        have hs1 : SavedSound l1 := hs
        refine formedNext_ite (formedNext (formed_schedBusy (formed_closeLaunch h1 hs1))) ?_
        split
        · exact formedNext (formed_putLaunch (formed_countRef h1) hs1)
        · next ha => exact formedNext (formed_schedBusy (formed_closeLaunch (formed_semStore (formed_schedAccess h1 ha)) hs1))
        · refine formedNext (formed_schedBusy (formed_closeLaunch ?_ hs1))
          split
          · exact formed_updQueue h1
          · exact h1

theorem formed_boot_sch {b : Boot} {x : Sched} (h : Formed s) (hx : x.launches = s.sch.launches) : Formed { s with boot := b, sch := x } := formed_boot (formed_sch h hx)

theorem formed_takeover (h : Formed s) : Formed s.takeover := formed_foldl (fun _ _ => formed_notify) (formed_boot_sch h rfl)

theorem formedNext_schedulerTakeover (h : Formed s) : FormedNext (execSchedulerTakeover s) := by
  unfold execSchedulerTakeover
  split
  · exact formedNext (formed_ite (formed_sch_agenda h rfl) h)
  · exact formedNext h
  · exact formedNext h
  · exact formedNext (formed_ite (formed_takeover h) h)

theorem formed_passTurn {p : Nat} (h : Formed s) : Formed (s.passTurn p) := by
  unfold State.passTurn
  split
  · exact formed_ite h (formed_fixTurn h)
  · exact h

theorem formed_schedTick (h : Formed s) : Formed s.schedTick := by
  unfold State.schedTick
  extract_lets s1 s2 sch2
  have h1 : Formed s1 := formed_foldl (fun _ _ => formed_passTurn) h
  have h2 : Formed s2 := formed_foldl (fun u x hu => by
    split
    · next hl => exact formed_ite (formed_placeAnswered hu (savedSound_launch hu hl)) hu
    · exact hu) h1
  clear_value s2
  exact formed_ite h (formed_sch h2 rfl)

/-! ## Pre-emption (R433 to R436) -/

/-- A tile at an idle cycle notes the request in its select bits. -/
theorem sound_addPending {p : Prop} [Decidable p] {t : Tile} {x : Vector Dword 4} (h : Sound t) : Sound (if p then { t with sel := x } else t) := sound_ite h h

theorem formedNext_preempt (h : Formed s) : FormedNext (execPreempt s) := by
  unfold execPreempt
  split
  · exact formedNext h
  · next hm =>
    have hu := formed_takeMsg h hm
    split
    · exact formedNext hu
    · refine formedNext_ite (formedNext hu) (formedNext (formed_foldl (fun _ _ hs => formed_onTile hs fun t ht => ?_) hu))
      exact sound_addPending (sound_ite ht ht)

theorem formedNext_preemptHalt (h : Formed s) : FormedNext (execPreemptHalt s) := by
  refine formedNext_ite (formedNext (formed_foldl (fun _ _ hs => ?_) h)) (formedNext h)
  exact formed_onTile_of_sram hs fun _ => rfl

theorem sound_save {t : Tile} {n : Nat} (h : Sound t) : Sound (t.save n) := h

theorem formed_withdraw {a : Nat} (h : Formed s) : Formed (s.withdraw a) := h

theorem formed_kiln {k : List KPart} (h : Formed s) : Formed { s with kiln := k } := h

/-- A pre-empted launch keeps the tiles as they stand. -/
theorem savedSound_append {ts : List Tile} {n : Nat} (hl : SavedSound l) (ht : ∀ t ∈ ts, Sound t) : ∀ t ∈ l.saved ++ ts.map fun t => t.save n, Sound t :=
  fun t hm => (List.mem_append.mp hm).elim (hl t) fun hs => by
    obtain ⟨u, hu, rfl⟩ := List.mem_map.mp hs
    exact sound_save (ht u hu)

theorem sound_launchTiles {id : Dword} {p : Tile → Bool} (h : Formed s) : ∀ t ∈ (s.launchTiles id).filter p, Sound t :=
  fun t ht => h.tiles t (List.mem_of_mem_filter (List.mem_of_mem_filter ht))

theorem formedNext_preemptSave (h : Formed s) : FormedNext (execPreemptSave s) := by
  unfold execPreemptSave
  split
  · exact formedNext h
  · next l hl =>
    extract_lets c ts gangs s1 l1 s2
    have h1 : Formed s1 := formed_foldl (fun _ _ => formed_withdraw) h
    have hl1 : SavedSound l1 := savedSound_append (savedSound_launch h hl) (sound_launchTiles h)
    have h2 : Formed s2 := formed_kiln (formed_putLaunch h1 hl1)
    exact formedNext_ite (formedNext h) (formedNext (formed_sendMsg (formed_leafRelease h2)))

theorem sound_restoreTile {xs : List Seat} {x : Seat} {t : Tile} (h : Sound t) : Sound (s.restoreTile l xs x t) := h

theorem formedNext_restore (h : Formed s) : FormedNext (execRestore s) := by
  unfold execRestore
  dsimp only
  split
  · exact formedNext h
  · next l hl =>
    have hs : SavedSound l := savedSound_launch h hl
    refine formedNext_ite (formedNext h) (formedNext (formed_foldl (fun u x hu => ?_) h))
    split
    · exact hu
    · next t ht => exact formed_setTile (formed_ite (formed_onQuad hu) hu) (sound_restoreTile (hs t (List.mem_of_find?_eq_some ht)))

/-! ## Health (R84 to R93, R439 to R445) -/

theorem formed_qerr {q : List QuadErr} (h : Formed s) : Formed { s with qerr := q } := h

theorem formed_healthTick (h : Formed s) : Formed s.healthTick := formed_foldl (fun _ _ hs => formed_sched (formed_qerr hs)) h

theorem formed_clearColumn {qs : List Nat} (h : Formed s) : Formed (s.clearColumn qs) := by
  refine List.foldlRecOn (s.holders qs) _ h fun u hu l hl => ?_
  have hs : SavedSound l := h.saved l (List.mem_of_mem_filter hl)
  split
  · exact formed_putLaunch hu hs
  · exact formed_ite hu (formed_preemptLaunch hu)

theorem formed_lostQuads {q : List Nat} (h : Formed s) : Formed { s with lostQuads := q } := h
theorem formed_condemned {q : List Nat} (h : Formed s) : Formed { s with condemned := q } := h

theorem formedNext_quadCondemn (h : Formed s) : FormedNext (execQuadCondemn s) := by
  unfold execQuadCondemn
  dsimp only
  split
  · exact formedNext (formed_qerr h)
  · exact formedNext_ite (formedNext (formed_record (formed_qerr h))) (formedNext_ite (formedNext (formed_lostQuads (formed_record (formed_qerr h))))
      (formedNext (formed_sched (formed_clearColumn (formed_condemned (formed_record (formed_qerr h)))))))

theorem sound_spared {t : Tile} {a : Nat} : Sound (t.spared a) := rfl

theorem formed_shifts {l : List (Nat × Nat × Nat)} (h : Formed s) : Formed { s with shifts := l } := h

theorem formed_shiftColumn {row col : Nat} (h : Formed s) : Formed (s.shiftColumn c row col) :=
  formed_shifts (formed_foldl (fun _ _ hs => formed_onQuad hs) (formed_foldl (fun _ _ hs => formed_setTile hs sound_spared) h))

theorem formed_condemned_lost {p q : List Nat} (h : Formed s) : Formed { s with condemned := p, lostQuads := q } := h

theorem formedNext_columnShift (h : Formed s) : FormedNext (execColumnShift s) :=
  formedNext_ite (formedNext h) (formedNext_ite (formedNext (formed_sched (formed_clearColumn h))) (formedNext (formed_condemned_lost (formed_shiftColumn h))))

theorem formedNext_errorCounterHalving (h : Formed s) : FormedNext (execErrorCounterHalving s) := formedNext_ite (formedNext h) (formedNext h)

theorem formed_fenceLaunch {d : Nat} (h : Formed s) (hl : SavedSound l) : Formed (s.fenceLaunch d l) := by
  unfold State.fenceLaunch
  refine formed_ite (formed_free (formed_endLaunch h)) ?_
  split
  · exact formed_ite h (formed_placeAnswered h hl)
  · exact formed_ite (formed_dropStaged h) h
  all_goals exact h

theorem formed_fenceOps {d : Nat} (h : Formed s) : Formed (s.fenceOps d) := formed_foldl (fun _ _ => formed_engineFault) h

theorem formed_sick_sch {b : BitVec 24} {x : Sched} (h : Formed s) (hx : x.launches = s.sch.launches) : Formed { s with sick := b, sch := x } := formed_sch h hx

theorem formed_fenceDie {d : Nat} (h : Formed s) : Formed (s.fenceDie d) := by
  unfold State.fenceDie
  extract_lets one sch1 s1 s2 sch2 s3 s4
  have h1 : Formed s1 := formed_sick_sch h rfl
  have h2 : Formed s2 := formed_foldl (fun u x hu => by
    split
    · next hl => exact formed_fenceLaunch hu (savedSound_launch hu hl)
    · exact hu) h1
  have h3 : Formed s3 := ⟨h2.mem, h2.staging, (formed_mapTiles h2 fun _ ht => sound_ite (sound_released ht) ht).tiles, fun l hl => h2.saved l (List.mem_of_mem_filter hl)⟩
  exact formed_ite h (formed_record (formed_fenceOps h3))

theorem formed_fenceWith {d : Nat} (h : Formed s) : Formed (s.fenceWith d) := formed_foldl (fun _ _ => formed_fenceDie) (formed_agenda h)

theorem formedNext_junctionOvertemp (h : Formed s) : FormedNext (execJunctionOvertemp s) := formedNext (formed_fenceWith h)

theorem formed_laneRepair {e : EvArg} (h : Formed s) : Formed (s.laneRepair e) := by
  refine formed_ite h (formed_kilnHinder (formed_record ?_))
  exact h

theorem formed_laneReplays {l : List (Nat × Nat × Nat × Nat)} (h : Formed s) : Formed { s with laneReplays := l } := h

theorem formedNext_laneRepair (h : Formed s) : FormedNext (execLaneRepair s) :=
  formedNext_ite (formedNext (formed_laneRepair h)) (formedNext_ite (formedNext (formed_laneReplays (formed_corrected h)))
    (formedNext (formed_laneRepair (formed_laneReplays (formed_corrected h)))))

end
end Sys2Proof.Proofs.MemoryForms
end

section
/-! PROOF. The canonical form of the memories over spares, the debugger, migration and the boot (R12 to R28, R89, R90, R386 to R388, R442). -/

namespace Sys2Proof.Proofs.MemoryForms

open Sys2Proof Sys2Proof.Machine Sys2Proof.Laws

section
variable {s : State}

/-! ## Links, channels and the debugger (R89, R90, R442) -/

theorem formedNext_linkRetrainEnd (h : Formed s) : FormedNext (execLinkRetrainEnd s) := formedNext h

theorem formedNext_cxlPortRetraining (h : Formed s) : FormedNext (execCxlPortRetraining s) := formedNext h

theorem formed_spareChannel {d c : Nat} (h : Formed s) : Formed (s.spareChannel d c) := formed_ite h (formed_ite h h)

theorem formed_hbmCorr {l : List (Nat × Nat × Nat)} (h : Formed s) : Formed { s with hbmCorr := l } := h

theorem formedNext_pseudoChannelSpare (h : Formed s) : FormedNext (execPseudoChannelSpare s) :=
  formedNext_ite (formedNext (formed_spareChannel h)) (formedNext_ite (formedNext (formed_hbmCorr (formed_corrected h)))
    (formedNext (formed_spareChannel (formed_hbmCorr (formed_corrected h)))))

theorem formedNext_spareCopyEnd (h : Formed s) : FormedNext (execSpareCopyEnd s) := formedNext h

theorem sound_debugHalt {t : Tile} {now : Nat} (h : Sound t) : Sound (t.debugHalt now) := sound_ite h h

theorem formed_debugHaltAt {d p : Nat} (h : Formed s) : Formed (s.debugHaltAt d p) := by
  unfold State.debugHaltAt
  split
  · exact h
  · exact formed_ite h (formed_onTile h fun _ => sound_debugHalt)

theorem formed_debugReleaseAt {d p : Nat} (h : Formed s) : Formed (s.debugReleaseAt d p) := by
  unfold State.debugReleaseAt
  split
  · exact h
  · exact formed_onTile_of_sram h fun _ => rfl

/-! ## Migration (R294, R386 to R388) -/

variable {m : MigReq}

theorem cellsWf_foldl {α : Type} {f : List Host.Cell → α → List Host.Cell} {l : List α} {c : List Host.Cell}
    (hf : ∀ c x, cellsWf c = true → cellsWf (f c x) = true) (h : cellsWf c = true) : cellsWf (l.foldl f c) = true :=
  List.foldlRecOn l f h fun c hc x _ => hf c x hc

theorem formed_copyFrame {old new n : Nat} (h : Formed s) : Formed (s.copyFrame old new n) :=
  formed_badMem (formed_mem h (cellsWf_foldl (fun _ _ => cellsWf_write) (cellsWf_filter h.mem)))

theorem formed_migBegin {op : Nat} {i : Instr} (h : Formed s) : Formed (s.migBegin op i) := by
  unfold State.migBegin
  dsimp only
  split
  · exact h
  · split
    · exact formed_migEnd h
    · exact formed_agenda h
    · exact formed_sched (formed_putMig h)

theorem formed_putPte {a v : Nat} (h : Formed s) : Formed (s.putPte a v) := formed_cnt (formed_gWrite h)

theorem formed_migLock (h : Formed s) : Formed (s.migLock m) := by
  unfold State.migLock
  split
  · exact formed_migEnd h
  · exact formed_agenda h
  · exact formed_ite (formed_migEnd h) (formed_migNext (formed_foldl (fun _ _ => formed_putPte) h))

theorem formed_migFence {next : Nat} (h : Formed s) : Formed (s.migFence m next) :=
  formed_ite (formed_sched (formed_putMig (formed_foldl (fun _ _ => formed_dropTlb) h))) (formed_ite (formed_sched h) (formed_migNext h))

theorem formed_migMove (h : Formed s) : Formed (s.migMove m) :=
  formed_migNext (formed_foldl (fun _ _ hu => formed_ite (formed_putPte hu) hu) (formed_free h))

theorem formed_migDone {l : List (Nat × Nat)} (h : Formed s) : Formed { s with migDone := l } := h

theorem formed_migUnlock (h : Formed s) : Formed (s.migUnlock m) := by
  have hu : Formed (m.ptes.foldl (fun s p => s.putPte p.1 (s.dwordAt p.1 - bits (s.dwordAt p.1) 9 9 * 2 ^ 9)) s) :=
    formed_foldl (fun _ _ => formed_putPte) h
  exact formed_migEnd (formed_ite (formed_migDone hu) hu)

theorem formed_migReplicas (h : Formed s) : Formed (s.migReplicas m) := formed_migNext (formed_foldl (fun _ _ => formed_copyFrame) h)

theorem formed_migRep (h : Formed s) : Formed (s.migRep m) := formed_migNext (formed_foldl (fun _ _ hu => formed_ite (formed_putPte hu) hu) h)

theorem formed_migCopy (h : Formed s) : Formed (s.migCopy m) := by
  unfold State.migCopy
  dsimp only
  generalize regionOf (m.oldFrame * 2 ^ 16) = r
  cases r
  case peer =>
    refine formed_ite h ?_
    split
    · exact formed_ite (formed_eutasSend (formed_putMig h)) (formed_copyLost h)
    · exact formed_copyLost h
  all_goals exact formed_migNext (formed_copyFrame h)

theorem formedNext_migrationStep (h : Formed s) : FormedNext (execMigrationStep s) := by
  unfold execMigrationStep
  split
  · exact formedNext h
  · split
    · exact formedNext (formed_migLock h)
    · exact formedNext (formed_migFence h)
    · exact formedNext (formed_migCopy h)
    · exact formedNext (formed_migMove h)
    · exact formedNext (formed_migFence h)
    · exact formedNext (formed_migUnlock h)
    · exact formedNext (formed_migReplicas h)
    · exact formedNext (formed_migRep h)

/-! ## Bring-up (R12 to R20) -/

theorem formed_boot_free {b : Boot} {n : Nat} (h : Formed s) : Formed { s with boot := b, free := n } := h
theorem formed_boot_agenda {b : Boot} {q : List Nat} {l : List (Nat × Instr × EvArg)} (h : Formed s) :
    Formed { s with draining := q, boot := b, agenda := l } := h

theorem formed_claim {n : Nat} (h : Formed s) : Formed (s.claim n) := formed_ite (formed_boot h) h

theorem formed_reject {n : Nat} (h : Formed s) : Formed (s.reject n) := formed_boot h

theorem formed_fatal {n : Nat} (h : Formed s) : Formed (s.fatal n) := formed_record (formed_boot_free h)

theorem formed_bootNext {n : Nat} {i : Instr} {e : EvArg} (h : Formed s) : Formed (s.bootNext n i e) := formed_sched h

theorem formedNext_perstDeassert (h : Formed s) : FormedNext (execPerstDeassert s) := formedNext_ite (formedNext h) (formedNext (formed_boot h))

theorem formedNext_portTrained (h : Formed s) : FormedNext (execPortTrained s) := formedNext_ite (formedNext (formed_boot h)) (formedNext h)

theorem formed_endReload (h : Formed s) : Formed s.endReload := formed_boot_agenda h

theorem formed_fwcmd {p : HostPort} {v : Nat} (h : Formed s) : Formed (s.fwcmd p v) :=
  formed_ite (formed_boot h) (formed_ite (formed_bootNext (formed_boot (formed_boot h)))
    (formed_ite (formed_sched (formed_boot (formed_boot h))) (formed_ite (formed_endReload (formed_boot h)) (formed_boot h))))

theorem formed_activate (h : Formed s) : Formed s.activate :=
  formed_ite (formed_ite (formed_reject (formed_claim h)) (formed_bootNext (formed_boot (formed_claim h))))
    (formed_ite (formed_ite (formed_fatal h) (formed_bootNext (formed_boot_free h))) h)

theorem formed_fwcmdEvent {v : Nat} (h : Formed s) : Formed (s.fwcmdEvent v) := formed_ite (formed_fwcmd h) h

theorem formed_keepDies {d : BitVec 24} (h : Formed s) : Formed (s.keepDies d) := h

theorem formed_trained {b : Boot} {x : Vector CxlPort 8} {e : EutasRegs} (h : Formed s) : Formed { s with boot := b, cxl := x, eutas := e } := h

theorem formedNext_memoryTraining (h : Formed s) : FormedNext (execMemoryTraining s) :=
  formedNext_ite (formedNext h) (formedNext_ite (formedNext (formed_fatal (formed_keepDies h))) (formedNext (formed_bootNext (formed_trained (formed_keepDies h)))))

theorem formedNext_controlLoad (h : Formed s) : FormedNext (execControlLoad s) :=
  formedNext_ite (formedNext h) (formedNext (formed_bootNext (formed_free (formed_boot_sch h rfl))))

theorem formed_retireQuad {n : Nat} (h : Formed s) : Formed (s.retireQuad n) := by
  unfold State.retireQuad
  dsimp only
  split
  · exact h
  · exact formed_ite (formed_lostQuads h) (formed_shifts h)

theorem formed_holdCluster {c : Nat} (h : Formed s) : Formed (s.holdCluster c) := formed_ite (formed_sched (formed_boot h)) (formed_boot h)

theorem formedNext_tileSelfTest (h : Formed s) : FormedNext (execTileSelfTest s) := by
  refine formedNext_ite (formedNext h) (formedNext_ite (formedNext (formed_fatal (formed_keepDies h))) (formedNext (formed_bootNext (formed_boot_sch ?_ rfl))))
  exact formed_foldl (fun _ _ => formed_holdCluster) (formed_foldl (fun _ _ => formed_retireQuad) (formed_keepDies h))

theorem formedNext_bootReady (h : Formed s) : FormedNext (execBootReady s) := formedNext_ite (formedNext h) (formedNext (formed_boot h))

/-! ## Live reload, ownership transfer, attestation (R20 to R25) -/

theorem formed_draining_boot {q : List Nat} {b : Boot} (h : Formed s) : Formed { s with draining := q, boot := b } := h

theorem formed_preemptAll {ls : List Launch} (h : Formed s) : Formed (ls.foldl (fun s l => s.preemptLaunch l.id false) s) :=
  formed_foldl (fun _ _ => formed_preemptLaunch) h

theorem formed_reloadFrom {c : Nat} (h : Formed s) : Formed (s.reloadFrom c) := by
  unfold State.reloadFrom
  split
  · exact formed_sched (formed_draining_boot h)
  · exact formed_sched (formed_preemptAll (formed_draining_boot h))

theorem formed_reloadStep {k : Nat} (h : Formed s) : Formed (s.reloadStep k) := by
  unfold State.reloadStep
  dsimp only
  split
  · exact formed_ite (formed_reject (formed_claim h)) (formed_sched (formed_boot (formed_claim h)))
  · exact formed_ite (formed_fatal h) (formed_sched (formed_boot h))
  · exact formed_ite (formed_sched (formed_takeover h)) (formed_reloadFrom h)
  · exact formed_reloadFrom (formed_sch h rfl)
  · exact formed_sched h
  · exact formed_endReload (formed_boot h)

theorem formed_free_draining {n : Nat} {q : List Nat} (h : Formed s) : Formed { s with free := n, draining := q } := h
theorem formed_quads_boot {q : List Quad} {b : Boot} (h : Formed s) : Formed { s with quads := q, boot := b } := h

theorem formedNext_clusterReload (h : Formed s) : FormedNext (execClusterReload s) :=
  formedNext_ite (formedNext h) (formedNext_ite (formedNext (formed_sched (formed_preemptAll h)))
    (formedNext_ite (formedNext (formed_reloadFrom (formed_quads_boot (formed_free_draining h))))
      (formedNext (formed_holdCluster (formed_endReload (formed_free_draining h))))))

theorem formed_submitTransfer (h : Formed s) : Formed s.submitTransfer := formed_boot_free h

theorem formed_xferWrite {k : Nat} {v : Dword} (h : Formed s) : Formed (s.xferWrite k v) := formed_ite (formed_submitTransfer (formed_boot h)) (formed_boot h)

theorem formed_transferEvent (h : Formed s) : Formed s.transferEvent := formed_ite (formed_xferWrite h) h

theorem formed_spdmAnswer {n : String} {bs : List Byte} (h : Formed s) : Formed (s.spdmAnswer n bs) := formed_ite h h

end
end Sys2Proof.Proofs.MemoryForms
end

section
/-! PROOF. The canonical form of the memories over the host: power, registers, BAR2, the order of its writes, reset (R13, R15, R26 to R32, R372). -/

namespace Sys2Proof.Proofs.MemoryForms

open Sys2Proof Sys2Proof.Machine Sys2Proof.Laws

section
variable {s : State}

/-! ## Power (R31, R32) -/

theorem formed_draw {d n : Nat} {b : Bool} (h : Formed s) : Formed { s with draw := d, overCap := b, free := n } := h

theorem formed_samplePower (h : Formed s) : Formed s.samplePower := formed_draw h

theorem formed_capStart {due : Nat} (h : Formed s) : Formed (s.capStart due) := h

theorem formed_uncapped (h : Formed s) : Formed { s with capped := [], capHeld := [], capUntil := none } := h

theorem formed_newCap {c a n : Nat} (h : Formed s) : Formed { s with pwrcap := c, capAt := a, free := n } := h

theorem formed_capWrite {v : Nat} (h : Formed s) : Formed (s.capWrite v) :=
  formed_ite (formed_capStart (formed_samplePower (formed_newCap h))) (formed_uncapped (formed_samplePower (formed_newCap h)))

theorem formed_lookPower (h : Formed s) : Formed s.lookPower := formed_ite (formed_capStart (formed_samplePower h)) (formed_samplePower h)

theorem formed_capEvent (h : Formed s) : Formed s.capEvent := formed_ite (formed_capWrite h) h

theorem formedNext_capDeadline (h : Formed s) : FormedNext (execCapDeadline s) := by
  have hp : Formed s.samplePower := formed_samplePower h
  unfold execCapDeadline
  split
  · exact formedNext h
  · refine formedNext_ite (formedNext h) (formedNext_ite (formedNext (formed_uncapped hp)) (formedNext (formed_sched ?_)))
    split
    · exact formed_preemptLaunch hp
    · exact hp

/-! ## Registers (R26 to R28) -/

theorem formed_err {e : ErrRegs} (h : Formed s) : Formed { s with err := e } := h
theorem formed_peerWin {l : List (Nat × Dword)} (h : Formed s) : Formed { s with peerWin := l } := h
theorem formed_debugOn {l : List (Nat × Nat)} (h : Formed s) : Formed { s with debugOn := l } := h

theorem formed_debugControl {d p : Nat} {halt go : Prop} [Decidable halt] [Decidable go] (h : Formed s) :
    Formed (if go then (if halt then s.debugHaltAt d p else s).debugReleaseAt d p else if halt then s.debugHaltAt d p else s) := by
  have hh : Formed (if halt then s.debugHaltAt d p else s) := formed_ite (formed_debugHaltAt h) h
  exact formed_ite (formed_debugReleaseAt hh) hh

theorem formed_regSet {p : HostPort} {b : Bar} {o v : Nat} (h : Formed s) : Formed (s.regSet p b o v) := by
  cases b with
  | identity => exact formed_boot h
  | trust => exact formed_xferWrite h
  | power => exact formed_capWrite h
  | firmware => exact formed_ite (formed_fwcmd h) (formed_boot h)
  | sched => exact formed_ite (formed_qcmd h) (formed_ite (formed_sch h rfl) h)
  | placement => exact formed_ite (formed_ite h (formed_agenda h)) (formed_sch h rfl)
  | errors => exact formed_ite (formed_ite (formed_err h) h) (formed_ite (formed_ite h (formed_err h)) (formed_err h))
  | trans =>
    exact formed_ite (formed_tr h) (formed_ite (formed_ite (formed_tr h) h) (formed_ite (formed_fqTailWrite h)
      (formed_ite (formed_ite (formed_resolveRewalk h) (formed_resolveFail h)) (formed_ite (formed_migSlots h)
        (formed_ite (formed_migCommand h) (formed_peerWin h))))))
  | eutas => exact formed_ite (formed_ite (formed_eutas h) h) (formed_ite (formed_eutas h) (formed_linksChanged (formed_eutas h)))
  | debug d => exact formed_debugControl (formed_debugOn h)
  | counters => exact h
  | leaf c => exact h
  | reserved => exact h

theorem formed_countReserved (h : Formed s) : Formed s.countReserved := formed_boot h

theorem formed_hostWrite {p : HostPort} {off size v : Nat} (h : Formed s) : Formed (s.hostWrite p off size v) := by
  refine formed_ite h (formed_ite (formed_outbox h) (formed_ite (formed_countReserved h) (formed_ite h ?_)))
  split
  · exact h
  · exact formed_ite (formed_regSet h) h
  · exact formed_regSet h

theorem formed_hostRead {off size : Nat} (h : Formed s) : Formed (s.hostRead off size) :=
  formed_ite h (formed_ite (formed_outbox h) (formed_outbox (formed_ite (formed_countReserved h) (formed_ite (formed_lookPower h) h))))

/-! ## BAR2 (R19, R29, R385) -/

theorem formed_staging {m : List Host.Cell} (h : Formed s) (hm : cellsWf m = true) : Formed { s with staging := m } := ⟨h.mem, hm, h.tiles, h.saved⟩

theorem cellsWf_ite {p : Prop} [Decidable p] {m n : List Host.Cell} (hm : cellsWf m = true) (hn : cellsWf n = true) : cellsWf (if p then m else n) = true := by
  split
  · exact hm
  · exact hn

theorem formed_stagingAccess {off : Nat} {req : MemReq} (h : Formed s) : Formed (s.stagingAccess off req) := by
  cases req with
  | read n => exact formed_outbox h
  | write bs => exact formed_ite h (formed_staging h (cellsWf_foldl (fun _ _ hm => cellsWf_ite (cellsWf_write hm) hm) h.staging))
  | fetchAdd n v => exact formed_outbox h
  | swap n v => exact formed_outbox h
  | cas n c v => exact formed_outbox h
  | alu f c n v => exact formed_outbox h
  | sync op v => exact h

theorem formed_windowAccess {off : Nat} {req : MemReq} (h : Formed s) : Formed (s.windowAccess off req) := by
  unfold State.windowAccess
  dsimp only
  split
  · split
    · exact h
    all_goals exact formed_outbox h
  · split
    · exact formed_ite (formed_outbox h) (formed_outbox h)
    · exact formed_ite h (formed_gWrite h)
    all_goals exact formed_ite (formed_outbox h) (formed_unitSend h)

theorem formed_bar2Perform (h : Formed s) : Formed s.bar2Perform := formed_ite (formed_stagingAccess h) (formed_windowAccess h)

/-! ## The order of the host's writes (R372) -/

variable {i : Instr}

theorem formed_hostPerform (h : Formed s) : Formed (s.hostPerform i) := by
  unfold State.hostPerform
  split
  · exact formed_bar2Perform h
  · exact formed_notifyArrives h
  · exact formed_qcmdEvent h
  · exact formed_qcmdEvent h
  · exact formed_qcmdEvent h
  · exact formed_qcmdEvent h
  · exact formed_fwcmdEvent h
  · exact formed_fwcmdEvent h
  · exact formed_fwcmdEvent h
  · exact formed_transferEvent h
  · exact formed_capEvent h
  · exact formed_resolveRewalk h
  · exact formed_resolveFail h
  · exact formed_fqTailWrite h
  · exact formed_ite (formed_fenceWith h) h
  · exact formed_debugHaltAt h
  · exact formed_debugReleaseAt h
  · split
    · exact formed_hostWrite h
    · exact h
  · exact formed_hostWrite h

theorem formed_portAgain {p : HostPort} {n : Nat} (h : Formed s) : Formed (s.portAgain p n) := formed_agenda (formed_countRef h)

theorem formed_behind (h : Formed s) : Formed (s.behind i) := h

theorem formed_inOrder (h : Formed s) : Formed (s.inOrder i) := by
  refine formed_ite (formed_behind h) ?_
  split
  · exact formed_portAgain (formed_behind h)
  · exact formed_hostPerform h

theorem formed_ev {e : EvArg} (h : Formed s) : Formed { s with ev := e } := h
theorem formed_ev_hostQ {e : EvArg} {l : List (Instr × EvArg)} (h : Formed s) : Formed { s with ev := e, hostQ := l } := h

theorem formed_drainPort {p : HostPort} {n : Nat} (h : Formed s) : Formed (State.drainPort p n s) := by
  induction n generalizing s with
  | zero => exact h
  | succ n ih =>
    unfold State.drainPort
    split
    · exact h
    · split
      · exact formed_portAgain h
      · exact ih (formed_hostPerform (formed_ev_hostQ h))

theorem formedNext_inOrder (h : Formed s) : FormedNext (.next (s.inOrder i)) := formedNext (formed_inOrder h)

theorem formedNext_bar2Access (h : Formed s) : FormedNext (execBar2Access s) := by
  refine formedNext_ite (formedNext_ite (formedNext (formed_boot h)) (formedNext h)) (formedNext_ite (formedNext (formed_drainPort h))
    (formedNext_ite (formedNext h) (formedNext_ite (formedNext (formed_outbox h)) ?_)))
  split
  · exact formedNext_inOrder h
  · exact formedNext (formed_agenda (formed_countRef h))
  · exact formedNext (formed_bar2Perform h)

theorem formedNext_queueCreate (h : Formed s) : FormedNext (execQueueCreate s) := formedNext (formed_ite (formed_createQueue h) (formed_inOrder h))

theorem formedNext_fwcmdActivate (h : Formed s) : FormedNext (execFwcmdActivate s) := formedNext (formed_ite (formed_activate h) (formed_inOrder h))

theorem formedNext_fwcmdReload (h : Formed s) : FormedNext (execFwcmdReload s) :=
  formedNext (formed_ite (formed_ite (formed_reloadStep h) h) (formed_inOrder h))

theorem formedNext_dieFence (h : Formed s) : FormedNext (execDieFence s) := formedNext (formed_ite (formed_fenceWith h) (formed_inOrder h))

theorem formedNext_reservedAccess (h : Formed s) : FormedNext (execReservedAccess s) := by
  unfold execReservedAccess
  split
  · exact formedNext (formed_hostRead h)
  · exact formedNext_inOrder h
  all_goals exact formedNext (formed_outbox h)

theorem formedNext_notifyWrite (h : Formed s) : FormedNext (execNotifyWrite s) := by
  unfold execNotifyWrite
  split
  · exact formedNext (formed_ite (formed_notifyArrives (formed_notifyStored h)) (formed_notifyArrives h))
  · exact formedNext (formed_outbox h)
  · exact formedNext_inOrder h

/-! ## Reset (R13) -/

theorem formedNext_moduleReset (h : Formed s) : FormedNext (execModuleReset s) := by
  refine formedNext ⟨cellsWf_filter h.mem, rfl, ?_, ?_⟩
  · intro t ht
    nomatch ht
  · intro l hl
    nomatch hl

end
end Sys2Proof.Proofs.MemoryForms
end

section
/-! PROOF. The canonical form of the memories over staged launches, the clock and the step (R114 to R119). -/

namespace Sys2Proof.Proofs.MemoryForms

open Sys2Proof Sys2Proof.Machine Sys2Proof.Laws

/-! ## Staged launches (R114 to R119) -/

section
variable {s : State} {l : Launch} {g : Stage}

theorem formed_newLaunches_quads {x : Sched} {q : List Quad} (h : Formed s) (hx : ∀ l ∈ x.launches, SavedSound l) :
    Formed { s with sch := x, quads := q } := ⟨h.mem, h.staging, h.tiles, hx⟩

theorem formedNext_stageLaunch (h : Formed s) : FormedNext (execStageLaunch s) := by
  unfold execStageLaunch
  split
  · exact formedNext h
  · split
    · exact formedNext h
    · split
      · exact formedNext h
      · refine formedNext_ite (formedNext (formed_schedBusy (formed_refuseRecord h))) ?_
        split
        · exact formedNext (formed_schedBusy (formed_refuseHead (formed_countTurn h)))
        · exact formedNext (formed_schedBusy (formed_newLaunches_quads h (savedSound_snoc h.saved (savedSound_new rfl))))

theorem formed_switchTile {xs : List Seat} {p : Dword} {x : Seat} (h : Formed s) : Formed (s.switchTile l xs p x) := by
  have hb : Sound (s.bindTile l xs x (s.tileAt x.addr)) := sound_bindTile (formed_tileAt h x.addr)
  refine formed_setTile h (sound_startAt ?_)
  exact hb

theorem formed_switchDie {d : Nat} (h : Formed s) : Formed (s.switchDie l g d) :=
  formed_foldl (fun _ _ => formed_writeLoad) (formed_foldl (fun _ _ => formed_switchTile) (formed_foldl (fun _ _ => formed_onQuad) h))

theorem formed_switched {ds : List Nat} (h : Formed s) (hl : SavedSound l) : Formed (s.switched l g ds) := by
  have ht : Formed (if g.done.isEmpty then s.takeHead l else s) := formed_ite (formed_takeHead h) h
  exact formed_ite (formed_putLaunch ht hl) (formed_putLaunch ht hl)

theorem formedNext_switchTick (h : Formed s) : FormedNext (execSwitchTick s) := by
  unfold execSwitchTick
  split
  · exact formedNext h
  · next hl =>
    have hs := savedSound_launch h hl
    split
    · refine formedNext_ite (formedNext h) ?_
      split
      · exact formedNext_ite (formedNext (formed_free (formed_putLaunch h hs))) (formedNext h)
      · exact formedNext_ite (formedNext h) (formedNext_ite (formedNext (formed_switched (formed_foldl (fun _ _ => formed_switchDie) h) hs))
          (formedNext (formed_putLaunch h hs)))
    · exact formedNext h

theorem formed_sendTokens (h : Formed s) (hl : SavedSound l) : Formed (s.sendTokens l g) :=
  formed_ite h (formed_foldl (fun _ _ hu => formed_foldl (fun _ _ => formed_sched) hu) (formed_putLaunch h hl))

theorem formed_stageTick (h : Formed s) : Formed s.stageTick := by
  refine formed_foldl (fun u x hu => ?_) h
  split
  · next hl =>
    have hs := savedSound_launch hu hl
    split
    · exact formed_ite (formed_sendTokens hu hs) hu
    · exact hu
  · exact hu

theorem formedNext_switchToken (h : Formed s) : FormedNext (execSwitchToken s) := by
  unfold execSwitchToken
  split
  · exact formedNext h
  · next hl =>
    have hs := savedSound_launch h hl
    split
    · exact formedNext_ite (formedNext_ite (formedNext (formed_switched (formed_switchDie h) hs)) (formedNext h))
        (formedNext_ite (formedNext (formed_sched h)) (formedNext (formed_putLaunch h hs)))
    · exact formedNext h

end

/-! ## The next tick -/

section
variable {s : State} {a : Nat}

theorem formed_gateTick (h : Formed s) : Formed s.gateTick := formed_ite h h

theorem formed_haltTick (h : Formed s) : Formed (s.haltTick a) := formed_ite (formed_kilnHalt h) h

theorem sound_syncTick {t : Tile} {now : Nat} (h : Sound t) : Sound (t.syncTick now) := by
  unfold Tile.syncTick
  split
  · exact sound_syncDone h
  · exact h

theorem sound_mxPrune {t : Tile} {now : Nat} (h : Sound t) : Sound (t.mxPrune now) := h

theorem formed_tileTick (h : Formed s) : Formed (s.tileTick a) := by
  refine formed_haltTick (formed_supTick (formed_knTick (formed_ntTick (formed_mxTick (formed_onTile ?_ fun _ ht =>
    sound_syncTick (sound_tclrTick (sound_mxPrune ht)))))))
  exact formed_foldl (fun _ _ hu => formed_asPrev hu fun _ hw =>
    formed_haltTick (formed_knTick (formed_ntTick (formed_mxTick (formed_onTile hw fun _ => sound_mxPrune))))) h

theorem formed_tick {n : Nat} (h : Formed s) : Formed { s with tick := n } := h

theorem formed_nextTick (h : Formed s) : Formed s.nextTick :=
  formed_turn (formed_foldl (fun _ _ => formed_tileTick) (formed_gateTick (formed_tick (formed_stageTick (formed_schedTick (formed_leafTick
    (formed_healthTick (formed_foldl (fun _ _ => formed_tkTick) h))))))))

/-! ## One step -/

/-- The events of the agents, one arm each. -/
theorem formedNext_event {i : Instr} (hi : isEvent i = true) (h : Formed s) : FormedNext (exec i s) := by
  cases i with
  | perstDeassert => exact formedNext_perstDeassert h
  | portTrained => exact formedNext_portTrained h
  | fwcmdActivate => exact formedNext_fwcmdActivate h
  | memoryTraining => exact formedNext_memoryTraining h
  | controlLoad => exact formedNext_controlLoad h
  | tileSelfTest => exact formedNext_tileSelfTest h
  | bootReady => exact formedNext_bootReady h
  | fwcmdReload => exact formedNext_fwcmdReload h
  | clusterReload => exact formedNext_clusterReload h
  | fwcmdEndReload => exact formedNext_inOrder h
  | transferCommand => exact formedNext_inOrder h
  | getVersion => exact formedNext (formed_spdmAnswer h)
  | getCapabilities => exact formedNext (formed_spdmAnswer h)
  | negotiateAlgorithms => exact formedNext (formed_spdmAnswer h)
  | getDigests => exact formedNext (formed_spdmAnswer h)
  | getCertificate => exact formedNext (formed_spdmAnswer h)
  | challenge => exact formedNext (formed_spdmAnswer h)
  | getMeasurements => exact formedNext (formed_spdmAnswer h)
  | registerWrite => exact formedNext_inOrder h
  | reservedAccess => exact formedNext_reservedAccess h
  | bar2Access => exact formedNext_bar2Access h
  | pwrcapWrite => exact formedNext_inOrder h
  | capDeadline => exact formedNext_capDeadline h
  | junctionOvertemp => exact formedNext_junctionOvertemp h
  | queueCreate => exact formedNext_queueCreate h
  | queueDestroy => exact formedNext_inOrder h
  | queueDestroyComplete => exact formedNext_queueDestroyComplete h
  | queueResume => exact formedNext_inOrder h
  | queueAbort => exact formedNext_inOrder h
  | notifyWrite => exact formedNext_notifyWrite h
  | queueMap => exact formedNext_queueMap h
  | recordRead => exact formedNext_recordRead h
  | launchPlacement => exact formedNext_launchPlacement h
  | place => exact formedNext_place h
  | placed => exact formedNext_placed h
  | nofit => exact formedNext_nofit h
  | start => exact formedNext_start h
  | triggered => exact formedNext_triggered h
  | halted => exact formedNext_halted h
  | completionWrite => exact formedNext_completionWrite h
  | preempt => exact formedNext_preempt h
  | release => exact formedNext_release h
  | fault => exact formedNext_fault h
  | schedulerTakeover => exact formedNext_schedulerTakeover h
  | stageLaunch => exact formedNext_stageLaunch h
  | switchTick => exact formedNext_switchTick h
  | switchToken => exact formedNext_switchToken h
  | quadCondemn => exact formedNext_quadCondemn h
  | columnShift => exact formedNext_columnShift h
  | dieFence => exact formedNext_dieFence h
  | laneRepair => exact formedNext_laneRepair h
  | linkRetrainEnd => exact formedNext_linkRetrainEnd h
  | pseudoChannelSpare => exact formedNext_pseudoChannelSpare h
  | spareCopyEnd => exact formedNext_spareCopyEnd h
  | bundleIssue => exact formedNext_bundleIssue h
  | parityRefetch => exact formedNext_parityRefetch h
  | freeRunningLanding => exact formedNext_freeRunningLanding h
  | dataLockedLanding => exact formedNext_dataLockedLanding h
  | loopPassEnd => exact formedNext_loopPassEnd h
  | idleEnd => exact formedNext_idleEnd h
  | fmtTakesEffect => exact formedNext_fmtTakesEffect h
  | fillerCommit => exact formedNext_fillerCommit h
  | scrubRead => exact formedNext_scrubRead h
  | mxOpStart => exact formedNext_mxOpStart h
  | mxOpEnd => exact formedNext_mxOpEnd h
  | dmCompletion => exact formedNext_dmCompletion h
  | translationWalk => exact formedNext_translationWalk h
  | dUpdate => exact formedNext_dUpdate h
  | resolveRewalk => exact formedNext_inOrder h
  | resolveFail => exact formedNext_inOrder h
  | fqtailWrite => exact formedNext_inOrder h
  | accessRetry => exact formedNext_accessRetry h
  | migrate => exact formedNext (formed_migBegin h)
  | replicate => exact formedNext (formed_migBegin h)
  | collapse => exact formedNext (formed_migBegin h)
  | migrationStep => exact formedNext_migrationStep h
  | atomicArrival => exact formedNext_atomicArrival h
  | gateTimeout => exact formedNext_gateTimeout h
  | watchRecheck => exact formedNext_watchRecheck h
  | eutasPacketReceive => exact formedNext_eutasPacketReceive h
  | eutasRetransmit => exact formedNext_eutasRetransmit h
  | peerLoss => exact formedNext_peerLoss h
  | windowStart => exact formedNext_windowStart h
  | windowEnd => exact formedNext_windowEnd h
  | packetArrival => exact formedNext_packetArrival h
  | packetRetry => exact formedNext_packetRetry h
  | kilnChildArrival => exact formedNext_kilnChildArrival h
  | bellRing => exact formedNext_bellRing h
  | bellRelease => exact formedNext_bellRelease h
  | tagWaitComplete => exact formedNext_tagWaitComplete h
  | taskSwitchOut => exact formedNext_taskSwitchOut h
  | timerUnit => exact formedNext_timerUnit h
  | messageAccept => exact formedNext_messageAccept h
  | contextArrival => exact formedNext_contextArrival h
  | clusterLoadWrite => exact formedNext_clusterLoadWrite h
  | spawnCreateEnd => exact formedNext_spawnCreateEnd h
  | taskSaveEnd => exact formedNext_taskSaveEnd h
  | taskLoadEnd => exact formedNext_taskLoadEnd h
  | completionNotice => exact formedNext_completionNotice h
  | tileSleep => exact formedNext_tileSleep h
  | tileWake => exact formedNext_tileWake h
  | supervisorEntry => exact formedNext_supervisorEntry h
  | supervisorTimerExpiry => exact formedNext_supervisorTimerExpiry h
  | debugHaltRequest => exact formedNext_inOrder h
  | debugRelease => exact formedNext_inOrder h
  | preemptHalt => exact formedNext_preemptHalt h
  | preemptSave => exact formedNext_preemptSave h
  | restore => exact formedNext_restore h
  | errorCounterHalving => exact formedNext_errorCounterHalving h
  | tileDrained => exact formedNext_tileDrained h
  | moduleReset => exact formedNext_moduleReset h
  | peerReachableAgain => exact formedNext_peerReachableAgain h
  | cxlPortRetraining => exact formedNext_cxlPortRetraining h
  | _ => cases hi

theorem formedNext_exec {i : Instr} (h : Formed s) : FormedNext (exec i s) := by
  cases hsp : specOf i with
  | none =>
    obtain hev | ⟨m, rfl⟩ := (Bundles.specOf_none_iff i).mp hsp
    · exact formedNext_event hev h
    · exact fun t ht => formed_issueMove h ht
  | some sp =>
    rw [Bundles.exec_of_spec hsp]
    exact fun t ht => formed_issueOne (formedSpec_of_spec hsp) h ht

theorem formedNext_serveTurn (h : Formed s) : FormedNext (serveTurn s) := by
  refine formedNext_ite (formedNext_exec (formed_ev h)) (formedNext_ite (formedNext_exec (formed_ev h)) (formedNext_ite (formedNext_exec (formed_ev h)) ?_))
  split
  · exact formedNext_exec (formed_latch h)
  all_goals exact formedNext_exec (formed_ev h)

theorem formed_agenda_ev {l : List (Nat × Instr × EvArg)} {e : EvArg} (h : Formed s) : Formed { s with agenda := l, ev := e } := h
theorem formed_turn_cur {l : List Nat} {c : Nat} (h : Formed s) : Formed { s with turn := l, cur := c } := h

theorem formedNext_step (h : Formed s) : FormedNext (step s) := by
  unfold step
  split
  · split
    · exact formedNext_exec (formed_agenda_ev h)
    · exact fun _ he => nomatch he
  · split
    · exact formedNext_exec (formed_ev h)
    · split
      · exact formedNext_ite (formedNext_serveTurn (formed_turn_cur h)) (formedNext (formed_turn_cur h))
      · exact formedNext (formed_nextTick h)

end

/-- Settles O50: whatever one step does, it writes to a memory only through `cellsWrite`, or takes a part of one. -/
theorem memoryFormKept : Obligations.MemoryFormKept := by
  unfold Obligations.MemoryFormKept
  intro s t h ht
  exact (formed_iff t).mp (formedNext_step ((formed_iff s).mpr h) t ht)

end Sys2Proof.Proofs.MemoryForms
end

section
/-! PROOF. The matrix unit `mx`: what its triggers do to the sequence, which of their checks refuse, stall and trap, and what an operation leaves in the accumulators (R244 to R250, R256 to R260). -/

namespace Sys2Proof.Proofs.Matrix

open Sys2Proof Sys2Proof.Machine Sys2Proof.Laws

/-! ## The end of the sequence (R244, R245) -/

/-- Only a data-locked head starts by itself. -/
theorem mxStart_of_free {s : State} {a : Nat} (h : ∀ o ∈ (s.tileAt a).mxq, o.locked = false) : s.mxStart a = s := by
  unfold State.mxStart
  split
  · rfl
  next o _ hq =>
    have ho : o.locked = false := h o (hq ▸ List.mem_cons_self)
    exact if_neg fun hc => Bool.false_ne_true (ho.symm.trans hc.1)

/-- The state in which an operation stands at the end of the sequence. -/
def joined (st : Start) (kind : MxKind) (acc : BitVec 2) (occ : Nat) (cs : List (BitVec 3 × Nat)) (s : State) : State :=
  s.onSelf fun t => { t with mxq := t.mxq ++ [mxNew st t kind acc occ cs] }

section
variable {st : Start} {kind : MxKind} {acc : BitVec 2} {occ : Nat} {cs : List (BitVec 3 × Nat)} {s : State}

theorem joined_mxq : (joined st kind acc occ cs s).self.mxq = s.self.mxq ++ [mxNew st s.self kind acc occ cs] := by
  rw [joined, self_onSelf]

/-- A free-running trigger puts its operation at the end of the sequence, whose head may start. -/
theorem mxEnqueue_free (hl : st.locked = false) :
    mxEnqueue st kind acc occ cs { st := s } = leaves ((joined st kind acc occ cs s).mxStart s.cur) := by
  have hn : ¬(st.locked = true ∧ kind = .mrd) := fun h => Bool.false_ne_true (hl.symm.trans h.1)
  unfold mxEnqueue
  dsimp only
  rw [if_neg hn]
  rfl

/-- Behind free-running operations alone, a free-running trigger starts nothing. -/
theorem mxStart_joined (hl : st.locked = false) (hq : ∀ o ∈ s.self.mxq, o.locked = false) :
    (joined st kind acc occ cs s).mxStart s.cur = joined st kind acc occ cs s := by
  refine mxStart_of_free fun o ho => ?_
  rcases List.mem_append.mp (joined_mxq ▸ ho) with ho | ho
  · exact hq o ho
  · rw [List.mem_singleton.mp ho]
    exact hl

end

/-! ## Refusals (R239, R244, R254) -/

/-- A refusal is a word for `mx.s`. -/
theorem mxRefuse_eq {st : Start} {w : Dword} {s : State} (hk : st.sock = .mx) : mxRefuse st w { st := s } = leaves (mxWordNext st w s) := by
  unfold mxRefuse mxWordNext Tile.mxWord Tile.queueResult
  rw [hk]
  rfl

/-- COMPLETION of a trigger of `mx`, where what it finds names its socket. -/
theorem runsMx_of_sock {i : Instr} {sp : Spec} {h : Head} {o : Option Opnd} {ok : Start → State → Prop} {f : Start → State → Issue}
    (hs : specOf i = some sp) (hi : headOf i = some (h, none)) (hk : sp.sock = .mx) (ho : sp.opnd = o)
    (hr : ∀ st s, st.sock = .mx → ok st s → sp.run st { st := s } = .ok (f st s)) : RunsMx i h o ok f := by
  have hrun : RunsMx i h o (fun st s => st.sock = .mx ∧ ok st s) f :=
    runsMx_of (Bundles.exec_of_spec hs) hi hk ho fun st s ⟨hst, hok⟩ => hr st s hst hok
  exact fun s v hf hok => hrun s v hf ⟨rfl, hok⟩

/-! ## Triggers behind the check of R244 -/

section
variable {i : Instr} {sp : Spec} {h : Head} {o : Option Opnd} {acc : BitVec 2} {b : Bool} {k : Start → Issue → Except Stop Issue}
  (hs : specOf i = some sp) (hi : headOf i = some (h, none)) (hk : sp.sock = .mx) (ho : sp.opnd = o)
  (hrun : ∀ st j, sp.run st j = mxAdmit st acc b j (k st))
include hs hi hk ho hrun

/-- A TRIGGER THAT JOINS THE SEQUENCE, from what its meaning does once the check of R244 has passed. -/
theorem joinsMx_of {ok : Start → State → Prop} {kind : MxKind} {occ : Start → State → Nat} {claims : Start → State → List (BitVec 3 × Nat)}
    (hok : ∀ st s, ok st s → k st { st := s } = .ok (mxEnqueue st kind acc (occ st s) (claims st s) { st := s })) :
    JoinsMx i h o acc b ok kind occ claims := by
  have admitted : ∀ st s, mxRoom st s.pruned → ok st s.pruned →
      sp.run st { st := s } = .ok (mxEnqueue st kind acc (occ st s.pruned) (claims st s.pruned) { st := s.pruned }) := fun st s hr ha => by
    rw [hrun, mxAdmit_room hr, hok st _ ha]
  refine ⟨?alone, ?free, ?locked, ?refused, ?stalled⟩
  case alone =>
    refine runsMx_of_sock hs hi hk ho fun st s _ ⟨hl, hr, ha, hq⟩ => ?_
    rw [admitted st s hr ha, mxEnqueue_free hl, mxStart_joined hl hq]
    rfl
  case free =>
    refine runsMx_of_sock hs hi hk ho fun st s _ ⟨hl, hr, ha⟩ => ?_
    rw [admitted st s hr ha, mxEnqueue_free hl]
    rfl
  case locked => exact runsMx_of_sock hs hi hk ho fun st s _ ⟨_, hr, ha⟩ => admitted st s hr ha
  case refused =>
    refine runsMx_of_sock hs hi hk ho fun st s hst ⟨hl, hfull⟩ => ?_
    rw [hrun, mxAdmit_refuse hl hfull, mxRefuse_eq hst]
    rfl
  case stalled =>
    subst ho
    intro s v hf hl hfull
    rw [Bundles.exec_of_spec hs]
    exact issueOne_stalls_mx hf hi hk (by rw [hrun, hk]; exact mxAdmit_stall hl hfull)

/-- A TRIGGER THAT IS REFUSED, although the sequence has room. -/
theorem refusesMx_of {ok : Start → Prop} {w : Dword} (hno : ∀ st s, ok st → k st { st := s } = .ok (mxRefuse st w { st := s })) :
    RunsMx i h o (fun st s => mxRoom st s.pruned ∧ ok st) (fun st s => leaves (mxWordNext st w s.pruned)) :=
  runsMx_of_sock hs hi hk ho fun st s hst ⟨hr, hn⟩ => by rw [hrun, mxAdmit_room hr, hno st _ hn, mxRefuse_eq hst]

/-- A TRIGGER THAT TRAPS, although the sequence has room. -/
theorem trapsMx_room {ok : Start → State → Prop} {c : Cause} {a d : Start → Dword}
    (hbad : ∀ st s, ok st s → k st { st := s } = .error (.trap c (a st) (d st))) :
    TrapsMx i h o (fun st s => mxRoom st s.pruned ∧ ok st s.pruned) c a d :=
  trapsMx_of (Bundles.exec_of_spec hs) hi hk ho fun st s ⟨hr, hb⟩ => by rw [hrun, mxAdmit_room hr, hbad st _ hb]

end

/-! ## Operations of one cycle (R257, R258, R260) -/

/-- The meaning that `mzero`, `mrd` and `mmask` share: behind the check of R244 they make no other. -/
def mxOneCycle (o : Option Opnd) (kind : MxKind) (acc : BitVec 2) : Spec :=
  { sock := .mx, opnd := o, run := fun st i => mxAdmit st acc false i fun i => .ok (mxEnqueue st kind acc 1 [] i) }

theorem oneCycle_joins {i : Instr} {h : Head} {o : Option Opnd} {kind : MxKind} {acc : BitVec 2} (hs : specOf i = some (mxOneCycle o kind acc))
    (hi : headOf i = some (h, none)) : JoinsMx i h o acc false always kind (fun _ _ => 1) (fun _ _ => []) :=
  joinsMx_of (k := fun st i => .ok (mxEnqueue st kind acc 1 [] i)) hs hi rfl rfl (fun _ _ => rfl) fun _ _ _ => rfl

/-! ## The checks of `mst` and `mld` (R259) -/

/-- `mst` and `mld` behind the check of R244: alignment, then range. -/
def blockAdmitted (kind : MxKind) (acc : BitVec 2) (st : Start) (i : Issue) : Except Stop Issue :=
  if st.natA 32 % 64 ≠ 0 then .error (.trap .misaligned (BitVec.ofNat 64 (st.natA 32)) 0)
  else if 0x60000 < st.natA 32 + 1024 then .error (.trap .localRange (BitVec.ofNat 64 (st.natA 32)) 0)
  else .ok (mxEnqueue st kind acc 16 [] i)

theorem blockOp_run (kind : MxKind) (acc : BitVec 2) (st : Start) (j : Issue) :
    (mxBlockOp kind acc).run st j = mxAdmit st acc false j (blockAdmitted kind acc st) := rfl

section
variable {i : Instr} {h : Head} {kind : MxKind} {acc : BitVec 2} (hs : specOf i = some (mxBlockOp kind acc)) (hi : headOf i = some (h, none))
include hs hi

theorem blockOp_joins :
    JoinsMx i h (some .opA) acc false (fun st _ => st.natA 32 % 64 = 0 ∧ st.natA 32 + 1024 ≤ 0x60000) kind (fun _ _ => 16) (fun _ _ => []) :=
  joinsMx_of hs hi rfl rfl (blockOp_run kind acc) fun st s ⟨ha, hr⟩ => by
    rw [blockAdmitted, if_neg (not_not_intro ha), if_neg (Nat.not_lt.mpr hr)]

theorem blockOp_misaligned :
    TrapsMx i h (some .opA) (fun st s => mxRoom st s.pruned ∧ st.natA 32 % 64 ≠ 0) .misaligned (fun st => BitVec.ofNat 64 (st.natA 32)) (fun _ => 0) :=
  trapsMx_room hs hi rfl rfl (blockOp_run kind acc) (ok := fun st _ => st.natA 32 % 64 ≠ 0) fun st s ha => by
    rw [blockAdmitted, if_pos ha]

theorem blockOp_outOfRange :
    TrapsMx i h (some .opA) (fun st s => mxRoom st s.pruned ∧ st.natA 32 % 64 = 0 ∧ 0x60000 < st.natA 32 + 1024) .localRange
      (fun st => BitVec.ofNat 64 (st.natA 32)) (fun _ => 0) :=
  trapsMx_room hs hi rfl rfl (blockOp_run kind acc) (ok := fun st _ => st.natA 32 % 64 = 0 ∧ 0x60000 < st.natA 32 + 1024) fun st s ⟨ha, hr⟩ => by
    rw [blockAdmitted, if_neg (not_not_intro ha), if_pos hr]

end

/-! ## The rings of `mma` and `mmas` (R247) -/

/-- The lines of one claim are absent where the ring holds fewer than those claimed before it and its own. -/
theorem not_linesPresent_one (t : Tile) (c : BitVec 3 × Nat) :
    (!t.linesPresent [c]) = decide ((t.ring c.1).count < t.claimedBefore c.1 t.nextClaim + c.2) := by
  simp [Tile.linesPresent, ← decide_not]

/-- The first ring that is not valid, found among the claims or among their names. -/
theorem find_invalid_ring (t : Tile) (cs : List (BitVec 3 × Nat)) :
    ((cs.map (·.1)).find? fun r => (t.ring r).valid == false) = (cs.find? fun c => !(t.ring c.1).valid).map (·.1) := by
  simp [List.find?_map]

/-- The ring at fault decides. -/
theorem mxRings_stop {st : Start} {t : Tile} {cs : List (BitVec 3 × Nat)} {n : BitVec 3} (hn : ringStop st t cs = some n) :
    mxRings st t cs = .error (ringFault n) := by
  rw [ringStop, find_invalid_ring] at hn
  unfold mxRings
  simp only [not_linesPresent_one]
  split
  next c hv => rw [hv] at hn; cases hn; rfl
  next hv =>
  rw [hv] at hn
  split
  next r ht => rw [ht] at hn; cases hn; rfl
  next ht =>
  rw [ht] at hn
  split
  next c hl => rw [hl] at hn; cases hn; rfl
  next hl =>
  rw [hl] at hn
  cases hf : st.locked with
  | true => rw [hf] at hn; cases hn
  | false =>
    rw [hf] at hn
    obtain ⟨c, hc, rfl⟩ := Option.map_eq_some_iff.mp hn
    rw [hc]
    rfl

/-! ## `mma` and `mmas` (R239, R247, R256) -/

/-- `mma` and `mmas` behind the check of R244: the formats, then the rings. -/
def mmaAdmitted (sp : Bool) (acc : BitVec 2) (st : Start) (i : Issue) : Except Stop Issue :=
  match mxForm sp (busBits st.b 15 0) st.fmt with
  | none => .ok (mxRefuse st (mxStatus acc true false false false false sp false) i)
  | some f =>
    match mxRings st i.st.self (f.claims sp (busBits st.b 15 0) st.a) with
    | .error e => .error e
    | .ok _ =>
      .ok (mxEnqueue st (.mma sp) acc (if busBits st.b 15 0 = 0 then 1 else busBits st.b 15 0 * f.cycles sp)
        (f.claims sp (busBits st.b 15 0) st.a) i)

theorem mma_run (sp : Bool) (acc : BitVec 2) (st : Start) (j : Issue) :
    (mxMma sp acc).run st j = mxAdmit st acc sp j (mmaAdmitted sp acc st) := rfl

section
variable {i : Instr} {h : Head} {sp : Bool} {acc : BitVec 2} (hs : specOf i = some (mxMma sp acc)) (hi : headOf i = some (h, none))
include hs hi

theorem mma_joins (f : MxForm) :
    JoinsMx i h (some .opB) acc sp
      (fun st s => mxForm sp (busBits st.b 15 0) st.fmt = some f ∧ mxRings st s.self (f.claims sp (busBits st.b 15 0) st.a) = .ok ()) (.mma sp)
      (fun st _ => if busBits st.b 15 0 = 0 then 1 else busBits st.b 15 0 * f.cycles sp) (fun st _ => f.claims sp (busBits st.b 15 0) st.a) :=
  joinsMx_of hs hi rfl rfl (mma_run sp acc) fun st s ⟨hf, hr⟩ => by simp only [mmaAdmitted, hf, hr]

/-- A pair of formats outside Table 11.1 is refused. -/
theorem mma_refuses :
    RunsMx i h (some .opB) (fun st s => mxRoom st s.pruned ∧ mxForm sp (busBits st.b 15 0) st.fmt = none)
      (fun st s => leaves (mxWordNext st (mxStatus acc true false false false false sp false) s.pruned)) :=
  refusesMx_of hs hi rfl rfl (mma_run sp acc) (ok := fun st => mxForm sp (busBits st.b 15 0) st.fmt = none) fun st s hf => by
    simp only [mmaAdmitted, hf]

theorem mma_ringFault (f : MxForm) (n : BitVec 3) :
    TrapsMx i h (some .opB) (fun st s => mxRoom st s.pruned ∧ mxForm sp (busBits st.b 15 0) st.fmt = some f
      ∧ ringStop st s.pruned.self (f.claims sp (busBits st.b 15 0) st.a) = some n) .ringFault (fun _ => 0) (fun _ => n.setWidth 64) :=
  trapsMx_room hs hi rfl rfl (mma_run sp acc)
    (ok := fun st s => mxForm sp (busBits st.b 15 0) st.fmt = some f ∧ ringStop st s.self (f.claims sp (busBits st.b 15 0) st.a) = some n)
    fun st s ⟨hf, hn⟩ => by simp only [mmaAdmitted, hf, mxRings_stop hn, LocalMemory.ringFault_eq]

end

/-! ## The triggers of `mx` (Table 5.6) -/

section
variable (h : Head) (acc : BitVec 2)

theorem specOf_mzero : specOf (.mzero h acc) = some (mxOneCycle none .mzero acc) := rfl
theorem specOf_mrd : specOf (.mrd h acc) = some (mxOneCycle (some .opA) .mrd acc) := rfl
theorem specOf_mmask : specOf (.mmask h acc) = some (mxOneCycle (some .opB) .mmask acc) := rfl
theorem specOf_mst : specOf (.mst h acc) = some (mxBlockOp .mst acc) := rfl
theorem specOf_mld : specOf (.mld h acc) = some (mxBlockOp .mld acc) := rfl
theorem specOf_mma : specOf (.mma h acc) = some (mxMma false acc) := rfl
theorem specOf_mmas : specOf (.mmas h acc) = some (mxMma true acc) := rfl

end

/-- Settles O28: each meaning is the check of R244, then checks of its own, then the end of the sequence. -/
theorem matrixTriggers : Obligations.MatrixTriggers :=
  ⟨fun h acc => ⟨oneCycle_joins (specOf_mzero h acc) rfl, oneCycle_joins (specOf_mrd h acc) rfl, oneCycle_joins (specOf_mmask h acc) rfl,
      blockOp_joins (specOf_mst h acc) rfl, blockOp_joins (specOf_mld h acc) rfl⟩,
    fun h acc f => ⟨mma_joins (specOf_mma h acc) rfl f, mma_joins (specOf_mmas h acc) rfl f⟩,
    fun h acc => ⟨mma_refuses (specOf_mma h acc) rfl, mma_refuses (specOf_mmas h acc) rfl⟩,
    fun h acc f n => ⟨mma_ringFault (specOf_mma h acc) rfl f n, mma_ringFault (specOf_mmas h acc) rfl f n⟩,
    fun h acc => ⟨blockOp_misaligned (specOf_mst h acc) rfl, blockOp_misaligned (specOf_mld h acc) rfl,
      blockOp_outOfRange (specOf_mst h acc) rfl, blockOp_outOfRange (specOf_mld h acc) rfl⟩⟩

/-! ## The entries of an accumulator (R250, R251) -/

theorem toList_getD_ofFn {α : Type} (f : Fin 256 → α) (d : α) {n : Nat} (hn : n < 256) : (Vector.ofFn f).toList.getD n d = f ⟨n, hn⟩ := by
  simp [List.getD, hn]

section
variable (a : Acc) (f : Nat → Nat → Word) {i j : Nat} (hi : i < 16) (hj : j < 16)
include hi hj

/-- Entry (i, j) stands at a place of its own. -/
theorem rowOrder_div_mod : 16 * i + j < 256 ∧ (16 * i + j) / 16 = i ∧ (16 * i + j) % 16 = j := by
  omega

/-- An entry after a write: the written one where the masks let it through. -/
theorem entry_write : (a.write f).entry i j = if a.rows.getLsbD i = true ∧ a.cols.getLsbD j = true then f i j else a.entry i j := by
  obtain ⟨hn, hrow, hcol⟩ := rowOrder_div_mod hi hj
  have hold : a.entry i j = a.e[16 * i + j] := by simp [Acc.entry, List.getD, hn]
  rw [hold, Acc.entry, Acc.write, toList_getD_ofFn _ _ hn]
  simp only [hrow, hcol, Acc.admits, Bool.and_eq_true]
  rfl

/-- A written entry has its residue. -/
theorem residue_write (hr : a.rows.getLsbD i = true) (hc : a.cols.getLsbD j = true) :
    (a.write f).res.toList.getD (16 * i + j) 0 = residue (f i j) := by
  obtain ⟨hn, hrow, hcol⟩ := rowOrder_div_mod hi hj
  rw [Acc.write, toList_getD_ofFn _ _ hn]
  simp only [hrow, hcol, Acc.admits, hr, hc, Bool.and_self, if_true]

end

/-! ## What an operation leaves (R249, R256 to R260) -/

/-- What an operation makes of its accumulator in its last cycle. -/
def accResult (o : MxOp) (a : Acc) : Acc :=
  match o.kind with
  | .mma sp =>
    match mxForm sp o.nb o.fmt with
    | none => a
    | some f => a.write fun i j => BitVec.ofNat 32 (mxEntry f sp o.nb o (a.entry i j).toNat i j)
  | .mzero => a.write fun _ _ => 0
  | .mmask => { a with rows := o.a.setWidth 16, cols := o.b.setWidth 16 }
  | .mld => a.write fun i j => BitVec.ofNat 32 (lane 32 (o.linesA.getD i 0) j)
  | .mst | .mrd => a

theorem mxWord_acc (t : Tile) (now : Nat) (st : Start) (v : Dword) : (t.mxWord now st v).acc = t.acc := by
  unfold Tile.mxWord
  split
  · rfl
  · exact onBank_acc ..

theorem popClaims_acc : ∀ (cs : List (BitVec 3 × Nat)) (t : Tile),
    (cs.foldl (fun (t : Tile) c => t.setRing c.1 ((t.ring c.1).popped c.2)) t).acc = t.acc
  | [], _ => rfl
  | _ :: cs, _ => popClaims_acc cs _

theorem setAcc_getAcc (t : Tile) (n : BitVec 2) : (t.setAcc n (t.getAcc n)).acc = t.acc := Vector.set_getElem_self _

/-- The last cycle of an operation changes its own accumulator, and of the accumulators no other. -/
theorem mxCommit_acc (t : Tile) (now : Nat) (o : MxOp) : (t.mxCommit now o).acc = (t.setAcc o.acc (accResult o (t.getAcc o.acc))).acc := by
  unfold Tile.mxCommit accResult
  dsimp only
  cases o.kind with
  | mma sp =>
    dsimp only
    cases mxForm sp o.nb o.fmt with
    | none => exact (mxWord_acc ..).trans (setAcc_getAcc ..).symm
    | some f => exact (mxWord_acc ..).trans (popClaims_acc ..)
  | mzero => exact mxWord_acc ..
  | mmask => exact mxWord_acc ..
  | mld => exact mxWord_acc ..
  | mst => exact (mxWord_acc ..).trans (setAcc_getAcc ..).symm
  | mrd => exact (setAcc_getAcc ..).symm

/-- What an operation leaves in its own accumulator. -/
theorem getAcc_mxCommit (t : Tile) (now : Nat) (o : MxOp) : (t.mxCommit now o).getAcc o.acc = accResult o (t.getAcc o.acc) := by
  unfold Tile.getAcc
  simp only [mxCommit_acc]
  exact Vector.getElem_set_self _

/-- Every other accumulator stays. -/
theorem getAcc_mxCommit_other {t : Tile} {now : Nat} {o : MxOp} {n : BitVec 2} (hn : n ≠ o.acc) : (t.mxCommit now o).getAcc n = t.getAcc n := by
  unfold Tile.getAcc
  simp only [mxCommit_acc]
  exact Vector.getElem_set_ne o.acc.isLt n.isLt fun h => hn (BitVec.eq_of_toNat_eq h.symm)

/-- Settles O29: by what the last cycle makes of the operation's own accumulator, and by the entries that a write admits. -/
theorem matrixEffects : Obligations.MatrixEffects := by
  refine ⟨fun t now o hk => ?mzero, fun t now o hk => ?mmask, fun t now o hk => ?mld, fun t now o hk => ?keeps, fun t now o sp f hk hf => ?mma,
    fun t now o n hn => getAcc_mxCommit_other hn, fun a f i j hi hj => entry_write a f hi hj, fun a f i j hi hj hr hc => residue_write a f hi hj hr hc⟩
  case keeps =>
    have hsame : accResult o (t.getAcc o.acc) = t.getAcc o.acc := by
      rcases hk with hk | hk <;> rw [accResult, hk]
    rw [mxCommit_acc, hsame, setAcc_getAcc]
  case mma => rw [getAcc_mxCommit, accResult, hk]; dsimp only; rw [hf]
  all_goals rw [getAcc_mxCommit, accResult, hk]

end Sys2Proof.Proofs.Matrix
end

section
/-! PROOF. The copy engine `dm`: what its triggers queue, and which of their checks trap (R280 to R288, R420). -/

namespace Sys2Proof.Proofs.CopyEngine

open Sys2Proof Sys2Proof.Machine Sys2Proof.Laws

/-! ## Triggers of `dm` -/

section
variable {i : Instr} {sp : Spec} {h : Head} {o : Option Opnd} {ok : Start → State → Prop}
  (hs : specOf i = some sp) (hi : headOf i = some (h, none)) (hk : sp.sock = .dm) (ho : sp.opnd = o)
include hs hi hk ho

/-- A TRIGGER OF `dm` QUEUES ITS OPERATION, where its meaning comes to that (R281). -/
theorem queuesDm_of {op : Start → State → DlOp} (hr : ∀ st s, ok st s → sp.run st { st := s } = dmQueue st { st := s } (op st s)) :
    Queues i h .dm o ok op dmTag dmEvent :=
  queues_of (Bundles.exec_of_spec hs) hi hk ho Sock.noConfusion fun st s _ hok => hr st s hok ▸ dm_queued st s (op st s)

/-- A TRIGGER OF `dm` THAT TRAPS, from the run of its meaning. -/
theorem trapsDm_of {c : Cause} {a d : Start → Dword} (hr : ∀ st s, ok st s → sp.run st { st := s } = .error (.trap c (a st) (d st))) :
    Traps i h .dm o ok c a d :=
  traps_of (Bundles.exec_of_spec hs) hi hk ho Sock.noConfusion fun st s _ _ => hr st s

end

/-! ## Copies of words (R282) -/

theorem not_unaligned {g l n : Nat} (hg : g % 4 = 0) (hl : l % 4 = 0) (hn : n % 4 = 0) : ¬(g % 4 ≠ 0 ∨ l % 4 ≠ 0 ∨ n % 4 ≠ 0) := by
  omega

section
variable {i : Instr} {h : Head} {kind : OpKind} (hs : specOf i = some (copySpec kind)) (hi : headOf i = some (h, none))
include hs hi

theorem copy_queues :
    Queues i h .dm (some .opC) (fun st _ => dmG st % 4 = 0 ∧ dmL st % 4 = 0 ∧ dmN st % 4 = 0 ∧ dmL st + dmN st ≤ 0x60000)
      (fun st s => emptyCopy s.tick { newOp st kind false 0 with tag := some (dmTagOf st.c), rest := List.range (dmN st / 4) }) dmTag dmEvent :=
  queuesDm_of hs hi rfl rfl fun _ _ ⟨hg, hl, hn, hin⟩ =>
    (if_neg (not_unaligned hg hl hn)).trans (if_neg (Nat.not_lt.mpr hin))

theorem copy_misaligned :
    Traps i h .dm (some .opC) (fun st _ => dmG st % 4 ≠ 0 ∨ dmL st % 4 ≠ 0 ∨ dmN st % 4 ≠ 0) .misaligned (fun st => BitVec.ofNat 64 (dmL st)) (fun _ => 0) :=
  trapsDm_of hs hi rfl rfl fun _ _ hbad => if_pos hbad

theorem copy_outOfRange :
    Traps i h .dm (some .opC) (fun st _ => dmG st % 4 = 0 ∧ dmL st % 4 = 0 ∧ dmN st % 4 = 0 ∧ 0x60000 < dmL st + dmN st) .localRange
      (fun st => BitVec.ofNat 64 (dmL st)) (fun _ => 0) :=
  trapsDm_of hs hi rfl rfl fun _ _ ⟨hg, hl, hn, hout⟩ =>
    (if_neg (not_unaligned hg hl hn)).trans (if_pos hout)

end

/-! ## Copies by a pattern (R283) -/

/-- The global elements of a pattern are aligned, or there are none. -/
theorem not_misaligned_iff {p : Pattern} {g : Nat} : ¬(p.count ≠ 0 ∧ (!p.aligned g) = true) ↔ p.count = 0 ∨ p.aligned g = true := by
  rw [not_and_or, not_not, Bool.not_eq_true', Bool.not_eq_false]

/-- Elements and local address of a copy by a pattern are aligned. -/
def patAligned (p : Pattern) (st : Start) : Prop := (p.count = 0 ∨ p.aligned (dmG st) = true) ∧ dmL st % min (2 ^ p.esize) 4 = 0

theorem not_patAligned_iff {p : Pattern} {st : Start} :
    ¬patAligned p st ↔ (p.count ≠ 0 ∧ (!p.aligned (dmG st)) = true) ∨ dmL st % min (2 ^ p.esize) 4 ≠ 0 := by
  rw [patAligned, not_and_or, ← not_misaligned_iff, not_not]

section
variable {i : Instr} {h : Head} {kind : OpKind} (hs : specOf i = some (patCopySpec kind)) (hi : headOf i = some (h, none))

/-- What is left of a copy by a pattern once the pattern is there: the checks of R283. -/
theorem patCopy_run {st : Start} {s : State} {p : Pattern} (hp : s.self.pattern (busBits st.c 44 40) = some p) :
    (patCopySpec kind).run st { st := s } =
      if (p.count ≠ 0 ∧ (!p.aligned (dmG st)) = true) ∨ dmL st % min (2 ^ p.esize) 4 ≠ 0 then .error (faultAt .misaligned (dmL st))
      else if 0x60000 < dmL st + p.count * 2 ^ p.esize then .error (faultAt .localRange (dmL st))
      else dmQueue st { st := s } (emptyCopy s.tick
        { newOp st kind false 0 with tag := some (dmTagOf st.c), pat := some p, rest := List.range p.count }) := by
  unfold patCopySpec
  dsimp only
  rw [hp]

include hs hi
variable (p : Pattern)

theorem patCopy_queues :
    Queues i h .dm (some .opC)
      (fun st s => s.self.pattern (busBits st.c 44 40) = some p ∧ patAligned p st ∧ dmL st + p.count * 2 ^ p.esize ≤ 0x60000)
      (fun st s => emptyCopy s.tick { newOp st kind false 0 with tag := some (dmTagOf st.c), pat := some p, rest := List.range p.count }) dmTag dmEvent :=
  queuesDm_of hs hi rfl rfl fun _ _ ⟨hp, ha, hin⟩ =>
    (patCopy_run hp).trans ((if_neg fun hbad => not_patAligned_iff.mpr hbad ha).trans (if_neg (Nat.not_lt.mpr hin)))

theorem patCopy_misaligned :
    Traps i h .dm (some .opC) (fun st s => s.self.pattern (busBits st.c 44 40) = some p ∧ ¬patAligned p st) .misaligned
      (fun st => BitVec.ofNat 64 (dmL st)) (fun _ => 0) :=
  trapsDm_of hs hi rfl rfl fun _ _ ⟨hp, ha⟩ => (patCopy_run hp).trans (if_pos (not_patAligned_iff.mp ha))

theorem patCopy_outOfRange :
    Traps i h .dm (some .opC)
      (fun st s => s.self.pattern (busBits st.c 44 40) = some p ∧ patAligned p st ∧ 0x60000 < dmL st + p.count * 2 ^ p.esize) .localRange
      (fun st => BitVec.ofNat 64 (dmL st)) (fun _ => 0) :=
  trapsDm_of hs hi rfl rfl fun _ _ ⟨hp, ha, hout⟩ =>
    (patCopy_run hp).trans ((if_neg fun hbad => not_patAligned_iff.mpr hbad ha).trans (if_pos hout))

theorem patCopy_noPattern (q : BitVec 5) :
    Traps i h .dm (some .opC) (fun st s => busBits st.c 44 40 = q.toNat ∧ s.self.pattern q.toNat = none) .ringFault (fun _ => 0)
      (fun _ => 0x8000 + q.setWidth 64 * 256) :=
  trapsDm_of hs hi rfl rfl fun st s ⟨hq, hp⟩ => by
    unfold patCopySpec
    dsimp only
    rw [hq, hp, LocalMemory.patternFault_eq]

end

/-! ## Fills (R284) -/

/-- The operation of a `fill`. -/
def fillOp (m : MMod) (p : Pattern) (st : Start) : DlOp :=
  { newOp st (.fill m) false 0 with tag := some (BitVec.ofNat 6 (busBits st.b 13 8)), pat := some p }

/-- The ring of a `fill` is `n`, and valid. -/
def namesRing (n : BitVec 3) (st : Start) (s : State) : Prop := BitVec.ofNat 3 (busBits st.b 18 16) = n ∧ (s.self.ring n).valid = true

section
variable {m : MMod} {n : BitVec 3} {st : Start} {s : State}

theorem fill_ringInvalid (hn : BitVec.ofNat 3 (busBits st.b 18 16) = n) (hv : (s.self.ring n).valid = false) :
    (specFill m).run st { st := s } = .error (ringFault n) := by
  subst hn
  exact LocalMemory.ring_invalid hv

theorem fill_noPattern (hn : namesRing n st s) (hp : s.self.pattern (busBits st.b 4 0) = none) :
    (specFill m).run st { st := s } = .error (patternFault (busBits st.b 4 0)) := by
  obtain ⟨rfl, hv⟩ := hn
  refine (LocalMemory.ring_valid hv).trans ?_
  dsimp only
  rw [hp]

/-- What is left of a `fill` once its ring and its pattern are there. -/
theorem fill_run {p : Pattern} (hn : namesRing n st s) (hp : s.self.pattern (busBits st.b 4 0) = some p) :
    (specFill m).run st { st := s } =
      if p.count ≠ 0 ∧ (!p.aligned (dmG st)) = true then .error (faultAt .misaligned (dmG st))
      else dmQueue st { st := s } (if p.count = 0 ∧ (s.self.ring n).filler.isNone then emptyCopy s.tick (fillOp m p st) else fillOp m p st) := by
  obtain ⟨rfl, hv⟩ := hn
  refine (LocalMemory.ring_valid hv).trans ?_
  dsimp only
  rw [hp, apply_ite (dmQueue st { st := s })]
  rfl

end

/-! ## Scalar accesses and atomics (R280, R285, R286) -/

theorem scalar_access {i : Instr} {h : Head} {o : Opnd} {kind : OpKind} {wx : Bool} {sizes : List Nat}
    (hs : specOf i = some (scalarSpec kind o wx sizes)) (hi : headOf i = some (h, none)) : ScalarAccess i h o kind wx sizes := by
  have hbad (n g : Nat) : ((!sizes.contains n) = true ∨ g % n ≠ 0) ↔ (n ∉ sizes ∨ g % n ≠ 0) := by
    rw [Bool.not_eq_true', Bool.eq_false_iff, ne_eq, List.contains_iff_mem]
  refine ⟨queuesDm_of hs hi rfl rfl fun _ _ ⟨hn, hg⟩ => if_neg fun hx => ?_, trapsDm_of hs hi rfl rfl fun _ _ hx => if_pos ((hbad _ _).mpr hx)⟩
  exact ((hbad _ _).mp hx).elim (· hn) (· hg)

/-- Settles O37: each trigger by the checks of its descriptor in their order, and by the operation that it queues when they pass. -/
theorem copyTriggers : Obligations.CopyTriggers := by
  refine ⟨fun h m k => ?copies, fun h m k p => ?patterns, fun h m p n => ⟨?fills, fun q => ?noPattern, ?misaligned, ?ringInvalid⟩,
    fun h m => ⟨scalar_access rfl rfl, scalar_access rfl rfl, scalar_access rfl rfl, scalar_access rfl rfl, scalar_access rfl rfl,
      scalar_access rfl rfl, scalar_access rfl rfl, scalar_access rfl rfl, scalar_access rfl rfl, scalar_access rfl rfl, ?fence⟩⟩
  case copies =>
    cases k <;> exact ⟨copy_queues rfl rfl, copy_misaligned rfl rfl, copy_outOfRange rfl rfl⟩
  case patterns =>
    cases k <;> exact ⟨patCopy_queues rfl rfl p, patCopy_misaligned rfl rfl p, patCopy_outOfRange rfl rfl p, patCopy_noPattern rfl rfl⟩
  case fills =>
    exact queuesDm_of (sp := specFill m) rfl rfl rfl rfl fun st s ⟨⟨hn, hv, hp⟩, ha⟩ => (fill_run ⟨hn, hv⟩ hp).trans (if_neg (not_misaligned_iff.mpr ha))
  case noPattern =>
    exact trapsDm_of (sp := specFill m) rfl rfl rfl rfl fun st s ⟨hn, hv, hq, hp⟩ =>
      (fill_noPattern ⟨hn, hv⟩ (hq ▸ hp)).trans (by rw [hq, LocalMemory.patternFault_eq])
  case misaligned =>
    exact trapsDm_of (sp := specFill m) rfl rfl rfl rfl fun st s ⟨⟨hn, hv, hp⟩, hc, ha⟩ =>
      (fill_run ⟨hn, hv⟩ hp).trans (if_pos ⟨hc, congrArg Bool.not ha⟩)
  case ringInvalid =>
    exact trapsDm_of (sp := specFill m) rfl rfl rfl rfl fun st s ⟨hn, hv⟩ => (fill_ringInvalid hn hv).trans (by rw [LocalMemory.ringFault_eq])
  case fence => exact queuesDm_of (sp := specMfence m) rfl rfl rfl rfl fun _ _ _ => rfl

end Sys2Proof.Proofs.CopyEngine
end

section
/-! PROOF. Packets of peer modules: their acknowledgement, and the interrupt of a corrected link error beside it (R313, R439, R440). -/

namespace Sys2Proof.Proofs.PeerPackets

open Sys2Proof Sys2Proof.Machine Sys2Proof.Laws

section
variable {s : State}

/-- A replay leaves the event that is served and the packets that have been received. -/
theorem replayed_one_keeps (k : Nat) : (s.replayed k 1).ev = s.ev ∧ (s.replayed k 1).eutas.seen = s.eutas.seen := by
  obtain ⟨m, e, o, hr⟩ := Health.corrected_one_eq s 8 k
  exact ⟨by rw [State.replayed, hr], rfl⟩

/-- A replay is a corrected error: it is recorded, and where the error queue has room and its interrupt is enabled, MSI-X vector 1 leaves (R440). -/
theorem replayed_one_outbox (k : Nat) (hroom : s.err.head - s.err.tail < 4096) (hint : s.err.cfg.getLsbD 63 = true) :
    (s.replayed k 1).outbox = s.outbox ++ [.msix 1] := by
  have hrec : (s.record 1 .none 8 k 0 0xFFFFFFFFFFFFFFFF).outbox = s.outbox ++ [.msix 1] := by
    unfold State.record
    rw [if_neg (Nat.not_le.mpr hroom)]
    exact if_pos hint
  exact hrec

/-- A packet that has been received before, on a link that has replayed a frame, is acknowledged; what the replay has sent stands before that (R313). -/
theorem exec_duplicate (hb : s.ev.body ≠ .ack) (hseen : (s.ev.src, s.ev.seq) ∈ s.eutas.seen) (hone : s.ev.words = 1) :
    exec .eutasPacketReceive s = .next
      { s.replayed s.ev.channel 1 with outbox := (s.replayed s.ev.channel 1).outbox ++ [.eutasAck s.ev.src s.ev.seq] } := by
  obtain ⟨hev, hold⟩ := replayed_one_keeps (s := s) s.ev.channel
  have hbody : (s.replayed s.ev.channel 1).ev.body ≠ .ack := by rw [hev]; exact hb
  have hknown : (s.replayed s.ev.channel 1).eutas.seen.contains (s.ev.src, s.ev.seq) = true := by
    rw [hold]
    exact List.contains_iff_mem.mpr hseen
  show execEutasPacketReceive s = _
  unfold execEutasPacketReceive
  rw [hone]
  exact (if_neg hbody).trans (if_pos hknown)

end

/-- A peer's packet 0 comes again, on a link that has replayed one frame, while the interrupt of the error queue is enabled. -/
def duplicateAfterReplay : State :=
  { State.reset with
    err := { cfg := 0x8000000000000000 }
    eutas := { seen := [(0, 0)] }
    ev := { src := 0, seq := 0, words := 1, body := .refused 0 0 } }

/-- Refutes O57: a replayed frame is a corrected error, whose record sends MSI-X vector 1 where the error queue has room and its interrupt is enabled (R439, R440).
The statement has a duplicate packet leave its acknowledgement as the only new message. -/
theorem not_unitEvents : ¬ Obligations.UnitEvents := by
  rintro ⟨-, -, -, -, -, -, -, hpacket, -⟩
  obtain ⟨-, hduplicate, -⟩ := hpacket duplicateAfterReplay
  have hclaim := hduplicate (by decide) (by decide)
  rw [exec_duplicate (by decide) (by decide) rfl, replayed_one_outbox _ (by decide) (by decide)] at hclaim
  injection hclaim with hstate
  have hsent : ([.msix 1, .eutasAck 0 0] : List HostMsg) = [.eutasAck 0 0] := congrArg State.outbox hstate
  exact absurd hsent (by decide)

end Sys2Proof.Proofs.PeerPackets
end

section
/-! PROOF. The exchange: windows and their beats, routed packets, values at the kilns, bells and their release (R299 to R347). -/

namespace Sys2Proof.Proofs.Exchange

open Sys2Proof Sys2Proof.Machine Sys2Proof.Laws

/-! ## The period boundary (R347) -/

/-- A change that keeps addresses and leaves cleared tiles alone reaches the tile at every address. -/
theorem findTile_map {f : Tile → Tile} (haddr : ∀ t, (f t).addr = t.addr) {a : Nat} (hclear : f { addr := a } = { addr := a }) (l : List Tile) :
    findTile a (l.map f) = f (findTile a l) := by
  induction l with
  | nil => exact hclear.symm
  | cons t r ih =>
    simp only [List.map_cons, findTile, haddr, ih]
    split <;> rfl

/-- A tile that halts at its period boundary. -/
def atBoundary (t : Tile) : Tile := { t with preReq := true, prePeriod := false }

/-- A tile of the launch that rings no bell halts with the one that does. -/
def haltsWith (l : Option Dword) (u : Tile) : Tile :=
  if u.launch = l && u.prePeriod && u.haltedAll then atBoundary u else u

theorem haltsWith_addr (l : Option Dword) (u : Tile) : (haltsWith l u).addr = u.addr := by
  unfold haltsWith
  split <;> rfl

theorem haltsWith_of_not_prePeriod {l : Option Dword} {u : Tile} (h : u.prePeriod = false) : haltsWith l u = u :=
  if_neg (by simp [h])

section
variable {s : State} {a : Nat} {o : DlOp}

theorem tileAt_onTile_boundary : (s.onTile a atBoundary).tileAt a = atBoundary (s.tileAt a) :=
  TileEvents.tileAt_onTile_same (tileAt_addr s a)

theorem periodEnd_of_not_prePeriod (h : (s.tileAt a).prePeriod = false) : s.periodEnd a o = s :=
  if_neg (by simp [h])

theorem periodEnd_of_low {lev : BitVec 3} (hl : o.bellLevel = some lev) (hlev : lev.toNat < 3) : s.periodEnd a o = s := by
  unfold State.periodEnd
  rw [hl]
  exact if_neg (by simp [hlev])

theorem periodEnd_of_unasked {u : Tile} (hu : u ∈ s.tiles) (hl : u.launch = (s.tileAt a).launch) (hp : u.prePeriod = false)
    (hr : u.preReq = false) : s.periodEnd a o = s := by
  refine if_neg fun h => ?_
  have hall := List.all_eq_true.mp (Bool.and_eq_true_iff.mp h).2 u hu
  simp [hl, hp, hr] at hall

/-- A shared bell of a launch whose request has reached every tile. -/
theorem periodEnd_shared {lev : BitVec 3} (hl : o.bellLevel = some lev) (hlev : 3 ≤ lev.toNat) (hp : (s.tileAt a).prePeriod = true)
    (hall : ∀ u ∈ s.tiles, u.launch = (s.tileAt a).launch → u.prePeriod = true ∨ u.preReq = true) :
    s.periodEnd a o = { s.onTile a atBoundary with tiles := (s.onTile a atBoundary).tiles.map (haltsWith (s.tileAt a).launch) } := by
  have hasked : (s.tiles.all fun u => u.launch != (s.tileAt a).launch || u.prePeriod || u.preReq) = true := by
    refine List.all_eq_true.mpr fun u hu => ?_
    by_cases hul : u.launch = (s.tileAt a).launch
    · simpa [hul] using hall u hu hul
    · simp [hul]
  unfold State.periodEnd
  rw [hl]
  exact if_pos (by simp [hlev, hp, hasked])

theorem tileAt_periodEnd_shared {lev : BitVec 3} (hl : o.bellLevel = some lev) (hlev : 3 ≤ lev.toNat) (hp : (s.tileAt a).prePeriod = true)
    (hall : ∀ u ∈ s.tiles, u.launch = (s.tileAt a).launch → u.prePeriod = true ∨ u.preReq = true) (b : Nat) :
    (s.periodEnd a o).tileAt b = haltsWith (s.tileAt a).launch ((s.onTile a atBoundary).tileAt b) := by
  rw [periodEnd_shared hl hlev hp hall]
  exact findTile_map (haltsWith_addr _) (haltsWith_of_not_prePeriod rfl) _

theorem periodEnd_tick : (s.periodEnd a o).tick = s.tick := (apply_ite State.tick _ _ _).trans (ite_self _)

end

/-! ## A window starts (R299, R345) -/

theorem tileAt_kilnHinder (s : State) (f : KPart → Bool) (a : Nat) : (s.kilnHinder f).tileAt a = s.tileAt a := rfl

section
variable {s : State} {o : DlOp}
  (ho : ((s.tileAt s.ev.tile).queue.find? fun o => o.bellLevel.isSome && o.st == .waiting && decide (o.val ≤ s.tick)) = some o)
include ho

theorem exec_windowStart_armed {lev : BitVec 3} {n : Nat} {tt : Timetable} (hk : o.kind = .bell lev) (hn : (s.tileAt s.ev.tile).armed = some n)
    (htt : ((s.tileAt s.ev.tile).timetables.find? fun x => x.num = n) = some tt) :
    exec .windowStart s = .next ((s.onTile s.ev.tile fun t =>
      { t.putOp { o with st := .active } with window := some { w := s.tick, len := tt.window, tt := tt.num } }).kilnHinder (s.windowOn s.ev.tile)) := by
  show execWindowStart s = _
  unfold execWindowStart
  simp only [ho, hk, hn, htt]

theorem exec_windowStart_alone (h : (∀ lev, o.kind ≠ .bell lev) ∨ (s.tileAt s.ev.tile).armed = none) :
    exec .windowStart s = .next (State.periodEnd (s.putOp s.ev.tile
      { o with st := .performed, due := s.tick, res := some { s := syStatus o false false false true } }) s.ev.tile o) := by
  show execWindowStart s = _
  unfold execWindowStart
  simp only [ho]
  split
  · next htt =>
    split at htt
    · next lev n hk hn => exact (h.elim (fun h => h lev hk) fun h => nomatch h.symm.trans hn).elim
    · exact nomatch htt
  · rfl

end

/-! ## A window ends (R299, R301, R302) -/

/-- From one state to the other neither the tick nor the event that is served has changed. -/
def SameMoment (s t : State) : Prop := t.tick = s.tick ∧ t.ev = s.ev

theorem SameMoment.rfl {s : State} : SameMoment s s := ⟨.refl _, .refl _⟩

theorem SameMoment.trans {s t u : State} (h : SameMoment s t) (k : SameMoment t u) : SameMoment s u :=
  ⟨k.1.trans h.1, k.2.trans h.2⟩

theorem SameMoment.foldl {α : Type} {f : State → α → State} (h : ∀ s x, SameMoment s (f s x)) (l : List α) (s : State) :
    SameMoment s (l.foldl f s) :=
  List.foldlRecOn (motive := SameMoment s) l f .rfl fun t ht x _ => ht.trans (h t x)

theorem SameMoment.ite {p : Prop} [Decidable p] {s t u : State} (ht : SameMoment s t) (hu : SameMoment s u) : SameMoment s (if p then t else u) := by
  split
  · exact ht
  · exact hu

theorem sameMoment_onTile (s : State) (a : Nat) (f : Tile → Tile) : SameMoment s (s.onTile a f) := .rfl

theorem sameMoment_countErr (s : State) (a : Nat) (f : QuadErr → QuadErr) : SameMoment s (s.countErr a f) := .rfl

theorem sameMoment_record (s : State) (cls : Nat) (c : Cause) (unit who addr : Nat) (l : Dword) :
    SameMoment s (s.record cls c unit who addr l) := by
  obtain ⟨m, e, o, h⟩ := Health.record_eq s cls c unit who addr l
  rw [h]
  exact .rfl

theorem sameMoment_corrected (s : State) (n unit who : Nat) : SameMoment s (s.corrected n unit who) :=
  .foldl (fun _ _ => sameMoment_record ..) _ s

theorem sameMoment_countExch (s : State) (a : Nat) : SameMoment s (s.countExch a) :=
  .trans (sameMoment_countErr { s with eutas := { s.eutas with xfaults := min (s.eutas.xfaults + 1) (2 ^ 32 - 1) } } a _) (sameMoment_record ..)

theorem sameMoment_exchTick (x : Exch) (ms : List (Nat × Timetable)) (τ : Nat) : SameMoment x.st (x.tick ms τ).st :=
  List.foldlRecOn (motive := fun y : Exch => SameMoment x.st y.st) _ _ .rfl fun _ hy _ _ => hy

theorem sameMoment_exchRun (ms : List (Nat × Timetable)) (n τ : Nat) (x : Exch) : SameMoment x.st (Exch.run ms n τ x).st := by
  induction n generalizing τ x with
  | zero => exact .rfl
  | succ n ih => exact (sameMoment_exchTick x ms τ).trans (ih (τ + 1) (x.tick ms τ))

theorem sameMoment_exchange (s : State) (w die : Nat) : SameMoment s (s.exchange w die) := by
  refine .trans (sameMoment_exchRun _ _ 0 { st := s }) (.trans (.foldl (fun u m => ?_) ..) (.foldl sameMoment_countExch ..))
  exact .trans (.ite .rfl (.trans (sameMoment_countErr ..) (sameMoment_corrected ..))) (sameMoment_onTile ..)

/-- The bell of a window completes, and the tile is at a period boundary (R299, R347). -/
def bellDone (s : State) (a : Nat) (o : DlOp) : State :=
  State.periodEnd (s.onTile a fun t =>
    { t.putOp { o with st := .performed, due := s.tick, res := some { s := syStatus o false false false true } } with window := none }) a o

theorem bellDone_tick (s : State) (a : Nat) (o : DlOp) : (bellDone s a o).tick = s.tick := periodEnd_tick

/-- What the strand takes for a window that ends: its exchange fault, or an uncorrectable beat in its place (R301). -/
def windowCause (s : State) (a : Nat) (x : Window) (o : DlOp) : State :=
  let s := match x.fault with
    | none => s
    | some τ =>
      let s := s.countExch a
      if x.bad then s else s.lateCause a (o.pending .exchangeFault 0 (τ % 65536 + x.tt * 65536) s.tick)
  if x.bad then s.lateCause a (o.pending .dataUncorrectable 0 6 s.tick) else s

/-- The end of a window once its exchange has been performed. -/
def closeWindow (s : State) (a : Nat) (x : Window) : State :=
  match (s.tileAt a).queue.find? fun o => o.bellLevel.isSome && o.st == .active with
  | none => s.onTile a fun t => { t with window := none }
  | some o => windowCause (bellDone s a o) a x o

theorem closeWindow_of_no_bell {s : State} {a : Nat} {x : Window}
    (h : ((s.tileAt a).queue.find? fun o => o.bellLevel.isSome && o.st == .active) = none) :
    closeWindow s a x = s.onTile a fun t => { t with window := none } := by
  unfold closeWindow
  rw [h]

theorem closeWindow_of_bell {s : State} {a : Nat} {x : Window} {o : DlOp}
    (h : ((s.tileAt a).queue.find? fun o => o.bellLevel.isSome && o.st == .active) = some o) :
    closeWindow s a x = windowCause (bellDone s a o) a x o := by
  unfold closeWindow
  rw [h]

section
variable {s : State} {x : Window} (hx : (s.tileAt s.ev.tile).window = some x)
include hx

theorem exec_windowEnd_early (h : s.tick < x.w + x.len) : exec .windowEnd s = .next s := by
  show execWindowEnd s = _
  unfold execWindowEnd
  simp only [hx, if_pos h]

/-- A window that ends, with its exchange performed if none of its die has been (R302). -/
theorem exec_windowEnd_late {u : State} (h : x.w + x.len ≤ s.tick) (hu : (if x.ran then s else s.exchange x.w (dieOf s.ev.tile)) = u) :
    exec .windowEnd s = .next (closeWindow u s.ev.tile ((u.tileAt s.ev.tile).window.getD x)) := by
  show execWindowEnd s = _
  unfold execWindowEnd
  simp only [hx, if_neg (Nat.not_lt.mpr h), hu]
  split
  · next hb => rw [closeWindow_of_no_bell hb]
  · next hb =>
    rw [closeWindow_of_bell hb]
    rfl

theorem exec_windowEnd_ran (h : x.w + x.len ≤ s.tick) (hran : x.ran = true) : exec .windowEnd s = .next (closeWindow s s.ev.tile x) := by
  rw [exec_windowEnd_late hx h (if_pos hran), hx]
  rfl

/-- The first end among the windows of a die performs their exchange, and the window ends as one whose exchange has run (R302). -/
theorem exec_windowEnd_exchange {y : Window} (h : x.w + x.len ≤ s.tick) (hran : x.ran = false)
    (hy : ((s.exchange x.w (dieOf s.ev.tile)).tileAt s.ev.tile).window = some y) (hyran : y.ran = true) (hw : y.w = x.w) (hlen : y.len = x.len) :
    exec .windowEnd s = exec .windowEnd (s.exchange x.w (dieOf s.ev.tile)) := by
  obtain ⟨htick, hev⟩ := sameMoment_exchange s x.w (dieOf s.ev.tile)
  rw [exec_windowEnd_late hx h (if_neg (by simp [hran])), hy, exec_windowEnd_ran (by rw [hev]; exact hy) (by rw [htick, hw, hlen]; exact h) hyran, hev]
  rfl

end

section
variable {s : State} {a : Nat} {x : Window} {o : DlOp}

theorem windowCause_none (hf : x.fault = none) (hb : x.bad = false) : windowCause s a x o = s := by
  simp [windowCause, hf, hb]

theorem windowCause_fault {τ : Nat} (hf : x.fault = some τ) (hb : x.bad = false) :
    windowCause s a x o = (s.countExch a).lateCause a (o.pending .exchangeFault 0 (τ % 65536 + x.tt * 65536) s.tick) := by
  simp [windowCause, hf, hb, (sameMoment_countExch s a).1]

theorem windowCause_bad (hf : x.fault = none) (hb : x.bad = true) :
    windowCause s a x o = s.lateCause a (o.pending .dataUncorrectable 0 6 s.tick) := by
  simp [windowCause, hf, hb]

theorem windowCause_fault_bad {τ : Nat} (hf : x.fault = some τ) (hb : x.bad = true) :
    windowCause s a x o = (s.countExch a).lateCause a (o.pending .dataUncorrectable 0 6 s.tick) := by
  simp [windowCause, hf, hb, (sameMoment_countExch s a).1]

end

/-! ## Beats (R297, R300, R301) -/

/-- Beat `j` of a send leaves the tile (R297, R300). -/
def sendBeat (t : Tile) (e : Send) (j : Nat) : Beat :=
  let ps := (List.range (min 64 (e.len - 64 * j))).map (e.addr + 64 * j + ·)
  { at_ := e.off + j + 6 + 2 * sendHops e, dst := sendDst t.addr e, first := j == 0, last := j + 1 == (e.len + 63) / 64
    data := (ps.map (cellsRead t.sram)).zip (beatGood t.bad ps) }

theorem sendBeat_mem_egressAt {t : Tile} {tt : Timetable} {e : Send} {j : Nat} (he : e ∈ tt.sends) (hj : j < (e.len + 63) / 64) :
    sendBeat t e j ∈ t.egressAt tt (e.off + j) := by
  refine List.mem_filterMap.mpr ⟨e, he, ?_⟩
  dsimp only
  rw [if_pos ⟨Nat.le_add_right .., Nat.add_lt_add_left hj _⟩, Nat.add_sub_cancel_left]
  rfl

theorem sendBeat_bytes (t : Tile) (e : Send) (j : Nat) :
    (sendBeat t e j).data.map (·.1) = (List.range (min 64 (e.len - 64 * j))).map fun k => cellsRead t.sram (e.addr + 64 * j + k) := by
  refine (List.map_fst_zip (by simp [beatGood])).trans ?_
  rw [List.map_map]
  rfl

/-- A beat that meets no upset reaches its ingress as it left. -/
theorem meetUpsets_nil (b : Beat) (g : Ingress) : meetUpsets [] b g = (b, g) := by
  have hdata : (b.data.zipIdx.map fun x => x.1) = b.data := List.zipIdx_map_fst ..
  simp [meetUpsets, hdata]

/-- The good bytes of a beat are written from an address on (R301). -/
def writeBeat (b : Beat) (t : Tile) (d : Nat) : Tile :=
  t.engineWrite ((b.data.zipIdx.filter fun x => x.1.2).map fun x => (d + x.2, x.1.1))

/-- A beat is written at an address, and the open transfer goes on behind it (R300). -/
def takeBeat (b : Beat) (g : Ingress) (t : Tile) (d : Nat) : Ingress × Tile :=
  ({ g with next := if b.last then none else some (d + 64), bad := g.bad || b.data.any fun x => !x.2 }, writeBeat b t d)

section
variable {tt : Timetable} {τ : Nat} {b : Beat} {g : Ingress} {t : Tile}

theorem faultAt_fault (g : Ingress) (τ : Nat) : (g.faultAt τ).fault = some (min (g.fault.getD τ) τ) := by
  unfold Ingress.faultAt
  cases g.fault <;> simp

variable (hu : t.beatUpset = [])
include hu

/-- A beat without an upset: where the transfer that it opens or goes on with is expected, it is taken, else it is a fault (R301). -/
theorem ingressBeat_eq : ingressBeat tt τ b g t =
    if b.first then
      match tt.arrives.find? fun e => e.off = τ + 2 with
      | some e => takeBeat b g t e.addr
      | none => ({ g with next := none }.faultAt τ, t)
    else
      match g.next with
      | some d => takeBeat b g t d
      | none => (g.faultAt τ, t) := by
  unfold ingressBeat
  rw [hu, List.filter_nil, meetUpsets_nil]
  rfl

theorem ingressBeat_first {e : Arrive} (hb : b.first = true) (he : (tt.arrives.find? fun e => e.off = τ + 2) = some e) :
    ingressBeat tt τ b g t = takeBeat b g t e.addr := by
  rw [ingressBeat_eq hu, if_pos hb, he]

theorem ingressBeat_unexpected (hb : b.first = true) (he : ∀ e ∈ tt.arrives, e.off ≠ τ + 2) :
    ingressBeat tt τ b g t = ({ g with next := none }.faultAt τ, t) := by
  have hnone : (tt.arrives.find? fun e => e.off = τ + 2) = none := List.find?_eq_none.mpr fun e h => by simpa using he e h
  rw [ingressBeat_eq hu, if_pos hb, hnone]

theorem ingressBeat_later {d : Nat} (hb : b.first = false) (hd : g.next = some d) : ingressBeat tt τ b g t = takeBeat b g t d := by
  rw [ingressBeat_eq hu, hb, hd]
  rfl

theorem ingressBeat_stray (hb : b.first = false) (hd : g.next = none) : ingressBeat tt τ b g t = (g.faultAt τ, t) := by
  rw [ingressBeat_eq hu, hb, hd]
  rfl

/-- A beat is taken, or leaves the tile as it is. -/
theorem ingressBeat_takes_or_keeps : (∃ d, ingressBeat tt τ b g t = takeBeat b g t d) ∨ (ingressBeat tt τ b g t).2 = t := by
  rw [ingressBeat_eq hu]
  split
  · split
    · exact .inl ⟨_, rfl⟩
    · exact .inr rfl
  · split
    · exact .inl ⟨_, rfl⟩
    · exact .inr rfl

theorem ingressBeat_spoils (h : (ingressBeat tt τ b g t).2 ≠ t) : (ingressBeat tt τ b g t).1.bad = (g.bad || b.data.any fun x => !x.2) := by
  obtain ⟨d, hd⟩ := (ingressBeat_takes_or_keeps hu).resolve_right h
  rw [hd]
  rfl

end

/-! ## Routed packets (R303 to R306, R313, R320) -/

theorem exec_packetArrival {s : State} {p : Packet} (hp : (s.packets.find? fun p => p.id = s.ev.packet) = some p) :
    exec .packetArrival s = .next (s.asPrev p.dst p.launch (State.packetLands p)) := by
  show execPacketArrival s = _
  unfold execPacketArrival
  rw [hp]

theorem packetLands_absent {s : State} {p : Packet} {h : Nat} (hh : s.absentHint p.launch (s.tileAt p.dst) = some h) :
    State.packetLands p s = s.packetRefused p h := by
  simp only [State.packetLands, hh]

theorem packetDone_tiles (s : State) (p : Packet) : (s.packetDone p).tiles = s.tiles := by
  unfold State.packetDone
  dsimp only
  split <;> rfl

theorem packetDone_cnt (s : State) (p : Packet) : (s.packetDone p).cnt = s.cnt := by
  unfold State.packetDone
  dsimp only
  split <;> rfl

theorem packetDone_packets (s : State) (p : Packet) : (s.packetDone p).packets = s.packets.filter fun q => q.id ≠ p.id := by
  unfold State.packetDone
  dsimp only
  split <;> rfl

/-- A sum that meets neither single-bit errors nor uncorrectable words leaves no trace (R216). -/
theorem zoneRead_of_sound {s : State} {a n : Nat} {read : List Nat} (hsoft : (s.tileAt a).soft = []) (hbad : (s.tileAt a).badWords read = false) :
    s.zoneRead a n read = s := by
  have hc : s.correct a read = s := if_pos (by simp [hsoft])
  unfold State.zoneRead
  rw [hc]
  exact if_neg (by simp [hbad])

section
variable {s : State} {p : Packet} (hh : s.absentHint p.launch (s.tileAt p.dst) = none) (hl : (s.tileAt p.dst).launch = some p.launch)
  (hf : (s.tileAt p.dst).frozen = false) (ho : ((s.tileAt p.dst).zone p.zone).isOpen = true)
include hh hl hf ho

theorem packetLands_accepted {u : Tile} {read : List Nat}
    (hland : (s.tileAt p.dst).landPacket p.zone p.level p.rank p.off p.data = .accepted u read)
    (hsoft : (s.tileAt p.dst).soft = []) (hbad : (s.tileAt p.dst).badWords read = false) :
    State.packetLands p s =
      State.packetDone { s.setTile u with cnt := { s.cnt with xbytes := s.cnt.xbytes + BitVec.ofNat 64 p.data.length } } p := by
  unfold State.packetLands
  simp [hh, hl, hf, ho, hland, zoneRead_of_sound hsoft hbad]

theorem packetLands_refused {h : Nat} (hland : (s.tileAt p.dst).landPacket p.zone p.level p.rank p.off p.data = .refused h) :
    State.packetLands p s = s.packetRefused p h := by
  unfold State.packetLands
  simp [hh, hl, hf, ho, hland]

end

section
variable {s : State}

theorem exec_packetRetry_held {o : DlOp} (hy : s.ev.yes = true) (ho : s.op? s.ev.tile s.ev.op = some o) (hp : (s.tileAt s.ev.tile).preHalted = true) :
    exec .packetRetry s = .next (s.sched 1 none .packetRetry s.ev) := by
  show execPacketRetry s = _
  simp [execPacketRetry, hy, ho, hp]

theorem exec_packetRetry_push {o : DlOp} {pat : Bool} (hy : s.ev.yes = true) (ho : s.op? s.ev.tile s.ev.op = some o)
    (hp : (s.tileAt s.ev.tile).preHalted = false) (hold : o.old = none) (hk : o.kind = .push pat) (hst : o.st = .queued ∨ o.st = .active) :
    exec .packetRetry s = .next (s.pushStep s.ev.tile o) := by
  show execPacketRetry s = _
  rcases hst with hst | hst <;> simp [execPacketRetry, State.asOwner, hy, ho, hp, hold, hk, hst]

theorem exec_packetRetry_msg {o : DlOp} (hy : s.ev.yes = true) (ho : s.op? s.ev.tile s.ev.op = some o)
    (hp : (s.tileAt s.ev.tile).preHalted = false) (hold : o.old = none) (hk : o.kind = .msg ∨ o.kind = .mig) (hst : o.st = .queued) :
    exec .packetRetry s = .next (s.msgStep s.ev.tile o) := by
  show execPacketRetry s = _
  rcases hk with hk | hk <;> simp [execPacketRetry, State.asOwner, hy, ho, hp, hold, hk, hst]

variable {p : Packet} (hy : s.ev.yes = false) (hoff : s.ev.off ≠ 1) (hp : (s.packets.find? fun p => p.id = s.ev.packet) = some p)
  (hb : s.heldBack p.launch p.src = false)
include hy hoff hp hb

theorem exec_packetRetry_away {m : Nat} (ha : p.away = some m) (hup : s.peerUp m = true) : exec .packetRetry s = .next (s.awaySend p m) := by
  show execPacketRetry s = _
  simp [execPacketRetry, hy, hoff, hp, hb, ha, hup]

theorem exec_packetRetry_here (ha : p.away = none) : exec .packetRetry s = .next (s.sched 1 none
    (if p.ctx then .contextArrival else if p.task.isSome then .messageAccept else .packetArrival) { packet := p.id, tile := p.dst }) := by
  show execPacketRetry s = _
  simp [execPacketRetry, hy, hoff, hp, hb, ha]

end

/-! ## Values at a kiln (R324 to R327, R332) -/

/-- The value at the kiln whose parent is that of an arriving one. -/
def siblingOf (s : State) (k : KPart) : Option KPart := s.kiln.find? fun x => x.sameKey k && x.depth == k.depth && x.idx / 2 == k.idx / 2

/-- A value and its sibling, combined in the order of their places in the tree. -/
def combined (x k : KPart) : KPart :=
  { k with depth := k.depth + 1, idx := k.idx / 2, val := if x.idx < k.idx then combine k.par x.val k.val else combine k.par k.val x.val, src := none }

/-- The values on their way without an arriving one. -/
def airWithout (s : State) (k : KPart) : List KPart := s.kilnAir.filter fun x => x.child ≠ k.child

/-- An arriving value is held. -/
def heldAt (s : State) (k : KPart) : State := { s with kilnAir := airWithout s k, kiln := s.kiln ++ [k] }

theorem kilnSoft_of_sound {s : State} {k : KPart} (h : k.soft = false) : s.kilnSoft k = s := if_pos (by simp [h])

theorem clearSoft_of_sound {k : KPart} (h : k.soft = false) : { k with soft := false } = k := by rw [← h]

section
variable {s : State} {k : KPart} (hk : (s.kilnAir.find? fun k => k.child = s.ev.child) = some k) (hsoft : k.soft = false)
include hk hsoft

theorem exec_kilnChildArrival_sibling {x : KPart} (hx : siblingOf s k = some x) : exec .kilnChildArrival s =
    if x.par ≠ k.par then .next (s.abort k .exchangeFault 0 none)
    else if x.bad || k.bad then .next ((s.kilnBad k).abort k .dataUncorrectable 9 none)
    else .next (State.kilnGo { s with kiln := s.kiln.filter fun y => y.child ≠ x.child, kilnAir := airWithout s k } (combined x k)) := by
  unfold siblingOf at hx
  show execKilnChildArrival s = _
  unfold execKilnChildArrival
  simp only [hk, kilnSoft_of_sound hsoft, clearSoft_of_sound hsoft, hx, combined, hsoft]
  rfl

theorem exec_kilnChildArrival_alone (hx : siblingOf s k = none) : exec .kilnChildArrival s =
    if (if (s.kilnOf k).1 then 0x40000 else 0x8000) < s.kilnBytes (s.kilnOf k) + k.par.resultBytes then .next (s.childRefused k)
    else .next (if (heldAt s k).kilnStuck k then (heldAt s k).abort k .exchangeFault 0 none else heldAt s k) := by
  unfold siblingOf at hx
  show execKilnChildArrival s = _
  unfold execKilnChildArrival
  simp only [hk, kilnSoft_of_sound hsoft, clearSoft_of_sound hsoft, hx]
  rfl

theorem exec_kilnChildArrival_differs {x : KPart} (hx : siblingOf s k = some x) (hpar : x.par ≠ k.par) :
    exec .kilnChildArrival s = .next (s.abort k .exchangeFault 0 none) := by
  rw [exec_kilnChildArrival_sibling hk hsoft hx]
  exact if_pos hpar

theorem exec_kilnChildArrival_bad {x : KPart} (hx : siblingOf s k = some x) (hpar : x.par = k.par) (hbad : x.bad = true ∨ k.bad = true) :
    exec .kilnChildArrival s = .next ((s.kilnBad k).abort k .dataUncorrectable 9 none) := by
  rw [exec_kilnChildArrival_sibling hk hsoft hx]
  exact (if_neg (not_not_intro hpar)).trans (if_pos (by simpa using hbad))

theorem exec_kilnChildArrival_combines {x : KPart} (hx : siblingOf s k = some x) (hpar : x.par = k.par) (hxbad : x.bad = false) (hkbad : k.bad = false) :
    exec .kilnChildArrival s =
      .next (State.kilnGo { s with kiln := s.kiln.filter fun y => y.child ≠ x.child, kilnAir := airWithout s k } (combined x k)) := by
  rw [exec_kilnChildArrival_sibling hk hsoft hx]
  exact (if_neg (not_not_intro hpar)).trans (if_neg (by simp [hxbad, hkbad]))

section
variable (hx : siblingOf s k = none)
include hx

theorem exec_kilnChildArrival_refused
    (h : (if (s.kilnOf k).1 = true then 0x40000 else 0x8000) < s.kilnBytes (s.kilnOf k) + k.par.resultBytes) :
    exec .kilnChildArrival s = .next (s.childRefused k) := by
  rw [exec_kilnChildArrival_alone hk hsoft hx]
  exact if_pos h

theorem exec_kilnChildArrival_held
    (h : s.kilnBytes (s.kilnOf k) + k.par.resultBytes ≤ if (s.kilnOf k).1 = true then 0x40000 else 0x8000) :
    exec .kilnChildArrival s = .next (if (heldAt s k).kilnStuck k then (heldAt s k).abort k .exchangeFault 0 none else heldAt s k) := by
  rw [exec_kilnChildArrival_alone hk hsoft hx]
  exact if_neg (Nat.not_lt.mpr h)

end
end

/-! ## Bells (R343, R345) -/

theorem exec_bellRing {s : State} {o : DlOp} (ho : s.op? s.ev.tile s.ev.op = some o) (hr : (s.tileAt s.ev.tile).ringable s.tick o = true) :
    exec .bellRing s = .next (State.noteRing (s.putOp s.ev.tile { o with rung := true }) (s.tileAt s.ev.tile)) := by
  show execBellRing s = _
  simp [execBellRing, ho, hr]

/-- The tick W at which the members of a bell's domain go on (R345), where nothing holds the bell back. -/
def releaseTick (s : State) (t : Tile) (lev : BitVec 3) : Nat :=
  s.tick + 1 + if lev = 4 then Config.delay s.free
    else Config.delay s.free % if (s.domain t lev).all fun u => dieOf u.addr == dieOf t.addr then 64 else 600

theorem tick_lt_releaseTick (s : State) (t : Tile) (lev : BitVec 3) : s.tick < releaseTick s t lev :=
  Nat.lt_of_lt_of_le (Nat.lt_succ_self _) (Nat.le_add_right ..)

/-- At levels 0 to 3 a bell is released within 64 ticks on one die, and within 600 across dies (R345). -/
theorem releaseTick_le (s : State) (t : Tile) {lev : BitVec 3} (hlev : lev.toNat ≤ 3) :
    releaseTick s t lev ≤ s.tick + (if ∀ u ∈ s.domain t lev, dieOf u.addr = dieOf t.addr then 64 else 600) := by
  have hne : lev ≠ 4 := by rintro rfl; exact absurd hlev (by decide)
  have hdie : ((s.domain t lev).all fun u => dieOf u.addr == dieOf t.addr) = true ↔ ∀ u ∈ s.domain t lev, dieOf u.addr = dieOf t.addr := by simp
  unfold releaseTick
  rw [if_neg hne]
  simp only [hdie]
  split <;> omega

/-- Every member that has rung waits for one tick (R343, R345). -/
def released (s : State) (ms : List Tile) (lev : BitVec 3) (w : Nat) : State :=
  ms.foldl (fun s u => match u.rungAt lev with | some p => s.putOp u.addr { p with st := .waiting, val := w } | none => s) s

theorem released_free (s : State) (ms : List Tile) (lev : BitVec 3) (w : Nat) : (released s ms lev w).free = s.free := by
  refine List.foldlRecOn (motive := fun t : State => t.free = s.free) ms _ (.refl _) fun t ht u _ => ?_
  split <;> exact ht

theorem capIdle_of_uncapped {s : State} (h : s.capped = []) (dies : List Nat) : s.capIdle dies = 0 := if_neg (by simp [h])

section
variable {s : State} {o : DlOp} {lev : BitVec 3} (ho : (s.tileAt s.ev.tile).op? s.ev.op = some o) (hl : o.bellLevel = some lev)
include ho hl

theorem exec_bellRelease_waits (h : s.allRung (s.tileAt s.ev.tile) lev = false) : exec .bellRelease s = .next s := by
  show execBellRelease s = _
  simp [execBellRelease, ho, hl, h]

theorem exec_bellRelease (hr : o.rung = true) (hq : o.st = .queued) (hall : s.allRung (s.tileAt s.ev.tile) lev = true)
    (hasked : ∀ u ∈ s.domain (s.tileAt s.ev.tile) lev, u.preReq = false ∧ u.prePeriod = false) (hcap : s.capped = []) :
    exec .bellRelease s = .next
      { released s (s.domain (s.tileAt s.ev.tile) lev) lev (releaseTick s (s.tileAt s.ev.tile) lev) with free := s.free + 2 } := by
  have hnone : ((s.domain (s.tileAt s.ev.tile) lev).any fun u => u.preReq || u.prePeriod) = false := by
    simpa [List.any_eq_false] using hasked
  rw [← released_free s (s.domain (s.tileAt s.ev.tile) lev) lev (releaseTick s (s.tileAt s.ev.tile) lev)]
  show execBellRelease s = _
  unfold execBellRelease
  simp only [ho, hl, hr, hq, hall, hnone, capIdle_of_uncapped hcap, beq_self_eq_true, Bool.and_self, Bool.not_true, Bool.false_eq_true, if_false,
    Nat.add_zero]
  rfl

end

/-- Settles O58: each event by what it does in each of its cases, the period boundary by the tiles it halts, a beat by where its ingress writes it. -/
theorem exchangeEvents : Obligations.ExchangeEvents := by
  refine ⟨fun s o => ?windowStart, fun s a o => ⟨?notAsked, ?someUnasked, ?boundary⟩,
    fun s x hx => ⟨exec_windowEnd_early hx, ?noBell, ?bell, fun y => exec_windowEnd_exchange hx⟩,
    fun t tt e j he hj => ⟨_, sendBeat_mem_egressAt he hj, rfl, rfl, beq_iff_eq, beq_iff_eq, sendBeat_bytes t e j⟩,
    fun tt τ b g t hu => ⟨?first, ?unexpected, ?later, ?stray, ingressBeat_spoils hu⟩,
    fun s p => exec_packetArrival, fun s p => ?packetLands, fun s p h => packetLands_absent,
    fun s o => exec_packetRetry_held, fun s o hy ho hp hold => ⟨fun b => exec_packetRetry_push hy ho hp hold, exec_packetRetry_msg hy ho hp hold⟩,
    fun s p hy hoff hp hb => ⟨fun m => exec_packetRetry_away hy hoff hp hb, exec_packetRetry_here hy hoff hp hb⟩,
    fun s k hk => ?kiln, fun s o => exec_bellRing, fun s o lev => ?bellRelease⟩
  case windowStart =>
    intro t ho
    refine ⟨fun lev n tt hk hn htt => ⟨_, exec_windowStart_armed ho hk hn htt, ?_, rfl, rfl⟩, exec_windowStart_alone ho⟩
    rw [tileAt_kilnHinder, tileAt_onTile]
  case notAsked =>
    rintro (h | ⟨lev, hl, hlev⟩)
    · exact periodEnd_of_not_prePeriod h
    · exact periodEnd_of_low hl hlev
  case someUnasked =>
    rintro ⟨u, hu, hl, hp, hr⟩
    exact periodEnd_of_unasked hu hl hp hr
  case boundary =>
    intro lev hl hlev hp hall
    refine ⟨?self, fun b hb => ?other⟩
    case self =>
      rw [tileAt_periodEnd_shared hl hlev hp hall, tileAt_onTile_boundary]
      exact haltsWith_of_not_prePeriod rfl
    case other =>
      rw [tileAt_periodEnd_shared hl hlev hp hall, tileAt_onTile_other s _ hb]
      simp [haltsWith, atBoundary, and_assoc]
  case noBell =>
    intro hlate hran _ _ hnone
    rw [exec_windowEnd_ran hx hlate hran, closeWindow_of_no_bell hnone]
  case bell =>
    intro o hlate hran ho z
    have hz : exec .windowEnd s = .next (windowCause z s.ev.tile x o) := by
      rw [exec_windowEnd_ran hx hlate hran, closeWindow_of_bell ho]
      rfl
    have htick : z.tick = s.tick := bellDone_tick s s.ev.tile o
    rw [hz, ← htick]
    exact ⟨fun hf hb => congrArg _ (windowCause_none hf hb), fun τ hf hb => congrArg _ (windowCause_fault hf hb),
      fun hf hb => congrArg _ (windowCause_bad hf hb), fun τ hf hb => congrArg _ (windowCause_fault_bad hf hb)⟩
  case first =>
    intro hb e he
    rw [ingressBeat_first hu hb he]
    exact ⟨rfl, rfl, rfl⟩
  case unexpected =>
    intro hb he
    rw [ingressBeat_unexpected hu hb he]
    exact ⟨rfl, rfl, faultAt_fault _ τ⟩
  case later =>
    intro hb d hd
    rw [ingressBeat_later hu hb hd]
    exact ⟨rfl, rfl, rfl⟩
  case stray =>
    intro hb hd
    rw [ingressBeat_stray hu hb hd]
    exact ⟨rfl, faultAt_fault g τ⟩
  case packetLands =>
    intro t hh hl hf ho
    refine ⟨fun u read hland hsoft hbad => ⟨_, packetLands_accepted hh hl hf ho hland hsoft hbad, ?lands, ?gone, ?counted⟩,
      fun h => packetLands_refused hh hl hf ho⟩
    case lands => exact (congrArg (findTile u.addr) (packetDone_tiles _ p)).trans (tileAt_setTile s u)
    case gone =>
      intro q hq
      rw [packetDone_packets] at hq
      simpa using (List.mem_filter.mp hq).2
    case counted => exact congrArg _ (packetDone_cnt _ p)
  case kiln =>
    intro sibling gone hsoft
    refine ⟨fun x hx => exec_kilnChildArrival_differs hk hsoft hx, fun x hx => exec_kilnChildArrival_bad hk hsoft hx,
      fun x hx => exec_kilnChildArrival_combines hk hsoft hx, fun hx => ⟨exec_kilnChildArrival_refused hk hsoft hx, fun hroom => ?_⟩⟩
    rw [exec_kilnChildArrival_held hk hsoft hx hroom]
    exact ⟨fun h => congrArg _ (if_neg (Bool.eq_false_iff.mp h)), fun h => congrArg _ (if_pos h)⟩
  case bellRelease =>
    intro t ho hl
    exact ⟨exec_bellRelease_waits ho hl, fun hr hq hall hasked hcap =>
      ⟨releaseTick s t lev, _, exec_bellRelease ho hl hr hq hall hasked hcap, tick_lt_releaseTick s t lev, releaseTick_le s t, rfl⟩⟩

end Sys2Proof.Proofs.Exchange
end

section
/-! PROOF. Words written out from the encoding tables (Tables 5.2 to 5.6). -/

namespace Sys2Proof.Proofs.TableWords

open Sys2Proof Sys2Proof.Machine

/-- Settles O3: each word is decoded as it stands. -/
theorem tableWords : Obligations.TableWords := by
  unfold Obligations.TableWords
  decide

end Sys2Proof.Proofs.TableWords
end

section
/-! PROOF. The ways in which a trigger of a socket other than `mx` can go, from the run of its meaning (R121, R123, R128, R135). -/

namespace Sys2Proof.Proofs.PlainTriggers

open Sys2Proof Sys2Proof.Machine Sys2Proof.Laws

section
variable {i : Instr} {sp : Spec} {h : Head} {k : Sock} {o : Option Opnd} {ok : Start → State → Prop}
  (hs : specOf i = some sp) (hi : headOf i = some (h, none)) (hk : sp.sock = k) (ho : sp.opnd = o) (hm : k ≠ .mx)
include hs hi hk ho hm

/-- An operation without a tag and without an event of its own joins the queue. -/
theorem queuesPlain_of {op : Start → State → DlOp} (hr : ∀ st s, ok st s → sp.run st { st := s } = .ok { st := enqueue st s (op st s) }) :
    Queues i h k o ok op noTag noEvent :=
  queues_of (Bundles.exec_of_spec hs) hi hk ho hm fun st s _ hok => ⟨_, hr st s hok, plain_queued st s (op st s)⟩

theorem trapsPlain_of {c : Cause} {a d : Start → Dword} (hr : ∀ st s, ok st s → sp.run st { st := s } = .error (.trap c (a st) (d st))) :
    Traps i h k o ok c a d :=
  traps_of (Bundles.exec_of_spec hs) hi hk ho hm fun st s _ _ => hr st s

theorem runsPlain_of {f : Start → State → Issue} (hr : ∀ st s, ok st s → sp.run st { st := s } = .ok (f st s)) : Runs i h k o ok f :=
  runs_of (Bundles.exec_of_spec hs) hi hk ho hm fun st s _ _ => hr st s

/-- A trigger that stalls its own bundle, whatever the mode of its socket. -/
theorem stallsPlain_of (hr : ∀ st s, ok st s → sp.run st { st := s } = .error .stall) (s : State) (v : Bus) (hf : Fires i h v s)
    (ha : Admits h k o v s) (hok : ok (s.starts h k o v) (s.latched h k o v)) : exec i s = .next (stallTick s.atBundle) := by
  subst hk ho
  rw [Bundles.exec_of_spec hs]
  exact issueOne_stalls hf hi hm (fun hl _ _ => ha hl) (hr _ _ hok)

end

end Sys2Proof.Proofs.PlainTriggers
end

section
/-! PROOF. A performed operation in its command queue (R123, R130). -/

namespace Sys2Proof.Proofs.PerformedOps

open Sys2Proof Sys2Proof.Machine

/-- The entry of an operation that is put back is that operation. -/
theorem eq_of_mem_putOp {t : Tile} {o p : DlOp} (hp : p ∈ (t.putOp o).queue) (hid : p.id = o.id) : p = o := by
  obtain ⟨q, -, rfl⟩ := List.mem_map.mp hp
  split at hid
  · next hq => exact if_pos hq
  · next hq => exact absurd hid hq

/-- An operation that is put back as performed has been carried out. -/
theorem putOp_carriedOut (t : Tile) (o : DlOp) {due : Nat} {r : Res} {f : Res → Prop} (hf : f r) :
    (t.putOp { o with st := .performed, due := due, res := some r }).carriedOut o due f := by
  intro p hp hid
  rw [eq_of_mem_putOp hp hid]
  exact ⟨rfl, rfl, r, rfl, hf⟩

end Sys2Proof.Proofs.PerformedOps
end

section
/-! PROOF. The triggers of the reduction network `kn`: what each queues, and which of their checks trap (R335 to R338). -/

namespace Sys2Proof.Proofs.Reductions

open Sys2Proof Sys2Proof.Machine Sys2Proof.Laws Sys2Proof.Proofs.PlainTriggers

/-! ## `kopen` (R335) -/

/-- The domain register of the level that a `kopen` names. -/
def kopenDom (st : Start) (s : State) : Dword := s.self.domReg (kopenPar st).level

/-- The parameters of a `kopen` lie in their ranges, and the tile's own rank is among the contributors (R335). -/
def kopenLegal (st : Start) (s : State) : Prop :=
  (kopenPar st).level ≤ 3 ∧ (kopenPar st).ty ≠ 3 ∧ ((kopenPar st).op = 3 → (kopenPar st).ty = 0) ∧ 1 ≤ (kopenPar st).n ∧ (kopenPar st).n ≤ 256
    ∧ ((kopenPar st).op ≠ 3 → (kopenPar st).r ≤ 1 ∧ (kopenPar st).fin = false) ∧ (kopenPar st).r * (kopenPar st).n ≤ 256 ∧ (kopenPar st).c ≠ 0
    ∧ (kopenPar st).rankBase + (kopenPar st).c ≤ (kopenDom st s).toNat / 2 ^ 32 ∧ (kopenPar st).rankBase ≤ (kopenDom st s).toNat % 2 ^ 32
    ∧ (kopenDom st s).toNat % 2 ^ 32 < (kopenPar st).rankBase + (kopenPar st).c

/-- The destination of a `kopen` is a rank of the launch. -/
def kopenSent (st : Start) (s : State) : Prop := (kopenPar st).dstRank < (s.self.domReg 3).toNat / 2 ^ 32

open Classical in
/-- The checks of a `kopen`, in their order. -/
theorem kopen_run (st : Start) (s : State) : specKopen.run st { st := s } =
    if ¬kopenLegal st s then .error (.trap .exchangeFault 0 0)
    else if ¬kopenSent st s then .error (.trap .protectionFault 0 0)
    else if (kopenPar st).off % 4 ≠ 0 then .error (faultAt .misaligned (kopenPar st).off)
    else if 0x60000 < (kopenPar st).off + (kopenPar st).resultBytes then .error (faultAt .localRange (kopenPar st).off)
    else .ok { st := enqueue st s (newOp st .kopen false 0) } := by
  unfold specKopen
  dsimp only
  generalize hp : kopenPar st = p
  refine if_congr ?_ rfl (if_congr ?_ rfl rfl)
  · unfold kopenLegal kopenDom
    rw [hp]
    simp only [Bool.or_eq_true, Bool.and_eq_true, decide_eq_true_eq, beq_iff_eq, bne_iff_ne]
    cases p.fin <;> simp only [Bool.false_eq_true, reduceCtorEq] <;> grind
  · unfold kopenSent
    rw [hp, not_lt]

/-! ## `kpart` and `kattn` (R336) -/

section
variable {i : Instr} {h : Head} {attn : Bool} (hs : specOf i = some (contribSpec attn)) (hi : headOf i = some (h, none))
include hs hi

theorem contrib_queues : Queues i h .kn (some .opB) (fun st _ => busBits st.a 31 0 % 4 = 0)
    (fun st _ => { newOp st (if attn then .kattn else .kpart) false 0 with tag := some (BitVec.ofNat 6 (busBits st.b 13 8)) }) noTag noEvent :=
  queuesPlain_of hs hi rfl rfl Sock.noConfusion fun _ _ ha => if_neg (not_not.mpr ha)

theorem contrib_misaligned : Traps i h .kn (some .opB) (fun st _ => busBits st.a 31 0 % 4 ≠ 0) .misaligned
    (fun st => BitVec.ofNat 64 (busBits st.a 31 0)) (fun _ => 0) :=
  trapsPlain_of hs hi rfl rfl Sock.noConfusion fun _ _ ha => if_pos ha

end

/-! ## `kfin` (R337) -/

theorem kfin_legal_iff {n r : Nat} : (1 ≤ n ∧ n ≤ 256 ∧ r * n ≤ 256) ↔ ¬(n = 0 ∨ 256 < n ∨ 256 < r * n) := by
  generalize r * n = x
  omega

/-- Settles O39: each trigger by its checks in their order, and by the operation that it queues when they pass. -/
theorem reductionTriggers : Obligations.ReductionTriggers := by
  refine ⟨fun h => ⟨?opens, ?illegal, ?unsent, ?openMisaligned, ?openRange⟩, fun h attn => ?contributes,
    fun h => ⟨?finishes, ?finIllegal, ?finMisaligned, ?finRange, ?reads⟩⟩
  case opens =>
    exact queuesPlain_of (sp := specKopen) rfl rfl rfl rfl Sock.noConfusion fun st s ⟨hl, hd, ha, hn⟩ =>
      (kopen_run st s).trans ((if_neg (not_not.mpr hl)).trans ((if_neg (not_not.mpr hd)).trans ((if_neg (not_not.mpr ha)).trans (if_neg (Nat.not_lt.mpr hn)))))
  case illegal =>
    exact trapsPlain_of (sp := specKopen) rfl rfl rfl rfl Sock.noConfusion fun st s hl => (kopen_run st s).trans (if_pos hl)
  case unsent =>
    exact trapsPlain_of (sp := specKopen) rfl rfl rfl rfl Sock.noConfusion fun st s ⟨hl, hd⟩ =>
      (kopen_run st s).trans ((if_neg (not_not.mpr hl)).trans (if_pos hd))
  case openMisaligned =>
    exact trapsPlain_of (sp := specKopen) rfl rfl rfl rfl Sock.noConfusion fun st s ⟨hl, hd, ha⟩ =>
      (kopen_run st s).trans ((if_neg (not_not.mpr hl)).trans ((if_neg (not_not.mpr hd)).trans (if_pos ha)))
  case openRange =>
    exact trapsPlain_of (sp := specKopen) rfl rfl rfl rfl Sock.noConfusion fun st s ⟨hl, hd, ha, hn⟩ =>
      (kopen_run st s).trans ((if_neg (not_not.mpr hl)).trans ((if_neg (not_not.mpr hd)).trans ((if_neg (not_not.mpr ha)).trans (if_pos hn))))
  case contributes => cases attn <;> exact ⟨contrib_queues rfl rfl, contrib_misaligned rfl rfl⟩
  case finishes =>
    exact queuesPlain_of (sp := specKfin) rfl rfl rfl rfl Sock.noConfusion fun st s ⟨hl, ⟨hx, hy⟩, hn, hm⟩ =>
      (if_neg (kfin_legal_iff.mp hl)).trans ((if_neg (not_or.mpr ⟨not_not.mpr hx, not_not.mpr hy⟩)).trans (if_neg (not_or.mpr ⟨Nat.not_lt.mpr hn, Nat.not_lt.mpr hm⟩)))
  case finIllegal =>
    exact trapsPlain_of (sp := specKfin) rfl rfl rfl rfl Sock.noConfusion fun st s hl => if_pos (not_not.mp fun hx => hl (kfin_legal_iff.mpr hx))
  case finMisaligned =>
    exact trapsPlain_of (sp := specKfin) rfl rfl rfl rfl Sock.noConfusion fun st s ⟨hl, he⟩ =>
      (if_neg (kfin_legal_iff.mp hl)).trans (if_pos (not_and_or.mp he))
  case finRange =>
    exact trapsPlain_of (sp := specKfin) rfl rfl rfl rfl Sock.noConfusion fun st s ⟨hl, ⟨hx, hy⟩, hn⟩ =>
      (if_neg (kfin_legal_iff.mp hl)).trans ((if_neg (not_or.mpr ⟨not_not.mpr hx, not_not.mpr hy⟩)).trans (if_pos hn))
  case reads => exact queuesPlain_of (sp := specKres) rfl rfl rfl rfl Sock.noConfusion fun _ _ _ => rfl

end Sys2Proof.Proofs.Reductions
end

section
/-! PROOF. Exceptions: which pending cause is taken first, what taking it leaves, and the three ways to return (R413 to R422, R431, R432, Table 18.2). -/

namespace Sys2Proof.Proofs.Exceptions

open Sys2Proof Sys2Proof.Machine Sys2Proof.Laws

/-! ## The order of causes (R414) -/

/-- The order of R414, in which no cause comes after itself: priority, then issue number, then code. -/
def Ahead (p q : Pending) : Prop :=
  p.cause.prio < q.cause.prio ∨ (p.cause.prio = q.cause.prio ∧ (p.seq < q.seq ∨ (p.seq = q.seq ∧ p.cause.code ≤ q.cause.code)))

theorem before_iff (p q : Pending) : p.before q = true ↔ Ahead p q := by
  unfold Pending.before Ahead
  split
  · next h => rw [decide_eq_true_eq]; omega
  · next h =>
    split
    · next h' => rw [decide_eq_true_eq]; omega
    · next h' => rw [decide_eq_true_eq]; omega

theorem Ahead.refl (p : Pending) : Ahead p p := .inr ⟨rfl, .inr ⟨rfl, le_refl _⟩⟩

theorem Ahead.trans {p q r : Pending} (h : Ahead p q) (k : Ahead q r) : Ahead p r := by
  unfold Ahead at *
  omega

theorem Ahead.of_not {p q : Pending} (h : ¬Ahead p q) : Ahead q p := by
  unfold Ahead at *
  omega

theorem firstCause_of_bank {k : BitVec 2} {p : Pending} (h : p.bank = k) (ps : List Pending) :
    firstCause k (p :: ps) = match firstCause k ps with | some q => if p.before q then some p else some q | none => some p := if_pos h

theorem firstCause_of_other {k : BitVec 2} {p : Pending} (h : p.bank ≠ k) (ps : List Pending) : firstCause k (p :: ps) = firstCause k ps := if_neg h

theorem firstCause_none_iff (k : BitVec 2) (l : List Pending) : firstCause k l = none ↔ ∀ p ∈ l, p.bank ≠ k := by
  induction l with
  | nil => exact iff_of_true rfl fun _ h => absurd h List.not_mem_nil
  | cons p ps ih =>
    rw [List.forall_mem_cons]
    by_cases h : p.bank = k
    · refine iff_of_false (fun he => ?_) fun hp => hp.1 h
      rw [firstCause_of_bank h] at he
      split at he
      · split at he <;> cases he
      · cases he
    · rw [firstCause_of_other h, ih]
      exact ⟨fun hp => ⟨h, hp⟩, fun hp => hp.2⟩

/-- The first cause stands in the list, belongs to the bank, and no other of the bank comes ahead of it. -/
theorem firstCause_some (k : BitVec 2) (l : List Pending) {p : Pending} (hp : firstCause k l = some p) :
    p ∈ l ∧ p.bank = k ∧ ∀ q ∈ l, q.bank = k → Ahead p q := by
  induction l generalizing p with
  | nil => cases hp
  | cons c cs ih =>
    by_cases h : c.bank = k
    · rw [firstCause_of_bank h] at hp
      split at hp
      · next q hq =>
        obtain ⟨hmem, hbank, hle⟩ := ih hq
        by_cases hb : c.before q = true
        · obtain rfl : c = p := by rw [if_pos hb] at hp; exact Option.some.inj hp
          refine ⟨List.mem_cons_self .., h, List.forall_mem_cons.mpr ⟨fun _ => .refl c, fun x hx hk => ?_⟩⟩
          exact ((before_iff c q).mp hb).trans (hle x hx hk)
        · obtain rfl : q = p := by rw [if_neg hb] at hp; exact Option.some.inj hp
          exact ⟨List.mem_cons_of_mem _ hmem, hbank,
            List.forall_mem_cons.mpr ⟨fun _ => .of_not fun ha => hb ((before_iff c q).mpr ha), hle⟩⟩
      · next hn =>
        obtain rfl : c = p := Option.some.inj hp
        exact ⟨List.mem_cons_self .., h,
          List.forall_mem_cons.mpr ⟨fun _ => .refl c, fun x hx hk => absurd hk ((firstCause_none_iff k cs).mp hn x hx)⟩⟩
    · rw [firstCause_of_other h] at hp
      obtain ⟨hmem, hbank, hle⟩ := ih hp
      exact ⟨List.mem_cons_of_mem _ hmem, hbank, List.forall_mem_cons.mpr ⟨fun hk => absurd hk h, hle⟩⟩

/-- To drop a cause is to erase its first occurrence. -/
theorem dropCause_eq_erase (p : Pending) : ∀ l : List Pending, dropCause p l = l.erase p
  | [] => rfl
  | q :: qs => by
    rw [List.erase_cons, dropCause, dropCause_eq_erase p qs]
    exact if_congr beq_iff_eq.symm rfl rfl

/-- Settles O45, by induction on the pending causes; a cause is dropped as `List.erase` erases it. -/
theorem causeOrder : Obligations.CauseOrder :=
  ⟨firstCause_none_iff, fun k l _ => firstCause_some k l, fun l p hp => by
    rw [dropCause_eq_erase]
    exact ⟨List.length_erase_add_one hp, fun q hq => List.mem_erase_of_ne hq⟩⟩

/-! ## Taking an exception (R415 to R418, R420) -/

theorem entered_enter (t : Tile) (now : Nat) (gang : Bool) (p : Pending) (off : Word) (hk : p.bank ≠ 3) :
    Entered t (t.enter now gang p off) now gang p off := by
  let w := t.setBank p.bank { t.bank p.bank with pc := off }
  have hb (k : BitVec 2) : (t.enter now gang p off).bank k
      = (w.onBank 3 fun b => { b with pc := 0, levels := [], life := .live, passEnd := false, idle := 0 }).bank k := rfl
  obtain ⟨hrun, _, _, hsaved, hsel, _⟩ := enter_spec t now gang p off hk
  refine ⟨hrun, hsaved, ?start, fun k h3 hp => ?others, hsel, rfl, rfl⟩
  case start => rw [hb, bank_onBank, bank_setBank_other t _ (Ne.symm hk)]
  case others => rw [hb, bank_onBank_other _ _ h3, bank_setBank_other t _ hp]

theorem takenAt_bank (p : Pending) (pc : Word) : (p.takenAt pc).bank = p.bank := by
  unfold Pending.takenAt
  split <;> rfl

theorem takenAt_async {p : Pending} (h : p.kind = .async) (pc : Word) : p.takenAt pc = { p with origin := pc } := if_pos h

theorem takenAt_other {p : Pending} (h : p.kind ≠ .async) (pc : Word) : p.takenAt pc = p := if_neg h

theorem takenAt_shown (p : Pending) (pc : Word) : (p.takenAt pc).shown = p.shown := by
  unfold Pending.takenAt
  split <;> rfl

theorem takenAt_detail (p : Pending) (pc : Word) : (p.takenAt pc).detail = p.detail := by
  unfold Pending.takenAt
  split <;> rfl

theorem takenAt_cause (p : Pending) (pc : Word) : (p.takenAt pc).cause = p.cause := by
  unfold Pending.takenAt
  split <;> rfl

theorem shown_eq (p : Pending) :
    p.shown = if p.cause.code = 0x05 ∨ p.cause.code = 0x06 ∨ (0x08 ≤ p.cause.code ∧ p.cause.code ≤ 0x0B) ∨ p.cause.code = 0x11 then p.addr else 0 := by
  refine if_congr ?_ rfl rfl
  rw [List.contains_iff_mem]
  simp only [List.mem_cons, List.not_mem_nil, or_false]
  omega

/-! ## What is taken before a bundle (R414, R432) -/

/-- A tile that takes a cause before its next bundle. -/
theorem takePending_some {t : Tile} {now : Nat} {gang : Bool} {p : Pending} (hf : t.frozen = false) (hl : (t.bank t.run).life = .live)
    (hp : firstCause t.run (t.pend.filter fun p => decide (p.notBefore ≤ now)) = some p) :
    t.takePending now gang = some (if t.run = 3 then { t with pend := dropCause p t.pend, frozen := true, ended := some (p.cause, true) }
      else Tile.enter { t with pend := dropCause p t.pend } now gang (p.takenAt (t.bank t.run).pc) (t.bank t.run).pc) := by
  have hlive : ¬(t.frozen = true ∨ (t.bank t.run).life ≠ .live) := by simp [hf, hl]
  unfold Tile.takePending
  rw [if_neg hlive, hp]
  dsimp only
  split <;> rfl

theorem takePending_none_iff (t : Tile) (now : Nat) (gang : Bool) : t.takePending now gang = none ↔
    (t.frozen = true ∨ (t.bank t.run).life ≠ .live ∨ firstCause t.run (t.pend.filter fun p => decide (p.notBefore ≤ now)) = none) := by
  rw [← or_assoc]
  by_cases hd : t.frozen = true ∨ (t.bank t.run).life ≠ .live
  · exact iff_of_true (if_pos hd) (.inl hd)
  · rw [or_iff_right hd]
    obtain ⟨hf, hl⟩ := not_or.mp hd
    cases hp : firstCause t.run (t.pend.filter fun p => decide (p.notBefore ≤ now)) with
    | none =>
      refine iff_of_true ?_ rfl
      unfold Tile.takePending
      rw [if_neg hd, hp]
    | some p =>
      rw [takePending_some (Bool.eq_false_iff.mpr hf) (not_not.mp hl) hp]
      exact iff_of_false (Option.some_ne_none _) (Option.some_ne_none _)

theorem exec_supervisorEntry_some {s : State} {u : Tile} (h : ((s.settle s.ev.tile).tileAt s.ev.tile).takePending s.tick (s.quadAt s.ev.tile).ganged = some u) :
    exec .supervisorEntry s = .next ((s.settle s.ev.tile).setTile u) := by
  show execSupervisorEntry s = _
  unfold execSupervisorEntry
  dsimp only
  rw [h]

theorem exec_supervisorEntry_none {s : State} (h : ((s.settle s.ev.tile).tileAt s.ev.tile).takePending s.tick (s.quadAt s.ev.tile).ganged = none) :
    exec .supervisorEntry s = .next s := by
  show execSupervisorEntry s = _
  unfold execSupervisorEntry
  dsimp only
  rw [h]

/-! ## A trigger that traps (R413, R432) -/

/-- The record of a cause changes in its tile the counts of errors only. -/
theorem noteCause_tileAt (s : State) (a : Nat) (p : Pending) : ∃ e, (s.noteCause a p).tileAt a = { s.tileAt a with errs := e } := by
  have hadd (i : Fin 5) : (s.onTile a fun t => t.errAdd i 1 0xFF).tileAt a = (s.tileAt a).errAdd i 1 0xFF :=
    TileEvents.tileAt_onTile_same (tileAt_addr s a)
  unfold State.noteCause
  split
  · refine ⟨_, (TileEvents.tileAt_tileRecord ..).trans (Eq.trans ?_ (hadd 3))⟩
    split <;> rfl
  · exact ⟨_, (TileEvents.tileAt_tileRecord ..).trans (hadd 4)⟩
  all_goals exact ⟨_, rfl⟩

/-- Only an uncorrectable word and a failed check of a datapath leave a record. -/
theorem noteCause_of_other {s : State} {a : Nat} {p : Pending} (hd : p.cause ≠ .dataUncorrectable) (hc : p.cause ≠ .datapathCheck) :
    s.noteCause a p = s := by
  unfold State.noteCause
  split
  · next h => exact absurd h hd
  · next h => exact absurd h hc
  all_goals rfl

theorem noteCause_self (s : State) (p : Pending) : ∃ e, (s.noteCause s.cur p).self = { s.self with errs := e } := by
  obtain ⟨e, he⟩ := noteCause_tileAt s s.cur p
  obtain ⟨-, -, hc⟩ := noteCause_queue s p
  exact ⟨e, (congrArg (s.noteCause s.cur p).tileAt hc).trans he⟩

theorem raiseNow_addr (t : Tile) (now : Nat) (gang : Bool) (p : Pending) : (t.raiseNow now gang p).addr = t.addr := by
  unfold Tile.raiseNow
  split <;> rfl

theorem raiseNow_of_user {t : Tile} (h : t.run ≠ 3) (now : Nat) (gang : Bool) (p : Pending) :
    t.raiseNow now gang p = t.enter now gang p (t.bank t.run).pc := if_neg h

theorem raiseNow_of_supervisor {t : Tile} (h : t.run = 3) (now : Nat) (gang : Bool) (p : Pending) :
    t.raiseNow now gang p = { t with frozen := true, ended := some (p.cause, true) } := if_pos h

/-- The tile that has taken the cause of its own bundle. -/
theorem trapped_self (s : State) (p : Pending) : (s.trapped p).self = (s.atBundle.noteCause s.cur p).self.raiseNow s.tick false p :=
  TileEvents.tileAt_onTile_same (s := s.atBundle.noteCause s.cur p) (f := fun t => t.raiseNow s.tick false p) ((raiseNow_addr ..).trans (tileAt_addr ..))

/-! ## The cause word (Table 18.2) -/

theorem code_lt (c : Cause) : c.code < 64 := by cases c <;> decide

theorem kindCode_lt (k : Kind) : k.code < 4 := by cases k <;> decide

/-- The number of a cause word: its fields, each below the place of the next. -/
theorem causeWord_toNat (p : Pending) (more gang pr : Bool) : (causeWord p more gang pr).toNat =
    p.code.toNat * 2 ^ 48 + pr.toNat * 2 ^ 16 + more.toNat * 2 ^ 15 + gang.toNat * 2 ^ 14 + p.kind.code * 2 ^ 12 + p.bank.toNat * 2 ^ 10
      + p.bus.isSome.toNat * 2 ^ 9 + (p.bus.getD 0).toNat * 2 ^ 6 + p.cause.code := by
  have hc := code_lt p.cause
  have hk := kindCode_lt p.kind
  have hm := more.toNat_le
  have hg := gang.toNat_le
  have hp := pr.toNat_le
  unfold causeWord
  rw [BitVec.toNat_ofNat]
  cases hb : p.bus with
  | none =>
    have h0 : (0 : BitVec 3).toNat = 0 := rfl
    simp only [Option.isSome_none, Bool.toNat_false, Option.getD_none, h0]
    omega
  | some b =>
    simp only [Option.isSome_some, Bool.toNat_true, Option.getD_some]
    omega

theorem extractLsb'_eq_ofNat {w : Dword} {i n k : Nat} (h : w.toNat / 2 ^ i % 2 ^ n = k) : w.extractLsb' i n = BitVec.ofNat n k := by
  apply BitVec.eq_of_toNat_eq
  rw [BitVec.extractLsb'_toNat, Nat.shiftRight_eq_div_pow, h, BitVec.toNat_ofNat, ← h, Nat.mod_mod]

theorem extractLsb'_eq {w : Dword} {i n : Nat} {k : BitVec n} (h : w.toNat / 2 ^ i % 2 ^ n = k.toNat) : w.extractLsb' i n = k :=
  (extractLsb'_eq_ofNat h).trans (by rw [BitVec.ofNat_toNat, BitVec.setWidth_eq])

theorem getLsbD_eq {w : Dword} {i : Nat} {b : Bool} (h : w.toNat / 2 ^ i % 2 = b.toNat) : w.getLsbD i = b := by
  rw [← BitVec.testBit_toNat, Nat.testBit_eq_decide_div_mod_eq, h]
  cases b <;> rfl

theorem causeWord_fields (p : Pending) (more gang pr : Bool) :
    (causeWord p more gang pr).extractLsb' 0 6 = BitVec.ofNat 6 p.cause.code ∧ (causeWord p more gang pr).extractLsb' 6 3 = p.bus.getD 0
      ∧ (causeWord p more gang pr).getLsbD 9 = p.bus.isSome ∧ (causeWord p more gang pr).extractLsb' 10 2 = p.bank
      ∧ (causeWord p more gang pr).extractLsb' 12 2 = BitVec.ofNat 2 p.kind.code ∧ (causeWord p more gang pr).getLsbD 14 = gang
      ∧ (causeWord p more gang pr).getLsbD 15 = more ∧ (causeWord p more gang pr).getLsbD 16 = pr
      ∧ (causeWord p more gang pr).extractLsb' 17 31 = 0 ∧ (causeWord p more gang pr).extractLsb' 48 16 = p.code := by
  have hw := causeWord_toNat p more gang pr
  have hc := code_lt p.cause
  have hk := kindCode_lt p.kind
  have hm := more.toNat_le
  have hg := gang.toNat_le
  have hp := pr.toNat_le
  have hs := p.bus.isSome.toNat_le
  have hb := (p.bus.getD 0).isLt
  have hn := p.bank.isLt
  have hd := p.code.isLt
  refine ⟨extractLsb'_eq_ofNat ?_, extractLsb'_eq ?_, getLsbD_eq ?_, extractLsb'_eq ?_, extractLsb'_eq_ofNat ?_, getLsbD_eq ?_,
    getLsbD_eq ?_, getLsbD_eq ?_, extractLsb'_eq_ofNat (k := 0) ?_, extractLsb'_eq ?_⟩
  all_goals omega

/-- Settles O46: the tile that takes a cause, whether pending or of its own bundle, is that of `Tile.enter`; the cause word by its number. -/
theorem exceptionEntry : Obligations.ExceptionEntry := by
  refine ⟨fun s p hp hf hl => ⟨fun h3 => ?taken, fun h3 => ?stopped⟩, fun s => exec_supervisorEntry_none, takePending_none_iff,
    fun p pc => ⟨fun h => congrArg Pending.origin (takenAt_async h pc), fun h => congrArg Pending.origin (takenAt_other h pc), shown_eq p⟩,
    fun s c x d => ?trapped, causeWord_fields⟩
  case taken =>
    obtain ⟨-, hk, -⟩ := firstCause_some _ _ hp
    refine ⟨_, exec_supervisorEntry_some ((takePending_some hf hl hp).trans (congrArg some (if_neg h3))), ?_⟩
    exact entered_enter _ _ _ _ _ (by rw [takenAt_bank, hk]; exact h3)
  case stopped => exact exec_supervisorEntry_some ((takePending_some hf hl hp).trans (congrArg some (if_pos h3)))
  case trapped =>
    intro b noted
    obtain ⟨e, he⟩ : ∃ e, noted.self = { s.atBundle.self with errs := e } := noteCause_self s.atBundle _
    have hrun : noted.self.run = s.atBundle.self.run := (congrArg Tile.run he).trans rfl
    have hbank (k : BitVec 2) : noted.self.bank k = s.atBundle.self.bank k := (congrArg (Tile.bank · k) he).trans rfl
    refine ⟨fun h3 => ?_, fun h3 => ?_, fun k => ?_, noteCause_of_other (p := s.trapOf c x d)⟩
    · have hpc : (noted.self.bank noted.self.run).pc = b.pc := by rw [hrun, hbank]; rfl
      rw [trapped_self, raiseNow_of_user (hrun.trans_ne h3), hpc]
      exact entered_enter _ _ _ _ _ h3
    · rw [trapped_self, raiseNow_of_supervisor (hrun.trans h3)]
      rfl
    · rw [hbank]
      exact ⟨rfl, rfl, rfl⟩

/-! ## Returning (R422, R431) -/

/-- The tile of bank3 after the bundle of an `sv.eret`, but for the return: only bank3 has gone on. -/
def handled (s u : State) : Tile := WholeBundles.issuedTile s.self.blen { st := u }

theorem handled_bank (s u : State) {k : BitVec 2} (h3 : u.self.run = 3) (hk : k ≠ 3) : (handled s u).bank k = u.self.bank k :=
  bank_setBank_other u.self _ (h3 ▸ hk)

theorem leave_addr (t : Tile) (now : Nat) (gang : Bool) (f : Nat) : (t.leave now gang f).addr = t.addr := by
  unfold Tile.leave
  dsimp only
  split
  · split
    · split
      · split <;> rfl
      · rfl
    · split <;> rfl
  · split
    · exact (Control.afterHalt_rest ..).2
    · split <;> rfl

/-- `eret` acts on the tile as its bundle left it. -/
theorem returned_self (s u : State) (f : Nat) (h3 : u.self.run = 3) :
    (s.returned u f).self = (handled s u).leave u.tick (u.quadAt u.cur).ganged f := by
  have he : WholeBundles.endedTile s.self.blen { st := u, eret := some f } = (handled s u).leave u.tick (u.quadAt u.cur).ganged f := rfl
  have haddr : ((handled s u).leave u.tick (u.quadAt u.cur).ganged f).addr = u.cur := (leave_addr ..).trans (tileAt_addr u u.cur)
  have hf : s.returned u f = finish s.self.blen { st := u, eret := some f } := rfl
  rw [hf, WholeBundles.finish_eq, he]
  exact (self_setTile u _ ((congrArg Tile.addr (if_pos h3)).trans haddr)).trans (if_pos h3)

section
variable {t : Tile} {now : Nat} {gang : Bool}

/-- Form 0 after the entry with cause 0 (R431). -/
theorem leave_ready (hc : (t.sel[0]).extractLsb' 0 6 = 0) (hh : t.heldRun = none) :
    t.leave now gang 0 = { t with run := 0, supReady := true, ready := now + 4 } := by
  unfold Tile.leave
  dsimp only
  rw [if_pos rfl, if_pos hc, hh]

/-- Form 0 after the entry with cause 0, where the debugger holds what the tile was doing. -/
theorem leave_held {x : HeldRun} (hc : (t.sel[0]).extractLsb' 0 6 = 0) (hh : t.heldRun = some x) : t.leave now gang 0 =
    if x.run = 3 then
      { (t.setBank 3 x.bank3) with run := 3, sel := x.sel, natAt := x.natAt, debugHeld := x.debugHeld, heldRun := none, supReady := true, frozen := true }
    else { t with run := x.run, heldRun := none, supReady := true, frozen := true } := by
  unfold Tile.leave
  dsimp only
  rw [if_pos rfl, if_pos hc, hh]

/-- Form 0 resumes the captured bank (R422). -/
theorem leave_resumes (hc : (t.sel[0]).extractLsb' 0 6 ≠ 0) (hp : firstCause ((t.sel[0]).extractLsb' 10 2) t.pend = none) :
    t.leave now gang 0 = { t with run := (t.sel[0]).extractLsb' 10 2, ready := now + 4 } := by
  unfold Tile.leave
  dsimp only
  rw [if_pos rfl, if_neg hc, hp]

/-- Form 0 enters again for a pending cause (R422). -/
theorem leave_enters {p : Pending} {k : BitVec 2} (hk : (t.sel[0]).extractLsb' 10 2 = k) (hc : (t.sel[0]).extractLsb' 0 6 ≠ 0)
    (hp : firstCause k t.pend = some p) : t.leave now gang 0 =
      { Tile.enter { t with pend := dropCause p t.pend } now gang (p.takenAt (t.bank k).pc) (t.bank k).pc with ready := now + 10 } := by
  subst hk
  unfold Tile.leave
  dsimp only
  rw [if_pos rfl, if_neg hc, hp]
  rfl

/-- Form 1 halts the captured bank (R422). -/
theorem leave_halts {k : BitVec 2} (hk : (t.sel[0]).extractLsb' 10 2 = k) :
    t.leave now gang 1 = (Tile.mxHalt (Tile.onBank { t with run := k, ready := now + 4 } k Strand.halt) k).afterHalt now k := by
  subst hk
  rfl

/-- Form 2 ends the launch (R422). -/
theorem leave_ends : t.leave now gang 2 = { t with frozen := true, ended := some (causeOfCode ((t.sel[0]).extractLsb' 0 6).toNat, false) } := rfl

end

theorem afterHalt_run (t : Tile) (now : Nat) (k : BitVec 2) : (t.afterHalt now k).run = t.run := by
  unfold Tile.afterHalt
  split
  · rfl
  · split <;> rfl

theorem bank_of_banks {t u : Tile} (h : t.banks = u.banks) (k : BitVec 2) : t.bank k = u.bank k :=
  congrArg (fun v : Vector Strand 4 => v[k.toNat]'k.isLt) h

/-- The bank halted by a return: its strand as `Strand.halt` leaves it. -/
theorem leave_halts_bank {t : Tile} {k : BitVec 2} (hk : (t.sel[0]).extractLsb' 10 2 = k) (now : Nat) (gang : Bool) :
    (t.leave now gang 1).run = k ∧ (t.leave now gang 1).bank k = (t.bank k).halt := by
  rw [leave_halts hk]
  exact ⟨afterHalt_run .., (bank_of_banks (Control.afterHalt_rest ..).1 k).trans (bank_onBank { t with run := k, ready := now + 4 } k Strand.halt)⟩

/-- A supervisor that is entered again: the bank keeps its program counter, and the cause that was taken shows. -/
theorem leave_enters_spec {t : Tile} {p : Pending} {k : BitVec 2} (hk : (t.sel[0]).extractLsb' 10 2 = k) (h3 : k ≠ 3)
    (hc : (t.sel[0]).extractLsb' 0 6 ≠ 0) (hp : firstCause k t.pend = some p) (now : Nat) (gang : Bool) :
    let v := t.leave now gang 0
    v.run = 3 ∧ v.ready = now + 10 ∧ (v.bank 3).pc = 0 ∧ v.pend = dropCause p t.pend ∧ v.bank k = t.bank k
      ∧ v.sel[1] = (p.takenAt (t.bank k).pc).origin ++ (t.bank k).pc ∧ v.sel[2] = p.shown ∧ v.sel[3] = p.detail
      ∧ (v.sel[0]).extractLsb' 0 6 = BitVec.ofNat 6 p.cause.code := by
  intro v
  let q := p.takenAt (t.bank k).pc
  obtain ⟨-, hbank, -⟩ := firstCause_some _ _ hp
  have hq : q.bank = k := (takenAt_bank ..).trans hbank
  obtain ⟨hrun, hpc, -, hsaved, hsel, hpend⟩ :=
    enter_spec { t with pend := dropCause p t.pend } now gang q (t.bank k).pc (by rw [hq]; exact h3)
  rw [hq] at hsaved
  have hv : v = { Tile.enter { t with pend := dropCause p t.pend } now gang q (t.bank k).pc with ready := now + 10 } := leave_enters hk hc hp
  rw [hv]
  refine ⟨hrun, rfl, hpc, hpend, hsaved, congrArg (·[1]) hsel, (congrArg (·[2]) hsel).trans (takenAt_shown ..),
    (congrArg (·[3]) hsel).trans (takenAt_detail ..), ?_⟩
  refine (congrArg (fun w : Vector Dword 4 => (w[0]).extractLsb' 0 6) hsel).trans ((causeWord_fields q _ _ _).1.trans ?_)
  rw [takenAt_cause]

/-- A new trap offset stands in the low half of selector 1. -/
theorem setTrapOff_sel (t : Tile) (v : Word) : (t.setTrapOff v).sel = t.sel.set 1 ((t.sel[1]).extractLsb' 32 32 ++ v) := by
  unfold Tile.setTrapOff
  dsimp only
  split <;> rfl

/-- Settles O47, form by form: the tile of the returned state is what the return makes of the tile whose bank3 has gone on. -/
theorem exceptionReturn : Obligations.ExceptionReturn := by
  refine ⟨fun s u h3 hk hc => ⟨fun hp => ?resumes, fun p hp => ?enters⟩, fun s u h3 hc hh => ?ready, fun s u x h3 hc hh => ?held,
    fun s u h3 hk => ?halts, fun s u h3 => ?ends, fun t v => ⟨?offset, fun hk => ?saved⟩⟩
  case resumes =>
    rw [returned_self s u 0 h3, leave_resumes (t := handled s u) hc hp]
    exact ⟨rfl, rfl, handled_bank s u h3 hk, rfl⟩
  case enters =>
    have hb := handled_bank s u h3 hk
    have h := leave_enters_spec (t := handled s u) (k := (u.self.sel[0]).extractLsb' 10 2) rfl hk hc hp u.tick (u.quadAt u.cur).ganged
    rw [hb] at h
    rw [returned_self s u 0 h3]
    exact h
  case ready =>
    rw [returned_self s u 0 h3, leave_ready (t := handled s u) hc hh]
    exact ⟨rfl, rfl, rfl, fun k hk => handled_bank s u h3 hk⟩
  case held =>
    rw [returned_self s u 0 h3, leave_held (t := handled s u) hc hh]
    by_cases hx : x.run = 3
    · rw [if_pos hx]
      exact ⟨rfl, rfl, hx.symm, fun _ => ⟨bank_setBank (handled s u) 3 x.bank3, rfl, rfl⟩,
        fun k hk => (bank_setBank_other (handled s u) _ hk).trans (handled_bank s u h3 hk)⟩
    · rw [if_neg hx]
      exact ⟨rfl, rfl, rfl, fun h => absurd h hx, fun k hk => handled_bank s u h3 hk⟩
  case halts =>
    obtain ⟨hrun, hbank⟩ := leave_halts_bank (t := handled s u) (k := (u.self.sel[0]).extractLsb' 10 2) rfl u.tick (u.quadAt u.cur).ganged
    rw [handled_bank s u h3 hk] at hbank
    rw [returned_self s u 1 h3]
    refine ⟨hrun, ?_⟩
    rw [hbank]
    exact ⟨rfl, rfl, rfl, rfl, rfl, rfl, rfl⟩
  case ends =>
    rw [returned_self s u 2 h3, leave_ends]
    exact ⟨rfl, rfl, fun k hk => handled_bank s u h3 hk⟩
  case offset => exact (congrArg (·[1]) (setTrapOff_sel t v)).trans (Vector.getElem_set_self ..)
  case saved =>
    exact (congrArg (Tile.bank · _) (if_neg hk)).trans
      (bank_onBank { t with sel := t.sel.set 1 ((t.sel[1]).extractLsb' 32 32 ++ v) } _ fun b => { b with pc := v })

end Sys2Proof.Proofs.Exceptions
end

section
/-! PROOF. The supervisor's socket `sv`: the supervisor state, invalidations, the bound ASID, banks, capture blocks, the error word, the timer (R421 to R430). -/

namespace Sys2Proof.Proofs.Supervisor

open Sys2Proof Sys2Proof.Machine Sys2Proof.Laws Sys2Proof.Proofs.PlainTriggers

/-! ## Triggers of `sv` (R421) -/

section
variable {i : Instr} {h : Head} {o : Opnd} {f : Start → State → Option Bus × Bool × State} {ok : Start → State → Prop}
  (hs : specOf i = some (svSpec o f)) (hi : headOf i = some (h, none))
include hs hi

/-- A trigger of `sv` that is accepted. -/
theorem sv_accepts {x : Start → State → Option Bus} {u : Start → State → State} (hf : ∀ st s, ok st s → f st s = (x st s, true, u st s)) :
    Runs i h .sv (some o) ok (fun st s => landNext st { x := x st s, s := 1 } { st := u st s }) :=
  runsPlain_of hs hi rfl rfl Sock.noConfusion fun st s hok => by
    unfold svSpec
    dsimp only
    rw [hf st s hok]
    rfl

/-- A trigger of `sv` that is refused. -/
theorem sv_refuses {u : Start → State → State} (hf : ∀ st s, ok st s → f st s = (none, false, u st s)) :
    Runs i h .sv (some o) ok (fun st s => landNext st { s := 2 } { st := u st s }) :=
  runsPlain_of hs hi rfl rfl Sock.noConfusion fun st s hok => by
    unfold svSpec
    dsimp only
    rw [hf st s hok]
    rfl

end

/-- A bit that is clear decides a test as one that is not set. -/
theorem if_clear {α : Type} {b : Bool} (h : b = false) (x y : α) : (if b = true then x else y) = y := if_neg (Bool.eq_false_iff.mp h)

/-! ## `eret` and `cause` (R422, R423) -/

theorem eret_refused (h : Head) : Runs (.eret h) h .sv (some .opA) (fun st _ => busBits st.a 1 0 = 3) (fun st s => landNext st { s := 2 } { st := s }) :=
  runsPlain_of (sp := specEret) rfl rfl rfl rfl Sock.noConfusion fun st s hf => by
    unfold specEret
    dsimp only
    rw [if_pos hf, hf]
    rfl

theorem eret_accepted (h : Head) : Runs (.eret h) h .sv (some .opA) (fun st _ => busBits st.a 1 0 ≠ 3)
    (fun st s => { landNext st { s := 1 } { st := s } with eret := some (busBits st.a 1 0) }) :=
  runsPlain_of (sp := specEret) rfl rfl rfl rfl Sock.noConfusion fun st s hf => by
    have hok : svStatus (decide (busBits st.a 1 0 ≠ 3)) = 1 := if_pos (decide_eq_true hf)
    unfold specEret
    dsimp only
    rw [if_neg hf, hok]

theorem sel_getD (t : Tile) (n : Fin 4) : t.sel.toList.getD n 0 = t.sel[n] := by
  simp [List.getD_eq_getElem?_getD]

theorem cause_reads (h : Head) (n : Fin 4) : Runs (.cause h) h .sv (some .opA) (fun st _ => st.a.getLsbD 62 = false ∧ busBits st.a 1 0 = n)
    (fun st s => landNext st { x := some ((s.self.sel[n]).setWidth 512), s := 1 } { st := s }) :=
  sv_accepts rfl rfl fun st s ⟨hw, hn⟩ => (if_clear hw _ _).trans (by rw [hn, sel_getD])

theorem cause_writes (h : Head) : Runs (.cause h) h .sv (some .opA) (fun st _ => st.a.getLsbD 62 = true)
    (fun st s => landNext st { x := some ((s.self.sel[1]).setWidth 512), s := 1 } { st := s.onSelf fun t => t.setTrapOff (st.a.setWidth 32) }) :=
  sv_accepts rfl rfl fun _ _ hw => if_pos hw

/-! ## The bound ASID (R426) -/

theorem asid_reads (h : Head) : Runs (.asid h) h .sv (some .opA) (fun st _ => st.a.getLsbD 63 = true)
    (fun st s => landNext st { x := some (s.self.asid.setWidth 512), s := 1 } { st := s }) :=
  runsPlain_of (sp := specAsid) rfl rfl rfl rfl Sock.noConfusion fun _ _ hw => congrArg Except.ok (if_pos hw)

theorem asid_writes (h : Head) : Runs (.asid h) h .sv (some .opA) (fun st _ => st.a.getLsbD 63 = false)
    (fun st s => { landNext st { x := some (s.self.asid.setWidth 512), s := 1 } { st := s } with asid := some (st.a.setWidth 16) }) :=
  runsPlain_of (sp := specAsid) rfl rfl rfl rfl Sock.noConfusion fun _ _ hw => congrArg Except.ok (if_clear hw _ _)

/-- The tile that a bundle binds to an ASID. -/
theorem ended_asid (s u : State) (n : Half) :
    ∃ k, (s.ended { st := u, asid := some n }).self = { (WholeBundles.issuedTile s.self.blen { st := u }).bindAsid n with tasks := k } := by
  let w := (WholeBundles.issuedTile s.self.blen { st := u }).bindAsid n
  have hw : WholeBundles.endedTile s.self.blen { st := u, asid := some n } = w := rfl
  have he : s.ended { st := u, asid := some n } = finish s.self.blen { st := u, asid := some n } := rfl
  have haddr : w.addr = u.cur := tileAt_addr u u.cur
  rw [he, WholeBundles.finish_eq, hw]
  split
  · exact ⟨w.tasks, self_setTile u w haddr⟩
  · obtain ⟨k, hk⟩ := taskCycle_is w
    rw [hk]
    exact ⟨k, self_setTile u _ haddr⟩

theorem bindAsid_tid (t : Tile) (n : Half) :
    ((t.bindAsid n).tid[3]).setWidth 16 = n ∧ ((t.bindAsid n).tid[3]).extractLsb' 16 48 = (t.tid[3]).extractLsb' 16 48 := by
  have ht : (t.bindAsid n).tid[3] = (t.tid[3] >>> 16 <<< 16) ||| n.setWidth 64 := Vector.getElem_set_self ..
  rw [ht]
  generalize t.tid[3] = w
  constructor
  · ext i hi
    simp
  · ext i hi
    simp [show ¬ 16 + i < 16 by omega, show 16 + i < 64 by omega]

/-! ## The error word and the timer (R429, R430) -/

theorem errst_reads (h : Head) : Runs (.errst h) h .sv (some .opA) (fun st _ => st.a.getLsbD 0 = false)
    (fun st s => landNext st { x := some (s.self.errWord.setWidth 512), s := 1 } { st := s }) :=
  sv_accepts rfl rfl fun _ _ hw => congrArg (_, true, ·) (if_clear hw _ _)

theorem errst_clears (h : Head) : Runs (.errst h) h .sv (some .opA) (fun st _ => st.a.getLsbD 0 = true)
    (fun st s => landNext st { x := some (s.self.errWord.setWidth 512), s := 1 } { st := s.onSelf fun t => { t with errs := Vector.replicate 5 0 } }) :=
  sv_accepts rfl rfl fun _ _ hw => congrArg (_, true, ·) (if_pos hw)

theorem stmr_reads (h : Head) : Runs (.stmr h) h .sv (some .opA) (fun st _ => st.a.getLsbD 63 = true)
    (fun st s => landNext st { x := some (BitVec.ofNat 512 (s.self.timerLeft s.tick)), s := 1 } { st := s }) :=
  sv_accepts rfl rfl fun _ _ hw => congrArg (_, true, ·) (if_pos hw)

theorem stmr_writes (h : Head) : Runs (.stmr h) h .sv (some .opA) (fun st _ => st.a.getLsbD 63 = false)
    (fun st s => landNext st { x := some (BitVec.ofNat 512 (s.self.timerLeft s.tick)), s := 1 }
      { st := s.onSelf fun t => { t with stmr := if busBits st.a 47 0 = 0 then 0 else s.tick + busBits st.a 47 0 } }) :=
  sv_accepts rfl rfl fun _ _ hw => congrArg (_, true, ·) (if_clear hw _ _)

/-! ## Registers of another bank (R427) -/

/-- The operands of `bank` name register `n` of file `f` of the user bank `k`; `w` is its write bit. -/
def namesReg (k : BitVec 2) (n : BitVec 5) (f : Nat) (w : Bool) (st : Start) : Prop :=
  st.a.setWidth 2 = k ∧ k ≠ 3 ∧ busBits st.a 4 3 = f ∧ busBits st.a 9 5 = n.toNat ∧ st.a.getLsbD 2 = w

section
variable {k : BitVec 2} {n : BitVec 5} {f : Nat} {st : Start} {s : State}

theorem bank_run_refused (hr : st.a.setWidth 2 = (3 : BitVec 2) ∨ busBits st.a 4 3 = 3) :
    specBank.run st { st := s } = .ok (landNext st { s := 2 } { st := s }) := if_pos hr

/-- What is left of `bank` for a register that there is. -/
theorem bank_run_named {w : Bool} (hf : f < 3) (hn : namesReg k n f w st) : specBank.run st { st := s } =
    if w = true then .ok (landNext st { s := 1 } { st := s.onSelf fun t => t.bankWrite k f n.toNat st.b })
    else if regListed s.self.badRegs k f n.toNat = true then .error (.trap .dataUncorrectable 0 1)
    else .ok (landNext st { x := some (bankRead (s.self.bank k) f n.toNat s.free), s := 1 }
      { st := { s.regCorrect k [(f, n.toNat)] with free := s.free + 1 } }) := by
  obtain ⟨rfl, hk, rfl, hn, rfl⟩ := hn
  rw [← hn]
  exact if_neg (not_or.mpr ⟨hk, Nat.ne_of_lt hf⟩)

theorem bank_run_reads (hf : f < 3) (hn : namesReg k n f false st) (hb : regListed s.self.badRegs k f n.toNat = false) {x : Bus}
    (hx : bankRead (s.self.bank k) f n.toNat s.free = x) : specBank.run st { st := s } =
      .ok (landNext st { x := some x, s := 1 } { st := { s.regCorrect k [(f, n.toNat)] with free := s.free + 1 } }) := by
  rw [bank_run_named hf hn, if_neg Bool.false_ne_true, if_clear hb, hx]

end

theorem bankRead_guard {n : BitVec 5} (hn : n.toNat < 8) (b : Strand) (free : Nat) :
    bankRead b 2 n.toNat free = if b.getB (n.setWidth 3) then 1 else 0 := by
  rw [← BitVec.ofNat_toNat]
  exact if_neg (Nat.not_le.mpr hn)

/-- A write of a register clears its error (R140). -/
theorem bankWrite_sound (t : Tile) (k : BitVec 2) (f n : Nat) (v : Bus) :
    regListed (t.bankWrite k f n v).badRegs k f n = false ∧ regListed (t.bankWrite k f n v).softRegs k f n = false := by
  have hclear (l : List (Nat × Nat × Nat × Nat)) :
      regListed (l.filter fun e => !decide (e.1 = k.toNat ∧ e.2.1 = f ∧ e.2.2.1 = n)) k f n = false := by
    unfold regListed
    rw [List.any_eq_false]
    intro e he
    have hne := (List.mem_filter.mp he).2
    rw [Bool.not_eq_true'] at hne
    exact Bool.eq_false_iff.mp hne
  exact ⟨hclear _, hclear _⟩

/-- What a write to another bank makes of its strand. -/
theorem bankWrite_bank (t : Tile) (k : BitVec 2) (f n : Nat) (v : Bus) : (t.bankWrite k f n v).bank k =
    if f = 0 then (t.bank k).setG (BitVec.ofNat 5 n) (Bus.low v)
    else if f = 1 then (t.bank k).setV (BitVec.ofNat 5 n) v
    else if 8 ≤ n then t.bank k
    else (t.bank k).setB (BitVec.ofNat 3 n) (v.getLsbD 0) :=
  bank_onBank t k fun b =>
    if f = 0 then b.setG (BitVec.ofNat 5 n) (Bus.low v)
    else if f = 1 then b.setV (BitVec.ofNat 5 n) v
    else if 8 ≤ n then b
    else b.setB (BitVec.ofNat 3 n) (v.getLsbD 0)

theorem bankWrite_getG (t : Tile) (k : BitVec 2) (n : BitVec 5) (v : Bus) : ((t.bankWrite k 0 n.toNat v).bank k).getG n = v.setWidth 64 := by
  rw [bankWrite_bank, if_pos rfl, BitVec.ofNat_toNat, BitVec.setWidth_eq, getG_setG]
  rfl

theorem bankWrite_getV (t : Tile) (k : BitVec 2) (n : BitVec 5) (v : Bus) : ((t.bankWrite k 1 n.toNat v).bank k).getV n = v := by
  rw [bankWrite_bank, if_neg Nat.one_ne_zero, if_pos rfl, BitVec.ofNat_toNat, BitVec.setWidth_eq, getV_setV]

theorem bankWrite_getB (t : Tile) (k : BitVec 2) {n : BitVec 5} (v : Bus) (hn : n.toNat < 8) :
    ((t.bankWrite k 2 n.toNat v).bank k).getB (n.setWidth 3) = if n = 0 then true else v.getLsbD 0 := by
  have h0 : n.setWidth 3 = 0 ↔ n = 0 := by bv_omega
  rw [bankWrite_bank, if_neg (by decide), if_neg (by decide), if_neg (Nat.not_le.mpr hn), BitVec.ofNat_toNat, getB_setB]
  exact if_congr h0 rfl (if_pos rfl)

/-- Settles O42: each operation by what it computes, and by what its refusal leaves; the ASID and the registers by what is read after the write. -/
theorem supervisorOperations : Obligations.SupervisorOperations := by
  refine ⟨fun h => ⟨eret_refused h, eret_accepted h⟩, fun h n => ⟨cause_reads h n, cause_writes h⟩, fun h m => ?invalidations,
    fun h => ⟨asid_reads h, asid_writes h⟩, fun s u n => ?bound, fun h => ⟨errst_reads h, errst_clears h⟩, fun h => ⟨stmr_reads h, stmr_writes h⟩,
    fun h k n => ?banks,
    fun t k n v => ⟨bankWrite_getG t k n v, bankWrite_getV t k n v, bankWrite_getB t k v, fun f => bankWrite_sound t k f n.toNat v⟩⟩
  case invalidations =>
    exact ⟨sv_accepts rfl rfl fun _ _ _ => rfl, sv_accepts rfl rfl fun _ _ _ => rfl, sv_refuses rfl rfl fun _ _ hz => if_pos hz,
      sv_accepts rfl rfl fun _ _ hz => if_neg hz⟩
  case bound =>
    obtain ⟨k, hk⟩ := ended_asid s u n
    obtain ⟨hlow, hhigh⟩ := bindAsid_tid (WholeBundles.issuedTile s.self.blen { st := u }) n
    rw [hk]
    exact ⟨rfl, rfl, hlow, hhigh, rfl⟩
  case banks =>
    refine ⟨?refused, ?words, ?vectors, ?guards, fun f hf => ?uncorrectable, fun f hf => ?written⟩
    case refused => exact runsPlain_of (sp := specBank) rfl rfl rfl rfl Sock.noConfusion fun _ _ => bank_run_refused
    case words =>
      exact runsPlain_of (sp := specBank) rfl rfl rfl rfl Sock.noConfusion fun st s ⟨hn, hb⟩ =>
        bank_run_reads (by decide) hn hb (by rw [bankRead, if_pos rfl, BitVec.ofNat_toNat, BitVec.setWidth_eq])
    case vectors =>
      exact runsPlain_of (sp := specBank) rfl rfl rfl rfl Sock.noConfusion fun st s ⟨hn, hb⟩ =>
        bank_run_reads (by decide) hn hb (by rw [bankRead, if_neg Nat.one_ne_zero, if_pos rfl, BitVec.ofNat_toNat, BitVec.setWidth_eq])
    case guards =>
      exact runsPlain_of (sp := specBank) rfl rfl rfl rfl Sock.noConfusion fun st s ⟨hn, hb, h8⟩ =>
        bank_run_reads (by decide) hn hb (bankRead_guard h8 ..)
    case uncorrectable =>
      exact trapsPlain_of (sp := specBank) rfl rfl rfl rfl Sock.noConfusion fun st s ⟨hn, hb⟩ =>
        (bank_run_named hf hn).trans ((if_neg Bool.false_ne_true).trans (if_pos (Bool.eq_true_of_not_eq_false hb)))
    case written =>
      exact runsPlain_of (sp := specBank) rfl rfl rfl rfl Sock.noConfusion fun st s hn => (bank_run_named hf hn).trans (if_pos rfl)

/-! ## Capture blocks (R428) -/

theorem captureAddr_some_iff (st : Start) (a : Nat) : captureAddr st = some a ↔
    busBits st.a 31 0 = a ∧ a % 64 = 0 ∧ a + 0x4000 ≤ 0x60000 ∧ busBits st.b 1 0 ≠ 3 := by
  unfold captureAddr
  dsimp only
  split
  · next h => exact iff_of_false (Option.some_ne_none _ ∘ Eq.symm) (by rintro ⟨rfl, ha, hr, hb⟩; omega)
  · next h =>
    rw [Option.some_inj]
    exact ⟨by rintro rfl; omega, And.left⟩

/-- Settles O43: each of the two by its address, `shset` by its block as well. -/
theorem captureBlocks : Obligations.CaptureBlocks := by
  refine ⟨captureAddr_some_iff, fun h a k => ⟨?capRefused, ?captured, ?setRefused, ?blockRefused, ?uncorrectable, fun b => ?restored⟩⟩
  case capRefused => exact sv_refuses rfl rfl fun st s ha => by dsimp only; rw [ha]
  case captured => exact sv_accepts rfl rfl fun st s ⟨ha, hk⟩ => by subst hk; dsimp only; rw [ha]
  case setRefused => exact sv_refuses rfl rfl fun st s ha => by dsimp only; rw [ha]
  case blockRefused =>
    exact sv_refuses rfl rfl fun st s ⟨⟨ha, hk⟩, hb, hc⟩ => by
      subst hk
      dsimp only
      rw [ha]
      dsimp only
      rw [if_clear hb, hc]
  case uncorrectable =>
    exact sv_refuses rfl rfl fun st s ⟨⟨ha, hk⟩, hb⟩ => by
      dsimp only
      rw [ha]
      exact if_pos hb
  case restored =>
    exact sv_accepts rfl rfl fun st s ⟨⟨ha, hk⟩, hb, hc⟩ => by
      subst hk
      dsimp only
      rw [ha]
      dsimp only
      rw [if_clear hb, hc]

end Sys2Proof.Proofs.Supervisor
end

section
/-! PROOF. The replay socket `rp`: the digest, the log and the gate of a launch, the unit word, and how long their bundles stall (R454 to R460). -/

namespace Sys2Proof.Proofs.Replay

open Sys2Proof Sys2Proof.Machine Sys2Proof.Laws Sys2Proof.Proofs.PlainTriggers

/-! ## Triggers of `rp` (R454) -/

section
variable {i : Instr} {h : Head} {o : Option Opnd} {wait : Start → State → Bool} {f : Start → State → Option Bus × Bool × State} {ok : Start → State → Prop}
  (hs : specOf i = some (rpSpec o wait f)) (hi : headOf i = some (h, none))
include hs hi

/-- A trigger of `rp` that waits no longer and is accepted. -/
theorem rp_accepts {x : Start → State → Option Bus} {u : Start → State → State} (hw : ∀ st s, ok st s → wait st s = false)
    (hf : ∀ st s, ok st s → f st s = (x st s, true, u st s)) :
    Runs i h .rp o ok (fun st s => landNext st { x := x st s, s := 1 } { st := u st s }) :=
  runsPlain_of hs hi rfl rfl Sock.noConfusion fun st s hok => by
    unfold rpSpec
    dsimp only
    rw [hw st s hok, hf st s hok]
    rfl

/-- A trigger of `rp` that waits no longer and is refused. -/
theorem rp_refuses {x : Start → State → Option Bus} (hw : ∀ st s, ok st s → wait st s = false)
    (hf : ∀ st s, ok st s → f st s = (x st s, false, s)) :
    Runs i h .rp o ok (fun st s => landNext st { x := x st s, s := 2 } { st := s }) :=
  runsPlain_of hs hi rfl rfl Sock.noConfusion fun st s hok => by
    unfold rpSpec
    dsimp only
    rw [hw st s hok, hf st s hok]
    rfl

theorem rp_stalls (s : State) (v : Bus) (hf : Fires i h v s) (ha : Admits h .rp o v s) (hw : wait (s.starts h .rp o v) (s.latched h .rp o v) = true) :
    exec i s = .next (stallTick s.atBundle) :=
  stallsPlain_of (ok := fun st s => wait st s = true) hs hi rfl rfl Sock.noConfusion (fun _ _ hw => if_pos hw) s v hf ha hw

end

/-! ## Log and gate (R457, R459) -/

/-- The areas lie in the HBM of one die, and no gate of the launch is on. -/
def mayLog (s : State) (l : Dword) (base z : Nat) : Prop := areasOk base z = true ∧ s.logsOn l true = false

section
variable {s : State} {l : Dword} {base z : Nat}

theorem not_mayLog_iff : ¬mayLog s l base z ↔ (!areasOk base z) = true ∨ s.logsOn l true = true := by
  unfold mayLog
  rw [not_and_or, Bool.not_eq_true, Bool.not_eq_true', Bool.not_eq_false]

theorem logOn_same (h : mayLog s l base z) (hs : s.sameLog l base z = true) : s.logOn l base z = (true, s) :=
  (if_neg fun hx => not_mayLog_iff.mpr hx h).trans (if_pos hs)

theorem logOn_starts (h : mayLog s l base z) (hs : s.sameLog l base z = false) (ho : s.logsOn l false = false) :
    s.logOn l base z = (true, s.startLogs l base z) :=
  (if_neg fun hx => not_mayLog_iff.mpr hx h).trans ((if_neg (Bool.eq_false_iff.mp hs)).trans (if_neg (Bool.eq_false_iff.mp ho)))

theorem logOn_refused (h : ¬mayLog s l base z ∨ (s.sameLog l base z = false ∧ s.logsOn l false = true)) : s.logOn l base z = (false, s) := by
  by_cases hm : mayLog s l base z
  · obtain ⟨hs, ho⟩ := h.resolve_left (not_not.mpr hm)
    exact (if_neg fun hx => not_mayLog_iff.mpr hx hm).trans ((if_neg (Bool.eq_false_iff.mp hs)).trans (if_pos ho))
  · exact if_pos (not_mayLog_iff.mp hm)

/-- The gate is turned on where the areas pass and neither log nor gate of the launch is on. -/
theorem mayGate_iff : (mayLog s l base z ∧ s.logsOn l false = false) ↔ ¬((!areasOk base z) = true ∨ s.logsOn l false = true ∨ s.logsOn l true = true) := by
  unfold mayLog
  cases areasOk base z <;> cases s.logsOn l false <;> cases s.logsOn l true <;> decide

theorem gateOn_accepted {n : Nat} (h : mayLog s l base z ∧ s.logsOn l false = false) : (s.gateOn l base z n).1 = true := by
  unfold State.gateOn
  rw [if_neg (mayGate_iff.mp h)]

theorem gateOn_refused {n : Nat} (h : ¬(mayLog s l base z ∧ s.logsOn l false = false)) : s.gateOn l base z n = (false, s) :=
  if_pos (not_not.mp fun hx => h (mayGate_iff.mpr hx))

end

/-! ## Waiting (R457, R460) -/

theorem unitsWait_bounded {s : State} {f n : Nat} (hf : s.self.stallFrom = some f) (hn : f + n ≤ s.tick) : unitsWait (some n) s = false := by
  have hd := Nat.mod_lt (Config.delay (f * 2 ^ 20 + s.self.addr)) (show 0 < n + 1 from Nat.succ_pos n)
  unfold unitsWait
  dsimp only
  rw [hf, Option.getD_some, decide_eq_false_iff_not]
  omega

theorem unitsWait_finite {s : State} {f : Nat} (hf : s.self.stallFrom = some f) (hn : f + Config.delay (f * 2 ^ 20 + s.self.addr) ≤ s.tick) :
    unitsWait none s = false := by
  unfold unitsWait
  dsimp only
  rw [hf, Option.getD_some, decide_eq_false_iff_not]
  exact Nat.not_lt.mpr hn

/-- The phases before the trigger take no time. -/
theorem latched_tick (s : State) (h : Head) (k : Sock) (o : Option Opnd) (v : Bus) : (s.latched h k o v).tick = s.tick := by
  have hp : (s.passed h k).tick = s.tick := by
    unfold State.passed
    dsimp only
    split
    · rfl
    · exact (OneTile.inTile_mxIssueCycle ..).tick
  cases o <;> exact hp

/-- Settles O44, operation by operation: what it waits for, when it is accepted, and what it then does at the units. -/
theorem replayOperations : Obligations.ReplayOperations := by
  refine ⟨fun h => ?digest, fun h => ?logs, fun s f n => unitsWait_bounded, fun f a => ⟨Config.delay (f * 2 ^ 20 + a), fun s hf ha hn => ?finite⟩, fun h => ?word⟩
  case digest =>
    exact ⟨rp_accepts rfl rfl (fun _ _ => And.left) fun _ _ ⟨_, hb⟩ => congrArg (some ·, true, _) (if_neg (Bool.eq_false_iff.mp hb)),
      rp_accepts rfl rfl (fun _ _ => And.left) fun _ _ ⟨_, hb⟩ => congrArg (some ·, true, _) (if_pos hb),
      rp_accepts rfl rfl (fun _ _ => id) fun _ _ _ => rfl,
      fun s v hf ha hw => rp_stalls (i := .dgrd h) rfl rfl s v hf ha (by rwa [latched_tick]), fun s v hf ha hw => rp_stalls (i := .dgclr h) rfl rfl s v hf ha (by rwa [latched_tick])⟩
  case logs =>
    refine ⟨?same, ?starts, ?logRefused, ?off, ?gates, ?gateRefused, ?gateOff, ?onStalls, ?offStalls, ?gateStalls⟩
    case same => exact rp_accepts rfl rfl (fun _ _ => And.left) fun st s ⟨_, hon, hs⟩ => by rw [logOn_same hon hs]
    case starts => exact rp_accepts rfl rfl (fun _ _ => And.left) fun st s ⟨_, hon, hs, ho⟩ => by rw [logOn_starts hon hs ho]
    case logRefused => exact rp_refuses rfl rfl (fun _ _ => And.left) fun st s ⟨_, hx⟩ => by rw [logOn_refused hx]
    case off => exact rp_accepts rfl rfl (fun st s hx => Bool.and_eq_false_iff.mpr hx) fun _ _ _ => rfl
    case gates =>
      exact rp_accepts rfl rfl (fun st s ⟨hu, hb, _⟩ => Bool.or_eq_false_iff.mpr ⟨hu, hb⟩) fun st s ⟨_, _, hg⟩ => congrArg (none, ·, _) (gateOn_accepted hg)
    case gateRefused =>
      exact rp_refuses rfl rfl (fun st s ⟨hu, hb, _⟩ => Bool.or_eq_false_iff.mpr ⟨hu, hb⟩) fun st s ⟨_, _, hg⟩ => by rw [gateOn_refused hg]
    case gateOff => exact rp_accepts rfl rfl (fun _ _ _ => rfl) fun _ _ _ => rfl
    case onStalls => exact fun s v hf ha hw => rp_stalls (i := .logon h) rfl rfl s v hf ha hw
    case offStalls => exact fun s v hf ha hl hw => rp_stalls (i := .logoff h) rfl rfl s v hf ha (Bool.and_eq_true_iff.mpr ⟨hl, hw⟩)
    case gateStalls => exact fun s v hf ha hw => rp_stalls (i := .gateon h) rfl rfl s v hf ha (Bool.or_eq_true_iff.mpr hw)
  case finite =>
    subst ha
    exact unitsWait_finite hf hn
  case word =>
    exact ⟨rp_refuses rfl rfl (fun _ _ => And.left) fun _ _ ⟨_, hd⟩ => if_pos hd,
      rp_accepts rfl rfl (fun _ _ => And.left) fun st s ⟨_, hd, hf⟩ => if_neg (not_or.mpr ⟨Nat.not_le.mpr hd, Bool.eq_false_iff.mp hf⟩),
      fun s v hf ha hw => rp_stalls (i := .logst h) rfl rfl s v hf ha hw⟩

end Sys2Proof.Proofs.Replay
end

section
/-! PROOF. Semaphores and barrier objects in global memory: what each operation makes of their words (R352 to R359). -/

namespace Sys2Proof.Proofs.Barriers

open Sys2Proof Sys2Proof.Machine Sys2Proof.Laws

/-! ## Words of global memory -/

section
variable {s t : State} {a b n : Nat} {bs : List Byte}

theorem byteAt_gWrite_other (h : cellsWf s.mem = true) (hb : b < a ∨ a + bs.length ≤ b) : (s.gWrite a bs).byteAt b = s.byteAt b :=
  cellsRead_writeAll_other h hb

theorem wf_gWrite (h : cellsWf s.mem = true) (a : Nat) (bs : List Byte) : cellsWf (s.gWrite a bs).mem = true := cellsWf_writeAll h

/-- Words read alike where their bytes do. -/
theorem gRead_congr (h : ∀ x, a ≤ x → x < a + n → t.byteAt x = s.byteAt x) : t.gRead a n = s.gRead a n := by
  induction n generalizing a with
  | zero => rfl
  | succ n ih => exact congrArg₂ List.cons (h a (le_refl a) (by omega)) (ih fun x ha hx => h x (by omega) (by omega))

theorem dwordAt_congr (h : ∀ x, a ≤ x → x < a + 8 → t.byteAt x = s.byteAt x) : t.dwordAt a = s.dwordAt a :=
  congrArg leNat (gRead_congr h)

/-- A number that is written reads back. -/
theorem leNat_gRead_gWrite (h : cellsWf s.mem = true) (a v n : Nat) : leNat ((s.gWrite a (natLe v n)).gRead a n) = v % 2 ^ (8 * n) := by
  have hr := TileEvents.cellsReadAll_writeAll (bs := natLe v n) (a := a) h
  rw [Launches.natLe_length] at hr
  exact (congrArg leNat hr).trans (LocalMemory.leNat_natLe v n)

theorem byteAt_gWrite_zeros (h : cellsWf s.mem = true) {x k : Nat} (ha : a ≤ x) (hx : x < a + k) :
    (s.gWrite a (List.replicate k 0)).byteAt x = 0 := by
  show cellsRead (cellsWriteAll s.mem a (List.replicate k 0)) x = 0
  generalize s.mem = m at h
  induction k generalizing m a with
  | zero => omega
  | succ k ih =>
    have hw := cellsWf_write (a := a) (v := 0) h
    rw [List.replicate_succ, cellsWriteAll]
    by_cases he : x = a
    · rw [cellsRead_writeAll_other hw (.inl (by omega)), cellsRead_write h, if_pos he]
    · exact ih (by omega) (by omega) _ hw

/-- Consecutive writes are one write. -/
theorem mem_gWrite_append (s : State) (a : Nat) (bs cs : List Byte) :
    (s.gWrite a (bs ++ cs)).mem = ((s.gWrite a bs).gWrite (a + bs.length) cs).mem := by
  show cellsWriteAll s.mem a (bs ++ cs) = cellsWriteAll (cellsWriteAll s.mem a bs) (a + bs.length) cs
  generalize s.mem = m
  induction bs generalizing m a with
  | nil => rfl
  | cons x xs ih =>
    rw [List.cons_append, cellsWriteAll, ih, cellsWriteAll, List.length_cons, Nat.add_right_comm, ← Nat.add_assoc]

theorem leNat_lt : ∀ bs : List Byte, leNat bs < 2 ^ (8 * bs.length)
  | [] => by decide
  | b :: bs => by
    have ih := leNat_lt bs
    have hb := b.isLt
    have hp : 2 ^ (8 * (bs.length + 1)) = 256 * 2 ^ (8 * bs.length) := by rw [Nat.mul_succ, Nat.pow_add, Nat.mul_comm]
    rw [leNat, List.length_cons, hp]
    omega

theorem gRead_length (s : State) (a n : Nat) : (s.gRead a n).length = n := by
  show (cellsReadAll s.mem a n).length = n
  induction n generalizing a with
  | zero => rfl
  | succ n ih => exact congrArg Nat.succ (ih (a + 1))

theorem leNat_gRead_lt (s : State) (a n : Nat) : leNat (s.gRead a n) < 2 ^ (8 * n) := by
  have h := leNat_lt (s.gRead a n)
  rwa [gRead_length] at h

theorem leNat_gRead_zero (h : ∀ x, a ≤ x → x < a + n → s.byteAt x = 0) : leNat (s.gRead a n) = 0 := by
  induction n generalizing a with
  | zero => rfl
  | succ n ih =>
    have hhead : s.byteAt a = 0 := h a (le_refl a) (by omega)
    have htail : leNat (s.gRead (a + 1) n) = 0 := ih fun x hx hx' => h x (by omega) (by omega)
    show (s.byteAt a).toNat + 256 * leNat (s.gRead (a + 1) n) = 0
    rw [hhead, htail]
    rfl

end

/-! ## Sets of bits (R356) -/

theorem setBit?_eq_testBit (s : State) (base i : Nat) : s.setBit? base i = (s.dwordAt (base + 8 * (i / 64))).testBit (i % 64) := by
  have h1 : i % 64 + 1 - i % 64 = 1 := by omega
  unfold State.setBit? bits
  rw [h1, Nat.pow_one, Nat.testBit_eq_decide_div_mod_eq]
  rfl

theorem setBit?_putBit {s : State} (h : cellsWf s.mem = true) (base i : Nat) : (s.putBit base i).setBit? base i = true := by
  rw [setBit?_eq_testBit]
  unfold State.putBit
  dsimp only
  rw [TileEvents.dwordAt_gWrite h, Nat.testBit_mod_two_pow, Nat.testBit_or, Nat.testBit_two_pow_self, Bool.or_true, Bool.and_true]
  exact decide_eq_true (Nat.mod_lt i (by decide))

theorem setBit?_congr {s t : State} {base i : Nat} (h : ∀ x, base + 8 * (i / 64) ≤ x → x < base + 8 * (i / 64) + 8 → t.byteAt x = s.byteAt x) :
    t.setBit? base i = s.setBit? base i := by
  rw [setBit?_eq_testBit, setBit?_eq_testBit, dwordAt_congr h]

theorem wf_putBit {s : State} (h : cellsWf s.mem = true) (base i : Nat) : cellsWf (s.putBit base i).mem = true := wf_gWrite h ..

theorem byteAt_putBit_other {s : State} (h : cellsWf s.mem = true) {base i x : Nat} (hx : x < base + 8 * (i / 64) ∨ base + 8 * (i / 64) + 8 ≤ x) :
    (s.putBit base i).byteAt x = s.byteAt x :=
  byteAt_gWrite_other h (by rwa [Launches.natLe_length])

/-! ## The words of a barrier object (R356, R358) -/

/-- Participants, expected and arrived strands of the barrier object at an address, and its phase. -/
def barN (s : State) (pa : Nat) : Nat := leNat (s.gRead pa 4)
def barE (s : State) (pa : Nat) : Nat := leNat (s.gRead (pa + 4) 4)
def barA (s : State) (pa : Nat) : Nat := leNat (s.gRead (pa + 8) 4)
def barPhase (s : State) (pa : Nat) : Nat := s.dwordAt (pa + 16)

/-- A phase has ended: it counts on, no strand has arrived, and nothing but these words and the set of arrivals has changed. -/
structure PhaseOver (s t : State) (pa w : Nat) : Prop where
  phase : barPhase t pa = (barPhase s pa + 1) % 2 ^ 64
  none : barA t pa = 0
  set : ∀ a, a < 8 * w → t.byteAt (pa + 0x20 + 8 * w + a) = 0
  expected : barE t pa = barE s pa
  rest : ∀ x, x < pa ∨ pa + 24 ≤ x ∧ x < pa + 0x20 + 8 * w ∨ pa + 0x20 + 16 * w ≤ x → t.byteAt x = s.byteAt x

theorem phaseEnd_over {s : State} {pa n : Nat} (h : cellsWf s.mem = true) (he : barE s pa ≤ barA s pa) :
    ∃ t, s.phaseEnd pa n = (t, true) ∧ PhaseOver s t pa ((n + 63) / 64) := by
  let w := (n + 63) / 64
  let s1 := s.gWrite (pa + 16) (natLe ((s.dwordAt (pa + 16) + 1) % 2 ^ 64) 8)
  let s2 := s1.gWrite (pa + 8) (natLe 0 4)
  let s3 := s2.gWrite (pa + 0x20 + 8 * w) (List.replicate (8 * w) 0)
  have h1 : cellsWf s1.mem = true := wf_gWrite h ..
  have h2 : cellsWf s2.mem = true := wf_gWrite h1 ..
  have hb1 : ∀ x, x < pa + 16 ∨ pa + 24 ≤ x → s1.byteAt x = s.byteAt x := fun x hx =>
    byteAt_gWrite_other h (by rw [Launches.natLe_length]; omega)
  have hb2 : ∀ x, x < pa + 8 ∨ pa + 12 ≤ x → s2.byteAt x = s1.byteAt x := fun x hx =>
    byteAt_gWrite_other h1 (by rw [Launches.natLe_length]; omega)
  have hb3 : ∀ x, x < pa + 0x20 + 8 * w ∨ pa + 0x20 + 16 * w ≤ x → s3.byteAt x = s2.byteAt x := fun x hx =>
    byteAt_gWrite_other h2 (by rw [List.length_replicate]; omega)
  refine ⟨s3, if_pos he, ?phase, ?none, fun a ha => byteAt_gWrite_zeros h2 (by omega) (by omega), ?expected, fun x hx => ?rest⟩
  case phase =>
    have hd : s1.dwordAt (pa + 16) = _ := TileEvents.dwordAt_gWrite h ..
    rw [Nat.mod_mod] at hd
    exact (dwordAt_congr fun x hx hx' => (hb3 x (by omega)).trans (hb2 x (by omega))).trans hd
  case none => exact (congrArg leNat (gRead_congr fun x hx hx' => hb3 x (by omega))).trans (leNat_gRead_gWrite h1 (pa + 8) 0 4)
  case expected =>
    exact congrArg leNat (gRead_congr fun x hx hx' => (hb3 x (by omega)).trans ((hb2 x (by omega)).trans (hb1 x (by omega))))
  case rest => exact (hb3 x (by omega)).trans ((hb2 x (by omega)).trans (hb1 x (by omega)))

theorem phaseEnd_later {s : State} {pa : Nat} (n : Nat) (he : barA s pa < barE s pa) : s.phaseEnd pa n = (s, false) := if_neg (Nat.not_le.mpr he)

/-- What the end of `arrive` and `drop` makes of the barrier object once the strand is marked there: the phase ends, or nothing changes. -/
theorem phaseEnd_spec {s : State} (pa n : Nat) (h : cellsWf s.mem = true) : ∃ t, s.phaseEnd pa n = (t, decide (barE s pa ≤ barA s pa))
    ∧ (barE s pa ≤ barA s pa → PhaseOver s t pa ((n + 63) / 64)) ∧ (barA s pa < barE s pa → t = s) := by
  by_cases he : barE s pa ≤ barA s pa
  · obtain ⟨t, ht, hover⟩ := phaseEnd_over (n := n) h he
    exact ⟨t, by rw [ht, decide_eq_true he], fun _ => hover, fun hlt => absurd he (Nat.not_le.mpr hlt)⟩
  · exact ⟨s, by rw [phaseEnd_later n (Nat.not_le.mp he), decide_eq_false he], fun hle => absurd hle he, fun _ => rfl⟩

/-! ## Semaphores (R352 to R355) -/

section
variable (s : State) (pa v : Nat)

theorem syncOp_raise : s.syncOp pa 0 v = if s.dwordAt pa < v ∧ v < 2 ^ 64 then .done (s.gWrite pa (natLe v 8)) 0 false (some v) else .fault .semRange 0 := by
  have h0 : s.syncOp pa 0 v = if v ≤ s.dwordAt pa ∨ 2 ^ 64 ≤ v then .fault .semRange 0 else .done (s.gWrite pa (natLe v 8)) 0 false (some v) := rfl
  rw [h0]
  by_cases hv : s.dwordAt pa < v ∧ v < 2 ^ 64
  · rw [if_pos hv, if_neg (by omega)]
  · rw [if_neg hv, if_pos (by omega)]

theorem syncOp_add : s.syncOp pa 1 v =
    if 0 < v ∧ s.dwordAt pa + v < 2 ^ 64 then .done (s.gWrite pa (natLe (s.dwordAt pa + v) 8)) 0 false (some (s.dwordAt pa + v)) else .fault .semRange 0 := by
  have h1 : s.syncOp pa 1 v = if s.dwordAt pa + v ≤ s.dwordAt pa ∨ 2 ^ 64 ≤ s.dwordAt pa + v then .fault .semRange 0
      else .done (s.gWrite pa (natLe (s.dwordAt pa + v) 8)) 0 false (some (s.dwordAt pa + v)) := rfl
  rw [h1]
  by_cases hv : 0 < v ∧ s.dwordAt pa + v < 2 ^ 64
  · rw [if_pos hv, if_neg (by omega)]
  · rw [if_neg hv, if_pos (by omega)]

theorem syncOp_wait : s.syncOp pa 2 v = if v ≤ s.dwordAt pa then .done s (s.dwordAt pa) false none else .wait := rfl

theorem syncOp_take (hv : 0 < v) : s.syncOp pa 3 v =
    if v ≤ s.dwordAt pa then .done (s.gWrite pa (natLe (s.dwordAt pa - v) 8)) (s.dwordAt pa) false (some (s.dwordAt pa - v)) else .fault .semUnderflow 0 := by
  have h3 : s.syncOp pa 3 v = if s.dwordAt pa < v then .fault .semUnderflow 0
      else .done (if v = 0 then s else s.gWrite pa (natLe (s.dwordAt pa - v) 8)) (s.dwordAt pa) false (some (s.dwordAt pa - v)) := rfl
  rw [h3, if_neg (Nat.ne_of_gt hv)]
  by_cases hle : v ≤ s.dwordAt pa
  · rw [if_pos hle, if_neg (Nat.not_lt.mpr hle)]
  · rw [if_neg hle, if_pos (Nat.not_le.mp hle)]

end

/-! ## Barrier objects (R356 to R359) -/

/-- `binit` writes the counts, and zeros over the rest of the object. -/
theorem syncOp_init {s : State} {v : Nat} (pa : Nat) (hv : v ≤ 4096) : s.syncOp pa 4 v =
    .done (s.gWrite pa (natLe v 4 ++ (natLe v 4 ++ List.replicate (24 + 16 * ((v + 63) / 64)) 0))) 0 false none := by
  have h4 : s.syncOp pa 4 v =
      .done (s.gWrite pa (natLe (v % 2 ^ 32) 4 ++ natLe (v % 2 ^ 32) 4 ++ List.replicate (24 + 16 * ((v % 2 ^ 32 + 63) / 64)) 0)) 0 false none := rfl
  rw [h4, Nat.mod_eq_of_lt (by omega), List.append_assoc]

/-- The object that `binit` leaves. -/
theorem init_object {s : State} {v : Nat} (pa : Nat) (hv : v ≤ 4096) (h : cellsWf s.mem = true) : ∃ t, s.syncOp pa 4 v = .done t 0 false none
    ∧ barN t pa = v ∧ barE t pa = v ∧ barA t pa = 0 ∧ barPhase t pa = 0
    ∧ (∀ a, 32 ≤ a → a < 32 + 16 * ((v + 63) / 64) → t.byteAt (pa + a) = 0)
    ∧ ∀ a, a < pa ∨ pa + 32 + 16 * ((v + 63) / 64) ≤ a → t.byteAt a = s.byteAt a := by
  let k := 24 + 16 * ((v + 63) / 64)
  let s1 := s.gWrite pa (natLe v 4)
  let s2 := s1.gWrite (pa + 4) (natLe v 4)
  let s3 := s2.gWrite (pa + 8) (List.replicate k 0)
  let t := s.gWrite pa (natLe v 4 ++ (natLe v 4 ++ List.replicate k 0))
  have h1 : cellsWf s1.mem = true := wf_gWrite h ..
  have h2 : cellsWf s2.mem = true := wf_gWrite h1 ..
  have hmem : t.mem = s3.mem := by
    rw [show t.mem = (s1.gWrite (pa + (natLe v 4).length) (natLe v 4 ++ List.replicate k 0)).mem from mem_gWrite_append ..,
      mem_gWrite_append, Launches.natLe_length]
  have hbyte (x : Nat) : t.byteAt x = s3.byteAt x := congrArg (cellsRead · x) hmem
  have hzero (x : Nat) (hx : pa + 8 ≤ x) (hx' : x < pa + 8 + k) : t.byteAt x = 0 := (hbyte x).trans (byteAt_gWrite_zeros h2 hx hx')
  have hb3 (x : Nat) (hx : x < pa + 8 ∨ pa + 8 + k ≤ x) : t.byteAt x = s2.byteAt x :=
    (hbyte x).trans (byteAt_gWrite_other h2 (by rwa [List.length_replicate]))
  have hb2 (x : Nat) (hx : x < pa + 4 ∨ pa + 8 ≤ x) : s2.byteAt x = s1.byteAt x := byteAt_gWrite_other h1 (by rw [Launches.natLe_length]; omega)
  have hb1 (x : Nat) (hx : x < pa ∨ pa + 4 ≤ x) : s1.byteAt x = s.byteAt x := byteAt_gWrite_other h (by rw [Launches.natLe_length]; omega)
  have hv32 : v % 2 ^ (8 * 4) = v := Nat.mod_eq_of_lt (by omega)
  have hzeros (a n : Nat) (ha : pa + 8 ≤ a) (hn : a + n ≤ pa + 8 + k) : leNat (t.gRead a n) = 0 :=
    leNat_gRead_zero fun x hx hx' => hzero x (by omega) (by omega)
  refine ⟨t, syncOp_init pa hv, ?count, ?expected, hzeros (pa + 8) 4 (by omega) (by omega), hzeros (pa + 16) 8 (by omega) (by omega),
    fun a ha ha' => hzero _ (by omega) (by omega), fun x hx => (hb3 x (by omega)).trans ((hb2 x (by omega)).trans (hb1 x (by omega)))⟩
  case count =>
    exact (congrArg leNat (gRead_congr fun x hx hx' => (hb3 x (by omega)).trans (hb2 x (by omega)))).trans ((leNat_gRead_gWrite h pa v 4).trans hv32)
  case expected =>
    exact (congrArg leNat (gRead_congr fun x hx hx' => hb3 x (by omega))).trans ((leNat_gRead_gWrite h1 (pa + 4) v 4).trans hv32)

/-- A strand is marked in the set of arrivals, and counted (R357). -/
def arrived (s : State) (pa i : Nat) : State :=
  let u := s.putBit (pa + 0x20 + 8 * ((barN s pa + 63) / 64)) i
  u.gWrite (pa + 8) (natLe ((barA u pa + 1) % 2 ^ 32) 4)

/-- A strand is marked as dropped, and expected no more (R359). -/
def dropped (s : State) (pa i : Nat) : State :=
  let u := s.putBit (pa + 0x20) i
  u.gWrite (pa + 4) (natLe ((barE u pa + 2 ^ 32 - 1) % 2 ^ 32) 4)

/-- The strand is in neither set of the barrier object. -/
def Absent (s : State) (pa i : Nat) : Prop :=
  s.setBit? (pa + 0x20) i = false ∧ s.setBit? (pa + 0x20 + 8 * ((barN s pa + 63) / 64)) i = false

section
variable {s : State} {pa i : Nat}

theorem counts_ok (hn : 1 ≤ barN s pa) (hn' : barN s pa ≤ 4096) : ¬((barN s pa == 0 || decide (4096 < barN s pa)) = true) := by
  rw [Bool.or_eq_true, beq_iff_eq, decide_eq_true_eq]
  omega

theorem not_absent_iff : ¬Absent s pa i ↔ s.setBit? (pa + 0x20) i = true ∨ s.setBit? (pa + 0x20 + 8 * ((barN s pa + 63) / 64)) i = true := by
  unfold Absent
  rw [not_and_or, Bool.not_eq_false, Bool.not_eq_false]

/-- The operations on an object whose count is sound: that of `bwait`, and those that mark a strand. -/
theorem syncOp_object {op v : Nat} (hop : 5 ≤ op) (hn : 1 ≤ barN s pa) (hn' : barN s pa ≤ 4096) (hv : v % 2 ^ 32 = i) : s.syncOp pa op v =
    if op = 7 then if barPhase s pa ≠ v then .done s (barPhase s pa) false none else .wait
    else if barN s pa ≤ i ∨ s.setBit? (pa + 0x20) i = true ∨ s.setBit? (pa + 0x20 + 8 * ((barN s pa + 63) / 64)) i = true then .fault .barrierOverarrival i
    else if op = 5 then .done ((arrived s pa i).phaseEnd pa (barN s pa)).1 (barPhase s pa) ((arrived s pa i).phaseEnd pa (barN s pa)).2 none
    else .done ((dropped s pa i).phaseEnd pa (barN s pa)).1 0 ((dropped s pa i).phaseEnd pa (barN s pa)).2 none := by
  have hok := counts_ok hn hn'
  unfold State.syncOp arrived dropped barN barE barA barPhase at *
  dsimp only
  rw [if_neg (by omega), if_neg (by omega), if_neg (by omega), if_neg (by omega), if_neg hok, hv]

/-- `arrive` and `drop` for a strand that is not in the object, as codes 5 and 6 of `syncOp`. -/
theorem syncOp_marks (hn : 1 ≤ barN s pa) (hn' : barN s pa ≤ 4096) (hi : i < barN s pa) (ha : Absent s pa i) :
    s.syncOp pa 5 i = .done ((arrived s pa i).phaseEnd pa (barN s pa)).1 (barPhase s pa) ((arrived s pa i).phaseEnd pa (barN s pa)).2 none
      ∧ s.syncOp pa 6 i = .done ((dropped s pa i).phaseEnd pa (barN s pa)).1 0 ((dropped s pa i).phaseEnd pa (barN s pa)).2 none := by
  have hmod : i % 2 ^ 32 = i := Nat.mod_eq_of_lt (by omega)
  have hpass := not_or.mpr ⟨Nat.not_le.mpr hi, fun hx => not_absent_iff.mpr hx ha⟩
  constructor
  · rw [syncOp_object (by decide) hn hn' hmod, if_neg (by decide), if_neg hpass, if_pos rfl]
  · rw [syncOp_object (by decide) hn hn' hmod, if_neg (by decide), if_neg hpass, if_neg (by decide)]

theorem syncOp_overarrival (hn : 1 ≤ barN s pa) (hn' : barN s pa ≤ 4096) (hi : i < 2 ^ 32) (ha : barN s pa ≤ i ∨ ¬Absent s pa i) :
    s.syncOp pa 5 i = .fault .barrierOverarrival i ∧ s.syncOp pa 6 i = .fault .barrierOverarrival i := by
  have hmod : i % 2 ^ 32 = i := Nat.mod_eq_of_lt hi
  have hover := ha.imp_right not_absent_iff.mp
  constructor
  · rw [syncOp_object (by decide) hn hn' hmod, if_neg (by decide), if_pos hover]
  · rw [syncOp_object (by decide) hn hn' hmod, if_neg (by decide), if_pos hover]

theorem syncOp_phase (v : Nat) (hn : 1 ≤ barN s pa) (hn' : barN s pa ≤ 4096) :
    s.syncOp pa 7 v = if barPhase s pa = v then .wait else .done s (barPhase s pa) false none := by
  rw [syncOp_object (by decide) hn hn' rfl, if_pos rfl]
  exact ite_not ..

/-- An arrival: the strand is in the set, one more has arrived, and nothing else of the object or of memory has changed. -/
theorem arrived_spec (h : cellsWf s.mem = true) (hi : i < barN s pa) (ha : barA s pa + 1 < 2 ^ 32) :
    let w := (barN s pa + 63) / 64
    cellsWf (arrived s pa i).mem = true ∧ (arrived s pa i).setBit? (pa + 0x20 + 8 * w) i = true ∧ barA (arrived s pa i) pa = barA s pa + 1
      ∧ ∀ x, x < pa + 8 ∨ pa + 12 ≤ x ∧ x < pa + 0x20 + 8 * w ∨ pa + 0x20 + 16 * w ≤ x → (arrived s pa i).byteAt x = s.byteAt x := by
  intro w
  let u := s.putBit (pa + 0x20 + 8 * w) i
  have hu : cellsWf u.mem = true := wf_putBit h ..
  have hbu (x : Nat) (hx : x < pa + 0x20 + 8 * w ∨ pa + 0x20 + 16 * w ≤ x) : u.byteAt x = s.byteAt x := byteAt_putBit_other h (by omega)
  have hbt (x : Nat) (hx : x < pa + 8 ∨ pa + 12 ≤ x) : (arrived s pa i).byteAt x = u.byteAt x :=
    byteAt_gWrite_other hu (by rw [Launches.natLe_length]; omega)
  have hcount : barA u pa = barA s pa := congrArg leNat (gRead_congr fun x hx hx' => hbu x (by omega))
  have hmod : (barA u pa + 1) % 2 ^ 32 % 2 ^ (8 * 4) = barA s pa + 1 := by rw [hcount]; omega
  exact ⟨wf_gWrite hu .., (setBit?_congr fun x hx hx' => hbt x (by omega)).trans (setBit?_putBit h ..),
    (leNat_gRead_gWrite hu (pa + 8) _ 4).trans hmod, fun x hx => (hbt x (by omega)).trans (hbu x (by omega))⟩

/-- A drop: the strand is in the set of those dropped, one fewer is expected, and nothing else of the object or of memory has changed. -/
theorem dropped_spec (h : cellsWf s.mem = true) (hi : i < barN s pa) (he : 0 < barE s pa) :
    let w := (barN s pa + 63) / 64
    cellsWf (dropped s pa i).mem = true ∧ (dropped s pa i).setBit? (pa + 0x20) i = true ∧ barE (dropped s pa i) pa = barE s pa - 1
      ∧ ∀ x, x < pa + 4 ∨ pa + 8 ≤ x ∧ x < pa + 0x20 ∨ pa + 0x20 + 8 * w ≤ x → (dropped s pa i).byteAt x = s.byteAt x := by
  intro w
  let u := s.putBit (pa + 0x20) i
  have hu : cellsWf u.mem = true := wf_putBit h ..
  have hbu (x : Nat) (hx : x < pa + 0x20 ∨ pa + 0x20 + 8 * w ≤ x) : u.byteAt x = s.byteAt x := byteAt_putBit_other h (by omega)
  have hbt (x : Nat) (hx : x < pa + 4 ∨ pa + 8 ≤ x) : (dropped s pa i).byteAt x = u.byteAt x :=
    byteAt_gWrite_other hu (by rw [Launches.natLe_length]; omega)
  have hcount : barE u pa = barE s pa := congrArg leNat (gRead_congr fun x hx hx' => hbu x (by omega))
  have hlt : barE s pa < 2 ^ 32 := leNat_gRead_lt s (pa + 4) 4
  have hmod : (barE u pa + 2 ^ 32 - 1) % 2 ^ 32 % 2 ^ (8 * 4) = barE s pa - 1 := by rw [hcount]; omega
  exact ⟨wf_gWrite hu .., (setBit?_congr fun x hx hx' => hbt x (by omega)).trans (setBit?_putBit h ..),
    (leNat_gRead_gWrite hu (pa + 4) _ 4).trans hmod, fun x hx => (hbt x (by omega)).trans (hbu x (by omega))⟩

/-- `arrive`, with the end of the phase where the strand is the last one expected (R357, R358). -/
theorem syncOp_arrive (h : cellsWf s.mem = true) (hn : 1 ≤ barN s pa) (hn' : barN s pa ≤ 4096) (hi : i < barN s pa) (ha : Absent s pa i)
    (hmax : barA s pa + 1 < 2 ^ 32) : let w := (barN s pa + 63) / 64
    ∃ t, (∀ a, a < pa ∨ pa + 32 + 16 * w ≤ a → t.byteAt a = s.byteAt a)
      ∧ s.syncOp pa 5 i = .done t (barPhase s pa) (decide (barE s pa ≤ barA s pa + 1)) none
      ∧ (barE s pa ≤ barA s pa + 1 → barPhase t pa = (barPhase s pa + 1) % 2 ^ 64 ∧ barA t pa = 0
        ∧ ∀ a, a < 8 * w → t.byteAt (pa + 0x20 + 8 * w + a) = 0)
      ∧ (barA s pa + 1 < barE s pa → t.setBit? (pa + 0x20 + 8 * w) i = true ∧ barA t pa = barA s pa + 1 ∧ barPhase t pa = barPhase s pa) := by
  intro w
  obtain ⟨hu, hset, hcount, hrest⟩ := arrived_spec h hi hmax
  have hexp : barE (arrived s pa i) pa = barE s pa := congrArg leNat (gRead_congr fun x hx hx' => hrest x (by omega))
  have hphase : barPhase (arrived s pa i) pa = barPhase s pa := dwordAt_congr fun x hx hx' => hrest x (by omega)
  obtain ⟨t, ht, hover, hsame⟩ := phaseEnd_spec pa (barN s pa) hu
  rw [hexp, hcount] at ht hover hsame
  refine ⟨t, fun x hx => ?_, ?_, fun he => ?_, fun he => ?_⟩
  · rcases Nat.lt_or_ge (barA s pa + 1) (barE s pa) with he | he
    · rw [hsame he]
      exact hrest x (by omega)
    · exact ((hover he).rest x (by omega)).trans (hrest x (by omega))
  · rw [(syncOp_marks hn hn' hi ha).1, ht]
  · obtain ⟨hp, hz, hs, -, -⟩ := hover he
    exact ⟨hp.trans (by rw [hphase]), hz, hs⟩
  · rw [hsame he]
    exact ⟨hset, hcount, hphase⟩

/-- `drop`, with the end of the phase where the strands that have arrived are all that are left (R358, R359). -/
theorem syncOp_drop (h : cellsWf s.mem = true) (hn : 1 ≤ barN s pa) (hn' : barN s pa ≤ 4096) (hi : i < barN s pa) (ha : Absent s pa i)
    (he0 : 0 < barE s pa) : let w := (barN s pa + 63) / 64
    ∃ t, (∀ a, a < pa ∨ pa + 32 + 16 * w ≤ a → t.byteAt a = s.byteAt a)
      ∧ s.syncOp pa 6 i = .done t 0 (decide (barE s pa - 1 ≤ barA s pa)) none
      ∧ t.setBit? (pa + 0x20) i = true ∧ barE t pa = barE s pa - 1
      ∧ (barE s pa - 1 ≤ barA s pa → barPhase t pa = (barPhase s pa + 1) % 2 ^ 64 ∧ barA t pa = 0
        ∧ ∀ a, a < 8 * w → t.byteAt (pa + 0x20 + 8 * w + a) = 0)
      ∧ (barA s pa < barE s pa - 1 → barA t pa = barA s pa ∧ barPhase t pa = barPhase s pa) := by
  intro w
  obtain ⟨hu, hset, hexp, hrest⟩ := dropped_spec h hi he0
  have hcount : barA (dropped s pa i) pa = barA s pa := congrArg leNat (gRead_congr fun x hx hx' => hrest x (by omega))
  have hphase : barPhase (dropped s pa i) pa = barPhase s pa := dwordAt_congr fun x hx hx' => hrest x (by omega)
  obtain ⟨t, ht, hover, hsame⟩ := phaseEnd_spec pa (barN s pa) hu
  rw [hexp, hcount] at ht hover hsame
  have hend := (syncOp_marks hn hn' hi ha).2
  rw [ht] at hend
  rcases Nat.lt_or_ge (barA s pa) (barE s pa - 1) with he | he
  · obtain rfl := hsame he
    exact ⟨dropped s pa i, fun x hx => hrest x (by omega), hend, hset, hexp, fun hx => absurd he (Nat.not_lt.mpr hx), fun _ => ⟨hcount, hphase⟩⟩
  · obtain ⟨hp, hz, hs, hx, hr⟩ := hover he
    exact ⟨t, fun x hx => (hr x (by omega)).trans (hrest x (by omega)), hend,
      (setBit?_congr fun x hx hx' => hr x (by omega)).trans hset, hx.trans hexp, fun _ => ⟨hp.trans (by rw [hphase]), hz, hs⟩,
      fun hx => absurd hx (Nat.not_lt.mpr he)⟩

end

end Sys2Proof.Proofs.Barriers
end

section
/-! PROOF. The synchronisation socket `sy`: what its triggers queue, which of their checks trap, and what the operations do at the head of the queue, at their unit and as they land (R343 to R361). -/

namespace Sys2Proof.Proofs.Sync

open Sys2Proof Sys2Proof.Machine Sys2Proof.Laws Sys2Proof.Proofs.PlainTriggers Sys2Proof.Proofs.PerformedOps Sys2Proof.Proofs.Barriers

/-! ## Bells (R343, R346) -/

section
variable {i : Instr} {h : Head} {kind : OpKind} {lev : BitVec 3} {run : Bool}
  (hs : specOf i = some (bellSpec kind lev run)) (hi : headOf i = some (h, none))
include hs hi

theorem bell_queues : Queues i h .sy none (fun st s => st.bank = 0 ∧ ¬(run = true ∧ lev.toNat ≤ 1 ∧ s.self.sendsBeyond lev = true))
    (fun st _ => { newOp st kind false 0 with hold := true }) noTag noEvent :=
  queuesPlain_of hs hi rfl rfl Sock.noConfusion fun _ _ ⟨hb, hd⟩ => (if_neg (not_not.mpr hb)).trans (if_neg hd)

theorem bell_outsideBank0 : Traps i h .sy none (fun st _ => st.bank ≠ 0) .illegalBundle (fun _ => 0) (fun _ => 0) :=
  trapsPlain_of hs hi rfl rfl Sock.noConfusion fun _ _ hb => if_pos hb

theorem bell_beyond : Traps i h .sy none (fun st s => st.bank = 0 ∧ run = true ∧ lev.toNat ≤ 1 ∧ s.self.sendsBeyond lev = true) .exchangeFault
    (fun _ => 0) (fun _ => 0) :=
  trapsPlain_of hs hi rfl rfl Sock.noConfusion fun _ _ ⟨hb, hd⟩ => (if_neg (not_not.mpr hb)).trans (if_pos hd)

end

/-! ## Semaphores and barriers (R348, R352, R356) -/

section
variable {i : Instr} {sp : Spec} {h : Head} {kind : OpKind} {wx : Bool} {align : Nat} {ok : Start → State → Prop}
  (hs : specOf i = some sp) (hi : headOf i = some (h, none)) (hk : sp.sock = .sy) (ho : sp.opnd = some .opB)
include hs hi hk ho

/-- An operation of a unit, where its meaning comes to its check of the address and its place in the queue. -/
theorem atUnit_of (hq : ∀ st s, busBits st.a 54 0 % align = 0 → ok st s → sp.run st { st := s } = unitQueue st { st := s } (newOp st kind wx 0))
    (hm : ∀ st s, busBits st.a 54 0 % align ≠ 0 → sp.run st { st := s } = .error (faultAt .misaligned (busBits st.a 54 0))) :
    AtUnit i h kind wx align ok :=
  ⟨queues_of (Bundles.exec_of_spec hs) hi hk ho Sock.noConfusion fun st s _ ⟨ha, hok⟩ => hq st s ha hok ▸ unit_queued st s (newOp st kind wx 0),
    trapsPlain_of hs hi hk ho Sock.noConfusion fun st s ha => hm st s ha⟩

end

theorem sem_atUnit {i : Instr} {h : Head} {kind : OpKind} {wx : Bool} (hs : specOf i = some (semSpec kind wx)) (hi : headOf i = some (h, none)) :
    AtUnit i h kind wx 8 always :=
  atUnit_of hs hi rfl rfl (fun _ _ ha _ => if_neg (not_not.mpr ha)) fun _ _ ha => if_pos ha

/-- A barrier operation passes the check of a count unless it is a `binit`. -/
theorem bar_atUnit {i : Instr} {h : Head} {kind : OpKind} {wx : Bool} {ok : Start → State → Prop} (hs : specOf i = some (barSpec kind wx))
    (hi : headOf i = some (h, none)) (hok : ∀ st s, ok st s → ¬(kind = .binit ∧ (busBits st.b 31 0 = 0 ∨ 4096 < busBits st.b 31 0))) :
    AtUnit i h kind wx 32 ok :=
  atUnit_of hs hi rfl rfl (fun st s ha h => (if_neg (not_not.mpr ha)).trans (if_neg (hok st s h))) fun _ _ ha => if_pos ha

theorem binit_range (h : Head) : Traps (.binit h) h .sy (some .opB)
    (fun st _ => busBits st.a 54 0 % 32 = 0 ∧ (busBits st.b 31 0 = 0 ∨ 4096 < busBits st.b 31 0)) .semRange
    (fun st => BitVec.ofNat 64 (busBits st.a 54 0)) (fun _ => 0) :=
  trapsPlain_of (sp := specBinit) rfl rfl rfl rfl Sock.noConfusion fun _ _ ⟨ha, hn⟩ => (if_neg (not_not.mpr ha)).trans (if_pos ⟨rfl, hn⟩)

/-! ## At the head of the queue (R351, R360, R361) -/

/-- A status word of `sy` with its OK bit. -/
theorem syStatus_ok (o : DlOp) (ph none_ nh : Bool) : (syStatus o ph none_ nh true).getLsbD 0 = true := by
  have hodd : (o.refBits + ph.toNat * 8 + none_.toNat * 4 + nh.toNat * 2 + true.toNat) % 2 = 1 := by
    unfold DlOp.refBits
    rw [Bool.toNat_true]
    omega
  unfold syStatus
  rw [BitVec.getLsbD_ofNat, Nat.testBit_zero, hodd]
  rfl

theorem tclrTick_spec {t : Tile} {now : Nat} {o : DlOp} (h : (t.queue.find? fun o => o.kind == .tclr && o.st == .queued && t.syReady now o) = some o) :
    (t.tclrTick now).tags = t.tags &&& ~~~(o.a.setWidth 64) ∧ (t.tclrTick now).carriedOut o now (fun r => r.s.getLsbD 0 = true) := by
  unfold Tile.tclrTick
  rw [h]
  exact ⟨rfl, putOp_carriedOut _ o (syStatus_ok ..)⟩

theorem syncTick_of {t : Tile} {now : Nat} {o : DlOp} (h : t.dueSync now = some o) : t.syncTick now = t.syncDone now o := by
  unfold Tile.syncTick
  rw [h]

theorem syncDone_carriedOut (t : Tile) (now : Nat) (o : DlOp) :
    (t.syncDone now o).carriedOut o (if o.kind = .trig then now else now + 1) (fun r => r.s.getLsbD 0 = true) :=
  putOp_carriedOut (f := fun r => r.s.getLsbD 0 = true) _ o (syStatus_ok ..)

theorem syncDone_trig {t : Tile} {o : DlOp} (now : Nat) (hk : o.kind = .trig) :
    (t.syncDone now o).carriedOut o now (fun r => r.s.getLsbD 0 = true) ∧ (o.bank = 0 → ((t.syncDone now o).bank 0).triggered = true) := by
  have hdone := syncDone_carriedOut t now o
  rw [if_pos hk] at hdone
  refine ⟨hdone, fun hb => ?_⟩
  have hbank : (t.syncDone now o).bank 0 = (t.onBank 0 fun b => { b with triggered := true }).bank 0 := by
    unfold Tile.syncDone
    rw [hk, hb]
    rfl
  rw [hbank, bank_onBank]

theorem syncDone_fence {t : Tile} {o : DlOp} {m : MMod} (now : Nat) (hk : o.kind = .fence m) :
    (t.syncDone now o).carriedOut o (now + 1) (fun r => r.s.getLsbD 0 = true) := by
  have hdone := syncDone_carriedOut t now o
  rwa [if_neg (by rw [hk]; exact OpKind.noConfusion)] at hdone

/-! ## At the unit (R352 to R359) -/

section
variable (s : State) (d a : Nat) (o : DlOp) (r : UnitReq)

theorem unitSync_done {t : State} {x : Nat} {ph : Bool} {new : Option Nat}
    (h : s.syncOp r.pa (syncCode o.bit59 o.kind) (busBits o.b 63 0) = .done t x ph new) : s.unitSync d a o r =
      ((t.answerSync a o r.pa x ph new).unitDone d (if ph then (leNat (s.gRead r.pa 4) + 63) / 64 else 0)).watchAll d r.pa := by
  unfold State.unitSync
  rw [h]

theorem unitSync_waits (h : s.syncOp r.pa (syncCode o.bit59 o.kind) (busBits o.b 63 0) = .wait) : s.unitSync d a o r = (s.watchAdd d r).unitBusy d 0 := by
  unfold State.unitSync
  rw [h]

theorem unitSync_faults {c : Cause} {x : Nat} (h : s.syncOp r.pa (syncCode o.bit59 o.kind) (busBits o.b 63 0) = .fault c x) :
    s.unitSync d a o r = (s.engineFault a o c (busBits o.a 54 0) x).unitBusy d 0 := by
  unfold State.unitSync
  rw [h]

end

/-! ## Landing (R130) -/

/-- A result of `sy` lands without its status. -/
theorem landOp_sy {t : Tile} {o : DlOp} {r : Res} (hk : o.sock = .sy) (hold : o.old = none) (hl : o.late = none) (hr : o.res = some r) (hw : o.wx = true) :
    ((t.landOp o).bank o.bank) = landRes (t.bank o.bank) .sy true { r with s := ((t.bank o.bank).sock .sy).s } := by
  unfold Tile.landOp
  rw [hold, hl, hr, hk, hw]
  exact bank_onBank t o.bank fun b => landRes b .sy true { r with s := (b.sock .sy).s }

theorem landRes_fullX (b : Strand) (k : Sock) (r : Res) : ((landRes b k true r).sock k).fullX = (r.x.isSome || (b.sock k).fullX) := by
  obtain ⟨x, y, s, f⟩ := r
  refine (congrArg SockCtx.fullX (sock_setSock b k _)).trans ?_
  cases x with
  | none => cases y <;> rfl
  | some v => cases y <;> exact Bool.or_true _

/-- The read of the port of `sy` brings the status of the operation whose slot it frees. -/
theorem emptyPort_sy {t : Tile} {o : DlOp} {r : Res} (ho : (t.queue.find? fun p => p.bank = t.run ∧ p.sock = .sy ∧ p.landed) = some o) (hr : o.res = some r)
    (hl : t.portLocked .sy false = true) :
    (((emptyPort t (.resX .sy)).bank t.run).sock .sy).s = r.s ∧ (((emptyPort t (.resX .sy)).bank t.run).sock .sy).fullX = false := by
  have hs (v : Dword) : t.freedStatus .sy v = r.s := by
    unfold Tile.freedStatus
    rw [if_pos (show statusAtFree .sy = true by decide), ho]
    dsimp only
    rw [hr]
    rfl
  let f : SockCtx → SockCtx := fun c => { c with fullX := false, s := t.freedStatus .sy c.s }
  have hb : (emptyPort t (.resX .sy)).bank t.run = (t.bank t.run).onSock .sy f := by
    unfold emptyPort
    dsimp only
    rw [if_pos hl]
    exact bank_onBank t t.run fun b => b.onSock .sy f
  have hc : (((emptyPort t (.resX .sy)).bank t.run).sock .sy) = f ((t.bank t.run).sock .sy) := by
    rw [hb]
    exact sock_setSock ..
  rw [hc]
  exact ⟨hs _, rfl⟩

/-- Settles O40: each trigger by its checks, the operations at the head of the queue and at the unit by what they leave, a landing by the status it does not bring. -/
theorem syncTriggers : Obligations.SyncTriggers := by
  refine ⟨fun h lev => ?bells, fun h m => ?waits, fun h => ?clears, fun h m => ?units, fun h => ?inits, fun t now o => tclrTick_spec,
    fun t now o hd => ?performed, fun s pa v => ?semaphores, fun s pa v hv hv' hm => ?object, fun s pa i hm hn hn' => ?barriers,
    fun s d a o r => ⟨fun t x ph new => unitSync_done s d a o r, unitSync_waits s d a o r, fun c x => unitSync_faults s d a o r⟩,
    fun t o r hk hold hl hr hw => ?lands, fun t o r => emptyPort_sy⟩
  case bells =>
    refine ⟨?queued, bell_outsideBank0 rfl rfl, ?beyond, ?exchange, bell_outsideBank0 rfl rfl⟩
    case queued => exact fun s v hf ha ⟨hb, hd⟩ => bell_queues (i := .bell h lev) rfl rfl s v hf ha ⟨hb, fun hx => hd hx.2⟩
    case beyond => exact fun s v hf ha ⟨hb, hd⟩ => bell_beyond (i := .bell h lev) rfl rfl s v hf ha ⟨hb, rfl, hd⟩
    case exchange => exact fun s v hf ha hb => bell_queues (i := .bellx h lev) rfl rfl s v hf ha ⟨hb, fun hx => Bool.false_ne_true hx.1⟩
  case waits =>
    exact ⟨queuesPlain_of (sp := specWany m) rfl rfl rfl rfl Sock.noConfusion fun _ _ _ => rfl,
      queuesPlain_of (sp := specWall m) rfl rfl rfl rfl Sock.noConfusion fun _ _ _ => rfl,
      queuesPlain_of (sp := specWffr m) rfl rfl rfl rfl Sock.noConfusion fun _ _ _ => rfl,
      queuesPlain_of (sp := specFence m) rfl rfl rfl rfl Sock.noConfusion fun _ _ _ => rfl⟩
  case clears =>
    exact ⟨queuesPlain_of (sp := specTclr) rfl rfl rfl rfl Sock.noConfusion fun _ _ _ => rfl,
      queuesPlain_of (sp := specTrig) rfl rfl rfl rfl Sock.noConfusion fun _ _ _ => rfl⟩
  case units =>
    exact ⟨sem_atUnit rfl rfl, sem_atUnit rfl rfl, sem_atUnit rfl rfl, bar_atUnit rfl rfl fun _ _ _ hx => OpKind.noConfusion hx.1,
      bar_atUnit rfl rfl fun _ _ _ hx => OpKind.noConfusion hx.1, bar_atUnit rfl rfl fun _ _ _ hx => OpKind.noConfusion hx.1⟩
  case inits => exact ⟨bar_atUnit rfl rfl fun _ _ hn hx => hx.2.elim (Nat.ne_of_gt hn.1) (Nat.not_lt.mpr hn.2), binit_range h⟩
  case performed =>
    rw [syncTick_of hd]
    exact ⟨syncDone_trig now, fun m => syncDone_fence now⟩
  case semaphores => exact ⟨syncOp_raise s pa v, syncOp_add s pa v, syncOp_wait s pa v, syncOp_take s pa v⟩
  case object => exact init_object pa hv' hm
  case barriers =>
    exact ⟨fun hi ha hmax => syncOp_arrive hm hn hn' hi ha hmax, fun hi ha he => syncOp_drop hm hn hn' hi ha he,
      fun hi ha => syncOp_overarrival hn hn' hi ha, syncOp_phase i hn hn'⟩
  case lands =>
    intro u
    obtain ⟨hx, -, hs, -⟩ := landRes_spec (t.bank o.bank) .sy true { r with s := ((t.bank o.bank).sock .sy).s }
    rw [landOp_sy hk hold hl hr hw]
    exact ⟨hs, hx, landRes_fullX ..⟩

end Sys2Proof.Proofs.Sync
end

section
/-! PROOF. Tasks: what the operations on control blocks, the ready queue and a waiting `tidle` change and keep (R392 to R401). -/

namespace Sys2Proof.Proofs.Tasks

open Sys2Proof Sys2Proof.Machine Sys2Proof.Laws Sys2Proof.Proofs.PerformedOps

/-! ## Control blocks and the ready queue -/

@[simp] theorem onTasks_tasks (t : Tile) (f : Tasks → Tasks) : (t.onTasks f).tasks = f t.tasks := rfl

theorem block_setBlock (k : Tasks) (i j : Nat) (b : Block) : (k.setBlock i b).block j = if j % 32 = i % 32 then b else k.block j := by
  simp only [Tasks.setBlock, Tasks.block, Vector.getElem_set, eq_comm]

@[simp] theorem block_setBlock_same (k : Tasks) (i : Nat) (b : Block) : (k.setBlock i b).block i = b := by rw [block_setBlock, if_pos rfl]

@[simp] theorem block_onBlock_same (k : Tasks) (i : Nat) (f : Block → Block) : (k.onBlock i f).block i = f (k.block i) := block_setBlock_same ..

theorem block_onBlock_other {k : Tasks} {i j : Nat} (f : Block → Block) (h : j % 32 ≠ i % 32) : (k.onBlock i f).block j = k.block j := by
  rw [Tasks.onBlock, block_setBlock, if_neg h]

theorem block_congr (k : Tasks) {i j : Nat} (h : j % 32 = i % 32) : k.block j = k.block i := by
  simp only [Tasks.block, h]

@[simp] theorem unready_block (k : Tasks) (i j : Nat) : (k.unready i).block j = k.block j := rfl
@[simp] theorem enter_block (k : Tasks) (i j : Nat) (head : Bool) : (k.enter i head).block j = k.block j := rfl

/-- A task that was removed stands in no level of the ready queue. -/
theorem not_mem_unready {k : Tasks} {i : Nat} {l : List Nat} (h : l ∈ (k.unready i).rq.toList) : i ∉ l := by
  have h' : l ∈ (k.rq.map fun l => l.filter (· ≠ i)).toList := h
  rw [Vector.toList_map] at h'
  obtain ⟨m, -, rfl⟩ := List.mem_map.mp h'
  simp

theorem engineWrite_tasks (t : Tile) (ws : List (Nat × Byte)) : (t.engineWrite ws).tasks = t.tasks := by
  unfold Tile.engineWrite
  split <;> rfl

/-! ## Status words and performed operations -/

/-- OK and REF of Table 17.6. -/
theorem tkStatus_ok (p e : Bool) : (tkStatus p e false).getLsbD 0 = true ∧ (tkStatus p e false).getLsbD 1 = false := by
  revert p e; decide

theorem tkStatus_refused (p e : Bool) : (tkStatus p e true).getLsbD 0 = false ∧ (tkStatus p e true).getLsbD 1 = true := by
  revert p e; decide

theorem tkStatus_empty (p r e : Bool) : (tkStatus p e r).getLsbD 2 = e := by revert p r e; decide

theorem tkStatus_pend (p r e : Bool) : (tkStatus p e r).getLsbD 3 = p := by revert p r e; decide

@[simp] theorem tkDone_tasks (t : Tile) (o : DlOp) (due : Nat) (x : Option Bus) (st : Dword) : (t.tkDone o due x st).tasks = t.tasks := rfl

@[simp] theorem putOp_tasks (t : Tile) (o : DlOp) : (t.putOp o).tasks = t.tasks := rfl

theorem tkDone_carriedOut (t : Tile) (o : DlOp) {due : Nat} {x : Option Bus} {st : Dword} {f : Res → Prop} (hf : f { x := x, s := st }) :
    (t.tkDone o due x st).carriedOut o due f := putOp_carriedOut t o hf

/-! ## Wakes -/

/-- What a task that becomes READY, or is woken, leaves alone in its tile. -/
structure Keeps (t u : Tile) : Prop where
  banks : u.banks = t.banks
  sram : u.sram = t.sram
  run : u.run = t.run
  current : u.tasks.current = t.tasks.current
  quantum : u.tasks.quantum = t.tasks.quantum
  runCount : u.tasks.runCount = t.tasks.runCount
  raisedTimer : u.tasks.raisedTimer = t.tasks.raisedTimer
  unitTick : u.tasks.unitTick = t.tasks.unitTick
  work : u.tasks.work = t.tasks.work

theorem Keeps.refl (t : Tile) : Keeps t t := ⟨rfl, rfl, rfl, rfl, rfl, rfl, rfl, rfl, rfl⟩

theorem Keeps.trans {t u v : Tile} (h : Keeps t u) (g : Keeps u v) : Keeps t v :=
  ⟨g.banks.trans h.banks, g.sram.trans h.sram, g.run.trans h.run, g.current.trans h.current, g.quantum.trans h.quantum,
    g.runCount.trans h.runCount, g.raisedTimer.trans h.raisedTimer, g.unitTick.trans h.unitTick, g.work.trans h.work⟩

theorem keeps_onBlock (t : Tile) (i : Nat) (f : Block → Block) : Keeps t (t.onTasks fun k => k.onBlock i f) :=
  ⟨rfl, rfl, rfl, rfl, rfl, rfl, rfl, rfl, rfl⟩

theorem keeps_tkDone (t : Tile) (o : DlOp) (due : Nat) (x : Option Bus) (st : Dword) : Keeps t (t.tkDone o due x st) :=
  ⟨rfl, rfl, rfl, rfl, rfl, rfl, rfl, rfl, rfl⟩

theorem keeps_raisePreempt (t : Tile) (now : Nat) : Keeps t (t.onTasks fun k => k.raisePreempt now) := by
  rw [Tile.onTasks, Tasks.raisePreempt]
  split <;> exact ⟨rfl, rfl, rfl, rfl, rfl, rfl, rfl, rfl, rfl⟩

@[simp] theorem raisePreempt_block (k : Tasks) (now i : Nat) : (k.raisePreempt now).block i = k.block i := by
  unfold Tasks.raisePreempt
  split <;> rfl

theorem keeps_wake (t : Tile) (now : Nat) : Keeps t (t.wake now) := by
  unfold Tile.wake
  split <;> exact ⟨rfl, rfl, rfl, rfl, rfl, rfl, rfl, rfl, rfl⟩

@[simp] theorem wake_tasks (t : Tile) (now : Nat) : (t.wake now).tasks = t.tasks := by
  unfold Tile.wake
  split <;> rfl

@[simp] theorem tidleEnd_tasks (t : Tile) (now : Nat) (c : Upcall) (id : Nat) : (t.tidleEnd now c id).tasks = t.tasks := by
  unfold Tile.tidleEnd
  split
  · exact wake_tasks ..
  · rfl

theorem keeps_tidleEnd (t : Tile) (now : Nat) (c : Upcall) (id : Nat) : Keeps t (t.tidleEnd now c id) := by
  unfold Tile.tidleEnd
  split
  · exact (keeps_tkDone ..).trans (keeps_wake ..)
  · exact Keeps.refl t

/-- A task in its level of the ready queue, READY and without a deadline. -/
def readied (t : Tile) (i : Nat) (head : Bool) : Tile :=
  t.onTasks fun k => (k.onBlock i fun b => { b with state := .ready, deadline := none }).enter i head

/-- The tile's running task is pre-empted by a READY task of higher priority. -/
def preempted (t : Tile) (now i : Nat) : Tile :=
  match t.tasks.current with
  | some u => if (t.tasks.block u).eprio.toNat < (t.tasks.block i).eprio.toNat then t.onTasks fun k => k.raisePreempt now else t
  | none => t

theorem makeReady_eq (t : Tile) (now i : Nat) (head : Bool) : t.makeReady now i head =
    (preempted (readied t i head) now i).tidleEnd now .ready ((preempted (readied t i head) now i).tasks.headId.getD 0) := rfl

theorem keeps_preempted (t : Tile) (now i : Nat) : Keeps t (preempted t now i) := by
  unfold preempted
  split
  · split
    · exact keeps_raisePreempt t now
    · exact Keeps.refl t
  · exact Keeps.refl t

@[simp] theorem preempted_block (t : Tile) (now i j : Nat) : (preempted t now i).tasks.block j = t.tasks.block j := by
  unfold preempted
  split
  · split
    · exact raisePreempt_block ..
    · rfl
  · rfl

theorem keeps_makeReady (t : Tile) (now i : Nat) (head : Bool) : Keeps t (t.makeReady now i head) := by
  have hr : Keeps t (readied t i head) := ⟨rfl, rfl, rfl, rfl, rfl, rfl, rfl, rfl, rfl⟩
  exact (hr.trans (keeps_preempted ..)).trans (keeps_tidleEnd ..)

theorem makeReady_block (t : Tile) (now i j : Nat) (head : Bool) : (t.makeReady now i head).tasks.block j
    = (t.tasks.onBlock i fun b => { b with state := .ready, deadline := none }).block j := by
  rw [makeReady_eq, tidleEnd_tasks, preempted_block]
  rfl

theorem makeReady_block_same (t : Tile) (now i : Nat) (head : Bool) : (t.makeReady now i head).tasks.block i
    = { t.tasks.block i with state := .ready, deadline := none } := by
  rw [makeReady_block, block_onBlock_same]

section
variable {t : Tile} {now i : Nat} {w : Wake}

/-- A wake readies a task that sleeps or was selected. -/
theorem wakeTask_readies (h : (t.tasks.block i).state = .sleep ∨ (t.tasks.block i).state = .selected) (hw : w ≠ .notice) :
    t.wakeTask now i w = (t.makeReady now i false, false) := by
  unfold Tile.wakeTask
  dsimp only
  rcases h with h | h <;> rw [h] <;> exact if_neg hw

/-- A wake is recorded for a task whose place is not settled. -/
theorem wakeTask_records (h : (t.tasks.block i).state = .saving ∨ (t.tasks.block i).state = .loading ∨
      (t.tasks.block i).state = .running ∧ t.tasks.current = some i ∧ t.tasks.own.contains .sleep = true) :
    t.wakeTask now i w = (t.onTasks fun k => k.onBlock i fun b => { b with recorded := b.recorded ++ [w] }, false) := by
  unfold Tile.wakeTask
  dsimp only
  rcases h with h | h | ⟨h, hs⟩ <;> rw [h]
  exact if_pos hs

/-- A `wake` sets WK of a task that is about to run, runs or is parked. -/
theorem wakeTask_sets (h : (t.tasks.block i).state = .ready ∨ (t.tasks.block i).state = .parked ∨
      (t.tasks.block i).state = .running ∧ ¬(t.tasks.current = some i ∧ t.tasks.own.contains .sleep = true)) :
    t.wakeTask now i .wakeOp = (t.onTasks fun k => k.onBlock i fun b => { b with wk := true }, true) := by
  unfold Tile.wakeTask
  dsimp only
  rcases h with h | h | ⟨h, hs⟩ <;> rw [h]
  · rfl
  · rfl
  · exact if_neg hs

/-- A wake that is no `wake` operation leaves a READY task as it is. -/
theorem wakeTask_ready (h : (t.tasks.block i).state = .ready) (hw : w ≠ .wakeOp) : t.wakeTask now i w = (t, false) := by
  unfold Tile.wakeTask
  dsimp only
  rw [h]
  exact if_neg hw

end

/-- What a wake does: nothing, or it readies the task, sets its WK or is recorded. -/
theorem wakeTask_cases (t : Tile) (now i : Nat) (w : Wake) :
    (t.wakeTask now i w).1 = t ∨ (t.wakeTask now i w).1 = t.makeReady now i false
      ∨ (t.wakeTask now i w).1 = (t.onTasks fun k => k.onBlock i fun b => { b with wk := true })
      ∨ (t.wakeTask now i w).1 = (t.onTasks fun k => k.onBlock i fun b => { b with recorded := b.recorded ++ [w] }) := by
  unfold Tile.wakeTask
  dsimp only
  repeat' split
  all_goals simp only [true_or, or_true]

/-- A wake keeps the tile but for the task's block, the ready queue and what follows a READY task. -/
theorem keeps_wakeTask (t : Tile) (now i : Nat) (w : Wake) : Keeps t (t.wakeTask now i w).1 := by
  obtain h | h | h | h := wakeTask_cases t now i w <;> rw [h]
  · exact Keeps.refl t
  · exact keeps_makeReady ..
  · exact keeps_onBlock ..
  · exact keeps_onBlock ..

theorem wakeTask_other (t : Tile) (now : Nat) {i j : Nat} (w : Wake) (hj : j % 32 ≠ i % 32) : (t.wakeTask now i w).1.tasks.block j = t.tasks.block j := by
  obtain h | h | h | h := wakeTask_cases t now i w <;> rw [h]
  · exact (makeReady_block ..).trans (block_onBlock_other _ hj)
  · exact block_onBlock_other _ hj
  · exact block_onBlock_other _ hj

theorem wakeTask_mail (t : Tile) (now i : Nat) (w : Wake) : ((t.wakeTask now i w).1.tasks.block i).mail = (t.tasks.block i).mail := by
  obtain h | h | h | h := wakeTask_cases t now i w <;> rw [h]
  · rw [makeReady_block_same]
  · rw [onTasks_tasks, block_onBlock_same]
  · rw [onTasks_tasks, block_onBlock_same]

/-! ## Banks and late causes of a task that leaves or comes (R277, R394, R396) -/

section
variable (t : Tile) (k : BitVec 2) (b : Strand) (u : Nat)

@[simp] theorem clearBank_bank : (t.clearBank k b).bank k = b := bank_setBank t k b
@[simp] theorem clearBank_tasks : (t.clearBank k b).tasks = t.tasks := rfl
@[simp] theorem clearBank_queue : (t.clearBank k b).queue = t.queue := rfl
@[simp] theorem clearBank_sram : (t.clearBank k b).sram = t.sram := rfl
@[simp] theorem clearBank_ready : (t.clearBank k b).ready = t.ready := rfl
@[simp] theorem clearBank_asleep : (t.clearBank k b).asleep = t.asleep := rfl
@[simp] theorem clearBank_sleepd : (t.clearBank k b).sleepd = t.sleepd := rfl

@[simp] theorem storeCauses_block (i : Nat) : (t.storeCauses k u).tasks.block i = t.tasks.block i := rfl
@[simp] theorem storeCauses_queue : (t.storeCauses k u).queue = t.queue := rfl
@[simp] theorem storeCauses_sram : (t.storeCauses k u).sram = t.sram := rfl

@[simp] theorem loadCauses_block (i : Nat) : (t.loadCauses k u).tasks.block i = t.tasks.block i := rfl
@[simp] theorem loadCauses_bank (j : BitVec 2) : (t.loadCauses k u).bank j = t.bank j := rfl
@[simp] theorem loadCauses_ready : (t.loadCauses k u).ready = t.ready := rfl

@[simp] theorem orphan_ready : (t.orphan u).ready = t.ready := rfl
@[simp] theorem orphan_asleep : (t.orphan u).asleep = t.asleep := rfl
@[simp] theorem orphan_sleepd : (t.orphan u).sleepd = t.sleepd := rfl
@[simp] theorem orphan_tasks : (t.orphan u).tasks = { t.tasks with causes := t.tasks.causes.filter fun c => c.1 ≠ u } := rfl
theorem orphan_queue : (t.orphan u).queue = t.queue.map fun o => { o with task := if o.task = some u then some 32 else o.task } := rfl

@[simp] theorem onTasks_bank (f : Tasks → Tasks) (j : BitVec 2) : (t.onTasks f).bank j = t.bank j := rfl

end

/-! ## Switches and loads (R409) -/

theorem switchTo_running (t : Tile) (now i : Nat) : ((t.switchTo now i).tasks.block i).state = .running :=
  congrArg Block.state (block_onBlock_same t.tasks i fun b => { b with state := .running })

theorem startLoad_loading (t : Tile) (op id : Nat) (k : BitVec 2) (e : Nat) : ((t.startLoad op id k e).tasks.block id).state = .loading :=
  congrArg Block.state (block_onBlock_same t.tasks id fun b => { b with state := .loading })

end Sys2Proof.Proofs.Tasks
end

section
/-! PROOF. The task socket `tk`: what its triggers queue and which of their checks trap, and what a tile performs at the head of a bank's queue (R404 to R410). -/

namespace Sys2Proof.Proofs.TaskOps

open Sys2Proof Sys2Proof.Machine Sys2Proof.Laws Sys2Proof.Proofs.PlainTriggers Sys2Proof.Proofs.PerformedOps Sys2Proof.Proofs.Tasks

/-! ## Triggers (R404) -/

section
variable {i : Instr} {h : Head} {kind : OpKind} {opnd : Option Opnd} {wx : Bool} {banks : List (BitVec 2)} {check : Start → Option Stop}
  (hs : specOf i = some (tkSpec kind opnd wx banks check)) (hi : headOf i = some (h, none))

/-- The check of the mode and the bank passes. -/
theorem tk_legal {st : Start} {s : State} (ht : s.self.tasked = true) (hb : st.bank ∈ banks) :
    ¬((!s.self.tasked) = true ∨ (!banks.contains st.bank) = true) := by
  simp [ht, hb]

/-- The check of the mode and the bank fails. -/
theorem tk_illegal {st : Start} {s : State} (h : s.self.tasked = false ∨ st.bank ∉ banks) :
    (!s.self.tasked) = true ∨ (!banks.contains st.bank) = true := by
  simpa using h

include hs hi

theorem taskOp_of {ok : Start → Prop} (hok : ∀ st, ok st → check st = none) : TaskOp i h opnd kind wx banks ok := by
  refine ⟨queuesPlain_of hs hi rfl rfl Sock.noConfusion fun st s ⟨ht, hb, hp⟩ => (if_neg (tk_legal ht hb)).trans ?_,
    trapsPlain_of hs hi rfl rfl Sock.noConfusion fun st s hx => if_pos (tk_illegal hx)⟩
  dsimp only
  rw [hok st hp]

theorem taskTraps_of {ok : Start → State → Prop} {c : Cause} {a d : Start → Dword}
    (hok : ∀ st s, ok st s → s.self.tasked = true ∧ st.bank ∈ banks ∧ check st = some (.trap c (a st) (d st))) : Traps i h .tk opnd ok c a d :=
  trapsPlain_of hs hi rfl rfl Sock.noConfusion fun st s hx => by
    obtain ⟨ht, hb, hc⟩ := hok st s hx
    refine (if_neg (tk_legal ht hb)).trans ?_
    dsimp only
    rw [hc]

end

theorem idCheck_named {id : Nat} (h : 1 ≤ id ∧ id < 32) : idCheck id = none := if_neg (by omega)

theorem idCheck_other {id : Nat} (h : ¬(1 ≤ id ∧ id < 32)) : idCheck id = some (.trap .taskOverflow 0 0) := if_pos (by omega)

/-- The check of a `resume`: a task's id and a bank that is not 3 (R409). -/
def resumeCheck (st : Start) : Option Stop :=
  match aCheck st with
  | some e => some e
  | none => if busBits st.b 1 0 = 3 then some (.trap .taskOverflow 0 0) else none

theorem specOf_resume (h : Head) : specOf (.resume h) = some (tkSpec .resume (some .opB) true [0] resumeCheck) := rfl

theorem resumeCheck_passes {st : Start} (hn : 1 ≤ busBits st.a 31 0 ∧ busBits st.a 31 0 < 32) (hk : busBits st.b 1 0 ≠ 3) : resumeCheck st = none := by
  rw [resumeCheck, aCheck, idCheck_named hn]
  exact if_neg hk

theorem resumeCheck_fails {st : Start} (hn : ¬(1 ≤ busBits st.a 31 0 ∧ busBits st.a 31 0 < 32) ∨ busBits st.b 1 0 = 3) :
    resumeCheck st = some (.trap .taskOverflow 0 0) := by
  by_cases hid : 1 ≤ busBits st.a 31 0 ∧ busBits st.a 31 0 < 32
  · rw [resumeCheck, aCheck, idCheck_named hid]
    exact if_pos (hn.resolve_left (not_not.mpr hid))
  · rw [resumeCheck, aCheck, idCheck_other hid]

/-- The checks of a `spawn`: a task's id, its kind and the area of a create or a receive (R405). -/
def spawnCheck (st : Start) : Option Stop :=
  let kind := busBits st.c 13 12
  let area := busBits st.c 50 32
  match idCheck (busBits st.c 4 0) with
  | some e => some e
  | none =>
    if kind = 3 then some (.trap .taskOverflow 0 0)
    else if kind ≤ 1 ∧ area % 16 ≠ 0 then some (faultAt .misaligned area)
    else if kind ≤ 1 ∧ 0x60000 < area + 272 then some (faultAt .localRange area)
    else none

theorem specOf_spawn (h : Head) : specOf (.spawn h) = some (tkSpec .spawn (some .opC) false [0] spawnCheck) := rfl

theorem spawnCheck_of_id {st : Start} (h : busBits st.c 4 0 ≠ 0) : spawnCheck st =
    if busBits st.c 13 12 = 3 then some (.trap .taskOverflow 0 0)
    else if busBits st.c 13 12 ≤ 1 ∧ busBits st.c 50 32 % 16 ≠ 0 then some (faultAt .misaligned (busBits st.c 50 32))
    else if busBits st.c 13 12 ≤ 1 ∧ 0x60000 < busBits st.c 50 32 + 272 then some (faultAt .localRange (busBits st.c 50 32))
    else none := by
  have hlt : busBits st.c 4 0 < 32 := Nat.mod_lt _ (by decide)
  rw [spawnCheck, idCheck_named ⟨by omega, hlt⟩]

theorem spawn_triggers (h : Head) :
    let id := fun st : Start => busBits st.c 4 0
    let kind := fun st : Start => busBits st.c 13 12
    let area := fun st : Start => busBits st.c 50 32
    let placed := fun st : Start => 2 ≤ kind st ∨ (area st % 16 = 0 ∧ area st + 272 ≤ 0x60000)
    TaskOp (.spawn h) h (some .opC) .spawn false [0] (fun st => id st ≠ 0 ∧ kind st ≠ 3 ∧ placed st)
    ∧ Traps (.spawn h) h .tk (some .opC) (fun st s => s.self.tasked = true ∧ st.bank = 0 ∧ (id st = 0 ∨ kind st = 3)) .taskOverflow (fun _ => 0) (fun _ => 0)
    ∧ Traps (.spawn h) h .tk (some .opC) (fun st s => s.self.tasked = true ∧ st.bank = 0 ∧ id st ≠ 0 ∧ kind st ≤ 1 ∧ area st % 16 ≠ 0) .misaligned
      (fun st => BitVec.ofNat 64 (area st)) (fun _ => 0)
    ∧ Traps (.spawn h) h .tk (some .opC) (fun st s => s.self.tasked = true ∧ st.bank = 0 ∧ id st ≠ 0 ∧ kind st ≤ 1 ∧ area st % 16 = 0 ∧ 0x60000 < area st + 272)
      .localRange (fun st => BitVec.ofNat 64 (area st)) (fun _ => 0) := by
  refine ⟨taskOp_of (specOf_spawn h) rfl fun st ⟨hid, hk, hp⟩ => ?_, taskTraps_of (specOf_spawn h) rfl fun st s ⟨ht, hb, hx⟩ => ⟨ht, by simp [hb], ?_⟩,
    taskTraps_of (specOf_spawn h) rfl fun st s ⟨ht, hb, hid, hk, ha⟩ => ⟨ht, by simp [hb], ?_⟩,
    taskTraps_of (specOf_spawn h) rfl fun st s ⟨ht, hb, hid, hk, ha, hr⟩ => ⟨ht, by simp [hb], ?_⟩⟩
  · dsimp only at hp
    rw [spawnCheck_of_id hid, if_neg hk, if_neg (by omega), if_neg (by omega)]
  · by_cases hid : busBits st.c 4 0 = 0
    · rw [spawnCheck, hid]
      rfl
    · rw [spawnCheck_of_id hid, if_pos (hx.resolve_left hid)]
  · dsimp only at hk
    rw [spawnCheck_of_id hid, if_neg (by omega), if_pos ⟨hk, ha⟩]
    rfl
  · dsimp only at hk ha
    rw [spawnCheck_of_id hid, if_neg (by omega), if_neg (by omega), if_pos ⟨hk, hr⟩]
    rfl

/-! ## The operation at the head of its queue (R404) -/

/-- `yield` performed (R406). -/
def doYield (t : Tile) (now : Nat) (o : DlOp) : Tile :=
  let t := if o.task.isSome ∧ t.tasks.current = o.task then t.raiseOwn now .yield else t
  t.tkDone o (now + 1) none (tkStatus false false false)

/-- Is there no task to wake (R406)? -/
def gone (b : Block) : Bool := match b.state with | .free | .inbound => true | _ => false

/-- `wake` performed (R406). -/
def doWake (t : Tile) (now : Nat) (o : DlOp) : Tile :=
  let r := t.wakeTask now (busBits o.a 31 0) .wakeOp
  r.1.tkDone o (now + 1) none (tkStatus r.2 false (gone (t.tasks.block (busBits o.a 31 0))))

/-- `timer` performed (R407). -/
def doTimer (t : Tile) (now : Nat) (o : DlOp) : Tile :=
  (t.onTasks fun k => { k with quantum := busBits o.a 15 0 }).tkDone o (now + 1) (some (BitVec.ofNat 512 t.tasks.quantum)) (tkStatus false false false)

/-- `cload` performed (R403). -/
def doCload (s : State) (t : Tile) (o : DlOp) : Tile := t.tkDone o (s.tick + 1) (some ((s.cloadOf t).setWidth 512)) (tkStatus false false false)

/-- What a tile does with the operation at the head of a bank's queue. -/
def tkPerform (s : State) (a : Nat) (o : DlOp) : State :=
  match o.kind with
  | .spawn => s.onTile a fun t => t.doSpawn s.tick o
  | .yield => s.onTile a fun t => doYield t s.tick o
  | .sleep => s.onTile a fun t => t.doSleep s.tick o
  | .wake => s.onTile a fun t => doWake t s.tick o
  | .prio => s.onTile a fun t => t.doPrio s.tick o
  | .timer => s.onTile a fun t => doTimer t s.tick o
  | .next => s.onTile a fun t => t.doNext s.tick o
  | .resume => s.onTile a fun t => t.doResume s.tick o
  | .msgrd => s.onTile a fun t => t.doMsgrd s.tick o
  | .cload => s.onTile a fun t => doCload s t o
  | .tidle => s.onTile a fun t => t.doTidle s.tick o
  | _ => s

theorem tkTick_none {s : State} {a : Nat} (h : s.tkHead a = none) : s.tkTick a = s := by
  unfold State.tkHead at h
  unfold State.tkTick
  dsimp only at h ⊢
  split
  · rfl
  · next hb => rw [if_neg hb] at h; rw [h]

section
variable {s : State} {a : Nat} {o : DlOp} (h : s.tkHead a = some o)
include h

theorem tkTick_some : s.tkTick a = tkPerform s a o := by
  unfold State.tkHead at h
  unfold State.tkTick
  dsimp only at h ⊢
  split
  · next hb => rw [if_pos hb] at h; cases h
  · next hb => rw [if_neg hb] at h; rw [h]; rfl

/-- Behind an operation of its bank that waits nothing is performed. -/
theorem tkHead_ne_behind {p : DlOp} (hp : p ∈ (s.tileAt a).queue) (hk : p.sock = .tk) (hw : p.st = .waiting) (hb : p.bank = o.bank) : ¬p.id < o.id := by
  intro hid
  unfold State.tkHead at h
  dsimp only at h
  split at h
  · cases h
  · have hall := List.find?_some h
    simp only [Bool.and_eq_true, List.all_eq_true] at hall
    have := hall.2 p hp
    simp [hk, hb, hid, DlOp.isPerformed, hw] at this

end

/-! ## What each operation does (R405 to R410) -/

/-- A result with OK, a refused one, and one that carries a number (Table 17.6). -/
def Ok (r : Res) : Prop := r.s.getLsbD 0 = true ∧ r.s.getLsbD 1 = false
def Refused (r : Res) : Prop := r.s.getLsbD 0 = false ∧ r.s.getLsbD 1 = true
def Gives (x : Nat) (r : Res) : Prop := r.x = some (BitVec.ofNat 512 x)

section
variable {t : Tile} {now : Nat} {o : DlOp}

theorem tkDone_ok (t : Tile) (o : DlOp) (due : Nat) (x : Option Bus) (p e : Bool) : (t.tkDone o due x (tkStatus p e false)).carriedOut o due Ok :=
  tkDone_carriedOut t o (tkStatus_ok p e)

theorem tkDone_refused (t : Tile) (o : DlOp) (due : Nat) (x : Option Bus) (p e : Bool) : (t.tkDone o due x (tkStatus p e true)).carriedOut o due Refused :=
  tkDone_carriedOut t o (tkStatus_refused p e)

theorem tkDone_gives (t : Tile) (o : DlOp) (due x : Nat) (st : Dword) : (t.tkDone o due (some (BitVec.ofNat 512 x)) st).carriedOut o due (Gives x) :=
  tkDone_carriedOut t o rfl

theorem raiseOwn_own {k : Tasks} {c : Upcall} (hc : c ≠ .halt) (h : k.own.contains c = false) : (k.raiseOwn now c).own = k.own ++ [c] := by
  unfold Tasks.raiseOwn
  rw [if_neg (Bool.eq_false_iff.mp h)]
  exact if_neg hc

@[simp] theorem raiseOwn_block (k : Tasks) (now : Nat) (c : Upcall) (i : Nat) : (k.raiseOwn now c).block i = k.block i := by
  unfold Tasks.raiseOwn
  split <;> rfl

theorem doYield_own {i : Nat} (ho : o.task = some i) (hc : t.tasks.current = some i) (hy : t.tasks.own.contains .yield = false) :
    (doYield t now o).tasks.own = t.tasks.own ++ [.yield] := by
  rw [doYield, if_pos ⟨by rw [ho]; rfl, hc.trans ho.symm⟩]
  exact raiseOwn_own Upcall.noConfusion hy

/-! ### `sleep` -/

/-- A `sleep` that does not return at once sets its deadline. -/
def timed (t : Tile) (o : DlOp) (i : Nat) : Tile :=
  t.onTasks fun k => k.onBlock i fun b => { b with deadline := if busBits o.a 31 0 = 0 then none else some (busBits o.a 31 0) }

/-- The task of a `sleep` leaves at its boundary, or sleeps where it is about to run. -/
def rested (t : Tile) (now i : Nat) (st : TaskState) : Tile :=
  if t.tasks.current = some i then t.raiseOwn now .sleep
  else
    match st with
    | .ready | .selected => t.onTasks fun k => (k.onBlock i fun b => { b with state := .sleep }).unready i
    | .free | .running | .sleep | .parked | .saving | .loading | .inbound => t

theorem doSleep_done : (t.doSleep now o).carriedOut o (now + 1) Ok := by
  unfold Tile.doSleep
  dsimp only
  repeat' split
  all_goals exact tkDone_ok _ _ _ _ _ _

theorem doSleep_returns {i : Nat} (ho : o.task = some i) (hw : (t.tasks.block i).wk = true ∨ (t.tasks.block i).mail ≠ []) :
    t.doSleep now o = (t.onTasks fun k => k.onBlock i fun b => { b with wk := false }).tkDone o (now + 1) none (tkStatus true false false) := by
  unfold Tile.doSleep
  rw [ho]
  exact if_pos hw

theorem doSleep_rests {i : Nat} (ho : o.task = some i) (hw : (t.tasks.block i).wk = false) (hm : (t.tasks.block i).mail = []) :
    t.doSleep now o = (rested (timed t o i) now i (t.tasks.block i).state).tkDone o (now + 1) none (tkStatus false false false) := by
  unfold Tile.doSleep
  rw [ho]
  dsimp only
  rw [if_neg (by simp [hw, hm])]
  rfl

theorem rested_deadline (t : Tile) (now i : Nat) (st : TaskState) : ((rested t now i st).tasks.block i).deadline = (t.tasks.block i).deadline := by
  unfold rested
  split
  · exact congrArg Block.deadline (raiseOwn_block ..)
  · split
    · rw [onTasks_tasks, unready_block, block_onBlock_same]
    · rw [onTasks_tasks, unready_block, block_onBlock_same]
    all_goals rfl

theorem rested_own {i : Nat} {st : TaskState} (hc : t.tasks.current = some i) (hs : t.tasks.own.contains .sleep = false) :
    (rested t now i st).tasks.own = t.tasks.own ++ [.sleep] := by
  unfold rested
  rw [if_pos hc]
  exact raiseOwn_own Upcall.noConfusion hs

theorem rested_sleeps {i : Nat} {st : TaskState} (hc : t.tasks.current ≠ some i) (hs : st = .ready ∨ st = .selected) :
    rested t now i st = t.onTasks fun k => (k.onBlock i fun b => { b with state := .sleep }).unready i := by
  unfold rested
  rw [if_neg hc]
  rcases hs with rfl | rfl <;> rfl

/-! ### `wake` -/

theorem doWake_done (hg : gone (t.tasks.block (busBits o.a 31 0)) = false) : (doWake t now o).carriedOut o (now + 1) Ok := by
  rw [doWake, hg]
  exact tkDone_ok _ _ _ _ _ _

theorem doWake_refused (hg : gone (t.tasks.block (busBits o.a 31 0)) = true) : (doWake t now o).carriedOut o (now + 1) Refused := by
  rw [doWake, hg]
  exact tkDone_refused _ _ _ _ _ _

theorem gone_of {b : Block} (h : b.state = .free ∨ b.state = .inbound) : gone b = true := by
  rcases h with h | h <;> rw [gone, h]

theorem not_gone {b : Block} (hf : b.state ≠ .free) (hi : b.state ≠ .inbound) : gone b = false := by
  unfold gone
  split
  · next h => exact absurd h hf
  · next h => exact absurd h hi
  · rfl

theorem doWake_tasks {u : Tile} {f : Bool} (hw : t.wakeTask now (busBits o.a 31 0) .wakeOp = (u, f)) : (doWake t now o).tasks = u.tasks := by
  rw [doWake, hw]
  rfl

theorem doWake_sets (hw : (t.wakeTask now (busBits o.a 31 0) .wakeOp).2 = true) : (doWake t now o).carriedOut o (now + 1) fun r => r.s.getLsbD 3 = true := by
  rw [doWake, hw]
  exact tkDone_carriedOut _ _ (tkStatus_pend ..)

/-! ### `prio`, `next` -/

theorem doPrio_gives (t : Tile) (now : Nat) (o : DlOp) : (t.doPrio now o).carriedOut o (now + 1) (Gives (t.tasks.block (busBits o.a 31 0)).word) := by
  unfold Tile.doPrio
  dsimp only
  repeat' split
  all_goals exact tkDone_gives _ _ _ _ _

theorem doPrio_reads (hb : o.b.getLsbD 63 = true) : (t.doPrio now o).tasks = t.tasks := by
  unfold Tile.doPrio
  dsimp only
  rw [if_pos hb]
  rfl

theorem doPrio_free (hb : o.b.getLsbD 63 = false) (hs : (t.tasks.block (busBits o.a 31 0)).state = .free) : t.doPrio now o =
    t.tkDone o (now + 1) (some (BitVec.ofNat 512 (t.tasks.block (busBits o.a 31 0)).word)) (tkStatus false false true) := by
  unfold Tile.doPrio
  dsimp only
  rw [if_neg (Bool.eq_false_iff.mp hb), if_pos hs]

theorem doPrio_sets (hb : o.b.getLsbD 63 = false) (hs : (t.tasks.block (busBits o.a 31 0)).state ≠ .free) :
    (t.doPrio now o).carriedOut o (now + 1) Ok ∧ (t.doPrio now o).tasks.block (busBits o.a 31 0)
      = { t.tasks.block (busBits o.a 31 0) with bprio := BitVec.ofNat 2 (busBits o.b 1 0), eprio := BitVec.ofNat 2 (busBits o.b 1 0), age := 0 } := by
  unfold Tile.doPrio
  dsimp only
  rw [if_neg (Bool.eq_false_iff.mp hb), if_neg hs]
  refine ⟨tkDone_ok _ _ _ _ _ _, ?_⟩
  rw [tkDone_tasks]
  split
  · rw [onTasks_tasks, enter_block, onTasks_tasks, block_onBlock_same]
  · rw [onTasks_tasks, block_onBlock_same]

theorem doNext_none (h : t.tasks.headId = none) : t.doNext now o = t.tkDone o (now + 1) (some 0) (tkStatus false true false) := by
  unfold Tile.doNext
  rw [h]

theorem doNext_done {i : Nat} (h : t.tasks.headId = some i) :
    (t.doNext now o).carriedOut o (now + 1) Ok ∧ (t.doNext now o).carriedOut o (now + 1) (Gives i) := by
  unfold Tile.doNext
  rw [h]
  exact ⟨tkDone_ok _ _ _ _ _ _, tkDone_gives _ _ _ _ _⟩

theorem doNext_reads {i : Nat} (h : t.tasks.headId = some i) (hv : o.val = 1) :
    t.doNext now o = t.tkDone o (now + 1) (some (BitVec.ofNat 512 i)) (tkStatus false false false) := by
  unfold Tile.doNext
  rw [h]
  dsimp only
  rw [if_pos hv]

theorem doNext_takes {i : Nat} (h : t.tasks.headId = some i) (hv : o.val ≠ 1) :
    t.doNext now o = (t.onTasks fun k => (k.onBlock i fun b => { b with state := .selected, eprio := b.bprio, age := 0 }).unready i).tkDone o (now + 1)
      (some (BitVec.ofNat 512 i)) (tkStatus false false false) := by
  unfold Tile.doNext
  rw [h]
  dsimp only
  rw [if_neg hv]

/-! ### `resume` and `tidle` -/

theorem takePend_some {c : Upcall} {i : Nat} {r : List (Upcall × Nat)} (h : t.tasks.pend = (c, i) :: r) :
    t.takePend = some (upcallWord c i !r.isEmpty, t.onTasks fun k => { k with pend := r }) := by
  unfold Tile.takePend
  rw [h]

theorem takePend_none (h : t.tasks.pend = []) : t.takePend = none := by
  unfold Tile.takePend
  rw [h]

theorem doResume_pend {c : Upcall} {i : Nat} {r : List (Upcall × Nat)} (h : t.tasks.pend = (c, i) :: r) :
    t.doResume now o = (t.onTasks fun k => { k with pend := r }).tkDone o (now + 1) (some (BitVec.ofNat 512 (upcallWord c i !r.isEmpty)))
      (tkStatus true false false) := by
  unfold Tile.doResume
  rw [takePend_some h]

theorem doTidle_pend {c : Upcall} {i : Nat} {r : List (Upcall × Nat)} (h : t.tasks.pend = (c, i) :: r) :
    t.doTidle now o = (t.onTasks fun k => { k with pend := r }).tkDone o (now + 1) (some (BitVec.ofNat 512 (upcallWord c i !r.isEmpty)))
      (tkStatus false false false) := by
  unfold Tile.doTidle
  rw [takePend_some h]

section
variable (hp : t.tasks.pend = [])
include hp

theorem doResume_halted (hl : (t.bank 0).life = .halted) : (t.doResume now o).carriedOut o (now + 1) Refused := by
  unfold Tile.doResume
  rw [takePend_none hp]
  dsimp only
  rw [if_pos hl]
  exact tkDone_refused _ _ _ _ _ _

theorem doResume_handler (hl : (t.bank 0).life ≠ .halted) (hr : t.run = 3) : t.doResume now o = t := by
  unfold Tile.doResume
  rw [takePend_none hp]
  dsimp only
  rw [if_neg hl, if_pos hr]

theorem doTidle_ready {i : Nat} (h : t.tasks.headId = some i) : t.doTidle now o =
    t.tkDone o (now + 1) (some (BitVec.ofNat 512 (upcallWord .ready i false))) (tkStatus false false false) := by
  unfold Tile.doTidle
  rw [takePend_none hp]
  dsimp only
  rw [h]

theorem doTidle_halted (h : t.tasks.headId = none) (hl : (t.bank 0).life = .halted) :
    (t.doTidle now o).carriedOut o (now + 1) Refused := by
  unfold Tile.doTidle
  rw [takePend_none hp]
  dsimp only
  rw [h]
  dsimp only
  rw [if_pos hl]
  exact tkDone_refused _ _ _ _ _ _

theorem doTidle_waits (h : t.tasks.headId = none) (hl : (t.bank 0).life ≠ .halted) :
    t.doTidle now o = t.putOp { o with st := .waiting, due := now + 1 } := by
  unfold Tile.doTidle
  rw [takePend_none hp]
  dsimp only
  rw [h]
  dsimp only
  rw [if_neg hl]

section
variable (hr : t.run ≠ 3)
include hr

theorem doResume_refused (hb : (t.tasks.block (busBits o.a 31 0)).state ≠ .selected ∨
      (t.tasks.block (busBits o.a 31 0)).loc = 0 ∧ BitVec.ofNat 2 (busBits o.b 1 0) = 0) : (t.doResume now o).carriedOut o (now + 1) Refused := by
  by_cases hl : (t.bank 0).life = .halted
  · exact doResume_halted hp hl
  unfold Tile.doResume
  rw [takePend_none hp]
  dsimp only
  rw [if_neg hl, if_neg hr]
  by_cases hs : (t.tasks.block (busBits o.a 31 0)).state = .selected
  · obtain ⟨hloc, hk⟩ := hb.resolve_left (not_not.mpr hs)
    rw [if_neg (not_not.mpr hs), if_neg (not_not.mpr hloc), if_pos hk]
    exact tkDone_refused _ _ _ _ _ _
  · rw [if_pos hs]
    exact tkDone_refused _ _ _ _ _ _

section
variable (hl : (t.bank 0).life ≠ .halted) (hs : (t.tasks.block (busBits o.a 31 0)).state = .selected)
include hl hs

theorem doResume_switches (hloc : (t.tasks.block (busBits o.a 31 0)).loc ≠ 0) :
    t.doResume now o = (t.putOp { o with st := .waiting }).switchTo now (busBits o.a 31 0) := by
  unfold Tile.doResume
  rw [takePend_none hp]
  dsimp only
  rw [if_neg hl, if_neg hr, if_neg (not_not.mpr hs), if_pos hloc]

variable (hloc : (t.tasks.block (busBits o.a 31 0)).loc = 0) (hk : BitVec.ofNat 2 (busBits o.b 1 0) ≠ 0)
include hloc hk

theorem doResume_loads (hres : t.resident (BitVec.ofNat 2 (busBits o.b 1 0)) = none) (hfree : t.bankFree now (BitVec.ofNat 2 (busBits o.b 1 0)) = true) :
    t.doResume now o = (Tile.putOp { t with queue := t.queue.filter fun p => p.bank ≠ BitVec.ofNat 2 (busBits o.b 1 0) } { o with st := .waiting }).startLoad
      o.id (busBits o.a 31 0) (BitVec.ofNat 2 (busBits o.b 1 0)) (now + 8) := by
  unfold Tile.doResume
  rw [takePend_none hp]
  dsimp only
  rw [if_neg hl, if_neg hr, if_neg (not_not.mpr hs), if_neg (not_not.mpr hloc), if_neg hk, hres]
  dsimp only
  rw [if_neg (by simp [hfree])]

theorem doResume_waits (hres : t.resident (BitVec.ofNat 2 (busBits o.b 1 0)) = none) (hfree : t.bankFree now (BitVec.ofNat 2 (busBits o.b 1 0)) = false) :
    t.doResume now o = t := by
  unfold Tile.doResume
  rw [takePend_none hp]
  dsimp only
  rw [if_neg hl, if_neg hr, if_neg (not_not.mpr hs), if_neg (not_not.mpr hloc), if_neg hk, hres]
  dsimp only
  rw [if_pos (by simp [hfree])]

theorem doResume_ungranted {v : Nat} (hres : t.resident (BitVec.ofNat 2 (busBits o.b 1 0)) = some v)
    (h : o.b.getLsbD 2 = false ∨ t.compact (BitVec.ofNat 2 (busBits o.b 1 0)) = false) : (t.doResume now o).carriedOut o (now + 1) Refused := by
  unfold Tile.doResume
  rw [takePend_none hp]
  dsimp only
  rw [if_neg hl, if_neg hr, if_neg (not_not.mpr hs), if_neg (not_not.mpr hloc), if_neg hk, hres]
  dsimp only
  rw [if_pos (by simpa using h)]
  exact tkDone_refused _ _ _ _ _ _

theorem doResume_saves {v : Nat} (hres : t.resident (BitVec.ofNat 2 (busBits o.b 1 0)) = some v) (hg : o.b.getLsbD 2 = true)
    (hc : t.compact (BitVec.ofNat 2 (busBits o.b 1 0)) = true) : t.doResume now o =
      (t.onTasks fun q => { (q.onBlock v fun b => { b with kept := b.state, state := .saving }).unready v with
        work := some (.save o.id v (BitVec.ofNat 2 (busBits o.b 1 0)).toNat (now + 8)) }).putOp { o with st := .waiting } := by
  unfold Tile.doResume
  rw [takePend_none hp]
  dsimp only
  rw [if_neg hl, if_neg hr, if_neg (not_not.mpr hs), if_neg (not_not.mpr hloc), if_neg hk, hres]
  dsimp only
  rw [if_neg (by rw [hg, hc]; decide)]

end

end

end

/-! ### `msgrd`, `spawn` -/

theorem doMsgrd_empty (h : (t.tasks.block (o.task.getD 0)).mail = []) : t.doMsgrd now o =
    t.putOp { o with st := .performed, due := now + 1, res := some { x := some 0, y := some 0, s := tkStatus false true false } } := by
  unfold Tile.doMsgrd
  dsimp only
  rw [h]

theorem doMsgrd_reads {m : Dword × Dword} {r : List (Dword × Dword)} (h : (t.tasks.block (o.task.getD 0)).mail = m :: r) : t.doMsgrd now o =
    (t.onTasks fun k => k.onBlock (o.task.getD 0) fun b => { b with mail := r }).putOp
      { o with st := .performed, due := now + 1, res := some { x := some (m.1.setWidth 512), y := some (m.2.setWidth 512), s := tkStatus false false false } } := by
  unfold Tile.doMsgrd
  dsimp only
  rw [h]

section
variable (hf : (t.tasks.block (busBits o.c 4 0)).state = .free)
include hf

theorem doSpawn_creates (hk : busBits o.c 13 12 = 0) :
    t.doSpawn now o = (t.onTasks fun k => { k with work := some (.create o.id (now + 8)) }).putOp { o with st := .active } := by
  unfold Tile.doSpawn
  dsimp only
  rw [if_pos hk, if_pos hf]

theorem doSpawn_receives (hk : busBits o.c 13 12 = 1) :
    t.doSpawn now o = (t.onTasks fun k => k.setBlock (busBits o.c 4 0) { state := .inbound, area := busBits o.c 50 32 }).tkDone o (now + 1) none
      (tkStatus false false false) := by
  unfold Tile.doSpawn
  dsimp only
  rw [if_neg (by omega), if_pos hk, if_pos hf]

end

theorem doSpawn_refused (hk : busBits o.c 13 12 ≤ 1) (hf : (t.tasks.block (busBits o.c 4 0)).state ≠ .free) :
    (t.doSpawn now o).carriedOut o (now + 1) Refused := by
  unfold Tile.doSpawn
  dsimp only
  by_cases h : busBits o.c 13 12 = 0
  · rw [if_pos h, if_neg hf]
    exact tkDone_refused _ _ _ _ _ _
  · rw [if_neg h, if_pos (by omega), if_neg hf]
    exact tkDone_refused _ _ _ _ _ _

theorem doSpawn_frees (hk : 2 ≤ busBits o.c 13 12) (hi : (t.tasks.block (busBits o.c 4 0)).state = .inbound) :
    t.doSpawn now o = ((t.orphan (busBits o.c 4 0)).onTasks fun k => (k.setBlock (busBits o.c 4 0) {}).unready (busBits o.c 4 0)).tkDone o (now + 1) none
      (tkStatus false false false) := by
  unfold Tile.doSpawn
  dsimp only
  rw [if_neg (by omega), if_neg (by omega), hi]
  rfl

end

/-- The tile after its tick, for the change that the operation's kind stands for. -/
theorem tileAt_tkTick {s : State} {a : Nat} {o : DlOp} {f : Tile → Tile} (h : s.tkHead a = some o) (hf : tkPerform s a o = s.onTile a f) :
    ((s.tkTick a).tileAt a).tasks = (f (s.tileAt a)).tasks ∧ ((s.tkTick a).tileAt a).queue = (f (s.tileAt a)).queue
      ∧ ((s.tkTick a).tileAt a).run = (f (s.tileAt a)).run ∧ ((s.tkTick a).tileAt a).ready = (f (s.tileAt a)).ready := by
  rw [tkTick_some h, hf, tileAt_onTile]
  exact ⟨rfl, rfl, rfl, rfl⟩

theorem carriedOut_congr {t u : Tile} {o : DlOp} {due : Nat} {f : Res → Prop} (h : u.queue = t.queue) : u.carriedOut o due f ↔ t.carriedOut o due f := by
  unfold Tile.carriedOut
  rw [h]

theorem next_queues (h : Head) : Queues (.next h) h .tk none (fun st s => s.self.tasked = true ∧ st.bank = 0)
    (fun st _ => { newOp st .next true 0 with val := (st.v.getLsbD 63).toNat }) noTag noEvent :=
  queuesPlain_of (sp := specNext) rfl rfl rfl rfl Sock.noConfusion fun st s ⟨ht, hb⟩ => if_neg (by simp [ht, hb])

theorem next_traps (h : Head) : Traps (.next h) h .tk none (fun st s => s.self.tasked = false ∨ st.bank ≠ 0) .illegalBundle (fun _ => 0) (fun _ => 0) :=
  trapsPlain_of (sp := specNext) rfl rfl rfl rfl Sock.noConfusion fun st s hx => if_pos (by simpa using hx)

/-- Settles O41: each trigger by its checks, and each kind of operation by what its tile does with it. -/
theorem taskTriggers : Obligations.TaskTriggers := by
  refine ⟨fun h => ?triggers, spawn_triggers, fun s a o h => ⟨fun hk => ?yield, fun hk i ho => ?sleep, fun hk => ?wake, fun hk => ?prio, fun hk => ?timer,
    fun hk => ?next, fun hk => ?resume, fun hk => ?msgrd, fun hk => ?cload, fun hk => ?tidle, fun hk => ?spawn⟩, fun s a => tkTick_none,
    fun s a o p hp hk hw hb hid h => tkHead_ne_behind h hp hk hw hb hid⟩
  case triggers =>
    refine ⟨taskOp_of (check := noCheck) rfl rfl fun _ _ => rfl, taskOp_of (check := noCheck) rfl rfl fun _ _ => rfl,
      taskOp_of (check := aCheck) rfl rfl fun _ => idCheck_named, taskOp_of (check := aCheck) rfl rfl fun _ => idCheck_named,
      taskOp_of (check := noCheck) rfl rfl fun _ _ => rfl, taskOp_of (specOf_resume h) rfl fun _ hx => resumeCheck_passes hx.1 hx.2,
      taskOp_of (check := noCheck) rfl rfl fun _ _ => rfl, taskOp_of (check := noCheck) rfl rfl fun _ _ => rfl,
      taskOp_of (check := noCheck) rfl rfl fun _ _ => rfl, next_queues h, next_traps h,
      taskTraps_of (check := aCheck) rfl rfl fun _ _ ⟨ht, hb, hn⟩ => ⟨ht, List.contains_iff_mem.mp hb, idCheck_other hn⟩,
      taskTraps_of (check := aCheck) rfl rfl fun _ _ ⟨ht, hb, hn⟩ => ⟨ht, List.mem_singleton.mpr hb, idCheck_other hn⟩,
      taskTraps_of (specOf_resume h) rfl fun _ _ ⟨ht, hb, hn⟩ => ⟨ht, List.mem_singleton.mpr hb, resumeCheck_fails hn⟩⟩
  case yield =>
    obtain ⟨ht, hq, -, -⟩ := tileAt_tkTick h (f := fun t => doYield t s.tick o) (by rw [tkPerform, hk])
    simp only [ht, carriedOut_congr hq]
    exact ⟨tkDone_ok _ _ _ _ _ _, fun i => doYield_own⟩
  case sleep =>
    obtain ⟨ht, hq, -, -⟩ := tileAt_tkTick h (f := fun t => t.doSleep s.tick o) (by rw [tkPerform, hk])
    simp only [ht, carriedOut_congr hq]
    refine ⟨doSleep_done, fun hw => ?returns, fun hw hm => ?rests⟩
    case returns =>
      rw [doSleep_returns ho hw, tkDone_tasks, onTasks_tasks, block_onBlock_same]
      exact ⟨rfl, rfl, tkDone_carriedOut _ _ (tkStatus_pend ..)⟩
    case rests =>
      rw [doSleep_rests ho hw hm, tkDone_tasks]
      refine ⟨(rested_deadline ..).trans ?_, rested_own (t := timed _ o i), fun hc hs => ?_⟩
      · rw [timed, onTasks_tasks, block_onBlock_same]
      · rw [rested_sleeps (t := timed _ o i) hc hs, onTasks_tasks, unready_block, block_onBlock_same]
        exact ⟨rfl, fun l => not_mem_unready⟩
  case wake =>
    obtain ⟨ht, hq, -, -⟩ := tileAt_tkTick h (f := fun t => doWake t s.tick o) (by rw [tkPerform, hk])
    simp only [ht, carriedOut_congr hq]
    refine ⟨fun hs => doWake_refused (gone_of hs), fun hf hi => doWake_done (not_gone hf hi), fun hs => ?readied, fun hs => ?set, fun hs => ?recorded⟩
    case readied => rw [doWake_tasks (wakeTask_readies hs Wake.noConfusion), makeReady_block_same]
    case set =>
      rw [doWake_tasks (wakeTask_sets hs), onTasks_tasks, block_onBlock_same]
      exact ⟨rfl, rfl, doWake_sets (by rw [wakeTask_sets hs])⟩
    case recorded =>
      rw [doWake_tasks (wakeTask_records hs), onTasks_tasks, block_onBlock_same]
      exact ⟨rfl, rfl, rfl⟩
  case prio =>
    obtain ⟨ht, hq, -, -⟩ := tileAt_tkTick h (f := fun t => t.doPrio s.tick o) (by rw [tkPerform, hk])
    simp only [ht, carriedOut_congr hq]
    refine ⟨doPrio_gives _ _ _, doPrio_reads, fun hb hs => ?free, fun hb hs => ?sets⟩
    case free =>
      rw [doPrio_free hb hs]
      exact ⟨tkDone_refused _ _ _ _ _ _, rfl⟩
    case sets =>
      obtain ⟨hdone, hblock⟩ := doPrio_sets (now := s.tick) hb hs
      rw [hblock]
      exact ⟨hdone, rfl, rfl, rfl⟩
  case timer =>
    obtain ⟨ht, hq, -, -⟩ := tileAt_tkTick h (f := fun t => doTimer t s.tick o) (by rw [tkPerform, hk])
    simp only [ht, carriedOut_congr hq]
    exact ⟨tkDone_ok _ _ _ _ _ _, tkDone_gives _ _ _ _ _, rfl⟩
  case next =>
    obtain ⟨ht, hq, -, -⟩ := tileAt_tkTick h (f := fun t => t.doNext s.tick o) (by rw [tkPerform, hk])
    simp only [ht, carriedOut_congr hq]
    refine ⟨fun hn => ?none, fun i hi => ?some⟩
    case none =>
      rw [doNext_none hn]
      exact ⟨tkDone_ok _ _ _ _ _ _, tkDone_gives _ _ _ 0 _, tkDone_carriedOut _ _ (tkStatus_empty ..)⟩
    case some =>
      refine ⟨(doNext_done hi).1, (doNext_done hi).2, fun hv => ?_, fun hv => ?_⟩
      · rw [doNext_reads hi hv, tkDone_tasks]
      · rw [doNext_takes hi hv, tkDone_tasks, onTasks_tasks, unready_block, block_onBlock_same]
        exact ⟨rfl, fun l => not_mem_unready⟩
  case resume =>
    obtain ⟨ht, hq, hr, hy⟩ := tileAt_tkTick h (f := fun t => t.doResume s.tick o) (by rw [tkPerform, hk])
    simp only [ht, hq, hr, hy, carriedOut_congr hq]
    refine ⟨fun c i r hp => ?upcall, doResume_halted, fun hp hl h3 => ?handler, doResume_refused, fun hp hl h3 hs hloc => ?switches,
      fun hp hl h3 hs hloc hk => ⟨fun hres hfree => ?loads, fun hres hfree => ?waits, fun v hres => ⟨doResume_ungranted hp h3 hl hs hloc hk hres, fun hg hc => ?saves⟩⟩⟩
    case upcall =>
      rw [doResume_pend hp]
      exact ⟨tkDone_ok _ _ _ _ _ _, tkDone_gives _ _ _ _ _, rfl⟩
    case handler =>
      rw [doResume_handler hp hl h3]
      exact ⟨rfl, rfl⟩
    case switches =>
      rw [doResume_switches hp h3 hl hs hloc]
      exact ⟨rfl, rfl, switchTo_running .., rfl⟩
    case loads =>
      rw [doResume_loads hp h3 hl hs hloc hk hres hfree]
      exact ⟨startLoad_loading .., rfl⟩
    case waits =>
      rw [doResume_waits hp h3 hl hs hloc hk hres hfree]
      exact ⟨rfl, rfl⟩
    case saves =>
      rw [doResume_saves hp h3 hl hs hloc hk hres hg hc]
      exact ⟨congrArg Block.state (block_onBlock_same (s.tileAt a).tasks v fun b => { b with kept := b.state, state := .saving }), rfl⟩
  case msgrd =>
    obtain ⟨ht, hq, -, -⟩ := tileAt_tkTick h (f := fun t => t.doMsgrd s.tick o) (by rw [tkPerform, hk])
    simp only [ht, carriedOut_congr hq]
    refine ⟨fun hm => ?empty, fun m r hm => ?reads⟩
    case empty =>
      rw [doMsgrd_empty hm]
      exact putOp_carriedOut _ _ ⟨rfl, rfl, tkStatus_empty ..⟩
    case reads =>
      rw [doMsgrd_reads hm]
      refine ⟨?_, putOp_carriedOut _ _ ⟨rfl, rfl, tkStatus_empty ..⟩⟩
      rw [putOp_tasks, onTasks_tasks, block_onBlock_same]
  case cload =>
    obtain ⟨ht, hq, -, -⟩ := tileAt_tkTick h (f := fun t => doCload s t o) (by rw [tkPerform, hk])
    simp only [carriedOut_congr hq]
    exact ⟨tkDone_ok _ _ _ _ _ _, tkDone_carriedOut _ _ rfl⟩
  case tidle =>
    obtain ⟨ht, hq, -, -⟩ := tileAt_tkTick h (f := fun t => t.doTidle s.tick o) (by rw [tkPerform, hk])
    simp only [hq, carriedOut_congr hq]
    refine ⟨fun c i r hp => ?upcall, fun i hp hi => ?ready, doTidle_halted, fun hp hn hl => ?waits⟩
    case upcall =>
      rw [doTidle_pend hp]
      exact ⟨tkDone_ok _ _ _ _ _ _, tkDone_gives _ _ _ _ _⟩
    case ready =>
      rw [doTidle_ready hp hi]
      exact ⟨tkDone_ok _ _ _ _ _ _, tkDone_gives _ _ _ _ _⟩
    case waits =>
      rw [doTidle_waits hp hn hl]
      intro p hp hid
      rw [eq_of_mem_putOp hp hid]
      exact ⟨rfl, rfl⟩
  case spawn =>
    obtain ⟨ht, hq, -, -⟩ := tileAt_tkTick h (f := fun t => t.doSpawn s.tick o) (by rw [tkPerform, hk])
    simp only [ht, carriedOut_congr hq]
    refine ⟨fun hz hf => ?creates, doSpawn_refused, fun h1 hf => ?receives, fun h2 hi => ?frees⟩
    case creates => rw [doSpawn_creates hf hz, putOp_tasks, onTasks_tasks]
    case receives =>
      rw [doSpawn_receives hf h1, tkDone_tasks, onTasks_tasks, block_setBlock_same]
      exact ⟨tkDone_ok _ _ _ _ _ _, rfl, rfl⟩
    case frees =>
      rw [doSpawn_frees h2 hi, tkDone_tasks, onTasks_tasks, unready_block, block_setBlock_same]
      exact ⟨tkDone_ok _ _ _ _ _ _, rfl⟩

end Sys2Proof.Proofs.TaskOps
end

section
/-! PROOF. A running task leaves its bank (R396, R400, R401): TASK_SWITCH_OUT. -/

namespace Sys2Proof.Proofs.TaskLeave

open Sys2Proof Sys2Proof.Machine Sys2Proof.Laws Sys2Proof.Proofs.Tasks

/-! ## Wakes while no task runs and no `tidle` waits -/

/-- No task runs in the tile, and no `tidle` of it waits. -/
structure Quiet (t : Tile) : Prop where
  current : t.tasks.current = none
  tidle : ∀ o ∈ t.queue, o.kind = .tidle → o.st ≠ .waiting

/-- The tile with other control blocks and another ready queue. -/
def withBlocks (t : Tile) (bs : Vector Block 32) (q : Vector (List Nat) 4) : Tile := t.onTasks fun k => { k with blocks := bs, rq := q }

theorem quiet_withBlocks {t : Tile} {bs : Vector Block 32} {q : Vector (List Nat) 4} (h : Quiet t) : Quiet (withBlocks t bs q) := ⟨h.current, h.tidle⟩

theorem tidleEnd_of_quiet {t : Tile} (h : Quiet t) (now : Nat) (c : Upcall) (id : Nat) : t.tidleEnd now c id = t := by
  unfold Tile.tidleEnd
  rw [List.find?_eq_none.mpr fun o ho => by simpa using h.tidle o ho]

theorem wakeTask_of_quiet {t : Tile} (h : Quiet t) (now i : Nat) (w : Wake) : ∃ bs q, (t.wakeTask now i w).1 = withBlocks t bs q := by
  obtain hw | hw | hw | hw := wakeTask_cases t now i w <;> rw [hw]
  · exact ⟨t.tasks.blocks, t.tasks.rq, rfl⟩
  · have hp : preempted (readied t i false) now i = readied t i false := by
      unfold preempted
      rw [show (readied t i false).tasks.current = none from h.current]
    rw [makeReady_eq, hp, tidleEnd_of_quiet (t := readied t i false) ⟨h.current, h.tidle⟩]
    exact ⟨_, _, rfl⟩
  · exact ⟨_, _, rfl⟩
  · exact ⟨_, _, rfl⟩

theorem wakes_of_quiet (now i : Nat) (ws : List Wake) : ∀ {t : Tile}, Quiet t →
    ∃ bs q, ws.foldl (fun t w => (t.wakeTask now i w).1) t = withBlocks t bs q := by
  induction ws with
  | nil => exact fun {t} _ => ⟨t.tasks.blocks, t.tasks.rq, rfl⟩
  | cons w ws ih =>
    intro t h
    obtain ⟨bs, q, hw⟩ := wakeTask_of_quiet h now i w
    obtain ⟨bs', q', hr⟩ := ih (quiet_withBlocks (bs := bs) (q := q) h)
    exact ⟨bs', q', by rw [List.foldl_cons, hw, hr]; rfl⟩

theorem applyWakes_of_quiet {t : Tile} (h : Quiet t) (now i : Nat) : ∃ bs q, t.applyWakes now i = withBlocks t bs q := by
  obtain ⟨bs, q, hr⟩ := wakes_of_quiet now i (t.tasks.block i).recorded (t := t.onTasks fun k => k.onBlock i fun b => { b with recorded := [] })
    ⟨h.current, h.tidle⟩
  exact ⟨bs, q, hr.trans rfl⟩

/-- Where no wake was recorded none is applied. -/
theorem applyWakes_of_none {t : Tile} {i : Nat} (h : (t.tasks.block i).recorded = []) (now : Nat) :
    t.applyWakes now i = t.onTasks fun k => k.onBlock i fun b => { b with recorded := [] } := by
  unfold Tile.applyWakes
  dsimp only
  rw [h]
  rfl

/-! ## The state of a task after its cause (Table 17.3) -/

/-- What the leave of a task keeps: its tile's sleep and ready tick, the upcalls, and the operations but for the tasks that they name. -/
structure Leaves (t v : Tile) : Prop where
  ready : v.ready = t.ready
  asleep : v.asleep = t.asleep
  sleepd : v.sleepd = t.sleepd
  pend : v.tasks.pend = t.tasks.pend
  queue : ∃ off : Option Nat → Option Nat, v.queue = t.queue.map fun o => { o with task := off o.task }

theorem Leaves.of_queue {t v : Tile} (hr : v.ready = t.ready) (ha : v.asleep = t.asleep) (hs : v.sleepd = t.sleepd) (hp : v.tasks.pend = t.tasks.pend)
    (hq : v.queue = t.queue) : Leaves t v :=
  ⟨hr, ha, hs, hp, id, hq.trans (List.map_id t.queue).symm⟩

theorem Leaves.trans_queue {t v w : Tile} (h : Leaves t v) (hr : w.ready = v.ready) (ha : w.asleep = v.asleep) (hs : w.sleepd = v.sleepd)
    (hp : w.tasks.pend = v.tasks.pend) (hq : w.queue = v.queue) : Leaves t w := by
  obtain ⟨off, hv⟩ := h.queue
  exact ⟨hr.trans h.ready, ha.trans h.asleep, hs.trans h.sleepd, hp.trans h.pend, off, hq.trans hv⟩

section
variable {t : Tile} {now u : Nat} {c : Upcall}

theorem leaves_halt (t : Tile) (k : BitVec 2) (u : Nat) : Leaves t (((t.clearBank k {}).orphan u).onTasks fun q => q.setBlock u {}) where
  ready := by rw [onTasks_ready, orphan_ready, clearBank_ready]
  asleep := by rw [onTasks_asleep, orphan_asleep, clearBank_asleep]
  sleepd := by rw [onTasks_sleepd, orphan_sleepd, clearBank_sleepd]
  pend := by rw [onTasks_tasks, orphan_tasks, clearBank_tasks]; rfl
  queue := ⟨fun x => if x = some u then some 32 else x, by rw [onTasks_queue, orphan_queue, clearBank_queue]⟩

theorem leaves_afterLeave (t : Tile) (now u : Nat) (c : Upcall) : Leaves t (t.afterLeave now u c) := by
  unfold Tile.afterLeave
  cases c with
  | halt => exact leaves_halt ..
  | fault =>
    dsimp only
    split
    · exact .of_queue rfl rfl rfl rfl rfl
    · exact .of_queue rfl rfl rfl rfl rfl
  | none | yield | sleep | timer | preempt | ready | kmsg => exact .of_queue rfl rfl rfl rfl rfl

/-- The park of a task keeps everything but the tasks' blocks and the ready queue. -/
theorem parkLeft_eq (t : Tile) (u : Nat) : t.parkLeft u = t ∨ t.parkLeft u = t.onTasks fun k => (k.onBlock u fun b => { b with state := .parked }).unready u := by
  unfold Tile.parkLeft
  split
  · split
    · exact Or.inr rfl
    · exact Or.inl rfl
  · split
    · exact Or.inr rfl
    · exact Or.inl rfl
  all_goals exact Or.inl rfl

theorem parkLeft_unpending (h : t.accessPending u = false) : t.parkLeft u = t := by
  unfold Tile.parkLeft
  rw [if_neg (Bool.eq_false_iff.mp h)]
  split <;> rfl

theorem parkLeft_pending (h : t.accessPending u = true) (hs : (t.tasks.block u).state = .ready ∨ (t.tasks.block u).state = .sleep) :
    t.parkLeft u = t.onTasks fun k => (k.onBlock u fun b => { b with state := .parked }).unready u := by
  unfold Tile.parkLeft
  rcases hs with hs | hs <;> rw [hs] <;> exact if_pos h

theorem parkLeft_settled (hs : (t.tasks.block u).state = .parked ∨ (t.tasks.block u).state = .free) : t.parkLeft u = t := by
  unfold Tile.parkLeft
  rcases hs with hs | hs <;> rw [hs]

/-- The tile as its task has left, before what the boundary itself changes. -/
def left (t : Tile) (now u : Nat) (c : Upcall) : Tile := ((t.onBank t.run Strand.fmtNow).afterLeave now u c).parkLeft u

theorem leaves_left (t : Tile) (now u : Nat) (c : Upcall) : Leaves t (left t now u c) := by
  have h : Leaves t ((t.onBank t.run Strand.fmtNow).afterLeave now u c) := by
    obtain ⟨hr, ha, hs, hp, hq⟩ := leaves_afterLeave (t.onBank t.run Strand.fmtNow) now u c
    exact ⟨hr, ha, hs, hp, hq⟩
  unfold left
  obtain hp | hp := parkLeft_eq ((t.onBank t.run Strand.fmtNow).afterLeave now u c) u <;> rw [hp]
  · exact h
  · exact h.trans_queue rfl rfl rfl rfl rfl

theorem afterLeave_halt (t : Tile) (now u : Nat) : (t.afterLeave now u .halt).tasks.block u = {} :=
  block_setBlock_same ((t.clearBank (t.tasks.block u).loc {}).orphan u).tasks u {}

theorem left_halt (t : Tile) (now u : Nat) : (left t now u .halt).tasks.block u = {} := by
  have h := afterLeave_halt (t.onBank t.run Strand.fmtNow) now u
  rw [left, parkLeft_settled (Or.inr (by rw [h])), h]

/-- A task that yields, or is told to leave, is READY; one that sleeps is asleep. -/
theorem afterLeave_ready (hc : c = .yield ∨ c = .timer ∨ c = .preempt ∨ c = .kmsg) :
    (t.afterLeave now u c).tasks.block u = { t.tasks.block u with state := .ready } ∧ (t.afterLeave now u c).queue = t.queue := by
  unfold Tile.afterLeave
  rcases hc with rfl | rfl | rfl | rfl
  all_goals exact ⟨block_onBlock_same t.tasks u fun b => { b with state := .ready }, rfl⟩

theorem afterLeave_sleep (t : Tile) (now u : Nat) :
    (t.afterLeave now u .sleep).tasks.block u = { t.tasks.block u with state := .sleep } ∧ (t.afterLeave now u .sleep).queue = t.queue :=
  ⟨block_onBlock_same t.tasks u fun b => { b with state := .sleep }, rfl⟩

theorem afterLeave_fault (now : Nat) (h : t.accessPending u = true) :
    (t.afterLeave now u .fault).tasks.block u = { t.tasks.block u with state := .parked } := by
  unfold Tile.afterLeave
  dsimp only
  rw [if_pos h]
  exact block_onBlock_same t.tasks u fun b => { b with state := .parked }

theorem accessPending_congr {v : Tile} (h : v.queue = t.queue) (u : Nat) : v.accessPending u = t.accessPending u := by
  unfold Tile.accessPending
  rw [h]

theorem left_ready (h : t.accessPending u = false) (hc : c = .yield ∨ c = .timer ∨ c = .preempt ∨ c = .kmsg) :
    (left t now u c).tasks.block u = { t.tasks.block u with state := .ready } := by
  obtain ⟨hb, hq⟩ := afterLeave_ready (t := t.onBank t.run Strand.fmtNow) (now := now) (u := u) hc
  rw [left, parkLeft_unpending ((accessPending_congr hq u).trans h), hb]
  rfl

theorem left_sleep (now : Nat) (h : t.accessPending u = false) : (left t now u .sleep).tasks.block u = { t.tasks.block u with state := .sleep } := by
  obtain ⟨hb, hq⟩ := afterLeave_sleep (t.onBank t.run Strand.fmtNow) now u
  rw [left, parkLeft_unpending ((accessPending_congr hq u).trans h), hb]
  rfl

/-- A task with a pending access is parked, whatever cause of its own it leaves for. -/
theorem left_parked (h : t.accessPending u = true) (hh : c ≠ .halt) (hn : c ≠ .none) (hr : c ≠ .ready) :
    (left t now u c).tasks.block u = { t.tasks.block u with state := .parked } := by
  have park {v : Tile} {st : TaskState} (hst : st = .ready ∨ st = .sleep) (hb : v.tasks.block u = { t.tasks.block u with state := st }) (hq : v.queue = t.queue) :
      (v.parkLeft u).tasks.block u = { t.tasks.block u with state := .parked } := by
    rw [parkLeft_pending ((accessPending_congr hq u).trans h) (by rw [hb]; exact hst), onTasks_tasks, unready_block, block_onBlock_same, hb]
  have ready (hc : c = .yield ∨ c = .timer ∨ c = .preempt ∨ c = .kmsg) : (left t now u c).tasks.block u = { t.tasks.block u with state := .parked } :=
    park (Or.inl rfl) (afterLeave_ready hc).1 (afterLeave_ready hc).2
  cases c with
  | halt => exact absurd rfl hh
  | none => exact absurd rfl hn
  | ready => exact absurd rfl hr
  | sleep => exact park (Or.inr rfl) (afterLeave_sleep ..).1 (afterLeave_sleep ..).2
  | fault =>
    have hb := afterLeave_fault (t := t.onBank t.run Strand.fmtNow) now h
    rw [left, parkLeft_settled (Or.inl (by rw [hb])), hb]
    rfl
  | yield | timer | preempt | kmsg => exact ready (by simp)

end

/-! ## The boundary -/

/-- The tile at the boundary: no task runs, no cause of it is raised, and those that were not delivered are upcalls. -/
def boundary (t : Tile) (now u : Nat) (c : Upcall) (cs : List Upcall) : Tile :=
  (left t now u c).onTasks fun k =>
    { k.onBlock u (fun b => if c = .sleep then b else { b with deadline := none }) with
        current := none, own := [], raisedPreempt := false, raisedTimer := false, raisedKmsg := false, since := 0,
        pend := k.pend ++ cs.map fun c => (c, u) }

/-- The tile after the wakes of the sleep, when bank0's `resume` has its upcall. -/
def upcalled (t : Tile) (now u : Nat) (c : Upcall) (cs : List Upcall) : Tile :=
  ((boundary t now u c cs).applyWakes now u).resumeEnd now (upcallWord c u !(boundary t now u c cs).tasks.pend.isEmpty)

theorem resumeEnd_frame (t : Tile) (now w : Nat) :
    (t.resumeEnd now w).tasks = t.tasks ∧ (t.resumeEnd now w).ready = t.ready ∧ (t.resumeEnd now w).asleep = t.asleep ∧ (t.resumeEnd now w).sleepd = t.sleepd := by
  unfold Tile.resumeEnd
  split
  · exact ⟨rfl, rfl, rfl, rfl⟩
  · exact ⟨rfl, rfl, rfl, rfl⟩

theorem resumeEnd_carriedOut {t : Tile} {o : DlOp} (now w : Nat) (h : (t.queue.find? fun o => o.kind == .resume && o.st == .waiting) = some o) :
    (t.resumeEnd now w).carriedOut o now fun r => r.x = some (BitVec.ofNat 512 w) := by
  unfold Tile.resumeEnd
  rw [h]
  exact tkDone_carriedOut _ _ rfl

section
variable {t : Tile} {now u : Nat} {c : Upcall} {cs : List Upcall}

theorem leaveTask_eq (hu : t.tasks.current = some u) (hc : t.tasks.raisedCauses = c :: cs) : t.leaveTask now =
    { upcalled t now u c cs with
      run := 0, ready := max (upcalled t now u c cs).ready (max ((t.bank t.run).lastIssue + 4) (now + 1)
        + if (upcalled t now u c cs).asleep then wakeDelay (upcalled t now u c cs).sleepd else 0)
      asleep := false, stalled := 0, stallFrom := none } := by
  unfold Tile.leaveTask
  rw [hu, hc]
  rfl

theorem boundary_state (t : Tile) (now u : Nat) (c : Upcall) (cs : List Upcall) :
    ((boundary t now u c cs).tasks.block u).state = ((left t now u c).tasks.block u).state
      ∧ ((boundary t now u c cs).tasks.block u).recorded = ((left t now u c).tasks.block u).recorded := by
  have h : (boundary t now u c cs).tasks.block u = if c = .sleep then (left t now u c).tasks.block u else { (left t now u c).tasks.block u with deadline := none } :=
    block_onBlock_same (left t now u c).tasks u fun b => if c = .sleep then b else { b with deadline := none }
  rw [h]
  split
  · exact ⟨rfl, rfl⟩
  · exact ⟨rfl, rfl⟩

theorem leaveTask_state (hu : t.tasks.current = some u) (hc : t.tasks.raisedCauses = c :: cs) (hr : ((left t now u c).tasks.block u).recorded = []) :
    ((t.leaveTask now).tasks.block u).state = ((left t now u c).tasks.block u).state := by
  obtain ⟨hst, hrec⟩ := boundary_state t now u c cs
  rw [leaveTask_eq hu hc, ← hst]
  have hw : (upcalled t now u c cs).tasks = (boundary t now u c cs).tasks.onBlock u fun b => { b with recorded := [] } := by
    rw [upcalled, (resumeEnd_frame ..).1, applyWakes_of_none (hrec.trans hr)]
    rfl
  calc ((upcalled t now u c cs).tasks.block u).state
      = (((boundary t now u c cs).tasks.onBlock u fun b => { b with recorded := [] }).block u).state := by rw [hw]
    _ = ((boundary t now u c cs).tasks.block u).state := by rw [block_onBlock_same]

theorem withBlocks_boundary (t : Tile) (now u : Nat) (c : Upcall) (cs : List Upcall) (bs : Vector Block 32) (q : Vector (List Nat) 4) :
    let v := withBlocks (boundary t now u c cs) bs q
    v.queue = (left t now u c).queue ∧ v.ready = (left t now u c).ready ∧ v.asleep = (left t now u c).asleep ∧ v.sleepd = (left t now u c).sleepd ∧ v.tasks.current = none
      ∧ v.tasks.raisedCauses = [] ∧ v.tasks.pend = (left t now u c).tasks.pend ++ cs.map fun c => (c, u) := by
  unfold boundary
  generalize left t now u c = w
  exact ⟨rfl, rfl, rfl, rfl, rfl, rfl, rfl⟩

section
variable (hq : ∀ o ∈ t.queue, o.kind = .tidle → o.st ≠ .waiting)
include hq

theorem quiet_boundary : Quiet (boundary t now u c cs) := by
  obtain ⟨off, hoff⟩ := (leaves_left t now u c).queue
  refine ⟨rfl, fun o ho => ?_⟩
  rw [show (boundary t now u c cs).queue = _ from hoff] at ho
  obtain ⟨p, hp, rfl⟩ := List.mem_map.mp ho
  exact hq p hp

theorem upcalled_spec : ∃ bs q, upcalled t now u c cs =
    (withBlocks (boundary t now u c cs) bs q).resumeEnd now (upcallWord c u !(boundary t now u c cs).tasks.pend.isEmpty) := by
  obtain ⟨bs, q, hw⟩ := applyWakes_of_quiet (quiet_boundary (now := now) (u := u) (c := c) (cs := cs) hq) now u
  exact ⟨bs, q, by rw [upcalled, hw]⟩

variable (hu : t.tasks.current = some u) (hc : t.tasks.raisedCauses = c :: cs)
include hu hc

theorem leaveTask_frame : let v := t.leaveTask now
    v.run = 0 ∧ v.tasks.current = none ∧ v.asleep = false
      ∧ v.ready = max t.ready (max ((t.bank t.run).lastIssue + 4) (now + 1) + if t.asleep = true then wakeDelay t.sleepd else 0)
      ∧ v.tasks.pend = t.tasks.pend ++ cs.map (fun c => (c, u)) ∧ v.tasks.raisedCauses = [] := by
  intro v
  obtain ⟨bs, q, hw⟩ := upcalled_spec (now := now) (u := u) (c := c) (cs := cs) hq
  obtain ⟨htasks, hready, hasleep, hsleepd⟩ :=
    resumeEnd_frame (withBlocks (boundary t now u c cs) bs q) now (upcallWord c u !(boundary t now u c cs).tasks.pend.isEmpty)
  rw [← hw] at htasks hready hasleep hsleepd
  obtain ⟨lready, lasleep, lsleepd, lpend, -⟩ := leaves_left t now u c
  obtain ⟨-, bready, basleep, bsleepd, bcurrent, braised, bpend⟩ := withBlocks_boundary t now u c cs bs q
  have hv : v = _ := leaveTask_eq hu hc
  rw [hv]
  dsimp only
  rw [htasks, hready, hasleep, hsleepd, bready, basleep, bsleepd, lready, lasleep, lsleepd, bcurrent, braised, bpend, lpend]
  exact ⟨rfl, rfl, rfl, rfl, rfl, rfl⟩

theorem leaveTask_resume {o : DlOp} (ho : (t.queue.find? fun o => o.kind == .resume && o.st == .waiting) = some o) :
    (t.leaveTask now).carriedOut o now fun r => r.x = some (BitVec.ofNat 512 (upcallWord c u !(t.leaveTask now).tasks.pend.isEmpty)) := by
  obtain ⟨bs, q, hw⟩ := upcalled_spec (now := now) (u := u) (c := c) (cs := cs) hq
  obtain ⟨off, hoff⟩ := (leaves_left t now u c).queue
  have hp : (boundary t now u c cs).tasks.pend = (t.leaveTask now).tasks.pend := by
    rw [leaveTask_eq hu hc]
    exact (congrArg Tasks.pend ((congrArg Tile.tasks hw).trans (resumeEnd_frame ..).1)).symm
  have hfind : ((withBlocks (boundary t now u c cs) bs q).queue.find? fun o => o.kind == .resume && o.st == .waiting) = some { o with task := off o.task } := by
    rw [(withBlocks_boundary t now u c cs bs q).1, hoff, List.find?_map]
    exact congrArg (Option.map _) ho
  have hdone := resumeEnd_carriedOut now (upcallWord c u !(boundary t now u c cs).tasks.pend.isEmpty) hfind
  rw [← hw, hp] at hdone
  have hqueue : (t.leaveTask now).queue = (upcalled t now u c cs).queue := by rw [leaveTask_eq hu hc]
  intro p hm hid
  rw [hqueue] at hm
  exact hdone p hm hid

end

end

end Sys2Proof.Proofs.TaskLeave
end

section
/-! PROOF. TIMER_UNIT: tasks age, the quantum is counted, deadlines end (R398, R401). -/

namespace Sys2Proof.Proofs.TimerUnits

open Sys2Proof Sys2Proof.Machine Sys2Proof.Laws Sys2Proof.Proofs.Tasks

/-! ## A pass over the control blocks -/

section
variable {f : Tile → Nat → Tile}

theorem keeps_foldl (hf : ∀ t i, Keeps t (f t i)) (l : List Nat) : ∀ t, Keeps t (l.foldl f t) := by
  induction l with
  | nil => exact Keeps.refl
  | cons i l ih => exact fun t => (hf t i).trans (ih (f t i))

variable (hf : ∀ (t : Tile) (i j : Nat), j % 32 ≠ i % 32 → (f t i).tasks.block j = t.tasks.block j) (t : Tile)
include hf

theorem pass_before {j : Nat} (hj : j < 32) : ∀ {n}, n ≤ j → ((List.range n).foldl f t).tasks.block j = t.tasks.block j
  | 0, _ => rfl
  | n + 1, hn => by
    rw [List.range_succ, List.foldl_append]
    exact (hf _ n j (by omega)).trans (pass_before hj (by omega))

/-- A pass that changes one block at a time changes the block `i` at its own step. -/
theorem pass_block {i : Nat} (hi : i < 32) : ∀ {n}, i < n → n ≤ 32 → ∃ u : Tile, u.tasks.block i = t.tasks.block i
    ∧ ((List.range n).foldl f t).tasks.block i = (f u i).tasks.block i
  | n + 1, hn, hmax => by
    rw [List.range_succ, List.foldl_append]
    by_cases h : i = n
    · subst h
      exact ⟨_, pass_before hf t hi le_rfl, rfl⟩
    · obtain ⟨u, hu, hb⟩ := pass_block hi (n := n) (by omega) (by omega)
      exact ⟨u, hu, (hf _ n i (by omega)).trans hb⟩

end

/-! ## Ages (R398) -/

section
variable {t : Tile} {now i : Nat}

/-- A task of age 4,096 is promoted. -/
def promoted (t : Tile) (i : Nat) : Tile := t.onTasks fun k => k.onBlock i fun b => { b with age := 0, eprio := b.eprio + 1 }

theorem ageTask_cases (t : Tile) (now i : Nat) :
    t.ageTask now i = t ∨ t.ageTask now i = (t.onTasks fun k => k.onBlock i fun b => { b with age := b.age + 1 })
      ∨ t.ageTask now i = (promoted t i).makeReady now i false := by
  unfold Tile.ageTask
  dsimp only
  split
  · exact Or.inl rfl
  · split
    · exact Or.inr (Or.inl rfl)
    · exact Or.inr (Or.inr rfl)

theorem keeps_ageTask (t : Tile) (now i : Nat) : Keeps t (t.ageTask now i) := by
  obtain h | h | h := ageTask_cases t now i <;> rw [h]
  · exact Keeps.refl t
  · exact keeps_onBlock ..
  · exact (keeps_onBlock ..).trans (keeps_makeReady ..)

theorem ageTask_other (t : Tile) (now : Nat) {i j : Nat} (hj : j % 32 ≠ i % 32) : (t.ageTask now i).tasks.block j = t.tasks.block j := by
  obtain h | h | h := ageTask_cases t now i <;> rw [h]
  · exact block_onBlock_other _ hj
  · rw [makeReady_block, block_onBlock_other _ hj]
    exact block_onBlock_other _ hj

theorem ageTask_unready (h : (t.tasks.block i).state ≠ .ready) : t.ageTask now i = t := if_pos (Or.inl h)

section
variable (hs : (t.tasks.block i).state = .ready) (he : (t.tasks.block i).eprio ≠ 3)
include hs he

theorem ageTask_young (ha : (t.tasks.block i).age + 1 < 4096) :
    (t.ageTask now i).tasks.block i = { t.tasks.block i with age := (t.tasks.block i).age + 1 } := by
  unfold Tile.ageTask
  dsimp only
  rw [if_neg (not_or.mpr ⟨not_not.mpr hs, he⟩), if_pos ha, onTasks_tasks, block_onBlock_same]

theorem ageTask_old (ha : 4096 ≤ (t.tasks.block i).age + 1) :
    (t.ageTask now i).tasks.block i = { t.tasks.block i with age := 0, eprio := (t.tasks.block i).eprio + 1, state := .ready, deadline := none } := by
  unfold Tile.ageTask
  dsimp only
  rw [if_neg (not_or.mpr ⟨not_not.mpr hs, he⟩), if_neg (Nat.not_lt.mpr ha), makeReady_block_same, onTasks_tasks, block_onBlock_same]

end

/-! ## Deadlines (R398, R399) -/

/-- A task without its deadline. -/
def expired (t : Tile) (i : Nat) : Tile := t.onTasks fun k => k.onBlock i fun b => { b with deadline := none }

theorem expired_block (t : Tile) (i : Nat) : (expired t i).tasks.block i = { t.tasks.block i with deadline := none } := block_onBlock_same ..

theorem endDeadline_cases (t : Tile) (now i : Nat) : (t.tasks.block i).deadline = none ∧ t.endDeadline now i = t
    ∨ ∃ n, (t.tasks.block i).deadline = some n
      ∧ (1 < n ∧ t.endDeadline now i = (t.onTasks fun k => k.onBlock i fun b => { b with deadline := some (n - 1) })
        ∨ n ≤ 1 ∧ t.endDeadline now i = ((expired t i).wakeTask now i .deadline).1) := by
  unfold Tile.endDeadline
  cases hd : (t.tasks.block i).deadline with
  | none => exact Or.inl ⟨rfl, rfl⟩
  | some n =>
    refine Or.inr ⟨n, rfl, ?_⟩
    dsimp only
    split
    · next hn => exact Or.inl ⟨hn, rfl⟩
    · next hn => exact Or.inr ⟨Nat.not_lt.mp hn, rfl⟩

theorem keeps_endDeadline (t : Tile) (now i : Nat) : Keeps t (t.endDeadline now i) := by
  obtain ⟨-, h⟩ | ⟨n, -, ⟨-, h⟩ | ⟨-, h⟩⟩ := endDeadline_cases t now i <;> rw [h]
  · exact Keeps.refl t
  · exact keeps_onBlock ..
  · exact (keeps_onBlock ..).trans (keeps_wakeTask ..)

theorem endDeadline_other (t : Tile) (now : Nat) {i j : Nat} (hj : j % 32 ≠ i % 32) : (t.endDeadline now i).tasks.block j = t.tasks.block j := by
  obtain ⟨-, h⟩ | ⟨n, -, ⟨-, h⟩ | ⟨-, h⟩⟩ := endDeadline_cases t now i <;> rw [h]
  · exact block_onBlock_other _ hj
  · rw [wakeTask_other _ _ _ hj]
    exact block_onBlock_other _ hj

/-- The end of a deadline is no wake for a task that is READY. -/
theorem endDeadline_ready (now : Nat) (hs : (t.tasks.block i).state = .ready) :
    ∃ d, (t.endDeadline now i).tasks.block i = { t.tasks.block i with deadline := d } := by
  obtain ⟨hd, h⟩ | ⟨n, -, ⟨-, h⟩ | ⟨-, h⟩⟩ := endDeadline_cases t now i <;> rw [h]
  · exact ⟨(t.tasks.block i).deadline, rfl⟩
  · exact ⟨some (n - 1), block_onBlock_same ..⟩
  · rw [wakeTask_ready (by rw [expired_block]; exact hs) Wake.noConfusion]
    exact ⟨none, expired_block t i⟩

theorem endDeadline_forever (now : Nat) (hd : (t.tasks.block i).deadline = none) : t.endDeadline now i = t := by
  unfold Tile.endDeadline
  rw [hd]

theorem endDeadline_nears {n : Nat} (now : Nat) (hd : (t.tasks.block i).deadline = some n) (hn : 1 < n) :
    (t.endDeadline now i).tasks.block i = { t.tasks.block i with deadline := some (n - 1) } := by
  unfold Tile.endDeadline
  rw [hd]
  dsimp only
  rw [if_pos hn, onTasks_tasks, block_onBlock_same]

theorem endDeadline_ends {n : Nat} (now : Nat) (hs : (t.tasks.block i).state = .sleep) (hd : (t.tasks.block i).deadline = some n) (hn : n ≤ 1) :
    (t.endDeadline now i).tasks.block i = { t.tasks.block i with state := .ready, deadline := none } := by
  unfold Tile.endDeadline
  rw [hd]
  dsimp only
  rw [if_neg (Nat.not_lt.mpr hn)]
  have hs' : ((expired t i).tasks.block i).state = .sleep := by rw [expired_block]; exact hs
  rw [show (t.onTasks fun k => k.onBlock i fun b => { b with deadline := none }) = expired t i from rfl, wakeTask_readies (Or.inl hs') Wake.noConfusion,
    makeReady_block_same, expired_block]

end

/-! ## The quantum (R398) -/

/-- The run count of the task that runs goes up by one, and TIMER is raised at the quantum. -/
def counted (t : Tile) (now : Nat) : Tile :=
  if t.tasks.current.isSome ∧ t.run ≠ 3 then
    t.onTasks fun k =>
      let n := k.runCount + 1
      if k.quantum ≠ 0 ∧ n = k.quantum then { k.raiseTimer now with runCount := n } else { k with runCount := n }
  else t

theorem raiseTimer_frame (k : Tasks) (now : Nat) : (k.raiseTimer now).raisedTimer = true ∧ (k.raiseTimer now).unitTick = k.unitTick
    ∧ ∀ i, (k.raiseTimer now).block i = k.block i := by
  unfold Tasks.raiseTimer
  split
  · next h => exact ⟨h, rfl, fun _ => rfl⟩
  · exact ⟨rfl, rfl, fun _ => rfl⟩

theorem counted_frame (t : Tile) (now : Nat) : (counted t now).banks = t.banks ∧ (counted t now).sram = t.sram
    ∧ (counted t now).tasks.unitTick = t.tasks.unitTick ∧ ∀ i, (counted t now).tasks.block i = t.tasks.block i := by
  obtain ⟨-, hunit, hblock⟩ := raiseTimer_frame t.tasks now
  unfold counted
  split
  · refine ⟨rfl, rfl, ?_⟩
    rw [onTasks_tasks]
    dsimp only
    split
    · exact ⟨hunit, hblock⟩
    · exact ⟨rfl, fun _ => rfl⟩
  · exact ⟨rfl, rfl, rfl, fun _ => rfl⟩

theorem counted_runs {t : Tile} (now : Nat) (hc : t.tasks.current.isSome = true) (hr : t.run ≠ 3) :
    (counted t now).tasks.runCount = t.tasks.runCount + 1
      ∧ (t.tasks.quantum ≠ 0 → t.tasks.runCount + 1 = t.tasks.quantum → (counted t now).tasks.raisedTimer = true) := by
  unfold counted
  rw [if_pos ⟨hc, hr⟩, onTasks_tasks]
  dsimp only
  split
  · exact ⟨rfl, fun _ _ => (raiseTimer_frame t.tasks now).1⟩
  · next h => exact ⟨rfl, fun hq hn => absurd ⟨hq, hn⟩ h⟩

/-! ## A unit -/

/-- The tile after the ages. -/
def grown (t : Tile) (now : Nat) : Tile := (List.range 32).foldl (fun t i => t.ageTask now i) (t.onTasks fun k => { k with unitTick := now })

theorem keeps_grown (t : Tile) (now : Nat) : Keeps (t.onTasks fun k => { k with unitTick := now }) (grown t now) :=
  keeps_foldl (fun t i => keeps_ageTask t now i) ..

/-- The tile after the ages and the quantum. -/
def aged (t : Tile) (now : Nat) : Tile := counted (grown t now) now

/-- The tile after the deadlines. -/
def unitOver (t : Tile) (now : Nat) : Tile := (List.range 32).foldl (fun t i => t.endDeadline now i) (aged t now)

/-- A tile that sleeps wakes when a task becomes READY at the end of a deadline. -/
def unitRoused (t : Tile) (now : Nat) : Tile :=
  if (List.range 32).any fun i => ((aged t now).tasks.block i).state != .ready && ((unitOver t now).tasks.block i).state == .ready
  then (unitOver t now).rouse now else unitOver t now

theorem timerUnit_eq {s : State} (hm : s.tick % 64 = 0) (hu : (s.tileAt s.ev.tile).tasks.unitTick < s.tick) (ht : (s.tileAt s.ev.tile).tasked = true)
    (hl : ((s.tileAt s.ev.tile).bank 0).life ≠ .halted) : exec .timerUnit s = .next (s.onTile s.ev.tile fun t => unitRoused t s.tick) := by
  have hruns : ¬(s.tick % 64 ≠ 0 ∨ s.tick ≤ (s.tileAt s.ev.tile).tasks.unitTick ∨ (!(s.tileAt s.ev.tile).tasked) = true
      ∨ ((s.tileAt s.ev.tile).bank 0).life = .halted) :=
    not_or.mpr ⟨not_not.mpr hm, not_or.mpr ⟨Nat.not_le.mpr hu, not_or.mpr ⟨by rw [ht]; exact Bool.false_ne_true, hl⟩⟩⟩
  have hexec : exec .timerUnit s = execTimerUnit s := rfl
  rw [hexec]
  unfold execTimerUnit unitRoused unitOver aged grown counted
  dsimp only
  rw [if_neg hruns]

section
variable (t : Tile) (now : Nat)

theorem unitRoused_frame : Keeps (aged t now) (unitRoused t now) ∧ (unitRoused t now).tasks = (unitOver t now).tasks := by
  have h : Keeps (aged t now) (unitOver t now) := keeps_foldl (fun t i => keeps_endDeadline t now i) _ _
  unfold unitRoused
  split
  · exact ⟨h.trans (keeps_wake ..), wake_tasks ..⟩
  · exact ⟨h, rfl⟩

theorem aged_frame : (aged t now).banks = t.banks ∧ (aged t now).sram = t.sram ∧ (aged t now).tasks.unitTick = now := by
  have h := keeps_grown t now
  obtain ⟨hb, hs, hu, -⟩ := counted_frame (grown t now) now
  unfold aged
  exact ⟨hb.trans h.banks, hs.trans h.sram, hu.trans h.unitTick⟩

variable {t}

theorem aged_runs (hc : t.tasks.current.isSome = true) (hr : t.run ≠ 3) : (aged t now).tasks.runCount = t.tasks.runCount + 1
    ∧ (t.tasks.quantum ≠ 0 → t.tasks.runCount + 1 = t.tasks.quantum → (aged t now).tasks.raisedTimer = true) := by
  have h := keeps_grown t now
  obtain ⟨hn, hq⟩ := counted_runs (t := grown t now) now (by rw [h.current]; exact hc) (by rw [h.run]; exact hr)
  rw [h.quantum, h.runCount] at hq
  unfold aged
  exact ⟨hn.trans (congrArg (· + 1) h.runCount), hq⟩

variable {i : Nat} (hi : i < 32)
include hi

/-- The block of a task after the ages. -/
theorem aged_block (t : Tile) : ∃ u : Tile, u.tasks.block i = t.tasks.block i ∧ (aged t now).tasks.block i = (u.ageTask now i).tasks.block i := by
  obtain ⟨u, hu, hb⟩ := pass_block (f := fun t i => t.ageTask now i) (fun t _ _ hj => ageTask_other t now hj) (t.onTasks fun k => { k with unitTick := now }) hi hi le_rfl
  exact ⟨u, hu, ((counted_frame ..).2.2.2 i).trans hb⟩

/-- The block of a task after the unit. -/
theorem unit_block (t : Tile) : ∃ u : Tile, u.tasks.block i = (aged t now).tasks.block i ∧ (unitRoused t now).tasks.block i = (u.endDeadline now i).tasks.block i := by
  obtain ⟨u, hu, hb⟩ := pass_block (f := fun t i => t.endDeadline now i) (fun t _ _ hj => endDeadline_other t now hj) (aged t now) hi hi le_rfl
  exact ⟨u, hu, by rw [(unitRoused_frame t now).2]; exact hb⟩

theorem unit_ready (hs : (t.tasks.block i).state = .ready) (he : (t.tasks.block i).eprio ≠ 3) : let b := (unitRoused t now).tasks.block i
    b.state = .ready ∧ ((t.tasks.block i).age + 1 < 4096 → b.age = (t.tasks.block i).age + 1 ∧ b.eprio = (t.tasks.block i).eprio)
      ∧ (4096 ≤ (t.tasks.block i).age + 1 → b.age = 0 ∧ b.eprio = (t.tasks.block i).eprio + 1) := by
  intro b
  obtain ⟨u, hu, ha⟩ := aged_block now hi t
  obtain ⟨v, hv, hb⟩ := unit_block now hi t
  rw [← hu] at hs he ⊢
  rcases Nat.lt_or_ge ((u.tasks.block i).age + 1) 4096 with hage | hage
  · rw [ageTask_young hs he hage] at ha
    obtain ⟨d, hd⟩ := endDeadline_ready now (t := v) (i := i) (by rw [hv, ha]; exact hs)
    have hbl : b = _ := hb.trans hd
    rw [hbl, hv, ha]
    exact ⟨hs, fun _ => ⟨rfl, rfl⟩, fun h => absurd hage (Nat.not_lt.mpr h)⟩
  · rw [ageTask_old hs he hage] at ha
    obtain ⟨d, hd⟩ := endDeadline_ready now (t := v) (i := i) (by rw [hv, ha])
    have hbl : b = _ := hb.trans hd
    rw [hbl, hv, ha]
    exact ⟨rfl, fun h => absurd h (Nat.not_lt.mpr hage), fun _ => ⟨rfl, rfl⟩⟩

section
variable (hs : (t.tasks.block i).state = .sleep)
include hs

/-- A task that sleeps comes to the deadlines as it was. -/
theorem unit_sleeper : ∃ u : Tile, u.tasks.block i = t.tasks.block i ∧ (unitRoused t now).tasks.block i = (u.endDeadline now i).tasks.block i := by
  obtain ⟨u, hu, ha⟩ := aged_block now hi t
  obtain ⟨v, hv, hb⟩ := unit_block now hi t
  rw [ageTask_unready (by rw [hu, hs]; exact TaskState.noConfusion), hu] at ha
  exact ⟨v, hv.trans ha, hb⟩

theorem unit_sleep {n : Nat} (hd : (t.tasks.block i).deadline = some n) : let b := (unitRoused t now).tasks.block i
    (1 < n → b.state = .sleep ∧ b.deadline = some (n - 1)) ∧ (n ≤ 1 → b.state = .ready ∧ b.deadline = none) := by
  intro b
  obtain ⟨v, hv, hb⟩ := unit_sleeper now hi hs
  have hbl : b = _ := hb
  rw [← hv] at hs hd
  refine ⟨fun hn => ?_, fun hn => ?_⟩
  · rw [hbl, endDeadline_nears now hd hn]
    exact ⟨hs, rfl⟩
  · rw [hbl, endDeadline_ends now hs hd hn]
    exact ⟨rfl, rfl⟩

theorem unit_forever (hd : (t.tasks.block i).deadline = none) : ((unitRoused t now).tasks.block i).state = .sleep := by
  obtain ⟨v, hv, hb⟩ := unit_sleeper now hi hs
  rw [hb, endDeadline_forever now (by rw [hv]; exact hd), hv, hs]

end

end

end Sys2Proof.Proofs.TimerUnits
end

section
/-! PROOF. Messages and contexts that arrive for a task, and the ends of creates, saves and loads (R394, R399, R402, R405, R409). -/

namespace Sys2Proof.Proofs.TaskArrivals

open Sys2Proof Sys2Proof.Machine Sys2Proof.Laws Sys2Proof.Proofs.Tasks Sys2Proof.Proofs.TaskLeave

/-! ## Messages (R399) -/

theorem tileAt_of_tiles {s u : State} (h : u.tiles = s.tiles) (a : Nat) : u.tileAt a = s.tileAt a := congrArg (findTile a) h

theorem putOp_tileTasks (s : State) (a b : Nat) (o : DlOp) : ((s.putOp a o).tileAt b).tasks = (s.tileAt b).tasks := by
  unfold State.putOp
  by_cases h : b = a
  · rw [h, tileAt_onTile, putOp_tasks]
  · rw [tileAt_onTile_other s _ h]

/-- The acceptance of a packet is told to its sender, and no task of a tile changes. -/
theorem msgAccepted_tasks (s : State) (p : Packet) (a : Nat) : ((s.msgAccepted p).tileAt a).tasks = (s.tileAt a).tasks := by
  have hdone : ((s.packetDone p).tileAt a).tasks = (s.tileAt a).tasks := congrArg Tile.tasks (tileAt_of_tiles (Exchange.packetDone_tiles s p) a)
  unfold State.msgAccepted
  dsimp only
  split
  · split
    · exact (putOp_tileTasks ..).trans hdone
    · exact hdone
  · exact hdone

/-- A message in the mailbox of a task. -/
def mailed (t : Tile) (i : Nat) (m : Dword × Dword) : Tile := t.onTasks fun k => k.onBlock i fun b => { b with mail := b.mail ++ [m] }

/-- The tile takes a message: its task is woken, or the task kernel told of it. -/
def messaged (t : Tile) (now i : Nat) (m : Dword × Dword) : Tile :=
  if i = 0 then
    if (mailed t i m).tasks.current.isSome then (mailed t i m).onTasks fun k => k.raiseKmsg now else (mailed t i m).tidleEnd now .kmsg 0
  else ((mailed t i m).wakeTask now i .message).1

theorem raiseKmsg_block (k : Tasks) (now i : Nat) : (k.raiseKmsg now).block i = k.block i := by
  unfold Tasks.raiseKmsg
  split <;> rfl

theorem messaged_mail (t : Tile) (now i : Nat) (m : Dword × Dword) : ((messaged t now i m).tasks.block i).mail = (t.tasks.block i).mail ++ [m] := by
  have hm : ((mailed t i m).tasks.block i).mail = (t.tasks.block i).mail ++ [m] := by rw [mailed, onTasks_tasks, block_onBlock_same]
  unfold messaged
  split
  · split
    · rw [onTasks_tasks, raiseKmsg_block, hm]
    · rw [tidleEnd_tasks, hm]
  · rw [wakeTask_mail, hm]

/-- Is there no such task for a message? -/
def lost (i : Nat) (b : Block) : Bool := match b.state with | .free | .inbound => i != 0 | _ => false

theorem not_lost {i : Nat} {b : Block} (h : i = 0 ∨ b.state ≠ .free ∧ b.state ≠ .inbound) : lost i b = false := by
  unfold lost
  split
  · next hs => exact h.elim (fun h0 => by rw [h0]; rfl) fun hx => absurd hs hx.1
  · next hs => exact h.elim (fun h0 => by rw [h0]; rfl) fun hx => absurd hs hx.2
  · rfl

/-- A message finds the task that it names. -/
theorem message_finds {t : Tile} {i : Nat} (h32 : i < 32) (ha : t.haltedAll = false)
    (ht : i = 0 ∨ (t.tasks.block i).state ≠ .free ∧ (t.tasks.block i).state ≠ .inbound) :
    ¬(32 ≤ i ∨ lost i (t.tasks.block i) = true ∨ t.haltedAll = true) := by
  rw [not_lost ht, ha]
  exact not_or.mpr ⟨Nat.not_le.mpr h32, not_or.mpr ⟨Bool.false_ne_true, Bool.false_ne_true⟩⟩

/-! ## Contexts (R402) -/

/-- The lowest INBOUND block takes the context. -/
theorem find_inbound {t : Tile} {i : Nat} (hi : i < 32) (hs : (t.tasks.block i).state = .inbound) (hlow : ∀ j < i, (t.tasks.block j).state ≠ .inbound) :
    ((List.range 32).find? fun i => (t.tasks.block i).state == .inbound) = some i := by
  rw [List.find?_range_eq_some]
  exact ⟨by rw [hs]; rfl, List.mem_range.mpr hi, fun j hj => by simpa using hlow j hj⟩

/-- A context in the area of its INBOUND block, whose task is READY. -/
def arrived (t : Tile) (now i : Nat) (pr : BitVec 2) (data : List Byte) : Tile :=
  ((t.engineWrite ((areaSpan (t.tasks.block i).area).zip data)).onTasks fun k => k.onBlock i fun b => { b with bprio := pr, eprio := pr, age := 0, loc := 0 }).makeReady
    now i false

theorem arrived_block (t : Tile) (now i : Nat) (pr : BitVec 2) (data : List Byte) : (arrived t now i pr data).tasks.block i
    = { t.tasks.block i with bprio := pr, eprio := pr, age := 0, loc := 0, state := .ready, deadline := none } := by
  rw [arrived, makeReady_block_same, onTasks_tasks, block_onBlock_same, engineWrite_tasks]

/-! ## Packets for a tile's tasks -/

section
variable {s : State} {p : Packet} (hp : (s.packets.find? fun p => p.id = s.ev.packet) = some p)
include hp

theorem arrivals_absent {h : Nat} (hh : s.absentHint p.launch (s.tileAt p.dst) = some h) :
    exec .messageAccept s = .next (s.packetRefused p h) ∧ exec .contextArrival s = .next (s.packetRefused p h) := by
  show execMessageAccept s = _ ∧ execContextArrival s = _
  unfold execMessageAccept execContextArrival
  rw [hp]
  dsimp only
  rw [hh]
  exact ⟨rfl, rfl⟩

section
variable (hh : s.absentHint p.launch (s.tileAt p.dst) = none)
include hh

theorem arrivals_elsewhere (hl : (s.tileAt p.dst).launch ≠ some p.launch) :
    exec .messageAccept s = .next { s.msgAccepted p with cnt := { s.cnt with disc := s.cnt.disc + 1 } }
      ∧ exec .contextArrival s = .next { s.msgAccepted p with cnt := { s.cnt with disc := s.cnt.disc + 1 } } := by
  show execMessageAccept s = _ ∧ execContextArrival s = _
  unfold execMessageAccept execContextArrival
  rw [hp]
  dsimp only
  rw [hh]
  exact ⟨if_pos hl, if_pos hl⟩

variable (hl : (s.tileAt p.dst).launch = some p.launch)
include hl

theorem arrivals_frozen (hf : (s.tileAt p.dst).frozen = true) :
    exec .messageAccept s = .next (s.packetRefused p 4096) ∧ exec .contextArrival s = .next (s.packetRefused p 4096) := by
  show execMessageAccept s = _ ∧ execContextArrival s = _
  unfold execMessageAccept execContextArrival
  rw [hp]
  dsimp only
  rw [hh]
  dsimp only
  rw [if_neg (not_not.mpr hl), if_neg (not_not.mpr hl), if_pos hf, if_pos hf]
  exact ⟨rfl, rfl⟩

variable (hf : (s.tileAt p.dst).frozen = false)
include hf

section
variable {i : Nat} (hi : p.task.getD 0 = i) (h32 : i < 32) (ha : (s.tileAt p.dst).haltedAll = false)
  (ht : i = 0 ∨ ((s.tileAt p.dst).tasks.block i).state ≠ .free ∧ ((s.tileAt p.dst).tasks.block i).state ≠ .inbound)
include hi h32 ha ht

theorem messageAccept_full (hm : 4 ≤ ((s.tileAt p.dst).tasks.block i).mail.length) : exec .messageAccept s = .next (s.packetRefused p 256) := by
  show execMessageAccept s = _
  unfold execMessageAccept
  rw [hp]
  dsimp only
  rw [hh]
  dsimp only
  rw [if_neg (not_not.mpr hl), if_neg (Bool.eq_false_iff.mp hf), hi]
  exact (if_neg (message_finds h32 ha ht)).trans (if_pos hm)

theorem messageAccept_mails (hm : ((s.tileAt p.dst).tasks.block i).mail.length < 4) : ∃ u, exec .messageAccept s = .next u
    ∧ ((u.tileAt p.dst).tasks.block i).mail
      = ((s.tileAt p.dst).tasks.block i).mail ++ [(BitVec.ofNat 64 (leNat (p.data.take 8)), BitVec.ofNat 64 (leNat (p.data.drop 8)))] := by
  let m : Dword × Dword := (BitVec.ofNat 64 (leNat (p.data.take 8)), BitVec.ofNat 64 (leNat (p.data.drop 8)))
  refine ⟨((s.onTile p.dst fun t => messaged t s.tick i m).onTile p.dst fun t => t.rouse s.tick).msgAccepted p, ?_, ?_⟩
  · show execMessageAccept s = _
    unfold execMessageAccept
    rw [hp]
    dsimp only
    rw [hh]
    dsimp only
    rw [if_neg (not_not.mpr hl), if_neg (Bool.eq_false_iff.mp hf), hi]
    exact (if_neg (message_finds h32 ha ht)).trans (if_neg (Nat.not_le.mpr hm))
  · rw [msgAccepted_tasks, tileAt_onTile, tileAt_onTile]
    have hr : (Tile.rouse { messaged (s.tileAt p.dst) s.tick i m with addr := p.dst } s.tick).tasks = (messaged (s.tileAt p.dst) s.tick i m).tasks := wake_tasks ..
    dsimp only
    rw [hr, messaged_mail]

end

theorem contextArrival_full (hn : ∀ i, i < 32 → ((s.tileAt p.dst).tasks.block i).state ≠ .inbound) (ha : (s.tileAt p.dst).haltedAll = false) :
    exec .contextArrival s = .next (s.packetRefused p 1024) := by
  have hfind : ((List.range 32).find? fun i => ((s.tileAt p.dst).tasks.block i).state == .inbound) = none :=
    List.find?_eq_none.mpr fun i hi => by simpa using hn i (List.mem_range.mp hi)
  show execContextArrival s = _
  unfold execContextArrival
  rw [hp]
  dsimp only
  rw [hh]
  dsimp only
  rw [if_neg (not_not.mpr hl), if_neg (Bool.eq_false_iff.mp hf), hfind]
  exact if_neg (Bool.eq_false_iff.mp ha)

theorem contextArrival_enters {i : Nat} (hi : i < 32) (hs : ((s.tileAt p.dst).tasks.block i).state = .inbound)
    (hlow : ∀ j < i, ((s.tileAt p.dst).tasks.block j).state ≠ .inbound) :
    ∃ u, exec .contextArrival s = .next u ∧ ((u.tileAt p.dst).tasks.block i).state = .ready ∧ ((u.tileAt p.dst).tasks.block i).loc = 0
      ∧ ((u.tileAt p.dst).tasks.block i).bprio = BitVec.ofNat 2 (leNat ((p.data.drop 0x104).take 1)) := by
  refine ⟨(s.onTile p.dst fun t => (arrived t s.tick i (BitVec.ofNat 2 (leNat ((p.data.drop 0x104).take 1))) p.data).rouse s.tick).msgAccepted p, ?_, ?_⟩
  · show execContextArrival s = _
    unfold execContextArrival
    rw [hp]
    dsimp only
    rw [hh]
    dsimp only
    rw [if_neg (not_not.mpr hl), if_neg (Bool.eq_false_iff.mp hf), find_inbound hi hs hlow]
    rfl
  · rw [msgAccepted_tasks, tileAt_onTile]
    dsimp only [Tile.rouse]
    rw [wake_tasks, arrived_block]
    exact ⟨rfl, rfl, rfl⟩

end

end

end Sys2Proof.Proofs.TaskArrivals
end

section
/-! PROOF. The ends of creates, saves and loads of tasks, and the context that a save keeps and a load gives back (R394, R405, R409). -/

namespace Sys2Proof.Proofs.TaskContexts

open Sys2Proof Sys2Proof.Machine Sys2Proof.Laws Sys2Proof.Proofs.Tasks Sys2Proof.Proofs.TaskLeave

/-! ## Creates (R405) -/

/-- The control block of a new task, which keeps the messages that its id has. -/
def newBlock (o : DlOp) (mail : List (Dword × Dword)) : Block :=
  { bprio := BitVec.ofNat 2 (busBits o.c 9 8), eprio := BitVec.ofNat 2 (busBits o.c 9 8), area := busBits o.c 50 32, mail := mail }

/-- The tile with the task that a create has made. -/
def created (t : Tile) (now : Nat) (o : DlOp) : Tile :=
  ((t.engineWrite ((areaSpan (busBits o.c 50 32)).zip (spawnBytes o))).onTasks fun k =>
    { k.setBlock (busBits o.c 4 0) (newBlock o (k.block (busBits o.c 4 0)).mail) with work := none }).makeReady now (busBits o.c 4 0) false

theorem created_work (t : Tile) (now : Nat) (o : DlOp) : (created t now o).tasks.work = none := (keeps_makeReady ..).work

theorem created_block (t : Tile) (now : Nat) (o : DlOp) : (created t now o).tasks.block (busBits o.c 4 0) =
    { newBlock o (t.tasks.block (busBits o.c 4 0)).mail with state := .ready } := by
  rw [created, makeReady_block_same, onTasks_tasks, engineWrite_tasks]
  exact congrArg (fun b : Block => { b with state := .ready, deadline := none }) (block_setBlock_same t.tasks _ (newBlock o _))

theorem spawnCreateEnd_creates {s : State} {id e : Nat} {o : DlOp} (hw : (s.tileAt s.ev.tile).tasks.work = some (.create id e)) (he : e ≤ s.tick)
    (ho : (s.tileAt s.ev.tile).op? id = some o) : exec .spawnCreateEnd s =
      .next (s.onTile s.ev.tile fun t => (created t s.tick o).tkDone o (s.tick + 1) none (tkStatus false false false)) := by
  show execSpawnCreateEnd s = _
  unfold execSpawnCreateEnd
  dsimp only
  rw [hw]
  dsimp only
  rw [if_neg (Nat.not_lt.mpr he), ho]
  rfl

/-! ## Saves (R409) -/

/-- The context of a task in its save area. -/
def written (t : Tile) (u : Nat) (k : BitVec 2) : Tile :=
  t.engineWrite ((areaSpan (t.tasks.block u).area).zip (contextBytes (t.bank k) (t.tasks.block u).bprio u))

theorem written_tasks (t : Tile) (u : Nat) (k : BitVec 2) : (written t u k).tasks = t.tasks := engineWrite_tasks ..

theorem written_queue (t : Tile) (u : Nat) (k : BitVec 2) : (written t u k).queue = t.queue := (LocalMemory.engineWrite_queue ..).1

/-- The tile when a save has ended: the context is written, the bank is clear, the task keeps its state. -/
def saved (t : Tile) (u : Nat) (k : BitVec 2) : Tile :=
  (((written t u k).storeCauses k u).clearBank k {}).onTasks fun q => { q.onBlock u (fun b => { b with loc := 0, state := b.kept }) with work := none }

theorem saved_block (t : Tile) (u : Nat) (k : BitVec 2) : (saved t u k).tasks.block u = { t.tasks.block u with loc := 0, state := (t.tasks.block u).kept } := by
  rw [saved, onTasks_tasks]
  refine (block_onBlock_same (((written t u k).storeCauses k u).clearBank k {}).tasks u fun b => { b with loc := 0, state := b.kept }).trans ?_
  rw [clearBank_tasks, storeCauses_block, written_tasks]

theorem saved_bank (t : Tile) (u : Nat) (k : BitVec 2) : (saved t u k).bank k = {} := by rw [saved, onTasks_bank, clearBank_bank]

theorem saved_sram (t : Tile) (u : Nat) (k : BitVec 2) : (saved t u k).sram = (written t u k).sram := by
  rw [saved, onTasks_sram, clearBank_sram, storeCauses_sram]

theorem saved_work (t : Tile) (u : Nat) (k : BitVec 2) : (saved t u k).tasks.work = none := by rw [saved, onTasks_tasks]

theorem saved_op? (t : Tile) (u : Nat) (k : BitVec 2) (op : Nat) : (saved t u k).op? op = t.op? op := by
  rw [Tile.op?, Tile.op?, saved, onTasks_queue, clearBank_queue, storeCauses_queue, written_queue]

/-- A task that was READY enters its level again. -/
def requeued (t : Tile) (u : Nat) (st : TaskState) : Tile := if st = .ready then t.onTasks fun q => q.enter u false else t

/-- The load that a save was made for begins. -/
def loadNext (t : Tile) (op : Nat) (k : BitVec 2) (now : Nat) : Tile :=
  match t.op? op with
  | some o => t.startLoad op (busBits o.a 31 0) k (now + 8)
  | none => t

section
variable {s : State} {op u k e : Nat}

theorem taskSaveEnd_saves (hw : (s.tileAt s.ev.tile).tasks.work = some (.save op u k e)) (he : e ≤ s.tick) : exec .taskSaveEnd s =
    .next (s.onTile s.ev.tile fun t =>
      loadNext ((requeued (saved t u (BitVec.ofNat 2 k)) u (t.tasks.block u).kept).applyWakes s.tick u) op (BitVec.ofNat 2 k) s.tick) := by
  show execTaskSaveEnd s = _
  unfold execTaskSaveEnd
  dsimp only
  rw [hw]
  dsimp only
  rw [if_neg (Nat.not_lt.mpr he)]
  rfl

end

/-- A save of a parked task for which no wake was recorded. -/
def parked (t : Tile) (u : Nat) (k : BitVec 2) : Tile := (saved t u k).onTasks fun q => q.onBlock u fun b => { b with recorded := [] }

section
variable {t : Tile} {u : Nat}

theorem parked_eq (k : BitVec 2) (now : Nat) (hk : (t.tasks.block u).kept = .parked) (hr : (t.tasks.block u).recorded = []) :
    (requeued (saved t u k) u (t.tasks.block u).kept).applyWakes now u = parked t u k := by
  have hq : requeued (saved t u k) u (t.tasks.block u).kept = saved t u k := by
    rw [requeued, hk]
    exact if_neg TaskState.noConfusion
  rw [hq]
  exact applyWakes_of_none (by rw [saved_block]; exact hr) now

theorem parked_block (k : BitVec 2) (hk : (t.tasks.block u).kept = .parked) : ((parked t u k).tasks.block u).loc = 0
    ∧ ((parked t u k).tasks.block u).state = .parked := by
  rw [parked, onTasks_tasks, block_onBlock_same, saved_block]
  exact ⟨rfl, hk⟩

theorem parked_frame (t : Tile) (u : Nat) (k : BitVec 2) : (parked t u k).sram = (written t u k).sram ∧ (parked t u k).bank k = {}
    ∧ (parked t u k).tasks.work = none ∧ ∀ op, (parked t u k).op? op = t.op? op := by
  unfold parked
  rw [onTasks_sram, onTasks_bank, onTasks_tasks, saved_sram, saved_bank]
  exact ⟨rfl, rfl, saved_work t u k, saved_op? t u k⟩

theorem loadNext_none {op now : Nat} {k : BitVec 2} (h : t.op? op = none) : loadNext t op k now = t := by
  rw [loadNext, h]

theorem loadNext_some {op now : Nat} {k : BitVec 2} {o : DlOp} (h : t.op? op = some o) :
    loadNext t op k now = t.startLoad op (busBits o.a 31 0) k (now + 8) := by
  rw [loadNext, h]

theorem startLoad_block (op id j : Nat) (k : BitVec 2) (e : Nat) :
    (t.startLoad op id k e).tasks.block j = (t.tasks.onBlock id fun b => { b with state := .loading }).block j := rfl

theorem startLoad_other (op id : Nat) (k : BitVec 2) (e : Nat) (h : u % 32 ≠ id % 32) : (t.startLoad op id k e).tasks.block u = t.tasks.block u := by
  rw [startLoad_block, block_onBlock_other _ h]

theorem startLoad_loc (op id : Nat) (k : BitVec 2) (e : Nat) : ((t.startLoad op id k e).tasks.block u).loc = (t.tasks.block u).loc := by
  by_cases h : u % 32 = id % 32
  · rw [block_congr _ h, block_congr t.tasks h, startLoad_block, block_onBlock_same]
  · rw [startLoad_other op id k e h]

theorem loadNext_loc (op now : Nat) (k : BitVec 2) : ((loadNext t op k now).tasks.block u).loc = (t.tasks.block u).loc := by
  unfold loadNext
  split
  · exact startLoad_loc ..
  · rfl

theorem loadNext_frame (t : Tile) (op now : Nat) (k j : BitVec 2) : (loadNext t op k now).sram = t.sram ∧ (loadNext t op k now).bank j = t.bank j := by
  unfold loadNext
  split
  · exact ⟨rfl, rfl⟩
  · exact ⟨rfl, rfl⟩

end

theorem taskSaveEnd_spec {s : State} {op u k e : Nat} : let t := s.tileAt s.ev.tile
    t.tasks.work = some (.save op u k e) → e ≤ s.tick → (t.tasks.block u).kept = .parked → (t.tasks.block u).recorded = [] →
      ∃ z, exec .taskSaveEnd s = .next z ∧ (z.tileAt s.ev.tile).sram
        = (t.engineWrite ((areaSpan (t.tasks.block u).area).zip (contextBytes (t.bank (BitVec.ofNat 2 k)) (t.tasks.block u).bprio u))).sram
      ∧ (z.tileAt s.ev.tile).bank (BitVec.ofNat 2 k) = {} ∧ ((z.tileAt s.ev.tile).tasks.block u).loc = 0
      ∧ (t.op? op = none → (z.tileAt s.ev.tile).tasks.work = none ∧ ((z.tileAt s.ev.tile).tasks.block u).state = .parked)
      ∧ (∀ o, t.op? op = some o → let id := busBits o.a 31 0
          (z.tileAt s.ev.tile).tasks.work = some (.load op id (BitVec.ofNat 2 k).toNat (s.tick + 8)) ∧ ((z.tileAt s.ev.tile).tasks.block id).state = .loading
          ∧ (id % 32 ≠ u % 32 → ((z.tileAt s.ev.tile).tasks.block u).state = .parked)) := by
  intro t hw he hk hr
  refine ⟨_, taskSaveEnd_saves hw he, ?_⟩
  rw [tileAt_onTile, parked_eq _ _ hk hr]
  obtain ⟨hloc, hstate⟩ := parked_block (BitVec.ofNat 2 k) hk
  obtain ⟨hsram, hbank, hwork, hop⟩ := parked_frame t u (BitVec.ofNat 2 k)
  have hfinds := hop op
  generalize parked t u (BitVec.ofNat 2 k) = v at hloc hstate hsram hbank hwork hfinds ⊢
  obtain ⟨hsram', hbank'⟩ := loadNext_frame v op s.tick (BitVec.ofNat 2 k) (BitVec.ofNat 2 k)
  refine ⟨hsram'.trans hsram, hbank'.trans hbank, (loadNext_loc ..).trans hloc, fun ho => ?_, fun o ho => ?_⟩
  · rw [loadNext_none (hfinds.trans ho)]
    exact ⟨hwork, hstate⟩
  · rw [loadNext_some (hfinds.trans ho)]
    exact ⟨rfl, startLoad_loading .., fun hne => (congrArg Block.state (startLoad_other _ _ _ _ hne.symm)).trans hstate⟩

/-! ## Loads (R409) -/

section
variable {s : State} {op i k e : Nat}

theorem taskLoadEnd_waits (hw : (s.tileAt s.ev.tile).tasks.work = some (.load op i k e)) (hr : (s.tileAt s.ev.tile).run = 3) :
    exec .taskLoadEnd s = .next s := by
  show execTaskLoadEnd s = _
  unfold execTaskLoadEnd
  dsimp only
  rw [hw]
  exact if_pos (Or.inr hr)

/-- The tile with the context of a task in its bank. -/
def loaded (t : Tile) (i : Nat) (k : BitVec 2) (b : Strand) : Tile :=
  ((t.clearBank k b).onTasks fun q => { q.onBlock i (fun b => { b with loc := k, state := .running }) with work := none }).loadCauses k i

theorem loaded_block (t : Tile) (i : Nat) (k : BitVec 2) (b : Strand) :
    (loaded t i k b).tasks.block i = { t.tasks.block i with loc := k, state := .running } := by
  rw [loaded, loadCauses_block, onTasks_tasks, clearBank_tasks]
  exact block_onBlock_same t.tasks i fun b => { b with loc := k, state := .running }

theorem loaded_bank (t : Tile) (i : Nat) (k : BitVec 2) (b : Strand) : (loaded t i k b).bank k = b := by
  rw [loaded, loadCauses_bank, onTasks_bank, clearBank_bank]

theorem loaded_ready (t : Tile) (i : Nat) (k : BitVec 2) (b : Strand) : (loaded t i k b).ready = t.ready := by
  rw [loaded, loadCauses_ready, onTasks_ready, clearBank_ready]

theorem bank_withAddr (t : Tile) (a : Nat) (j : BitVec 2) : Tile.bank { t with addr := a } j = t.bank j := rfl

/-- A switch keeps the banks; the task's own runs, 4 ticks later. -/
theorem switchTo_frame (t : Tile) (now i : Nat) : (∀ j, (t.switchTo now i).bank j = t.bank j) ∧ (t.switchTo now i).tasks.current = some i
    ∧ (t.switchTo now i).run = (t.tasks.block i).loc ∧ (t.switchTo now i).ready = max t.ready (now + 4) := ⟨fun _ => rfl, rfl, rfl, rfl⟩

theorem taskLoadEnd_loads (hw : (s.tileAt s.ev.tile).tasks.work = some (.load op i k e)) (he : e ≤ s.tick) (hr : (s.tileAt s.ev.tile).run ≠ 3) :
    let r := s.sramRead s.ev.tile (areaSpan ((s.tileAt s.ev.tile).tasks.block i).area)
    exec .taskLoadEnd s = .next (r.2.onTile s.ev.tile fun t =>
      ((loaded t i (BitVec.ofNat 2 k) (contextStrand r.1)).applyWakes s.tick i).switchTo s.tick i) := by
  show execTaskLoadEnd s = _
  unfold execTaskLoadEnd
  dsimp only
  rw [hw]
  exact if_neg (not_or.mpr ⟨Nat.not_lt.mpr he, hr⟩)

/-- A read of local SRAM changes in its tile only the words in error and the count of errors. -/
theorem sramRead_tile (s : State) (a : Nat) (ps : List Nat) : ∃ l e, (s.sramRead a ps).2.tileAt a = { s.tileAt a with soft := l, errs := e } := by
  obtain ⟨h, -⟩ := TileEvents.correct_eq s a ps
  unfold State.sramRead
  dsimp only
  split
  · exact h
  · exact h

theorem taskLoadEnd_spec (hw : (s.tileAt s.ev.tile).tasks.work = some (.load op i k e)) (he : e ≤ s.tick) (hrun : (s.tileAt s.ev.tile).run ≠ 3)
    (hrec : ((s.tileAt s.ev.tile).tasks.block i).recorded = []) : ∃ z, exec .taskLoadEnd s = .next z
      ∧ (z.tileAt s.ev.tile).bank (BitVec.ofNat 2 k) = contextStrand (s.sramRead s.ev.tile (areaSpan ((s.tileAt s.ev.tile).tasks.block i).area)).1
      ∧ (z.tileAt s.ev.tile).tasks.current = some i ∧ ((z.tileAt s.ev.tile).tasks.block i).state = .running ∧ (z.tileAt s.ev.tile).run = BitVec.ofNat 2 k
      ∧ (z.tileAt s.ev.tile).ready = max (s.tileAt s.ev.tile).ready (s.tick + 4) := by
  refine ⟨_, taskLoadEnd_loads hw he hrun, ?_⟩
  obtain ⟨l, e', ht⟩ := sramRead_tile s s.ev.tile (areaSpan ((s.tileAt s.ev.tile).tasks.block i).area)
  generalize s.sramRead s.ev.tile (areaSpan ((s.tileAt s.ev.tile).tasks.block i).area) = r at ht ⊢
  rw [tileAt_onTile]
  have htasks : (r.2.tileAt s.ev.tile).tasks = (s.tileAt s.ev.tile).tasks := (congrArg Tile.tasks ht).trans rfl
  have hready : (r.2.tileAt s.ev.tile).ready = (s.tileAt s.ev.tile).ready := (congrArg Tile.ready ht).trans rfl
  generalize r.2.tileAt s.ev.tile = t at htasks hready ⊢
  rw [← htasks] at hrec
  rw [applyWakes_of_none (by rw [loaded_block]; exact hrec), ← hready]
  obtain ⟨hbank, hcurrent, hrun', hready'⟩ := switchTo_frame ((loaded t i (BitVec.ofNat 2 k) (contextStrand r.1)).onTasks fun q =>
    q.onBlock i fun b => { b with recorded := [] }) s.tick i
  rw [onTasks_tasks, block_onBlock_same, loaded_block] at hrun'
  rw [onTasks_ready, loaded_ready] at hready'
  have hcontext := hbank (BitVec.ofNat 2 k)
  rw [onTasks_bank, loaded_bank] at hcontext
  rw [bank_withAddr]
  dsimp only
  exact ⟨hcontext, hcurrent, switchTo_running _ s.tick i, hrun', hready'⟩

end

end Sys2Proof.Proofs.TaskContexts
end

section
/-! PROOF. A saved context gives the strand back (R394, Table 17.2), and a pre-empted launch leaves its cluster (R436). -/

namespace Sys2Proof.Proofs.SavedContexts

open Sys2Proof Sys2Proof.Machine Sys2Proof.Laws Sys2Proof.Proofs

/-! ## The context of a strand (Table 17.2) -/

/-- The registers of a context. -/
def contextRegs (b : Strand) : List Byte := b.g.toList.flatMap fun g => natLe g.toNat 8

/-- What follows the registers. -/
def contextRest (b : Strand) (p : BitVec 2) (id : Nat) : List Byte :=
  natLe b.pc.toNat 4 ++ [BitVec.ofNat 8 p.toNat, b.b &&& 0xFE] ++ natLe id 2 ++ natLe b.fmt.toNat 2 ++ [BitVec.ofNat 8 b.flags.toNat] ++ List.replicate 5 0

theorem contextBytes_eq (b : Strand) (p : BitVec 2) (id : Nat) : contextBytes b p id = contextRegs b ++ contextRest b p id := by
  simp only [contextBytes, contextRegs, contextRest, List.append_assoc]

theorem flatMap_length {α : Type} {f : α → List Byte} (hf : ∀ x, (f x).length = 8) (l : List α) : (l.flatMap f).length = 8 * l.length := by
  induction l with
  | nil => rfl
  | cons x l ih => rw [List.flatMap_cons, List.length_append, hf, ih, List.length_cons]; omega

/-- Of values of 8 bytes in a row, the one at its place. -/
theorem flatMap_slice {α : Type} {f : α → List Byte} (hf : ∀ x, (f x).length = 8) :
    ∀ (l : List α) (i : Nat) (h : i < l.length), ((l.flatMap f).drop (8 * i)).take 8 = f l[i]
  | x :: l, 0, _ => by
    rw [List.flatMap_cons, Nat.mul_zero, List.drop_zero, List.take_left' (hf x), List.getElem_cons_zero]
  | x :: l, i + 1, h => by
    rw [List.flatMap_cons, show 8 * (i + 1) = (f x).length + 8 * i by rw [hf]; omega, List.drop_length_add_append, List.getElem_cons_succ]
    exact flatMap_slice hf l i (Nat.lt_of_succ_lt_succ h)

theorem contextRegs_length (b : Strand) : (contextRegs b).length = 256 := by
  rw [contextRegs, flatMap_length fun g : Dword => Launches.natLe_length 8 g.toNat, Vector.length_toList]

theorem contextRest_length (b : Strand) (p : BitVec 2) (id : Nat) : (contextRest b p id).length = 16 := by
  simp [contextRest, Launches.natLe_length]

theorem contextBytes_length (b : Strand) (p : BitVec 2) (id : Nat) : (contextBytes b p id).length = 272 := by
  rw [contextBytes_eq, List.length_append, contextRegs_length, contextRest_length]

/-- A register of the context. -/
theorem context_reg (b : Strand) (p : BitVec 2) (id : Nat) {i : Nat} (hi : i < 32) :
    ((contextBytes b p id).drop (8 * i)).take 8 = natLe (b.g[i]).toNat 8 := by
  have hl : 8 ≤ ((contextRegs b).drop (8 * i)).length := by rw [List.length_drop, contextRegs_length]; omega
  rw [contextBytes_eq, List.drop_append_of_le_length (by rw [contextRegs_length]; omega), List.take_append_of_le_length hl,
    contextRegs, flatMap_slice (fun g : Dword => Launches.natLe_length 8 g.toNat) _ i (by rw [Vector.length_toList]; exact hi), Vector.getElem_toList]

/-- A field behind the registers. -/
theorem context_rest (b : Strand) (p : BitVec 2) (id off : Nat) : (contextBytes b p id).drop (256 + off) = (contextRest b p id).drop off := by
  rw [contextBytes_eq, ← contextRegs_length b, List.drop_length_add_append]

/-- A word that was written in enough bytes reads back. -/
theorem ofNat_leNat_natLe {w n : Nat} (x : BitVec w) (h : w ≤ 8 * n) : BitVec.ofNat w (leNat (natLe x.toNat n)) = x := by
  have hlt : x.toNat < 2 ^ (8 * n) := lt_of_lt_of_le x.isLt (Nat.pow_le_pow_right (by decide) h)
  rw [LocalMemory.leNat_natLe, Nat.mod_eq_of_lt hlt, BitVec.ofNat_toNat, BitVec.setWidth_eq]

theorem ofNat_leNat_byte {w : Nat} (x : Byte) : BitVec.ofNat w (leNat [x]) = x.setWidth w := by
  rw [show leNat [x] = x.toNat from rfl, BitVec.ofNat_toNat]

section
variable (b : Strand) (p : BitVec 2) (id : Nat)

theorem context_pc : (contextStrand (contextBytes b p id)).pc = b.pc := by
  have h : ((contextBytes b p id).drop 0x100).take 4 = natLe b.pc.toNat 4 := by
    rw [context_rest b p id 0]
    rfl
  show BitVec.ofNat 32 (leNat (((contextBytes b p id).drop 0x100).take 4)) = _
  rw [h, ofNat_leNat_natLe _ (by decide)]

theorem context_guards : (contextStrand (contextBytes b p id)).b = b.b &&& 0xFE := by
  have h : ((contextBytes b p id).drop 0x105).take 1 = [b.b &&& 0xFE] := by
    rw [context_rest b p id 5]
    rfl
  show BitVec.ofNat 8 (leNat (((contextBytes b p id).drop 0x105).take 1)) &&& 0xFE = _
  rw [h, ofNat_leNat_byte, BitVec.setWidth_eq, BitVec.and_assoc]
  rfl

theorem context_fmt : (contextStrand (contextBytes b p id)).fmt = b.fmt := by
  have h : ((contextBytes b p id).drop 0x108).take 2 = natLe b.fmt.toNat 2 := by
    rw [context_rest b p id 8]
    rfl
  show BitVec.ofNat 13 (leNat (((contextBytes b p id).drop 0x108).take 2)) = _
  rw [h, ofNat_leNat_natLe _ (by decide)]

theorem context_flags : (contextStrand (contextBytes b p id)).flags = b.flags := by
  have h : ((contextBytes b p id).drop 0x10A).take 1 = [BitVec.ofNat 8 b.flags.toNat] := by
    rw [context_rest b p id 10]
    rfl
  show BitVec.ofNat 6 (leNat (((contextBytes b p id).drop 0x10A).take 1)) = _
  rw [h, ofNat_leNat_byte, BitVec.ofNat_toNat, BitVec.setWidth_setWidth_of_le _ (by decide), BitVec.setWidth_eq]

theorem context_g : (contextStrand (contextBytes b p id)).g = b.g := by
  refine Vector.ext fun i hi => ?_
  rw [contextStrand, Vector.getElem_ofFn]
  show BitVec.ofNat 64 (leNat (((contextBytes b p id).drop (8 * i)).take 8)) = _
  rw [context_reg b p id hi, ofNat_leNat_natLe _ (by decide)]

end

/-! ## Pre-emption (R435, R436) -/

theorem leafRelease_launch {s : State} {id : Dword} {c : Nat} {x : Tile} (hx : x ∈ (s.leafRelease id c).tiles) (hc : clusterOf x.addr = c) :
    x.launch ≠ some id := by
  obtain ⟨t, -, rfl⟩ := List.mem_map.mp hx
  by_cases h : clusterOf t.addr = c
  · rw [if_neg (not_not.mpr h)]
    split
    · exact (Option.some_ne_none id).symm
    · next hl => exact hl
  · rw [if_pos h] at hc
    exact absurd hc h

/-- A message that was sent stands in its link, or waits for a permit. -/
theorem sendMsg_sent (s : State) (c : Nat) (l : Dword) (m : LMsg) : ∃ x ∈ (s.sendMsg c l m).sch.msgs, x.cluster = c ∧ x.launch = l ∧ x.msg = m := by
  cases h : s.hasPermit c m.down with
  | true =>
    rw [Launches.sendMsg_of_permit l h]
    exact ⟨_, List.mem_append_right _ (List.mem_singleton_self _), rfl, rfl, rfl⟩
  | false =>
    rw [Launches.sendMsg_waits l h]
    exact ⟨_, List.mem_append_right _ (List.mem_singleton_self _), rfl, rfl, rfl⟩

theorem preemptSave_leaves {s : State} {l : Launch} (hl : s.launch? s.ev.launch = some l) (hs : s.canSave l s.ev.cluster = true) :
    ∃ t, exec .preemptSave s = .next t ∧ (∀ x ∈ t.tiles, clusterOf x.addr = s.ev.cluster → x.launch ≠ some l.id) ∧ (∀ k ∈ t.kiln, k.launch ≠ l.id)
      ∧ ∃ m ∈ t.sch.msgs, m.cluster = s.ev.cluster ∧ m.launch = l.id ∧ m.msg = .halted true := by
  have hexec : exec .preemptSave s = execPreemptSave s := rfl
  rw [hexec]
  unfold execPreemptSave
  rw [hl]
  dsimp only
  rw [if_neg (by rw [hs]; decide)]
  exact ⟨_, rfl, fun x hx hc => leafRelease_launch hx hc, fun k hk => of_decide_eq_true (List.mem_filter.mp hk).2, sendMsg_sent ..⟩

theorem preemptHalt_halts {s : State} (h : s.canPreHalt s.ev.tile = true) : exec .preemptHalt s = .next
    ((s.members s.ev.tile).foldl (fun s m => s.onTile m fun t => { t with preHalted := true, frozen := true }) s) := if_pos h

/-- A launch that is placed again is written back where its quads are its own and free. -/
theorem restore_enabled {s : State} {l : Launch} (hp : l.phase = .placing) (hr : l.restoring = true)
    (hx : ∀ x ∈ seatsIn l.seats s.ev.cluster, (s.quadAt x.addr).owner = some l.id ∧ (s.tileAt x.addr).launch = none) :
    ¬(l.phase ≠ .placing ∨ (!l.restoring) = true
      ∨ (!(seatsIn l.seats s.ev.cluster).all fun x => (s.quadAt x.addr).owner = some l.id ∧ (s.tileAt x.addr).launch = none) = true) := by
  have hall : ((seatsIn l.seats s.ev.cluster).all fun x => (s.quadAt x.addr).owner = some l.id ∧ (s.tileAt x.addr).launch = none) = true :=
    List.all_eq_true.mpr fun x h => decide_eq_true (hx x h)
  rw [hr, hall]
  exact not_or.mpr ⟨not_not.mpr hp, not_or.mpr ⟨Bool.false_ne_true, Bool.false_ne_true⟩⟩

end Sys2Proof.Proofs.SavedContexts
end

section
/-! PROOF. The events of tasks, messages, contexts and pre-emption (R394 to R409, R434 to R437). -/

namespace Sys2Proof.Proofs.TaskEvents

open Sys2Proof Sys2Proof.Machine Sys2Proof.Laws Sys2Proof.Proofs.Tasks Sys2Proof.Proofs.TaskLeave Sys2Proof.Proofs.TimerUnits Sys2Proof.Proofs.TaskArrivals
  Sys2Proof.Proofs.TaskContexts Sys2Proof.Proofs.SavedContexts

/-- Settles O59: each event by what its tile, its packet, its launch or its strand has become. -/
theorem taskEvents : Obligations.TaskEvents := by
  refine ⟨fun s => rfl, fun t now u c cs hu hc hq => ?leave, fun s hm hu ht hl => ?unit, fun s p hp => ⟨fun h hh => arrivals_absent hp hh, fun hh => ?packet⟩,
    fun s hy => if_pos hy, fun s hy hm => ?loads, fun s id e o hw he ho => ?create, fun s op u k e => taskSaveEnd_spec, fun s op i k e hw he => ?load,
    fun s => rfl, fun s => preemptHalt_halts, fun s l hl hs => preemptSave_leaves hl hs, fun s l hl hp hr hx => ?restore, fun b p id => ?context⟩
  case leave =>
    obtain ⟨hrun, hcurrent, hasleep, hready, hpend, hraised⟩ := leaveTask_frame (now := now) hq hu hc
    refine ⟨hrun, hcurrent, hasleep, hready, hpend, hraised, fun o ho => leaveTask_resume hq hu hc ho, fun hh => ?halts, fun ha hr hh => ?readies,
      fun ha hr hh => ?sleeps, fun ha hr hh hn hd => ?parks⟩
    case halts =>
      subst hh
      rw [leaveTask_state hu hc (by rw [left_halt]), left_halt]
    case readies =>
      have hb := left_ready (now := now) ha hh
      rw [leaveTask_state hu hc (by rw [hb]; exact hr), hb]
    case sleeps =>
      subst hh
      have hb := left_sleep now ha
      rw [leaveTask_state hu hc (by rw [hb]; exact hr), hb]
    case parks =>
      have hb := left_parked (now := now) ha hh hn hd
      rw [leaveTask_state hu hc (by rw [hb]; exact hr), hb]
  case unit =>
    refine ⟨_, timerUnit_eq hm hu ht hl, ?_⟩
    rw [tileAt_onTile]
    obtain ⟨hkeeps, -⟩ := unitRoused_frame (s.tileAt s.ev.tile) s.tick
    obtain ⟨hbanks, hsram, hunit⟩ := aged_frame (s.tileAt s.ev.tile) s.tick
    dsimp only
    exact ⟨hkeeps.unitTick.trans hunit,
      fun hc hr => ⟨hkeeps.runCount.trans (aged_runs s.tick hc hr).1, fun hq hn => hkeeps.raisedTimer.trans ((aged_runs s.tick hc hr).2 hq hn)⟩,
      fun i hi hs he => unit_ready s.tick hi hs he, fun i n hi hs hd => unit_sleep s.tick hi hs hd, fun i hi hs hd => unit_forever s.tick hi hs hd,
      hkeeps.banks.trans hbanks, hkeeps.sram.trans hsram⟩
  case packet =>
    exact ⟨arrivals_elsewhere hp hh, arrivals_frozen hp hh,
      fun hl hf ha h32 ht => ⟨messageAccept_full hp hh hl hf rfl h32 ha ht, messageAccept_mails hp hh hl hf rfl h32 ha ht⟩,
      fun hl hf hn ha => contextArrival_full hp hh hl hf hn ha, fun i hl hf hi hs hlow => contextArrival_enters hp hh hl hf hi hs hlow⟩
  case loads =>
    show execClusterLoadWrite s = _
    unfold execClusterLoadWrite
    rw [if_neg (Bool.eq_false_iff.mp hy), if_neg (not_not.mpr hm)]
  case create =>
    refine ⟨_, spawnCreateEnd_creates hw he ho, ?_⟩
    rw [tileAt_onTile]
    dsimp only
    rw [tkDone_tasks, created_work, created_block]
    exact ⟨rfl, rfl, rfl, rfl⟩
  case load => exact ⟨taskLoadEnd_waits hw, taskLoadEnd_spec hw he⟩
  case restore =>
    show execRestore s = _
    unfold execRestore
    rw [hl]
    exact if_neg (restore_enabled hp hr hx)
  case context =>
    exact ⟨contextBytes_length b p id, context_g b p id, context_pc b p id, context_guards b p id, context_fmt b p id, context_flags b p id, rfl, rfl, rfl⟩

end Sys2Proof.Proofs.TaskEvents
end
